-- ==== Sys2Proof/Word.lean ====
section
/-! DEFINITION. The word types of the KX960: registers, bytes, lane words and vector registers (R12, R106, R107). -/

namespace Sys2Proof

/-- A general register, a system register, an address or an instruction word (R12, R56). -/
abbrev Word := BitVec 64

/-- The smallest addressable unit (R4). -/
abbrev Byte := BitVec 8

/-- One lane's slice of a vector register (R107). -/
abbrev LaneWord := BitVec 256

/-- A vector register: lane `l` holds bits 256l+255 : 256l (R107). -/
abbrev VecReg := BitVec 4096

/-- A mask register: lane `l` holds bits 64l+63 : 64l (R106, R107). -/
abbrev MaskReg := BitVec 1024

end Sys2Proof
end

