-- ==== Sys2Proof/Cause.lean ====
section
/-! DEFINITION. The 96 cause codes of R400. -/

namespace Sys2Proof

/-- The cause codes 0x00-0x5F, in code order (R400). -/
inductive Cause where
  | zeroWord
  | badOpcode
  | badSlot
  | reservedField
  | badMode
  | hintUnhonoured
  | delayBranch
  | badHeader
  | privileged
  | badImmediate
  | fetchAlign
  | kstoreRange
  | stallShort
  | slotConflict
  | software
  | breakpoint
  | intDivzero
  | intOverflow
  | fpInvalid
  | fpDivzero
  | fpOverflow
  | fpUnderflow
  | fpInexact
  | accExponent
  | formatMismatch
  | scaleNan
  | domainMismatch
  | tileHeader
  | slotOverflow
  | packFlag
  | convertRange
  | transformLength
  | pageNotPresent
  | pageRead
  | pageWrite
  | pageExec
  | rangeLimit
  | rangeOverlap
  | walkError
  | walkPoison
  | asidInvalid
  | aperture
  | noncanonical
  | hostPage
  | galleryCore
  | srfBounds
  | handleInvalid
  | tileCoord
  | misaligned
  | atomicSpace
  | nonmonotone
  | latticeType
  | thresholdTimeout
  | dueRange
  | poisonRead
  | uncorrectedSrf
  | uncorrectedHbm
  | remoteTimeout
  | remoteReject
  | fenceScope
  | mmioWidth
  | writeProtectedCode
  | alignTile
  | atomicType
  | streamDescriptor
  | streamOverlap
  | srfAlloc
  | engineFault
  | copyPoison
  | decompress
  | authFail
  | keySlot
  | tokenUnarmed
  | barrierUnarmed
  | kernelAbort
  | kernelEntry
  | portRing
  | interleaveParam
  | scatterType
  | workRecord
  | waitWatchdog
  | landingLost
  | peerFenced
  | groupAbort
  | preemptRequest
  | contextCorrupt
  | barrierScope
  | laneFailure
  | selftestFail
  | thermal
  | powerCap
  | hostLinkDown
  | debugHalt
  | watchpoint
  | supervisorCall
  | machineCheck
  deriving DecidableEq, Repr

/-- The seven-bit code of a cause: its place in the table of R400. -/
def Cause.code (c : Cause) : BitVec 7 := BitVec.ofNat 7 c.ctorIdx

end Sys2Proof
end

