-- ==== Sys2Proof/Syntax.lean ====
section
/-! DEFINITION. Instruction words by form (R56-R61, R372) and the operations of the opcode table. -/

namespace Sys2Proof

/-- Form R (R58). `fn` holds FN; in vector words its bits are MEN, MSK and SUB (R177). -/
structure RForm where
  guard : BitVec 4
  d : BitVec 6
  a : BitVec 6
  b : BitVec 6
  c : BitVec 6
  fn : BitVec 8
  ty : BitVec 5
  rm : BitVec 3
  sat : BitVec 1
  l : BitVec 1
  hint : BitVec 10
  deriving DecidableEq, Repr

/-- Form I (R58). -/
structure IForm where
  guard : BitVec 4
  d : BitVec 6
  a : BitVec 6
  fn : BitVec 8
  imm : BitVec 32
  deriving DecidableEq, Repr

/-- Form J (R58). -/
structure JForm where
  guard : BitVec 4
  fn : BitVec 4
  d : BitVec 6
  disp : BitVec 42
  deriving DecidableEq, Repr

/-- Form M (R58). -/
structure MForm where
  guard : BitVec 4
  d : BitVec 6
  a : BitVec 6
  b : BitVec 6
  ty : BitVec 5
  ord : BitVec 2
  sc : BitVec 3
  due : BitVec 8
  off : BitVec 16
  deriving DecidableEq, Repr

/-- Form S (R372). `z` is the reserved bit field 4:0. -/
structure SForm where
  guard : BitVec 4
  sd : BitVec 4
  se : BitVec 4
  te : BitVec 1
  tk : BitVec 3
  ga : BitVec 5
  gb : BitVec 5
  gc : BitVec 5
  gd : BitVec 5
  gx : BitVec 5
  gg : BitVec 5
  fn : BitVec 4
  ser : BitVec 1
  z : BitVec 5
  deriving DecidableEq, Repr

/-- A unit of the error log, by class and index (R493). -/
structure ErrUnit where
  cls : BitVec 8
  index : BitVec 32
  deriving DecidableEq, Repr

/-- An access carried over the Kibry link from another package to this one (R442): the request as the
target package sees it. `op` is the opcode of the access (load, store, `amo`, `red`, `cas`, `join`, `ldge`). -/
structure RemoteReq where
  srcPkg : Nat
  srcDie : Nat
  opc : BitVec 8
  aop : BitVec 4
  ty : BitVec 5
  pa : BitVec 54
  mode : BitVec 2
  lattice : BitVec 3
  size : Nat
  /-- The bytes of a store, or the operand, low byte first. -/
  data : List Byte
  cmp : BitVec 64
  deriving DecidableEq, Repr

/-- The internet header of a frame: header length in 32-bit words, lengths in bytes, and the number of the protocol
that follows. -/
inductive IpHeader where
  | v4 (ihl totalLength protocol : Nat)
  | v6 (payloadLength nextHeader : Nat)
  | other
  deriving DecidableEq, Repr

/-- What follows the UDP header: nothing before the ring header, an Ultra Ethernet packet delivery header in unreliable
unordered mode with the outcome of its check, or anything else of that transport (R452). -/
inductive Transport where
  | none
  | unordered (passes : Bool)
  | unsupported
  deriving DecidableEq, Repr

/-- An Ethernet frame by the fields that R452 and R453 name. `payload` starts at the ring header, and `header` counts
the bytes of the transport header before it. -/
structure Frame where
  ethernetII : Bool
  fcsGood : Bool
  ip : IpHeader
  udpPort : BitVec 16
  udpLength : Nat
  transport : Transport
  header : Nat
  payload : List Byte
  deriving DecidableEq, Repr

/-- Where ECC finds an error (R245, R417, R422): in a stack, at an offset; in the SRF of a core, in a codeword with `e`
unknown symbol errors; in the registers of a core's lane; in the CP state of a core; or, corrected, in the unit of a class
that has an index. The offset, codeword, lane, core or index is the second argument of POISON_DETECT. -/
inductive EccError where
  | stack (n : Nat)
  | srf (core e : Nat)
  | lane (core : Nat)
  | cpState
  | corrected (cls : BitVec 8)
  deriving DecidableEq, Repr

/-- A line of a migrating page: its page and the granule that is its home so far (R314). -/
structure LineHome where
  asid : BitVec 16
  va : Nat
  old : Nat
  deriving DecidableEq, Repr

/-- The operations and events of the opcode table, one constructor per row. A word's constructor carries
its form; the function within the major opcode is the constructor itself. -/
inductive Instr where
  /-- ADD (R84): Integer addition of gA and gB, narrowed by intresult under SAT. -/
  | add (w : RForm)
  /-- SUB (R84): Integer subtraction of gB from gA, narrowed by intresult under SAT. -/
  | sub (w : RForm)
  /-- MUL (R84): Integer multiplication, narrowed by intresult under SAT. -/
  | mul (w : RForm)
  /-- MULH (R84): High half of the integer product, floor(a*b/2^n), raising no flag. -/
  | mulh (w : RForm)
  /-- DIV (R84): Integer division truncating toward zero; a zero divisor traps INT_DIVZERO. -/
  | div (w : RForm)
  /-- REM (R84): Integer remainder with the sign of the dividend; a zero divisor traps INT_DIVZERO. -/
  | rem (w : RForm)
  /-- MIN (R84): The lesser of two integers. -/
  | min (w : RForm)
  /-- MAX (R84): The greater of two integers. -/
  | max (w : RForm)
  /-- ABS (R84): Absolute value of a signed integer under SAT. -/
  | abs (w : RForm)
  /-- NEG (R84): Integer negation under SAT. -/
  | neg (w : RForm)
  /-- AND (R85): Bitwise AND of two 64-bit registers. -/
  | and (w : RForm)
  /-- OR (R85): Bitwise OR of two 64-bit registers. -/
  | or (w : RForm)
  /-- XOR (R85): Bitwise XOR of two 64-bit registers. -/
  | xor (w : RForm)
  /-- ANDN (R85): gA AND NOT gB. -/
  | andn (w : RForm)
  /-- SHL (R85): Logical left shift by gB[5:0]. -/
  | shl (w : RForm)
  /-- SHR (R85): Logical right shift by gB[5:0]. -/
  | shr (w : RForm)
  /-- SRA (R85): Arithmetic right shift by gB[5:0]. -/
  | sra (w : RForm)
  /-- BCNT_POP (R85): Counts the one bits of gA. -/
  | bcntPop (w : RForm)
  /-- BCNT_CLZ (R85): Counts the leading zeros of gA, 64 for zero. -/
  | bcntClz (w : RForm)
  /-- BCNT_CTZ (R85): Counts the trailing zeros of gA, 64 for zero. -/
  | bcntCtz (w : RForm)
  /-- ADDI (R86): Adds a 32-bit immediate to gA under the type and SAT in FN. -/
  | addi (w : IForm)
  /-- ANDI (R86): Bitwise AND with a zero-extended immediate. -/
  | andi (w : IForm)
  /-- ORI (R86): Bitwise OR with a zero-extended immediate. -/
  | ori (w : IForm)
  /-- XORI (R86): Bitwise XOR with a zero-extended immediate. -/
  | xori (w : IForm)
  /-- ANDNI (R86): gA AND NOT a zero-extended immediate. -/
  | andni (w : IForm)
  /-- SHLI (R86): Logical left shift by an immediate amount. -/
  | shli (w : IForm)
  /-- SHRI (R86): Logical right shift by an immediate amount. -/
  | shri (w : IForm)
  /-- SRAI (R86): Arithmetic right shift by an immediate amount. -/
  | srai (w : IForm)
  /-- MOVI (R86): Writes an immediate, converted for the type, to gD. -/
  | movi (w : IForm)
  /-- MOVH (R86): Replaces the high 32 bits of gD with the immediate. -/
  | movh (w : IForm)
  /-- LEA (R86): Computes gA + (gB << k) modulo 2^64. -/
  | lea (w : RForm)
  /-- PCREL (R86): Writes PC, or KPC, plus a signed immediate. -/
  | pcrel (w : IForm)
  /-- BFX_Z (R86): Extracts a bit field and zero-extends it. -/
  | bfxZ (w : IForm)
  /-- BFX_S (R86): Extracts a bit field and sign-extends it. -/
  | bfxS (w : IForm)
  /-- BFX_I (R86): Inserts the low bits of gA into a field of gD. -/
  | bfxI (w : IForm)
  /-- CMP (R87): Compares two registers and writes or combines a predicate. -/
  | cmp (w : RForm)
  /-- CMPI (R87): Compares a register with an immediate and writes a predicate. -/
  | cmpi (w : IForm)
  /-- PAND (R88): Predicate AND. -/
  | pand (w : RForm)
  /-- POR (R88): Predicate OR. -/
  | por (w : RForm)
  /-- PXOR (R88): Predicate XOR. -/
  | pxor (w : RForm)
  /-- PANDN (R88): Predicate pA AND NOT pB. -/
  | pandn (w : RForm)
  /-- PORN (R88): Predicate pA OR NOT pB. -/
  | porn (w : RForm)
  /-- PMOV_GET (R88): Copies p7..p0 into bits 7:0 of gD. -/
  | pmovGet (w : RForm)
  /-- PMOV_PUT (R88): Sets p1..p7 from bits of gA. -/
  | pmovPut (w : RForm)
  /-- SEL (R88): Selects gA or gB by a predicate. -/
  | sel (w : RForm)
  /-- FADD (R89): Floating addition rounded once in RM. -/
  | fadd (w : RForm)
  /-- FSUB (R89): Floating subtraction rounded once in RM. -/
  | fsub (w : RForm)
  /-- FMUL (R89): Floating multiplication rounded once in RM. -/
  | fmul (w : RForm)
  /-- FDIV (R89): Floating division rounded once in RM. -/
  | fdiv (w : RForm)
  /-- FSQRT (R89): Floating square root rounded once in RM. -/
  | fsqrt (w : RForm)
  /-- FMA (R89): Fused multiply-add with one rounding. -/
  | fma (w : RForm)
  /-- FMIN (R90): Floating minimum with the NaN rules of its FN. -/
  | fmin (w : RForm)
  /-- FMAX (R90): Floating maximum with the NaN rules of its FN. -/
  | fmax (w : RForm)
  /-- FSGN_CPY (R91): gA with the sign bit of gB. -/
  | fsgnCpy (w : RForm)
  /-- FSGN_NEG (R91): gA with the inverted sign bit of gB. -/
  | fsgnNeg (w : RForm)
  /-- FSGN_XOR (R91): gA with its sign XOR the sign of gB. -/
  | fsgnXor (w : RForm)
  /-- FCLASS (R91): Writes a one-hot class of a floating value. -/
  | fclass (w : RForm)
  /-- CVT (R92): Converts between integer and floating scalar types. -/
  | cvt (w : RForm)
  /-- BR (R93): Unconditional PC-relative branch. -/
  | br (w : JForm)
  /-- CALL (R93): PC-relative branch that writes a link register. -/
  | call (w : JForm)
  /-- JMP (R93): Branch to the address in gA, optionally linking. -/
  | jmp (w : RForm)
  /-- BCZ (R93): Branches when gA meets a condition against zero. -/
  | bcz (w : IForm)
  /-- LOOP (R93): Decrements gD and branches when it is nonzero. -/
  | loop (w : IForm)
  /-- LD (R96): Plain load of 1 to 8 bytes into gD. -/
  | ld (w : MForm)
  /-- ST (R96): Plain store of the low bytes of gD. -/
  | st (w : MForm)
  /-- RDSYS (R99): Reads a system register into gD. -/
  | rdsys (w : IForm)
  /-- WRSYS (R99): Writes gA into a system register. -/
  | wrsys (w : IForm)
  /-- XCHSYS (R99): Swaps a system register with gA in one indivisible step. -/
  | xchsys (w : IForm)
  /-- TRAP_SW (R100): Completes and raises SOFTWARE with DETAIL = IMM. -/
  | trapSw (w : IForm)
  /-- TRAP_CALL (R100): Completes and raises SUPERVISOR_CALL with DETAIL = IMM. -/
  | trapCall (w : IForm)
  /-- BRK (R101): Raises BREAKPOINT without completing. -/
  | brk (w : IForm)
  /-- TRET (R38): Restores mode and interrupt enable and returns to CTPC. -/
  | tret (w : IForm)
  /-- HALT (R103): Ends the core's part in the launch once queue, engines and kernel are drained. -/
  | halt (w : IForm)
  /-- IDLE (R104): Waits until an asynchronous cause is pending. -/
  | idle (w : IForm)
  /-- WORK (R105): Requests the next iteration ordinal from the die's walker. -/
  | work (w : IForm)
  /-- VADD (R180): Element-wise vector addition. -/
  | vadd (w : RForm)
  /-- VSUB (R180): Element-wise vector subtraction. -/
  | vsub (w : RForm)
  /-- VMUL (R180): Element-wise vector multiplication. -/
  | vmul (w : RForm)
  /-- VMULH (R180): High half of element-wise integer products. -/
  | vmulh (w : RForm)
  /-- VFMA (R180): Element-wise a*b + c with one rounding. -/
  | vfma (w : RForm)
  /-- VFMS (R180): Element-wise a*b - c with one rounding. -/
  | vfms (w : RForm)
  /-- VFNMA (R180): Element-wise -a*b + c with one rounding. -/
  | vfnma (w : RForm)
  /-- VFNMS (R180): Element-wise -a*b - c with one rounding. -/
  | vfnms (w : RForm)
  /-- VMIN (R180): Element-wise minimum. -/
  | vmin (w : RForm)
  /-- VMAX (R180): Element-wise maximum. -/
  | vmax (w : RForm)
  /-- VABS (R180): Element-wise absolute value. -/
  | vabs (w : RForm)
  /-- VNEG (R180): Element-wise negation. -/
  | vneg (w : RForm)
  /-- VCLAMP (R180): Element-wise clamp of a between b and c. -/
  | vclamp (w : RForm)
  /-- VSGN_CPY (R180): Element-wise sign copy. -/
  | vsgnCpy (w : RForm)
  /-- VSGN_NEG (R180): Element-wise inverted sign copy. -/
  | vsgnNeg (w : RForm)
  /-- VSGN_XOR (R180): Element-wise sign XOR. -/
  | vsgnXor (w : RForm)
  /-- VRINT (R180): Rounds each element to an integral value without NX. -/
  | vrint (w : RForm)
  /-- VRINT_X (R180): Rounds each element to an integral value, raising NX when changed. -/
  | vrintX (w : RForm)
  /-- VSCALE (R180): Multiplies each element by 2^k with one rounding. -/
  | vscale (w : RForm)
  /-- VFN_DIV (R181): Element-wise correctly rounded division. -/
  | vfnDiv (w : RForm)
  /-- VFN_SQRT (R181): Element-wise square root. -/
  | vfnSqrt (w : RForm)
  /-- VFN_RSQRT (R181): Element-wise reciprocal square root. -/
  | vfnRsqrt (w : RForm)
  /-- VFN_RECIP (R181): Element-wise reciprocal. -/
  | vfnRecip (w : RForm)
  /-- VFN_EXP (R181): Element-wise e^a. -/
  | vfnExp (w : RForm)
  /-- VFN_EXP2 (R181): Element-wise 2^a. -/
  | vfnExp2 (w : RForm)
  /-- VFN_LOG (R181): Element-wise natural logarithm. -/
  | vfnLog (w : RForm)
  /-- VFN_LOG2 (R181): Element-wise base-2 logarithm. -/
  | vfnLog2 (w : RForm)
  /-- VFN_TANH (R181): Element-wise hyperbolic tangent. -/
  | vfnTanh (w : RForm)
  /-- VFN_LOGISTIC (R181): Element-wise logistic function. -/
  | vfnLogistic (w : RForm)
  /-- VFN_SINPI (R181): Element-wise sin(pi*a). -/
  | vfnSinpi (w : RForm)
  /-- VFN_COSPI (R181): Element-wise cos(pi*a). -/
  | vfnCospi (w : RForm)
  /-- VLOG_AND (R182): Element-wise bitwise AND. -/
  | vlogAnd (w : RForm)
  /-- VLOG_OR (R182): Element-wise bitwise OR. -/
  | vlogOr (w : RForm)
  /-- VLOG_XOR (R182): Element-wise bitwise XOR. -/
  | vlogXor (w : RForm)
  /-- VLOG_ANDN (R182): Element-wise a AND NOT b. -/
  | vlogAndn (w : RForm)
  /-- VLOG_NOT (R182): Element-wise bitwise NOT. -/
  | vlogNot (w : RForm)
  /-- VSH_SHL (R182): Element-wise logical left shift. -/
  | vshShl (w : RForm)
  /-- VSH_SHR (R182): Element-wise logical right shift. -/
  | vshShr (w : RForm)
  /-- VSH_SRA (R182): Element-wise arithmetic right shift. -/
  | vshSra (w : RForm)
  /-- VBCNT_POP (R182): Element-wise population count. -/
  | vbcntPop (w : RForm)
  /-- VBCNT_CLZ (R182): Element-wise leading-zero count. -/
  | vbcntClz (w : RForm)
  /-- VBCNT_CTZ (R182): Element-wise trailing-zero count. -/
  | vbcntCtz (w : RForm)
  /-- VCMP (R183): Element-wise compare writing a mask. -/
  | vcmp (w : RForm)
  /-- VSEL (R184): Selects elements of vA or vB by a mask. -/
  | vsel (w : RForm)
  /-- MLOG_AND (R185): Mask AND. -/
  | mlogAnd (w : RForm)
  /-- MLOG_OR (R185): Mask OR. -/
  | mlogOr (w : RForm)
  /-- MLOG_XOR (R185): Mask XOR. -/
  | mlogXor (w : RForm)
  /-- MLOG_ANDN (R185): Mask mA AND NOT mB. -/
  | mlogAndn (w : RForm)
  /-- MLOG_NOT (R185): Mask NOT. -/
  | mlogNot (w : RForm)
  /-- MLOG_SET (R185): Sets the mask bits of every element of a type. -/
  | mlogSet (w : RForm)
  /-- MLOG_CLR (R185): Clears a mask. -/
  | mlogClr (w : RForm)
  /-- MPOP_CNT (R185): Counts set mask bits across lanes into kD. -/
  | mpopCnt (w : RForm)
  /-- MPOP_FIRST (R185): Writes the flat index of the first set mask bit into kD. -/
  | mpopFirst (w : RForm)
  /-- VCVT (R186): Converts one part of the elements between types. -/
  | vcvt (w : RForm)
  /-- VPACK (R187): Encodes one tile row per lane into a tile format. -/
  | vpack (w : RForm)
  /-- VUNPACK (R188): Decodes one tile row per lane into f32 or bf16. -/
  | vunpack (w : RForm)
  /-- VPERM_IDX (R189): Permutes lanes by per-lane indices. -/
  | vpermIdx (w : RForm)
  /-- VPERM_ROT (R189): Rotates lanes by s. -/
  | vpermRot (w : RForm)
  /-- VPERM_XOR (R189): Permutes lanes by XOR with s. -/
  | vpermXor (w : RForm)
  /-- VBCAST_LANE (R189): Broadcasts lane s to every lane. -/
  | vbcastLane (w : RForm)
  /-- VBCAST_ELEM (R189): Broadcasts element e within each lane. -/
  | vbcastElem (w : RForm)
  /-- VSHUF (R189): Shuffles elements within each lane by indices. -/
  | vshuf (w : RForm)
  /-- VRED (R190): Cross-lane reduction by the fixed tree. -/
  | vred (w : RForm)
  /-- VSCAN (R190): Cross-lane inclusive or exclusive scan. -/
  | vscan (w : RForm)
  /-- VIDX (R191): Writes lane number into each element. -/
  | vidx (w : RForm)
  /-- VIDX_ELEM (R191): Writes element number into each element. -/
  | vidxElem (w : RForm)
  /-- VIDX_FLAT (R191): Writes the flat index into each element. -/
  | vidxFlat (w : RForm)
  /-- VMOVK (R192): Broadcasts the low bits of kA into active elements. -/
  | vmovk (w : RForm)
  /-- VEXT (R192): Extracts one element into kD. -/
  | vext (w : RForm)
  /-- VINS (R192): Inserts kA into one element of vD. -/
  | vins (w : RForm)
  /-- VFLAG_RD (R193): Reads each lane flags word into vD. -/
  | vflagRd (w : RForm)
  /-- VFLAG_WR (R193): Writes each lane flags word from vA. -/
  | vflagWr (w : RForm)
  /-- VFLAG_CLR (R193): Clears the flag bits of every lane flags word. -/
  | vflagClr (w : RForm)
  /-- VCMUL (R194): Complex product a*b. -/
  | vcmul (w : RForm)
  /-- VCMUL_CONJ (R194): Complex product a*conj(b). -/
  | vcmulConj (w : RForm)
  /-- VCMUL_FMA (R194): Complex a*b + c with one rounding per part. -/
  | vcmulFma (w : RForm)
  /-- VCMUL_FMAC (R194): Complex a*conj(b) + c with one rounding per part. -/
  | vcmulFmac (w : RForm)
  /-- VDOT (R195): Grouped dot products accumulated into 32-bit elements. -/
  | vdot (w : RForm)
  /-- TFILL_ALL (R201): Fills a whole latch from tile records in the SRF. -/
  | tfillAll (w : RForm)
  /-- TFILL_PART (R201): Fills one part of a latch from a tile record. -/
  | tfillPart (w : RForm)
  /-- TFILL_GATH (R201): Fills one latch part with gathered rows. -/
  | tfillGath (w : RForm)
  /-- TMMA_MADD (R206): Tile multiplier pass adding products into an accumulator. -/
  | tmmaMadd (w : RForm)
  /-- TMMA_ADIF (R206): Tile multiplier pass adding absolute differences. -/
  | tmmaAdif (w : RForm)
  /-- TMMA_CSELMAX (R206): Tile multiplier pass taking the maximum of sums. -/
  | tmmaCselmax (w : RForm)
  /-- TMMA_CSELMIN (R206): Tile multiplier pass taking the minimum of sums. -/
  | tmmaCselmin (w : RForm)
  /-- TMMA_CMAD (R208): Complex tile multiplier pass, with pair mode in lane 0 when packed. -/
  | tmmaCmad (w : RForm)
  /-- TMMA_SEQ (R206): Tile multiplier pass whose per-step operation comes from LIMM. -/
  | tmmaSeq (w : RForm)
  /-- TCLR (R213): Clears an accumulator for a cell operation and sets its tags. -/
  | tclr (w : RForm)
  /-- TACC_RD (R214): Reads out one accumulator row into vector registers. -/
  | taccRd (w : RForm)
  /-- TACC_WR (R215): Replaces or adds one accumulator row from vector registers. -/
  | taccWr (w : RForm)
  /-- TNORM (R216): Normalises an accumulator exactly. -/
  | tnorm (w : RForm)
  /-- TSTAT_ACC (R217): Writes an accumulator's status of one lane into kD. -/
  | tstatAcc (w : RForm)
  /-- TSTAT_LATCH (R217): Writes a latch's status of one lane into kD. -/
  | tstatLatch (w : RForm)
  /-- TCOPY (R218): Copies one accumulator to another. -/
  | tcopy (w : RForm)
  /-- TQCLR (R218): Makes a latch empty. -/
  | tqclr (w : RForm)
  /-- TMERGE (R219): Adds one accumulator into another as one step. -/
  | tmerge (w : RForm)
  /-- XFFT (R232): Forward transform of a spatial record into a spectral record. -/
  | xfft (w : RForm)
  /-- XIFFT (R232): Inverse transform of a spectral record into a spatial record. -/
  | xifft (w : RForm)
  /-- XTRN (R233): Transposes a spatial record. -/
  | xtrn (w : RForm)
  /-- XTRN_TURN (R233): Turns a segment-major spectral record into slot-major records. -/
  | xtrnTurn (w : RForm)
  /-- XTRN_BACK (R233): Turns slot-major records back into a segment-major record. -/
  | xtrnBack (w : RForm)
  /-- XCVT (R234): Converts a record to another format, with an optional retag. -/
  | xcvt (w : RForm)
  /-- XEXP (R235): Decodes a ZB run into 4 KiB of the SRF. -/
  | xexp (w : RForm)
  /-- XSCL_S (R236): Scales an unscaled spectrum down and marks it scaled. -/
  | xsclS (w : RForm)
  /-- XSCL_U (R236): Scales a scaled spectrum up and marks it unscaled. -/
  | xsclU (w : RForm)
  /-- XMOV (R237): Copies a whole record bit for bit. -/
  | xmov (w : RForm)
  /-- XHDR (R237): Writes a record header from kB with a fresh CRC. -/
  | xhdr (w : RForm)
  /-- LDS (R320): Strong load with ordering and scope. -/
  | lds (w : MForm)
  /-- STS (R320): Strong store with ordering and scope. -/
  | sts (w : MForm)
  /-- LDQ (R321): Plain 16-byte load into a register pair. -/
  | ldq (w : MForm)
  /-- STQ (R321): Plain 16-byte store from a register pair. -/
  | stq (w : MForm)
  /-- PREF (R322): Prefetches a line into the data cache or home slice. -/
  | pref (w : MForm)
  /-- STZ (R323): Writes zero to 128 aligned bytes. -/
  | stz (w : MForm)
  /-- AMO_ADD (R324): Atomic integer add returning the old value. -/
  | amoAdd (w : MForm)
  /-- AMO_AND (R324): Atomic AND returning the old value. -/
  | amoAnd (w : MForm)
  /-- AMO_OR (R324): Atomic OR returning the old value. -/
  | amoOr (w : MForm)
  /-- AMO_XOR (R324): Atomic XOR returning the old value. -/
  | amoXor (w : MForm)
  /-- AMO_MIN (R324): Atomic minimum returning the old value. -/
  | amoMin (w : MForm)
  /-- AMO_MAX (R324): Atomic maximum returning the old value. -/
  | amoMax (w : MForm)
  /-- AMO_EXCH (R324): Atomic exchange returning the old value. -/
  | amoExch (w : MForm)
  /-- AMO_FADD (R324): Atomic floating add returning the old value. -/
  | amoFadd (w : MForm)
  /-- RED_ADD (R326): Atomic integer add returning nothing. -/
  | redAdd (w : MForm)
  /-- RED_AND (R326): Atomic AND returning nothing. -/
  | redAnd (w : MForm)
  /-- RED_OR (R326): Atomic OR returning nothing. -/
  | redOr (w : MForm)
  /-- RED_XOR (R326): Atomic XOR returning nothing. -/
  | redXor (w : MForm)
  /-- RED_MIN (R326): Atomic minimum returning nothing. -/
  | redMin (w : MForm)
  /-- RED_MAX (R326): Atomic maximum returning nothing. -/
  | redMax (w : MForm)
  /-- RED_FADD (R326): Atomic floating add returning nothing. -/
  | redFadd (w : MForm)
  /-- CAS (R327): Compare-and-swap at the home slice returning the old value. -/
  | cas (w : MForm)
  /-- JOIN (R329): Joins an operand into the local replica of a lattice cell. -/
  | join (w : MForm)
  /-- LDGE (R330): Threshold load that waits until a lattice cell passes h. -/
  | ldge (w : MForm)
  /-- FENCE_ACQ (R331): Acquire fence. -/
  | fenceAcq (w : MForm)
  /-- FENCE_REL (R331): Release fence. -/
  | fenceRel (w : MForm)
  /-- FENCE_AR (R331): Acquire-release fence. -/
  | fenceAr (w : MForm)
  /-- FENCE_SC (R331): Sequentially consistent fence. -/
  | fenceSc (w : MForm)
  /-- SREAD (R333): Reads 512 bytes of an SRF into a vector register, local or landed. -/
  | sread (w : MForm)
  /-- SWRITE (R333): Writes 512 bytes of a vector register into an SRF. -/
  | swrite (w : MForm)
  /-- SREADX (R334): Indexed per-element read of the own SRF. -/
  | sreadx (w : MForm)
  /-- SWRITEX (R334): Indexed per-element write of the own SRF. -/
  | swritex (w : MForm)
  /-- SBCAST (R333): Reads 32 SRF bytes into every lane. -/
  | sbcast (w : MForm)
  /-- CVTA_GAL (R336): Converts an own-SRF address to a gallery address. -/
  | cvtaGal (w : RForm)
  /-- CVTA_OWN (R336): Converts a gallery address of this core to an own-SRF address. -/
  | cvtaOwn (w : RForm)
  /-- CVTA_CORE (R336): Builds a gallery address for core gB. -/
  | cvtaCore (w : RForm)
  /-- CVTA_OFF (R336): Extracts the SRF offset of an address. -/
  | cvtaOff (w : RForm)
  /-- INAP_GLOB (R337): Tests for a global address. -/
  | inapGlob (w : RForm)
  /-- INAP_SRF (R337): Tests for a valid own-SRF address. -/
  | inapSrf (w : RForm)
  /-- INAP_GAL (R337): Tests for a valid gallery address. -/
  | inapGal (w : RForm)
  /-- INAP_LOCAL (R337): Tests for an address naming this core's SRF. -/
  | inapLocal (w : RForm)
  /-- BAR_ARRIVE (R339): Arrives at a barrier-network channel. -/
  | barArrive (w : IForm)
  /-- BAR_WAIT (R339): Waits for the channel generation to differ from the arrival record. -/
  | barWait (w : IForm)
  /-- BAR_SYNC (R339): Arrives and waits in one kernel word. -/
  | barSync (w : IForm)
  /-- CACHE_IALL (R340): Invalidates the CP instruction cache. -/
  | cacheIall (w : RForm)
  /-- CACHE_ILINE (R340): Invalidates one instruction-cache line. -/
  | cacheIline (w : RForm)
  /-- CACHE_DLINE (R340): Writes back and evicts one data-cache line. -/
  | cacheDline (w : RForm)
  /-- CACHE_DALL (R340): Writes back and evicts the whole data cache. -/
  | cacheDall (w : RForm)
  /-- TLBI_ALL (R341): Drops every held translation on the die or package. -/
  | tlbiAll (w : RForm)
  /-- TLBI_ASID (R341): Drops the translations of one ASID. -/
  | tlbiAsid (w : RForm)
  /-- TLBI_PAGE (R341): Drops translations containing one virtual address. -/
  | tlbiPage (w : RForm)
  /-- TLBI_RANGE (R341): Drops the range entries of one ASID. -/
  | tlbiRange (w : RForm)
  /-- SLOAD (R377): Enqueues a copy from memory into an SRF buffer or record. -/
  | sload (w : SForm)
  /-- SSTORE (R377): Enqueues a copy from an SRF buffer or record into memory. -/
  | sstore (w : SForm)
  /-- STILE_RD (R380): Enqueues a tile read request through the layout unit. -/
  | stileRd (w : SForm)
  /-- STILE_WR (R380): Enqueues a tile write request through the layout unit. -/
  | stileWr (w : SForm)
  /-- SCOPY (R377): Enqueues a copy between two SRF buffers. -/
  | scopy (w : SForm)
  /-- SCOPY_R (R377): Enqueues a copy between two SRF records. -/
  | scopyR (w : SForm)
  /-- SCOPY_M (R377): Enqueues a copy between two memory ranges. -/
  | scopyM (w : SForm)
  /-- SFILL (R378): Enqueues a fill of an SRF buffer with an 8-byte pattern. -/
  | sfill (w : SForm)
  /-- SFILL_R (R378): Enqueues a fill of one SRF record with a pattern. -/
  | sfillR (w : SForm)
  /-- SFILL_M (R378): Enqueues a fill of a memory range with a pattern. -/
  | sfillM (w : SForm)
  /-- SGATHER (R381): Enqueues a gather of indexed memory records into an SRF buffer. -/
  | sgather (w : SForm)
  /-- SSCADD (R382): Enqueues a scatter-add of SRF records into memory. -/
  | sscadd (w : SForm)
  /-- SRECV (R383): Enqueues posting of ring records to a port ring. -/
  | srecv (w : SForm)
  /-- KRUN (R384): Enqueues a kernel run with its declarations. -/
  | krun (w : SForm)
  /-- KWAIT (R386): Waits for a token's producers, or for every earlier krun. -/
  | kwait (w : SForm)
  /-- KRESUME (R412): Re-enters a kernel stopped on a fault. -/
  | kresume (w : SForm)
  /-- KRESUME_ABORT (R387): Discards a stopped kernel and completes its krun with KERNEL_ABORT. -/
  | kresumeAbort (w : SForm)
  /-- SWAIT (R386): Waits on a token and returns its status. -/
  | swait (w : SForm)
  /-- SWAIT_TEST (R386): Returns a token's status at once. -/
  | swaitTest (w : SForm)
  /-- SWAIT_ALL (R386): Waits for every earlier stream instruction and reports faults. -/
  | swaitAll (w : SForm)
  /-- BARV_ARM (R389): Arms a barrier object with EXPECTED. -/
  | barvArm (w : SForm)
  /-- BARV_ARRIVE (R389): Contributes n bytes to a barrier object as a release. -/
  | barvArrive (w : SForm)
  /-- BARV_WAIT (R389): Waits for a barrier object's phase to differ from v. -/
  | barvWait (w : SForm)
  /-- SDGET_W0 (R390): Reads word 0 of a stream descriptor. -/
  | sdgetW0 (w : SForm)
  /-- SDGET_W1 (R390): Reads word 1 of a stream descriptor. -/
  | sdgetW1 (w : SForm)
  /-- SDPUT_W0 (R390): Writes word 0 of a stream descriptor. -/
  | sdputW0 (w : SForm)
  /-- SDPUT_W1 (R390): Writes word 1 of a stream descriptor. -/
  | sdputW1 (w : SForm)
  /-- SDREC (R390): Checks a descriptor and returns the own-SRF address of a record. -/
  | sdrec (w : SForm)
  /-- SNOP (R388): Enqueues a marker that completes when issued, with optional barrier contribution. -/
  | snop (w : SForm)
  /-- TAKE_TRAP (R36): The CP takes a pending asynchronous cause at a word boundary. -/
  | takeTrap (core : Nat)
  /-- KERNEL_BUNDLE_ISSUE (R116): The kernel engine issues one bundle, with header and bundle-level checks. -/
  | kernelBundleIssue (core : Nat)
  /-- FIXED_LATENCY_WRITE (R119): A pending fixed-latency register write applies at issue + latency. -/
  | fixedLatencyWrite (core : Nat)
  /-- LANDING (R127): At the due cycle a landed result is written, or the engine freezes. -/
  | landing (core : Nat)
  /-- LANDING_DATA_ARRIVAL (R129): Data of a landing returns from memory and may end a freeze. -/
  | landingDataArrival (core : Nat) (entry : Nat) (lost : Bool)
  /-- WRITE_QUEUE_ACK (R318): A target acknowledges a write-queue entry, which frees. -/
  | writeQueueAck (core : Nat) (entry : Nat) (lost : Bool)
  /-- LATE_FAULT (R411): A failure of a landed or queued access reaches the core and stops the kernel at a boundary. -/
  | lateFault (core : Nat)
  /-- TMMA_PASS_COMPLETE (R210): A pass writes its accumulator and flags at t+40, or reports a matrix fault. -/
  | tmmaPassComplete (core : Nat)
  /-- TRANSFORM_COMPLETE (R229): An X word writes its result at t+latency, or reports a transform fault. -/
  | transformComplete (core : Nat)
  /-- KERNEL_START (R133): A waiting krun starts its kernel once the previous kernel ends and its gate passes. -/
  | kernelStart (core : Nat)
  /-- KERNEL_END (R126): The kernel ends once the end index is reached and nothing is pending. -/
  | kernelEnd (core : Nat)
  /-- BARRIER_ARRIVAL_COUNTED (R339): An arrival is counted once the arriving party's earlier writes are performed. -/
  | barrierArrivalCounted (core : Nat)
  /-- WAIT_WATCHDOG_EXPIRY (R421): A blocking wait passes 2^WDLOG cycles and traps WAIT_WATCHDOG. -/
  | waitWatchdogExpiry (core : Nat) (kernel : Bool)
  /-- THRESHOLD_TIMEOUT_EXPIRY (R311): An ldge waits past the watchdog and traps THRESHOLD_TIMEOUT. -/
  | thresholdTimeoutExpiry (core : Nat) (entry : Option Nat)
  /-- STEAL_REQUEST (R148): A steal request arrives at a victim walker, which splits or passes its range. -/
  | stealRequest (thief : Nat) (victim : Nat) (launchId : Nat)
  /-- STEAL_RETURN (R148): A steal returns to the thief with a range, or makes the die dry. -/
  | stealReturn (thief : Nat) (launchId : Nat)
  /-- SCOREBOARD_ISSUE (R349): The scoreboard issues the oldest non-conflicting queued instruction to its engine. -/
  | scoreboardIssue (core : Nat)
  /-- ENGINE_COMPLETE (R353): An engine instruction completes and reports to its token and barrier object. -/
  | engineComplete (core : Nat) (seq : Nat)
  /-- GATE_PASS (R385): A gated instruction is released when the gate object's phase flips, or fails on ERR. -/
  | gatePass (core : Nat) (seq : Nat)
  /-- GATE_WATCHDOG_EXPIRY (R385): An instruction held at its gate past the watchdog completes with WAIT_WATCHDOG. -/
  | gateWatchdogExpiry (core : Nat) (seq : Nat)
  /-- TILE_REQUEST (R279): A layout unit serves a tile request, delivering or writing records. -/
  | tileRequest (core : Nat) (seq : Nat)
  /-- LAUNCH (R466): A LAUNCH packet is accepted or refused by the launch unit. -/
  | launch (queue : Nat)
  /-- GRANT_GROUP (R139): The launch unit grants a co-resident group all at once. -/
  | grantGroup (launchId : Nat) (die : Nat) (base : Nat)
  /-- LAUNCH_COMPLETE (R468): A launch ends and its completion record is written. -/
  | launchComplete (launchId : Nat)
  /-- BARRIER_PACKET (R465): A BARRIER packet leaves the head once its signal reaches V. -/
  | barrierPacket (queue : Nat)
  /-- CODE_PACKET (R483): A CODE packet copies code and invalidates instruction caches, or is refused. -/
  | codePacket (queue : Nat)
  /-- UNLOAD_PACKET (R482): An UNLOAD packet clears its queue's load reference and may release the object. -/
  | unloadPacket (queue : Nat)
  /-- SIGNAL_PACKET (R465): A SIGNAL packet stores its value and sends MSI-X after earlier launches end. -/
  | signalPacket (queue : Nat)
  /-- QWRITE_WRITE (R464): A host write to QWRITE advances the queue and releases its packets. -/
  | qwriteWrite (queue : Nat) (value : Word)
  /-- QCTL_ENABLE (R464): A write of QCTL.ENABLE starts the queue and sets the module running. -/
  | qctlEnable (queue : Nat) (value : Word)
  /-- PREEMPT_HOLD (R468): A PREEMPT write with HOLD = 1 pre-empts a launch and keeps it off. -/
  | preemptHold (value : Word)
  /-- PREEMPT_RELEASE (R468): A PREEMPT write with HOLD = 0 releases a held launch to restore. -/
  | preemptRelease (value : Word)
  /-- KEY_WRITE (R469): KEYCMD OP 1 writes KEYDATA into a key slot. -/
  | keyWrite (value : Word)
  /-- KEY_EMPTY (R469): KEYCMD OP 2 empties a key slot. -/
  | keyEmpty (value : Word)
  /-- KEY_QUERY (R469): KEYCMD OP 3 sets FULL to a slot's state. -/
  | keyQuery (value : Word)
  /-- KEY_OP_DONE (R469): A key operation takes effect at every port and BUSY clears. -/
  | keyOpDone
  /-- MODULE_START (R471): A write of MSTAT.START resets the module and begins a cold or warm start. -/
  | moduleStart (value : Word) (retained : Bool)
  /-- START_STEP_COMPLETE (R471): A start step finishes and the next begins, or the start fails. -/
  | startStepComplete (ok : Bool)
  /-- REGISTER_WRITE (R461): A write to a device register without behaviour of its own. -/
  | registerWrite (offset : Nat) (value : Word)
  /-- PREEMPT_REQUEST (R425): The launch unit requests pre-emption of a group and the core begins stopping. -/
  | preemptRequest (launchId : Nat) (die : Nat) (base : Nat)
  /-- GRACE_EXPIRY (R428): The grace period expires and the running kernel stops at a boundary and drains. -/
  | graceExpiry (core : Nat)
  /-- SAVE (R430): A CXCMD write of 1 requests a context save. -/
  | save (core : Nat)
  /-- SAVE_WRITE (R430): Once KSTOP and DRAIN are 1 the context is written and the core freed. -/
  | saveWrite (core : Nat)
  /-- RESTORE (R433): A CXCMD write of 2 checks and restores a context area. -/
  | restore (core : Nat)
  /-- RESTORE_GRANT (R426): A pre-empted group is re-granted onto its own cores. -/
  | restoreGrant (launchId : Nat) (die : Nat) (base : Nat)
  /-- QUIESCE (R274): A write of HSCTL.QUIESCE holds or releases new requests at a stack. -/
  | quiesce (stack : Nat) (value : Word)
  /-- HSMASK_WRITE (R274): A selector-mask write takes effect when idle, or is discarded setting MASKERR. -/
  | hsmaskWrite (stack : Nat) (index : Nat) (value : Word)
  /-- MASKERR_CLEAR (R273): A write of 1 to HSSTAT clears MASKERR. -/
  | maskerrClear (stack : Nat) (value : Word)
  /-- HEARTBEAT (R283): A base-die heartbeat arrives, clearing MISSED and counting HSBEAT. -/
  | heartbeat (stack : Nat)
  /-- HEARTBEAT_MISSED (R283): A heartbeat interval passes without one; at 2 misses the controller starts a takeover. -/
  | heartbeatMissed (stack : Nat)
  /-- TAKEOVER_ACK (R283): The base die acknowledges the stop, or 2 us pass, and REFOWN becomes 1. -/
  | takeoverAck (stack : Nat)
  /-- REFRESH_WINDOW_EXPIRY (R284): A controller that has not caught up within a refresh window reports an uncorrected fault. -/
  | refreshWindowExpiry (stack : Nat)
  /-- POISON_DETECT (R417): ECC finds an uncorrectable error and marks a line poisoned. -/
  | poisonDetect (err : EccError) (place : Nat)
  /-- WRITEBACK_FAILURE (R402): A failed write-back raises an asynchronous UNCORRECTED_HBM. -/
  | writebackFailure (stack : Nat) (offset : Nat) (core : Option Nat)
  /-- SELFTEST (R423): The module tests a unit after an error within 50 us. -/
  | selftest (unit : ErrUnit)
  /-- SELFTEST_COMPLETE (R424): A self-test ends, counting a soft error or marking a lasting fault. -/
  | selftestComplete (unit : ErrUnit) (pass : Bool)
  /-- GROUP_ABORT_EXPIRY (R402): A GROUP_ABORT not taken within the watchdog stops the core fatally. -/
  | groupAbortExpiry (core : Nat)
  /-- BRIDGE_FAILURE (R440): A bridge that does not retrain within 1 ms is recorded and its requests fail. -/
  | bridgeFailure (die : Nat)
  /-- REMOTE_REQUEST (R442): A request carried over the Kibry link is served or refused at the target package. -/
  | remoteRequest (req : RemoteReq)
  /-- REMOTE_TIMEOUT_EXPIRY (R443): A remote request without response within TIMEOUT fails with REMOTE_TIMEOUT.
  It is the CP's (`none`), landing entry n (below 32), write-queue entry n − 32 (below 64), or that of the engine
  instruction of SEQ n − 64. -/
  | remoteTimeoutExpiry (core : Nat) (entry : Option Nat)
  /-- LRT_ENABLE (R445): A lattice region table write setting V is accepted or refused with ERR. -/
  | lrtEnable (entry : Nat) (value : Word)
  /-- LRT_DISABLE (R445): A lattice region table write clearing V stops the region's exchange. -/
  | lrtDisable (entry : Nat) (value : Word)
  /-- EXCHANGE_ROUND_BEGIN (R448): A replica begins its next round once the previous round and period end. -/
  | exchangeRoundBegin (entry : Nat) (replica : Nat)
  /-- EXCHANGE (R448): Two paired replicas exchange state and join it cell by cell. -/
  | exchange (entry : Nat) (replica : Nat)
  /-- EXCHANGE_FAILURE (R450): An unreachable partner past the period plus TIMEOUT makes the round complete without exchange. -/
  | exchangeFailure (entry : Nat) (replica : Nat)
  /-- FRAME_RECEIVE (R455): An Ethernet frame arrives and is steered, dropped, refused or delivered into a ring record. -/
  | frameReceive (port : Nat) (frame : Frame)
  /-- RING_BIND (R454): A ring table write binds a ring and resets its next-record index. -/
  | ringBind (port : Nat) (ring : Nat) (value : Word)
  /-- COUNTER_CLEAR (R456): A write of zero clears a ring or port counter. -/
  | counterClear (port : Nat) (ring : Option Nat) (counter : Nat) (value : Word)
  /-- PRG_RESPONSE (R469): A host PRG Response frees a tag and resumes or refuses the walk. -/
  | prgResponse (tag : Nat) (code : Nat)
  /-- ATS_INVALIDATE (R470): An ATS Invalidate Request drops host translations and completes when drained. -/
  | atsInvalidate (asid : Nat) (va : Word)
  /-- LINE_COMMIT (R314): A migrating line's copy to its new home commits. The homes are granule numbers, and the address
  space and virtual address name the line; `commit = false` is the moment from which the line migrates, for which the
  table has no row of its own. -/
  | lineCommit (line : LineHome) (new : Nat) (commit : Bool)
  /-- POWER_CAP_EXCEEDED (R472): Power above POWERCAP over 1 ms lowers clocks and raises POWER_CAP. -/
  | powerCapExceeded
  /-- THERMAL_HOT (R472): The cold plate passes its warning limit, lowering clocks and raising THERMAL. -/
  | thermalHot
  /-- THERMAL_CRIT (R472): At CRIT every launch ends with THERMAL and the module enters state 3. -/
  | thermalCrit
  /-- HOST_LINK_DOWN (R402): The host link goes down and HOST_LINK_DOWN is raised on every CP. -/
  | hostLinkDown
  /-- DEBUG_HALT (R402): The host's debugger raises DEBUG_HALT on a CP. -/
  | debugHalt (core : Nat)
  /-- KIBRY_PORT_TRAINED (R441): A Kibry port finishes training and its KBSTAT.LIVE bit becomes 1, so routes may use it again. -/
  | kibryPortTrained (port : Nat)
  /-- KIBRY_PORT_LOST (R442): A trained Kibry port loses training and its LIVE bit clears, so requests on routes with no live port are refused with REMOTE_REJECT. -/
  | kibryPortLost (port : Nat)
  deriving DecidableEq, Repr

end Sys2Proof
end

