-- ==== Sys2Proof/Machine/State.lean ====
section
/-! DEFINITION. The state of the machine: every core with its control processor, kernel engine, stream unit and
SRF, and the module's memory, tables, queues and registers. Plain data throughout. -/

namespace Sys2Proof.Machine

/-! ## What a stopped access reports -/

/-- What a failing check reports (R29, R33, R113, R400). `addr` goes to CTADDR and `detail` to DETAIL; `lmask`
and `lane` are those of a lane cause. -/
structure Trap where
  cause : Cause
  addr : Word := 0
  detail : BitVec 32 := 0
  write : Bool := false
  fetch : Bool := false
  lane : BitVec 4 := 0
  lmask : BitVec 16 := 0
  deriving DecidableEq, Repr

/-- A pending asynchronous cause of a CP (R36, R402). A kernel fault is pending with `kernel = true`. -/
structure Async where
  cause : Cause
  detail : BitVec 32 := 0
  kernel : Bool := false
  /-- CCYCLE when it became pending (R402). -/
  since : Nat := 0
  deriving DecidableEq, Repr

/-! ## The control processor -/

/-- What a CP is doing between words. -/
inductive CpRun where
  /-- The core holds no program: it has not been granted, or its program has left it. -/
  | off
  /-- A granted program executes (R16). -/
  | running
  /-- The core stopped on a fatal cause (R403). -/
  | stopped
  deriving DecidableEq, Repr

/-- A word of the instruction cache that may be older than memory (R19). -/
structure CachedWord where
  asid : BitVec 16
  pc : Word
  word : Word
  /-- Where in memory it was fetched from: the number of its 8 bytes (R484). -/
  place : Nat
  /-- Words of memory that a CODE packet has written since: this is no copy of them (R484). -/
  patched : List Nat
  deriving DecidableEq, Repr

/-- A word in progress, a blocking wait or an access (R37): its address and CCYCLE at the start of this execution
(R421). -/
structure Wait where
  pc : Word
  since : Nat
  /-- The word is an access in progress, which no asynchronous cause interrupts. -/
  hold : Bool
  /-- The wait has begun: its condition has been evaluated (R358). -/
  begun : Bool
  /-- The word's opcode, and the address an `ldge` waits at. -/
  opc : BitVec 8
  addr : Word
  deriving DecidableEq, Repr

/-- The `work` request of a CP (R105, R151). -/
inductive WorkReq where
  | idle
  /-- The request has left the CP and waits at the walker. -/
  | waiting
  /-- The walker's answer: an ordinal, or `none` when the die is dry. -/
  | answered (ordinal : Option Nat)
  deriving DecidableEq, Repr

/-! ## The kernel engine -/

/-- One lane of an accumulator tile (R106, R167, R200): `ae = none` is the unset exponent, `m` has 1,024 elements. -/
structure AccLane where
  ae : Option Int
  m : List Int
  domain : Bool
  packed : Bool
  scaled : Bool
  deriving DecidableEq, Repr

/-- The scale side of one part of an operand latch (R197): the scale area as stored, and the band scale. -/
structure LatchScale where
  scale : BitVec 2048
  band : BitVec 16
  deriving DecidableEq, Repr

/-- One lane of an operand latch (R197): 2 KiB of payload, in which P parts stand one after the other, and the scale
side of up to four parts. -/
structure LatchLane where
  fmt : BitVec 7
  domain : Bool
  packed : Bool
  scaled : Bool
  payload : BitVec 16384
  scales : Vector LatchScale 4
  deriving DecidableEq, Repr

/-- One part: its payload rows and its scale side. -/
structure LatchPart where
  payload : BitVec 16384
  side : LatchScale
  deriving DecidableEq, Repr

/-- What a fill writes in one lane (R203): the tags, and the parts it names, of which `count` fill a latch. -/
structure LatchFill where
  whole : Bool
  tags : BitVec 7 × Bool × Bool × Bool
  count : Nat
  parts : List (Nat × LatchPart)
  deriving DecidableEq, Repr

/-- What orders a write of the kernel to its own SRF (R292-R295): opcode, ORD and scope of its word, and the halves
that fences and a preceding `fence.rel` gave it. -/
structure Order where
  opc : BitVec 8
  ord : BitVec 2
  scope : BitVec 3
  fence : BitVec 2
  deriving DecidableEq, Repr

/-- The place a pending write goes to (R119). -/
inductive KWrite where
  | k (r : BitVec 5) (v : Word)
  | p (r : BitVec 3) (v : Bool)
  | v (r : BitVec 6) (x : VecReg)
  | m (r : BitVec 3) (x : MaskReg)
  /-- Flags raised in the lanes are ORed into the flags words (R176). -/
  | laneFlags (raised : Vector (BitVec 7) 16)
  | laneWords (x : Vector Word 16)
  /-- One lane flags word, as a context area holds it (R431). -/
  | laneWord (l : BitVec 4) (x : Word)
  | laneClear
  | srf (o : Order) (bytes : List Host.Cell)
  | latch (q : BitVec 2) (fill : Vector LatchFill 16)
  | latchClear (q : BitVec 2)
  | acc (t : BitVec 2) (x : Vector AccLane 16) (raised : Vector (BitVec 7) 16)
  deriving DecidableEq, Repr

/-- A pending write: its cycle of kernel time, and the issue number and slot that order writes of one cycle. -/
structure PendWrite where
  due : Nat
  seq : Nat
  what : KWrite
  deriving DecidableEq, Repr

/-- The register or registers a landing writes (R321, R333). -/
inductive LandDest where
  | k (r : BitVec 5)
  | kpair (r : BitVec 5)
  | v (r : BitVec 6)
  | vall (r : BitVec 6)
  deriving DecidableEq, Repr

/-- The status of a landing entry or of a write-queue entry (R410, R428). -/
inductive EntryStatus where
  | inFlight
  | data (bytes : List Byte)
  | failed (t : Trap)
  /-- Marked logged by the drain of R428: to be re-issued. -/
  | logged
  deriving DecidableEq, Repr

/-- What a passing walk or lookup delivers, with the virtual bytes it covers (R256-R260). -/
structure Xlat where
  va : Nat
  size : Nat
  phys : Nat
  perm : BitVec 4
  lattice : BitVec 3
  mode : BitVec 2
  range : Bool
  deriving DecidableEq, Repr

/-- An operand-log entry (R410): a landed access or a queued write. -/
structure LogEntry where
  opc : BitVec 8
  aop : BitVec 4
  ty : BitVec 5
  ord : BitVec 2
  scope : BitVec 3
  slot : BitVec 3
  addr : Word
  size : Nat
  /-- The operand value, or the bytes of a store. -/
  operand : Word
  /-- The expected value of a `cas`. -/
  expected : Word
  bytes : List Byte
  dest : Option LandDest
  due : Nat
  seq : Nat
  /-- CCYCLE at issue or at the latest re-issue (R311). -/
  since : Nat
  status : EntryStatus
  /-- What fences make of it (R293, R294): bit 0 an acquire, bit 1 a release, which every older access precedes. -/
  fence : BitVec 2
  /-- The translation that its walk has delivered before it is performed: a younger access has been (R300). -/
  walked : Option Xlat
  deriving DecidableEq, Repr

/-- The registers of a control processor (R12, R23-R32). -/
structure CP where
  g : Vector Word 32
  p : BitVec 8
  pc : Word
  cstat : Word
  csave : Word
  ctvec : Word
  ctpc : Word
  ccause : Word
  ctaddr : Word
  ctinfo : Word
  cscratch : Vector Word 4
  casid : Word
  cflags : Word
  run : CpRun
  pending : List Async
  wait : Option Wait
  work : WorkReq
  icache : List CachedWord
  /-- CTVEC has been written since the grant (R16). -/
  vecSet : Bool
  /-- An access to another package whose response is awaited (R442, R443). -/
  remote : Option LogEntry
  /-- The word in execution: a word that waits is not fetched again (R37, R151). -/
  fetched : Word
  deriving DecidableEq, Repr

/-- A tile multiplier pass in flight (R209): latch and accumulator contents with the kernel time from which
each holds. The first of each list is the content at issue. -/
structure Pass where
  issue : Nat
  seq : Nat
  bundle : BitVec 11
  op : BitVec 4
  half : Bool
  limm : BitVec 32
  d : BitVec 2
  /-- The latches it reads. -/
  qa : BitVec 2
  qb : BitVec 2
  enables : Vector (BitVec 7) 16
  a : List (Nat × Vector LatchLane 16)
  b : List (Nat × Vector LatchLane 16)
  acc : List (Nat × Vector AccLane 16)
  deriving DecidableEq, Repr

/-- A transform in flight (R227, R229): its result is fixed at issue. `bytes = none` is a DECOMPRESS fault. -/
structure Xform where
  due : Nat
  seq : Nat
  opc : BitVec 8
  bundle : BitVec 11
  enables : BitVec 7
  raised : BitVec 7
  bytes : Option (List Host.Cell)
  deriving DecidableEq, Repr

/-- A matrix or transform fault held over a stop (R211, R227). -/
structure HeldFault where
  trap : Trap
  slot : BitVec 3
  opc : BitVec 8
  deriving DecidableEq, Repr

/-- The bundle whose slots are committing (R117): header fields, the words still to commit with their position. -/
structure Issue where
  limm : BitVec 32
  scope : BitVec 3
  stall : Nat
  /-- Further issue-hold cycles asked for by a slot (R334). -/
  hold : Nat
  words : List (BitVec 3 × Word)
  /-- KSTAT.DELAY before this issue (R407). -/
  delay : BitVec 2
  /-- The bundle's S slot holds a `trap.sw` that commits with it (R100). -/
  software : Option (BitVec 32)
  /-- The slot word has found no place yet and executes again. -/
  again : Bool
  deriving DecidableEq, Repr

/-- What freezes a kernel beside a late landing (R129, R331, R339). -/
inductive KFreeze where
  | none
  /-- `bar.wait` or `bar.sync` at a channel since a cycle, with the number that the first later access carries. -/
  | barrier (die : Bool) (chan : BitVec 3) (since seq : Nat)
  /-- `fence.sc` until every access before this number is performed. -/
  | fence (seq : Nat)
  deriving DecidableEq, Repr

/-- A write of the kernel to its own SRF that has taken effect while an older access is unfinished: what orders it, the
number that the next access had when it took effect, and the bytes it replaced, which are what an older load and, while an
older access holds the write back, every other party reads (R289, R292-R295). -/
structure Undo where
  seq : Nat
  order : Order
  applied : Nat
  bytes : List Host.Cell
  deriving DecidableEq, Repr

/-- What a kernel fault keeps for the CP's trap entry (R404). -/
structure FaultInfo where
  opc : BitVec 8
  addr : Word
  write : Bool
  deriving DecidableEq, Repr

/-- A kernel fault that has been found: what KCAUSE, KINFO and the CP will report, and where the kernel resumes.
STATE becomes 2 once passes, transforms and pending latch and accumulator writes are complete (R404-R408). -/
structure KStop where
  trap : Trap
  slot : BitVec 3
  opc : BitVec 8
  late : Option (BitVec 5)
  kpc : Nat
  resume : Nat
  deriving DecidableEq, Repr

/-- The kernel engine of one core (R106-R134, R408). -/
structure Kern where
  k : Vector Word 32
  p : BitVec 8
  v : Vector VecReg 64
  m : Vector MaskReg 8
  acc : Vector (Vector AccLane 16) 4
  latch : Vector (Vector LatchLane 16) 4
  lflags : Vector Word 16
  kpc : Word
  kstat : Word
  kdtarget : Word
  kcause : Word
  kinfo : Word
  kflags : Word
  /-- The microcode store by word index 0-8191, sorted; an unlisted word is zero (R67). -/
  store : List (Nat × Word)
  ktime : Nat
  nextIssue : Nat
  /-- Index of the next bundle in sequence (R124). -/
  nextPc : Nat
  /-- The first slot of that bundle still to commit after a `kresume`; 0 or 1 when all are (R412). -/
  resume : Nat
  seq : Nat
  pend : List PendWrite
  landing : Vector (Option LogEntry) 32
  wqueue : Vector (Option LogEntry) 32
  passes : List Pass
  xforms : List Xform
  /-- Kernel time from which the divider, the floating divider, the tile multiplier and the transform unit accept
  an operation again (R118, R120). -/
  busy : Vector Nat 4
  undo : List Undo
  /-- Writes to the own SRF issued below this number count as performed, since kernel time stood (R129, R299, R331). -/
  shown : Nat
  /-- A `fence.rel` awaits the next strong write (R293). -/
  fenceRel : Bool
  freeze : KFreeze
  held : List HeldFault
  issuing : Option Issue
  stop : Option KStop
  fault : Option FaultInfo
  /-- The sequence number of the `krun` being run. -/
  krun : Option Nat
  /-- The stop of R428 is in force: STATE reads 1 and kernel time stands. -/
  preStop : Bool
  deriving DecidableEq, Repr

/-! ## The stream unit -/

/-- A stream descriptor (R241). -/
structure Desc where
  w0 : Word
  w1 : Word
  deriving DecidableEq, Repr

/-- A declared extent of the own SRF (R347). -/
structure Extent where
  lo : Nat
  hi : Nat
  write : Bool
  deriving DecidableEq, Repr

/-- The failure of an engine instruction (R357, R414): cause, destination offset, address, counted prefix. -/
structure EngFault where
  cause : Cause
  offset : Nat := 0
  addr : Word := 0
  n : Nat := 0
  deriving DecidableEq, Repr

/-- Where an enqueued instruction stands (R345, R385). -/
inductive QStage where
  | queued
  | gated (since : Nat)
  | running
  /-- It has ended, with this fault and this count, and is being reported (R353, R357). -/
  | completing (fault : Option EngFault) (n : Nat)
  deriving DecidableEq, Repr

/-- A host-managed page that an engine or the launch unit waits for; `refused` once the host has refused it (R263,
R469). -/
structure PageWait where
  asid : BitVec 16
  page : Nat
  refused : Bool
  deriving DecidableEq, Repr

/-- A stream instruction enqueued with everything it captured (R345, R491), and the progress of its transfer. -/
structure QEntry where
  seq : Nat
  /-- The instruction word. -/
  word : Word
  opc : BitVec 8
  fn : BitVec 4
  a : Word
  b : Word
  c : Word
  d : Word
  /-- The transform word and the nonce of KIND 6 and 7 (R362). -/
  xf : Word
  nonce : Word
  sd : Desc
  se : Desc
  decls : List Extent
  ser : Bool
  tok : Option (BitVec 3)
  bar : Option Word
  gate : Option (Word × Bool)
  sup : Bool
  asid : BitVec 16
  stage : QStage
  /-- Records an `srecv` has already had delivered (R427). -/
  delivered : Nat
  /-- Units attempted so far, in source order, and those among them that wait for a quiesced stack (R274). -/
  next : Nat
  late : List Nat
  /-- The lowest unit that failed. -/
  faultAt : Option Nat
  fault : Option EngFault
  /-- The barrier object could not be reached at enqueue (R356). -/
  bad : Option EngFault
  /-- The host-managed page that an access waits on. -/
  page : Option PageWait
  /-- Cancelled under R361. -/
  cancelled : Bool
  /-- CCYCLE at which it issued or moved its latest unit (R443). -/
  since : Nat
  /-- CCYCLE at which a request to its barrier or gate object in another package was sent (R443). -/
  sent : Option Nat
  /-- Flags raised by the transform (R363). -/
  flags : BitVec 7
  /-- Directory entries written or read so far (R365), or the handle of a tile request. -/
  dir : List Nat
  deriving DecidableEq, Repr

/-- What a request of an engine that waits at a quiesced stack does once it is served (R274, R371, R417). -/
inductive OwedOp where
  | access (e : LogEntry)
  /-- The marks of the lines that lie wholly in a range of which every byte has been written are cleared. -/
  | clear (a : Word) (n : Nat)
  /-- The lines of a range are marked poisoned. -/
  | poison (a : Word) (n : Nat)
  deriving DecidableEq, Repr

/-- For which unit of which engine instruction a request is made, and the offset and the counted prefix that its failure
reports. -/
structure Owner where
  seq : Nat
  unit : Nat
  offset : Nat
  n : Nat
  deriving DecidableEq, Repr

/-- A request of an engine that waits at a quiesced stack (R274). -/
structure Owed where
  owner : Owner
  op : OwedOp
  deriving DecidableEq, Repr

/-- An engine instruction that completed with a fault and that no wait has reported (R492). -/
structure Unreported where
  seq : Nat
  krun : Bool
  tok : Option (BitVec 3)
  cause : Cause
  record : BitVec 16
  deriving DecidableEq, Repr

/-- The stream unit of one core (R345-R361, R492). -/
structure StreamUnit where
  sd : Vector Desc 16
  tok : Vector Word 8
  /-- The first record a faulted token reports: record index of R414. -/
  tokRec : Vector (BitVec 16) 8
  queue : List QEntry
  flight : List QEntry
  /-- Requests that wait at a quiesced stack, in the order in which they reached it (R274). -/
  owed : List Owed
  /-- Stream instructions enqueued since grant (R414). -/
  seq : Nat
  unreported : List Unreported
  overflow : Option Cause
  /-- The host-managed page of the barrier object that an enqueue waits on (R263). -/
  objPage : Option PageWait
  deriving DecidableEq, Repr

/-! ## Cores -/

/-- The arrival record of one claimed channel (R339): the generation of the latest arrival, and an arrival that the
kernel has made and that is not yet counted. -/
structure Arrival where
  gen : Option Bool
  /-- The sequence number that later accesses of the kernel carry. -/
  pending : Option Nat
  deriving DecidableEq, Repr

/-- The program a core holds (R139, R142): its launch, the base and size of its group, its group number. -/
structure Prog where
  launch : Nat
  base : Nat
  size : Nat
  group : Nat
  deriving DecidableEq, Repr

/-- The context register block (R429) and the progress of a save. -/
structure Ctx where
  area : Word
  srfLen : Nat
  grace : Nat
  pend : Bool
  kstop : Bool
  drain : Bool
  expired : Bool
  /-- CCYCLE when the grace period began (R427). -/
  since : Nat
  /-- A SAVE, or a RESTORE, command has been written and has not completed (R430, R433). -/
  saving : Bool
  restoring : Bool
  deriving DecidableEq, Repr

/-- One stream core. -/
structure Core where
  cp : CP
  kern : Kern
  st : StreamUnit
  /-- SRF bytes that are not zero, sorted by offset (R240). -/
  srf : List Host.Cell
  /-- Poisoned codewords, sorted (R246). -/
  srfPoison : List Nat
  prog : Option Prog
  arrQuad : Arrival
  arrDie : Arrival
  ctx : Ctx
  /-- The SRF is fenced after a fatal fault (R419). -/
  fenced : Bool
  /-- Lastingly bad SRF banks, and whether the core is out of service (R247, R424). -/
  badBanks : List Nat
  outOfService : Bool
  deriving DecidableEq, Repr

/-- The first fault counted in a barrier object that holds ERR (R414), by the object's place: kind 0 an SRF, 1 a stack,
2 the host window; its owner; its offset. -/
structure ObjErr where
  kind : Nat
  owner : Nat
  off : Nat
  cause : Cause
  record : BitVec 16
  deriving DecidableEq, Repr

/-- What a context save captured of a core (R430). The manual lays out most of it byte by byte; the entries whose
inner layout it leaves open are taken from here by the restore (log 12). -/
structure Saved where
  launch : Nat
  core : Nat
  image : Core
  /-- Causes raised on the program while it is off its core (R402). -/
  raised : List Async
  /-- The counter of free values at the save, which tells the open bytes of its area. -/
  stamp : Nat
  deriving DecidableEq, Repr

/-! ## The module -/

/-- A translation held by a die's TLBs (R262). `range` tells a range entry from a page-table leaf; it covers
virtual bytes `va … va + size − 1`. -/
structure TlbEntry where
  die : Nat
  asid : BitVec 16
  range : Bool
  va : Nat
  size : Nat
  phys : Nat
  perm : BitVec 4
  lattice : BitVec 3
  mode : BitVec 2
  deriving DecidableEq, Repr

/-- A page request outstanding at the host (R263, R469). -/
structure PageReq where
  tag : Nat
  asid : BitVec 16
  page : Nat
  deriving DecidableEq, Repr

/-- A line of a migrating page (R314): the address space and the virtual address that name it, its old and its new home
by granule number, and whether its copy to the new home has committed. -/
structure MigLine where
  asid : BitVec 16
  va : Nat
  old : Nat
  new : Nat
  done : Bool
  deriving DecidableEq, Repr

/-- A line that a home slice holds over a change of its stack's selector masks, by its number o / 128 (R342). -/
structure HeldLine where
  line : Nat
  bytes : List Byte
  poisoned : Bool
  unmet : Bool
  deriving DecidableEq, Repr

/-- One stack's register block and refresh state (R273, R274, R283). -/
structure Stack where
  quiesce : Bool
  maskErr : Bool
  refOwn : Bool
  missed : Nat
  takeovers : Nat
  masks : Vector (BitVec 36) 6
  beats : Word
  /-- The controller has told the base die to stop refreshing and waits for its acknowledgement (R283). -/
  takeover : Bool
  /-- Catch-up after a takeover is in progress (R283, R284). -/
  catchUp : Bool
  /-- The stack was reported as an uncorrected fault (R284). -/
  failed : Bool
  /-- The lines held by home slices since the first mask write of this quiescing (R342). -/
  held : Option (List HeldLine)
  deriving DecidableEq, Repr

/-- One queue's registers (R464). -/
structure Queue where
  base : Word
  size : Nat
  write : BitVec 32
  read : BitVec 32
  enable : Bool
  err : Bool
  /-- The host-managed page that the packet at the head waits on (R263). -/
  page : Option PageWait
  deriving DecidableEq, Repr

/-- A walker's state for one launch on one die (R146-R148). -/
structure Walker where
  die : Nat
  lo : Nat
  hi : Nat
  dry : Bool
  /-- Cores whose requests wait, in order of arrival. -/
  queue : List Nat
  /-- Dies still to be asked by the steal in flight, and whether it has been given a range. -/
  steal : Option (List Nat)
  got : Bool
  deriving DecidableEq, Repr

/-- The loop-nest record of a launch (R143). -/
structure Nest where
  ndim : Nat
  extent : Vector Nat 4
  step : Vector Int 4
  order : Vector Nat 4
  /-- The dies that hold ranges, in ring order (R146). -/
  ring : List Nat
  deriving DecidableEq, Repr

/-- A group of a launch on one die (R139, R425). -/
structure Group where
  die : Nat
  base : Nat
  number : Nat
  /-- The group was pre-empted and is off its cores. -/
  preempted : Bool
  /-- When the group was granted, for the choice of victims (R425). -/
  stamp : Nat
  deriving DecidableEq, Repr

/-- A launch accepted by the launch unit and not yet ended (R466). -/
structure Launch where
  id : Nat
  queue : Nat
  index : BitVec 32
  prio : Nat
  isolate : Bool
  fresh : Bool
  msix : Bool
  vector : BitVec 11
  asid : BitVec 16
  dieMask : BitVec 8
  w : Nat
  g : Nat
  entry : Word
  args : Word
  completion : Word
  faultArea : Word
  faultCap : Nat
  dieChan : Option (BitVec 3)
  quadChan : Option (BitVec 2)
  image : List Word
  descs : Option (List Desc)
  nest : Option Nest
  walkers : List Walker
  groups : List Group
  /-- Groups granted so far on each die. -/
  granted : Vector Nat 8
  /-- Programs whose end has been reported, and engine instructions of ended programs still in flight. -/
  ended : Nat
  status : Nat
  cause : Option Cause
  written : Nat
  lost : Nat
  /-- The launch has left the head of its queue (R138). -/
  leftHead : Bool
  /-- Held off by PREEMPT.HOLD (R468). -/
  hold : Bool
  /-- The host-managed page that its completion record waits on (R263). -/
  page : Option PageWait
  deriving DecidableEq, Repr

/-- A barrier-network channel claimed by a group (R137, R141). -/
structure Channel where
  die : Nat
  /-- The quad of a quad channel; `none` for a die channel. -/
  quad : Option Nat
  number : Nat
  launch : Nat
  parts : List Nat
  gen : Bool
  arrived : List Nat
  deriving DecidableEq, Repr

/-- A lattice region table entry as written (R445), with the round state of this module's replicas (R448). -/
structure LrtEntry where
  v : Bool
  err : Bool
  /-- Every other bit written to words 0-3, reserved bits included. -/
  raw : Vector Word 4
  /-- The words by which the entry is in force; a round in progress is finished by them after V is cleared (R445). -/
  live : Vector Word 4
  /-- For each replica of this module: its index, the round it has begun, and whether its exchange is done. -/
  replicas : List (Nat × Nat × Bool)
  /-- CCYCLE at which each replica's round began, in the order of `replicas`. -/
  began : List Nat
  /-- Exchange stops after the round in progress (R445). -/
  stopping : Bool
  deriving DecidableEq, Repr

/-- A ring of a port (R454-R456). -/
structure Ring where
  entry : Word
  next : Nat
  rxPkt : Word
  rxByte : Word
  dropPkt : Word
  dropByte : Word
  authPkt : Word
  authByte : Word
  noKey : Word
  big : Word
  /-- RECORD of the descriptor that posted records last (R455). -/
  record : Option Nat
  deriving DecidableEq, Repr

/-- An Ethernet port (R452-R456); an unlisted steering or ring entry is zero. -/
structure Port where
  steer : List (Nat × Word)
  rings : List (Nat × Ring)
  malformed : Word
  unsteered : Word
  deriving DecidableEq, Repr

/-- A key operation in progress (R469). -/
structure KeyOp where
  slot : Nat
  op : Nat
  deriving DecidableEq, Repr

/-- The registers of the module block (R462) and the unit states behind them. -/
structure Module where
  feature : BitVec 128
  faccept : BitVec 128
  mstate : BitVec 2
  step : BitVec 3
  fails : BitVec 2
  warm : Bool
  /-- The start in progress runs the steps of a cold start (R471). -/
  coldStart : Bool
  pkg : BitVec 13
  astBase : Word
  astLen : Word
  preempt : Word
  powerCap : Nat
  hot : Bool
  crit : Bool
  capped : Bool
  keyCmd : Word
  keyBusy : Option KeyOp
  keyData : Vector Word 4
  errHead : Word
  /-- The circular error log: word 0 and word 1 by entry number modulo 256; unlisted entries are zero. -/
  errLog : List (Nat × Word × Word)
  rtEntry : Word
  keys : List (Nat × BitVec 256)
  kbTimeout : Nat
  kbLive : BitVec 16
  kbRetry : BitVec 32
  routes : List (Nat × Word)
  /-- Packages in reset or in management-only operation (an input; R442). -/
  peersDown : List Nat
  deadBridges : List Nat
  /-- Units with a lasting fault (R424): home slices whose cache is disabled, rows reported for retirement. -/
  badSlices : List Nat
  badRows : List Nat
  /-- Units whose self-test is running (R423). -/
  testing : List ErrUnit
  pageReqs : List PageReq
  prgFailed : Bool
  /-- MSI-X vectors sent, oldest first (R465, R468). -/
  msix : List (BitVec 11)
  /-- Messages to the host's page-request unit, oldest first (R469). -/
  requests : List PageReq
  deriving DecidableEq, Repr

/-- The turn that the schedule gives next: which agent acts, or which event occurs. -/
inductive Turn where
  | cp (core : Nat)
  | kernel (core : Nat)
  | stream (core : Nat)
  | event (i : Instr)
  deriving DecidableEq, Repr

/-- The place a word executes in (R67, R70). -/
inductive Place where
  | cp | s | v0 | v1 | m | c0 | c1 | x
  deriving DecidableEq, Repr

/-- The state of the machine. `core` is the core whose turn it is (number `focus`, 96 × die + core); the others
stand in `parked`, where an unlisted core is as `Core.reset` leaves it. -/
structure State where
  focus : Nat
  core : Core
  parked : List (Nat × Core)
  /-- Where the word in execution stands, and the header of its bundle. -/
  place : Place
  limm : BitVec 32
  scope : BitVec 3
  /-- HBM bytes that are not zero, sorted by cell key (R264, R270, R488). -/
  mem : List Host.Cell
  /-- Poisoned granules, sorted by granule key (R417). -/
  poison : List Nat
  /-- Poisoned granules that no access has met yet: the first that does raises UNCORRECTED_HBM (R417). -/
  unmet : List Nat
  /-- Bytes of the host window that this module has written, sorted. -/
  hostMem : List Host.Cell
  hbm : Vector Stack 16
  queues : Vector Queue 64
  /-- Per priority, the queue served last (R138). -/
  served : Vector Nat 8
  launches : List Launch
  /-- Grants made since reset: the next launch number and the next group stamp. -/
  nextLaunch : Nat
  channels : List Channel
  lrt : Vector LrtEntry 64
  ports : Vector Port 8
  tlb : List TlbEntry
  migrating : List MigLine
  /-- Contexts saved and not yet restored (R430). -/
  saved : List Saved
  objErr : List ObjErr
  md : Module
  /-- The schedule: whose turn comes next (an input; R7). -/
  agenda : List Turn
  /-- CCYCLE (R30). -/
  clock : Nat
  /-- Counter of the free values, one for each use (the model's own). -/
  fresh : Nat
  deriving DecidableEq, Repr

/-! ## Outcomes -/

/-- The faults of the model. -/
inductive Fault where
  /-- Raised by no instruction: the manual gives every access an outcome of its own, and a fatal cause stops one
  core and not the module (R403). Safe: it would only forbid behaviours. -/
  | unused
  deriving DecidableEq, Repr

/-- The refusals of the model. -/
inductive Refusal where
  /-- An operation without a meaning: raised by `exec` alone, for an arm not yet modelled. Safe: nothing is
  claimed of such a step. -/
  | notModelled (mnemonic : String)
  deriving DecidableEq, Repr

/-- The outcome of one operation. -/
abbrev Out := Host.Outcome State Fault Refusal

/-! ## Reset -/

def AccLane.reset : AccLane := ⟨none, List.replicate 1024 0, false, false, false⟩
def LatchScale.reset : LatchScale := ⟨0, 0⟩
def LatchLane.reset : LatchLane := ⟨0, false, false, false, 0, Vector.replicate 4 LatchScale.reset⟩

/-- The CP after reset: CSTAT.MODE 1 and WDLOG 24, every other field 0 (R24-R29); the registers to which the manual
gives no reset value are 0 (log 1). -/
def CP.reset : CP where
  g := Vector.replicate 32 0
  p := 1
  pc := 0
  cstat := 0x180001
  csave := 0
  ctvec := 0
  ctpc := 0
  ccause := 0
  ctaddr := 0
  ctinfo := 0
  cscratch := Vector.replicate 4 0
  casid := 0
  cflags := 0
  run := .off
  pending := []
  wait := none
  work := .idle
  icache := []
  vecSet := false
  remote := none
  fetched := 0

/-- The kernel engine at reset and at grant (R108). -/
def Kern.reset : Kern where
  k := Vector.replicate 32 0
  p := 1
  v := Vector.replicate 64 0
  m := Vector.replicate 8 0
  acc := Vector.replicate 4 (Vector.replicate 16 AccLane.reset)
  latch := Vector.replicate 4 (Vector.replicate 16 LatchLane.reset)
  lflags := Vector.replicate 16 0
  kpc := 0
  kstat := 0
  kdtarget := 0
  kcause := 0
  kinfo := 0
  kflags := 0
  store := []
  ktime := 0
  nextIssue := 0
  nextPc := 0
  resume := 0
  seq := 0
  pend := []
  landing := Vector.replicate 32 none
  wqueue := Vector.replicate 32 none
  undo := []
  shown := 0
  passes := []
  xforms := []
  busy := Vector.replicate 4 0
  fenceRel := false
  freeze := .none
  held := []
  issuing := none
  stop := none
  fault := none
  krun := none
  preStop := false

/-- The stream unit at grant (R240, R354): no descriptor, every token idle. -/
def StreamUnit.reset : StreamUnit where
  sd := Vector.replicate 16 ⟨0, 0⟩
  tok := Vector.replicate 8 0
  tokRec := Vector.replicate 8 0
  queue := []
  flight := []
  owed := []
  seq := 0
  unreported := []
  overflow := none
  objPage := none

def Arrival.reset : Arrival := ⟨none, none⟩

/-- The context register block at reset (R429). -/
def Ctx.reset : Ctx := ⟨0, 0x300, 200, false, false, false, false, 0, false, false⟩

def Core.reset : Core where
  cp := CP.reset
  kern := Kern.reset
  st := StreamUnit.reset
  srf := []
  srfPoison := []
  prog := none
  arrQuad := Arrival.reset
  arrDie := Arrival.reset
  ctx := Ctx.reset
  fenced := false
  badBanks := []
  outOfService := false

/-- The default selector masks (R274). -/
def Stack.maskReset (i : Nat) : BitVec 36 := BitVec.ofNat 36 (2 ^ (7 + i) + 2 ^ (20 + i))

def Stack.reset : Stack where
  quiesce := false
  maskErr := false
  refOwn := false
  missed := 0
  takeovers := 0
  masks := #v[Stack.maskReset 0, Stack.maskReset 1, Stack.maskReset 2, Stack.maskReset 3, Stack.maskReset 4,
    Stack.maskReset 5]
  beats := 0
  takeover := false
  catchUp := false
  failed := false
  held := none

def Queue.reset : Queue := ⟨0, 4, 0, 0, false, false, none⟩

/-- A lattice region table entry at reset: PIN 1 and POUT 10, the other fields 0 (R445). -/
def LrtEntry.reset : LrtEntry where
  v := false
  err := false
  raw := #v[0, 0, 0, 0xA0001]
  live := #v[0, 0, 0, 0xA0001]
  replicas := []
  began := []
  stopping := false

def Ring.reset : Ring := ⟨0, 0, 0, 0, 0, 0, 0, 0, 0, 0, none⟩
def Port.reset : Port := ⟨[], [], 0, 0⟩

/-- The module block at reset (R441, R462). FEATURE is written by start-up and is 0 before it (log 1). -/
def Module.reset : Module where
  feature := 0
  faccept := 0
  mstate := 0
  step := 0
  fails := 0
  warm := false
  coldStart := false
  pkg := 0
  astBase := 0
  astLen := 0
  preempt := 0
  powerCap := 4000
  hot := false
  crit := false
  capped := false
  keyCmd := 0
  keyBusy := none
  keyData := Vector.replicate 4 0
  errHead := 0
  errLog := []
  rtEntry := 0
  keys := []
  kbTimeout := 100
  kbLive := 0
  kbRetry := 0
  routes := []
  peersDown := []
  deadBridges := []
  badSlices := []
  badRows := []
  testing := []
  pageReqs := []
  prgFailed := false
  msix := []
  requests := []

/-- The machine right after reset: MSTAT.STATE 0, no core granted, nothing in memory (R462, R471, R488). -/
def State.reset : State where
  focus := 0
  core := Core.reset
  parked := []
  place := .cp
  limm := 0
  scope := 0
  mem := []
  poison := []
  unmet := []
  hostMem := []
  hbm := Vector.replicate 16 Stack.reset
  queues := Vector.replicate 64 Queue.reset
  served := Vector.replicate 8 63
  launches := []
  nextLaunch := 0
  channels := []
  lrt := Vector.replicate 64 LrtEntry.reset
  ports := Vector.replicate 8 Port.reset
  tlb := []
  migrating := []
  saved := []
  objErr := []
  md := Module.reset
  agenda := []
  clock := 0
  fresh := 0

end Sys2Proof.Machine
end

