-- ==== Sys2Proof/Machine/Entry.lean ====
section
/-! DEFINITION. The opcode map: how a word is laid out by form, where an opcode is legal, and the checks that R72
makes of a word's own fields before it executes. -/

namespace Sys2Proof.Machine

/-! ## Forms and words -/

/-- The fields of an R-form word (R58). -/
def RForm.ofWord (w : Word) : RForm where
  guard := w.extractLsb' 52 4
  d := w.extractLsb' 46 6
  a := w.extractLsb' 40 6
  b := w.extractLsb' 34 6
  c := w.extractLsb' 28 6
  fn := w.extractLsb' 20 8
  ty := w.extractLsb' 15 5
  rm := w.extractLsb' 12 3
  sat := w.extractLsb' 11 1
  l := w.extractLsb' 10 1
  hint := w.extractLsb' 0 10

/-- The word of an R form (R58). -/
def RForm.toWord (o : BitVec 8) (f : RForm) : Word :=
  o ++ f.guard ++ f.d ++ f.a ++ f.b ++ f.c ++ f.fn ++ f.ty ++ f.rm ++ f.sat ++ f.l ++ f.hint

/-- The fields of an I-form word (R58). -/
def IForm.ofWord (w : Word) : IForm where
  guard := w.extractLsb' 52 4
  d := w.extractLsb' 46 6
  a := w.extractLsb' 40 6
  fn := w.extractLsb' 32 8
  imm := w.extractLsb' 0 32

def IForm.toWord (o : BitVec 8) (f : IForm) : Word :=
  o ++ f.guard ++ f.d ++ f.a ++ f.fn ++ f.imm

/-- The fields of a J-form word (R58). -/
def JForm.ofWord (w : Word) : JForm where
  guard := w.extractLsb' 52 4
  fn := w.extractLsb' 48 4
  d := w.extractLsb' 42 6
  disp := w.extractLsb' 0 42

def JForm.toWord (o : BitVec 8) (f : JForm) : Word :=
  o ++ f.guard ++ f.fn ++ f.d ++ f.disp

/-- The fields of an M-form word (R58). -/
def MForm.ofWord (w : Word) : MForm where
  guard := w.extractLsb' 52 4
  d := w.extractLsb' 46 6
  a := w.extractLsb' 40 6
  b := w.extractLsb' 34 6
  ty := w.extractLsb' 29 5
  ord := w.extractLsb' 27 2
  sc := w.extractLsb' 24 3
  due := w.extractLsb' 16 8
  off := w.extractLsb' 0 16

def MForm.toWord (o : BitVec 8) (f : MForm) : Word :=
  o ++ f.guard ++ f.d ++ f.a ++ f.b ++ f.ty ++ f.ord ++ f.sc ++ f.due ++ f.off

/-- The fields of an S-form word (R372). -/
def SForm.ofWord (w : Word) : SForm where
  guard := w.extractLsb' 52 4
  sd := w.extractLsb' 48 4
  se := w.extractLsb' 44 4
  te := w.extractLsb' 43 1
  tk := w.extractLsb' 40 3
  ga := w.extractLsb' 35 5
  gb := w.extractLsb' 30 5
  gc := w.extractLsb' 25 5
  gd := w.extractLsb' 20 5
  gx := w.extractLsb' 15 5
  gg := w.extractLsb' 10 5
  fn := w.extractLsb' 6 4
  ser := w.extractLsb' 5 1
  z := w.extractLsb' 0 5

def SForm.toWord (o : BitVec 8) (f : SForm) : Word :=
  o ++ f.guard ++ f.sd ++ f.se ++ f.te ++ f.tk ++ f.ga ++ f.gb ++ f.gc ++ f.gd ++ f.gx ++ f.gg ++ f.fn ++ f.ser ++ f.z

/-- A word as its form and opcode. -/
inductive Raw where
  | r (opc : BitVec 8) (w : RForm)
  | i (opc : BitVec 8) (w : IForm)
  | j (opc : BitVec 8) (w : JForm)
  | m (opc : BitVec 8) (w : MForm)
  | s (opc : BitVec 8) (w : SForm)
  deriving DecidableEq, Repr

def Raw.opc : Raw → BitVec 8
  | .r o _ => o
  | .i o _ => o
  | .j o _ => o
  | .m o _ => o
  | .s o _ => o

def Raw.guard : Raw → BitVec 4
  | .r _ w => w.guard
  | .i _ w => w.guard
  | .j _ w => w.guard
  | .m _ w => w.guard
  | .s _ w => w.guard

def Raw.toWord : Raw → Word
  | .r o w => RForm.toWord o w
  | .i o w => IForm.toWord o w
  | .j o w => JForm.toWord o w
  | .m o w => MForm.toWord o w
  | .s o w => SForm.toWord o w

/-! ## Where an opcode is assigned and legal (R70, R71) -/

/-- An opcode that some instruction entry uses (R70). -/
def opcAssigned (o : BitVec 8) : Bool :=
  let n := o.toNat
  (1 ≤ n && n ≤ 0x2E) || (0x40 ≤ n && n ≤ 0x62) || (0x80 ≤ n && n ≤ 0x88) || (0xA0 ≤ n && n ≤ 0xA7) ||
    (0xB0 ≤ n && n ≤ 0xC8) || (0xD0 ≤ n && n ≤ 0xE8)

/-- The places where an assigned opcode is legal (R70). -/
def opcLegal (o : BitVec 8) (pl : Place) : Bool :=
  let n := o.toNat
  if n ≤ 0x2E then pl == .cp || pl == .s
  else if n ≤ 0x62 then pl == .v0 || pl == .v1
  else if n ≤ 0x88 then pl == .m
  else if n ≤ 0xA7 then pl == .x
  else if n ≤ 0xBD then pl == .cp || pl == .s
  else if n ≤ 0xC3 then pl == .c0 || pl == .c1
  else if n ≤ 0xC6 then pl == .cp || pl == .s
  else if n ≤ 0xC8 then pl == .cp
  else if n ≤ 0xDF then pl == .cp
  else if n ≤ 0xE2 then pl == .cp || pl == .s
  else pl == .cp

/-- What the checks of a word depend on beside the word: its place, its bundle's LIMM, and whether spectral mode is
accepted (R463). -/
structure Env where
  place : Place
  limm : BitVec 32
  spectral : Bool
  deriving DecidableEq, Repr

/-! ## Type codes (R63, R173) -/

/-- Type-code sets as bit masks: bit t is set when TY = t is accepted. -/
def tyI : BitVec 32 := 0x0FF
def tyF : BitVec 32 := 0xF00
def tyN : BitVec 32 := 0x3000
def tyC : BitVec 32 := 0x60000
def tyS : BitVec 32 := 0x300
def tyMem : BitVec 32 := 0xFFF
/-- s32, z32, s64, z64, f32 and f64 (R324, R332). -/
def tyAtomic : BitVec 32 := 0x333

def tyIn (t : BitVec 5) (mask : BitVec 32) : Bool := mask.getLsbD t.toNat

def tyIsInt (t : BitVec 5) : Bool := tyIn t tyI

/-- Element width in bits of a lane type (R173). -/
def tyWidth (t : BitVec 5) : Nat :=
  match t.toNat with
  | 0 | 4 | 8 | 18 => 64
  | 1 | 5 | 9 | 17 => 32
  | 2 | 6 | 10 | 11 => 16
  | _ => 8

/-- Elements of a type in a lane word (R173). -/
def tyNel (t : BitVec 5) : Nat := 256 / tyWidth t

/-! ## Hints (R64, R65) -/

/-- A hint is recognised for an opcode: its class is assigned and applies, and its argument is assigned (R64). -/
def hintRecognised (o : BitVec 8) (hint : BitVec 10) : Bool :=
  let c := (hint.extractLsb' 4 4).toNat
  let a := (hint.extractLsb' 0 4).toNat
  let n := o.toNat
  match c with
  | 0 => a == 0
  | 1 => n == 0xC7 && a < 4
  | 2 => 0x2A ≤ n && n ≤ 0x2D && a < 2
  | 3 => ((0x40 ≤ n && n ≤ 0x62) || (0x80 ≤ n && n ≤ 0x88)) && a < 8
  | _ => false

/-! ## Field checks -/

/-- What a failing field check names. -/
structure Check where
  /-- Check 3 passes: every reserved field is zero. -/
  reserved : Bool
  /-- Check 4 passes: type, rounding, scope and selector codes are accepted. -/
  mode : Bool
  /-- Check 5 passes. -/
  due : Bool := true
  deriving DecidableEq, Repr

def all (l : List Bool) : Bool := l.all id

def z6 (x : BitVec 6) : Bool := x == 0
/-- A register field below the size of its file (R62). -/
def lt (x : BitVec 6) (n : Nat) : Bool := x.toNat < n
def gk (x : BitVec 6) : Bool := lt x 32

/-- RM names a rounding mode (R48). -/
def rmOk (r : BitVec 3) : Bool := r.toNat < 5

/-- The L field of a word that may take B from LIMM: only in a kernel slot (R68). -/
def lOk (e : Env) (w : RForm) : Bool := w.l == 0 || e.place != .cp

/-- The immediate selector (R68). -/
def selOk (w : RForm) : Bool := w.l == 0 || w.b.toNat < 3

/-- A B field that names a register of a file of `n`, or the immediate selector when L = 1. -/
def bOk (e : Env) (w : RForm) (n : Nat) : Bool := lOk e w && (w.l == 1 || lt w.b n)

/-- A B field that is not used, with L reserved. -/
def bNone (w : RForm) : Bool := z6 w.b && w.l == 0

/-- MEN and MSK of a masked vector word (R177). -/
def maskOk (w : RForm) : Bool := w.fn.extractLsb' 7 1 == 1 || w.fn.extractLsb' 4 3 == 0
def noMask (w : RForm) : Bool := w.fn.extractLsb' 4 4 == 0

/-- Integer arithmetic (R84). -/
def chkInt (e : Env) (w : RForm) (tys : BitVec 32) (sat unary : Bool) : Check :=
  ⟨all [gk w.d, gk w.a, if unary then bNone w else bOk e w 32, z6 w.c, w.fn == 0, w.rm == 0, sat || w.sat == 0],
   all [tyIn w.ty tys, selOk w], true⟩

/-- Words without type, rounding and saturation: bit operations (R85), `lea` (R86). -/
def chkLog (e : Env) (w : RForm) (unary : Bool) (fn : Bool) : Check :=
  ⟨all [gk w.d, gk w.a, if unary then bNone w else bOk e w 32, z6 w.c, fn, w.ty == 0, w.rm == 0, w.sat == 0],
   selOk w, true⟩

/-- Scalar floating point (R89-R91). -/
def chkFp (e : Env) (w : RForm) (useB useC rm : Bool) : Check :=
  ⟨all [gk w.d, gk w.a, if useB then bOk e w 32 else bNone w, if useC then gk w.c else z6 w.c, w.sat == 0,
        rm || w.rm == 0],
   all [tyIn w.ty tyS, selOk w, rmOk w.rm], true⟩

/-- Predicate words: only the fields of `ok` are used (R88). -/
def chkPred (w : RForm) (ok : Bool) : Check :=
  ⟨all [ok, w.ty == 0, w.rm == 0, w.sat == 0, w.l == 0], true, true⟩

/-- A scalar compare condition is accepted for the type (R87). -/
def condOk (cond : Nat) (isInt : Bool) : Bool := cond < 6 || (cond < 8 && !isInt)

/-- Conversions (R92). -/
def chkCvt (w : RForm) : Check :=
  let src := w.fn.extractLsb' 0 5
  let ii := tyIsInt src && tyIsInt w.ty
  ⟨all [gk w.d, gk w.a, bNone w, z6 w.c, w.fn.extractLsb' 5 3 == 0, !ii || w.rm == 0,
        w.sat == 0 || ii || (tyIsInt w.ty && !tyIsInt src)],
   all [tyIn w.ty tyMem, tyIn src tyMem, rmOk w.rm], true⟩

/-- Element arithmetic (R180): `useB`, `useC` say which operands exist; SAT is for integers where `sat`, RM for
floating types where `rm`. -/
def chkVec (e : Env) (w : RForm) (tys : BitVec 32) (useB useC sat rm : Bool) : Check :=
  ⟨all [if useB then bOk e w 64 else bNone w, useC || z6 w.c, maskOk w,
        w.sat == 0 || (sat && tyIsInt w.ty), w.rm == 0 || (rm && (!tyIsInt w.ty || tys &&& tyI == 0))],
   all [tyIn w.ty tys, selOk w, rmOk w.rm, !(tyIn w.ty tyC && w.l == 1)], true⟩

/-- Bit operations and moves of elements (R182, R189): no rounding and no saturation; a complex TY takes no
immediate (R179). -/
def chkBit (e : Env) (w : RForm) (tys : BitVec 32) (useB imm : Bool) : Check :=
  ⟨all [if useB && imm then bOk e w 64 else if useB then w.l == 0 else bNone w, z6 w.c, maskOk w, w.sat == 0,
        w.rm == 0],
   all [tyIn w.ty tys, selOk w, !(tyIn w.ty tyC && w.l == 1)], true⟩

/-- Mask words (R185). -/
def chkMask (w : RForm) (ok : Bool) (tys : BitVec 32) : Check :=
  ⟨all [ok, z6 w.c, noMask w, w.rm == 0, w.sat == 0, w.l == 0, tys != 0 || w.ty == 0], tys == 0 || tyIn w.ty tys,
   true⟩

/-- `vcvt` (R186). Between two integer types it does not round, so RM is reserved (R48). -/
def chkVcvt (w : RForm) : Check :=
  let src := w.c.extractLsb' 0 5
  let ii := tyIsInt src && tyIsInt w.ty
  let big := max (tyNel src) (tyNel w.ty)
  let small := min (tyNel src) (tyNel w.ty)
  ⟨all [bNone w, w.c.extractLsb' 5 1 == 0, w.fn.extractLsb' 2 2 == 0, maskOk w, w.sat == 0 || ii, !ii || w.rm == 0],
   all [tyIn w.ty (tyI ||| tyF ||| tyN), tyIn src (tyI ||| tyF ||| tyN), rmOk w.rm,
        (w.fn.extractLsb' 0 2).toNat < big / small], true⟩

/-- Format classes by code (R152): KF and KI, MX, packable (R187), listed. -/
def fmtKF (f : Nat) : Bool := 0x18 ≤ f && f ≤ 0x1E
def fmtMX (f : Nat) : Bool := 0x10 ≤ f && f ≤ 0x15
def fmtPackable (f : Nat) : Bool := (5 ≤ f && f ≤ 9) || fmtMX f || fmtKF f || (0x21 ≤ f && f ≤ 0x23)
def fmtListed (f : Nat) : Bool := f ≤ 9 || fmtMX f || fmtKF f || (0x20 ≤ f && f ≤ 0x23) || f == 0x28 || f == 0x29

/-- Registers that one row of 32 values of f32 or bf16 takes (R187). -/
def rowRegs (t : BitVec 5) : Nat := 32 / tyNel t

/-- `vpack` and `vunpack` (R187, R188): for a KF or KI format B is the band scale, a vector register or a 16-bit half
of LIMM; for any other format B and L are zero, and the register groups must end by v63. That both hold for a code
outside R152 or outside the packable set too, before its own cause, is the model's choice (log 20). -/
def chkPack (e : Env) (w : RForm) (pack : Bool) : Check :=
  let f := w.c.toNat
  let kf := fmtKF f
  let rows := rowRegs w.ty
  let scaled := kf || fmtMX f
  let payload := if scaled then 2 else 1
  let dn := if pack then payload else rows
  let an := if pack then rows else payload
  ⟨all [if kf then bOk e w 64 else bNone w, w.sat == 0, w.fn == 0],
   all [tyIn w.ty 0x600, rmOk w.rm, w.l == 0 || w.b == 1 || w.b == 2, w.d.toNat + dn ≤ 64, w.a.toNat + an ≤ 64], true⟩

/-- `tmma` (R206). -/
def chkTmma (e : Env) (w : RForm) (cmad : Bool) : Check :=
  ⟨all [lt w.d 4, lt w.a 4, lt w.b 4, z6 w.c, w.fn.extractLsb' 5 3 == 0, cmad || w.fn.extractLsb' 4 1 == 0,
        w.ty == 0, w.rm == 0, w.sat == 0, w.l == 0],
   all [lt w.a 2, !(lt w.b 2), !cmad || e.spectral], true⟩

/-- `tfill` (R201). -/
def chkFill (w : RForm) (b p : Bool) : Check :=
  ⟨all [lt w.d 4, gk w.a, gk w.c, b, p, w.fn.extractLsb' 4 4 == 0, w.ty == 0, w.rm == 0, w.sat == 0], selOk w, true⟩

/-- The remaining matrix words without type, rounding or immediate (R212). -/
def chkMat (w : RForm) (ok : Bool) : Check :=
  ⟨all [ok, w.ty == 0, w.rm == 0, w.sat == 0, w.l == 0], true, true⟩

/-- X-slot words (R226). -/
def chkX (w : RForm) (d c : Bool) (tys : BitVec 32) (rm fn mode : Bool) : Check :=
  ⟨all [d, gk w.a, gk w.b, c, fn, rm || w.rm == 0, w.sat == 0, w.l == 0, tys != 0 || w.ty == 0],
   all [tys == 0 || tyIn w.ty tys, rmOk w.rm, mode], true⟩

/-- R-form words of the memory chapter without type (R336-R341). -/
def chkAddr (w : RForm) (ok : Bool) : Check :=
  ⟨all [ok, w.ty == 0, w.rm == 0, w.sat == 0, z6 w.c], selOk w, true⟩

def chkI (ok mode : Bool) : Check := ⟨ok, mode, true⟩

/-- Loads, stores and atomics (R61, R96, R319, R324, R327, R328): `plain` fixes ORD and SC to zero, `ords` lists the
accepted ORD codes, and `lands` says that the word returns a value. -/
def chkMem (e : Env) (w : MForm) (ok mode plain lands : Bool) (ords : List Nat) : Check :=
  let cp := e.place == .cp
  ⟨all [ok, gk w.a, !plain || (w.ord == 0 && w.sc == 0), cp || w.sc == 0, w.due == 0 || (!cp && lands)],
   all [mode, ords.contains w.ord.toNat, w.sc.toNat < 6],
   cp || !lands || w.due != 0⟩

/-- C-slot moves (R332). -/
def chkMove (w : MForm) (b mode due : Bool) : Check :=
  ⟨all [gk w.a, b, w.ord == 0, w.sc == 0, due || w.due == 0], mode, true⟩

def z5 (x : BitVec 5) : Bool := x == 0
def z4 (x : BitVec 4) : Bool := x == 0

/-- Fields that every S-form word keeps (R372): bits 4:0 zero, and TK zero when no token is named. -/
def chkS (w : SForm) (ok mode : Bool) : Check :=
  ⟨all [w.z == 0, w.te == 1 || w.tk == 0, ok], mode, true⟩

/-- Immediate stream words name no token, object, gate or serial bit (R386-R390). -/
def chkSImm (w : SForm) (ok mode : Bool) : Check :=
  chkS w (all [z5 w.gx, z5 w.gg, w.ser == 0, z5 w.gc, ok]) mode

/-- The selectors that `rdsys`, `wrsys` and `xchsys` accept on the CP, and whether they are written (R23, R109,
R462). -/
def sysKnown (sel : Nat) : Bool :=
  sel ≤ 6 || (8 ≤ sel && sel ≤ 0xB) || (0x10 ≤ sel && sel ≤ 0x13) || (0x20 ≤ sel && sel ≤ 0x25) ||
    (0x30 ≤ sel && sel ≤ 0x33)
def sysWritable (sel : Nat) : Bool := sysKnown sel && sel != 0x10 && sel != 0x11 && sel < 0x30
/-- The selectors that `rdsys` accepts in the S slot (R99, R109). -/
def sysKernel (sel : Nat) : Bool := sel == 0x10 || sel == 0x11 || sel == 0x20 || sel == 0x21 || sel == 0x25

/-- The field of a `bfx` word lies in the register (R86): LEN in 1-64 and POS + LEN at most 64. -/
def bfxOk (imm : BitVec 32) : Bool :=
  let pos := (imm.extractLsb' 0 6).toNat
  let len := (imm.extractLsb' 8 7).toNat
  1 ≤ len && len ≤ 64 && pos + len ≤ 64

/-- TY names a lattice type (R328). -/
def latOk (t : BitVec 5) : Bool := t.extractLsb' 3 2 == 0 && t != 0

/-- Registers that one accumulator row takes (R214). -/
def taccRegs (w : RForm) : Nat :=
  if z6 w.c then (if tyIn w.ty tyC then 16 else 32) / tyNel w.ty
  else if fmtMX w.c.toNat || fmtKF w.c.toNat then 2 else 1

/-! ## The table -/

/-- The opcode and form of an instruction; `none` for an event. -/
def Instr.raw : Instr → Option Raw
  | .add w => some (.r 0x01 w)
  | .sub w => some (.r 0x02 w)
  | .mul w => some (.r 0x03 w)
  | .mulh w => some (.r 0x04 w)
  | .div w => some (.r 0x05 w)
  | .rem w => some (.r 0x06 w)
  | .min w => some (.r 0x07 w)
  | .max w => some (.r 0x08 w)
  | .abs w => some (.r 0x09 w)
  | .neg w => some (.r 0x0A w)
  | .and w => some (.r 0x0B w)
  | .or w => some (.r 0x0C w)
  | .xor w => some (.r 0x0D w)
  | .andn w => some (.r 0x0E w)
  | .shl w => some (.r 0x0F w)
  | .shr w => some (.r 0x10 w)
  | .sra w => some (.r 0x11 w)
  | .bcntPop w => some (.r 0x12 w)
  | .bcntClz w => some (.r 0x12 w)
  | .bcntCtz w => some (.r 0x12 w)
  | .addi w => some (.i 0x13 w)
  | .andi w => some (.i 0x14 w)
  | .ori w => some (.i 0x14 w)
  | .xori w => some (.i 0x14 w)
  | .andni w => some (.i 0x14 w)
  | .shli w => some (.i 0x15 w)
  | .shri w => some (.i 0x15 w)
  | .srai w => some (.i 0x15 w)
  | .movi w => some (.i 0x16 w)
  | .movh w => some (.i 0x17 w)
  | .lea w => some (.r 0x18 w)
  | .pcrel w => some (.i 0x19 w)
  | .bfxZ w => some (.i 0x2E w)
  | .bfxS w => some (.i 0x2E w)
  | .bfxI w => some (.i 0x2E w)
  | .cmp w => some (.r 0x1A w)
  | .cmpi w => some (.i 0x1B w)
  | .pand w => some (.r 0x1C w)
  | .por w => some (.r 0x1C w)
  | .pxor w => some (.r 0x1C w)
  | .pandn w => some (.r 0x1C w)
  | .porn w => some (.r 0x1C w)
  | .pmovGet w => some (.r 0x1D w)
  | .pmovPut w => some (.r 0x1D w)
  | .sel w => some (.r 0x1E w)
  | .fadd w => some (.r 0x1F w)
  | .fsub w => some (.r 0x20 w)
  | .fmul w => some (.r 0x21 w)
  | .fdiv w => some (.r 0x22 w)
  | .fsqrt w => some (.r 0x23 w)
  | .fma w => some (.r 0x24 w)
  | .fmin w => some (.r 0x25 w)
  | .fmax w => some (.r 0x26 w)
  | .fsgnCpy w => some (.r 0x27 w)
  | .fsgnNeg w => some (.r 0x27 w)
  | .fsgnXor w => some (.r 0x27 w)
  | .fclass w => some (.r 0x28 w)
  | .cvt w => some (.r 0x29 w)
  | .br w => some (.j 0x2A w)
  | .call w => some (.j 0x2A w)
  | .jmp w => some (.r 0x2B w)
  | .bcz w => some (.i 0x2C w)
  | .loop w => some (.i 0x2D w)
  | .ld w => some (.m 0xB0 w)
  | .st w => some (.m 0xB1 w)
  | .rdsys w => some (.i 0xE0 w)
  | .wrsys w => some (.i 0xE3 w)
  | .xchsys w => some (.i 0xE7 w)
  | .trapSw w => some (.i 0xE1 w)
  | .trapCall w => some (.i 0xE1 w)
  | .brk w => some (.i 0xE2 w)
  | .tret w => some (.i 0xE4 w)
  | .halt w => some (.i 0xE5 w)
  | .idle w => some (.i 0xE6 w)
  | .work w => some (.i 0xE8 w)
  | .vadd w => some (.r 0x40 w)
  | .vsub w => some (.r 0x41 w)
  | .vmul w => some (.r 0x42 w)
  | .vmulh w => some (.r 0x43 w)
  | .vfma w => some (.r 0x44 w)
  | .vfms w => some (.r 0x44 w)
  | .vfnma w => some (.r 0x44 w)
  | .vfnms w => some (.r 0x44 w)
  | .vmin w => some (.r 0x45 w)
  | .vmax w => some (.r 0x46 w)
  | .vabs w => some (.r 0x47 w)
  | .vneg w => some (.r 0x47 w)
  | .vclamp w => some (.r 0x5D w)
  | .vsgnCpy w => some (.r 0x5E w)
  | .vsgnNeg w => some (.r 0x5E w)
  | .vsgnXor w => some (.r 0x5E w)
  | .vrint w => some (.r 0x61 w)
  | .vrintX w => some (.r 0x61 w)
  | .vscale w => some (.r 0x62 w)
  | .vfnDiv w => some (.r 0x48 w)
  | .vfnSqrt w => some (.r 0x48 w)
  | .vfnRsqrt w => some (.r 0x48 w)
  | .vfnRecip w => some (.r 0x48 w)
  | .vfnExp w => some (.r 0x48 w)
  | .vfnExp2 w => some (.r 0x48 w)
  | .vfnLog w => some (.r 0x48 w)
  | .vfnLog2 w => some (.r 0x48 w)
  | .vfnTanh w => some (.r 0x48 w)
  | .vfnLogistic w => some (.r 0x48 w)
  | .vfnSinpi w => some (.r 0x48 w)
  | .vfnCospi w => some (.r 0x48 w)
  | .vlogAnd w => some (.r 0x49 w)
  | .vlogOr w => some (.r 0x49 w)
  | .vlogXor w => some (.r 0x49 w)
  | .vlogAndn w => some (.r 0x49 w)
  | .vlogNot w => some (.r 0x49 w)
  | .vshShl w => some (.r 0x4A w)
  | .vshShr w => some (.r 0x4A w)
  | .vshSra w => some (.r 0x4A w)
  | .vbcntPop w => some (.r 0x5F w)
  | .vbcntClz w => some (.r 0x5F w)
  | .vbcntCtz w => some (.r 0x5F w)
  | .vcmp w => some (.r 0x4B w)
  | .vsel w => some (.r 0x4C w)
  | .mlogAnd w => some (.r 0x4D w)
  | .mlogOr w => some (.r 0x4D w)
  | .mlogXor w => some (.r 0x4D w)
  | .mlogAndn w => some (.r 0x4D w)
  | .mlogNot w => some (.r 0x4D w)
  | .mlogSet w => some (.r 0x4D w)
  | .mlogClr w => some (.r 0x4D w)
  | .mpopCnt w => some (.r 0x4E w)
  | .mpopFirst w => some (.r 0x4E w)
  | .vcvt w => some (.r 0x4F w)
  | .vpack w => some (.r 0x50 w)
  | .vunpack w => some (.r 0x51 w)
  | .vpermIdx w => some (.r 0x52 w)
  | .vpermRot w => some (.r 0x52 w)
  | .vpermXor w => some (.r 0x52 w)
  | .vbcastLane w => some (.r 0x53 w)
  | .vbcastElem w => some (.r 0x53 w)
  | .vshuf w => some (.r 0x54 w)
  | .vred w => some (.r 0x55 w)
  | .vscan w => some (.r 0x56 w)
  | .vidx w => some (.r 0x57 w)
  | .vidxElem w => some (.r 0x57 w)
  | .vidxFlat w => some (.r 0x57 w)
  | .vmovk w => some (.r 0x58 w)
  | .vext w => some (.r 0x59 w)
  | .vins w => some (.r 0x5A w)
  | .vflagRd w => some (.r 0x5B w)
  | .vflagWr w => some (.r 0x5B w)
  | .vflagClr w => some (.r 0x5B w)
  | .vcmul w => some (.r 0x5C w)
  | .vcmulConj w => some (.r 0x5C w)
  | .vcmulFma w => some (.r 0x5C w)
  | .vcmulFmac w => some (.r 0x5C w)
  | .vdot w => some (.r 0x60 w)
  | .tfillAll w => some (.r 0xC3 w)
  | .tfillPart w => some (.r 0xC3 w)
  | .tfillGath w => some (.r 0xC3 w)
  | .tmmaMadd w => some (.r 0x80 w)
  | .tmmaAdif w => some (.r 0x80 w)
  | .tmmaCselmax w => some (.r 0x80 w)
  | .tmmaCselmin w => some (.r 0x80 w)
  | .tmmaCmad w => some (.r 0x80 w)
  | .tmmaSeq w => some (.r 0x80 w)
  | .tclr w => some (.r 0x81 w)
  | .taccRd w => some (.r 0x82 w)
  | .taccWr w => some (.r 0x83 w)
  | .tnorm w => some (.r 0x84 w)
  | .tstatAcc w => some (.r 0x85 w)
  | .tstatLatch w => some (.r 0x85 w)
  | .tcopy w => some (.r 0x86 w)
  | .tqclr w => some (.r 0x87 w)
  | .tmerge w => some (.r 0x88 w)
  | .xfft w => some (.r 0xA0 w)
  | .xifft w => some (.r 0xA1 w)
  | .xtrn w => some (.r 0xA2 w)
  | .xtrnTurn w => some (.r 0xA2 w)
  | .xtrnBack w => some (.r 0xA2 w)
  | .xcvt w => some (.r 0xA3 w)
  | .xexp w => some (.r 0xA4 w)
  | .xsclS w => some (.r 0xA5 w)
  | .xsclU w => some (.r 0xA5 w)
  | .xmov w => some (.r 0xA6 w)
  | .xhdr w => some (.r 0xA7 w)
  | .lds w => some (.m 0xB2 w)
  | .sts w => some (.m 0xB3 w)
  | .ldq w => some (.m 0xB4 w)
  | .stq w => some (.m 0xB5 w)
  | .pref w => some (.m 0xB6 w)
  | .stz w => some (.m 0xB7 w)
  | .amoAdd w => some (.m 0xB8 w)
  | .amoAnd w => some (.m 0xB8 w)
  | .amoOr w => some (.m 0xB8 w)
  | .amoXor w => some (.m 0xB8 w)
  | .amoMin w => some (.m 0xB8 w)
  | .amoMax w => some (.m 0xB8 w)
  | .amoExch w => some (.m 0xB8 w)
  | .amoFadd w => some (.m 0xB8 w)
  | .redAdd w => some (.m 0xB9 w)
  | .redAnd w => some (.m 0xB9 w)
  | .redOr w => some (.m 0xB9 w)
  | .redXor w => some (.m 0xB9 w)
  | .redMin w => some (.m 0xB9 w)
  | .redMax w => some (.m 0xB9 w)
  | .redFadd w => some (.m 0xB9 w)
  | .cas w => some (.m 0xBA w)
  | .join w => some (.m 0xBB w)
  | .ldge w => some (.m 0xBC w)
  | .fenceAcq w => some (.m 0xBD w)
  | .fenceRel w => some (.m 0xBD w)
  | .fenceAr w => some (.m 0xBD w)
  | .fenceSc w => some (.m 0xBD w)
  | .sread w => some (.m 0xBE w)
  | .swrite w => some (.m 0xBF w)
  | .sreadx w => some (.m 0xC0 w)
  | .swritex w => some (.m 0xC1 w)
  | .sbcast w => some (.m 0xC2 w)
  | .cvtaGal w => some (.r 0xC4 w)
  | .cvtaOwn w => some (.r 0xC4 w)
  | .cvtaCore w => some (.r 0xC4 w)
  | .cvtaOff w => some (.r 0xC4 w)
  | .inapGlob w => some (.r 0xC5 w)
  | .inapSrf w => some (.r 0xC5 w)
  | .inapGal w => some (.r 0xC5 w)
  | .inapLocal w => some (.r 0xC5 w)
  | .barArrive w => some (.i 0xC6 w)
  | .barWait w => some (.i 0xC6 w)
  | .barSync w => some (.i 0xC6 w)
  | .cacheIall w => some (.r 0xC7 w)
  | .cacheIline w => some (.r 0xC7 w)
  | .cacheDline w => some (.r 0xC7 w)
  | .cacheDall w => some (.r 0xC7 w)
  | .tlbiAll w => some (.r 0xC8 w)
  | .tlbiAsid w => some (.r 0xC8 w)
  | .tlbiPage w => some (.r 0xC8 w)
  | .tlbiRange w => some (.r 0xC8 w)
  | .sload w => some (.s 0xD0 w)
  | .sstore w => some (.s 0xD1 w)
  | .stileRd w => some (.s 0xD2 w)
  | .stileWr w => some (.s 0xD2 w)
  | .scopy w => some (.s 0xD3 w)
  | .scopyR w => some (.s 0xD3 w)
  | .scopyM w => some (.s 0xD3 w)
  | .sfill w => some (.s 0xD4 w)
  | .sfillR w => some (.s 0xD4 w)
  | .sfillM w => some (.s 0xD4 w)
  | .sgather w => some (.s 0xD5 w)
  | .sscadd w => some (.s 0xD6 w)
  | .srecv w => some (.s 0xD7 w)
  | .krun w => some (.s 0xD8 w)
  | .kwait w => some (.s 0xD9 w)
  | .kresume w => some (.s 0xDA w)
  | .kresumeAbort w => some (.s 0xDA w)
  | .swait w => some (.s 0xDB w)
  | .swaitTest w => some (.s 0xDB w)
  | .swaitAll w => some (.s 0xDB w)
  | .barvArm w => some (.s 0xDC w)
  | .barvArrive w => some (.s 0xDC w)
  | .barvWait w => some (.s 0xDC w)
  | .sdgetW0 w => some (.s 0xDD w)
  | .sdgetW1 w => some (.s 0xDD w)
  | .sdputW0 w => some (.s 0xDD w)
  | .sdputW1 w => some (.s 0xDD w)
  | .sdrec w => some (.s 0xDE w)
  | .snop w => some (.s 0xDF w)
  | _ => none

/-- The selector fields of the word name this constructor (R72, on check 3). -/
def Instr.selects : Instr → Bool
  | .bcntPop w => w.fn == 0
  | .bcntClz w => w.fn == 1
  | .bcntCtz w => w.fn == 2
  | .andi w => w.fn.extractLsb' 0 2 == 0
  | .ori w => w.fn.extractLsb' 0 2 == 1
  | .xori w => w.fn.extractLsb' 0 2 == 2
  | .andni w => w.fn.extractLsb' 0 2 == 3
  | .shli w => w.fn.extractLsb' 0 2 == 0
  | .shri w => w.fn.extractLsb' 0 2 == 1
  | .srai w => w.fn.extractLsb' 0 2 == 2
  | .bfxZ w => w.fn.extractLsb' 0 2 == 0
  | .bfxS w => w.fn.extractLsb' 0 2 == 1
  | .bfxI w => w.fn.extractLsb' 0 2 == 2
  | .cmp w => (w.fn.extractLsb' 0 4).toNat < 8 && w.fn.extractLsb' 6 2 != 3
  | .cmpi w => (w.fn.extractLsb' 4 4).toNat < 8
  | .pand w => w.fn == 0
  | .por w => w.fn == 1
  | .pxor w => w.fn == 2
  | .pandn w => w.fn == 3
  | .porn w => w.fn == 4
  | .pmovGet w => w.fn == 0
  | .pmovPut w => w.fn == 1
  | .fmin w => w.fn.toNat < 2
  | .fmax w => w.fn.toNat < 2
  | .fsgnCpy w => w.fn == 0
  | .fsgnNeg w => w.fn == 1
  | .fsgnXor w => w.fn == 2
  | .br w => w.d == 0
  | .call w => w.d != 0
  | .bcz w => w.fn.toNat < 6
  | .trapSw w => w.fn == 0
  | .trapCall w => w.fn == 1
  | .vadd w => w.fn.extractLsb' 0 4 == 0
  | .vsub w => w.fn.extractLsb' 0 4 == 0
  | .vmul w => w.fn.extractLsb' 0 4 == 0
  | .vmulh w => w.fn.extractLsb' 0 4 == 0
  | .vfma w => w.fn.extractLsb' 0 4 == 0
  | .vfms w => w.fn.extractLsb' 0 4 == 1
  | .vfnma w => w.fn.extractLsb' 0 4 == 2
  | .vfnms w => w.fn.extractLsb' 0 4 == 3
  | .vmin w => w.fn.extractLsb' 0 4 == 0 || w.fn.extractLsb' 0 4 == 1
  | .vmax w => w.fn.extractLsb' 0 4 == 0 || w.fn.extractLsb' 0 4 == 1
  | .vabs w => w.fn.extractLsb' 0 4 == 0
  | .vneg w => w.fn.extractLsb' 0 4 == 1
  | .vclamp w => w.fn.extractLsb' 0 4 == 0
  | .vsgnCpy w => w.fn.extractLsb' 0 4 == 0
  | .vsgnNeg w => w.fn.extractLsb' 0 4 == 1
  | .vsgnXor w => w.fn.extractLsb' 0 4 == 2
  | .vrint w => w.fn.extractLsb' 0 4 == 0
  | .vrintX w => w.fn.extractLsb' 0 4 == 1
  | .vscale w => w.fn.extractLsb' 0 4 == 0
  | .vfnDiv w => w.fn.extractLsb' 0 4 == 0
  | .vfnSqrt w => w.fn.extractLsb' 0 4 == 1
  | .vfnRsqrt w => w.fn.extractLsb' 0 4 == 2
  | .vfnRecip w => w.fn.extractLsb' 0 4 == 3
  | .vfnExp w => w.fn.extractLsb' 0 4 == 4
  | .vfnExp2 w => w.fn.extractLsb' 0 4 == 5
  | .vfnLog w => w.fn.extractLsb' 0 4 == 6
  | .vfnLog2 w => w.fn.extractLsb' 0 4 == 7
  | .vfnTanh w => w.fn.extractLsb' 0 4 == 8
  | .vfnLogistic w => w.fn.extractLsb' 0 4 == 9
  | .vfnSinpi w => w.fn.extractLsb' 0 4 == 10
  | .vfnCospi w => w.fn.extractLsb' 0 4 == 11
  | .vlogAnd w => w.fn.extractLsb' 0 4 == 0
  | .vlogOr w => w.fn.extractLsb' 0 4 == 1
  | .vlogXor w => w.fn.extractLsb' 0 4 == 2
  | .vlogAndn w => w.fn.extractLsb' 0 4 == 3
  | .vlogNot w => w.fn.extractLsb' 0 4 == 4
  | .vshShl w => w.fn.extractLsb' 0 4 == 0
  | .vshShr w => w.fn.extractLsb' 0 4 == 1
  | .vshSra w => w.fn.extractLsb' 0 4 == 2
  | .vbcntPop w => w.fn.extractLsb' 0 4 == 0
  | .vbcntClz w => w.fn.extractLsb' 0 4 == 1
  | .vbcntCtz w => w.fn.extractLsb' 0 4 == 2
  | .vcmp w => (w.fn.extractLsb' 0 4).toNat < 8
  | .mlogAnd w => w.fn.extractLsb' 0 4 == 0
  | .mlogOr w => w.fn.extractLsb' 0 4 == 1
  | .mlogXor w => w.fn.extractLsb' 0 4 == 2
  | .mlogAndn w => w.fn.extractLsb' 0 4 == 3
  | .mlogNot w => w.fn.extractLsb' 0 4 == 4
  | .mlogSet w => w.fn.extractLsb' 0 4 == 5
  | .mlogClr w => w.fn.extractLsb' 0 4 == 6
  | .mpopCnt w => w.fn.extractLsb' 0 4 == 0
  | .mpopFirst w => w.fn.extractLsb' 0 4 == 1
  | .vpermIdx w => w.fn.extractLsb' 0 4 == 0
  | .vpermRot w => w.fn.extractLsb' 0 4 == 1
  | .vpermXor w => w.fn.extractLsb' 0 4 == 2
  | .vbcastLane w => w.fn.extractLsb' 0 4 == 0
  | .vbcastElem w => w.fn.extractLsb' 0 4 == 1
  | .vshuf w => w.fn.extractLsb' 0 4 == 0
  | .vred w => (w.fn.extractLsb' 0 4).toNat < 6
  | .vscan w => (w.fn.extractLsb' 0 3).toNat < 6
  | .vidx w => w.fn.extractLsb' 0 4 == 0
  | .vidxElem w => w.fn.extractLsb' 0 4 == 1
  | .vidxFlat w => w.fn.extractLsb' 0 4 == 2
  | .vmovk w => w.fn.extractLsb' 0 4 == 0
  | .vflagRd w => w.fn.extractLsb' 0 4 == 0
  | .vflagWr w => w.fn.extractLsb' 0 4 == 1
  | .vflagClr w => w.fn.extractLsb' 0 4 == 2
  | .vcmul w => w.fn.extractLsb' 0 4 == 0
  | .vcmulConj w => w.fn.extractLsb' 0 4 == 1
  | .vcmulFma w => w.fn.extractLsb' 0 4 == 2
  | .vcmulFmac w => w.fn.extractLsb' 0 4 == 3
  | .vdot w => w.fn.extractLsb' 0 4 == 0
  | .tfillAll w => w.fn.extractLsb' 0 2 == 0
  | .tfillPart w => w.fn.extractLsb' 0 2 == 1
  | .tfillGath w => w.fn.extractLsb' 0 2 == 2
  | .tmmaMadd w => w.fn.extractLsb' 0 4 == 0
  | .tmmaAdif w => w.fn.extractLsb' 0 4 == 1
  | .tmmaCselmax w => w.fn.extractLsb' 0 4 == 2
  | .tmmaCselmin w => w.fn.extractLsb' 0 4 == 3
  | .tmmaCmad w => w.fn.extractLsb' 0 4 == 4
  | .tmmaSeq w => w.fn.extractLsb' 0 4 == 5
  | .tclr w => (w.fn.extractLsb' 0 4).toNat < 6
  | .taccWr w => (w.fn.extractLsb' 0 4).toNat < 2
  | .tstatAcc w => w.fn.extractLsb' 0 1 == 0
  | .tstatLatch w => w.fn.extractLsb' 0 1 == 1
  | .xfft w => w.fn.toNat < 2
  | .xifft w => w.fn == 0
  | .xtrn w => w.fn == 0
  | .xtrnTurn w => w.fn == 1
  | .xtrnBack w => w.fn == 2
  | .xcvt w => all [w.fn.extractLsb' 0 2 != 3, w.fn.extractLsb' 4 4 == 0, w.fn.extractLsb' 2 2 == 0 || w.fn.extractLsb' 0 2 == 2]
  | .xexp w => w.fn == 0
  | .xsclS w => w.fn == 0
  | .xsclU w => w.fn == 1
  | .xmov w => w.fn == 0
  | .xhdr w => w.fn == 0
  | .amoAdd w => w.off.extractLsb' 12 4 == 0
  | .amoAnd w => w.off.extractLsb' 12 4 == 1
  | .amoOr w => w.off.extractLsb' 12 4 == 2
  | .amoXor w => w.off.extractLsb' 12 4 == 3
  | .amoMin w => w.off.extractLsb' 12 4 == 4
  | .amoMax w => w.off.extractLsb' 12 4 == 5
  | .amoExch w => w.off.extractLsb' 12 4 == 6
  | .amoFadd w => w.off.extractLsb' 12 4 == 7
  | .redAdd w => w.off.extractLsb' 12 4 == 0
  | .redAnd w => w.off.extractLsb' 12 4 == 1
  | .redOr w => w.off.extractLsb' 12 4 == 2
  | .redXor w => w.off.extractLsb' 12 4 == 3
  | .redMin w => w.off.extractLsb' 12 4 == 4
  | .redMax w => w.off.extractLsb' 12 4 == 5
  | .redFadd w => w.off.extractLsb' 12 4 == 7
  | .fenceAcq w => w.ord == 1 && w.off.extractLsb' 0 1 == 0
  | .fenceRel w => w.ord == 2 && w.off.extractLsb' 0 1 == 0
  | .fenceAr w => w.ord == 3 && w.off.extractLsb' 0 1 == 0
  | .fenceSc w => w.ord == 3 && w.off.extractLsb' 0 1 == 1
  | .cvtaGal w => w.fn == 0
  | .cvtaOwn w => w.fn == 1
  | .cvtaCore w => w.fn == 2
  | .cvtaOff w => w.fn == 3
  | .inapGlob w => w.fn == 0
  | .inapSrf w => w.fn == 1
  | .inapGal w => w.fn == 2
  | .inapLocal w => w.fn == 3
  | .barArrive w => w.fn.extractLsb' 0 2 == 0
  | .barWait w => w.fn.extractLsb' 0 2 == 1
  | .barSync w => w.fn.extractLsb' 0 2 == 2
  | .cacheIall w => w.fn == 0
  | .cacheIline w => w.fn == 1
  | .cacheDline w => w.fn == 2
  | .cacheDall w => w.fn == 3
  | .tlbiAll w => w.fn.extractLsb' 0 2 == 0
  | .tlbiAsid w => w.fn.extractLsb' 0 2 == 1
  | .tlbiPage w => w.fn.extractLsb' 0 2 == 2
  | .tlbiRange w => w.fn.extractLsb' 0 2 == 3
  | .stileRd w => w.fn.extractLsb' 0 1 == 0
  | .stileWr w => w.fn.extractLsb' 0 1 == 1
  | .scopy w => w.fn.extractLsb' 0 2 == 0
  | .scopyR w => w.fn.extractLsb' 0 2 == 1
  | .scopyM w => w.fn.extractLsb' 0 2 == 2
  | .sfill w => w.fn.extractLsb' 0 2 == 0
  | .sfillR w => w.fn.extractLsb' 0 2 == 1
  | .sfillM w => w.fn.extractLsb' 0 2 == 2
  | .kwait w => w.fn == 0
  | .kresume w => w.fn == 0
  | .kresumeAbort w => w.fn == 1
  | .swait w => w.te == 1 && w.fn == 0
  | .swaitTest w => w.te == 1 && w.fn == 1
  | .swaitAll w => w.te == 0 && w.fn == 2
  | .barvArm w => w.fn == 0
  | .barvArrive w => w.fn == 1
  | .barvWait w => w.fn == 2
  | .sdgetW0 w => w.fn == 0
  | .sdgetW1 w => w.fn == 1
  | .sdputW0 w => w.fn == 2
  | .sdputW1 w => w.fn == 3
  | .sdrec w => w.fn == 0
  | _ => true

/-- The field checks of an instruction (R72, checks 3-5), hints apart. -/
def Instr.fields (e : Env) : Instr → Check
  | .add w => chkInt e w tyI true false
  | .sub w => chkInt e w tyI true false
  | .mul w => chkInt e w tyI true false
  | .mulh w => chkInt e w tyI false false
  | .div w => chkInt e w tyI true false
  | .rem w => chkInt e w tyI false false
  | .min w => chkInt e w tyI false false
  | .max w => chkInt e w tyI false false
  | .abs w => chkInt e w 0xF true true
  | .neg w => chkInt e w tyI true true
  | .and w => chkLog e w false (w.fn == 0)
  | .or w => chkLog e w false (w.fn == 0)
  | .xor w => chkLog e w false (w.fn == 0)
  | .andn w => chkLog e w false (w.fn == 0)
  | .shl w => chkLog e w false (w.fn == 0)
  | .shr w => chkLog e w false (w.fn == 0)
  | .sra w => chkLog e w false (w.fn == 0)
  | .bcntPop w => chkLog e w true true
  | .bcntClz w => chkLog e w true true
  | .bcntCtz w => chkLog e w true true
  | .addi w => chkI (all [gk w.d, gk w.a, w.fn.extractLsb' 5 3 == 0]) ((w.fn.extractLsb' 0 4).toNat < 8)
  | .andi w => chkI (all [gk w.d, gk w.a, w.fn.extractLsb' 2 6 == 0]) true
  | .ori w => chkI (all [gk w.d, gk w.a, w.fn.extractLsb' 2 6 == 0]) true
  | .xori w => chkI (all [gk w.d, gk w.a, w.fn.extractLsb' 2 6 == 0]) true
  | .andni w => chkI (all [gk w.d, gk w.a, w.fn.extractLsb' 2 6 == 0]) true
  | .shli w => chkI (all [gk w.d, gk w.a, w.fn.extractLsb' 2 6 == 0, w.imm.extractLsb' 6 26 == 0]) true
  | .shri w => chkI (all [gk w.d, gk w.a, w.fn.extractLsb' 2 6 == 0, w.imm.extractLsb' 6 26 == 0]) true
  | .srai w => chkI (all [gk w.d, gk w.a, w.fn.extractLsb' 2 6 == 0, w.imm.extractLsb' 6 26 == 0]) true
  | .movi w => chkI (all [gk w.d, z6 w.a, w.fn.extractLsb' 4 4 == 0]) ((w.fn.extractLsb' 0 4).toNat < 10)
  | .movh w => chkI (all [gk w.d, z6 w.a, w.fn == 0]) true
  | .lea w => { chkLog e w false true with mode := selOk w && decide (w.fn.toNat < 7) }
  | .pcrel w => chkI (all [gk w.d, z6 w.a, w.fn == 0]) true
  | .bfxZ w => chkI (all [gk w.d, gk w.a, w.fn.extractLsb' 2 6 == 0, w.imm.extractLsb' 6 2 == 0, w.imm.extractLsb' 15 17 == 0]) (bfxOk w.imm)
  | .bfxS w => chkI (all [gk w.d, gk w.a, w.fn.extractLsb' 2 6 == 0, w.imm.extractLsb' 6 2 == 0, w.imm.extractLsb' 15 17 == 0]) (bfxOk w.imm)
  | .bfxI w => chkI (all [gk w.d, gk w.a, w.fn.extractLsb' 2 6 == 0, w.imm.extractLsb' 6 2 == 0, w.imm.extractLsb' 15 17 == 0]) (bfxOk w.imm)
  | .cmp w => ⟨all [lt w.d 8, gk w.a, bOk e w 32, z6 w.c, w.fn.extractLsb' 4 2 == 0, w.rm == 0, w.sat == 0], all [tyIn w.ty (tyI ||| tyS), selOk w, condOk (w.fn.extractLsb' 0 4).toNat (tyIsInt w.ty)], true⟩
  | .cmpi w => chkI (all [lt w.d 8, gk w.a]) (all [decide ((w.fn.extractLsb' 0 4).toNat < 10), condOk (w.fn.extractLsb' 4 4).toNat (decide ((w.fn.extractLsb' 0 4).toNat < 8))])
  | .pand w => chkPred w (all [lt w.d 8, lt w.a 8, lt w.b 8, z6 w.c])
  | .por w => chkPred w (all [lt w.d 8, lt w.a 8, lt w.b 8, z6 w.c])
  | .pxor w => chkPred w (all [lt w.d 8, lt w.a 8, lt w.b 8, z6 w.c])
  | .pandn w => chkPred w (all [lt w.d 8, lt w.a 8, lt w.b 8, z6 w.c])
  | .porn w => chkPred w (all [lt w.d 8, lt w.a 8, lt w.b 8, z6 w.c])
  | .pmovGet w => chkPred w (all [gk w.d, z6 w.a, z6 w.b, z6 w.c])
  | .pmovPut w => chkPred w (all [z6 w.d, gk w.a, z6 w.b, z6 w.c])
  | .sel w => chkPred w (all [gk w.d, gk w.a, gk w.b, lt w.c 8, w.fn == 0])
  | .fadd w => { chkFp e w true false true with reserved := (chkFp e w true false true).reserved && w.fn == 0 }
  | .fsub w => { chkFp e w true false true with reserved := (chkFp e w true false true).reserved && w.fn == 0 }
  | .fmul w => { chkFp e w true false true with reserved := (chkFp e w true false true).reserved && w.fn == 0 }
  | .fdiv w => { chkFp e w true false true with reserved := (chkFp e w true false true).reserved && w.fn == 0 }
  | .fsqrt w => { chkFp e w false false true with reserved := (chkFp e w false false true).reserved && w.fn == 0 }
  | .fma w => { chkFp e w true true true with reserved := (chkFp e w true true true).reserved && w.fn == 0 }
  | .fmin w => chkFp e w true false false
  | .fmax w => chkFp e w true false false
  | .fsgnCpy w => chkFp e w true false false
  | .fsgnNeg w => chkFp e w true false false
  | .fsgnXor w => chkFp e w true false false
  | .fclass w => { chkFp e w false false false with reserved := (chkFp e w false false false).reserved && w.fn == 0 }
  | .cvt w => chkCvt w
  | .br w => chkI (z4 w.fn) true
  | .call w => chkI (z4 w.fn && gk w.d) true
  | .jmp w => ⟨all [gk w.d, gk w.a, z6 w.b, z6 w.c, w.fn == 0, w.ty == 0, w.rm == 0, w.sat == 0, w.l == 0], true, true⟩
  | .bcz w => chkI (z6 w.d && gk w.a) true
  | .loop w => chkI (all [gk w.d, z6 w.a, w.fn == 0]) (w.d != 0)
  | .ld w => chkMem e w (all [gk w.d, gk w.b]) (tyIn w.ty tyMem) true true [0]
  | .st w => chkMem e w (all [gk w.d, gk w.b]) (tyIn w.ty tyMem) true false [0]
  | .rdsys w => chkI (all [gk w.d, z6 w.a, w.imm == 0]) (if e.place == .cp then sysKnown w.fn.toNat else sysKernel w.fn.toNat)
  | .wrsys w => chkI (all [z6 w.d, gk w.a, w.imm == 0]) (sysWritable w.fn.toNat)
  | .xchsys w => chkI (all [gk w.d, gk w.a, w.imm == 0]) (sysWritable w.fn.toNat)
  | .trapSw w => chkI (all [z6 w.d, z6 w.a]) true
  | .trapCall w => chkI (all [z6 w.d, z6 w.a]) true
  | .brk w => chkI (all [z6 w.d, z6 w.a, w.fn == 0]) true
  | .tret w => chkI (all [z6 w.d, z6 w.a, w.fn == 0, w.imm == 0]) true
  | .halt w => chkI (all [z6 w.d, z6 w.a, w.fn == 0, w.imm == 0]) true
  | .idle w => chkI (all [z6 w.d, z6 w.a, w.fn == 0, w.imm == 0]) true
  | .work w => chkI (all [z6 w.d, z6 w.a, w.fn == 0, w.imm == 0]) true
  | .vadd w => chkVec e w (tyI ||| tyF ||| tyC) true false true true
  | .vsub w => chkVec e w (tyI ||| tyF ||| tyC) true false true true
  | .vmul w => chkVec e w (tyI ||| tyF) true false true true
  | .vmulh w => chkVec e w tyI true false false false
  | .vfma w => chkVec e w (tyI ||| tyF) true true true true
  | .vfms w => chkVec e w (tyI ||| tyF) true true true true
  | .vfnma w => chkVec e w (tyI ||| tyF) true true true true
  | .vfnms w => chkVec e w (tyI ||| tyF) true true true true
  | .vmin w => chkVec e w (if w.fn.extractLsb' 0 4 == 0 then (tyI ||| tyF) else tyF) true false false false
  | .vmax w => chkVec e w (if w.fn.extractLsb' 0 4 == 0 then (tyI ||| tyF) else tyF) true false false false
  | .vabs w => chkVec e w (0xF ||| tyF) false false true false
  | .vneg w => chkVec e w (tyI ||| tyF) false false true false
  | .vclamp w => chkVec e w (tyI ||| tyF) true true false false
  | .vsgnCpy w => chkVec e w tyF true false false false
  | .vsgnNeg w => chkVec e w tyF true false false false
  | .vsgnXor w => chkVec e w tyF true false false false
  | .vrint w => chkVec e w tyF false false false true
  | .vrintX w => chkVec e w tyF false false false true
  | .vscale w => chkVec e w tyF true false false true
  | .vfnDiv w => chkVec e w 0xF00 true false false true
  | .vfnSqrt w => chkVec e w 0xF00 false false false true
  | .vfnRsqrt w => chkVec e w 0xE00 false false false true
  | .vfnRecip w => chkVec e w 0xE00 false false false true
  | .vfnExp w => chkVec e w 0xE00 false false false true
  | .vfnExp2 w => chkVec e w 0xE00 false false false true
  | .vfnLog w => chkVec e w 0xE00 false false false true
  | .vfnLog2 w => chkVec e w 0xE00 false false false true
  | .vfnTanh w => chkVec e w 0xE00 false false false true
  | .vfnLogistic w => chkVec e w 0xE00 false false false true
  | .vfnSinpi w => chkVec e w 0xE00 false false false true
  | .vfnCospi w => chkVec e w 0xE00 false false false true
  | .vlogAnd w => chkBit e w tyI true true
  | .vlogOr w => chkBit e w tyI true true
  | .vlogXor w => chkBit e w tyI true true
  | .vlogAndn w => chkBit e w tyI true true
  | .vlogNot w => chkBit e w tyI false true
  | .vshShl w => chkBit e w tyI true true
  | .vshShr w => chkBit e w tyI true true
  | .vshSra w => chkBit e w tyI true true
  | .vbcntPop w => chkBit e w tyI false false
  | .vbcntClz w => chkBit e w tyI false false
  | .vbcntCtz w => chkBit e w tyI false false
  | .vcmp w => ⟨all [lt w.d 8, bOk e w 64, z6 w.c, maskOk w, w.rm == 0, w.sat == 0], all [tyIn w.ty (tyI ||| tyF), selOk w, condOk (w.fn.extractLsb' 0 4).toNat (tyIsInt w.ty)], true⟩
  | .vsel w => ⟨all [lt w.c 8, bOk e w 64, w.fn == 0, w.rm == 0, w.sat == 0], all [tyIn w.ty (tyI ||| tyF ||| tyC), selOk w, !(tyIn w.ty tyC && w.l == 1)], true⟩
  | .mlogAnd w => chkMask w (all [lt w.d 8, lt w.a 8, lt w.b 8]) 0
  | .mlogOr w => chkMask w (all [lt w.d 8, lt w.a 8, lt w.b 8]) 0
  | .mlogXor w => chkMask w (all [lt w.d 8, lt w.a 8, lt w.b 8]) 0
  | .mlogAndn w => chkMask w (all [lt w.d 8, lt w.a 8, lt w.b 8]) 0
  | .mlogNot w => chkMask w (all [lt w.d 8, lt w.a 8, z6 w.b]) 0
  | .mlogSet w => chkMask w (all [lt w.d 8, z6 w.a, z6 w.b]) (tyI ||| tyF ||| tyC)
  | .mlogClr w => chkMask w (all [lt w.d 8, z6 w.a, z6 w.b]) 0
  | .mpopCnt w => chkMask w (all [gk w.d, lt w.a 8, z6 w.b]) (tyI ||| tyF ||| tyC)
  | .mpopFirst w => chkMask w (all [gk w.d, lt w.a 8, z6 w.b]) (tyI ||| tyF ||| tyC)
  | .vcvt w => chkVcvt w
  | .vpack w => chkPack e w true
  | .vunpack w => chkPack e w false
  | .vpermIdx w => chkBit e w (tyI ||| tyF ||| tyC) true false
  | .vpermRot w => chkBit e w (tyI ||| tyF ||| tyC) true true
  | .vpermXor w => chkBit e w (tyI ||| tyF ||| tyC) true true
  | .vbcastLane w => chkBit e w (tyI ||| tyF ||| tyC) true true
  | .vbcastElem w => chkBit e w (tyI ||| tyF ||| tyC) true true
  | .vshuf w => chkBit e w (tyI ||| tyF ||| tyC) true false
  | .vred w => chkVec e w (if (w.fn.extractLsb' 0 3).toNat < 3 then tyI ||| tyF else tyI) false false (w.fn.extractLsb' 0 3 == 0) (w.fn.extractLsb' 0 3 == 0)
  | .vscan w => { chkVec e w (if (w.fn.extractLsb' 0 3).toNat < 3 then tyI ||| tyF else tyI) false false (w.fn.extractLsb' 0 3 == 0) (w.fn.extractLsb' 0 3 == 0) with reserved := (chkVec e w (if (w.fn.extractLsb' 0 3).toNat < 3 then tyI ||| tyF else tyI) false false (w.fn.extractLsb' 0 3 == 0) (w.fn.extractLsb' 0 3 == 0)).reserved && noMask w }
  | .vidx w => { chkBit e w tyI false false with reserved := (chkBit e w tyI false false).reserved && z6 w.a }
  | .vidxElem w => { chkBit e w tyI false false with reserved := (chkBit e w tyI false false).reserved && z6 w.a }
  | .vidxFlat w => { chkBit e w tyI false false with reserved := (chkBit e w tyI false false).reserved && z6 w.a }
  | .vmovk w => { chkBit e w (tyI ||| tyF ||| tyC) false false with reserved := (chkBit e w (tyI ||| tyF ||| tyC) false false).reserved && gk w.a }
  | .vext w => ⟨all [gk w.d, lt w.c 16, gk w.b, w.fn == 0, w.rm == 0, w.sat == 0, w.l == 0], all [tyIn w.ty (tyI ||| tyF ||| tyC), decide (w.b.toNat < tyNel w.ty)], true⟩
  | .vins w => ⟨all [gk w.a, lt w.c 16, gk w.b, w.fn == 0, w.rm == 0, w.sat == 0, w.l == 0], all [tyIn w.ty (tyI ||| tyF ||| tyC), decide (w.b.toNat < tyNel w.ty)], true⟩
  | .vflagRd w => chkMat w (all [noMask w, z6 w.a, z6 w.b, z6 w.c])
  | .vflagWr w => chkMat w (all [noMask w, z6 w.d, z6 w.b, z6 w.c])
  | .vflagClr w => chkMat w (all [noMask w, z6 w.d, z6 w.a, z6 w.b, z6 w.c])
  | .vcmul w => chkVec e w tyC true false false true
  | .vcmulConj w => chkVec e w tyC true false false true
  | .vcmulFma w => chkVec e w tyC true true false true
  | .vcmulFmac w => chkVec e w tyC true true false true
  | .vdot w => chkVec e w 0x4CC true true true true
  | .tfillAll w => chkFill w (w.l == 1 || lt w.b 32) (w.fn.extractLsb' 2 2 == 0)
  | .tfillPart w => chkFill w (bNone w) true
  | .tfillGath w => chkFill w (w.l == 0) true
  | .tmmaMadd w => chkTmma e w false
  | .tmmaAdif w => chkTmma e w false
  | .tmmaCselmax w => chkTmma e w false
  | .tmmaCselmin w => chkTmma e w false
  | .tmmaCmad w => chkTmma e w true
  | .tmmaSeq w => chkTmma e w false
  | .tclr w => { chkMat w (all [lt w.d 4, z6 w.a, z6 w.b, z6 w.c, w.fn.extractLsb' 6 2 == 0, w.fn.extractLsb' 4 2 == 0 || w.fn.extractLsb' 0 4 == 4]) with mode := w.fn.extractLsb' 0 4 != 4 || e.spectral }
  | .taccRd w => ⟨all [lt w.a 4, bOk e w 32, w.fn == 0, w.sat == 0, z6 w.c || w.ty == 0], all [!z6 w.c || tyIn w.ty (0xE00 ||| tyC), rmOk w.rm, if z6 w.c then selOk w else w.l == 0 || w.b == 1, decide (w.d.toNat + taccRegs w ≤ 64)], true⟩
  | .taccWr w => ⟨all [lt w.d 4, bOk e w 32, z6 w.c, noMask w, w.rm == 0, w.sat == 0], all [tyIn w.ty (0x600 ||| tyC), selOk w, decide (w.a.toNat + taccRegs w ≤ 64)], true⟩
  | .tnorm w => chkMat w (all [lt w.d 4, z6 w.a, z6 w.b, z6 w.c, w.fn == 0])
  | .tstatAcc w => chkMat w (all [gk w.d, lt w.a 4, z6 w.b, lt w.c 16, w.fn.extractLsb' 1 7 == 0])
  | .tstatLatch w => chkMat w (all [gk w.d, lt w.a 4, z6 w.b, lt w.c 16, w.fn.extractLsb' 1 7 == 0])
  | .tcopy w => chkMat w (all [lt w.d 4, lt w.a 4, z6 w.b, z6 w.c, w.fn == 0])
  | .tqclr w => chkMat w (all [lt w.d 4, z6 w.a, z6 w.b, z6 w.c, w.fn == 0])
  | .tmerge w => chkMat w (all [lt w.d 4, lt w.a 4, z6 w.b, z6 w.c, w.fn == 0])
  | .xfft w => chkX w (z6 w.d) (z6 w.c) tyC true true e.spectral
  | .xifft w => chkX w (z6 w.d) (z6 w.c) (0xE00 ||| tyC) true true e.spectral
  | .xtrn w => chkX w (z6 w.d) (z6 w.c) 0 false true true
  | .xtrnTurn w => chkX w (gk w.d) (gk w.c) 0 false true e.spectral
  | .xtrnBack w => chkX w (gk w.d) (gk w.c) 0 false true e.spectral
  | .xcvt w => chkX w (if fmtKF w.c.toNat then gk w.d else z6 w.d) true 0 true true (all [!z6 w.c, w.fn.extractLsb' 0 2 != 2 || e.spectral])
  | .xexp w => chkX w (z6 w.d) (z6 w.c) 0 false true true
  | .xsclS w => chkX w (z6 w.d) (z6 w.c) 0 true true e.spectral
  | .xsclU w => chkX w (z6 w.d) (z6 w.c) 0 true true e.spectral
  | .xmov w => chkX w (z6 w.d) (z6 w.c) 0 false true true
  | .xhdr w => chkX w (z6 w.d) (z6 w.c) 0 false true true
  | .lds w => chkMem e w (all [gk w.d, gk w.b]) (tyIn w.ty tyMem) false true [0, 1]
  | .sts w => chkMem e w (all [gk w.d, gk w.b]) (tyIn w.ty tyMem) false false [0, 2]
  | .ldq w => chkMem e w (all [gk w.d, gk w.b, w.ty == 0, w.sc == 0]) (w.d.extractLsb' 0 1 == 0) false true [0]
  | .stq w => chkMem e w (all [gk w.d, gk w.b, w.ty == 0, w.sc == 0]) (w.d.extractLsb' 0 1 == 0) false false [0]
  | .pref w => chkMem e w (all [gk w.b, w.ty == 0, w.sc == 0]) (lt w.d 2) false false [0]
  | .stz w => chkMem e w (all [z6 w.d, gk w.b, w.ty == 0, w.sc == 0]) true false false [0]
  | .amoAdd w => chkMem e w (all [gk w.d, gk w.b]) (tyIn w.ty tyAtomic) false true [0, 1, 2, 3]
  | .amoAnd w => chkMem e w (all [gk w.d, gk w.b]) (tyIn w.ty tyAtomic) false true [0, 1, 2, 3]
  | .amoOr w => chkMem e w (all [gk w.d, gk w.b]) (tyIn w.ty tyAtomic) false true [0, 1, 2, 3]
  | .amoXor w => chkMem e w (all [gk w.d, gk w.b]) (tyIn w.ty tyAtomic) false true [0, 1, 2, 3]
  | .amoMin w => chkMem e w (all [gk w.d, gk w.b]) (tyIn w.ty tyAtomic) false true [0, 1, 2, 3]
  | .amoMax w => chkMem e w (all [gk w.d, gk w.b]) (tyIn w.ty tyAtomic) false true [0, 1, 2, 3]
  | .amoExch w => chkMem e w (all [gk w.d, gk w.b]) (tyIn w.ty tyAtomic) false true [0, 1, 2, 3]
  | .amoFadd w => chkMem e w (all [gk w.d, gk w.b]) (tyIn w.ty tyAtomic) false true [0, 1, 2, 3]
  | .redAdd w => chkMem e w (all [z6 w.d, gk w.b]) (tyIn w.ty tyAtomic) false false [0, 2, 3]
  | .redAnd w => chkMem e w (all [z6 w.d, gk w.b]) (tyIn w.ty tyAtomic) false false [0, 2, 3]
  | .redOr w => chkMem e w (all [z6 w.d, gk w.b]) (tyIn w.ty tyAtomic) false false [0, 2, 3]
  | .redXor w => chkMem e w (all [z6 w.d, gk w.b]) (tyIn w.ty tyAtomic) false false [0, 2, 3]
  | .redMin w => chkMem e w (all [z6 w.d, gk w.b]) (tyIn w.ty tyAtomic) false false [0, 2, 3]
  | .redMax w => chkMem e w (all [z6 w.d, gk w.b]) (tyIn w.ty tyAtomic) false false [0, 2, 3]
  | .redFadd w => chkMem e w (all [z6 w.d, gk w.b]) (tyIn w.ty tyAtomic) false false [0, 2, 3]
  | .cas w => chkMem e w (all [gk w.d, gk w.b]) (tyIn w.ty 0x33) false true [0, 1, 2, 3]
  | .join w => chkMem e w (all [z6 w.d, gk w.b]) (latOk w.ty) false false [0, 1, 2, 3]
  | .ldge w => chkMem e w (all [gk w.d, gk w.b]) (latOk w.ty) false true [0, 1]
  | .fenceAcq w => chkMem e w (all [z6 w.d, z6 w.a, z6 w.b, w.ty == 0, w.off.extractLsb' 1 15 == 0]) true false false [0, 1, 2, 3]
  | .fenceRel w => chkMem e w (all [z6 w.d, z6 w.a, z6 w.b, w.ty == 0, w.off.extractLsb' 1 15 == 0]) true false false [0, 1, 2, 3]
  | .fenceAr w => chkMem e w (all [z6 w.d, z6 w.a, z6 w.b, w.ty == 0, w.off.extractLsb' 1 15 == 0]) true false false [0, 1, 2, 3]
  | .fenceSc w => chkMem e w (all [z6 w.d, z6 w.a, z6 w.b, w.ty == 0, w.off.extractLsb' 1 15 == 0]) true false false [0, 1, 2, 3]
  | .sread w => chkMove w (gk w.b && w.ty == 0) true true
  | .swrite w => chkMove w (gk w.b && w.ty == 0) true false
  | .sreadx w => chkMove w true (tyIn w.ty tyAtomic) false
  | .swritex w => chkMove w true (tyIn w.ty tyAtomic) false
  | .sbcast w => chkMove w (gk w.b && w.ty == 0) true true
  | .cvtaGal w => chkAddr w (all [gk w.d, gk w.a, bNone w])
  | .cvtaOwn w => chkAddr w (all [gk w.d, gk w.a, bNone w])
  | .cvtaCore w => chkAddr w (all [gk w.d, gk w.a, bOk e w 32])
  | .cvtaOff w => chkAddr w (all [gk w.d, gk w.a, bNone w])
  | .inapGlob w => chkAddr w (all [lt w.d 8, gk w.a, bNone w])
  | .inapSrf w => chkAddr w (all [lt w.d 8, gk w.a, bNone w])
  | .inapGal w => chkAddr w (all [lt w.d 8, gk w.a, bNone w])
  | .inapLocal w => chkAddr w (all [lt w.d 8, gk w.a, bNone w])
  | .barArrive w => chkI (all [z6 w.d, z6 w.a, w.fn.extractLsb' 3 5 == 0, w.imm.extractLsb' 3 29 == 0]) (all [w.fn.extractLsb' 2 1 == 1 || w.imm.extractLsb' 2 1 == 0])
  | .barWait w => chkI (all [z6 w.d, z6 w.a, w.fn.extractLsb' 3 5 == 0, w.imm.extractLsb' 3 29 == 0]) (all [w.fn.extractLsb' 2 1 == 1 || w.imm.extractLsb' 2 1 == 0])
  | .barSync w => chkI (all [z6 w.d, z6 w.a, w.fn.extractLsb' 3 5 == 0, w.imm.extractLsb' 3 29 == 0]) (all [w.fn.extractLsb' 2 1 == 1 || w.imm.extractLsb' 2 1 == 0])
  | .cacheIall w => chkAddr w (all [z6 w.d, z6 w.a, bNone w])
  | .cacheIline w => chkAddr w (all [z6 w.d, gk w.a, bNone w])
  | .cacheDline w => chkAddr w (all [z6 w.d, gk w.a, bNone w])
  | .cacheDall w => chkAddr w (all [z6 w.d, z6 w.a, bNone w])
  | .tlbiAll w => chkAddr w (all [z6 w.d, w.fn.extractLsb' 3 5 == 0, z6 w.a, bNone w])
  | .tlbiAsid w => chkAddr w (all [z6 w.d, w.fn.extractLsb' 3 5 == 0, gk w.a, bNone w])
  | .tlbiPage w => chkAddr w (all [z6 w.d, w.fn.extractLsb' 3 5 == 0, gk w.a, gk w.b && w.l == 0])
  | .tlbiRange w => chkAddr w (all [z6 w.d, w.fn.extractLsb' 3 5 == 0, gk w.a, bNone w])
  | .sload w => chkS w (all [z4 w.se, w.fn == 1 || z5 w.gd]) true
  | .sstore w => chkS w (all [z4 w.sd, w.fn == 1 || z5 w.gd]) true
  | .stileRd w => chkS w (z4 w.se) true
  | .stileWr w => chkS w (z4 w.sd) true
  | .scopy w => chkS w (all [z5 w.ga, z5 w.gb, z5 w.gd]) true
  | .scopyR w => chkS w (all [z5 w.ga]) true
  | .scopyM w => chkS w (all [z4 w.sd, z4 w.se]) true
  | .sfill w => chkS w (all [z4 w.se, z5 w.ga, z5 w.gc, z5 w.gd]) true
  | .sfillR w => chkS w (all [z4 w.se, z5 w.ga, z5 w.gc]) true
  | .sfillM w => chkS w (all [z4 w.sd, z4 w.se]) true
  | .sgather w => chkS w (all [z4 w.fn, z5 w.gc]) true
  | .sscadd w => chkS w (z5 w.gc) true
  | .srecv w => chkS w (all [z4 w.se, z5 w.gb]) true
  | .krun w => chkS w (all [w.fn.extractLsb' 0 1 == 1 || z4 w.sd, w.fn.extractLsb' 2 1 == 1 || z4 w.se]) true
  | .kwait w => chkSImm w (all [z4 w.sd, z4 w.se, z5 w.ga, z5 w.gb, z5 w.gd]) true
  | .kresume w => chkSImm w (all [w.te == 0, z4 w.sd, z4 w.se, z5 w.ga, z5 w.gb, z5 w.gd]) true
  | .kresumeAbort w => chkSImm w (all [w.te == 0, z4 w.sd, z4 w.se, z5 w.ga, z5 w.gb, z5 w.gd]) true
  | .swait w => chkSImm w (all [z4 w.sd, z4 w.se, z5 w.ga, z5 w.gb]) true
  | .swaitTest w => chkSImm w (all [z4 w.sd, z4 w.se, z5 w.ga, z5 w.gb]) true
  | .swaitAll w => chkSImm w (all [z4 w.sd, z4 w.se, z5 w.ga, z5 w.gb, z5 w.gd]) true
  | .barvArm w => chkSImm w (all [w.te == 0, z4 w.sd, z5 w.gd]) true
  | .barvArrive w => chkSImm w (all [w.te == 0, z4 w.sd, z5 w.gd]) true
  | .barvWait w => chkSImm w (all [w.te == 0, z4 w.sd, z5 w.gd]) true
  | .sdgetW0 w => chkSImm w (all [w.te == 0, z4 w.sd, z5 w.ga, z5 w.gb]) true
  | .sdgetW1 w => chkSImm w (all [w.te == 0, z4 w.sd, z5 w.ga, z5 w.gb]) true
  | .sdputW0 w => chkSImm w (all [w.te == 0, z4 w.se, z5 w.gb, z5 w.gd]) true
  | .sdputW1 w => chkSImm w (all [w.te == 0, z4 w.se, z5 w.gb, z5 w.gd]) true
  | .sdrec w => chkSImm w (all [w.te == 0, z4 w.sd, z5 w.ga]) true
  | .snop w => chkS w (all [z4 w.sd, z4 w.se, z5 w.ga, z5 w.gc, z5 w.gd, z5 w.gg, z4 w.fn]) true
  | _ => ⟨true, true, true⟩

/-- The opcode of an instruction word, 0 for an event. -/
def Instr.opc (i : Instr) : BitVec 8 :=
  match Instr.raw i with
  | some r => r.opc
  | none => 0

/-- The values of a function, form or scope selector that the entry assigns (R72, R375 check 1), where the constructor
does not fix them. -/
def Instr.fnOk (e : Env) : Instr → Bool
  | .trapCall _ => e.place == .cp
  | .barSync _ => e.place != .cp
  | .sload w => w.fn.toNat < 2
  | .sstore w => w.fn.toNat < 2
  | .stileRd w => w.fn.toNat < 2
  | .stileWr w => w.fn.toNat < 2
  | .scopy w => w.fn.toNat < 3
  | .scopyR w => w.fn.toNat < 3
  | .scopyM w => w.fn.toNat < 3
  | .sfill w => w.fn.toNat < 3
  | .sfillR w => w.fn.toNat < 3
  | .sfillM w => w.fn.toNat < 3
  | .sscadd w => w.fn.toNat < 8
  | .krun w => w.fn.extractLsb' 0 2 != 2 && w.fn.extractLsb' 2 2 != 2
  | .barvArm w => w.se.toNat < 6
  | .barvArrive w => w.se.toNat < 6
  | .barvWait w => w.se.toNat < 6
  | _ => true

/-- Checks 2-6 of R72 on an instruction whose selectors are assigned; check 7 never fails on the KX960, since every type
that takes an immediate has a NaN (R66). `none` when all pass. -/
def Instr.check (e : Env) (i : Instr) : Option Trap :=
  match Instr.raw i with
  | none => none
  | some r =>
    if !opcLegal r.opc e.place then some { cause := .badSlot }
    else
      let c := Instr.fields e i
      let hint : BitVec 10 := match r with | .r _ w => w.hint | _ => 0
      if !Instr.fnOk e i then some { cause := .badMode }
      else if !(c.reserved && hint.extractLsb' 8 1 == 0) then some { cause := .reservedField }
      else if !c.mode then some { cause := .badMode }
      else if !c.due then some { cause := .dueRange }
      else if hint.extractLsb' 9 1 == 1 && !hintRecognised r.opc hint then
        some { cause := .hintUnhonoured, detail := hint.zeroExtend 32 }
      else none

end Sys2Proof.Machine
end

