-- ==== Sys2Proof/Machine/Float.lean ====
section
/-! DEFINITION. Exact values, the one rounding of R48, and the floating operations of R44-R54 and R154-R158. -/

namespace Sys2Proof.Machine

/-! ## Flags (R25, R175) -/

/-- Flags raised by an operation: NV DZ OF UF NX IV in bits 0-5 (R25), SN in bit 6 (R175). -/
abbrev Flags := BitVec 7

def flNV : Flags := 1
def flDZ : Flags := 2
def flOF : Flags := 4
def flUF : Flags := 8
def flNX : Flags := 16
def flIV : Flags := 32
def flSN : Flags := 64

def flagIf (c : Bool) (f : Flags) : Flags := if c then f else 0

/-! ## Formats (R46, R154) -/

/-- A binary format: precision with the hidden bit, exponent of the unit of the subnormals, the largest finite
magnitude, and the infinity and canonical NaN where the format has them. -/
structure FFmt where
  p : Nat
  width : Nat
  qmin : Int
  maxMag : Nat
  inf : Option Nat
  nan : Option Nat
  deriving DecidableEq, Repr

def fmtF64 : FFmt := ⟨53, 64, -1074, 0x7FEFFFFFFFFFFFFF, some 0x7FF0000000000000, some 0x7FF8000000000000⟩
def fmtF32 : FFmt := ⟨24, 32, -149, 0x7F7FFFFF, some 0x7F800000, some 0x7FC00000⟩
def fmtBF16 : FFmt := ⟨8, 16, -133, 0x7F7F, some 0x7F80, some 0x7FC0⟩
def fmtF16 : FFmt := ⟨11, 16, -24, 0x7BFF, some 0x7C00, some 0x7E00⟩
def fmtE5M2 : FFmt := ⟨3, 8, -16, 0x7B, some 0x7C, some 0x7E⟩
def fmtE4M3 : FFmt := ⟨4, 8, -9, 0x7E, none, some 0x7F⟩
def fmtE3M2 : FFmt := ⟨3, 6, -4, 0x1F, none, none⟩
def fmtE2M3 : FFmt := ⟨4, 6, -3, 0x1F, none, none⟩
def fmtE2M1 : FFmt := ⟨2, 4, -1, 7, none, none⟩

/-- The floating type of a type code (R63); f32 for any other code. -/
def tyFmt (t : BitVec 5) : FFmt :=
  match t.toNat with
  | 0x08 => fmtF64
  | 0x0A => fmtBF16
  | 0x0B => fmtF16
  | 0x0C => fmtE5M2
  | 0x0D => fmtE4M3
  | 0x0E => fmtE3M2
  | 0x0F => fmtE2M3
  | 0x10 => fmtE2M1
  | 0x11 => fmtBF16
  | _ => fmtF32

/-! ## Exact values -/

/-- An exact value. `nan true` is a NaN whose use or making raises NV (R54); `fin neg m e` is ±m·2^e with a signed
zero; `near neg m e` lies strictly between ±m·2^e and ±(m+1)·2^e, with enough bits of m for one rounding. -/
inductive FVal where
  | nan (nv : Bool)
  | inf (neg : Bool)
  | fin (neg : Bool) (m : Nat) (e : Int)
  | near (neg : Bool) (m : Nat) (e : Int)
  deriving DecidableEq, Repr

/-- The value of a bit pattern (R46, R154). A NaN is signalling when its quiet bit is clear; the NaN of e4m3 is quiet. -/
def decodeFloat (f : FFmt) (bits : Nat) : FVal :=
  let x := bits % 2 ^ f.width
  let neg := x / 2 ^ (f.width - 1) == 1
  let mag := x % 2 ^ (f.width - 1)
  let special : Option FVal :=
    match f.inf, f.nan with
    | some i, _ => if mag == i then some (.inf neg) else if mag > i then some (.nan (!(mag.testBit (f.p - 2)))) else none
    | none, some n => if mag == n then some (.nan false) else none
    | none, none => none
  match special with
  | some v => v
  | none =>
    let field := mag / 2 ^ (f.p - 1)
    let frac := mag % 2 ^ (f.p - 1)
    if field == 0 then .fin neg frac f.qmin else .fin neg (frac + 2 ^ (f.p - 1)) (f.qmin + (field : Int) - 1)

/-- A subnormal operand of the format read as zero of its sign, when `on` (R50). -/
def flushIn (f : FFmt) (on : Bool) (v : FVal) : FVal :=
  match v with
  | .fin neg m e => if on && e == f.qmin && m < 2 ^ (f.p - 1) then .fin neg 0 f.qmin else v
  | _ => v

/-- An operand as an arithmetic word reads it. -/
def readFloat (f : FFmt) (flush : Bool) (bits : Nat) : FVal := flushIn f flush (decodeFloat f bits)

def FVal.isNaN : FVal → Bool
  | .nan _ => true
  | _ => false

def FVal.nv : FVal → Bool
  | .nan b => b
  | _ => false

def FVal.sign : FVal → Bool
  | .nan _ => false
  | .inf n => n
  | .fin n _ _ => n
  | .near n _ _ => n

def FVal.neg : FVal → FVal
  | .nan b => .nan b
  | .inf n => .inf (!n)
  | .fin n m e => .fin (!n) m e
  | .near n m e => .near (!n) m e

def FVal.isZero : FVal → Bool
  | .fin _ m _ => m == 0
  | _ => false

/-! ## Rounding (R48, R49) -/

/-- Bits of a magnitude. -/
def bitLen (m : Nat) : Nat := if m == 0 then 0 else Nat.log2 m + 1

/-- Whether the truncated quotient is increased: `r` of `d` is the remainder, `st` says that more follows. -/
def roundUp (rm : Nat) (neg : Bool) (odd : Bool) (r d : Nat) (st : Bool) : Bool :=
  match rm with
  | 0 => 2 * r > d || (2 * r == d && (st || odd))
  | 1 => false
  | 2 => neg && (r != 0 || st)
  | 3 => !neg && (r != 0 || st)
  | _ => 2 * r ≥ d

/-- m (and a little more, if `st`) divided by 2^sh and rounded: the integer, and whether it is inexact. -/
def roundShift (rm : Nat) (neg : Bool) (m : Nat) (st : Bool) (sh : Int) : Nat × Bool :=
  match sh with
  | .ofNat k =>
    let d := 2 ^ k
    let n := m / d
    let r := m % d
    (n + (roundUp rm neg (n % 2 == 1) r d st).toNat, r != 0 || st)
  | .negSucc k =>
    let n := m * 2 ^ (k + 1)
    (n + (roundUp rm neg (n % 2 == 1) 0 2 st).toNat, st)

/-- The overflow result of R48. -/
def overflowMag (f : FFmt) (rm : Nat) (neg : Bool) : Nat :=
  match f.inf with
  | none => f.maxMag
  | some i =>
    let toInf := match rm with
      | 0 => true
      | 1 => false
      | 2 => neg
      | 3 => !neg
      | _ => true
    if toInf then i else f.maxMag

def signed (f : FFmt) (neg : Bool) (mag : Nat) : Nat := mag + (if neg then 2 ^ (f.width - 1) else 0)

/-- The exponent of the unit in which a value of `len` bits with last bit 2^e is rounded to precision p. -/
def unitExp (f : FFmt) (len : Nat) (e : Int) : Int := e + len - f.p

/-- Tininess after rounding with an unbounded exponent (R49). -/
def isTiny (f : FFmt) (rm : Nat) (neg : Bool) (m : Nat) (st : Bool) (e : Int) : Bool :=
  let q := unitExp f (bitLen m) e
  let n := (roundShift rm neg m st (q - e)).1
  q + bitLen n < f.qmin + f.p

/-- A nonzero value rounded once to a format (R48-R50): its bits and the flags raised. -/
def roundTo (f : FFmt) (rm : Nat) (flush neg : Bool) (m : Nat) (e : Int) (st : Bool) : Nat × Flags :=
  let qU := unitExp f (bitLen m) e
  let q := if qU < f.qmin then f.qmin else qU
  let tiny := isTiny f rm neg m st e
  let (n, inexact) := roundShift rm neg m st (q - e)
  let mag := n + (q - f.qmin).toNat * 2 ^ (f.p - 1)
  if tiny && flush then (signed f neg 0, flUF ||| flNX)
  else if mag > f.maxMag then (signed f neg (overflowMag f rm neg), flOF ||| flNX)
  else (signed f neg mag, flagIf inexact flNX ||| flagIf (tiny && inexact) flUF)

/-- `fround`: the delivered bits of an exact value in a format with a NaN, and the flags raised (R47-R50). -/
def deliver (f : FFmt) (rm : Nat) (flush : Bool) (v : FVal) : Nat × Flags :=
  match v with
  | .nan nv => (f.nan.getD 0, flagIf nv flNV)
  | .inf neg => (signed f neg (f.inf.getD f.maxMag), 0)
  | .fin neg m e => if m == 0 then (signed f neg 0, 0) else roundTo f rm flush neg m e false
  | .near neg m e => roundTo f rm flush neg m e true

/-! ## Exact arithmetic -/

def scaleUp (m : Nat) (e e' : Int) : Nat := m * 2 ^ (e - e').toNat

def minExp (a b : Int) : Int := if a ≤ b then a else b

def sInt (neg : Bool) (m : Nat) : Int := if neg then -(m : Int) else m

/-- The exact value of an integer times 2^e, its zero signed. -/
def ofInt (x : Int) (e : Int) (zneg : Bool) : FVal :=
  if x == 0 then .fin zneg 0 e else .fin (x < 0) x.natAbs e

/-- Sum of two exact values; the sign of an exact zero follows R48. -/
def addV (rm : Nat) (a b : FVal) : FVal :=
  match a, b with
  | .nan x, y => .nan (x || y.nv)
  | x, .nan y => .nan (y || x.nv)
  | .inf x, .inf y => if x == y then .inf x else .nan true
  | .inf x, _ => .inf x
  | _, .inf y => .inf y
  | .fin na ma ea, .fin nb mb eb =>
    let e := minExp ea eb
    let zneg := if ma == 0 && mb == 0 && na == nb then na else rm == 2
    ofInt (sInt na (scaleUp ma ea e) + sInt nb (scaleUp mb eb e)) e zneg
  | x, _ => x

def subV (rm : Nat) (a b : FVal) : FVal := addV rm a b.neg

/-- Product of two exact values. -/
def mulV (a b : FVal) : FVal :=
  match a, b with
  | .nan x, y => .nan (x || y.nv)
  | x, .nan y => .nan (y || x.nv)
  | .inf x, y => if y.isZero then .nan true else .inf (x != y.sign)
  | x, .inf y => if x.isZero then .nan true else .inf (x.sign != y)
  | .fin na ma ea, .fin nb mb eb => .fin (na != nb) (ma * mb) (ea + eb)
  | x, _ => x

/-- a·b + c with one rounding to follow (R89). -/
def fmaV (rm : Nat) (a b c : FVal) : FVal := addV rm (mulV a b) c

/-- Quotient with at least `p + 3` bits, and DZ (R54). -/
def divV (p : Nat) (a b : FVal) : FVal × Flags :=
  match a, b with
  | .nan x, y => (.nan (x || y.nv), 0)
  | x, .nan y => (.nan (y || x.nv), 0)
  | .inf _, .inf _ => (.nan true, 0)
  | .inf x, y => (.inf (x != y.sign), 0)
  | x, .inf y => (.fin (x.sign != y) 0 0, 0)
  | .fin na ma ea, .fin nb mb eb =>
    if mb == 0 then
      if ma == 0 then (.nan true, 0) else (.inf (na != nb), flDZ)
    else if ma == 0 then (.fin (na != nb) 0 0, 0)
    else
      let k := p + 3 + bitLen mb
      let n := ma * 2 ^ k
      let q := n / mb
      (if n % mb == 0 then .fin (na != nb) q (ea - eb - k) else .near (na != nb) q (ea - eb - k), 0)
  | x, _ => (x, 0)

/-- Integer square root by bits, high bit first: `k` counts bit positions still to try. -/
def isqrtLoop (n : Nat) : Nat → Nat → Nat
  | 0, r => r
  | k + 1, r =>
    let c := r + 2 ^ k
    isqrtLoop n k (if c * c ≤ n then c else r)

def isqrt (n : Nat) : Nat := isqrtLoop n (bitLen n / 2 + 1) 0

/-- Square root with at least `p + 3` bits (R54, R89). -/
def sqrtV (p : Nat) (a : FVal) : FVal :=
  match a with
  | .nan x => .nan x
  | .inf neg => if neg then .nan true else .inf false
  | .fin neg m e =>
    if m == 0 then .fin neg 0 e
    else if neg then .nan true
    else
      let odd : Nat := (e % 2).toNat
      let k := 2 * (p + 4)
      let n := m * 2 ^ (k + odd)
      let r := isqrt n
      let e' := (e - odd) / 2 - (p + 4 : Nat)
      if r * r == n then .fin false r e' else .near false r e'
  | .near neg m e => .near neg m e

/-! ## Comparing (R87, R90) -/

/-- The order of two values that are not NaN; −0 and +0 are equal. -/
def cmpV (a b : FVal) : Option Ordering :=
  match a, b with
  | .nan _, _ => none
  | _, .nan _ => none
  | .inf x, .inf y => some (if x == y then .eq else if x then .lt else .gt)
  | .inf x, _ => some (if x then .lt else .gt)
  | _, .inf y => some (if y then .gt else .lt)
  | .fin na ma ea, .fin nb mb eb =>
    let e := minExp ea eb
    some (compare (sInt na (scaleUp ma ea e)) (sInt nb (scaleUp mb eb e)))
  | _, _ => some .eq

/-- Truth of condition code `c` on an ordering; `none` is unordered (R87). -/
def condHolds (c : Nat) (o : Option Ordering) : Bool :=
  match c, o with
  | 0, some .eq => true
  | 1, some .eq => false
  | 1, _ => true
  | 2, some .lt => true
  | 3, some .lt => true
  | 3, some .eq => true
  | 4, some .gt => true
  | 5, some .gt => true
  | 5, some .eq => true
  | 6, none => true
  | 7, some _ => true
  | _, _ => false

/-- NV of a floating compare: any NaN for the ordered conditions 2-5, a signalling NaN for the others (R87). -/
def cmpNV (c : Nat) (a b : FVal) : Bool :=
  if 2 ≤ c && c ≤ 5 then a.isNaN || b.isNaN else a.nv || b.nv

/-- Minimum or maximum of two operands (R90): `num` returns the other operand of a NaN; −0 orders below +0. -/
def minMaxV (max num : Bool) (a b : FVal) : FVal :=
  match a, b with
  | .nan x, .nan y => .nan (x || y)
  | .nan x, y => if num then y else .nan x
  | x, .nan y => if num then x else .nan y
  | x, y =>
    let aLess := match cmpV x y with
      | some .lt => true
      | some .eq => x.sign
      | _ => false
    if aLess != max then x else y

/-- NV of a minimum or maximum: a signalling NaN raises it in either function (R90). -/
def minMaxNV (a b : FVal) : Bool := a.nv || b.nv

/-! ## Integers (R41, R53) -/

/-- Value rounded to an integer in `rm`: the integer and whether it differs. Exponents far above the integer range
are cut off by the caller. -/
def roundInt (rm : Nat) (neg : Bool) (m : Nat) (e : Int) : Int × Bool :=
  match e with
  | .ofNat k => (sInt neg (m * 2 ^ k), false)
  | .negSucc _ =>
    let (n, ix) := roundShift rm neg m false (-e)
    (sInt neg n, ix)

def intLo (sgn : Bool) (w : Nat) : Int := if sgn then -(2 ^ (w - 1) : Nat) else 0
def intHi (sgn : Bool) (w : Nat) : Int := if sgn then (2 ^ (w - 1) : Nat) - 1 else (2 ^ w : Nat) - 1

/-- Floating to integer (R53). -/
def floatToInt (sgn : Bool) (w : Nat) (rm : Nat) (v : FVal) : Int × Flags :=
  match v with
  | .nan _ => (0, flNV)
  | .inf neg => (if neg then intLo sgn w else intHi sgn w, flNV)
  | .fin neg m e =>
    let (x, ix) := roundInt rm neg m e
    if x > intHi sgn w then (intHi sgn w, flNV)
    else if x < intLo sgn w then (intLo sgn w, flNV)
    else (x, flagIf ix flNX)
  | .near _ _ _ => (0, 0)

/-- `narrowint` (R487). -/
def narrowInt (lo hi : Int) (rm : Nat) (v : FVal) : Int × Flags :=
  match v with
  | .nan _ => (0, flNV)
  | .inf neg => (if neg then lo else hi, flNX)
  | .fin neg m e =>
    let (x, ix) := roundInt rm neg m e
    if x > hi then (hi, flOF ||| flNX)
    else if x < lo then (lo, flOF ||| flNX)
    else (x, flagIf ix flNX)
  | .near neg m e =>
    let (n, _) := roundShift rm neg m true (-e)
    let x := sInt neg n
    if x > hi then (hi, flOF ||| flNX) else if x < lo then (lo, flOF ||| flNX) else (x, flNX)

/-- Conversion into a narrow floating element (R158). -/
def narrow (f : FFmt) (rm : Nat) (v : FVal) : Nat × Flags :=
  match v with
  | .nan nv =>
    match f.nan with
    | some n => (n, flagIf nv flNV)
    | none => (f.maxMag, flNV)
  | .inf neg =>
    match f.inf with
    | some i => (signed f neg i, 0)
    | none => (signed f neg f.maxMag, flNX)
  | v => deliver f rm false v

/-- `rodd32` (R165): round to odd into f32. -/
def rodd32 (v : FVal) : Nat :=
  let odd (neg : Bool) (m : Nat) (e : Int) (st : Bool) : Nat :=
    let (bits, fl) := roundTo fmtF32 1 false neg m e st
    if fl &&& flNX == 0 then bits else bits ||| 1
  match v with
  | .nan _ => 0x7FC00000
  | .inf neg => signed fmtF32 neg 0x7F800000
  | .fin neg m e => if m == 0 then signed fmtF32 neg 0 else odd neg m e false
  | .near neg m e => odd neg m e true

/-- The class of R91 as a bit number. -/
def fclassBit (f : FFmt) (bits : Nat) : Nat :=
  match decodeFloat f bits with
  | .inf neg => if neg then 0 else 7
  | .nan nv => if nv then 8 else 9
  | .fin neg m _ =>
    if m == 0 then (if neg then 3 else 4)
    else if m < 2 ^ (f.p - 1) then (if neg then 2 else 5)
    else (if neg then 1 else 6)
  | .near _ _ _ => 9

end Sys2Proof.Machine
end

