-- ==== Sys2Proof/Config.lean ====
section
/-! DEFINITION. What the manual leaves open: constants without a body, so that no proof can see a value.
Each is named in the assumption log. A counter of State, advanced at each use, is the usual argument. -/

namespace Sys2Proof

/-- Cycles of the arithmetic clock that pass with one step: the manual fixes no memory latency and no
interleaving, so a step's duration is free (R30, R97; log 3). -/
opaque Config.elapsed : Nat → Nat

/-- Which of two allowed values a choice of R7 takes: old or new word at fetch (R19), held or walked
translation (R262), early or late result (R37); log 4. -/
opaque Config.freeChoice : Nat → Bool

/-- A byte whose value the manual leaves open (R379, R461, a start-up value); log 5. -/
opaque Config.freeByte : Nat → Byte

/-- The features that start-up offers in FEATURE bits 9:0 (R463; log 6). -/
opaque Config.featureOffered : BitVec 10

/-- An element that the manual does not state: the fallback of the correctly rounded functions of R181, taken only if
the enclosure never separates two neighbours (the mathematical value exists and is irrational there), and a pad value
under a group scale of zero or NaN (R280); log 7. -/
opaque Config.freeElement : Nat → Nat → Nat

/-- The lines of a stack, as o / 128, that home slices hold at a change of its selector masks (R342; log 23). -/
opaque Config.heldLines : Nat → List Nat

/-- Which byte of a landing or write-queue entry in a context area holds which byte of its fields (R431; log 12). -/
opaque Config.entryOrder : Equiv.Perm (Fin 48)

/-- Flits that the Kibry link has sent again when a request has crossed it (R441; log 16). -/
opaque Config.resent : Nat → Nat

end Sys2Proof
end

