-- ==== Sys2Proof/Machine/Ops.lean ====
section
/-! DEFINITION. The named operations over lists, bit fields, cores and registers, the error log, the barrier network's
generations, the fatal stop, and taking an exception and returning from one. -/

namespace Sys2Proof.Machine

/-! ## Finite maps and sets in canonical form -/

def lookupNum {α : Type} (k : Nat) : List (Nat × α) → Option α
  | [] => none
  | (k', v) :: l => if k' == k then some v else lookupNum k l

def insertNum {α : Type} (k : Nat) (v : α) : List (Nat × α) → List (Nat × α)
  | [] => [(k, v)]
  | (k', v') :: l =>
    if k < k' then (k, v) :: (k', v') :: l
    else if k == k' then (k, v) :: l
    else (k', v') :: insertNum k v l

def eraseNum {α : Type} (k : Nat) : List (Nat × α) → List (Nat × α)
  | [] => []
  | (k', v') :: l => if k < k' then (k', v') :: l else if k == k' then l else (k', v') :: eraseNum k l

/-- A byte of a memory whose unlisted addresses read 0. -/
def cellGet (l : List Host.Cell) (a : Nat) : Byte := (lookupNum a l).getD 0

/-- Writing keeps the canonical form: a byte that an unlisted address reads as is not listed. -/
def cellPut (l : List Host.Cell) (a : Nat) (b : Byte) : List Host.Cell :=
  if b == 0 then eraseNum a l else insertNum a b l

/-- Addresses strictly rising from `lo`, and no byte listed that reads 0 unlisted. -/
def cellsFrom (lo : Nat) : List Host.Cell → Bool
  | [] => true
  | (a, b) :: l => lo ≤ a && b != 0 && cellsFrom (a + 1) l

/-- The canonical form of a memory. -/
def Memory.wf (l : List Host.Cell) : Bool := cellsFrom 0 l

/-- Keys strictly rising from `lo`. -/
def keysFrom {α : Type} (lo : Nat) : List (Nat × α) → Bool
  | [] => true
  | (k, _) :: l => lo ≤ k && keysFrom (k + 1) l

/-- The host window: an unwritten byte is free (R461; log 5). -/
def hostGet (l : List Host.Cell) (a : Nat) : Byte := (lookupNum a l).getD (Config.freeByte a)
def hostPut (l : List Host.Cell) (a : Nat) (b : Byte) : List Host.Cell :=
  if b == Config.freeByte a then eraseNum a l else insertNum a b l

/-- The canonical form of the host window. -/
def hostFrom (lo : Nat) : List Host.Cell → Bool
  | [] => true
  | (a, b) :: l => lo ≤ a && b != Config.freeByte a && hostFrom (a + 1) l

def cellPutAll (l : List Host.Cell) (w : List Host.Cell) : List Host.Cell :=
  w.foldl (fun m c => cellPut m c.1 c.2) l

def setHas (k : Nat) : List Nat → Bool
  | [] => false
  | x :: l => x == k || setHas k l

def setAdd (k : Nat) : List Nat → List Nat
  | [] => [k]
  | x :: l => if k < x then k :: x :: l else if k == x then x :: l else x :: setAdd k l

def setDel (k : Nat) (l : List Nat) : List Nat := l.filter (· != k)

/-- Elements in rising order of a key, those of one key in the order in which they stand. -/
def rising {α : Type} (f : α → Nat) (l : List α) : List α :=
  l.foldl (fun m x => (m.takeWhile fun y => f y ≤ f x) ++ x :: m.dropWhile fun y => f y ≤ f x) []

/-! ## Bytes and fields -/

/-- Little-endian value of bytes (R4). -/
def leNat : List Byte → Nat
  | [] => 0
  | b :: l => b.toNat + 256 * leNat l

/-- The low `n` bytes of a value, little-endian (R4). -/
def leBytes : Nat → Nat → List Byte
  | 0, _ => []
  | n + 1, x => BitVec.ofNat 8 x :: leBytes n (x / 256)

/-- Bytes with their addresses, from `a` upward. -/
def atAddr (a : Nat) : List Byte → List Host.Cell
  | [] => []
  | b :: l => (a, b) :: atAddr (a + 1) l

def fld (w : Word) (lo len : Nat) : Nat := w.toNat / 2 ^ lo % 2 ^ len
def bit (w : Word) (i : Nat) : Bool := w.getLsbD i
def ones (len : Nat) : Word := BitVec.ofNat 64 (2 ^ len - 1)
/-- `w` with bits lo+len−1 : lo replaced. -/
def setFld (w : Word) (lo len v : Nat) : Word :=
  (w &&& ~~~(ones len <<< lo)) ||| ((BitVec.ofNat 64 v &&& ones len) <<< lo)
def setBit {n : Nat} (w : BitVec n) (i : Nat) (b : Bool) : BitVec n :=
  if b then w ||| BitVec.twoPow n i else w &&& ~~~(BitVec.twoPow n i)
/-- Bits of `new` under `mask`, the others of `old`. -/
def mergeBits (old new mask : Word) : Word := (old &&& ~~~mask) ||| (new &&& mask)
/-- sext(x, n) as a 64-bit register value (R9). -/
def sextW (x : Word) (n : Nat) : Word :=
  if n ≥ 64 then x
  else if x.getLsbD (n - 1) then x ||| ~~~(ones n) else x &&& ones n
def zextW (x : Word) (n : Nat) : Word := if n ≥ 64 then x else x &&& ones n

/-! ## Registers -/

/-- Index of a 5-bit register number in a file of 32. -/
def idx5 (r : BitVec 5) : Fin 32 := r.toFin

/-- g0 reads zero (R12). -/
def CP.readG (c : CP) (r : BitVec 5) : Word := if r == 0 then 0 else c.g.get (idx5 r)
/-- A write to g0 is discarded (R12). -/
def CP.writeG (c : CP) (r : BitVec 5) (v : Word) : CP :=
  if r == 0 then c else { c with g := c.g.set (idx5 r) v }
/-- p0 reads 1 (R12). -/
def readPred (p : BitVec 8) (r : BitVec 3) : Bool := r == 0 || p.getLsbD r.toNat
/-- A write to p0 is discarded (R12). -/
def writePred (p : BitVec 8) (r : BitVec 3) (v : Bool) : BitVec 8 := if r == 0 then p else setBit p r.toNat v

/-- k0 reads zero (R106). -/
def Kern.readK (k : Kern) (r : BitVec 5) : Word := if r == 0 then 0 else k.k.get (idx5 r)
def Kern.writeK (k : Kern) (r : BitVec 5) (v : Word) : Kern :=
  if r == 0 then k else { k with k := k.k.set (idx5 r) v }

def State.withCp (s : State) (c : CP) : State := { s with core := { s.core with cp := c } }
def State.withKern (s : State) (k : Kern) : State := { s with core := { s.core with kern := k } }
def State.withSt (s : State) (u : StreamUnit) : State := { s with core := { s.core with st := u } }
def State.onCp (s : State) (f : CP → CP) : State := s.withCp (f s.core.cp)
def State.onKern (s : State) (f : Kern → Kern) : State := s.withKern (f s.core.kern)
def State.onSt (s : State) (f : StreamUnit → StreamUnit) : State := s.withSt (f s.core.st)
def State.onMd (s : State) (f : Module → Module) : State := { s with md := f s.md }

/-! ## CSTAT and KSTAT (R24, R111) -/

def CP.mode (c : CP) : Bool := bit c.cstat 0
def CP.ie (c : CP) : Bool := bit c.cstat 1
def CP.inTrap (c : CP) : Bool := bit c.cstat 2
def CP.flush (c : CP) : Bool := bit c.cstat 3
def CP.trapen (c : CP) : Nat := fld c.cstat 4 6
def CP.wdlog (c : CP) : Nat := fld c.cstat 16 5
def CP.asid (c : CP) : BitVec 16 := c.casid.extractLsb' 0 16

def Kern.stState (k : Kern) : Nat := fld k.kstat 0 2
def Kern.check (k : Kern) : Bool := bit k.kstat 2
def Kern.flush (k : Kern) : Bool := bit k.kstat 3
def Kern.trapen (k : Kern) : Nat := fld k.kstat 4 6
def Kern.delay (k : Kern) : Nat := fld k.kstat 13 2
def Kern.endIdx (k : Kern) : Nat := fld k.kstat 16 11
def Kern.setState (k : Kern) (n : Nat) : Kern := { k with kstat := setFld k.kstat 0 2 n }
def Kern.setResume (k : Kern) (n : Nat) : Kern := { k with kstat := setFld k.kstat 10 3 n }
def Kern.setDelay (k : Kern) (n : Nat) : Kern := { k with kstat := setFld k.kstat 13 2 n }
def Kern.setEnd (k : Kern) (n : Nat) : Kern := { k with kstat := setFld k.kstat 16 11 n }

/-! ## Cores by number: 96 × die + core (R493) -/

def coreDie (n : Nat) : Nat := n / 96
def coreNum (n : Nat) : Nat := n % 96
def coreOf (die c : Nat) : Nat := 96 * die + c

def State.getCore (s : State) (n : Nat) : Core :=
  if n == s.focus then s.core else (lookupNum n s.parked).getD Core.reset

def State.putCore (s : State) (n : Nat) (c : Core) : State :=
  if n == s.focus then { s with core := c } else { s with parked := insertNum n c s.parked }

def State.onCore (s : State) (n : Nat) (f : Core → Core) : State := s.putCore n (f (s.getCore n))

/-- The core whose turn it is becomes core `n`. -/
def State.focusOn (s : State) (n : Nat) : State :=
  if n == s.focus then s
  else { s with focus := n, core := s.getCore n, parked := insertNum s.focus s.core (eraseNum n s.parked) }

/-- Applies an operation with the focus on core `n`, then returns the focus. -/
def State.atCore (s : State) (n : Nat) (f : State → State) : State := (f (s.focusOn n)).focusOn s.focus

/-- CCORE of a core (R31). -/
def ccoreOf (s : State) (n : Nat) : Word :=
  BitVec.ofNat 64 (coreNum n + coreDie n * 2 ^ 7 + s.md.pkg.toNat * 2 ^ 16)

/-! ## The error log (R462, R493) -/

/-- A new entry of the circular log; ERRHEAD counts entries. -/
def logCode (s : State) (code cls index : Nat) : State :=
  let k := s.md.errHead.toNat
  let w0 := BitVec.ofNat 64 (code % 2 ^ 7 + cls * 2 ^ 8 + index % 2 ^ 32 * 2 ^ 16)
  s.onMd fun m => { m with errHead := m.errHead + 1, errLog := insertNum (k % 256) (w0, BitVec.ofNat 64 s.clock) m.errLog }

def logError (s : State) (cause : Cause) (cls index : Nat) : State := logCode s cause.code.toNat cls index

/-- An entry for whose cause field the manual names no code (log 15). -/
def logOpen (s : State) (cls index : Nat) : State :=
  logCode { s with fresh := s.fresh + 1 } (Config.freeByte s.fresh).toNat cls index

/-! ## Asynchronous causes (R36, R402) -/

/-- Priority of a pending cause, 1 highest (R402). -/
def Async.priority (a : Async) : Nat :=
  if a.kernel then 3
  else match a.cause with
    | .groupAbort => 1
    | .debugHalt => 2
    | .uncorrectedHbm => 4
    | .hostLinkDown => 5
    | .preemptRequest => 6
    | .thermal => 7
    | .powerCap => 8
    | _ => 9

/-- The same cause is among some (R402). -/
def Async.among (a : Async) (l : List Async) : Bool := l.any fun b => b.cause == a.cause && b.kernel == a.kernel

/-- A cause becomes pending on core `n`; one already pending is entered in the error log instead (R402). -/
def raiseAsync (s : State) (n : Nat) (cause : Cause) (detail : BitVec 32) (kernel : Bool) : State :=
  let c := s.getCore n
  let a : Async := { cause, detail, kernel, since := s.clock }
  if a.among c.cp.pending then logError s cause 0 n
  else s.putCore n { c with cp := { c.cp with pending := c.cp.pending ++ [a] } }

/-- The pending cause that stands highest (R402). -/
def firstAsync : List Async → Option Async
  | [] => none
  | a :: l =>
    match firstAsync l with
    | none => some a
    | some b => if a.priority ≤ b.priority then some a else some b

/-! ## Launches and groups -/

def State.launch? (s : State) (id : Nat) : Option Launch := s.launches.find? (·.id == id)
def State.onLaunch (s : State) (id : Nat) (f : Launch → Launch) : State :=
  { s with launches := s.launches.map fun l => if l.id == id then f l else l }

/-- Core numbers of a group. -/
def groupCores (die base size : Nat) : List Nat := (List.range size).map fun i => coreOf die (base + i)

/-- A core holds a program of this group. -/
def inGroup (s : State) (launch base n : Nat) : Bool :=
  match (s.getCore n).prog with
  | some p => p.launch == launch && p.base == base
  | none => false

/-- A core of the group whose program has not ended. -/
def liveInGroup (s : State) (launch base n : Nat) : Bool := inGroup s launch base n && (s.getCore n).cp.run == .running

/-! ## The barrier network (R137) -/

/-- A generation holding an arrival from every participant completes: it flips (R137). -/
def Channel.settle (c : Channel) : Channel :=
  if c.parts.all (fun n => c.arrived.contains n) && !c.arrived.isEmpty then { c with gen := !c.gen, arrived := [] } else c

/-- A core leaves the participant set of every channel (R420). -/
def Channel.leave (n : Nat) (c : Channel) : Channel :=
  { c with parts := c.parts.filter (· != n), arrived := c.arrived.filter (· != n) }.settle

/-- Claims of a group of a launch are released. -/
def releaseChannels (s : State) (launch die base size : Nat) : State :=
  let cores := groupCores die base size
  { s with channels := s.channels.filter fun c => !(c.launch == launch && c.die == die && c.parts.all cores.contains) }

/-! ## The end of a program (R103, R403, R419, R420) -/

/-- The first error of a launch stands in its completion record (R468). -/
def Launch.error (c : Option Cause) (l : Launch) : Launch :=
  match c with
  | none => l
  | some x => { l with status := 1, cause := l.cause.or (some x) }

/-- Contexts of a group that are saved and not yet restored. -/
def savedIn (s : State) (launch die base size : Nat) : List Saved :=
  s.saved.filter fun x => x.launch == launch && (groupCores die base size).contains x.core

/-- A group with saved contexts and no running program is pre-empted (R425, R430). -/
def markPreempted (s : State) (launch die base : Nat) : State :=
  s.onLaunch launch fun l =>
    { l with groups := l.groups.map fun g => if g.die == die && g.base == base then { g with preempted := true } else g }

/-- Once every core of a group has ended and its engine instructions have completed, its fences are lifted, the SRFs
zeroed, its claims released and the group forgotten (R419, R140). A group that waits for its restore stays. -/
def settleGroup (s : State) (launch die base size : Nat) : State :=
  let cores := groupCores die base size
  if cores.any (fun n => liveInGroup s launch base n) then s
  else if !(savedIn s launch die base size).isEmpty then markPreempted s launch die base
  else if cores.any (fun n => inGroup s launch base n && !(s.getCore n).st.flight.isEmpty) then s
  else
    let s := cores.foldl (fun s n =>
      if inGroup s launch base n then
        s.onCore n fun c => { c with prog := none, fenced := false, srf := [], srfPoison := [], cp := { c.cp with run := .off } }
      else s) s
    let s := releaseChannels s launch die base size
    s.onLaunch launch fun l => { l with groups := l.groups.filter fun g => !(g.die == die && g.base == base) }

/-- A cause joins the pending causes of a CP, at most once (R402). -/
def CP.pend (c : CP) (a : Async) : CP := if a.among c.pending then c else { c with pending := c.pending ++ [a] }

/-- A cause raised on the saved programs of a group is pending once they are restored; one already pending there is
entered in the error log instead (R402). -/
def raiseSaved (s : State) (launch die base size : Nat) (a : Async) : State :=
  let mine := savedIn s launch die base size
  let held (x : Saved) : Bool := a.among (x.image.cp.pending ++ x.raised)
  let s := (mine.filter held).foldl (fun s x => logError s a.cause 0 x.core) s
  { s with saved := s.saved.map fun x => if mine.contains x && !held x then { x with raised := x.raised ++ [a] } else x }

/-- A core whose program has ended leaves the queues of its launch's walkers, and its request takes no ordinal (R147,
R150; DESIGN CHOICE, log 26). -/
def Launch.leaveWalkers (n : Nat) (l : Launch) : Launch :=
  { l with walkers := l.walkers.map fun w => { w with queue := w.queue.filter (· != n) } }

/-- The focused core's program ends: after `halt` (`cause = none`), or fatally (R403). A fatal end fences the SRF and
aborts or isolates the group (R419, R420). A context that has not been restored goes with its program. -/
def endProgram (s : State) (cause : Option Cause) : State :=
  match s.core.prog with
  | none => s
  | some p =>
    let n := s.focus
    let die := coreDie n
    let s := { s with saved := s.saved.filter fun x => !(x.launch == p.launch && x.core == n) }
    let s := s.onLaunch p.launch fun l => Launch.error cause (Launch.leaveWalkers n { l with ended := l.ended + 1 })
    let s :=
      match cause with
      | none => { s with core := { s.core with prog := none, cp := { s.core.cp with run := .off, pending := [], wait := none, work := .idle } } }
      | some _ =>
        let isolate := match s.launch? p.launch with
          | some l => l.isolate
          | none => false
        let others := (groupCores die p.base p.size).filter fun m => m != n && liveInGroup s p.launch p.base m
        if isolate then { s with channels := s.channels.map fun c => if c.launch == p.launch then c.leave n else c }
        else
          let detail := BitVec.ofNat 32 (coreNum n)
          raiseSaved (others.foldl (fun s m => raiseAsync s m .groupAbort detail false) s) p.launch die p.base p.size
            { cause := .groupAbort, detail, kernel := false, since := s.clock }
    settleGroup s p.launch die p.base p.size

/-- The instruction has been issued to its engine and goes on. -/
def QStage.active : QStage → Bool
  | .running => true
  | .completing _ _ => true
  | _ => false

/-- A fatal cause stops the core: no register changes, its queued, gated and kernel instructions are dropped, the SRF is
fenced (R35, R403, R419). -/
def fatalStop (s : State) (cause : Cause) : State :=
  let c := s.core
  let c := { c with
    fenced := true
    cp := { c.cp with run := .stopped, pending := [], wait := none, work := .idle }
    st := { c.st with queue := [], flight := c.st.flight.filter fun e =>
        e.stage.active && (e.opc != 0xD8 || e.stage != .running) } }
  endProgram { s with core := c } (some cause)

/-! ## Taking an exception and returning (R33-R35, R38) -/

/-- CTINFO (R29); PMODE is filled in at entry. -/
def trapInfo (origin slot : Nat) (write fetch : Bool) (opc : BitVec 8) (detail : BitVec 32) : Word :=
  BitVec.ofNat 64 (origin + slot * 2 ^ 2 + write.toNat * 2 ^ 5 + fetch.toNat * 2 ^ 6 + opc.toNat * 2 ^ 8 +
    detail.toNat * 2 ^ 32)

/-- `take_trap` (R33): the registers after trap entry. -/
def CP.takeTrap (c : CP) (cause : Cause) (async : Bool) (resume addr info : Word) : CP :=
  { c with
    csave := setBit (setBit c.csave 0 c.mode) 1 c.ie
    ctpc := resume
    ccause := BitVec.ofNat 64 (cause.code.toNat + async.toNat * 2 ^ 7)
    ctaddr := addr
    ctinfo := setBit info 7 c.mode
    cstat := setBit (setBit (setBit c.cstat 0 true) 1 false) 2 true
    pc := c.ctvec
    wait := none
    remote := none }

/-- A synchronous trap of the focused core: a double trap stops it (R33, R35). ENGINE_FAULT has ORIGIN 2 (R29). -/
def takeSync (s : State) (t : Trap) (opc : BitVec 8) (resume : Word) : State :=
  if s.core.cp.inTrap then fatalStop s .machineCheck
  else
    let origin := if t.cause == .engineFault then 2 else 0
    s.onCp fun c => c.takeTrap t.cause false resume t.addr (trapInfo origin 0 t.write t.fetch opc t.detail)

/-- A pending asynchronous cause is taken (R36, R404): a kernel fault reports the kernel's own record. -/
def takeAsync (s : State) (a : Async) : State :=
  let k := s.core.kern
  let info :=
    if a.kernel then
      let f := k.fault.getD ⟨0, 0, false⟩
      trapInfo 1 (fld k.kinfo 0 3) f.write false f.opc (k.kinfo.extractLsb' 32 32)
    else trapInfo 3 0 false false 0 a.detail
  let addr := if a.kernel then (k.fault.getD ⟨0, 0, false⟩).addr else 0
  s.onCp fun c =>
    { c.takeTrap a.cause true c.pc addr info with pending := c.pending.filter fun b => !(b.cause == a.cause && b.kernel == a.kernel) }

/-- `tret` (R38). -/
def CP.trapReturn (c : CP) : CP :=
  { c with
    cstat := setBit (setBit (setBit c.cstat 0 (bit c.csave 0)) 1 (bit c.csave 1)) 2 false
    pc := c.ctpc }

end Sys2Proof.Machine
end

