-- ==== Sys2Proof/Machine/Operands.lean ====
section
/-! DEFINITION. Operand forms: registers by place, immediates from LIMM and IMM, and the results of words. -/

namespace Sys2Proof.Machine

/-- Why a word's body does not complete: it traps, or it is a blocking wait that goes on (R37). The state carries
what has come about all the same (a page request sent, a free value used). -/
inductive Stop where
  | trap (t : Trap) (s : State)
  | wait (s : State)
  /-- An `ldge` that waits at an address (R330). -/
  | waitAt (addr : Word) (s : State)
  /-- An access in progress, not interrupted by an asynchronous cause (R37, R274, R442). -/
  | hold (s : State)
  /-- The word has ended in this state, its PC included: a write that reset the module (R471). -/
  | final (s : State)
  deriving DecidableEq, Repr

/-- The body of a word. -/
abbrev Body := Except Stop State

def State.onCpPlace (s : State) : Bool := s.place == .cp

/-- The file index in a register field (R62). -/
def r5 (f : BitVec 6) : BitVec 5 := f.setWidth 5
def r3 (f : BitVec 6) : BitVec 3 := f.setWidth 3
def r2 (f : BitVec 6) : BitVec 2 := f.setWidth 2

/-- A scalar register: g on the CP, k in a slot (R81). -/
def readR (s : State) (f : BitVec 6) : Word :=
  if s.onCpPlace then s.core.cp.readG (r5 f) else s.core.kern.readK (r5 f)

/-- A predicate of the CP or of the kernel (R57). -/
def readP (s : State) (r : BitVec 3) : Bool :=
  if s.onCpPlace then readPred s.core.cp.p r else readPred s.core.kern.p r

/-- A pending write of the kernel, `lat` cycles of kernel time from now (R119). -/
def pushWrite (s : State) (lat : Nat) (what : KWrite) : State :=
  s.onKern fun k => { k with seq := k.seq + 1, pend := k.pend ++ [{ due := k.ktime + lat, seq := k.seq, what }] }

/-- Result of a scalar word: at once on the CP (R20), at issue + latency in a slot (R119). -/
def writeR (s : State) (lat : Nat) (f : BitVec 6) (v : Word) : State :=
  if s.onCpPlace then s.onCp fun c => c.writeG (r5 f) v
  else if r5 f == 0 then s else pushWrite s lat (.k (r5 f) v)

def writeP (s : State) (lat : Nat) (r : BitVec 3) (v : Bool) : State :=
  if s.onCpPlace then s.onCp fun c => { c with p := writePred c.p r v }
  else if r == 0 then s else pushWrite s lat (.p r v)

/-- Guard of a word (R57). -/
def guardHolds (s : State) (g : BitVec 4) : Bool := readP s (g.setWidth 3) != g.getLsbD 3

/-! ## Immediates (R66, R68) -/

/-- The immediate that selector B names: its bits and width. -/
def immSel (limm : BitVec 32) (b : BitVec 6) : Nat × Nat :=
  match b.toNat with
  | 0 => (limm.toNat, 32)
  | 1 => (limm.toNat % 2 ^ 16, 16)
  | _ => (limm.toNat / 2 ^ 16, 16)

/-- `immval` for an integer type or a logical operation, as a 64-bit register value (R66). -/
def immInt (raw w : Nat) (unsigned : Bool) : Word :=
  let x := BitVec.ofNat 64 raw
  if unsigned then zextW x w else sextW x w

/-- `fimm` into a format with a NaN (R66). -/
def fimm (f : FFmt) (raw w : Nat) : Nat :=
  (deliver f 0 false (match decodeFloat (if w == 16 then fmtBF16 else fmtF32) raw with
    | .nan _ => .nan false
    | v => v)).1

/-! ## Type codes -/

def tySigned (t : BitVec 5) : Bool := t.toNat < 4
def tyUnsigned (t : BitVec 5) : Bool := 4 ≤ t.toNat && t.toNat < 8

/-- `ival` (R83): the low bits of a register value read as an integer of the type (R40). -/
def ivalW (sgn : Bool) (w : Nat) (x : Word) : Int :=
  let n := x.toNat % 2 ^ w
  if sgn && n ≥ 2 ^ (w - 1) then (n : Int) - (2 ^ w : Nat) else n

def ival (t : BitVec 5) (x : Word) : Int := ivalW (tySigned t) (tyWidth t) x

/-- B operand of a scalar word of integer or logical kind: a register, or LIMM when L = 1 (R83). -/
def opB (s : State) (w : RForm) (unsigned : Bool) : Word :=
  if w.l == 1 then let (raw, n) := immSel s.limm w.b; immInt raw n unsigned else readR s w.b

/-- B operand of a scalar floating word, as bits of the format. -/
def opBFloat (s : State) (w : RForm) : Nat :=
  if w.l == 1 then let (raw, n) := immSel s.limm w.b; fimm (tyFmt w.ty) raw n else (readR s w.b).toNat

end Sys2Proof.Machine
end

