-- ==== Sys2Proof/Machine/Flags.lean ====
section
/-! DEFINITION. Flag computations: integer results, the flags of scalar words and their enabled traps. -/

namespace Sys2Proof.Machine

/-- Cause of an enabled flag, by bit (R25, R175). -/
def flagCause : Nat → Cause
  | 0 => .fpInvalid
  | 1 => .fpDivzero
  | 2 => .fpOverflow
  | 3 => .fpUnderflow
  | 4 => .fpInexact
  | 5 => .intOverflow
  | _ => .scaleNan

/-- The lowest flag both raised and enabled (R55, R176). -/
def lowestFlag (x : Flags) : Option Nat := (List.range 7).find? fun i => x.getLsbD i

/-- Enables of scalar flags: CSTAT.TRAPEN, or KSTAT.TRAPEN in the S slot (R55). -/
def scalarEnables (s : State) : Flags :=
  BitVec.ofNat 7 (if s.onCpPlace then s.core.cp.trapen else s.core.kern.trapen)

/-- FLUSH of scalar floating point (R50). -/
def scalarFlush (s : State) : Bool := if s.onCpPlace then s.core.cp.flush else s.core.kern.flush

/-- Raises the flags of one scalar operation: an enabled one traps and sets none of them (R55). KFLAGS takes those of an
S-slot word when the word commits; R176 fixes a later cycle for lane flags only (log 20). -/
def raiseFlags (s : State) (fl : Flags) : Body :=
  match lowestFlag (fl &&& scalarEnables s) with
  | some i => .error (.trap { cause := flagCause i } s)
  | none =>
    .ok (if s.onCpPlace then s.onCp fun c => { c with cflags := c.cflags ||| fl.setWidth 64 }
      else s.onKern fun k => { k with kflags := k.kflags ||| fl.setWidth 64 })

/-- `intresult` (R41): the value delivered, and IV. -/
def intResult (sgn : Bool) (w : Nat) (sat : Bool) (x : Int) : Int × Flags :=
  let lo := intLo sgn w
  let hi := intHi sgn w
  let out := x < lo || x > hi
  let v :=
    if sat then (if x < lo then lo else if x > hi then hi else x)
    else
      let n := x % (2 ^ w : Nat)
      if sgn && n ≥ (2 ^ (w - 1) : Nat) then n - (2 ^ w : Nat) else n
  (v, flagIf (sgn && out) flIV)

/-- A result extended to 64 bits (R41). -/
def intWord (x : Int) : Word := BitVec.ofInt 64 x

def intResultTy (t : BitVec 5) (sat : Bool) (x : Int) : Int × Flags := intResult (tySigned t) (tyWidth t) sat x

/-- Writes an integer result under its flags. -/
def giveInt (s : State) (lat : Nat) (d : BitVec 6) (r : Int × Flags) : Body := do
  let s ← raiseFlags s r.2
  .ok (writeR s lat d (intWord r.1))

/-- Writes a floating result under its flags; the bits above the format are zero (R45). -/
def giveFloat (s : State) (lat : Nat) (d : BitVec 6) (r : Nat × Flags) : Body := do
  let s ← raiseFlags s r.2
  .ok (writeR s lat d (BitVec.ofNat 64 r.1))

end Sys2Proof.Machine
end

