-- ==== Sys2Proof/Machine/Run.lean ====
section
/-! DEFINITION. How a word runs: privilege and guard, the CP's advance, waits and traps, and the faults of slots. -/

namespace Sys2Proof.Machine

/-- The word's PC advance (R17); a wait in progress is over. -/
def advance (s : State) : State := s.onCp fun c => { c with pc := c.pc + 8, wait := none }

/-- The CP stays at its word: a blocking wait, or (`hold`) an access that is not interrupted. `begun` says that the
wait's condition has been evaluated, and `addr` is the address an `ldge` waits at. The watchdog counts from the first
execution (R37, R421). -/
def stayHere (s : State) (hold begun : Bool) (opc : BitVec 8) (addr : Option Word) : State :=
  s.onCp fun c =>
    { c with wait := match c.wait with
        | some w => some { w with hold, begun := w.begun || begun, addr := addr.getD w.addr }
        | none => some ⟨c.pc, s.clock, hold, begun, opc, addr.getD 0⟩ }

/-- A slot word that has found no place executes again (R318). -/
def slotAgain (s : State) : State := s.onKern fun k => { k with issuing := k.issuing.map fun b => { b with again := true } }

def slotNum : Place → Nat
  | .cp => 0
  | .s => 1
  | .v0 => 2
  | .v1 => 3
  | .m => 4
  | .c0 => 5
  | .c1 => 6
  | .x => 7

/-- A kernel fault is found: no further bundle issues. -/
def kernelStop (s : State) (f : KStop) : State := s.onKern fun k => { k with stop := some f, issuing := none }

/-- A synchronous fault of a slot splits the bundle (R406). -/
def slotFault (s : State) (t : Trap) (opc : BitVec 8) : State :=
  kernelStop s
    { trap := t, slot := BitVec.ofNat 3 (slotNum s.place), opc, late := none, kpc := fld s.core.kern.kpc 0 11,
      resume := slotNum s.place }

/-- A word of which only the CP's privileged level may run (R15). -/
def denied (s : State) (priv : Bool) : Bool := priv && s.onCpPlace && !s.core.cp.mode

/-- The end of a word that a check stops. -/
def stopWord (s : State) (opc : BitVec 8) : Stop → State
  | .trap t s' => if s.onCpPlace then takeSync s' t opc s'.core.cp.pc else slotFault s' t opc
  | .wait s' => if s.onCpPlace then stayHere s' false true opc none else slotAgain s'
  | .waitAt a s' => if s.onCpPlace then stayHere s' false false opc (some a) else slotAgain s'
  | .hold s' => if s.onCpPlace then stayHere s' true false opc none else slotAgain s'
  | .final s' => s'

/-- A blocking wait at `addr` is interruptible while the access it makes is held up too (R37, R330). -/
def asWait {α : Type} (addr : Word) (r : Except Stop α) : Except Stop α :=
  match r with
  | .error (.hold s) => .error (.waitAt addr s)
  | .error (.wait s) => .error (.waitAt addr s)
  | r => r

/-- Runs a word: privilege (R72, check 8), guard (R57), then its body; `jump` says that the body sets the PC. -/
def runBody (s : State) (opc : BitVec 8) (guard : BitVec 4) (priv jump : Bool) (body : State → Body) : Out :=
  if denied s priv then .next (stopWord s opc (.trap { cause := .privileged } s))
  else if !guardHolds s guard then .next (if s.onCpPlace then advance s else s)
  else
    match body s with
    | .ok s' => .next (if s.onCpPlace && !jump then advance s' else s')
    | .error e => .next (stopWord s opc e)

/-- An unprivileged word that does not redirect control. -/
def runPlain (s : State) (opc : BitVec 8) (guard : BitVec 4) (body : State → Body) : Out :=
  runBody s opc guard false false body

/-- A lane cause (R113, R204): that of the lowest failing lane, with the lanes that raise the same cause. -/
def laneFault (f : Nat → Option Trap) : Option Trap :=
  let found := (List.range 16).filterMap fun l => (f l).map fun t => (l, t)
  match found with
  | [] => none
  | (l, t) :: _ =>
    let mask := (found.filter fun x => x.2.cause == t.cause).foldl (fun m x => m + 2 ^ x.1) 0
    some { t with lane := BitVec.ofNat 4 l, lmask := BitVec.ofNat 16 mask }

/-- A unit is busy for `n` cycles from issue (R118). -/
def useUnit (s : State) (u : Fin 4) (n : Nat) : State :=
  if s.onCpPlace then s else s.onKern fun k => { k with busy := k.busy.set u (k.ktime + n) }

end Sys2Proof.Machine
end

