-- ==== Sys2Proof/Machine/Branch.lean ====
section
/-! DEFINITION. Branches, calls and the counted loop (R93-R95, R124). -/

namespace Sys2Proof.Machine

/-- KPC as a value (R112). -/
def kpcW (s : State) : Word := BitVec.ofNat 64 (fld s.core.kern.kpc 0 11)

/-- PC or KPC plus a displacement in words or bundles (R93). -/
def relTarget (s : State) (disp : Word) : Word :=
  if s.onCpPlace then s.core.cp.pc + disp <<< 3 else kpcW s + disp

/-- The link value (R93). -/
def linkVal (s : State) : Word := if s.onCpPlace then s.core.cp.pc + 8 else kpcW s + 3

/-- A branch word in the S slot starts two delay bundles (R124). -/
def startDelay (s : State) (target : Option Word) : State :=
  s.onKern fun k =>
    let k := k.setDelay 2
    { k with kdtarget := match target with
        | some t => zextW t 11
        | none => zextW (kpcW s + 3) 11 }

/-- The end of a branch word: the state it leaves and its target when taken. A kernel target outside 0-1,023 faults
and commits nothing (R95). -/
def endBranch (s : State) (opc : BitVec 8) (r : State × Option Word) : State :=
  let (s', target) := r
  if s.onCpPlace then
    match target with
    | some t => s'.onCp fun c => { c with pc := t, wait := none }
    | none => advance s'
  else
    match target with
    | some t =>
      if t.toNat < 1024 then startDelay s' target
      else slotFault s { cause := .kstoreRange, detail := t.setWidth 32 } opc
    | none => startDelay s' none

/-- Runs a branch word. With a false guard the CP goes on, and a kernel still issues two delay bundles (R94). -/
def runBranch (s : State) (opc : BitVec 8) (guard : BitVec 4) (body : State → State × Option Word) : Out :=
  if guardHolds s guard then .next (endBranch s opc (body s))
  else .next (if s.onCpPlace then advance s else startDelay s none)

/-- `br` (R93). -/
def execBr (w : JForm) (s : State) : Out :=
  runBranch s 0x2A w.guard fun s => (s, some (relTarget s (w.disp.signExtend 64)))

/-- `call` (R93): the link register is written. -/
def execCall (w : JForm) (s : State) : Out :=
  runBranch s 0x2A w.guard fun s => (writeR s 1 w.d (linkVal s), some (relTarget s (w.disp.signExtend 64)))

/-- `jmp` (R93): D = 0 links nowhere; the target is read before the link is written. -/
def execJmp (w : RForm) (s : State) : Out :=
  runBranch s 0x2B w.guard fun s => (writeR s 1 w.d (linkVal s), some (readR s w.a))

/-- Condition of `bcz` on a signed value (R93). -/
def bczHolds (c : Nat) (x : Int) : Bool :=
  match c with
  | 0 => x == 0
  | 1 => x != 0
  | 2 => x < 0
  | 3 => x ≥ 0
  | 4 => x > 0
  | _ => x ≤ 0

/-- `bcz` (R93). -/
def execBcz (w : IForm) (s : State) : Out :=
  runBranch s 0x2C w.guard fun s =>
    (s, if bczHolds w.fn.toNat (readR s w.a).toInt then some (relTarget s (w.imm.signExtend 64)) else none)

/-- `loop` (R93): decrements gD and branches when it is not zero. -/
def execLoop (w : IForm) (s : State) : Out :=
  runBranch s 0x2D w.guard fun s =>
    let v := readR s w.d - 1
    (writeR s 1 w.d v, if v == 0 then none else some (relTarget s (w.imm.signExtend 64)))

end Sys2Proof.Machine
end

