-- ==== Sys2Proof/WellFormed.lean ====
section
/-! DEFINITION. Well-formed instructions: those that pass every check of R72 on their own fields. -/

namespace Sys2Proof

open Sys2Proof.Machine

/-- Every check of R72 passes in the place of `e`, the opcode's legality there included, and the word is not
*never*-guarded (R10). -/
abbrev WellFormed (e : Env) (i : Instr) : Prop :=
  (match Instr.raw i with
    | some r => r.guard != 8
    | none => false) = true ∧ Instr.selects i = true ∧ Instr.check e i = none

end Sys2Proof
end

