-- ==== Sys2Proof/Decode.lean ====
section
/-! DEFINITION. The decoder: total on every word, rejecting by cause (R10, R69-R72), and the encoder. -/

namespace Sys2Proof

open Sys2Proof.Machine

/-- What a word decodes to. -/
inductive Decoded where
  /-- A *never*-guarded word: a no-operation (R10). -/
  | never
  /-- The all-zero word: an empty slot of a bundle, ZERO_WORD on the CP (R69). -/
  | zero
  /-- A check of R72 fails. -/
  | bad (t : Trap)
  | ok (i : Instr)
  deriving DecidableEq, Repr

/-- The constructor that opcode and selector fields name, for an opcode outside 0xD0-0xDF; `none` when no entry assigns
the selector value. -/
def plainInstrOf (w : Word) : Option Instr :=
  match (w.extractLsb' 56 8).toNat with
  | 0x01 =>
    let f := RForm.ofWord w
    some (.add f)
  | 0x02 =>
    let f := RForm.ofWord w
    some (.sub f)
  | 0x03 =>
    let f := RForm.ofWord w
    some (.mul f)
  | 0x04 =>
    let f := RForm.ofWord w
    some (.mulh f)
  | 0x05 =>
    let f := RForm.ofWord w
    some (.div f)
  | 0x06 =>
    let f := RForm.ofWord w
    some (.rem f)
  | 0x07 =>
    let f := RForm.ofWord w
    some (.min f)
  | 0x08 =>
    let f := RForm.ofWord w
    some (.max f)
  | 0x09 =>
    let f := RForm.ofWord w
    some (.abs f)
  | 0x0A =>
    let f := RForm.ofWord w
    some (.neg f)
  | 0x0B =>
    let f := RForm.ofWord w
    some (.and f)
  | 0x0C =>
    let f := RForm.ofWord w
    some (.or f)
  | 0x0D =>
    let f := RForm.ofWord w
    some (.xor f)
  | 0x0E =>
    let f := RForm.ofWord w
    some (.andn f)
  | 0x0F =>
    let f := RForm.ofWord w
    some (.shl f)
  | 0x10 =>
    let f := RForm.ofWord w
    some (.shr f)
  | 0x11 =>
    let f := RForm.ofWord w
    some (.sra f)
  | 0x12 =>
    let f := RForm.ofWord w
    if Instr.selects (.bcntPop f) then some (.bcntPop f)
    else if Instr.selects (.bcntClz f) then some (.bcntClz f)
    else if Instr.selects (.bcntCtz f) then some (.bcntCtz f)
    else none
  | 0x13 =>
    let f := IForm.ofWord w
    some (.addi f)
  | 0x14 =>
    let f := IForm.ofWord w
    if Instr.selects (.andi f) then some (.andi f)
    else if Instr.selects (.ori f) then some (.ori f)
    else if Instr.selects (.xori f) then some (.xori f)
    else if Instr.selects (.andni f) then some (.andni f)
    else none
  | 0x15 =>
    let f := IForm.ofWord w
    if Instr.selects (.shli f) then some (.shli f)
    else if Instr.selects (.shri f) then some (.shri f)
    else if Instr.selects (.srai f) then some (.srai f)
    else none
  | 0x16 =>
    let f := IForm.ofWord w
    some (.movi f)
  | 0x17 =>
    let f := IForm.ofWord w
    some (.movh f)
  | 0x18 =>
    let f := RForm.ofWord w
    some (.lea f)
  | 0x19 =>
    let f := IForm.ofWord w
    some (.pcrel f)
  | 0x1A =>
    let f := RForm.ofWord w
    if Instr.selects (.cmp f) then some (.cmp f)
    else none
  | 0x1B =>
    let f := IForm.ofWord w
    if Instr.selects (.cmpi f) then some (.cmpi f)
    else none
  | 0x1C =>
    let f := RForm.ofWord w
    if Instr.selects (.pand f) then some (.pand f)
    else if Instr.selects (.por f) then some (.por f)
    else if Instr.selects (.pxor f) then some (.pxor f)
    else if Instr.selects (.pandn f) then some (.pandn f)
    else if Instr.selects (.porn f) then some (.porn f)
    else none
  | 0x1D =>
    let f := RForm.ofWord w
    if Instr.selects (.pmovGet f) then some (.pmovGet f)
    else if Instr.selects (.pmovPut f) then some (.pmovPut f)
    else none
  | 0x1E =>
    let f := RForm.ofWord w
    some (.sel f)
  | 0x1F =>
    let f := RForm.ofWord w
    some (.fadd f)
  | 0x20 =>
    let f := RForm.ofWord w
    some (.fsub f)
  | 0x21 =>
    let f := RForm.ofWord w
    some (.fmul f)
  | 0x22 =>
    let f := RForm.ofWord w
    some (.fdiv f)
  | 0x23 =>
    let f := RForm.ofWord w
    some (.fsqrt f)
  | 0x24 =>
    let f := RForm.ofWord w
    some (.fma f)
  | 0x25 =>
    let f := RForm.ofWord w
    if Instr.selects (.fmin f) then some (.fmin f)
    else none
  | 0x26 =>
    let f := RForm.ofWord w
    if Instr.selects (.fmax f) then some (.fmax f)
    else none
  | 0x27 =>
    let f := RForm.ofWord w
    if Instr.selects (.fsgnCpy f) then some (.fsgnCpy f)
    else if Instr.selects (.fsgnNeg f) then some (.fsgnNeg f)
    else if Instr.selects (.fsgnXor f) then some (.fsgnXor f)
    else none
  | 0x28 =>
    let f := RForm.ofWord w
    some (.fclass f)
  | 0x29 =>
    let f := RForm.ofWord w
    some (.cvt f)
  | 0x2A =>
    let f := JForm.ofWord w
    if Instr.selects (.br f) then some (.br f)
    else if Instr.selects (.call f) then some (.call f)
    else none
  | 0x2B =>
    let f := RForm.ofWord w
    some (.jmp f)
  | 0x2C =>
    let f := IForm.ofWord w
    if Instr.selects (.bcz f) then some (.bcz f)
    else none
  | 0x2D =>
    let f := IForm.ofWord w
    some (.loop f)
  | 0x2E =>
    let f := IForm.ofWord w
    if Instr.selects (.bfxZ f) then some (.bfxZ f)
    else if Instr.selects (.bfxS f) then some (.bfxS f)
    else if Instr.selects (.bfxI f) then some (.bfxI f)
    else none
  | 0x40 =>
    let f := RForm.ofWord w
    if Instr.selects (.vadd f) then some (.vadd f)
    else none
  | 0x41 =>
    let f := RForm.ofWord w
    if Instr.selects (.vsub f) then some (.vsub f)
    else none
  | 0x42 =>
    let f := RForm.ofWord w
    if Instr.selects (.vmul f) then some (.vmul f)
    else none
  | 0x43 =>
    let f := RForm.ofWord w
    if Instr.selects (.vmulh f) then some (.vmulh f)
    else none
  | 0x44 =>
    let f := RForm.ofWord w
    if Instr.selects (.vfma f) then some (.vfma f)
    else if Instr.selects (.vfms f) then some (.vfms f)
    else if Instr.selects (.vfnma f) then some (.vfnma f)
    else if Instr.selects (.vfnms f) then some (.vfnms f)
    else none
  | 0x45 =>
    let f := RForm.ofWord w
    if Instr.selects (.vmin f) then some (.vmin f)
    else none
  | 0x46 =>
    let f := RForm.ofWord w
    if Instr.selects (.vmax f) then some (.vmax f)
    else none
  | 0x47 =>
    let f := RForm.ofWord w
    if Instr.selects (.vabs f) then some (.vabs f)
    else if Instr.selects (.vneg f) then some (.vneg f)
    else none
  | 0x48 =>
    let f := RForm.ofWord w
    if Instr.selects (.vfnDiv f) then some (.vfnDiv f)
    else if Instr.selects (.vfnSqrt f) then some (.vfnSqrt f)
    else if Instr.selects (.vfnRsqrt f) then some (.vfnRsqrt f)
    else if Instr.selects (.vfnRecip f) then some (.vfnRecip f)
    else if Instr.selects (.vfnExp f) then some (.vfnExp f)
    else if Instr.selects (.vfnExp2 f) then some (.vfnExp2 f)
    else if Instr.selects (.vfnLog f) then some (.vfnLog f)
    else if Instr.selects (.vfnLog2 f) then some (.vfnLog2 f)
    else if Instr.selects (.vfnTanh f) then some (.vfnTanh f)
    else if Instr.selects (.vfnLogistic f) then some (.vfnLogistic f)
    else if Instr.selects (.vfnSinpi f) then some (.vfnSinpi f)
    else if Instr.selects (.vfnCospi f) then some (.vfnCospi f)
    else none
  | 0x49 =>
    let f := RForm.ofWord w
    if Instr.selects (.vlogAnd f) then some (.vlogAnd f)
    else if Instr.selects (.vlogOr f) then some (.vlogOr f)
    else if Instr.selects (.vlogXor f) then some (.vlogXor f)
    else if Instr.selects (.vlogAndn f) then some (.vlogAndn f)
    else if Instr.selects (.vlogNot f) then some (.vlogNot f)
    else none
  | 0x4A =>
    let f := RForm.ofWord w
    if Instr.selects (.vshShl f) then some (.vshShl f)
    else if Instr.selects (.vshShr f) then some (.vshShr f)
    else if Instr.selects (.vshSra f) then some (.vshSra f)
    else none
  | 0x4B =>
    let f := RForm.ofWord w
    if Instr.selects (.vcmp f) then some (.vcmp f)
    else none
  | 0x4C =>
    let f := RForm.ofWord w
    some (.vsel f)
  | 0x4D =>
    let f := RForm.ofWord w
    if Instr.selects (.mlogAnd f) then some (.mlogAnd f)
    else if Instr.selects (.mlogOr f) then some (.mlogOr f)
    else if Instr.selects (.mlogXor f) then some (.mlogXor f)
    else if Instr.selects (.mlogAndn f) then some (.mlogAndn f)
    else if Instr.selects (.mlogNot f) then some (.mlogNot f)
    else if Instr.selects (.mlogSet f) then some (.mlogSet f)
    else if Instr.selects (.mlogClr f) then some (.mlogClr f)
    else none
  | 0x4E =>
    let f := RForm.ofWord w
    if Instr.selects (.mpopCnt f) then some (.mpopCnt f)
    else if Instr.selects (.mpopFirst f) then some (.mpopFirst f)
    else none
  | 0x4F =>
    let f := RForm.ofWord w
    some (.vcvt f)
  | 0x50 =>
    let f := RForm.ofWord w
    some (.vpack f)
  | 0x51 =>
    let f := RForm.ofWord w
    some (.vunpack f)
  | 0x52 =>
    let f := RForm.ofWord w
    if Instr.selects (.vpermIdx f) then some (.vpermIdx f)
    else if Instr.selects (.vpermRot f) then some (.vpermRot f)
    else if Instr.selects (.vpermXor f) then some (.vpermXor f)
    else none
  | 0x53 =>
    let f := RForm.ofWord w
    if Instr.selects (.vbcastLane f) then some (.vbcastLane f)
    else if Instr.selects (.vbcastElem f) then some (.vbcastElem f)
    else none
  | 0x54 =>
    let f := RForm.ofWord w
    if Instr.selects (.vshuf f) then some (.vshuf f)
    else none
  | 0x55 =>
    let f := RForm.ofWord w
    if Instr.selects (.vred f) then some (.vred f)
    else none
  | 0x56 =>
    let f := RForm.ofWord w
    if Instr.selects (.vscan f) then some (.vscan f)
    else none
  | 0x57 =>
    let f := RForm.ofWord w
    if Instr.selects (.vidx f) then some (.vidx f)
    else if Instr.selects (.vidxElem f) then some (.vidxElem f)
    else if Instr.selects (.vidxFlat f) then some (.vidxFlat f)
    else none
  | 0x58 =>
    let f := RForm.ofWord w
    if Instr.selects (.vmovk f) then some (.vmovk f)
    else none
  | 0x59 =>
    let f := RForm.ofWord w
    some (.vext f)
  | 0x5A =>
    let f := RForm.ofWord w
    some (.vins f)
  | 0x5B =>
    let f := RForm.ofWord w
    if Instr.selects (.vflagRd f) then some (.vflagRd f)
    else if Instr.selects (.vflagWr f) then some (.vflagWr f)
    else if Instr.selects (.vflagClr f) then some (.vflagClr f)
    else none
  | 0x5C =>
    let f := RForm.ofWord w
    if Instr.selects (.vcmul f) then some (.vcmul f)
    else if Instr.selects (.vcmulConj f) then some (.vcmulConj f)
    else if Instr.selects (.vcmulFma f) then some (.vcmulFma f)
    else if Instr.selects (.vcmulFmac f) then some (.vcmulFmac f)
    else none
  | 0x5D =>
    let f := RForm.ofWord w
    if Instr.selects (.vclamp f) then some (.vclamp f)
    else none
  | 0x5E =>
    let f := RForm.ofWord w
    if Instr.selects (.vsgnCpy f) then some (.vsgnCpy f)
    else if Instr.selects (.vsgnNeg f) then some (.vsgnNeg f)
    else if Instr.selects (.vsgnXor f) then some (.vsgnXor f)
    else none
  | 0x5F =>
    let f := RForm.ofWord w
    if Instr.selects (.vbcntPop f) then some (.vbcntPop f)
    else if Instr.selects (.vbcntClz f) then some (.vbcntClz f)
    else if Instr.selects (.vbcntCtz f) then some (.vbcntCtz f)
    else none
  | 0x60 =>
    let f := RForm.ofWord w
    if Instr.selects (.vdot f) then some (.vdot f)
    else none
  | 0x61 =>
    let f := RForm.ofWord w
    if Instr.selects (.vrint f) then some (.vrint f)
    else if Instr.selects (.vrintX f) then some (.vrintX f)
    else none
  | 0x62 =>
    let f := RForm.ofWord w
    if Instr.selects (.vscale f) then some (.vscale f)
    else none
  | 0x80 =>
    let f := RForm.ofWord w
    if Instr.selects (.tmmaMadd f) then some (.tmmaMadd f)
    else if Instr.selects (.tmmaAdif f) then some (.tmmaAdif f)
    else if Instr.selects (.tmmaCselmax f) then some (.tmmaCselmax f)
    else if Instr.selects (.tmmaCselmin f) then some (.tmmaCselmin f)
    else if Instr.selects (.tmmaCmad f) then some (.tmmaCmad f)
    else if Instr.selects (.tmmaSeq f) then some (.tmmaSeq f)
    else none
  | 0x81 =>
    let f := RForm.ofWord w
    if Instr.selects (.tclr f) then some (.tclr f)
    else none
  | 0x82 =>
    let f := RForm.ofWord w
    some (.taccRd f)
  | 0x83 =>
    let f := RForm.ofWord w
    if Instr.selects (.taccWr f) then some (.taccWr f)
    else none
  | 0x84 =>
    let f := RForm.ofWord w
    some (.tnorm f)
  | 0x85 =>
    let f := RForm.ofWord w
    if Instr.selects (.tstatAcc f) then some (.tstatAcc f)
    else if Instr.selects (.tstatLatch f) then some (.tstatLatch f)
    else none
  | 0x86 =>
    let f := RForm.ofWord w
    some (.tcopy f)
  | 0x87 =>
    let f := RForm.ofWord w
    some (.tqclr f)
  | 0x88 =>
    let f := RForm.ofWord w
    some (.tmerge f)
  | 0xA0 =>
    let f := RForm.ofWord w
    if Instr.selects (.xfft f) then some (.xfft f)
    else none
  | 0xA1 =>
    let f := RForm.ofWord w
    if Instr.selects (.xifft f) then some (.xifft f)
    else none
  | 0xA2 =>
    let f := RForm.ofWord w
    if Instr.selects (.xtrn f) then some (.xtrn f)
    else if Instr.selects (.xtrnTurn f) then some (.xtrnTurn f)
    else if Instr.selects (.xtrnBack f) then some (.xtrnBack f)
    else none
  | 0xA3 =>
    let f := RForm.ofWord w
    if Instr.selects (.xcvt f) then some (.xcvt f)
    else none
  | 0xA4 =>
    let f := RForm.ofWord w
    if Instr.selects (.xexp f) then some (.xexp f)
    else none
  | 0xA5 =>
    let f := RForm.ofWord w
    if Instr.selects (.xsclS f) then some (.xsclS f)
    else if Instr.selects (.xsclU f) then some (.xsclU f)
    else none
  | 0xA6 =>
    let f := RForm.ofWord w
    if Instr.selects (.xmov f) then some (.xmov f)
    else none
  | 0xA7 =>
    let f := RForm.ofWord w
    if Instr.selects (.xhdr f) then some (.xhdr f)
    else none
  | 0xB0 =>
    let f := MForm.ofWord w
    some (.ld f)
  | 0xB1 =>
    let f := MForm.ofWord w
    some (.st f)
  | 0xB2 =>
    let f := MForm.ofWord w
    some (.lds f)
  | 0xB3 =>
    let f := MForm.ofWord w
    some (.sts f)
  | 0xB4 =>
    let f := MForm.ofWord w
    some (.ldq f)
  | 0xB5 =>
    let f := MForm.ofWord w
    some (.stq f)
  | 0xB6 =>
    let f := MForm.ofWord w
    some (.pref f)
  | 0xB7 =>
    let f := MForm.ofWord w
    some (.stz f)
  | 0xB8 =>
    let f := MForm.ofWord w
    if Instr.selects (.amoAdd f) then some (.amoAdd f)
    else if Instr.selects (.amoAnd f) then some (.amoAnd f)
    else if Instr.selects (.amoOr f) then some (.amoOr f)
    else if Instr.selects (.amoXor f) then some (.amoXor f)
    else if Instr.selects (.amoMin f) then some (.amoMin f)
    else if Instr.selects (.amoMax f) then some (.amoMax f)
    else if Instr.selects (.amoExch f) then some (.amoExch f)
    else if Instr.selects (.amoFadd f) then some (.amoFadd f)
    else none
  | 0xB9 =>
    let f := MForm.ofWord w
    if Instr.selects (.redAdd f) then some (.redAdd f)
    else if Instr.selects (.redAnd f) then some (.redAnd f)
    else if Instr.selects (.redOr f) then some (.redOr f)
    else if Instr.selects (.redXor f) then some (.redXor f)
    else if Instr.selects (.redMin f) then some (.redMin f)
    else if Instr.selects (.redMax f) then some (.redMax f)
    else if Instr.selects (.redFadd f) then some (.redFadd f)
    else none
  | 0xBA =>
    let f := MForm.ofWord w
    some (.cas f)
  | 0xBB =>
    let f := MForm.ofWord w
    some (.join f)
  | 0xBC =>
    let f := MForm.ofWord w
    some (.ldge f)
  | 0xBD =>
    let f := MForm.ofWord w
    if Instr.selects (.fenceAcq f) then some (.fenceAcq f)
    else if Instr.selects (.fenceRel f) then some (.fenceRel f)
    else if Instr.selects (.fenceAr f) then some (.fenceAr f)
    else if Instr.selects (.fenceSc f) then some (.fenceSc f)
    else none
  | 0xBE =>
    let f := MForm.ofWord w
    some (.sread f)
  | 0xBF =>
    let f := MForm.ofWord w
    some (.swrite f)
  | 0xC0 =>
    let f := MForm.ofWord w
    some (.sreadx f)
  | 0xC1 =>
    let f := MForm.ofWord w
    some (.swritex f)
  | 0xC2 =>
    let f := MForm.ofWord w
    some (.sbcast f)
  | 0xC3 =>
    let f := RForm.ofWord w
    if Instr.selects (.tfillAll f) then some (.tfillAll f)
    else if Instr.selects (.tfillPart f) then some (.tfillPart f)
    else if Instr.selects (.tfillGath f) then some (.tfillGath f)
    else none
  | 0xC4 =>
    let f := RForm.ofWord w
    if Instr.selects (.cvtaGal f) then some (.cvtaGal f)
    else if Instr.selects (.cvtaOwn f) then some (.cvtaOwn f)
    else if Instr.selects (.cvtaCore f) then some (.cvtaCore f)
    else if Instr.selects (.cvtaOff f) then some (.cvtaOff f)
    else none
  | 0xC5 =>
    let f := RForm.ofWord w
    if Instr.selects (.inapGlob f) then some (.inapGlob f)
    else if Instr.selects (.inapSrf f) then some (.inapSrf f)
    else if Instr.selects (.inapGal f) then some (.inapGal f)
    else if Instr.selects (.inapLocal f) then some (.inapLocal f)
    else none
  | 0xC6 =>
    let f := IForm.ofWord w
    if Instr.selects (.barArrive f) then some (.barArrive f)
    else if Instr.selects (.barWait f) then some (.barWait f)
    else if Instr.selects (.barSync f) then some (.barSync f)
    else none
  | 0xC7 =>
    let f := RForm.ofWord w
    if Instr.selects (.cacheIall f) then some (.cacheIall f)
    else if Instr.selects (.cacheIline f) then some (.cacheIline f)
    else if Instr.selects (.cacheDline f) then some (.cacheDline f)
    else if Instr.selects (.cacheDall f) then some (.cacheDall f)
    else none
  | 0xC8 =>
    let f := RForm.ofWord w
    if Instr.selects (.tlbiAll f) then some (.tlbiAll f)
    else if Instr.selects (.tlbiAsid f) then some (.tlbiAsid f)
    else if Instr.selects (.tlbiPage f) then some (.tlbiPage f)
    else if Instr.selects (.tlbiRange f) then some (.tlbiRange f)
    else none
  | 0xE0 =>
    let f := IForm.ofWord w
    some (.rdsys f)
  | 0xE1 =>
    let f := IForm.ofWord w
    if Instr.selects (.trapSw f) then some (.trapSw f)
    else if Instr.selects (.trapCall f) then some (.trapCall f)
    else none
  | 0xE2 =>
    let f := IForm.ofWord w
    some (.brk f)
  | 0xE3 =>
    let f := IForm.ofWord w
    some (.wrsys f)
  | 0xE4 =>
    let f := IForm.ofWord w
    some (.tret f)
  | 0xE5 =>
    let f := IForm.ofWord w
    some (.halt f)
  | 0xE6 =>
    let f := IForm.ofWord w
    some (.idle f)
  | 0xE7 =>
    let f := IForm.ofWord w
    some (.xchsys f)
  | 0xE8 =>
    let f := IForm.ofWord w
    some (.work f)
  | _ => none

/-- The stream words, 0xD0-0xDF. -/
noncomputable def streamInstrOf (w : Word) : Option Instr :=
  match (w.extractLsb' 56 8).toNat with
  | 0xD0 =>
    let f := SForm.ofWord w
    some (.sload f)
  | 0xD1 =>
    let f := SForm.ofWord w
    some (.sstore f)
  | 0xD2 =>
    let f := SForm.ofWord w
    if Instr.selects (.stileRd f) then some (.stileRd f)
    else if Instr.selects (.stileWr f) then some (.stileWr f)
    else none
  | 0xD3 =>
    let f := SForm.ofWord w
    if Instr.selects (.scopy f) then some (.scopy f)
    else if Instr.selects (.scopyR f) then some (.scopyR f)
    else if Instr.selects (.scopyM f) then some (.scopyM f)
    else none
  | 0xD4 =>
    let f := SForm.ofWord w
    if Instr.selects (.sfill f) then some (.sfill f)
    else if Instr.selects (.sfillR f) then some (.sfillR f)
    else if Instr.selects (.sfillM f) then some (.sfillM f)
    else none
  | 0xD5 =>
    let f := SForm.ofWord w
    some (.sgather f)
  | 0xD6 =>
    let f := SForm.ofWord w
    some (.sscadd f)
  | 0xD7 =>
    let f := SForm.ofWord w
    some (.srecv f)
  | 0xD8 =>
    let f := SForm.ofWord w
    some (.krun f)
  | 0xD9 =>
    let f := SForm.ofWord w
    if Instr.selects (.kwait f) then some (.kwait f)
    else none
  | 0xDA =>
    let f := SForm.ofWord w
    if Instr.selects (.kresume f) then some (.kresume f)
    else if Instr.selects (.kresumeAbort f) then some (.kresumeAbort f)
    else none
  | 0xDB =>
    let f := SForm.ofWord w
    if Instr.selects (.swait f) then some (.swait f)
    else if Instr.selects (.swaitTest f) then some (.swaitTest f)
    else if Instr.selects (.swaitAll f) then some (.swaitAll f)
    else none
  | 0xDC =>
    let f := SForm.ofWord w
    if Instr.selects (.barvArm f) then some (.barvArm f)
    else if Instr.selects (.barvArrive f) then some (.barvArrive f)
    else if Instr.selects (.barvWait f) then some (.barvWait f)
    else none
  | 0xDD =>
    let f := SForm.ofWord w
    if Instr.selects (.sdgetW0 f) then some (.sdgetW0 f)
    else if Instr.selects (.sdgetW1 f) then some (.sdgetW1 f)
    else if Instr.selects (.sdputW0 f) then some (.sdputW0 f)
    else if Instr.selects (.sdputW1 f) then some (.sdputW1 f)
    else none
  | 0xDE =>
    let f := SForm.ofWord w
    if Instr.selects (.sdrec f) then some (.sdrec f)
    else none
  | 0xDF =>
    let f := SForm.ofWord w
    some (.snop f)
  | _ => none

/-- The constructor that opcode and selector fields name. -/
noncomputable def instrOf (w : Word) : Option Instr :=
  if w.extractLsb' 60 4 == 0xD then streamInstrOf w else plainInstrOf w

/-- Decoding of one word in its place (R72): the first check that fails names the cause. -/
def decodeWith (f : Word → Option Instr) (e : Env) (w : Word) : Decoded :=
  if w == 0 then .zero
  else if w.extractLsb' 52 4 == 8 then .never
  else if !opcAssigned (w.extractLsb' 56 8) then .bad { cause := .badOpcode }
  else if !opcLegal (w.extractLsb' 56 8) e.place then .bad { cause := .badSlot }
  else
    match f w with
    | none => .bad { cause := .badMode }
    | some i =>
      match Instr.check e i with
      | some t => .bad t
      | none => .ok i

noncomputable def decodeWord (e : Env) (w : Word) : Decoded := decodeWith instrOf e w

/-- A slot word: no stream word is legal in a slot (R70). -/
def decodeSlot (e : Env) (w : Word) : Decoded := decodeWith plainInstrOf e w

/-- The word of an instruction (R56, R58, R372); 0 for an event. -/
def encode (i : Instr) : Word :=
  match Instr.raw i with
  | some r => r.toWord
  | none => 0

/-- The first place where an opcode is legal, for reading a word whose place is not given. -/
def placeOf (o : BitVec 8) : Place :=
  if opcLegal o .cp then .cp
  else if opcLegal o .v0 then .v0
  else if opcLegal o .m then .m
  else if opcLegal o .x then .x
  else .c0

/-- The instruction that the decoder reads from a word whose bits are `w`: the table's words are 64 bits, in a place
where the opcode is legal, with spectral mode accepted. -/
noncomputable def decodeTableWord (nbits w : Nat) : Option Instr :=
  if nbits ≤ 64 then
    let x := BitVec.ofNat 64 (w % 2 ^ nbits)
    match decodeWord ⟨placeOf (x.extractLsb' 56 8), 0, true⟩ x with
    | .ok i => some i
    | _ => none
  else none

end Sys2Proof
end

