-- ==== Sys2Proof/Machine/Elementary.lean ====
section
/-! DEFINITION. The functions of R181: the exact mathematical value, enclosed in fixed point, rounded once.
Every enclosure is an integer `x` and a slack: the value times 2^n lies in [x − slack, x + slack]. -/

namespace Sys2Proof.Machine

/-- Slack that covers every truncation of the series below. -/
def encSlack : Int := 2 ^ 48

/-- Taylor terms of e^r: each is the last times r/i. -/
def expTerms (n : Nat) (r : Int) : Nat → Int → Nat → Int → Int
  | 0, _, _, acc => acc
  | fuel + 1, t, i, acc =>
    let t' := t * r / (2 ^ n * (i : Int))
    if t' == 0 then acc else expTerms n r fuel t' (i + 1) (acc + t')

/-- e^r·2^n for 0 ≤ r < 1, r given times 2^n. -/
def expFix (n : Nat) (r : Int) : Int := expTerms n r n (2 ^ n) 1 (2 ^ n)

/-- Odd-power series Σ s^i z^(2i+1)/(2i+1); `z2` is z² times 2^n. -/
def oddTerms (n : Nat) (z2 s : Int) : Nat → Int → Nat → Int → Int
  | 0, _, _, acc => acc
  | fuel + 1, t, i, acc =>
    if t == 0 then acc
    else oddTerms n z2 s fuel (s * (t * z2 / 2 ^ n)) (i + 2) (acc + t / (i : Int))

/-- 2·atanh z, z times 2^n. -/
def atanh2 (n : Nat) (z : Int) : Int := 2 * oddTerms n (z * z / 2 ^ n) 1 n z 1 0

def ln2Fix (n : Nat) : Int := atanh2 n (2 ^ n / 3)

/-- π by 16·atan(1/5) − 4·atan(1/239). -/
def piFix (n : Nat) : Int :=
  16 * oddTerms n (2 ^ n / 25) (-1) n (2 ^ n / 5) 1 0 - 4 * oddTerms n (2 ^ n / 57121) (-1) n (2 ^ n / 239) 1 0

/-- Terms of sine or cosine: each is the last times −θ²/(i(i+1)). -/
def trigTerms (n : Nat) (t2 : Int) : Nat → Int → Nat → Int → Int
  | 0, _, _, acc => acc
  | fuel + 1, t, i, acc =>
    if t == 0 then acc
    else trigTerms n t2 fuel (-(t * t2 / (2 ^ n * ((i : Int) * (i + 1))))) (i + 2) (acc + t)

def sinFix (n : Nat) (th : Int) : Int := trigTerms n (th * th / 2 ^ n) n th 2 0
def cosFix (n : Nat) (th : Int) : Int := trigTerms n (th * th / 2 ^ n) n (2 ^ n) 1 0

/-- m·2^e times 2^n, an integer for every operand of R181. -/
def toFix (n : Nat) (neg : Bool) (m : Nat) (e : Int) : Int := sInt neg (roundShift 1 false m false (-(e + n))).1

/-- e^x = y·2^(k−n) for x times 2^n. -/
def expSplit (n : Nat) (x : Int) : Int × Int :=
  let l := ln2Fix n
  let k := x / l
  (expFix n (x - k * l), k)

/-- An enclosed magnitude: sign, centre, exponent. -/
structure Enc where
  neg : Bool
  mid : Int
  e : Int
  deriving DecidableEq, Repr

def Enc.ofSigned (x : Int) (e : Int) : Enc := ⟨x < 0, x.natAbs, e⟩

/-- ln of m·2^e for m > 0, times 2^n. -/
def lnFix (n : Nat) (m : Nat) (e : Int) : Int × Int :=
  let len := bitLen m
  let k := e + len - 1
  let f : Int := (m : Int) * 2 ^ n / 2 ^ (len - 1)
  (k, atanh2 n ((f - 2 ^ n) * 2 ^ n / (f + 2 ^ n)))

/-- Sine and cosine of π·x for x = m·2^e, by quadrant: the enclosure of each. -/
def sinCosPi (n : Nat) (m : Nat) (e : Int) : Int × Int :=
  let x := toFix n false m e % (2 ^ (n + 1))
  let q := x / 2 ^ (n - 1)
  let y := x % 2 ^ (n - 1)
  let th := y * piFix n / 2 ^ n
  let sn := sinFix n th
  let cs := cosFix n th
  match q with
  | 0 => (sn, cs)
  | 1 => (cs, -sn)
  | 2 => (-sn, -cs)
  | _ => (-cs, sn)

/-- The enclosure of function `sub` of R181 (4-11) at ±m·2^e, m > 0, in n fraction bits. -/
def vfnEnc (sub : Nat) (n : Nat) (neg : Bool) (m : Nat) (e : Int) : Enc :=
  let x := toFix n neg m e
  match sub with
  | 4 =>
    let (y, k) := expSplit n x
    ⟨false, y, k - n⟩
  | 5 =>
    let k := x / 2 ^ n
    ⟨false, expFix n ((x % 2 ^ n) * ln2Fix n / 2 ^ n), k - n⟩
  | 6 =>
    let (k, f) := lnFix n m e
    Enc.ofSigned (k * ln2Fix n + f) (-(n : Int))
  | 7 =>
    let (k, f) := lnFix n m e
    Enc.ofSigned (k * 2 ^ n + f * 2 ^ n / ln2Fix n) (-(n : Int))
  | 8 =>
    let (y, k) := expSplit n (2 * toFix n false m e)
    let t := y * 2 ^ k.toNat
    ⟨neg, (t - 2 ^ n) * 2 ^ n / (t + 2 ^ n), -(n : Int)⟩
  | 9 =>
    let (y, k) := expSplit n (toFix n false m e)
    let t := y * 2 ^ k.toNat
    if neg then ⟨false, 2 ^ (2 * n + k.toNat) / (t + 2 ^ n), -(n : Int) - k⟩
    else ⟨false, t * 2 ^ n / (t + 2 ^ n), -(n : Int)⟩
  | 10 =>
    let s := (sinCosPi n m e).1
    Enc.ofSigned (if neg then -s else s) (-(n : Int))
  | _ => Enc.ofSigned (sinCosPi n m e).2 (-(n : Int))

/-- Rounding an enclosure: the result when both ends round alike. -/
def roundEnc (f : FFmt) (rm : Nat) (flush : Bool) (c : Enc) : Option (Nat × Flags) :=
  let lo := c.mid - encSlack
  let hi := c.mid + encSlack
  if lo ≤ 0 then none
  else
    let a := roundTo f rm flush c.neg lo.toNat c.e true
    if a == roundTo f rm flush c.neg hi.toNat c.e true then some a else none

/-- A value just below `±2^e`, or one that overflows or underflows every format. -/
def justBelow (neg : Bool) (e : Int) : FVal := .near neg (2 ^ 60 - 1) (e - 60)
def hugeVal : FVal := .near false (2 ^ 60) 1000
def minuteVal : FVal := .near false (2 ^ 60) (-1000)

/-- Whether ±m·2^e has magnitude at least 2^k. -/
def magAtLeast (m : Nat) (e : Int) (k : Int) : Bool := m != 0 && k ≤ e + bitLen m - 1

/-- m·2^e is an integer, or a multiple of one half. -/
def isMultiple (m : Nat) (e : Int) (unit : Int) : Bool := e ≥ unit || m % 2 ^ (unit - e).toNat == 0

/-- Special cases and exact values of the functions 4-11 (R181), as a value and the flag DZ. -/
def vfnSpecial (sub : Nat) (v : FVal) : Option (FVal × Flags) :=
  match sub, v with
  | _, .nan nv => some (.nan nv, 0)
  | 4, .inf neg => some (if neg then .fin false 0 0 else .inf false, 0)
  | 5, .inf neg => some (if neg then .fin false 0 0 else .inf false, 0)
  | 6, .inf neg => some (if neg then .nan true else .inf false, 0)
  | 7, .inf neg => some (if neg then .nan true else .inf false, 0)
  | 8, .inf neg => some (.fin neg 1 0, 0)
  | 9, .inf neg => some (if neg then .fin false 0 0 else .fin false 1 0, 0)
  | _, .inf _ => some (.nan true, 0)
  | 4, .fin neg m e =>
    if m == 0 then some (.fin false 1 0, 0)
    else if magAtLeast m e 8 then some (if neg then minuteVal else hugeVal, 0) else none
  | 5, .fin neg m e =>
    if magAtLeast m e 9 then some (if neg then minuteVal else hugeVal, 0)
    else if isMultiple m e 0 then some (.fin false 1 (roundInt 1 neg m e).1, 0) else none
  | 6, .fin neg m _ =>
    if m == 0 then some (.inf true, flDZ)
    else if neg then some (.nan true, 0)
    else if cmpV v (.fin false 1 0) == some .eq then some (.fin false 0 0, 0) else none
  | 7, .fin neg m e =>
    if m == 0 then some (.inf true, flDZ)
    else if neg then some (.nan true, 0)
    else if m == 2 ^ (bitLen m - 1) then some (ofInt (e + bitLen m - 1) 0 false, 0) else none
  | 8, .fin neg m e =>
    if m == 0 then some (v, 0) else if magAtLeast m e 6 then some (justBelow neg 0, 0) else none
  | 9, .fin neg m e =>
    if m == 0 then some (.fin false 1 (-1), 0)
    else if neg && magAtLeast m e 8 then some (minuteVal, 0)
    else if !neg && magAtLeast m e 6 then some (justBelow false 0, 0) else none
  | 10, .fin neg m e =>
    if isMultiple m e 0 then some (.fin neg 0 0, 0)
    else if isMultiple m e (-1) then
      some (.fin (neg != ((toFix 1 false m e) % 4 == 3)) 1 0, 0)
    else none
  | _, .fin _ m e =>
    if isMultiple m e 0 then some (.fin ((toFix 0 false m e) % 2 == 1) 1 0, 0)
    else if isMultiple m e (-1) then some (.fin false 0 0, 0)
    else none
  | _, .near _ _ _ => some (v, 0)

/-- 1/√a (R181): exact for a power of four. -/
def rsqrtV (p : Nat) (v : FVal) : FVal × Flags :=
  match v with
  | .nan nv => (.nan nv, 0)
  | .inf neg => (if neg then .nan true else .fin false 0 0, 0)
  | .near neg m e => (.near neg m e, 0)
  | .fin neg m e =>
    if m == 0 then (.inf neg, flDZ)
    else if neg then (.nan true, 0)
    else
      let odd : Nat := (e % 2).toNat
      let k := p + 4 + bitLen m
      let n := 2 ^ (2 * k) / (m * 2 ^ odd)
      let r := isqrt n
      let e' := -((e - odd) / 2) - (k : Int)
      (if r * r * (m * 2 ^ odd) == 2 ^ (2 * k) then .fin false r e' else .near false r e', 0)

/-- `vfn` of R181: the bits of the result and the flags raised. -/
def vfn (sub : Nat) (f : FFmt) (rm : Nat) (flush : Bool) (a b : FVal) : Nat × Flags :=
  let give (r : FVal × Flags) : Nat × Flags :=
    let (x, fl) := deliver f rm flush r.1
    (x, fl ||| r.2)
  match sub with
  | 0 => give (divV f.p a b)
  | 1 => give (sqrtV f.p a, 0)
  | 2 => give (rsqrtV f.p a)
  | 3 => give (divV f.p (.fin false 1 0) a)
  | _ =>
    match vfnSpecial sub a with
    | some r => give r
    | none =>
      match a with
      | .fin neg m e =>
        match roundEnc f rm flush (vfnEnc sub 640 neg m e) with
        | some r => r
        | none =>
          match roundEnc f rm flush (vfnEnc sub 1280 neg m e) with
          | some r => r
          | none => (Config.freeElement sub (deliver f 0 false a).1 % 2 ^ f.width, flNX)
      | _ => give (a, 0)

end Sys2Proof.Machine
end

