-- ==== Sys2Proof/Machine/System.lean ====
section
/-! DEFINITION. System instructions and registers (R15, R23-R32, R98-R104, R109-R114, R462). -/

namespace Sys2Proof.Machine

/-- Whether user mode may read a system register (R23, R109, R462). -/
def sysUserRead (sel : Nat) : Bool :=
  sel == 0 || (0x10 ≤ sel && sel ≤ 0x13) || sel == 0x20 || sel == 0x21 || sel == 0x23 || sel == 0x25 || 0x30 ≤ sel

/-- Whether user mode may write a system register (R15). -/
def sysUserWrite (sel : Nat) : Bool := sel == 0 || sel == 0x13 || sel == 0x21 || sel == 0x25

/-- A kernel register (R109). -/
def sysKernelReg (sel : Nat) : Bool := 0x20 ≤ sel && sel ≤ 0x25

/-- The value of a system register (R23, R109, R462). -/
def readSys (s : State) (sel : Nat) : Word :=
  let c := s.core.cp
  let k := s.core.kern
  match sel with
  | 0x00 => c.cstat
  | 0x01 => c.csave
  | 0x02 => c.ctvec
  | 0x03 => c.ctpc
  | 0x04 => c.ccause
  | 0x05 => c.ctaddr
  | 0x06 => c.ctinfo
  | 0x08 => c.cscratch.get 0
  | 0x09 => c.cscratch.get 1
  | 0x0A => c.cscratch.get 2
  | 0x0B => c.cscratch.get 3
  | 0x10 => BitVec.ofNat 64 s.clock
  | 0x11 => ccoreOf s s.focus
  | 0x12 => c.casid
  | 0x13 => c.cflags
  | 0x20 => k.kpc
  | 0x21 => k.kstat
  | 0x22 => k.kdtarget
  | 0x23 => k.kcause
  | 0x24 => k.kinfo
  | 0x25 => k.kflags
  | 0x30 => s.md.feature.extractLsb' 0 64
  | 0x31 => s.md.feature.extractLsb' 64 64
  | 0x32 => s.md.faccept.extractLsb' 0 64
  | 0x33 => s.md.faccept.extractLsb' 64 64
  | _ => 0

/-- The fields that CSTAT can hold: reserved bits zero, WDLOG at least 10 (R24). -/
def cstatLegal (v : Word) : Word :=
  let n := v &&& 0x1F03FF
  if fld n 16 5 < 10 then setFld n 16 5 10 else n

/-- CSTAT as stored by a write: user mode changes bits 9:3 (R15, R24). -/
def cstatWrite (sup : Bool) (old v : Word) : Word := if sup then cstatLegal v else mergeBits old v 0x3F8

/-- The fields that KSTAT can hold: DELAY 3 is stored as 2, CHECK needs its feature, and RESUME_SLOT is 0 unless STATE is
2, also when a supervisor writes it (R111, R463; log 20). -/
def kstatLegal (checking : Bool) (v : Word) : Word :=
  let n := v &&& 0x7FF7FFF
  let n := if fld n 13 2 == 3 then setFld n 13 2 2 else n
  let n := if fld n 0 2 == 2 then n else setFld n 10 3 0
  if checking then n else setBit n 2 false

/-- KSTAT as stored by a write: STATE is read-only, and user mode changes bits 9:2 (R15, R111). -/
def kstatWrite (sup checking : Bool) (old v : Word) : Word :=
  kstatLegal checking (mergeBits old v (if sup then 0x7FF7FFC else 0x3FC))

/-- A feature bit that is accepted (R463). -/
def accepted (s : State) (i : Nat) : Bool := s.md.faccept.getLsbD i

/-- The effect of writing a system register. -/
def writeSys (s : State) (sel : Nat) (v : Word) : State :=
  let sup := s.core.cp.mode
  let cpw (f : CP → CP) := s.onCp f
  let kw (f : Kern → Kern) := s.onKern f
  match sel with
  | 0x00 => cpw fun c => { c with cstat := cstatWrite sup c.cstat v }
  | 0x01 => cpw fun c => { c with csave := v &&& 3 }
  | 0x02 => cpw fun c => { c with ctvec := v &&& ~~~7, vecSet := true }
  | 0x03 => cpw fun c => { c with ctpc := v }
  | 0x04 => cpw fun c => { c with ccause := v &&& 0xFF }
  | 0x05 => cpw fun c => { c with ctaddr := v }
  | 0x06 => cpw fun c => { c with ctinfo := v &&& 0xFFFFFFFF0000FFFF }
  | 0x08 => cpw fun c => { c with cscratch := c.cscratch.set 0 v }
  | 0x09 => cpw fun c => { c with cscratch := c.cscratch.set 1 v }
  | 0x0A => cpw fun c => { c with cscratch := c.cscratch.set 2 v }
  | 0x0B => cpw fun c => { c with cscratch := c.cscratch.set 3 v }
  | 0x12 => cpw fun c => { c with casid := v &&& 0xFFFF }
  | 0x13 => cpw fun c => { c with cflags := v &&& 0x3F }
  | 0x20 => kw fun k => { k with kpc := v &&& 0x7FF }
  | 0x21 => kw fun k => { k with kstat := kstatWrite sup (accepted s 3) k.kstat v }
  | 0x22 => kw fun k => { k with kdtarget := v &&& 0x7FF }
  | 0x23 => kw fun k => { k with kcause := v &&& 0x7F }
  | 0x24 => kw fun k => { k with kinfo := v &&& 0xFFFFFFFFFFFF3FF7 }
  | 0x25 => kw fun k => { k with kflags := v &&& 0x3F }
  | _ => s

/-- The CP's registers without reserved bits, whatever a context area holds (R5). -/
def CP.legal (c : CP) : CP :=
  { c with
    cstat := cstatLegal c.cstat
    csave := c.csave &&& 3
    ctvec := c.ctvec &&& ~~~7
    ccause := c.ccause &&& 0xFF
    ctinfo := c.ctinfo &&& 0xFFFFFFFF0000FFFF
    casid := c.casid &&& 0xFFFF
    cflags := c.cflags &&& 0x3F }

/-- The kernel's registers without reserved bits (R5, R109-R114). -/
def Kern.legal (checking : Bool) (k : Kern) : Kern :=
  { k with
    kpc := k.kpc &&& 0x7FF
    kstat := kstatLegal checking k.kstat
    kdtarget := k.kdtarget &&& 0x7FF
    kcause := k.kcause &&& 0x7F
    kinfo := k.kinfo &&& 0xFFFFFFFFFFFF3FF7
    kflags := k.kflags &&& 0x3F }

/-- A write of a kernel register waits while the kernel runs (R110). -/
def sysWait (s : State) (sel : Nat) : Bool := sysKernelReg sel && s.core.kern.stState == 1

/-- A system register word that user mode may not execute (R15). -/
def sysDenied (sel : Nat) (read write : Bool) : Bool :=
  (read && !sysUserRead sel) || (write && !sysUserWrite sel)

/-- `rdsys` (R99). -/
def execRdsys (w : IForm) (s : State) : Out :=
  runBody s 0xE0 w.guard (sysDenied w.fn.toNat true false) false fun s =>
    .ok (writeR s 2 w.d (readSys s w.fn.toNat))

/-- `wrsys` (R99, R110). -/
def execWrsys (w : IForm) (s : State) : Out :=
  runBody s 0xE3 w.guard (sysDenied w.fn.toNat false true) false fun s =>
    if sysWait s w.fn.toNat then .error (.wait s) else .ok (writeSys s w.fn.toNat (readR s w.a))

/-- `xchsys` (R99): reads and writes in one step. -/
def execXchsys (w : IForm) (s : State) : Out :=
  runBody s 0xE7 w.guard (sysDenied w.fn.toNat true true) false fun s =>
    if sysWait s w.fn.toNat then .error (.wait s)
    else .ok (writeR (writeSys s w.fn.toNat (readR s w.a)) 2 w.d (readSys s w.fn.toNat))

/-- `trap.sw` (R100): on the CP the trap is taken after the word; in the S slot the bundle commits first. -/
def execTrapSw (w : IForm) (s : State) : Out :=
  runBody s 0xE1 w.guard false true fun s =>
    .ok (if s.onCpPlace then takeSync s { cause := .software, detail := w.imm } 0xE1 (s.core.cp.pc + 8)
      else s.onKern fun k => { k with issuing := k.issuing.map fun b => { b with software := some w.imm } })

/-- `trap.call` (R100). -/
def execTrapCall (w : IForm) (s : State) : Out :=
  runBody s 0xE1 w.guard false true fun s =>
    .ok (takeSync s { cause := .supervisorCall, detail := w.imm } 0xE1 (s.core.cp.pc + 8))

/-- `brk` (R101). -/
def execBrk (w : IForm) (s : State) : Out :=
  runPlain s 0xE2 w.guard fun s => .error (.trap { cause := .breakpoint, detail := w.imm } s)

/-- `tret` (R38, R102). -/
def execTret (w : IForm) (s : State) : Out :=
  runBody s 0xE4 w.guard true true fun s => .ok (s.onCp fun c => { c.trapReturn with wait := none })

/-- What `halt` waits for: the stream queue empty, every engine instruction complete, no kernel running (R103). -/
def drained (c : Core) : Bool := c.st.queue.isEmpty && c.st.flight.isEmpty && c.kern.stState == 0

/-- The cause with which the runtime ends a program: one that its handler has not resolved, which is every cause but the
SUPERVISOR_CALL of detail 0 (R100, R403; log 34). -/
def endCause (c : CP) : Option Cause :=
  let x := Cause.ofNat (fld c.ccause 0 7)
  if !c.inTrap || (x == .supervisorCall && fld c.ctinfo 32 32 == 0) then none else some x

/-- `halt` (R103): ends the program once all is drained. In a trap handler it is how the runtime ends a program with an
error status, which is fatal (R403; log 34). -/
def execHalt (w : IForm) (s : State) : Out :=
  runBody s 0xE5 w.guard true true fun s =>
    match endCause s.core.cp with
    | some c => .ok (fatalStop s c)
    | none => if drained s.core then .ok (endProgram s none) else .error (.wait s)

/-- `idle` (R104). -/
def execIdle (w : IForm) (s : State) : Out :=
  runBody s 0xE6 w.guard true false fun s =>
    if s.core.cp.pending.isEmpty then .error (.wait s) else .ok s

end Sys2Proof.Machine
end

