-- ==== Sys2Proof/Machine/Cells.lean ====
section
/-! DEFINITION. The cells behind the offsets of a stack and the host window: pseudo-channels, banks and rows, home
slices, migrating lines, and the lines that home slices hold over a change of selector masks (R264-R274, R314, R342,
R424, R470). -/

namespace Sys2Proof.Machine

def stackIdx (i : Nat) : Fin 16 := ⟨i % 16, Nat.mod_lt _ (by decide)⟩

def State.onStack (s : State) (i : Nat) (f : Stack → Stack) : State :=
  { s with hbm := s.hbm.set (stackIdx i) (f (s.hbm.get (stackIdx i))) }

/-! ## From an offset to a cell (R264, R266, R270, R271) -/

def stackBacked : Nat := 64000000000

def parityOf (x : Nat) : Bool := popBitsUp 64 x % 2 == 1
where
  popBitsUp : Nat → Nat → Nat
    | 0, _ => 0
    | n + 1, x => x % 2 + popBitsUp n (x / 2)

/-- `pcsel` (R270). -/
def pcSel (masks : Vector (BitVec 36) 6) (o : Nat) : Nat :=
  let b (i : Fin 6) : Nat := (parityOf (o &&& (masks.get i).toNat)).toNat
  b 0 + 2 * b 1 + 4 * b 2 + 8 * b 3 + 16 * b 4 + 32 * b 5

/-- `chanaddr` (R270). -/
def chanAddr (o : Nat) : Nat := o / 2 ^ 13 * 2 ^ 7 + o % 2 ^ 7

/-- A cell of a pseudo-channel (R271). -/
structure DramCell where
  byte : Nat
  column : Nat
  bankGroup : Nat
  bank : Nat
  row : Nat
  deriving DecidableEq, Repr

/-- The address within a pseudo-channel, decoded (R271). -/
def dramCell (q : Nat) : DramCell where
  byte := q % 2 ^ 7
  column := q / 2 ^ 7 % 8
  bankGroup := (q / 2 ^ 10 % 4) ^^^ (q / 2 ^ 14 % 4)
  bank := (q / 2 ^ 12 % 4) ^^^ (q / 2 ^ 16 % 4)
  row := q / 2 ^ 14 % 2 ^ 16

/-- The home slice of an offset, 0-31 (R266). -/
def homeSlice (o : Nat) : Nat := (o / 2 ^ 7 % 32) ^^^ (o / 2 ^ 12 % 32) ^^^ (o / 2 ^ 17 % 32)

/-- Number of the home slice of a byte of a stack, as the error log names it (R493). -/
def sliceIndex (stack o : Nat) : Nat := 32 * (stack / 2) + homeSlice o

/-- Masks of a stack; those of another package stand at their defaults (log 10). -/
def masksOf (s : State) (pkg stack : Nat) : Vector (BitVec 36) 6 :=
  if pkg == s.md.pkg.toNat then (s.hbm.get (stackIdx stack)).masks else Stack.reset.masks

/-! ## Rows (R271, R424, R493) -/

/-- The rows that have a granule in the 4 KiB page of a cell of this module, named together: they agree in bank group,
bank, row and PCSEL[5], and their granules fill eight pages (log 33). -/
def rowOfCell (k : Nat) : Nat :=
  let c := dramCell (k % 2 ^ 30)
  ((k / 2 ^ 35 * 2 ^ 16 + c.row) * 4 + c.bankGroup) * 4 + c.bank

/-- The rows of an offset of a stack of this module. -/
def rowKey (s : State) (stack o : Nat) : Nat :=
  rowOfCell ((stack * 64 + pcSel (masksOf s s.md.pkg.toNat stack) o) * 2 ^ 30 + chanAddr o)

/-- The stack and the offset that an index of class 4 names (R493). -/
def rowOfIndex (i : Nat) : Nat × Nat := (i / 2 ^ 24, i % 2 ^ 24 * 2 ^ 12)

/-- The line lies in a row with a lasting fault, whose pages' lines stay poisoned (R424). -/
def rowBad (s : State) (pkg stack o : Nat) : Bool := pkg == s.md.pkg.toNat && s.md.badRows.contains (rowKey s stack o)

/-! ## Keys: cells of every stack, and bytes of the host window -/

/-- A line that migrates is served by its old home until its copy has committed, and by its new home then (R314). -/
def homeOf (l : List MigLine) (key : Nat) : Nat :=
  match l.find? fun m => (m.done && m.old == key / 128) || (!m.done && m.new == key / 128) with
  | some m => (if m.done then m.new else m.old) * 128 + key % 128
  | none => key

/-- Where a package's cells stand in `mem`: this module's first, whatever PKGNUM holds, then every other package's by
its number (log 10). -/
def memSlot (s : State) (pkg : Nat) : Nat := if pkg == s.md.pkg.toNat then 0 else pkg + 1

/-- The DRAM cell of an offset: package, stack, pseudo-channel and address within it (R270, R272). -/
def rawKey (s : State) (pkg stack o : Nat) : Nat :=
  ((memSlot s pkg * 16 + stack) * 64 + pcSel (masksOf s pkg stack) o) * 2 ^ 30 + chanAddr o

/-- The cell that serves an offset (R314). -/
def cellKey (s : State) (pkg stack o : Nat) : Nat := homeOf s.migrating (rawKey s pkg stack o)

/-- A granule: the cell key of its first byte divided by 128 (R269). -/
def granuleKey (s : State) (pkg stack o : Nat) : Nat := cellKey s pkg stack o / 128

/-- Keys from here on are bytes of the host window. -/
def hostBase : Nat := 2 ^ 63

/-- The address space of a host access (R470): that of an ASID, or of a request without one (log 10). -/
def pasidOf (asid : Option (BitVec 16)) : Nat :=
  match asid with
  | some a => a.toNat + 1
  | none => 0

/-- The host byte that an access with a PASID names: the device reaches 2^39 of an address space through its window, and a
queue a whole I/O virtual address (R464, R470). -/
def hostCell (pasid off : Nat) : Nat := pasid * 2 ^ 56 + off % 2 ^ 56

def rawHostKey (pasid off : Nat) : Nat := hostBase + hostCell pasid off
def hostKey (s : State) (pasid off : Nat) : Nat := homeOf s.migrating (rawHostKey pasid off)

/-- The stack of this module in which a cell lies. -/
def keyStack (k : Nat) : Option (Fin 16) := if k < 16 * 2 ^ 36 then some (stackIdx (k / 2 ^ 36)) else none

/-- The cell's row is under test (R423). -/
def rowTested (s : State) (k : Nat) : Bool :=
  s.md.testing.any fun u =>
    let (n, o) := rowOfIndex u.index.toNat
    u.cls == 4 && rowOfCell k == rowKey s n o

/-- A cell that takes no new request: its stack is quiesced, or its row is under test (R274, R423). -/
def quiesced (s : State) (k : Nat) : Bool :=
  (keyStack k).any fun i => (s.hbm.get i).quiesce || rowTested s k

/-- A cell of a stack that was reported as an uncorrected fault (R284). -/
def stackFailed (s : State) (k : Nat) : Bool := (keyStack k).any fun i => (s.hbm.get i).failed

/-- A line is poisoned (R284, R417); it is named by a cell in it. -/
def linePoisoned (s : State) (k : Nat) : Bool := setHas (k / 128) s.poison || stackFailed s k

/-- A read-modify-write at the old home of a line that has not committed waits (R314). -/
def lineWaits (s : State) (k : Nat) : Bool := s.migrating.any fun m => !m.done && m.old == k / 128

def byteAt (s : State) (k : Nat) : Byte :=
  if k < hostBase then cellGet s.mem k else hostGet s.hostMem (k - hostBase)

def putByteAt (s : State) (k : Nat) (b : Byte) : State :=
  if k < hostBase then { s with mem := cellPut s.mem k b } else { s with hostMem := hostPut s.hostMem (k - hostBase) b }

def putBytesAt (s : State) : List Host.Cell → State
  | [] => s
  | c :: l => putBytesAt (putByteAt s c.1 c.2) l

/-! ## A change of selector masks (R274, R342) -/

/-- The marks of a granule. -/
def markGranule (s : State) (k : Nat) (poisoned unmet : Bool) : State :=
  { s with
    poison := if poisoned then setAdd k s.poison else setDel k s.poison
    unmet := if unmet then setAdd k s.unmet else setDel k s.unmet }

/-- The lines that home slices hold at the first accepted mask write, with their bytes and marks: which they are is free
(R7; log 23). A slice whose cache is disabled holds none (R424). -/
def linesHeld (s : State) (stack : Nat) : List HeldLine :=
  let p := s.md.pkg.toNat
  let keep (n : Nat) : Bool := 128 * n < stackBacked && !s.md.badSlices.contains (sliceIndex stack (128 * n))
  ((Config.heldLines s.fresh).eraseDups.filter keep).map fun n =>
    let k := granuleKey s p stack (128 * n)
    ⟨n, (List.range 128).map fun i => byteAt s (128 * k + i), setHas k s.poison, setHas k s.unmet⟩

/-- A mask write takes effect only while idle and with bits 12:0 as R274 requires; otherwise MASKERR. -/
def writeMask (s : State) (stack i : Nat) (v : Word) : State :=
  let k := s.hbm.get (stackIdx stack)
  if k.quiesce && fld v 0 13 == 2 ^ (7 + i) then
    let s := if k.held.isNone then
        { s.onStack stack fun k => { k with held := some (linesHeld s stack) } with fresh := s.fresh + 1 }
      else s
    s.onStack stack fun k => { k with masks := k.masks.setIfInBounds i (v.setWidth 36) }
  else s.onStack stack fun k => { k with maskErr := true }

/-- A held line is written back, with its marks, to the cell that the masks now give its offset (R342). -/
def writeBack (s : State) (stack : Nat) (h : HeldLine) : State :=
  let k := granuleKey s s.md.pkg.toNat stack (128 * h.line)
  markGranule (putBytesAt s (atAddr (128 * k) h.bytes)) k h.poisoned h.unmet

/-- HSCTL: requests are held, or served again under the masks that now stand (R274, R342). -/
def writeQuiesce (s : State) (stack : Nat) (q : Bool) : State :=
  if q then s.onStack stack fun k => { k with quiesce := true }
  else
    let lines := (s.hbm.get (stackIdx stack)).held.getD []
    (lines.foldl (fun s h => writeBack s stack h) s).onStack stack fun k => { k with quiesce := false, held := none }

end Sys2Proof.Machine
end

