-- ==== Sys2Proof/Machine/Device.lean ====
section
/-! DEFINITION. The device register space (R461): reading and writing every register block, with what a write starts. -/

namespace Sys2Proof.Machine

/-! ## Stopping a core for pre-emption (R427) -/

/-- Queue entries stand in the order of their sequence numbers. -/
def queueInsert (e : QEntry) : List QEntry → List QEntry
  | [] => [e]
  | x :: l => if e.seq < x.seq then e :: x :: l else x :: queueInsert e l

/-- Withdrawal of unstarted and gated instructions and suspension of `srecv` (R427). -/
def withdraw (kern : Option Nat) (u : StreamUnit) : StreamUnit :=
  let back (e : QEntry) : Bool :=
    match e.stage with
    | .gated _ => true
    | .running => (e.opc == 0xD8 && kern != some e.seq) || e.opc == 0xD7
    | _ => false
  { u with
    flight := u.flight.filter fun e => !back e
    queue := (u.flight.filter back).foldl (fun q e => queueInsert { e with stage := .queued, sent := none } q) u.queue }

/-- Stopping begins when PREEMPT_REQUEST becomes pending or a SAVE is written, whichever is first (R427). -/
def beginStop (s : State) (n : Nat) : State :=
  s.onCore n fun c =>
    if c.ctx.pend then c
    else { c with st := withdraw c.kern.krun c.st, ctx := { c.ctx with pend := true, since := s.clock, expired := false } }

/-- A group's cores are asked to stop (R425, R468). -/
def preemptGroup (s : State) (l : Launch) (g : Group) : State :=
  (groupCores g.die g.base l.g).foldl (fun s n =>
    if liveInGroup s l.id g.base n then beginStop (raiseAsync s n .preemptRequest 0 false) n else s) s

/-- PREEMPT (R468): HOLD = 1 pre-empts the named launch and keeps it off; HOLD = 0 releases it. -/
def writePreempt (s : State) (v : Word) : State :=
  let q := fld v 0 6
  let ix := fld v 8 24
  match s.launches.find? fun l => l.queue == q && l.index.toNat % 2 ^ 24 == ix with
  | none => s
  | some l =>
    let hold := bit v 63
    let s := s.onMd fun m => { m with preempt := v &&& 0x80000000FFFFFF3F }
    let s := s.onLaunch l.id fun l => { l with hold }
    if hold then (l.groups.filter fun g => !g.preempted).foldl (fun s g => preemptGroup s l g) s else s

/-! ## Key slots (R469) -/

/-- KEYCMD: an operation starts and BUSY is 1 until it has taken effect; a write while BUSY is ignored (log 8). The slots
are written by the host alone (R457). -/
def writeKeyCmd (s : State) (v : Word) : State :=
  if s.md.keyBusy.isSome then s
  else
    s.onMd fun m =>
      { m with
        keyCmd := v &&& 0x3FFF
        keyBusy := if fld v 12 2 == 0 then none else some ⟨fld v 0 12, fld v 12 2⟩ }

/-! ## Start-up (R471) -/

/-- Units out of service or with a lasting fault keep that through a start (R424). -/
def coreAfterStart (cold : Bool) (c : Core) : Core :=
  if cold then Core.reset else { Core.reset with badBanks := c.badBanks, outOfService := c.outOfService }

def stackAfterStart (cold : Bool) (k : Stack) : Stack :=
  if cold then Stack.reset else { Stack.reset with masks := k.masks, takeovers := k.takeovers }

/-- A write of MSTAT.START resets the module and begins step 1 of a cold or a warm start. `retained` says that the
retained firmware hash and training records are valid. Only a cold start leaves state 3 (R471). -/
def moduleStart (s : State) (v : Word) (retained : Bool) : State :=
  let warm := bit v 7 && retained
  if !bit v 8 then s.onMd fun m => { m with warm := bit v 7 }
  else if s.md.mstate == 3 && warm then s
  else
    let m := s.md
    { State.reset with
      core := coreAfterStart (!warm) (s.focusOn 0).core
      parked := (s.focusOn 0).parked.map fun x => (x.1, coreAfterStart (!warm) x.2)
      mem := s.mem
      poison := s.poison
      unmet := s.unmet
      hostMem := s.hostMem
      hbm := s.hbm.map (stackAfterStart (!warm))
      agenda := s.agenda
      fresh := s.fresh
      md := { Module.reset with
        step := 1
        fails := m.fails
        warm := bit v 7
        coldStart := !warm
        mstate := 0
        keys := if warm then m.keys else []
        errHead := if warm then m.errHead else 0
        errLog := if warm then m.errLog else []
        kbRetry := if warm then m.kbRetry else 0
        badSlices := if warm then m.badSlices else []
        badRows := if warm then m.badRows else []
        peersDown := m.peersDown
        msix := m.msix } }

/-! ## Queues (R464) -/

def Queue.cap (q : Queue) : Nat := 2 ^ q.size
def Queue.depth (q : Queue) : Nat := (q.write - q.read).toNat
def Queue.fail (q : Queue) : Queue := { q with err := true }

def writeQueue (s : State) (q : Fin 64) (off : Nat) (v : Word) : State :=
  let r := s.queues.get q
  let put (r : Queue) : State := { s with queues := s.queues.set q r }
  match off with
  | 0x00 => put (if r.enable then r.fail else { r with base := v &&& 0xFFFFFFFFFFFFC1 })
  | 0x08 =>
    let n := fld v 0 5
    let r' := { r with size := if 4 ≤ n && n ≤ 16 then n else 4 }
    put (if r.enable then r.fail else if r'.depth > r'.cap then r'.fail else r')
  | 0x10 =>
    let r' := { r with write := v.setWidth 32 }
    put (if r'.depth > r'.cap then r'.fail else r')
  | 0x20 =>
    if s.md.mstate == 3 then s
    else
      let s' := put { r with enable := bit v 0, err := (r.err && bit v 1) || r.depth > r.cap, page := none }
      if bit v 0 && s.md.mstate == 1 then s'.onMd fun m => { m with mstate := 2 } else s'
  | _ => s

def readQueue (r : Queue) (off : Nat) : Word :=
  match off with
  | 0x00 => r.base
  | 0x08 => BitVec.ofNat 64 r.size
  | 0x10 => r.write.setWidth 64
  | 0x18 => r.read.setWidth 64
  | 0x20 => BitVec.ofNat 64 (r.enable.toNat + 2 * r.err.toNat)
  | _ => 0

/-! ## The module block (R462, R463) -/

/-- FEATURE bits 9:0 may be offered; the others are zero (R463). -/
def half128 (x : BitVec 128) (hi : Bool) : Word := x.extractLsb' (if hi then 64 else 0) 64

def readModule (s : State) (off : Nat) : Word :=
  let m := s.md
  match off with
  | 0x000 => half128 m.feature false
  | 0x008 => half128 m.feature true
  | 0x010 => half128 m.faccept false
  | 0x018 => half128 m.faccept true
  | 0x020 => BitVec.ofNat 64 (m.mstate.toNat + m.step.toNat * 4 + m.fails.toNat * 32 + m.warm.toNat * 128)
  | 0x028 => m.pkg.setWidth 64
  | 0x030 => m.astBase
  | 0x038 => m.astLen
  | 0x040 => m.preempt
  | 0x048 => BitVec.ofNat 64 m.powerCap
  | 0x050 => BitVec.ofNat 64 (m.hot.toNat + m.crit.toNat * 2 + m.capped.toNat * 4)
  | 0x058 => setBit m.keyCmd 63 m.keyBusy.isSome
  | 0x080 => m.errHead
  | 0x088 => m.rtEntry
  | _ =>
    if 0x100 ≤ off && off < 0x1100 then readQueue (s.queues.toArray.getD ((off - 0x100) / 0x40) Queue.reset) (off % 0x40)
    else if 0x2000 ≤ off && off < 0x3000 then
      let e := (lookupNum ((off - 0x2000) / 16) m.errLog).getD (0, 0)
      if off % 16 == 0 then e.1 else e.2
    else 0

/-- A write of the module block, by the host or by supervisor code. -/
def writeModule (s : State) (host : Bool) (off : Nat) (v : Word) (retained : Bool) : State :=
  let started := s.md.mstate == 1
  let md (c : Bool) (f : Module → Module) : State := if c then s.onMd f else s
  match off with
  | 0x010 => md started fun m => { m with faccept := m.feature &&& (half128 m.faccept true ++ v) }
  | 0x018 => md started fun m => { m with faccept := m.feature &&& (v ++ half128 m.faccept false) }
  | 0x020 => moduleStart s v retained
  | 0x028 => md started fun m => { m with pkg := v.setWidth 13 }
  | 0x030 => md true fun m => { m with astBase := v &&& 0x3FFFFFFFFFF000 }
  | 0x038 => md true fun m => { m with astLen := v &&& 0x1FFFF }
  | 0x040 => writePreempt s v
  | 0x048 => md true fun m => { m with powerCap := Nat.max 1000 (Nat.min 4000 (fld v 0 16)) }
  | 0x058 => if host then writeKeyCmd s v else s
  | 0x060 => md host fun m => { m with keyData := m.keyData.set 0 v }
  | 0x068 => md host fun m => { m with keyData := m.keyData.set 1 v }
  | 0x070 => md host fun m => { m with keyData := m.keyData.set 2 v }
  | 0x078 => md host fun m => { m with keyData := m.keyData.set 3 v }
  | 0x088 => md started fun m => { m with rtEntry := v &&& 0xFFFFFFFFFFFFF8 }
  | _ =>
    if h : (off - 0x100) / 0x40 < 64 then
      if 0x100 ≤ off then writeQueue s ⟨(off - 0x100) / 0x40, h⟩ (off % 0x40) v else s
    else s

/-! ## Stacks (R273, R274) -/

/-- HSSTAT: no request is in flight in a quiesced stack, since each is served in one step (R274). -/
def hsStat (k : Stack) : Word :=
  BitVec.ofNat 64 (k.quiesce.toNat + k.maskErr.toNat * 2 + k.refOwn.toNat * 4 + Nat.min k.missed 255 * 2 ^ 8 +
    Nat.min k.takeovers 0xFFFF * 2 ^ 16)

def readStack (k : Stack) (off : Nat) : Word :=
  match off with
  | 0x00 => BitVec.ofNat 64 k.quiesce.toNat
  | 0x08 => hsStat k
  | 0x40 => k.beats
  | _ => if 0x10 ≤ off && off < 0x40 then (k.masks.toArray.getD ((off - 0x10) / 8) 0).setWidth 64 else 0

def writeStack (s : State) (stack off : Nat) (v : Word) : State :=
  match off with
  | 0x00 => writeQuiesce s stack (bit v 0)
  | 0x08 => if bit v 1 then s.onStack stack fun k => { k with maskErr := false } else s
  | _ => if 0x10 ≤ off && off < 0x40 then writeMask s stack ((off - 0x10) / 8) v else s

/-! ## The lattice region table (R445, R463) -/

/-! The fields of an entry in force. -/

def LrtEntry.typ (e : LrtEntry) : Nat := fld (e.live.get 0) 1 3
def LrtEntry.dieMask (e : LrtEntry) : Nat := fld (e.live.get 0) 8 8
def LrtEntry.plog (e : LrtEntry) : Nat := fld (e.live.get 0) 16 4
def LrtEntry.base (e : LrtEntry) : Nat := fld (e.live.get 1) 12 25
def LrtEntry.pkgBase (e : LrtEntry) : Nat := fld (e.live.get 1) 41 13
def LrtEntry.limit (e : LrtEntry) : Nat := fld (e.live.get 2) 12 25
def LrtEntry.pin (e : LrtEntry) : Nat := fld (e.live.get 3) 0 16
def LrtEntry.pout (e : LrtEntry) : Nat := fld (e.live.get 3) 16 16

/-- Bits set of a byte, low to high. -/
def diesOf (mask : Nat) : List Nat := (List.range 8).filter fun d => mask.testBit d

/-- nd and log2 n of a replica set (R447). -/
def LrtEntry.nd (e : LrtEntry) : Nat := (diesOf e.dieMask).length
def LrtEntry.levels (e : LrtEntry) : Nat := Nat.log2 e.nd + e.plog

/-- Cycles of a microsecond (R2, R6). -/
def usCycles : Nat := 850

/-- Cycles that a round lasts: PIN over the bridges, POUT over the Kibry link (R447). -/
def LrtEntry.period (e : LrtEntry) (r : Nat) : Nat := usCycles * (if r % e.levels < Nat.log2 e.nd then e.pin else e.pout)

/-- ROUNDS: the rounds that every replica of this module has completed. A round whose exchange is done is complete once it
has lasted its period (R445, R447-R449). -/
def LrtEntry.roundsAt (e : LrtEntry) (clock : Nat) : BitVec 32 :=
  let l := (e.replicas.zip e.began).map fun (r, t) => r.2.1 + (r.2.2 && e.period r.2.1 ≤ clock - t).toNat
  BitVec.ofNat 32 (l.foldl Nat.min (l.headD 0))

/-- Whether an entry, were V set with its words as they stand, breaks a rule of R445. -/
def lrtRefused (s : State) (i : Nat) (e : LrtEntry) : Bool :=
  let nd := (diesOf e.dieMask).length
  let reserved :=
    e.raw.get 0 &&& 0xFFFFFFFFFEF000F0 != 0 || e.raw.get 1 &&& 0xFFC001E000000FFF != 0 ||
      e.raw.get 2 &&& 0xFFFFFFE000000FFF != 0
  let others := (List.range 64).any fun j =>
    j != i && (match s.lrt.toList[j]? with
      | some o => o.v && o.base ≤ e.limit && e.base ≤ o.limit
      | none => false)
  e.typ == 0 || !(nd == 1 || nd == 2 || nd == 4 || nd == 8) || e.plog > 12 ||
    e.pkgBase + 2 ^ e.plog > 6144 || (e.typ == 7 && e.plog != 0) || e.limit < e.base || others || reserved

/-- Indexes of this module's replicas (R447). -/
def lrtIndexes (e : LrtEntry) (pkg : Nat) : List Nat :=
  let dies := diesOf e.dieMask
  if e.pkgBase ≤ pkg && pkg < e.pkgBase + 2 ^ e.plog then
    (List.range dies.length).map fun k => (pkg - e.pkgBase) * dies.length + k
  else []

/-- Word 3 as stored: PIN 0 is 1, POUT below 10 is 10, ROUNDS is read-only (R445). -/
def lrtWord3 (v : Word) : Word :=
  let v := if fld v 0 16 == 0 then setFld v 0 16 1 else v
  let v := if fld v 16 16 < 10 then setFld v 16 16 10 else v
  v &&& 0xFFFFFFFF

def writeLrt (s : State) (i : Fin 64) (word : Nat) (v : Word) : State :=
  let e := s.lrt.get i
  let put (e : LrtEntry) : State := { s with lrt := s.lrt.set i e }
  if !accepted s 1 then s
  else
    match word with
    | 0 =>
      let v' := setBit (setBit v 24 false) 0 false
      if !bit v 0 then put { e with v := false, raw := e.raw.set 0 v', stopping := e.v || e.stopping }
      else if e.v then s
      else
        let raw := e.raw.set 0 v'
        let e' := { e with raw, live := raw }
        if lrtRefused s i.val e' then put { e with raw, err := true }
        else
          let ix := lrtIndexes e' s.md.pkg.toNat
          put { e' with v := true, err := false, replicas := ix.map fun k => (k, 0, false),
                        began := ix.map fun _ => s.clock, stopping := false }
    | 1 => if e.v then s else put { e with raw := e.raw.set 1 v }
    | 2 => if e.v then s else put { e with raw := e.raw.set 2 v }
    | _ => if e.v then s else put { e with raw := e.raw.set 3 (lrtWord3 v) }

def readLrt (e : LrtEntry) (clock word : Nat) : Word :=
  match word with
  | 0 => setBit (setBit (e.raw.get 0) 0 e.v) 24 e.err
  | 1 => e.raw.get 1
  | 2 => e.raw.get 2
  | _ => (e.raw.get 3) ||| ((e.roundsAt clock).setWidth 64 <<< 32)

/-! ## The Kibry block (R441) -/

def readKibry (s : State) (off : Nat) : Word :=
  match off with
  | 0 => BitVec.ofNat 64 s.md.kbTimeout
  | 8 => s.md.kbLive.setWidth 64 ||| (s.md.kbRetry.setWidth 64 <<< 16)
  | _ => if 0x10000 ≤ off then (lookupNum ((off - 0x10000) / 8) s.md.routes).getD 0 else 0

def writeKibry (s : State) (off : Nat) (v : Word) : State :=
  if off == 0 then s.onMd fun m => { m with kbTimeout := Nat.max 10 (fld v 0 16) }
  else if 0x10000 ≤ off then
    let k := (off - 0x10000) / 8
    if bit v 0 && (k ≥ 6144 || k == s.md.pkg.toNat) then s
    else s.onMd fun m => { m with routes := insertNum k (v &&& 0xFFFF0001) m.routes }
  else s

/-! ## Ports (R454, R456) -/

def portIdx (i : Nat) : Fin 8 := ⟨i % 8, Nat.mod_lt _ (by decide)⟩

def State.onPort (s : State) (p : Nat) (f : Port → Port) : State :=
  { s with ports := s.ports.set (portIdx p) (f (s.ports.get (portIdx p))) }

def Port.ring (p : Port) (r : Nat) : Ring := (lookupNum r p.rings).getD Ring.reset
def Port.onRing (p : Port) (r : Nat) (f : Ring → Ring) : Port := { p with rings := insertNum r (f (p.ring r)) p.rings }

def readCounter (r : Ring) (i : Nat) : Word :=
  match i with
  | 0 => r.rxPkt
  | 1 => r.rxByte
  | 2 => r.dropPkt
  | 3 => r.dropByte
  | 4 => r.authPkt
  | 5 => r.authByte
  | 6 => r.noKey
  | _ => r.big

def clearRingCounter (r : Ring) (i : Nat) : Ring :=
  match i with
  | 0 => { r with rxPkt := 0 }
  | 1 => { r with rxByte := 0 }
  | 2 => { r with dropPkt := 0 }
  | 3 => { r with dropByte := 0 }
  | 4 => { r with authPkt := 0 }
  | 5 => { r with authByte := 0 }
  | 6 => { r with noKey := 0 }
  | _ => { r with big := 0 }

/-- A write of zero clears a counter; any other write is ignored (R456). -/
def clearCounter (p : Port) (ring : Option Nat) (i : Nat) (v : Word) : Port :=
  if v != 0 then p
  else
    match ring with
    | some r => p.onRing r fun x => clearRingCounter x i
    | none => if i == 0 then { p with malformed := 0 } else { p with unsteered := 0 }

/-- Binding a ring, or setting its V, resets the next-record index (R454). -/
def bindRing (p : Port) (r : Nat) (v : Word) : Port :=
  let v := v &&& 0x7FF
  p.onRing r fun x =>
    if bit v 0 || x.entry != v then { x with entry := v, next := 0, record := none } else { x with entry := v }

def readPort (p : Port) (off : Nat) : Word :=
  if off < 0x800 then (lookupNum (off / 8) p.steer).getD 0
  else if 0x10000 ≤ off && off < 0x20000 then (p.ring ((off - 0x10000) / 8)).entry
  else if off == 0x70000 then p.malformed
  else if off == 0x70008 then p.unsteered
  else if 0x80000 ≤ off then readCounter (p.ring ((off - 0x80000) / 64)) (off / 8 % 8)
  else 0

def writePort (p : Port) (off : Nat) (v : Word) : Port :=
  if off < 0x800 then { p with steer := insertNum (off / 8) (v &&& 0x1FFFFFFF0001) p.steer }
  else if 0x10000 ≤ off && off < 0x20000 then bindRing p ((off - 0x10000) / 8) v
  else if off == 0x70000 then clearCounter p none 0 v
  else if off == 0x70008 then clearCounter p none 1 v
  else if 0x80000 ≤ off then clearCounter p (some ((off - 0x80000) / 64)) (off / 8 % 8) v
  else p

/-! ## Context register blocks (R429) -/

/-- No engine instruction is in flight but the `krun` whose kernel runs (R429). -/
def Core.drained (c : Core) : Bool := c.st.flight.all fun e => e.opc == 0xD8 && c.kern.krun == some e.seq

/-- CXSTAT: KSTOP while the kernel is idle, stopped on a fault, or stopped and drained; DRAIN with no engine
instruction in flight. Both are read only while PEND (log 9). -/
def cxStat (c : Core) : Word :=
  if c.ctx.pend then
    let kstop := c.kern.stState != 1 || c.ctx.kstop
    BitVec.ofNat 64 (1 + kstop.toNat * 2 + c.drained.toNat * 4 + c.ctx.expired.toNat * 8)
  else 0

def readCtx (c : Core) (off : Nat) : Word :=
  match off with
  | 0x00 => c.ctx.area
  | 0x08 => BitVec.ofNat 64 (c.ctx.srfLen * 2 ^ 12)
  | 0x10 => BitVec.ofNat 64 c.ctx.grace
  | 0x18 => cxStat c
  | _ => 0

/-- A SAVE command: stopping begins, and the save follows once the core has stopped (R427, R430). -/
def requestSave (s : State) (n : Nat) : State :=
  (beginStop s n).onCore n fun c => { c with ctx := { c.ctx with saving := true } }

def requestRestore (s : State) (n : Nat) : State :=
  s.onCore n fun c => { c with ctx := { c.ctx with restoring := true } }

def writeCtx (s : State) (n off : Nat) (v : Word) : Except Cause State :=
  let cx (f : Ctx → Ctx) : Except Cause State := .ok (s.onCore n fun c => { c with ctx := f c.ctx })
  match off with
  | 0x00 => cx fun x => { x with area := v &&& 0xFFFFFFFFFFF000 }
  | 0x08 => cx fun x => { x with srfLen := Nat.min 0x300 (fld v 12 10) }
  | 0x10 => cx fun x => { x with grace := Nat.max 1 (fld v 0 16) }
  | 0x20 =>
    if v == 1 then .ok (requestSave s n)
    else if v == 2 then .ok (requestRestore s n)
    else .error .badMode
  | _ => .ok s

/-! ## The whole space (R461) -/

/-- In state 3 only the module block and the error log answer (R471). -/
def devAnswers (s : State) (off : Nat) : Bool := off < 0x10000 || s.md.mstate != 3

/-- A register of the space below the host window. -/
def devRead (s : State) (off : Nat) : Word :=
  if !devAnswers s off then 0
  else if off < 0x10000 then readModule s off
  else if off < 0x11000 then readStack (s.hbm.get (stackIdx ((off - 0x10000) / 0x100))) (off % 0x100)
  else if 0x20000 ≤ off && off < 0x20800 then
    readLrt (s.lrt.toArray.getD ((off - 0x20000) / 32) LrtEntry.reset) s.clock (off / 8 % 4)
  else if 0x100000 ≤ off && off < 0x120000 then readKibry s (off - 0x100000)
  else if 0x1000000 ≤ off && off < 0x1080000 then
    let d := (off - 0x1000000) / 0x10000
    let c := off % 0x10000 / 0x40
    if c < 96 then readCtx (s.getCore (coreOf d c)) (off % 0x40) else 0
  else if 0x2000000 ≤ off && off < 0x2800000 then
    readPort (s.ports.get (portIdx ((off - 0x2000000) / 0x100000))) (off % 0x100000)
  else 0

/-- A write of a register, by the host or by supervisor code. -/
def devWrite (s : State) (host : Bool) (off : Nat) (v : Word) (retained : Bool) : Except Cause State :=
  if !devAnswers s off then .ok s
  else if off < 0x10000 then .ok (writeModule s host off v retained)
  else if off < 0x11000 then .ok (writeStack s ((off - 0x10000) / 0x100) (off % 0x100) v)
  else if h : (off - 0x20000) / 32 < 64 then
    if 0x20000 ≤ off then .ok (writeLrt s ⟨(off - 0x20000) / 32, h⟩ (off / 8 % 4) v) else .ok s
  else if 0x100000 ≤ off && off < 0x120000 then .ok (writeKibry s (off - 0x100000) v)
  else if 0x1000000 ≤ off && off < 0x1080000 then
    let d := (off - 0x1000000) / 0x10000
    let c := off % 0x10000 / 0x40
    if c < 96 then writeCtx s (coreOf d c) (off % 0x40) v else .ok s
  else if 0x2000000 ≤ off && off < 0x2800000 then
    .ok (s.onPort ((off - 0x2000000) / 0x100000) fun p => writePort p (off % 0x100000) v)
  else .ok s

end Sys2Proof.Machine
end

