-- ==== Sys2Proof/Machine/Srf.lean ====
section
/-! DEFINITION. Kinds of access, the order that a kernel's accesses keep, and the SRF as its kernel and as every other
party sees it (R240, R245, R246, R286-R295, R318). -/

namespace Sys2Proof.Machine

/-! ## Kinds of access -/

def isAtomic (o : BitVec 8) : Bool := o == 0xB8 || o == 0xB9 || o == 0xBA
def isLatticeOp (o : BitVec 8) : Bool := o == 0xBB || o == 0xBC
/-- Accesses of engines: a read, a write, an addition of `sscadd`, a barrier-object update. -/
def engRead : BitVec 8 := 0xD0
def engWrite : BitVec 8 := 0xD1
def engAdd : BitVec 8 := 0xD6
def objUpdate : BitVec 8 := 0xDC
def objRead : BitVec 8 := 0xDB
def isStore (o : BitVec 8) : Bool := o == 0xB1 || o == 0xB3 || o == 0xB5 || o == 0xB7 || o == 0xBF || o == engWrite
/-- Strong accesses (R286). -/
def isStrong (o : BitVec 8) : Bool := o == 0xB2 || o == 0xB3 || isAtomic o || isLatticeOp o
def readsMem (o : BitVec 8) : Bool := !isStore o
def writesMem (o : BitVec 8) : Bool := isStore o || isAtomic o || o == 0xBB || o == engAdd || o == objUpdate

/-! ## The order of a kernel's accesses (R292-R295) -/

def entryDone (e : LogEntry) : Bool := match e.status with
  | .data _ => true
  | _ => false

/-- Entries of the landing buffer and of the write queue. -/
def Kern.entries (k : Kern) : List LogEntry := (k.landing.toList ++ k.wqueue.toList).filterMap id

def LogEntry.order (e : LogEntry) : Order := ⟨e.opc, e.ord, e.scope, e.fence⟩

/-- Scope lane: it synchronises with no other party (R288). -/
def Order.alone (o : Order) : Bool := o.scope == 1

/-- It acts as an acquire read, or as a release write, by its own word or by a fence (R292, R293). -/
def Order.acquires (o : Order) : Bool := (isStrong o.opc && o.ord.getLsbD 0 && !o.alone) || o.fence.getLsbD 0
def Order.releases (o : Order) : Bool := (isStrong o.opc && o.ord.getLsbD 1 && !o.alone) || o.fence.getLsbD 1

/-- An older access is performed before a younger one: an acquire, a release, or two strong accesses of one party but a
write and a later read (R292-R295). -/
def Order.precedes (x y : Order) : Bool :=
  y.releases || x.acquires ||
    (isStrong x.opc && isStrong y.opc && !(writesMem x.opc && !readsMem x.opc && !writesMem y.opc))

/-- An access of the kernel in flight holds back one of number `seq`. -/
def Kern.behind (k : Kern) (seq : Nat) (o : Order) : Bool :=
  k.entries.any fun x => x.seq < seq && !entryDone x && x.order.precedes o

/-- The number of the first access that a `fence.sc` or a barrier release in progress holds back: those of its own bundle
that follow it (R294, R299). -/
def Kern.barred (k : Kern) : Option Nat := match k.freeze with
  | .none => none
  | .barrier _ _ _ q => some q
  | .fence q => some q

def Kern.pinned (k : Kern) (seq : Nat) : Bool := k.barred.any (· ≤ seq)

/-- Writes below this number may count as performed while kernel time stands. -/
def Kern.showable (k : Kern) : Nat := k.barred.getD k.seq

/-- Kernel time stands, for accesses or for a release: the SRF writes issued before count as performed, and other parties
see them (R129, R299, R331, R428; log 22). -/
def Kern.show (k : Kern) : Kern := { k with shown := k.showable }

/-- A write of the kernel to its own SRF that an older access may hold back. -/
structure OwnWrite where
  seq : Nat
  order : Order
  /-- It has taken effect, or counts as performed. -/
  done : Bool
  bytes : List Host.Cell
  deriving DecidableEq, Repr

/-- What orders the write of a transform: it is plain (R286). -/
def xformOrder (opc : BitVec 8) : Order := ⟨opc, 0, 0, 0⟩

/-- In order of their numbers. -/
def ownInsert (w : OwnWrite) : List OwnWrite → List OwnWrite
  | [] => [w]
  | x :: l => if w.seq < x.seq then w :: x :: l else x :: ownInsert w l

/-- Writes of the kernel to its own SRF: those in effect of which an older access may be unfinished, and those to come. -/
def Kern.ownWrites (k : Kern) : List OwnWrite :=
  let made : List OwnWrite := k.undo.map fun u => ⟨u.seq, u.order, true, u.bytes⟩
  let pending : List OwnWrite := k.pend.filterMap fun w => match w.what with
    | .srf o b => some ⟨w.seq, o, w.seq < k.shown, b⟩
    | _ => none
  let transforms : List OwnWrite := k.xforms.map fun x => ⟨x.seq, xformOrder x.opc, x.seq < k.shown, x.bytes.getD []⟩
  (made ++ pending ++ transforms).foldr ownInsert []

/-- Those that are not performed: not in effect, or behind an access in flight, a release in progress, or an older one that
is not performed itself (R292-R295, R299). -/
def Kern.unperformed (k : Kern) : List OwnWrite :=
  k.ownWrites.foldl (fun l w =>
    if !w.done || k.behind w.seq w.order || k.pinned w.seq || l.any (fun x => x.order.precedes w.order) then l ++ [w]
    else l) []

/-- The write of this number is not performed: other parties do not see it. -/
def Kern.hides (k : Kern) (seq : Nat) : Bool := k.unperformed.any (·.seq == seq)

/-- A write of the kernel to its own SRF that is not performed precedes an access of number `seq`. -/
def Kern.ownBefore (k : Kern) (seq : Nat) (o : Order) : Bool :=
  k.unperformed.any fun w => w.seq < seq && w.order.precedes o

/-- A strong access reads bytes of an older strong write that is not performed: the two keep their order (R295). -/
def Kern.ownStrong (k : Kern) (seq : Nat) (o : Order) (off n : Nat) : Bool :=
  isStrong o.opc && k.unperformed.any fun w =>
    w.seq < seq && isStrong w.order.opc && w.bytes.any fun c => off ≤ c.1 && c.1 < off + n

/-! ## The SRF (R240, R245, R246) -/

/-- A write of every byte of a codeword clears its mark; a write of fewer leaves it (R246). -/
def srfClear (l : List Nat) (cells : List Host.Cell) : List Nat :=
  l.filter fun q => !((List.range 64).all fun i => cells.any fun c => c.1 == 64 * q + i)

/-- A read meets an uncorrectable codeword: a marked one, or any when more than four banks are lastingly bad (R245). -/
def Core.srfBad (c : Core) (off n : Nat) : Bool :=
  c.badBanks.length > 4 || c.srfPoison.any fun q => q * 64 < off + n && off < q * 64 + 64

def dropBytes (l w : List Host.Cell) : List Host.Cell := l.filter fun c => !w.any (·.1 == c.1)

/-- A pending write without the bytes that another party has written over it. -/
def KWrite.without (w : List Host.Cell) : KWrite → KWrite
  | .srf o b => .srf o (dropBytes b w)
  | x => x

/-- Another party writes bytes of the SRF: its write follows in their coherence order those of the kernel that parties
have been able to read (R289). -/
def Kern.writtenOver (k : Kern) (w : List Host.Cell) : Kern :=
  { k with
    undo := k.undo.map fun (u : Undo) => { u with bytes := dropBytes u.bytes w }
    pend := k.pend.map fun (x : PendWrite) => if x.seq < k.shown then { x with what := x.what.without w } else x
    xforms := k.xforms.map fun (x : Xform) =>
      if x.seq < k.shown then { x with bytes := x.bytes.map fun b => dropBytes b w } else x }

/-- A write of a party other than the kernel. -/
def Core.putSrf (c : Core) (cells : List Host.Cell) : Core :=
  { c with srf := cellPutAll c.srf cells, srfPoison := srfClear c.srfPoison cells, kern := c.kern.writtenOver cells }

/-- What a write replaced is still wanted: an access in flight issued before it took effect, or it may not be performed. -/
def Kern.wants (k : Kern) (u : Undo) : Bool :=
  (k.entries.any fun x => x.seq < u.applied && !entryDone x) || (k.unperformed.any fun w => w.seq < u.seq) || k.pinned u.seq

def Kern.forget (k : Kern) : Kern := { k with undo := k.undo.filter k.wants }

/-- A write of the kernel takes effect. While something older is unfinished, what it replaced is kept. -/
def Core.kernSrf (c : Core) (seq : Nat) (o : Order) (cells : List Host.Cell) : Core :=
  let u : Undo := ⟨seq, o, c.kern.seq, cells.map fun x => (x.1, cellGet c.srf x.1)⟩
  { c with
    srf := cellPutAll c.srf cells
    srfPoison := srfClear c.srfPoison cells
    kern := Kern.forget { c.kern with undo := c.kern.undo ++ [u] } }

/-- The SRF without some of the kernel's writes: the youngest is taken back first, and none hides what a younger one that
stays has written. -/
def Core.takeBack (c : Core) (p : Undo → Bool) : List Host.Cell :=
  (c.kern.undo.foldr (fun u (m : List Host.Cell × List Host.Cell) =>
    if p u then (cellPutAll m.1 (dropBytes u.bytes m.2), m.2) else (m.1, u.bytes ++ m.2)) (c.srf, [])).1

/-- A store of the S slot. -/
def slotStore (o : BitVec 8) : Bool := o == 0xB1 || o == 0xB3 || o == 0xB5 || o == 0xB7

/-- The SRF as an S-slot load of number `seq` sees it: with the older stores of the S slot, and of the other writes with
those that had taken effect when it issued (R119, R227, R291). -/
def Core.srfOwn (c : Core) (seq : Nat) : List Host.Cell :=
  c.kern.pend.foldl (fun m w => match w.what with
    | .srf o b => if slotStore o.opc && w.seq < seq then cellPutAll m b else m
    | _ => m) (c.takeBack fun u => seq < u.applied && !(slotStore u.order.opc && u.seq < seq))

/-- The SRF as parties other than its kernel see it: without the kernel's writes that are not performed, and with those
that count as performed before they take effect (R292-R295, R299). -/
def Core.srfSeen (c : Core) : List Host.Cell :=
  let k := c.kern
  let m := c.takeBack fun u => k.hides u.seq
  let m := k.pend.foldl (fun m w => match w.what with
    | .srf _ b => if k.hides w.seq then m else cellPutAll m b
    | _ => m) m
  k.xforms.foldl (fun m x => if k.hides x.seq then m else cellPutAll m (x.bytes.getD [])) m

end Sys2Proof.Machine
end

