-- ==== Sys2Proof/Machine/Translate.lean ====
section
/-! DEFINITION. From a virtual address to a place: interleave, page and range tables, held translations, page
requests, and lattice replicas (R255-R266, R270, R341, R446). -/

namespace Sys2Proof.Machine

/-! ## Places in memory -/

/-- Where the bytes of an access lie. `stk o` is offset `o` of a stack of a package (R264), and `host` a byte of the host
window under a PASID (R470). -/
inductive Loc where
  | srf (core off : Nat)
  | stk (pkg stack o : Nat)
  | dev (off : Nat)
  | host (pasid off : Nat)
  deriving DecidableEq, Repr

/-- Stack and stack offset of local address M under an interleave mode (R264). -/
def interleave (mode m : Nat) : Nat × Nat :=
  match mode with
  | 0 =>
    let g := m / 2 ^ 12
    ((g % 16) ^^^ (g / 16 % 16) ^^^ (g / 256 % 16) ^^^ (g / 4096 % 16), g / 16 % 2 ^ 24 * 2 ^ 12 + m % 2 ^ 12)
  | 1 =>
    let h := m % 2 ^ 37 / 2 ^ 12
    let b (i : Nat) : Nat := h / 2 ^ i % 2
    (2 * (m / 2 ^ 37 % 8) + ((b 0) ^^^ (b 8) ^^^ (b 16) ^^^ (b 24)), h / 2 % 2 ^ 24 * 2 ^ 12 + m % 2 ^ 12)
  | _ => (m / 2 ^ 36 % 16, m % 2 ^ 36)

/-- The cell that a place of HBM or of the host window names. -/
def Loc.rawKey (s : State) : Loc → Nat
  | .stk p k o => Machine.rawKey s p k o
  | .host p off => rawHostKey p off
  | _ => 0

/-- The cell that serves a place of HBM or of the host window. -/
def Loc.key (s : State) : Loc → Nat
  | .stk p k o => cellKey s p k o
  | .host p off => hostKey s p off
  | _ => 0

/-- A byte as it stands in memory. -/
def locByte (s : State) : Loc → Nat → Byte
  | .srf c off, i => cellGet (s.getCore c).srfSeen (off + i)
  | .stk p k o, i => byteAt s (cellKey s p k (o + i))
  | .host p off, i => byteAt s (hostKey s p (off + i))
  | .dev off, i => ((leBytes 8 (devRead s off).toNat)[i]?).getD 0

def locBytes (s : State) (l : Loc) (n : Nat) : List Byte := (List.range n).map (locByte s l)

/-! ## Reads of the tables (R489) -/

/-- A word of a table at a physical address, decoded under mode 0: the local package, memory, a backed offset. -/
inductive TableRead where
  | word (w : Word)
  /-- The granule is poisoned. -/
  | poison (granule : Nat)
  | malformed
  /-- The stack is quiesced: the read waits (R274). -/
  | waits
  /-- The read crosses a failed bridge (R440). -/
  | lost
  deriving DecidableEq, Repr

def tableLoc (s : State) (pa : Nat) : Option (Nat × Nat) :=
  if pa / 2 ^ 41 % 2 ^ 13 != s.md.pkg.toNat || pa / 2 ^ 40 % 2 == 1 then none
  else
    let (k, o) := interleave 0 (pa % 2 ^ 40)
    if o < stackBacked then some (k, o) else none

/-- A request of a die to a stack of the package crosses a failed bridge (R266, R440). -/
def bridgeCut (s : State) (die pkg stack : Nat) : Bool :=
  pkg == s.md.pkg.toNat && stack / 2 != die && (s.md.deadBridges.contains (stack / 2) || s.md.deadBridges.contains die)

/-- A table word read for a walk of `die`. -/
def tableWord (s : State) (die pa : Nat) : TableRead :=
  match tableLoc s pa with
  | none => .malformed
  | some (k, o) =>
    if bridgeCut s die s.md.pkg.toNat k then .lost
    else if quiesced s (cellKey s s.md.pkg.toNat k o) then .waits
    else if linePoisoned s (cellKey s s.md.pkg.toNat k o) then .poison (cellKey s s.md.pkg.toNat k o / 128)
    else .word (BitVec.ofNat 64 (leNat (locBytes s (.stk s.md.pkg.toNat k o) 8)))

/-! ## A translation (R256-R260) -/

/-- Why a walk delivers nothing: a cause with its DETAIL, poison at a level, a host-managed page, or a read that waits. -/
inductive WalkFail where
  | fail (c : Cause) (detail : Nat)
  | poison (level granule : Nat)
  | hostPage
  /-- A table read waits at a quiesced stack (R274). -/
  | waits
  deriving DecidableEq, Repr

abbrev Walk := Except WalkFail

/-- A word of a table: poison fails at the level of the table, an address that cannot be read at the level of the register
or entry that holds it (R256, R489). -/
def walkWord (s : State) (die pa level holder : Nat) : Walk Word :=
  match tableWord s die pa with
  | .word w => .ok w
  | .waits => .error .waits
  | .lost => .error (.fail .remoteTimeout 0)
  | .poison g => .error (.poison level g)
  | .malformed => .error (.fail .walkError holder)

/-- The address-space entry of an ASID: its first four words, checked (R255). -/
def asidEntry (s : State) (die asid : Nat) : Walk (Vector Word 4) := do
  if asid ≥ s.md.astLen.toNat then .error (.fail .asidInvalid asid)
  else
    let base := s.md.astBase.toNat + 64 * asid
    let w0 ← walkWord s die base 5 5
    if !bit w0 0 then .error (.fail .asidInvalid asid)
    else
      let w1 ← walkWord s die (base + 8) 5 5
      let w2 ← walkWord s die (base + 16) 5 5
      let w3 ← walkWord s die (base + 24) 5 5
      let w4 ← walkWord s die (base + 32) 5 5
      let w5 ← walkWord s die (base + 40) 5 5
      let w6 ← walkWord s die (base + 48) 5 5
      let w7 ← walkWord s die (base + 56) 5 5
      if w0 &&& 0xFFC0000000000FFE != 0 || w1 &&& 0xFFC00000000003C0 != 0 || fld w1 0 6 > 32 ||
          w2 &&& 0xFF0000000000003F != 0 || w3.toNat > 2 ^ 24 || (w4 ||| w5 ||| w6 ||| w7) != 0 then
        .error (.fail .walkError 5)
      else .ok #v[w0, w1, w2, w3]

/-- A range entry's four words (R257). -/
def rangeEntry (s : State) (die base i : Nat) : Walk (Word × Word × Word × Word) := do
  let w0 ← walkWord s die (base + 32 * i) 5 5
  let w1 ← walkWord s die (base + 32 * i + 8) 5 5
  let w2 ← walkWord s die (base + 32 * i + 16) 5 5
  let w3 ← walkWord s die (base + 32 * i + 24) 5 5
  .ok (w0, w1, w2, w3)

def rangeMalformed (e : Word × Word × Word × Word) : Bool :=
  let (w0, w1, w2, w3) := e
  fld w1 12 44 < fld w0 12 44 || w0 &&& 0xFF00000000000FFE != 0 || w1 &&& 0xFF00000000000FFF != 0 ||
    w2 &&& 0xFFC0000000000FFF != 0 || w3 &&& 0xFFFFFFFFFFFFFE00 != 0 || fld w3 7 2 == 3 ||
    (w2.toNat + (fld w1 12 44 - fld w0 12 44 + 1) * 4096 > 2 ^ 54)

def rangeXlat (e : Word × Word × Word × Word) : Xlat :=
  let (w0, w1, w2, w3) := e
  ⟨fld w0 12 44 * 4096, (fld w1 12 44 - fld w0 12 44 + 1) * 4096, w2.toNat, w3.extractLsb' 0 4, w3.extractLsb' 4 3,
    w3.extractLsb' 7 2, true⟩

/-- Every range entry in use, read (R257): a read that finds poison is found first (R256). -/
def rangeEntries (s : State) (die base : Nat) : Nat → Walk (List (Word × Word × Word × Word))
  | 0 => .ok []
  | n + 1 => do
    let l ← rangeEntries s die base n
    let e ← rangeEntry s die base n
    .ok (l ++ [e])

def Xlat.covers (x : Xlat) (va : Nat) : Bool := x.va ≤ va && va < x.va + x.size

/-- A leaf (R259). -/
def leafXlat (w : Word) (va size : Nat) : Xlat :=
  ⟨va / size * size, size, fld w 12 42 * 4096 / size * size, w.extractLsb' 2 4, w.extractLsb' 7 3, w.extractLsb' 10 2, false⟩

/-- A present level-0 entry of a 64 KiB block whose entries are not all identical: the one used is free (R260, R7). -/
def blockEntry (s : State) (die table va : Nat) (w : Word) : Word :=
  let first := va / 65536 % 32 * 16
  let block := (List.range 16).map fun i => (tableWord s die (table + 8 * (first + i)))
  let isC64 (r : TableRead) : Bool := match r with
    | .word x => bit x 0 && bit x 62
    | _ => false
  if !block.any isC64 || block.all (· == .word w) then w
  else
    let f (i : Nat) : Nat := (Config.freeChoice (s.fresh + i)).toNat
    match block[f 0 + 2 * f 1 + 4 * f 2 + 8 * f 3]? with
    | some (.word x) => if bit x 0 then setBit x 62 true else x
    | _ => w

/-- The entry is absent (R256, orders 6 and 7). -/
def absent (w : Word) : WalkFail := if bit w 6 then .hostPage else .fail .pageNotPresent 0

/-- The walk from a table at `level` (R259): `fuel` counts the levels left. -/
def walkFrom (s : State) (die va : Nat) : Nat → Nat → Nat → Walk Xlat
  | 0, _, _ => .error (.fail .walkError 0)
  | fuel + 1, level, table => do
    let index := va / 2 ^ (12 + 9 * level) % (if level == 4 then 256 else 512)
    let at' := if level == 4 then 5 else level + 1
    let w0 ← walkWord s die (table + 8 * index) level at'
    let w := if level == 0 then blockEntry s die table va w0 else w0
    if !bit w 0 then .error (absent w)
    else
      let bad : Walk Xlat := .error (.fail .walkError level)
      let leaf := bit w 1
      if w &&& 0xBFC0000000000000 != 0 || (bit w 62 && level != 0) then bad
      else if leaf then
        if level ≥ 3 || fld w 10 2 == 3 then bad
        else
          let size := if level == 2 then 2 ^ 30 else if level == 1 then 2 ^ 21 else if bit w 62 then 2 ^ 16 else 2 ^ 12
          if fld w 0 54 / 4096 * 4096 % size != 0 then bad else .ok (leafXlat w va size)
      else if level == 0 || w &&& 0xFBC != 0 then bad
      else walkFrom s die va fuel (level - 1) (fld w 12 42 * 4096)

/-- The translation of `va` for an access of `die` as the tables stand now (R256, orders 1-7). -/
def walk (s : State) (die : Nat) (asid : BitVec 16) (va : Nat) : Walk Xlat := do
  let e ← asidEntry s die asid.toNat
  let entries ← rangeEntries s die (fld (e.get 1) 10 44 * 1024) (fld (e.get 1) 0 6)
  let live := entries.filter fun r => bit r.1 0
  if live.any rangeMalformed then .error (.fail .walkError 5)
  else
    match (live.map rangeXlat).filter (·.covers va) with
    | [x] => .ok x
    | [] => walkFrom s die va 5 4 (fld (e.get 0) 12 42 * 4096)
    | _ => .error (.fail .rangeOverlap 0)

/-! ## Held translations (R262) -/

def TlbEntry.xlat (t : TlbEntry) : Xlat := ⟨t.va, t.size, t.phys, t.perm, t.lattice, t.mode, t.range⟩

def heldFor (s : State) (die : Nat) (asid : BitVec 16) (va : Nat) : List Xlat :=
  (s.tlb.filter fun t => t.die == die && t.asid == asid && t.xlat.covers va).map TlbEntry.xlat

/-- The translation used: what is held or what the tables now say, a free choice where they differ (R262, R7). -/
def chooseXlat (fresh : Nat) (now : Walk Xlat) : List Xlat → Walk Xlat × Nat
  | [] => (now, fresh)
  | h :: l =>
    let other := if Config.freeChoice fresh then (.ok h, fresh + 1) else chooseXlat (fresh + 1) now l
    match now with
    | .ok x => if x == h then chooseXlat fresh now l else other
    | .error _ => other

/-- A translation as a TLB of a die holds it. -/
def Xlat.entry (x : Xlat) (die : Nat) (asid : BitVec 16) : TlbEntry :=
  ⟨die, asid, x.range, x.va, x.size, x.phys, x.perm, x.lattice, x.mode⟩

def holdXlat (s : State) (die : Nat) (asid : BitVec 16) (x : Xlat) : State :=
  let t := x.entry die asid
  if s.tlb.contains t then s else { s with tlb := t :: s.tlb }

/-! ## Page requests (R263, R469) -/

/-- The lowest free tag of 512. -/
def freeTag (l : List PageReq) : Option Nat := (List.range 512).find? fun t => !l.any (·.tag == t)

/-- A host-managed page: the request outstanding for it, a new one, or none free (R263). -/
inductive HostWait where
  | tag (t : Nat) (s : State)
  | noTag
  | refused
  deriving DecidableEq, Repr

def requestPage (s : State) (asid : BitVec 16) (va : Nat) : HostWait :=
  if s.md.prgFailed || !accepted s 8 then .refused
  else
    match s.md.pageReqs.find? fun r => r.asid == asid && r.page == va / 4096 with
    | some r => .tag r.tag s
    | none =>
      match freeTag s.md.pageReqs with
      | none => .noTag
      | some t =>
        let r : PageReq := ⟨t, asid, va / 4096⟩
        .tag t (s.onMd fun m => { m with pageReqs := r :: m.pageReqs, requests := m.requests ++ [r] })

/-! ## Routes and lattice replicas (R441, R442, R446) -/

/-- A physical address of a delivered translation. -/
structure Phys where
  pa : Nat
  lattice : BitVec 3
  mode : BitVec 2
  deriving DecidableEq, Repr

/-- A route to another package with a live port. -/
def routeLive (s : State) (pkg : Nat) : Bool :=
  let e := (lookupNum pkg s.md.routes).getD 0
  bit e 0 && (e.extractLsb' 16 16 &&& s.md.kbLive) != 0

/-- The table entry that a lattice access is in (R446). -/
def lrtEntryOf (s : State) (m : Nat) : Option LrtEntry :=
  let page := m % 2 ^ 37 / 2 ^ 12
  s.lrt.toList.find? fun e => e.v && e.base ≤ page && page ≤ e.limit

/-- Where a lattice access is served: package, local address, and the die whose slot a GCOUNT access moves. -/
def latticeServe (s : State) (p : Phys) (die : Nat) : Option (Nat × Nat × Nat) :=
  let pkg := p.pa / 2 ^ 41
  let m := p.pa % 2 ^ 40
  match lrtEntryOf s m with
  | none => some (pkg, m, die)
  | some e =>
    let inSet (k : Nat) : Bool := e.pkgBase ≤ k && k < e.pkgBase + 2 ^ e.plog
    let md := m / 2 ^ 37
    if p.mode != 1 || p.lattice.toNat != e.typ then none
    else if e.dieMask.testBit die && inSet s.md.pkg.toNat && inSet pkg then
      some (s.md.pkg.toNat, die * 2 ^ 37 + m % 2 ^ 37, die)
    else if e.dieMask.testBit md then some (pkg, m, md)
    else none

/-! ## Accesses (R256, orders 8-11) -/

/-- How an access uses a translation. `refused` is a page that the host has refused to the engine that makes it (R263),
`walked` a translation that its walk has delivered before (R300), and `owner` the unit of an engine instruction that it is
made for. -/
structure Access where
  core : Nat
  asid : BitVec 16
  sup : Bool
  read : Bool := false
  write : Bool := false
  fetch : Bool := false
  refused : Option Nat := none
  walked : Option Xlat := none
  owner : Option Owner := none
  deriving DecidableEq, Repr

/-- A page that was refused while an access of this address space waited on it. -/
def PageWait.refusal (asid : BitVec 16) : Option PageWait → Option Nat
  | some p => if p.refused && p.asid == asid then some p.page else none
  | none => none

/-- The permission that fails, if any. -/
def permCause (a : Access) (p : BitVec 4) : Option Cause :=
  let u := a.sup || p.getLsbD 3
  if a.fetch && !(p.getLsbD 2 && u) then some .pageExec
  else if a.read && !(p.getLsbD 0 && u) then some .pageRead
  else if a.write && !(p.getLsbD 1 && u) then some .pageWrite
  else none

/-- What an access to the device registers fails with: supervisor code alone reaches them, as it alone reaches a page
without U (R273, R461; log 10). -/
def deviceCause (a : Access) : Option Cause := permCause a 7

/-- Result of translating one piece. -/
abbrev Located (α : Type) := Except Stop (α × State)

def gtrap (c : Cause) (addr : Nat) (detail : Nat := 0) (write : Bool := false) (fetch : Bool := false) : Trap :=
  { cause := c, addr := BitVec.ofNat 64 addr, detail := BitVec.ofNat 32 detail, write, fetch }

/-- The physical address that a translation gives a virtual one. -/
def Xlat.physAt (x : Xlat) (va : Nat) : Phys := ⟨(x.phys + (va - x.va)) % 2 ^ 54, x.lattice, x.mode⟩

/-- The memory of this package that serves a physical address has no backing (R256, order 8; R264, R446). -/
def unbacked (s : State) (p : Phys) (die : Nat) : Bool :=
  let (pkg, m) := match (if p.lattice == 0 then none else latticeServe s p die) with
    | some (pkg, m, _) => (pkg, m)
    | none => (p.pa / 2 ^ 41, p.pa % 2 ^ 40)
  pkg == s.md.pkg.toNat && p.pa / 2 ^ 40 % 2 == 0 && (interleave p.mode.toNat m).2 ≥ stackBacked

/-- A page walk that finds poison has met it: each later read raises POISON_READ (R417, R418). -/
def foundPoison (s : State) (granule : Nat) : State := markGranule s granule true false

/-- What a walk that delivers nothing leads to (R256, orders 1-7). A page request that is sent stands in the state of the
trap. -/
def walkStop (s : State) (a : Access) (va : Nat) : WalkFail → Stop
  | .fail c d => .trap (gtrap c va d a.write a.fetch) s
  | .poison level g => .trap (gtrap .walkPoison va level a.write a.fetch) (foundPoison s g)
  | .waits => .hold s
  | .hostPage =>
    match requestPage s a.asid va with
    | .tag t s' => .trap (gtrap .hostPage va t a.write a.fetch) s'
    | .noTag => .hold s
    | .refused => .trap (gtrap .pageNotPresent va 0 a.write a.fetch) s

/-- The walk, lookup or held translation of an access (R256, orders 1-7; R262): one that the access has made before
stands. -/
def lookup (s : State) (a : Access) (va : Nat) : Located Xlat :=
  match a.walked with
  | some x => .ok (x, s)
  | none =>
    if a.refused == some (va / 4096) then .error (.trap (gtrap .hostPage va 0 a.write a.fetch) s)
    else
      let die := coreDie a.core
      let (r, fresh) := chooseXlat s.fresh (walk s die a.asid va) (heldFor s die a.asid va)
      let s := { s with fresh := fresh }
      match r with
      | .error x => .error (walkStop s a va x)
      | .ok x => .ok (x, holdXlat s die a.asid x)

/-- What a translation is checked for (R256, orders 3 and 8-11). -/
def xlatCause (s : State) (a : Access) (x : Xlat) (va size : Nat) : Option (Cause × Nat) :=
  if x.range && va + size > x.va + x.size then some (.rangeLimit, 0)
  else if unbacked s (x.physAt va) (coreDie a.core) then some (.walkError, 6)
  else (permCause a x.perm).map fun c => (c, 0)

/-- Translates a piece of an access (R256). -/
def translate (s : State) (a : Access) (va size : Nat) : Located Phys :=
  match lookup s a va with
  | .error x => .error x
  | .ok (x, s) =>
    match xlatCause s a x va size with
    | some (c, d) => .error (.trap (gtrap c va d a.write a.fetch) s)
    | none => .ok (x.physAt va, s)

/-- A place with its lattice type, and the GCOUNT slot of the access. -/
structure Target where
  loc : Loc
  lattice : Nat
  slot : Nat
  deriving DecidableEq, Repr

/-- The place of a translated address: routes, device space, lattice replicas, interleave (R264, R442, R446, R463). -/
def place (s : State) (a : Access) (ga : Nat) (p : Phys) : Except Stop Target :=
  let own := s.md.pkg.toNat
  let bad (c : Cause) : Except Stop Target := .error (.trap (gtrap c ga 0 a.write a.fetch) s)
  let pkg := p.pa / 2 ^ 41
  let toPkg (pkg m slot : Nat) : Except Stop Target :=
    let (k, o) := interleave p.mode.toNat m
    if pkg != own && !routeLive s pkg then bad .remoteReject
    else if pkg != own && (s.md.peersDown.contains pkg || o ≥ stackBacked) then bad .remoteReject
    else .ok ⟨.stk pkg k o, p.lattice.toNat, slot⟩
  if p.lattice != 0 && !accepted s 1 then bad .latticeType
  else if p.pa / 2 ^ 40 % 2 == 1 then
    if pkg != own then bad .remoteReject
    else if p.pa % 2 ^ 40 / 2 ^ 39 == 1 then
      .ok ⟨.host (pasidOf (some a.asid)) (p.pa % 2 ^ 39), p.lattice.toNat, coreDie a.core⟩
    else
      match deviceCause a with
      | some c => bad c
      | none => .ok ⟨.dev (p.pa % 2 ^ 40), p.lattice.toNat, coreDie a.core⟩
  else if p.lattice == 0 then toPkg pkg (p.pa % 2 ^ 40) (coreDie a.core)
  else
    match latticeServe s p (coreDie a.core) with
    | none => bad .latticeType
    | some (pkg, m, d) => toPkg pkg m d

/-! ## Invalidation (R341, R470) -/

/-- The translations that kernels' accesses in flight use: their walks have been made, and they are not performed (R300). -/
def inUse (s : State) : List TlbEntry :=
  (s.focus :: s.parked.map (·.1)).flatMap fun n =>
    let c := s.getCore n
    c.kern.entries.filterMap fun e =>
      if e.status == .inFlight then e.walked.map fun x => x.entry (coreDie n) c.cp.asid else none

/-- Drops held translations of some dies. -/
def tlbDrop (s : State) (allDies : Bool) (die : Nat) (p : TlbEntry → Bool) : State :=
  { s with tlb := s.tlb.filter fun t => !((allDies || t.die == die) && p t) }

end Sys2Proof.Machine
end

