-- ==== Sys2Proof/Machine/Memory.lean ====
section
/-! DEFINITION. One access to memory: the checks of its address, where it lands, and its effect at the target: loads,
stores, atomics, lattice operations, device registers, poison (R238, R268, R301-R330, R316, R417-R419). -/

namespace Sys2Proof.Machine

/-! ## The front checks (R238, R316 orders 1-3) -/

/-- The aperture that bits 63:56 name: 0 global, 1 gallery, 2 own SRF. -/
def apertureOf (a : Word) : Option Nat :=
  match fld a 56 8 with
  | 0x00 => some 0
  | 0xFE => some 1
  | 0xFF => some 2
  | _ => none

def srfSize : Nat := 0x300000

/-- Orders 2-4 of R238. -/
def apertureTrap (a : Word) (size : Nat) (write : Bool) : Option Trap :=
  let t (c : Cause) : Option Trap := some (gtrap c a.toNat 0 write)
  match apertureOf a with
  | some 1 =>
    if fld a 29 27 != 0 then t .noncanonical
    else if fld a 22 7 ≥ 96 then t .galleryCore
    else if fld a 0 22 + size > srfSize then t .srfBounds
    else none
  | some 2 =>
    if fld a 22 34 != 0 then t .noncanonical else if fld a 0 22 + size > srfSize then t .srfBounds else none
  | _ => none

/-- Orders 1-3 of R316 for an access whose entry accepts the apertures `ok`. -/
def frontTrap (a : Word) (size align : Nat) (ok : Nat → Bool) (write : Bool) : Option Trap :=
  match apertureOf a with
  | none => some (gtrap .aperture a.toNat 0 write)
  | some k =>
    if !ok k then some (gtrap .aperture a.toNat 0 write)
    else if a.toNat % align != 0 then some (gtrap .misaligned a.toNat 0 write)
    else apertureTrap a size write

/-- The access rights that an entry's access needs. -/
def accessOf (a : Access) (e : LogEntry) : Access :=
  { a with read := readsMem e.opc, write := writesMem e.opc, walked := e.walked }

def etrap (c : Cause) (e : LogEntry) (detail : Nat := 0) : Trap := gtrap c e.addr.toNat detail (writesMem e.opc)

/-! ## Lattice cells (R307) -/

def cellSize (t : Nat) : Nat := if t == 3 then 4 else 8
/-- The access is at a cell's first byte and of the cell's size. -/
def cellFit (t : Nat) (e : LogEntry) : Bool :=
  e.size == cellSize t && e.addr.toNat % (if t == 7 then 64 else cellSize t) == 0

/-- `key` of R307. -/
def latKey (x : Nat) : Nat := if x < 2 ^ 31 then x + 2 ^ 31 else 2 ^ 32 - 1 - x

/-- x ⊑ y (R307). -/
def latLe (t x y : Nat) : Bool :=
  match t with
  | 2 => y ≤ x
  | 3 => latKey x ≤ latKey y
  | 4 => x &&& y == x
  | 5 => x &&& y == y
  | _ => x ≤ y

/-- x ⊔ y (R307). -/
def latJoin (t x y : Nat) : Nat :=
  match t with
  | 2 => Nat.min x y
  | 3 => if latKey x ≤ latKey y then y else x
  | 4 => x ||| y
  | 5 => x &&& y
  | _ => Nat.max x y

def satAdd64 (x y : Nat) : Nat := Nat.min (x + y) (2 ^ 64 - 1)

/-- The threshold test of R311 on a value read. -/
def latPasses (t h c : Nat) : Bool :=
  match t with
  | 6 => h / 2 ^ 40 ≤ c / 2 ^ 40
  | _ => latLe t h c

/-! ## Space, lattice and type checks (R316 orders 5 and 6) -/

def spaceCause (e : LogEntry) (p : Phys) : Option Cause :=
  let dev := p.pa / 2 ^ 40 % 2 == 1
  let t := p.lattice.toNat
  if isAtomic e.opc then (if dev then some .atomicSpace else if t != 0 then some .latticeType else none)
  else if isLatticeOp e.opc then
    (if dev || t == 0 || t != e.ty.toNat % 8 || !cellFit t e then some .latticeType else none)
  else if e.opc == engRead then none
  else if e.opc == engAdd && dev then some .atomicSpace
  else if e.opc == engWrite || e.opc == engAdd || e.opc == objUpdate || e.opc == objRead then (if t != 0 then some .latticeType else none)
  else if t != 0 && !cellFit t e then some .latticeType
  else none

/-- An atomic operation that does not accept the type (R324). -/
def atomicTypeBad (e : LogEntry) : Bool :=
  (e.opc == 0xB8 || e.opc == 0xB9) &&
    (let flt := e.ty == 0x08 || e.ty == 0x09
     if e.aop == 7 then !flt else if e.aop == 6 then false else flt)

/-! ## Finding the target -/

/-- Two cores hold programs of one launch (R268). -/
def sameLaunch (s : State) (a b : Nat) : Bool :=
  match (s.getCore a).prog, (s.getCore b).prog with
  | some p, some q => p.launch == q.launch
  | _, _ => false

/-- The target of an access, orders 3 (launch check) to 6 and the route (R268, R302, R308, R316). -/
def resolve (s : State) (who : Access) (e : LogEntry) : Located Target :=
  let a := accessOf who e
  let bad (c : Cause) : Located Target := .error (.trap (etrap c e) s)
  let srf (n : Nat) : Located Target :=
    if isAtomic e.opc || e.opc == engAdd then bad .atomicSpace
    else if isLatticeOp e.opc then bad .latticeType
    else if n != a.core && (s.getCore n).fenced then bad .peerFenced
    else .ok (⟨.srf n (fld e.addr 0 22), 0, 0⟩, s)
  match apertureOf e.addr with
  | some 1 =>
    let n := coreOf (coreDie a.core) (fld e.addr 22 7)
    if n == a.core then srf n else if sameLaunch s a.core n then srf n else bad .galleryCore
  | some 2 => srf a.core
  | _ =>
    match translate s a (fld e.addr 0 56) e.size with
    | .error x => .error x
    | .ok (p, s') =>
      match spaceCause e p with
      | some c => .error (.trap (etrap c e) s')
      | none =>
        if atomicTypeBad e then .error (.trap (etrap .atomicType e) s')
        else
          match place s' a (fld e.addr 0 56) p with
          | .error x => .error x
          | .ok t => .ok ({ t with lattice := if e.opc == engRead then 0 else t.lattice }, s')

/-! ## Bytes of a target -/

/-- A write of the whole granule clears its mark (R417), but in a row with a lasting fault (R424). -/
def clearGranule (s : State) (pkg stack o : Nat) : State :=
  if rowBad s pkg stack o then s
  else
    let k := granuleKey s pkg stack o
    { s with poison := setDel k s.poison, unmet := setDel k s.unmet }

/-- Writes bytes of HBM. -/
def stkPut (s : State) (pkg stack o : Nat) (b : List Byte) : State :=
  let s' := putBytesAt s (b.zipIdx.map fun (x, i) => (cellKey s pkg stack (o + i), x))
  if b.length == 128 then clearGranule s' pkg stack o else s'

/-- Writes bytes of the host window. -/
def hostWrites (s : State) (pasid off : Nat) (b : List Byte) : State :=
  putBytesAt s (b.zipIdx.map fun (x, i) => (hostKey s pasid (off + i), x))

/-- A read that meets poison (R417): the access that first finds it, or a later one; in a stack reported as failed,
every line is poison (R284). A read-modify-write and a store to a lattice cell raise POISON_READ in any case (R309). -/
def metPoison (s : State) (k : Nat) (rmw : Bool) : Option (Cause × State) :=
  let g := k / 128
  let first : Option (Cause × State) :=
    some (if rmw then .poisonRead else .uncorrectedHbm, { s with poison := setAdd g s.poison, unmet := setDel g s.unmet })
  if setHas g s.unmet || (!setHas g s.poison && stackFailed s k) then first
  else if setHas g s.poison then some (.poisonRead, s)
  else none

abbrev Served := Except Stop (List Byte × State)

/-- Serves a request to a cell, of the kind `rmw` or not, or passes it to `k` (R274, R314, R417). -/
def atStack (s : State) (e : LogEntry) (key : Nat) (reads rmw : Bool) (k : Unit → Served) : Served :=
  if quiesced s key || (rmw && lineWaits s key) then .error (.hold s)
  else if reads then
    match metPoison s key rmw with
    | some (c, s') => .error (.trap (etrap c e) s')
    | none => k ()
  else k ()

/-- Register accesses are 8 bytes at an aligned offset (R273). -/
def regWidth (off size : Nat) : Bool := off % 8 == 0 && size == 8

/-! ## Loads -/

/-- The value read of a lattice cell (R307), or the bytes as stored. -/
def homeBytes (s : State) (t : Target) (pkg stack o size : Nat) : List Byte :=
  if t.lattice == 7 then
    leBytes 8 ((List.range 8).foldl (fun x d => satAdd64 x (leNat (locBytes s (.stk pkg stack (o + 8 * d)) 8))) 0)
  else locBytes s (.stk pkg stack o) size

def serveLoad (s : State) (e : LogEntry) (t : Target) : Served :=
  match t.loc with
  | .srf c off =>
    if (s.getCore c).srfBad off e.size then .error (.trap (etrap .uncorrectedSrf e) s)
    else .ok (locBytes s t.loc e.size, s)
  | .dev off =>
    if regWidth off e.size then .ok (locBytes s t.loc 8, s) else .error (.trap (etrap .mmioWidth e) s)
  | .host p off => atStack s e (hostKey s p off) true false fun _ => .ok (locBytes s t.loc e.size, s)
  | .stk p k o => atStack s e (cellKey s p k o) true false fun _ => .ok (homeBytes s t p k o e.size, s)

/-! ## Stores -/

/-- A context command of the core itself: its store goes on until the save or the restore is done (R430, R433). -/
def ownCommand (core off : Nat) : Bool :=
  off == 0x1000000 + 0x10000 * coreDie core + 0x40 * coreNum core + 0x20

def serveDevStore (s : State) (core : Nat) (e : LogEntry) (off : Nat) : Served :=
  if !regWidth off e.size then .error (.trap (etrap .mmioWidth e) s)
  else
    let s1 := { s with fresh := s.fresh + 1 }
    match devWrite s1 false off (BitVec.ofNat 64 (leNat e.bytes)) (Config.freeChoice s.fresh) with
    | .error c => .error (.trap (etrap c e) s)
    | .ok s' =>
      if ownCommand core off then .error (.hold s')
      else if s'.md.step != s.md.step then .error (.final s')
      else .ok ([], s')

/-- The monotone check of R309, and the write. -/
def serveLatticeStore (s : State) (e : LogEntry) (t : Target) (pkg stack o : Nat) : Served :=
  let o := if t.lattice == 7 then o + 8 * t.slot else o
  let c := leNat (locBytes s (.stk pkg stack o) e.size)
  let v := leNat e.bytes
  if latLe t.lattice c v then .ok ([], stkPut s pkg stack o e.bytes)
  else .error (.trap (etrap .nonmonotone e) s)

def serveStore (s : State) (core : Nat) (e : LogEntry) (t : Target) : Served :=
  match t.loc with
  | .srf c off => .ok ([], s.onCore c fun x => x.putSrf (atAddr off e.bytes))
  | .dev off => serveDevStore s core e off
  | .host p off => atStack s e (hostKey s p off) false false fun _ => .ok ([], hostWrites s p off e.bytes)
  | .stk p k o =>
    let cell := t.lattice != 0
    atStack s e (cellKey s p k o) cell cell fun _ =>
      if cell then serveLatticeStore s e t p k o else .ok ([], stkPut s p k o e.bytes)

/-! ## Atomics (R324, R325, R327) -/

/-- The new value of R324, as the n-bit pattern. -/
def amoNew (aop : Nat) (ty : BitVec 5) (old v : Nat) : Nat :=
  let n := tyWidth ty
  let iv (x : Nat) : Int := ival ty (BitVec.ofNat 64 x)
  match aop with
  | 0 => (old + v) % 2 ^ n
  | 1 => old &&& v
  | 2 => old ||| v
  | 3 => old ^^^ v
  | 4 => if iv v < iv old then v else old
  | 5 => if iv old < iv v then v else old
  | 6 => v
  | _ => (deliver (tyFmt ty) 0 false (addV 0 (decodeFloat (tyFmt ty) old) (decodeFloat (tyFmt ty) v))).1

/-- What an atomic writes, if it writes. -/
def atomicNew (e : LogEntry) (old : Nat) : Option Nat :=
  let n := 2 ^ (8 * e.size)
  if e.opc == 0xBA then (if old == e.expected.toNat % n then some (e.operand.toNat % n) else none)
  else some (amoNew e.aop.toNat e.ty old (e.operand.toNat % n))

def serveAtomic (s : State) (e : LogEntry) (t : Target) : Served :=
  match t.loc with
  | .stk p k o =>
    atStack s e (cellKey s p k o) true true fun _ =>
      let old := leNat (locBytes s t.loc e.size)
      .ok (leBytes e.size old, match atomicNew e old with
        | some x => stkPut s p k o (leBytes e.size x)
        | none => s)
  | _ => .error (.trap (etrap .atomicSpace e) s)

/-! ## Lattice operations (R310, R311) -/

def serveJoin (s : State) (e : LogEntry) (t : Target) : Served :=
  match t.loc with
  | .stk p k o =>
    atStack s e (cellKey s p k o) true true fun _ =>
      let v := e.operand.toNat % 2 ^ (8 * e.size)
      let o := if t.lattice == 7 then o + 8 * t.slot else o
      let c := leNat (locBytes s (.stk p k o) e.size)
      .ok ([], stkPut s p k o (leBytes e.size (if t.lattice == 7 then satAdd64 c v else latJoin t.lattice c v)))
  | _ => .error (.trap (etrap .latticeType e) s)

/-- An `ldge` that has not passed waits. -/
def serveLdge (s : State) (e : LogEntry) (t : Target) : Served :=
  match t.loc with
  | .stk p k o =>
    atStack s e (cellKey s p k o) true false fun _ =>
      let b := homeBytes s t p k o e.size
      if latPasses t.lattice (e.operand.toNat % 2 ^ (8 * e.size)) (leNat b) then .ok (b, s) else .error (.waitAt e.addr s)
  | _ => .error (.trap (etrap .latticeType e) s)

/-! ## The access -/

/-- An access to another package (R442). -/
def Target.remote (s : State) (t : Target) : Bool :=
  match t.loc with
  | .stk p _ _ => p != s.md.pkg.toNat
  | _ => false

/-- Serves an access at its target. -/
def serve (s : State) (core : Nat) (e : LogEntry) (t : Target) : Served :=
  if t.remote s && (isAtomic e.opc || isLatticeOp e.opc) && !accepted s 5 then
    .error (.trap (etrap .remoteReject e) s)
  else if isAtomic e.opc || e.opc == engAdd then serveAtomic s e t
  else if e.opc == 0xBB then serveJoin s e t
  else if e.opc == 0xBC then serveLdge s e t
  else if isStore e.opc then serveStore s core e t
  else serveLoad s e t

/-- The request crosses a failed bridge (R266, R440). -/
def Target.cut (s : State) (core : Nat) (t : Target) : Bool :=
  match t.loc with
  | .stk p k _ => bridgeCut s (coreDie core) p k
  | _ => false

/-- A request crosses the Kibry link, which may send flits again (R441). -/
def countFlits (s : State) : State :=
  { s with
    fresh := s.fresh + 1
    md := { s.md with kbRetry := BitVec.ofNat 32 (Nat.min (s.md.kbRetry.toNat + Config.resent s.fresh) (2 ^ 32 - 1)) } }

/-- A request over a failed bridge fails, performed or not (R440). -/
def serveAt (s : State) (core : Nat) (e : LogEntry) (t : Target) : Served :=
  if t.cut s core then
    let s1 := { s with fresh := s.fresh + 1 }
    let s2 := if Config.freeChoice s.fresh then
        (match serve s1 core e t with
        | .ok (_, s') => s'
        | .error _ => s1)
      else s1
    .error (.trap (etrap .remoteTimeout e) s2)
  else serve (if t.remote s then countFlits s else s) core e t

/-- One access from translation to effect. -/
def perform (s : State) (who : Access) (e : LogEntry) : Served := do
  let (t, s) ← resolve s who e
  serveAt s who.core e t

/-! ## Values of a completed access -/

/-- A loaded value extended for its type (R96, R327, R330). -/
def loadValue (e : LogEntry) (b : List Byte) : Word :=
  let n := leNat b
  if e.opc == 0xBC then BitVec.ofNat 64 n
  else if tySigned e.ty then sextW (BitVec.ofNat 64 n) (8 * e.size) else BitVec.ofNat 64 n

def pairLow (b : List Byte) : Word := BitVec.ofNat 64 (leNat (b.take 8))
def pairHigh (b : List Byte) : Word := BitVec.ofNat 64 (leNat ((b.drop 8).take 8))

/-- 32 bytes in every lane (R333). -/
def everyLane (x : Nat) : VecReg := BitVec.ofNat 4096 ((List.range 16).foldl (fun a l => a + x * 2 ^ (256 * l)) 0)

/-- The register writes of a landing (R321, R333). -/
def landWrites (e : LogEntry) (b : List Byte) : List KWrite :=
  match e.dest with
  | some (.k r) => [.k r (loadValue e b)]
  | some (.kpair r) => [.k r (pairLow b), .k (r + 1) (pairHigh b)]
  | some (.v r) => [.v r (BitVec.ofNat 4096 (leNat b))]
  | some (.vall r) => [.v r (everyLane (leNat b))]
  | none => []

/-! ## Accesses of the kernel (R318, R409, R410) -/

def kernAccess (s : State) : Access := { core := s.focus, asid := s.core.cp.asid, sup := false }

/-- A free entry of the landing buffer or of the write queue, lowest first. -/
def freeEntry (v : Vector (Option LogEntry) 32) : Option (Fin 32) := (List.finRange 32).find? fun i => (v.get i).isNone

/-- What fences make of an access that issues now: a `fence.rel` makes the next strong write a release (R293). -/
def fenced (s : State) (e : LogEntry) : State × LogEntry :=
  if s.core.kern.fenceRel && isStrong e.opc && writesMem e.opc then
    (s.onKern fun k => { k with fenceRel := false }, { e with fence := e.fence ||| 2 })
  else (s, e)

/-- Enters a landing in the landing buffer. -/
def enterLanding (s : State) (e : LogEntry) : Body :=
  match freeEntry s.core.kern.landing with
  | none => .error (.wait s)
  | some i =>
    let (s, e) := fenced s e
    .ok (s.onKern fun k => { k with seq := k.seq + 1, landing := k.landing.set i (some { e with seq := k.seq }) })

/-- Enters a write in the write queue. -/
def enterWrite (s : State) (e : LogEntry) : Body :=
  match freeEntry s.core.kern.wqueue with
  | none => .error (.wait s)
  | some i =>
    let (s, e) := fenced s e
    .ok (s.onKern fun k => { k with seq := k.seq + 1, wqueue := k.wqueue.set i (some { e with seq := k.seq }) })

/-- A write to the own SRF takes no entry: its bytes are written at issue + 3 (R318). -/
def enterOwn (s : State) (e : LogEntry) (cells : List Host.Cell) : State :=
  let (s, e) := fenced s e
  pushWrite s 3 (.srf e.order cells)

/-- The SRF offset of an address that names the core's own SRF. -/
def ownOffset (s : State) (a : Word) : Option Nat :=
  match apertureOf a with
  | some 2 => some (fld a 0 22)
  | some 1 => if fld a 22 7 == coreNum s.focus then some (fld a 0 22) else none
  | _ => none

/-- The bytes that a read of the own SRF finds in `m`. -/
def ownRead (s : State) (e : LogEntry) (m : List Host.Cell) (off : Nat) : EntryStatus :=
  if s.core.srfBad off e.size then .failed (etrap .uncorrectedSrf e)
  else .data ((List.range e.size).map fun i => cellGet m (off + i))

/-- The SRF offset of a load of the S slot from the own SRF. -/
def ownLoad (s : State) (e : LogEntry) : Option Nat :=
  if isStore e.opc || isAtomic e.opc || isLatticeOp e.opc then none else ownOffset s e.addr

/-! ## When an entry may be performed -/

/-- The translations that an access may use: the one that its walk has delivered, or those held and what the tables now
say (R262). -/
def xlatsFor (s : State) (who : Access) (e : LogEntry) : List Xlat :=
  match e.walked with
  | some x => [x]
  | none =>
    let va := fld e.addr 0 56
    (match walk s (coreDie who.core) who.asid va with
      | .ok x => [x]
      | .error _ => []) ++ heldFor s (coreDie who.core) who.asid va

/-- The places that an access may reach. -/
def spots (s : State) (who : Access) (e : LogEntry) : List Loc :=
  match apertureOf e.addr with
  | some 1 => [.srf (coreOf (coreDie who.core) (fld e.addr 22 7)) (fld e.addr 0 22)]
  | some 2 => [.srf who.core (fld e.addr 0 22)]
  | _ =>
    let va := fld e.addr 0 56
    (xlatsFor s who e).filterMap fun x =>
      match place s who va (x.physAt va) with
      | .ok t => some t.loc
      | .error _ => none

/-- Two accesses touch a common byte. Bytes of memory are told apart by the cells that serve them, so that the old and the
new home of a migrating line are one place (R289, R314). -/
def sameByte (s : State) (a : Loc) (n : Nat) (b : Loc) (m : Nat) : Bool :=
  let meets (x y : Nat) : Bool := x < y + m && y < x + n
  let cells : Bool := meets (a.key s) (b.key s)
  match a, b with
  | .srf c x, .srf d y => c == d && meets x y
  | .dev x, .dev y => meets x y
  | .stk _ _ _, .stk _ _ _ => cells
  | .host _ _, .host _ _ => cells
  | .stk _ _ _, .host _ _ => cells
  | .host _ _, .stk _ _ _ => cells
  | _, _ => false

/-- Two accesses may touch a common byte, whatever addresses name it (R289, R291). -/
def overlap (s : State) (who : Access) (a b : LogEntry) : Bool :=
  (spots s who a).any fun x => (spots s who b).any fun y => sameByte s x a.size y b.size

/-- An older access `x` holds back `e`: one byte (R289, R291), or the order of R292-R295. -/
def holdsBack (s : State) (who : Access) (x e : LogEntry) : Bool :=
  x.seq < e.seq && !entryDone x && (x.order.precedes e.order || overlap s who x e)

/-- The entries in flight that are older than number `q`, in order. -/
def Kern.inFlightBefore (k : Kern) (q : Nat) : List LogEntry :=
  rising LogEntry.seq (k.entries.filter fun x => x.seq < q && !entryDone x)

/-- Memory as the older writes in flight leave it, all together. -/
def afterOlder (s : State) (q : Nat) : State :=
  ((s.core.kern.inFlightBefore q).filter fun x => writesMem x.opc).foldl (fun s x =>
    match perform s (kernAccess s) x with
    | .ok (_, s') => s'
    | .error _ => s) s

/-- The tables as the older writes leave them give the access another translation: its walk waits for them (R300). -/
def changesWalk (s : State) (e : LogEntry) : Bool :=
  let look (s : State) : Walk Xlat := walk s (coreDie s.focus) s.core.cp.asid (fld e.addr 0 56)
  e.walked.isNone && apertureOf e.addr == some 0 && look (afterOlder s e.seq) != look s

/-- No older access of the focused core's kernel stands before an entry, nor a release in progress in its own bundle. -/
def mayPerform (s : State) (e : LogEntry) : Bool :=
  let k := s.core.kern
  !(k.entries.any fun x => holdsBack s (kernAccess s) x e) && !changesWalk s e && !k.ownBefore e.seq e.order &&
    !k.pinned e.seq && !(ownLoad s e).any fun off => k.ownStrong e.seq e.order off e.size

/-! ## Walks in program order (R300) -/

/-- An entry whose walk has not been made. -/
def needsWalk (e : LogEntry) : Bool := e.status == .inFlight && e.walked.isNone && apertureOf e.addr == some 0

/-- The entry of the same number is replaced. -/
def Kern.setEntry (k : Kern) (e : LogEntry) : Kern :=
  let put (o : Option LogEntry) : Option LogEntry := o.map fun x => if x.seq == e.seq then e else x
  { k with landing := k.landing.map put, wqueue := k.wqueue.map put }

/-- The walk of an entry before the access is performed: after older acquires and after the older writes that change it;
none while it waits. One that delivers nothing fails the entry. -/
def walkEntry (s : State) (e : LogEntry) : Option State :=
  let k := s.core.kern
  if (k.inFlightBefore e.seq).any (fun x => x.order.acquires) || k.pinned e.seq || changesWalk s e then none
  else
    match lookup s (accessOf (kernAccess s) e) (fld e.addr 0 56) with
    | .ok (x, s') => some (s'.onKern fun k => k.setEntry { e with walked := some x })
    | .error (.trap t s') => some (s'.onKern fun k => k.setEntry { e with status := .failed t })
    | .error _ => none

/-- The entries before number `q` have made their walks, each an acquire that every younger access follows; none while
one waits. -/
def walkOlder (s : State) (q : Nat) : Option State :=
  ((s.core.kern.inFlightBefore q).filter needsWalk).foldlM walkEntry s

/-- An access of the S slot after its front checks. A load of the own SRF reads at issue, unless an older access must
precede it (R289, R292-R295, R300). -/
def kernPerform (s : State) (e : LogEntry) : Body :=
  if isStore e.opc then
    match ownOffset s e.addr with
    | some off => .ok (enterOwn s e (atAddr off e.bytes))
    | none => enterWrite s e
  else if e.opc == 0xB9 || e.opc == 0xBB then enterWrite s e
  else
    match ownLoad s e with
    | some off =>
      let q := s.core.kern.seq
      match (if mayPerform s { (fenced s e).2 with seq := q } then walkOlder s q else none) with
      | some s' => enterLanding s' { e with status := ownRead s' e (s'.core.srfOwn q) off }
      | none => enterLanding s e
    | none => enterLanding s e

/-! ## Merged reductions (R303) -/

/-- A `red` that a router may merge. -/
def mergeable (e : LogEntry) : Bool := e.opc == 0xB9 && e.ord == 0 && e.fence == 0

/-- The relaxed reductions in the write queues that have everything in common with `e` at a place, and may be performed
now: core and entry. -/
def redPartners (s : State) (e : LogEntry) (loc : Loc) : List (Nat × Fin 32) :=
  (s.focus :: s.parked.map (·.1)).flatMap fun n =>
    let s' := s.focusOn n
    ((List.finRange 32).filter fun i =>
      match s'.core.kern.wqueue.get i with
      | none => false
      | some x =>
        mergeable x && x.status == .inFlight && !(n == s.focus && x.seq == e.seq && e.slot != 0) &&
          x.aop == e.aop && x.ty == e.ty && x.scope == e.scope && mayPerform s' x &&
          match resolve s' (kernAccess s') x with
          | .ok (t, _) => t.loc == loc
          | .error _ => false).map fun i => (n, i)

def queueEntry (s : State) (n : Nat) (i : Fin 32) : Option LogEntry := (s.getCore n).kern.wqueue.get i

/-- Any of the partners are merged (R7): one operand, exact for integers and rounded once for a floating sum. -/
def mergeReds (s : State) (e : LogEntry) : List (Nat × Fin 32) → State × LogEntry × List (Nat × Fin 32)
  | [] => (s, e, [])
  | p :: l =>
    let (s, e, ps) := mergeReds s e l
    match queueEntry s p.1 p.2 with
    | none => (s, e, ps)
    | some x =>
      let n := 2 ^ (8 * e.size)
      let v := amoNew e.aop.toNat e.ty (x.operand.toNat % n) (e.operand.toNat % n)
      let s' := { s with fresh := s.fresh + 1 }
      if Config.freeChoice s.fresh then (s', { e with operand := BitVec.ofNat 64 v }, p :: ps) else (s', e, ps)

/-- The write-queue entry of a contribution that has been performed is free. -/
def freeQueued (s : State) (p : Nat × Fin 32) : State :=
  s.onCore p.1 fun c => { c with kern := { c.kern with wqueue := c.kern.wqueue.set p.2 none } }

/-- Serves an access; a relaxed reduction may carry others with it, as one read-modify-write. -/
def serveMerged (s : State) (core : Nat) (e : LogEntry) (t : Target) : Served :=
  if !mergeable e then serveAt s core e t
  else
    let (s', e', ps) := mergeReds s e (redPartners s e t.loc)
    match serveAt s' core e' t with
    | .ok (b, s'') => .ok (b, ps.foldl freeQueued s'')
    | .error x => if ps.isEmpty then .error x else serveAt s core e t

/-- Performs an entry: a held-back load of the own SRF reads it as its place in program order gives (R291). -/
def performOne (s : State) (e : LogEntry) : Served :=
  match ownLoad s e with
  | some off =>
    (match ownRead s e (s.core.srfOwn e.seq) off with
    | .data b => .ok (b, s)
    | .failed t => .error (.trap t s)
    | _ => .error (.hold s))
  | none => do
    let (t, s) ← resolve s (kernAccess s) e
    serveMerged s s.focus e t

/-- The outcome of performing an entry: what its status becomes. A wait leaves it in flight. -/
def performEntry (s : State) (e : LogEntry) (lost : Bool) : State × EntryStatus :=
  let missed := lost && Config.freeChoice s.fresh
  let s := if lost then { s with fresh := s.fresh + 1 } else s
  if missed then (s, .failed (etrap .landingLost e))
  else
    match performOne s e with
    | .ok (b, s') => (s', if lost then .failed (etrap .landingLost e) else .data b)
    | .error (.trap t s') => (s', .failed t)
    | .error (.wait s') => (s', .inFlight)
    | .error (.waitAt _ s') => (s', .inFlight)
    | .error (.hold s') => (s', .inFlight)
    | .error (.final s') => (s', .data [])

/-! ## Accesses of the CP -/

def cpAccess (s : State) : Access := { core := s.focus, asid := s.core.cp.asid, sup := s.core.cp.mode }

/-- An access of a CP word: at once, but for a request to another package, whose response is awaited (R317, R443). -/
def cpPerform (s : State) (e : LogEntry) (done : State → List Byte → State) : Body :=
  let finish (s : State) (t : Target) : Body :=
    match serveMerged s s.focus e t with
    | .error x => .error x
    | .ok (b, s') => .ok (done (s'.onCp fun c => { c with remote := none }) b)
  match resolve s (cpAccess s) e with
  | .error x => .error x
  | .ok (t, s') =>
    if t.remote s' && e.opc != 0xBC && s'.core.cp.remote.isNone then
      .error (.hold (s'.onCp fun c => { c with remote := some { e with since := s'.clock } }))
    else finish s' t

end Sys2Proof.Machine
end

