-- ==== Sys2Proof/Machine/MemInstr.lean ====
section
/-! DEFINITION. The memory, atomic, lattice, SRF, conversion, barrier-network and maintenance words 0xB0-0xC2 and
0xC4-0xC8 (R96, R316-R341). -/

namespace Sys2Proof.Machine

/-! ## Shared parts -/

/-- The scope of a strong access (R288). -/
def scopeOf (s : State) (w : MForm) : BitVec 3 := if s.onCpPlace then w.sc else s.scope

/-- The log entry of an access (R410). -/
def entryOf (s : State) (opc : BitVec 8) (w : MForm) (addr : Word) (size : Nat) : LogEntry where
  opc
  aop := 0
  ty := w.ty
  ord := w.ord
  scope := scopeOf s w
  slot := BitVec.ofNat 3 (slotNum s.place)
  addr
  size
  operand := 0
  expected := 0
  bytes := []
  dest := none
  due := s.core.kern.ktime + w.due.toNat
  seq := 0
  since := s.clock
  status := .inFlight
  fence := 0
  walked := none

/-- gA + gB + sext(OFF, 16) (R59). -/
def eaIndexed (s : State) (w : MForm) : Word := readR s w.a + readR s w.b + w.off.signExtend 64
/-- gA + sext(OFF, 16) (R327, R328). -/
def eaPlain (s : State) (w : MForm) : Word := readR s w.a + w.off.signExtend 64
/-- gA + sext(OFF[11:0], 12) (R324). -/
def eaAtomic (s : State) (w : MForm) : Word := readR s w.a + (w.off.extractLsb' 0 12).signExtend 64

def anyAperture (_ : Nat) : Bool := true
def srfApertures (k : Nat) : Bool := k != 0

/-- An access of a CP or S-slot word: the front checks, then the access by place. -/
def runAccess (s : State) (e : LogEntry) (align : Nat) (done : State → List Byte → State) : Body :=
  match frontTrap e.addr e.size align anyAperture (writesMem e.opc) with
  | some t => .error (.trap t s)
  | none => if s.onCpPlace then cpPerform s e done else kernPerform s e

def tyBytes (t : BitVec 5) : Nat := tyWidth t / 8

/-- A word that loads one register. -/
def loadWord (opc : BitVec 8) (ea : State → Word) (size : Nat) (f : State → LogEntry → LogEntry) (w : MForm) (s : State) :
    Body :=
  let e := f s { entryOf s opc w (ea s) size with dest := some (.k (r5 w.d)) }
  runAccess s e size fun s b => s.onCp fun c => c.writeG (r5 w.d) (loadValue e b)

/-- A word that writes and returns nothing. -/
def storeWord (opc : BitVec 8) (ea : State → Word) (size align : Nat) (f : State → LogEntry → LogEntry) (w : MForm)
    (s : State) : Body :=
  runAccess s (f s (entryOf s opc w (ea s) size)) align fun s _ => s

def noOperand (_ : State) (e : LogEntry) : LogEntry := e

/-- The low bytes of gD (R96). -/
def storeData (w : MForm) (s : State) (e : LogEntry) : LogEntry := { e with bytes := leBytes e.size (readR s w.d).toNat }

/-- gB as operand. -/
def operandB (w : MForm) (aop : BitVec 4) (s : State) (e : LogEntry) : LogEntry :=
  { e with aop, operand := readR s w.b }

/-! ## Plain, strong, paired, prefetch and zeroing accesses (R96, R319-R323) -/

/-- `ld` (R96). -/
def execLd (w : MForm) (s : State) : Out :=
  runPlain s 0xB0 w.guard (loadWord 0xB0 (eaIndexed · w) (tyBytes w.ty) noOperand w)

/-- `st` (R96). -/
def execSt (w : MForm) (s : State) : Out :=
  runPlain s 0xB1 w.guard (storeWord 0xB1 (eaIndexed · w) (tyBytes w.ty) (tyBytes w.ty) (storeData w) w)

/-- `lds` (R320). -/
def execLds (w : MForm) (s : State) : Out :=
  runPlain s 0xB2 w.guard (loadWord 0xB2 (eaIndexed · w) (tyBytes w.ty) noOperand w)

/-- `sts` (R320). -/
def execSts (w : MForm) (s : State) : Out :=
  runPlain s 0xB3 w.guard (storeWord 0xB3 (eaIndexed · w) (tyBytes w.ty) (tyBytes w.ty) (storeData w) w)

/-- `ldq` (R321): two registers from one access. -/
def execLdq (w : MForm) (s : State) : Out :=
  runPlain s 0xB4 w.guard fun s =>
    let e := { entryOf s 0xB4 w (eaIndexed s w) 16 with dest := some (.kpair (r5 w.d)) }
    runAccess s e 16 fun s b => s.onCp fun c => (c.writeG (r5 w.d) (pairLow b)).writeG (r5 w.d + 1) (pairHigh b)

/-- `stq` (R321). -/
def execStq (w : MForm) (s : State) : Out :=
  runPlain s 0xB5 w.guard (storeWord 0xB5 (eaIndexed · w) 16 16
    (fun s e => { e with bytes := leBytes 8 (readR s w.d).toNat ++ leBytes 8 (readR s (w.d + 1)).toNat }) w)

/-- `pref` (R322): changes no value and never traps. -/
def execPref (w : MForm) (s : State) : Out := runPlain s 0xB6 w.guard fun s => .ok s

/-- `stz` (R323). -/
def execStz (w : MForm) (s : State) : Out :=
  runPlain s 0xB7 w.guard (storeWord 0xB7 (eaIndexed · w) 128 128 (fun _ e => { e with bytes := List.replicate 128 0 }) w)

/-! ## Atomics (R324-R327) -/

/-- An `amo` of operation `aop` (R324). -/
def amoWord (aop : BitVec 4) (w : MForm) (s : State) : Out :=
  runPlain s 0xB8 w.guard (loadWord 0xB8 (eaAtomic · w) (tyBytes w.ty) (operandB w aop) w)

/-- A `red` of operation `aop` (R324, R326). -/
def redWord (aop : BitVec 4) (w : MForm) (s : State) : Out :=
  runPlain s 0xB9 w.guard (storeWord 0xB9 (eaAtomic · w) (tyBytes w.ty) (tyBytes w.ty) (operandB w aop) w)

/-- `amo.add`. -/
def execAmoAdd (w : MForm) (s : State) : Out := amoWord 0 w s
/-- `amo.and`. -/
def execAmoAnd (w : MForm) (s : State) : Out := amoWord 1 w s
/-- `amo.or`. -/
def execAmoOr (w : MForm) (s : State) : Out := amoWord 2 w s
/-- `amo.xor`. -/
def execAmoXor (w : MForm) (s : State) : Out := amoWord 3 w s
/-- `amo.min`. -/
def execAmoMin (w : MForm) (s : State) : Out := amoWord 4 w s
/-- `amo.max`. -/
def execAmoMax (w : MForm) (s : State) : Out := amoWord 5 w s
/-- `amo.exch`. -/
def execAmoExch (w : MForm) (s : State) : Out := amoWord 6 w s
/-- `amo.fadd`. -/
def execAmoFadd (w : MForm) (s : State) : Out := amoWord 7 w s
/-- `red.add`. -/
def execRedAdd (w : MForm) (s : State) : Out := redWord 0 w s
/-- `red.and`. -/
def execRedAnd (w : MForm) (s : State) : Out := redWord 1 w s
/-- `red.or`. -/
def execRedOr (w : MForm) (s : State) : Out := redWord 2 w s
/-- `red.xor`. -/
def execRedXor (w : MForm) (s : State) : Out := redWord 3 w s
/-- `red.min`. -/
def execRedMin (w : MForm) (s : State) : Out := redWord 4 w s
/-- `red.max`. -/
def execRedMax (w : MForm) (s : State) : Out := redWord 5 w s
/-- `red.fadd`. -/
def execRedFadd (w : MForm) (s : State) : Out := redWord 7 w s

/-- `cas` (R327): gD is the expected value. -/
def execCas (w : MForm) (s : State) : Out :=
  runPlain s 0xBA w.guard (loadWord 0xBA (eaPlain · w) (tyBytes w.ty)
    (fun s e => { e with expected := readR s w.d, operand := readR s w.b }) w)

/-! ## Lattice instructions (R328-R330) -/

/-- `join` (R329). -/
def execJoin (w : MForm) (s : State) : Out :=
  let n := cellSize (w.ty.toNat % 8)
  runPlain s 0xBB w.guard (storeWord 0xBB (eaPlain · w) n n (operandB w 0) w)

/-- `ldge` (R330): a blocking wait on the CP, also while its access is held up. -/
def execLdge (w : MForm) (s : State) : Out :=
  runPlain s 0xBC w.guard fun s =>
    asWait (eaPlain s w) (loadWord 0xBC (eaPlain · w) (cellSize (w.ty.toNat % 8)) (operandB w 0) w s)

/-! ## Fences (R293, R294, R331) -/

/-- The latest strong read in flight, whatever its place. -/
def latestStrongRead (k : Kern) : Option Nat :=
  k.entries.foldl (fun m e =>
    if isStrong e.opc && readsMem e.opc then some (Nat.max (m.getD 0) e.seq) else m) none

def markAcquire (k : Kern) : Kern :=
  match latestStrongRead k with
  | none => k
  | some q =>
    let mark (o : Option LogEntry) : Option LogEntry :=
      o.map fun e => if e.seq == q then { e with fence := e.fence ||| 1 } else e
    { k with landing := k.landing.map mark, wqueue := k.wqueue.map mark }

/-- A fence. On the CP every earlier access has been performed when it executes; in a kernel it holds accesses in the
memory path, and `fence.sc` freezes the kernel. -/
def fenceWord (w : MForm) (acq rel sc : Bool) (s : State) : Body :=
  let lane := scopeOf s w == 1
  if sc && lane then .error (.trap { cause := .fenceScope } s)
  else if s.onCpPlace || lane then .ok s
  else
    .ok (s.onKern fun k =>
      let k := if acq then markAcquire k else k
      let k := { k with fenceRel := k.fenceRel || rel }
      if sc then Kern.show { k with freeze := .fence k.seq } else k)

/-- `fence.acq`. -/
def execFenceAcq (w : MForm) (s : State) : Out := runPlain s 0xBD w.guard (fenceWord w true false false)
/-- `fence.rel`. -/
def execFenceRel (w : MForm) (s : State) : Out := runPlain s 0xBD w.guard (fenceWord w false true false)
/-- `fence.ar`. -/
def execFenceAr (w : MForm) (s : State) : Out := runPlain s 0xBD w.guard (fenceWord w true true false)
/-- `fence.sc` (R294). -/
def execFenceSc (w : MForm) (s : State) : Out := runPlain s 0xBD w.guard (fenceWord w true true true)

/-! ## SRF and gallery moves (R332-R335) -/

def readV (s : State) (f : BitVec 6) : VecReg := s.core.kern.v.get f.toFin

def leVec (b : List Byte) : VecReg := BitVec.ofNat 4096 (leNat b)

/-- A read of `size` bytes into a vector register: local (DUE = 0) or landed (R333). -/
def srfReadWord (opc : BitVec 8) (size align : Nat) (spread : List Byte → VecReg) (dest : LandDest) (w : MForm)
    (s : State) : Body :=
  let ea := eaIndexed s w
  let e := { entryOf s opc w ea size with dest := some dest }
  match frontTrap ea size align srfApertures false with
  | some t => .error (.trap t s)
  | none =>
    match ownOffset s ea with
    | none => if w.due == 0 then .error (.trap (gtrap .aperture ea.toNat 1) s) else enterLanding s e
    | some off =>
      if w.due != 0 then enterLanding s { e with status := ownRead s e s.core.srf off }
      else if s.core.srfBad off size then .error (.trap (gtrap .uncorrectedSrf ea.toNat) s)
      else
        .ok (pushWrite s 6 (.v w.d (spread ((List.range size).map fun i => cellGet s.core.srf (off + i)))))

/-- `sread` (R333). -/
def execSread (w : MForm) (s : State) : Out :=
  runPlain s 0xBE w.guard (srfReadWord 0xBE 512 64 leVec (.v w.d) w)

/-- `sbcast` (R333). -/
def execSbcast (w : MForm) (s : State) : Out :=
  runPlain s 0xC2 w.guard (srfReadWord 0xC2 32 32 (fun b => everyLane (leNat b)) (.vall w.d) w)

/-- `swrite` (R333). -/
def execSwrite (w : MForm) (s : State) : Out :=
  runPlain s 0xBF w.guard fun s =>
    let ea := eaIndexed s w
    let b := leBytes 512 (readV s w.d).toNat
    match frontTrap ea 512 64 srfApertures true with
    | some t => .error (.trap t s)
    | none =>
      match ownOffset s ea with
      | some off => .ok (enterOwn s (entryOf s 0xBF w ea 512) (atAddr off b))
      | none => enterWrite s { entryOf s 0xBF w ea 512 with bytes := b }

/-- Address of element j of lane l (R334). -/
def elemAddr (s : State) (w : MForm) (l j : Nat) : Word :=
  let n := tyWidth w.ty
  eaPlain s w + (((readV s w.b).toNat / 2 ^ (256 * l + n * j) % 2 ^ n : Nat) : Word)

/-- Elements of one lane. -/
def laneElems (ty : BitVec 5) : List Nat := List.range (256 / tyWidth ty)

/-- The first failing element of a lane (R316, R334). -/
def elemTrap (s : State) (w : MForm) (write : Bool) (l : Nat) : Option Trap :=
  (laneElems w.ty).findSome? fun j =>
    let a := elemAddr s w l j
    match frontTrap a (tyBytes w.ty) (tyBytes w.ty) (· == 2) write with
    | some t => some t
    | none => if !write && s.core.srfBad (fld a 0 22) (tyBytes w.ty) then some (gtrap .uncorrectedSrf a.toNat) else none

/-- Offsets of every element, lane by lane. -/
def elemOffsets (s : State) (w : MForm) : List Nat :=
  (List.range 16).flatMap fun l => (laneElems w.ty).map fun j => fld (elemAddr s w l j) 0 22

def distinct (l : List Nat) : List Nat := l.foldl (fun a x => setAdd x a) []

/-- The largest number of distinct codewords in one data bank (R334). -/
def bankLoad (offs : List Nat) (n : Nat) : Nat :=
  (List.range 64).foldl (fun m b =>
    Nat.max m ((distinct ((offs.filter fun x => (b + 64 - x % 64) % 64 < n).map (· / 64))).length)) 0

/-- The issue hold of an indexed move. -/
def holdFor (s : State) (n : Nat) : State :=
  s.onKern fun k => { k with issuing := k.issuing.map fun b => { b with hold := Nat.max b.hold n } }

/-- `sreadx` (R334). -/
def execSreadx (w : MForm) (s : State) : Out :=
  runPlain s 0xC0 w.guard fun s =>
    match laneFault (elemTrap s w false) with
    | some t => .error (.trap t s)
    | none =>
      let offs := elemOffsets s w
      let n := tyBytes w.ty
      let b := offs.flatMap fun o => (List.range n).map fun i => cellGet s.core.srf (o + i)
      .ok (holdFor (pushWrite s 6 (.v w.d (leVec b))) (bankLoad offs n - 1))

/-- `swritex` (R334): later elements write last. -/
def execSwritex (w : MForm) (s : State) : Out :=
  runPlain s 0xC1 w.guard fun s =>
    match laneFault (elemTrap s w true) with
    | some t => .error (.trap t s)
    | none =>
      let offs := elemOffsets s w
      let n := tyBytes w.ty
      let x := (readV s w.d).toNat
      let cells := offs.zipIdx.flatMap fun (o, i) => atAddr o (leBytes n (x / 2 ^ (8 * n * i)))
      .ok (holdFor (enterOwn s (entryOf s 0xC1 w (eaPlain s w) 0) cells) (bankLoad offs n - 1))

/-! ## Address conversion and test (R336, R337) -/

/-- `cvta`: gA must be in an aperture of the row, then pass orders 2-4 of R238 with size 1. -/
def cvtaWord (ok : Nat → Bool) (f : State → Word → Except Trap Word) (w : RForm) (s : State) : Out :=
  runPlain s 0xC4 w.guard fun s =>
    let a := readR s w.a
    match frontTrap a 1 1 ok false with
    | some t => .error (.trap t s)
    | none =>
      match f s a with
      | .error t => .error (.trap t s)
      | .ok v => .ok (writeR s 1 w.d v)

/-- The gallery address of core `c`. -/
def galleryAddr (c : Nat) (a : Word) : Word := BitVec.ofNat 64 (0xFE * 2 ^ 56 + c * 2 ^ 22 + fld a 0 22)

/-- `cvta.gal`. -/
def execCvtaGal (w : RForm) (s : State) : Out :=
  cvtaWord (· == 2) (fun s a => .ok (galleryAddr (coreNum s.focus) a)) w s

/-- `cvta.own`: an address of another core traps APERTURE. -/
def execCvtaOwn (w : RForm) (s : State) : Out :=
  cvtaWord (· == 1) (fun s a =>
    if fld a 22 7 == coreNum s.focus then .ok (BitVec.ofNat 64 (0xFF * 2 ^ 56 + fld a 0 22))
    else .error (gtrap .aperture a.toNat)) w s

/-- `cvta.core`: gB above 95 traps GALLERY_CORE. -/
def execCvtaCore (w : RForm) (s : State) : Out :=
  cvtaWord (· != 0) (fun s a =>
    let c := (opB s w true).toNat
    if c > 95 then .error (gtrap .galleryCore a.toNat) else .ok (galleryAddr c a)) w s

/-- `cvta.off`. -/
def execCvtaOff (w : RForm) (s : State) : Out :=
  cvtaWord (· != 0) (fun _ a => .ok (zextW a 22)) w s

def isOwnAddr (a : Word) : Bool := fld a 56 8 == 0xFF && fld a 22 34 == 0 && fld a 0 22 < srfSize
def isGalAddr (a : Word) : Bool :=
  fld a 56 8 == 0xFE && fld a 29 27 == 0 && fld a 22 7 ≤ 95 && fld a 0 22 < srfSize

def inapWord (f : State → Word → Bool) (w : RForm) (s : State) : Out :=
  runPlain s 0xC5 w.guard fun s => .ok (writeP s 1 (r3 w.d) (f s (readR s w.a)))

/-- `inap.glob`. -/
def execInapGlob (w : RForm) (s : State) : Out := inapWord (fun _ a => fld a 56 8 == 0) w s
/-- `inap.srf`. -/
def execInapSrf (w : RForm) (s : State) : Out := inapWord (fun _ a => isOwnAddr a) w s
/-- `inap.gal`. -/
def execInapGal (w : RForm) (s : State) : Out := inapWord (fun _ a => isGalAddr a) w s
/-- `inap.local`. -/
def execInapLocal (w : RForm) (s : State) : Out :=
  inapWord (fun s a => isOwnAddr a || (isGalAddr a && fld a 22 7 == coreNum s.focus)) w s

/-! ## The barrier network (R137, R339) -/

/-- A claimed channel of which the core is a participant. -/
def Channel.isFor (launch core : Nat) (die : Bool) (n : Nat) (c : Channel) : Bool :=
  c.launch == launch && c.die == coreDie core && c.number == n && c.parts.contains core &&
    (if die then c.quad.isNone else c.quad == some (coreNum core / 4))

def channelOf (s : State) (core : Nat) (die : Bool) (n : Nat) : Option Channel :=
  match (s.getCore core).prog with
  | none => none
  | some p => s.channels.find? (Channel.isFor p.launch core die n)

def Core.arrival (c : Core) (die : Bool) : Arrival := if die then c.arrDie else c.arrQuad
def Core.setArrival (c : Core) (die : Bool) (a : Arrival) : Core :=
  if die then { c with arrDie := a } else { c with arrQuad := a }

/-- The arrival is counted: the record takes the channel's generation, which completes with the last arrival (R137). -/
def countArrival (s : State) (core : Nat) (die : Bool) (n : Nat) : State :=
  match channelOf s core die n, (s.getCore core).prog with
  | some c, some p =>
    let s := s.onCore core fun x => x.setArrival die ⟨some c.gen, none⟩
    { s with channels := s.channels.map fun d =>
        if Channel.isFor p.launch core die n d then { d with arrived := setAdd core d.arrived }.settle else d }
  | _, _ => s

/-- The check of an arrival (R137, R339). -/
def arriveTrap (s : State) (die : Bool) (n : Nat) : Option Trap :=
  let t : Trap := { cause := .barrierScope, detail := BitVec.ofNat 32 n }
  match channelOf s s.focus die n with
  | none => some t
  | some c => if (s.core.arrival die).gen == some c.gen || (s.core.arrival die).pending.isSome then some t else none

/-- A `wait` is over: the generation differs from the record (R339). -/
def barReleased (s : State) (core : Nat) (die : Bool) (n : Nat) : Bool :=
  let a := (s.getCore core).arrival die
  a.pending.isNone &&
    match channelOf s core die n with
    | some c => a.gen != some c.gen
    | none => true

/-- The kernel's accesses before number `q` have been performed, those to its own SRF included (R299, R339). -/
def Kern.settled (k : Kern) (q : Nat) : Bool :=
  !(k.entries.any fun e => e.seq < q && !entryDone e) && !k.ownBefore q ⟨0, 0, 0, 2⟩

/-- An arrival: the CP's earlier accesses are performed, and a kernel's arrival is counted once its own are. -/
def arriveNow (s : State) (die : Bool) (n : Nat) : State :=
  if s.onCpPlace || s.core.kern.settled s.core.kern.seq then countArrival s s.focus die n
  else { s with core := s.core.setArrival die { s.core.arrival die with pending := some s.core.kern.seq } }

def barDie (w : IForm) : Bool := w.fn.getLsbD 2
def barChan (w : IForm) : BitVec 3 := w.imm.extractLsb' 0 3

def arriveBody (w : IForm) (s : State) : Body :=
  match arriveTrap s (barDie w) (barChan w).toNat with
  | some t => .error (.trap t s)
  | none => .ok (arriveNow s (barDie w) (barChan w).toNat)

/-- A wait: the record of a channel that the launch has not claimed holds no value (R339). -/
def waitBody (w : IForm) (s : State) : Body :=
  let a := s.core.arrival (barDie w)
  if (a.gen.isNone && a.pending.isNone) || (channelOf s s.focus (barDie w) (barChan w).toNat).isNone then
    .error (.trap { cause := .barrierUnarmed } s)
  else if barReleased s s.focus (barDie w) (barChan w).toNat then .ok s
  else if s.onCpPlace then .error (.wait s)
  else .ok (s.onKern fun k => Kern.show { k with freeze := .barrier (barDie w) (barChan w) s.clock k.seq })

/-- `bar.arrive`. -/
def execBarArrive (w : IForm) (s : State) : Out := runPlain s 0xC6 w.guard (arriveBody w)
/-- `bar.wait`. -/
def execBarWait (w : IForm) (s : State) : Out := runPlain s 0xC6 w.guard (waitBody w)
/-- `bar.sync`. -/
def execBarSync (w : IForm) (s : State) : Out :=
  runPlain s 0xC6 w.guard fun s => do
    let s ← arriveBody w s
    waitBody w s

/-- BARRIER_ARRIVAL_COUNTED (R339): the kernel's earlier accesses are performed, and its arrival counts. -/
def countPending (s : State) (core : Nat) (die : Bool) : State :=
  let c := s.getCore core
  match (c.arrival die).pending, c.prog with
  | some q, some p =>
    if c.kern.settled q then
      match s.channels.find? fun d => d.launch == p.launch && d.parts.contains core && d.quad.isNone == die with
      | some d => countArrival s core die d.number
      | none => s
    else s
  | _, _ => s

/-- BARRIER_ARRIVAL_COUNTED (R339). -/
def execBarrierArrivalCounted (core : Nat) (s : State) : Out := .next (countPending (countPending s core false) core true)

/-! ## Cache and TLB maintenance (R340, R341) -/

/-- `cache.iall`. -/
def execCacheIall (w : RForm) (s : State) : Out :=
  runPlain s 0xC7 w.guard fun s => .ok (s.onCp fun c => { c with icache := [] })

/-- `cache.iline`: the word that holds gA, the line's size being open (log 11). -/
def execCacheIline (w : RForm) (s : State) : Out :=
  runPlain s 0xC7 w.guard fun s =>
    let a := (readR s w.a).toNat / 8
    .ok (s.onCp fun c => { c with icache := c.icache.filter fun x => x.pc.toNat / 8 != a })

/-- `cache.dline`: timing only. -/
def execCacheDline (w : RForm) (s : State) : Out := runPlain s 0xC7 w.guard fun s => .ok s
/-- `cache.dall`: timing only. -/
def execCacheDall (w : RForm) (s : State) : Out := runPlain s 0xC7 w.guard fun s => .ok s

/-- The page through which a migrating line is reached by its old home. -/
def MigLine.entry (m : MigLine) (die : Nat) : TlbEntry := ⟨die, m.asid, false, m.va / 4096 * 4096, 4096, 0, 0, 0, 0⟩

/-- A translation gives the line's address its old home. -/
def leadsOld (s : State) (m : MigLine) (t : TlbEntry) : Bool :=
  t.asid == m.asid && t.xlat.covers m.va &&
    match place s { core := coreOf t.die 0, asid := t.asid, sup := true } m.va (t.xlat.physAt m.va) with
    | .ok x => x.loc.rawKey s / 128 == m.old
    | .error _ => false

/-- A translation to the line's old home is still held on some die, or in use. -/
def stillHeld (s : State) (m : MigLine) : Bool := (s.tlb ++ inUse s).any (leadsOld s m)

/-- An invalidation that covers the line's page, or drops a translation of the line, ends its move once its copy has
committed and no die holds a translation to its old home any more (R314, R470). -/
def endMigration (s : State) (before : List TlbEntry) (p : TlbEntry → Bool) : State :=
  let meant (m : MigLine) : Bool := p (m.entry 0) || before.any fun t => p t && t.asid == m.asid && t.xlat.covers m.va
  { s with migrating := s.migrating.filter fun m => !(m.done && meant m && !stillHeld s m) }

/-- Accesses of the named dies that use a translation to be dropped are not performed yet (R341). -/
def invalidationWaits (s : State) (allDies : Bool) (die : Nat) (p : TlbEntry → Bool) : Bool :=
  (inUse s).any fun t => (allDies || t.die == die) && p t

/-- The matching translations are dropped, and the moves that they held up end. -/
def invalidate (s : State) (allDies : Bool) (die : Nat) (p : TlbEntry → Bool) : State :=
  endMigration (tlbDrop s allDies die p) s.tlb p

/-- `tlbi` on the die or the package (R341). An access that has not made its walk uses no dropped translation. -/
def tlbiWord (p : State → TlbEntry → Bool) (w : RForm) (s : State) : Out :=
  runBody s 0xC8 w.guard true false fun s =>
    if invalidationWaits s (w.fn.getLsbD 2) (coreDie s.focus) (p s) then .error (.hold s)
    else .ok (invalidate s (w.fn.getLsbD 2) (coreDie s.focus) (p s))

def tlbiAsidArg (s : State) (w : RForm) : BitVec 16 := (readR s w.a).setWidth 16

/-- `tlbi.all`. -/
def execTlbiAll (w : RForm) (s : State) : Out := tlbiWord (fun _ _ => true) w s
/-- `tlbi.asid`. -/
def execTlbiAsid (w : RForm) (s : State) : Out := tlbiWord (fun s t => t.asid == tlbiAsidArg s w) w s
/-- `tlbi.page`. -/
def execTlbiPage (w : RForm) (s : State) : Out :=
  tlbiWord (fun s t => t.asid == tlbiAsidArg s w && t.xlat.covers (fld (readR s w.b) 0 56)) w s
/-- `tlbi.range`. -/
def execTlbiRange (w : RForm) (s : State) : Out :=
  tlbiWord (fun s t => t.asid == tlbiAsidArg s w && t.range) w s

end Sys2Proof.Machine
end

