-- ==== Sys2Proof/Machine/Narrow.lean ====
section
/-! DEFINITION. Tile formats: element codings, scaled blocks and groups, rows of 32 values, the copy-path conversion,
and whole records with their headers (R152-R166, R172, R248-R251, R487). -/

namespace Sys2Proof.Machine

/-! ## Format codes (R152) -/

/-- An element coding: a floating format, an integer of a width, or the MX-INT8 element. -/
inductive Elem where
  | flt (f : FFmt)
  | int (sgn : Bool) (n : Nat)
  | mxInt
  deriving DecidableEq, Repr

/-- How a format scales its elements. -/
inductive Scaling where
  | plain
  | mx
  | kf
  deriving DecidableEq, Repr

/-- A tile format: its element, the width of one of the 32 element places of a row, its scaling, and whether the
places are the parts of 16 pairs. -/
structure TileFmt where
  elem : Elem
  w : Nat
  scaling : Scaling
  cplx : Bool
  deriving DecidableEq, Repr

def tileFmt (code : Nat) : Option TileFmt :=
  let fl (f : FFmt) (k : Scaling) : Option TileFmt := some ⟨.flt f, f.width, k, false⟩
  match code with
  | 0x01 => fl fmtF64 .plain
  | 0x02 => fl fmtF32 .plain
  | 0x03 => fl fmtBF16 .plain
  | 0x04 => fl fmtF16 .plain
  | 0x05 => fl fmtE5M2 .plain
  | 0x06 => fl fmtE4M3 .plain
  | 0x07 => fl fmtE3M2 .plain
  | 0x08 => fl fmtE2M3 .plain
  | 0x09 => fl fmtE2M1 .plain
  | 0x10 => fl fmtE5M2 .mx
  | 0x11 => fl fmtE4M3 .mx
  | 0x12 => fl fmtE3M2 .mx
  | 0x13 => fl fmtE2M3 .mx
  | 0x14 => fl fmtE2M1 .mx
  | 0x15 => some ⟨.mxInt, 8, .mx, false⟩
  | 0x18 => fl fmtE4M3 .kf
  | 0x19 => fl fmtE5M2 .kf
  | 0x1A => fl fmtE3M2 .kf
  | 0x1B => fl fmtE2M3 .kf
  | 0x1C => fl fmtE2M1 .kf
  | 0x1D => some ⟨.int true 8, 8, .kf, false⟩
  | 0x1E => some ⟨.int true 4, 4, .kf, false⟩
  | 0x20 => some ⟨.int true 16, 16, .plain, false⟩
  | 0x21 => some ⟨.int true 8, 8, .plain, false⟩
  | 0x22 => some ⟨.int false 8, 8, .plain, false⟩
  | 0x23 => some ⟨.int true 4, 4, .plain, false⟩
  | 0x28 => some ⟨.flt fmtBF16, 16, .plain, true⟩
  | 0x29 => some ⟨.flt fmtF32, 32, .plain, true⟩
  | _ => none

/-- Bytes of a row, of the payload and of the scale area. -/
def TileFmt.rowBytes (f : TileFmt) : Nat := 4 * f.w
def TileFmt.payload (f : TileFmt) : Nat := 128 * f.w
def TileFmt.scaleRow (f : TileFmt) : Nat := match f.scaling with
  | .plain => 0
  | .mx => 1
  | .kf => 8
def TileFmt.scaleBytes (f : TileFmt) : Nat := 32 * f.scaleRow

/-- Footprint of a record of a format code; 64 for the empty tile (R248). -/
def footprint (code : Nat) : Nat := match tileFmt code with
  | some f => 64 + f.payload + f.scaleBytes
  | none => 64

/-- A code that R152 does not list, or whose feature is not accepted (R153, R463). -/
def fmtReserved (s : State) (code : Nat) : Bool :=
  !fmtListed code || (fmtMX code && !accepted s 6) || (fmtKF code && !accepted s 7)

/-! ## Elements (R154, R155, R158, R487) -/

def Elem.decode (e : Elem) (bits : Nat) : FVal :=
  match e with
  | .flt f => decodeFloat f bits
  | .int sgn n => ofInt (ivalW sgn n (BitVec.ofNat 64 bits)) 0 false
  | .mxInt => ofInt (ivalW true 8 (BitVec.ofNat 64 bits)) (-6) false

/-- x·2^k. -/
def FVal.scale (v : FVal) (k : Int) : FVal := match v with
  | .fin n m e => .fin n m (e + k)
  | .near n m e => .near n m (e + k)
  | v => v

def intBits (n : Nat) (x : Int) : Nat := (x % (2 ^ n : Nat)).toNat

/-- One element from an exact value, with the flags of the conversion. -/
def Elem.encode (e : Elem) (rm : Nat) (v : FVal) : Nat × Flags :=
  match e with
  | .flt f => narrow f rm v
  | .int sgn n =>
    let r := narrowInt (intLo sgn n) (intHi sgn n) rm v
    (intBits n r.1, r.2)
  | .mxInt =>
    let r := narrowInt (-128) 127 rm (v.scale 6)
    (intBits 8 r.1, r.2)

/-- `emaxel` (R160). -/
def Elem.emax (e : Elem) : Int := match e with
  | .flt f => if f.width == 8 then (if f.p == 3 then 15 else 8) else if f.p == 3 && f.width == 6 then 4 else 2
  | _ => 0

/-- `maxel` (R163). -/
def Elem.maxVal (e : Elem) : FVal := match e with
  | .flt f => decodeFloat f f.maxMag
  | .int _ n => .fin false (2 ^ (n - 1) - 1) 0
  | .mxInt => .fin false 127 (-6)

/-! ## Blocks and groups (R159-R164) -/

/-- The largest finite magnitude of a list; a zero when there is none. -/
def largest (l : List FVal) : FVal :=
  l.foldl (fun m v => match v with
    | .fin _ a e => if cmpV m (.fin false a e) == some .lt then .fin false a e else m
    | _ => m) (.fin false 0 0)

def someNaN (l : List FVal) : Bool := l.any FVal.isNaN
def someSNaN (l : List FVal) : Bool := l.any FVal.nv

def orFlags (l : List Flags) : Flags := l.foldl (· ||| ·) 0

/-- floor(log2) of a magnitude that is not zero. -/
def floorLog2 (v : FVal) : Int := match v with
  | .fin _ m e => e + bitLen m - 1
  | .near _ m e => e + bitLen m - 1
  | _ => 0

def clampInt (lo hi x : Int) : Int := if x < lo then lo else if x > hi then hi else x

/-- `mxquant` (R160): the E8M0 code, the elements, the flags. -/
def mxquant (el : Elem) (rm : Nat) (xs : List FVal) : Nat × List Nat × Flags :=
  if someNaN xs then (0xFF, xs.map fun _ => 0, flagIf (someSNaN xs) flNV)
  else
    let a := largest xs
    let sc : Int := if a.isZero then 0 else clampInt 0 254 (floorLog2 a - el.emax + 127)
    let r := xs.map fun x => el.encode rm (x.scale (127 - sc))
    (sc.toNat, r.map (·.1), orFlags (r.map (·.2)))

/-- Value of an E4M5 code (R161). -/
def e4m5 (g : Nat) : FVal :=
  if g / 32 == 0 then .fin false (g % 32) (-11) else .fin false (32 + g % 32) ((g / 32 : Nat) - 12)

/-- The largest code whose value times `unit` is below `a`, its bits tried from the top. -/
def e4m5Below (unit a : FVal) : Nat → Nat → Nat
  | 0, c => c
  | k + 1, c => e4m5Below unit a k (if cmpV (mulV (e4m5 (c + 2 ^ k)) unit) a == some .lt then c + 2 ^ k else c)

/-- The code of the smallest E4M5 value at or above a / unit, limited to 0x001-0x1FE (R163). -/
def e4m5Up (unit a : FVal) : Nat := Nat.min 0x1FE (e4m5Below unit a 9 0 + 1)

/-- `kfquant` (R163) with a band scale that is finite and positive. Of a group without a nonzero finite value, which has
g = 0 and leaves a division by zero, each zero and each infinity keeps its sign (DESIGN CHOICE; log 21). -/
def kfquant (el : Elem) (rm : Nat) (band : FVal) (xs : List FVal) : Nat × List Nat × Flags :=
  if someNaN xs then (0x1FF, xs.map fun _ => 0, flagIf (someSNaN xs) flNV)
  else
    let a := largest xs
    let g := if a.isZero then 0 else e4m5Up (mulV band el.maxVal) a
    let r := xs.map fun x => el.encode rm (if x.isZero then x else (divV 32 x (mulV band (e4m5 g))).1)
    (g, r.map (·.1), orFlags (r.map (·.2)))

/-! ## Rows -/

/-- Elements of `w` bits as one little-endian bit string (R157). -/
def packBits (w : Nat) : List Nat → Nat
  | [] => 0
  | x :: l => x + 2 ^ w * packBits w l

def rowElem (w row c : Nat) : Nat := row / 2 ^ (w * c) % 2 ^ w

/-- A row decoded: its 32 values and whether a scale NaN was met. `scales` is the row's part of the scale area. R162 states
the product for finite elements; an infinite one under a scale of zero decodes to a NaN (DESIGN CHOICE; log 21). -/
def decodeRow (f : TileFmt) (row scales : Nat) (band : FVal) : List FVal × Bool :=
  let v (c : Nat) : FVal := f.elem.decode (rowElem f.w row c)
  match f.scaling with
  | .plain => ((List.range 32).map v, false)
  | .mx =>
    let sc := scales % 256
    if sc == 255 then (List.replicate 32 (.nan false), true)
    else ((List.range 32).map fun c => (v c).scale ((sc : Int) - 127), false)
  | .kf =>
    let g (c : Nat) : Nat := scales / 2 ^ (16 * (c / 8)) % 2 ^ 9
    ((List.range 32).map fun c => if g c == 0x1FF then .nan false else mulV (mulV (v c) (e4m5 (g c))) band,
     (List.range 4).any fun k => g (8 * k) == 0x1FF)

/-- A KF or KI scale slot of the row with bits 15:9 set (R161). -/
def slotsBad (scales : Nat) : Bool := (List.range 4).any fun k => scales / 2 ^ (16 * k + 9) % 2 ^ 7 != 0

/-- 32 exact values encoded into a row: payload bits, scale bits, flags. -/
def encodeRow (f : TileFmt) (rm : Nat) (band : FVal) (xs : List FVal) : Nat × Nat × Flags :=
  match f.scaling with
  | .plain =>
    let r := xs.map (f.elem.encode rm)
    (packBits f.w (r.map (·.1)), 0, orFlags (r.map (·.2)))
  | .mx =>
    let (sc, el, fl) := mxquant f.elem rm xs
    (packBits f.w el, sc, fl)
  | .kf =>
    let r := (List.range 4).map fun k => kfquant f.elem rm band ((xs.drop (8 * k)).take 8)
    (packBits f.w (r.flatMap fun x => x.2.1), packBits 16 (r.map (·.1)), orFlags (r.map fun x => x.2.2))

/-- `copyconv` of a row (R165, R166): values through round-to-odd f32, flags of the single rounding. -/
def copyRow (f : TileFmt) (rm : Nat) (band : FVal) (xs : List FVal) : Nat × Nat × Flags :=
  let (p, sc, _) := encodeRow f rm band (xs.map fun x => decodeFloat fmtF32 (rodd32 x))
  (p, sc, (encodeRow f rm band xs).2.2)

/-- A band scale that an encoder accepts: finite and positive (R163). -/
def bandOk (bits : Nat) : Bool := match decodeFloat fmtBF16 bits with
  | .fin neg m _ => !neg && m != 0
  | _ => false

/-- A band scale that a reader accepts: finite (R162). -/
def bandFinite (bits : Nat) : Bool := match decodeFloat fmtBF16 bits with
  | .fin _ _ _ => true
  | _ => false

/-! ## Records and headers (R248-R251) -/

/-- One step of the CRC of R249, most significant bit first. -/
def crcBit (c : Nat) (b : Bool) : Nat :=
  let top := (c / 2 ^ 15 % 2 == 1) != b
  if top then (c * 2 % 2 ^ 16) ^^^ 0x1021 else c * 2 % 2 ^ 16

def crcByte (c : Nat) (b : Byte) : Nat := [7, 6, 5, 4, 3, 2, 1, 0].foldl (fun c i => crcBit c (b.getLsbD i)) c

def crc16 (l : List Byte) : Nat := l.foldl crcByte 0xFFFF

/-- The fields of a header (R249). -/
structure Header where
  code : Nat
  domain : Bool
  packed : Bool
  scaled : Bool
  rows : Nat
  cols : Nat
  band : Nat
  deriving DecidableEq, Repr

def Header.ofWord (w : Word) : Header where
  code := fld w 0 7
  domain := bit w 8
  packed := bit w 9
  scaled := bit w 10
  rows := fld w 16 6
  cols := fld w 24 6
  band := fld w 32 16

def Header.toWord (h : Header) : Word :=
  BitVec.ofNat 64 (h.code + h.domain.toNat * 2 ^ 8 + h.packed.toNat * 2 ^ 9 + h.scaled.toNat * 2 ^ 10 + h.rows * 2 ^ 16 +
    h.cols * 2 ^ 24 + h.band * 2 ^ 32)

/-- Reserved bits of bytes 0-7 of a header. -/
def headerReserved : Word := 0xFFFF0000C0C0F880

/-- The 64 bytes of a header whose first word is `w`, with its CRC. -/
def headerBytes (w : Word) : List Byte :=
  let b := leBytes 8 w.toNat ++ List.replicate 54 0
  b ++ leBytes 2 (crc16 b)

def complexCode (code : Nat) : Bool := code == 0x28 || code == 0x29
def maxCols (code : Nat) : Nat := if complexCode code then 16 else 32

/-- The fields of a header word break R250. -/
def headerBad (s : State) (w : Word) : Bool :=
  let h := Header.ofWord w
  w &&& headerReserved != 0 || fmtReserved s h.code || h.rows == 0 || h.rows > 32 || h.cols == 0 ||
    h.cols > maxCols h.code || (if fmtKF h.code then !bandFinite h.band else h.band != 0)

/-- R222: SCALED, or PACKED, needs DOMAIN; DOMAIN needs a complex format. -/
def headerDomainBad (h : Header) : Bool :=
  (h.domain && !complexCode h.code) || (!h.domain && (h.packed || h.scaled))

/-- Checks of a header of 64 bytes (R250). -/
def headerCheck (s : State) (b : List Byte) : Except Cause Header :=
  let w := BitVec.ofNat 64 (leNat (b.take 8))
  if crc16 (b.take 62) != leNat (b.drop 62) || ((b.drop 8).take 54).any (· != 0) || headerBad s w then .error .tileHeader
  else if headerDomainBad (Header.ofWord w) then .error .domainMismatch
  else .ok (Header.ofWord w)

/-- A record taken apart. -/
structure Record where
  head : Header
  payload : List Byte
  scale : List Byte
  deriving DecidableEq, Repr

def Record.rowBits (r : Record) (f : TileFmt) (i : Nat) : Nat := leNat ((r.payload.drop (i * f.rowBytes)).take f.rowBytes)
def Record.scaleBits (r : Record) (f : TileFmt) (i : Nat) : Nat := leNat ((r.scale.drop (i * f.scaleRow)).take f.scaleRow)

/-- A record of `b`, which starts with its header; a scale slot with bits 15:9 set fails (R161). -/
def readRecord (s : State) (b : List Byte) : Except Cause Record := do
  let h ← headerCheck s (b.take 64)
  match tileFmt h.code with
  | none => .ok ⟨h, [], []⟩
  | some f =>
    let r : Record := ⟨h, (b.drop 64).take f.payload, (b.drop (64 + f.payload)).take f.scaleBytes⟩
    if fmtKF h.code && (List.range 32).any fun i => slotsBad (r.scaleBits f i) then .error .tileHeader else .ok r

/-- Element places per row and column unit: a pair takes two places. -/
def Header.validPlaces (h : Header) : Nat := if complexCode h.code then 2 * h.cols else h.cols

/-- A block or group of the first `n` places has the scale NaN (R164). -/
def scaleNaN (f : TileFmt) (n scales : Nat) : Bool :=
  match f.scaling with
  | .plain => false
  | .mx => scales % 256 == 255
  | .kf => (List.range 4).any fun k => 8 * k < n && scales / 2 ^ (16 * k) % 2 ^ 9 == 0x1FF

/-- A row's values, zero outside the valid region (R251); a scale NaN counts within it. -/
def Record.row (r : Record) (f : TileFmt) (i : Nat) : List FVal × Bool :=
  if i ≥ r.head.rows then (List.replicate 32 (.fin false 0 0), false)
  else
    let (v, _) := decodeRow f (r.rowBits f i) (r.scaleBits f i) (decodeFloat fmtBF16 r.head.band)
    (v.zipIdx.map fun (x, c) => if c < r.head.validPlaces then x else .fin false 0 0,
     scaleNaN f r.head.validPlaces (r.scaleBits f i))

/-- Payload and scale bytes of 32 encoded rows. -/
def rowsBytes (f : TileFmt) (rows : List (Nat × Nat)) : List Byte :=
  rows.flatMap (fun r => leBytes f.rowBytes r.1) ++ rows.flatMap (fun r => leBytes f.scaleRow r.2)

/-! ## Readout (R167, R172) -/

def markPosInf : Int := 2 ^ 47 - 1
def markNegInf : Int := -2 ^ 47
def markNaN : Int := -2 ^ 47 + 1

/-- The value of an accumulator element (R167). -/
def accValue (ae : Option Int) (m : Int) : FVal :=
  if m == markPosInf then .inf false
  else if m == markNegInf then .inf true
  else if m == markNaN then .nan false
  else match ae with
    | none => .fin false 0 0
    | some e => ofInt m e false

end Sys2Proof.Machine
end

