-- ==== Sys2Proof/Machine/Scalar.lean ====
section
/-! DEFINITION. The scalar instructions 0x01-0x29 and 0x2E (R81-R92), on the CP and in the S slot. -/

namespace Sys2Proof.Machine

/-! ## Shared forms -/

/-- Integer operation of two operands (R84). -/
def intOp (lat : Nat) (f : Int → Int → Int) (w : RForm) (s : State) : Body :=
  giveInt s lat w.d (intResultTy w.ty (w.sat == 1)
    (f (ival w.ty (readR s w.a)) (ival w.ty (opB s w (tyUnsigned w.ty)))))

/-- Integer operation of one operand (R84). -/
def intOp1 (f : Int → Int) (w : RForm) (s : State) : Body :=
  giveInt s 1 w.d (intResultTy w.ty (w.sat == 1) (f (ival w.ty (readR s w.a))))

/-- Division and remainder: a zero divisor traps INT_DIVZERO (R43); the divider is busy for 36 cycles (R118). -/
def divOp (f : Int → Int → Int) (w : RForm) (s : State) : Body :=
  if ival w.ty (opB s w (tyUnsigned w.ty)) == 0 then .error (.trap { cause := .intDivzero } s)
  else do
    let s' ← intOp 36 f w s
    .ok (useUnit s' 0 36)

/-- Logical operation of two registers, or of one and a zero-extended immediate (R85). -/
def logOp (f : Word → Word → Word) (w : RForm) (s : State) : Body :=
  .ok (writeR s 1 w.d (f (readR s w.a) (opB s w true)))

def logOpI (f : Word → Word → Word) (w : IForm) (s : State) : Body :=
  .ok (writeR s 1 w.d (f (readR s w.a) (w.imm.setWidth 64)))

def bitCount (f : Word → Nat) (w : RForm) (s : State) : Body :=
  .ok (writeR s 1 w.d (BitVec.ofNat 64 (f (readR s w.a))))

/-- Number of one bits among the low `n`. -/
def popBits : Nat → Nat → Nat
  | 0, _ => 0
  | n + 1, x => x % 2 + popBits n (x / 2)

/-- Leading zeros of an n-bit value. -/
def clzBits (n x : Nat) : Nat := n - bitLen x

/-- Trailing zeros of an n-bit value; n for zero. -/
def ctzBits : Nat → Nat → Nat
  | 0, _ => 0
  | n + 1, x => if x % 2 == 1 then 0 else 1 + ctzBits n (x / 2)

/-- Shift amount of R85. -/
def shAmt (b : Word) : Nat := b.toNat % 64

def shlW (a b : Word) : Word := a <<< shAmt b
def shrW (a b : Word) : Word := a >>> shAmt b
def sraW (a b : Word) : Word := a.sshiftRight (shAmt b)
def andnW (a b : Word) : Word := a &&& ~~~b

/-- bfx pos and len (R86). -/
def bfxPos (w : IForm) : Nat := (w.imm.extractLsb' 0 6).toNat
def bfxLen (w : IForm) : Nat := (w.imm.extractLsb' 8 7).toNat

/-- The immediate of addi and cmpi (R66). -/
def immI (t : BitVec 5) (w : IForm) : Word := immInt w.imm.toNat 32 (tyUnsigned t)

/-- Truth of an integer compare (R87). -/
def cmpInt (c : Nat) (a b : Int) : Bool := condHolds c (some (compare a b))

/-- Compare of two operands given as bits: truth and NV (R87). -/
def compareTy (t : BitVec 5) (flush : Bool) (c : Nat) (a b : Word) : Bool × Flags :=
  if tyIsInt t then (cmpInt c (ival t a) (ival t b), 0)
  else
    let x := readFloat (tyFmt t) flush a.toNat
    let y := readFloat (tyFmt t) flush b.toNat
    (condHolds c (cmpV x y), flagIf (cmpNV c x y) flNV)

/-- Predicate result of two predicates (R88). -/
def predOp (f : Bool → Bool → Bool) (w : RForm) (s : State) : Body :=
  .ok (writeP s 1 (r3 w.d) (f (readP s (r3 w.a)) (readP s (r3 w.b))))

/-- A floating operand (R45, R50). -/
def fArg (s : State) (t : BitVec 5) (bits : Nat) : FVal := readFloat (tyFmt t) (scalarFlush s) bits

/-- Latency of fdiv and fsqrt (R89). -/
def longLat (t : BitVec 5) : Nat := if t == 8 then 24 else 12

def fpOp (f : Nat → FVal → FVal → FVal) (w : RForm) (s : State) : Body :=
  giveFloat s 4 w.d (deliver (tyFmt w.ty) w.rm.toNat (scalarFlush s)
    (f w.rm.toNat (fArg s w.ty (readR s w.a).toNat) (fArg s w.ty (opBFloat s w))))

/-- fmin and fmax (R90). -/
def fMinMax (max : Bool) (w : RForm) (s : State) : Body :=
  let a := fArg s w.ty (readR s w.a).toNat
  let b := fArg s w.ty (opBFloat s w)
  let r := deliver (tyFmt w.ty) 0 false (match minMaxV max (w.fn == 1) a b with
    | .nan _ => .nan false
    | v => v)
  giveFloat s 1 w.d (r.1, flagIf (minMaxNV a b) flNV)

/-- fsgn: gA with a sign from gB (R91). -/
def signOp (f : Bool → Bool → Bool) (w : RForm) (s : State) : Body :=
  let n := tyWidth w.ty - 1
  let a := (readR s w.a).toNat
  let b := opBFloat s w
  .ok (writeR s 1 w.d (BitVec.ofNat 64 (a % 2 ^ n + (f (a.testBit n) (b.testBit n)).toNat * 2 ^ n)))

/-- Conversion between scalar types (R92): the bits written, extended, and the flags raised. -/
def convert (flush : Bool) (src dst : BitVec 5) (rm : Nat) (sat : Bool) (x : Word) : Word × Flags :=
  if tyIsInt src then
    let v := ival src x
    if tyIsInt dst then
      let r := intResultTy dst sat v
      (intWord r.1, r.2)
    else
      let r := deliver (tyFmt dst) rm false (ofInt v 0 false)
      (BitVec.ofNat 64 r.1, r.2)
  else
    let v := readFloat (tyFmt src) flush x.toNat
    if tyIsInt dst then
      let r := floatToInt (tySigned dst) (tyWidth dst) rm v
      (intWord r.1, r.2)
    else
      let r := deliver (tyFmt dst) rm flush v
      (BitVec.ofNat 64 r.1, r.2)

/-- The value of movi (R86). -/
def moviVal (t : BitVec 5) (imm : BitVec 32) : Word :=
  if tyIsInt t then intWord (ival t (immInt imm.toNat 32 (tyUnsigned t)))
  else if t == 8 then
    BitVec.ofNat 64 (deliver fmtF64 0 false (match decodeFloat fmtF32 imm.toNat with
      | .nan _ => .nan false
      | v => v)).1
  else imm.setWidth 64

/-- Sets p1-p7 from bits of a value (R88). -/
def putPreds (s : State) (x : Word) : State :=
  (List.range 7).foldl (fun s i => writeP s 1 (BitVec.ofNat 3 (i + 1)) (bit x (i + 1))) s

/-! ## One meaning for each instruction -/

/-- `add` (R84). -/
def execAdd (w : RForm) (s : State) : Out := runPlain s 0x01 w.guard (intOp 1 (fun a b => a + b) w)

/-- `sub` (R84). -/
def execSub (w : RForm) (s : State) : Out := runPlain s 0x02 w.guard (intOp 1 (fun a b => a - b) w)

/-- `mul` (R84). -/
def execMul (w : RForm) (s : State) : Out := runPlain s 0x03 w.guard (intOp 3 (fun a b => a * b) w)

/-- `mulh` (R84): the high half, without a flag. -/
def execMulh (w : RForm) (s : State) : Out :=
  runPlain s 0x04 w.guard fun s =>
    intOp 4 (fun a b => a * b / (2 ^ tyWidth w.ty : Nat)) w s

/-- `div` (R43, R84). -/
def execDiv (w : RForm) (s : State) : Out := runPlain s 0x05 w.guard (divOp Int.tdiv w)

/-- `rem` (R43, R84). -/
def execRem (w : RForm) (s : State) : Out := runPlain s 0x06 w.guard (divOp Int.tmod w)

/-- `min` (R84). -/
def execMin (w : RForm) (s : State) : Out := runPlain s 0x07 w.guard (intOp 1 (fun a b => if a ≤ b then a else b) w)

/-- `max` (R84). -/
def execMax (w : RForm) (s : State) : Out := runPlain s 0x08 w.guard (intOp 1 (fun a b => if a ≤ b then b else a) w)

/-- `abs` (R84). -/
def execAbs (w : RForm) (s : State) : Out := runPlain s 0x09 w.guard (intOp1 (fun a => (a.natAbs : Int)) w)

/-- `neg` (R84). -/
def execNeg (w : RForm) (s : State) : Out := runPlain s 0x0A w.guard (intOp1 (fun a => -a) w)

/-- `and` (R85). -/
def execAnd (w : RForm) (s : State) : Out := runPlain s 0x0B w.guard (logOp (fun a b => a &&& b) w)

/-- `or` (R85). -/
def execOr (w : RForm) (s : State) : Out := runPlain s 0x0C w.guard (logOp (fun a b => a ||| b) w)

/-- `xor` (R85). -/
def execXor (w : RForm) (s : State) : Out := runPlain s 0x0D w.guard (logOp (fun a b => a ^^^ b) w)

/-- `andn` (R85). -/
def execAndn (w : RForm) (s : State) : Out := runPlain s 0x0E w.guard (logOp andnW w)

/-- `shl` (R85). -/
def execShl (w : RForm) (s : State) : Out := runPlain s 0x0F w.guard (logOp shlW w)

/-- `shr` (R85). -/
def execShr (w : RForm) (s : State) : Out := runPlain s 0x10 w.guard (logOp shrW w)

/-- `sra` (R85). -/
def execSra (w : RForm) (s : State) : Out := runPlain s 0x11 w.guard (logOp sraW w)

/-- `bcnt.pop` (R85). -/
def execBcntPop (w : RForm) (s : State) : Out := runPlain s 0x12 w.guard (bitCount (fun x => popBits 64 x.toNat) w)

/-- `bcnt.clz` (R85). -/
def execBcntClz (w : RForm) (s : State) : Out := runPlain s 0x12 w.guard (bitCount (fun x => clzBits 64 x.toNat) w)

/-- `bcnt.ctz` (R85). -/
def execBcntCtz (w : RForm) (s : State) : Out := runPlain s 0x12 w.guard (bitCount (fun x => ctzBits 64 x.toNat) w)

/-- `addi` (R86): the value of `intresult`, and no flag (log 20). -/
def execAddi (w : IForm) (s : State) : Out :=
  runPlain s 0x13 w.guard fun s =>
    let t : BitVec 5 := (w.fn.extractLsb' 0 4).setWidth 5
    giveInt s 1 w.d ((intResultTy t (w.fn.getLsbD 4) (ival t (readR s w.a) + ival t (immI t w))).1, 0)

/-- `andi` (R86). -/
def execAndi (w : IForm) (s : State) : Out := runPlain s 0x14 w.guard (logOpI (fun a b => a &&& b) w)

/-- `ori` (R86). -/
def execOri (w : IForm) (s : State) : Out := runPlain s 0x14 w.guard (logOpI (fun a b => a ||| b) w)

/-- `xori` (R86). -/
def execXori (w : IForm) (s : State) : Out := runPlain s 0x14 w.guard (logOpI (fun a b => a ^^^ b) w)

/-- `andni` (R86). -/
def execAndni (w : IForm) (s : State) : Out := runPlain s 0x14 w.guard (logOpI andnW w)

/-- `shli` (R86). -/
def execShli (w : IForm) (s : State) : Out := runPlain s 0x15 w.guard (logOpI shlW w)

/-- `shri` (R86). -/
def execShri (w : IForm) (s : State) : Out := runPlain s 0x15 w.guard (logOpI shrW w)

/-- `srai` (R86). -/
def execSrai (w : IForm) (s : State) : Out := runPlain s 0x15 w.guard (logOpI sraW w)

/-- `movi` (R86). -/
def execMovi (w : IForm) (s : State) : Out :=
  runPlain s 0x16 w.guard fun s =>
    .ok (writeR s 1 w.d (moviVal ((w.fn.extractLsb' 0 4).setWidth 5) w.imm))

/-- `movh` (R86). -/
def execMovh (w : IForm) (s : State) : Out :=
  runPlain s 0x17 w.guard fun s =>
    .ok (writeR s 1 w.d (w.imm ++ (readR s w.d).extractLsb' 0 32))

/-- `lea` (R86). -/
def execLea (w : RForm) (s : State) : Out :=
  runPlain s 0x18 w.guard fun s =>
    .ok (writeR s 1 w.d (readR s w.a + opB s w true <<< w.fn.toNat))

/-- `pcrel` (R86): from PC on the CP, from KPC in the S slot. -/
def execPcrel (w : IForm) (s : State) : Out :=
  runPlain s 0x19 w.guard fun s =>
    let base := if s.onCpPlace then s.core.cp.pc else BitVec.ofNat 64 (fld s.core.kern.kpc 0 11)
    .ok (writeR s 1 w.d (base + w.imm.signExtend 64))

/-- `bfx.z` (R86). -/
def execBfxZ (w : IForm) (s : State) : Out :=
  runPlain s 0x2E w.guard fun s =>
    .ok (writeR s 1 w.d (zextW (readR s w.a >>> bfxPos w) (bfxLen w)))

/-- `bfx.s` (R86). -/
def execBfxS (w : IForm) (s : State) : Out :=
  runPlain s 0x2E w.guard fun s =>
    .ok (writeR s 1 w.d (sextW (readR s w.a >>> bfxPos w) (bfxLen w)))

/-- `bfx.i` (R86). -/
def execBfxI (w : IForm) (s : State) : Out :=
  runPlain s 0x2E w.guard fun s =>
    .ok (writeR s 1 w.d (setFld (readR s w.d) (bfxPos w) (bfxLen w) (readR s w.a).toNat))

/-- `cmp` (R87): FN[3:0] the condition, FN[7:6] the combine code. -/
def execCmp (w : RForm) (s : State) : Out :=
  runPlain s 0x1A w.guard fun s =>
    let b := if tyIsInt w.ty then opB s w (tyUnsigned w.ty) else BitVec.ofNat 64 (opBFloat s w)
    let (c, fl) := compareTy w.ty (scalarFlush s) (w.fn.extractLsb' 0 4).toNat (readR s w.a) b
    let old := readP s (r3 w.d)
    let v := match (w.fn.extractLsb' 6 2).toNat with
      | 0 => c
      | 1 => old && c
      | _ => old || c
    do
      let s ← raiseFlags s fl
      .ok (writeP s 1 (r3 w.d) v)

/-- `cmpi` (R87): FN[7:4] the condition, FN[3:0] the type. -/
def execCmpi (w : IForm) (s : State) : Out :=
  runPlain s 0x1B w.guard fun s =>
    let t : BitVec 5 := (w.fn.extractLsb' 0 4).setWidth 5
    let b := if tyIsInt t then immI t w else BitVec.ofNat 64 (fimm (tyFmt t) w.imm.toNat 32)
    let (c, fl) := compareTy t (scalarFlush s) (w.fn.extractLsb' 4 4).toNat (readR s w.a) b
    do
      let s ← raiseFlags s fl
      .ok (writeP s 1 (r3 w.d) c)

/-- `pand` (R88). -/
def execPand (w : RForm) (s : State) : Out := runPlain s 0x1C w.guard (predOp (fun a b => a && b) w)

/-- `por` (R88). -/
def execPor (w : RForm) (s : State) : Out := runPlain s 0x1C w.guard (predOp (fun a b => a || b) w)

/-- `pxor` (R88). -/
def execPxor (w : RForm) (s : State) : Out := runPlain s 0x1C w.guard (predOp (fun a b => a != b) w)

/-- `pandn` (R88). -/
def execPandn (w : RForm) (s : State) : Out := runPlain s 0x1C w.guard (predOp (fun a b => a && !b) w)

/-- `porn` (R88). -/
def execPorn (w : RForm) (s : State) : Out := runPlain s 0x1C w.guard (predOp (fun a b => a || !b) w)

/-- `pmov.get` (R88). -/
def execPmovGet (w : RForm) (s : State) : Out :=
  runPlain s 0x1D w.guard fun s =>
    let p := if s.onCpPlace then s.core.cp.p else s.core.kern.p
    .ok (writeR s 1 w.d ((p ||| 1).setWidth 64))

/-- `pmov.put` (R88). -/
def execPmovPut (w : RForm) (s : State) : Out :=
  runPlain s 0x1D w.guard fun s =>
    .ok (putPreds s (readR s w.a))

/-- `sel` (R88). -/
def execSel (w : RForm) (s : State) : Out :=
  runPlain s 0x1E w.guard fun s =>
    .ok (writeR s 1 w.d (if readP s (r3 w.c) then readR s w.a else opB s w true))

/-- `fadd` (R89). -/
def execFadd (w : RForm) (s : State) : Out := runPlain s 0x1F w.guard (fpOp addV w)

/-- `fsub` (R89). -/
def execFsub (w : RForm) (s : State) : Out := runPlain s 0x20 w.guard (fpOp subV w)

/-- `fmul` (R89). -/
def execFmul (w : RForm) (s : State) : Out := runPlain s 0x21 w.guard (fpOp (fun _ => mulV) w)

/-- `fdiv` (R89); the unit is busy for its latency (R118). -/
def execFdiv (w : RForm) (s : State) : Out :=
  runPlain s 0x22 w.guard fun s =>
    let f := tyFmt w.ty
    let (q, dz) := divV f.p (fArg s w.ty (readR s w.a).toNat) (fArg s w.ty (opBFloat s w))
    let (x, fl) := deliver f w.rm.toNat (scalarFlush s) q
    do
      let s ← giveFloat s (longLat w.ty) w.d (x, fl ||| dz)
      .ok (useUnit s 1 (longLat w.ty))

/-- `fsqrt` (R89). -/
def execFsqrt (w : RForm) (s : State) : Out :=
  runPlain s 0x23 w.guard fun s =>
    let f := tyFmt w.ty
    do
      let s ← giveFloat s (longLat w.ty) w.d
        (deliver f w.rm.toNat (scalarFlush s) (sqrtV f.p (fArg s w.ty (readR s w.a).toNat)))
      .ok (useUnit s 1 (longLat w.ty))

/-- `fma` (R89). -/
def execFma (w : RForm) (s : State) : Out :=
  runPlain s 0x24 w.guard fun s =>
    giveFloat s 4 w.d (deliver (tyFmt w.ty) w.rm.toNat (scalarFlush s)
      (fmaV w.rm.toNat (fArg s w.ty (readR s w.a).toNat) (fArg s w.ty (opBFloat s w))
        (fArg s w.ty (readR s w.c).toNat)))

/-- `fmin` (R90). -/
def execFmin (w : RForm) (s : State) : Out := runPlain s 0x25 w.guard (fMinMax false w)

/-- `fmax` (R90). -/
def execFmax (w : RForm) (s : State) : Out := runPlain s 0x26 w.guard (fMinMax true w)

/-- `fsgn.cpy` (R91). -/
def execFsgnCpy (w : RForm) (s : State) : Out := runPlain s 0x27 w.guard (signOp (fun _ b => b) w)

/-- `fsgn.neg` (R91). -/
def execFsgnNeg (w : RForm) (s : State) : Out := runPlain s 0x27 w.guard (signOp (fun _ b => !b) w)

/-- `fsgn.xor` (R91). -/
def execFsgnXor (w : RForm) (s : State) : Out := runPlain s 0x27 w.guard (signOp (fun a b => a != b) w)

/-- `fclass` (R91). -/
def execFclass (w : RForm) (s : State) : Out :=
  runPlain s 0x28 w.guard fun s =>
    .ok (writeR s 1 w.d (BitVec.twoPow 64 (fclassBit (tyFmt w.ty) (readR s w.a).toNat)))

/-- `cvt` (R92): FN[4:0] is the source type. -/
def execCvt (w : RForm) (s : State) : Out :=
  runPlain s 0x29 w.guard fun s =>
    let (v, fl) := convert (scalarFlush s) (w.fn.extractLsb' 0 5) w.ty w.rm.toNat (w.sat == 1) (readR s w.a)
    do
      let s ← raiseFlags s fl
      .ok (writeR s 3 w.d v)

end Sys2Proof.Machine
end

