-- ==== Sys2Proof/Machine/Vector.lean ====
section
/-! DEFINITION. The vector words 0x40-0x62: lane elements, masks, lane flags, the switch, pack and unpack (R173-R196). -/

namespace Sys2Proof.Machine

/-! ## Elements, masks and lane flags (R173-R178) -/

/-- x.l.j: element j of lane l, of n bits. -/
def vElem (v : VecReg) (n l j : Nat) : Nat := v.toNat / 2 ^ (256 * l + n * j) % 2 ^ n
def mBit (m : MaskReg) (l j : Nat) : Bool := m.getLsbD (64 * l + j)
def readM (s : State) (r : BitVec 3) : MaskReg := s.core.kern.m.get r.toFin

def vSub (w : RForm) : Nat := w.fn.toNat % 16
/-- An element that the mask selects (R178). -/
def vActive (s : State) (w : RForm) (l j : Nat) : Bool := !w.fn.getLsbD 7 || mBit (readM s (w.fn.extractLsb' 4 3)) l j

def laneFlagWord (s : State) (l : Nat) : Word := s.core.kern.lflags.toArray.getD l 0
def laneFz (s : State) (l : Nat) : Bool := bit (laneFlagWord s l) 24
def laneEn (s : State) (l : Nat) : BitVec 7 := (laneFlagWord s l).extractLsb' 16 7

abbrev LaneFlags := Vector (BitVec 7) 16

def laneFlagsOf (f : Nat → Flags) : LaneFlags := Vector.ofFn fun i => f i.val
def LaneFlags.at (fl : LaneFlags) (l : Nat) : Flags := fl.toArray.getD l 0

/-- The trap of enabled lane flags: the lowest flag bit raised and enabled in any lane (R176). -/
def laneTrap (s : State) (fl : LaneFlags) : Option Trap :=
  let hit (l : Nat) : Flags := LaneFlags.at fl l &&& laneEn s l
  (lowestFlag (orFlags ((List.range 16).map hit))).bind fun i =>
    laneFault fun l => if (hit l).getLsbD i then some { cause := flagCause i } else none

/-- The writes of a vector word under its lane flags (R176). -/
def giveLanes (s : State) (lat : Nat) (fl : LaneFlags) (out : List KWrite) : Body :=
  match laneTrap s fl with
  | some t => .error (.trap t s)
  | none =>
    let s := out.foldl (fun s x => pushWrite s lat x) s
    .ok (if (List.range 16).all fun l => LaneFlags.at fl l == 0 then s else pushWrite s lat (.laneFlags fl))

/-- Every element of a register by lane and place: the register and the flags of each lane. -/
def vAll (n nel : Nat) (f : Nat → Nat → Nat × Flags) : VecReg × LaneFlags :=
  let r := (List.range 16).map fun l => (List.range nel).map fun j => f l j
  (BitVec.ofNat 4096 (packBits n (r.flatMap fun x => x.map (·.1 % 2 ^ n))),
   laneFlagsOf fun l => orFlags ((r.getD l []).map (·.2)))

/-- `velem` (R178). -/
def velem (opc : BitVec 8) (lat : Nat) (w : RForm) (s : State) (f : State → Nat → Nat → Nat × Flags) : Out :=
  runPlain s opc w.guard fun s =>
    let n := tyWidth w.ty
    let (x, fl) := vAll n (tyNel w.ty) fun l j =>
      if vActive s w l j then f s l j else (vElem (readV s w.d) n l j, 0)
    giveLanes s lat fl [.v w.d x]

/-! ## Operands (R66, R179) -/

def tyFloat (t : BitVec 5) : Bool := 8 ≤ t.toNat && t.toNat < 12
def tyComplex (t : BitVec 5) : Bool := t == 0x11 || t == 0x12

/-- The immediate as an element of the type (R66). -/
def immElem (s : State) (w : RForm) (logical : Bool) : Nat :=
  let (raw, k) := immSel s.limm w.b
  if tyFloat w.ty && !logical then fimm (tyFmt w.ty) raw k
  else (immInt raw k (logical || tyUnsigned w.ty)).toNat % 2 ^ tyWidth w.ty

def vA (s : State) (w : RForm) (l j : Nat) : Nat := vElem (readV s w.a) (tyWidth w.ty) l j
def vB (s : State) (w : RForm) (l j : Nat) : Nat :=
  if w.l == 1 then immElem s w false else vElem (readV s w.b) (tyWidth w.ty) l j
/-- B of a logical operation. -/
def vBLog (s : State) (w : RForm) (l j : Nat) : Nat :=
  if w.l == 1 then immElem s w true else vElem (readV s w.b) (tyWidth w.ty) l j
def vC (s : State) (w : RForm) (l j : Nat) : Nat := vElem (readV s w.c) (tyWidth w.ty) l j

/-! ## Element functions -/

def elemInt (t : BitVec 5) (x : Nat) : Int := ival t (BitVec.ofNat 64 x)

/-- An integer result element (R41). -/
def intElem (t : BitVec 5) (sat : Bool) (x : Int) : Nat × Flags :=
  let r := intResultTy t sat x
  (intBits (tyWidth t) r.1, r.2)

def fltElem (t : BitVec 5) (rm : Nat) (fz : Bool) (v : FVal) : Nat × Flags := deliver (tyFmt t) rm fz v
def fltArg (t : BitVec 5) (fz : Bool) (x : Nat) : FVal := readFloat (tyFmt t) fz x

def reOf (t : BitVec 5) (x : Nat) : Nat := x % 2 ^ (tyWidth t / 2)
def imOf (t : BitVec 5) (x : Nat) : Nat := x / 2 ^ (tyWidth t / 2)

/-- A pair from its parts. -/
def pairElem (t : BitVec 5) (re im : Nat × Flags) : Nat × Flags := (re.1 + im.1 * 2 ^ (tyWidth t / 2), re.2 ||| im.2)

/-- Sum or difference by type (R180). -/
def addElem (minus : Bool) (w : RForm) (fz : Bool) (a b : Nat) : Nat × Flags :=
  let t := w.ty
  let rm := w.rm.toNat
  let fa (x y : Nat) : Nat × Flags :=
    fltElem t rm fz ((if minus then subV else addV) rm (fltArg t fz x) (fltArg t fz y))
  if tyIsInt t then intElem t (w.sat == 1) (if minus then elemInt t a - elemInt t b else elemInt t a + elemInt t b)
  else if tyComplex t then pairElem t (fa (reOf t a) (reOf t b)) (fa (imOf t a) (imOf t b))
  else fa a b

/-- ±a·b ± c with one rounding (R180). -/
def fmaElem (negP negC : Bool) (w : RForm) (fz : Bool) (a b c : Nat) : Nat × Flags :=
  let t := w.ty
  if tyIsInt t then
    let p := elemInt t a * elemInt t b
    let x := elemInt t c
    intElem t (w.sat == 1) ((if negP then -p else p) + (if negC then -x else x))
  else
    let p := mulV (fltArg t fz a) (fltArg t fz b)
    let x := fltArg t fz c
    fltElem t w.rm.toNat fz (addV w.rm.toNat (if negP then p.neg else p) (if negC then x.neg else x))

/-- Minimum or maximum (R90, R180). -/
def minMaxElem (max num : Bool) (t : BitVec 5) (fz : Bool) (a b : Nat) : Nat × Flags :=
  if tyIsInt t then
    let le := elemInt t a ≤ elemInt t b
    (if le != max then a else b, 0)
  else
    let x := fltArg t fz a
    let y := fltArg t fz b
    let r := deliver (tyFmt t) 0 false (match minMaxV max num x y with
      | .nan _ => .nan false
      | v => v)
    (r.1, flagIf (minMaxNV x y) flNV)

def signBitOf (t : BitVec 5) : Nat := tyWidth t - 1
def withSign (t : BitVec 5) (a : Nat) (sg : Bool) : Nat := a % 2 ^ signBitOf t + sg.toNat * 2 ^ signBitOf t

/-- Rounding to an integral value in RM; `x` raises NX when the value changed (R180). -/
def rintElem (nx : Bool) (w : RForm) (fz : Bool) (a : Nat) : Nat × Flags :=
  match fltArg w.ty fz a with
  | .fin neg m e =>
    let (v, ix) := roundInt w.rm.toNat neg m e
    ((deliver (tyFmt w.ty) 0 false (.fin neg v.natAbs 0)).1, flagIf (nx && ix) flNX)
  | v => deliver (tyFmt w.ty) 0 false v

/-- The signed integer type of an element width. -/
def sameWidthInt (t : BitVec 5) : BitVec 5 := match tyWidth t with
  | 64 => 0
  | 32 => 1
  | 16 => 2
  | _ => 3

/-- a·2^k (R180); a k beyond every exponent range is cut to ±5,000. -/
def scaleElem (w : RForm) (fz : Bool) (a b : Nat) : Nat × Flags :=
  fltElem w.ty w.rm.toNat fz ((fltArg w.ty fz a).scale (clampInt (-5000) 5000 (elemInt (sameWidthInt w.ty) b)))

/-- B of `vscale`: an integer of the element width. -/
def vBScale (s : State) (w : RForm) (l j : Nat) : Nat :=
  if w.l == 1 then
    let (raw, k) := immSel s.limm w.b
    (immInt raw k false).toNat % 2 ^ tyWidth w.ty
  else vElem (readV s w.b) (tyWidth w.ty) l j

def fnElem (sub : Nat) (w : RForm) (fz : Bool) (a b : Nat) : Nat × Flags :=
  vfn sub (tyFmt w.ty) w.rm.toNat fz (fltArg w.ty fz a) (fltArg w.ty fz b)

def plainElem (x : Nat) : Nat × Flags := (x, 0)

/-- A complex product, conjugated or with an addend (R194). -/
def cmulElem (conj add : Bool) (w : RForm) (fz : Bool) (a b c : Nat) : Nat × Flags :=
  let t := w.ty
  let rm := w.rm.toNat
  let g (x : Nat) : FVal := fltArg t fz x
  let ar := g (reOf t a)
  let ai := g (imOf t a)
  let br := g (reOf t b)
  let bi := g (imOf t b)
  let bi := if conj then bi.neg else bi
  let plus (v : FVal) (x : Nat) : FVal := if add then addV rm v (g x) else v
  pairElem t (fltElem t rm fz (plus (subV rm (mulV ar br) (mulV ai bi)) (reOf t c)))
    (fltElem t rm fz (plus (addV rm (mulV ar bi) (mulV ai br)) (imOf t c)))

/-! ## Conversion (R186) -/

def tyNarrow (t : BitVec 5) : Bool := t == 0x0C || t == 0x0D

/-- One converted element. -/
def cvtElem (fz : Bool) (src dst : BitVec 5) (rm : Nat) (sat : Bool) (x : Nat) : Nat × Flags :=
  let exact : FVal := if tyIsInt src then ofInt (elemInt src x) 0 false else decodeFloat (tyFmt src) x
  if tyNarrow dst then narrow (tyFmt dst) rm exact
  else if tyNarrow src then
    if tyIsInt dst then
      let r := floatToInt (tySigned dst) (tyWidth dst) rm exact
      (intBits (tyWidth dst) r.1, r.2)
    else deliver (tyFmt dst) rm fz exact
  else
    let r := convert fz src dst rm sat (BitVec.ofNat 64 x)
    (r.1.toNat % 2 ^ tyWidth dst, r.2)

/-! ## The switch (R131, R132, R189, R190) -/

/-- A lane operand: bits 3:0 of the immediate, or of lane 0 of vB. -/
def laneOperand (s : State) (w : RForm) : Nat :=
  if w.l == 1 then (immSel s.limm w.b).1 % 16 else (readV s w.b).toNat % 16
/-- An element operand: bits 4:0, mod nel. -/
def elemOperand (s : State) (w : RForm) : Nat :=
  (if w.l == 1 then (immSel s.limm w.b).1 % 32 else (readV s w.b).toNat % 32) % tyNel w.ty

/-- One operation of a reduction or scan on element bits. -/
def redOp (w : RForm) (fz : Bool) (a b : Nat) : Nat × Flags :=
  match vSub w % 8 with
  | 0 => addElem false w fz a b
  | 1 => minMaxElem false false w.ty fz a b
  | 2 => minMaxElem true false w.ty fz a b
  | 3 => (a &&& b, 0)
  | 4 => (a ||| b, 0)
  | _ => (a ^^^ b, 0)

/-- The identity of an operation (R190). -/
def redIdentity (w : RForm) : Nat :=
  let t := w.ty
  let n := tyWidth t
  match vSub w % 8 with
  | 0 => if tyIsInt t then 0 else 2 ^ (n - 1)
  | 1 => if tyIsInt t then intBits n (intHi (tySigned t) n) else (tyFmt t).inf.getD 0
  | 2 => if tyIsInt t then intBits n (intLo (tySigned t) n) else (tyFmt t).inf.getD 0 + 2 ^ (n - 1)
  | 3 => 2 ^ n - 1
  | _ => 0

/-- One level of the tree: lane i of each pair takes op(x[i], x[i + k]) and its flags (R131). -/
def treeLevel (op : Nat → Nat → Nat → Nat × Flags) (k : Nat) (x : List (Nat × Flags)) : List (Nat × Flags) :=
  (List.range 16).map fun i =>
    let a := x.getD i (0, 0)
    if i % (2 * k) == 0 then
      let r := op i a.1 (x.getD (i + k) (0, 0)).1
      (r.1, a.2 ||| r.2)
    else a

/-- `lanetree`: the values by lane with the flags each lane has raised; the result stands in lane 0. -/
def laneTree (op : Nat → Nat → Nat → Nat × Flags) (x : List Nat) : List (Nat × Flags) :=
  [1, 2, 4, 8].foldl (fun y k => treeLevel op k y) (x.map fun v => (v, 0))

def scanLevel (op : Nat → Nat → Nat → Nat × Flags) (k : Nat) (x : List (Nat × Flags)) : List (Nat × Flags) :=
  (List.range 16).map fun l =>
    let b := x.getD l (0, 0)
    if l < k then b
    else
      let r := op l (x.getD (l - k) (0, 0)).1 b.1
      (r.1, b.2 ||| r.2)

/-- `lanescan`. -/
def laneScan (op : Nat → Nat → Nat → Nat × Flags) (x : List Nat) : List (Nat × Flags) :=
  [1, 2, 4, 8].foldl (fun y k => scanLevel op k y) (x.map fun v => (v, 0))

/-- Column j of a register: one element of each lane. -/
def column (f : Nat → Nat → Nat) (j : Nat) : List Nat := (List.range 16).map fun l => f l j

/-! ## Rows in registers (R187, R188) -/

/-- The 32 values of a row held by lane l. -/
def rowValues (s : State) (w : RForm) (l : Nat) : List FVal :=
  let nel := tyNel w.ty
  (List.range 32).map fun c =>
    decodeFloat (tyFmt w.ty) (vElem (readV s (w.a + BitVec.ofNat 6 (c / nel))) (tyWidth w.ty) l (c % nel))

/-- The band scale of a lane: vB, or a half of LIMM. -/
def bandBits (s : State) (w : RForm) (l : Nat) : Nat :=
  if w.l == 1 then (immSel s.limm w.b).1 % 2 ^ 16 else vElem (readV s w.b) 256 l 0 % 2 ^ 16

/-- The check of a format code of `vpack` and `vunpack` (R187). -/
def packFmtTrap (s : State) (code : Nat) : Option Trap :=
  if fmtReserved s code then some { cause := .tileHeader }
  else if fmtPackable code then none
  else some { cause := .badMode }

/-- Writes of registers from lane words. -/
def laneWordsReg (f : Nat → Nat) : VecReg := BitVec.ofNat 4096 (packBits 256 ((List.range 16).map fun l => f l % 2 ^ 256))

def packBody (w : RForm) (f : TileFmt) (s : State) : Body :=
  let kf := f.scaling == .kf
  match laneFault fun l => if kf && !bandOk (bandBits s w l) then some { cause := .convertRange } else none with
  | some t => .error (.trap t s)
  | none =>
    let r := (List.range 16).map fun l =>
      encodeRow f w.rm.toNat (decodeFloat fmtBF16 (bandBits s w l)) (rowValues s w l)
    let get (l : Nat) : Nat × Nat × Flags := r.getD l (0, 0, 0)
    giveLanes s 4 (laneFlagsOf fun l => (get l).2.2)
      (.v w.d (laneWordsReg fun l => (get l).1) ::
        (if f.scaling == .plain then [] else [.v (w.d + 1) (laneWordsReg fun l => (get l).2.1)]))

def unpackBody (w : RForm) (f : TileFmt) (s : State) : Body :=
  let kf := f.scaling == .kf
  let lane (r : BitVec 6) (l : Nat) : Nat := vElem (readV s r) 256 l 0
  let scales (l : Nat) : Nat := if f.scaling == .plain then 0 else lane (w.a + 1) l
  match laneFault fun l => if kf && slotsBad (scales l) then some { cause := .tileHeader } else none with
  | some t => .error (.trap t s)
  | none =>
    match laneFault fun l => if kf && !bandFinite (bandBits s w l) then some { cause := .convertRange } else none with
    | some t => .error (.trap t s)
    | none =>
      let r := (List.range 16).map fun l =>
        let (v, sn) := decodeRow f (lane w.a l) (scales l) (decodeFloat fmtBF16 (bandBits s w l))
        (v.map fun x => deliver (tyFmt w.ty) w.rm.toNat false x, flagIf sn flSN)
      let get (l : Nat) : List (Nat × Flags) × Flags := r.getD l ([], 0)
      let nel := tyNel w.ty
      let reg (k : Nat) : VecReg := laneWordsReg fun l =>
        packBits (tyWidth w.ty) ((((get l).1.drop (k * nel)).take nel).map (·.1))
      giveLanes s 4 (laneFlagsOf fun l => (get l).2 ||| orFlags ((get l).1.map (·.2)))
        ((List.range (rowRegs w.ty)).map fun k => .v (w.d + BitVec.ofNat 6 k) (reg k))

/-! ## Dot products (R195) -/

/-- The result type of `vdot`. -/
def dotType (t : BitVec 5) : BitVec 5 := if tyIsInt t then (if tySigned t then 1 else 5) else 9

def dotElem (s : State) (w : RForm) (l j : Nat) : Nat × Flags :=
  let n := tyWidth w.ty
  let g := 32 / n
  let fz := laneFz s l
  let c := vElem (readV s w.c) 32 l j
  let a (i : Nat) : Nat := vElem (readV s w.a) n l (g * j + i)
  let b (i : Nat) : Nat := if w.l == 1 then immElem s w false else vElem (readV s w.b) n l (g * j + i)
  if tyIsInt w.ty then
    intElem (dotType w.ty) (w.sat == 1)
      (elemInt (dotType w.ty) c + ((List.range g).map fun i => elemInt w.ty (a i) * elemInt w.ty (b i)).sum)
  else
    let p (i : Nat) : FVal := mulV (fltArg w.ty fz (a i)) (fltArg w.ty fz (b i))
    fltElem 9 w.rm.toNat fz (addV w.rm.toNat (addV w.rm.toNat (fltArg 9 fz c) (p 0)) (p 1))

/-! ## One meaning for each instruction -/

/-- `vadd` (R180). -/
def execVadd (w : RForm) (s : State) : Out :=
  velem 0x40 (if tyIsInt w.ty then 2 else 4) w s fun s l j => addElem false w (laneFz s l) (vA s w l j) (vB s w l j)

/-- `vsub` (R180). -/
def execVsub (w : RForm) (s : State) : Out :=
  velem 0x41 (if tyIsInt w.ty then 2 else 4) w s fun s l j => addElem true w (laneFz s l) (vA s w l j) (vB s w l j)

/-- `vmul` (R180). -/
def execVmul (w : RForm) (s : State) : Out :=
  velem 0x42 (if tyIsInt w.ty then 2 else 4) w s fun s l j =>
    if tyIsInt w.ty then intElem w.ty (w.sat == 1) (elemInt w.ty (vA s w l j) * elemInt w.ty (vB s w l j))
    else
      fltElem w.ty w.rm.toNat (laneFz s l)
        (mulV (fltArg w.ty (laneFz s l) (vA s w l j)) (fltArg w.ty (laneFz s l) (vB s w l j)))

/-- `vmulh` (R180): without a flag. -/
def execVmulh (w : RForm) (s : State) : Out :=
  velem 0x43 2 w s fun s l j =>
    plainElem (intBits (tyWidth w.ty) (elemInt w.ty (vA s w l j) * elemInt w.ty (vB s w l j) / (2 ^ tyWidth w.ty : Nat)))

/-- `vfma` (R180): a·b + c. -/
def execVfma (w : RForm) (s : State) : Out :=
  velem 0x44 (if tyIsInt w.ty then 2 else 4) w s fun s l j => fmaElem false false w (laneFz s l) (vA s w l j) (vB s w l j) (vC s w l j)

/-- `vfms` (R180): a·b − c. -/
def execVfms (w : RForm) (s : State) : Out :=
  velem 0x44 (if tyIsInt w.ty then 2 else 4) w s fun s l j => fmaElem false true w (laneFz s l) (vA s w l j) (vB s w l j) (vC s w l j)

/-- `vfnma` (R180): −a·b + c. -/
def execVfnma (w : RForm) (s : State) : Out :=
  velem 0x44 (if tyIsInt w.ty then 2 else 4) w s fun s l j => fmaElem true false w (laneFz s l) (vA s w l j) (vB s w l j) (vC s w l j)

/-- `vfnms` (R180): −a·b − c. -/
def execVfnms (w : RForm) (s : State) : Out :=
  velem 0x44 (if tyIsInt w.ty then 2 else 4) w s fun s l j => fmaElem true true w (laneFz s l) (vA s w l j) (vB s w l j) (vC s w l j)

/-- `vmin` and `vmin.num` (R180). -/
def execVmin (w : RForm) (s : State) : Out :=
  velem 0x45 (if tyIsInt w.ty then 2 else 4) w s fun s l j =>
    minMaxElem false (vSub w == 1) w.ty (laneFz s l) (vA s w l j) (vB s w l j)

/-- `vmax` and `vmax.num` (R180). -/
def execVmax (w : RForm) (s : State) : Out :=
  velem 0x46 (if tyIsInt w.ty then 2 else 4) w s fun s l j =>
    minMaxElem true (vSub w == 1) w.ty (laneFz s l) (vA s w l j) (vB s w l j)

/-- `vabs` (R180). -/
def execVabs (w : RForm) (s : State) : Out :=
  velem 0x47 2 w s fun s l j =>
    if tyIsInt w.ty then intElem w.ty (w.sat == 1) (elemInt w.ty (vA s w l j)).natAbs
    else plainElem (withSign w.ty (vA s w l j) false)

/-- `vneg` (R180). -/
def execVneg (w : RForm) (s : State) : Out :=
  velem 0x47 2 w s fun s l j =>
    if tyIsInt w.ty then intElem w.ty (w.sat == 1) (-(elemInt w.ty (vA s w l j)))
    else plainElem (withSign w.ty (vA s w l j) (!(vA s w l j).testBit (signBitOf w.ty)))

/-- `vclamp` (R180): vmin(vmax(a, b), c). -/
def execVclamp (w : RForm) (s : State) : Out :=
  velem 0x5D (if tyIsInt w.ty then 2 else 4) w s fun s l j =>
    let hi := minMaxElem true false w.ty (laneFz s l) (vA s w l j) (vB s w l j)
    let r := minMaxElem false false w.ty (laneFz s l) hi.1 (vC s w l j)
    (r.1, hi.2 ||| r.2)

/-- `vsgn.cpy` (R180). -/
def execVsgnCpy (w : RForm) (s : State) : Out :=
  velem 0x5E 2 w s fun s l j =>
    let _a := (vA s w l j).testBit (signBitOf w.ty)
    let b := (vB s w l j).testBit (signBitOf w.ty)
    plainElem (withSign w.ty (vA s w l j) (b))

/-- `vsgn.neg` (R180). -/
def execVsgnNeg (w : RForm) (s : State) : Out :=
  velem 0x5E 2 w s fun s l j =>
    let _a := (vA s w l j).testBit (signBitOf w.ty)
    let b := (vB s w l j).testBit (signBitOf w.ty)
    plainElem (withSign w.ty (vA s w l j) (!b))

/-- `vsgn.xor` (R180). -/
def execVsgnXor (w : RForm) (s : State) : Out :=
  velem 0x5E 2 w s fun s l j =>
    let a := (vA s w l j).testBit (signBitOf w.ty)
    let b := (vB s w l j).testBit (signBitOf w.ty)
    plainElem (withSign w.ty (vA s w l j) (a != b))

/-- `vrint` (R180). -/
def execVrint (w : RForm) (s : State) : Out :=
  velem 0x61 4 w s fun s l j => rintElem false w (laneFz s l) (vA s w l j)

/-- `vrint.x` (R180). -/
def execVrintX (w : RForm) (s : State) : Out :=
  velem 0x61 4 w s fun s l j => rintElem true w (laneFz s l) (vA s w l j)

/-- `vscale` (R180). -/
def execVscale (w : RForm) (s : State) : Out :=
  velem 0x62 4 w s fun s l j => scaleElem w (laneFz s l) (vA s w l j) (vBScale s w l j)

/-- `vfn.div` (R181). -/
def execVfnDiv (w : RForm) (s : State) : Out :=
  velem 0x48 12 w s fun s l j => fnElem 0 w (laneFz s l) (vA s w l j) (vB s w l j)

/-- `vfn.sqrt` (R181). -/
def execVfnSqrt (w : RForm) (s : State) : Out :=
  velem 0x48 12 w s fun s l j => fnElem 1 w (laneFz s l) (vA s w l j) 0

/-- `vfn.rsqrt` (R181). -/
def execVfnRsqrt (w : RForm) (s : State) : Out :=
  velem 0x48 12 w s fun s l j => fnElem 2 w (laneFz s l) (vA s w l j) 0

/-- `vfn.recip` (R181). -/
def execVfnRecip (w : RForm) (s : State) : Out :=
  velem 0x48 12 w s fun s l j => fnElem 3 w (laneFz s l) (vA s w l j) 0

/-- `vfn.exp` (R181). -/
def execVfnExp (w : RForm) (s : State) : Out :=
  velem 0x48 12 w s fun s l j => fnElem 4 w (laneFz s l) (vA s w l j) 0

/-- `vfn.exp2` (R181). -/
def execVfnExp2 (w : RForm) (s : State) : Out :=
  velem 0x48 12 w s fun s l j => fnElem 5 w (laneFz s l) (vA s w l j) 0

/-- `vfn.log` (R181). -/
def execVfnLog (w : RForm) (s : State) : Out :=
  velem 0x48 12 w s fun s l j => fnElem 6 w (laneFz s l) (vA s w l j) 0

/-- `vfn.log2` (R181). -/
def execVfnLog2 (w : RForm) (s : State) : Out :=
  velem 0x48 12 w s fun s l j => fnElem 7 w (laneFz s l) (vA s w l j) 0

/-- `vfn.tanh` (R181). -/
def execVfnTanh (w : RForm) (s : State) : Out :=
  velem 0x48 12 w s fun s l j => fnElem 8 w (laneFz s l) (vA s w l j) 0

/-- `vfn.logistic` (R181). -/
def execVfnLogistic (w : RForm) (s : State) : Out :=
  velem 0x48 12 w s fun s l j => fnElem 9 w (laneFz s l) (vA s w l j) 0

/-- `vfn.sinpi` (R181). -/
def execVfnSinpi (w : RForm) (s : State) : Out :=
  velem 0x48 12 w s fun s l j => fnElem 10 w (laneFz s l) (vA s w l j) 0

/-- `vfn.cospi` (R181). -/
def execVfnCospi (w : RForm) (s : State) : Out :=
  velem 0x48 12 w s fun s l j => fnElem 11 w (laneFz s l) (vA s w l j) 0

/-- `vlog.and` (R182). -/
def execVlogAnd (w : RForm) (s : State) : Out :=
  velem 0x49 2 w s fun s l j => plainElem (vA s w l j &&& vBLog s w l j)

/-- `vlog.or` (R182). -/
def execVlogOr (w : RForm) (s : State) : Out :=
  velem 0x49 2 w s fun s l j => plainElem (vA s w l j ||| vBLog s w l j)

/-- `vlog.xor` (R182). -/
def execVlogXor (w : RForm) (s : State) : Out :=
  velem 0x49 2 w s fun s l j => plainElem (vA s w l j ^^^ vBLog s w l j)

/-- `vlog.andn` (R182). -/
def execVlogAndn (w : RForm) (s : State) : Out :=
  velem 0x49 2 w s fun s l j => plainElem (vA s w l j &&& (2 ^ tyWidth w.ty - 1 - vBLog s w l j))

/-- `vlog.not` (R182). -/
def execVlogNot (w : RForm) (s : State) : Out :=
  velem 0x49 2 w s fun s l j => plainElem (2 ^ tyWidth w.ty - 1 - vA s w l j)

/-- `vsh.shl` (R182). -/
def execVshShl (w : RForm) (s : State) : Out :=
  velem 0x4A 2 w s fun s l j =>
    plainElem (vA s w l j * 2 ^ (vBLog s w l j % tyWidth w.ty) % 2 ^ tyWidth w.ty)

/-- `vsh.shr` (R182). -/
def execVshShr (w : RForm) (s : State) : Out :=
  velem 0x4A 2 w s fun s l j => plainElem (vA s w l j / 2 ^ (vBLog s w l j % tyWidth w.ty))

/-- `vsh.sra` (R182). -/
def execVshSra (w : RForm) (s : State) : Out :=
  velem 0x4A 2 w s fun s l j =>
    plainElem (intBits (tyWidth w.ty)
      (ivalW true (tyWidth w.ty) (BitVec.ofNat 64 (vA s w l j)) / (2 ^ (vBLog s w l j % tyWidth w.ty) : Nat)))

/-- `vbcnt.pop` (R182). -/
def execVbcntPop (w : RForm) (s : State) : Out :=
  velem 0x5F 2 w s fun s l j => plainElem (popBits (tyWidth w.ty) (vA s w l j))

/-- `vbcnt.clz` (R182). -/
def execVbcntClz (w : RForm) (s : State) : Out :=
  velem 0x5F 2 w s fun s l j => plainElem (clzBits (tyWidth w.ty) (vA s w l j))

/-- `vbcnt.ctz` (R182). -/
def execVbcntCtz (w : RForm) (s : State) : Out :=
  velem 0x5F 2 w s fun s l j => plainElem (ctzBits (tyWidth w.ty) (vA s w l j))

/-- `vcmp` (R183). -/
def execVcmp (w : RForm) (s : State) : Out :=
  runPlain s 0x4B w.guard fun s =>
    let nel := tyNel w.ty
    let old := readM s (r3 w.d)
    let r := (List.range 16).map fun l => (List.range nel).map fun j =>
      if vActive s w l j then
        compareTy w.ty (laneFz s l) (vSub w) (BitVec.ofNat 64 (vA s w l j)) (BitVec.ofNat 64 (vB s w l j))
      else (mBit old l j, 0)
    let bits := packBits 64 (r.map fun x => packBits 1 (x.map fun y => y.1.toNat))
    giveLanes s (if tyIsInt w.ty then 2 else 4) (laneFlagsOf fun l => orFlags ((r.getD l []).map (·.2))) [.m (r3 w.d) (BitVec.ofNat 1024 bits)]

/-- `vsel` (R184). -/
def execVsel (w : RForm) (s : State) : Out :=
  runPlain s 0x4C w.guard fun s =>
    let m := readM s (r3 w.c)
    let (x, fl) := vAll (tyWidth w.ty) (tyNel w.ty) fun l j => plainElem (if mBit m l j then vA s w l j else vB s w l j)
    giveLanes s 2 fl [.v w.d x]

/-- A mask operation (R185). -/
def maskOp (f : State → MaskReg) (w : RForm) (s : State) : Out :=
  runPlain s 0x4D w.guard fun s => .ok (pushWrite s 2 (.m (r3 w.d) (f s)))

def maskA (s : State) (w : RForm) : MaskReg := readM s (r3 w.a)
def maskB (s : State) (w : RForm) : MaskReg := readM s (r3 w.b)

/-- `mlog.and` (R185). -/
def execMlogAnd (w : RForm) (s : State) : Out :=
  maskOp (fun s => maskA s w &&& maskB s w) w s

/-- `mlog.or` (R185). -/
def execMlogOr (w : RForm) (s : State) : Out :=
  maskOp (fun s => maskA s w ||| maskB s w) w s

/-- `mlog.xor` (R185). -/
def execMlogXor (w : RForm) (s : State) : Out :=
  maskOp (fun s => maskA s w ^^^ maskB s w) w s

/-- `mlog.andn` (R185). -/
def execMlogAndn (w : RForm) (s : State) : Out :=
  maskOp (fun s => maskA s w &&& ~~~(maskB s w)) w s

/-- `mlog.not` (R185). -/
def execMlogNot (w : RForm) (s : State) : Out :=
  maskOp (fun s => ~~~(maskA s w)) w s

/-- `mlog.set` (R185). -/
def execMlogSet (w : RForm) (s : State) : Out :=
  maskOp (fun _ => BitVec.ofNat 1024 (packBits 64 (List.replicate 16 (2 ^ tyNel w.ty - 1)))) w s

/-- `mlog.clr` (R185). -/
def execMlogClr (w : RForm) (s : State) : Out :=
  maskOp (fun _ => 0) w s

/-- Mask bits of the elements of a type, lane by lane. -/
def maskBits (s : State) (w : RForm) : List Bool :=
  (List.range 16).flatMap fun l => (List.range (tyNel w.ty)).map fun j => mBit (maskA s w) l j

/-- `mpop.cnt` (R185). -/
def execMpopCnt (w : RForm) (s : State) : Out :=
  runPlain s 0x4E w.guard fun s => .ok (writeR s 8 w.d (BitVec.ofNat 64 ((maskBits s w).count true)))

/-- `mpop.first` (R185). -/
def execMpopFirst (w : RForm) (s : State) : Out :=
  runPlain s 0x4E w.guard fun s =>
    let b := maskBits s w
    let i := b.findIdx id
    .ok (writeR s 8 w.d (if i < b.length then BitVec.ofNat 64 i else ~~~0))

/-- `vcvt` (R186). -/
def execVcvt (w : RForm) (s : State) : Out :=
  runPlain s 0x4F w.guard fun s =>
    let src := w.c.setWidth 5
    let q := w.fn.toNat % 4
    let ns := tyNel src
    let nd := tyNel w.ty
    let e := Nat.min ns nd
    let from' (j : Nat) : Option Nat :=
      if ns > nd then some (q * e + j) else if q * e ≤ j && j < q * e + e then some (j - q * e) else none
    let (x, fl) := vAll (tyWidth w.ty) nd fun l j =>
      match from' j with
      | some i =>
        if vActive s w l j then
          cvtElem (laneFz s l) src w.ty w.rm.toNat (w.sat == 1) (vElem (readV s w.a) (tyWidth src) l i)
        else plainElem (vElem (readV s w.d) (tyWidth w.ty) l j)
      | none => plainElem (vElem (readV s w.d) (tyWidth w.ty) l j)
    giveLanes s 4 fl [.v w.d x]

/-- `vpack` (R187). -/
def execVpack (w : RForm) (s : State) : Out :=
  runPlain s 0x50 w.guard fun s =>
    match packFmtTrap s w.c.toNat, tileFmt w.c.toNat with
    | some t, _ => .error (.trap t s)
    | none, some f => packBody w f s
    | none, none => .error (.trap { cause := .tileHeader } s)

/-- `vunpack` (R188). -/
def execVunpack (w : RForm) (s : State) : Out :=
  runPlain s 0x51 w.guard fun s =>
    match packFmtTrap s w.c.toNat, tileFmt w.c.toNat with
    | some t, _ => .error (.trap t s)
    | none, some f => unpackBody w f s
    | none, none => .error (.trap { cause := .tileHeader } s)

/-- `vperm.idx` (R189). -/
def execVpermIdx (w : RForm) (s : State) : Out :=
  velem 0x52 3 w s fun s l j =>
    plainElem (vElem (readV s w.a) (tyWidth w.ty) (vElem (readV s w.b) 256 l 0 % 16) j)

/-- `vperm.rot` (R189). -/
def execVpermRot (w : RForm) (s : State) : Out :=
  velem 0x52 3 w s fun s l j => plainElem (vElem (readV s w.a) (tyWidth w.ty) ((l + laneOperand s w) % 16) j)

/-- `vperm.xor` (R189). -/
def execVpermXor (w : RForm) (s : State) : Out :=
  velem 0x52 3 w s fun s l j => plainElem (vElem (readV s w.a) (tyWidth w.ty) (l ^^^ laneOperand s w) j)

/-- `vbcast.lane` (R189). -/
def execVbcastLane (w : RForm) (s : State) : Out :=
  velem 0x53 3 w s fun s _ j => plainElem (vElem (readV s w.a) (tyWidth w.ty) (laneOperand s w) j)

/-- `vbcast.elem` (R189). -/
def execVbcastElem (w : RForm) (s : State) : Out :=
  velem 0x53 3 w s fun s l _ => plainElem (vElem (readV s w.a) (tyWidth w.ty) l (elemOperand s w))

/-- `vshuf` (R189). -/
def execVshuf (w : RForm) (s : State) : Out :=
  velem 0x54 2 w s fun s l j =>
    plainElem (vElem (readV s w.a) (tyWidth w.ty) l (vElem (readV s w.b) (tyWidth w.ty) l j % tyNel w.ty))

/-- Results of a reduction or scan by column: `pick` takes element l of column j from the lanes' values. -/
def switchBody (lat : Nat) (cols : State → Nat → List (Nat × Flags)) (pick : List (Nat × Flags) → Nat → Nat) (w : RForm)
    (s : State) : Body :=
  let r := (List.range (tyNel w.ty)).map fun j => cols s j
  let col (j : Nat) : List (Nat × Flags) := r.getD j []
  let (x, _) := vAll (tyWidth w.ty) (tyNel w.ty) fun l j => plainElem (pick (col j) l)
  giveLanes s lat (laneFlagsOf fun l => orFlags (r.map fun c => (c.getD l (0, 0)).2)) [.v w.d x]

/-- `vred` (R131, R190): an inactive element contributes the identity. -/
def execVred (w : RForm) (s : State) : Out :=
  runPlain s 0x55 w.guard
    (switchBody 8 (fun s j => laneTree (fun l => redOp w (laneFz s l))
        (column (fun l j => if vActive s w l j then vA s w l j else redIdentity w) j))
      (fun c _ => (c.getD 0 (0, 0)).1) w)

/-- `vscan` (R132, R190): inclusive, or exclusive with the identity in lane 0. -/
def execVscan (w : RForm) (s : State) : Out :=
  runPlain s 0x56 w.guard
    (switchBody 10 (fun s j => laneScan (fun l => redOp w (laneFz s l)) (column (vA s w) j))
      (fun c l =>
        if vSub w ≥ 8 then (if l == 0 then redIdentity w else (c.getD (l - 1) (0, 0)).1) else (c.getD l (0, 0)).1) w)

/-- `vidx` (R191). -/
def execVidx (w : RForm) (s : State) : Out :=
  velem 0x57 2 w s fun _ l _ => plainElem ((l) % 2 ^ tyWidth w.ty)

/-- `vidx.elem` (R191). -/
def execVidxElem (w : RForm) (s : State) : Out :=
  velem 0x57 2 w s fun _ _ j => plainElem ((j) % 2 ^ tyWidth w.ty)

/-- `vidx.flat` (R191). -/
def execVidxFlat (w : RForm) (s : State) : Out :=
  velem 0x57 2 w s fun _ l j => plainElem ((l * tyNel w.ty + j) % 2 ^ tyWidth w.ty)

/-- `vmovk` (R192). -/
def execVmovk (w : RForm) (s : State) : Out :=
  velem 0x58 2 w s fun s _ _ => plainElem ((readR s w.a).toNat % 2 ^ tyWidth w.ty)

/-- `vext` (R192). -/
def execVext (w : RForm) (s : State) : Out :=
  runPlain s 0x59 w.guard fun s =>
    let x := vElem (readV s w.a) (tyWidth w.ty) (w.c.toNat % 16) w.b.toNat
    .ok (writeR s 2 w.d (if tyIsInt w.ty then intWord (elemInt w.ty x) else BitVec.ofNat 64 x))

/-- One element replaced. -/
def setPart (x : VecReg) (lo width v : Nat) : VecReg :=
  let hole := BitVec.ofNat 4096 ((2 ^ width - 1) * 2 ^ lo)
  (x &&& ~~~hole) ||| (BitVec.ofNat 4096 (v * 2 ^ lo) &&& hole)

/-- `vins` (R192): the other elements are those that vD holds at issue (R116). -/
def execVins (w : RForm) (s : State) : Out :=
  runPlain s 0x5A w.guard fun s =>
    let n := tyWidth w.ty
    .ok (pushWrite s 2 (.v w.d
      (setPart (readV s w.d) (256 * (w.c.toNat % 16) + n * w.b.toNat) n (readR s w.a).toNat)))

/-- `vflag.rd` (R193). -/
def execVflagRd (w : RForm) (s : State) : Out :=
  runPlain s 0x5B w.guard fun s =>
    .ok (pushWrite s 2 (.v w.d (laneWordsReg fun l => (laneFlagWord s l).toNat)))

/-- `vflag.wr` (R193): reserved bits are ignored. -/
def execVflagWr (w : RForm) (s : State) : Out :=
  runPlain s 0x5B w.guard fun s =>
    .ok (pushWrite s 2 (.laneWords (Vector.ofFn fun l =>
      BitVec.ofNat 64 (vElem (readV s w.a) 256 l.val 0) &&& 0x17F007F)))

/-- `vflag.clr` (R193). -/
def execVflagClr (w : RForm) (s : State) : Out :=
  runPlain s 0x5B w.guard fun s => .ok (pushWrite s 2 .laneClear)

/-- `vcmul` (R194). -/
def execVcmul (w : RForm) (s : State) : Out :=
  velem 0x5C 4 w s fun s l j => cmulElem false false w (laneFz s l) (vA s w l j) (vB s w l j) (vC s w l j)

/-- `vcmul.conj` (R194). -/
def execVcmulConj (w : RForm) (s : State) : Out :=
  velem 0x5C 4 w s fun s l j => cmulElem true false w (laneFz s l) (vA s w l j) (vB s w l j) (vC s w l j)

/-- `vcmul.fma` (R194). -/
def execVcmulFma (w : RForm) (s : State) : Out :=
  velem 0x5C 4 w s fun s l j => cmulElem false true w (laneFz s l) (vA s w l j) (vB s w l j) (vC s w l j)

/-- `vcmul.fmac` (R194). -/
def execVcmulFmac (w : RForm) (s : State) : Out :=
  velem 0x5C 4 w s fun s l j => cmulElem true true w (laneFz s l) (vA s w l j) (vB s w l j) (vC s w l j)

/-- `vdot` (R195). -/
def execVdot (w : RForm) (s : State) : Out :=
  runPlain s 0x60 w.guard fun s =>
    let (x, fl) := vAll 32 8 fun l j => if vActive s w l j then dotElem s w l j else plainElem (vElem (readV s w.d) 32 l j)
    giveLanes s (if tyIsInt w.ty then 2 else 4) fl [.v w.d x]

end Sys2Proof.Machine
end

