-- ==== Sys2Proof/Machine/Matrix.lean ====
section
/-! DEFINITION. The tile multiplier: latches, fills, passes, the accumulator step, and the accumulator words
(R167-R171, R197-R219). -/

namespace Sys2Proof.Machine

/-! ## The accumulator step (R169) -/

/-- What a step does to an element. -/
inductive AccOp where
  | add
  | max
  | min
  /-- Replace on the elements that the step names (R215). -/
  | replace
  deriving DecidableEq, Repr

def accApply (op : AccOp) (v p : FVal) : FVal :=
  match op with
  | .add => addV 0 v p
  | .max => minMaxV true false v p
  | .min => minMaxV false false v p
  | .replace => p

/-- A candidate: a marker, or a finite integer. -/
inductive Cand where
  | marker (m : Int)
  | fin (m : Int)
  deriving DecidableEq, Repr

/-- rne(x / 2^sh) of an integer. -/
def rneShift (x : Int) (sh : Nat) : Int := sInt (x < 0) (roundShift 0 (x < 0) x.natAbs false sh).1

def candOf (ae : Option Int) (u : FVal) : Cand :=
  match u with
  | .nan _ => .marker markNaN
  | .inf neg => .marker (if neg then markNegInf else markPosInf)
  | .fin neg m e =>
    match ae with
    | none => .fin 0
    | some a => .fin (sInt neg (roundShift 0 neg m false (a - e)).1)
  | .near _ _ _ => .fin 0

def Cand.big : Cand → Bool
  | .marker _ => false
  | .fin m => m.natAbs ≥ 2 ^ 46

def Cand.val : Cand → Int
  | .marker m => m
  | .fin m => m

def isMarker (m : Int) : Bool := m == markPosInf || m == markNegInf || m == markNaN

/-- Contributions of a step by element: `none` leaves the element as it is. -/
abbrev Contrib := List (Option FVal)

def candidates (op : AccOp) (ae : Option Int) (m : List Int) (p : Contrib) : List Cand :=
  List.zipWith (fun m p => match p with
    | none => if isMarker m then .marker m else .fin m
    | some x => candOf ae (accApply op (accValue ae m) x)) m p

/-- The repeat loop: renormalises by 256 until every finite candidate fits; `none` is ACC_EXPONENT (R171). -/
def accLoop (op : AccOp) (p : Contrib) : Nat → AccLane → Option AccLane
  | 0, _ => none
  | n + 1, t =>
    let c := candidates op t.ae t.m p
    if c.any Cand.big then
      match t.ae with
      | none => none
      | some e =>
        if e + 8 > 511 then none
        else accLoop op p n { t with ae := some (e + 8), m := t.m.map fun m => if isMarker m then m else rneShift m 8 }
    else some { t with m := c.map Cand.val }

/-- The exponent that the first nonzero finite contribution sets. -/
def firstExp (ae : Option Int) (p : Contrib) : Option Int :=
  match ae with
  | some e => some e
  | none =>
    let a := largest (p.filterMap id)
    if a.isZero then none else some (max (floorLog2 a - 44) (-512))

/-- `accstep`: the new tile, or `none` on ACC_EXPONENT, and whether NV is raised. -/
def accStep (op : AccOp) (p : Contrib) (t : AccLane) : Option AccLane × Bool :=
  let nv := (List.zipWith (fun m p => match p with
    | none => false
    | some x => x.nv || (op != .replace && (accApply op (accValue t.ae m) x).nv)) t.m p).any id
  (accLoop op p 200 { t with ae := firstExp t.ae p }, nv)

/-! ## Latch classes and elements (R198-R200) -/

/-- K and P of a latch format; `none` for a format that no latch holds. -/
def latchKP (code : Nat) : Option (Nat × Nat) :=
  match tileFmt code with
  | none => none
  | some f =>
    if code == 0x28 then some (32, 1)
    else if f.cplx || f.w > 16 then none
    else if f.w == 16 then some (32, 1)
    else if f.w == 4 then some (128, 4)
    else some (64, 2)

/-- Class of a format: 0 16-bit, 1 8-bit, 2 4-bit, 3 complex. -/
def latchClass (code : Nat) : Option Nat :=
  (latchKP code).map fun x => if code == 0x28 then 3 else if x.1 == 32 then 0 else if x.1 == 64 then 1 else 2

/-- Bits of one of `n` parts of the payload. -/
def partBits (n : Nat) : Nat := 16384 / n

/-- Part `p` of a latch that holds `n` parts. -/
def LatchLane.part (q : LatchLane) (n p : Nat) : LatchPart :=
  ⟨BitVec.ofNat 16384 (q.payload.toNat / 2 ^ (partBits n * p) % 2 ^ partBits n), q.scales.toArray.getD p LatchScale.reset⟩

/-- Part `p` of `n` replaced; the other bytes stay as they are (R203). -/
def LatchLane.setPart (n : Nat) (q : LatchLane) (p : Nat) (x : LatchPart) : LatchLane :=
  let hole := BitVec.ofNat 16384 ((2 ^ partBits n - 1) * 2 ^ (partBits n * p))
  { q with
    payload := (q.payload &&& ~~~hole) ||| (BitVec.ofNat 16384 (x.payload.toNat * 2 ^ (partBits n * p)) &&& hole)
    scales := q.scales.setIfInBounds p x.side }

/-- Place c of row r of a part, with the band scale of issue: the value and whether its scale is NaN (R159-R164). -/
def latchElem (f : TileFmt) (p : LatchPart) (band r c : Nat) : FVal × Bool :=
  let v := f.elem.decode (p.payload.toNat / 2 ^ (8 * f.rowBytes * r + f.w * c) % 2 ^ f.w)
  match f.scaling with
  | .plain => (v, false)
  | .mx =>
    let sc := p.side.scale.toNat / 2 ^ (8 * r) % 256
    if sc == 255 then (.nan false, true) else (v.scale ((sc : Int) - 127), false)
  | .kf =>
    let g := p.side.scale.toNat / 2 ^ (64 * r + 16 * (c / 8)) % 2 ^ 9
    if g == 0x1FF then (.nan false, true) else (mulV (mulV v (e4m5 g)) (decodeFloat fmtBF16 band), false)

/-- What a step reads of a latch: 32 places along a column or a row. -/
abbrev StepOperand := List (FVal × Bool)

/-- A[·][k] of a real class: column k mod 32 of part k div 32, of n (R199). -/
def columnOf (f : TileFmt) (n : Nat) (q : LatchLane) (band : Nat → Nat) (k : Nat) : StepOperand :=
  (List.range 32).map fun i => latchElem f (q.part n (k / 32)) (band (k / 32)) i (k % 32)

/-- B[k][·] of a real class, and row k of either latch of the complex class. -/
def rowOf (f : TileFmt) (n : Nat) (q : LatchLane) (band : Nat → Nat) (k : Nat) : StepOperand :=
  (List.range 32).map fun j => latchElem f (q.part n (k / 32)) (band (k / 32)) (k % 32) j

def opAt (x : StepOperand) (i : Nat) : FVal := (x.getD i (.fin false 0 0, false)).1

/-! ## The pass (R206-R210) -/

def absV (v : FVal) : FVal := match v with
  | .nan b => .nan b
  | .inf _ => .inf false
  | .fin _ m e => .fin false m e
  | .near _ m e => .near false m e

/-- Contribution of a real cell operation. -/
def realCell (o : Nat) (a b : FVal) : FVal :=
  match o with
  | 0 => mulV a b
  | 1 => absV (subV 0 a b)
  | _ => addV 0 a b

def cellAccOp (o : Nat) : AccOp := match o with
  | 2 => .max
  | 3 => .min
  | _ => .add

/-- `cellval` of a step for every element (R208). -/
def cellValues (o : Nat) (half pairMode : Bool) (a b : StepOperand) : Contrib :=
  (List.range 1024).map fun e =>
    let r := e / 32
    let c := e % 32
    if o != 4 then some (realCell o (opAt a r) (opAt b c))
    else if (r / 16 == 1) != half then some (.fin false 0 0)
    else
      let i := r % 16
      let j := c / 2
      let xr := opAt a (2 * i)
      let xi := opAt a (2 * i + 1)
      let yr := opAt b (2 * j)
      let yi := opAt b (2 * j + 1)
      some (if pairMode then (if c % 2 == 0 then mulV xr yr else mulV xi yi)
        else if c % 2 == 0 then subV 0 (mulV xr yr) (mulV xi yi)
        else addV 0 (mulV xr yi) (mulV xi yr))

/-- The latest content at or before a time; the first of the list is the content at issue. -/
def contentAt {α : Type} (d : α) (l : List (Nat × α)) (t : Nat) : α :=
  l.foldl (fun x y => if y.1 ≤ t then y.2 else x) ((l.head?.map (·.2)).getD d)

/-- One lane's pass in progress: the tile, the flags, and the failing step. -/
structure LanePass where
  tile : AccLane
  flags : Flags
  failed : Option Nat
  deriving DecidableEq, Repr

def emptyLatches : Vector LatchLane 16 := Vector.replicate 16 LatchLane.reset
def emptyAcc : Vector AccLane 16 := Vector.replicate 16 AccLane.reset

/-- The operation of step k (R206). -/
def stepOp (p : Pass) (k : Nat) : Nat := if p.op == 5 then p.limm.toNat / 2 ^ (2 * (k % 16)) % 4 else p.op.toNat

/-- The pass of one lane (R208, R209). -/
def lanePass (p : Pass) (l : Fin 16) : LanePass :=
  let a0 := (contentAt emptyLatches (p.a.take 1) 0).get l
  let b0 := (contentAt emptyLatches (p.b.take 1) 0).get l
  let t := (contentAt emptyAcc p.acc (p.issue + 8)).get l
  match tileFmt a0.fmt.toNat, tileFmt b0.fmt.toNat, latchKP a0.fmt.toNat with
  | some fa, some fb, some (kk, n) =>
    let band (q : LatchLane) (i : Nat) : Nat := (q.scales.toArray.getD i LatchScale.reset).band.toNat
    let step (x : LanePass) (k : Nat) : LanePass :=
      if x.failed.isSome then x
      else
        let now := p.issue + 32 * k / kk
        let a := (contentAt emptyLatches p.a now).get l
        let b := (contentAt emptyLatches p.b now).get l
        let sa := if p.op == 4 then rowOf fa n a (band a0) k else columnOf fa n a (band a0) k
        let sb := rowOf fb n b (band b0) k
        let sn := sa.any (·.2) || sb.any (·.2)
        let o := stepOp p k
        let (r, nv) := accStep (cellAccOp o) (cellValues o p.half (l.val == 0 && a0.packed) sa sb) x.tile
        match r with
        | none => { x with flags := x.flags ||| flagIf sn flSN ||| flagIf nv flNV, failed := some k }
        | some t' => { x with tile := t', flags := x.flags ||| flagIf sn flSN ||| flagIf nv flNV }
    let x := (List.range kk).foldl step ⟨t, 0, none⟩
    { x with tile := { x.tile with
        domain := p.op == 4, packed := p.op == 4 && a0.packed, scaled := p.op == 4 && (a0.scaled || b0.scaled) } }
  | _, _, _ => ⟨t, 0, none⟩

/-- The outcome of a pass: the accumulator and flags to write, if any, and its matrix fault (R210). -/
def passResult (p : Pass) : Option (Vector AccLane 16 × LaneFlags) × Option Trap :=
  let r := Vector.ofFn fun l => lanePass p l
  let acc := r.map (·.tile)
  let fl : LaneFlags := r.map (·.flags)
  let lane (l : Nat) : LanePass := r.toArray.getD l ⟨AccLane.reset, 0, none⟩
  match laneFault fun l => if (lane l).failed.isSome then some { cause := .accExponent } else none with
  | some t =>
    let first := (List.range 16).foldl (fun m l => match (lane l).failed with
      | some k => Nat.min m k
      | none => m) 127
    (some (acc, fl), some { t with detail := BitVec.ofNat 32 (p.bundle.toNat + first * 2 ^ 11) })
  | none =>
    let hit (l : Nat) : Flags := (lane l).flags &&& p.enables.toArray.getD l 0
    match lowestFlag (orFlags ((List.range 16).map hit)) with
    | none => (some (acc, fl), none)
    | some i =>
      (none, (laneFault fun l => if (hit l).getLsbD i then some { cause := flagCause i } else none).map fun t =>
        { t with detail := p.bundle.setWidth 32 })

/-! ## `tmma` (R206, R207) -/

def accOf (s : State) (r : BitVec 2) : Vector AccLane 16 := s.core.kern.acc.get r.toFin
def latchOf (s : State) (r : BitVec 2) : Vector LatchLane 16 := s.core.kern.latch.get r.toFin

/-- The checks of one lane (R207). -/
def passCause (op : Nat) (a b : LatchLane) (t : AccLane) : Option Cause :=
  match latchClass a.fmt.toNat, latchClass b.fmt.toNat with
  | some ca, some cb =>
    let cplx := op == 4
    if ca != cb || (ca == 3) != cplx then some .formatMismatch
    else if a.domain != cplx || b.domain != cplx || t.domain != cplx ||
        (cplx && ((a.scaled && b.scaled) || t.scaled != (a.scaled || b.scaled))) then some .domainMismatch
    else if cplx && (a.packed != b.packed || a.packed != t.packed) then some .packFlag
    else none
  | _, _ => some .formatMismatch

/-- `tmma`: the checks, then a pass in flight with the contents held at issue; the enables of R210 are those of issue too
(log 21). -/
def passWord (op : BitVec 4) (w : RForm) (s : State) : Out :=
  runPlain s 0x80 w.guard fun s =>
    let a := latchOf s (r2 w.a)
    let b := latchOf s (r2 w.b)
    let t := accOf s (r2 w.d)
    match laneFault fun l =>
        (passCause op.toNat (a.toArray.getD l LatchLane.reset) (b.toArray.getD l LatchLane.reset)
          (t.toArray.getD l AccLane.reset)).map fun c => { cause := c } with
    | some e => .error (.trap e s)
    | none =>
      let s := s.onKern fun k =>
        let p : Pass :=
          { issue := k.ktime, seq := k.seq, bundle := k.kpc.setWidth 11, op, half := w.fn.getLsbD 4, limm := s.limm, d := r2 w.d, qa := r2 w.a, qb := r2 w.b,
            enables := Vector.ofFn fun l => laneEn s l.val, a := [(k.ktime, a)], b := [(k.ktime, b)],
            acc := [(k.ktime, t)] }
        { k with seq := k.seq + 1, passes := k.passes ++ [p] }
      .ok (useUnit s 2 32)

/-- `tmma.madd`. -/
def execTmmaMadd (w : RForm) (s : State) : Out := passWord 0 w s
/-- `tmma.adif`. -/
def execTmmaAdif (w : RForm) (s : State) : Out := passWord 1 w s
/-- `tmma.cselmax`. -/
def execTmmaCselmax (w : RForm) (s : State) : Out := passWord 2 w s
/-- `tmma.cselmin`. -/
def execTmmaCselmin (w : RForm) (s : State) : Out := passWord 3 w s
/-- `tmma.cmad`. -/
def execTmmaCmad (w : RForm) (s : State) : Out := passWord 4 w s
/-- `tmma.seq`. -/
def execTmmaSeq (w : RForm) (s : State) : Out := passWord 5 w s

/-! ## Fills (R201-R204) -/

def srfBytes (c : Core) (off n : Nat) : List Byte := (List.range n).map fun i => cellGet c.srf (off + i)

/-- The header at an SRF offset, where its 64 bytes lie in the SRF and it is well formed. -/
def headerAt (s : State) (o : Nat) : Option Header :=
  if o % 64 != 0 || o + 64 > srfSize then none
  else
    match headerCheck s (srfBytes s.core o 64) with
    | .ok h => some h
    | .error _ => none

/-- The fields of a header as they stand, whether or not it is well formed. -/
def rawHeader (s : State) (o : Nat) : Header := Header.ofWord (BitVec.ofNat 64 (leNat (srfBytes s.core o 8)))

/-- Offsets of a fill's records in a lane: the record that sizes the fill, then every record read (R202). That the record
which only sizes a gather is checked as a record of the fill, and that an immediate part stride is zero-extended, are
the model's readings (log 21). -/
def fillRecords (s : State) (w : RForm) (form l : Nat) : List Nat :=
  let base := readR s w.a + (readR s w.c) * BitVec.ofNat 64 l
  let code := (rawHeader s base.toNat).code
  match form with
  | 0 => (List.range (((latchKP code).map (·.2)).getD 1)).map fun q => (base + opB s w true * BitVec.ofNat 64 q).toNat
  | 2 =>
    base.toNat :: (List.range 32).map fun r =>
      (base + BitVec.ofNat 64 (vElem (readV s w.b) 8 l r / 32 * ((footprint code + 63) / 64 * 64))).toNat
  | _ => [base.toNat]

/-- Row r of part q of a lane's fill: its record and its row there. -/
def fillRow (s : State) (w : RForm) (form l : Nat) (recs : List Nat) (q r : Nat) : Nat × Nat :=
  if form == 2 then (recs.getD (r + 1) 0, vElem (readV s w.b) 8 l r % 32) else (recs.getD q 0, r)

/-- A record's bytes in the SRF. -/
def recordAt (s : State) (o code : Nat) : List Byte := srfBytes s.core o (footprint code)

/-- SRF offset of a row of a record, and of its part of the scale area. -/
def rowOff (f : TileFmt) (o r : Nat) : Nat := o + 64 + r * f.rowBytes
def scaleOff (f : TileFmt) (o r : Nat) : Nat := o + 64 + f.payload + r * f.scaleRow

/-- The records whose rows a fill reads, by part, and the first part. -/
def fillParts (form : Nat) (p : Nat) (recs : List Nat) : List (Nat × Nat) :=
  if form == 0 then recs.zipIdx.map fun (_, q) => (q, q) else [(p, 0)]

/-- A record of a fill fails order 3 of R204: its header, or a scale slot among the rows read of it. -/
def fillHeaderBad (s : State) (rows : List (Nat × Nat)) (o : Nat) : Bool :=
  let code := (rawHeader s o).code
  headerCheck s (srfBytes s.core o 64) == .error .tileHeader ||
    (fmtKF code && match tileFmt code with
      | some f => rows.any fun x => x.1 == o && slotsBad (leNat (srfBytes s.core (scaleOff f o x.2) f.scaleRow))
      | none => false)

/-- Order 4 of R204: an excluded format, records that differ, a part that the class or the latch does not have. -/
def fillFormatBad (heads : List Header) (lat : LatchLane) (form p : Nat) (h0 : Header) : Bool :=
  heads.any (fun h => h.code != h0.code || h.band != h0.band) ||
    (match latchKP h0.code with
    | none => form != 0 || h0.code != 0
    | some (_, np) => form != 0 && (p ≥ np || (p != 0 && lat.fmt.toNat != h0.code)))

/-- Order 5 of R204: tags that R222 forbids, that differ, or that differ from the latch's. -/
def fillTagsBad (heads : List Header) (lat : LatchLane) (form p : Nat) (h0 : Header) : Bool :=
  let tags (h : Header) : Bool × Bool × Bool := (h.domain, h.packed, h.scaled)
  heads.any (fun h => headerDomainBad h || tags h != tags h0) ||
    (form != 0 && p != 0 && (lat.domain, lat.packed, lat.scaled) != tags h0)

/-- The offset of an uncorrectable codeword among the bytes that a fill reads, headers first. -/
def fillPoison (s : State) (recs : List Nat) (rows : List (Nat × Nat)) (h0 : Header) : Option Nat :=
  (recs.find? fun o => s.core.srfBad o 64).or
    ((tileFmt h0.code).bind fun f => (rows.find? fun x =>
      s.core.srfBad (rowOff f x.1 x.2) f.rowBytes || s.core.srfBad (scaleOff f x.1 x.2) f.scaleRow).map fun x =>
        rowOff f x.1 x.2)

/-- The first failing check of a lane (R204). -/
def fillTrap (s : State) (w : RForm) (form l : Nat) (q : BitVec 2) : Option Trap :=
  let p := w.fn.toNat / 4 % 4
  let recs := fillRecords s w form l
  let rows := (fillParts form p recs).flatMap fun (_, i) => (List.range 32).map fun r => fillRow s w form l recs i r
  let heads := recs.map (rawHeader s)
  let h0 := heads.headD (rawHeader s 0)
  let lat := (latchOf s q).toArray.getD l LatchLane.reset
  let own (o : Nat) : Nat := 0xFF * 2 ^ 56 + o % 2 ^ 56
  match recs.find? (fun o => o % 64 != 0) with
  | some o => some (gtrap .alignTile o)
  | none =>
    match recs.find? (fun o => o + footprint (rawHeader s o).code > srfSize) with
    | some o => some (gtrap .srfBounds (own o))
    | none =>
      match recs.find? (fillHeaderBad s rows) with
      | some o => some (gtrap .tileHeader o)
      | none =>
        if fillFormatBad heads lat form p h0 then some (gtrap .formatMismatch 0)
        else if fillTagsBad heads lat form p h0 then some (gtrap .domainMismatch 0)
        else (fillPoison s recs rows h0).map fun o => gtrap .uncorrectedSrf (own o)

/-- The part built from 32 rows (R203). -/
def fillPart (s : State) (w : RForm) (form l : Nat) (recs : List Nat) (f : TileFmt) (q : Nat) : LatchPart :=
  let rows := (List.range 32).map fun r => fillRow s w form l recs q r
  let bits := rows.map fun (o, r) =>
    let h := rawHeader s o
    if r < h.rows then leNat (srfBytes s.core (rowOff f o r) f.rowBytes) % 2 ^ (f.w * h.validPlaces) else 0
  let sc := rows.map fun (o, r) => leNat (srfBytes s.core (scaleOff f o r) f.scaleRow)
  ⟨BitVec.ofNat 16384 (packBits (8 * f.rowBytes) bits),
    ⟨BitVec.ofNat 2048 (packBits (8 * f.scaleRow) sc), BitVec.ofNat 16 (rawHeader s (recs.getD 0 0)).band⟩⟩

/-- What a fill writes in a lane (R203): an empty record leaves the latch empty. -/
def fillLane (s : State) (w : RForm) (form l : Nat) : LatchFill :=
  let p := w.fn.toNat / 4 % 4
  let recs := fillRecords s w form l
  let h := rawHeader s (recs.getD 0 0)
  match tileFmt h.code with
  | none => ⟨true, (0, false, false, false), 1, []⟩
  | some f =>
    ⟨form == 0, (BitVec.ofNat 7 h.code, h.domain, h.packed, h.scaled), ((latchKP h.code).map (·.2)).getD 1,
      (fillParts form p recs).map fun (n, i) => (n, fillPart s w form l recs f i)⟩

/-- `tfill`. -/
def fillWord (form lat : Nat) (w : RForm) (s : State) : Out :=
  runPlain s 0xC3 w.guard fun s =>
    let q := r2 w.d
    match laneFault fun l => fillTrap s w form l q with
    | some t => .error (.trap t s)
    | none => .ok (pushWrite s lat (.latch q (Vector.ofFn fun l => fillLane s w form l.val)))

/-- `tfill.all`. -/
def execTfillAll (w : RForm) (s : State) : Out := fillWord 0 16 w s
/-- `tfill.part`. -/
def execTfillPart (w : RForm) (s : State) : Out := fillWord 1 16 w s
/-- `tfill.gath`. -/
def execTfillGath (w : RForm) (s : State) : Out := fillWord 2 24 w s

/-- A fill applied to a latch lane (R203). Parts it does not name keep their bytes, which a later read takes under the
latch's new format (log 21). -/
def applyFill (f : LatchFill) (q : LatchLane) : LatchLane :=
  let q := if f.whole then LatchLane.reset else q
  let (c, d, p, sc) := f.tags
  f.parts.foldl (fun q x => LatchLane.setPart f.count q x.1 x.2) { q with fmt := c, domain := d, packed := p, scaled := sc }

/-- An emptied latch keeps its payload and scale side (R218). -/
def LatchLane.empty (q : LatchLane) : LatchLane := { q with fmt := 0, domain := false, packed := false, scaled := false }

/-! ## Accumulator words (R212-R219) -/

def noFlags : LaneFlags := Vector.replicate 16 0

/-- `tclr` for cell operation op (R168, R213). -/
def clearedLane (op : Nat) (packed scaled : Bool) : AccLane :=
  let v : Int := if op == 2 then markNegInf else if op == 3 then markPosInf else 0
  ⟨none, List.replicate 1024 v, op == 4, packed, scaled⟩

/-- `tclr` (R213). -/
def execTclr (w : RForm) (s : State) : Out :=
  runPlain s 0x81 w.guard fun s =>
    .ok (pushWrite s 2 (.acc (r2 w.d)
      (Vector.replicate 16 (clearedLane (w.fn.toNat % 16) (w.fn.getLsbD 4) (w.fn.getLsbD 5))) noFlags))

/-- Bits of one of the 32 places of a row in a register type: a complex type has two places in a pair. -/
def placeBits (t : BitVec 5) : Nat := if tyComplex t then tyWidth t / 2 else tyWidth t

/-- Row r of the B operand. An immediate is taken as raw bits for every TY, since a row is no value of that type (log 21). -/
def accRow (s : State) (w : RForm) : Nat := (opB s w true).toNat % 32

def accLaneOf (s : State) (r : BitVec 2) (l : Nat) : AccLane := (accOf s r).toArray.getD l AccLane.reset

/-- The 32 values of a row. -/
def rowOfAcc (t : AccLane) (r : Nat) : List FVal := (List.range 32).map fun c => accValue t.ae (t.m.getD (32 * r + c) 0)

/-- Readout of one value into a register type (R172). -/
def readoutTy (t : BitVec 5) (rm : Nat) (v : FVal) : Nat × Flags := deliver (tyFmt t) rm false v

/-- Writes of 32 places per lane into a group of registers. -/
def rowWrites (d : BitVec 6) (n : Nat) (rows : List (List Nat)) : List KWrite :=
  let per := 256 / n
  (List.range (32 / per)).map fun k =>
    .v (d + BitVec.ofNat 6 k) (laneWordsReg fun l => packBits n (((rows.getD l []).drop (k * per)).take per))

/-- `tacc.rd` into a register type. -/
def readoutBody (w : RForm) (s : State) : Body :=
  let a := r2 w.a
  let r := accRow s w
  match laneFault fun l => if (accLaneOf s a l).domain != tyComplex w.ty then some { cause := .domainMismatch } else none with
  | some t => .error (.trap t s)
  | none =>
    let x := (List.range 16).map fun l => (rowOfAcc (accLaneOf s a l) r).map (readoutTy w.ty w.rm.toNat)
    giveLanes s 8 (laneFlagsOf fun l => orFlags ((x.getD l []).map (·.2)))
      (rowWrites w.d (placeBits w.ty) (x.map fun y => y.map (·.1)))

/-- `tacc.rd` into a packable tile format: its causes stand in the order of R214 (R401). -/
def readoutPackBody (w : RForm) (f : TileFmt) (s : State) : Body :=
  let a := r2 w.a
  let r := accRow s w
  let band := s.limm.toNat / 2 ^ 16
  match laneFault fun l =>
      if f.scaling == .kf && !bandOk band then some { cause := .convertRange }
      else if (accLaneOf s a l).domain then some { cause := .domainMismatch } else none with
  | some t => .error (.trap t s)
  | none =>
    let x := (List.range 16).map fun l =>
      encodeRow f w.rm.toNat (decodeFloat fmtBF16 band) (rowOfAcc (accLaneOf s a l) r)
    let get (l : Nat) : Nat × Nat × Flags := x.getD l (0, 0, 0)
    giveLanes s 8 (laneFlagsOf fun l => (get l).2.2)
      (.v w.d (laneWordsReg fun l => (get l).1) ::
        (if f.scaling == .plain then [] else [.v (w.d + 1) (laneWordsReg fun l => (get l).2.1)]))

/-- `tacc.rd` (R214). -/
def execTaccRd (w : RForm) (s : State) : Out :=
  runPlain s 0x82 w.guard fun s =>
    if w.c == 0 then readoutBody w s
    else
      match packFmtTrap s w.c.toNat, tileFmt w.c.toNat with
      | some t, _ => .error (.trap t s)
      | none, some f => readoutPackBody w f s
      | none, none => .error (.trap { cause := .tileHeader } s)

/-- The 32 values of a row held by lane l in a register type. -/
def regRow (s : State) (r : BitVec 6) (t : BitVec 5) (l : Nat) : List FVal :=
  let n := placeBits t
  let per := 256 / n
  (List.range 32).map fun c =>
    decodeFloat (tyFmt t) (vElem (readV s (r + BitVec.ofNat 6 (c / per))) n l (c % per))

/-- A step on each lane: the write of the new tiles, or ACC_EXPONENT, which comes before a trap of an enabled flag, as in
R210 (log 21). -/
def accWord (s : State) (lat : Nat) (d : BitVec 2) (fl : Nat → Flags) (f : Nat → Option AccLane) : Body :=
  match laneFault fun l => if (f l).isNone then some { cause := .accExponent } else none with
  | some t => .error (.trap t s)
  | none =>
    let fl := laneFlagsOf fl
    match laneTrap s fl with
    | some t => .error (.trap t s)
    | none => .ok (pushWrite s lat (.acc d (Vector.ofFn fun l => (f l.val).getD AccLane.reset) fl))

/-- `tacc.wr` (R215): replace or add one row, as one step. -/
def execTaccWr (w : RForm) (s : State) : Out :=
  runPlain s 0x83 w.guard fun s =>
    let d := r2 w.d
    let r := accRow s w
    let add := w.fn.toNat % 16 == 1
    match laneFault fun l => if (accLaneOf s d l).domain != tyComplex w.ty then some { cause := .domainMismatch } else none with
    | some t => .error (.trap t s)
    | none =>
      accWord s 4 d (fun _ => 0) fun l =>
        let v := regRow s w.a w.ty l
        let p : Contrib := (List.range 1024).map fun e => if e / 32 == r then v[e % 32]? else none
        (accStep (if add then .add else .replace) p (accLaneOf s d l)).1

/-- The largest finite |m|. -/
def largestM (t : AccLane) : Nat := t.m.foldl (fun h m => if isMarker m then h else Nat.max h m.natAbs) 0

/-- `tnorm` of one lane (R216). -/
def normLane (t : AccLane) : AccLane :=
  let h := largestM t
  if h == 0 then { t with ae := none }
  else
    match t.ae with
    | none => t
    | some e =>
      let sh : Int := 44 - (Nat.log2 h : Int)
      if sh > 0 then
        let k := min sh (e + 512)
        { t with ae := some (e - k), m := t.m.map fun m => if isMarker m then m else m * 2 ^ k.toNat }
      else t

/-- `tnorm` (R216). -/
def execTnorm (w : RForm) (s : State) : Out :=
  runPlain s 0x84 w.guard fun s => .ok (pushWrite s 8 (.acc (r2 w.d) ((accOf s (r2 w.d)).map normLane) noFlags))

/-- `tstat.acc` (R217). -/
def execTstatAcc (w : RForm) (s : State) : Out :=
  runPlain s 0x85 w.guard fun s =>
    let t := accLaneOf s (r2 w.a) (w.c.toNat % 16)
    let h := largestM t
    .ok (writeR s 2 w.d (BitVec.ofNat 64
      (intBits 10 (t.ae.getD 0) + t.ae.isNone.toNat * 2 ^ 10 + t.domain.toNat * 2 ^ 11 + t.packed.toNat * 2 ^ 12 +
        t.scaled.toNat * 2 ^ 13 + (t.m.any (· == markNaN)).toNat * 2 ^ 14 +
        (t.m.any fun m => m == markPosInf || m == markNegInf).toNat * 2 ^ 15 + bitLen h * 2 ^ 16)))

/-- `tstat.latch` (R217). An emptied latch reports the band scale that it keeps (log 21). -/
def execTstatLatch (w : RForm) (s : State) : Out :=
  runPlain s 0x85 w.guard fun s =>
    let q := (latchOf s (r2 w.a)).toArray.getD (w.c.toNat % 16) LatchLane.reset
    .ok (writeR s 2 w.d (BitVec.ofNat 64
      (q.fmt.toNat + q.domain.toNat * 2 ^ 10 + q.packed.toNat * 2 ^ 11 + q.scaled.toNat * 2 ^ 12 +
        (q.scales.get 0).band.toNat * 2 ^ 32)))

/-- `tcopy` (R218): with D = A it has no effect. -/
def execTcopy (w : RForm) (s : State) : Out :=
  runPlain s 0x86 w.guard fun s =>
    .ok (if r2 w.d == r2 w.a then s else pushWrite s 4 (.acc (r2 w.d) (accOf s (r2 w.a)) noFlags))

/-- `tqclr` (R218). -/
def execTqclr (w : RForm) (s : State) : Out :=
  runPlain s 0x87 w.guard fun s => .ok (pushWrite s 2 (.latchClear (r2 w.d)))

/-- `tmerge` (R219). -/
def execTmerge (w : RForm) (s : State) : Out :=
  runPlain s 0x88 w.guard fun s => do
    let d := accLaneOf s (r2 w.d)
    let a := accLaneOf s (r2 w.a)
    match laneFault fun l =>
        if (d l).domain != (a l).domain || (d l).scaled != (a l).scaled then some { cause := .domainMismatch }
        else if (d l).packed != (a l).packed then some { cause := .packFlag } else none with
    | some t => .error (.trap t s)
    | none =>
      let step (l : Nat) : Option AccLane × Bool :=
        accStep .add ((a l).m.map fun m => some (accValue (a l).ae m)) (d l)
      let s' ← accWord s 8 (r2 w.d) (fun l => flagIf (step l).2 flNV) fun l => (step l).1
      .ok (useUnit s' 2 8)

end Sys2Proof.Machine
end

