-- ==== Sys2Proof/Machine/Gcm.lean ====
section
/-! DEFINITION. AES-256 in Galois/Counter mode with a 96-bit IV and a 128-bit tag, as NIST FIPS 197 and SP 800-38D give
it (R367, R457). -/

namespace Sys2Proof.Machine

/-! ## AES-256 -/

/-- Doubling in GF(2^8) modulo x^8 + x^4 + x^3 + x + 1. -/
def gfDouble (x : Nat) : Nat := if x ≥ 128 then (2 * x) % 256 ^^^ 0x1B else 2 * x

def gfMul8 : Nat → Nat → Nat → Nat
  | 0, _, _ => 0
  | n + 1, a, b => (if b % 2 == 1 then a else 0) ^^^ gfMul8 n (gfDouble a) (b / 2)

/-- x^254, the inverse of x. -/
def gfInv (x : Nat) : Nat :=
  let m := gfMul8 8
  let x2 := m x x
  let x4 := m x2 x2
  let x8 := m x4 x4
  let x16 := m x8 x8
  let x32 := m x16 x16
  let x64 := m x32 x32
  let x128 := m x64 x64
  m x128 (m x64 (m x32 (m x16 (m x8 (m x4 x2)))))

def rotl8 (x k : Nat) : Nat := (x * 2 ^ k % 256) + x / 2 ^ (8 - k)

def aesSub (x : Nat) : Nat :=
  let y := gfInv x
  y ^^^ rotl8 y 1 ^^^ rotl8 y 2 ^^^ rotl8 y 3 ^^^ rotl8 y 4 ^^^ 0x63

def xorBytes (a b : List Nat) : List Nat := List.zipWith (· ^^^ ·) a b

/-- Round constants of the key schedule. -/
def aesRcon : Nat → Nat
  | 0 => 1
  | n + 1 => gfDouble (aesRcon n)

/-- The next word of the key schedule, from the words before it, latest first. -/
def aesNextWord (i : Nat) (ws : List (List Nat)) : List Nat :=
  let t := ws.getD 0 []
  let t := if i % 8 == 0 then (xorBytes ((t.drop 1 ++ t.take 1).map aesSub) [aesRcon (i / 8 - 1), 0, 0, 0])
    else if i % 8 == 4 then t.map aesSub else t
  xorBytes t (ws.getD 7 [])

/-- `n` further words of the schedule, latest first. -/
def aesExpand : Nat → Nat → List (List Nat) → List (List Nat)
  | 0, _, ws => ws
  | n + 1, i, ws => aesExpand n (i + 1) (aesNextWord i ws :: ws)

/-- The 15 round keys of a 32-byte key. -/
def aesKeys (key : List Nat) : List (List Nat) :=
  let first := ((List.range 8).map fun i => (key.drop (4 * i)).take 4).reverse
  let ws := (aesExpand 52 8 first).reverse
  (List.range 15).map fun r => ((ws.drop (4 * r)).take 4).flatten

/-- ShiftRows on a column-major state. -/
def aesShift (s : List Nat) : List Nat := (List.range 16).map fun i => s.getD ((i + 4 * (i % 4)) % 16) 0

def aesMixColumn (c : List Nat) : List Nat :=
  (List.range 4).map fun i =>
    let x (k : Nat) : Nat := c.getD ((i + k) % 4) 0
    gfDouble (x 0) ^^^ (gfDouble (x 1) ^^^ x 1) ^^^ x 2 ^^^ x 3

def aesMix (s : List Nat) : List Nat := (List.range 4).flatMap fun i => aesMixColumn ((s.drop (4 * i)).take 4)

def aesBlock (keys : List (List Nat)) (b : List Nat) : List Nat :=
  let k (i : Nat) : List Nat := keys.getD i []
  let s := (List.range 13).foldl (fun s r => xorBytes (aesMix (aesShift (s.map aesSub))) (k (r + 1))) (xorBytes b (k 0))
  xorBytes (aesShift (s.map aesSub)) (k 14)

/-! ## GCM -/

/-- Big-endian value of bytes, and the bytes of a value. -/
def beNat (l : List Nat) : Nat := l.foldl (fun a b => 256 * a + b) 0
def beBytes (n x : Nat) : List Nat := (List.range n).map fun i => x / 256 ^ (n - 1 - i) % 256

/-- Product in the field of GHASH: bit 127 of a value is the coefficient of x^0. -/
def ghashMul : Nat → Nat → Nat → Nat
  | 0, _, _ => 0
  | n + 1, x, v =>
    (if x.testBit n then v else 0) ^^^
      ghashMul n x (if v % 2 == 1 then v / 2 ^^^ 0xE1000000000000000000000000000000 else v / 2)

def padBlock (l : List Nat) : List Nat := l ++ List.replicate ((16 - l.length % 16) % 16) 0

def blocks16 (l : List Nat) : List (List Nat) := (List.range ((l.length + 15) / 16)).map fun i => (l.drop (16 * i)).take 16

def ghash (h : Nat) (l : List Nat) : Nat := (blocks16 l).foldl (fun y b => ghashMul 128 (y ^^^ beNat b) h) 0

/-- Encryption, or decryption, of `text` from counter block 2 on. -/
def gcmCrypt (keys : List (List Nat)) (iv text : List Nat) : List Nat :=
  ((blocks16 text).zipIdx.map fun (b, i) => xorBytes b (aesBlock keys (iv ++ beBytes 4 (i + 2)))).flatten

def gcmTag (keys : List (List Nat)) (iv aad cipher : List Nat) : List Nat :=
  let h := beNat (aesBlock keys (List.replicate 16 0))
  let s := ghash h (padBlock aad ++ padBlock cipher ++ beBytes 8 (8 * aad.length) ++ beBytes 8 (8 * cipher.length))
  xorBytes (beBytes 16 s) (aesBlock keys (iv ++ [0, 0, 0, 1]))

def byteNats (l : List Byte) : List Nat := l.map BitVec.toNat
def natBytes (l : List Nat) : List Byte := l.map (BitVec.ofNat 8)

/-- The round keys of a key slot: byte i of the key is byte i of its KEYDATA words. -/
def slotKeys (key : BitVec 256) : List (List Nat) := aesKeys (byteNats (leBytes 32 key.toNat))

/-- The tag, and the ciphertext. -/
def gcmSeal (key : BitVec 256) (iv aad plain : List Byte) : List Byte × List Byte :=
  let k := slotKeys key
  let c := gcmCrypt k (byteNats iv) (byteNats plain)
  (natBytes c, natBytes (gcmTag k (byteNats iv) (byteNats aad) c))

/-- The plaintext, when the tag matches. -/
def gcmOpen (key : BitVec 256) (iv aad cipher tag : List Byte) : Option (List Byte) :=
  let k := slotKeys key
  if natBytes (gcmTag k (byteNats iv) (byteNats aad) (byteNats cipher)) == tag then
    some (natBytes (gcmCrypt k (byteNats iv) (byteNats cipher)))
  else none

end Sys2Proof.Machine
end

