-- ==== Sys2Proof/Machine/Zb.lean ====
section
/-! DEFINITION. The ZB format: runs, streams, their header and directory (R365, R366). -/

namespace Sys2Proof.Machine

def bitsSet (n x : Nat) : Nat := ((List.range n).filter fun i => x.testBit i).length

def padTo (n : Nat) (l : List Byte) : List Byte := l ++ List.replicate ((n - l.length % n) % n) 0

/-! ## Runs (R366) -/

/-- The word masks of a run: MAP, then the mask bytes of its present blocks. -/
def runMasks (run : List Byte) : Nat × List Byte :=
  let map := leNat (run.take 8)
  (map, (run.drop 8).take (bitsSet 64 map))

/-- The length that MAP and the word masks give. -/
def runLength (run : List Byte) : Nat :=
  let (map, wm) := runMasks run
  8 + (bitsSet 64 map + 7) / 8 * 8 + 8 * (wm.foldl (fun n b => n + bitsSet 8 b.toNat) 0)

/-- The words of one block: those the mask names are taken from the run. -/
def blockWords (mask : Nat) : Nat → List Byte → List Byte × List Byte
  | 0, ws => ([], ws)
  | n + 1, ws =>
    let j := 8 - (n + 1)
    if mask.testBit j then
      let (out, rest) := blockWords mask n (ws.drop 8)
      (ws.take 8 ++ out, rest)
    else
      let (out, rest) := blockWords mask n ws
      (List.replicate 8 0 ++ out, rest)

/-- The blocks from number `i` on. -/
def runBlocks (map : Nat) : Nat → Nat → List Byte → List Byte → List Byte
  | 0, _, _, _ => []
  | n + 1, i, wm, ws =>
    if map.testBit i then
      let (out, rest) := blockWords (wm.headD 0).toNat 8 ws
      out ++ runBlocks map n (i + 1) (wm.drop 1) rest
    else List.replicate 64 0 ++ runBlocks map n (i + 1) wm ws

/-- Decodes a run of a chunk of `b` bytes; `none` when it is malformed. -/
def runDecode (b : Nat) (run : List Byte) : Option (List Byte) :=
  let (map, wm) := runMasks run
  let p := bitsSet 64 map
  let pad := (p + 7) / 8 * 8
  if run.length < 8 + pad || run.length != runLength run || map / 2 ^ (b / 64) != 0 || wm.any (· == 0) ||
      ((run.drop (8 + p)).take (pad - p)).any (· != 0) then none
  else some (runBlocks map (b / 64) 0 wm (run.drop (8 + pad)))

def wordsOf (l : List Byte) : List (List Byte) := (List.range (l.length / 8)).map fun j => (l.drop (8 * j)).take 8

def wordZero (w : List Byte) : Bool := w.all (· == 0)

/-- The word mask of a block. -/
def blockMask (block : List Byte) : Nat :=
  ((wordsOf block).zipIdx.map fun (w, j) => if wordZero w then 0 else 2 ^ j).foldl (· + ·) 0

def blocksOf (chunk : List Byte) : List (List Byte) := (List.range (chunk.length / 64)).map fun i => (chunk.drop (64 * i)).take 64

/-- The run of a chunk. -/
def runEncode (chunk : List Byte) : List Byte :=
  let bs := blocksOf chunk
  let map := (bs.zipIdx.map fun (b, i) => if b.all (· == 0) then 0 else 2 ^ i).foldl (· + ·) 0
  let present := bs.filter fun b => !b.all (· == 0)
  let masks := present.map fun b => BitVec.ofNat 8 (blockMask b)
  leBytes 8 map ++ padTo 8 masks ++ present.flatMap fun b => ((wordsOf b).filter fun w => !wordZero w).flatten

/-! ## Streams (R365) -/

/-- A chunk entry: its directory fields and the bytes of its run. -/
structure ZbEntry where
  len : Nat
  raw : Bool
  run : List Byte
  deriving DecidableEq, Repr

def zbChunks (s : Nat) : Nat := (s + 4095) / 4096

/-- Bytes of chunk `c` of a source of `s` bytes. -/
def chunkLen (s c : Nat) : Nat := Nat.min 4096 (s - 4096 * c)

def chunkEncode (chunk : List Byte) : ZbEntry :=
  let r := runEncode chunk
  if r.length > chunk.length then ⟨chunk.length, true, chunk⟩ else ⟨r.length, false, r⟩

def ZbEntry.word (e : ZbEntry) : Nat := e.len + e.raw.toNat * 2 ^ 13

def zbHeader (s : Nat) (enc : Bool) : List Byte :=
  leBytes 8 (s + enc.toNat * 2 ^ 40) ++ leBytes 4 (zbChunks s) ++ List.replicate 4 0

def zbDirectory (l : List ZbEntry) : List Byte := padTo 16 (l.flatMap fun e => leBytes 2 e.word)

/-- Bytes of header and directory of a stream. -/
def zbFront (s : Nat) : Nat := 16 + (2 * zbChunks s + 15) / 16 * 16

/-- A header of 16 bytes: the source length, when every field is as R365 has it and ENC is as expected. -/
def zbHeaderRead (enc : Bool) (b : List Byte) : Option Nat :=
  let w := leNat (b.take 8)
  let s := w % 2 ^ 40
  if w / 2 ^ 40 != enc.toNat || s % 64 != 0 || leNat ((b.drop 8).take 4) != zbChunks s || leNat ((b.drop 12).take 4) != 0 then
    none
  else some s

/-- One directory entry of a chunk of `b` bytes: LEN and RAW. -/
def zbDirEntry (b : Nat) (x : Nat) : Option (Nat × Bool) :=
  let len := x % 2 ^ 13
  let raw := x / 2 ^ 13 % 2 == 1
  if x / 2 ^ 14 != 0 || len == 0 || len > 4096 || (raw && len != b) then none else some (len, raw)

/-- The chunk of an entry. -/
def chunkDecode (b : Nat) (raw : Bool) (run : List Byte) : Option (List Byte) :=
  if raw then (if run.length == b then some run else none) else runDecode b run

end Sys2Proof.Machine
end

