-- ==== Sys2Proof/Machine/StreamOps.lean ====
section
/-! DEFINITION. Shared operations of the stream unit: descriptors, tokens, barrier objects, engine accesses, fault
records, completion and cancellation (R241-R243, R345-R361, R414, R492). -/

namespace Sys2Proof.Machine

/-! ## Descriptors (R241-R243, R376) -/

def Desc.base (d : Desc) : Nat := fld d.w0 0 22
def Desc.len (d : Desc) : Nat := fld d.w0 24 22
def Desc.recSize (d : Desc) : Nat := fld d.w1 0 16
def Desc.stride (d : Desc) : Nat := fld d.w1 16 22
def Desc.fmt (d : Desc) : Nat := fld d.w1 38 7
def Desc.wrap (d : Desc) : Bool := bit d.w1 45

/-- The checks of R243, in order. -/
def descCause (s : State) (d : Desc) : Option Cause :=
  let typed := d.fmt != 0
  if d.w0 &&& 0xFFFFC00000C00000 != 0 || d.w1 &&& 0xFFFFC00000000000 != 0 || d.len == 0 || d.len % 64 != 0 ||
      d.base % 64 != 0 || d.recSize == 0 || d.stride < d.recSize || (d.wrap && d.len % d.stride != 0) || fmtReserved s d.fmt ||
      (typed && (d.recSize < footprint d.fmt || d.recSize % 64 != 0 || d.stride % 64 != 0)) then some .streamDescriptor
  else if d.base + d.len > srfSize then some .srfAlloc
  else none

/-- `reccount`: none when a record does not fit the buffer (R242, R376). -/
def recCount (d : Desc) : Nat :=
  if d.wrap then d.len / d.stride else if d.recSize > d.len then 0 else (d.len - d.recSize) / d.stride + 1

/-- `recoff` (R242). -/
def recOff (d : Desc) (n : Nat) : Option Nat :=
  if d.wrap then some (d.base + n * d.stride % d.len)
  else if n * d.stride + d.recSize > d.len then none
  else some (d.base + n * d.stride)

def recAt (d : Desc) (n : Nat) : Nat := (recOff d n).getD d.base

/-- Extents of a buffer, of a record, of a run of records (R347, R376). -/
def bufExtent (d : Desc) (write : Bool) : Extent := ⟨d.base, d.base + d.len, write⟩
def recExtent (d : Desc) (n : Nat) (write : Bool) : Extent := ⟨recAt d n, recAt d n + d.recSize, write⟩
def runExtent (d : Desc) (n k : Nat) (write : Bool) : Extent :=
  if d.wrap then bufExtent d write else ⟨recAt d n, recAt d (n + k - 1) + d.recSize, write⟩

def descOf (s : State) (i : BitVec 4) : Desc := s.core.st.sd.get i.toFin

/-! ## Tokens (R354, R355) -/

def tokState (w : Word) : Nat := fld w 0 2
def tokCount (w : Word) : Nat := fld w 2 6
def tokCause (w : Word) : Nat := fld w 16 7
def tokWord (state count flags cause : Nat) : Word := BitVec.ofNat 64 (state + count * 4 + flags * 2 ^ 8 + cause * 2 ^ 16)

/-- A producer is enqueued; a token in the fault state has trapped before (R375). -/
def tokArm (w : Word) : Word := if tokState w == 1 then setFld w 2 6 (tokCount w + 1) else tokWord 1 1 0 0

/-- A producer completes. -/
def tokDone (w : Word) (fault : Option Cause) (flags : BitVec 7) : Word :=
  let n := tokCount w - 1
  match tokState w, fault with
  | 1, none =>
    let w := (setFld w 2 6 n) ||| (flags.setWidth 64 <<< 8)
    if n == 0 then setFld w 0 2 2 else w
  | 1, some c => setFld (setFld (setFld w 2 6 n) 0 2 3) 16 7 c.code.toNat
  | _, _ => setFld w 2 6 n

def tokOf (u : StreamUnit) (t : BitVec 3) : Word := u.tok.get t.toFin

/-- The token named is faulted (R355, R375). -/
def tokFault (u : StreamUnit) (t : BitVec 3) : Trap :=
  { cause := .engineFault, addr := t.setWidth 64,
    detail := BitVec.ofNat 32 (tokCause (tokOf u t) + (u.tokRec.get t.toFin).toNat * 2 ^ 16) }

/-! ## Accesses of engines -/

/-- Why an engine access does not go on: it fails, or it waits, perhaps for a host page. -/
inductive EngStop where
  | fail (c : Cause) (addr : Word) (s : State)
  | wait (page : Option PageWait) (s : State)
  deriving DecidableEq, Repr

abbrev EngM := Except EngStop

/-- The log entry of an engine access. -/
def engEntry (s : State) (opc : BitVec 8) (addr : Word) (size : Nat) (bytes : List Byte) : LogEntry where
  opc
  aop := 0
  ty := 7
  ord := 0
  scope := 0
  slot := 0
  addr
  size
  operand := 0
  expected := 0
  bytes
  dest := none
  due := 0
  seq := 0
  since := s.clock
  status := .inFlight
  fence := 0
  walked := none

def engAccess (s : State) (e : QEntry) : Access :=
  { core := s.focus, asid := e.asid, sup := e.sup, refused := PageWait.refusal e.asid e.page }

/-- Accesses of unit `i` of an instruction, whose failure reports an offset and a counted prefix. -/
def ownedAccess (s : State) (e : QEntry) (i offset n : Nat) : Access :=
  { engAccess s e with owner := some ⟨e.seq, i, offset, n⟩ }

/-- How an engine takes a stop of an access: a host-managed page is waited for, and fails the access once the host has
refused it (R263). -/
def engStopOf (who : Access) (addr : Word) : Stop → EngStop
  | .trap t s =>
    let page := fld addr 0 56 / 4096
    if t.cause == .hostPage && who.refused != some page then .wait (some ⟨who.asid, page, false⟩) s
    else .fail t.cause addr s
  | .wait s => .wait none s
  | .waitAt _ s => .wait none s
  | .hold s => .wait none s
  | .final s => .wait none s

/-- One access of an engine, whose entry asks for an alignment. -/
def engPerform (s : State) (who : Access) (align : Nat) (x : LogEntry) : EngM (List Byte × State) :=
  match frontTrap x.addr x.size align (fun _ => true) (writesMem x.opc) with
  | some t => .error (.fail t.cause x.addr s)
  | none =>
    match perform s who x with
    | .ok r => .ok r
    | .error (.final s') => .ok ([], s')
    | .error y => .error (engStopOf who x.addr y)

/-- Pieces of a range that cross no granule (R269, R282). -/
def linePieces : Nat → Word → Nat → List (Word × Nat)
  | 0, _, _ => []
  | k + 1, a, n =>
    if n == 0 then []
    else
      let m := Nat.min n (128 - a.toNat % 128)
      (a, m) :: linePieces k (a + BitVec.ofNat 64 m) (n - m)

def pieces (a : Word) (n : Nat) : List (Word × Nat) := linePieces (n / 128 + 2) a n

/-- The checks of a range before any byte of it is read or written: apertures, alignment, bounds, then the translation of
each piece (R316, orders 1-6). -/
def engCheck (s : State) (who : Access) (opc : BitVec 8) (a : Word) (n align : Nat) : EngM (Unit × State) :=
  match frontTrap a n align (fun _ => true) (writesMem opc) with
  | some t => .error (.fail t.cause a s)
  | none => do
    let s ← (pieces a n).foldlM (fun (s : State) p =>
      match resolve s who (engEntry s opc p.1 p.2 []) with
      | .ok (_, s') => (.ok s' : EngM State)
      | .error x => .error (engStopOf who p.1 x)) s
    .ok ((), s)

def engLoad (s : State) (who : Access) (a : Word) (n : Nat) : EngM (List Byte × State) :=
  (pieces a n).foldlM (fun acc p => do
    let (b, s) ← engPerform acc.2 who 1 (engEntry acc.2 engRead p.1 p.2 [])
    .ok (acc.1 ++ b, s)) ([], s)

/-- A request of an engine waits at its stack; the instruction goes on meanwhile (R274). -/
def owe (s : State) (o : Owner) (op : OwedOp) : State := s.onSt fun u => { u with owed := u.owed ++ [⟨o, op⟩] }

/-- A write or an addition. One that must wait is owed, when a unit of an engine instruction makes it. -/
def engAct (s : State) (who : Access) (align : Nat) (x : LogEntry) : EngM State :=
  match engPerform s who align x, who.owner with
  | .ok (_, s'), _ => .ok s'
  | .error (.wait none s'), some o => .ok (owe s' o (.access x))
  | .error y, _ => .error y

def engStore (s : State) (who : Access) (a : Word) (b : List Byte) : EngM (Unit × State) := do
  let r ← (pieces a b.length).foldlM (fun (acc : List Byte × State) p => do
    let s ← engAct acc.2 who 1 (engEntry acc.2 engWrite p.1 p.2 (acc.1.take p.2))
    .ok (acc.1.drop p.2, s)) (b, s)
  .ok ((), r.2)

/-- A read met poison (R418). -/
def isPoison (c : Cause) : Bool := c == .poisonRead || c == .uncorrectedHbm || c == .uncorrectedSrf

/-- A change of the marks of a range, line by line. A line of a stack that is quiesced, or one that cannot be found yet,
is owed as `op` says (R274, R342). -/
def markLines (s : State) (who : Access) (op : Word → Nat → OwedOp) (a : Word) (n : Nat)
    (f : State → Loc → Nat → State) : State :=
  (pieces a n).foldl (fun s p =>
    let later (s' : State) : State := match who.owner with
      | some o => owe s' o (op p.1 p.2)
      | none => s'
    match resolve s who (engEntry s engWrite p.1 p.2 []) with
    | .ok (t, s') =>
      (match t.loc with
      | .stk pkg k o => if quiesced s' (cellKey s' pkg k o) then later s' else f s' t.loc p.2
      | _ => f s' t.loc p.2)
    | .error (.trap _ _) => s
    | .error _ => later s) s

/-- Marks the lines of a range poisoned (R371). -/
def engPoison (s : State) (who : Access) (a : Word) (n : Nat) : State :=
  markLines s who .poison a n fun s l m =>
    match l with
    | .stk pkg k o => { s with poison := setAdd (granuleKey s pkg k o) s.poison }
    | .srf c off => s.onCore c fun x =>
      { x with srfPoison := setAdd ((off + m - 1) / 64) (setAdd (off / 64) x.srfPoison) }
    | _ => s

/-- The marks of the lines that lie wholly in a range of which an engine has written every byte are cleared (R246, R282,
R417). -/
def engClear (s : State) (who : Access) (a : Word) (n : Nat) : State :=
  markLines s who .clear a n fun s l m =>
    match l with
    | .stk pkg k o => if m == 128 then clearGranule s pkg k o else s
    | .srf c off =>
      s.onCore c fun x => { x with srfPoison := x.srfPoison.filter fun q => !(off ≤ 64 * q && 64 * q + 64 ≤ off + m) }
    | _ => s

/-- A source or a destination of a transfer: the own SRF from an offset, or memory from an address. -/
inductive Side where
  | srf (off : Nat)
  | mem (a : Word)
  deriving DecidableEq, Repr

def ownAddr (off : Nat) : Word := BitVec.ofNat 64 (0xFF * 2 ^ 56 + off)

def Side.addr (x : Side) (off : Nat) : Word := match x with
  | .srf o => ownAddr (o + off)
  | .mem a => a + BitVec.ofNat 64 off

/-- Size of a poison granule of a destination: an SRF is reached through the gallery too (R371). -/
def Side.granule : Side → Nat
  | .srf _ => 64
  | .mem a => if apertureOf a == some 0 then 128 else 64

def Side.read (s : State) (who : Access) (x : Side) (off n : Nat) : EngM (List Byte × State) :=
  match x with
  | .srf o =>
    if s.core.srfBad (o + off) n then .error (.fail .uncorrectedSrf (ownAddr (o + off)) s)
    else
      let m := s.core.srfSeen
      .ok ((List.range n).map fun i => cellGet m (o + off + i), s)
  | .mem a => engLoad s who (a + BitVec.ofNat 64 off) n

def Side.write (s : State) (who : Access) (x : Side) (off : Nat) (b : List Byte) : EngM (Unit × State) :=
  match x with
  | .srf o => .ok ((), { s with core := s.core.putSrf (atAddr (o + off) b) })
  | .mem a => engStore s who (a + BitVec.ofNat 64 off) b

/-- What an attempt leaves that is to be made again: the translations that it found, and its page request. -/
def attempted (s s' : State) : State :=
  { s with tlb := s'.tlb, fresh := s'.fresh, md := { s.md with pageReqs := s'.md.pageReqs, requests := s'.md.requests } }

/-- The bytes of a write that must be written all or none (R368, R370). -/
def Side.writeWhole (s : State) (who : Access) (x : Side) (off : Nat) (b : List Byte) : EngM (Unit × State) :=
  match Side.write s { who with owner := none } x off b with
  | .error (.fail c a s') => .error (.fail c a (attempted s s'))
  | .error (.wait p s') => .error (.wait p (attempted s s'))
  | r => r

/-- Clears the marks of a range that a transfer has written in several writes. -/
def Side.clear (s : State) (who : Access) (x : Side) (off n : Nat) : State :=
  match x with
  | .srf o => { s with core := { s.core with srfPoison := s.core.srfPoison.filter fun q =>
      !(o + off ≤ 64 * q && 64 * q + 64 ≤ o + off + n) } }
  | .mem a => engClear s who (a + BitVec.ofNat 64 off) n

def Side.poison (s : State) (who : Access) (x : Side) (off n : Nat) : State :=
  match x with
  | .srf o =>
    if n == 0 then s
    else
      let lo := (o + off) / 64
      let qs := (List.range ((o + off + n - 1) / 64 + 1 - lo)).map (lo + ·)
      { s with core := { s.core with srfPoison := qs.foldl (fun l q => setAdd q l) s.core.srfPoison } }
  | .mem a => engPoison s who (a + BitVec.ofNat 64 off) n

/-! ## Barrier objects (R356-R358) -/

def objExpected (w0 : Word) : Nat := fld w0 0 32
def objArrived (w0 : Word) : Nat := fld w0 32 32
def objPhase (w1 : Word) : Bool := bit w1 0
def objArmed (w1 : Word) : Bool := bit w1 1
def objErr (w1 : Word) : Bool := bit w1 2
def objInflight (w1 : Word) : Nat := fld w1 16 16

/-- `barrier_add` (R357). -/
def barrierAdd (w0 w1 : Word) (n : Nat) (err eng : Bool) : Word × Word :=
  let w1 := if eng then setFld w1 16 16 (objInflight w1 + 65535) else w1
  let w1 := if err then setBit w1 2 true else w1
  if n == 0 then (w0, w1)
  else
    let a := objArrived w0 + n
    if a > objExpected w0 then (w0, setBit w1 2 true)
    else if a == objExpected w0 then (setFld w0 32 32 0, setBit w1 0 (!objPhase w1))
    else (setFld w0 32 32 a, w1)

/-- Arming (R356). -/
def objArm (expected : Nat) (w1 : Word) : Word × Word := (BitVec.ofNat 64 expected, setBit (setBit w1 2 false) 1 true)

/-- The first fault of an object is kept by the object's place (R414). -/
def objPlace : Loc → Nat × Nat × Nat
  | .srf c off => (0, c, off)
  | .stk p k o => (1, p * 16 + k, o)
  | .host p off => (2, 0, hostCell p off)
  | .dev off => (3, 0, off)

def ObjErr.isAt (l : Loc) (x : ObjErr) : Bool := (x.kind, x.owner, x.off) == objPlace l

def objErrOf (s : State) (l : Loc) : Option ObjErr := s.objErr.find? (ObjErr.isAt l)

def forgetObjErr (s : State) (l : Loc) : State := { s with objErr := s.objErr.filter fun x => !ObjErr.isAt l x }

def noteObjErr (s : State) (l : Loc) (c : Cause) (record : BitVec 16) : State :=
  if (objErrOf s l).isSome then s
  else
    let (k, o, f) := objPlace l
    { s with objErr := { kind := k, owner := o, off := f, cause := c, record } :: s.objErr }

/-- Reads the 16 bytes of an object. -/
def objLoad (s : State) (who : Access) (e : LogEntry) : Except Stop ((Loc × Word × Word) × State) := do
  let (t, s) ← resolve s who e
  if t.cut s who.core then .error (.trap (etrap .remoteTimeout e) s)
  else
    let s := if t.remote s then countFlits s else s
    let b ← (match t.loc with
      | .srf c off => if (s.getCore c).srfBad off 16 then .error (.trap (etrap .uncorrectedSrf e) s)
          else .ok (locBytes s t.loc 16, s)
      | .dev _ => .error (.trap (etrap .mmioWidth e) s)
      | l => atStack s e (l.key s) true (writesMem e.opc) fun _ => .ok (locBytes s l 16, s) : Served)
    .ok ((t.loc, BitVec.ofNat 64 (leNat (b.1.take 8)), BitVec.ofNat 64 (leNat (b.1.drop 8))), b.2)

def objStore (s : State) (l : Loc) (w0 w1 : Word) : State :=
  let b := leBytes 8 w0.toNat ++ leBytes 8 w1.toNat
  match l with
  | .srf c off => s.onCore c fun x => x.putSrf (atAddr off b)
  | .stk p k o => stkPut s p k o b
  | .host p off => hostWrites s p off b
  | .dev _ => s

/-- One read-modify-write of all 16 bytes; `f` may leave the object as it is. -/
def objUpdateAt (s : State) (who : Access) (addr : Word) (f : Word → Word → Option (Word × Word)) :
    Except Stop ((Loc × Bool) × State) := do
  let ((l, w0, w1), s) ← objLoad s who (engEntry s objUpdate addr 16 [])
  match f w0 w1 with
  | none => .ok ((l, false), s)
  | some (v0, v1) => .ok ((l, true), objStore s l v0 v1)

/-- Adds 1 to INFLIGHT of the object that an engine instruction names (R357). -/
def countInflight (_ w1 : Word) : Option Word :=
  if objInflight w1 == 0xFFFF then none else some (setFld w1 16 16 (objInflight w1 + 1))

/-- What a CP asks of an object, as its request says: 1 arms it, 2 arrives at it, 3 counts an instruction (R356-R358). -/
def objRequest (s : State) (a : Word) (op : BitVec 4) (v : Word) : LogEntry :=
  { engEntry s objUpdate a 16 [] with aop := op, operand := v }

/-- The request is served: the object's place, and whether it took the update. Arming forgets the object's fault. -/
def serveObject (s : State) (who : Access) (e : LogEntry) : Except Stop ((Loc × Bool) × State) := do
  let ((l, done), s) ← objUpdateAt s who e.addr fun w0 w1 =>
    match e.aop.toNat with
    | 1 => some (objArm e.operand.toNat w1)
    | 2 => some (barrierAdd w0 w1 e.operand.toNat false false)
    | _ => (countInflight w0 w1).map fun v => (w0, v)
  .ok ((l, done), if e.aop == 1 then forgetObjErr s l else s)

/-- The object lies in another package, which is asked for it (R442, R443). -/
def objRemote (s : State) (who : Access) (e : LogEntry) : Bool :=
  match resolve s who e with
  | .ok (t, _) => t.remote s
  | .error _ => false

/-- A request of a CP to an object in another package is sent, and its response awaited; with it, or at once, `go` follows
(R317, R443). `interrupted` says that the word is a blocking wait. -/
def cpObject (s : State) (e : LogEntry) (interrupted : Bool) (go : State → Body) : Body :=
  if s.core.cp.remote.isNone && objRemote s (cpAccess s) e then
    let s := s.onCp fun c => { c with remote := some { e with since := s.clock } }
    .error (if interrupted then .waitAt e.addr s else .hold s)
  else go (s.onCp fun c => { c with remote := none })

/-! ## Fault records (R414, R415) -/

def recordWords (s : State) (e : QEntry) (f : EngFault) : List Word :=
  [BitVec.ofNat 64 (f.cause.code.toNat + e.cancelled.toNat * 2 ^ 7 + e.opc.toNat * 2 ^ 8 + coreNum s.focus * 2 ^ 16 +
      coreDie s.focus * 2 ^ 23 + ((e.tok.getD 0).toNat) * 2 ^ 26 + e.tok.isSome.toNat * 2 ^ 29),
    BitVec.ofNat 64 f.offset, f.addr, BitVec.ofNat 64 e.seq]

def wordsBytes (l : List Word) : List Byte := l.flatMap fun w => leBytes 8 w.toNat

/-- Who makes the launch unit's own accesses for a launch; `page` is the page waited on. -/
def launchAccess (core : Nat) (l : Launch) (page : Option PageWait) : Access :=
  { core, asid := l.asid, sup := true, refused := PageWait.refusal l.asid page }

/-- Writes a fault record; the index of the record, 0xFFFF when it is lost. -/
def writeFault (s : State) (l : Launch) (e : QEntry) (f : EngFault) : EngM (BitVec 16 × State) :=
  let who := launchAccess s.focus l e.page
  let bump (s : State) (g : Launch → Launch) (r : BitVec 16) : EngM (BitVec 16 × State) :=
    let l' := g l
    match engStore s who l.faultArea (wordsBytes [BitVec.ofNat 64 l'.written, BitVec.ofNat 64 l'.lost]) with
    | .ok (_, s') => .ok (r, s'.onLaunch l.id g)
    | .error (.fail c _ s') => .ok (0xFFFF, logError s' c 10 l.queue)
    | .error x => .error x
  if l.written < l.faultCap then
    match engStore s who (l.faultArea + BitVec.ofNat 64 (64 + 32 * l.written)) (wordsBytes (recordWords s e f)) with
    | .ok (_, s') => bump s' (fun l => { l with written := l.written + 1 }) (BitVec.ofNat 16 l.written)
    | .error (.fail c _ s') => bump (logError s' c 10 l.queue) (fun l => { l with lost := l.lost + 1 }) 0xFFFF
    | .error x => .error x
  else bump s (fun l => { l with lost := l.lost + 1 }) 0xFFFF

/-! ## Completion (R353, R355, R357, R360, R492) -/

/-- An unreported instruction is kept, or the overflow flag is set (R492). -/
def addUnreported (u : StreamUnit) (x : Unreported) : StreamUnit :=
  if u.unreported.length < 64 then { u with unreported := u.unreported ++ [x] }
  else { u with overflow := u.overflow.or (some x.cause) }

/-- Removes an instruction from those queued and in flight. -/
def dropEntry (u : StreamUnit) (seq : Nat) : StreamUnit :=
  { u with
    queue := u.queue.filter (·.seq != seq)
    flight := u.flight.filter (·.seq != seq)
    owed := u.owed.filter (·.owner.seq != seq) }

/-- The token's part of a completion. -/
def reportToken (u : StreamUnit) (e : QEntry) (f : Option Cause) (record : BitVec 16) : StreamUnit :=
  match e.tok with
  | none => u
  | some t =>
    let w := tokOf u t
    { u with
      tok := u.tok.set t.toFin (tokDone w f e.flags)
      tokRec := if tokState w == 1 && f.isSome then u.tokRec.set t.toFin record else u.tokRec }

/-- An instruction of a program that has ended reports to the completion record and to the host (R360). -/
def reportOrphan (s : State) (l : Launch) (c : Cause) : State :=
  if s.core.cp.run == .running then s
  else
    let s := s.onLaunch l.id (Launch.error (some c))
    if l.msix then s.onMd fun m => { m with msix := m.msix ++ [l.vector] } else s

/-- The contribution of an instruction to its barrier object (R357). -/
def contribute (s : State) (e : QEntry) (a : Word) (err : Bool) (n : Nat) : Except Stop ((Loc × Bool) × State) :=
  objUpdateAt s (engAccess s e) a fun w0 w1 => some (barrierAdd w0 w1 n err (e.opc != 0xDF))

/-- The object of an instruction that completes with fault `f` is tried: one that cannot be reached is a fault of its own,
and takes no contribution (R356). -/
def tryObject (s : State) (e : QEntry) (f : Option EngFault) (n : Nat) : EngM ((QEntry × Option EngFault) × State) :=
  match e.bar with
  | none => .ok ((e, f), s)
  | some a =>
    match contribute s e a f.isSome n with
    | .ok _ => .ok ((e, f), s)
    | .error x =>
      match engStopOf (engAccess s e) a x with
      | .fail c a s' => .ok (({ e with bar := none }, f.or (some { cause := c, addr := a })), s')
      | y => .error y

/-- The fault record of an instruction of a launch (R415). -/
def recordFault (s : State) (e : QEntry) (f : Option EngFault) : EngM (BitVec 16 × State) :=
  match f, s.core.prog.bind fun p => s.launch? p.launch with
  | some x, some l => do
    let (r, s) ← writeFault s l e x
    .ok (r, reportOrphan s l x.cause)
  | _, _ => .ok (0xFFFF, s)

/-- Once its record has been written, an instruction is reported to its token, then to its object (R353, R415). -/
def reportEntry (s : State) (e : QEntry) (f : Option EngFault) (n : Nat) (record : BitVec 16) : State :=
  let s := s.onSt fun u =>
    let u := reportToken (dropEntry u e.seq) e (f.map (·.cause)) record
    match f with
    | some x => addUnreported u ⟨e.seq, e.opc == 0xD8, e.tok, x.cause, record⟩
    | none => u
  match e.bar with
  | none => s
  | some a =>
    match contribute s e a f.isSome n, f with
    | .ok ((l, _), s'), some x => noteObjErr s' l x.cause record
    | .ok (_, s'), none => s'
    | .error _, _ => s

def putFlight (s : State) (e : QEntry) : State :=
  s.onSt fun u => { u with flight := u.flight.map fun x => if x.seq == e.seq then e else x }

/-- A request to the instruction's object, which lies in another package, is still to be sent (R443). -/
def asksAway (s : State) (e : QEntry) (a : Option Word) (opc : BitVec 8) : Bool :=
  e.sent.isNone && a.any fun a => objRemote s (engAccess s e) (engEntry s opc a 16 [])

/-- An instruction completes on the focused core, with its fault and counted prefix. An access that must wait leaves it in
flight, completing. Answers whether it failed. -/
def finishEntry (s : State) (e : QEntry) (f : Option EngFault) (n : Nat) : Bool × State :=
  let waits (e : QEntry) (f : Option EngFault) (p : Option PageWait) (s : State) : Bool × State :=
    (false, putFlight s { e with stage := .completing f n, page := p })
  if asksAway s e e.bar objUpdate then waits { e with sent := some s.clock } f none s
  else
  match tryObject s e f n with
  | .error (.wait p s') => waits e f p s'
  | .error (.fail _ _ s') => waits e f none s'
  | .ok ((e, f), s') =>
    match recordFault s' e f with
    | .error (.wait p s'') => waits e f p s''
    | .error (.fail _ _ s'') => waits e f none s''
    | .ok (r, s'') => (f.isSome, reportEntry s'' e f n r)

/-! ## Conflicts and cancellation (R348, R361) -/

def overlaps (a b : Extent) : Bool := a.lo < b.hi && b.lo < a.hi

/-- The port and ring of an `srecv`. -/
def QEntry.ringOf (e : QEntry) : Option Nat := if e.opc == 0xD7 then some (fld e.a 0 16) else none

/-- Y conflicts with an older X; two `srecv` on one ring do (R455). -/
def conflicts (x y : QEntry) : Bool :=
  x.seq < y.seq &&
    (y.ser || (x.ringOf.isSome && x.ringOf == y.ringOf) ||
      x.decls.any fun a => y.decls.any fun b => (a.write || b.write) && overlaps a b)

/-- Cancels, in queue order, what conflicts with a failed or cancelled instruction. -/
def cancelFrom (s : State) (failed : List QEntry) : List QEntry → State
  | [] => s
  | y :: rest =>
    if failed.any fun x => conflicts x y then
      let f : EngFault := { cause := .engineFault }
      let y := { y with cancelled := true, stage := .completing (some f) 0, page := none }
      let s := s.onSt fun u => { u with queue := u.queue.filter (·.seq != y.seq), flight := u.flight ++ [y] }
      cancelFrom (finishEntry s y (some f) 0).2 (y :: failed) rest
    else cancelFrom s failed rest

/-- Completion with its cancellations. -/
def completeEntry (s : State) (e : QEntry) (f : Option EngFault) (n : Nat) : State :=
  let (failed, s') := finishEntry s e f n
  if failed then cancelFrom s' [e] s'.core.st.queue else s'

/-- Once an ended program's last engine instruction has completed, its group may settle (R468). -/
def afterEngine (s : State) : State :=
  match s.core.prog with
  | some p => if s.core.cp.run == .stopped then settleGroup s p.launch (coreDie s.focus) p.base p.size else s
  | none => s

end Sys2Proof.Machine
end

