-- ==== Sys2Proof/Machine/Uses.lean ====
section
/-! DEFINITION. What a slot word reads and writes, for the bundle-level checks SLOT_CONFLICT and STALL_SHORT (R118,
R121, R123). -/

namespace Sys2Proof.Machine

/-- A register file of the kernel (R106). -/
inductive KFile where
  | k | p | v | m | a | q
  deriving DecidableEq, Repr

/-- A register of a file. -/
structure KReg where
  file : KFile
  num : Nat
  deriving DecidableEq, Repr

/-- Reads, each with the distance from issue at which it is made, and writes, all at issue + `lat`. -/
structure Use where
  reads : List (KReg × Nat)
  writes : List KReg
  lat : Nat
  deriving DecidableEq, Repr

def kr (x : BitVec 6) : List KReg := if x.toNat % 32 == 0 then [] else [⟨.k, x.toNat % 32⟩]
def pr (x : BitVec 6) : List KReg := if x.toNat % 8 == 0 then [] else [⟨.p, x.toNat % 8⟩]
def mr (x : BitVec 6) : List KReg := [⟨.m, x.toNat % 8⟩]
def ar (x : BitVec 6) : List KReg := [⟨.a, x.toNat % 4⟩]
def qr (x : BitVec 6) : List KReg := [⟨.q, x.toNat % 4⟩]
/-- `n` vector registers from `x`. -/
def vrs (x : BitVec 6) (n : Nat) : List KReg := (List.range n).map fun i => ⟨.v, (x.toNat + i) % 64⟩
def vr (x : BitVec 6) : List KReg := vrs x 1

def now (l : List KReg) : List (KReg × Nat) := l.map fun r => (r, 0)

/-- B of a word that may take it from LIMM. -/
def useB (w : RForm) (f : BitVec 6 → List KReg) : List KReg := if w.l == 1 then [] else f w.b

/-- The mask and the old destination of a masked vector word (R178). -/
def useMask (w : RForm) (old : List KReg) : List KReg :=
  if w.fn.getLsbD 7 then ⟨.m, w.fn.toNat / 16 % 8⟩ :: old else []

def intLat (o : Nat) : Nat := match o with
  | 0x03 => 3
  | 0x04 => 4
  | 0x05 => 36
  | 0x06 => 36
  | _ => 1

/-- Latency 2 for an integer type, 4 for a floating one (R118). -/
def elemLat (w : RForm) : Nat := if tyIsInt w.ty then 2 else 4

/-- Scalar R-form words (R83-R93, R336, R337). -/
def scalarUse (o : Nat) (w : RForm) : Use :=
  let bin (lat : Nat) : Use := ⟨now (kr w.a ++ useB w kr), kr w.d, lat⟩
  let una (lat : Nat) : Use := ⟨now (kr w.a), kr w.d, lat⟩
  match o with
  | 0x09 => una 1
  | 0x0A => una 1
  | 0x12 => una 1
  | 0x1A => ⟨now (kr w.a ++ useB w kr ++ if w.fn.toNat / 64 == 0 then [] else pr w.d), pr w.d, 1⟩
  | 0x1C => ⟨now (pr w.a ++ pr w.b), pr w.d, 1⟩
  | 0x1D =>
    let ps := (List.range 7).map fun i => (⟨.p, i + 1⟩ : KReg)
    if w.fn == 0 then ⟨now ps, kr w.d, 1⟩ else ⟨now (kr w.a), ps, 1⟩
  | 0x1E => ⟨now (pr w.c ++ kr w.a ++ kr w.b), kr w.d, 1⟩
  | 0x22 => bin (if w.ty == 8 then 24 else 12)
  | 0x23 => una (if w.ty == 8 then 24 else 12)
  | 0x24 => ⟨now (kr w.a ++ useB w kr ++ kr w.c), kr w.d, 4⟩
  | 0x28 => una 1
  | 0x29 => una 3
  | 0x2B => una 1
  | 0xC4 => if w.fn == 2 then bin 1 else una 1
  | 0xC5 => ⟨now (kr w.a), pr w.d, 1⟩
  | _ => bin (if 0x1F ≤ o && o ≤ 0x21 then 4 else intLat o)

/-- Vector words (R178-R195). A `vcvt` that fills part of its destination keeps the rest, and so reads it (R186), and
so does `vins` (R192). -/
def vectorUse (o : Nat) (w : RForm) : Use :=
  let un (lat : Nat) : Use := ⟨now (vr w.a ++ useMask w (vr w.d)), vr w.d, lat⟩
  let bi (lat : Nat) : Use := ⟨now (vr w.a ++ useB w vr ++ useMask w (vr w.d)), vr w.d, lat⟩
  let tri (lat : Nat) : Use := ⟨now (vr w.a ++ useB w vr ++ vr w.c ++ useMask w (vr w.d)), vr w.d, lat⟩
  let sub := w.fn.toNat % 16
  let code := w.c.toNat
  let band := if fmtKF code then useB w vr else []
  let payload := if fmtKF code || fmtMX code then 2 else 1
  match o with
  | 0x43 => bi 2
  | 0x44 => tri (elemLat w)
  | 0x47 => un 2
  | 0x48 => if sub == 0 then bi 12 else un 12
  | 0x49 => if sub == 4 then un 2 else bi 2
  | 0x4A => bi 2
  | 0x4B => ⟨now (vr w.a ++ useB w vr ++ useMask w (mr w.d)), mr w.d, elemLat w⟩
  | 0x4C => ⟨now (mr w.c ++ vr w.a ++ useB w vr), vr w.d, 2⟩
  | 0x4D => ⟨now (if sub < 4 then mr w.a ++ mr w.b else if sub == 4 then mr w.a else []), mr w.d, 2⟩
  | 0x4E => ⟨now (mr w.a), kr w.d, 8⟩
  | 0x4F =>
    let kept := if tyNel w.ty > tyNel (w.c.setWidth 5) then vr w.d else []
    ⟨now (vr w.a ++ kept ++ useMask w (if kept.isEmpty then vr w.d else [])), vr w.d, 4⟩
  | 0x50 => ⟨now (vrs w.a (rowRegs w.ty) ++ band), vrs w.d payload, 4⟩
  | 0x51 => ⟨now (vrs w.a payload ++ band), vrs w.d (rowRegs w.ty), 4⟩
  | 0x52 => bi 3
  | 0x53 => bi 3
  | 0x54 => bi 2
  | 0x55 => ⟨now (vr w.a ++ useMask w []), vr w.d, 8⟩
  | 0x56 => ⟨now (vr w.a), vr w.d, 10⟩
  | 0x57 => ⟨now (useMask w (vr w.d)), vr w.d, 2⟩
  | 0x58 => ⟨now (kr w.a ++ useMask w (vr w.d)), vr w.d, 2⟩
  | 0x59 => ⟨now (vr w.a), kr w.d, 2⟩
  | 0x5A => ⟨now (kr w.a ++ vr w.d), vr w.d, 2⟩
  | 0x5B => if sub == 0 then ⟨[], vr w.d, 2⟩ else if sub == 1 then ⟨now (vr w.a), [], 2⟩ else ⟨[], [], 2⟩
  | 0x5C => if sub < 2 then bi 4 else tri 4
  | 0x5D => tri (elemLat w)
  | 0x5E => bi 2
  | 0x5F => un 2
  | 0x60 => tri (elemLat w)
  | 0x61 => un 4
  | 0x62 => bi 4
  | _ => bi (elemLat w)

/-- Matrix words and fills (R201, R206, R209, R212). A pass reads its accumulator at issue + 8. -/
def matrixUse (o : Nat) (w : RForm) : Use :=
  match o with
  | 0x80 => ⟨now (qr w.a ++ qr w.b) ++ (ar w.d).map fun r => (r, 8), ar w.d, 40⟩
  | 0x81 => ⟨[], ar w.d, 2⟩
  | 0x82 => ⟨now (ar w.a ++ useB w kr), vrs w.d (taccRegs w), 8⟩
  | 0x83 => ⟨now (vrs w.a (taccRegs w) ++ useB w kr ++ ar w.d), ar w.d, 4⟩
  | 0x84 => ⟨now (ar w.d), ar w.d, 8⟩
  | 0x85 => ⟨now (if w.fn == 0 then ar w.a else qr w.a), kr w.d, 2⟩
  | 0x86 => ⟨now (ar w.a), ar w.d, 4⟩
  | 0x87 => ⟨[], qr w.d, 2⟩
  | 0x88 => ⟨now (ar w.a ++ ar w.d), ar w.d, 8⟩
  | _ =>
    let form := w.fn.toNat % 4
    let old := if form != 0 && w.fn.toNat / 4 % 4 != 0 then qr w.d else []
    let b := if form == 0 then useB w kr else if form == 2 then vr w.b else []
    ⟨now (kr w.a ++ b ++ kr w.c ++ old), qr w.d, if form == 2 then 24 else 16⟩

/-- Transform words write no register; D is read (R226). -/
def xUse (o : Nat) (w : RForm) : Use :=
  ⟨now (kr w.a ++ kr w.b ++ kr w.d ++ if o == 0xA2 then kr w.c else []), [], 0⟩

/-- Memory words of the S and C slots (R96, R319-R334): a landing writes at its due distance. -/
def memUse (o : Nat) (w : MForm) : Use :=
  let addr := kr w.a ++ if 0xBA ≤ o && o ≤ 0xBD then [] else kr w.b
  let due := w.due.toNat
  let load (d : List KReg) : Use := ⟨now addr, d, due⟩
  match o with
  | 0xB0 => load (kr w.d)
  | 0xB2 => load (kr w.d)
  | 0xB4 => load (kr w.d ++ kr (w.d + 1))
  | 0xB5 => ⟨now (addr ++ kr w.d ++ kr (w.d + 1)), [], 0⟩
  | 0xB6 => ⟨now addr, [], 0⟩
  | 0xB7 => ⟨now addr, [], 0⟩
  | 0xB8 => load (kr w.d)
  | 0xBA => ⟨now (addr ++ kr w.b ++ kr w.d), kr w.d, due⟩
  | 0xBB => ⟨now (addr ++ kr w.b), [], 0⟩
  | 0xBC => ⟨now (addr ++ kr w.b), kr w.d, due⟩
  | 0xBE => ⟨now addr, vr w.d, if due == 0 then 6 else due⟩
  | 0xBF => ⟨now (addr ++ vr w.d), [], 0⟩
  | 0xC0 => ⟨now (kr w.a ++ vr w.b), vr w.d, 6⟩
  | 0xC1 => ⟨now (kr w.a ++ vr w.b ++ vr w.d), [], 0⟩
  | 0xC2 => ⟨now addr, vr w.d, if due == 0 then 6 else due⟩
  | 0xB9 => ⟨now addr, [], 0⟩
  | 0xBD => ⟨[], [], 0⟩
  | _ => ⟨now (addr ++ kr w.d), [], 0⟩

/-- I-form and system words of the S slot (R85-R99). -/
def immUse (o : Nat) (w : IForm) : Use :=
  match o with
  | 0x16 => ⟨[], kr w.d, 1⟩
  | 0x17 => ⟨now (kr w.d), kr w.d, 1⟩
  | 0x19 => ⟨[], kr w.d, 1⟩
  | 0x1B => ⟨now (kr w.a), pr w.d, 1⟩
  | 0x2C => ⟨now (kr w.a), [], 1⟩
  | 0x2D => ⟨now (kr w.d), kr w.d, 1⟩
  | 0x2E => ⟨now (kr w.a ++ if w.fn == 2 then kr w.d else []), kr w.d, 1⟩
  | 0xC6 => ⟨[], [], 0⟩
  | 0xE0 => ⟨[], kr w.d, 2⟩
  | 0xE1 => ⟨[], [], 0⟩
  | 0xE2 => ⟨[], [], 0⟩
  | _ => ⟨now (kr w.a), kr w.d, 1⟩

/-- The word's own operands. -/
def rawUse : Raw → Use
  | .r o w =>
    let n := o.toNat
    if n < 0x40 then scalarUse n w
    else if n < 0x80 then vectorUse n w
    else if n < 0xA0 || n == 0xC3 then matrixUse n w
    else if n < 0xB0 then xUse n w
    else scalarUse n w
  | .i o w => immUse o.toNat w
  | .j _ w => ⟨[], kr w.d, 1⟩
  | .m o w => memUse o.toNat w
  | .s _ _ => ⟨[], [], 0⟩

/-- What a slot word reads and writes, its guard included. -/
def slotUse (i : Instr) : Use :=
  match Instr.raw i with
  | none => ⟨[], [], 0⟩
  | some r =>
    let u := rawUse r
    { u with reads := now (pr ((r.guard.setWidth 3).setWidth 6)) ++ u.reads }

/-- The unit that a slot word needs free: 0 the divider, 1 the floating divider, 2 the tile multiplier, 3 the transform
unit (R118, R120, R212). -/
def unitOf (opc : BitVec 8) : Option (Fin 4) :=
  let n := opc.toNat
  if n == 0x05 || n == 0x06 then some 0
  else if n == 0x22 || n == 0x23 then some 1
  else if n == 0x80 || n == 0x88 then some 2
  else if 0xA0 ≤ n && n ≤ 0xA7 then some 3
  else none

end Sys2Proof.Machine
end

