-- ==== Sys2Proof/Machine/Kernel.lean ====
section
/-! DEFINITION. The kernel engine over time: bundle issue, timed writes, landings, passes, transforms, faults and stops,
the start and the end of a kernel, `kresume`, and the watchdogs (R115-R134, R210, R229, R311, R387, R402-R413,
R421). -/

namespace Sys2Proof.Machine

/-! ## Timed events (R119, R127, R210, R229) -/

/-- What takes effect at a cycle of kernel time. -/
inductive KEvent where
  | write (w : PendWrite)
  | land (i : Fin 32) (e : LogEntry)
  | pass (p : Pass)
  | xform (x : Xform)
  deriving DecidableEq, Repr

def KEvent.due : KEvent → Nat
  | .write w => w.due
  | .land _ e => e.due
  | .pass p => p.issue + 40
  | .xform x => x.due

def KEvent.seq : KEvent → Nat
  | .write w => w.seq
  | .land _ e => e.seq
  | .pass p => p.seq
  | .xform x => x.seq

/-- Events of one cycle apply in the issue order of their words (R119). -/
def KEvent.before (a b : KEvent) : Bool := a.due < b.due || (a.due == b.due && a.seq < b.seq)

def firstEvent (l : List KEvent) : Option KEvent :=
  l.foldl (fun m e => match m with
    | none => some e
    | some x => if e.before x then some e else some x) none

def landEvents (k : Kern) : List KEvent :=
  (List.finRange 32).filterMap fun i => (k.landing.get i).map fun e => .land i e

def Kern.timed (k : Kern) : List KEvent :=
  k.pend.map .write ++ landEvents k ++ k.passes.map .pass ++ k.xforms.map .xform

/-- What completes before a stop: passes, transforms and pending writes to latches and accumulators (R211, R408). -/
def KEvent.drains : KEvent → Bool
  | .write w =>
    match w.what with
    | .latch _ _ => true
    | .latchClear _ => true
    | .acc _ _ _ => true
    | _ => false
  | .land _ _ => false
  | .pass _ => true
  | .xform _ => true

/-! ## Writes taking effect -/

def setRaised (f : Vector Word 16) (r : Vector (BitVec 7) 16) : Vector Word 16 :=
  Vector.zipWith (fun w x => w ||| x.setWidth 64) f r

/-- A latch's new contents, seen by the passes that read it (R209). -/
def setLatch (k : Kern) (due : Nat) (q : BitVec 2) (x : Vector LatchLane 16) : Kern :=
  { k with
    latch := k.latch.set q.toFin x
    passes := k.passes.map fun p =>
      { p with a := if p.qa == q then p.a ++ [(due, x)] else p.a, b := if p.qb == q then p.b ++ [(due, x)] else p.b } }

def setAcc (k : Kern) (due : Nat) (d : BitVec 2) (x : Vector AccLane 16) : Kern :=
  { k with
    acc := k.acc.set d.toFin x
    passes := k.passes.map fun p => if p.d == d then { p with acc := p.acc ++ [(due, x)] } else p }

/-- A pending write of number `seq` takes effect (R119, R193, R203). -/
def applyWrite (c : Core) (due seq : Nat) : KWrite → Core
  | .k r v => { c with kern := c.kern.writeK r v }
  | .p r v => { c with kern := { c.kern with p := writePred c.kern.p r v } }
  | .v r x => { c with kern := { c.kern with v := c.kern.v.set r.toFin x } }
  | .m r x => { c with kern := { c.kern with m := c.kern.m.set r.toFin x } }
  | .laneFlags f => { c with kern := { c.kern with lflags := setRaised c.kern.lflags f } }
  | .laneWords x => { c with kern := { c.kern with lflags := x } }
  | .laneWord l x => { c with kern := { c.kern with lflags := c.kern.lflags.set l.toFin x } }
  | .laneClear => { c with kern := { c.kern with lflags := c.kern.lflags.map fun w => w &&& ~~~0x7F } }
  | .srf o b => c.kernSrf seq o b
  | .latch q f => { c with kern := setLatch c.kern due q (Vector.zipWith applyFill f (c.kern.latch.get q.toFin)) }
  | .latchClear q => { c with kern := setLatch c.kern due q ((c.kern.latch.get q.toFin).map LatchLane.empty) }
  | .acc t x f =>
    let k := setAcc c.kern due t x
    { c with kern := { k with lflags := setRaised k.lflags f } }

/-- The slot from which the next bundle issues (R412). -/
def Kern.resumeSlot (k : Kern) : Nat := if k.resume > 1 then k.resume else 1

/-- A matrix or transform fault is held until the boundary at which it is taken (R210, R211, R229). -/
def holdFault (s : State) (h : HeldFault) : State := s.onKern fun k => { k with held := k.held ++ [h] }

/-- A held fault stops the kernel before the next bundle issues. -/
def raiseHeld (s : State) (h : HeldFault) : State :=
  kernelStop s
    { trap := h.trap, slot := h.slot, opc := h.opc, late := none, kpc := s.core.kern.nextPc,
      resume := s.core.kern.resumeSlot }

/-- A pass ends (R209, R210). -/
def endPass (s : State) (p : Pass) : State :=
  let (r, t) := passResult p
  let s := s.onKern fun k =>
    let k := { k with passes := k.passes.filter fun q => q.seq != p.seq }
    match r with
    | none => k
    | some (x, f) =>
      let k := setAcc k (p.issue + 40) p.d x
      { k with lflags := setRaised k.lflags f }
  match t with
  | none => s
  | some t => holdFault s { trap := t, slot := 4, opc := 0x80 }

/-- The fault of a transform (R229). -/
def xformTrap (x : Xform) : Option Trap :=
  let detail := x.bundle.setWidth 32
  match x.bytes with
  | none => some { cause := .decompress, detail }
  | some _ => (lowestFlag (x.raised &&& x.enables)).map fun i => { cause := flagCause i, detail, lmask := 1 }

/-- A transform ends (R227, R229). -/
def endXform (s : State) (x : Xform) : State :=
  let s := s.onKern fun k => { k with xforms := k.xforms.filter fun y => y.seq != x.seq }
  match xformTrap x with
  | some t => (holdFault s { trap := t, slot := 7, opc := x.opc }).onKern Kern.forget
  | none =>
    let c := s.core.kernSrf x.seq (xformOrder x.opc) (x.bytes.getD [])
    let raised : Vector (BitVec 7) 16 := Vector.ofFn fun l => if l.val == 0 then x.raised else 0
    { s with core := { c with kern := { c.kern with lflags := setRaised c.kern.lflags raised } } }

/-- A landing's result is written and its entry freed (R127, R128). -/
def endLanding (s : State) (i : Fin 32) (e : LogEntry) : State :=
  match e.status with
  | .data b =>
    let c := s.core
    let c := { c with kern := { c.kern with landing := c.kern.landing.set i none } }
    { s with core := (landWrites e b).foldl (fun c w => applyWrite c e.due e.seq w) c }
  | _ => s

def runEvent (s : State) (e : KEvent) : State :=
  match e with
  | .write w =>
    let c := s.core
    let c := { c with kern := { c.kern with pend := c.kern.pend.filter fun x => x.seq != w.seq } }
    { s with core := applyWrite c w.due w.seq w.what }
  | .land i x => endLanding s i x
  | .pass p => endPass s p
  | .xform x => endXform s x

/-! ## Faults (R404-R411) -/

/-- KINFO (R113). -/
def kinfoOf (f : KStop) : Word :=
  BitVec.ofNat 64 (f.slot.toNat + f.trap.lane.toNat * 2 ^ 4 + f.late.isSome.toNat * 2 ^ 8 +
    (f.late.getD 0).toNat * 2 ^ 9 + f.trap.lmask.toNat * 2 ^ 16 + f.trap.detail.toNat * 2 ^ 32)

/-- The kernel is stopped: STATE 2, the record written, the cause pending on the CP (R404). -/
def reportKernel (s : State) (f : KStop) : State :=
  let s := s.onKern fun k =>
    { (k.show.setState 2).setResume f.resume with
      kpc := BitVec.ofNat 64 f.kpc
      kcause := BitVec.ofNat 64 f.trap.cause.code.toNat
      kinfo := kinfoOf f
      fault := some { opc := f.opc, addr := f.trap.addr, write := f.trap.write }
      stop := none
      resume := 0 }
  raiseAsync s s.focus f.trap.cause f.trap.detail true

/-- A failed entry, by its cause code and number; `queue` tells a write-queue entry. -/
structure Late where
  code : Nat
  num : Nat
  queue : Bool
  entry : LogEntry
  trap : Trap
  deriving DecidableEq, Repr

def lateOf (queue : Bool) (v : Vector (Option LogEntry) 32) : List Late :=
  (List.finRange 32).filterMap fun i =>
    (v.get i).bind fun e => match e.status with
      | .failed t => some ⟨t.cause.code.toNat, i.val, queue, e, t⟩
      | _ => none

/-- The late failure that is reported: the lowest cause code, then the lowest LENTRY (R411). -/
def firstLate (k : Kern) : Option Late :=
  (lateOf false k.landing ++ lateOf true k.wqueue).foldl (fun m x => match m with
    | none => some x
    | some y => if x.code < y.code || (x.code == y.code && x.num < y.num) then some x else some y) none

/-- A late fault stops the kernel at a bundle boundary (R411). -/
def lateStop (s : State) (x : Late) : State :=
  kernelStop s
    { trap := { x.trap with detail := if x.queue then x.trap.detail ||| 0x80000000 else x.trap.detail }
      slot := x.entry.slot, opc := x.entry.opc, late := some (BitVec.ofNat 5 x.num), kpc := s.core.kern.nextPc,
      resume := s.core.kern.resumeSlot }

/-! ## Bundles (R67, R73, R116-R125) -/

def storeWord64 (k : Kern) (i : Nat) : Word := (lookupNum i k.store).getD 0

def slotPlace (n : Nat) : Place :=
  match n with
  | 1 => .s
  | 2 => .v0
  | 3 => .v1
  | 4 => .m
  | 5 => .c0
  | 6 => .c1
  | _ => .x

def bundleHeaderBad (h : Word) : Bool := fld h 8 3 > 5 || fld h 11 21 != 0

def slotEnv (s : State) (limm : BitVec 32) (n : Nat) : Env := ⟨slotPlace n, limm, accepted s 0⟩

/-- A slot word of a bundle: its position, the word, its instruction. -/
structure SlotWord where
  pos : Nat
  word : Word
  instr : Instr
  deriving DecidableEq, Repr

/-- The words of bundle `pc` from a position on: those that execute, or the first that fails a check (R72, R73). -/
def bundleWords (s : State) (pc : Nat) (limm : BitVec 32) (lo : Nat) : Except (Nat × Word × Trap) (List SlotWord) :=
  (List.range 7).foldlM (fun l i =>
    let n := i + 1
    let w := storeWord64 s.core.kern (8 * pc + n)
    if n < lo then .ok l
    else
      match decodeSlot (slotEnv s limm n) w with
      | .bad t => .error (n, w, t)
      | .ok i => .ok (l ++ [⟨n, w, i⟩])
      | _ => .ok l) []

def opcOf (w : Word) : BitVec 8 := w.extractLsb' 56 8
def isBranch (w : SlotWord) : Bool := w.pos == 1 && 0x2A ≤ (opcOf w.word).toNat && (opcOf w.word).toNat ≤ 0x2D

/-- SLOT_CONFLICT (R121). -/
def slotConflict (l : List SlotWord) : Bool :=
  l.any fun x => l.any fun y => x.pos < y.pos && (slotUse x.instr).writes.any fun r => (slotUse y.instr).writes.contains r

/-- Cycles at which pending writes to a register take effect, that of a pass's accumulator included (R123). -/
def pendingAt (k : Kern) (r : KReg) : List Nat :=
  (k.pend.filterMap fun w =>
    let hit (b : Bool) : Option Nat := if b then some w.due else none
    match w.what with
    | .k x _ => hit (r == ⟨.k, x.toNat⟩)
    | .p x _ => hit (r == ⟨.p, x.toNat⟩)
    | .v x _ => hit (r == ⟨.v, x.toNat⟩)
    | .m x _ => hit (r == ⟨.m, x.toNat⟩)
    | .latch q _ => hit (r == ⟨.q, q.toNat⟩)
    | .latchClear q => hit (r == ⟨.q, q.toNat⟩)
    | .acc t _ _ => hit (r == ⟨.a, t.toNat⟩)
    | _ => none) ++
  (k.landing.toList.filterMap fun e => e.bind fun e =>
    let hit (b : Bool) : Option Nat := if b then some e.due else none
    match e.dest with
    | some (.k x) => hit (r == ⟨.k, x.toNat⟩)
    | some (.kpair x) => hit (r == ⟨.k, x.toNat⟩ || r == ⟨.k, x.toNat + 1⟩)
    | some (.v x) => hit (r == ⟨.v, x.toNat⟩)
    | some (.vall x) => hit (r == ⟨.v, x.toNat⟩)
    | none => none) ++
  k.passes.filterMap fun p => if r == ⟨.a, p.d.toNat⟩ then some (p.issue + 40) else none

/-- A pass still reads the latch at or after a cycle (R205, R209). -/
def passReads (k : Kern) (r : KReg) (t : Nat) : Bool :=
  r.file == .q && k.passes.any fun p => (p.qa.toNat == r.num || p.qb.toNat == r.num) && t ≤ p.issue + 31

def unitBusy (k : Kern) (t : Nat) (w : SlotWord) : Nat :=
  match unitOf (opcOf w.word) with
  | none => t
  | some u => Nat.max t (k.busy.get u)

/-- STALL_SHORT (R123). -/
def stallShort (k : Kern) (t : Nat) (l : List SlotWord) : Bool :=
  l.any fun w =>
    let u := slotUse w.instr
    (u.reads.any fun r => (pendingAt k r.1).any (· > t + r.2)) ||
      (u.writes.any fun r => (pendingAt k r).any (· ≥ t + u.lat) || passReads k r (t + u.lat)) ||
      unitBusy k t w > t

/-- The state in which a slot word reads its guard and its operands. -/
def atSlot (s : State) (w : SlotWord) : State := { s with place := slotPlace w.pos }

/-- The word takes a landing entry (R128), when its guard holds. -/
def needsLanding (s : State) (w : SlotWord) : Bool :=
  match Instr.raw w.instr with
  | some (.m _ m) => guardHolds (atSlot s w) m.guard && m.due != 0
  | _ => false

/-- The word takes a write-queue entry (R318), when its guard holds. -/
def needsQueue (s : State) (w : SlotWord) : Bool :=
  let s := atSlot s w
  match Instr.raw w.instr with
  | some (.m o m) =>
    guardHolds s m.guard &&
      (o == 0xB9 || o == 0xBB || (isStore o && (ownOffset s (eaIndexed s m)).isNone))
  | _ => false

def freeEntries (v : Vector (Option LogEntry) 32) : Nat := v.toList.countP Option.isNone

/-- The due cycle at which enough landing entries are free. -/
def landingFree (k : Kern) (short : Nat) : Nat :=
  let dues := (k.landing.toList.filterMap id).map (·.due)
  let sorted := dues.foldl (fun l x => (l.takeWhile (· ≤ x)) ++ x :: l.dropWhile (· ≤ x)) []
  sorted.getD (short - 1) k.nextIssue

/-- The bundle has committed, and its cycle is over (R116, R124, R334); a `trap.sw` stops the kernel before the next one
(R100). -/
def finishBundle (s : State) (b : Issue) : State :=
  let s := s.onKern fun k =>
    let d := b.delay.toNat
    let left := d - 1
    let k := { k with issuing := none, ktime := k.ktime + 1, nextIssue := k.ktime + 1 + b.stall + b.hold }
    if d == 0 then { k with nextPc := fld k.kpc 0 11 + 1 }
    else { k.setDelay left with nextPc := if left == 0 then fld k.kdtarget 0 11 else fld k.kpc 0 11 + 1 }
  match b.software with
  | none => s
  | some x =>
    kernelStop s
      { trap := { cause := .software, detail := x }, slot := 1, opc := 0xE1, late := none, kpc := s.core.kern.nextPc,
        resume := 1 }

/-- A fault that leaves bundle `pc` not issued (R405). Of a split bundle that resumes at a slot above 1, the header and the
words from that slot on are checked again, and a check that fails leaves RESUME_SLOT as it is; the words that have
committed and the checks of the bundle as a whole are not repeated: R73 and R405 speak of a bundle issued whole (DESIGN
CHOICE; log 20). -/
def bundleFault (s : State) (pc slot : Nat) (opc : BitVec 8) (t : Trap) : State :=
  kernelStop s
    { trap := t, slot := BitVec.ofNat 3 slot, opc, late := none, kpc := pc, resume := s.core.kern.resumeSlot }

/-- The slot words of a split bundle that have committed: those before RESUME_SLOT (R406). -/
def committedWords (s : State) (pc : Nat) (limm : BitVec 32) (lo : Nat) : List SlotWord :=
  (List.range (lo - 1)).filterMap fun i =>
    let w := storeWord64 s.core.kern (8 * pc + (i + 1))
    match decodeSlot (slotEnv s limm (i + 1)) w with
    | .ok x => some ⟨i + 1, w, x⟩
    | _ => none

/-- What a committed slot word asks of the end of its bundle, which stands at the same kernel time when it resumes: a
branch that it counts as not issued for the delay (R407), the stop of `trap.sw` (R100), the issue hold of an indexed move
(R334). Their operands stand as they were at the first issue (R408). -/
def recallWord (s : State) (b : Issue) (w : SlotWord) : Issue :=
  let s := atSlot s w
  let hold (m : MForm) : Issue :=
    if guardHolds s m.guard then { b with hold := Nat.max b.hold (bankLoad (elemOffsets s m) (tyBytes m.ty) - 1) } else b
  if isBranch w then { b with delay := 0 }
  else
    match w.instr with
    | .trapSw i => if guardHolds s i.guard then { b with software := some i.imm } else b
    | .sreadx m => hold m
    | .swritex m => hold m
    | _ => b

/-- The checked bundle starts to commit its slots, or a split one goes on with those from RESUME_SLOT (R412). -/
def startBundle (s : State) (pc : Nat) (h : Word) (l : List SlotWord) : State :=
  let k := s.core.kern
  let limm := h.extractLsb' 32 32
  let b : Issue := (committedWords s pc limm k.resumeSlot).foldl (recallWord s)
    { limm := limm, scope := h.extractLsb' 8 3, stall := fld h 0 8, hold := 0,
      words := l.map fun w => (BitVec.ofNat 3 w.pos, w.word),
      delay := BitVec.ofNat 2 k.delay, software := none, again := false }
  let s := s.onKern fun k => { k with kpc := BitVec.ofNat 64 pc, issuing := some b, resume := 0 }
  if l.isEmpty then finishBundle s b else s

/-- The cycle to which the landing entries hold a bundle (R128). -/
def landingHold (s : State) (l : List SlotWord) : Nat :=
  let k := s.core.kern
  let need := l.countP (needsLanding s)
  let free := freeEntries k.landing
  if need > free then Nat.max k.ktime (landingFree k (need - free)) else k.ktime

/-- A bundle issues at kernel time `nextIssue`, or is held or refused (R73, R116, R120-R125, R128, R318). STALL_SHORT is
judged at the cycle of issue, after the holds that landing entries ask for. -/
def issueBundle (s : State) : State :=
  let k := s.core.kern
  let pc := k.nextPc
  if pc ≥ 1024 then bundleFault s 1024 0 0 { cause := .kstoreRange, detail := BitVec.ofNat 32 pc }
  else
    let h := storeWord64 k (8 * pc)
    let whole := k.resumeSlot == 1
    if bundleHeaderBad h then bundleFault s pc 0 0 { cause := .badHeader }
    else
      match bundleWords s pc (h.extractLsb' 32 32) k.resumeSlot with
      | .error (n, w, t) => bundleFault s pc n (opcOf w) t
      | .ok l =>
        let free := l.foldl (fun t w => Nat.max t (unitBusy k k.ktime w)) k.ktime
        if whole && slotConflict l then bundleFault s pc 0 0 { cause := .slotConflict }
        else if whole && k.delay != 0 && l.any isBranch then bundleFault s pc 0 0 { cause := .delayBranch }
        else if landingHold s l > k.ktime then s.onKern fun k => { k with nextIssue := landingHold s l }
        else if whole && k.check && accepted s 3 && stallShort k k.ktime l then
          bundleFault s pc 0 0 { cause := .stallShort }
        else if free > k.ktime then s.onKern fun k => { k with nextIssue := free }
        else if l.countP (needsQueue s) > freeEntries k.wqueue then s.onKern Kern.show
        else startBundle s pc h l

/-- A word of the M, C or X slot may read the SRF at issue: the walks of older accesses, each an acquire, are made before
it, unless one waits (R300). -/
def walksFirst (s : State) (n : Nat) : State := if n ≥ 4 then (walkOlder s s.core.kern.seq).getD s else s

/-- The next slot word to commit: its instruction, and the state in which it executes. -/
def slotNext (s : State) : Option (Instr × State) :=
  match (if s.core.cp.run == .running then s.core.kern.issuing else none) with
  | none => none
  | some b =>
    match b.words with
    | [] => none
    | (n, w) :: _ =>
      let s' := { ((walksFirst s n.toNat).onKern fun k => { k with issuing := some { b with again := false } }) with
        place := slotPlace n.toNat, limm := b.limm, scope := b.scope }
      match decodeSlot (slotEnv s b.limm n.toNat) w with
      | .ok i => some (i, s')
      | _ => none

/-- The slot word that commits before any other turn: one that has found no place lets others act (R318). -/
def slotFirst (s : State) : Option (Instr × State) :=
  if s.core.kern.issuing.any (·.again) then none else slotNext s

/-- After a slot word: the next one follows, or the bundle ends, unless the word executes again. -/
def slotDone (s : State) : State :=
  let s := { s with place := .cp }
  match s.core.kern.issuing with
  | none => s
  | some b =>
    if b.again then s
    else
      let b := { b with words := b.words.drop 1 }
      if b.words.isEmpty then finishBundle s b else s.onKern fun k => { k with issuing := some b }

/-! ## The end of a kernel (R126) -/

/-- The next bundle in sequence has the index END, and no delay bundle is due. -/
def Kern.ending (k : Kern) : Bool := k.nextPc == k.endIdx && k.delay == 0

/-- The kernel engine is free of its kernel, whose `krun` completes as given (R126, R387). -/
def leaveKernel (s : State) (f : Kern → Kern) (fault : Option EngFault) (n : QEntry → Nat) : State :=
  let s' := s.onKern f
  match s.core.kern.krun.bind fun q => s.core.st.flight.find? (·.seq == q) with
  | none => s'
  | some e => afterEngine (completeEntry s' e fault (n e))

/-- STATE becomes 0 and KPC END, and then the `krun` completes (R126, R384). -/
def finishKernel (s : State) : State :=
  leaveKernel s (fun k => { k.setState 0 with kpc := BitVec.ofNat 64 k.endIdx, krun := none, undo := [] }) none
    fun e => fld e.c 0 32

/-! ## What the kernel does next -/

inductive KNext where
  /-- Nothing: idle, stopped, or frozen. -/
  | rest
  /-- Kernel time stands from here on (R129). -/
  | stand
  /-- A slot word of the bundle in issue. -/
  | slots
  /-- A completion before a stop. -/
  | drain (e : KEvent)
  /-- The fault found is reported. -/
  | report (f : KStop)
  /-- A stop for pre-emption waits for its landings and writes (R428). -/
  | settle
  | held (h : HeldFault)
  | late (x : Late)
  /-- A barrier or fence releases. -/
  | thaw
  | event (e : KEvent)
  /-- A cycle of kernel time passes. -/
  | cycle
  | issue
  | finish
  deriving DecidableEq, Repr

/-- A freeze of `bar.wait`, `bar.sync` or `fence.sc` is over (R331, R339). -/
def thawed (s : State) : Bool :=
  match s.core.kern.freeze with
  | .none => true
  | .barrier die chan _ _ => barReleased s s.focus die chan.toNat
  | .fence q => s.core.kern.settled q

/-- A landing whose due cycle is reached has no data (R129). -/
def KEvent.absent : KEvent → Bool
  | .land _ e => !entryDone e
  | _ => false

/-- What is due by now: nothing of it takes effect while the data of one landing is absent (R119, R129). -/
def Kern.dueNow (k : Kern) : List KEvent := k.timed.filter fun e => e.due ≤ k.ktime

/-- A lane of the focused core is under test, and its kernel time stands (R423, R493). -/
def laneTested (s : State) : Bool := s.md.testing.any fun u => u.cls == 1 && u.index.toNat / 16 == s.focus

/-- Kernel time stands (R129, R331, R339, R423). -/
def kernFrozen (s : State) : Bool :=
  s.core.kern.freeze != .none || laneTested s || s.core.kern.dueNow.any KEvent.absent

/-- Kernel time stands: once for each freeze this is noted, and then nothing happens. -/
def Kern.standing (k : Kern) : KNext := if k.shown == k.showable then .rest else .stand

/-- Between faults and issue: the end of the kernel, the idle cycles, or the next bundle (R116, R126). -/
def Kern.onward (k : Kern) : KNext :=
  if k.ending then
    if !k.timed.isEmpty then .cycle
    else if k.wqueue.toList.all Option.isNone then .finish
    else k.standing
  else if k.ktime < k.nextIssue then .cycle
  else .issue

/-- The kernel runs: what takes effect at the start of this cycle precedes a fault taken at it (R119, R210). -/
def runningNext (s : State) : KNext :=
  let k := s.core.kern
  match (if kernFrozen s then none else firstEvent k.dueNow), k.held, firstLate k with
  | some e, _, _ => .event e
  | none, h :: _, _ => .held h
  | none, [], some x => .late x
  | none, [], none =>
    if k.freeze != .none && thawed s then .thaw else if kernFrozen s then k.standing else k.onward

def kernelNext (s : State) : KNext :=
  let k := s.core.kern
  let drain := firstEvent (k.timed.filter KEvent.drains)
  if s.core.cp.run != .running then .rest
  else
    match k.stop with
    | some f => (match drain with
      | some e => if laneTested s then .rest else .drain e
      | none => .report f)
    | none =>
      if k.stState != 1 then .rest
      else if k.issuing.isSome then .slots
      else if k.preStop then
        match drain with
        | some e => if laneTested s then k.standing else .drain e
        | none => if k.shown == k.showable then .settle else .stand
      else runningNext s

/-- A read of the landing buffer whose data is discarded by the drain of R428. -/
def drainEntry (e : LogEntry) : LogEntry :=
  if e.status == .inFlight && !isAtomic e.opc then { e with status := .logged } else e

/-- Every returning atomic holds its data and every write has been performed or has failed (R428). -/
def drainedEntries (k : Kern) : Bool :=
  let past (e : LogEntry) : Bool := e.status != .inFlight
  (k.landing.toList.filterMap id).all (fun e => !isAtomic e.opc || past e) && (k.wqueue.toList.filterMap id).all past

/-- The stop of R428 is complete. -/
def settleStop (s : State) : State :=
  if drainedEntries s.core.kern && !s.core.ctx.kstop then
    let c := s.core
    { s with core := { c with
        kern := { c.kern with landing := c.kern.landing.map fun o => o.map drainEntry }
        ctx := { c.ctx with kstop := true } } }
  else s

def kernelStep (s : State) : KNext → State
  | .rest => s
  | .stand => s.onKern Kern.show
  | .slots => slotDone s
  | .drain e => runEvent s e
  | .report f => reportKernel s f
  | .settle => settleStop s
  | .held h => raiseHeld (s.onKern fun k => { k with held := k.held.drop 1 }) h
  | .late x => lateStop s x
  | .thaw => s.onKern fun k => Kern.forget { k with freeze := .none }
  | .event e => runEvent s e
  | .cycle => s.onKern fun k => { k with ktime := k.ktime + 1 }
  | .issue => issueBundle s
  | .finish => finishKernel s

/-- A turn of the kernel engine of the focused core, but for the slot words: one cycle of kernel time at most. -/
def kernelTurn (s : State) : State := kernelStep s (kernelNext s)

/-! ## Events of the kernel engine -/

/-- The idle cycles pass up to the next issue or the next thing due. -/
def passIdle (s : State) : State :=
  match kernelNext s with
  | .cycle => s.onKern fun k =>
    let start := if k.ending then 2 ^ 64 + k.ktime else k.nextIssue
    { k with ktime := (k.timed.map KEvent.due).foldl Nat.min start }
  | _ => s

/-- Runs the kernel's next action when it is of the event's kind. -/
def kernelWhen (s : State) (core : Nat) (p : KNext → Bool) : Out :=
  .next (s.atCore core fun s => if p (kernelNext (passIdle s)) then kernelTurn (passIdle s) else s)

/-- KERNEL_BUNDLE_ISSUE (R116). -/
def execKernelBundleIssue (core : Nat) (s : State) : Out :=
  kernelWhen s core fun
    | .issue => true
    | _ => false

/-- FIXED_LATENCY_WRITE (R119). -/
def execFixedLatencyWrite (core : Nat) (s : State) : Out :=
  kernelWhen s core fun
    | .event (.write _) => true
    | .drain (.write _) => true
    | _ => false

/-- LANDING (R127). -/
def execLanding (core : Nat) (s : State) : Out :=
  kernelWhen s core fun
    | .event (.land _ _) => true
    | _ => false

/-- TMMA_PASS_COMPLETE (R210). -/
def execTmmaPassComplete (core : Nat) (s : State) : Out :=
  kernelWhen s core fun
    | .event (.pass _) => true
    | .drain (.pass _) => true
    | _ => false

/-- TRANSFORM_COMPLETE (R229). -/
def execTransformComplete (core : Nat) (s : State) : Out :=
  kernelWhen s core fun
    | .event (.xform _) => true
    | .drain (.xform _) => true
    | _ => false

/-- LATE_FAULT (R411): the stop, and its report. -/
def execLateFault (core : Nat) (s : State) : Out :=
  kernelWhen s core fun
    | .late _ => true
    | .report f => f.late.isSome
    | _ => false

/-- KERNEL_END (R126). -/
def execKernelEnd (core : Nat) (s : State) : Out :=
  kernelWhen s core fun
    | .finish => true
    | _ => false

def entryAt (v : Vector (Option LogEntry) 32) (i : Nat) : Option LogEntry := (v.toList[i]?).join

def putLanding (s : State) (i : Nat) (o : Option LogEntry) : State :=
  s.onKern fun k => { k with landing := k.landing.setIfInBounds i o }
def putQueue (s : State) (i : Nat) (o : Option LogEntry) : State :=
  s.onKern fun k => { k with wqueue := k.wqueue.setIfInBounds i o }

/-- The access of landing entry `i` is performed, or its response is lost (R129, R400). -/
def performLanding (s : State) (i : Nat) (lost : Bool) : State :=
  match entryAt s.core.kern.landing i with
  | none => s
  | some e =>
    match (if e.status == .inFlight then walkOlder s e.seq else none) with
    | none => s
    | some s' =>
      if mayPerform s' e then
        let (s', st) := performEntry s' e lost
        (putLanding s' i (some { e with status := st })).onKern Kern.forget
      else s

/-- A write-queue entry is performed and frees, or fails (R318). -/
def performQueue (s : State) (i : Nat) (lost : Bool) : State :=
  match entryAt s.core.kern.wqueue i with
  | none => s
  | some e =>
    match (if e.status == .inFlight then walkOlder s e.seq else none) with
    | none => s
    | some s' =>
      if mayPerform s' e then
        let (s', st) := performEntry s' e lost
        (putQueue s' i (match st with
          | .data _ => none
          | st => some { e with status := st })).onKern Kern.forget
      else s

/-- LANDING_DATA_ARRIVAL (R129). -/
def execLandingDataArrival (core entry : Nat) (lost : Bool) (s : State) : Out :=
  .next (s.atCore core fun s => performLanding s entry lost)

/-- WRITE_QUEUE_ACK (R318). -/
def execWriteQueueAck (core entry : Nat) (lost : Bool) (s : State) : Out :=
  .next (s.atCore core fun s => performQueue s entry lost)

/-- The oldest issued `krun` whose kernel has not run: it starts next, and until it has passed its gate no younger one does
(R133, R385, R392). -/
def nextKrun (u : StreamUnit) : Option QEntry :=
  (u.flight.find? fun e => e.opc == 0xD8 && match e.stage with
    | .completing _ _ => false
    | _ => true).filter fun e => e.stage == .running

/-- A kernel starts on the focused core (R133). Stopping holds it (R427). -/
def startKernel (s : State) : State :=
  if s.core.cp.run != .running || s.core.ctx.pend || s.core.kern.stState != 0 then s
  else
    match nextKrun s.core.st with
    | none => s
    | some e =>
      s.onKern fun k =>
        { ((k.setState 1).setDelay 0).setEnd (fld e.b 0 11) with
          kpc := BitVec.ofNat 64 (fld e.a 0 11)
          nextPc := fld e.a 0 11
          ktime := 0
          nextIssue := 0
          resume := 0
          busy := Vector.replicate 4 0
          krun := some e.seq }

/-- KERNEL_START (R133). -/
def execKernelStart (core : Nat) (s : State) : Out := .next (s.atCore core startKernel)

/-! ## Taking an asynchronous cause (R36) -/

/-- At a word boundary with IE = 1, outside an access in progress and an answer that `work` awaits (R37, R151). `idle`
completes first, and the cause is taken at the boundary after it (R104). -/
def mayTake (c : CP) : Bool :=
  c.run == .running && c.ie && c.work == .idle &&
    (match c.wait with
    | some w => !w.hold && w.opc != 0xE6
    | none => true)

def takePending (s : State) : State :=
  if mayTake s.core.cp then
    (match firstAsync s.core.cp.pending with
    | some a => takeAsync s a
    | none => s)
  else s

/-- TAKE_TRAP (R36). -/
def execTakeTrap (core : Nat) (s : State) : Out := .next (s.atCore core takePending)

/-! ## Watchdogs (R311, R402, R421) -/

def expired (s : State) (since : Nat) : Bool := s.clock - since > 2 ^ s.core.cp.wdlog

/-- `idle`, `halt` and `work` have no watchdog; that of `ldge` has its own cause. -/
def watched (opc : BitVec 8) : Bool := !(opc == 0xE5 || opc == 0xE6 || opc == 0xE8 || opc == 0xBC)

def cpWatchdog (s : State) : State :=
  match s.core.cp.wait with
  | none => s
  | some w =>
    if s.core.cp.run == .running && !w.hold && watched w.opc && expired s w.since then
      takeSync s { cause := .waitWatchdog } w.opc w.pc
    else s

/-- A barrier wait in the S slot: a fault of the S slot, the next bundle being resumed whole. -/
def kernWatchdog (s : State) : State :=
  match s.core.kern.freeze with
  | .barrier _ _ since _ =>
    if expired s since && s.core.kern.issuing.isNone && s.core.kern.stop.isNone && s.core.kern.stState == 1 &&
        !s.core.kern.preStop then
      kernelStop (s.onKern fun k => { k with freeze := .none })
        { trap := { cause := .waitWatchdog }, slot := 1, opc := 0xC6, late := none, kpc := s.core.kern.nextPc, resume := 1 }
    else s
  | _ => s

/-- WAIT_WATCHDOG_EXPIRY (R421). -/
def execWaitWatchdogExpiry (core : Nat) (kernel : Bool) (s : State) : Out :=
  .next (s.atCore core fun s => if kernel then kernWatchdog s else cpWatchdog s)

def cpThreshold (s : State) : State :=
  match s.core.cp.wait with
  | none => s
  | some w =>
    if s.core.cp.run == .running && w.opc == 0xBC && expired s w.since then
      takeSync s (gtrap .thresholdTimeout w.addr.toNat) w.opc w.pc
    else s

def kernThreshold (s : State) (i : Nat) : State :=
  match entryAt s.core.kern.landing i with
  | none => s
  | some e =>
    if e.opc == 0xBC && e.status == .inFlight && expired s e.since then
      putLanding s i (some { e with status := .failed (etrap .thresholdTimeout e) })
    else s

/-- THRESHOLD_TIMEOUT_EXPIRY (R311). -/
def execThresholdTimeoutExpiry (core : Nat) (entry : Option Nat) (s : State) : Out :=
  .next (s.atCore core fun s => match entry with
    | none => cpThreshold s
    | some i => kernThreshold s i)

/-- A GROUP_ABORT that has not been taken in time stops the core (R402). -/
def abortExpiry (s : State) : State :=
  if s.core.cp.run == .running && s.core.cp.pending.any (fun a => a.cause == .groupAbort && expired s a.since) then
    fatalStop s .groupAbort
  else s

/-- GROUP_ABORT_EXPIRY (R402). -/
def execGroupAbortExpiry (core : Nat) (s : State) : Out := .next (s.atCore core abortExpiry)

/-! ## `kresume` (R387, R412) -/

/-- Re-issues an entry without data from its log. -/
def reissue (clock : Nat) (e : LogEntry) : LogEntry :=
  if entryDone e then e else { e with status := .inFlight, since := clock, walked := none }

/-- The stopped kernel runs again. Where the core's grace period is over, it stops at the next bundle boundary (R428). -/
def resumeKernel (s : State) : State :=
  s.onKern fun k =>
    { (k.setState 1).setResume 0 with
      preStop := s.core.ctx.pend && s.core.ctx.expired
      resume := fld k.kstat 10 3
      nextPc := fld k.kpc 0 11
      fault := none
      landing := k.landing.map fun o => o.map (reissue s.clock)
      wqueue := k.wqueue.map fun o => o.map (reissue s.clock) }

/-- `kresume`. -/
def execKresume (w : SForm) (s : State) : Out :=
  runBody s 0xDA w.guard true false fun s => .ok (if s.core.kern.stState == 2 then resumeKernel s else s)

/-- A request still in flight when its kernel is discarded is performed or not (R7). -/
def abandonEntry (s : State) (e : LogEntry) : State :=
  if e.status == .inFlight && Config.freeChoice s.fresh then (performEntry { s with fresh := s.fresh + 1 } e false).1
  else { s with fresh := s.fresh + 1 }

/-- The kernel engine without its kernel. -/
def Kern.discard (k : Kern) : Kern :=
  { (k.setState 0).setResume 0 with
    kpc := BitVec.ofNat 64 k.endIdx
    resume := 0
    pend := []
    landing := Vector.replicate 32 none
    wqueue := Vector.replicate 32 none
    passes := []
    xforms := []
    fenceRel := false
    freeze := .none
    held := []
    undo := []
    issuing := none
    stop := none
    fault := none
    krun := none }

/-- The stopped kernel is discarded, and its `krun` completes with KERNEL_ABORT (R387). -/
def abortKernel (s : State) : State :=
  leaveKernel (s.core.kern.entries.foldl abandonEntry s) Kern.discard (some { cause := .kernelAbort }) fun _ => 0

/-- `kresume.abort`. -/
def execKresumeAbort (w : SForm) (s : State) : Out :=
  runBody s 0xDA w.guard true false fun s => .ok (if s.core.kern.stState == 2 then abortKernel s else s)

end Sys2Proof.Machine
end

