-- ==== Sys2Proof/Machine/Walker.lean ====
section
/-! DEFINITION. The walkers: ordinals, tickets and steals (R145-R151). -/

namespace Sys2Proof.Machine

/-- The dies that a steal of `die` asks, in order: the ring dies above it, then the others, never itself (R146, R148). A die
outside the ring that holds a stolen range is not asked, though R150 speaks of every other die (DESIGN CHOICE; log 26). -/
def stealOrder (ring : List Nat) (die : Nat) : List Nat :=
  ring.filter (· > die) ++ ring.filter (· < die)

def Launch.walker? (l : Launch) (die : Nat) : Option Walker := l.walkers.find? (·.die == die)
def Launch.onWalker (die : Nat) (f : Walker → Walker) (l : Launch) : Launch :=
  { l with walkers := l.walkers.map fun w => if w.die == die then f w else w }

def Launch.ring (l : Launch) : List Nat :=
  match l.nest with
  | some n => n.ring
  | none => []

/-- Answers a core's request (R147). -/
def answerWork (s : State) (n : Nat) (o : Option Nat) : State :=
  s.onCore n fun c => { c with cp := { c.cp with work := .answered o } }

/-- Serves waiting requests in order of arrival while the range holds ordinals (R147). -/
def serveQueue (s : State) (launch die : Nat) : List Nat → State
  | [] => s.onLaunch launch (Launch.onWalker die fun w => { w with queue := [] })
  | n :: rest =>
    match (s.launch? launch).bind (·.walker? die) with
    | none => s
    | some w =>
      if w.lo < w.hi then
        serveQueue (answerWork (s.onLaunch launch (Launch.onWalker die fun w => { w with lo := w.lo + 1 })) n (some w.lo))
          launch die rest
      else s.onLaunch launch (Launch.onWalker die fun w => { w with queue := n :: rest })

/-- A steal begins when a request waits and none is in flight (R148). One steal for each launch and die: two launches on
one die may steal at once (DESIGN CHOICE; log 26). -/
def startSteal (s : State) (launch die : Nat) : State :=
  s.onLaunch launch fun l =>
    Launch.onWalker die (fun w =>
      if w.steal.isNone && !w.queue.isEmpty && !w.dry then { w with steal := some (stealOrder l.ring die), got := false }
      else w) l

/-- A core's request reaches its die's walker (R105, R147): it is answered, or it waits. -/
def requestWork (s : State) (launch n : Nat) : State :=
  let die := coreDie n
  match (s.launch? launch).bind (·.walker? die) with
  | none => answerWork s n none
  | some w =>
    if w.dry then answerWork s n none
    else
      let s := s.onLaunch launch (Launch.onWalker die fun w => { w with queue := w.queue ++ [n] })
      let s := s.onCore n fun c => { c with cp := { c.cp with work := .waiting } }
      if w.steal.isSome then s
      else startSteal (serveQueue s launch die (w.queue ++ [n])) launch die

/-- A core of the launch on the die has a program that has not ended, a pre-empted one included (R148). -/
def launchLives (s : State) (l : Launch) (die : Nat) : Bool :=
  l.groups.any fun g => g.die == die &&
    (g.preempted || (groupCores die g.base l.g).any fun n => liveInGroup s l.id g.base n)

/-- `nestidx` (R145): index values of an ordinal for each dimension. -/
def nestIdx (n : Nest) (o : Nat) : Vector Word 4 :=
  let step (acc : Vector Word 4 × Nat) (k : Nat) : Vector Word 4 × Nat :=
    let (idx, o) := acc
    if k < n.ndim then
      let d := n.order.toArray.getD k 0
      let e := n.extent.toArray.getD d 1
      (idx.setIfInBounds d (BitVec.ofInt 64 (((o % e : Nat) : Int) * n.step.toArray.getD d 0)), o / e)
    else acc
  ([3, 2, 1, 0].foldl step (Vector.replicate 4 0, o)).1

/-- `work` writes its answer (R105, R145). -/
def giveWork (n : Nest) (o : Option Nat) (c : CP) : CP :=
  match o with
  | none => { c with work := .idle, p := writePred c.p 1 false }
  | some o =>
    let idx := nestIdx n o
    let c := { c with work := .idle, p := writePred c.p 1 true }
    ((((c.writeG 24 (idx.get 0)).writeG 25 (idx.get 1)).writeG 26 (idx.get 2)).writeG 27 (idx.get 3)).writeG 28
      (BitVec.ofNat 64 o)

/-- `work` (R105): the request, and its answer once the walker has given it. -/
def workBody (s : State) : Body :=
  match s.core.prog.bind (fun p => s.launch? p.launch) with
  | none => .error (.trap { cause := .workRecord } s)
  | some l =>
    match l.nest with
    | none => .error (.trap { cause := .workRecord } s)
    | some n =>
      if n.ndim == 0 then .error (.trap { cause := .workRecord } s)
      else
        let s := if s.core.cp.work == .idle then requestWork s l.id s.focus else s
        match s.core.cp.work with
        | .answered o => .ok (s.onCp (giveWork n o))
        | _ => .error (.wait s)

/-- The victim's part of a steal (R148, R149): it answers and adjusts its range in one step. -/
def stealAsk (s : State) (thief victim launch : Nat) : State :=
  match s.launch? launch with
  | none => s
  | some l =>
    match l.walker? thief with
    | none => s
    | some t =>
      match t.steal with
      | some (d :: rest) =>
        if d != victim then s
        else
          let goOn := s.onLaunch launch (Launch.onWalker thief fun w => { w with steal := some rest })
          match l.walker? victim with
          | none => goOn
          | some v =>
            let r := v.hi - v.lo
            let lives := launchLives s l victim
            if r == 0 || (lives && r ≤ 1) then goOn
            else
              let cut := if lives then v.lo + (r + 1) / 2 else v.lo
              s.onLaunch launch fun l =>
                Launch.onWalker thief (fun w => { w with lo := cut, hi := v.hi, steal := some [], got := true })
                  (Launch.onWalker victim (fun w => { w with hi := cut }) l)
      | _ => s

/-- The steal is back at the thief (R148): its requests are served, or the die is dry. -/
def stealBack (s : State) (thief launch : Nat) : State :=
  match (s.launch? launch).bind (·.walker? thief) with
  | none => s
  | some w =>
    match w.steal with
    | some [] =>
      if w.got then
        let s := s.onLaunch launch (Launch.onWalker thief fun w => { w with steal := none, got := false })
        startSteal (serveQueue s launch thief w.queue) launch thief
      else
        let s := w.queue.foldl (fun s n => answerWork s n none) s
        s.onLaunch launch (Launch.onWalker thief fun w => { w with steal := none, dry := true, queue := [] })
    | _ => s

/-- `work` (R105). -/
def execWork (w : IForm) (s : State) : Out := runPlain s 0xE8 w.guard workBody

/-- STEAL_REQUEST (R148). -/
def execStealRequest (thief victim launchId : Nat) (s : State) : Out := .next (stealAsk s thief victim launchId)

/-- STEAL_RETURN (R148). -/
def execStealReturn (thief launchId : Nat) (s : State) : Out := .next (stealBack s thief launchId)

end Sys2Proof.Machine
end

