-- ==== Sys2Proof/Machine/Launch.lean ====
section
/-! DEFINITION. The launch unit and the queues: packets, acceptance, grants, completion, code patches, unloads and
signals (R138-R146, R240, R464-R468, R482-R484). -/

namespace Sys2Proof.Machine

/-! ## Packets (R464, R465) -/

/-- The launch unit's own accesses are supervisor accesses of an address space (log 14); `page` is the page that they
wait on. -/
def unitAccess (asid : BitVec 16) (page : Option PageWait) : Access :=
  { core := 0, asid, sup := true, refused := PageWait.refusal asid page }

def queueAt (s : State) (q : Nat) : Queue := s.queues.toArray.getD q Queue.reset
def State.onQueue (s : State) (q : Nat) (f : Queue → Queue) : State :=
  { s with queues := s.queues.setIfInBounds q (f (queueAt s q)) }

/-- A wait for a page that the host has not answered (R263). -/
def pageOpen (p : Option PageWait) : Bool := p.any fun w => !w.refused

/-- A queue whose head packet may be read: the module runs, the queue is enabled and not empty. -/
def queueLive (s : State) (q : Nat) : Bool :=
  let r := queueAt s q
  s.md.mstate == 2 && q < 64 && r.enable && !r.err && r.depth != 0

def packetWords (n : Nat) (b : List Byte) : List Word :=
  (List.range n).map fun i => BitVec.ofNat 64 (leNat ((b.drop (8 * i)).take 8))

/-- The eight words of the head packet. -/
def headPacket (s : State) (q : Nat) : EngM (List Word × State) :=
  let r := queueAt s q
  let a := r.base.toNat / 64 * 64 + 64 * (r.read.toNat % r.cap)
  if bit r.base 0 then .ok (packetWords 8 ((List.range 64).map fun i => byteAt s (hostKey s (pasidOf none) (a + i))), s)
  else do
    let (b, s) ← engLoad s (unitAccess 0 r.page) (BitVec.ofNat 64 a) 64
    .ok (packetWords 8 b, s)

def pw (p : List Word) (i : Nat) : Word := p.getD i 0

/-- The queue stops at its head packet with ERR set (R464). -/
def queueStop (s : State) (q : Nat) : State := s.onQueue q fun r => { r.fail with page := none }
/-- The head packet leaves. -/
def leaveHead (s : State) (q : Nat) : State := s.onQueue q fun r => { r with read := r.read + 1, page := none }
/-- The head packet waits, perhaps for a page. -/
def waitHead (s : State) (q : Nat) (page : Option PageWait) : State := s.onQueue q fun r => { r with page }
/-- An access that the head packet needs has failed: the failure is logged and stops the queue (log 14). -/
def headStop (q : Nat) : EngStop → State
  | .wait p s => waitHead s q p
  | .fail c _ s => queueStop (logError s c 10 q) q

/-- Bits that a packet of each type leaves reserved, by word (R465, R466). -/
def packetMask (t : Nat) : List Word :=
  let none' : Word := ~~~0
  let addr8 : Word := 0xFF00000000000007
  match t with
  | 2 => [0xFFFFFFFFFFFFFF00, addr8, 0, none', none', none', none', none']
  | 3 => [0xFFFFFFFF0000FF00, 0, 0, 0, none', none', none', none']
  | 4 => [0xFFFFFFFFFFFFFF00, 0xFFC000000000003F, none', none', none', none', none', none']
  | 5 => [0xFFFFFFFFFFFFDF00, addr8, 0, none', none', none', none', 0xFFFFFFFFC007FFFF]
  | _ => [0xFF8080000000C000, 0xFF00000000000000, 0xFF0000000000003F, 0xFF00000000000000, 0xFF00000000000000,
      0xFF0000000000001F, 0xFF00000000000000, 0xFFFFFFFF80000800]

def reservedSet (t : Nat) (p : List Word) : Bool :=
  (List.zipWith (fun m w => m &&& w != 0) (packetMask t) p).any id

def packetType (p : List Word) : Nat := fld (pw p 0) 0 8

/-- A malformed packet: TYPE not 1-5, or a reserved field set; that of a LAUNCH refuses the launch (R464, R466). -/
def malformed (p : List Word) : Bool :=
  let t := packetType p
  !(1 ≤ t && t ≤ 5) || (t != 1 && reservedSet t p)

/-- Handles the head packet of queue q when it is of the given type. A packet that cannot be read stops the queue
(log 14). -/
def onPacket (s : State) (q : Nat) (t : Nat) (f : State → List Word → State) : State :=
  if !queueLive s q || pageOpen (queueAt s q).page then s
  else
    match headPacket s q with
    | .error x => headStop q x
    | .ok (p, s') =>
      if malformed p then queueStop s' q
      else if packetType p == t then f s' p
      else s

/-! ## The loop-nest record (R143-R146) -/

/-- The record's words as a nest, or `none` under R144. -/
def nestOf (w : List Word) (dieMask : BitVec 8) : Option Nest :=
  let w4 := pw w 4
  let nd := fld w4 0 3
  let order := (List.range 4).map fun k => fld w4 (8 + 2 * k) 2
  let ext := (List.range 4).map fun d => fld (pw w d) 0 32
  let n := (ext.take nd).foldl (· * ·) 1
  let dm := fld w4 16 8
  let ring := diesOf (if dm == 0 then dieMask.toNat else dm)
  let perm := (List.range nd).all fun d => (order.take nd).contains d
  if nd > 4 || w4 &&& 0xFFFFFFFFFF0000F8 != 0 || (w.drop 5).any (· != 0) ||
      (List.range 4).any (fun d => nd ≤ d && pw w d != 0) || !perm || (order.drop nd).any (· != 0) ||
      dm &&& (255 - dieMask.toNat) != 0 || n > 2 ^ 48 then none
  else
    some
      { ndim := nd
        extent := Vector.ofFn fun d => ext.getD d.val 0
        step := Vector.ofFn fun d => ((pw w d.val).extractLsb' 32 32).toInt
        order := Vector.ofFn fun k => order.getD k.val 0
        ring }

def Nest.total (n : Nest) : Nat := (List.range n.ndim).foldl (fun a d => a * n.extent.toArray.getD d 1) 1

/-- Position of a die among the ring dies. -/
def ringIndex (ring : List Nat) (d : Nat) : Option Nat := ring.findIdx? (· == d)

/-- The walkers of a launch: one on each die of its mask (R146). -/
def walkersOf (n : Nest) (dieMask : BitVec 8) : List Walker :=
  if n.ndim == 0 then []
  else
    let m := n.ring.length
    (diesOf dieMask.toNat).map fun d =>
      let (lo, hi) := match ringIndex n.ring d with
        | some j => (n.total * j / m, n.total * (j + 1) / m)
        | none => (0, 0)
      { die := d, lo, hi, dry := false, queue := [], steal := none, got := false }

/-! ## Acceptance (R466, R467) -/

/-- The launch that a packet asks for, before its images and its record are read. -/
def launchOf (s : State) (q : Nat) (p : List Word) : Launch where
  id := s.nextLaunch
  queue := q
  index := (queueAt s q).read
  prio := fld (pw p 0) 8 3
  isolate := bit (pw p 0) 11
  fresh := bit (pw p 0) 12
  msix := bit (pw p 0) 13
  vector := (pw p 7).extractLsb' 19 11
  asid := (pw p 0).extractLsb' 16 16
  dieMask := (pw p 0).extractLsb' 32 8
  w := fld (pw p 0) 40 7
  g := fld (pw p 0) 48 7
  entry := zextW (pw p 1) 56
  args := zextW (pw p 3) 56
  completion := zextW (pw p 5) 56
  faultArea := zextW (pw p 6) 56 &&& ~~~0xFFF
  faultCap := fld (pw p 6) 0 12
  dieChan := if bit (pw p 7) 15 then some ((pw p 7).extractLsb' 12 3) else none
  quadChan := if bit (pw p 7) 18 then some ((pw p 7).extractLsb' 16 2) else none
  image := []
  descs := none
  nest := none
  walkers := []
  groups := []
  granted := Vector.replicate 8 0
  ended := 0
  status := 0
  cause := none
  written := 0
  lost := 0
  leftHead := false
  hold := false
  page := none

def launchFieldsBad (p : List Word) (l : Launch) : Bool :=
  !(1 ≤ l.w && l.w ≤ 96 && 1 ≤ l.g && l.g ≤ 96) || l.w % l.g != 0 || l.dieMask == 0 || fld (pw p 7) 0 11 > 1024 ||
    reservedSet 1 p

/-- Why a launch is not accepted now. -/
inductive NotYet where
  | refused (c : Cause) (s : State)
  | waits (page : Option PageWait) (s : State)
  deriving DecidableEq, Repr

def unitLoad (s : State) (l : Launch) (a : Word) (n : Nat) : Except NotYet (List Byte × State) :=
  match engLoad s (unitAccess l.asid (queueAt s l.queue).page) a n with
  | .ok r => .ok r
  | .error (.wait p s') => .error (.waits p s')
  | .error (.fail c _ s') => .error (.refused c s')

/-- The checks of a LAUNCH in the order of R466, with what acceptance reads. -/
def acceptLaunch (s : State) (p : List Word) (l : Launch) : Except NotYet (Launch × State) := do
  if launchFieldsBad p l then .error (.refused .badMode s)
  else if (l.quadChan.isSome && l.g > 4) || (l.dieChan.isSome && l.w != l.g) then .error (.refused .barrierScope s)
  else
    let klen := fld (pw p 7) 0 11
    let base := zextW (pw p 2) 56 &&& ~~~0x3F
    let (img, s) ← unitLoad s l base (64 * klen)
    let (ds, s) ← if bit (pw p 7) 30 then unitLoad s l (base + BitVec.ofNat 64 (64 * klen)) 256 else .ok ([], s)
    let rec' := zextW (pw p 4) 56
    let l := { l with
      image := packetWords (8 * klen) img
      descs := if ds.isEmpty then none else
        some ((List.range 16).map fun i => let w := packetWords 32 ds; ⟨pw w (2 * i), pw w (2 * i + 1)⟩) }
    let (l, s) ← (if rec' == 0 then .ok (l, s)
      else if rec'.toNat % 64 != 0 then .error (.refused .workRecord s)
      else do
        let (b, s) ← unitLoad s l rec' 64
        match nestOf (packetWords 8 b) l.dieMask with
        | none => .error (.refused .workRecord s)
        | some n => .ok ({ l with nest := some n, walkers := walkersOf n l.dieMask }, s) : Except NotYet (Launch × State))
    match asidEntry s 0 l.asid.toNat with
    | .error (.fail .asidInvalid _) => .error (.refused .asidInvalid s)
    | .error .waits => .error (.waits none s)
    | entry =>
      let s := match entry with
        | .error (.poison _ g) => foundPoison s g
        | _ => s
      if l.walkers.any fun w => (s.launches.filter fun x => x.walkers.any (·.die == w.die)).length ≥ 64 then
        .error (.waits none s)
      else .ok (l, s)

/-! ## Completion (R468) -/

/-- Cores granted to a launch. -/
def Launch.cores (l : Launch) : Nat := l.g * l.granted.toList.foldl (· + ·) 0

def recordWord0 (l : Launch) : Word :=
  BitVec.ofNat 64 (l.status + (match l.cause with | some c => c.code.toNat | none => 0) * 2 ^ 8 + 2 ^ 15 + l.cores * 2 ^ 16)

/-- A write of the completion record; one that fails is logged (R468). -/
def recordWrite (s : State) (l : Launch) (page : Option PageWait) (off : Nat) (w : List Word) : EngM (Unit × State) :=
  match engStore s (launchAccess 0 l page) (l.completion + BitVec.ofNat 64 off) (wordsBytes w) with
  | .error (.fail c _ s') => .ok ((), logError s' c 10 l.queue)
  | r => r

/-- The completion record, words 1-3 before word 0, then the MSI-X message. `page` is the page that it waits on. -/
def writeCompletion (s : State) (l : Launch) (page : Option PageWait) : EngM (Unit × State) := do
  let (_, s) ← recordWrite s l page 8 [BitVec.ofNat 64 s.clock, BitVec.ofNat 64 l.written, BitVec.ofNat 64 l.lost]
  let (_, s) ← recordWrite s l page 0 [recordWord0 l]
  .ok ((), if l.msix then s.onMd fun m => { m with msix := m.msix ++ [l.vector] } else s)

/-- Every granted core has reported its end, and every engine instruction has completed. -/
def Launch.over? (l : Launch) : Bool := l.leftHead && l.groups.isEmpty && l.ended == l.cores

/-- LAUNCH_COMPLETE (R468). -/
def completeLaunch (s : State) (id : Nat) : State :=
  match s.launch? id with
  | none => s
  | some l =>
    if !l.over? || pageOpen l.page then s
    else
      match writeCompletion s l l.page with
      | .ok (_, s') => { s' with launches := s'.launches.filter (·.id != id) }
      | .error (.wait p s') => s'.onLaunch id fun l => { l with page := p }
      | .error (.fail _ _ s') => s'

/-- LAUNCH at the head of queue q: accepted, refused with a completion record of status 2, or kept at the head. -/
def launchPacket (s : State) (q : Nat) : State :=
  onPacket s q 1 fun s p =>
    let l := launchOf s q p
    if s.launches.any fun x => x.queue == q && !x.leftHead then s
    else
      match acceptLaunch s p l with
      | .ok (l, s') => { waitHead s' q none with launches := s'.launches ++ [l], nextLaunch := s'.nextLaunch + 1 }
      | .error (.waits w s') => waitHead s' q w
      | .error (.refused c s') =>
        match writeCompletion s' { l with status := 2, cause := some c } (queueAt s q).page with
        | .ok (_, s'') => leaveHead s'' q
        | .error x => headStop q x

/-! ## Grants (R138-R142, R240, R426) -/

def Launch.grantedOn (l : Launch) (d : Nat) : Nat := l.granted.toArray.getD d 0
/-- A launch at the head of its queue that still lacks cores on a die. -/
def Launch.lacks (l : Launch) (d : Nat) : Bool := !l.leftHead && l.dieMask.getLsbD d && l.grantedOn d * l.g < l.w

def servedAt (s : State) (prio : Nat) : Nat := s.served.toArray.getD prio 63

/-- Service order: by priority, then round robin above the queue served last (R138). -/
def turnKey (s : State) (l : Launch) : Nat := l.prio * 64 + (l.queue + 63 - servedAt s l.prio) % 64

def least (f : Launch → Nat) (l : List Launch) : Option Launch :=
  l.foldl (fun m x => match m with
    | none => some x
    | some y => if f x < f y then some x else some y) none

/-- The launch to which free cores of a die go (R140). While its queue is disabled or stopped, a launch that has been
accepted gets no further cores (DESIGN CHOICE; log 26). -/
def eligibleOn (s : State) (d : Nat) : Option Launch :=
  least (turnKey s) (s.launches.filter fun l => l.lacks d && queueLive s l.queue)

/-- A core is free: no program, in service, its SRF not fenced (R140). -/
def coreFree (s : State) (n : Nat) : Bool :=
  let c := s.getCore n
  c.prog.isNone && c.cp.run == .off && !c.fenced && !c.outOfService

/-- The smallest power of two not below G. -/
def groupAlign (g : Nat) : Nat := ((List.range 8).map (2 ^ ·)).find? (g ≤ ·) |>.getD 128

/-- Every channel that a group claims, which may be one of each kind. -/
def claimsOf (l : Launch) (base : Nat) : List (Option Nat × Nat) :=
  (match l.dieChan with | some n => [(none, n.toNat)] | none => []) ++
    (match l.quadChan with | some n => [(some (base / 4), n.toNat)] | none => [])

def channelFree (s : State) (d : Nat) (c : Option Nat × Nat) : Bool :=
  !s.channels.any fun x => x.die == d && x.quad == c.1 && x.number == c.2

/-- A base at which the cores `ok` hold a group of the launch (R139). -/
def coresFit (l : Launch) (d base : Nat) (ok : Nat → Bool) : Bool :=
  base % groupAlign l.g == 0 && (l.g ≤ 64 || base == 0) && base + l.g ≤ 96 && (groupCores d base l.g).all ok

/-- A base at which a group is granted: the cores hold it, and the channels that it claims are free (R141). -/
def baseFits (s : State) (l : Launch) (d base : Nat) (ok : Nat → Bool) : Bool :=
  coresFit l d base ok && (claimsOf l base).all (channelFree s d)

/-- A pre-empted group of equal or higher priority waits to be restored on the die (R426). -/
def restoreWaits (s : State) (d prio : Nat) : Bool :=
  s.launches.any fun l => !l.hold && l.prio ≤ prio && l.groups.any fun g => g.die == d && g.preempted

/-- A core as a grant leaves it (R13, R16, R108, R142, R240). -/
def grantCore (s : State) (l : Launch) (base number rank : Nat) (c : Core) : Core :=
  let cp := { CP.reset with
    pc := s.md.rtEntry
    casid := l.asid.setWidth 64
    run := .running
    icache := if l.fresh then [] else c.cp.icache }
  { Core.reset with
    cp := ((cp.writeG 1 l.args).writeG 2
      (BitVec.ofNat 64 (rank + l.g * 2 ^ 16 + number % 2 ^ 16 * 2 ^ 32))).writeG 3 (BitVec.ofNat 64 base)
    kern := { Kern.reset with store := l.image.zipIdx.filterMap fun (w, i) => if w == 0 then none else some (i, w) }
    st := { StreamUnit.reset with sd := match l.descs with
      | some d => Vector.ofFn fun i => d.getD i.val ⟨0, 0⟩
      | none => StreamUnit.reset.sd }
    prog := some ⟨l.id, base, l.g, number⟩
    ctx := { Ctx.reset with area := c.ctx.area, srfLen := c.ctx.srfLen, grace := c.ctx.grace }
    badBanks := c.badBanks
    outOfService := c.outOfService }

/-- A group is granted all at once. -/
def grantAt (s : State) (l : Launch) (d base : Nat) : State :=
  let number := l.grantedOn d
  let cores := groupCores d base l.g
  let s := cores.zipIdx.foldl (fun s x => s.onCore x.1 (grantCore s l base number x.2)) s
  let s := { s with
    channels := s.channels ++ (claimsOf l base).map fun (c : Option Nat × Nat) => Channel.mk d c.1 c.2 l.id cores false []
    served := s.served.setIfInBounds l.prio l.queue
    nextLaunch := s.nextLaunch + 1 }
  let l' := { l with
    granted := l.granted.setIfInBounds d (number + 1)
    groups := l.groups ++ [Group.mk d base number false s.nextLaunch] }
  let full := (diesOf l.dieMask.toNat).all fun x => l.w ≤ l'.grantedOn x * l.g
  let s := s.onLaunch l.id fun _ => { l' with leftHead := full }
  if full then leaveHead s l.queue else s

/-- GRANT_GROUP (R138-R142). -/
def grantGroup (s : State) (id d base : Nat) : State :=
  match eligibleOn s d with
  | none => s
  | some l =>
    if l.id == id && d < 8 && !restoreWaits s d l.prio && baseFits s l d base (coreFree s) then grantAt s l d base else s

/-! ## The other packets (R465, R482, R483) -/

/-- No LAUNCH of the queue is accepted and not yet ended. -/
def earlierEnded (s : State) (q : Nat) : Bool := !s.launches.any (·.queue == q)

/-- BARRIER: the signal is read as an acquire; its address is one of ASID 0 (log 14). -/
def barrierPacket (s : State) (q : Nat) : State :=
  onPacket s q 2 fun s p =>
    match engLoad s (unitAccess 0 (queueAt s q).page) (pw p 1) 8 with
    | .error x => headStop q x
    | .ok (b, s') => if leNat b ≥ (pw p 2).toNat then leaveHead s' q else waitHead s' q none

/-- SIGNAL: the value is stored, then the MSI-X message is sent. -/
def signalPacket (s : State) (q : Nat) : State :=
  onPacket s q 5 fun s p =>
    if !earlierEnded s q then s
    else
      let send (s : State) : State :=
        leaveHead (if bit (pw p 0) 13 then s.onMd fun m => { m with msix := m.msix ++ [(pw p 7).extractLsb' 19 11] } else s) q
      match engStore s (unitAccess 0 (queueAt s q).page) (pw p 1) (leBytes 8 (pw p 2).toNat) with
      | .ok (_, s') => send s'
      | .error (.wait w s') => waitHead s' q w
      | .error (.fail c _ s') => send (logError s' c 10 q)

/-- Every CP instruction cache drops some of its words. -/
def dropWords (s : State) (p : CachedWord → Bool) : State :=
  let f (c : Core) : Core := { c with cp := { c.cp with icache := c.cp.icache.filter fun x => !p x } }
  { s with core := f s.core, parked := s.parked.map fun x => (x.1, f x.2) }

/-- The cached word was fetched from a range of an address space. -/
def CachedWord.within (asid : BitVec 16) (lo n : Nat) (x : CachedWord) : Bool :=
  x.asid == asid && lo ≤ x.pc.toNat && x.pc.toNat < lo + n

/-- The cached word was fetched from bytes of memory, under whatever address (R484). -/
def CachedWord.from (key n : Nat) (x : CachedWord) : Bool := key < 8 * x.place + 8 && 8 * x.place < key + n

/-- UNLOAD: the queue's bit of REFS is cleared at the load record, and the last one releases the object. A record that
cannot be read stops the queue (log 14). -/
def unloadPacket (s : State) (q : Nat) : State :=
  onPacket s q 4 fun s p =>
    if !earlierEnded s q then s
    else
      match tableLoc s (pw p 1).toNat with
      | none => queueStop (logError s .walkError 10 q) q
      | some (k, o) =>
        let own := s.md.pkg.toNat
        let key := cellKey s own k o
        let rd (i : Nat) : Nat := leNat (locBytes s (.stk own k (o + 8 * i)) 8)
        if bridgeCut s 0 own k then queueStop (logError s .remoteTimeout 10 q) q
        else if quiesced s key || lineWaits s key then s
        else
          match metPoison s key true with
          | some (c, s') => queueStop (logError s' c 10 q) q
          | none =>
            let refs := setBit (BitVec.ofNat 64 (rd 0)) q false
            let s' := stkPut s own k o (leBytes 8 refs.toNat)
            let s' := if refs == 0 then
                stkPut (dropWords s' (CachedWord.within (BitVec.ofNat 16 (rd 1)) (rd 2) (rd 3))) own k (o + 32) (leBytes 8 2)
              else s'
            leaveHead s' q

/-- Why a piece of a CODE destination may not be written, or where it lies (R483): supervisor rights, W ignored. -/
def codeTarget (s : State) (who : Access) (a : Word) (n : Nat) : EngM (Loc × State) :=
  match apertureOf a with
  | some 0 =>
    match translate s { who with fetch := true } (fld a 0 56) n with
    | .error (.trap t s') =>
      .error (engStopOf who a (.trap (if t.cause == .pageExec then { t with cause := .writeProtectedCode } else t) s'))
    | .error x => .error (engStopOf who a x)
    | .ok (p, s') =>
      if p.lattice != 0 then .error (.fail .latticeType a s')
      else
        match place s' { who with write := true } (fld a 0 56) p with
        | .error x => .error (engStopOf who a x)
        | .ok t =>
          if t.cut s' who.core then .error (.fail .remoteTimeout a s')
          else
            match t.loc with
            | .dev _ => .error (.fail .mmioWidth a s')
            | l => if quiesced s' (l.key s') then .error (.wait none s') else .ok (l, s')
  | _ => .error (.fail .aperture a s)

def locPut (s : State) (l : Loc) (b : List Byte) : State :=
  match l with
  | .stk p k o => stkPut s p k o b
  | .host p off => hostWrites s p off b
  | .srf c off => s.onCore c fun x => x.putSrf (atAddr off b)
  | .dev _ => s

/-- The numbers of the 8-byte words of memory that a range touches. -/
def memWords (key n : Nat) : List Nat := (List.range ((key + n + 7) / 8 - key / 8)).map (key / 8 + ·)

/-- Every CP instruction cache drops what it holds of a range of memory, and no word that it keeps is a copy of it
(R484). -/
def patchWords (s : State) (key n : Nat) : State :=
  let s := dropWords s (CachedWord.from key n)
  let f (c : Core) : Core := { c with cp := { c.cp with icache := c.cp.icache.map fun x =>
    { x with patched := (memWords key n).foldl (fun l k => setAdd k l) x.patched } } }
  { s with core := f s.core, parked := s.parked.map fun x => (x.1, f x.2) }

/-- A piece of patched code is written, and no cached word stands for what it replaces. -/
def patchPiece (s : State) (l : Loc) (b : List Byte) : State := patchWords (locPut s l b) (l.key s) b.length

/-- The copy of a CODE packet: every piece is checked before any is written. -/
def codeCopy (s : State) (who : Access) (dst src : Word) (n : Nat) : EngM (Unit × State) := do
  if n == 0 || n % 8 != 0 || n > 2 ^ 32 || dst.toNat % 8 != 0 || src.toNat % 8 != 0 then
    .error (.fail .writeProtectedCode dst s)
  else
    let r ← (pieces dst n).foldlM (fun (acc : List (Loc × Nat) × State) p => do
      let (l, s) ← codeTarget acc.2 who p.1 p.2
      .ok (acc.1 ++ [(l, p.2)], s)) ([], s)
    let (b, s) ← engLoad r.2 who src n
    let done := r.1.foldl (fun (acc : List Byte × State) p =>
      (acc.1.drop p.2, patchPiece acc.2 p.1 (acc.1.take p.2))) (b, s)
    .ok ((), dropWords done.2 (CachedWord.within who.asid dst.toNat n))

/-- CODE: a refusal writes nothing, is logged, and stops the queue. -/
def codePacket (s : State) (q : Nat) : State :=
  onPacket s q 3 fun s p =>
    let who := unitAccess ((pw p 0).extractLsb' 16 16) (queueAt s q).page
    match codeCopy s who (pw p 1) (pw p 2) (pw p 3).toNat with
    | .ok (_, s') => leaveHead s' q
    | .error x => headStop q x

/-! ## Events -/

/-- LAUNCH (R466). -/
def execLaunch (queue : Nat) (s : State) : Out := .next (launchPacket s queue)
/-- GRANT_GROUP (R139). -/
def execGrantGroup (launchId die base : Nat) (s : State) : Out := .next (grantGroup s launchId die base)
/-- LAUNCH_COMPLETE (R468). -/
def execLaunchComplete (launchId : Nat) (s : State) : Out := .next (completeLaunch s launchId)
/-- BARRIER_PACKET (R465). -/
def execBarrierPacket (queue : Nat) (s : State) : Out := .next (barrierPacket s queue)
/-- CODE_PACKET (R483). -/
def execCodePacket (queue : Nat) (s : State) : Out := .next (codePacket s queue)
/-- UNLOAD_PACKET (R482). -/
def execUnloadPacket (queue : Nat) (s : State) : Out := .next (unloadPacket s queue)
/-- SIGNAL_PACKET (R465). -/
def execSignalPacket (queue : Nat) (s : State) : Out := .next (signalPacket s queue)

end Sys2Proof.Machine
end

