-- ==== Sys2Proof/Machine/Spectral.lean ====
section
/-! DEFINITION. The transform slot: pair arithmetic, the transforms, and the X words (R220-R237). -/

namespace Sys2Proof.Machine

/-! ## Pair arithmetic in f32 (R230) -/

/-- A value of the transform unit, with the flags of the operations that it rests on. -/
structure XVal where
  v : FVal
  fl : Flags
  deriving DecidableEq, Repr

/-- Rounds once to f32 in rne. -/
def xround (v : FVal) (fl : Flags) : XVal :=
  let r := deliver fmtF32 0 false v
  ⟨decodeFloat fmtF32 r.1, r.2 ||| fl⟩

def xadd (a b : XVal) : XVal := xround (addV 0 a.v b.v) (a.fl ||| b.fl)
def xsub (a b : XVal) : XVal := xround (subV 0 a.v b.v) (a.fl ||| b.fl)
def xmul (a b : XVal) : XVal := xround (mulV a.v b.v) (a.fl ||| b.fl)
def xneg (a : XVal) : XVal := ⟨a.v.neg, a.fl⟩
def xzero : XVal := ⟨.fin false 0 0, 0⟩
def xf32 (bits : Nat) : XVal := ⟨decodeFloat fmtF32 bits, 0⟩
/-- 2^k as a factor. -/
def xpow (k : Int) : XVal := ⟨.fin false 1 k, 0⟩

structure XPair where
  re : XVal
  im : XVal
  deriving DecidableEq, Repr

def pairZero : XPair := ⟨xzero, xzero⟩
def pairAdd (x y : XPair) : XPair := ⟨xadd x.re y.re, xadd x.im y.im⟩
def pairSub (x y : XPair) : XPair := ⟨xsub x.re y.re, xsub x.im y.im⟩
def pairScale (x : XPair) (c : XVal) : XPair := ⟨xmul x.re c, xmul x.im c⟩
def pairConj (x : XPair) : XPair := ⟨x.re, xneg x.im⟩
def muli (x : XPair) : XPair := ⟨xneg x.im, x.re⟩
def mulni (x : XPair) : XPair := ⟨x.im, xneg x.re⟩
def cmul (x y : XPair) : XPair :=
  ⟨xsub (xmul x.re y.re) (xmul x.im y.im), xadd (xmul x.re y.im) (xmul x.im y.re)⟩

/-- cos(π·k/16) rounded to f32, for k = 0-8. -/
def cosBits : Nat → Nat
  | 0 => 0x3F800000
  | 1 => 0x3F7B14BE
  | 2 => 0x3F6C835E
  | 3 => 0x3F54DB31
  | 4 => 0x3F3504F3
  | 5 => 0x3F0E39DA
  | 6 => 0x3EC3EF15
  | 7 => 0x3E47C5C2
  | _ => 0

/-- `tw` for k = 0-15. -/
def tw (k : Nat) : XPair :=
  let re := if k ≤ 8 then xf32 (cosBits k) else xneg (xf32 (cosBits (16 - k)))
  let sin := xf32 (cosBits (if k ≤ 8 then 8 - k else k - 8))
  ⟨re, if k == 0 then sin else xneg sin⟩

def rev4 (n : Nat) : Nat := n % 2 * 8 + n / 2 % 2 * 4 + n / 4 % 2 * 2 + n / 8 % 2

def pairAt (l : List XPair) (i : Nat) : XPair := l.getD i pairZero

/-- One stage of the butterflies, m = 2^s. -/
def fftStage (inv : Bool) (u : List XPair) (s : Nat) : List XPair :=
  let m := 2 ^ s
  let h := m / 2
  let turn (j : Nat) : XPair := if inv then pairConj (tw (32 * j / m)) else tw (32 * j / m)
  (List.range 16).map fun n =>
    let j := n % m
    if j < h then pairAdd (pairAt u n) (cmul (turn j) (pairAt u (n + h)))
    else pairSub (pairAt u (n - h)) (cmul (turn (j - h)) (pairAt u n))

/-- `fft16` (R230). -/
def fft16 (z : List XPair) (inv : Bool) : List XPair :=
  [1, 2, 3, 4].foldl (fftStage inv) ((List.range 16).map fun n => pairAt z (rev4 n))

/-! ## Transforms of a row (R231) -/

def valAt (l : List XVal) (i : Nat) : XVal := l.getD i xzero

/-- Pairs of a row: neighbours. -/
def rowPairs (x : List XVal) : List XPair := (List.range 16).map fun n => ⟨valAt x (2 * n), valAt x (2 * n + 1)⟩
def flatPairs (x : List XPair) : List XVal := x.flatMap fun p => [p.re, p.im]

/-- `rfwd`. -/
def rfwd (x : List XVal) (scaled : Bool) : List XPair :=
  let z := fft16 (rowPairs x) false
  let sc : Int := if scaled then -5 else 0
  let z0 := pairAt z 0
  ⟨xmul (xadd z0.re z0.im) (xpow sc), xmul (xsub z0.re z0.im) (xpow sc)⟩ ::
    ((List.range 15).map fun i =>
      let k := i + 1
      let y := pairConj (pairAt z (16 - k))
      let e := pairAdd (pairAt z k) y
      let o := mulni (pairSub (pairAt z k) y)
      pairScale (pairAdd e (cmul (tw k) o)) (xpow (sc - 1)))

/-- `rinv`. -/
def rinv (p : List XPair) (scaled : Bool) : List XVal :=
  let g := xpow (if scaled then 0 else -5)
  let p0 := pairAt p 0
  let z := ⟨xadd p0.re p0.im, xsub p0.re p0.im⟩ ::
    ((List.range 15).map fun i =>
      let k := i + 1
      let y := pairConj (pairAt p (16 - k))
      pairAdd (pairAdd (pairAt p k) y) (muli (cmul (pairConj (tw k)) (pairSub (pairAt p k) y))))
  flatPairs ((fft16 z true).map fun u => pairScale u g)

def cfwd (z : List XPair) (scaled : Bool) : List XPair := (fft16 z false).map fun u => pairScale u (xpow (if scaled then -4 else 0))
def cinv (p : List XPair) (scaled : Bool) : List XPair := (fft16 p true).map fun u => pairScale u (xpow (if scaled then 0 else -4))

/-! ## The checks (R228) -/

abbrev XCheck := Except Trap

def xneed (ok : Bool) (c : Cause) (addr : Nat := 0) : XCheck Unit := if ok then .ok () else .error (gtrap c addr)

def xown (o : Nat) : Nat := 0xFF * 2 ^ 56 + o % 2 ^ 56

/-- Order 1. -/
def xalign (offs : List Nat) : XCheck Unit := offs.forM fun o => xneed (o % 64 == 0) .alignTile o

/-- Order 2: extents by offset and length. -/
def xbounds (l : List (Nat × Nat)) : XCheck Unit := l.forM fun x => xneed (x.1 + x.2 ≤ srfSize) .srfBounds (xown x.1)

/-- The format code in a header as it stands, and the footprint that it gives. -/
def rawCode (s : State) (o : Nat) : Nat := (cellGet s.core.srf o).toNat % 128
def rawFootprint (s : State) (o : Nat) : Nat := footprint (rawCode s o)

/-- A source record: its header within the SRF, then its footprint. -/
def xsource (s : State) (o : Nat) : XCheck Unit := do
  xbounds [(o, 64)]
  xbounds [(o, rawFootprint s o)]

/-- The header of a record, and the two rows from `r0` on in the format `code`: all that a turn or a back touches in each
of its 16 records. -/
def xtwoRows (code o r0 : Nat) : XCheck Unit :=
  xbounds ((o, 64) :: match tileFmt code with
    | some f => [(rowOff f o r0, 2 * f.rowBytes)]
    | none => [])

/-- Order 3 on a source: its header, and whether R222 forbids it. -/
def xhead (s : State) (o : Nat) : XCheck (Header × Bool) := do
  let h := Header.ofWord (BitVec.ofNat 64 (leNat (srfBytes s.core o 8)))
  let bad ← match headerCheck s (srfBytes s.core o 64) with
    | .ok _ => pure false
    | .error .domainMismatch => pure true
    | .error c => .error (gtrap c o)
  match tileFmt h.code with
  | some f =>
    xneed (!(fmtKF h.code && (List.range 32).any fun r => slotsBad (leNat (srfBytes s.core (scaleOff f o r) f.scaleRow))))
      .tileHeader o
    pure (h, bad)
  | none => pure (h, bad)

/-- Order 5: spectral mode, R222, and the tags that the entry accepts. -/
def xtags (s : State) (heads : List (Header × Bool)) (ok : Bool) : XCheck Unit := do
  xneed (!(heads.any fun h => h.1.domain) || accepted s 0) .badMode
  xneed (ok && !(heads.any (·.2))) .domainMismatch

/-- Order 9 on the bytes read. -/
def xclean (s : State) (l : List (Nat × Nat)) : XCheck Unit :=
  l.forM fun x => xneed (!s.core.srfBad x.1 x.2) .uncorrectedSrf (xown x.1)

/-- What an X word will write, and the flags it raises; `none` is a DECOMPRESS fault. -/
structure XResult where
  bytes : Option (List Host.Cell)
  raised : Flags
  deriving DecidableEq, Repr

abbrev XPlan := State → RForm → XCheck XResult

/-- An X word: its checks and result at issue, its writes at the end (R227-R229). -/
def runX (opc : BitVec 8) (lat busy : Nat) (plan : XPlan) (w : RForm) (s : State) : Out :=
  runPlain s opc w.guard fun s =>
    match plan s w with
    | .error t => .error (.trap t s)
    | .ok r =>
      let s := s.onKern fun k =>
        let x : Xform :=
          { due := k.ktime + lat, seq := k.seq, opc, bundle := k.kpc.setWidth 11, enables := laneEn s 0, raised := r.raised,
            bytes := r.bytes }
        { k with seq := k.seq + 1, xforms := k.xforms ++ [x] }
      .ok (useUnit s 3 busy)

/-! ## Records -/

def xoffA (s : State) (w : RForm) : Nat := (readR s w.a).toNat
def xoffB (s : State) (w : RForm) : Nat := (readR s w.b).toNat

def xrecord (s : State) (o : Nat) (h : Header) : Record :=
  match tileFmt h.code with
  | none => ⟨h, [], []⟩
  | some f => ⟨h, srfBytes s.core (o + 64) f.payload, srfBytes s.core (o + 64 + f.payload) f.scaleBytes⟩

/-- A record written: a header with its CRC, then encoded rows. -/
def xwrite (o : Nat) (h : Header) (f : TileFmt) (rows : List (Nat × Nat)) : List Host.Cell :=
  atAddr o (headerBytes h.toWord ++ rowsBytes f rows)

/-- Encodes rows of values into a plain format, one rounding each (R231). -/
def xencode (f : TileFmt) (rm : Nat) (rows : List (List XVal)) : List (Nat × Nat) × Flags :=
  let r := rows.map fun x =>
    let (p, sc, fl) := encodeRow f rm (.fin false 1 0) (x.map XVal.v)
    ((p, sc), fl ||| orFlags (x.map XVal.fl))
  (r.map (·.1), orFlags (r.map (·.2)))

def zeroRow : List XVal := List.replicate 32 xzero

/-- The values of row i of a record. -/
def recRow (r : Record) (f : TileFmt) (i : Nat) : List XVal := (r.row f i).1.map fun v => ⟨v, 0⟩

/-! ## `xfft`, `xifft` (R232) -/

def xfftPlan : XPlan := fun s w => do
  let src := xoffB s w
  let dst := xoffA s w
  let code := if w.ty == 0x12 then 0x29 else 0x28
  xalign [src, dst]
  xsource s src
  xbounds [(dst, footprint code)]
  let (h, bad) ← xhead s src
  xneed ([0x02, 0x03, 0x04, 0x28, 0x29].contains h.code) .formatMismatch
  xtags s [(h, bad)] (!h.domain)
  let cplx := complexCode h.code
  xneed (h.cols == maxCols h.code) .transformLength
  xclean s [(src, footprint h.code)]
  match tileFmt h.code, tileFmt code with
  | some f, some g =>
    let r := xrecord s src h
    let sc := w.fn.getLsbD 0
    let rows := (List.range 32).map fun i =>
      if i < h.rows then
        flatPairs (if cplx then cfwd (rowPairs (recRow r f i)) sc else rfwd (recRow r f i) sc)
      else zeroRow
    let (out, fl) := xencode g w.rm.toNat rows
    pure ⟨some (xwrite dst ⟨code, true, !cplx, sc, h.rows, 16, 0⟩ g out), fl⟩
  | _, _ => .error { cause := .formatMismatch }

/-- `xfft`. -/
def execXfft (w : RForm) (s : State) : Out := runX 0xA0 40 8 xfftPlan w s

/-- The destination format of `xifft`. -/
def xifftCode (t : BitVec 5) : Nat :=
  match t.toNat with
  | 0x09 => 0x02
  | 0x0A => 0x03
  | 0x0B => 0x04
  | 0x12 => 0x29
  | _ => 0x28

def xifftPlan : XPlan := fun s w => do
  let src := xoffB s w
  let dst := xoffA s w
  let code := xifftCode w.ty
  let cplx := complexCode code
  xalign [src, dst]
  xsource s src
  xbounds [(dst, footprint code)]
  let (h, bad) ← xhead s src
  xneed (complexCode h.code && h.packed != cplx) .formatMismatch
  xtags s [(h, bad)] h.domain
  xneed (h.cols == 16) .transformLength
  xclean s [(src, footprint h.code)]
  match tileFmt h.code, tileFmt code with
  | some f, some g =>
    let r := xrecord s src h
    let rows := (List.range 32).map fun i =>
      if i < h.rows then
        let p := rowPairs (recRow r f i)
        if cplx then flatPairs (cinv p h.scaled) else rinv p h.scaled
      else zeroRow
    let (out, fl) := xencode g w.rm.toNat rows
    pure ⟨some (xwrite dst ⟨code, false, false, false, h.rows, maxCols code, 0⟩ g out), fl⟩
  | _, _ => .error { cause := .formatMismatch }

/-- `xifft`. -/
def execXifft (w : RForm) (s : State) : Out := runX 0xA1 40 8 xifftPlan w s

/-! ## `xtrn` (R233) -/

/-- Element bits of a record, zero outside the valid region. -/
def recBits (r : Record) (f : TileFmt) (i c : Nat) : Nat :=
  if i < r.head.rows && c < r.head.validPlaces then rowElem f.w (r.rowBits f i) c else 0

def xtrnPlan : XPlan := fun s w => do
  let src := xoffB s w
  let dst := xoffA s w
  xalign [src, dst]
  xsource s src
  xbounds [(dst, rawFootprint s src)]
  let (h, bad) ← xhead s src
  xneed ((1 ≤ h.code && h.code ≤ 9) || (0x20 ≤ h.code && h.code ≤ 0x23)) .formatMismatch
  xtags s [(h, bad)] (!h.domain)
  xclean s [(src, footprint h.code)]
  match tileFmt h.code with
  | none => .error { cause := .formatMismatch }
  | some f =>
    let r := xrecord s src h
    let rows := (List.range 32).map fun i => (packBits f.w ((List.range 32).map fun c => recBits r f c i), 0)
    pure ⟨some (xwrite dst { h with rows := h.cols, cols := h.rows } f rows), 0⟩

/-- `xtrn`. -/
def execXtrn (w : RForm) (s : State) : Out := runX 0xA2 16 4 xtrnPlan w s

/-- The 16 records at base + s·kC. -/
def slotRecords (s : State) (w : RForm) (base : Word) : List Nat :=
  (List.range 16).map fun i => (base + readR s w.c * BitVec.ofNat 64 i).toNat

def turnRow (s : State) (w : RForm) : Nat := (readR s w.d).toNat % 32

/-- Heads of records, in order. -/
def xheads (s : State) (l : List Nat) : XCheck (List (Header × Bool)) := l.mapM (xhead s)

def sameTags (a b : Header) : Bool := a.domain == b.domain && a.scaled == b.scaled

def xturnPlan : XPlan := fun s w => do
  let src := xoffB s w
  let recs := slotRecords s w (readR s w.a)
  let r0 := turnRow s w
  xalign (src :: recs)
  xsource s src
  recs.forM fun o => xtwoRows (rawCode s src) o r0
  let hs ← xheads s (src :: recs)
  let h : Header := ((hs.head?).map (·.1)).getD (Header.ofWord 0)
  xneed (complexCode h.code && hs.all fun x => x.1.code == h.code) .formatMismatch
  xtags s hs (h.domain && hs.all fun x => sameTags x.1 h)
  xneed (hs.all fun x => x.1.packed == h.packed) .packFlag
  xneed (h.rows == 32 && h.cols == 16) .transformLength
  xneed (r0 % 2 == 0) .tileCoord
  xclean s ((src, footprint h.code) :: recs.map fun o => (o, 64))
  match tileFmt h.code with
  | none => .error { cause := .formatMismatch }
  | some f =>
    let r := xrecord s src h
    let pw := 2 * f.w
    let half (x : Nat) (g : Header) (k : Nat) : List Byte :=
      leBytes f.rowBytes (packBits pw ((List.range 16).map fun c =>
        if r0 + k < g.rows && c < g.cols then rowElem pw (r.rowBits f (16 * k + c)) x else 0))
    let out := recs.zipIdx.flatMap fun (o, x) =>
      let g := ((hs[x + 1]?).map (·.1)).getD h
      atAddr (rowOff f o r0) (half x g 0 ++ half x g 1)
    pure ⟨some out, 0⟩

/-- `xtrn.turn`: the higher record writes last. -/
def execXtrnTurn (w : RForm) (s : State) : Out := runX 0xA2 16 4 xturnPlan w s

def xbackPlan : XPlan := fun s w => do
  let dst := xoffA s w
  let recs := slotRecords s w (readR s w.b)
  let r0 := turnRow s w
  xalign (recs ++ [dst])
  recs.forM fun o => do
    xbounds [(o, 64)]
    xtwoRows (rawCode s o) o r0
  xbounds [(dst, rawFootprint s (recs.headD 0))]
  let hs ← xheads s recs
  let h : Header := ((hs.head?).map (·.1)).getD (Header.ofWord 0)
  xneed (complexCode h.code && hs.all fun x => x.1.code == h.code) .formatMismatch
  xtags s hs (hs.all fun x => x.1.domain && x.1.scaled == h.scaled)
  xneed (hs.all fun x => x.1.packed == h.packed) .packFlag
  xneed (hs.all fun x => r0 + 2 ≤ x.1.rows && x.1.cols == 16) .transformLength
  xneed (r0 % 2 == 0) .tileCoord
  match tileFmt h.code with
  | none => .error { cause := .formatMismatch }
  | some f =>
    xclean s (recs.flatMap fun o => [(o, 64), (rowOff f o r0, 2 * f.rowBytes)])
    let pw := 2 * f.w
    let rows := (List.range 32).map fun n =>
      (packBits pw (recs.map fun o => rowElem pw (leNat (srfBytes s.core (rowOff f o (r0 + n / 16)) f.rowBytes)) (n % 16)), 0)
    pure ⟨some (xwrite dst { h with rows := 32, cols := 16, band := 0 } f rows), 0⟩

/-- `xtrn.back`. -/
def execXtrnBack (w : RForm) (s : State) : Out := runX 0xA2 16 4 xbackPlan w s

/-! ## `xcvt` (R234) -/

/-- A row of a copy between identical formats: the bits of its valid places, with its scales (R165, R251). -/
def copyBitsRow (r : Record) (f : TileFmt) (i : Nat) : Nat × Nat :=
  if i < r.head.rows then
    (packBits f.w ((List.range 32).map fun c => recBits r f i c), r.scaleBits f i)
  else (0, 0)

/-- The rows of a record converted by copyconv into format `g` (R165, R234): rows, flags. -/
def convertRows (r : Record) (f : TileFmt) (same : Bool) (g : TileFmt) (rm : Nat) (band : FVal) :
    List (Nat × Nat) × Flags :=
  if same then ((List.range 32).map (copyBitsRow r f), 0)
  else
    let x := (List.range 32).map fun i =>
      let (v, sn) := r.row f i
      let (p, sc, fl) := copyRow g rm band v
      ((p, sc), fl ||| flagIf sn flSN)
    (x.map (·.1), orFlags (x.map (·.2)))

/-- The tags that the retag of FN writes. -/
def retag (h : Header) (fn : BitVec 8) : Header :=
  match fn.toNat % 4 with
  | 1 => { h with domain := false, packed := false, scaled := false }
  | 2 => { h with domain := true, packed := fn.getLsbD 2, scaled := fn.getLsbD 3 }
  | _ => h

def xcvtPlan : XPlan := fun s w => do
  let src := xoffB s w
  let dst := xoffA s w
  let code := w.c.toNat
  let band := if fmtKF code then (readR s w.d).toNat % 2 ^ 16 else 0
  xalign [src, dst]
  xsource s src
  xbounds [(dst, footprint code)]
  let (h, bad) ← xhead s src
  xneed (!fmtReserved s code) .tileHeader dst
  xneed (h.code != 0 && complexCode h.code == complexCode code) .formatMismatch
  let keep := w.fn.toNat % 4 == 0 && h.domain && !complexCode code
  let asSpec := w.fn.toNat % 4 == 2 && !complexCode code
  xtags s [(h, bad)] (!keep && !asSpec)
  xneed (!fmtKF code || bandOk band) .convertRange
  xclean s [(src, footprint h.code)]
  match tileFmt h.code, tileFmt code with
  | some f, some g =>
    let same := code == h.code && band == h.band
    let (rows, fl) := convertRows (xrecord s src h) f same g w.rm.toNat (decodeFloat fmtBF16 band)
    pure ⟨some (xwrite dst { retag h w.fn with code, band } g rows), fl⟩
  | _, _ => .error { cause := .formatMismatch }

/-- `xcvt`. -/
def execXcvt (w : RForm) (s : State) : Out := runX 0xA3 12 4 xcvtPlan w s

/-! ## `xexp` (R235) -/

/-- Bytes that a run covers: MAP, the word masks as far as MAP asks for them, then its words, 4 KiB at most. -/
def runCover (s : State) (o : Nat) : Nat :=
  let front := 8 + (bitsSet 64 (leNat (srfBytes s.core o 8)) + 7) / 8 * 8
  Nat.min 4096 (runLength (srfBytes s.core o front))

def xexpPlan : XPlan := fun s w => do
  let src := xoffB s w
  let dst := xoffA s w
  xalign [src, dst]
  xbounds [(src, 8)]
  xbounds [(src, runCover s src), (dst, 4096)]
  xclean s [(src, runCover s src)]
  pure ⟨(runDecode 4096 (srfBytes s.core src (runCover s src))).map (atAddr dst), 0⟩

/-- `xexp`. -/
def execXexp (w : RForm) (s : State) : Out := runX 0xA4 48 16 xexpPlan w s

/-! ## `xscl` (R236) -/

def xsclPlan (up : Bool) : XPlan := fun s w => do
  let src := xoffB s w
  let dst := xoffA s w
  xalign [src, dst]
  xsource s src
  xbounds [(dst, rawFootprint s src)]
  let (h, bad) ← xhead s src
  xneed (complexCode h.code) .formatMismatch
  xtags s [(h, bad)] (h.domain && h.scaled == up)
  xclean s [(src, footprint h.code)]
  match tileFmt h.code with
  | none => .error { cause := .formatMismatch }
  | some f =>
    let n : Int := if h.packed then 5 else 4
    let r := xrecord s src h
    let rows := (List.range 32).map fun i =>
      (recRow r f i).map fun x => (⟨x.v.scale (if up then n else -n), 0⟩ : XVal)
    let (out, fl) := xencode f w.rm.toNat rows
    pure ⟨some (xwrite dst { h with scaled := !up } f out), fl⟩

/-- `xscl.s`. -/
def execXsclS (w : RForm) (s : State) : Out := runX 0xA5 12 4 (xsclPlan false) w s
/-- `xscl.u`. -/
def execXsclU (w : RForm) (s : State) : Out := runX 0xA5 12 4 (xsclPlan true) w s

/-! ## `xmov`, `xhdr` (R237) -/

def xmovPlan : XPlan := fun s w => do
  let src := xoffB s w
  let dst := xoffA s w
  xalign [src, dst]
  xsource s src
  xbounds [(dst, rawFootprint s src)]
  let (h, bad) ← xhead s src
  xneed (h.code != 0) .formatMismatch
  xtags s [(h, bad)] true
  xclean s [(src, footprint h.code)]
  pure ⟨some (atAddr dst (srfBytes s.core src (footprint h.code))), 0⟩

/-- `xmov`. -/
def execXmov (w : RForm) (s : State) : Out := runX 0xA6 12 4 xmovPlan w s

def xhdrPlan : XPlan := fun s w => do
  let dst := xoffA s w
  let v := readR s w.b
  xalign [dst]
  xbounds [(dst, 64)]
  xneed (!headerBad s v) .tileHeader dst
  let h := Header.ofWord v
  xtags s [(h, headerDomainBad h)] true
  pure ⟨some (atAddr dst (headerBytes v)), 0⟩

/-- `xhdr`. -/
def execXhdr (w : RForm) (s : State) : Out := runX 0xA7 12 4 xhdrPlan w s

end Sys2Proof.Machine
end

