-- ==== Sys2Proof/Machine/Layout.lean ====
section
/-! DEFINITION. Tensor handles and the layout unit: tile addresses, checks, padding, read modes, conversion of records
(R252-R254, R278-R282, R363). -/

namespace Sys2Proof.Machine

/-! ## Records as bytes -/

def recordBytes (h : Header) (f : TileFmt) (rows : List (Nat × Nat)) : List Byte := headerBytes h.toWord ++ rowsBytes f rows

/-- A record converted by the copy path (R363): its bytes and flags, or the cause that refuses it. The manual does not say
whether records of one KF or KI code with different band scales have identical formats: they are converted, and the band
is checked before identical formats are copied (DESIGN CHOICE; log 21). -/
def convertRecord (r : Record) (code rm band : Nat) : Except Cause (List Byte × Flags) :=
  match tileFmt r.head.code, tileFmt code with
  | some f, some g =>
    if complexCode r.head.code != complexCode code then .error .formatMismatch
    else if fmtKF code && !bandOk band then .error .convertRange
    else
      let band := if fmtKF code then band else 0
      let same := code == r.head.code && band == r.head.band
      let (rows, fl) := convertRows r f same g rm (decodeFloat fmtBF16 band)
      .ok (recordBytes { r.head with code, band } g rows, fl)
  | none, _ => .ok (headerBytes { r.head with code := 0, band := 0 }.toWord, 0)
  | _, none => .error .formatMismatch

/-- The transform of a record by XF: KIND 1 converts, KIND 0 leaves the bytes as they stand. -/
def applyXf (xf : Word) (r : Record) (raw : List Byte) : Except Cause (List Byte × Flags) :=
  if fld xf 0 4 == 1 then convertRecord r (fld xf 4 7) (fld xf 11 3) (fld xf 48 16) else .ok (raw, 0)

/-! ## Tile requests (R278) -/

def reqHandle (w0 : Word) : Nat := fld w0 0 24
def reqMode (w0 : Word) : Nat := fld w0 24 2
def reqPad (w0 : Word) : Bool := bit w0 26
def reqCount (w0 : Word) : Nat := fld w0 40 4 + 1

/-- The checks of the issuing instruction. -/
def reqCause (w0 : Word) (write : Bool) : Option Cause :=
  if reqMode w0 == 3 then some .badMode
  else if w0 &&& 0xFFFFF00008000000 != 0 then some .handleInvalid
  else if write && (reqMode w0 != 0 || reqPad w0) then some .badMode
  else none

/-! ## Handles (R252-R254) -/

/-- The words of a handle table entry. -/
structure Handle where
  w0 : Word
  w1 : Word
  w2 : Word
  w3 : Word
  w4 : Word
  w5 : Word
  w6 : Word
  w7 : Word
  deriving DecidableEq, Repr

def Handle.ofBytes (b : List Byte) : Handle :=
  let w (i : Nat) : Word := BitVec.ofNat 64 (leNat ((b.drop (8 * i)).take 8))
  ⟨w 0, w 1, w 2, w 3, w 4, w 5, w 6, w 7⟩

def Handle.dim (h : Handle) (d : Nat) : Nat := fld h.w1 (16 * d) 16
def Handle.stride (h : Handle) (d : Nat) : Nat := if d < 2 then fld h.w2 (32 * d) 32 else fld h.w3 (32 * (d - 2)) 32
def Handle.slot (h : Handle) : Nat := fld h.w4 0 16
def Handle.domain (h : Handle) : Nat := fld h.w4 24 2
def Handle.mode (h : Handle) : Nat := fld h.w4 26 2
def Handle.erow (h : Handle) : Nat := fld h.w4 32 6
def Handle.ecol (h : Handle) : Nat := fld h.w4 40 6
def Handle.pad (h : Handle) : Nat := fld h.w5 0 32
def Handle.fmt (h : Handle) : Nat := fld h.w4 16 7

/-- Check 3 of R254, but for a reserved format. -/
def Handle.bad (h : Handle) : Bool :=
  !bit h.w0 0 || h.w0 &&& 0xFF0000000000003E != 0 || h.w4 &&& 0xFFFFC0C0F0800000 != 0 ||
    h.w5 &&& 0xFFFFFFFF00000000 != 0 || (h.w6 ||| h.w7) != 0 ||
    ((List.range 4).any fun d => h.dim d == 0) || h.slot == 0 || h.fmt == 0 ||
    h.domain == 3 || h.mode == 3 || h.erow == 0 || h.erow > 32 || h.ecol == 0 || h.ecol > maxCols h.fmt

/-- Check 3 of R254 with its cause: a reserved format is one of TILE_HEADER (R153). A handle that fails in both ways
reports HANDLE_INVALID: the manual gives no order within the check (DESIGN CHOICE; log 21). -/
def Handle.cause (s : State) (h : Handle) : Option Cause :=
  if h.bad then some .handleInvalid else if fmtReserved s h.fmt then some .tileHeader else none

/-- `tileaddr` without its check (R253). -/
def Handle.tileAddr (h : Handle) (t : Nat → Nat) : Word :=
  BitVec.ofNat 64 ((fld h.w0 6 50 * 64 + 64 * h.slot *
    (t 0 * h.stride 0 + t 1 * h.stride 1 + t 2 * h.stride 2 + t 3 * h.stride 3)) % 2 ^ 56)

/-- Coordinates of tile i of a request. -/
def reqTile (w1 : Word) (i d : Nat) : Nat := fld w1 (16 * d) 16 + (if d == 0 then i else 0)

def Handle.outside (h : Handle) (t : Nat → Nat) : Bool := (List.range 4).any fun d => t d ≥ h.dim d

/-- Valid rows and columns of a tile in a format (R253). -/
def Handle.validRows (h : Handle) (t : Nat → Nat) : Nat := if t 1 + 1 == h.dim 1 then h.erow else 32
def Handle.validCols (h : Handle) (code : Nat) (t : Nat → Nat) : Nat := if t 0 + 1 == h.dim 0 then h.ecol else maxCols code

/-- The read of a handle table entry: checks 1-3 of R254, with R442's refusal of another package. -/
def readHandle (s : State) (who : Access) (index : Nat) : EngM (List Byte × State) :=
  match asidEntry s (coreDie who.core) who.asid.toNat with
  | .error (.fail c _) => .error (.fail c 0 s)
  | .error (.poison _ g) => .error (.fail .walkPoison 0 (foundPoison s g))
  | .error _ => .error (.wait none s)
  | .ok e =>
    if index ≥ (e.get 3).toNat then .error (.fail .handleInvalid 0 s)
    else
      let va := fld (e.get 2) 6 50 * 64 + 64 * index
      let a := BitVec.ofNat 64 va
      match translate s { who with read := true } (va % 2 ^ 56) 64 with
      | .error x => .error (engStopOf who a x)
      | .ok (p, s') =>
        if p.pa / 2 ^ 41 != s'.md.pkg.toNat then .error (.fail .remoteReject a s')
        else
          match engLoad s' who a 64 with
          | .error x => .error x
          | .ok (b, s'') =>
            match (Handle.ofBytes b).cause s'' with
            | some c => .error (.fail c 0 s'')
            | none => .ok (b, s'')

/-- A tile whose first byte lies in another package is refused at the layout unit (R442). -/
def tileHome (s : State) (who : Access) (a : Word) : EngM (Unit × State) :=
  match translate s who (fld a 0 56) 1 with
  | .error x => .error (engStopOf who a x)
  | .ok (p, s') => if p.pa / 2 ^ 41 != s'.md.pkg.toNat then .error (.fail .remoteReject a s') else .ok ((), s')

/-- Whether every page under a tile has the handle's interleave mode. -/
def tilePages (s : State) (who : Access) (a : Word) (n mode : Nat) : EngM (Unit × State) := do
  let pages := (List.range ((fld a 0 12 + n + 4095) / 4096)).map fun k =>
    if k == 0 then fld a 0 56 else (fld a 12 44 + k) * 4096 % 2 ^ 56
  let s ← pages.foldlM (fun (s : State) va =>
    match translate s who va 1 with
    | .error x => (.error (engStopOf who (BitVec.ofNat 64 va) x) : EngM State)
    | .ok (p, s') => if p.mode.toNat != mode then .error (.fail .interleaveParam a s') else .ok s') s
  .ok ((), s)

/-! ## Padding (R280) -/

/-- The pad value in an element of an unscaled format: its parts are PAD and +0 in a pair. The flags are those of the
conversion (R158, R487). -/
def padPlain (f : TileFmt) (pad : FVal) (c : Nat) : Nat × Flags := if f.cplx && c % 2 == 1 then (0, 0) else f.elem.encode 0 pad

/-- The element type in which an overflow gives the largest finite value. -/
def Elem.saturating (e : Elem) : Elem := match e with
  | .flt f => .flt { f with inf := none }
  | e => e

/-- The element type of a pad in a valid MX row: it saturates, and an infinite PAD is none that overflows (R280). -/
def padElem (f : TileFmt) (pad : FVal) : Elem := match pad with
  | .inf _ => f.elem
  | _ => f.elem.saturating

/-- PAD encoded under an existing scale. Under a group scale of zero or NaN the manual states no element (log 7). -/
def padUnder (el : Elem) (w : Nat) (scale : FVal) (pad : FVal) : Nat × Flags :=
  if scale.isZero || scale.isNaN then (Config.freeElement w (deliver fmtF32 0 false pad).1 % 2 ^ w, 0)
  else el.encode 0 (if pad.isZero then pad else (divV 32 pad scale).1)

/-- Some group lies wholly outside the valid region and is encoded anew: its band scale must be one that an encoder
accepts (R163). -/
def padsGroup (h : Header) : Bool := fmtKF h.code && !h.domain && (h.rows < 32 || h.cols ≤ 24)

/-- Places of a row from `lo` on: those inside keep their bits, the others take an encoded pad and its flags. -/
def padPlaces (w lo n row : Nat) (inside : Nat → Bool) (pad : Nat → Nat × Flags) : List Nat × Flags :=
  let r := (List.range n).map fun c => if inside (lo + c) then (rowElem w row (lo + c), 0) else pad (lo + c)
  (r.map (·.1), orFlags (r.map (·.2)))

/-- A row of a record, padded: payload bits, scale bits, flags. -/
def padRow (r : Record) (f : TileFmt) (pad : FVal) (i : Nat) : Nat × Nat × Flags :=
  let inside (c : Nat) : Bool := i < r.head.rows && c < r.head.validPlaces
  let row := r.rowBits f i
  let sc := r.scaleBits f i
  match f.scaling with
  | .plain =>
    let (el, fl) := padPlaces f.w 0 32 row inside (padPlain f pad)
    (packBits f.w el, 0, fl)
  | .mx =>
    if i < r.head.rows then
      let (el, fl) := padPlaces f.w 0 32 row inside fun _ =>
        padUnder (padElem f pad) f.w (.fin false 1 ((sc : Int) - 127)) pad
      (packBits f.w el, sc, fl)
    else
      let (s', el, fl) := mxquant f.elem 0 (List.replicate 32 pad)
      (packBits f.w el, s', fl)
  | .kf =>
    let band := decodeFloat fmtBF16 r.head.band
    let group (g : Nat) : List Nat × Nat × Flags :=
      let slot := sc / 2 ^ (16 * g) % 2 ^ 16
      if inside (8 * g) then
        let scale := if slot % 2 ^ 9 == 0x1FF then .nan false else mulV band (e4m5 (slot % 2 ^ 9))
        let (el, fl) := padPlaces f.w (8 * g) 8 row inside fun _ => padUnder f.elem f.w scale pad
        (el, slot, fl)
      else
        let (s', el, fl) := kfquant f.elem 0 band (List.replicate 8 pad)
        (el, s', fl)
    let gs := (List.range 4).map group
    (packBits f.w (gs.flatMap (·.1)), packBits 16 (gs.map (·.2.1)), orFlags (gs.map (·.2.2)))

/-- A record of rows of payload and scale bits. -/
def recordOf (h : Header) (f : TileFmt) (rows : List (Nat × Nat)) : Record :=
  ⟨h, rows.flatMap fun r => leBytes f.rowBytes r.1, rows.flatMap fun r => leBytes f.scaleRow r.2⟩

/-- Padding of a spatial record whose counts are below full, with the flags of its conversions. -/
def padRecord (pad : FVal) (r : Record) : Record × Flags :=
  match tileFmt r.head.code with
  | none => (r, 0)
  | some f =>
    let full := maxCols r.head.code
    if r.head.domain || (r.head.rows == 32 && r.head.cols == full) then (r, 0)
    else
      let rows := (List.range 32).map (padRow r f pad)
      (recordOf { r.head with rows := 32, cols := full } f (rows.map fun x => (x.1, x.2.1)), orFlags (rows.map (·.2.2)))

/-! ## Read modes (R281) -/

def plainReal (code : Nat) : Bool := (1 ≤ code && code ≤ 9) || (0x20 ≤ code && code ≤ 0x23)

/-- RMODE 1 transposes; RMODE 2 re-blocks bands of eight rows. -/
def modeRecord (mode : Nat) (r : Record) : Except Cause Record :=
  if mode == 0 then .ok r
  else if !plainReal r.head.code then .error .formatMismatch
  else if r.head.domain then .error .domainMismatch
  else
    match tileFmt r.head.code with
    | none => .error .formatMismatch
    | some f =>
      let rows (e : Nat → Nat → Nat) : List (Nat × Nat) :=
        (List.range 32).map fun i => (packBits f.w ((List.range 32).map (e i)), 0)
      if mode == 1 then
        .ok (recordOf { r.head with rows := r.head.cols, cols := r.head.rows } f (rows fun i c => recBits r f c i))
      else
        .ok (recordOf r.head f (rows fun i c =>
          let n := i % 8 * 32 + c
          recBits r f (i / 8 * 8 + n % 8) (n / 8)))

/-! ## One tile (R279, R282) -/

/-- A record as a writer writes it: elements outside the valid region are zero codes (R251). -/
def Record.masked (r : Record) : Record :=
  match tileFmt r.head.code with
  | none => r
  | some f =>
    recordOf r.head f ((List.range 32).map fun i => (packBits f.w ((List.range 32).map (recBits r f i)), r.scaleBits f i))

/-- The bytes of a record: header with its CRC, payload, scale area. -/
def Record.bytes (r : Record) : List Byte := headerBytes r.head.toWord ++ r.payload ++ r.scale

/-- A tile read from memory: the delivered record, and the flags of its padding. Re-blocking moves elements of the valid
region and leaves the header, so they stand where R281 puts them (log 21). -/
def tileLoad (s : State) (e : QEntry) (h : Handle) (i : Nat) : EngM ((Record × Flags) × State) := do
  let who := engAccess s e
  let t := reqTile e.b i
  if h.outside t then .error (.fail .tileCoord 0 s)
  else
    let a := h.tileAddr t
    let (_, s) ← tileHome s { who with read := true } a
    let (b, s) ← engLoad s who a 64
    match headerCheck s b with
    | .error c => .error (.fail c a s)
    | .ok hd =>
      let (b, s) ← engLoad s who a (footprint hd.code)
      match readRecord s b with
      | .error c => .error (.fail c a s)
      | .ok r =>
        if h.domain != 2 && (h.domain == 1) != hd.domain then .error (.fail .domainMismatch 0 s)
        else
          let (_, s) ← tilePages s { who with read := true } a (footprint hd.code) h.mode
          let pad := decodeFloat fmtF32 h.pad
          if reqPad e.a && pad.isNaN then .error (.fail .handleInvalid 0 s)
          else if reqPad e.a && padsGroup hd && !bandOk hd.band then .error (.fail .convertRange 0 s)
          else
            let (r, fl) := if reqPad e.a then padRecord pad r.masked else (r.masked, 0)
            match modeRecord (reqMode e.a) r with
            | .error c => .error (.fail c 0 s)
            | .ok r => .ok ((r, fl), s)

/-- Delivers tile i into its record of the destination run; the flags of its conversions. -/
def tileRead (s : State) (e : QEntry) (h : Handle) (i : Nat) : EngM (Flags × State) := do
  let ((r, fl), s) ← tileLoad s e h i
  match applyXf e.xf r r.bytes with
  | .error c => .error (.fail c 0 s)
  | .ok (b, fl') =>
    if b.length > e.sd.recSize then .error (.fail .slotOverflow 0 s)
    else
      let (_, s) ← Side.write s (engAccess s e) (.srf (recAt e.sd (e.d.toNat + i))) 0 b
      .ok (fl ||| fl', s)

/-- Writes record i of the source run to its slot. -/
def tileWrite (s : State) (e : QEntry) (h : Handle) (i : Nat) : EngM (Flags × State) := do
  let who := ownedAccess s e (i + 1) (i * e.se.recSize) (i * e.se.recSize)
  let t := reqTile e.b i
  let o := recAt e.se (e.d.toNat + i)
  if h.outside t then .error (.fail .tileCoord 0 s)
  else
    let a := h.tileAddr t
    let (_, s) ← tileHome s { who with write := true } a
    let (b, s) ← Side.read s who (.srf o) 0 64
    match headerCheck s b with
    | .error c => .error (.fail c (BitVec.ofNat 64 o) s)
    | .ok hd =>
      if o + footprint hd.code > srfSize then .error (.fail .srfBounds (ownAddr o) s)
      else
        let (b, s) ← Side.read s who (.srf o) 0 (footprint hd.code)
        match readRecord s b with
        | .error c => .error (.fail c (BitVec.ofNat 64 o) s)
        | .ok r =>
          match applyXf e.xf r r.masked.bytes with
          | .error c => .error (.fail c 0 s)
          | .ok (out, fl) =>
            if hd.rows != h.validRows t || hd.cols != h.validCols hd.code t then .error (.fail .tileHeader (BitVec.ofNat 64 o) s)
            else if out.length > 64 * h.slot then .error (.fail .slotOverflow 0 s)
            else
              let (_, s) ← tilePages s { who with write := true } a out.length h.mode
              let (_, s) ← engStore s who a out
              .ok (fl, s)

end Sys2Proof.Machine
end

