-- ==== Sys2Proof/Machine/Engine.lean ====
section
/-! DEFINITION. The engines: the units of every transfer, the scoreboard, gates, and completion (R349-R371, R377-R385). -/

namespace Sys2Proof.Machine

/-! ## What an instruction moves (R377, R378) -/

def QEntry.kind (e : QEntry) : Nat := fld e.xf 0 4

def extentAt (e : QEntry) (i : Nat) : Extent := e.decls.getD i ⟨0, 0, false⟩

/-- The memory forms of `scopy` and `sfill`. -/
def QEntry.memForm (e : QEntry) : Bool := (e.opc == 0xD3 || e.opc == 0xD4) && e.fn.toNat == 2

def dstSide (e : QEntry) : Side :=
  match e.opc.toNat with
  | 0xD0 => .srf (extentAt e 0).lo
  | 0xD1 => .mem e.a
  | _ => if e.memForm then .mem e.a else .srf (extentAt e 0).lo

def srcSide (e : QEntry) : Side :=
  match e.opc.toNat with
  | 0xD0 => .mem e.a
  | 0xD1 => .srf (extentAt e 0).lo
  | _ => if e.memForm then .mem e.b else .srf (extentAt e 1).lo

def extentLen (x : Extent) : Nat := x.hi - x.lo

/-- Interleave parameters (R362, R364): element bytes, channels, group size, groups. -/
structure Inter where
  w : Nat
  ch : Nat
  g : Nat
  groups : Nat
  deriving DecidableEq, Repr

def interOf (xf : Word) : Inter :=
  let g := 2 ^ fld xf 28 3
  let ch := fld xf 16 12
  let w := match tileFmt (fld xf 4 7) with
    | some f => if f.cplx then f.w / 4 else f.w / 8
    | none => 1
  ⟨w, ch, g, (ch + g - 1) / g⟩

/-- Bytes read and written for one element of every channel. -/
def Inter.readUnit (x : Inter) (pack : Bool) : Nat := if pack then x.ch * x.w else x.groups * x.g * x.w
def Inter.writeUnit (x : Inter) (pack : Bool) : Nat := x.readUnit (!pack)

/-- Length of the operand that fixes a transfer: the SRF extent, or the length operand (R378). -/
def baseLen (e : QEntry) : Nat := if e.memForm then e.d.toNat else extentLen (extentAt e 0)

/-- The fixing operand is a destination in an SRF. -/
def QEntry.fixedByDst (e : QEntry) : Bool := e.opc == 0xD0 || (e.opc == 0xD3 && !e.memForm) || e.opc == 0xD4

/-- Source and destination lengths of the byte transfers. -/
def srcLen (e : QEntry) : Nat :=
  let k := e.kind
  if (k == 2 || k == 3) && e.fixedByDst then
    let x := interOf e.xf
    baseLen e / x.writeUnit (k == 2) * x.readUnit (k == 2)
  else if e.opc == 0xD3 && !e.memForm && k != 0 then extentLen (extentAt e 1)
  else baseLen e

def dstLen (e : QEntry) : Nat :=
  let k := e.kind
  if (k == 2 || k == 3) && !e.fixedByDst then
    let x := interOf e.xf
    baseLen e / x.readUnit (k == 2) * x.writeUnit (k == 2)
  else baseLen e

/-- Records of a KIND 1 transfer: how many, the offset of a source record, and a destination record's offset. -/
def convCount (e : QEntry) : Nat := if e.fn.getLsbD 0 then 1 else recCount e.se
def convSrc (e : QEntry) (i : Nat) : Nat := if e.fn.getLsbD 0 then (srcSide e).addr 0 |>.toNat |> (· % 2 ^ 22) else recAt e.se i
def convPitch (e : QEntry) : Nat := (footprint (fld e.xf 4 7) + 63) / 64 * 64
def convDst (e : QEntry) (i : Nat) : Nat := if e.opc == 0xD1 then i * convPitch e else i * e.sd.stride

def unitsOf (n k : Nat) : Nat := (n + k - 1) / k

/-- Element type and operation of `sscadd` (R382): s32, z32, s64, z64, f32, f64, numbered as R63 does. -/
def addType (fn : BitVec 4) : BitVec 5 × BitVec 4 :=
  match fn.toNat % 8 with
  | 0 => (1, 0)
  | 1 => (5, 0)
  | 2 => (0, 0)
  | 3 => (4, 0)
  | 4 => (9, 7)
  | _ => (8, 7)

def addSize (fn : BitVec 4) : Nat := tyWidth (addType fn).1 / 8

/-- Number of units of a transfer (R371): 64-byte blocks, records, chunks with the stream's front, or tiles. -/
def unitCount (e : QEntry) : Nat :=
  match e.opc.toNat with
  | 0xD2 => 1 + reqCount e.a
  | 0xD4 => unitsOf (dstLen e) 64
  | 0xD5 => e.d.toNat
  | 0xD6 => e.d.toNat
  | _ =>
    match e.kind with
    | 1 => convCount e
    | 4 => zbChunks (srcLen e) + 1
    | 5 => zbChunks (dstLen e) + 1
    | 6 => zbChunks (srcLen e) + 1
    | 7 => zbChunks (dstLen e) + 1
    | _ => unitsOf (srcLen e) 64

/-- Length of a run of records in destination order, gaps included (R357). -/
def runLen (d : Desc) (k : Nat) : Nat := if k == 0 then 0 else (k - 1) * d.stride + d.recSize

/-- n of an instruction that does not fail (R357, R368, R380-R384). -/
def wholeCount (e : QEntry) : Nat :=
  match e.opc.toNat with
  | 0xD2 => if e.fn.getLsbD 0 then reqCount e.a * e.se.recSize else runLen e.sd (reqCount e.a)
  | 0xD5 => runLen e.sd e.d.toNat
  | 0xD6 => e.d.toNat * e.sd.recSize
  | 0xD7 => e.delivered * e.sd.recSize
  | 0xD8 => fld e.c 0 32
  | 0xDF => fld e.b 0 32
  | _ =>
    match e.kind with
    | 1 =>
      if e.opc != 0xD1 then baseLen e
      else if convCount e == 0 then 0
      else (convCount e - 1) * convPitch e + footprint (fld e.xf 4 7)
    | 4 => srcLen e
    | 6 => srcLen e
    | _ => dstLen e

/-! ## Units -/

/-- The outcome of one unit: done, waiting (perhaps for a host-managed page), or failed at its place. -/
inductive UnitOut where
  | done (s : State) (e : QEntry)
  | wait (page : Option PageWait) (s : State)
  | fail (f : EngFault) (s : State)
  deriving DecidableEq, Repr

/-- Unit i has been transferred. -/
def QEntry.has (e : QEntry) (i : Nat) : Bool := i < e.next && !e.late.contains i && e.faultAt != some i

/-- n of a unit that read poison: its first destination byte, rounded down to the destination's granule (R371). -/
def poisonPrefix (d : Side) (off : Nat) : Nat :=
  let a := (d.addr off).toNat
  off - Nat.min off (a % d.granule)

/-- What becomes of an access that stops a unit whose destination is `n` bytes at `off`: poison is copied to the
destination, any other failure counts the bytes before. -/
def stopUnit (who : Access) (d : Side) (off n : Nat) (at' : Nat) : EngStop → UnitOut
  | .wait p s => .wait p s
  | .fail c a s =>
    if isPoison c then .fail ⟨.copyPoison, at', a, poisonPrefix d off⟩ (Side.poison s who d off n)
    else .fail ⟨c, at', a, off⟩ s

/-- A failing access of a unit that leaves its destination as it is. -/
def failUnit (at' n : Nat) : EngStop → UnitOut
  | .wait p s => .wait p s
  | .fail c a s => .fail ⟨if isPoison c then .copyPoison else c, at', a, n⟩ s

/-- A failure to write. -/
def writeStop (at' n : Nat) : EngStop → UnitOut
  | .wait p s => .wait p s
  | .fail c a s => .fail ⟨c, at', a, n⟩ s

/-- Writes block i of 64 bytes of a destination of `len` bytes. With its neighbours that the transfer has written it may
make up whole lines, whose marks are then cleared (R246, R417). -/
def writeBlock (s : State) (e : QEntry) (i len : Nat) (b : List Byte) : EngM (Unit × State) := do
  let who := ownedAccess s e i (64 * i) (64 * i)
  let d := dstSide e
  let (_, s) ← Side.write s who d (64 * i) b
  let lo := if i > 0 && e.has (i - 1) then 64 * (i - 1) else 64 * i
  let hi := if e.has (i + 1) then Nat.min len (64 * (i + 2)) else 64 * i + b.length
  .ok ((), Side.clear s who d lo (hi - lo))

/-- KIND 0: one block of 64 bytes. -/
def copyUnit (s : State) (e : QEntry) (i : Nat) : UnitOut :=
  let off := 64 * i
  let n := Nat.min 64 (srcLen e - off)
  let who := ownedAccess s e i off off
  match Side.read s who (srcSide e) off n with
  | .error x => stopUnit who (dstSide e) off n off x
  | .ok (b, s) =>
    match writeBlock s e i (srcLen e) b with
    | .error x => writeStop off off x
    | .ok (_, s) => .done s e

/-- KIND 1: one record. -/
def convUnit (s : State) (e : QEntry) (i : Nat) : UnitOut :=
  let src := convSrc e i
  let off := convDst e i
  let who := ownedAccess s e i off off
  let n := footprint (fld e.xf 4 7)
  let bad (c : Cause) (s : State) : UnitOut := .fail ⟨c, off, BitVec.ofNat 64 src, off⟩ s
  match Side.read s who (.srf src) 0 64 with
  | .error x => stopUnit who (dstSide e) off n off x
  | .ok (b, s) =>
    match headerCheck s b with
    | .error c => bad c s
    | .ok h =>
      if src + footprint h.code > srfSize then bad .srfBounds s
      else
        match Side.read s who (.srf src) 0 (footprint h.code) with
        | .error x => stopUnit who (dstSide e) off n off x
        | .ok (b, s) =>
          match readRecord s b with
          | .error c => bad c s
          | .ok r =>
            match applyXf e.xf r b with
            | .error c => bad c s
            | .ok (out, fl) =>
              match Side.write s who (dstSide e) off out with
              | .error x => writeStop off off x
              | .ok (_, s) => .done s { e with flags := e.flags ||| fl }

/-- Destination element of a source element (R364); `none` for a dropped one. -/
def interDst (x : Inter) (pack : Bool) (len k : Nat) : Option Nat :=
  if pack then
    let c := k / len
    some (c / x.g * len * x.g + k % len * x.g + c % x.g)
  else
    let c := k / (len * x.g) * x.g + k % x.g
    if c < x.ch then some (c * len + k % (len * x.g) / x.g) else none

/-- The first byte of the elements at some places of a destination. -/
def lowestByte (e : QEntry) (x : Inter) (l : List Nat) : Nat := l.foldl Nat.min (dstLen e / x.w) * x.w

/-- Writes elements at their places, one after the other: the state, or the first byte of those not written. -/
def writeElems (who : Access) (e : QEntry) (x : Inter) (o : Owner) :
    List (Nat × List Byte) → State → Except (Nat × EngStop) State
  | [], s => .ok s
  | (k, b) :: l, s =>
    match Side.write s { who with owner := some { o with n := k * x.w } } (dstSide e) (k * x.w) b with
    | .error y => .error (lowestByte e x (k :: l.map (·.1)), y)
    | .ok (_, s') => writeElems who e x o l s'

/-- The missing channels of the last group. -/
def interPad (x : Inter) (len : Nat) : List (Nat × List Byte) :=
  (List.range len).flatMap fun i => (List.range (x.groups * x.g - x.ch)).map fun q =>
    ((x.groups - 1) * len * x.g + i * x.g + (x.g - 1 - q), List.replicate x.w 0)

/-- Places of the elements of block i, by their number in the block, and of the missing channels, which the last block
writes. -/
def interPlaces (e : QEntry) (x : Inter) (i : Nat) : List (Option Nat) :=
  let pack := e.kind == 2
  let n := Nat.min 64 (srcLen e - 64 * i)
  (List.range (n / x.w)).map fun k => interDst x pack (srcLen e / x.readUnit pack) (64 * i / x.w + k)

def interPads (e : QEntry) (x : Inter) (i : Nat) : List (Nat × List Byte) :=
  if e.kind == 2 && i + 1 == unitCount e then interPad x (srcLen e / x.readUnit true) else []

/-- Everything that block i writes. -/
def interAll (e : QEntry) (x : Inter) (i : Nat) : List Nat :=
  (interPlaces e x i).filterMap id ++ (interPads e x i).map (·.1)

/-- KIND 2 and 3: the elements of one source block of 64 bytes. A failure counts the bytes of the block that lie before
what it leaves unwritten (R357). -/
def interUnit (s : State) (e : QEntry) (i : Nat) : UnitOut :=
  let x := interOf e.xf
  let n := Nat.min 64 (srcLen e - 64 * i)
  let places := interPlaces e x i
  let first := lowestByte e x (places.filterMap id)
  let all := lowestByte e x (interAll e x i)
  let who := ownedAccess s e i first all
  match Side.read s who (srcSide e) (64 * i) n with
  | .error (.fail c a s') =>
    if isPoison c then
      .fail ⟨.copyPoison, first, a, poisonPrefix (dstSide e) first⟩
        ((places.filterMap id).foldl (fun s p => Side.poison s who (dstSide e) (p * x.w) x.w) s')
    else .fail ⟨c, first, a, all⟩ s'
  | .error (.wait p s') => .wait p s'
  | .ok (b, s') =>
    let out := (places.zipIdx.filterMap fun (p, k) => p.map fun p => (p, (b.drop (k * x.w)).take x.w)) ++ interPads e x i
    match writeElems who e x ⟨e.seq, i, first, all⟩ out s' with
    | .error (n, y) => writeStop first n y
    | .ok s'' => .done s'' e

/-! ## ZB streams (R365-R370) -/

def keyOf (s : State) (e : QEntry) : Option (BitVec 256) := lookupNum (fld e.xf 32 12) s.md.keys

def chunkIv (e : QEntry) (c : Nat) : List Byte := leBytes 8 e.nonce.toNat ++ leBytes 4 c
def chunkAad (c word : Nat) : List Byte := leBytes 4 c ++ leBytes 2 word ++ [0, 0]

/-- A run of bytes at a multiple of 8 and the padding behind it. -/
def upTo8 (n : Nat) : Nat := (n + 7) / 8 * 8

/-- Reads blocks `k` and on of a chunk, up to its end: the bytes, or the block that stops it. -/
def readBlocks (s : State) (who : Access) (x : Side) (off : Nat) : Nat → Nat → Except (Nat × EngStop) (List Byte × State)
  | 0, _ => .ok ([], s)
  | n + 1, k =>
    match Side.read s who x (off + 64 * k) 64 with
    | .error y => .error (k, y)
    | .ok (b, s') =>
      match readBlocks s' who x off n (k + 1) with
      | .error y => .error y
      | .ok (l, s'') => .ok (b ++ l, s'')

/-- Length of the entry that a directory word describes. -/
def entryLen (tagged : Bool) (word : Nat) : Nat := word % 2 ^ 13 + (if tagged then 16 else 0)

/-- Where chunk c's entry starts in a stream whose directory is known that far (R365). -/
def chunkPos (total : Nat) (tagged : Bool) (dir : List Nat) (c : Nat) : Nat :=
  (dir.take c).foldl (fun p w => p + upTo8 (entryLen tagged w)) (zbFront total)

/-- A block of chunk c reads poison (R371): the bytes of its entry that would hold the block uncompressed are written as
poisoned, and the chunks whose entries end before that line count (R368; log 24). -/
def encodePoison (s : State) (e : QEntry) (c k : Nat) (a : Word) : UnitOut :=
  let d := dstSide e
  let pos (c : Nat) : Nat := chunkPos (srcLen e) (e.kind == 6) e.dir c
  let line := poisonPrefix d (pos c + 64 * k)
  let good := ((List.range c).filter fun j => pos j + entryLen (e.kind == 6) (e.dir.getD j 0) ≤ line).length
  .fail ⟨.copyPoison, 4096 * c + 64 * k, a, 4096 * good⟩
    (Side.poison s (ownedAccess s e c (4096 * c) (4096 * c)) d (pos c + 64 * k) 64)

/-- KIND 4 and 6: chunk c, or after the last chunk the header and the directory, all or none. -/
def encodeUnit (s : State) (e : QEntry) (c : Nat) : UnitOut :=
  let who := ownedAccess s e c (4096 * c) (4096 * c)
  let total := srcLen e
  let enc := e.kind == 6
  if c == zbChunks total then
    let dir := padTo 16 (e.dir.flatMap fun w => leBytes 2 w)
    match Side.writeWhole s who (dstSide e) 0 (zbHeader total enc ++ dir) with
    | .error x => writeStop 0 total x
    | .ok (_, s) => .done s e
  else
    let at' := 4096 * c
    match readBlocks s who (srcSide e) at' (chunkLen total c / 64) 0 with
    | .error (k, .fail x a s') => if isPoison x then encodePoison s' e c k a else .fail ⟨x, at' + 64 * k, a, at'⟩ s'
    | .error (_, .wait p s') => .wait p s'
    | .ok (b, s) =>
      let z := chunkEncode b
      let put (bytes : List Byte) (s : State) : UnitOut :=
        match Side.write s who (dstSide e) (chunkPos total enc e.dir c) bytes with
        | .error x => writeStop at' at' x
        | .ok (_, s) => .done s { e with dir := e.dir ++ [z.word] }
      if !enc then put z.run s
      else
        match keyOf s e with
        | none => .fail ⟨.keySlot, at', 0, at'⟩ s
        | some k =>
          let (ct, tag) := gcmSeal k (chunkIv e c) (chunkAad c z.word) z.run
          put (ct ++ tag) s

/-- Bytes of the stream that lie in the source: an SRF extent bounds them. -/
def streamRoom (e : QEntry) : Nat := match srcSide e with
  | .srf _ => extentLen (extentAt e 1)
  | .mem _ => 2 ^ 41

/-- Header and directory of a stream (R369). -/
def decodeFront (s : State) (e : QEntry) : UnitOut :=
  let who := engAccess s e
  let total := dstLen e
  let bad (s : State) : UnitOut := .fail ⟨.decompress, 0, 0, 0⟩ s
  if streamRoom e < zbFront total then bad s
  else
    match Side.read s who (srcSide e) 0 16 with
    | .error x => failUnit 0 0 x
    | .ok (h, s) =>
      if zbHeaderRead (e.kind == 7) h != some total then bad s
      else
        match Side.read s who (srcSide e) 16 (zbFront total - 16) with
        | .error x => failUnit 0 0 x
        | .ok (d, s) =>
          let words := (List.range (zbChunks total)).map fun c => leNat ((d.drop (2 * c)).take 2)
          let ok := (words.zipIdx.all fun (w, c) => (zbDirEntry (chunkLen total c) w).isSome) &&
            (d.drop (2 * zbChunks total)).all (· == 0)
          if ok then .done s { e with dir := words } else bad s

/-- Chunk c of a stream: a failed chunk is not written, and the later ones go on (R370). -/
def decodeUnit (s : State) (e : QEntry) (c : Nat) : UnitOut :=
  let who := engAccess s e
  let at' := 4096 * c
  let word := e.dir.getD c 0
  let len := word % 2 ^ 13
  let raw := word / 2 ^ 13 % 2 == 1
  let pos := chunkPos (dstLen e) (e.kind == 7) e.dir c
  let all := entryLen (e.kind == 7) word
  let bad (c : Cause) (s : State) : UnitOut := .fail ⟨c, at', 0, at'⟩ s
  if pos + all > streamRoom e then bad .decompress s
  else
    match Side.read s who (srcSide e) pos all with
    | .error x => failUnit at' at' x
    | .ok (b, s) =>
      let give (run : List Byte) : UnitOut :=
        match chunkDecode (chunkLen (dstLen e) c) raw run with
        | none => bad .decompress s
        | some out =>
          match Side.writeWhole s who (dstSide e) at' out with
          | .error x => writeStop at' at' x
          | .ok (_, s) => .done s e
      if e.kind != 7 then give b
      else
        match keyOf s e with
        | none => bad .keySlot s
        | some k =>
          match gcmOpen k (chunkIv e c) (chunkAad c word) (b.take len) (b.drop len) with
          | none => bad .authFail s
          | some run => give run

/-! ## Fill, gather, scatter-add -/

/-- One block of the pattern of gB. -/
def fillUnit (s : State) (e : QEntry) (i : Nat) : UnitOut :=
  let off := 64 * i
  let n := Nat.min 64 (dstLen e - off)
  let b := ((List.replicate 8 (leBytes 8 e.b.toNat)).flatten).take n
  match writeBlock s e i (dstLen e) b with
  | .error x => writeStop off off x
  | .ok (_, s) => .done s e

/-- Address of record i of an indexed transfer (R381); the index may be poisoned. -/
def indexedAddr (s : State) (e : QEntry) (ix : Desc) (i : Nat) : EngM (Word × State) :=
  match Side.read s (engAccess s e) (.srf (ix.base + 8 * i)) 0 8 with
  | .error x => .error x
  | .ok (b, s) => .ok (e.a + BitVec.ofNat 64 (leNat b) * e.b, s)

/-- Record i of `sgather`: the whole record passes orders 1-6 of R316 before a byte of it is read. -/
def gatherUnit (s : State) (e : QEntry) (i : Nat) : UnitOut :=
  let who := engAccess s e
  let off := i * e.sd.stride
  let load (a : Word) (s : State) : EngM (List Byte × State) := do
    let (_, s) ← engCheck s who engRead a e.sd.recSize 8
    engLoad s who a e.sd.recSize
  match indexedAddr s e e.se i with
  | .error x => failUnit off off x
  | .ok (a, s) =>
    match load a s with
    | .error x => failUnit off off x
    | .ok (b, s) =>
      match Side.write s who (.srf (recAt e.sd i)) 0 b with
      | .error x => writeStop off off x
      | .ok (_, s) => .done s e

/-- The additions of the elements of a record, in order. -/
def addElems (who : Access) (ty : BitVec 5) (aop : BitVec 4) (size : Nat) : List (List Byte) → Word → State →
    EngM (Unit × State)
  | [], _, s => .ok ((), s)
  | b :: l, a, s =>
    let x := { engEntry s engAdd a size [] with ty, aop, operand := BitVec.ofNat 64 (leNat b) }
    match engAct s who size x with
    | .error y => .error y
    | .ok s' => addElems who ty aop size l (a + BitVec.ofNat 64 size) s'

/-- Record i of `sscadd`. -/
def scatterUnit (s : State) (e : QEntry) (i : Nat) : UnitOut :=
  let n := e.sd.recSize
  let at' := n * i
  let who := ownedAccess s e i at' at'
  let size := addSize e.fn
  match indexedAddr s e e.se i with
  | .error x => failUnit at' at' x
  | .ok (a, s) =>
    match Side.read s who (.srf (recAt e.sd i)) 0 n with
    | .error x => failUnit at' at' x
    | .ok (b, s) =>
      let els := (List.range (n / size)).map fun j => (b.drop (size * j)).take size
      match addElems who (addType e.fn).1 (addType e.fn).2 size els a s with
      | .error x => failUnit at' at' x
      | .ok (_, s) => .done s e

/-! ## Tiles -/

/-- Unit 0 of a tile request reads the handle, once; unit i + 1 serves tile i (R254, R279). -/
def tileUnit (s : State) (e : QEntry) (i : Nat) : UnitOut :=
  if i == 0 then
    match readHandle s (engAccess s e) (reqHandle e.a) with
    | .error x => failUnit 0 0 x
    | .ok (b, s) => .done s { e with dir := (List.range 8).map fun k => leNat ((b.drop (8 * k)).take 8) }
  else
    let h := Handle.ofBytes (e.dir.flatMap (leBytes 8))
    let write := e.fn.getLsbD 0
    let at' := if write then (i - 1) * e.se.recSize else (i - 1) * e.sd.stride
    match (if write then tileWrite else tileRead) s e h (i - 1) with
    | .error x => failUnit at' at' x
    | .ok (fl, s) => .done s { e with flags := e.flags ||| fl }

/-! ## A transfer's progress -/

/-- Unit i of an instruction. -/
def runUnit (s : State) (e : QEntry) (i : Nat) : UnitOut :=
  match e.opc.toNat with
  | 0xD2 => tileUnit s e i
  | 0xD4 => fillUnit s e i
  | 0xD5 => gatherUnit s e i
  | 0xD6 => scatterUnit s e i
  | _ =>
    match e.kind with
    | 0 => copyUnit s e i
    | 1 => convUnit s e i
    | 2 => interUnit s e i
    | 3 => interUnit s e i
    | 4 => encodeUnit s e i
    | 6 => encodeUnit s e i
    | _ => if i == 0 then decodeFront s e else decodeUnit s e (i - 1)

def QEntry.decodes (e : QEntry) : Bool := (e.kind == 5 || e.kind == 7) && e.opc != 0xD2 && e.opc != 0xD4

/-- A unit that others pass while its reads wait at a quiesced stack (R274, R285). A chunk's place in a stream follows
from the chunks before it (R368), and a request's tiles from its handle (R279). -/
def QEntry.passes (e : QEntry) (i : Nat) : Bool :=
  match e.opc.toNat with
  | 0xD2 => i > 0
  | 0xD4 => true
  | 0xD5 => true
  | 0xD6 => true
  | _ => e.kind < 4 || (e.decodes && i > 0)

/-- Decoding chunks, and the records of a gather or a scatter-add, go on after unit i failed (R353, R370). -/
def QEntry.goesOn (e : QEntry) (i : Nat) : Bool := e.opc == 0xD5 || e.opc == 0xD6 || (e.decodes && i > 0)

/-- A failure has ended the transfer but for its earlier units. -/
def QEntry.ended (e : QEntry) : Bool := e.faultAt.any fun i => !e.goesOn i

def QEntry.nextDue (e : QEntry) : Bool := e.next < unitCount e && !e.ended

/-- Every unit has been transferred, or the transfer has ended at a failure. -/
def QEntry.over (e : QEntry) : Bool := !e.nextDue && e.late.isEmpty

/-- Requests of an instruction that wait at quiesced stacks. -/
def StreamUnit.owedBy (u : StreamUnit) (e : QEntry) : List Owed := u.owed.filter (·.owner.seq == e.seq)

/-- A transfer is over once its requests have been served too. -/
def transferOver (s : State) (e : QEntry) : Bool := e.over && (s.core.st.owedBy e).isEmpty

/-- It waits for the host's response (R263). -/
def QEntry.awaitsPage (e : QEntry) : Bool := e.page.any fun p => !p.refused

/-- Unit i has been tried; `late` says that it waits. -/
def QEntry.past (e : QEntry) (i : Nat) (late : Bool) (clock : Nat) : QEntry :=
  { e with next := Nat.max e.next (i + 1), late := if late then setAdd i e.late else setDel i e.late, since := clock }

/-- Unit i has failed: the lowest failure is the one reported, and of two in one unit the first, with the lesser prefix. -/
def QEntry.failAt (e : QEntry) (i : Nat) (f : EngFault) : QEntry :=
  let e := if e.faultAt.all fun j => i < j then { e with fault := some f, faultAt := some i }
    else if e.faultAt == some i then { e with fault := e.fault.map fun g => { g with n := Nat.min g.n f.n } }
    else e
  { e with late := if e.goesOn i then e.late else e.late.filter (· < i), page := none }

/-- Tries unit i: the state, the instruction, and whether the transfer may move on. A unit that waits is made again as a
whole, and has done nothing. -/
def tryUnit (s : State) (e : QEntry) (i : Nat) : State × QEntry × Bool :=
  match runUnit s e i with
  | .done s' e' => (s', e'.past i false s.clock, true)
  | .wait none s' =>
    if e.passes i then (attempted s s', e.past i true s.clock, true) else (attempted s s', e, false)
  | .wait p s' => (attempted s s', { e with page := p }, false)
  | .fail f s' => (s', (e.past i false s.clock).failAt i f, true)

/-- After a failed record, whether a later record of a gather or scatter-add is transferred is open (R353). -/
def skipped (s : State) (e : QEntry) : Bool :=
  (e.opc == 0xD5 || e.opc == 0xD6) && e.fault.isSome && Config.freeChoice s.fresh

/-- Tries the next unit. -/
def nextUnit (s : State) (e : QEntry) : State × QEntry × Bool :=
  let s' := if e.fault.isSome then { s with fresh := s.fresh + 1 } else s
  if skipped s e then (s', e.past e.next false s.clock, true) else tryUnit s' e e.next

/-- Transfers units until none is left or one must be waited for. -/
def runNext : Nat → State → QEntry → State × QEntry
  | 0, s, e => (s, e)
  | k + 1, s, e =>
    if !e.nextDue || e.awaitsPage then (s, e)
    else
      match nextUnit s e with
      | (s', e', true) => runNext k s' e'
      | (s', e', false) => (s', e')

/-- Tries units that waited. -/
def runLate : List Nat → State → QEntry → State × QEntry
  | [], s, e => (s, e)
  | i :: l, s, e =>
    if e.awaitsPage || !e.late.contains i then runLate l s e
    else
      let (s', e', _) := tryUnit s e i
      runLate l s' e'

/-- What an owed request does when it is served. -/
def OwedOp.run (s : State) (who : Access) : OwedOp → EngM State
  | .access x => engAct s who 1 x
  | .clear a n => .ok (engClear s who a n)
  | .poison a n => .ok (engPoison s who a n)

/-- A request that waited is made again: it may wait on, be served, ask for a page, or fail its unit. -/
def serveOwed (s : State) (e : QEntry) (x : Owed) : State × QEntry :=
  if e.awaitsPage then (s, e)
  else
    let s1 := s.onSt fun u => { u with owed := u.owed.erase x }
    match x.op.run s1 { engAccess s1 e with owner := some x.owner } with
    | .ok s' => (s', e)
    | .error (.wait p s') => (s'.onSt fun u => { u with owed := u.owed ++ [x] }, { e with page := p })
    | .error (.fail c a s') => (s', e.failAt x.owner.unit ⟨c, x.owner.offset, a, x.owner.n⟩)

/-- Every waiting request of an instruction is made again, in order (R274, R275). -/
def runOwed (s : State) (e : QEntry) : State × QEntry :=
  (s.core.st.owedBy e).foldl (fun r x => serveOwed r.1 r.2 x) (s, e)

def runUnits (s : State) (e : QEntry) : State × QEntry :=
  let (s', e') := runOwed s e
  let (s', e') := runNext (unitCount e') s' e'
  runLate e'.late s' e'

/-- An instruction whose transfer an engine runs. -/
def QEntry.transfers (e : QEntry) : Bool := 0xD0 ≤ e.opc.toNat && e.opc.toNat ≤ 0xD6

/-- A transfer that (de)interleaves. -/
def QEntry.interleaves (e : QEntry) : Bool :=
  !(e.opc == 0xD2 || e.opc == 0xD4 || e.opc == 0xD5 || e.opc == 0xD6) && (e.kind == 2 || e.kind == 3)

/-- The counted prefix of a failed transfer: where blocks interleave, those not transferred bound it (R357). -/
def faultCount (e : QEntry) (f : EngFault) : Nat :=
  if e.interleaves && f.cause != .copyPoison then
    let x := interOf e.xf
    let missing := (List.range (unitCount e)).filter fun u => !e.has u && e.faultAt != some u
    Nat.min f.n (lowestByte e x (missing.flatMap (interAll e x)))
  else f.n

/-- What a transfer reports. -/
def reportTransfer (s : State) (e : QEntry) : State :=
  match e.fault with
  | some f => completeEntry s e (some f) (faultCount e f)
  | none => completeEntry s e none (wholeCount e)

/-- The rest of an instruction that runs, and its completion. -/
def completeRunning (s : State) (e : QEntry) : State :=
  if e.opc == 0xD7 then (if e.delivered ≥ e.d.toNat then completeEntry s e none (wholeCount e) else s)
  else if !e.transfers then s
  else
    let (s', e') := runUnits s e
    let s' := putFlight s' e'
    if transferOver s' e' then reportTransfer s' e' else s'

/-- ENGINE_COMPLETE on the focused core (R353). -/
def completeEngine (s : State) (seq : Nat) : State :=
  match s.core.st.flight.find? (·.seq == seq) with
  | none => s
  | some e =>
    match e.stage with
    | .running => afterEngine (completeRunning s e)
    | .completing f n => if e.awaitsPage then s else afterEngine (completeEntry s e f n)
    | _ => s

/-- The tiles of a request that are still to be served (R279). -/
def serveTiles (s : State) (seq : Nat) : State :=
  match s.core.st.flight.find? (·.seq == seq) with
  | none => s
  | some e =>
    if e.opc == 0xD2 && e.stage == .running then
      let (s', e') := runUnits s e
      putFlight s' e'
    else s

/-- One unit of some transfer in flight: which one is open (R351). -/
def streamTurn (s : State) : State :=
  let live := s.core.st.flight.filter fun e =>
    e.transfers && e.stage == .running && !transferOver s e && !e.awaitsPage
  let pick (k : Nat) : Nat := (List.range 4).foldl (fun n i => 2 * n + (Config.freeChoice (s.fresh + k + i)).toNat) 0
  match live[pick 0 % Nat.max 1 live.length]? with
  | none => s
  | some e =>
    let (s, e) := runOwed { s with fresh := s.fresh + 8 } e
    let late := e.late[pick 4 % (e.late.length + 1)]?
    let (s', e', _) := match (if e.awaitsPage then none else late), e.nextDue && !e.awaitsPage with
      | some i, _ => tryUnit s e i
      | none, true => nextUnit s e
      | none, false => (s, e, false)
    putFlight s' e'

/-! ## The scoreboard (R349, R351) -/

/-- Engine of an instruction: 0 load, 1 store, 2 kernel, 3 gather/scatter, 4 port. -/
def engineOf (e : QEntry) : Option Nat :=
  match e.opc.toNat with
  | 0xD0 => some 0
  | 0xD1 => some 1
  | 0xD2 => some (if e.fn.getLsbD 0 then 1 else 0)
  | 0xD3 => some (if e.memForm && fld e.a 56 8 == 0 then 1 else 0)
  | 0xD4 => some (if e.memForm && fld e.a 56 8 == 0 then 1 else 0)
  | 0xD5 => some 3
  | 0xD6 => some 3
  | 0xD7 => some 4
  | 0xD8 => some 2
  | _ => none

def engineDepth : Nat → Nat
  | 0 => 8
  | 1 => 8
  | 2 => 2
  | _ => 4

/-- The engine has a free place. -/
def hasPlace (u : StreamUnit) (e : QEntry) : Bool :=
  match engineOf e with
  | none => true
  | some k => (u.flight.filter fun x => engineOf x == some k).length < engineDepth k

def mayIssue (u : StreamUnit) (e : QEntry) : Bool := !((u.queue ++ u.flight).any fun x => conflicts x e) && hasPlace u e

/-- The records of an `srecv` that runs are posted to its ring (R383, R455). -/
def postRecords (s : State) (e : QEntry) : State :=
  if e.opc == 0xD7 && e.stage == .running then
    s.onPort (fld e.a 0 3) fun p => p.onRing (fld e.a 3 13) fun r => { r with record := some e.sd.recSize }
  else s

/-- SCOREBOARD_ISSUE on the focused core (R349). Stopping holds it (R427). -/
def scoreboardIssue (s : State) : State :=
  if s.core.ctx.pend || s.core.cp.run != .running then s
  else
    match s.core.st.queue.find? (mayIssue s.core.st) with
    | none => s
    | some e =>
      let e := { e with stage := if e.gate.isSome then .gated s.clock else .running, since := s.clock }
      let s := s.onSt fun u => { u with queue := u.queue.filter (·.seq != e.seq), flight := u.flight ++ [e] }
      match e.bad with
      | some f => completeEntry s e (some f) 0
      | none => if e.opc == 0xDF then completeEntry s e none (wholeCount e) else postRecords s e

/-! ## Gates (R385) -/

/-- The object of a held gate is read, and the gate passes, fails or holds. -/
def tryGate (s : State) (e : QEntry) (a : Word) (v : Bool) : State :=
  let who := engAccess s e
  if asksAway s e (some a) objRead then putFlight s { e with sent := some s.clock }
  else
  let e := { e with sent := none }
  let s := putFlight s e
  match objLoad s who (engEntry s objRead a 16 []) with
  | .error x =>
    (match engStopOf who a x with
    | .fail c a' s' => completeEntry s' e (some { cause := c, addr := a' }) 0
    | .wait p s' => putFlight s' { e with page := p })
  | .ok ((_, _, w1), s') =>
    let fail (c : Cause) : State := completeEntry s' e (some { cause := c }) 0
    if objErr w1 then fail .engineFault
    else if objPhase w1 != v then
      let e := { e with stage := .running, since := s.clock }
      postRecords (putFlight s' e) e
    else if !objArmed w1 && objInflight w1 == 0 then fail .barrierUnarmed
    else s'

/-- GATE_PASS. -/
def gatePass (s : State) (seq : Nat) : State :=
  match s.core.st.flight.find? (·.seq == seq) with
  | none => s
  | some e =>
    match e.stage, e.gate with
    | .gated _, some (a, v) => if e.awaitsPage then s else afterEngine (tryGate s e a v)
    | _, _ => s

/-- GATE_WATCHDOG_EXPIRY: held for longer than the watchdog. -/
def gateExpiry (s : State) (seq : Nat) : State :=
  match s.core.st.flight.find? (·.seq == seq) with
  | none => s
  | some e =>
    match e.stage with
    | .gated t =>
      if s.clock - t > 2 ^ s.core.cp.wdlog then completeEntry s { e with sent := none } (some { cause := .waitWatchdog }) 0
      else s
    | _ => s

/-! ## Events -/

/-- SCOREBOARD_ISSUE (R349). -/
def execScoreboardIssue (core : Nat) (s : State) : Out := .next (s.atCore core scoreboardIssue)
/-- ENGINE_COMPLETE (R353). -/
def execEngineComplete (core seq : Nat) (s : State) : Out := .next (s.atCore core fun s => completeEngine s seq)
/-- GATE_PASS (R385). -/
def execGatePass (core seq : Nat) (s : State) : Out := .next (s.atCore core fun s => gatePass s seq)
/-- GATE_WATCHDOG_EXPIRY (R385). -/
def execGateWatchdogExpiry (core seq : Nat) (s : State) : Out := .next (s.atCore core fun s => gateExpiry s seq)
/-- TILE_REQUEST (R279). -/
def execTileRequest (core seq : Nat) (s : State) : Out := .next (s.atCore core fun s => serveTiles s seq)

end Sys2Proof.Machine
end

