-- ==== Sys2Proof/Machine/Stream.lean ====
section
/-! DEFINITION. The stream and copy instructions 0xD0-0xD8, 0xDB-0xDF: checks at enqueue, enqueueing, token waits, barrier
objects and descriptor moves (R372-R390). -/

namespace Sys2Proof.Machine

/-! ## Operands and checks at enqueue (R373, R375) -/

abbrev SCheck := Except Trap

def sneed (ok : Bool) (t : Trap) : SCheck Unit := if ok then .ok () else .error t
def scause (ok : Bool) (c : Cause) : SCheck Unit := sneed ok { cause := c }

def readGs (s : State) (r : BitVec 5) : Word := s.core.cp.readG r

/-- Check 2: the token named is not faulted. -/
def tokenCheck (s : State) (w : SForm) : SCheck Unit :=
  sneed (!(w.te == 1 && tokState (tokOf s.core.st w.tk) == 3)) (tokFault s.core.st w.tk)

def descTrap (c : Cause) (i : Nat) : Trap := { cause := c, detail := BitVec.ofNat 32 i }

/-- Check 3 on the descriptors named, in order. -/
def descCheck (s : State) (l : List (BitVec 4)) : SCheck Unit :=
  l.forM fun i => match descCause s (descOf s i) with
    | some c => .error (descTrap c i.toNat)
    | none => .ok ()

/-- Check 4 on a record index. -/
def recCheck (s : State) (i : BitVec 4) (n : Nat) : SCheck Unit :=
  sneed (n < recCount (descOf s i)) (descTrap .streamDescriptor i.toNat)

/-- Check 5 on an address operand: global or gallery, 64-aligned. -/
def copyAddr (a : Word) (n : Nat) (write : Bool) : SCheck Unit :=
  match frontTrap a n 64 (· != 2) write with
  | some t => .error t
  | none => .ok ()

/-- Check 6 on one register: `low` are the bits that must be zero. -/
def objReg (v low : Word) : SCheck Unit :=
  match apertureOf v with
  | none => .error (gtrap .aperture v.toNat)
  | some _ =>
    if v &&& low != 0 then .error (gtrap .misaligned v.toNat)
    else
      match apertureTrap (v &&& ~~~0xF) 16 false with
      | some t => .error t
      | none => .ok ()

/-- Check 6 (R373). -/
def objRegs (s : State) (w : SForm) : SCheck Unit := do
  if w.gx != 0 then objReg (readGs s w.gx) 0xF
  if w.gg != 0 then objReg (readGs s w.gg) 0xE

/-! ## The transform word (R362-R364) -/

def xfReserved (xf : Word) : Bool :=
  let k := fld xf 0 4
  let fmt := fld xf 4 7
  k > 7 || xf &&& 0x0000F0008000C000 != 0 || fld xf 11 3 > 4 || (fmt != 0 && !(1 ≤ k && k ≤ 3)) ||
    (fld xf 11 3 != 0 && k != 1) || (fld xf 16 15 != 0 && !(k == 2 || k == 3)) || (fld xf 32 12 != 0 && k < 6) ||
    (fld xf 48 16 != 0 && !(k == 1 && fmtKF fmt))

def interFmt (code : Nat) : Bool := (1 ≤ code && code ≤ 6) || (0x20 ≤ code && code ≤ 0x22) || code == 0x28 || code == 0x29

/-- Check 7: the word, the KINDs that the entry permits, and the source format of KIND 1 (0 for none). An unlisted FMT of
KIND 1 raises FORMAT_MISMATCH as R363 says, and a listed one whose feature is not accepted TILE_HEADER as R153 says: the
manual does not say which of the two rules holds for an unlisted code (DESIGN CHOICE; log 21). -/
def xfCheck (s : State) (xf : Word) (kinds : List Nat) (load : Bool) (src : Nat) : SCheck Unit := do
  let k := fld xf 0 4
  let fmt := fld xf 4 7
  scause (!xfReserved xf) .badMode
  scause (kinds.contains k) (if load && k == 1 then .formatMismatch else .badMode)
  scause (!(k == 6 || k == 7) || accepted s 9) .badMode
  if k == 1 then
    scause (src != 0 && fmt != 0 && fmtListed fmt && complexCode fmt == complexCode src) .formatMismatch
    scause (!fmtReserved s fmt) .tileHeader
  if k == 2 || k == 3 then
    scause (interFmt fmt) .formatMismatch
    scause (fld xf 28 3 ≤ 4 && fld xf 16 12 != 0) .interleaveParam

def xfOf (s : State) (w : SForm) : Word := readGs s w.gc
/-- GC = 31 leaves no register for the nonce of KIND 6 and 7 (R372). -/
def nonceCheck (s : State) (w : SForm) : SCheck Unit :=
  let k := fld (xfOf s w) 0 4
  scause (!((k == 6 || k == 7) && w.gc == 31)) .badMode

/-! ## Enqueueing (R345, R346, R357) -/

/-- The entry of a word with everything it captures. -/
def entryFor (s : State) (opc : BitVec 8) (w : SForm) (decls : List Extent) : QEntry where
  seq := s.core.st.seq
  word := SForm.toWord opc w
  opc
  fn := w.fn
  a := readGs s w.ga
  b := readGs s w.gb
  c := readGs s w.gc
  d := readGs s w.gd
  xf := if opc.toNat ≤ 0xD4 then xfOf s w else 0
  nonce := if w.gc == 31 then 0 else readGs s (w.gc + 1)
  sd := descOf s w.sd
  se := descOf s w.se
  decls
  ser := w.ser == 1
  tok := if w.te == 1 then some w.tk else none
  bar := if w.gx == 0 then none else some (readGs s w.gx)
  gate := if w.gg == 0 then none else some (readGs s w.gg &&& ~~~0xF, bit (readGs s w.gg) 0)
  sup := s.core.cp.mode
  asid := s.core.cp.asid
  stage := .queued
  delivered := 0
  next := 0
  late := []
  faultAt := none
  fault := none
  bad := none
  page := none
  cancelled := false
  since := 0
  flags := 0
  dir := []
  sent := none

def QEntry.arm (e : QEntry) (u : StreamUnit) : StreamUnit :=
  match e.tok with
  | none => u
  | some t => { u with tok := u.tok.set t.toFin (tokArm (tokOf u t)) }

/-- The entry joins the queue and its token is armed. -/
def pushEntry (s : State) (e : QEntry) : State :=
  s.onSt fun u => e.arm { u with queue := u.queue ++ [e], seq := u.seq + 1 }

/-- The host-managed page that an enqueue waits on for its object (R263). -/
def State.withObjPage (s : State) (p : Option PageWait) : State := s.onSt fun u => { u with objPage := p }

/-- The object of an enqueue takes its INFLIGHT. An object that cannot be reached, or that does not respond in time, makes
the instruction an engine fault (R356, R357, R443; log 24). -/
def admitObject (s : State) (e : QEntry) (a : Word) : Body :=
  let u := s.core.st
  let who := { engAccess s e with refused := PageWait.refusal e.asid u.objPage }
  if u.objPage.any fun p => !p.refused && p.asid == e.asid && p.page == fld a 0 56 / 4096 then .error (.wait s)
  else
    let lost (s : State) (c : Cause) (a : Word) : State :=
      pushEntry (s.withObjPage none) { e with bar := none, bad := some { cause := c, addr := a } }
    if s.core.cp.remote.any fun r => r.status != .inFlight then
      .ok (lost (s.onCp fun c => { c with remote := none }) .remoteTimeout a)
    else
      cpObject s (objRequest s a 3 0) false fun s =>
        match serveObject s who (objRequest s a 3 0) with
        | .ok ((_, true), s') => .ok (pushEntry (s'.withObjPage none) e)
        | .ok ((_, false), s') => .error (.wait (s'.withObjPage none))
        | .error x =>
          match engStopOf who a x with
          | .fail c a' s' => .ok (lost s' c a')
          | .wait p s' => .error (.wait (s'.withObjPage p))

/-- Enqueues, or waits for a place or for the object (R346, R357). -/
def admitEntry (s : State) (e : QEntry) : Body :=
  if s.core.st.queue.length ≥ 32 then .error (.wait s)
  else
    match e.bar with
    | none => .ok (pushEntry s e)
    | some a => if e.opc == 0xDF then .ok (pushEntry s e) else admitObject s e a

/-- An enqueued word: its checks answer the declaration. -/
def enqueue (opc : BitVec 8) (check : State → SForm → SCheck (List Extent)) (w : SForm) (s : State) : Out :=
  runPlain s opc w.guard fun s =>
    match check s w with
    | .error t => .error (.trap t s)
    | .ok decls => admitEntry s (entryFor s opc w decls)

/-! ## `sload`, `sstore` (R377, R378) -/

/-- The extent of a descriptor operand in buffer or record form. -/
def operandExtent (s : State) (i : BitVec 4) (rec : Bool) (n : Word) (write : Bool) : SCheck Extent := do
  if rec then recCheck s i n.toNat
  pure (if rec then recExtent (descOf s i) n.toNat write else bufExtent (descOf s i) write)

/-- Lengths of KIND 2 and 3: the fixing operand is the destination in an SRF, or the source (R364, R378). -/
def interLen (xf : Word) (len : Nat) (dst : Bool) : SCheck Unit :=
  let k := fld xf 0 4
  if k == 2 || k == 3 then
    let x := interOf xf
    scause (len % (if dst then x.writeUnit (k == 2) else x.readUnit (k == 2)) == 0) .interleaveParam
  else .ok ()

/-- A transform whose source and destination overlap traps (R416). -/
def overlapCheck (xf : Word) (a b : Extent) : SCheck Unit := scause (!(fld xf 0 4 != 0 && overlaps a b)) .streamOverlap

/-- Room that a ZB stream of `n` source bytes may need (R378). -/
def zbRoom (n : Nat) (enc : Bool) : Nat := zbFront n + n + (if enc then 16 * zbChunks n else 0)

/-- Bytes of the memory side of `sload` or `sstore`, whose other side is an SRF extent (R378). -/
def otherLen (s : State) (w : SForm) (x : Extent) (load : Bool) : Nat :=
  let n := extentLen x
  let xf := xfOf s w
  match fld xf 0 4 with
  | 1 =>
    let k := if w.fn == 1 then 1 else recCount (descOf s w.se)
    let f := footprint (fld xf 4 7)
    if k == 0 then 0 else (k - 1) * ((f + 63) / 64 * 64) + f
  | 2 => if load then n / (interOf xf).writeUnit true * (interOf xf).readUnit true
    else n / (interOf xf).readUnit true * (interOf xf).writeUnit true
  | 3 => if load then n / (interOf xf).writeUnit false * (interOf xf).readUnit false
    else n / (interOf xf).readUnit false * (interOf xf).writeUnit false
  | 4 => zbRoom n false
  | 5 => zbRoom n false
  | 6 => zbRoom n true
  | 7 => zbRoom n true
  | _ => n

/-- A transform of `sload` or `sstore` between the own SRF and a gallery address that names it overlaps itself like one of
`scopy` (R267, R416); the room of a ZB stream counts as its length (log 24). -/
def galleryOverlap (s : State) (w : SForm) (x : Extent) (load : Bool) : SCheck Unit :=
  match ownOffset s (readGs s w.ga) with
  | some o => overlapCheck (xfOf s w) x ⟨o, o + otherLen s w x load, !load⟩
  | none => .ok ()

def sloadCheck (s : State) (w : SForm) : SCheck (List Extent) := do
  scause (fld (readGs s w.gb) 12 52 == 0) .badMode
  nonceCheck s w
  tokenCheck s w
  descCheck s [w.sd]
  let x ← operandExtent s w.sd (w.fn == 1) (readGs s w.gd) true
  copyAddr (readGs s w.ga) (extentLen x) false
  objRegs s w
  xfCheck s (xfOf s w) [0, 2, 3, 5, 7] true 0
  interLen (xfOf s w) (extentLen x) true
  galleryOverlap s w x true
  pure [x]

/-- `sload`. -/
def execSload (w : SForm) (s : State) : Out := enqueue 0xD0 sloadCheck w s

def sstoreCheck (s : State) (w : SForm) : SCheck (List Extent) := do
  scause (fld (readGs s w.gb) 12 52 == 0) .badMode
  nonceCheck s w
  tokenCheck s w
  descCheck s [w.se]
  let x ← operandExtent s w.se (w.fn == 1) (readGs s w.gd) false
  copyAddr (readGs s w.ga) (extentLen x) true
  objRegs s w
  xfCheck s (xfOf s w) [0, 1, 2, 3, 4, 6] false (descOf s w.se).fmt
  interLen (xfOf s w) (extentLen x) false
  galleryOverlap s w x false
  pure [x]

/-- `sstore`. -/
def execSstore (w : SForm) (s : State) : Out := enqueue 0xD1 sstoreCheck w s

/-! ## `stile` (R380) -/

/-- The source of a tile read is the request, whose records name their formats themselves; the destination's STRIDE must
hold the new format (R363). -/
def stileCheck (write : Bool) (s : State) (w : SForm) : SCheck (List Extent) := do
  let i := if write then w.se else w.sd
  let d := descOf s i
  let r0 := readGs s w.ga
  let n := (readGs s w.gd).toNat
  nonceCheck s w
  tokenCheck s w
  descCheck s [i]
  recCheck s i (n + reqCount r0 - 1)
  objRegs s w
  scause (!xfReserved (xfOf s w)) .badMode
  scause (d.fmt != 0) .formatMismatch
  let fmt := fld (xfOf s w) 4 7
  xfCheck s (xfOf s w) [0, 1] false (if write then d.fmt else fmt)
  sneed (write || fld (xfOf s w) 0 4 != 1 || d.stride ≥ footprint fmt) (descTrap .streamDescriptor i.toNat)
  match reqCause r0 write with
  | some c => .error { cause := c, detail := if c == .handleInvalid then BitVec.ofNat 32 (reqHandle r0) else 0 }
  | none => pure [runExtent d n (reqCount r0) (!write)]

/-- `stile.rd`. -/
def execStileRd (w : SForm) (s : State) : Out := enqueue 0xD2 (stileCheck false) w s
/-- `stile.wr`. -/
def execStileWr (w : SForm) (s : State) : Out := enqueue 0xD2 (stileCheck true) w s

/-! ## `scopy`, `sfill` (R377, R378, R416) -/

/-- The descriptor forms of `scopy`. -/
def scopyCheck (rec : Bool) (s : State) (w : SForm) : SCheck (List Extent) := do
  let xf := xfOf s w
  let k := fld xf 0 4
  let d := descOf s w.sd
  let e := descOf s w.se
  let bad : Trap := descTrap .streamDescriptor w.sd.toNat
  nonceCheck s w
  tokenCheck s w
  descCheck s [w.sd, w.se]
  let x ← operandExtent s w.sd rec (readGs s w.gd) true
  let y ← operandExtent s w.se rec (readGs s w.gb) false
  sneed (k != 0 || extentLen x == extentLen y) bad
  objRegs s w
  xfCheck s xf [0, 1, 2, 3, 5, 7] false e.fmt
  sneed (k != 1 || (d.stride ≥ footprint (fld xf 4 7) && (rec || recCount d ≥ recCount e))) bad
  interLen xf (extentLen x) true
  if k == 2 || k == 3 then
    let i := interOf xf
    scause (extentLen x / i.writeUnit (k == 2) * i.readUnit (k == 2) ≤ extentLen y) .interleaveParam
  overlapCheck xf x y
  pure [x, y]

/-- `scopy`. -/
def execScopy (w : SForm) (s : State) : Out := enqueue 0xD3 (scopyCheck false) w s
/-- `scopy.r`. -/
def execScopyR (w : SForm) (s : State) : Out := enqueue 0xD3 (scopyCheck true) w s

/-- Check 4 on the length of a memory form. -/
def memLen (n : Word) : SCheck Unit := scause (n != 0 && n.toNat % 64 == 0 && n.toNat < 2 ^ 40) .streamDescriptor

/-- Bytes read and written by the memory form of `scopy`. -/
def memSpans (xf : Word) (n : Nat) : Nat × Nat :=
  match fld xf 0 4 with
  | 2 => (n, n / (interOf xf).readUnit true * (interOf xf).writeUnit true)
  | 3 => (n, n / (interOf xf).readUnit false * (interOf xf).writeUnit false)
  | 4 => (n, zbRoom n false)
  | 6 => (n, zbRoom n true)
  | 5 => (zbRoom n false, n)
  | 7 => (zbRoom n true, n)
  | _ => (n, n)

def scopyMCheck (s : State) (w : SForm) : SCheck (List Extent) := do
  let xf := xfOf s w
  let n := readGs s w.gd
  nonceCheck s w
  tokenCheck s w
  memLen n
  copyAddr (readGs s w.ga) n.toNat true
  copyAddr (readGs s w.gb) n.toNat false
  objRegs s w
  xfCheck s xf [0, 1, 2, 3, 4, 5, 6, 7] false 0
  interLen xf n.toNat false
  let (r, v) := memSpans xf n.toNat
  overlapCheck xf ⟨(readGs s w.ga).toNat, (readGs s w.ga).toNat + v, true⟩ ⟨(readGs s w.gb).toNat, (readGs s w.gb).toNat + r, false⟩
  pure []

/-- `scopy.m`. -/
def execScopyM (w : SForm) (s : State) : Out := enqueue 0xD3 scopyMCheck w s

def sfillCheck (rec : Bool) (s : State) (w : SForm) : SCheck (List Extent) := do
  tokenCheck s w
  descCheck s [w.sd]
  let x ← operandExtent s w.sd rec (readGs s w.gd) true
  objRegs s w
  pure [x]

/-- `sfill`. -/
def execSfill (w : SForm) (s : State) : Out := enqueue 0xD4 (sfillCheck false) w s
/-- `sfill.r`. -/
def execSfillR (w : SForm) (s : State) : Out := enqueue 0xD4 (sfillCheck true) w s

def sfillMCheck (s : State) (w : SForm) : SCheck (List Extent) := do
  let n := readGs s w.gd
  nonceCheck s w
  tokenCheck s w
  memLen n
  copyAddr (readGs s w.ga) n.toNat true
  objRegs s w
  xfCheck s (xfOf s w) [0] false 0
  pure []

/-- `sfill.m`. -/
def execSfillM (w : SForm) (s : State) : Out := enqueue 0xD4 sfillMCheck w s

/-! ## `sgather`, `sscadd` (R381, R382) -/

/-- Check 4 of the indexed transfers: `d` holds the records, `x` the indexes, `size` divides RECORD. -/
def indexedCheck (s : State) (d x : BitVec 4) (n stride : Word) (size : Nat) : SCheck Unit := do
  let bad (i : BitVec 4) : Trap := descTrap .streamDescriptor i.toNat
  sneed (n != 0 && n.toNat ≤ recCount (descOf s d) && (descOf s d).recSize % size == 0 && stride != 0) (bad d)
  sneed ((descOf s x).fmt == 0 && (descOf s x).len ≥ 8 * n.toNat) (bad x)

/-- Check 5 on a base address. -/
def baseAddr (a : Word) : SCheck Unit :=
  match frontTrap a 1 1 (fun _ => true) false with
  | some t => .error t
  | none => .ok ()

def sgatherCheck (s : State) (w : SForm) : SCheck (List Extent) := do
  let n := readGs s w.gd
  tokenCheck s w
  descCheck s [w.sd, w.se]
  indexedCheck s w.sd w.se n (readGs s w.gb) 8
  baseAddr (readGs s w.ga)
  objRegs s w
  pure [runExtent (descOf s w.sd) 0 n.toNat true, bufExtent (descOf s w.se) false]

/-- `sgather`. -/
def execSgather (w : SForm) (s : State) : Out := enqueue 0xD5 sgatherCheck w s

/-- gA itself lies in device register space. -/
def inDeviceSpace (s : State) (a : Word) : Bool :=
  match translate s (cpAccess s) (fld a 0 56) 1 with
  | .ok (p, _) => p.pa / 2 ^ 40 % 2 == 1
  | .error _ => false

def sscaddCheck (s : State) (w : SForm) : SCheck (List Extent) := do
  let n := readGs s w.gd
  let a := readGs s w.ga
  tokenCheck s w
  descCheck s [w.sd, w.se]
  indexedCheck s w.sd w.se n (readGs s w.gb) (addSize w.fn)
  baseAddr a
  objRegs s w
  scause (w.fn.toNat % 8 < 6) .scatterType
  sneed (fld a 56 8 == 0 && !inDeviceSpace s a) (gtrap .atomicSpace a.toNat)
  pure [runExtent (descOf s w.sd) 0 n.toNat false, bufExtent (descOf s w.se) false]

/-- `sscadd`. -/
def execSscadd (w : SForm) (s : State) : Out := enqueue 0xD6 sscaddCheck w s

/-! ## `srecv`, `krun`, `snop` (R383, R384, R388) -/

/-- The ring that gA names is bound to this core (R383, R454). -/
def ringIsOwn (s : State) (a : Word) : Bool :=
  let e := ((s.ports.get (portIdx (fld a 0 3))).ring (fld a 3 13)).entry
  bit e 0 && fld e 1 3 == coreDie s.focus && fld e 4 7 == coreNum s.focus

def srecvCheck (s : State) (w : SForm) : SCheck (List Extent) := do
  let n := (readGs s w.gd).toNat
  let d := descOf s w.sd
  tokenCheck s w
  descCheck s [w.sd]
  scause (1 ≤ n && n ≤ recCount d) .portRing
  objRegs s w
  scause (accepted s 2 && w.fn == 0 && w.gc == 0 && fld (readGs s w.ga) 16 48 == 0 && d.wrap &&
    ringIsOwn s (readGs s w.ga)) .portRing
  pure [bufExtent d true]

/-- `srecv`. FN and GC fail with the entry's own cause (R383; log 19), the count as check 4 of R375 and the rest as its
check 8. -/
def execSrecv (w : SForm) (s : State) : Out := enqueue 0xD7 srecvCheck w s

/-- The declarations of a `krun`: descriptor number and whether it is written. -/
def krunDecls (s : State) (w : SForm) : List (BitVec 4 × Bool) :=
  let g := readGs s w.gd
  let opt (c : Bool) (i : BitVec 4) (wr : Bool) : List (BitVec 4 × Bool) := if c then [(i, wr)] else []
  opt (w.fn.getLsbD 0) w.sd (w.fn.getLsbD 1) ++ opt (w.fn.getLsbD 2) w.se (w.fn.getLsbD 3) ++
    opt (bit g 4) (g.extractLsb' 0 4) (bit g 5) ++ opt (bit g 12) (g.extractLsb' 8 4) (bit g 13)

def krunCheck (s : State) (w : SForm) : SCheck (List Extent) := do
  scause (readGs s w.gd &&& ~~~0x3F3F == 0 && fld (readGs s w.gc) 32 32 == 0) .badMode
  tokenCheck s w
  descCheck s ((krunDecls s w).map (·.1))
  scause ((readGs s w.ga).toNat < 1024 && (readGs s w.gb).toNat ≤ 1024) .kernelEntry
  objRegs s w
  pure ((krunDecls s w).map fun x => bufExtent (descOf s x.1) x.2)

/-- `krun`. -/
def execKrun (w : SForm) (s : State) : Out := enqueue 0xD8 krunCheck w s

def snopCheck (s : State) (w : SForm) : SCheck (List Extent) := do
  scause (fld (readGs s w.gb) 32 32 == 0) .badMode
  tokenCheck s w
  objRegs s w
  pure []

/-- `snop`. -/
def execSnop (w : SForm) (s : State) : Out := enqueue 0xDF snopCheck w s

/-! ## Waits (R355, R386, R492) -/

/-- A fault of a token is reported: the token becomes idle, and its producers are reported. -/
def reportTok (u : StreamUnit) (t : BitVec 3) : StreamUnit :=
  { u with
    tok := u.tok.set t.toFin 0
    tokRec := u.tokRec.set t.toFin 0
    unreported := u.unreported.filter fun x => x.tok != some t }

/-- `swait` or `kwait` on a token: `done` is what follows when it is done. -/
def waitToken (t : BitVec 3) (done : State → State) (s : State) : Body :=
  let w := tokOf s.core.st t
  match tokState w with
  | 0 => .error (.trap { cause := .tokenUnarmed, detail := t.setWidth 32 } s)
  | 1 => .error (.wait s)
  | 2 => .ok (done s)
  | _ =>
    if tokCount w == 0 then .error (.trap (tokFault s.core.st t) (s.onSt fun u => reportTok u t)) else .error (.wait s)

/-- Reports unreported instructions: the oldest names the cause (R492). -/
def reportAll (p : Unreported → Bool) (overflow : Bool) (s : State) : Body :=
  let u := s.core.st
  let found := u.unreported.filter p
  let lost := if overflow then u.overflow else none
  let oldest := found.foldl (fun (m : Option Unreported) x => match m with
    | none => some x
    | some y => if x.seq < y.seq then some x else some y) none
  let s' := s.onSt fun u =>
    { u with unreported := u.unreported.filter fun x => !p x, overflow := if overflow then none else u.overflow }
  let trap (c : Cause) (r : BitVec 16) : Body :=
    .error (.trap { cause := .engineFault, detail := BitVec.ofNat 32 (c.code.toNat + r.toNat * 2 ^ 16) } s')
  match oldest, lost with
  | some x, _ => trap x.cause x.record
  | none, some c => trap c 0xFFFF
  | none, none => .ok s

/-- `kwait`: on a token, or for every earlier `krun`. -/
def execKwait (w : SForm) (s : State) : Out :=
  runPlain s 0xD9 w.guard fun s =>
    if w.te == 1 then waitToken w.tk id s
    else if (s.core.st.queue ++ s.core.st.flight).any fun e => e.opc == 0xD8 then .error (.wait s)
    else reportAll (·.krun) false s

/-- `swait`. -/
def execSwait (w : SForm) (s : State) : Out :=
  runPlain s 0xDB w.guard fun s =>
    waitToken w.tk (fun s => s.onCp fun c => c.writeG w.gd (tokOf s.core.st w.tk)) s

/-- `swait.test`. -/
def execSwaitTest (w : SForm) (s : State) : Out :=
  runPlain s 0xDB w.guard fun s => .ok (s.onCp fun c => c.writeG w.gd (tokOf s.core.st w.tk))

/-- `swait.all`. -/
def execSwaitAll (w : SForm) (s : State) : Out :=
  runPlain s 0xDB w.guard fun s =>
    if s.core.st.queue.isEmpty && s.core.st.flight.isEmpty then reportAll (fun _ => true) true s else .error (.wait s)

/-! ## Barrier objects from the CP (R389) -/

/-- The checks of a `barv` word, then its work at the object. -/
def barvWord (w : SForm) (ok : Word → Bool) (opc : BitVec 8) (f : State → Word → Word → Body) : State → Out := fun s =>
  runPlain s 0xDC w.guard fun s =>
    let a := readGs s w.ga
    let v := readGs s w.gb
    if !ok v then .error (.trap { cause := .badMode } s)
    else
      match frontTrap a 16 16 (fun _ => true) (opc == objUpdate) with
      | some t => .error (.trap t s)
      | none => f s a v

/-- A request of the CP to an object. -/
def barvUpdate (op : BitVec 4) (s : State) (a v : Word) : Body :=
  cpObject s (objRequest s a op v) false fun s =>
    match serveObject s (cpAccess s) (objRequest s a op v) with
    | .error x => .error x
    | .ok (_, s') => .ok s'

/-- `barv.arm`. -/
def execBarvArm (w : SForm) (s : State) : Out :=
  barvWord w (fun v => v != 0 && v.toNat < 2 ^ 32) objUpdate
    (barvUpdate 1) s

/-- `barv.arrive`. -/
def execBarvArrive (w : SForm) (s : State) : Out :=
  barvWord w (fun v => v.toNat < 2 ^ 32) objUpdate
    (barvUpdate 2) s

/-- The fault that a wait on an object reports: that of the first fault counted in it, or, for an object that holds ERR
for another reason, a cause that the manual does not name (R414; log 13). -/
def objFault (s : State) (l : Loc) (a : Word) : Trap :=
  let d := match objErrOf s l with
    | some x => x.cause.code.toNat + x.record.toNat * 2 ^ 16
    | none => (Config.freeByte s.fresh).toNat % 2 ^ 7 + 0xFFFF * 2 ^ 16
  { cause := .engineFault, addr := a, detail := BitVec.ofNat 32 d }

/-- `barv.wait` (R358). -/
def execBarvWait (w : SForm) (s : State) : Out :=
  barvWord w (fun v => v.toNat < 2) objRead
    (fun s a v => cpObject s (engEntry s objRead a 16 []) true fun s =>
      match asWait a (objLoad s (cpAccess s) (engEntry s objRead a 16 [])) with
      | .error x => .error x
      | .ok ((l, _, w1), s') =>
        let going := s'.core.cp.wait.any (·.begun)
        if going && objPhase w1 != bit v 0 then .ok s'
        else if objErr w1 then .error (.trap (objFault s' l a) { s' with fresh := s'.fresh + 1 })
        else if objPhase w1 != bit v 0 then .ok s'
        else if !objArmed w1 && objInflight w1 == 0 && !going then .error (.trap (gtrap .barrierUnarmed a.toNat) s')
        else .error (.wait s')) s

/-! ## Descriptor moves (R390) -/

/-- `sdget.w0`. -/
def execSdgetW0 (w : SForm) (s : State) : Out :=
  runPlain s 0xDD w.guard fun s => .ok (s.onCp fun c => c.writeG w.gd (descOf s w.se).w0)
/-- `sdget.w1`. -/
def execSdgetW1 (w : SForm) (s : State) : Out :=
  runPlain s 0xDD w.guard fun s => .ok (s.onCp fun c => c.writeG w.gd (descOf s w.se).w1)

/-- `sdput.w0`. -/
def execSdputW0 (w : SForm) (s : State) : Out :=
  runPlain s 0xDD w.guard fun s =>
    .ok (s.onSt fun u => { u with sd := u.sd.set w.sd.toFin ⟨readGs s w.ga, (descOf s w.sd).w1⟩ })
/-- `sdput.w1`. -/
def execSdputW1 (w : SForm) (s : State) : Out :=
  runPlain s 0xDD w.guard fun s =>
    .ok (s.onSt fun u => { u with sd := u.sd.set w.sd.toFin ⟨(descOf s w.sd).w0, readGs s w.ga⟩ })

/-- `sdrec`. -/
def execSdrec (w : SForm) (s : State) : Out :=
  runPlain s 0xDE w.guard fun s =>
    let d := descOf s w.se
    match descCause s d with
    | some c => .error (.trap (descTrap c w.se.toNat) s)
    | none =>
      match recOff d (readGs s w.gb).toNat with
      | none => .error (.trap (descTrap .streamDescriptor w.se.toNat) s)
      | some o => .ok (s.onCp fun c => c.writeG w.gd (ownAddr o))

end Sys2Proof.Machine
end

