-- ==== Sys2Proof/Machine/Context.lean ====
section
/-! DEFINITION. Pre-emption and contexts: the launch unit's requests, the grace period, saving a core, the restore grant
and restoring it (R425-R433, R426, R492). -/

namespace Sys2Proof.Machine

/-! ## Requests of the launch unit (R425) -/

/-- Groups of a launch on a die that hold their cores and have not been asked to stop. -/
def standing (s : State) (l : Launch) (d : Nat) : List Group :=
  l.groups.filter fun g => g.die == d && !g.preempted &&
    (groupCores d g.base l.g).any fun n => liveInGroup s l.id g.base n && !(s.getCore n).ctx.pend

/-- A core that is free, or that a request already made will free. -/
def willBeFree (s : State) (n : Nat) : Bool := coreFree s n || ((s.getCore n).prog.isSome && (s.getCore n).ctx.pend)

/-- The cores that are or will be free do not hold the next group of the launch, whatever channels it claims (R140, R425). -/
def lacksPlace (s : State) (l : Launch) (d : Nat) : Bool :=
  !(List.range 96).any fun b => coresFit l d b (willBeFree s)

/-- The victim launch on a die: the lowest priority among those with standing groups, never priority 0. -/
def victimLaunch (s : State) (d above : Nat) : Option Launch :=
  (s.launches.filter fun l => above < l.prio && !(standing s l d).isEmpty).foldl (fun m x => match m with
    | none => some x
    | some y => if y.prio < x.prio then some x else some y) none

/-- The most recently granted of a list of groups. -/
def newest (l : List Group) : Option Group :=
  l.foldl (fun m x => match m with
    | none => some x
    | some y => if y.stamp < x.stamp then some x else some y) none

/-- PREEMPT_REQUEST (R425): the group named is asked to stop when it is the launch unit's next victim. -/
def preemptFor (s : State) (id d base : Nat) : State :=
  match eligibleOn s d with
  | none => s
  | some want =>
    if !lacksPlace s want d then s
    else
      match victimLaunch s d want.prio with
      | none => s
      | some v =>
        match newest (standing s v d) with
        | none => s
        | some g => if v.id == id && g.base == base then preemptGroup s v g else s

/-- PREEMPT_REQUEST (R425). -/
def execPreemptRequest (launchId die base : Nat) (s : State) : Out := .next (preemptFor s launchId die base)

/-- GRACE_EXPIRY (R427, R428): once the grace period is over, a running kernel stops at the next bundle boundary. -/
def graceExpiry (s : State) : State :=
  let c := s.core
  if c.ctx.pend && !c.ctx.expired && usCycles * c.ctx.grace ≤ s.clock - c.ctx.since then
    { s with core := { c with
        ctx := { c.ctx with expired := true }
        kern := if c.kern.stState == 1 then { c.kern with preStop := true } else c.kern } }
  else s

/-- GRACE_EXPIRY (R427). -/
def execGraceExpiry (core : Nat) (s : State) : Out := .next (s.atCore core graceExpiry)

/-! ## The context area (R431, R432) -/

/-- `n` bytes that begin with `b` and go on with zeros. -/
def sect (n : Nat) (b : List Byte) : List Byte := (b ++ List.replicate n 0).take n

/-- Bytes whose meaning the manual states without a layout (log 12). -/
def openBytes (fresh off n : Nat) : List Byte := (List.range n).map fun i => Config.freeByte (fresh + off + i)

def pendingBits : List (Nat × Cause) :=
  [(0, .groupAbort), (1, .debugHalt), (3, .uncorrectedHbm), (4, .hostLinkDown), (6, .thermal), (7, .powerCap)]

def hasPending (c : CP) (x : Cause) : Bool := c.pending.any fun a => a.cause == x && !a.kernel

def pendingWord (c : CP) : Word :=
  BitVec.ofNat 64 ((pendingBits.foldl (fun n p => n + (hasPending c p.2).toNat * 2 ^ p.1) 0) +
    (c.pending.any (·.kernel)).toNat * 4)

def pendingDetail (c : CP) (x : Cause) : Word :=
  match c.pending.find? fun a => a.cause == x && !a.kernel with
  | some a => a.detail.setWidth 64
  | none => 0

def cpSys (c : CP) : List Word :=
  [c.cstat, c.csave, c.ctvec, c.ctpc, c.ccause, c.ctaddr, c.ctinfo, c.cscratch.get 0, c.cscratch.get 1, c.cscratch.get 2,
    c.cscratch.get 3, c.casid, c.cflags]

def cpBytes (c : CP) : List Byte :=
  wordsBytes (c.g.toList ++ [(setBit c.p 0 true).setWidth 64, c.pc] ++ cpSys c ++
    [pendingWord c, pendingDetail c .groupAbort, pendingDetail c .uncorrectedHbm])

def arrivalWord (a : Arrival) : Word :=
  match a.gen with
  | some b => BitVec.ofNat 64 (2 ^ 8 + b.toNat)
  | none => 0

def streamWords (c : Core) : List Word :=
  (c.st.sd.toList.flatMap fun d => [d.w0, d.w1]) ++ c.st.tok.toList ++ [arrivalWord c.arrQuad, arrivalWord c.arrDie]

/-- A queue entry: the word, operands whose order is open, and the valid bit of byte 63. -/
def queueBytes (stamp off : Nat) : Option QEntry → List Byte
  | none => List.replicate 64 0
  | some e => leBytes 8 e.word.toNat ++ openBytes stamp (off + 8) 55 ++ [1]

/-! ### Landing and write-queue entries -/

/-- Code of a status in the area. -/
def EntryStatus.code : EntryStatus → Nat
  | .inFlight => 2
  | .data _ => 1
  | .logged => 2
  | .failed _ => 3

def LandDest.kind : Option LandDest → Nat × Nat
  | none => (0, 0)
  | some (.k r) => (1, r.toNat)
  | some (.kpair r) => (2, r.toNat)
  | some (.v r) => (3, r.toNat)
  | some (.vall r) => (4, r.toNat)

def destOfKind (kind r : Nat) : Option LandDest :=
  match kind with
  | 1 => some (.k (BitVec.ofNat 5 r))
  | 2 => some (.kpair (BitVec.ofNat 5 r))
  | 3 => some (.v (BitVec.ofNat 6 r))
  | 4 => some (.vall (BitVec.ofNat 6 r))
  | _ => none

def entryData (e : LogEntry) : List Byte := match e.status with
  | .data b => b
  | _ => e.bytes

/-- The fields of R410, packed in 48 bytes; kernel time is counted from `now`. -/
def entryFields (now : Nat) (e : LogEntry) : List Byte :=
  let (kind, r) := LandDest.kind e.dest
  let t : Trap := match e.status with
    | .failed t => t
    | _ => { cause := Cause.ofNat 0 }
  wordsBytes
    [BitVec.ofNat 64 (e.opc.toNat + e.aop.toNat * 2 ^ 8 + e.ty.toNat * 2 ^ 12 + e.ord.toNat * 2 ^ 17 + e.scope.toNat * 2 ^ 19 +
        e.slot.toNat * 2 ^ 22 + e.fence.toNat * 2 ^ 25 + e.status.code * 2 ^ 27 + kind * 2 ^ 29 + r * 2 ^ 32 +
        e.size % 2 ^ 10 * 2 ^ 38 + (entryData e).length % 2 ^ 10 * 2 ^ 48),
      e.addr, e.operand, e.expected, BitVec.ofNat 64 ((e.due - now) % 2 ^ 32 + e.seq % 2 ^ 32 * 2 ^ 32),
      BitVec.ofNat 64 (t.cause.code.toNat + t.detail.toNat * 2 ^ 32)]

/-- The manual does not say which byte holds which field (R431; log 12). -/
def mixFields (b : List Byte) : List Byte := (List.finRange 48).map fun i => b.getD (Config.entryOrder i).val 0
def unmixFields (b : List Byte) : List Byte := (List.finRange 48).map fun i => b.getD (Config.entryOrder.symm i).val 0

/-- An entry: its fields, and data of at most 16 bytes. -/
def logBytes (now : Nat) : Option LogEntry → List Byte
  | none => List.replicate 64 0
  | some e => let b := entryData e; mixFields (entryFields now e) ++ sect 16 (if b.length ≤ 16 then b else [])

/-- Data longer than 16 bytes stands in a section of its own. -/
def longData : Option LogEntry → List Byte
  | none => List.replicate 512 0
  | some e => let b := entryData e; sect 512 (if b.length ≤ 16 then [] else b)

/-! ### Pipeline records -/

/-- A pipeline record, 64-byte-aligned: word 0, word 1, the value. -/
def pipeRecord (file idx left : Nat) (mask : Word) (value : List Byte) : List Byte :=
  let b := wordsBytes [BitVec.ofNat 64 (file + idx % 2 ^ 16 * 2 ^ 8 + left % 2 ^ 8 * 2 ^ 24), mask] ++ value
  sect ((b.length + 63) / 64 * 64) b

/-- Codewords of an SRF write with their byte-enable masks. -/
def codewordRecords (left : Nat) (b : List Host.Cell) : List Byte :=
  (distinct (b.map fun c => c.1 / 64)).flatMap fun q =>
    let m := cellPutAll [] (b.filter fun c => c.1 / 64 == q)
    let en := (List.range 64).foldl (fun n i => if b.any fun c => c.1 == 64 * q + i then n + 2 ^ i else n) 0
    pipeRecord 6 q left (BitVec.ofNat 64 en) ((List.range 64).map fun i => cellGet m (64 * q + i))

/-- The records of one pending write, which leaves the core as `after`. Those of lane flags are laid out as
whole words (log 12). -/
def pipeRecords (now : Nat) (after : Core) (w : PendWrite) : List Byte :=
  let left := w.due - now
  let flags : List Byte :=
    (List.finRange 16).flatMap fun l => pipeRecord 5 l.val left 0 (leBytes 8 (after.kern.lflags.get l).toNat)
  match w.what with
  | .k r v => pipeRecord 1 r.toNat left 0 (leBytes 8 v.toNat)
  | .p r v => pipeRecord 2 r.toNat left 0 (leBytes 8 v.toNat)
  | .v r x => pipeRecord 3 r.toNat left 0 (leBytes 512 x.toNat)
  | .m r x => pipeRecord 4 r.toNat left 0 (leBytes 128 x.toNat)
  | .laneFlags _ => flags
  | .laneWords _ => flags
  | .laneWord l x => pipeRecord 5 l.toNat left 0 (leBytes 8 x.toNat)
  | .laneClear => flags
  | .srf _ b => codewordRecords left b
  | .latch _ _ => []
  | .latchClear _ => []
  | .acc _ _ _ => []

/-- The pipeline records, in the order in which the writes take effect, idle cycles before the next issue last. -/
def pipeline (c : Core) : List Byte :=
  let k := c.kern
  let idle := k.nextIssue - k.ktime
  let writes := (rising PendWrite.due (rising PendWrite.seq k.pend)).foldl (fun (acc : Core × List Byte) w =>
    let after := applyWrite acc.1 w.due w.seq w.what
    (after, acc.2 ++ pipeRecords k.ktime after w)) (c, [])
  let idles := (List.range ((idle + 254) / 255)).flatMap fun i => pipeRecord 15 0 (Nat.min 255 (idle - 255 * i)) 0 []
  writes.2 ++ (if k.stState != 0 then idles else [])

def pipelineFits (c : Core) : Bool := (pipeline c).length ≤ 57344

/-- The 48-bit two's complement of an element. -/
def elemBytes (m : Int) : List Byte := leBytes 6 (BitVec.ofInt 48 m).toNat

def accState (a : AccLane) : Word :=
  let (ae, unset) := match a.ae with
    | some x => ((BitVec.ofInt 10 x).toNat, 0)
    | none => (0, 1)
  BitVec.ofNat 64 (ae + unset * 2 ^ 10 + a.domain.toNat * 2 ^ 11 + a.packed.toNat * 2 ^ 12 + a.scaled.toNat * 2 ^ 13)

def latchState (q : LatchLane) : Word :=
  BitVec.ofNat 64 (q.fmt.toNat + q.domain.toNat * 2 ^ 7 + q.packed.toNat * 2 ^ 8 + q.scaled.toNat * 2 ^ 9)

def accLanes (k : Kern) : List AccLane := k.acc.toList.flatMap fun t => t.toList
def latchLanes (k : Kern) : List LatchLane := k.latch.toList.flatMap fun t => t.toList

def kernBytes (k : Kern) : List Byte :=
  wordsBytes (k.k.toList ++ [(setBit k.p 0 true).setWidth 64, k.kpc, k.kstat, k.kdtarget, k.kcause, k.kinfo, k.kflags])

/-- Unreported faults, in order of SEQ. -/
def unreportedWords (u : StreamUnit) : List Word :=
  ((rising Unreported.seq u.unreported).flatMap fun x =>
    [BitVec.ofNat 64 (x.seq % 2 ^ 48 + x.krun.toNat * 2 ^ 48 + 2 ^ 63),
     BitVec.ofNat 64 (x.cause.code.toNat + x.record.toNat * 2 ^ 16)])

def overflowWord (u : StreamUnit) : Word :=
  match u.overflow with
  | some x => BitVec.ofNat 64 (x.code.toNat + 2 ^ 63)
  | none => 0

def queueSection (stamp : Nat) (c : Core) : List Byte :=
  (List.range 32).flatMap fun i => queueBytes stamp (0x600 + 64 * i) c.st.queue[i]?

def logSection (now : Nat) (v : Vector (Option LogEntry) 32) : List Byte := v.toList.flatMap (logBytes now)

/-- The area from byte 64 to byte 0xE0000 (R431). -/
def contextBody (stamp : Nat) (c : Core) : List Byte :=
  let k := c.kern
  sect 0x1C0 (cpBytes c.cp) ++ sect 0x200 (kernBytes k) ++ sect 0x200 (wordsBytes (streamWords c)) ++
    queueSection stamp c ++ sect 0x1200 (logSection k.ktime k.landing) ++ sect 0xE000 (pipeline c) ++
    (k.v.toList.flatMap fun x => leBytes 512 x.toNat) ++ (k.m.toList.flatMap fun x => leBytes 128 x.toNat) ++
    wordsBytes k.lflags.toList ++ wordsBytes ((accLanes k).map accState) ++
    sect 0x7980 (wordsBytes ((latchLanes k).map latchState)) ++
    ((accLanes k).flatMap fun a => sect 6144 (a.m.flatMap elemBytes)) ++
    ((latchLanes k).flatMap fun q => leBytes 2048 q.payload.toNat) ++
    ((latchLanes k).flatMap fun q => q.scales.toList.flatMap fun p =>
      sect 512 (leBytes 256 p.scale.toNat ++ leBytes 2 p.band.toNat)) ++
    ((List.range 8192).flatMap fun i => leBytes 8 (storeWord64 k i).toNat) ++
    (k.landing.toList.flatMap longData) ++ (k.wqueue.toList.flatMap longData) ++
    logSection k.ktime k.wqueue ++ sect 0x400 (wordsBytes (unreportedWords c.st)) ++
    sect 0x7400 (wordsBytes [overflowWord c.st])

/-- CRC-32, reflected (R432). -/
def crc32Byte (c : BitVec 32) (b : Byte) : BitVec 32 :=
  (List.range 8).foldl (fun x _ => if x.getLsbD 0 then (x >>> 1) ^^^ 0xEDB88320 else x >>> 1) (c ^^^ b.setWidth 32)

def crc32 (l : List Byte) : BitVec 32 := ~~~(l.foldl crc32Byte 0xFFFFFFFF)

def areaSize (c : Core) : Nat := 0xE0000 + 4096 * c.ctx.srfLen

/-- Header words 0 and 1 (R432). -/
def headerWords (s : State) (c : Core) : List Word :=
  [BitVec.ofNat 64 (0x0201 + coreNum s.focus * 2 ^ 16 + coreDie s.focus * 2 ^ 23 + s.md.pkg.toNat * 2 ^ 26),
   BitVec.ofNat 64 (areaSize c)]

/-- The whole area of the focused core as `c` holds it. -/
def contextBytes (s : State) (c : Core) : List Byte :=
  let head := sect 56 (wordsBytes (headerWords s c))
  let body := contextBody s.fresh c ++ (List.range (4096 * c.ctx.srfLen)).map fun i => cellGet c.srf i
  head ++ leBytes 8 (crc32 (head ++ body)).toNat ++ body

/-! ## Saving (R430) -/

/-- The store that gave the command is in progress on the CP. -/
def ownStore (c : CP) : Bool :=
  match c.wait with
  | some w => w.hold && (w.opc == 0xB1 || w.opc == 0xB3) && c.remote.isNone
  | none => false

/-- The core has stopped: KSTOP and DRAIN, with nothing to be performed, and no `work` or access to another package in
progress on its CP (R151, R443). -/
def saveReady (c : Core) : Bool :=
  c.cp.run == .running && c.ctx.saving && c.cp.work == .idle && c.cp.remote.isNone &&
    (c.kern.stState != 1 || c.ctx.kstop) && c.drained && c.kern.stop.isNone && drainedEntries c.kern

/-- What is saved: the CP after the store, reads without data marked logged, and no wait for a page, which is asked for
again. KPC of a kernel that was stopped names the bundle that it resumes (R412, R428, R430; log 12). -/
def savedCore (c : Core) : Core :=
  let cp := c.cp
  { c with
    cp := { cp with
      pc := if ownStore cp then cp.pc + 8 else cp.pc
      wait := none
      pending := cp.pending.filter fun a => a.cause != .preemptRequest || a.kernel }
    kern := { c.kern with
      kpc := if c.kern.stState == 1 then BitVec.ofNat 64 c.kern.nextPc else c.kern.kpc
      landing := c.kern.landing.map fun o => o.map fun e =>
        if e.status == .inFlight then { e with status := .logged } else e }
    st := { c.st with objPage := none, queue := c.st.queue.map fun e => { e with page := none } }
    ctx := { c.ctx with pend := false, kstop := false, expired := false, saving := false } }

/-- The area's pages, each translated with supervisor rights and, for a save, lattice type 0 and write permission; a
failure traps at the command's store (R430). -/
def checkPages (s : State) (who : Access) (opc : BitVec 8) (area : Word) (n : Nat) : Except Stop State :=
  (List.range (n / 4096)).foldlM (fun s i =>
    let e := engEntry s opc (area + BitVec.ofNat 64 (4096 * i)) 4096 []
    match frontTrap e.addr e.size 1 (fun _ => true) (writesMem opc) with
    | some t => .error (.trap t s)
    | none => match resolve s who e with
      | .ok (_, s') => .ok s'
      | .error x => .error x) s

/-- A command that fails traps at its store; a command of another party is logged. -/
def commandFails (s : State) (t : Trap) : State :=
  let own := ownStore s.core.cp
  let opc := match s.core.cp.wait with
    | some w => w.opc
    | none => 0
  let s := { s with core := { s.core with ctx := { s.core.ctx with saving := false, restoring := false } } }
  if own then takeSync s t opc s.core.cp.pc else logError s t.cause 0 s.focus

/-- A core that its program has left: it is free. -/
def vacated (c : Core) : Core :=
  { Core.reset with
    cp := { CP.reset with icache := c.cp.icache }
    ctx := { Ctx.reset with area := c.ctx.area, srfLen := c.ctx.srfLen, grace := c.ctx.grace }
    badBanks := c.badBanks
    outOfService := c.outOfService }

def leaveCore (s : State) : State := { s with core := vacated s.core }

/-- Uncorrectable codewords of the SRF reach the area as poison (R371). -/
def poisonArea (s : State) (who : Access) (c : Core) : State :=
  ((List.range (64 * c.ctx.srfLen)).filter fun q => c.srfBad (64 * q) 64).foldl (fun s q =>
    engPoison s who (c.ctx.area + BitVec.ofNat 64 (0xE0000 + 64 * q)) 64) s

/-- A command whose pages are checked fails, waits, or goes on. -/
def afterPages (r : Except Stop State) (k : State → State) : State :=
  match r with
  | .error (.trap t s) => commandFails s t
  | .error (.wait s) => s
  | .error (.waitAt _ s) => s
  | .error (.hold s) => s
  | .error (.final s) => s
  | .ok s => k s

/-- The context is written and the program leaves the core, whose group is pre-empted once all its cores are off. -/
def saveNow (s : State) (p : Prog) : State :=
  let c := savedCore s.core
  let who : Access := { core := s.focus, asid := s.core.cp.asid, sup := true }
  if !pipelineFits c then commandFails s { cause := .machineCheck }
  else
    afterPages (checkPages s who engWrite c.ctx.area (areaSize c)) fun s1 =>
      match engStore s1 who c.ctx.area (contextBytes s1 c) with
      | .error (.fail x a s') => commandFails s' (gtrap x a.toNat 0 true)
      | .error (.wait _ s') => s'
      | .ok (_, s2) =>
        let s2 := poisonArea { s2 with fresh := s2.fresh + 0xE0000 } who c
        let rest := s2.saved.filter fun x => !(x.launch == p.launch && x.core == s.focus)
        let s3 := leaveCore { s2 with saved := ⟨p.launch, s.focus, c, [], s1.fresh⟩ :: rest }
        settleGroup s3 p.launch (coreDie s.focus) p.base p.size

def saveWrite (s : State) : State :=
  match s.core.prog with
  | none => s
  | some p => if saveReady s.core then saveNow s p else s

/-- SAVE (R430): the command is given. -/
def execSave (core : Nat) (s : State) : Out :=
  .next (match writeCtx s core 0x20 1 with
    | .ok s' => if s.md.mstate == 3 then s else s'
    | .error _ => s)
/-- SAVE_WRITE (R430, R431). -/
def execSaveWrite (core : Nat) (s : State) : Out := .next (s.atCore core saveWrite)

/-! ## The restore grant (R426, R433) -/

/-- Each core of a pre-empted group is granted again, without kernel image and descriptors. A launch of strictly higher
priority that lacks cores on the die comes first (R140). -/
def restoreGrant (s : State) (id d base : Nat) : State :=
  match s.launch? id with
  | none => s
  | some l =>
    match l.groups.find? fun g => g.die == d && g.base == base && g.preempted with
    | none => s
    | some g =>
      let cores := (savedIn s id d base l.g).map (·.core)
      if s.md.mstate != 2 || l.hold || !cores.all (coreFree s) || (eligibleOn s d).any (·.prio < l.prio) then s
      else
        let l' := { l with image := [], descs := none }
        let s := cores.foldl (fun s n => s.onCore n (grantCore s l' base g.number (coreNum n - base))) s
        s.onLaunch id fun l => { l with groups := l.groups.map fun x =>
          if x.die == d && x.base == base then { x with preempted := false } else x }

/-- RESTORE_GRANT (R426). -/
def execRestoreGrant (launchId die base : Nat) (s : State) : Out := .next (restoreGrant s launchId die base)

/-! ## Restoring (R433) -/

def areaNat (b : List Byte) (off n : Nat) : Nat := leNat ((b.drop off).take n)
def areaWord (b : List Byte) (off : Nat) : Word := BitVec.ofNat 64 (areaNat b off 8)
def areaWords {n : Nat} (b : List Byte) (off : Nat) : Vector Word n := Vector.ofFn fun i => areaWord b (off + 8 * i.val)

/-- The checks of R433. -/
def areaBad (s : State) (b : List Byte) : Bool :=
  areaNat b 56 4 != (crc32 (b.take 56 ++ b.drop 64)).toNat ||
    !((headerWords s s.core).zipIdx.all fun (w, i) =>
      if i == 0 then fld (areaWord b 0) 0 39 == fld w 0 39 else areaWord b 8 == w)

def areaPending (b : List Byte) (since : Nat) (kcause : Cause) (kdetail : BitVec 32) : List Async :=
  let w := areaWord b 0x1B8
  (if bit w 2 then [{ cause := kcause, detail := kdetail, kernel := true, since }] else []) ++
    pendingBits.filterMap fun p =>
      if bit w p.1 then
        some { cause := p.2
               detail := if p.2 == .groupAbort then BitVec.ofNat 32 (areaNat b 0x1C0 4)
                 else if p.2 == .uncorrectedHbm then BitVec.ofNat 32 (areaNat b 0x1C8 4) else 0
               kernel := false
               since }
      else none

/-- The CP from the area. Causes raised on the saved program, and on the core since its re-grant, are pending on it. -/
def restoredCp (now : CP) (x : Saved) (b : List Byte) (since : Nat) (kinfo kcause : Word) : CP :=
  let cp : CP :=
    { g := areaWords b 0x40
      p := BitVec.ofNat 8 (areaNat b 0x140 1)
      pc := areaWord b 0x148
      cstat := areaWord b 0x150
      csave := areaWord b 0x158
      ctvec := areaWord b 0x160
      ctpc := areaWord b 0x168
      ccause := areaWord b 0x170
      ctaddr := areaWord b 0x178
      ctinfo := areaWord b 0x180
      cscratch := areaWords b 0x188
      casid := areaWord b 0x1A8
      cflags := areaWord b 0x1B0
      run := .running
      pending := areaPending b since (Cause.ofNat (fld kcause 0 7)) (kinfo.extractLsb' 32 32)
      wait := none
      work := .idle
      icache := now.icache
      vecSet := true
      remote := none
      fetched := 0 }
  (x.raised ++ now.pending).foldl (fun c a => c.pend { a with since }) cp.legal

def restoredAcc (b : List Byte) (i : Nat) : AccLane :=
  let w := areaWord b (0x18480 + 8 * i)
  { ae := if bit w 10 then none else some (w.extractLsb' 0 10).toInt
    m := (List.range 1024).map fun e => (BitVec.ofNat 48 (areaNat b (0x20000 + 6144 * i + 6 * e) 6)).toInt
    domain := bit w 11
    packed := bit w 12
    scaled := bit w 13 }

def restoredLatch (b : List Byte) (i : Nat) : LatchLane :=
  let w := areaWord b (0x18680 + 8 * i)
  { fmt := w.extractLsb' 0 7
    domain := bit w 7
    packed := bit w 8
    scaled := bit w 9
    payload := BitVec.ofNat 16384 (areaNat b (0x80000 + 2048 * i) 2048)
    scales := Vector.ofFn fun p =>
      ⟨BitVec.ofNat 2048 (areaNat b (0xA0000 + 512 * (4 * i + p.val)) 256),
        BitVec.ofNat 16 (areaNat b (0xA0000 + 512 * (4 * i + p.val) + 256) 2)⟩ }

/-- A landing or write-queue entry from its 64 bytes and its long data. One without data is re-issued (R412). -/
def restoredEntry (now clock : Nat) (area long : List Byte) : Option LogEntry :=
  let f := unmixFields area
  let w0 := areaWord f 0
  let opc := w0.extractLsb' 0 8
  let addr := areaWord f 8
  let n := fld w0 48 10
  let data := if n ≤ 16 then (area.drop 48).take n else long.take n
  let t : Trap :=
    { cause := Cause.ofNat (areaNat f 40 1), addr, detail := BitVec.ofNat 32 (areaNat f 44 4), write := writesMem opc }
  if fld w0 27 2 == 0 then none
  else
    some
      { opc
        aop := w0.extractLsb' 8 4
        ty := w0.extractLsb' 12 5
        ord := w0.extractLsb' 17 2
        scope := w0.extractLsb' 19 3
        slot := w0.extractLsb' 22 3
        addr
        size := fld w0 38 10
        operand := areaWord f 16
        expected := areaWord f 24
        bytes := if fld w0 27 2 == 1 then [] else data
        dest := destOfKind (fld w0 29 3) (fld w0 32 6)
        due := now + areaNat f 32 4
        seq := areaNat f 36 4
        since := clock
        status := if fld w0 27 2 == 1 then .data data else if fld w0 27 2 == 3 then .failed t else .inFlight
        fence := w0.extractLsb' 25 2
        walked := none }

def restoredLog (now clock : Nat) (b : List Byte) (off long : Nat) : Vector (Option LogEntry) 32 :=
  Vector.ofFn fun i =>
    restoredEntry now clock ((b.drop (off + 64 * i.val)).take 64) ((b.drop (long + 512 * i.val)).take 512)

/-- Bytes of the value of a pipeline record of each file. -/
def fileBytes (file : Nat) : Nat :=
  match file with
  | 3 => 512
  | 4 => 128
  | 6 => 64
  | _ => 8

/-- Pipeline records in order: word 0, word 1 and the value of each (R431). -/
def pipeList : Nat → List Byte → List (Word × Word × List Byte)
  | 0, _ => []
  | n + 1, b =>
    let w := areaWord b 0
    if w == 0 then []
    else
      let k := fileBytes (fld w 0 4)
      (w, areaWord b 8, (b.drop 16).take k) :: pipeList n (b.drop ((16 + k + 63) / 64 * 64))

/-- The write of a pipeline record. -/
def pipeWrite (w mask : Word) (v : List Byte) : Option KWrite :=
  let n := leNat v
  let i := fld w 8 16
  match fld w 0 4 with
  | 1 => some (.k (BitVec.ofNat 5 i) (BitVec.ofNat 64 n))
  | 2 => some (.p (BitVec.ofNat 3 i) (n % 2 == 1))
  | 3 => some (.v (BitVec.ofNat 6 i) (BitVec.ofNat 4096 n))
  | 4 => some (.m (BitVec.ofNat 3 i) (BitVec.ofNat 1024 n))
  | 5 => some (.laneWord (BitVec.ofNat 4 i) (BitVec.ofNat 64 n))
  | 6 => some (.srf ⟨0xBF, 0, 0, 0⟩ ((atAddr (64 * i) v).filter fun c => bit mask (c.1 - 64 * i)))
  | _ => none

/-- The section of the pipeline records that is written for a core. -/
def pipeSection (c : Core) : List Byte := sect 0xE000 (pipeline c)

/-- The pending writes: as they were saved while the area holds the records of that save, and else as the records say
(log 12). -/
def restoredPend (img : Core) (sec : List Byte) (seq : Nat) : List PendWrite :=
  if sec == pipeSection img then img.kern.pend
  else
    ((pipeList 1024 sec).zipIdx).filterMap fun (r, i) =>
      (pipeWrite r.1 r.2.1 r.2.2).map fun x => ⟨img.kern.ktime + fld r.1 24 8, seq + i, x⟩

/-- Idle cycles before the next issue. -/
def restoredIdle (sec : List Byte) : Nat :=
  (pipeList 1024 sec).foldl (fun n r => if fld r.1 0 4 == 15 then n + fld r.1 24 8 else n) 0

/-- The kernel engine from the area; what the area lays out no field for comes from the saved image (log 12). A kernel
stopped under R428 goes on from KPC, unless the core is to stop again (`stopping`), and logged entries are re-issued. -/
def restoredKern (img : Core) (b : List Byte) (clock : Nat) (checking stopping : Bool) : Kern :=
  let old := img.kern
  let landing := restoredLog old.ktime clock b 0xE00 0xD0000
  let wqueue := restoredLog old.ktime clock b 0xD8000 0xD4000
  let sec := (b.drop 0x2000).take 0xE000
  let seq := ((landing.toList ++ wqueue.toList).filterMap id).foldl (fun n e => Nat.max n (e.seq + 1)) old.seq
  let pend := restoredPend img sec seq
  Kern.legal checking
    { old with
      k := areaWords b 0x200
      p := BitVec.ofNat 8 (areaNat b 0x300 1)
      kpc := areaWord b 0x308
      kstat := areaWord b 0x310
      kdtarget := areaWord b 0x318
      kcause := areaWord b 0x320
      kinfo := areaWord b 0x328
      kflags := areaWord b 0x330
      v := Vector.ofFn fun r => BitVec.ofNat 4096 (areaNat b (0x10000 + 512 * r.val) 512)
      m := Vector.ofFn fun r => BitVec.ofNat 1024 (areaNat b (0x18000 + 128 * r.val) 128)
      lflags := areaWords b 0x18400
      acc := Vector.ofFn fun t => Vector.ofFn fun l => restoredAcc b (16 * t.val + l.val)
      latch := Vector.ofFn fun t => Vector.ofFn fun l => restoredLatch b (16 * t.val + l.val)
      store := (List.range 8192).filterMap fun i =>
        let w := areaWord b (0xC0000 + 8 * i)
        if w == 0 then none else some (i, w)
      landing
      wqueue
      pend
      nextIssue := old.ktime + restoredIdle sec
      nextPc := if fld (areaWord b 0x310) 0 2 == 1 then areaNat b 0x308 2 % 2 ^ 11 else old.nextPc
      seq := pend.foldl (fun n w => Nat.max n (w.seq + 1)) seq
      preStop := stopping }

/-- Unreported faults from the area; the token of each, for which the area has no field, from the image. -/
def restoredUnreported (img : List Unreported) (b : List Byte) : List Unreported :=
  (List.range 64).filterMap fun i =>
    let w0 := areaWord b (0xD8800 + 16 * i)
    let w1 := areaWord b (0xD8808 + 16 * i)
    if bit w0 63 then
      some { seq := fld w0 0 48
             krun := bit w0 48
             tok := (img.find? fun x => x.seq == fld w0 0 48).bind (·.tok)
             cause := Cause.ofNat (fld w1 0 7)
             record := w1.extractLsb' 16 16 }
    else none

/-- A word whose bytes are open. -/
def openWord (fresh i : Nat) : Word := BitVec.ofNat 64 (leNat (openBytes fresh (8 * i) 8))

/-- A queue entry of which the area's word is known and no save of this core tells the operands: they are free (log 12). -/
def openEntry (fresh seq : Nat) (asid : BitVec 16) (word : Word) : QEntry :=
  let w := SForm.ofWord word
  let x (i : Nat) : Word := openWord fresh i
  { seq, word, opc := word.extractLsb' 56 8, fn := w.fn, a := x 0, b := x 1, c := x 2, d := x 3, xf := x 4, nonce := x 5
    sd := ⟨x 6, x 7⟩, se := ⟨x 8, x 9⟩, decls := [], ser := true, tok := if w.te == 1 then some w.tk else none
    bar := if w.gx == 0 then none else some (x 10)
    gate := if w.gg == 0 then none else some (x 11 &&& ~~~0xF, bit (x 11) 0)
    sup := Config.freeChoice fresh, asid, stage := .queued, delivered := 0, next := 0, late := [], faultAt := none, fault := none
    bad := none, page := none, cancelled := false, since := 0, flags := 0, dir := [],
    sent := none }

/-- The stream queue: an entry stands as it was saved while the area holds the bytes of that save. -/
def restoredQueue (x : Saved) (b : List Byte) (fresh : Nat) (asid : BitVec 16) : List QEntry :=
  (List.range 32).filterMap fun i =>
    let off := 0x600 + 64 * i
    let area := (b.drop off).take 64
    let old := x.image.st.queue[i]?
    if !bit (areaWord area 56) 56 then none
    else if old.isSome && area == queueBytes x.stamp off old then old
    else some (openEntry (fresh + 128 * i) (x.image.st.seq + i) asid (areaWord area 0))

def restoredStream (x : Saved) (b : List Byte) (fresh : Nat) (asid : BitVec 16) : StreamUnit :=
  let img := x.image.st
  let o := areaWord b 0xD8C00
  let queue := restoredQueue x b fresh asid
  { img with
    sd := Vector.ofFn fun i => ⟨areaWord b (0x400 + 16 * i.val), areaWord b (0x408 + 16 * i.val)⟩
    tok := areaWords b 0x500
    queue := queue ++ img.queue.drop 32
    seq := queue.foldl (fun n e => Nat.max n (e.seq + 1)) img.seq
    unreported := restoredUnreported img.unreported b
    overflow := if bit o 63 then some (Cause.ofNat (fld o 0 7)) else none }

def restoredArrival (img : Arrival) (w : Word) : Arrival :=
  { img with gen := if bit w 8 then some (bit w 0) else none }

/-- The core after the RESTORE store, in the order of R433. -/
def restoredCore (now : Core) (x : Saved) (b : List Byte) (clock fresh : Nat) (checking : Bool) : Core :=
  let img := x.image
  { now with
    srf := cellPutAll [] (atAddr 0 (b.drop 0xE0000))
    srfPoison := []
    kern := restoredKern img b clock checking (now.ctx.pend && now.ctx.expired)
    st := restoredStream x b fresh (BitVec.ofNat 16 (areaNat b 0x1A8 2))
    arrQuad := restoredArrival img.arrQuad (areaWord b 0x540)
    arrDie := restoredArrival img.arrDie (areaWord b 0x548)
    cp := restoredCp now.cp x b clock (areaWord b 0x328) (areaWord b 0x320)
    ctx := { now.ctx with restoring := false } }

/-- What was saved of this core for its launch; of a core that never was, what a reset leaves. -/
def imageFor (s : State) (p : Prog) : Saved :=
  (s.saved.find? fun x => x.launch == p.launch && x.core == s.focus).getD ⟨p.launch, s.focus, Core.reset, [], s.fresh⟩

def restoreNow (s : State) (p : Prog) : State :=
  let c := s.core
  let who : Access := { core := s.focus, asid := c.cp.asid, sup := true }
  afterPages (checkPages s who engRead c.ctx.area (areaSize c)) fun s1 =>
    match engLoad s1 who c.ctx.area (areaSize c) with
    | .error (.fail x a s') => commandFails s' (gtrap x a.toNat)
    | .error (.wait _ s') => s'
    | .ok (b, s2) =>
      if areaBad s2 b then commandFails s2 (gtrap .contextCorrupt c.ctx.area.toNat)
      else
        { s2 with
          core := restoredCore s2.core (imageFor s2 p) b s2.clock s2.fresh (accepted s2 3)
          saved := s2.saved.filter fun x => !(x.launch == p.launch && x.core == s.focus)
          fresh := s2.fresh + 4096 }

/-- RESTORE (R433): the command is given, and the restore is made. -/
def restore (s : State) : State :=
  match s.core.prog with
  | none => s
  | some p => if s.core.cp.run == .running && s.core.ctx.restoring then restoreNow s p else s

/-- RESTORE (R433). -/
def execRestore (core : Nat) (s : State) : Out := .next (s.atCore core restore)

end Sys2Proof.Machine
end

