-- ==== Sys2Proof/Machine/Manage.lean ====
section
/-! DEFINITION. What the host and the module's own sensors do: register writes, pre-emption, key operations, start-up,
power and heat, the debugger (R402, R461-R472). -/

namespace Sys2Proof.Machine

/-! ## Register writes of the host (R461) -/

/-- An 8-byte write of BAR 0, which maps the device registers below the host window. -/
def hostWrite (s : State) (off : Nat) (v : Word) : State :=
  if off % 8 == 0 && off < 2 ^ 39 then
    match devWrite { s with fresh := s.fresh + 1 } true off v (Config.freeChoice s.fresh) with
    | .ok s' => s'
    | .error _ => s
  else s

def queueOffset (q off : Nat) : Nat := 0x100 + 0x40 * q + off

/-- REGISTER_WRITE (R461). -/
def execRegisterWrite (offset : Nat) (value : Word) (s : State) : Out := .next (hostWrite s offset value)

/-- QWRITE_WRITE (R464). -/
def execQwriteWrite (queue : Nat) (value : Word) (s : State) : Out :=
  .next (if queue < 64 then hostWrite s (queueOffset queue 0x10) value else s)

/-- QCTL_ENABLE (R464, R471). -/
def execQctlEnable (queue : Nat) (value : Word) (s : State) : Out :=
  .next (if queue < 64 then hostWrite s (queueOffset queue 0x20) value else s)

/-- PREEMPT_HOLD (R468). -/
def execPreemptHold (value : Word) (s : State) : Out := .next (if bit value 63 then hostWrite s 0x40 value else s)

/-- PREEMPT_RELEASE (R468). -/
def execPreemptRelease (value : Word) (s : State) : Out := .next (if bit value 63 then s else hostWrite s 0x40 value)

/-! ## Key slots (R469) -/

def keyCommand (op : Nat) (value : Word) (s : State) : Out :=
  .next (if fld value 12 2 == op then hostWrite s 0x58 value else s)

/-- KEY_WRITE (R469). -/
def execKeyWrite (value : Word) (s : State) : Out := keyCommand 1 value s
/-- KEY_EMPTY (R469). -/
def execKeyEmpty (value : Word) (s : State) : Out := keyCommand 2 value s
/-- KEY_QUERY (R469). -/
def execKeyQuery (value : Word) (s : State) : Out := keyCommand 3 value s

/-- The operation takes effect at every port, and BUSY clears. -/
def keyDone (m : Module) : Module :=
  match m.keyBusy with
  | none => m
  | some k =>
    let m := { m with keyBusy := none }
    let key : BitVec 256 := m.keyData.get 3 ++ m.keyData.get 2 ++ m.keyData.get 1 ++ m.keyData.get 0
    match k.op with
    | 1 => { m with keys := insertNum k.slot key m.keys }
    | 2 => { m with keys := eraseNum k.slot m.keys }
    | _ => { m with keyCmd := setBit m.keyCmd 62 (lookupNum k.slot m.keys).isSome }

/-- KEY_OP_DONE (R469). -/
def execKeyOpDone (s : State) : Out := .next (s.onMd keyDone)

/-! ## Start-up (R471) -/

/-- MODULE_START (R471). -/
def execModuleStart (value : Word) (retained : Bool) (s : State) : Out := .next (moduleStart s value retained)

/-- The step after a step of a cold or a warm start. -/
def nextStep (cold : Bool) (step : Nat) : Nat :=
  if cold then (if step == 4 then 6 else step + 1) else if step == 1 then 5 else 6

/-- Cell keys below this are of the module's own sixteen stacks (log 10). -/
def ownCells : Nat := 16 * 64 * 2 ^ 30

/-- What a completed step leaves: step 2 zeroes every backed byte of the module and clears its marks (R488). -/
def stepEffect (s : State) (step : Nat) : State :=
  match step with
  | 2 => { s with
      mem := s.mem.filter fun c => ownCells ≤ c.1
      poison := s.poison.filter (ownCells / 128 ≤ ·)
      unmet := s.unmet.filter (ownCells / 128 ≤ ·) }
  | 6 => s.onMd fun m => { m with feature := Config.featureOffered.setWidth 128, mstate := 1, fails := 0 }
  | _ => s

def stepPassed (s : State) (step : Nat) : State :=
  (stepEffect s step).onMd fun m => { m with step := if step == 6 then 0 else BitVec.ofNat 3 (nextStep m.coldStart step) }

/-- A failing step is logged and counted, and ends the start; step 5 begins it again as cold. The third failure leaves
state 3, out of which no step leads. -/
def stepFailed (s : State) (step : Nat) : State :=
  let n := Nat.min 3 (s.md.fails.toNat + 1)
  let s := if step == 5 && n != 3 then moduleStart s 0x180 false else s.onMd fun m => { m with step := 0 }
  (logOpen s 9 step).onMd fun m => { m with fails := BitVec.ofNat 2 n, mstate := if n == 3 then 3 else 0 }

def startStep (s : State) (ok : Bool) : State :=
  let step := s.md.step.toNat
  if step == 0 || s.md.mstate == 3 then s else if ok then stepPassed s step else stepFailed s step

/-- START_STEP_COMPLETE (R471). -/
def execStartStepComplete (ok : Bool) (s : State) : Out := .next (startStep s ok)

/-! ## Power and heat (R402, R472) -/

/-- Cores whose CP holds a launched program. -/
def heldCores (s : State) : List Nat :=
  (s.focus :: s.parked.map (·.1)).filter fun n => (s.getCore n).cp.run == .running && (s.getCore n).prog.isSome

/-- A cause raised on every CP that holds a launched program. -/
def raiseAll (s : State) (c : Cause) : State := (heldCores s).foldl (fun s n => raiseAsync s n c 0 false) s

/-- POWER_CAP_EXCEEDED (R472). -/
def execPowerCapExceeded (s : State) : Out :=
  .next (raiseAll (s.onMd fun m => { m with capped := true }) .powerCap)

/-- THERMAL_HOT (R472). -/
def execThermalHot (s : State) : Out := .next (raiseAll (s.onMd fun m => { m with hot := true }) .thermal)

/-- Every program of a launch is stopped, and the launch ends with status 1 and cause THERMAL. -/
def endByHeat (l : Launch) : Launch :=
  { l with status := 1, cause := some .thermal, ended := l.cores, groups := [], walkers := [], leftHead := true }

/-- THERMAL_CRIT (R472). -/
def execThermalCrit (s : State) : Out :=
  let heads := (s.launches.filter fun l => !l.leftHead).map (·.queue)
  let s := heads.foldl leaveHead s
  .next
    { s with
      core := if s.core.prog.isSome then vacated s.core else s.core
      parked := s.parked.map fun x => if x.2.prog.isSome then (x.1, vacated x.2) else x
      launches := s.launches.map endByHeat
      channels := []
      saved := []
      md := { s.md with crit := true, mstate := 3, step := 0 } }

/-- HOST_LINK_DOWN (R402). -/
def execHostLinkDown (s : State) : Out := .next (raiseAll s .hostLinkDown)

/-- DEBUG_HALT (R402). -/
def execDebugHalt (core : Nat) (s : State) : Out :=
  .next (if (heldCores s).contains core then raiseAsync s core .debugHalt 0 false else s)

end Sys2Proof.Machine
end

