-- ==== Sys2Proof/Machine/Link.lean ====
section
/-! DEFINITION. Beyond the package: bridges, requests of other packages, remote timeouts, lattice exchange, the Ethernet
ports, page-request responses, ATS invalidation and page migration (R314, R438-R458, R469, R470). -/

namespace Sys2Proof.Machine

/-! ## Bridges and Kibry ports (R440-R442) -/

/-- BRIDGE_FAILURE (R440). -/
def execBridgeFailure (die : Nat) (s : State) : Out :=
  .next (if die < 8 && !s.md.deadBridges.contains die then
    (logOpen s 6 die).onMd fun m => { m with deadBridges := setAdd die m.deadBridges } else s)

/-- KIBRY_PORT_TRAINED (R441). -/
def execKibryPortTrained (port : Nat) (s : State) : Out :=
  .next (if port < 16 then s.onMd fun m => { m with kbLive := setBit m.kbLive port true } else s)

/-- A live port is lost, which the error log enters under class 8 (R441, R493; log 15). -/
def losePort (s : State) (port : Nat) : State :=
  if s.md.kbLive.getLsbD port then (logOpen s 8 port).onMd fun m => { m with kbLive := setBit m.kbLive port false } else s

/-- KIBRY_PORT_LOST (R442). -/
def execKibryPortLost (port : Nat) (s : State) : Out := .next (if port < 16 then losePort s port else s)

/-! ## Requests of other packages (R442, R446) -/

/-- The log entry of a request from another package. -/
def remoteEntry (s : State) (r : RemoteReq) : LogEntry :=
  { engEntry s r.opc (BitVec.ofNat 64 r.pa.toNat) r.size ((r.data ++ List.replicate r.size 0).take r.size) with
    aop := r.aop
    ty := r.ty
    operand := BitVec.ofNat 64 (leNat r.data)
    expected := r.cmp }

/-- The GCOUNT slot of a request, or `none` where R446 refuses it. -/
def remoteSlot (s : State) (r : RemoteReq) (m : Nat) : Option Nat :=
  if r.lattice == 0 then some r.srcDie
  else
    match lrtEntryOf s m with
    | none => some r.srcDie
    | some e =>
      if r.mode == 1 && r.lattice.toNat == e.typ && e.dieMask.testBit (m / 2 ^ 37) then some (m / 2 ^ 37) else none

/-- The state that a request leaves, however it ends. -/
def servedState : Served → State
  | .ok (_, s) => s
  | .error (.trap _ s) => s
  | .error (.wait s) => s
  | .error (.waitAt _ s) => s
  | .error (.hold s) => s
  | .error (.final s) => s

/-- A request is refused in reset, in the management-only state, at an unbacked offset and in device space; a served one
changes what its access changes. Its response leaves the model over the link, which may send flits again (R441). -/
def remoteRequest (s : State) (r : RemoteReq) : State :=
  let s := countFlits s
  let m := r.pa.toNat % 2 ^ 40
  let (k, o) := interleave r.mode.toNat m
  if s.md.mstate == 0 || s.md.mstate == 3 || r.pa.toNat / 2 ^ 41 != s.md.pkg.toNat || r.pa.toNat / 2 ^ 40 % 2 == 1 ||
      o ≥ stackBacked then s
  else
    match remoteSlot s r m with
    | none => s
    | some slot =>
      servedState (serve s 0 (remoteEntry s r) ⟨.stk s.md.pkg.toNat k o, r.lattice.toNat, slot⟩)

/-- REMOTE_REQUEST (R442). -/
def execRemoteRequest (req : RemoteReq) (s : State) : Out := .next (remoteRequest s req)

/-! ## Remote timeouts (R443) -/

/-- The access of an entry goes to another package. -/
def entryRemote (s : State) (who : Access) (e : LogEntry) : Bool :=
  match resolve s who e with
  | .ok (t, _) => t.remote s
  | .error _ => false

/-- The request may or may not have been performed at its target. -/
def perhapsPerformed (s : State) (who : Access) (e : LogEntry) : State :=
  let s1 := { s with fresh := s.fresh + 1 }
  if Config.freeChoice s.fresh then
    match perform s1 who e with
    | .ok (_, s') => s'
    | .error _ => s1
  else s1

/-- A remote request issued at cycle `since` has had no response within TIMEOUT, which is counted in microseconds. -/
def remoteLate (s : State) (since : Nat) : Bool := s.md.kbTimeout * usCycles < s.clock - since

/-- A request to a barrier object may or may not have been performed. -/
def perhapsObject (s : State) (who : Access) (e : LogEntry) : State :=
  let s1 := { s with fresh := s.fresh + 1 }
  if Config.freeChoice s.fresh then
    match serveObject s1 who e with
    | .ok (_, s') => s'
    | .error _ => s1
  else s1

/-- The request of a CP times out. That of an enqueue is the instruction's fault, and the word goes on (R356). -/
def cpTimeout (s : State) : State :=
  match s.core.cp.remote, s.core.cp.wait with
  | some e, some w =>
    let late : Trap := etrap .remoteTimeout e
    if e.status != .inFlight || !remoteLate s e.since then s
    else if e.opc != objUpdate then takeSync (perhapsPerformed s (cpAccess s) e) late w.opc w.pc
    else
      let s' := perhapsObject s (cpAccess s) e
      if e.aop == 3 then s'.onCp fun c => { c with remote := some { e with status := .failed late } }
      else takeSync s' late w.opc w.pc
  | _, _ => s

/-- An entry of the landing buffer or of the write queue times out; a waiting `ldge` is kept alive by its target. -/
def entryTimeout (s : State) (e : LogEntry) (put : State → Option LogEntry → State) : State :=
  match (if e.status == .inFlight && e.opc != 0xBC && remoteLate s e.since then walkOlder s e.seq else none) with
  | none => s
  | some s' =>
    if mayPerform s' e && entryRemote s' (kernAccess s') e then
      put (perhapsPerformed s' (kernAccess s') e) (some { e with status := .failed (etrap .remoteTimeout e) })
    else s

/-- A unit of a transfer goes to another package: without routes it is refused, and with them it is not. -/
def unitRemote (s : State) (e : QEntry) (i : Nat) : Option EngFault :=
  match runUnit (s.onMd fun m => { m with routes := [] }) e i, runUnit s e i with
  | .fail _ _, .fail _ _ => none
  | .fail f _, _ => if f.cause == .remoteReject then some f else none
  | _, _ => none

/-- A unit that may or may not have been performed. -/
def perhapsUnit (s : State) (e : QEntry) (i : Nat) : State :=
  let s1 := { s with fresh := s.fresh + 1 }
  if Config.freeChoice s.fresh then
    match runUnit s1 e i with
    | .done s' _ => s'
    | _ => s1
  else s1

/-- The contribution of an instruction may or may not have been performed. -/
def perhapsContributed (s : State) (e : QEntry) (f : Option EngFault) (n : Nat) : State :=
  let s1 := { s with fresh := s.fresh + 1 }
  match (if Config.freeChoice s.fresh then e.bar else none) with
  | none => s1
  | some a =>
    match contribute s1 e a f.isSome n with
    | .ok (_, s') => s'
    | .error _ => s1

/-- The request of an instruction to its gate or its barrier object times out: a fault of its own (R356, R385). -/
def objectTimeout (s : State) (e : QEntry) : State :=
  let fault (a : Option Word) : EngFault := { cause := .remoteTimeout, addr := a.getD 0 }
  let e' := { e with sent := none }
  match e.stage with
  | .gated _ => afterEngine (completeEntry s e' (some (fault (e.gate.map (·.1)))) 0)
  | .completing f n =>
    afterEngine (completeEntry (perhapsContributed s e f n) { e' with bar := none } (f.or (some (fault e.bar))) n)
  | _ => s

/-- The unit that an engine instruction has issued last fails, or its request to an object. -/
def engineTimeout (s : State) (seq : Nat) : State :=
  match s.core.st.flight.find? (·.seq == seq) with
  | none => s
  | some e =>
    if e.sent.any (remoteLate s) then objectTimeout s e
    else if e.stage == .running && e.transfers && e.bad.isNone && e.nextDue && remoteLate s e.since then
      match unitRemote s e e.next with
      | some f =>
        putFlight (perhapsUnit s e e.next) ((e.past e.next false s.clock).failAt e.next { f with cause := .remoteTimeout })
      | none => s
    else s

/-- REMOTE_TIMEOUT_EXPIRY (R443). -/
def execRemoteTimeoutExpiry (core : Nat) (entry : Option Nat) (s : State) : Out :=
  .next (s.atCore core fun s => match entry with
    | none => cpTimeout s
    | some i =>
      if i < 32 then
        match entryAt s.core.kern.landing i with
        | some e => entryTimeout s e fun s o => putLanding s i o
        | none => s
      else if i < 64 then
        match entryAt s.core.kern.wqueue (i - 32) with
        | some e => entryTimeout s e fun s o => putQueue s (i - 32) o
        | none => s
      else engineTimeout s (i - 64))

/-! ## Lattice exchange (R445-R451) -/

def lrtIdx (i : Nat) : Fin 64 := ⟨i % 64, Nat.mod_lt _ (by decide)⟩
def lrtAt (s : State) (i : Nat) : LrtEntry := s.lrt.get (lrtIdx i)
def putLrt (s : State) (i : Nat) (e : LrtEntry) : State := { s with lrt := s.lrt.set (lrtIdx i) e }
def lrtOffset (i : Nat) : Nat := 0x20000 + 32 * i

/-- LRT_ENABLE (R445). -/
def execLrtEnable (entry : Nat) (value : Word) (s : State) : Out :=
  .next (if entry < 64 && bit value 0 then hostWrite s (lrtOffset entry) value else s)

/-- LRT_DISABLE (R445). -/
def execLrtDisable (entry : Nat) (value : Word) (s : State) : Out :=
  .next (if entry < 64 && !bit value 0 then hostWrite s (lrtOffset entry) value else s)

/-- Replica `i` as index, round and whether its exchange is done. -/
def replicaOf (e : LrtEntry) (i : Nat) : Option (Nat × Nat × Bool) := e.replicas.find? (·.1 == i)

def setReplica (e : LrtEntry) (i : Nat) (x : Nat × Bool) (clock : Nat) : LrtEntry :=
  { e with
    replicas := e.replicas.map fun r => if r.1 == i then (i, x) else r
    began := (e.replicas.zip e.began).map fun (r, t) => if r.1 == i && !x.2 then clock else t }

/-- CCYCLE at which a replica began its round. -/
def roundBegan (e : LrtEntry) (i : Nat) : Nat :=
  (((e.replicas.zip e.began).find? fun x => x.1.1 == i).map (·.2)).getD 0

/-- The exchange goes on: the entry is in force, or its round in progress is being finished (R445). -/
def LrtEntry.exchanges (e : LrtEntry) : Bool := (e.v || e.stopping) && e.levels != 0

/-- Round r + 1 begins once round r is complete and its period has elapsed since it began (R448). -/
def beginRound (s : State) (n i : Nat) : State :=
  let e := lrtAt s n
  match replicaOf e i with
  | some (_, r, true) =>
    if e.v && !e.stopping && e.levels != 0 && e.period r ≤ s.clock - roundBegan e i then
      putLrt s n (setReplica e i (r + 1, false) s.clock)
    else s
  | _ => s

/-- EXCHANGE_ROUND_BEGIN (R448). -/
def execExchangeRoundBegin (entry replica : Nat) (s : State) : Out :=
  .next (if entry < 64 then beginRound s entry replica else s)

/-- Partner of a replica in a round (R447). -/
def partnerOf (e : LrtEntry) (i r : Nat) : Nat := i ^^^ 2 ^ (r % e.levels)

/-- Package and die of a replica (R447). -/
def replicaHome (e : LrtEntry) (i : Nat) : Nat × Nat := (e.pkgBase + i / e.nd, (diesOf e.dieMask).getD (i % e.nd) 0)

/-- Stack and offset of a byte of the region in a replica, which is die-local (R446). -/
def replicaByte (die a : Nat) : Nat × Nat := interleave 1 (die * 2 ^ 37 + a)

/-- The cell key of a byte of a replica. -/
def replicaKey (s : State) (p : Nat × Nat) (a : Nat) : Nat :=
  cellKey s p.1 (replicaByte p.2 a).1 (replicaByte p.2 a).2

/-- A cell in both replicas takes the join. A line that is poisoned or unbacked in one of them is left as it is. -/
def joinCell (s : State) (t : Nat) (p q : Nat × Nat) (a : Nat) : State :=
  let (k, o) := replicaByte p.2 a
  let (k', o') := replicaByte q.2 a
  let n := cellSize t
  if o ≥ stackBacked || o' ≥ stackBacked || linePoisoned s (replicaKey s p a) || linePoisoned s (replicaKey s q a) then s
  else
    let x := leNat (locBytes s (.stk p.1 k o) n)
    let y := leNat (locBytes s (.stk q.1 k' o') n)
    let z := leBytes n (latJoin t x y)
    stkPut (stkPut s p.1 k o z) q.1 k' o' z

/-- Cells of the region, by M[36:0]. -/
def regionCells (e : LrtEntry) : List Nat :=
  let n := cellSize e.typ
  (List.range ((e.limit + 1 - e.base) * 4096 / n)).map fun j => e.base * 4096 + n * j

/-- Whether a cell waits: its stack is quiesced, or its line migrates and has not committed. -/
def cellWaits (s : State) (p : Nat × Nat) (a : Nat) : Bool :=
  quiesced s (replicaKey s p a) || lineWaits s (replicaKey s p a)

/-- The exchange of the round is over for both replicas of the pair, those of this module as their entries say: the round
is complete once it has lasted its period. -/
def completeRound (s : State) (n i j r : Nat) : State :=
  let e := lrtAt s n
  putLrt s n (setReplica (setReplica e i (r, true) s.clock) j (r, true) s.clock)

/-- A pair is in the same round: its partner in this module has begun it and has not completed it; one in another package
is taken to have (log 16). -/
def pairReady (s : State) (e : LrtEntry) (j r : Nat) : Bool :=
  if (replicaHome e j).1 == s.md.pkg.toNat then
    match replicaOf e j with
    | some (_, r', d) => r' == r && !d
    | none => false
  else true

/-- The partner can be reached over its bridge or a live route (R440, R442). -/
def reachable (s : State) (p q : Nat × Nat) : Bool :=
  if p.1 == q.1 then !(s.md.deadBridges.contains p.2 || s.md.deadBridges.contains q.2) else routeLive s q.1

/-- An exchange between packages crosses the Kibry link (R441). -/
def countExchange (s : State) (p q : Nat × Nat) : State := if p.1 == q.1 then s else countFlits s

/-- EXCHANGE (R448): the pair's cells take their joins. -/
def exchange (s : State) (n i : Nat) : State :=
  let e := lrtAt s n
  match replicaOf e i with
  | some (_, r, false) =>
    if !e.exchanges then s
    else
      let j := partnerOf e i r
      let p := replicaHome e i
      let q := replicaHome e j
      let cells := regionCells e
      if !pairReady s e j r || !reachable s p q || cells.any (fun a => cellWaits s p a || cellWaits s q a) then s
      else completeRound (cells.foldl (fun s a => joinCell s e.typ p q a) (countExchange s p q)) n i j r
  | _ => s

/-- EXCHANGE (R448). -/
def execExchange (entry replica : Nat) (s : State) : Out := .next (if entry < 64 then exchange s entry replica else s)

/-- A partner that an exchange may fail to reach: over a failed bridge or without a live route (R440, R442), or any in
another package, whose response may not come (R443). -/
def mayMiss (s : State) (p q : Nat × Nat) : Bool := p.1 != q.1 || !reachable s p q

/-- EXCHANGE_FAILURE (R450): the partner has not been reached within the round's period plus TIMEOUT, and both replicas
complete the round without the exchange, which is logged. The time counts from the beginning of the round (log 3). -/
def failExchange (s : State) (n i : Nat) : State :=
  let e := lrtAt s n
  match replicaOf e i with
  | some (_, r, false) =>
    let j := partnerOf e i r
    if e.exchanges && pairReady s e j r && mayMiss s (replicaHome e i) (replicaHome e j) &&
        e.period r + usCycles * s.md.kbTimeout < s.clock - roundBegan e i then
      completeRound (logOpen s 7 n) n i j r
    else s
  | _ => s

/-- EXCHANGE_FAILURE (R450). -/
def execExchangeFailure (entry replica : Nat) (s : State) : Out :=
  .next (if entry < 64 then failExchange s entry replica else s)

/-! ## Ethernet ports (R452-R457) -/

def satInc (w : Word) (n : Nat) : Word := BitVec.ofNat 64 (Nat.min (w.toNat + n) (2 ^ 64 - 1))

def portOffset (port off : Nat) : Nat := 0x2000000 + 0x100000 * port + off

/-- RING_BIND (R454). -/
def execRingBind (port ring : Nat) (value : Word) (s : State) : Out :=
  .next (if port < 8 && ring < 8192 then hostWrite s (portOffset port (0x10000 + 8 * ring)) value else s)

/-- COUNTER_CLEAR (R456). -/
def execCounterClear (port : Nat) (ring : Option Nat) (counter : Nat) (value : Word) (s : State) : Out :=
  .next (match ring with
    | none => if port < 8 && counter < 2 then hostWrite s (portOffset port (0x70000 + 8 * counter)) value else s
    | some r =>
      if port < 8 && r < 8192 && counter < 8 then hostWrite s (portOffset port (0x80000 + 64 * r + 8 * counter)) value else s)

/-- The ring that a UDP port is steered to: the lowest valid entry (R454). -/
def steerTo (p : Port) (udp : BitVec 16) : Option Nat :=
  (List.range 256).findSome? fun i =>
    let e := (lookupNum i p.steer).getD 0
    if bit e 0 && fld e 16 16 == udp.toNat then some (fld e 32 13) else none

def payloadNat (f : Frame) (off n : Nat) : Nat := leNat ((f.payload.drop off).take n)

/-- The `srecv` of a core whose records a ring has posted. -/
def postedOn (c : Core) (port ring : Nat) : Option QEntry :=
  c.st.flight.find? fun e =>
    e.opc == 0xD7 && e.stage == .running && e.bad.isNone && e.delivered < e.d.toNat && fld e.a 0 3 == port && fld e.a 3 13 == ring

/-- The 64 bytes before the body of a delivered record (R455). -/
def recordHead (port tenant len clock : Nat) (enc : Bool) : List Byte :=
  wordsBytes [BitVec.ofNat 64 (len % 2 ^ 16 + tenant * 2 ^ 16 + enc.toNat * 2 ^ 28 + port * 2 ^ 29), BitVec.ofNat 64 clock] ++
    List.replicate 48 0

/-- Ring header of a payload that breaks a rule of R453. -/
def headerMalformed (f : Frame) : Bool :=
  let enc := payloadNat f 0 2 / 2 ^ 15 % 2
  f.payload.length < 16 + 16 * enc || payloadNat f 0 2 / 2 ^ 12 % 8 != 0 || payloadNat f 2 2 != 0

/-- The body of a packet in clear: `none` with no key, or with a tag that does not match. -/
inductive Opened where
  | body (b : List Byte)
  | noKey
  | badTag
  deriving DecidableEq, Repr

def openBody (s : State) (f : Frame) : Opened :=
  let h := payloadNat f 0 2
  if h / 2 ^ 15 % 2 == 0 then .body (f.payload.drop 16)
  else if !accepted s 9 then .noKey
  else
    let n := f.payload.length - 32
    match lookupNum (h % 2 ^ 12) s.md.keys with
    | none => .noKey
    | some key =>
      match gcmOpen key ((f.payload.drop 4).take 12) (f.payload.take 16) ((f.payload.drop 16).take n)
          (f.payload.drop (16 + n)) with
      | some b => .body b
      | none => .badTag

/-- RECORD of a ring: that of the posted records, or of those posted last (R455; log 29). -/
def ringRecord (s : State) (port ring : Nat) (posted : Option QEntry) : Option Nat :=
  (posted.map fun e => e.sd.recSize).or ((s.ports.get (portIdx port)).ring ring).record

/-- A packet for a ring (R455): its fate, step by step. U counts from the end of the transport header, as the length of
the body does (R453; log 29). -/
def ringReceive (s : State) (port ring : Nat) (f : Frame) : State :=
  let u := f.payload.length
  let entry := ((s.ports.get (portIdx port)).ring ring).entry
  let n := coreOf (fld entry 1 3) (fld entry 4 7)
  let h := payloadNat f 0 2
  let enc := h / 2 ^ 15 % 2 == 1
  let bodyLen := u - 16 - 16 * enc.toNat
  let count (g : Ring → Ring) (s : State) : State := s.onPort port fun p => p.onRing ring g
  let drop (s : State) : State := count (fun r => { r with dropPkt := satInc r.dropPkt 1, dropByte := satInc r.dropByte u }) s
  if !accepted s 2 || !bit entry 0 || fld entry 4 7 ≥ 96 then drop s
  else
    let c := s.getCore n
    let posted := postedOn c port ring
    if (ringRecord s port ring posted).any (· < bodyLen + 64) then count (fun r => { r with big := satInc r.big 1 }) s
    else
      match posted with
      | none => drop s
      | some e =>
        match openBody s f with
        | .noKey => count (fun r => { r with noKey := satInc r.noKey 1 }) s
        | .badTag => count (fun r => { r with authPkt := satInc r.authPkt 1, authByte := satInc r.authByte u }) s
        | .body b =>
          if c.fenced || c.prog.isNone then drop s
          else
            let next := ((s.ports.get (portIdx port)).ring ring).next
            let bytes := recordHead port (h % 2 ^ 12) b.length s.clock enc ++ b
            let s := s.onCore n fun c =>
              let c := c.putSrf (atAddr (recAt e.sd next) bytes)
              { c with st := { c.st with flight := c.st.flight.map fun x =>
                  if x.seq == e.seq then { x with delivered := x.delivered + 1 } else x } }
            count (fun r => { r with rxPkt := satInc r.rxPkt 1, rxByte := satInc r.rxByte u, next := r.next + 1 }) s

/-- IPv4 without options or IPv6 without extension headers, that carries UDP of the length given (R452). The number of UDP
and the sizes of the headers are those of the internet standards (PRESUMED; log 17). -/
def ipCarries (udpLength : Nat) : IpHeader → Bool
  | .v4 ihl total protocol => ihl == 5 && protocol == 17 && total == 20 + udpLength
  | .v6 payload next => next == 17 && payload == udpLength
  | .other => false

/-- The transport header that may stand before the ring header (R452). -/
def transportOk (f : Frame) : Bool :=
  match f.transport with
  | .none => f.header == 0
  | .unordered passes => passes
  | .unsupported => false

/-- A frame that a port accepts (R452). -/
def frameAccepted (f : Frame) : Bool :=
  f.ethernetII && f.fcsGood && ipCarries f.udpLength f.ip && f.udpLength == 8 + f.header + f.payload.length && transportOk f

/-- FRAME_RECEIVE (R452-R455). -/
def frameReceive (s : State) (port : Nat) (f : Frame) : State :=
  if !frameAccepted f || headerMalformed f then s.onPort port fun p => { p with malformed := satInc p.malformed 1 }
  else
    match steerTo (s.ports.get (portIdx port)) f.udpPort with
    | none => s.onPort port fun p => { p with unsteered := satInc p.unsteered 1 }
    | some ring => ringReceive s port ring f

/-- FRAME_RECEIVE (R452). -/
def execFrameReceive (port : Nat) (frame : Frame) (s : State) : Out :=
  .next (if port < 8 then frameReceive s port frame else s)

/-! ## Page requests (R263, R469) -/

/-- A wait for the page that a request named is over: the access is made again, or fails once it has been refused
(R263). -/
def PageReq.answer (r : PageReq) (refused : Bool) : Option PageWait → Option PageWait
  | some w => if w.asid == r.asid && w.page == r.page then (if refused then some { w with refused := true } else none) else some w
  | none => none

/-- The engine instructions of a core that waited for the page, and an enqueue that waits for its object. -/
def answerCore (f : Option PageWait → Option PageWait) (c : Core) : Core :=
  let on (e : QEntry) : QEntry := { e with page := f e.page }
  { c with st := { c.st with queue := c.st.queue.map on, flight := c.st.flight.map on, objPage := f c.st.objPage } }

/-- Every engine and the launch unit learn the answer. -/
def answerAll (s : State) (f : Option PageWait → Option PageWait) : State :=
  { s with
    core := answerCore f s.core
    parked := s.parked.map fun x => (x.1, answerCore f x.2)
    queues := s.queues.map fun (q : Queue) => { q with page := f q.page }
    launches := s.launches.map fun (l : Launch) => { l with page := f l.page } }

/-- PRG_RESPONSE (R469): Success is 0, Invalid Request 1, and any other code a Response Failure (log 17). -/
def prgResponse (s : State) (tag code : Nat) : State :=
  match s.md.pageReqs.find? (·.tag == tag) with
  | none => s
  | some r =>
    let s := s.onMd fun m =>
      { m with pageReqs := m.pageReqs.filter (·.tag != tag), prgFailed := m.prgFailed || !(code == 0 || code == 1) }
    answerAll s (r.answer (code == 1))

/-- PRG_RESPONSE (R469). -/
def execPrgResponse (tag code : Nat) (s : State) : Out := .next (prgResponse s tag code)

/-! ## Invalidation and migration (R314, R470) -/

/-- ATS_INVALIDATE (R470): the effect of `tlbi.page.pkg`, once the accesses that use what it drops are performed. -/
def execAtsInvalidate (asid : Nat) (va : Word) (s : State) : Out :=
  let p (t : TlbEntry) : Bool := t.asid.toNat == asid && t.xlat.covers (fld va 0 56)
  .next (if invalidationWaits s true 0 p then s else invalidate s true 0 p)

/-- The line's bytes and mark stand at its new home, which serves it from now on. -/
def commitLine (s : State) (old new : Nat) : State :=
  let s' := putBytesAt s ((List.range 128).map fun i => (128 * new + i, byteAt s (128 * old + i)))
  let s' := markGranule s' new (setHas old s.poison) (setHas old s.unmet)
  { s' with migrating := s'.migrating.map fun m => if m.old == old && m.new == new then { m with done := true } else m }

/-- A line of a migrating page, whose homes are granules of memory or of the host window, starts to move, or its copy
commits (R314). A copy is a request to both of its stacks, and waits while one is quiesced (R274). -/
def lineCommit (s : State) (asid : BitVec 16) (va old new : Nat) (commit : Bool) : State :=
  let known := s.migrating.find? fun m => m.old == old || m.new == new || m.old == new || m.new == old
  match known with
  | none => if commit || old == new then s else { s with migrating := s.migrating ++ [⟨asid, va, old, new, false⟩] }
  | some m =>
    if commit && m.old == old && m.new == new && !m.done && !quiesced s (128 * old) && !quiesced s (128 * new) then
      commitLine s old new
    else s

/-- LINE_COMMIT (R314). -/
def execLineCommit (line : LineHome) (new : Nat) (commit : Bool) (s : State) : Out :=
  .next (lineCommit s line.asid line.va line.old new commit)

end Sys2Proof.Machine
end

