-- ==== Sys2Proof/Machine/Repair.lean ====
section
/-! DEFINITION. The stacks' register events and refresh, poison, write-back failures and self-tests (R273, R274, R283,
R284, R342, R402, R417, R422-R424). -/

namespace Sys2Proof.Machine

/-! ## Quiescing and selector masks (R274, R342) -/

def stackOffset (stack off : Nat) : Nat := 0x10000 + 0x100 * stack + off

/-- QUIESCE (R274). -/
def execQuiesce (stack : Nat) (value : Word) (s : State) : Out :=
  .next (if stack < 16 then hostWrite s (stackOffset stack 0) value else s)

/-- HSMASK_WRITE (R274). -/
def execHsmaskWrite (stack index : Nat) (value : Word) (s : State) : Out :=
  .next (if stack < 16 && index < 6 then hostWrite s (stackOffset stack (0x10 + 8 * index)) value else s)

/-- MASKERR_CLEAR (R274). -/
def execMaskerrClear (stack : Nat) (value : Word) (s : State) : Out :=
  .next (if stack < 16 then hostWrite s (stackOffset stack 8) value else s)

/-! ## Refresh (R283, R284) -/

/-- A heartbeat is received. -/
def Stack.beat (k : Stack) : Stack := { k with missed := 0, beats := k.beats + 1 }

/-- A heartbeat is missed; the second tells the base die to stop. -/
def Stack.miss (k : Stack) : Stack :=
  let n := Nat.min 255 (k.missed + 1)
  { k with missed := n, takeover := k.takeover || (n ≥ 2 && !k.refOwn) }

/-- The controller takes refresh over. -/
def Stack.takeOver (k : Stack) : Stack :=
  { k with takeover := false, refOwn := true, takeovers := Nat.min 0xFFFF (k.takeovers + 1), catchUp := true }

/-- HEARTBEAT (R283). -/
def execHeartbeat (stack : Nat) (s : State) : Out := .next (if stack < 16 then s.onStack stack Stack.beat else s)
/-- HEARTBEAT_MISSED (R283). -/
def execHeartbeatMissed (stack : Nat) (s : State) : Out := .next (if stack < 16 then s.onStack stack Stack.miss else s)

/-- TAKEOVER_ACK (R283): the acknowledgement, or the end of 2 µs. -/
def execTakeoverAck (stack : Nat) (s : State) : Out :=
  .next (if stack < 16 && (s.hbm.get (stackIdx stack)).takeover then
    logOpen (s.onStack stack Stack.takeOver) 5 stack else s)

/-- REFRESH_WINDOW_EXPIRY (R284): the controller has owned refresh for a window without catching up. -/
def execRefreshWindowExpiry (stack : Nat) (s : State) : Out :=
  let k := s.hbm.get (stackIdx stack)
  .next (if stack < 16 && k.refOwn && k.catchUp && !k.failed then
    logError (s.onStack stack fun k => { k with failed := true }) .uncorrectedHbm 5 stack else s)

/-! ## Poison (R402, R417) -/

/-- The granule is poisoned, and no access has met it yet. -/
def granuleError (s : State) (stack offset : Nat) : State :=
  let k := granuleKey s s.md.pkg.toNat stack offset
  if setHas k s.poison then s else { s with poison := setAdd k s.poison, unmet := setAdd k s.unmet }

/-- Banks of a core that its reads decode as erasures: the lastingly bad ones, and those under test (R247, R423). -/
def erasures (s : State) (core : Nat) : Nat :=
  let tested := s.md.testing.filter fun u => u.cls == 2 && u.index.toNat / 68 == core
  (tested.foldl (fun l u => setAdd (u.index.toNat % 68) l) (s.getCore core).badBanks).length

/-- A symbol error that a read has corrected is counted, against a bank that the manual leaves open (R422; log 15). -/
def countCorrected (s : State) (core : Nat) : State :=
  logOpen { s with fresh := s.fresh + 1 } 2 (68 * core + (Config.freeByte s.fresh).toNat % 68)

/-- A read of codeword `q` finds `e` unknown errors, which it corrects, and counts, or not (R245, R246, R422). -/
def codewordError (s : State) (core q e : Nat) : State :=
  if 2 * e + erasures s core ≤ 4 then (List.range e).foldl (fun s _ => countCorrected s core) s
  else s.onCore core fun c => { c with srfPoison := setAdd q c.srfPoison }

/-- An error that no code corrects stops a running program (R403, R422). -/
def fatalError (s : State) (core : Nat) (c : Cause) : State :=
  s.atCore core fun s => if s.core.cp.run == .running then fatalStop s c else s

/-- POISON_DETECT (R245, R417, R422): what ECC finds. A corrected error is counted in the error log and changes nothing
else. -/
def execPoisonDetect (err : EccError) (place : Nat) (s : State) : Out :=
  .next (match err with
    | .stack n => if n < 16 && place < stackBacked then granuleError s n place else s
    | .srf core e => if core < 768 && place < srfSize / 64 then codewordError s core place e else s
    | .lane core => if core < 768 && place < 16 then fatalError s core .laneFailure else s
    | .cpState => if place < 768 then fatalError s place .machineCheck else s
    | .corrected cls => logOpen s cls.toNat place)

/-- DETAIL of an asynchronous UNCORRECTED_HBM (R402). -/
def writebackDetail (stack offset : Nat) : BitVec 32 := BitVec.ofNat 32 (stack % 16 + offset / 2 ^ 8 % 2 ^ 28 * 2 ^ 4)

/-- WRITEBACK_FAILURE (R402): the line is poisoned, and the CP whose access caused its write-back is told. -/
def execWritebackFailure (stack offset : Nat) (core : Option Nat) (s : State) : Out :=
  .next (if stack < 16 && offset < stackBacked then
    let s := { s with poison := setAdd (granuleKey s s.md.pkg.toNat stack offset) s.poison }
    match core with
    | none => s
    | some n =>
      if (heldCores s).contains n then raiseAsync s n .uncorrectedHbm (writebackDetail stack offset) false else s
  else s)

/-! ## Self-tests (R422-R424) -/

/-- Units that the module tests: lanes, SRF banks, home slices, rows (R423, R493). -/
def testable (u : ErrUnit) : Bool := u.cls == 1 || u.cls == 2 || u.cls == 3 || u.cls == 4

/-- SELFTEST (R423): the test changes no value. -/
def execSelftest (unit : ErrUnit) (s : State) : Out :=
  .next (if testable unit && !s.md.testing.contains unit then s.onMd fun m => { m with testing := unit :: m.testing } else s)

/-- A lasting fault (R424). -/
def lastingFault (s : State) (u : ErrUnit) : State :=
  let i := u.index.toNat
  match u.cls.toNat with
  | 1 => s.onCore (i / 16) fun c => { c with outOfService := true }
  | 2 => s.onCore (i / 68) fun c =>
      let bad := setAdd (i % 68) c.badBanks
      { c with badBanks := bad, outOfService := c.outOfService || bad.length ≥ 3 }
  | 3 => s.onMd fun m => { m with badSlices := setAdd i m.badSlices }
  | _ => s.onMd fun m => { m with badRows := setAdd (rowKey s (rowOfIndex i).1 (rowOfIndex i).2) m.badRows }

/-- SELFTEST_COMPLETE (R424): counted as a soft error, or logged as SELFTEST_FAIL and lasting. -/
def execSelftestComplete (unit : ErrUnit) (pass : Bool) (s : State) : Out :=
  .next (if s.md.testing.contains unit then
    let s := s.onMd fun m => { m with testing := m.testing.filter (· != unit) }
    if pass then logOpen s unit.cls.toNat unit.index.toNat
    else lastingFault (logError s .selftestFail unit.cls.toNat unit.index.toNat) unit
  else s)

end Sys2Proof.Machine
end

