-- ==== Sys2Proof/Machine/Dispatch.lean ====
section
/-! DEFINITION. What every operation does: one arm per constructor, each one call of its meaning. -/

namespace Sys2Proof.Machine

open Sys2Proof

def exec (i : Instr) (s : State) : Host.Outcome State Fault Refusal :=
  match i with
  | .add w => Sys2Proof.Machine.execAdd w s
  | .sub w => Sys2Proof.Machine.execSub w s
  | .mul w => Sys2Proof.Machine.execMul w s
  | .mulh w => Sys2Proof.Machine.execMulh w s
  | .div w => Sys2Proof.Machine.execDiv w s
  | .rem w => Sys2Proof.Machine.execRem w s
  | .min w => Sys2Proof.Machine.execMin w s
  | .max w => Sys2Proof.Machine.execMax w s
  | .abs w => Sys2Proof.Machine.execAbs w s
  | .neg w => Sys2Proof.Machine.execNeg w s
  | .and w => Sys2Proof.Machine.execAnd w s
  | .or w => Sys2Proof.Machine.execOr w s
  | .xor w => Sys2Proof.Machine.execXor w s
  | .andn w => Sys2Proof.Machine.execAndn w s
  | .shl w => Sys2Proof.Machine.execShl w s
  | .shr w => Sys2Proof.Machine.execShr w s
  | .sra w => Sys2Proof.Machine.execSra w s
  | .bcntPop w => Sys2Proof.Machine.execBcntPop w s
  | .bcntClz w => Sys2Proof.Machine.execBcntClz w s
  | .bcntCtz w => Sys2Proof.Machine.execBcntCtz w s
  | .addi w => Sys2Proof.Machine.execAddi w s
  | .andi w => Sys2Proof.Machine.execAndi w s
  | .ori w => Sys2Proof.Machine.execOri w s
  | .xori w => Sys2Proof.Machine.execXori w s
  | .andni w => Sys2Proof.Machine.execAndni w s
  | .shli w => Sys2Proof.Machine.execShli w s
  | .shri w => Sys2Proof.Machine.execShri w s
  | .srai w => Sys2Proof.Machine.execSrai w s
  | .movi w => Sys2Proof.Machine.execMovi w s
  | .movh w => Sys2Proof.Machine.execMovh w s
  | .lea w => Sys2Proof.Machine.execLea w s
  | .pcrel w => Sys2Proof.Machine.execPcrel w s
  | .bfxZ w => Sys2Proof.Machine.execBfxZ w s
  | .bfxS w => Sys2Proof.Machine.execBfxS w s
  | .bfxI w => Sys2Proof.Machine.execBfxI w s
  | .cmp w => Sys2Proof.Machine.execCmp w s
  | .cmpi w => Sys2Proof.Machine.execCmpi w s
  | .pand w => Sys2Proof.Machine.execPand w s
  | .por w => Sys2Proof.Machine.execPor w s
  | .pxor w => Sys2Proof.Machine.execPxor w s
  | .pandn w => Sys2Proof.Machine.execPandn w s
  | .porn w => Sys2Proof.Machine.execPorn w s
  | .pmovGet w => Sys2Proof.Machine.execPmovGet w s
  | .pmovPut w => Sys2Proof.Machine.execPmovPut w s
  | .sel w => Sys2Proof.Machine.execSel w s
  | .fadd w => Sys2Proof.Machine.execFadd w s
  | .fsub w => Sys2Proof.Machine.execFsub w s
  | .fmul w => Sys2Proof.Machine.execFmul w s
  | .fdiv w => Sys2Proof.Machine.execFdiv w s
  | .fsqrt w => Sys2Proof.Machine.execFsqrt w s
  | .fma w => Sys2Proof.Machine.execFma w s
  | .fmin w => Sys2Proof.Machine.execFmin w s
  | .fmax w => Sys2Proof.Machine.execFmax w s
  | .fsgnCpy w => Sys2Proof.Machine.execFsgnCpy w s
  | .fsgnNeg w => Sys2Proof.Machine.execFsgnNeg w s
  | .fsgnXor w => Sys2Proof.Machine.execFsgnXor w s
  | .fclass w => Sys2Proof.Machine.execFclass w s
  | .cvt w => Sys2Proof.Machine.execCvt w s
  | .br w => Sys2Proof.Machine.execBr w s
  | .call w => Sys2Proof.Machine.execCall w s
  | .jmp w => Sys2Proof.Machine.execJmp w s
  | .bcz w => Sys2Proof.Machine.execBcz w s
  | .loop w => Sys2Proof.Machine.execLoop w s
  | .ld w => Sys2Proof.Machine.execLd w s
  | .st w => Sys2Proof.Machine.execSt w s
  | .rdsys w => Sys2Proof.Machine.execRdsys w s
  | .wrsys w => Sys2Proof.Machine.execWrsys w s
  | .xchsys w => Sys2Proof.Machine.execXchsys w s
  | .trapSw w => Sys2Proof.Machine.execTrapSw w s
  | .trapCall w => Sys2Proof.Machine.execTrapCall w s
  | .brk w => Sys2Proof.Machine.execBrk w s
  | .tret w => Sys2Proof.Machine.execTret w s
  | .halt w => Sys2Proof.Machine.execHalt w s
  | .idle w => Sys2Proof.Machine.execIdle w s
  | .work w => Sys2Proof.Machine.execWork w s
  | .vadd w => Sys2Proof.Machine.execVadd w s
  | .vsub w => Sys2Proof.Machine.execVsub w s
  | .vmul w => Sys2Proof.Machine.execVmul w s
  | .vmulh w => Sys2Proof.Machine.execVmulh w s
  | .vfma w => Sys2Proof.Machine.execVfma w s
  | .vfms w => Sys2Proof.Machine.execVfms w s
  | .vfnma w => Sys2Proof.Machine.execVfnma w s
  | .vfnms w => Sys2Proof.Machine.execVfnms w s
  | .vmin w => Sys2Proof.Machine.execVmin w s
  | .vmax w => Sys2Proof.Machine.execVmax w s
  | .vabs w => Sys2Proof.Machine.execVabs w s
  | .vneg w => Sys2Proof.Machine.execVneg w s
  | .vclamp w => Sys2Proof.Machine.execVclamp w s
  | .vsgnCpy w => Sys2Proof.Machine.execVsgnCpy w s
  | .vsgnNeg w => Sys2Proof.Machine.execVsgnNeg w s
  | .vsgnXor w => Sys2Proof.Machine.execVsgnXor w s
  | .vrint w => Sys2Proof.Machine.execVrint w s
  | .vrintX w => Sys2Proof.Machine.execVrintX w s
  | .vscale w => Sys2Proof.Machine.execVscale w s
  | .vfnDiv w => Sys2Proof.Machine.execVfnDiv w s
  | .vfnSqrt w => Sys2Proof.Machine.execVfnSqrt w s
  | .vfnRsqrt w => Sys2Proof.Machine.execVfnRsqrt w s
  | .vfnRecip w => Sys2Proof.Machine.execVfnRecip w s
  | .vfnExp w => Sys2Proof.Machine.execVfnExp w s
  | .vfnExp2 w => Sys2Proof.Machine.execVfnExp2 w s
  | .vfnLog w => Sys2Proof.Machine.execVfnLog w s
  | .vfnLog2 w => Sys2Proof.Machine.execVfnLog2 w s
  | .vfnTanh w => Sys2Proof.Machine.execVfnTanh w s
  | .vfnLogistic w => Sys2Proof.Machine.execVfnLogistic w s
  | .vfnSinpi w => Sys2Proof.Machine.execVfnSinpi w s
  | .vfnCospi w => Sys2Proof.Machine.execVfnCospi w s
  | .vlogAnd w => Sys2Proof.Machine.execVlogAnd w s
  | .vlogOr w => Sys2Proof.Machine.execVlogOr w s
  | .vlogXor w => Sys2Proof.Machine.execVlogXor w s
  | .vlogAndn w => Sys2Proof.Machine.execVlogAndn w s
  | .vlogNot w => Sys2Proof.Machine.execVlogNot w s
  | .vshShl w => Sys2Proof.Machine.execVshShl w s
  | .vshShr w => Sys2Proof.Machine.execVshShr w s
  | .vshSra w => Sys2Proof.Machine.execVshSra w s
  | .vbcntPop w => Sys2Proof.Machine.execVbcntPop w s
  | .vbcntClz w => Sys2Proof.Machine.execVbcntClz w s
  | .vbcntCtz w => Sys2Proof.Machine.execVbcntCtz w s
  | .vcmp w => Sys2Proof.Machine.execVcmp w s
  | .vsel w => Sys2Proof.Machine.execVsel w s
  | .mlogAnd w => Sys2Proof.Machine.execMlogAnd w s
  | .mlogOr w => Sys2Proof.Machine.execMlogOr w s
  | .mlogXor w => Sys2Proof.Machine.execMlogXor w s
  | .mlogAndn w => Sys2Proof.Machine.execMlogAndn w s
  | .mlogNot w => Sys2Proof.Machine.execMlogNot w s
  | .mlogSet w => Sys2Proof.Machine.execMlogSet w s
  | .mlogClr w => Sys2Proof.Machine.execMlogClr w s
  | .mpopCnt w => Sys2Proof.Machine.execMpopCnt w s
  | .mpopFirst w => Sys2Proof.Machine.execMpopFirst w s
  | .vcvt w => Sys2Proof.Machine.execVcvt w s
  | .vpack w => Sys2Proof.Machine.execVpack w s
  | .vunpack w => Sys2Proof.Machine.execVunpack w s
  | .vpermIdx w => Sys2Proof.Machine.execVpermIdx w s
  | .vpermRot w => Sys2Proof.Machine.execVpermRot w s
  | .vpermXor w => Sys2Proof.Machine.execVpermXor w s
  | .vbcastLane w => Sys2Proof.Machine.execVbcastLane w s
  | .vbcastElem w => Sys2Proof.Machine.execVbcastElem w s
  | .vshuf w => Sys2Proof.Machine.execVshuf w s
  | .vred w => Sys2Proof.Machine.execVred w s
  | .vscan w => Sys2Proof.Machine.execVscan w s
  | .vidx w => Sys2Proof.Machine.execVidx w s
  | .vidxElem w => Sys2Proof.Machine.execVidxElem w s
  | .vidxFlat w => Sys2Proof.Machine.execVidxFlat w s
  | .vmovk w => Sys2Proof.Machine.execVmovk w s
  | .vext w => Sys2Proof.Machine.execVext w s
  | .vins w => Sys2Proof.Machine.execVins w s
  | .vflagRd w => Sys2Proof.Machine.execVflagRd w s
  | .vflagWr w => Sys2Proof.Machine.execVflagWr w s
  | .vflagClr w => Sys2Proof.Machine.execVflagClr w s
  | .vcmul w => Sys2Proof.Machine.execVcmul w s
  | .vcmulConj w => Sys2Proof.Machine.execVcmulConj w s
  | .vcmulFma w => Sys2Proof.Machine.execVcmulFma w s
  | .vcmulFmac w => Sys2Proof.Machine.execVcmulFmac w s
  | .vdot w => Sys2Proof.Machine.execVdot w s
  | .tfillAll w => Sys2Proof.Machine.execTfillAll w s
  | .tfillPart w => Sys2Proof.Machine.execTfillPart w s
  | .tfillGath w => Sys2Proof.Machine.execTfillGath w s
  | .tmmaMadd w => Sys2Proof.Machine.execTmmaMadd w s
  | .tmmaAdif w => Sys2Proof.Machine.execTmmaAdif w s
  | .tmmaCselmax w => Sys2Proof.Machine.execTmmaCselmax w s
  | .tmmaCselmin w => Sys2Proof.Machine.execTmmaCselmin w s
  | .tmmaCmad w => Sys2Proof.Machine.execTmmaCmad w s
  | .tmmaSeq w => Sys2Proof.Machine.execTmmaSeq w s
  | .tclr w => Sys2Proof.Machine.execTclr w s
  | .taccRd w => Sys2Proof.Machine.execTaccRd w s
  | .taccWr w => Sys2Proof.Machine.execTaccWr w s
  | .tnorm w => Sys2Proof.Machine.execTnorm w s
  | .tstatAcc w => Sys2Proof.Machine.execTstatAcc w s
  | .tstatLatch w => Sys2Proof.Machine.execTstatLatch w s
  | .tcopy w => Sys2Proof.Machine.execTcopy w s
  | .tqclr w => Sys2Proof.Machine.execTqclr w s
  | .tmerge w => Sys2Proof.Machine.execTmerge w s
  | .xfft w => Sys2Proof.Machine.execXfft w s
  | .xifft w => Sys2Proof.Machine.execXifft w s
  | .xtrn w => Sys2Proof.Machine.execXtrn w s
  | .xtrnTurn w => Sys2Proof.Machine.execXtrnTurn w s
  | .xtrnBack w => Sys2Proof.Machine.execXtrnBack w s
  | .xcvt w => Sys2Proof.Machine.execXcvt w s
  | .xexp w => Sys2Proof.Machine.execXexp w s
  | .xsclS w => Sys2Proof.Machine.execXsclS w s
  | .xsclU w => Sys2Proof.Machine.execXsclU w s
  | .xmov w => Sys2Proof.Machine.execXmov w s
  | .xhdr w => Sys2Proof.Machine.execXhdr w s
  | .lds w => Sys2Proof.Machine.execLds w s
  | .sts w => Sys2Proof.Machine.execSts w s
  | .ldq w => Sys2Proof.Machine.execLdq w s
  | .stq w => Sys2Proof.Machine.execStq w s
  | .pref w => Sys2Proof.Machine.execPref w s
  | .stz w => Sys2Proof.Machine.execStz w s
  | .amoAdd w => Sys2Proof.Machine.execAmoAdd w s
  | .amoAnd w => Sys2Proof.Machine.execAmoAnd w s
  | .amoOr w => Sys2Proof.Machine.execAmoOr w s
  | .amoXor w => Sys2Proof.Machine.execAmoXor w s
  | .amoMin w => Sys2Proof.Machine.execAmoMin w s
  | .amoMax w => Sys2Proof.Machine.execAmoMax w s
  | .amoExch w => Sys2Proof.Machine.execAmoExch w s
  | .amoFadd w => Sys2Proof.Machine.execAmoFadd w s
  | .redAdd w => Sys2Proof.Machine.execRedAdd w s
  | .redAnd w => Sys2Proof.Machine.execRedAnd w s
  | .redOr w => Sys2Proof.Machine.execRedOr w s
  | .redXor w => Sys2Proof.Machine.execRedXor w s
  | .redMin w => Sys2Proof.Machine.execRedMin w s
  | .redMax w => Sys2Proof.Machine.execRedMax w s
  | .redFadd w => Sys2Proof.Machine.execRedFadd w s
  | .cas w => Sys2Proof.Machine.execCas w s
  | .join w => Sys2Proof.Machine.execJoin w s
  | .ldge w => Sys2Proof.Machine.execLdge w s
  | .fenceAcq w => Sys2Proof.Machine.execFenceAcq w s
  | .fenceRel w => Sys2Proof.Machine.execFenceRel w s
  | .fenceAr w => Sys2Proof.Machine.execFenceAr w s
  | .fenceSc w => Sys2Proof.Machine.execFenceSc w s
  | .sread w => Sys2Proof.Machine.execSread w s
  | .swrite w => Sys2Proof.Machine.execSwrite w s
  | .sreadx w => Sys2Proof.Machine.execSreadx w s
  | .swritex w => Sys2Proof.Machine.execSwritex w s
  | .sbcast w => Sys2Proof.Machine.execSbcast w s
  | .cvtaGal w => Sys2Proof.Machine.execCvtaGal w s
  | .cvtaOwn w => Sys2Proof.Machine.execCvtaOwn w s
  | .cvtaCore w => Sys2Proof.Machine.execCvtaCore w s
  | .cvtaOff w => Sys2Proof.Machine.execCvtaOff w s
  | .inapGlob w => Sys2Proof.Machine.execInapGlob w s
  | .inapSrf w => Sys2Proof.Machine.execInapSrf w s
  | .inapGal w => Sys2Proof.Machine.execInapGal w s
  | .inapLocal w => Sys2Proof.Machine.execInapLocal w s
  | .barArrive w => Sys2Proof.Machine.execBarArrive w s
  | .barWait w => Sys2Proof.Machine.execBarWait w s
  | .barSync w => Sys2Proof.Machine.execBarSync w s
  | .cacheIall w => Sys2Proof.Machine.execCacheIall w s
  | .cacheIline w => Sys2Proof.Machine.execCacheIline w s
  | .cacheDline w => Sys2Proof.Machine.execCacheDline w s
  | .cacheDall w => Sys2Proof.Machine.execCacheDall w s
  | .tlbiAll w => Sys2Proof.Machine.execTlbiAll w s
  | .tlbiAsid w => Sys2Proof.Machine.execTlbiAsid w s
  | .tlbiPage w => Sys2Proof.Machine.execTlbiPage w s
  | .tlbiRange w => Sys2Proof.Machine.execTlbiRange w s
  | .sload w => Sys2Proof.Machine.execSload w s
  | .sstore w => Sys2Proof.Machine.execSstore w s
  | .stileRd w => Sys2Proof.Machine.execStileRd w s
  | .stileWr w => Sys2Proof.Machine.execStileWr w s
  | .scopy w => Sys2Proof.Machine.execScopy w s
  | .scopyR w => Sys2Proof.Machine.execScopyR w s
  | .scopyM w => Sys2Proof.Machine.execScopyM w s
  | .sfill w => Sys2Proof.Machine.execSfill w s
  | .sfillR w => Sys2Proof.Machine.execSfillR w s
  | .sfillM w => Sys2Proof.Machine.execSfillM w s
  | .sgather w => Sys2Proof.Machine.execSgather w s
  | .sscadd w => Sys2Proof.Machine.execSscadd w s
  | .srecv w => Sys2Proof.Machine.execSrecv w s
  | .krun w => Sys2Proof.Machine.execKrun w s
  | .kwait w => Sys2Proof.Machine.execKwait w s
  | .kresume w => Sys2Proof.Machine.execKresume w s
  | .kresumeAbort w => Sys2Proof.Machine.execKresumeAbort w s
  | .swait w => Sys2Proof.Machine.execSwait w s
  | .swaitTest w => Sys2Proof.Machine.execSwaitTest w s
  | .swaitAll w => Sys2Proof.Machine.execSwaitAll w s
  | .barvArm w => Sys2Proof.Machine.execBarvArm w s
  | .barvArrive w => Sys2Proof.Machine.execBarvArrive w s
  | .barvWait w => Sys2Proof.Machine.execBarvWait w s
  | .sdgetW0 w => Sys2Proof.Machine.execSdgetW0 w s
  | .sdgetW1 w => Sys2Proof.Machine.execSdgetW1 w s
  | .sdputW0 w => Sys2Proof.Machine.execSdputW0 w s
  | .sdputW1 w => Sys2Proof.Machine.execSdputW1 w s
  | .sdrec w => Sys2Proof.Machine.execSdrec w s
  | .snop w => Sys2Proof.Machine.execSnop w s
  | .takeTrap core => Sys2Proof.Machine.execTakeTrap core s
  | .kernelBundleIssue core => Sys2Proof.Machine.execKernelBundleIssue core s
  | .fixedLatencyWrite core => Sys2Proof.Machine.execFixedLatencyWrite core s
  | .landing core => Sys2Proof.Machine.execLanding core s
  | .landingDataArrival core entry lost => Sys2Proof.Machine.execLandingDataArrival core entry lost s
  | .writeQueueAck core entry lost => Sys2Proof.Machine.execWriteQueueAck core entry lost s
  | .lateFault core => Sys2Proof.Machine.execLateFault core s
  | .tmmaPassComplete core => Sys2Proof.Machine.execTmmaPassComplete core s
  | .transformComplete core => Sys2Proof.Machine.execTransformComplete core s
  | .kernelStart core => Sys2Proof.Machine.execKernelStart core s
  | .kernelEnd core => Sys2Proof.Machine.execKernelEnd core s
  | .barrierArrivalCounted core => Sys2Proof.Machine.execBarrierArrivalCounted core s
  | .waitWatchdogExpiry core kernel => Sys2Proof.Machine.execWaitWatchdogExpiry core kernel s
  | .thresholdTimeoutExpiry core entry => Sys2Proof.Machine.execThresholdTimeoutExpiry core entry s
  | .stealRequest thief victim launchId => Sys2Proof.Machine.execStealRequest thief victim launchId s
  | .stealReturn thief launchId => Sys2Proof.Machine.execStealReturn thief launchId s
  | .scoreboardIssue core => Sys2Proof.Machine.execScoreboardIssue core s
  | .engineComplete core seq => Sys2Proof.Machine.execEngineComplete core seq s
  | .gatePass core seq => Sys2Proof.Machine.execGatePass core seq s
  | .gateWatchdogExpiry core seq => Sys2Proof.Machine.execGateWatchdogExpiry core seq s
  | .tileRequest core seq => Sys2Proof.Machine.execTileRequest core seq s
  | .launch queue => Sys2Proof.Machine.execLaunch queue s
  | .grantGroup launchId die base => Sys2Proof.Machine.execGrantGroup launchId die base s
  | .launchComplete launchId => Sys2Proof.Machine.execLaunchComplete launchId s
  | .barrierPacket queue => Sys2Proof.Machine.execBarrierPacket queue s
  | .codePacket queue => Sys2Proof.Machine.execCodePacket queue s
  | .unloadPacket queue => Sys2Proof.Machine.execUnloadPacket queue s
  | .signalPacket queue => Sys2Proof.Machine.execSignalPacket queue s
  | .qwriteWrite queue value => Sys2Proof.Machine.execQwriteWrite queue value s
  | .qctlEnable queue value => Sys2Proof.Machine.execQctlEnable queue value s
  | .preemptHold value => Sys2Proof.Machine.execPreemptHold value s
  | .preemptRelease value => Sys2Proof.Machine.execPreemptRelease value s
  | .keyWrite value => Sys2Proof.Machine.execKeyWrite value s
  | .keyEmpty value => Sys2Proof.Machine.execKeyEmpty value s
  | .keyQuery value => Sys2Proof.Machine.execKeyQuery value s
  | .keyOpDone => Sys2Proof.Machine.execKeyOpDone s
  | .moduleStart value retained => Sys2Proof.Machine.execModuleStart value retained s
  | .startStepComplete ok => Sys2Proof.Machine.execStartStepComplete ok s
  | .registerWrite offset value => Sys2Proof.Machine.execRegisterWrite offset value s
  | .preemptRequest launchId die base => Sys2Proof.Machine.execPreemptRequest launchId die base s
  | .graceExpiry core => Sys2Proof.Machine.execGraceExpiry core s
  | .save core => Sys2Proof.Machine.execSave core s
  | .saveWrite core => Sys2Proof.Machine.execSaveWrite core s
  | .restore core => Sys2Proof.Machine.execRestore core s
  | .restoreGrant launchId die base => Sys2Proof.Machine.execRestoreGrant launchId die base s
  | .quiesce stack value => Sys2Proof.Machine.execQuiesce stack value s
  | .hsmaskWrite stack index value => Sys2Proof.Machine.execHsmaskWrite stack index value s
  | .maskerrClear stack value => Sys2Proof.Machine.execMaskerrClear stack value s
  | .heartbeat stack => Sys2Proof.Machine.execHeartbeat stack s
  | .heartbeatMissed stack => Sys2Proof.Machine.execHeartbeatMissed stack s
  | .takeoverAck stack => Sys2Proof.Machine.execTakeoverAck stack s
  | .refreshWindowExpiry stack => Sys2Proof.Machine.execRefreshWindowExpiry stack s
  | .poisonDetect err place => Sys2Proof.Machine.execPoisonDetect err place s
  | .writebackFailure stack offset core => Sys2Proof.Machine.execWritebackFailure stack offset core s
  | .selftest unit => Sys2Proof.Machine.execSelftest unit s
  | .selftestComplete unit pass => Sys2Proof.Machine.execSelftestComplete unit pass s
  | .groupAbortExpiry core => Sys2Proof.Machine.execGroupAbortExpiry core s
  | .bridgeFailure die => Sys2Proof.Machine.execBridgeFailure die s
  | .remoteRequest req => Sys2Proof.Machine.execRemoteRequest req s
  | .remoteTimeoutExpiry core entry => Sys2Proof.Machine.execRemoteTimeoutExpiry core entry s
  | .lrtEnable entry value => Sys2Proof.Machine.execLrtEnable entry value s
  | .lrtDisable entry value => Sys2Proof.Machine.execLrtDisable entry value s
  | .exchangeRoundBegin entry replica => Sys2Proof.Machine.execExchangeRoundBegin entry replica s
  | .exchange entry replica => Sys2Proof.Machine.execExchange entry replica s
  | .exchangeFailure entry replica => Sys2Proof.Machine.execExchangeFailure entry replica s
  | .frameReceive port frame => Sys2Proof.Machine.execFrameReceive port frame s
  | .ringBind port ring value => Sys2Proof.Machine.execRingBind port ring value s
  | .counterClear port ring counter value => Sys2Proof.Machine.execCounterClear port ring counter value s
  | .prgResponse tag code => Sys2Proof.Machine.execPrgResponse tag code s
  | .atsInvalidate asid va => Sys2Proof.Machine.execAtsInvalidate asid va s
  | .lineCommit line new commit => Sys2Proof.Machine.execLineCommit line new commit s
  | .powerCapExceeded => Sys2Proof.Machine.execPowerCapExceeded s
  | .thermalHot => Sys2Proof.Machine.execThermalHot s
  | .thermalCrit => Sys2Proof.Machine.execThermalCrit s
  | .hostLinkDown => Sys2Proof.Machine.execHostLinkDown s
  | .debugHalt core => Sys2Proof.Machine.execDebugHalt core s
  | .kibryPortTrained port => Sys2Proof.Machine.execKibryPortTrained port s
  | .kibryPortLost port => Sys2Proof.Machine.execKibryPortLost port s

end Sys2Proof.Machine
end

