-- ==== Sys2Proof/Machine/Fetch.lean ====
section
/-! DEFINITION. What a CP does before a word executes: taking a pending cause, fetching, and the traps of fetch and
decode (R16-R19, R36, R56-R72, R442); and placing an instruction where the next step runs it. -/

namespace Sys2Proof.Machine

/-! ## Fetch (R18, R19) -/

def fetchTrap (c : Cause) (pc : Word) (detail : BitVec 32) : Trap := { cause := c, addr := pc, detail, fetch := true }

def fetchAccess (s : State) : Access := { core := s.focus, asid := s.core.cp.asid, sup := s.core.cp.mode, fetch := true }

/-- The word at the place of a fetch, read from memory: a failed bridge and poison trap, and a quiesced stack is waited
for (R274, R417, R440). -/
def fetchRead (s : State) (pc : Word) : Loc → Except Stop Word
  | .stk p k o =>
    let key := cellKey s p k o
    if p != s.md.pkg.toNat then .error (.trap (fetchTrap .remoteReject pc 0) s)
    else if bridgeCut s (coreDie s.focus) p k then .error (.trap (fetchTrap .remoteTimeout pc 0) s)
    else if quiesced s key then .error (.hold s)
    else
      match metPoison s key false with
      | some (c, s') => .error (.trap (fetchTrap c pc 0) s')
      | none => .ok (BitVec.ofNat 64 (leNat (locBytes s (.stk p k o) 8)))
  | l => .ok (BitVec.ofNat 64 (leNat (locBytes s l 8)))

/-- The word that the instruction cache holds for an address whose word of memory is `place`: one that a CODE packet has
written since is not held (R19, R484). -/
def cachedWord (s : State) (pc : Word) (place : Nat) : Option Word :=
  (s.core.cp.icache.find? fun x => x.asid == s.core.cp.asid && x.pc == pc && !setHas place x.patched).map (·.word)

/-- A fetched word is held, with the place in memory that it came from; a word that is held already stays as it is. -/
def cacheWord (s : State) (pc w : Word) (place : Nat) : State :=
  let a := s.core.cp.asid
  if cachedWord s pc place == some w then s
  else s.onCp fun c => { c with icache := ⟨a, pc, w, place, []⟩ :: c.icache.filter fun x => !(x.asid == a && x.pc == pc) }

/-- The cached word or the one in memory: either, where they differ (R19, R7). -/
def chooseWord (s : State) (old : Option Word) (now : Except Stop Word) : State × Except Stop Word :=
  match old with
  | none => (s, now)
  | some w =>
    if now.toOption == some w then (s, now)
    else ({ s with fresh := s.fresh + 1 }, if Config.freeChoice s.fresh then .ok w else now)

/-- The state that a stop carries, replaced. -/
def Stop.withState (s : State) : Stop → Stop
  | .trap t _ => .trap t s
  | .wait _ => .wait s
  | .waitAt a _ => .waitAt a s
  | .hold _ => .hold s
  | .final _ => .final s

/-- The word at PC (R18, orders 1-3), or what stops its fetch. -/
def fetchWord (s : State) : Except Stop (Word × State) := do
  let pc := s.core.cp.pc
  if pc.toNat % 8 != 0 then .error (.trap (fetchTrap .fetchAlign pc 0) s)
  else if fld pc 56 8 != 0 then .error (.trap (fetchTrap .aperture pc 0) s)
  else
    let a := fetchAccess s
    let (p, s) ← translate s a pc.toNat 8
    if p.lattice != 0 then .error (.trap (fetchTrap .latticeType pc 0) s)
    else if p.pa / 2 ^ 41 != s.md.pkg.toNat then .error (.trap (fetchTrap .remoteReject pc 0) s)
    else
      let t ← place s a pc.toNat p
      let place := t.loc.key s / 8
      let (s', r) := chooseWord s (cachedWord s pc place) (fetchRead s pc t.loc)
      match r with
      | .ok w => .ok (w, cacheWord s' pc w place)
      | .error x => .error x

/-- A fetch at the launch entry that fails before the runtime has set CTVEC stops the core (R16). -/
def fetchFails (s : State) (t : Trap) : State :=
  if !s.core.cp.vecSet && s.core.cp.pc == s.md.rtEntry then fatalStop s .machineCheck
  else takeSync s t 0 s.core.cp.pc

/-- What a stopped fetch leaves. -/
def fetchStops (x : Stop) : State :=
  match x with
  | .trap t s => fetchFails s t
  | .wait s => s
  | .waitAt _ s => s
  | .hold s => s
  | .final s => s

/-! ## The turn of a CP up to execution (R17, R36, R72) -/

/-- What a CP does in its turn. -/
inductive CpNext where
  /-- No word executes: the state that the turn leaves. -/
  | done (s : State)
  /-- The word at PC executes. -/
  | run (i : Instr) (s : State)
  deriving DecidableEq, Repr

def cpEnv (s : State) : Env := ⟨.cp, 0, accepted s 0⟩

/-- A fetched word is decoded: it executes, advances the PC, or traps (R10, R18 order 4, R72). -/
def afterDecode (s : State) (w : Word) : Decoded → CpNext
  | .ok i => .run i { s.onCp fun c => { c with fetched := w } with place := .cp, limm := 0, scope := 0 }
  | .never => .done (advance s)
  | .zero => .done (fetchFails s (fetchTrap .zeroWord s.core.cp.pc 0))
  | .bad t => .done (takeSync s t (opcOf w) s.core.cp.pc)

/-- A pending cause that may be taken comes before the word (R36). -/
def pendingNow (s : State) : Bool := mayTake s.core.cp && !s.core.cp.pending.isEmpty

/-- The word at PC: one that waits has been fetched (R37, R151). -/
def currentWord (s : State) : Except Stop (Word × State) :=
  if s.core.cp.wait.any fun w => w.pc == s.core.cp.pc then .ok (s.core.cp.fetched, s) else fetchWord s

/-- The turn of the focused core's CP up to execution. -/
noncomputable def cpNext (s : State) : CpNext :=
  if s.core.cp.run != .running then .done s
  else if pendingNow s then .done (takePending s)
  else
    match currentWord s with
    | .error x => .done (fetchStops x)
    | .ok (w, s') => afterDecode s' w (decodeWord (cpEnv s') w)

/-! ## Placing an instruction where the next step runs it -/

/-- A CP that is about to fetch: a PC that can be fetched, no wait, nothing pending. -/
def readyCp (c : CP) : CP :=
  { c with
    pc := if c.pc.toNat % 8 == 0 && fld c.pc 56 8 == 0 then c.pc else 0
    run := .running
    pending := []
    wait := none
    work := .idle
    icache := []
    remote := none }

def putWords (s : State) (pa : Nat) (l : List Word) : State :=
  let (k, o) := interleave 0 (pa % 2 ^ 40)
  stkPut s s.md.pkg.toNat k o (wordsBytes l)

/-- An address-space table at local page 0 whose entries for the CP's ASID give one range: the page of PC, readable,
writable, executable and a user page, at local page 2; and the word there. -/
def placeForCp (s : State) (w : Word) : State :=
  let cp := readyCp { s.core.cp with casid := 0 }
  let home := s.md.pkg.toNat * 2 ^ 41
  let page := cp.pc.toNat / 4096 * 4096
  let s := { s with
    core := { s.core with
      cp
      kern := { s.core.kern with issuing := none }
      prog := s.core.prog.or (some ⟨s.nextLaunch, coreNum s.focus, 1, 0⟩) }
    agenda := .cp s.focus :: s.agenda
    tlb := []
    poison := []
    unmet := []
    migrating := []
    hbm := s.hbm.map fun k => { k with quiesce := false, failed := false }
    md := { s.md with astBase := BitVec.ofNat 64 home, astLen := 1, deadBridges := [], faccept := s.md.faccept ||| 1 } }
  let s := putWords s home [1, BitVec.ofNat 64 (home + 4096 + 1), 0, 0, 0, 0, 0, 0]
  let s := putWords s (home + 4096)
    [BitVec.ofNat 64 (page + 1), BitVec.ofNat 64 page, BitVec.ofNat 64 (home + 8192), 0xF]
  putWords s (home + 8192 + cp.pc.toNat % 4096) [w]

/-- A word that no CP executes stands alone in a bundle that has begun to commit. -/
def placeForSlot (s : State) (n : Nat) (w : Word) : State :=
  let k := s.core.kern
  let b : Issue :=
    { limm := 0, scope := 0, stall := 0, hold := 0, words := [(BitVec.ofNat 3 n, w)], delay := 0, software := none,
      again := false }
  { s with
    core := { s.core with
      cp := { s.core.cp with run := .running }
      kern := { k.setState 1 with issuing := some b, stop := none } }
    md := { s.md with faccept := s.md.faccept ||| 1 } }

def placeWord (s : State) (w : Word) : State :=
  let p := placeOf (opcOf w)
  if p == .cp then placeForCp s w else placeForSlot s (slotNum p) w

end Sys2Proof.Machine
end

