-- ==== Sys2Proof/Machine/Step.lean ====
section
/-! DEFINITION. One step of the machine: the next slot word of a bundle in issue, or the turn that the schedule gives. -/

namespace Sys2Proof.Machine

/-- What follows a slot word: its bundle goes on or ends. -/
def afterSlot : Host.Outcome State Fault Refusal → Host.Outcome State Fault Refusal
  | .next s => .next (slotDone s)
  | .fault f => .fault f
  | .refused r => .refused r

/-- Some cycles pass (R30, R97; log 3). -/
def tick (s : State) : State := { s with clock := s.clock + Config.elapsed s.fresh, fresh := s.fresh + 1 }

/-- The turn of the focused core's CP. -/
noncomputable def cpTurn (s : State) : Host.Outcome State Fault Refusal :=
  match cpNext s with
  | .done s' => .next s'
  | .run i s' => exec i s'

/-- A turn of the schedule. A word is no event: it executes only where it stands (R7). -/
noncomputable def takeTurn (s : State) : Turn → Host.Outcome State Fault Refusal
  | .cp n => cpTurn (s.focusOn n)
  | .kernel n =>
    match slotNext (s.focusOn n) with
    | some (i, s') => afterSlot (exec i s')
    | none => .next (kernelTurn (s.focusOn n))
  | .stream n => .next (streamTurn (s.focusOn n))
  | .event i => if (Instr.raw i).isNone then exec i s else .next s

/-- One step. With no turn scheduled, the focused core's CP acts. -/
noncomputable def step (s : State) : Host.Outcome State Fault Refusal :=
  match slotFirst s with
  | some (i, s') => afterSlot (exec i s')
  | none =>
    match s.agenda with
    | [] => cpTurn (tick s)
    | t :: rest => takeTurn (tick { s with agenda := rest }) t

/-- The state with an instruction placed where the next step runs it: at PC, or alone in a bundle (log 18). -/
def State.withFetchWord (s : State) (nbits w : Nat) : State := placeWord s (BitVec.ofNat 64 (w % 2 ^ nbits))

end Sys2Proof.Machine
end

