-- ==== Sys2Proof/Safety.lean ====
section
/-! DEFINITION. What claims about the machine are stated in: the form that every step keeps, and what a word leaves when
it delivers its result. -/

namespace Sys2Proof.Safety

open Sys2Proof.Machine

/-! ## The form every step keeps -/

/-- HBM, every SRF and the host window are in canonical form: addresses strictly rising, no byte listed that reads as an
unlisted one (R240, R264, R488, R461); the parked cores are listed once each, in order, the focused core not among
them. -/
abbrev Canonical (s : State) : Prop :=
  Memory.wf s.mem = true ∧ hostFrom 0 s.hostMem = true ∧ Memory.wf s.core.srf = true ∧
    (∀ x ∈ s.parked, Memory.wf x.2.srf = true) ∧ (∀ x ∈ s.saved, Memory.wf x.image.srf = true) ∧
    keysFrom 0 s.parked = true ∧ lookupNum s.focus s.parked = none

/-! ## Where a word stands -/

/-- The word executes on the control processor, and its guard holds (R57). -/
abbrev OnCp (s : State) (g : BitVec 4) : Prop := s.place = .cp ∧ guardHolds s g = true

/-- The word executes in a slot of a bundle, and its guard holds (R57). -/
abbrev InSlot (s : State) (g : BitVec 4) : Prop := s.place ≠ .cp ∧ guardHolds s g = true

/-! ## What a word leaves -/

/-- A CP word has ended: the PC has advanced by 8 and no wait is left (R17); outside the CP nothing has changed. -/
def cpDone (s : State) (c : CP) : State := s.withCp { c with pc := s.core.cp.pc + 8, wait := none }

/-- A CP word that raised `fl` and wrote `v` to register `d`: nothing else has changed. -/
def cpGives (s : State) (d : BitVec 6) (v : Word) (fl : Flags) : State :=
  cpDone s { s.core.cp.writeG (d.setWidth 5) v with cflags := s.core.cp.cflags ||| fl.setWidth 64 }

/-- A CP word that raised `fl` and wrote `v` to predicate `d`. -/
def cpGivesPred (s : State) (d : BitVec 6) (v : Bool) (fl : Flags) : State :=
  cpDone s { s.core.cp with
    p := writePred s.core.cp.p (d.setWidth 3) v, cflags := s.core.cp.cflags ||| fl.setWidth 64 }

/-- A slot word whose result becomes visible `lat` cycles of kernel time after its issue (R119). -/
def slotWrites (s : State) (lat : Nat) (x : KWrite) : State :=
  s.withKern { s.core.kern with
    seq := s.core.kern.seq + 1
    pend := s.core.kern.pend ++ [{ due := s.core.kern.ktime + lat, seq := s.core.kern.seq, what := x }] }

/-- KFLAGS has gained `fl` (R55). -/
def slotRaises (s : State) (fl : Flags) : State :=
  s.withKern { s.core.kern with kflags := s.core.kern.kflags ||| fl.setWidth 64 }

/-- An S-slot word that raised `fl` and writes `v` to register `d`; a write to k0 is discarded (R106). -/
def slotGives (s : State) (lat : Nat) (d : BitVec 6) (v : Word) (fl : Flags) : State :=
  if d.setWidth 5 = (0 : BitVec 5) then slotRaises s fl else slotWrites (slotRaises s fl) lat (.k (d.setWidth 5) v)

/-- An S-slot word that raised `fl` and writes `v` to predicate `d`; a write to p0 is discarded (R106). -/
def slotGivesPred (s : State) (d : BitVec 6) (v : Bool) (fl : Flags) : State :=
  if d.setWidth 3 = (0 : BitVec 3) then slotRaises s fl else slotWrites (slotRaises s fl) 1 (.p (d.setWidth 3) v)

/-- The unit of a long operation accepts the next one `n` cycles of kernel time later (R118). -/
def unitBusy (s : State) (u : Fin 4) (n : Nat) : State :=
  s.withKern { s.core.kern with busy := s.core.kern.busy.set u (s.core.kern.ktime + n) }

/-- The word delivers `v` in general register D with the flags `fl`, on the CP at once and in the S slot after `lat`
cycles. Nothing else of the machine changes. -/
def Delivers (i : Instr) (s : State) (lat : Nat) (d : BitVec 6) (v : Word) (fl : Flags) : Prop :=
  exec i s = .next (if s.place = .cp then cpGives s d v fl else slotGives s lat d v fl)

/-- The word delivers `v` in predicate D with the flags `fl`. Nothing else of the machine changes. -/
def DeliversPred (i : Instr) (s : State) (d : BitVec 6) (v : Bool) (fl : Flags) : Prop :=
  exec i s = .next (if s.place = .cp then cpGivesPred s d v fl else slotGivesPred s d v fl)

/-- None of the flags is enabled to trap (R55). -/
abbrev NoTrap (s : State) (fl : Flags) : Prop := fl &&& scalarEnables s = 0

/-! ## What a vector word leaves (R119, R176, R178) -/

/-- The flags that each lane raises: those of the elements that `on` selects (R176). -/
def lanesRaise (nel : Nat) (on : Nat → Nat → Bool) (f : Nat → Nat → Nat × Flags) : LaneFlags :=
  Vector.ofFn fun l => orFlags ((List.range nel).map fun j => if on l.val j then (f l.val j).2 else 0)

/-- No lane raises a flag that it enables to trap (R176). -/
def NoLaneTrap (s : State) (fl : LaneFlags) : Prop := ∀ l : Fin 16, fl.get l &&& laneEn s l.val = 0

/-- A vector word whose results become visible `lat` cycles of kernel time after its issue, the raised flags with them. -/
def lanesGive (s : State) (lat : Nat) (out : List KWrite) (fl : LaneFlags) : State :=
  let t := out.foldl (fun t x => slotWrites t lat x) s
  if fl = Vector.replicate 16 0 then t else slotWrites t lat (.laneFlags fl)

/-- Some lane raises flag `i` and enables it (R176). -/
def flagHit (s : State) (fl : LaneFlags) (i : Nat) (l : Fin 16) : Bool := (fl.get l &&& laneEn s l.val).getLsbD i

/-- Where some lane raises a flag that it enables, the word writes nothing and faults its slot with the cause of the lowest
such flag; LMASK names the lanes that raise and enable it, LANE the lowest of them (R113, R176, R406). -/
def FaultsOnFlags (i : Instr) (s : State) (fl : LaneFlags) : Prop :=
  ∀ (r : Raw) (b : Nat), Instr.raw i = some r → b < 7 → (∃ l, flagHit s fl b l = true) →
    (∀ c < b, ∀ l, flagHit s fl c l = false) →
    ∃ (lane : Fin 16) (mask : BitVec 16),
      exec i s = .next (slotFault s { cause := flagCause b, lane := BitVec.ofNat 4 lane.val, lmask := mask } r.opc) ∧
      (∀ l : Fin 16, mask.getLsbD l.val = flagHit s fl b l) ∧ flagHit s fl b lane = true ∧
      ∀ l : Fin 16, l.val < lane.val → flagHit s fl b l = false

/-- The word writes vD: element j of lane l, of `n` bits, becomes `f l j` where `on` selects it, and stays
elsewhere; or some lane's flag faults its slot. -/
def GivesElements (i : Instr) (s : State) (lat : Nat) (d : BitVec 6) (n : Nat) (on : Nat → Nat → Bool)
    (f : Nat → Nat → Nat × Flags) : Prop :=
  let fl := lanesRaise (256 / n) on f
  FaultsOnFlags i s fl ∧ (NoLaneTrap s fl → ∃ x : VecReg, exec i s = .next (lanesGive s lat [.v d x] fl) ∧
    ∀ l j, l < 16 → j < 256 / n →
      vElem x n l j = if on l j then (f l j).1 % 2 ^ n else vElem (readV s d) n l j)

/-- The machine goes on: the step answers a next state. -/
def GoesOn (s : State) : Prop := ∃ s', step s = .next s'

end Sys2Proof.Safety
end

