-- ==== Sys2Proof/Certificates/Slice0/Obligations.lean ====
section
/-! DEFINITION. The statements for the provers. A statement about a word says the whole next state, so that it says what
the word leaves unchanged too; a word is taken with its guard true and, where flags are raised, with none of them enabled
to trap, and what a false guard or an enabled flag does is stated beside. -/

open Sys2Proof Sys2Proof.Machine Sys2Proof.Safety

/-! ## Numbers (R40-R42, R83) -/

namespace Sys2Proof.Claims

/-- A register value read as an integer of a type: the low bits, two's complement or unsigned (R40, R83). -/
def intOf (t : BitVec 5) (x : Word) : Int :=
  if tySigned t then (x.setWidth (tyWidth t)).toInt else ((x.setWidth (tyWidth t)).toNat : Int)

/-- The least and the greatest integer of a type (R40). -/
def tyMin (t : BitVec 5) : Int := if tySigned t then -2 ^ (tyWidth t - 1) else 0
def tyMax (t : BitVec 5) : Int := if tySigned t then 2 ^ (tyWidth t - 1) - 1 else 2 ^ tyWidth t - 1

/-- An exact integer as a register value of a type (R41): with SAT the nearest integer of the type, without it the low
bits, extended to 64 by the type's sign. -/
def narrowed (t : BitVec 5) (sat : Bool) (x : Int) : Word :=
  if sat then BitVec.ofInt 64 (max (tyMin t) (min (tyMax t) x))
  else if tySigned t then (BitVec.ofInt (tyWidth t) x).signExtend 64
  else (BitVec.ofInt (tyWidth t) x).setWidth 64

/-- IV: a signed result out of range (R42). -/
def overflows (t : BitVec 5) (x : Int) : Flags := if tySigned t ∧ (x < tyMin t ∨ tyMax t < x) then flIV else 0

/-- The word gives the exact integer `x` in the type and under the SAT of the word. -/
def GivesInt (i : Instr) (s : State) (lat : Nat) (d : BitVec 6) (t : BitVec 5) (sat : Bool) (x : Int) : Prop :=
  NoTrap s (overflows t x) → Delivers i s lat d (narrowed t sat x) (overflows t x)

end Sys2Proof.Claims

open Sys2Proof.Claims

/-- R84: the integer words narrow the exact result. `mulh` gives the high half, `abs` and `neg` one operand. -/
def Sys2Proof.Claims.IntegerWordsNarrowTheExactResult : Prop :=
  ∀ (w : RForm) (s : State), guardHolds s w.guard = true →
    let a := intOf w.ty (readR s w.a)
    let b := intOf w.ty (opB s w (tyUnsigned w.ty))
    let gives (i : Instr) (lat : Nat) (x : Int) := GivesInt i s lat w.d w.ty (w.sat == 1) x
    gives (.add w) 1 (a + b) ∧ gives (.sub w) 1 (a - b) ∧ gives (.mul w) 3 (a * b) ∧
      gives (.mulh w) 4 (a * b / 2 ^ tyWidth w.ty) ∧ gives (.min w) 1 (min a b) ∧ gives (.max w) 1 (max a b) ∧
      gives (.abs w) 1 |a| ∧ gives (.neg w) 1 (-a)

/-- R43, R84: `div` truncates toward zero and `rem` takes the sign of the dividend; the divider is busy for 36 cycles
of kernel time. A zero divisor traps INT_DIVZERO and writes nothing. That the divider, for integers, is a unit of its
own beside that of `fdiv` and `fsqrt` is deduced (log entry 20). -/
def Obligations.DivisionTruncatesAndZeroDivisorTraps : Prop :=
  ∀ (w : RForm) (s : State), guardHolds s w.guard = true →
    let a := intOf w.ty (readR s w.a)
    let b := intOf w.ty (opB s w (tyUnsigned w.ty))
    let t := w.ty
    let busy (x : State) : State := if s.place = .cp then x else unitBusy x 0 36
    let after (v : Int) : State :=
      if s.place = .cp then cpGives s w.d (narrowed t (w.sat == 1) v) (overflows t v)
      else slotGives s 36 w.d (narrowed t (w.sat == 1) v) (overflows t v)
    (b ≠ 0 → NoTrap s (overflows t (a.tdiv b)) → exec (.div w) s = .next (busy (after (a.tdiv b)))) ∧
      (b ≠ 0 → NoTrap s (overflows t (a.tmod b)) → exec (.rem w) s = .next (busy (after (a.tmod b)))) ∧
      (b = 0 → exec (.div w) s = .next (stopWord s 0x05 (.trap { cause := .intDivzero } s))) ∧
      (b = 0 → exec (.rem w) s = .next (stopWord s 0x06 (.trap { cause := .intDivzero } s)))

/-- R55: an integer word whose overflow flag is raised and enabled traps INT_OVERFLOW and changes nothing else: on the
CP it enters the trap at its own PC, in the S slot it splits the bundle. That a trapped word sets no flag, as R55 has
it, and not as R26, is deduced (log entry 19). -/
def Sys2Proof.Claims.EnabledOverflowTraps : Prop :=
  ∀ (w : RForm) (s : State), guardHolds s w.guard = true → (scalarEnables s).getLsbD 5 = true →
    let a := intOf w.ty (readR s w.a)
    let b := intOf w.ty (opB s w (tyUnsigned w.ty))
    let traps (i : Instr) (opc : BitVec 8) (x : Int) : Prop :=
      overflows w.ty x = flIV →
        exec i s = .next (if s.place = .cp then takeSync s { cause := .intOverflow } opc s.core.cp.pc
          else slotFault s { cause := .intOverflow } opc)
    traps (.add w) 0x01 (a + b) ∧ traps (.sub w) 0x02 (a - b) ∧ traps (.mul w) 0x03 (a * b) ∧
      traps (.abs w) 0x09 |a| ∧ traps (.neg w) 0x0A (-a)

/-- R85, R86: the logical words and shifts act on all 64 bits, the shift amount is taken modulo 64, and no flag is
raised. The immediate forms use the immediate, zero-extended. -/
def Sys2Proof.Claims.LogicalWordsActOnSixtyFourBits : Prop :=
  ∀ (w : RForm) (v : IForm) (s : State),
    (guardHolds s w.guard = true →
      let a := readR s w.a
      let b := opB s w true
      let gives (i : Instr) (x : Word) := Delivers i s 1 w.d x 0
      gives (.and w) (a &&& b) ∧ gives (.or w) (a ||| b) ∧ gives (.xor w) (a ^^^ b) ∧ gives (.andn w) (a &&& ~~~b) ∧
        gives (.shl w) (a <<< (b.toNat % 64)) ∧ gives (.shr w) (a >>> (b.toNat % 64)) ∧
        gives (.sra w) (a.sshiftRight (b.toNat % 64))) ∧
    (guardHolds s v.guard = true →
      let a := readR s v.a
      let b := v.imm.setWidth 64
      let gives (i : Instr) (x : Word) := Delivers i s 1 v.d x 0
      gives (.andi v) (a &&& b) ∧ gives (.ori v) (a ||| b) ∧ gives (.xori v) (a ^^^ b) ∧ gives (.andni v) (a &&& ~~~b) ∧
        gives (.shli v) (a <<< (b.toNat % 64)) ∧ gives (.shri v) (a >>> (b.toNat % 64)) ∧
        gives (.srai v) (a.sshiftRight (b.toNat % 64)))

/-- R85: `bcnt` counts the one bits, the zero bits above the highest one and those below the lowest one; both of the
last are 64 for 0. -/
def Sys2Proof.Claims.BitCountsCountBits : Prop :=
  ∀ (w : RForm) (s : State), guardHolds s w.guard = true →
    let a := readR s w.a
    let ones := (List.range 64).filter fun i => a.getLsbD i
    let high := (List.range 64).reverse.takeWhile fun i => !a.getLsbD i
    let low := (List.range 64).takeWhile fun i => !a.getLsbD i
    Delivers (.bcntPop w) s 1 w.d (BitVec.ofNat 64 ones.length) 0 ∧
      Delivers (.bcntClz w) s 1 w.d (BitVec.ofNat 64 high.length) 0 ∧
      Delivers (.bcntCtz w) s 1 w.d (BitVec.ofNat 64 low.length) 0

namespace Sys2Proof.Claims

/-- The type that an I form names in FN[3:0] (R86, R87). -/
def tyOfFn (v : IForm) : BitVec 5 := (v.fn.extractLsb' 0 4).setWidth 5

/-- The 32-bit immediate of `addi` and `cmpi` under a type (R66). -/
def immOf (t : BitVec 5) (imm : BitVec 32) : Word := if tyUnsigned t then imm.setWidth 64 else imm.signExtend 64

/-- A mask of `n` low bits. -/
def lowMask (n : Nat) : Word := ((1 : Word) <<< n) - 1

end Sys2Proof.Claims

/-- R86: the immediate moves and additions, `lea`, `pcrel` and the bit-field words, none of which raises a flag.
`movi` of f32 copies the pattern; of f64 it converts it exactly. -/
def Obligations.ImmediateWordsDeliverTheirValue : Prop :=
  ∀ (w : RForm) (v : IForm) (s : State),
    (guardHolds s w.guard = true → Delivers (.lea w) s 1 w.d (readR s w.a + opB s w true <<< w.fn.toNat) 0) ∧
    (guardHolds s v.guard = true →
      let a := readR s v.a
      let old := readR s v.d
      let t := tyOfFn v
      let gives (i : Instr) (x : Word) := Delivers i s 1 v.d x 0
      let pos := (v.imm.extractLsb' 0 6).toNat
      let len := (v.imm.extractLsb' 8 7).toNat
      let base : Word := if s.place = .cp then s.core.cp.pc else (s.core.kern.kpc.extractLsb' 0 11).setWidth 64
      gives (.addi v) (narrowed t (v.fn.getLsbD 4) (intOf t a + intOf t (immOf t v.imm))) ∧
        (tyIsInt t = true → gives (.movi v) (narrowed t false (intOf t (immOf t v.imm)))) ∧
        (t = 9 → gives (.movi v) (v.imm.setWidth 64)) ∧
        (t = 8 → (decodeFloat fmtF32 v.imm.toNat).isNaN = true → gives (.movi v) 0x7FF8000000000000) ∧
        (t = 8 → (decodeFloat fmtF32 v.imm.toNat).isNaN = false →
          gives (.movi v) (BitVec.ofNat 64 (deliver fmtF64 0 false (decodeFloat fmtF32 v.imm.toNat)).1)) ∧
        gives (.movh v) (v.imm ++ old.extractLsb' 0 32) ∧
        gives (.pcrel v) (base + v.imm.signExtend 64) ∧
        (1 ≤ len → pos + len ≤ 64 →
          gives (.bfxZ v) ((a >>> pos) &&& lowMask len) ∧
            gives (.bfxS v) (((a >>> pos).setWidth len).signExtend 64) ∧
            gives (.bfxI v) ((old &&& ~~~(lowMask len <<< pos)) ||| ((a &&& lowMask len) <<< pos))))

namespace Sys2Proof.Claims

/-- Truth of a compare condition on two operands, `none` when they are unordered (R87). -/
def holds (c : Nat) (o : Option Ordering) : Bool :=
  match c with
  | 0 => o == some .eq
  | 1 => o != some .eq
  | 2 => o == some .lt
  | 3 => o == some .lt || o == some .eq
  | 4 => o == some .gt
  | 5 => o == some .gt || o == some .eq
  | 6 => o == none
  | 7 => o != none
  | _ => false

/-- The order of two operands of a type: integers by value, floating operands as numbers, read under FLUSH (R87). -/
def order (s : State) (t : BitVec 5) (a b : Word) : Option Ordering :=
  if tyIsInt t then some (compare (intOf t a) (intOf t b)) else cmpV (fArg s t a.toNat) (fArg s t b.toNat)

/-- NV of a compare: any NaN for an ordering condition, a signalling one for the others (R87). -/
def compareFlags (s : State) (t : BitVec 5) (c : Nat) (a b : Word) : Flags :=
  let x := fArg s t a.toNat
  let y := fArg s t b.toNat
  if tyIsInt t then 0
  else if (2 ≤ c ∧ c ≤ 5 ∧ (x.isNaN || y.isNaN) = true) ∨ (x.nv || y.nv) = true then flNV else 0

end Sys2Proof.Claims

/-- R87: `cmp` and `cmpi` write the truth of their condition, `cmp` combined with the old predicate. -/
def Obligations.ComparesWriteTheConditionsTruth : Prop :=
  ∀ (w : RForm) (v : IForm) (s : State),
    (guardHolds s w.guard = true →
      let a := readR s w.a
      let b := if tyIsInt w.ty then opB s w (tyUnsigned w.ty) else BitVec.ofNat 64 (opBFloat s w)
      let c := (w.fn.extractLsb' 0 4).toNat
      let x := holds c (order s w.ty a b)
      let old := readP s (w.d.setWidth 3)
      let fl := compareFlags s w.ty c a b
      let gives (y : Bool) : Prop := NoTrap s fl → DeliversPred (.cmp w) s w.d y fl
      c < 8 → (w.fn.extractLsb' 6 2 = 0 → gives x) ∧ (w.fn.extractLsb' 6 2 = 1 → gives (old && x)) ∧
        (w.fn.extractLsb' 6 2 = 2 → gives (old || x))) ∧
    (guardHolds s v.guard = true →
      let t := tyOfFn v
      let a := readR s v.a
      let b := if tyIsInt t then immOf t v.imm else BitVec.ofNat 64 (fimm (tyFmt t) v.imm.toNat 32)
      let c := (v.fn.extractLsb' 4 4).toNat
      let fl := compareFlags s t c a b
      c < 8 → NoTrap s fl → DeliversPred (.cmpi v) s v.d (holds c (order s t a b)) fl)

/-- R88: the predicate operations, reading the predicates (bit 0 as 1) and selection by one. -/
def Sys2Proof.Claims.PredicateWordsCombinePredicates : Prop :=
  ∀ (w : RForm) (s : State), guardHolds s w.guard = true →
    let a := readP s (w.a.setWidth 3)
    let b := readP s (w.b.setWidth 3)
    let gives (i : Instr) (x : Bool) := DeliversPred i s w.d x 0
    let p : BitVec 8 := if s.place = .cp then s.core.cp.p else s.core.kern.p
    gives (.pand w) (a && b) ∧ gives (.por w) (a || b) ∧ gives (.pxor w) (a ^^ b) ∧ gives (.pandn w) (a && !b) ∧
      gives (.porn w) (a || !b) ∧ Delivers (.pmovGet w) s 1 w.d ((p ||| 1).setWidth 64) 0 ∧
      Delivers (.sel w) s 1 w.d (if readP s (w.c.setWidth 3) then readR s w.a else opB s w true) 0

/-- R88: `pmov.put` sets p1-p7 from bits 7:1 of gA, at once on the CP and one cycle later in the S slot. -/
def Sys2Proof.Claims.PmovPutSetsSevenPredicates : Prop :=
  ∀ (w : RForm) (s : State), guardHolds s w.guard = true →
    (s.place = .cp → ∃ t, exec (.pmovPut w) s = .next t ∧ t = cpDone s { s.core.cp with p := t.core.cp.p } ∧
      ∀ r : BitVec 3, r ≠ 0 → readPred t.core.cp.p r = (s.core.cp.readG (w.a.setWidth 5)).getLsbD r.toNat) ∧
    (s.place ≠ .cp → exec (.pmovPut w) s =
      .next ((List.range 7).foldl (fun x i =>
        slotWrites x 1 (.p (BitVec.ofNat 3 (i + 1)) ((s.core.kern.readK (w.a.setWidth 5)).getLsbD (i + 1)))) s))

/-- R89: scalar floating arithmetic rounds the exact result once in the word's mode. The flags are those of that
rounding, with DZ for a division by zero. That `fdiv` and `fsqrt` are busy on a unit apart from the integer divider's
(R118) is deduced (log entry 20). -/
def Sys2Proof.Claims.FloatingWordsRoundOnce : Prop :=
  ∀ (w : RForm) (s : State), guardHolds s w.guard = true →
    let f := tyFmt w.ty
    let a := fArg s w.ty (readR s w.a).toNat
    let b := fArg s w.ty (opBFloat s w)
    let c := fArg s w.ty (readR s w.c).toNat
    let rm := w.rm.toNat
    let long := if w.ty = 8 then 24 else 12
    let busy (x : State) : State := if s.place = .cp then x else unitBusy x 1 long
    let after (lat : Nat) (x : FVal) (more : Flags) : State :=
      let r := deliver f rm (scalarFlush s) x
      if s.place = .cp then cpGives s w.d (BitVec.ofNat 64 r.1) (r.2 ||| more)
      else slotGives s lat w.d (BitVec.ofNat 64 r.1) (r.2 ||| more)
    let quiet (x : FVal) (more : Flags) : Prop := NoTrap s ((deliver f rm (scalarFlush s) x).2 ||| more)
    (quiet (addV rm a b) 0 → exec (.fadd w) s = .next (after 4 (addV rm a b) 0)) ∧
      (quiet (subV rm a b) 0 → exec (.fsub w) s = .next (after 4 (subV rm a b) 0)) ∧
      (quiet (mulV a b) 0 → exec (.fmul w) s = .next (after 4 (mulV a b) 0)) ∧
      (quiet (addV rm (mulV a b) c) 0 → exec (.fma w) s = .next (after 4 (addV rm (mulV a b) c) 0)) ∧
      (quiet (divV f.p a b).1 (divV f.p a b).2 →
        exec (.fdiv w) s = .next (busy (after long (divV f.p a b).1 (divV f.p a b).2))) ∧
      (quiet (sqrtV f.p a) 0 → exec (.fsqrt w) s = .next (busy (after long (sqrtV f.p a) 0)))

/-- R90, R91: minimum and maximum deliver an operand and raise NV for a signalling NaN; `fsgn` copies gA with another
sign bit; `fclass` writes one bit. -/
def Sys2Proof.Claims.FloatingSelectionAndSignWords : Prop :=
  ∀ (w : RForm) (s : State), guardHolds s w.guard = true →
    let f := tyFmt w.ty
    let a := fArg s w.ty (readR s w.a).toNat
    let b := fArg s w.ty (opBFloat s w)
    let quieted (x : FVal) : FVal := if x.isNaN then .nan false else x
    let picks (i : Instr) (max : Bool) : Prop :=
      NoTrap s (flagIf (a.nv || b.nv) flNV) →
        Delivers i s 1 w.d (BitVec.ofNat 64 (deliver f 0 false (quieted (minMaxV max (w.fn == 1) a b))).1)
          (flagIf (a.nv || b.nv) flNV)
    let top := tyWidth w.ty - 1
    let x := (readR s w.a).toNat
    let sx := x.testBit top
    let sy := (opBFloat s w).testBit top
    let signed (i : Instr) (sg : Bool) : Prop :=
      Delivers i s 1 w.d (BitVec.ofNat 64 (x % 2 ^ top + if sg then 2 ^ top else 0)) 0
    picks (.fmin w) false ∧ picks (.fmax w) true ∧ signed (.fsgnCpy w) sy ∧ signed (.fsgnNeg w) (!sy) ∧
      signed (.fsgnXor w) (sx ^^ sy) ∧
      Delivers (.fclass w) s 1 w.d (BitVec.ofNat 64 (2 ^ fclassBit f (readR s w.a).toNat)) 0

/-- R92: `cvt` from integer to integer, integer to floating, floating to integer and floating to floating. -/
def Obligations.ConversionsFollowTheirTypes : Prop :=
  ∀ (w : RForm) (s : State), guardHolds s w.guard = true →
    let src := w.fn.extractLsb' 0 5
    let x := intOf src (readR s w.a)
    let v := fArg s src (readR s w.a).toNat
    let rm := w.rm.toNat
    let gives (y : Word) (fl : Flags) : Prop := NoTrap s fl → Delivers (.cvt w) s 3 w.d y fl
    let bits (r : Nat × Flags) : Prop := gives (BitVec.ofNat 64 r.1) r.2
    (tyIsInt src = true → tyIsInt w.ty = true → gives (narrowed w.ty (w.sat == 1) x) (overflows w.ty x)) ∧
      (tyIsInt src = true → tyIsInt w.ty = false → bits (deliver (tyFmt w.ty) rm false (ofInt x 0 false))) ∧
      (tyIsInt src = false → tyIsInt w.ty = false → bits (deliver (tyFmt w.ty) rm (scalarFlush s) v)) ∧
      (tyIsInt src = false → tyIsInt w.ty = true →
        gives (BitVec.ofInt 64 (floatToInt (tySigned w.ty) (tyWidth w.ty) rm v).1)
          (floatToInt (tySigned w.ty) (tyWidth w.ty) rm v).2)

/-! ## Control flow (R57, R93-R95, R124) -/

namespace Sys2Proof.Claims

/-- The CP goes on at `t`; outside the CP nothing has changed. -/
def cpGoes (s : State) (c : CP) (t : Word) : State := s.withCp { c with pc := t, wait := none }

/-- KPC as a value (R112). -/
def kpcOf (s : State) : Word := (s.core.kern.kpc.extractLsb' 0 11).setWidth 64

/-- Two delay bundles issue before the kernel goes on at `t` (R124): DELAY is 2 and KDTARGET holds the target. -/
def kernGoes (s : State) (t : Word) : State :=
  s.withKern { s.core.kern with
    kstat := setFld s.core.kern.kstat 13 2 2, kdtarget := (t.extractLsb' 0 11).setWidth 64 }

/-- Truth of a `bcz` condition (R93). -/
def zeroTest (c : Nat) (x : Int) : Prop :=
  match c with
  | 0 => x = 0
  | 1 => x ≠ 0
  | 2 => x < 0
  | 3 => 0 ≤ x
  | 4 => 0 < x
  | _ => x ≤ 0

end Sys2Proof.Claims

/-- R93, R94 on the CP: a branch goes to PC + 8 × displacement, or to gA read before the link register is written; the
link is PC + 8; an untaken branch goes on at PC + 8. -/
def Sys2Proof.Claims.BranchesOnTheCp : Prop :=
  ∀ (j : JForm) (w : RForm) (v : IForm) (s : State), s.place = .cp →
    let c := s.core.cp
    let next := c.pc + 8
    let rel (d : Word) : Word := c.pc + d <<< 3
    let far := rel (v.imm.signExtend 64)
    let count := c.readG (v.d.setWidth 5) - 1
    let link (d : BitVec 6) : CP := c.writeG (d.setWidth 5) next
    (guardHolds s j.guard = true →
      exec (.br j) s = .next (cpGoes s c (rel (j.disp.signExtend 64))) ∧
        exec (.call j) s = .next (cpGoes s (link j.d) (rel (j.disp.signExtend 64)))) ∧
    (guardHolds s w.guard = true → exec (.jmp w) s = .next (cpGoes s (link w.d) (c.readG (w.a.setWidth 5)))) ∧
    (guardHolds s v.guard = true →
      (zeroTest v.fn.toNat (c.readG (v.a.setWidth 5)).toInt → exec (.bcz v) s = .next (cpGoes s c far)) ∧
        (¬ zeroTest v.fn.toNat (c.readG (v.a.setWidth 5)).toInt → exec (.bcz v) s = .next (cpGoes s c next)) ∧
        exec (.loop v) s = .next (cpGoes s (c.writeG (v.d.setWidth 5) count) (if count = 0 then next else far)))

/-- R93-R95, R124 in the S slot: a branch word starts two delay bundles before its target, KPC + displacement or kA,
or before KPC + 3 when it is not taken; the link is KPC + 3. A target outside 0 to 1,023 faults KSTORE_RANGE. -/
def Sys2Proof.Claims.BranchesInTheSSlot : Prop :=
  ∀ (j : JForm) (w : RForm) (v : IForm) (s : State), s.place = .s →
    let k := s.core.kern
    let next := kpcOf s + 3
    let link (d : BitVec 6) (x : Word) : State :=
      if d.setWidth 5 = (0 : BitVec 5) then s else slotWrites s 1 (.k (d.setWidth 5) x)
    let goes (i : Instr) (opc : BitVec 8) (x : State) (t : Word) : Prop :=
      (t.toNat < 1024 → exec i s = .next (kernGoes x t)) ∧
        (1024 ≤ t.toNat → exec i s = .next (slotFault s { cause := .kstoreRange, detail := t.setWidth 32 } opc))
    let near := kpcOf s + j.disp.signExtend 64
    let far := kpcOf s + v.imm.signExtend 64
    let count := k.readK (v.d.setWidth 5) - 1
    (guardHolds s j.guard = true → goes (.br j) 0x2A s near ∧ goes (.call j) 0x2A (link j.d next) near) ∧
    (guardHolds s w.guard = true → goes (.jmp w) 0x2B (link w.d next) (k.readK (w.a.setWidth 5))) ∧
    (guardHolds s v.guard = true →
      (zeroTest v.fn.toNat (k.readK (v.a.setWidth 5)).toInt → goes (.bcz v) 0x2C s far) ∧
        (¬ zeroTest v.fn.toNat (k.readK (v.a.setWidth 5)).toInt → exec (.bcz v) s = .next (kernGoes s next)) ∧
        (count ≠ 0 → goes (.loop v) 0x2D (link v.d count) far) ∧
        (count = 0 → exec (.loop v) s = .next (kernGoes (link v.d count) next)))

namespace Sys2Proof.Claims

/-- The words that trap PRIVILEGED in user mode: `tret`, `halt`, `idle`, `tlbi`, the reads of the system registers
whose entry gives user mode no read access, and every write but those of CSTAT, CFLAGS, KSTAT and KFLAGS (R15, R23,
R109). -/
def Privileged : Instr → Prop
  | .tret _ | .halt _ | .idle _ | .tlbiAll _ | .tlbiAsid _ | .tlbiPage _ | .tlbiRange _ => True
  | .rdsys v => v.fn.toNat ∉ [0x00, 0x10, 0x11, 0x12, 0x13, 0x20, 0x21, 0x23, 0x25, 0x30, 0x31, 0x32, 0x33]
  | .wrsys v | .xchsys v => v.fn.toNat ∉ [0x00, 0x13, 0x21, 0x25]
  | _ => False

end Sys2Proof.Claims

/-- R57, R94: a word whose guard is false only advances the PC on the CP and does nothing in a slot, but that a branch
word in the S slot still starts two delay bundles before KPC + 3. Not meant are the privileged words on a CP in user
mode, and a *never* guard, under which a branch word starts no delay bundle (R10). -/
def Obligations.FalseGuardSkipsTheWord : Prop :=
  ∀ (i : Instr) (r : Raw) (s : State), Instr.raw i = some r → r.guard ≠ 8 → guardHolds s r.guard = false →
    (s.place = .cp → s.core.cp.mode = false → ¬ Privileged i) →
    exec i s = .next (if s.place = .cp then cpDone s s.core.cp
      else if 0x2A ≤ r.opc.toNat ∧ r.opc.toNat ≤ 0x2D then kernGoes s (kpcOf s + 3) else s)

/-! ## System instructions (R15, R23-R38, R98-R104) -/

namespace Sys2Proof.Claims

/-- The registers of a CP after trap entry (R33): the mode and IE are saved, CSTAT is supervisor, IE 0, INTRAP 1, and
the PC is at the handler. -/
def trapped (c : CP) (cause : Cause) (origin : Nat) (resume addr : Word) (detail : BitVec 32) (opc : BitVec 8) : CP :=
  { c with
    csave := (c.csave &&& ~~~3) ||| BitVec.ofNat 64 ((c.cstat.getLsbD 0).toNat + 2 * (c.cstat.getLsbD 1).toNat)
    ctpc := resume
    ccause := BitVec.ofNat 64 cause.code.toNat
    ctaddr := addr
    ctinfo := BitVec.ofNat 64 (origin + (c.cstat.getLsbD 0).toNat * 2 ^ 7 + opc.toNat * 2 ^ 8 + detail.toNat * 2 ^ 32)
    cstat := (c.cstat &&& ~~~7) ||| 5
    pc := c.ctvec
    wait := none
    remote := none }

end Sys2Proof.Claims

/-- R33, R100, R101: outside a trap, `trap.call` and `trap.sw` on the CP trap after the word and `brk` at it. -/
def Sys2Proof.Claims.SoftwareTrapsEnterTheHandler : Prop :=
  ∀ (v : IForm) (s : State), OnCp s v.guard → s.core.cp.inTrap = false →
    let c := s.core.cp
    exec (.trapCall v) s = .next (s.withCp (trapped c .supervisorCall 0 (c.pc + 8) 0 v.imm 0xE1)) ∧
      exec (.trapSw v) s = .next (s.withCp (trapped c .software 0 (c.pc + 8) 0 v.imm 0xE1)) ∧
      exec (.brk v) s = .next (s.withCp (trapped c .breakpoint 0 c.pc 0 v.imm 0xE2))

/-- R100, R101 in the S slot: `trap.sw` marks the bundle, which commits first; `brk` splits the bundle with a fault
that names slot 1 and resumes there. -/
def Sys2Proof.Claims.SoftwareTrapsInTheSSlot : Prop :=
  ∀ (v : IForm) (s : State) (b : Issue), s.place = .s → guardHolds s v.guard = true → s.core.kern.issuing = some b →
    exec (.trapSw v) s =
        .next (s.withKern { s.core.kern with issuing := some { b with software := some v.imm } }) ∧
      exec (.brk v) s = .next (s.withKern { s.core.kern with
        issuing := none
        stop := some
          { trap := { cause := .breakpoint, detail := v.imm }, slot := 1, opc := 0xE2, late := none,
            kpc := (s.core.kern.kpc.extractLsb' 0 11).toNat, resume := 1 } })

/-- R38, R102: `tret` in supervisor mode restores the mode and IE from CSAVE, clears INTRAP and goes on at CTPC. -/
def Sys2Proof.Claims.TretRestoresModeAndPc : Prop :=
  ∀ (v : IForm) (s : State), OnCp s v.guard → s.core.cp.mode = true →
    let c := s.core.cp
    exec (.tret v) s = .next (s.withCp { c with
      cstat := (c.cstat &&& ~~~7) ||| (c.csave &&& 3)
      pc := c.ctpc
      wait := none })

namespace Sys2Proof.Claims

/-- The system registers that supervisor mode may write, with the bits that a write stores (R23-R32, R109-R114). -/
def writableSys : List (Nat × Word) :=
  [(0x01, 3), (0x02, 0xFFFFFFFFFFFFFFF8), (0x03, 0xFFFFFFFFFFFFFFFF), (0x04, 0xFF), (0x05, 0xFFFFFFFFFFFFFFFF),
    (0x06, 0xFFFFFFFF0000FFFF), (0x08, 0xFFFFFFFFFFFFFFFF), (0x09, 0xFFFFFFFFFFFFFFFF), (0x0A, 0xFFFFFFFFFFFFFFFF),
    (0x0B, 0xFFFFFFFFFFFFFFFF), (0x12, 0xFFFF), (0x13, 0x3F), (0x20, 0x7FF), (0x22, 0x7FF), (0x23, 0x7F),
    (0x24, 0xFFFFFFFFFFFF3FF7), (0x25, 0x3F)]

end Sys2Proof.Claims

/-- R15: in user mode, outside a trap, a privileged word and an access to a privileged register trap PRIVILEGED and
have no other effect, whether or not the guard holds. A *never*-guarded word is not meant (R10): it is a no-operation.
-/
def Obligations.PrivilegedWordsTrapInUserMode : Prop :=
  ∀ (v : IForm) (w : RForm) (s : State), v.guard ≠ 8 → w.guard ≠ 8 → s.place = .cp → s.core.cp.mode = false →
    s.core.cp.inTrap = false →
    let traps (i : Instr) (opc : BitVec 8) : Prop :=
      exec i s = .next (s.withCp (trapped s.core.cp .privileged 0 s.core.cp.pc 0 0 opc))
    let sel := v.fn.toNat
    traps (.tret v) 0xE4 ∧ traps (.halt v) 0xE5 ∧ traps (.idle v) 0xE6 ∧ traps (.tlbiAll w) 0xC8 ∧
      traps (.tlbiAsid w) 0xC8 ∧ traps (.tlbiPage w) 0xC8 ∧ traps (.tlbiRange w) 0xC8 ∧
      (sel ∈ [0x01, 0x02, 0x03, 0x04, 0x05, 0x06, 0x08, 0x09, 0x0A, 0x0B, 0x22, 0x24] → traps (.rdsys v) 0xE0) ∧
      (sel ∈ writableSys.map (·.1) → sel ∉ [0x00, 0x13, 0x21, 0x25] → traps (.wrsys v) 0xE3 ∧ traps (.xchsys v) 0xE7)

namespace Sys2Proof.Claims

/-- Only the system registers of the CP and of the kernel differ. -/
def SysOnly (s t : State) : Prop :=
  t = { s with core := { s.core with
    cp := { s.core.cp with
      pc := t.core.cp.pc, wait := t.core.cp.wait, g := t.core.cp.g, cstat := t.core.cp.cstat, csave := t.core.cp.csave,
      ctvec := t.core.cp.ctvec, vecSet := t.core.cp.vecSet, ctpc := t.core.cp.ctpc, ccause := t.core.cp.ccause,
      ctaddr := t.core.cp.ctaddr, ctinfo := t.core.cp.ctinfo, cscratch := t.core.cp.cscratch,
      casid := t.core.cp.casid, cflags := t.core.cp.cflags }
    kern := { s.core.kern with
      kpc := t.core.kern.kpc, kstat := t.core.kern.kstat, kdtarget := t.core.kern.kdtarget,
      kcause := t.core.kern.kcause, kinfo := t.core.kern.kinfo, kflags := t.core.kern.kflags } } }

end Sys2Proof.Claims

/-- R23-R32, R99, R109-R114: a supervisor write stores the register's own bits and leaves every other system register
and the general registers alone; `xchsys` delivers the old value beside; a kernel register is written only while no
kernel runs (R110). -/
def Sys2Proof.Claims.SystemWritesStoreTheRegistersBits : Prop :=
  ∀ (v : IForm) (s : State) (mask : Word), OnCp s v.guard → s.core.cp.mode = true →
    (v.fn.toNat, mask) ∈ writableSys → (0x20 ≤ v.fn.toNat → s.core.kern.stState ≠ 1) →
    let x := s.core.cp.readG (v.a.setWidth 5)
    let sel := v.fn.toNat
    let stored (t : State) : Prop :=
      SysOnly s t ∧ t.core.cp.pc = s.core.cp.pc + 8 ∧ t.core.cp.wait = none ∧ readSys t sel = x &&& mask ∧
        ∀ other, other ≠ sel → readSys t other = readSys s other
    (∃ t, exec (.wrsys v) s = .next t ∧ stored t ∧ t.core.cp.g = s.core.cp.g) ∧
      (∃ t, exec (.xchsys v) s = .next t ∧ stored t ∧
        t.core.cp.g = (s.core.cp.writeG (v.d.setWidth 5) (readSys s sel)).g)

/-- R5, R15, R24, R111: a supervisor's write of CSTAT leaves its reserved bits 0 and WDLOG at least 10, and user mode
changes only bits 9:3 of it; KSTAT keeps STATE, a DELAY of 3 is stored as 2, and RESUME_SLOT is 0 unless STATE is 2.
That a supervisor cannot store another RESUME_SLOT then is deduced (log entry 20), and that it can set CSTAT.INTRAP
too (log entry 30). `xchsys` delivers the old value beside. -/
def Sys2Proof.Claims.StatusWritesKeepTheirFixedFields : Prop :=
  ∀ (v : IForm) (s : State), OnCp s v.guard →
    let x := s.core.cp.readG (v.a.setWidth 5)
    let old := s.core.cp.cstat
    let kold := s.core.kern.kstat
    (v.fn.toNat = 0 → ∃ n, exec (.wrsys v) s = .next (cpDone s { s.core.cp with cstat := n }) ∧
      exec (.xchsys v) s = .next (cpDone s { s.core.cp.writeG (v.d.setWidth 5) old with cstat := n }) ∧
      (s.core.cp.mode = false → n = (old &&& ~~~0x3F8) ||| (x &&& 0x3F8)) ∧
      (s.core.cp.mode = true → n &&& 0x3FF = x &&& 0x3FF ∧ n &&& ~~~0x1F03FF = 0 ∧
        fld n 16 5 = max 10 (fld x 16 5))) ∧
    (v.fn.toNat = 0x21 → s.core.kern.stState ≠ 1 → ∃ n,
      exec (.wrsys v) s = .next (cpDone (s.withKern { s.core.kern with kstat := n }) s.core.cp) ∧
      exec (.xchsys v) s =
        .next (cpDone (s.withKern { s.core.kern with kstat := n }) (s.core.cp.writeG (v.d.setWidth 5) kold)) ∧
      fld n 0 2 = fld kold 0 2 ∧ fld n 3 7 = fld x 3 7 ∧
      fld n 13 2 = min 2 (fld (if s.core.cp.mode = true then x else kold) 13 2) ∧
      bit n 2 = (bit x 2 && s.md.faccept.getLsbD 3) ∧ (fld kold 0 2 ≠ 2 → fld n 10 3 = 0) ∧ n >>> 27 = 0 ∧
      (s.core.cp.mode = true → fld n 16 11 = fld x 16 11 ∧ (fld kold 0 2 = 2 → fld n 10 3 = fld x 10 3)) ∧
      (s.core.cp.mode = false → fld n 16 11 = fld kold 16 11 ∧ (fld kold 0 2 = 2 → fld n 10 3 = fld kold 10 3)))

/-- R15, R23, R99, R109, R110: either mode writes CFLAGS and KFLAGS. A write of a kernel register waits at its word
while a kernel runs, changing nothing else. -/
def Sys2Proof.Claims.FlagWritesAndKernelRegisterWaits : Prop :=
  ∀ (v : IForm) (s : State), OnCp s v.guard →
    let c := s.core.cp
    let x := c.readG (v.a.setWidth 5) &&& 0x3F
    let sel := v.fn.toNat
    let writes (t : State) (c : CP) (old : Word) : Prop :=
      exec (.wrsys v) s = .next (cpDone t c) ∧
        exec (.xchsys v) s = .next (cpDone t { c with g := (c.writeG (v.d.setWidth 5) old).g })
    (sel = 0x13 → writes s { c with cflags := x } c.cflags) ∧
      (sel = 0x25 → s.core.kern.stState ≠ 1 →
        writes (s.withKern { s.core.kern with kflags := x }) c s.core.kern.kflags) ∧
      (0x20 ≤ sel → sel ≤ 0x25 → s.core.kern.stState = 1 → s.core.cp.mode = true ∨ sel = 0x21 ∨ sel = 0x25 →
        exec (.wrsys v) s = .next (stayHere s false true 0xE3 none) ∧
          (exec (.xchsys v) s = .next (stayHere s false true 0xE7 none)))

/-- R23, R99: `rdsys` delivers a register that the mode may read, on the CP and in the S slot. -/
def Sys2Proof.Claims.RdsysDeliversTheRegister : Prop :=
  ∀ (v : IForm) (s : State), guardHolds s v.guard = true →
    (s.place = .cp → s.core.cp.mode = true ∨ v.fn.toNat ∈ [0x00, 0x10, 0x11, 0x12, 0x13, 0x20, 0x21, 0x23, 0x25, 0x30, 0x31,
      0x32, 0x33] → Delivers (.rdsys v) s 2 v.d (readSys s v.fn.toNat) 0) ∧
    (s.place ≠ .cp → Delivers (.rdsys v) s 2 v.d (readSys s v.fn.toNat) 0)

/-- R35: a trap inside a trap is fatal: `brk` and `trap.call` with INTRAP 1 leave every register of the CP as it is,
and the core runs no further word. -/
def Sys2Proof.Claims.TrapInsideATrapStopsTheCore : Prop :=
  ∀ (v : IForm) (s : State), OnCp s v.guard → s.core.cp.inTrap = true →
    let stops (i : Instr) : Prop := ∃ t, exec i s = .next t ∧ t.focus = s.focus ∧ t.core.cp.run ≠ .running ∧
      t.core.cp.g = s.core.cp.g ∧ t.core.cp.p = s.core.cp.p ∧ t.core.cp.pc = s.core.cp.pc ∧
      t.core.cp.cstat = s.core.cp.cstat ∧ t.core.cp.csave = s.core.cp.csave ∧ t.core.cp.ctpc = s.core.cp.ctpc ∧
      t.core.cp.ccause = s.core.cp.ccause ∧ t.core.cp.ctaddr = s.core.cp.ctaddr ∧ t.core.cp.ctinfo = s.core.cp.ctinfo ∧
      t.core.cp.ctvec = s.core.cp.ctvec ∧ t.core.cp.cscratch = s.core.cp.cscratch ∧ t.core.cp.casid = s.core.cp.casid ∧
      t.core.cp.cflags = s.core.cp.cflags ∧
      t.core.kern.k = s.core.kern.k ∧ t.core.kern.v = s.core.kern.v ∧ t.mem = s.mem
    stops (.trapCall v) ∧ stops (.brk v)

/-- R100, R103, R104, R403: `halt` with an empty stream queue, no instruction in flight and no kernel running ends the
program; `idle` goes on once an asynchronous cause is pending. Otherwise both wait at their word, changing nothing
else. A `halt` within a trap other than SUPERVISOR_CALL with DETAIL 0 ends the program fatally (the model's reading of
how the runtime does it, log entry 34). -/
def Sys2Proof.Claims.HaltAndIdleWaitForTheirEvent : Prop :=
  ∀ (v : IForm) (s : State), OnCp s v.guard → s.core.cp.mode = true →
    let free := s.core.st.queue = [] ∧ s.core.st.flight = [] ∧ s.core.kern.stState = 0
    let inner := s.core.cp.inTrap = true ∧ (fld s.core.cp.ccause 0 7 ≠ 0x5E ∨ fld s.core.cp.ctinfo 32 32 ≠ 0)
    (¬ inner → free → s.core.prog.isSome = true → ∃ t, exec (.halt v) s = .next t ∧ t.focus = s.focus ∧ t.core.cp.run = .off ∧
      t.core.prog = none ∧ t.core.cp.pending = [] ∧ t.core.cp.g = s.core.cp.g ∧ t.mem = s.mem) ∧
    (¬ inner → ¬ free → exec (.halt v) s = .next (stayHere s false true 0xE5 none)) ∧
    (inner → ∃ t, exec (.halt v) s = .next t ∧ t.focus = s.focus ∧ t.core.cp.run ≠ .running ∧ t.core.cp.g = s.core.cp.g ∧
      t.core.cp.pc = s.core.cp.pc ∧ t.core.cp.ctpc = s.core.cp.ctpc ∧ t.core.kern.v = s.core.kern.v ∧ t.mem = s.mem) ∧
    (s.core.cp.pending ≠ [] → exec (.idle v) s = .next (cpDone s s.core.cp)) ∧
    (s.core.cp.pending = [] → exec (.idle v) s = .next (stayHere s false true 0xE6 none))

/-- R105, R145: once the walker has answered, `work` writes the ordinal to g28, the index values of its loop nest to
g24-g27 and 1 to p1; when the die is dry it writes 0 to p1 alone. -/
def Sys2Proof.Claims.WorkDeliversTheWalkersAnswer : Prop :=
  ∀ (v : IForm) (s : State) (p : Prog) (l : Launch) (n : Nest) (answer : Option Nat), OnCp s v.guard →
    s.core.prog = some p → s.launch? p.launch = some l → l.nest = some n → n.ndim ≠ 0 →
    s.core.cp.work = .answered answer →
    ∃ t, exec (.work v) s = .next t ∧
      t = cpDone s { s.core.cp with g := t.core.cp.g, p := t.core.cp.p, work := .idle } ∧
      (∀ r : BitVec 3, readPred t.core.cp.p r = if r = 1 then answer.isSome else readPred s.core.cp.p r) ∧
      (∀ r : BitVec 5, t.core.cp.readG r =
        match answer with
        | none => s.core.cp.readG r
        | some o =>
          if r = 24 then (nestIdx n o).get 0
          else if r = 25 then (nestIdx n o).get 1
          else if r = 26 then (nestIdx n o).get 2
          else if r = 27 then (nestIdx n o).get 3
          else if r = 28 then BitVec.ofNat 64 o
          else s.core.cp.readG r)

/-- R55, R84: the integer words give the exact result narrowed, or trap for an enabled overflow. -/
def Obligations.IntegerWordsNarrowOrTrap : Prop :=
  Claims.IntegerWordsNarrowTheExactResult ∧ Claims.EnabledOverflowTraps

/-- R85, R86, R88: the logical words, the shifts, the bit counts and the predicate words. -/
def Obligations.LogicalAndPredicateWords : Prop :=
  Claims.LogicalWordsActOnSixtyFourBits ∧ Claims.BitCountsCountBits ∧ Claims.PredicateWordsCombinePredicates ∧ Claims.PmovPutSetsSevenPredicates

/-- R89-R91: scalar floating arithmetic, selection and sign words. -/
def Obligations.FloatingWordsRoundAndSelect : Prop :=
  Claims.FloatingWordsRoundOnce ∧ Claims.FloatingSelectionAndSignWords

/-- R57, R93-R95, R124: the branch words on the CP and in the S slot. -/
def Obligations.BranchesGoToTheirTarget : Prop :=
  Claims.BranchesOnTheCp ∧ Claims.BranchesInTheSSlot

/-- R33, R35, R38, R100-R102: traps by instruction, in the S slot, inside a trap, and the return from one. -/
def Obligations.TrapsEnterAndReturn : Prop :=
  Claims.SoftwareTrapsEnterTheHandler ∧ Claims.SoftwareTrapsInTheSSlot ∧ Claims.TrapInsideATrapStopsTheCore ∧ Claims.TretRestoresModeAndPc

/-- R15, R23-R32, R99, R109-R114: reading and writing system registers. -/
def Obligations.SystemRegistersAreReadAndWritten : Prop :=
  Claims.SystemWritesStoreTheRegistersBits ∧ Claims.StatusWritesKeepTheirFixedFields ∧ Claims.FlagWritesAndKernelRegisterWaits ∧ Claims.RdsysDeliversTheRegister

/-- R103-R105, R145: the words that wait for an event. -/
def Obligations.HaltIdleAndWorkWait : Prop :=
  Claims.HaltAndIdleWaitForTheirEvent ∧ Claims.WorkDeliversTheWalkersAnswer

/-! ## Vector words (R173-R195) -/

namespace Sys2Proof.Claims

/-- Every element of the word's type that its mask selects (R178). -/
def GivesMasked (i : Instr) (s : State) (lat : Nat) (w : RForm) (f : Nat → Nat → Nat × Flags) : Prop :=
  GivesElements i s lat w.d (tyWidth w.ty) (vActive s w) f

/-- Elements without flags. -/
def GivesPlain (i : Instr) (s : State) (lat : Nat) (w : RForm) (f : Nat → Nat → Nat) : Prop :=
  GivesMasked i s lat w fun l j => (f l j, 0)

/-- An element of a register as an integer of the word's type (R40). -/
def elemInt (w : RForm) (x : Nat) : Int := intOf w.ty (BitVec.ofNat 64 x)

end Sys2Proof.Claims

/-- R180, R41: the integer words on lanes narrow the exact result of each element; minimum, maximum, clamp and the
high half raise nothing. -/
def Sys2Proof.Claims.IntegerVectorWordsNarrowEachElement : Prop :=
  ∀ (w : RForm) (s : State), InSlot s w.guard → tyIsInt w.ty = true →
    let a (l j : Nat) : Int := Claims.elemInt w (vA s w l j)
    let b (l j : Nat) : Int := Claims.elemInt w (vB s w l j)
    let c (l j : Nat) : Int := Claims.elemInt w (vC s w l j)
    let gives (i : Instr) (x : Nat → Nat → Int) : Prop :=
      GivesMasked i s 2 w fun l j => ((narrowed w.ty (w.sat == 1) (x l j)).toNat, overflows w.ty (x l j))
    let plain (i : Instr) (x : Nat → Nat → Int) : Prop :=
      GivesPlain i s 2 w fun l j => (narrowed w.ty false (x l j)).toNat
    gives (.vadd w) (fun l j => a l j + b l j) ∧ gives (.vsub w) (fun l j => a l j - b l j) ∧
      gives (.vmul w) (fun l j => a l j * b l j) ∧ gives (.vfma w) (fun l j => a l j * b l j + c l j) ∧
      gives (.vfms w) (fun l j => a l j * b l j - c l j) ∧ gives (.vfnma w) (fun l j => -(a l j * b l j) + c l j) ∧
      gives (.vfnms w) (fun l j => -(a l j * b l j) - c l j) ∧ gives (.vabs w) (fun l j => |a l j|) ∧
      gives (.vneg w) (fun l j => -(a l j)) ∧ plain (.vmulh w) (fun l j => a l j * b l j / 2 ^ tyWidth w.ty) ∧
      plain (.vmin w) (fun l j => min (a l j) (b l j)) ∧ plain (.vmax w) (fun l j => max (a l j) (b l j)) ∧
      plain (.vclamp w) (fun l j => min (max (a l j) (b l j)) (c l j))

namespace Sys2Proof.Claims

/-- A floating element of the word's type, read under the FZ of its lane (R50, R175). -/
def elemFlt (s : State) (w : RForm) (l : Nat) (x : Nat) : FVal := readFloat (tyFmt w.ty) (laneFz s l) x

/-- A value with its NaN quieted (R90). -/
def quieted (x : FVal) : FVal := if x.isNaN then .nan false else x

/-- The element with another sign bit. -/
def resigned (w : RForm) (x : Nat) (sg : Bool) : Nat :=
  x % 2 ^ (tyWidth w.ty - 1) + if sg then 2 ^ (tyWidth w.ty - 1) else 0

end Sys2Proof.Claims

/-- R180: the floating words on lanes round each exact result once in RM under the FZ of the lane. -/
def Sys2Proof.Claims.FloatingVectorWordsRoundOnce : Prop :=
  ∀ (w : RForm) (s : State), InSlot s w.guard → tyFloat w.ty = true →
    let f := tyFmt w.ty
    let rm := w.rm.toNat
    let a (l j : Nat) : FVal := elemFlt s w l (vA s w l j)
    let b (l j : Nat) : FVal := elemFlt s w l (vB s w l j)
    let c (l j : Nat) : FVal := elemFlt s w l (vC s w l j)
    let k (l j : Nat) : Int := intOf (sameWidthInt w.ty) (BitVec.ofNat 64 (vBScale s w l j))
    let gives (i : Instr) (x : Nat → Nat → FVal) : Prop := GivesMasked i s 4 w fun l j => deliver f rm (laneFz s l) (x l j)
    let rint (nx : Bool) (l j : Nat) : Nat × Flags :=
      match a l j with
      | .fin neg m e =>
        let r := roundInt rm neg m e
        ((deliver f 0 false (.fin neg r.1.natAbs 0)).1, flagIf (nx && r.2) flNX)
      | v => deliver f 0 false v
    gives (.vadd w) (fun l j => addV rm (a l j) (b l j)) ∧ gives (.vsub w) (fun l j => subV rm (a l j) (b l j)) ∧
      gives (.vmul w) (fun l j => mulV (a l j) (b l j)) ∧
      gives (.vfma w) (fun l j => addV rm (mulV (a l j) (b l j)) (c l j)) ∧
      gives (.vfms w) (fun l j => addV rm (mulV (a l j) (b l j)) (c l j).neg) ∧
      gives (.vfnma w) (fun l j => addV rm (mulV (a l j) (b l j)).neg (c l j)) ∧
      gives (.vfnms w) (fun l j => addV rm (mulV (a l j) (b l j)).neg (c l j).neg) ∧
      gives (.vscale w) (fun l j => (a l j).scale (max (-5000) (min 5000 (k l j)))) ∧
      GivesMasked (.vrint w) s 4 w (rint false) ∧ GivesMasked (.vrintX w) s 4 w (rint true)

/-- R90, R180: minimum, maximum and clamp of floating elements deliver an operand and raise NV for a signalling NaN;
the sign words change the sign bit alone. -/
def Sys2Proof.Claims.VectorSelectionAndSignWords : Prop :=
  ∀ (w : RForm) (s : State), InSlot s w.guard → tyFloat w.ty = true →
    let f := tyFmt w.ty
    let flt (l x : Nat) : FVal := elemFlt s w l x
    let pick (max num : Bool) (l x y : Nat) : Nat × Flags :=
      ((deliver f 0 false (quieted (minMaxV max num (flt l x) (flt l y)))).1,
        flagIf ((flt l x).nv || (flt l y).nv) flNV)
    let num := w.fn.toNat % 16 = 1
    let top (x : Nat) : Bool := x.testBit (tyWidth w.ty - 1)
    let clamp (l j : Nat) : Nat × Flags :=
      let hi := pick true false l (vA s w l j) (vB s w l j)
      let r := pick false false l hi.1 (vC s w l j)
      (r.1, hi.2 ||| r.2)
    let signed (i : Instr) (sg : Nat → Nat → Bool) : Prop := GivesPlain i s 2 w fun l j => resigned w (vA s w l j) (sg l j)
    GivesMasked (.vmin w) s 4 w (fun l j => pick false num l (vA s w l j) (vB s w l j)) ∧
      GivesMasked (.vmax w) s 4 w (fun l j => pick true num l (vA s w l j) (vB s w l j)) ∧
      GivesMasked (.vclamp w) s 4 w clamp ∧
      signed (.vabs w) (fun _ _ => false) ∧ signed (.vneg w) (fun l j => !top (vA s w l j)) ∧
      signed (.vsgnCpy w) (fun l j => top (vB s w l j)) ∧ signed (.vsgnNeg w) (fun l j => !top (vB s w l j)) ∧
      signed (.vsgnXor w) (fun l j => top (vA s w l j) != top (vB s w l j))

namespace Sys2Proof.Claims

/-- The magnitude of a finite value. -/
def magOf (m : Nat) (e : Int) : ℚ := m * (2 : ℚ) ^ e

/-- `r` is the positive number whose comparison with 1 is `c x`, exact, or between two neighbours of at least p bits:
`c` rises with x. -/
def RootOf (p : Nat) (c : ℚ → ℚ) (neg : Bool) (r : FVal) : Prop :=
  match r with
  | .fin n m e => n = neg ∧ c (magOf m e) = 1
  | .near n m e => n = neg ∧ 2 ^ p ≤ m ∧ c (magOf m e) < 1 ∧ 1 < c (magOf (m + 1) e)
  | _ => False

/-- R181: a quotient x of finite values satisfies x·b / a = 1, a root x² / a = 1, a reciprocal root x²·a = 1. -/
def QuotientsAndRoots : Prop :=
  ∀ (p m n : Nat) (d e : Int) (x y : Bool), m ≠ 0 → n ≠ 0 →
    (divV p (.fin x m d) (.fin y n e)).2 = 0 ∧
    RootOf p (fun q => q * magOf n e / magOf m d) (x != y) (divV p (.fin x m d) (.fin y n e)).1 ∧
    RootOf p (fun q => q ^ 2 / magOf m d) false (sqrtV p (.fin false m d)) ∧
    (rsqrtV p (.fin false m d)).2 = 0 ∧
    RootOf p (fun q => q ^ 2 * magOf m d) false (rsqrtV p (.fin false m d)).1 ∧
    divV p (.fin x m d) (.fin y 0 e) = (.inf (x != y), flDZ) ∧ sqrtV p (.fin x 0 d) = .fin x 0 d ∧
    sqrtV p (.fin true m d) = .nan true ∧ rsqrtV p (.fin x 0 d) = (.inf x, flDZ) ∧
    rsqrtV p (.fin true m d) = (.nan true, 0) ∧ rsqrtV p (.inf false) = (.fin false 0 0, 0)

/-- R181: the special cases of its table, and the exact values of the functions. -/
def FunctionsHaveTheirSpecialCases : Prop :=
  ∀ (f : FFmt) (rm : Nat) (flush neg : Bool) (m : Nat) (e : Int), f ∈ [fmtF32, fmtBF16, fmtF16] →
    let zero : FVal := .fin false 0 0
    let one : FVal := .fin false 1 0
    let is (n : Nat) (x y : FVal) (fl : Flags) : Prop :=
      vfn n f rm flush x zero = ((deliver f rm flush y).1, (deliver f rm flush y).2 ||| fl)
    let odd := m % 2 == 1
    (∀ n, 4 ≤ n → n ≤ 11 → is n (.nan neg) (.nan neg) 0) ∧
    is 4 (.inf true) zero 0 ∧ is 4 (.inf false) (.inf false) 0 ∧ is 4 (.fin neg 0 e) one 0 ∧
    is 5 (.inf true) zero 0 ∧ is 5 (.inf false) (.inf false) 0 ∧
    (m < 512 → is 5 (.fin neg m 0) (.fin false 1 (if neg then -(m : Int) else m)) 0) ∧
    (∀ n ∈ [6, 7], is n (.fin neg 0 e) (.inf true) flDZ ∧ is n (.inf true) (.nan true) 0 ∧
      is n (.inf false) (.inf false) 0 ∧ is n one zero 0 ∧ (m ≠ 0 → is n (.fin true m e) (.nan true) 0)) ∧
    is 7 (.fin false 1 e) (ofInt e 0 false) 0 ∧
    is 8 (.inf neg) (.fin neg 1 0) 0 ∧ is 8 (.fin neg 0 e) (.fin neg 0 e) 0 ∧
    is 9 (.inf false) one 0 ∧ is 9 (.inf true) zero 0 ∧ is 9 (.fin neg 0 e) (.fin false 1 (-1)) 0 ∧
    (∀ n ∈ [10, 11], is n (.inf neg) (.nan true) 0) ∧
    is 10 (.fin neg m 0) (.fin neg 0 0) 0 ∧ is 10 (.fin neg (2 * m + 1) (-1)) (.fin (neg != odd) 1 0) 0 ∧
    is 11 (.fin neg m 0) (.fin odd 1 0) 0 ∧ is 11 (.fin neg (2 * m + 1) (-1)) zero 0

/-- R181, R48: values of the functions of f32 elements between two neighbouring numbers: the one below, the one above,
and the nearer one. NX is raised. -/
def FunctionsRoundTheirValue : Prop :=
  ∀ x ∈ [(4, 0x3F800000, 0x402DF854, 0x402DF855, 0x402DF854), (4, 0xBF800000, 0x3EBC5AB1, 0x3EBC5AB2, 0x3EBC5AB2),
      (5, 0x3F000000, 0x3FB504F3, 0x3FB504F4, 0x3FB504F3), (5, 0xBFC00000, 0x3EB504F3, 0x3EB504F4, 0x3EB504F3),
      (6, 0x40000000, 0x3F317217, 0x3F317218, 0x3F317218), (6, 0x3F400000, 0xBE934B11, 0xBE934B10, 0xBE934B11),
      (7, 0x40400000, 0x3FCAE00D, 0x3FCAE00E, 0x3FCAE00D), (7, 0x3F400000, 0xBED47FCC, 0xBED47FCB, 0xBED47FCC),
      (8, 0x3F800000, 0x3F42F7D5, 0x3F42F7D6, 0x3F42F7D6), (8, 0xBF000000, 0xBEEC9A9F, 0xBEEC9A9E, 0xBEEC9A9F),
      (9, 0x3F800000, 0x3F3B26A7, 0x3F3B26A8, 0x3F3B26A8), (9, 0xBF800000, 0x3E89B2B0, 0x3E89B2B1, 0x3E89B2B1),
      (10, 0x3E800000, 0x3F3504F3, 0x3F3504F4, 0x3F3504F3), (10, 0xBFE00000, 0x3F3504F3, 0x3F3504F4, 0x3F3504F3),
      (11, 0x3F400000, 0xBF3504F4, 0xBF3504F3, 0xBF3504F3), (11, 0xC0080000, 0x3F6C835E, 0x3F6C835F, 0x3F6C835E)],
    let r (rm : Nat) : Nat × Flags := vfn x.1 fmtF32 rm false (decodeFloat fmtF32 x.2.1) (.fin false 0 0)
    r 2 = (x.2.2.1, flNX) ∧ r 3 = (x.2.2.2.1, flNX) ∧ r 0 = (x.2.2.2.2, flNX)

end Sys2Proof.Claims

/-- R181, R48, R49, R54: `vfn` delivers quotient, root and reciprocals rounded once, each exact or between the
neighbours that its defining equation names; `vfn.exp` to `vfn.cospi` the value of their function with 12 cycles of
latency, which has the special cases and exact values of the table, and values of the functions on each side of which
it rounds in RM. -/
def Sys2Proof.Claims.VectorFunctionsDeliverTheirFunction : Prop :=
  Claims.QuotientsAndRoots ∧ Claims.FunctionsHaveTheirSpecialCases ∧ Claims.FunctionsRoundTheirValue ∧
  ∀ (w : RForm) (s : State), InSlot s w.guard →
    let f := tyFmt w.ty
    let rm := w.rm.toNat
    let a (l j : Nat) : FVal := elemFlt s w l (vA s w l j)
    let b (l j : Nat) : FVal := elemFlt s w l (vB s w l j)
    let one : FVal := .fin false 1 0
    let gives (i : Instr) (x : Nat → Nat → FVal × Flags) : Prop :=
      GivesMasked i s 12 w fun l j =>
        let r := deliver f rm (laneFz s l) (x l j).1
        (r.1, r.2 ||| (x l j).2)
    let fn (i : Instr) (n : Nat) : Prop :=
      GivesMasked i s 12 w fun l j => vfn n f rm (laneFz s l) (a l j) (.fin false 0 0)
    gives (.vfnDiv w) (fun l j => divV f.p (a l j) (b l j)) ∧ gives (.vfnSqrt w) (fun l j => (sqrtV f.p (a l j), 0)) ∧
      gives (.vfnRsqrt w) (fun l j => rsqrtV f.p (a l j)) ∧ gives (.vfnRecip w) (fun l j => divV f.p one (a l j)) ∧
      fn (.vfnExp w) 4 ∧ fn (.vfnExp2 w) 5 ∧ fn (.vfnLog w) 6 ∧ fn (.vfnLog2 w) 7 ∧ fn (.vfnTanh w) 8 ∧
      fn (.vfnLogistic w) 9 ∧ fn (.vfnSinpi w) 10 ∧ fn (.vfnCospi w) 11

/-- R182: the logical words, shifts and bit counts on the bits of each element; a shift amount is taken modulo the
width. -/
def Sys2Proof.Claims.VectorBitWordsActOnEachElement : Prop :=
  ∀ (w : RForm) (s : State), InSlot s w.guard →
    let n := tyWidth w.ty
    let a (l j : Nat) : BitVec n := BitVec.ofNat n (vA s w l j)
    let b (l j : Nat) : BitVec n := BitVec.ofNat n (vBLog s w l j)
    let sh (l j : Nat) : Nat := vBLog s w l j % n
    let gives (i : Instr) (x : Nat → Nat → BitVec n) : Prop := GivesPlain i s 2 w fun l j => (x l j).toNat
    let count (i : Instr) (x : BitVec n → Nat) : Prop := GivesPlain i s 2 w fun l j => x (a l j)
    gives (.vlogAnd w) (fun l j => a l j &&& b l j) ∧ gives (.vlogOr w) (fun l j => a l j ||| b l j) ∧
      gives (.vlogXor w) (fun l j => a l j ^^^ b l j) ∧ gives (.vlogAndn w) (fun l j => a l j &&& ~~~b l j) ∧
      gives (.vlogNot w) (fun l j => ~~~a l j) ∧ gives (.vshShl w) (fun l j => a l j <<< sh l j) ∧
      gives (.vshShr w) (fun l j => a l j >>> sh l j) ∧ gives (.vshSra w) (fun l j => (a l j).sshiftRight (sh l j)) ∧
      count (.vbcntPop w) (fun x => ((List.range n).filter fun i => x.getLsbD i).length) ∧
      count (.vbcntClz w) (fun x => ((List.range n).reverse.takeWhile fun i => !x.getLsbD i).length) ∧
      count (.vbcntCtz w) (fun x => ((List.range n).takeWhile fun i => !x.getLsbD i).length)

/-- R183, R185, R88: `vcmp` writes a mask bit per active element and zeros above the type's elements; the mask words
combine whole masks; `mpop` counts the bits of the type's elements or finds the first, lane by lane. -/
def Obligations.MaskWordsAndCompares : Prop :=
  ∀ (w : RForm) (s : State), InSlot s w.guard →
    let t := w.ty
    let n := tyNel t
    let a := readM s (w.a.setWidth 3)
    let b := readM s (w.b.setWidth 3)
    let d := w.d.setWidth 3
    let gives (i : Instr) (x : MaskReg) : Prop := exec i s = .next (slotWrites s 2 (.m d x))
    let c := w.fn.toNat % 16
    let x (l j : Nat) : Nat := vA s w l j
    let y (l j : Nat) : Nat := vB s w l j
    let rel (l j : Nat) : Option Ordering :=
      if tyIsInt t then some (compare (Claims.elemInt w (x l j)) (Claims.elemInt w (y l j)))
      else cmpV (elemFlt s w l (x l j)) (elemFlt s w l (y l j))
    let nv (l j : Nat) : Flags :=
      let p := elemFlt s w l (x l j)
      let q := elemFlt s w l (y l j)
      if tyIsInt t then 0
      else if (2 ≤ c ∧ c ≤ 5 ∧ (p.isNaN || q.isNaN) = true) ∨ (p.nv || q.nv) = true then flNV else 0
    let fl := lanesRaise n (vActive s w) fun l j => (0, nv l j)
    (c < 8 → FaultsOnFlags (.vcmp w) s fl) ∧ (c < 8 → NoLaneTrap s fl → ∃ m : MaskReg,
      exec (.vcmp w) s = .next (lanesGive s (if tyIsInt t then 2 else 4) [.m d m] fl) ∧
      ∀ l j, l < 16 → j < 64 →
        mBit m l j = (decide (j < n) && if vActive s w l j then holds c (rel l j) else mBit (readM s d) l j)) ∧
    gives (.mlogAnd w) (a &&& b) ∧ gives (.mlogOr w) (a ||| b) ∧ gives (.mlogXor w) (a ^^^ b) ∧
    gives (.mlogAndn w) (a &&& ~~~b) ∧ gives (.mlogNot w) (~~~a) ∧ gives (.mlogClr w) 0 ∧
    (∃ m, exec (.mlogSet w) s = .next (slotWrites s 2 (.m d m)) ∧
      ∀ l j, l < 16 → j < 64 → mBit m l j = decide (j < n)) ∧
    Delivers (.mpopCnt w) s 8 w.d
      (BitVec.ofNat 64 ((List.range (16 * n)).filter fun i => mBit a (i / n) (i % n)).length) 0 ∧
    Delivers (.mpopFirst w) s 8 w.d
      (match (List.range (16 * n)).find? fun i => mBit a (i / n) (i % n) with
        | some i => BitVec.ofNat 64 i
        | none => 0xFFFFFFFFFFFFFFFF) 0

/-- R184, R189, R191, R192: selection, the permutations of lanes and elements, the index words, and moves between a
vector and a scalar register. -/
def Sys2Proof.Claims.VectorMovesPlaceTheirElements : Prop :=
  ∀ (w : RForm) (s : State), InSlot s w.guard →
    let n := tyWidth w.ty
    let nel := tyNel w.ty
    let a (l j : Nat) : Nat := vElem (readV s w.a) n l j
    let v := readV s w.b
    let lane : Nat := if w.l = 1 then (immSel s.limm w.b).1 % 16 else v.toNat % 16
    let elem : Nat := (if w.l = 1 then (immSel s.limm w.b).1 % 32 else v.toNat % 32) % nel
    let m := readM s (w.c.setWidth 3)
    let gives (i : Instr) (lat : Nat) (f : Nat → Nat → Nat) : Prop := GivesPlain i s lat w f
    let r := s.core.kern.readK (w.a.setWidth 5)
    let x := a (w.c.toNat % 16) w.b.toNat
    GivesElements (.vsel w) s 2 w.d n (fun _ _ => true) (fun l j => (if mBit m l j then vA s w l j else vB s w l j, 0)) ∧
      gives (.vpermIdx w) 3 (fun l j => a (vElem v 256 l 0 % 16) j) ∧ gives (.vpermRot w) 3 (fun l j => a ((l + lane) % 16) j) ∧
      gives (.vpermXor w) 3 (fun l j => a (l ^^^ lane) j) ∧ gives (.vbcastLane w) 3 (fun _ j => a lane j) ∧
      gives (.vbcastElem w) 3 (fun l _ => a l elem) ∧
      gives (.vshuf w) 2 (fun l j => a l (vElem v n l j % nel)) ∧ gives (.vidx w) 2 (fun l _ => l) ∧
      gives (.vidxElem w) 2 (fun _ j => j) ∧ gives (.vidxFlat w) 2 (fun l j => l * nel + j) ∧
      gives (.vmovk w) 2 (fun _ _ => r.toNat) ∧
      Delivers (.vext w) s 2 w.d (if tyIsInt w.ty then narrowed w.ty false (x : Int) else BitVec.ofNat 64 x) 0 ∧
      (w.b.toNat < nel → ∃ y, exec (.vins w) s = .next (slotWrites s 2 (.v w.d y)) ∧
        ∀ l j, l < 16 → j < nel → vElem y n l j =
          if l = w.c.toNat % 16 ∧ j = w.b.toNat then r.toNat % 2 ^ n else vElem (readV s w.d) n l j)

/-- R175, R193: the lane flag words are read into lane words, written but for their reserved bits, and cleared. -/
def Sys2Proof.Claims.LaneFlagWordsMove : Prop :=
  ∀ (w : RForm) (s : State), InSlot s w.guard →
    (∃ x : VecReg, exec (.vflagRd w) s = .next (slotWrites s 2 (.v w.d x)) ∧
      ∀ l : Fin 16, vElem x 256 l.val 0 = (s.core.kern.lflags.get l).toNat) ∧
    (∃ f : Vector Word 16, exec (.vflagWr w) s = .next (slotWrites s 2 (.laneWords f)) ∧
      ∀ l : Fin 16, f.get l = BitVec.ofNat 64 (vElem (readV s w.a) 256 l.val 0) &&& 0x17F007F) ∧
    exec (.vflagClr w) s = .next (slotWrites s 2 .laneClear)

/-- R186, R50, R158: `vcvt` converts element by element between the types, quarter by quarter when the widths differ.
Subnormal inputs into the 8-bit formats are honoured (deduced, log entry 20). -/
def Obligations.VectorConversionsFollowTheirTypes : Prop :=
  ∀ (w : RForm) (s : State), InSlot s w.guard →
    let src := w.c.setWidth 5
    let dst := w.ty
    let q := w.fn.toNat % 4
    let e := min (tyNel src) (tyNel dst)
    let rm := w.rm.toNat
    let place (j : Nat) : Option Nat :=
      if tyNel dst < tyNel src then some (q * e + j)
      else if q * e ≤ j ∧ j < q * e + e then some (j - q * e)
      else none
    let one (l x : Nat) : Nat × Flags :=
      let i := intOf src (BitVec.ofNat 64 x)
      let plain := !tyNarrow src && !tyNarrow dst
      let v : FVal := if tyIsInt src then ofInt i 0 false else readFloat (tyFmt src) (plain && laneFz s l) x
      if tyNarrow dst then narrow (tyFmt dst) rm v
      else if tyIsInt dst then
        if tyIsInt src then ((narrowed dst (w.sat == 1) i).toNat, overflows dst i)
        else
          let r := floatToInt (tySigned dst) (tyWidth dst) rm v
          ((BitVec.ofInt 64 r.1).toNat, r.2)
      else deliver (tyFmt dst) rm (!tyIsInt src && laneFz s l) v
    GivesElements (.vcvt w) s 4 w.d (tyWidth dst) (fun l j => (place j).isSome && vActive s w l j)
      fun l j => one l (vElem (readV s w.a) (tyWidth src) l ((place j).getD 0))

namespace Sys2Proof.Claims

/-- The 32 values of a row that lane l of consecutive registers holds (R187). -/
def heldRow (s : State) (w : RForm) (l : Nat) : List FVal :=
  (List.range 32).map fun c =>
    decodeFloat (tyFmt w.ty)
      (vElem (readV s (w.a + BitVec.ofNat 6 (c / tyNel w.ty))) (tyWidth w.ty) l (c % tyNel w.ty))

/-- The band scale of a lane: the low half of its word of vB, or a half of LIMM (R187). -/
def bandOf (s : State) (w : RForm) (l : Nat) : Nat :=
  if w.l = 1 then (immSel s.limm w.b).1 % 2 ^ 16 else vElem (readV s w.b) 256 l 0 % 2 ^ 16

end Sys2Proof.Claims

/-- R187, R188: `vpack` encodes the row of each lane into a packable format, payload in vD and scales in v(D + 1);
`vunpack` decodes it into as many registers as 32 elements of the type fill. Another format traps. -/
def Obligations.PackAndUnpackMoveRows : Prop :=
  ∀ (w : RForm) (s : State) (f : TileFmt), InSlot s w.guard → w.ty = 9 ∨ w.ty = 10 →
    fmtReserved s w.c.toNat = false →
    (fmtPackable w.c.toNat = false → ∀ i ∈ [(Instr.vpack w, (0x50 : BitVec 8)), (.vunpack w, 0x51)],
      exec i.1 s = .next (slotFault s { cause := .badMode } i.2)) ∧
    (fmtPackable w.c.toNat = true → tileFmt w.c.toNat = some f →
      let kf := f.scaling = .kf
      let band (l : Nat) : FVal := decodeFloat fmtBF16 (bandOf s w l)
      let enc (l : Nat) := encodeRow f w.rm.toNat (band l) (heldRow s w l)
      let fl : LaneFlags := Vector.ofFn fun l => (enc l.val).2.2
      let payload (r : BitVec 6) (l : Nat) : Nat := vElem (readV s r) 256 l 0
      let scales (l : Nat) : Nat := if f.scaling = .plain then 0 else payload (w.a + 1) l
      let dec (l : Nat) := decodeRow f (payload w.a l) (scales l) (band l)
      let outs (l : Nat) : List (Nat × Flags) := (dec l).1.map fun x => deliver (tyFmt w.ty) w.rm.toNat false x
      let ufl : LaneFlags := Vector.ofFn fun l => flagIf (dec l.val).2 flSN ||| orFlags ((outs l.val).map (·.2))
      ((kf → ∀ l < 16, bandOk (bandOf s w l) = true) → NoLaneTrap s fl → ∃ x y : VecReg,
        exec (.vpack w) s = .next (lanesGive s 4 (.v w.d x :: if f.scaling = .plain then [] else [.v (w.d + 1) y]) fl) ∧
        ∀ l < 16, vElem x 256 l 0 = (enc l).1 % 2 ^ 256 ∧ vElem y 256 l 0 = (enc l).2.1 % 2 ^ 256) ∧
      ((kf → ∀ l < 16, bandFinite (bandOf s w l) = true ∧ slotsBad (scales l) = false) → NoLaneTrap s ufl →
        ∃ x : Nat → VecReg,
          exec (.vunpack w) s =
            .next (lanesGive s 4 ((List.range (rowRegs w.ty)).map fun k => .v (w.d + BitVec.ofNat 6 k) (x k)) ufl) ∧
          ∀ c l, c < 32 → l < 16 → vElem (x (c / tyNel w.ty)) (tyWidth w.ty) l (c % tyNel w.ty) =
            ((outs l).getD c (0, 0)).1 % 2 ^ tyWidth w.ty))

namespace Sys2Proof.Claims

/-- R131: the pairwise tree over 2^n lanes from lane `b`; the result of each pair is taken in its lower lane. -/
def tree (op : Nat → Nat → Nat → Nat × Flags) (x : Nat → Nat) : Nat → Nat → Nat × List (Nat × Flags)
  | 0, b => (x b, [])
  | n + 1, b =>
    let p := tree op x n b
    let q := tree op x n (b + 2 ^ n)
    let r := op b p.1 q.1
    (r.1, p.2 ++ q.2 ++ [(b, r.2)])

/-- R132: lane l after the scan steps of distance 1, 2, 4, …: each takes op(lane l − k, lane l). -/
def scan (op : Nat → Nat → Nat → Nat × Flags) (x : Nat → Nat) : Nat → Nat → Nat × Flags
  | 0, l => (x l, 0)
  | n + 1, l =>
    let p := scan op x n l
    if l < 2 ^ n then p
    else
      let r := op l (scan op x n (l - 2 ^ n)).1 p.1
      (r.1, p.2 ||| r.2)

/-- The flags that fell to a lane. -/
def flagsAt (l : Nat) (x : List (Nat × Flags)) : Flags := orFlags ((x.filter fun y => y.1 == l).map (·.2))

/-- The word writes every element of vD, or some lane's flag faults its slot. -/
def GivesAll (i : Instr) (s : State) (lat : Nat) (w : RForm) (fl : LaneFlags) (f : Nat → Nat → Nat) : Prop :=
  FaultsOnFlags i s fl ∧ (NoLaneTrap s fl → ∃ x : VecReg, exec i s = .next (lanesGive s lat [.v w.d x] fl) ∧
    ∀ l j, l < 16 → j < tyNel w.ty → vElem x (tyWidth w.ty) l j = f l j % 2 ^ tyWidth w.ty)

end Sys2Proof.Claims

/-- R131, R132, R190: `vred` puts the tree of each column into every lane, an inactive element standing for the
identity; `vscan` the running value, or with SUB bit 3 that of the lane before and the identity in lane 0. A wrapping
integer sum is the sum of the column. `vscan` is taken as not masked (deduced, log entry 20). -/
def Obligations.ReductionsAndScansCombineColumns : Prop :=
  ∀ (w : RForm) (s : State), InSlot s w.guard →
    let nel := tyNel w.ty
    let op (l : Nat) := redOp w (laneFz s l)
    let unit := redIdentity w
    let x (j l : Nat) : Nat := if vActive s w l j then vA s w l j else unit
    let y (j l : Nat) : Nat := vA s w l j
    let redFl : LaneFlags :=
      Vector.ofFn fun l => orFlags ((List.range nel).map fun j => flagsAt l.val (tree op (x j) 4 0).2)
    let sfl : LaneFlags := Vector.ofFn fun l => orFlags ((List.range nel).map fun j => (scan op (y j) 4 l.val).2)
    GivesAll (.vred w) s 8 w redFl (fun _ j => (tree op (x j) 4 0).1) ∧
      GivesAll (.vscan w) s 10 w sfl (fun l j =>
        if w.fn.toNat % 16 < 8 then (scan op (y j) 4 l).1
        else if l = 0 then unit
        else (scan op (y j) 4 (l - 1)).1) ∧
      (tyUnsigned w.ty = true → w.sat = 0 → w.fn.toNat % 16 = 0 →
        GivesAll (.vred w) s 8 w (Vector.replicate 16 0) (fun _ j => ((List.range 16).map (x j)).sum) ∧
          GivesAll (.vscan w) s 10 w (Vector.replicate 16 0) (fun l j => ((List.range (l + 1)).map (y j)).sum))

/-- R180, R194: sums, differences and products of complex elements, real part in the low half; each part is rounded
once. -/
def Sys2Proof.Claims.ComplexWordsRoundEachPart : Prop :=
  ∀ (w : RForm) (s : State), InSlot s w.guard → tyComplex w.ty = true →
    let h := tyWidth w.ty / 2
    let rm := w.rm.toNat
    let re (l x : Nat) : FVal := elemFlt s w l (x % 2 ^ h)
    let im (l x : Nat) : FVal := elemFlt s w l (x / 2 ^ h)
    let a := vA s w
    let b := vB s w
    let c := vC s w
    let gives (i : Instr) (x y : Nat → Nat → FVal) : Prop :=
      GivesMasked i s 4 w fun l j =>
        let p := deliver (tyFmt w.ty) rm (laneFz s l) (x l j)
        let q := deliver (tyFmt w.ty) rm (laneFz s l) (y l j)
        (p.1 + q.1 * 2 ^ h, p.2 ||| q.2)
    let ar (l j : Nat) := re l (a l j)
    let ai (l j : Nat) := im l (a l j)
    let br (l j : Nat) := re l (b l j)
    let bi (l j : Nat) := im l (b l j)
    let cr (l j : Nat) := re l (c l j)
    let ci (l j : Nat) := im l (c l j)
    let pr (l j : Nat) := subV rm (mulV (ar l j) (br l j)) (mulV (ai l j) (bi l j))
    let pi (l j : Nat) := addV rm (mulV (ar l j) (bi l j)) (mulV (ai l j) (br l j))
    let kr (l j : Nat) := subV rm (mulV (ar l j) (br l j)) (mulV (ai l j) (bi l j).neg)
    let ki (l j : Nat) := addV rm (mulV (ar l j) (bi l j).neg) (mulV (ai l j) (br l j))
    gives (.vadd w) (fun l j => addV rm (ar l j) (br l j)) (fun l j => addV rm (ai l j) (bi l j)) ∧
      gives (.vsub w) (fun l j => subV rm (ar l j) (br l j)) (fun l j => subV rm (ai l j) (bi l j)) ∧
      gives (.vcmul w) pr pi ∧ gives (.vcmulConj w) kr ki ∧
      gives (.vcmulFma w) (fun l j => addV rm (pr l j) (cr l j)) (fun l j => addV rm (pi l j) (ci l j)) ∧
      gives (.vcmulFmac w) (fun l j => addV rm (kr l j) (cr l j)) (fun l j => addV rm (ki l j) (ci l j))

/-- R195: `vdot` adds to each 32-bit element of vC the products of the elements of vA and vB in its place: integers
exactly and then narrowed, floating elements with one rounding into f32. -/
def Sys2Proof.Claims.DotProductsAccumulate : Prop :=
  ∀ (w : RForm) (s : State), InSlot s w.guard →
    let n := tyWidth w.ty
    let g := 32 / n
    let t : BitVec 5 := if tySigned w.ty then 1 else 5
    let a (l j i : Nat) : Nat := vElem (readV s w.a) n l (g * j + i)
    let b (l j i : Nat) : Nat := if w.l = 1 then vB s w l j else vElem (readV s w.b) n l (g * j + i)
    let c (l j : Nat) : Nat := vElem (readV s w.c) 32 l j
    let gives (lat : Nat) (f : Nat → Nat → Nat × Flags) : Prop :=
      GivesElements (.vdot w) s lat w.d 32 (vActive s w) f
    (tyIsInt w.ty = true → gives 2 fun l j =>
      let x := intOf t (BitVec.ofNat 64 (c l j)) +
        ((List.range g).map fun i => Claims.elemInt w (a l j i) * Claims.elemInt w (b l j i)).sum
      ((narrowed t (w.sat == 1) x).toNat, overflows t x)) ∧
    (tyIsInt w.ty = false → gives 4 fun l j =>
      let p (i : Nat) : FVal := mulV (elemFlt s w l (a l j i)) (elemFlt s w l (b l j i))
      let z := readFloat fmtF32 (laneFz s l) (c l j)
      deliver fmtF32 w.rm.toNat (laneFz s l) (addV w.rm.toNat (addV w.rm.toNat z (p 0)) (p 1)))

/-- R113, R176, R406: when some lane raises a flag that it enables, a vector word writes nothing and faults its slot
with the cause of the lowest such flag; LMASK names the lanes that raise and enable it, LANE the lowest of them. The
integer words that overflow, and the floating words, whatever flags of R49 they raise. -/
def Sys2Proof.Claims.EnabledLaneFlagsFaultTheSlot : Prop :=
  ∀ (w : RForm) (s : State), InSlot s w.guard →
    let ints (f : Nat → Nat → Int) : LaneFlags :=
      lanesRaise (tyNel w.ty) (vActive s w) fun l j => (0, overflows w.ty (f l j))
    let flts (f : Nat → Nat → FVal) : LaneFlags :=
      lanesRaise (tyNel w.ty) (vActive s w) fun l j => deliver (tyFmt w.ty) w.rm.toNat (laneFz s l) (f l j)
    let a (l j : Nat) : Int := Claims.elemInt w (vA s w l j)
    let b (l j : Nat) : Int := Claims.elemInt w (vB s w l j)
    let c (l j : Nat) : Int := Claims.elemInt w (vC s w l j)
    let x (l j : Nat) : FVal := elemFlt s w l (vA s w l j)
    let y (l j : Nat) : FVal := elemFlt s w l (vB s w l j)
    let z (l j : Nat) : FVal := elemFlt s w l (vC s w l j)
    (tyIsInt w.ty = true →
      FaultsOnFlags (.vadd w) s (ints fun l j => a l j + b l j) ∧ FaultsOnFlags (.vsub w) s (ints fun l j => a l j - b l j) ∧
      FaultsOnFlags (.vmul w) s (ints fun l j => a l j * b l j) ∧
      FaultsOnFlags (.vfma w) s (ints fun l j => a l j * b l j + c l j) ∧
      FaultsOnFlags (.vabs w) s (ints fun l j => |a l j|) ∧ FaultsOnFlags (.vneg w) s (ints fun l j => -(a l j))) ∧
    (tyFloat w.ty = true →
      FaultsOnFlags (.vadd w) s (flts fun l j => addV w.rm.toNat (x l j) (y l j)) ∧
      FaultsOnFlags (.vsub w) s (flts fun l j => subV w.rm.toNat (x l j) (y l j)) ∧
      FaultsOnFlags (.vmul w) s (flts fun l j => mulV (x l j) (y l j)) ∧
      FaultsOnFlags (.vfma w) s (flts fun l j => addV w.rm.toNat (mulV (x l j) (y l j)) (z l j)) ∧
      FaultsOnFlags (.vfnSqrt w) s (flts fun l j => sqrtV (tyFmt w.ty).p (x l j)))

/-- R181, R182: the functions, the logical words, shifts and bit counts on lanes. -/
def Obligations.VectorFunctionsAndBitWords : Prop :=
  Claims.VectorFunctionsDeliverTheirFunction ∧ Claims.VectorBitWordsActOnEachElement

/-- R90, R180: floating arithmetic, selection and sign words on lanes. -/
def Obligations.FloatingVectorWords : Prop :=
  Claims.FloatingVectorWordsRoundOnce ∧ Claims.VectorSelectionAndSignWords

/-- R113, R176, R180, R406: the integer words on lanes give their results, or fault for an enabled flag. -/
def Obligations.IntegerVectorWordsNarrowOrFault : Prop :=
  Claims.IntegerVectorWordsNarrowEachElement ∧ Claims.EnabledLaneFlagsFaultTheSlot

/-- R175, R184, R189, R191-R193: moves of elements and of lane flags. -/
def Obligations.VectorMovesAndLaneFlags : Prop :=
  Claims.VectorMovesPlaceTheirElements ∧ Claims.LaneFlagWordsMove

/-- R180, R194, R195: complex arithmetic and dot products. -/
def Obligations.ComplexWordsAndDotProducts : Prop :=
  Claims.ComplexWordsRoundEachPart ∧ Claims.DotProductsAccumulate

/-! ## Memory words (R59, R96, R238, R268, R307-R341) -/

namespace Sys2Proof.Claims

/-- The checks of a CP word's access of `n` bytes at `a` pass, and it is served at `t`; `s'` is `s` with the
translation held (R238, R256, R316). -/
def Reaches (s : State) (opc : BitVec 8) (aop : BitVec 4) (w : MForm) (a : Word) (n align : Nat) (t : Target) (s' : State) :
    Prop :=
  frontTrap a n align anyAperture (writesMem opc) = none ∧
    resolve s (cpAccess s) { entryOf s opc w a n with aop := aop } = .ok (t, s') ∧ t.cut s' s'.focus = false

/-- A read of `n` bytes at the target goes through: in this package, from a stack that is not quiesced, no poison. -/
def Readable (s : State) (t : Target) (n : Nat) : Prop :=
  match t.loc with
  | .stk p k o =>
    p = s.md.pkg.toNat ∧ quiesced s (cellKey s p k o) = false ∧ metPoison s (cellKey s p k o) false = none
  | .srf c off => (s.getCore c).srfBad off n = false
  | .dev off => off % 8 = 0 ∧ n = 8
  | .host p off => quiesced s (hostKey s p off) = false ∧ metPoison s (hostKey s p off) false = none

/-- The little-endian value of `n` bytes at the target; a GCOUNT cell reads as the sum of its slots, 2^64 − 1 at most
(R307). -/
def held (s : State) (t : Target) (n : Nat) : Nat :=
  match t.loc, t.lattice with
  | .stk p k o, 7 => min (2 ^ 64 - 1) ((List.range 8).map fun d => leNat (locBytes s (.stk p k (o + 8 * d)) 8)).sum
  | l, _ => leNat (locBytes s l n)

/-- A loaded value of a type in a register (R96). -/
def extended (t : BitVec 5) (x : Nat) : Word :=
  if tySigned t then (BitVec.ofNat (tyWidth t) x).signExtend 64 else BitVec.ofNat 64 x

/-- The CP word has ended with register D loaded. -/
def cpLoaded (s' : State) (d : BitVec 5) (v : Word) : State := cpDone s' { s'.core.cp.writeG d v with remote := none }

/-- The cell of byte `i` of a place in HBM or in the host window. -/
def cellAt (s : State) (l : Loc) (i : Nat) : Nat :=
  match l with
  | .stk p k o => cellKey s p k (o + i)
  | .host p off => hostKey s p (off + i)
  | _ => 0

/-- The bytes of memory at a place are `b`, every other byte of memory is as in `s`, and nothing but memory and its
marks differs. -/
def CellsStored (s t : State) (l : Loc) (b : List Byte) : Prop :=
  t = { s with mem := t.mem, hostMem := t.hostMem, poison := t.poison, unmet := t.unmet } ∧
    (∀ i < b.length, byteAt t (cellAt s l i) = b.getD i 0) ∧
    ∀ x, (∀ i < b.length, x ≠ cellAt s l i) → byteAt t x = byteAt s x

/-- The bytes at a place are `b`, every other byte of the machine is as in `s`; only marks of poison whose every byte
was written are gone (R246, R417), and in a faulty row not even those (R424). A write of the SRF stands after the
writes of its kernel that parties have read (R289). -/
def Stored (s t : State) (l : Loc) (b : List Byte) : Prop :=
  let n := b.length
  match l with
  | .stk p k o =>
    CellsStored s t l b ∧
      (n < 128 ∨ rowBad s p k o = true → t.poison = s.poison ∧ t.unmet = s.unmet) ∧
      (n = 128 → rowBad s p k o = false →
        t.poison = setDel (granuleKey s p k o) s.poison ∧ t.unmet = setDel (granuleKey s p k o) s.unmet)
  | .srf c off =>
    t = s.onCore c (fun x => { x with
        srf := (t.getCore c).srf, srfPoison := (t.getCore c).srfPoison, kern := x.kern.writtenOver (atAddr off b) }) ∧
      (∀ i < n, cellGet (t.getCore c).srf (off + i) = b.getD i 0) ∧
      (∀ x, (x < off ∨ off + n ≤ x) → cellGet (t.getCore c).srf x = cellGet (s.getCore c).srf x) ∧
      (t.getCore c).srfPoison =
        (s.getCore c).srfPoison.filter fun q => !(decide (off ≤ 64 * q) && decide (64 * q + 64 ≤ off + n))
  | .host _ _ => CellsStored s t l b ∧ t.poison = s.poison ∧ t.unmet = s.unmet
  | .dev _ => False

/-- The CP word has ended with the bytes stored. -/
def StoresBytes (i : Instr) (s s' : State) (l : Loc) (b : List Byte) : Prop :=
  ∃ t, exec i s = .next (cpDone t { t.core.cp with remote := none }) ∧ Stored s' t l b

end Sys2Proof.Claims

/-- R96, R319-R322: a CP load delivers the bytes at its address, extended for its type, `ldq` two registers from
sixteen bytes; `pref` changes no value. -/
def Sys2Proof.Claims.LoadsDeliverTheBytesOfMemory : Prop :=
  ∀ (w : MForm) (s s' : State) (t : Target), OnCp s w.guard →
    let n := tyBytes w.ty
    let a := eaIndexed s w
    let d : BitVec 5 := w.d.setWidth 5
    let lo := BitVec.ofNat 64 (held s' t 16 % 2 ^ 64)
    let hi := BitVec.ofNat 64 (held s' t 16 / 2 ^ 64)
    let gives (i : Instr) (opc : BitVec 8) : Prop :=
      Reaches s opc 0 w a n n t s' → Readable s' t n → exec i s = .next (cpLoaded s' d (extended w.ty (held s' t n)))
    gives (.ld w) 0xB0 ∧ gives (.lds w) 0xB2 ∧
      (Reaches s 0xB4 0 w a 16 16 t s' → Readable s' t 16 → t.lattice = 0 →
        exec (.ldq w) s = .next (cpLoaded (s'.withCp (s'.core.cp.writeG d lo)) (d + 1) hi)) ∧
      exec (.pref w) s = .next (cpDone s s.core.cp)

/-- R96, R319-R321, R323: a CP store writes the low bytes of gD, `stq` two registers, `stz` 128 zero bytes, at the
address of its target, and no other byte. -/
def Sys2Proof.Claims.StoresWriteTheirBytesAlone : Prop :=
  ∀ (w : MForm) (s s' : State) (t : Target), Canonical s → OnCp s w.guard → t.lattice = 0 →
    (match t.loc with
      | .stk p k o => p = s'.md.pkg.toNat ∧ quiesced s' (cellKey s' p k o) = false
      | .host p off => quiesced s' (hostKey s' p off) = false
      | .dev _ => False
      | .srf _ _ => True) →
    let n := tyBytes w.ty
    let a := eaIndexed s w
    let x := (readR s w.d).toNat
    let gives (i : Instr) (opc : BitVec 8) (m : Nat) (b : List Byte) : Prop :=
      Reaches s opc 0 w a m m t s' → StoresBytes i s s' t.loc b
    gives (.st w) 0xB1 n (leBytes n x) ∧ gives (.sts w) 0xB3 n (leBytes n x) ∧
      gives (.stq w) 0xB5 16 (leBytes 8 x ++ leBytes 8 (readR s (w.d + 1)).toNat) ∧
      gives (.stz w) 0xB7 128 (List.replicate 128 0)

/-- R316, R238, R33: a CP load or store whose address names no aperture traps APERTURE; one that is not a multiple of
its size MISALIGNED; CTADDR is the address, WRITE tells a store, and nothing is accessed. -/
def Sys2Proof.Claims.BadAddressesTrapBeforeTheAccess : Prop :=
  ∀ (w : MForm) (s : State), OnCp s w.guard → s.core.cp.inTrap = false →
    let n := tyBytes w.ty
    let a := eaIndexed s w
    let top := fld a 56 8
    let traps (i : Instr) (opc : BitVec 8) (c : Cause) (m : Nat) : Prop :=
      exec i s = .next (s.withCp (trapped s.core.cp c m s.core.cp.pc a 0 opc))
    (top ∉ [0x00, 0xFE, 0xFF] →
      traps (.ld w) 0xB0 .aperture 0 ∧ traps (.lds w) 0xB2 .aperture 0 ∧ traps (.ldq w) 0xB4 .aperture 0 ∧
        traps (.st w) 0xB1 .aperture 0x20 ∧ traps (.sts w) 0xB3 .aperture 0x20 ∧ traps (.stq w) 0xB5 .aperture 0x20) ∧
    (top ∈ [0x00, 0xFE, 0xFF] → a.toNat % n ≠ 0 →
      traps (.ld w) 0xB0 .misaligned 0 ∧ traps (.lds w) 0xB2 .misaligned 0 ∧ traps (.st w) 0xB1 .misaligned 0x20 ∧
        traps (.sts w) 0xB3 .misaligned 0x20) ∧
    (top ∈ [0x00, 0xFE, 0xFF] → a.toNat % 16 ≠ 0 →
      traps (.ldq w) 0xB4 .misaligned 0 ∧ traps (.stq w) 0xB5 .misaligned 0x20)

namespace Sys2Proof.Claims

/-- No reduction stands in a write queue, which a relaxed `red` could carry with it (R303). -/
def NoReds (s : State) : Prop :=
  ∀ (n : Nat) (i : Fin 32) (x : LogEntry), (s.getCore n).kern.wqueue.get i = some x → x.opc ≠ 0xB9

end Sys2Proof.Claims

/-- R324, R326, R327: an atomic of the CP replaces the old value by the operation's and, but for `red`, delivers the
old one; `cas` writes gB only where the old value is that of gD. -/
def Sys2Proof.Claims.AtomicsReplaceTheOldValue : Prop :=
  ∀ (w : MForm) (s s' : State) (t : Target), Canonical s → OnCp s w.guard →
    let n := tyBytes w.ty
    let m := 2 ^ (8 * n)
    let d : BitVec 5 := w.d.setWidth 5
    let a := readR s w.a + (w.off.extractLsb' 0 12).signExtend 64
    let b := (readR s w.b).toNat % m
    let old := held s' t n
    let pick (f : Int → Int → Int) : Nat :=
      (narrowed w.ty false (f (intOf w.ty (BitVec.ofNat 64 old)) (intOf w.ty (BitVec.ofNat 64 b)))).toNat % m
    let f := tyFmt w.ty
    let sum := (deliver f 0 false (addV 0 (decodeFloat f old) (decodeFloat f b))).1
    let free : Prop := Readable s' t n ∧ t.lattice = 0 ∧ ∃ k o, t.loc = .stk s'.md.pkg.toNat k o ∧
      lineWaits s' (cellKey s' s'.md.pkg.toNat k o) = false
    let amo (i : Instr) (op : BitVec 4) (x : Nat) : Prop :=
      Reaches s 0xB8 op w a n n t s' → free → ∃ u, Stored s' u t.loc (leBytes n x) ∧
        exec i s = .next (cpLoaded u d (extended w.ty old))
    let red (i : Instr) (op : BitVec 4) (x : Nat) : Prop :=
      Reaches s 0xB9 op w a n n t s' → free → (w.ord = 0 → NoReds s') → StoresBytes i s s' t.loc (leBytes n x)
    let both (i j : Instr) (op : BitVec 4) (x : Nat) : Prop := amo i op x ∧ red j op x
    both (.amoAdd w) (.redAdd w) 0 (old + b) ∧ both (.amoAnd w) (.redAnd w) 1 (old &&& b) ∧
      both (.amoOr w) (.redOr w) 2 (old ||| b) ∧ both (.amoXor w) (.redXor w) 3 (old ^^^ b) ∧
      both (.amoMin w) (.redMin w) 4 (pick min) ∧ both (.amoMax w) (.redMax w) 5 (pick max) ∧
      amo (.amoExch w) 6 b ∧ both (.amoFadd w) (.redFadd w) 7 sum ∧
      (Reaches s 0xBA 0 w (eaPlain s w) n n t s' → free →
        (old = (readR s w.d).toNat % m → ∃ u, Stored s' u t.loc (leBytes n b) ∧
          exec (.cas w) s = .next (cpLoaded u d (extended w.ty old))) ∧
        (old ≠ (readR s w.d).toNat % m → exec (.cas w) s = .next (cpLoaded s' d (extended w.ty old))))

/-- R310, R311, R329, R330: `join` moves a lattice cell to the join of its value and gB, or adds gB to the die's own
slot of a GCOUNT cell; `ldge` delivers the cell once it has reached the threshold in gB, and waits at its word before,
a wait that can be interrupted, also while the cell's stack takes no request (R37, R274). -/
def Sys2Proof.Claims.LatticeWordsJoinAndWait : Prop :=
  ∀ (w : MForm) (s s' : State) (t : Target) (k o : Nat), Canonical s → OnCp s w.guard → t.loc = .stk s'.md.pkg.toNat k o →
    let p := s'.md.pkg.toNat
    let n := cellSize (w.ty.toNat % 8)
    let a := eaPlain s w
    let b := (readR s w.b).toNat % 2 ^ (8 * n)
    let slot := if t.lattice = 7 then o + 8 * t.slot else o
    let old := leNat (locBytes s' (.stk p k slot) n)
    let new := if t.lattice = 7 then min (2 ^ 64 - 1) (old + b) else latJoin t.lattice old b
    (Reaches s 0xBB 0 w a n n t s' → Readable s' t n → lineWaits s' (cellKey s' p k o) = false →
      StoresBytes (.join w) s s' (.stk p k slot) (leBytes n new)) ∧
    (Reaches s 0xBC 0 w a n n t s' → Readable s' t n →
      (latPasses t.lattice b (held s' t n) = true →
        exec (.ldge w) s = .next (cpLoaded s' (w.d.setWidth 5) (BitVec.ofNat 64 (held s' t n)))) ∧
      (latPasses t.lattice b (held s' t n) = false → exec (.ldge w) s = .next (stayHere s' false false 0xBC (some a)))) ∧
    (Reaches s 0xBC 0 w a n n t s' → quiesced s' (cellKey s' p k o) = true →
      exec (.ldge w) s = .next (stayHere s' false false 0xBC (some a)))

namespace Sys2Proof.Claims

/-- A strong write after `fence.rel` becomes a release (R293). -/
def releases (s : State) (e : LogEntry) : Bool := s.core.kern.fenceRel && isStrong e.opc && writesMem e.opc

/-- The entry as it is logged. -/
def logged (s : State) (e : LogEntry) : LogEntry :=
  { e with seq := s.core.kern.seq, fence := if releases s e = true then e.fence ||| 2 else e.fence }

/-- A write to the own SRF takes no entry: its bytes are written three cycles after issue, in the order that its
word's ORD and the fences give it (R293, R318). -/
def ownWrites (s : State) (e : LogEntry) (cells : List Host.Cell) : State :=
  slotWrites (s.withKern { s.core.kern with fenceRel := s.core.kern.fenceRel && !releases s e }) 3
    (.srf (logged s e).order cells)

/-- The lowest free entry. -/
def LowestFree (v : Vector (Option LogEntry) 32) (q : Fin 32) : Prop := v.get q = none ∧ ∀ p < q, v.get p ≠ none

/-- The word executed in `s` enters its access in the landing buffer of `x` (R127, R128); with no entry free it
executes again (R318). -/
def LandsIn (i : Instr) (s x : State) (e : LogEntry) : Prop :=
  (∀ q, LowestFree x.core.kern.landing q → exec i s = .next (x.withKern { x.core.kern with
    seq := x.core.kern.seq + 1, fenceRel := x.core.kern.fenceRel && !releases x e,
    landing := x.core.kern.landing.set q (some (logged x e)) })) ∧
  ((∀ q, x.core.kern.landing.get q ≠ none) → exec i s = .next (slotAgain x))

/-- The access has entered the landing buffer. -/
def Lands (i : Instr) (s : State) (e : LogEntry) : Prop := LandsIn i s s e

/-- The access has entered the write queue; with no entry free its word executes again (R318). -/
def Queues (i : Instr) (s : State) (e : LogEntry) : Prop :=
  (∀ q, LowestFree s.core.kern.wqueue q → exec i s = .next (s.withKern { s.core.kern with
    seq := s.core.kern.seq + 1, fenceRel := s.core.kern.fenceRel && !releases s e,
    wqueue := s.core.kern.wqueue.set q (some (logged s e)) })) ∧
  ((∀ q, s.core.kern.wqueue.get q ≠ none) → exec i s = .next (slotAgain s))

end Sys2Proof.Claims

/-- R127, R291, R292, R318: in the S slot a load, a returning atomic and `ldge` enter the landing buffer, a load from
the own SRF with its data, unless an older access in flight must precede it or its walk, made first, waits (log entry
22); a store to the own SRF becomes visible three cycles after issue, and every other write enters the write queue.
When an access in flight is performed is left to an event (log entry 3). -/
def Obligations.KernelAccessesEnterTheirBuffers : Prop :=
  ∀ (w : MForm) (s : State), InSlot s w.guard →
    let n := tyBytes w.ty
    let cell := cellSize (w.ty.toNat % 8)
    let d := some (LandDest.k (w.d.setWidth 5))
    let a := eaIndexed s w
    let x := (readR s w.d).toNat
    let b := readR s w.b
    let ok (opc : BitVec 8) (a : Word) (m : Nat) : Prop := frontTrap a m m anyAperture (writesMem opc) = none
    let e (opc : BitVec 8) (a : Word) (m : Nat) : LogEntry := entryOf s opc w a m
    let load (i : Instr) (opc : BitVec 8) (m : Nat) (d : Option LandDest) : Prop :=
      ok opc a m →
        (ownOffset s a = none → Lands i s { e opc a m with dest := d }) ∧
        ∀ off, ownOffset s a = some off →
          let x := { e opc a m with dest := d }
          let free := mayPerform s (logged s x)
          (free = false ∨ walkOlder s s.core.kern.seq = none → Lands i s x) ∧
          (∀ y, free = true → walkOlder s s.core.kern.seq = some y → y.core.srfBad off m = false → LandsIn i s y { x with
            status := .data ((List.range m).map fun i => cellGet (y.core.srfOwn s.core.kern.seq) (off + i)) })
    let store (i : Instr) (opc : BitVec 8) (m : Nat) (bytes : List Byte) : Prop :=
      ok opc a m →
        (ownOffset s a = none → Queues i s { e opc a m with bytes := bytes }) ∧
        ∀ off, ownOffset s a = some off → exec i s = .next (ownWrites s (e opc a m) (atAddr off bytes))
    let ea := eaAtomic s w
    let amo (i : Instr) (op : BitVec 4) : Prop :=
      ok 0xB8 ea n → Lands i s { e 0xB8 ea n with aop := op, operand := b, dest := d }
    let red (i : Instr) (op : BitVec 4) : Prop := ok 0xB9 ea n → Queues i s { e 0xB9 ea n with aop := op, operand := b }
    let at' := eaPlain s w
    let k := s.core.kern
    (k.entries = [] → k.pend = [] → k.undo = [] → k.xforms = [] → k.freeze = .none →
      s.core.srfOwn k.seq = s.core.srf ∧ walkOlder s k.seq = some s ∧
      ∀ e : LogEntry, e.seq = k.seq → mayPerform s e = true) ∧
    load (.ld w) 0xB0 n d ∧ load (.lds w) 0xB2 n d ∧ load (.ldq w) 0xB4 16 (some (.kpair (w.d.setWidth 5))) ∧
      store (.st w) 0xB1 n (leBytes n x) ∧ store (.sts w) 0xB3 n (leBytes n x) ∧
      store (.stq w) 0xB5 16 (leBytes 8 x ++ leBytes 8 (readR s (w.d + 1)).toNat) ∧
      store (.stz w) 0xB7 128 (List.replicate 128 0) ∧ exec (.pref w) s = .next s ∧
      amo (.amoAdd w) 0 ∧ amo (.amoAnd w) 1 ∧ amo (.amoOr w) 2 ∧ amo (.amoXor w) 3 ∧ amo (.amoMin w) 4 ∧
      amo (.amoMax w) 5 ∧ amo (.amoExch w) 6 ∧ amo (.amoFadd w) 7 ∧
      red (.redAdd w) 0 ∧ red (.redAnd w) 1 ∧ red (.redOr w) 2 ∧ red (.redXor w) 3 ∧ red (.redMin w) 4 ∧
      red (.redMax w) 5 ∧ red (.redFadd w) 7 ∧
      (ok 0xBA at' n → Lands (.cas w) s { e 0xBA at' n with dest := d, expected := readR s w.d, operand := b }) ∧
      (ok 0xBC at' cell → Lands (.ldge w) s { e 0xBC at' cell with dest := d, operand := b }) ∧
      (ok 0xBB at' cell → Queues (.join w) s { e 0xBB at' cell with operand := b })

/-- R333, R334: the moves of the C slots between vector registers and the own SRF: whole registers, one lane word to
every lane, and elements at addresses of their own; moves to and from galleries and those with a due distance go
through the buffers. -/
def Sys2Proof.Claims.SrfMovesCarryVectorRegisters : Prop :=
  ∀ (w : MForm) (s : State), InSlot s w.guard →
    let a := eaIndexed s w
    let srf := s.core.srf
    let v := readV s w.d
    let e (opc : BitVec 8) (n : Nat) (d : Option LandDest) : LogEntry := { entryOf s opc w a n with dest := d }
    let data (off n : Nat) : EntryStatus := .data ((List.range n).map fun i => cellGet srf (off + i))
    let read (i : Instr) (opc : BitVec 8) (n align : Nat) (d : LandDest) (byte : VecReg → Nat → Nat → Nat) : Prop :=
      frontTrap a n align srfApertures false = none →
        (∀ off, ownOffset s a = some off → s.core.srfBad off n = false →
          (w.due = 0 → ∃ x : VecReg, exec i s = .next (slotWrites s 6 (.v w.d x)) ∧
            ∀ l b, l < 16 → b < 32 → vElem x 8 l b = byte x l b) ∧
          (w.due ≠ 0 → Lands i s { e opc n (some d) with status := data off n })) ∧
        (ownOffset s a = none → w.due ≠ 0 → Lands i s (e opc n (some d)))
    let off := (ownOffset s a).getD 0
    let size := tyBytes w.ty
    let place (l j : Nat) : Nat := fld (elemAddr s w l j) 0 22
    let hold (t : State) : State := holdFor t (bankLoad (elemOffsets s w) size - 1)
    read (.sread w) 0xBE 512 64 (.v w.d) (fun _ l b => (cellGet srf (off + 32 * l + b)).toNat) ∧
      read (.sbcast w) 0xC2 32 32 (.vall w.d) (fun _ _ b => (cellGet srf (off + b)).toNat) ∧
      (frontTrap a 512 64 srfApertures true = none →
        (∀ off, ownOffset s a = some off → exec (.swrite w) s = .next (ownWrites s (e 0xBF 512 none)
          ((List.range 512).map fun i => (off + i, BitVec.ofNat 8 (vElem v 8 (i / 32) (i % 32)))))) ∧
        (ownOffset s a = none → Queues (.swrite w) s { e 0xBF 512 none with bytes := leBytes 512 v.toNat })) ∧
      ((∀ l < 16, elemTrap s w false l = none) → ∃ x : VecReg,
        exec (.sreadx w) s = .next (hold (slotWrites s 6 (.v w.d x))) ∧
        ∀ l j, l < 16 → j < tyNel w.ty → vElem x (tyWidth w.ty) l j =
          leNat ((List.range size).map fun i => cellGet srf (place l j + i))) ∧
      ((∀ l < 16, elemTrap s w true l = none) →
        exec (.swritex w) s = .next (hold (ownWrites s (entryOf s 0xC1 w (eaPlain s w) 0)
          ((List.range 16).flatMap fun l =>
            (List.range (tyNel w.ty)).flatMap fun j => atAddr (place l j) (leBytes size (vElem v (tyWidth w.ty) l j))))))

/-- R336, R337: `cvta` rewrites an address of one SRF for another aperture or core, and traps for one that lies
elsewhere; `inap` tells where an address lies. -/
def Sys2Proof.Claims.AddressWordsConvertAndTest : Prop :=
  ∀ (w : RForm) (s : State), guardHolds s w.guard = true →
    let a := readR s w.a
    let top := fld a 56 8
    let off := fld a 0 22
    let me := coreNum s.focus
    let b := (opB s w true).toNat
    let own : Prop := top = 0xFF ∧ fld a 22 34 = 0 ∧ off < 0x300000
    let gal : Prop := top = 0xFE ∧ fld a 29 27 = 0 ∧ fld a 22 7 < 96 ∧ off < 0x300000
    let gives (i : Instr) (v : Nat) : Prop := Delivers i s 1 w.d (BitVec.ofNat 64 v) 0
    let fails (i : Instr) (c : Cause) : Prop := exec i s = .next (stopWord s 0xC4 (.trap { cause := c, addr := a } s))
    (own → gives (.cvtaGal w) (0xFE * 2 ^ 56 + me * 2 ^ 22 + off)) ∧ (top ≠ 0xFF → fails (.cvtaGal w) .aperture) ∧
      (gal → fld a 22 7 = me → gives (.cvtaOwn w) (0xFF * 2 ^ 56 + off)) ∧
      (gal → fld a 22 7 ≠ me → fails (.cvtaOwn w) .aperture) ∧
      (own ∨ gal → b < 96 → gives (.cvtaCore w) (0xFE * 2 ^ 56 + b * 2 ^ 22 + off)) ∧
      (own ∨ gal → 96 ≤ b → fails (.cvtaCore w) .galleryCore) ∧
      (own ∨ gal → gives (.cvtaOff w) off) ∧
      DeliversPred (.inapGlob w) s w.d (top == 0) 0 ∧ DeliversPred (.inapSrf w) s w.d (decide own) 0 ∧
      DeliversPred (.inapGal w) s w.d (decide gal) 0 ∧
      DeliversPred (.inapLocal w) s w.d (decide (own ∨ (gal ∧ fld a 22 7 = me))) 0

/-- R293, R294, R331, R340, R341: fences and maintenance. On the CP a fence only ends, for every earlier access is
performed; in the S slot `fence.acq` marks the latest strong read, `fence.rel` the next strong write, and `fence.sc`
holds the next bundle; at scope lane the first three have no effect, and `fence.sc` traps FENCE_SCOPE. `cache.iall`
and `cache.iline` drop held instruction words; `tlbi` drops held translations once no access in flight uses them, and
ends the moves of lines that have committed (R314). That `cache.iline` drops one word of 8 bytes is deduced, the
line's size being open (log entry 11), and so is what ends a move (log entry 29). That every access of the CP is
performed in program order is the model's choice (log entry 2). -/
def Obligations.FencesAndMaintenance : Prop :=
  ∀ (m : MForm) (w : RForm) (s : State),
    (OnCp s m.guard →
      (∀ i ∈ [Instr.fenceAcq m, .fenceRel m, .fenceAr m], exec i s = .next (cpDone s s.core.cp)) ∧
      (m.sc ≠ 1 → exec (.fenceSc m) s = .next (cpDone s s.core.cp)) ∧
      (m.sc = 1 → s.core.cp.inTrap = false →
        exec (.fenceSc m) s = .next (s.withCp (trapped s.core.cp .fenceScope 0 s.core.cp.pc 0 0 0xBD)))) ∧
    (InSlot s m.guard → s.scope ≠ 1 →
      let k := s.core.kern
      let gives (i : Instr) (x : Kern) : Prop := exec i s = .next (s.withKern x)
      gives (.fenceAcq m) (markAcquire k) ∧ gives (.fenceRel m) { k with fenceRel := true } ∧
        gives (.fenceAr m) { markAcquire k with fenceRel := true } ∧
        gives (.fenceSc m) { markAcquire k with fenceRel := true, freeze := .fence k.seq, shown := k.seq }) ∧
    (InSlot s m.guard → s.scope = 1 →
      (∀ i ∈ [Instr.fenceAcq m, .fenceRel m, .fenceAr m], exec i s = .next s) ∧ exec (.fenceSc m) s = .next (slotFault s { cause := .fenceScope } 0xBD)) ∧
    (OnCp s w.guard →
      let c := s.core.cp
      exec (.cacheIall w) s = .next (cpDone s { c with icache := [] }) ∧
        (∃ l, exec (.cacheIline w) s = .next (cpDone s { c with icache := l }) ∧
          ∀ x, x ∈ l ↔ x ∈ c.icache ∧ x.pc.toNat / 8 ≠ (readR s w.a).toNat / 8) ∧
        exec (.cacheDline w) s = .next (cpDone s c) ∧ exec (.cacheDall w) s = .next (cpDone s c)) ∧
    (OnCp s w.guard → s.core.cp.mode = true →
      let die := coreDie s.focus
      let asid : BitVec 16 := (readR s w.a).setWidth 16
      let va := fld (readR s w.b) 0 56
      let drops (i : Instr) (p : TlbEntry → Prop) : Prop :=
        let meant (x : TlbEntry) : Prop := (w.fn.getLsbD 2 = true ∨ x.die = die) ∧ p x
        ((∃ x ∈ inUse s, meant x) → exec i s = .next (stayHere s true false 0xC8 none)) ∧
        ((∀ x ∈ inUse s, ¬ meant x) → ∃ l m,
          exec i s = .next (cpDone { s with tlb := l, migrating := m } s.core.cp) ∧
          (∀ x, x ∈ l ↔ x ∈ s.tlb ∧ ¬ meant x) ∧
          ∀ x, x ∈ m ↔ x ∈ s.migrating ∧ ¬ (x.done = true ∧
            (p (x.entry 0) ∨ ∃ y ∈ s.tlb, p y ∧ y.asid = x.asid ∧ y.va ≤ x.va ∧ x.va < y.va + y.size) ∧
            ∀ y, y ∈ l ∨ y ∈ inUse s → leadsOld { s with tlb := l } x y = false))
      drops (.tlbiAll w) (fun _ => True) ∧ drops (.tlbiAsid w) (fun x => x.asid = asid) ∧
        drops (.tlbiPage w) (fun x => x.asid = asid ∧ x.va ≤ va ∧ va < x.va + x.size) ∧
        drops (.tlbiRange w) (fun x => x.asid = asid ∧ x.range = true))

/-- R137, R299, R339: an arrival is recorded with the generation of its channel, once the kernel's earlier accesses
are performed, and the last participant completes the generation; a wait goes on when the channel's generation is no
longer the recorded one; `bar.sync` of the S slot does both. An arrival of a core that does not participate, and a
second one before the first has counted, traps BARRIER_SCOPE, a wait without an arrival, or on a channel that the
launch has not claimed, BARRIER_UNARMED. That an arrival of the CP counts at once, and that a second arrival before
the first has counted traps, is deduced (log entry 22). -/
def Obligations.BarrierWordsArriveAndWait : Prop :=
  ∀ (w : IForm) (s : State) (p : Prog), guardHolds s w.guard = true → s.core.prog = some p →
    let die := w.fn.getLsbD 2
    let chan : BitVec 3 := w.imm.extractLsb' 0 3
    let mine := Channel.isFor p.launch s.focus die chan.toNat
    let a := s.core.arrival die
    let cp : Prop := s.place = .cp
    let ends (t : State) : State := if s.place = .cp then cpDone t t.core.cp else t
    let waits (t : State) : State :=
      if s.place = .cp then stayHere t false true 0xC6 none
      else t.withKern { t.core.kern with freeze := .barrier die chan t.clock t.core.kern.seq, shown := t.core.kern.seq }
    let fails (i : Instr) (c : Cause) (d : Nat) : Prop :=
      exec i s = .next (stopWord s 0xC6 (.trap { cause := c, detail := BitVec.ofNat 32 d } s))
    let after (c : Channel) : Channel := ({ c with arrived := setAdd s.focus c.arrived } : Channel).settle
    let counted (c : Channel) : State :=
      { s with
        core := s.core.setArrival die ⟨some c.gen, none⟩
        channels := s.channels.map fun d => if mine d then after d else d }
    let held : State := { s with core := s.core.setArrival die { a with pending := some s.core.kern.seq } }
    let now : Prop := cp ∨ s.core.kern.settled s.core.kern.seq = true
    (∀ c, s.channels.find? mine = some c → a.gen ≠ some c.gen → a.pending = none →
      (now → exec (.barArrive w) s = .next (ends (counted c))) ∧
      (¬ now → exec (.barArrive w) s = .next held) ∧
      (¬ cp → now → (after c).gen ≠ c.gen → exec (.barSync w) s = .next (counted c)) ∧
      (¬ cp → now → (after c).gen = c.gen → exec (.barSync w) s = .next (waits (counted c))) ∧
      (¬ cp → ¬ now → exec (.barSync w) s = .next (waits held))) ∧
    (s.channels.find? mine = none → fails (.barArrive w) .barrierScope chan.toNat) ∧
    (∀ c, s.channels.find? mine = some c → a.gen = some c.gen ∨ a.pending ≠ none →
      fails (.barArrive w) .barrierScope chan.toNat ∧ (¬ cp → fails (.barSync w) .barrierScope chan.toNat)) ∧
    (¬ cp → s.channels.find? mine = none → fails (.barSync w) .barrierScope chan.toNat) ∧
    ((a.gen = none ∧ a.pending = none) ∨ s.channels.find? mine = none → fails (.barWait w) .barrierUnarmed 0) ∧
    (∀ c g, s.channels.find? mine = some c → a = ⟨some g, none⟩ →
      (g ≠ c.gen → exec (.barWait w) s = .next (ends s)) ∧
      (g = c.gen → exec (.barWait w) s = .next (waits s))) ∧
    (∀ c, s.channels.find? mine = some c → a.pending ≠ none → exec (.barWait w) s = .next (waits s)) ∧
    (∀ c q, s.channels.find? (fun d => d.launch == p.launch && d.parts.contains s.focus && d.quad.isNone == die) = some c →
      mine c = true → s.channels.find? mine = some c → a.pending = some q → (s.core.arrival (!die)).pending = none →
      s.core.kern.settled q = true → exec (.barrierArrivalCounted s.focus) s = .next (counted c))

/-- R96, R238, R316, R319-R323: loads and stores of the CP, and the traps of bad addresses. -/
def Obligations.LoadsAndStoresOfTheCp : Prop :=
  Claims.LoadsDeliverTheBytesOfMemory ∧ Claims.StoresWriteTheirBytesAlone ∧ Claims.BadAddressesTrapBeforeTheAccess

/-- R309-R311, R324-R330: atomics and lattice words of the CP. -/
def Obligations.AtomicAndLatticeWords : Prop :=
  Claims.AtomicsReplaceTheOldValue ∧ Claims.LatticeWordsJoinAndWait

/-- R333-R337: moves between vector registers and SRFs, and the address words. -/
def Obligations.SrfMovesAndAddressWords : Prop :=
  Claims.SrfMovesCarryVectorRegisters ∧ Claims.AddressWordsConvertAndTest

/-! ## Numbers (R46-R54, R154-R164, R307, R487) -/

namespace Sys2Proof.Claims

/-- The value of the magnitude bits `n` of a binary coding of `eb` exponent and `k` fraction bits, with bias 2^(eb−1)
− 1; it goes on beyond the coding's largest finite value as if the exponent had no end. -/
def magnitude (eb k n : ℕ) : ℚ :=
  let bias : ℤ := 2 ^ (eb - 1) - 1
  if n / 2 ^ k = 0 then (n : ℚ) / 2 ^ k * 2 ^ (1 - bias)
  else (1 + ((n % 2 ^ k : ℕ) : ℚ) / 2 ^ k) * 2 ^ (((n / 2 ^ k : ℕ) : ℤ) - bias)

/-- An exact value is finite. -/
def finite (v : FVal) : Bool :=
  match v with
  | .fin _ _ _ => true
  | _ => false

/-- The number that a finite exact value is. -/
def val (v : FVal) : ℚ :=
  match v with
  | .fin n m e => (if n then -1 else 1) * (m : ℚ) * 2 ^ e
  | _ => 0

/-- The exact value of sign `neg` stands for the magnitude `q`, for a rounding to `p` bits: it is `q`, or tells the
interval of at least `p` bits in which `q` lies. -/
def Stands (p : ℕ) (v : FVal) (neg : Bool) (q : ℚ) : Prop :=
  0 < q ∧ ∃ (m : ℕ) (e : ℤ), (v = .fin neg m e ∧ q = m * 2 ^ e) ∨
    (v = .near neg m e ∧ 2 ^ p ≤ m ∧ (m : ℚ) * 2 ^ e < q ∧ q < (m + 1) * 2 ^ e)

/-- `c` numbers the value, among the rising values `V`, to which the mode rounds a magnitude `q` of sign `neg` (R48).
-/
def RoundsTo (V : ℕ → ℚ) (rm : ℕ) (neg : Bool) (q : ℚ) (c : ℕ) : Prop :=
  ∃ n, V n ≤ q ∧ q < V (n + 1) ∧ c = if V n = q then n else
    match rm with
    | 0 => if 2 * q < V n + V (n + 1) ∨ (2 * q = V n + V (n + 1) ∧ n % 2 = 0) then n else n + 1
    | 1 => n
    | 2 => if neg then n + 1 else n
    | 3 => if neg then n else n + 1
    | _ => if 2 * q < V n + V (n + 1) then n else n + 1

/-- A magnitude is tiny (R49): rounded as if the exponent had no lower end, which is rounding it 2^j times as large,
it lies below the smallest normal. -/
def Tiny (eb k rm : ℕ) (neg : Bool) (q : ℚ) : Prop :=
  ∃ j c : ℕ, magnitude eb k (2 ^ k) ≤ q * 2 ^ j ∧ RoundsTo (magnitude eb k) rm neg (q * 2 ^ j) c ∧ c < (j + 1) * 2 ^ k

/-- A number rounded to an integer in a mode (R48). -/
def roundedTo (rm : ℕ) (r : ℚ) : ℤ :=
  match rm with
  | 0 => if r - ⌊r⌋ < 1 / 2 ∨ (r - ⌊r⌋ = 1 / 2 ∧ ⌊r⌋ % 2 = 0) then ⌊r⌋ else ⌊r⌋ + 1
  | 1 => if 0 ≤ r then ⌊r⌋ else ⌈r⌉
  | 2 => ⌊r⌋
  | 3 => ⌈r⌉
  | _ => if 0 ≤ r then ⌊r + 1 / 2⌋ else ⌈r - 1 / 2⌉

/-- The codings of R46 and R154, each with its exponent bits, its fraction bits and its largest finite value. -/
def codings : List (FFmt × ℕ × ℕ × ℕ) :=
  [(fmtF64, 11, 52, 0x7FEFFFFFFFFFFFFF), (fmtF32, 8, 23, 0x7F7FFFFF), (fmtBF16, 8, 7, 0x7F7F), (fmtF16, 5, 10, 0x7BFF),
    (fmtE5M2, 5, 2, 0x7B), (fmtE4M3, 4, 3, 0x7E), (fmtE3M2, 3, 2, 0x1F), (fmtE2M3, 2, 3, 0x1F), (fmtE2M1, 2, 1, 0x7)]

/-- The codings with infinities. -/
def ieee : List (FFmt × ℕ × ℕ × ℕ) := codings.take 5

end Sys2Proof.Claims

/-- R46, R154: what the bits of each floating coding stand for: sign, exponent and fraction with its bias, subnormals
where the exponent field is zero, infinities and NaNs with their quiet bit where the coding has them, and the
canonical NaN. -/
def Obligations.FloatingCodingsHaveTheirValues : Prop :=
  (∀ (f : FFmt) (eb k top bits : ℕ), (f, eb, k, top) ∈ codings →
    let n := bits % 2 ^ (eb + k)
    let s := decide (bits / 2 ^ (eb + k) % 2 = 1)
    (n ≤ top → ∃ m e, decodeFloat f bits = .fin s m e ∧ (m : ℚ) * 2 ^ e = magnitude eb k n) ∧
    ((f, eb, k, top) ∈ ieee →
      (n = top + 1 → decodeFloat f bits = .inf s) ∧
      (top + 1 < n → decodeFloat f bits = .nan (!n.testBit (k - 1))))) ∧
  (∀ bits : ℕ, bits % 128 = 0x7F → decodeFloat fmtE4M3 bits = .nan false) ∧
  (∀ q : Bool, [fmtF64, fmtF32, fmtBF16, fmtF16, fmtE5M2, fmtE4M3].map (fun f => (narrow f 0 (.nan q)).1) =
    [0x7FF8000000000000, 0x7FC00000, 0x7FC0, 0x7E00, 0x7E, 0x7F]) ∧
  codings.map (fun c => (magnitude c.2.1 c.2.2.1 (2 ^ c.2.2.1), magnitude c.2.1 c.2.2.1 1)) =
    [(2 ^ (-1022 : ℤ), 2 ^ (-1074 : ℤ)), (2 ^ (-126 : ℤ), 2 ^ (-149 : ℤ)), (2 ^ (-126 : ℤ), 2 ^ (-133 : ℤ)),
      (2 ^ (-14 : ℤ), 2 ^ (-24 : ℤ)), (2 ^ (-14 : ℤ), 2 ^ (-16 : ℤ)), (2 ^ (-6 : ℤ), 2 ^ (-9 : ℤ)),
      (2 ^ (-2 : ℤ), 2 ^ (-4 : ℤ)), (1, 2 ^ (-3 : ℤ)), (1, 2 ^ (-1 : ℤ))] ∧
  (codings.drop 3).map (fun c => magnitude c.2.1 c.2.2.1 c.2.2.2) = [65504, 57344, 448, 28, 15 / 2, 6]

/-- R47-R50, R158: a result of sign `neg` and magnitude `q` is delivered as the value of the format to which the mode
rounds it, with NX where it differs, UF where it is also tiny; a tiny result is flushed to a signed zero under FLUSH;
beyond the largest finite value the mode chooses infinity or that value, with OF and NX. -/
def Sys2Proof.Claims.ResultsAreRoundedOnce : Prop :=
  ∀ (f : FFmt) (eb k top rm : ℕ) (neg flush : Bool) (v : FVal) (q : ℚ) (c : ℕ), (f, eb, k, top) ∈ codings →
    Stands f.p v neg q → RoundsTo (magnitude eb k) rm neg q c →
    let sg := if neg then 2 ^ (eb + k) else 0
    let beyond := if rm = 1 ∨ (rm = 2 ∧ neg = false) ∨ (rm = 3 ∧ neg = true) then top else top + 1
    let exact := magnitude eb k c = q
    (c ≤ top → exact → Tiny eb k rm neg q → flush = false → deliver f rm flush v = (sg + c, 0)) ∧
    (c ≤ top → exact → ¬ Tiny eb k rm neg q → deliver f rm flush v = (sg + c, 0)) ∧
    (c ≤ top → ¬ exact → Tiny eb k rm neg q → flush = false → deliver f rm flush v = (sg + c, flUF ||| flNX)) ∧
    (c ≤ top → ¬ exact → ¬ Tiny eb k rm neg q → deliver f rm flush v = (sg + c, flNX)) ∧
    (Tiny eb k rm neg q → flush = true → deliver f rm flush v = (sg, flUF ||| flNX)) ∧
    (top < c → (f, eb, k, top) ∈ ieee → deliver f rm flush v = (sg + beyond, flOF ||| flNX)) ∧
    (top < c → (f, eb, k, top) ∉ ieee → deliver f rm flush v = (sg + top, flOF ||| flNX))

/-- R47, R48, R158: infinities, NaNs and zeros as results. -/
def Sys2Proof.Claims.SpecialResultsAreDelivered : Prop :=
  (∀ (f : FFmt) (eb k top rm : ℕ) (neg flush : Bool) (e : ℤ), (f, eb, k, top) ∈ codings →
    let sg := if neg then 2 ^ (eb + k) else 0
    deliver f rm flush (.fin neg 0 e) = (sg, 0) ∧ narrow f rm (.fin neg 0 e) = (sg, 0) ∧
    ((f, eb, k, top) ∈ ieee →
      deliver f rm flush (.inf neg) = (sg + top + 1, 0) ∧ narrow f rm (.inf neg) = (sg + top + 1, 0)) ∧
    ((f, eb, k, top) ∉ ieee → narrow f rm (.inf neg) = (sg + top, flNX))) ∧
  (∀ (f : FFmt) (rm : ℕ) (flush b : Bool), f ∈ [fmtF64, fmtF32, fmtBF16, fmtF16, fmtE5M2] →
    deliver f rm flush (.nan b) = ((narrow f 0 (.nan b)).1, if b then flNV else 0)) ∧
  (∀ (rm : ℕ) (b : Bool), narrow fmtE4M3 rm (.nan b) = (0x7F, if b then flNV else 0) ∧
    narrow fmtE3M2 rm (.nan b) = (0x1F, flNV) ∧ narrow fmtE2M3 rm (.nan b) = (0x1F, flNV) ∧
    narrow fmtE2M1 rm (.nan b) = (0x7, flNV)) ∧
  (∀ (f : FFmt) (rm : ℕ) (v : FVal) (neg : Bool) (q : ℚ), Stands f.p v neg q → narrow f rm v = deliver f rm false v)

/-- R48, R54: sums, differences and products of finite operands are exact, with the sign of an exact zero; what
infinities and NaNs give. A subnormal operand is read as a zero of its sign under FLUSH (R50). -/
def Sys2Proof.Claims.SumsAndProductsAreExact : Prop :=
  ∀ (rm : ℕ) (a b : FVal),
    let zero (x y : Bool) : Bool := if x = y then x else rm == 2
    (a.isNaN = true ∨ b.isNaN = true → addV rm a b = .nan (a.nv || b.nv) ∧ subV rm a b = .nan (a.nv || b.nv) ∧
      mulV a b = .nan (a.nv || b.nv)) ∧
    (finite a = true → finite b = true →
      (finite (addV rm a b) = true ∧ val (addV rm a b) = val a + val b ∧
        (val a + val b = 0 → (addV rm a b).sign = zero a.sign b.sign)) ∧
      (finite (subV rm a b) = true ∧ val (subV rm a b) = val a - val b ∧
        (val a - val b = 0 → (subV rm a b).sign = zero a.sign (!b.sign))) ∧
      (finite (mulV a b) = true ∧ val (mulV a b) = val a * val b ∧ (mulV a b).sign = (a.sign ^^ b.sign))) ∧
    (∀ x y : Bool, addV rm (.inf x) (.inf y) = (if x = y then .inf x else .nan true) ∧
      subV rm (.inf x) (.inf y) = (if x = y then .nan true else .inf x) ∧ mulV (.inf x) (.inf y) = .inf (x ^^ y)) ∧
    (∀ x : Bool, finite b = true → addV rm (.inf x) b = .inf x ∧ addV rm b (.inf x) = .inf x ∧
      subV rm (.inf x) b = .inf x ∧ subV rm b (.inf x) = .inf (!x) ∧
      (val b = 0 → mulV (.inf x) b = .nan true ∧ mulV b (.inf x) = .nan true) ∧
      (val b ≠ 0 → mulV (.inf x) b = .inf (x ^^ b.sign) ∧ mulV b (.inf x) = .inf (x ^^ b.sign))) ∧
    (∀ (f : FFmt) (eb k top bits : ℕ), (f, eb, k, top) ∈ codings →
      readFloat f false bits = decodeFloat f bits ∧
      (bits % 2 ^ (eb + k) < 2 ^ k → ∃ e, readFloat f true bits = .fin (decide (bits / 2 ^ (eb + k) % 2 = 1)) 0 e) ∧
      (2 ^ k ≤ bits % 2 ^ (eb + k) → readFloat f true bits = decodeFloat f bits))

/-- R52, R54: quotients, square roots, and integers as operands of a rounding. -/
def Sys2Proof.Claims.QuotientsAndRootsStandForTheirValue : Prop :=
  ∀ (p : ℕ) (a b : FVal) (x : ℤ) (e : ℤ) (z : Bool),
    (a.isNaN = true ∨ b.isNaN = true → divV p a b = (.nan (a.nv || b.nv), 0)) ∧
    (finite a = true → finite b = true →
      (val a ≠ 0 → val b ≠ 0 → (divV p a b).2 = 0 ∧ Stands p (divV p a b).1 (a.sign ^^ b.sign) |val a / val b|) ∧
      (val a = 0 → val b = 0 → divV p a b = (.nan true, 0)) ∧
      (val a ≠ 0 → val b = 0 → divV p a b = (.inf (a.sign ^^ b.sign), flDZ)) ∧
      (val a = 0 → val b ≠ 0 → ∃ i, divV p a b = (.fin (a.sign ^^ b.sign) 0 i, 0))) ∧
    (∀ s t : Bool, divV p (.inf s) (.inf t) = (.nan true, 0) ∧
      (finite b = true → divV p (.inf s) b = (.inf (s ^^ b.sign), 0) ∧
        ∃ i, divV p b (.inf s) = (.fin (b.sign ^^ s) 0 i, 0))) ∧
    (finite a = true →
      (val a = 0 → ∃ i, sqrtV p a = .fin a.sign 0 i) ∧ (val a < 0 → sqrtV p a = .nan true) ∧
      (0 < val a → ∃ (m : ℕ) (i : ℤ), (sqrtV p a = .fin false m i ∧ ((m : ℚ) * 2 ^ i) ^ 2 = val a) ∨
        (sqrtV p a = .near false m i ∧ 2 ^ p ≤ m ∧ ((m : ℚ) * 2 ^ i) ^ 2 < val a ∧
          val a < (((m : ℚ) + 1) * 2 ^ i) ^ 2))) ∧
    (sqrtV p (.inf false) = .inf false ∧ sqrtV p (.inf true) = .nan true ∧ ∀ s, sqrtV p (.nan s) = .nan s) ∧
    (finite (ofInt x e z) = true ∧ val (ofInt x e z) = x * 2 ^ e ∧
      (ofInt x e z).sign = if x = 0 then z else decide (x < 0))

/-- R53: a conversion of a floating value to an integer type rounds it in the word's mode; beyond the type's range it
delivers the nearest end, and 0 for a NaN, with NV alone; within, NX where it differs. SAT has no effect. -/
def Obligations.FloatingToIntegerConversionsClamp : Prop :=
  ∀ (w : RForm) (s : State), guardHolds s w.guard = true →
    let src := w.fn.extractLsb' 0 5
    tyIsInt src = false → tyIsInt w.ty = true →
    let v := fArg s src (readR s w.a).toNat
    let z := roundedTo w.rm.toNat (val v)
    let gives (x : ℤ) (fl : Flags) : Prop := NoTrap s fl → ∃ lat, Delivers (.cvt w) s lat w.d (BitVec.ofInt 64 x) fl
    (v = .inf false → gives (tyMax w.ty) flNV) ∧ (v = .inf true → gives (tyMin w.ty) flNV) ∧
    (v.isNaN = true → gives 0 flNV) ∧
    (finite v = true →
      (tyMax w.ty < z → gives (tyMax w.ty) flNV) ∧ (z < tyMin w.ty → gives (tyMin w.ty) flNV) ∧
      (tyMin w.ty ≤ z → z ≤ tyMax w.ty → gives z (if (z : ℚ) = val v then 0 else flNX)))

namespace Sys2Proof.Claims

/-- `key` of R307. -/
def key (x : BitVec 32) : BitVec 32 := if x.getLsbD 31 then ~~~x else x ||| 0x80000000

end Sys2Proof.Claims

/-- R307: the order, the join and the least value of each lattice type, its cell, and the value read of a cell: its
bytes, or for GCOUNT the sum of its eight slots, at most 2^64 − 1. A GCOUNT cell is ordered and joined slot by slot,
each die having its own. -/
def Obligations.LatticeTypesHaveTheirOrderAndJoin : Prop :=
  (∀ x y : BitVec 64,
    let le (t : ℕ) (p : Prop) : Prop := latLe t x.toNat y.toNat = true ↔ p
    let join (t : ℕ) (z : BitVec 64) : Prop := latJoin t x.toNat y.toNat = z.toNat
    let least (t : ℕ) (z : BitVec 64) : Prop := latLe t z.toNat x.toNat = true ∧ latJoin t z.toNat x.toNat = x.toNat
    let version (z : BitVec 64) : ℕ := z.toNat / 2 ^ 40
    let value (z : BitVec 64) : ℕ := z.toNat % 2 ^ 40
    (le 1 (x ≤ y) ∧ join 1 (if x ≤ y then y else x) ∧ least 1 0) ∧
    (le 2 (y ≤ x) ∧ join 2 (if x ≤ y then x else y) ∧ least 2 0xFFFFFFFFFFFFFFFF) ∧
    (le 4 (x &&& ~~~y = 0) ∧ join 4 (x ||| y) ∧ least 4 0) ∧
    (le 5 (y &&& ~~~x = 0) ∧ join 5 (x &&& y) ∧ least 5 0xFFFFFFFFFFFFFFFF) ∧
    (le 6 (version x < version y ∨ (version x = version y ∧ value x ≤ value y)) ∧ join 6 (if x ≤ y then y else x) ∧
      least 6 0) ∧
    (le 7 (x ≤ y) ∧ join 7 (if x ≤ y then y else x) ∧ least 7 0)) ∧
  (∀ x y : BitVec 32,
    (latLe 3 x.toNat y.toNat = true ↔ key x ≤ key y) ∧
    latJoin 3 x.toNat y.toNat = (if key x ≤ key y then y else x).toNat ∧
    latLe 3 0xFFFFFFFF x.toNat = true ∧ latJoin 3 0xFFFFFFFF x.toNat = x.toNat) ∧
  (∀ (t : ℕ) (e : LogEntry), t ∈ [1, 2, 3, 4, 5, 6, 7] →
    (cellFit t e = true ↔ e.size = (if t = 3 then 4 else 8) ∧ e.addr.toNat % (if t = 3 then 4 else if t = 7 then 64 else 8) = 0)) ∧
  ∀ (s : State) (e : LogEntry) (t : Target) (p k o : ℕ), t.loc = .stk p k o → t.remote s = false → e.opc = 0xB0 →
    quiesced s (cellKey s p k o) = false → metPoison s (cellKey s p k o) false = none →
    let slot (d : ℕ) : ℕ := leNat (locBytes s (.stk p k (o + 8 * d)) 8)
    (t.lattice = 7 → serve s s.focus e t =
      .ok (leBytes 8 (min (2 ^ 64 - 1) ((List.range 8).map slot).sum), s)) ∧
    (t.lattice ≠ 7 → serve s s.focus e t = .ok (locBytes s (.stk p k o) e.size, s)) ∧
    (∀ (a : Access) (va : ℕ) (x : Phys), lrtEntryOf s (x.pa % 2 ^ 40) = none → place s a va x = .ok t →
      t.slot = coreDie a.core)

/-! ## Elements of tiles (R152-R165, R487) -/

namespace Sys2Proof.Claims

/-- The value of an E4M5 code other than 0x1FF (R161). -/
def groupScale (g : ℕ) : ℚ :=
  if g / 32 = 0 then 2 ^ (-6 : ℤ) * ((g % 32 : ℕ) : ℚ) / 32
  else 2 ^ (((g / 32 : ℕ) : ℤ) - 7) * (1 + ((g % 32 : ℕ) : ℚ) / 32)

/-- `emaxel` of R160 and `maxel` of R163 by format code. -/
def emaxel (code : ℕ) : ℤ := if code = 0x10 then 15 else if code = 0x11 then 8 else if code = 0x12 then 4 else
  if code = 0x15 then 0 else 2
def maxel (code : ℕ) : ℚ := if code = 0x18 then 448 else if code = 0x19 then 57344 else if code = 0x1A then 28 else
  if code = 0x1B then 15 / 2 else if code = 0x1C then 6 else if code = 0x1D then 127 else 7

/-- Element `c` of a row of elements of `w` bits (R157). -/
def element (w row c : ℕ) : ℕ := row / 2 ^ (w * c) % 2 ^ w

/-- `q` is the largest magnitude among the finite values of a list. -/
def LargestOf (xs : List FVal) (q : ℚ) : Prop :=
  (∀ v ∈ xs, finite v = true → |val v| ≤ q) ∧ ((∃ v ∈ xs, finite v = true ∧ |val v| = q) ∨ (q = 0 ∧ ∀ v ∈ xs, finite v = false))

/-- `y` is `x` divided by the positive number `d`, ready for one rounding. -/
def Divides (p : ℕ) (x y : FVal) (d : ℚ) : Prop :=
  (∃ n e i, x = .fin n 0 e ∧ y = .fin n 0 i) ∨ (finite x = true ∧ val x ≠ 0 ∧ Stands p y x.sign (|val x| / d)) ∨
    (finite x = false ∧ y = x)

end Sys2Proof.Claims

/-- R155, R487: an integer element is two's complement, unsigned for z8, and an MX-INT8 element counts in 2^−6; an
exact value is rounded to one in the mode and clamped to its range with OF and NX, 0 with NV for a NaN. -/
def Sys2Proof.Claims.IntegerElementsRoundAndClamp : Prop :=
  ∀ (sgn : Bool) (n bits rm : ℕ), (sgn, n) ∈ [(true, 16), (true, 8), (false, 8), (true, 4)] →
    let b := BitVec.ofNat n bits
    let lo : ℤ := if sgn then -2 ^ (n - 1) else 0
    let hi : ℤ := if sgn then 2 ^ (n - 1) - 1 else 2 ^ n - 1
    (finite ((Elem.int sgn n).decode bits) = true ∧
      val ((Elem.int sgn n).decode bits) = if sgn then (b.toInt : ℚ) else (b.toNat : ℚ)) ∧
    (finite (Elem.mxInt.decode bits) = true ∧ val (Elem.mxInt.decode bits) = ((BitVec.ofNat 8 bits).toInt : ℚ) / 64) ∧
    let gives (el : Elem) (m : ℕ) (v : FVal) (x : ℤ) (fl : Flags) : Prop :=
      el.encode rm v = ((BitVec.ofInt m x).toNat, fl)
    (∀ c : Bool, gives (.int sgn n) n (.nan c) 0 flNV ∧ gives .mxInt 8 (.nan c) 0 flNV) ∧
    (gives (.int sgn n) n (.inf false) hi flNX ∧ gives (.int sgn n) n (.inf true) lo flNX ∧
      gives .mxInt 8 (.inf false) 127 flNX ∧ gives .mxInt 8 (.inf true) (-128) flNX) ∧
    (∀ v : FVal, finite v = true →
      let y := roundedTo rm (val v)
      let y' := roundedTo rm (val v * 64)
      gives (.int sgn n) n v (max lo (min hi y)) (if y < lo ∨ hi < y then flOF ||| flNX else if (y : ℚ) = val v then 0 else flNX) ∧
      gives .mxInt 8 v (max (-128) (min 127 y'))
        (if y' < -128 ∨ 127 < y' then flOF ||| flNX else if (y' : ℚ) = val v * 64 then 0 else flNX)) ∧
    (∀ (v : FVal) (neg : Bool) (q : ℚ), Stands 0 v neg q → (∀ m e, v = .near neg m e → e ≤ -2) →
      let y := roundedTo rm (if neg then -q else q)
      gives (.int sgn n) n v (max lo (min hi y))
        (if y < lo ∨ hi < y then flOF ||| flNX else if (y : ℚ) = (if neg then -q else q) then 0 else flNX))

/-- R157-R162, R164: element c of a row decodes to its element times the scale of its block, or its group and the
band; a scale NaN makes NaNs and is reported. -/
def Sys2Proof.Claims.RowsDecodeWithTheirScales : Prop :=
  ∀ (code : ℕ) (f : TileFmt) (row scales c : ℕ) (band : FVal), tileFmt code = some f → c < 32 →
    let r := decodeRow f row scales band
    let x := f.elem.decode (element f.w row c)
    let y := r.1.getD c (.nan true)
    let g (c : ℕ) : ℕ := scales / 2 ^ (16 * (c / 8)) % 2 ^ 9
    r.1.length = 32 ∧
    (code < 0x10 ∨ 0x20 ≤ code → y = x ∧ r.2 = false) ∧
    (0x10 ≤ code → code < 0x18 →
      (scales % 256 = 255 → y = .nan false ∧ r.2 = true) ∧
      (scales % 256 ≠ 255 → r.2 = false ∧ (finite x = false → y = x) ∧
        (finite x = true → finite y = true ∧ y.sign = x.sign ∧ val y = val x * 2 ^ ((scales % 256 : ℕ) - 127 : ℤ)))) ∧
    (0x18 ≤ code → code < 0x20 →
      (r.2 = true ↔ ∃ i < 32, g i = 0x1FF) ∧ (g c = 0x1FF → y = .nan false) ∧
      (g c ≠ 0x1FF → finite band = true → finite x = true →
        finite y = true ∧ y.sign = (x.sign ^^ band.sign) ∧ val y = val x * groupScale (g c) * val band))

/-- R157, R160, R163, R164: 32 exact values are encoded with the scale that mxquant or kfquant gives each block or
group, every element the rounding of its quotient; a NaN gives the scale NaN and elements of zero. -/
def Sys2Proof.Claims.RowsEncodeWithTheirScales : Prop :=
  ∀ (code : ℕ) (f : TileFmt) (rm : ℕ) (xs : List FVal) (band : FVal), tileFmt code = some f → xs.length = 32 →
    (∀ v ∈ xs, finite v = true ∨ v.isNaN = true ∨ v = .inf true ∨ v = .inf false) →
    let r := encodeRow f rm band xs
    let x (c : ℕ) : FVal := xs.getD c (.nan true)
    let nan (lo n : ℕ) : Prop := ∃ c, lo ≤ c ∧ c < lo + n ∧ (x c).isNaN = true
    let part (lo n : ℕ) : List FVal := (xs.drop lo).take n
    (code < 0x10 ∨ 0x20 ≤ code → r.2.1 = 0 ∧ (∀ c < 32, element f.w r.1 c = (f.elem.encode rm (x c)).1) ∧
      r.2.2 = orFlags (xs.map fun v => (f.elem.encode rm v).2)) ∧
    (0x10 ≤ code → code < 0x18 →
      (nan 0 32 → r = (0, 0xFF, if ∃ v ∈ xs, v = .nan true then flNV else 0)) ∧
      (¬ nan 0 32 → ∃ sc : ℕ, r.2.1 = sc ∧ sc ≤ 254 ∧
        (∀ q, LargestOf xs q → (q = 0 → sc = 0) ∧
          (∀ l : ℤ, (2 : ℚ) ^ l ≤ q → q < 2 ^ (l + 1) → (sc : ℤ) = max 0 (min 254 (l - emaxel code + 127)))) ∧
        ∃ ys : List FVal, ys.length = 32 ∧ (∀ c < 32, Divides 8 (x c) (ys.getD c (.nan true)) (2 ^ ((sc : ℤ) - 127))) ∧
          (∀ c < 32, element f.w r.1 c = (f.elem.encode rm (ys.getD c (.nan true))).1) ∧
          r.2.2 = orFlags (ys.map fun v => (f.elem.encode rm v).2))) ∧
    (0x18 ≤ code → code < 0x20 → finite band = true → 0 < val band → ∀ k < 4,
      let g := r.2.1 / 2 ^ (16 * k) % 2 ^ 16
      (nan (8 * k) 8 → g = 0x1FF ∧ ∀ c < 8, element f.w r.1 (8 * k + c) = 0) ∧
      (¬ nan (8 * k) 8 → g ≤ 0x1FE ∧
        (∀ q, LargestOf (part (8 * k) 8) q → (q = 0 → g = 0) ∧
          (q ≠ 0 → 1 ≤ g ∧ (g = 0x1FE ∨ q ≤ groupScale g * val band * maxel code) ∧
            (1 < g → groupScale (g - 1) * val band * maxel code < q))) ∧
        (g ≠ 0 → ∃ ys : List FVal, ys.length = 8 ∧
          (∀ c < 8, Divides 8 (x (8 * k + c)) (ys.getD c (.nan true)) (groupScale g * val band)) ∧
          ∀ c < 8, element f.w r.1 (8 * k + c) = (f.elem.encode rm (ys.getD c (.nan true))).1)))

/-- R165, R166: round-to-odd into F32, the copy-path conversion through it, and its flags. -/
def Sys2Proof.Claims.CopiesPassThroughF32 : Prop :=
  (∀ (v : FVal) (neg : Bool) (q : ℚ) (n : ℕ), Stands 24 v neg q → magnitude 8 23 n ≤ q → q < magnitude 8 23 (n + 1) →
    let sg := if neg then 2 ^ 31 else 0
    rodd32 v = sg + if 0x7F7FFFFF < n then 0x7F7FFFFF else if magnitude 8 23 n = q then n else n ||| 1) ∧
  (∀ (neg b : Bool) (e : ℤ), let sg := if neg then 2 ^ 31 else 0
    rodd32 (.nan b) = 0x7FC00000 ∧ rodd32 (.inf neg) = sg + 0x7F800000 ∧ rodd32 (.fin neg 0 e) = sg) ∧
  ∀ (f : TileFmt) (rm : ℕ) (band : FVal) (xs : List FVal),
    let y := encodeRow f rm band (xs.map fun v => decodeFloat fmtF32 (rodd32 v))
    copyRow f rm band xs = (y.1, y.2.1, (encodeRow f rm band xs).2.2)

/-- R47-R54, R158: floating results are the exact value rounded once. -/
def Obligations.ResultsRoundTheExactValueOnce : Prop :=
  Claims.ResultsAreRoundedOnce ∧ Claims.SpecialResultsAreDelivered ∧ Claims.SumsAndProductsAreExact ∧ Claims.QuotientsAndRootsStandForTheirValue

/-- R152-R166, R487: the elements of tile rows and their scales. -/
def Obligations.TileRowsHoldTheirElements : Prop :=
  Claims.IntegerElementsRoundAndClamp ∧ Claims.RowsDecodeWithTheirScales ∧ Claims.RowsEncodeWithTheirScales ∧ Claims.CopiesPassThroughF32

/-! ## Addresses and translation (R238, R255-R268) -/

/-- R238, R316: the checks of a generic address before its access, in their order; the address is reported whole. -/
def Sys2Proof.Claims.AddressesAreChecked : Prop :=
  ∀ (a : Word) (n align : ℕ) (write : Bool) (w : MForm) (s : State),
    let top := fld a 56 8
    let fails (c : Cause) : Prop := frontTrap a n align anyAperture write = some { cause := c, addr := a, write := write }
    let known : Prop := top = 0x00 ∨ top = 0xFE ∨ top = 0xFF
    let aligned : Prop := a.toNat % align = 0
    let zeros : Prop := (top = 0xFE → fld a 29 27 = 0) ∧ (top = 0xFF → fld a 22 34 = 0)
    let core : Prop := top = 0xFE → fld a 22 7 < 96
    let inside : Prop := top ≠ 0x00 → fld a 0 22 + n ≤ 0x300000
    (¬ known → fails .aperture) ∧ (known → ¬ aligned → fails .misaligned) ∧
    (known → aligned → ¬ zeros → fails .noncanonical) ∧
    (known → aligned → zeros → ¬ core → fails .galleryCore) ∧
    (known → aligned → zeros → core → ¬ inside → fails .srfBounds) ∧
    (known → aligned → zeros → core → inside → frontTrap a n align anyAperture write = none) ∧
    (OnCp s w.guard → ∀ t, frontTrap (eaIndexed s w) (tyBytes w.ty) (tyBytes w.ty) anyAperture false = some t →
      exec (.ld w) s = .next (stopWord s 0xB0 (.trap t s)))

/-- R264: the stack and the offset that a local address names in each interleave mode, one to one. -/
def Sys2Proof.Claims.AddressesInterleaveOverTheStacks : Prop :=
  ∀ m < 2 ^ 40,
    let b (i : ℕ) : ℕ := (m.testBit i).toNat
    interleave 0 m = (((b 12 + b 16 + b 20 + b 24) % 2) + 2 * ((b 13 + b 17 + b 21 + b 25) % 2) +
      4 * ((b 14 + b 18 + b 22 + b 26) % 2) + 8 * ((b 15 + b 19 + b 23 + b 27) % 2), m / 2 ^ 16 * 2 ^ 12 + m % 2 ^ 12) ∧
    interleave 1 m = (2 * (m / 2 ^ 37) + (b 12 + b 20 + b 28 + b 36) % 2, m % 2 ^ 37 / 2 ^ 13 * 2 ^ 12 + m % 2 ^ 12) ∧
    interleave 2 m = (m / 2 ^ 36, m % 2 ^ 36) ∧
    ∀ mode < 3, (interleave mode m).1 < 16 ∧ (interleave mode m).2 < 2 ^ 36 ∧
      ∀ m' < 2 ^ 40, interleave mode m = interleave mode m' → m = m'

/-- R274, R417, R489: a word of a table is read at a physical address of this package, of memory and backed, under
mode 0. -/
def Sys2Proof.Claims.TableWordsAreRead : Prop :=
  ∀ (s : State) (die pa : ℕ),
    let p := s.md.pkg.toNat
    let k := (interleave 0 (pa % 2 ^ 40)).1
    let o := (interleave 0 (pa % 2 ^ 40)).2
    let key := cellKey s p k o
    let here : Prop := pa / 2 ^ 41 % 2 ^ 13 = p ∧ pa / 2 ^ 40 % 2 = 0 ∧ o < 64000000000
    (¬ here → tableWord s die pa = .malformed) ∧
    (here → bridgeCut s die p k = false →
      (quiesced s key = true → tableWord s die pa = .waits) ∧
      (quiesced s key = false → linePoisoned s key = true → tableWord s die pa = .poison (key / 128)) ∧
      (quiesced s key = false → linePoisoned s key = false → tableWord s die pa =
        .word (BitVec.ofNat 64 (leNat ((List.range 8).map fun i => byteAt s (cellKey s p k (o + i)))))))

namespace Sys2Proof.Claims

/-- The walk answers this translation. -/
abbrev Finds (w : Walk Xlat) (x : Xlat) : Prop := w = .ok x

/-- The walk fails with a cause; DETAIL[2:0] of a WALK_ERROR is its level. -/
def Errs (w : Walk Xlat) (level : ℕ) : Prop := w = .error (.fail .walkError level)

/-- A range entry's fields (R257). -/
def rangeFirst (e : ℕ → Word) : ℕ := fld (e 0) 12 44
def rangeLast (e : ℕ → Word) : ℕ := fld (e 1) 12 44

def RangeMalformed (e : ℕ → Word) : Prop :=
  rangeLast e < rangeFirst e ∨ fld (e 0) 1 11 ≠ 0 ∨ fld (e 0) 56 8 ≠ 0 ∨ fld (e 1) 0 12 ≠ 0 ∨ fld (e 1) 56 8 ≠ 0 ∨
    fld (e 2) 0 12 ≠ 0 ∨ fld (e 2) 54 10 ≠ 0 ∨ fld (e 3) 9 55 ≠ 0 ∨ fld (e 3) 7 2 = 3 ∨
    2 ^ 54 < (e 2).toNat + (rangeLast e - rangeFirst e + 1) * 4096

end Sys2Proof.Claims

/-- R255-R257, R489: the address-space entry and the range table: an invalid ASID, poison, malformed entries, an
address in two ranges, and the translation of an address in one; where no range holds it, the page table is walked
from ROOT. -/
def Sys2Proof.Claims.RangesTranslate : Prop :=
  ∀ (s : State) (die va : ℕ) (asid : BitVec 16), va < 2 ^ 56 →
    let base := s.md.astBase.toNat + 64 * asid.toNat
    let reads (pa : ℕ) (w : Word) : Prop := tableWord s die pa = .word w
    let walked := walk s die asid va
    let invalid : Prop := ∃ d, walked = .error (.fail .asidInvalid d)
    (s.md.astLen.toNat ≤ asid.toNat → invalid) ∧
    (asid.toNat < s.md.astLen.toNat →
      (∀ w, reads base w → bit w 0 = false → invalid) ∧
      (∀ g, tableWord s die base = .poison g → walked = .error (.poison 5 g)) ∧
      (tableWord s die base = .malformed → Errs walked 5) ∧
      ∀ row : ℕ → Word, (∀ i < 8, reads (base + 8 * i) (row i)) → bit (row 0) 0 = true →
        let n := fld (row 1) 0 6
        let bad : Prop := fld (row 0) 1 11 ≠ 0 ∨ fld (row 0) 54 10 ≠ 0 ∨ 32 < n ∨ fld (row 1) 6 4 ≠ 0 ∨
          fld (row 1) 54 10 ≠ 0 ∨ fld (row 2) 0 6 ≠ 0 ∨ fld (row 2) 56 8 ≠ 0 ∨ 2 ^ 24 < (row 3).toNat ∨
          ∃ i, 4 ≤ i ∧ i < 8 ∧ row i ≠ 0
        let at' (i j : ℕ) : ℕ := fld (row 1) 10 44 * 1024 + 32 * i + 8 * j
        (bad → Errs walked 5) ∧
        (¬ bad → (∃ i < n, ∃ j < 4, ∃ g, tableWord s die (at' i j) = .poison g) →
          (∀ i < n, ∀ j < 4, (∃ g, tableWord s die (at' i j) = .poison g) ∨ ∃ w, reads (at' i j) w) →
          ∃ g, walked = .error (.poison 5 g)) ∧
        ∀ e : ℕ → ℕ → Word, ¬ bad → (∀ i < n, ∀ j < 4, reads (at' i j) (e i j)) →
          let live (i : ℕ) : Prop := i < n ∧ bit (e i 0) 0 = true
          let holds (i : ℕ) : Prop := live i ∧ rangeFirst (e i) ≤ va / 4096 ∧ va / 4096 ≤ rangeLast (e i)
          let sound : Prop := ∀ i, live i → ¬ RangeMalformed (e i)
          ((∃ i, live i ∧ RangeMalformed (e i)) → Errs walked 5) ∧
          (sound → (∃ i j, i ≠ j ∧ holds i ∧ holds j) → ∃ d, walked = .error (.fail .rangeOverlap d)) ∧
          (∀ i, sound → holds i → (∀ j, holds j → j = i) → Finds walked
            { va := rangeFirst (e i) * 4096, size := (rangeLast (e i) - rangeFirst (e i) + 1) * 4096, phys := (e i 2).toNat
              perm := (e i 3).extractLsb' 0 4, lattice := (e i 3).extractLsb' 4 3, mode := (e i 3).extractLsb' 7 2
              range := true }) ∧
          (sound → (∀ i, ¬ holds i) → walked = walkFrom s die va 5 4 (fld (row 0) 12 42 * 4096)))

/-- R259, R260, R489: one level of the page table: the entry that the address selects is absent, maps a page, leads to
the next table, or fails the walk with its level. A 64 KiB leaf stands in sixteen identical entries. -/
def Sys2Proof.Claims.PageTablesAreWalked : Prop :=
  ∀ (s : State) (die va level table : ℕ) (w : Word), level ≤ 4 → va < 2 ^ 56 →
    let index := va / 2 ^ (12 + 9 * level) % 512
    let entry := table + 8 * index
    let walked := walkFrom s die va (level + 1) level table
    let size := if level = 2 then 2 ^ 30 else if level = 1 then 2 ^ 21 else if bit w 62 then 2 ^ 16 else 2 ^ 12
    let block (i : ℕ) : ℕ := table + 8 * (va / 65536 % 32 * 16 + i)
    let reserved : Prop := fld w 54 8 ≠ 0 ∨ bit w 63 = true ∨ (level ≠ 0 ∧ bit w 62 = true)
    let page := fld w 12 42 * 4096
    (∀ g, tableWord s die entry = .poison g → walked = .error (.poison level g)) ∧
    (tableWord s die entry = .malformed → Errs walked (if level = 4 then 5 else level + 1)) ∧
    (tableWord s die entry = .word w →
      (level = 0 → if bit w 0 = true ∧ bit w 62 = true then ∀ i < 16, tableWord s die (block i) = .word w
        else ∀ i < 16, ∀ x, tableWord s die (block i) = .word x → bit x 0 = false ∨ bit x 62 = false) →
      (bit w 0 = false → bit w 6 = true → walked = .error .hostPage) ∧
      (bit w 0 = false → bit w 6 = false → ∃ d, walked = .error (.fail .pageNotPresent d)) ∧
      (bit w 0 = true → reserved → Errs walked level) ∧
      (bit w 0 = true → ¬ reserved → bit w 1 = true →
        (3 ≤ level ∨ fld w 10 2 = 3 ∨ page % size ≠ 0 → Errs walked level) ∧
        (level ≤ 2 → fld w 10 2 ≠ 3 → page % size = 0 → Finds walked
          { va := va / size * size, size := size, phys := page, perm := w.extractLsb' 2 4, lattice := w.extractLsb' 7 3
            mode := w.extractLsb' 10 2, range := false })) ∧
      (bit w 0 = true → ¬ reserved → bit w 1 = false →
        (level = 0 ∨ fld w 2 4 ≠ 0 ∨ fld w 7 5 ≠ 0 → Errs walked level) ∧
        (level ≠ 0 → fld w 2 4 = 0 → fld w 7 5 = 0 → walked = walkFrom s die va level (level - 1) page)))

/-- R256, R262, R263: what an access makes of its walk: each failure traps with the address and its DETAIL, poison at
its level, a host-managed page after a page request; a translation is held, and then checked against the end of its
range, for backing and for permission, in this order. Where held translations and the tables differ, either is used.
-/
def Sys2Proof.Claims.TranslationsAreChecked : Prop :=
  ∀ (s : State) (a : Access) (va n : ℕ), a.walked = none → a.refused ≠ some (va / 4096) →
    let die := coreDie a.core
    let traps (t : State) (c : Cause) (d : ℕ) : Prop := translate s a va n = .error (.trap
      { cause := c, addr := BitVec.ofNat 64 va, detail := BitVec.ofNat 32 d, write := a.write, fetch := a.fetch } t)
    (heldFor s die a.asid va = [] →
      (∀ c d, walk s die a.asid va = .error (.fail c d) → traps s c d) ∧
      (∀ l g, walk s die a.asid va = .error (.poison l g) → ∃ t, traps t .walkPoison l ∧
        t = { s with poison := setAdd g s.poison, unmet := setDel g s.unmet }) ∧
      (walk s die a.asid va = .error .waits → translate s a va n = .error (.hold s)) ∧
      (walk s die a.asid va = .error .hostPage →
        (s.md.prgFailed = true ∨ accepted s 8 = false → traps s .pageNotPresent 0) ∧
        (s.md.prgFailed = false → accepted s 8 = true →
          (∀ q, s.md.pageReqs.find? (fun r => r.asid == a.asid && r.page == va / 4096) = some q →
            traps s .hostPage q.tag) ∧
          ((∀ q ∈ s.md.pageReqs, ¬ (q.asid = a.asid ∧ q.page = va / 4096)) →
            (∀ tag < 512, (∀ q ∈ s.md.pageReqs, q.tag ≠ tag) → (∀ i < tag, ∃ q ∈ s.md.pageReqs, q.tag = i) →
              ∃ t, traps t .hostPage tag ∧ t = { s with md := { s.md with
                pageReqs := ⟨tag, a.asid, va / 4096⟩ :: s.md.pageReqs
                requests := s.md.requests ++ [⟨tag, a.asid, va / 4096⟩] } }) ∧
            ((∀ tag < 512, ∃ q ∈ s.md.pageReqs, q.tag = tag) → translate s a va n = .error (.hold s)))))) ∧
    (∀ x, walk s die a.asid va = .ok x → (∀ y ∈ heldFor s die a.asid va, y = x) →
      let t := holdXlat s die a.asid x
      let p : Phys := ⟨(x.phys + (va - x.va)) % 2 ^ 54, x.lattice, x.mode⟩
      let user (ok : Bool) : Prop := ok = true ∧ (a.sup = true ∨ x.perm.getLsbD 3 = true)
      let out : Prop := x.range = true ∧ x.va + x.size < va + n
      let absent : Prop := unbacked s p die = true
      let noFetch : Prop := a.fetch = true ∧ ¬ user (x.perm.getLsbD 2)
      let noRead : Prop := a.read = true ∧ ¬ user (x.perm.getLsbD 0)
      let noWrite : Prop := a.write = true ∧ ¬ user (x.perm.getLsbD 1)
      (out → traps t .rangeLimit 0) ∧ (¬ out → absent → traps t .walkError 6) ∧
      (¬ out → ¬ absent → noFetch → traps t .pageExec 0) ∧
      (¬ out → ¬ absent → ¬ noFetch → noRead → traps t .pageRead 0) ∧
      (¬ out → ¬ absent → ¬ noFetch → ¬ noRead → noWrite → traps t .pageWrite 0) ∧
      (¬ out → ¬ absent → ¬ noFetch → ¬ noRead → ¬ noWrite → translate s a va n = .ok (p, t)) ∧
      (x.lattice = 0 → (absent ↔ p.pa / 2 ^ 41 = s.md.pkg.toNat ∧ p.pa / 2 ^ 40 % 2 = 0 ∧
        64000000000 ≤ (interleave x.mode.toNat (p.pa % 2 ^ 40)).2))) ∧
    (∀ p t, translate s a va n = .ok (p, t) → ∃ x, (walk s die a.asid va = .ok x ∨ x ∈ heldFor s die a.asid va) ∧
      p = ⟨(x.phys + (va - x.va)) % 2 ^ 54, x.lattice, x.mode⟩)

/-- R239, R264, R267, R268, R273, R442: where an access is served: the own SRF and, for the same launch, another
core's without translation; a physical address of this package in memory, in the host window or, for the supervisor,
among the device registers; one of another package over its route. -/
def Sys2Proof.Claims.AccessesFindTheirPlace : Prop :=
  ∀ (s : State) (a : Access) (e : LogEntry), e.opc = 0xB0 ∨ e.opc = 0xB1 →
    let ad : Access := { a with read := e.opc = 0xB0, write := e.opc = 0xB1, walked := e.walked }
    let va := fld e.addr 0 56
    let off := fld e.addr 0 22
    let other := coreOf (coreDie a.core) (fld e.addr 22 7)
    let traps (t : State) (c : Cause) : Prop := ∃ tr, resolve s a e = .error (.trap tr t) ∧ tr.cause = c
    let srf (n : ℕ) : Prop := resolve s a e = .ok (⟨.srf n off, 0, 0⟩, s)
    (fld e.addr 56 8 = 0xFF → srf a.core) ∧
    (fld e.addr 56 8 = 0xFE →
      (other = a.core → srf a.core) ∧
      (other ≠ a.core → sameLaunch s a.core other = false → traps s .galleryCore) ∧
      (other ≠ a.core → sameLaunch s a.core other = true → (s.getCore other).fenced = true → traps s .peerFenced) ∧
      (other ≠ a.core → sameLaunch s a.core other = true → (s.getCore other).fenced = false → srf other)) ∧
    (fld e.addr 56 8 = 0x00 →
      (∀ x, translate s ad va e.size = .error x → resolve s a e = .error x) ∧
      ∀ p t, translate s ad va e.size = .ok (p, t) →
        let m := p.pa % 2 ^ 40
        let pkg := p.pa / 2 ^ 41
        let own := t.md.pkg.toNat
        let die := coreDie a.core
        let k := interleave p.mode.toNat m
        (p.lattice ≠ 0 → cellFit p.lattice.toNat e = false → traps t .latticeType) ∧
        (p.lattice = 0 →
          (p.pa / 2 ^ 40 % 2 = 0 → pkg = own → resolve s a e = .ok (⟨.stk pkg k.1 k.2, 0, die⟩, t)) ∧
          (p.pa / 2 ^ 40 % 2 = 0 → pkg ≠ own →
            (routeLive t pkg = false ∨ t.md.peersDown.contains pkg = true ∨ 64000000000 ≤ k.2 → traps t .remoteReject) ∧
            (routeLive t pkg = true → t.md.peersDown.contains pkg = false → k.2 < 64000000000 →
              resolve s a e = .ok (⟨.stk pkg k.1 k.2, 0, die⟩, t))) ∧
          (p.pa / 2 ^ 40 % 2 = 1 → pkg ≠ own → traps t .remoteReject) ∧
          (p.pa / 2 ^ 40 % 2 = 1 → pkg = own →
            (p.pa / 2 ^ 39 % 2 = 1 →
              resolve s a e = .ok (⟨.host (a.asid.toNat + 1) (p.pa % 2 ^ 39), 0, die⟩, t)) ∧
            (p.pa / 2 ^ 39 % 2 = 0 → a.sup = true → resolve s a e = .ok (⟨.dev m, 0, die⟩, t)) ∧
            (p.pa / 2 ^ 39 % 2 = 0 → a.sup = false → a.fetch = false → traps t (if e.opc = 0xB0 then .pageRead else .pageWrite)))))

/-- R238, R255-R268, R489: from a generic address to the place of an access. -/
def Obligations.AddressesAreCheckedAndTranslated : Prop :=
  Claims.AddressesAreChecked ∧ Claims.AddressesInterleaveOverTheStacks ∧ Claims.TableWordsAreRead ∧ Claims.RangesTranslate ∧ Claims.PageTablesAreWalked ∧ Claims.TranslationsAreChecked ∧ Claims.AccessesFindTheirPlace

/-! ## Tile multiplier and transform slot (R167-R172, R197-R237) -/

namespace Sys2Proof.Claims

/-- A latch part holds 32 rows: row r comes from row `(src r).2` of the record at SRF offset `(src r).1`, places
outside its valid region being zero, its scale area as stored (R203). -/
def PartHolds (s : State) (f : TileFmt) (src : Nat → Nat × Nat) (band : Nat) (x : LatchPart) : Prop :=
  (∀ r c h, r < 32 → c < 32 → headerAt s (src r).1 = some h →
    x.payload.toNat / 2 ^ (32 * f.w * r + f.w * c) % 2 ^ f.w =
      if (src r).2 < h.rows ∧ c < h.validPlaces then
        rowElem f.w (leNat (srfBytes s.core (rowOff f (src r).1 (src r).2) f.rowBytes)) c
      else 0) ∧
  (∀ r, r < 32 → x.side.scale.toNat / 2 ^ (8 * f.scaleRow * r) % 2 ^ (8 * f.scaleRow) =
    leNat (srfBytes s.core (scaleOff f (src r).1 (src r).2) f.scaleRow)) ∧
  x.side.band.toNat = band

end Sys2Proof.Claims

/-- R202, R203: a fill whose records pass R204 in every lane writes the latch 16 cycles after issue, a gather 24: the
parts and tags of each lane's records. `tfill.all` replaces the whole latch, the others one part. What the parts that
a fill of another format does not name then hold is deduced (log entry 21). -/
def Obligations.FillsLoadLatchesFromRecords : Prop :=
  ∀ (w : RForm) (s : State), InSlot s w.guard →
    let q : BitVec 2 := w.d.setWidth 2
    let p := w.fn.toNat / 4 % 4
    let base (l : Nat) : Word := readR s w.a + readR s w.c * BitVec.ofNat 64 l
    let tags (h : Header) : BitVec 7 × Bool × Bool × Bool := (BitVec.ofNat 7 h.code, h.domain, h.packed, h.scaled)
    let fills (i : Instr) (form lat : Nat) (holds : Fin 16 → Header → TileFmt → LatchFill → Prop) : Prop :=
      (∀ l < 16, fillTrap s w form l q = none) → ∃ x : Vector LatchFill 16,
        exec i s = .next (slotWrites s lat (.latch q x)) ∧
        ∀ (l : Fin 16) (h : Header), headerAt s (base l.val).toNat = some h →
          match tileFmt h.code with
          | some f => holds l h f (x.get l)
          | none => x.get l = ⟨true, (0, false, false, false), 1, []⟩
    let one (h : Header) (f : TileFmt) (src : Nat → Nat × Nat) (x : LatchFill) : Prop :=
      ∃ y, x = ⟨false, tags h, ((latchKP h.code).map (·.2)).getD 1, [(p, y)]⟩ ∧ PartHolds s f src h.band y
    fills (.tfillAll w) 0 16 (fun l h f x => ∃ y : Nat → LatchPart,
        x = ⟨true, tags h, ((latchKP h.code).map (·.2)).getD 1,
          (List.range (((latchKP h.code).map (·.2)).getD 1)).map fun k => (k, y k)⟩ ∧
        ∀ k < ((latchKP h.code).map (·.2)).getD 1,
          PartHolds s f (fun r => ((base l.val + opB s w true * BitVec.ofNat 64 k).toNat, r)) h.band (y k)) ∧
      fills (.tfillPart w) 1 16 (fun l h f x => one h f (fun r => ((base l.val).toNat, r)) x) ∧
      fills (.tfillGath w) 2 24 (fun l h f x =>
        let i (r : Nat) : Nat := vElem (readV s w.b) 8 l.val r
        let pitch := (footprint h.code + 63) / 64 * 64
        one h f (fun r => ((base l.val + BitVec.ofNat 64 (i r / 32 * pitch)).toNat, i r % 32)) x)

namespace Sys2Proof.Claims

/-- An exact value that is a number, an infinity or a NaN, not an interval. -/
def Definite (v : FVal) : Prop := finite v = true ∨ v.isNaN = true ∨ v = .inf true ∨ v = .inf false

/-- The accumulator integer of a value under an exponent (R167, R169). -/
def accInt (ae : Option ℤ) (u : FVal) : ℤ :=
  match u, ae with
  | .nan _, _ => -2 ^ 47 + 1
  | .inf neg, _ => if neg then -2 ^ 47 else 2 ^ 47 - 1
  | _, none => 0
  | u, some a => roundedTo 0 (val u / 2 ^ a)

/-- The value of an accumulator integer (R167). -/
def accVal (ae : Option ℤ) (m : ℤ) : FVal :=
  if m = 2 ^ 47 - 1 then .inf false
  else if m = -2 ^ 47 then .inf true
  else if m = -2 ^ 47 + 1 then .nan false
  else match ae with
    | none => .fin false 0 0
    | some a => .fin (decide (m < 0)) m.natAbs a

/-- The value of an accumulator with a contribution (R169). -/
def accumulated (op : AccOp) (v p : FVal) : FVal :=
  match op with
  | .add => addV 0 v p
  | .max => minMaxV true false v p
  | .min => minMaxV false false v p
  | .replace => p

/-- Row r of part p of `n` in a latch, decoded with the scales of the part and a band scale (R198, R199). -/
def latchRow (f : TileFmt) (n : ℕ) (q : LatchLane) (p r band : ℕ) : List FVal × Bool :=
  let side := (q.scales.toArray.getD p LatchScale.reset).scale.toNat
  decodeRow f (q.payload.toNat / 2 ^ (16384 / n * p + 32 * f.w * r) % 2 ^ (32 * f.w))
    (side / 2 ^ (8 * f.scaleRow * r) % 2 ^ (8 * f.scaleRow)) (decodeFloat fmtBF16 band)

/-- An element, and whether its scale is a NaN. -/
def latchPlace (f : TileFmt) (n : ℕ) (q : LatchLane) (band : ℕ → ℕ) (p r c : ℕ) : FVal :=
  (latchRow f n q p r (band p)).1.getD c (.nan true)

def latchScaleNaN (f : TileFmt) (q : LatchLane) (p r c : ℕ) : Bool :=
  let side := (q.scales.toArray.getD p LatchScale.reset).scale.toNat
  match f.scaling with
  | .plain => false
  | .mx => side / 2 ^ (8 * r) % 256 == 255
  | .kf => side / 2 ^ (64 * r + 16 * (c / 8)) % 2 ^ 9 == 0x1FF

/-- K and P of the formats of a latch (R198). -/
def latchClasses : List (List ℕ × ℕ × ℕ) :=
  [([0x03, 0x04, 0x20], 32, 1),
    ([0x05, 0x06, 0x07, 0x08, 0x10, 0x11, 0x12, 0x13, 0x15, 0x18, 0x19, 0x1A, 0x1B, 0x1D, 0x21, 0x22], 64, 2),
    ([0x09, 0x14, 0x1C, 0x1E, 0x23], 128, 4), ([0x28], 32, 1)]

/-- R90, R169: the greater or the smaller of two values, −0 below +0, a NaN if either is one. -/
def MaximaAreExact : Prop :=
  ∀ a b : FVal, Definite a → Definite b →
    (a.isNaN = true ∨ b.isNaN = true → (minMaxV true false a b).isNaN = true ∧ (minMaxV false false a b).isNaN = true) ∧
    (finite a = true → finite b = true → minMaxV true false a b ∈ [a, b] ∧ minMaxV false false a b ∈ [a, b] ∧
      val (minMaxV true false a b) = max (val a) (val b) ∧ val (minMaxV false false a b) = min (val a) (val b) ∧
      (val a = 0 → val b = 0 → (minMaxV true false a b).sign = (a.sign && b.sign) ∧
        (minMaxV false false a b).sign = (a.sign || b.sign))) ∧
    (a = .inf false → b.isNaN = false → minMaxV true false a b = a ∧ minMaxV false false a b = b) ∧
    (a = .inf true → b.isNaN = false → minMaxV true false a b = b ∧ minMaxV false false a b = a)

end Sys2Proof.Claims

/-- R167, R169-R171: a step of accumulation. The first finite nonzero contribution sets AE; while a finite candidate
reaches 2^46, AE rises by 8 and every finite m is rounded to a multiple of 256, up to AE = 511; the elements take the
candidates, infinities and NaNs their markers. NV is raised for a signalling contribution and for an invalid sum. -/
def Sys2Proof.Claims.StepsAccumulateExactly : Prop :=
  MaximaAreExact ∧
  ∀ (op : AccOp) (p : List FVal) (t : AccLane), t.m.length = 1024 → p.length = 1024 → (∀ x ∈ p, Definite x) →
    let step (t : AccLane) := accStep op (p.map some) t
    let u (i : ℕ) : FVal := accumulated op (accVal t.ae (t.m.getD i 0)) (p.getD i (.nan true))
    let c := (List.range 1024).map fun i => accInt t.ae (u i)
    let fits : Prop := ∀ i < 1024, finite (u i) = true → |c.getD i 0| < 2 ^ 46
    let marked (m : ℤ) : Prop := m = 2 ^ 47 - 1 ∨ m = -2 ^ 47 ∨ m = -2 ^ 47 + 1
    (t.ae = none → (∀ m ∈ t.m, m = 0 ∨ marked m) →
      (LargestOf p 0 → (step t).1 = some { t with m := c }) ∧
      ∀ (q : ℚ) (l : ℤ), LargestOf p q → 2 ^ l ≤ q → q < 2 ^ (l + 1) →
        step t = step { t with ae := some (max (l - 44) (-512)) }) ∧
    (∀ e, t.ae = some e → -512 ≤ e →
      (fits → (step t).1 = some { t with m := c }) ∧
      (¬ fits → 511 < e + 8 → (step t).1 = none) ∧
      (¬ fits → e + 8 ≤ 511 → ∃ m : List ℤ, (step t).1 = (step { t with ae := some (e + 8), m := m }).1 ∧
        m.length = 1024 ∧ ∀ i < 1024, (marked (t.m.getD i 0) → m.getD i 0 = t.m.getD i 0) ∧
          (¬ marked (t.m.getD i 0) → m.getD i 0 = roundedTo 0 ((t.m.getD i 0 : ℚ) / 256)))) ∧
    ((step t).2 = true ↔ ∃ i < 1024, p.getD i (.fin false 0 0) = .nan true ∨ (op ≠ .replace ∧ u i = .nan true))

/-- R198-R200, R206, R208-R210: what a pass leaves. Its steps are applied in increasing K, each to the whole tile, on
elements decoded with the scales of their part and the band of issue; the tags, the flags NV and SN, and the one
matrix fault of the pass. Here no latch is written while the pass reads it; otherwise each step reads what stands at
its cycle. -/
def Sys2Proof.Claims.PassesApplyTheirSteps : Prop :=
  (∀ code < 128, latchKP code = (latchClasses.find? fun x => x.1.contains code).map (·.2)) ∧
  (∀ (p : Pass) (l : Fin 16) (a b : Vector LatchLane 16) (t : Vector AccLane 16) (fa fb : TileFmt) (kk n : ℕ),
    p.a = [(p.issue, a)] → p.b = [(p.issue, b)] → p.acc = [(p.issue, t)] →
    tileFmt (a.get l).fmt.toNat = some fa → tileFmt (b.get l).fmt.toNat = some fb →
    latchKP (a.get l).fmt.toNat = some (kk, n) → latchKP (b.get l).fmt.toNat = some (kk, n) →
    let qa := a.get l
    let qb := b.get l
    let band (q : LatchLane) (i : ℕ) : ℕ := (q.scales.toArray.getD i LatchScale.reset).band.toNat
    let x (r c k : ℕ) : FVal := latchPlace fa n qa (band qa) (k / 32) r c
    let y (r c k : ℕ) : FVal := latchPlace fb n qb (band qb) (k / 32) r c
    let oper (k : ℕ) : ℕ := if p.op = 5 then p.limm.toNat / 2 ^ (2 * (k % 16)) % 4 else p.op.toNat
    let magnitude (v : FVal) : FVal := if v.sign then v.neg else v
    let real (o k i j : ℕ) : FVal :=
      let a := x i (k % 32) k
      let b := y (k % 32) j k
      if o = 0 then mulV a b else if o = 1 then magnitude (subV 0 a b) else addV 0 a b
    let complex (k r c : ℕ) : FVal :=
      let i := r % 16
      let j := c / 2
      let xr := x (k % 32) (2 * i) k
      let xi := x (k % 32) (2 * i + 1) k
      let yr := y (k % 32) (2 * j) k
      let yi := y (k % 32) (2 * j + 1) k
      if ¬ (r / 16 = 1 ↔ p.half = true) then .fin false 0 0
      else if l = 0 ∧ qa.packed = true then (if c % 2 = 0 then mulV xr yr else mulV xi yi)
      else if c % 2 = 0 then subV 0 (mulV xr yr) (mulV xi yi)
      else addV 0 (mulV xr yi) (mulV xi yr)
    let cells (k : ℕ) : Contrib := (List.range 1024).map fun e =>
      some (if p.op = 4 then complex k (e / 32) (e % 32) else real (oper k) k (e / 32) (e % 32))
    let acc (k : ℕ) : AccOp := if oper k = 2 then .max else if oper k = 3 then .min else .add
    let sn (k : ℕ) : Bool := (List.range 32).any fun i =>
      (if p.op = 4 then latchScaleNaN fa qa (k / 32) (k % 32) i else latchScaleNaN fa qa (k / 32) i (k % 32)) ||
        latchScaleNaN fb qb (k / 32) (k % 32) i
    let next (z : LanePass) (k : ℕ) : LanePass :=
      if z.failed.isSome then z
      else
        let r := accStep (acc k) (cells k) z.tile
        let fl := z.flags ||| (if sn k then flSN else 0) ||| (if r.2 then flNV else 0)
        match r.1 with
        | none => { z with flags := fl, failed := some k }
        | some t' => { z with tile := t', flags := fl }
    let z := (List.range kk).foldl next ⟨t.get l, 0, none⟩
    lanePass p l = { z with tile := { z.tile with
      domain := p.op == 4, packed := p.op == 4 && qa.packed, scaled := p.op == 4 && (qa.scaled || qb.scaled) } }) ∧
  (∀ (p : Pass),
    let lane (l : Fin 16) : LanePass := lanePass p l
    let written := (Vector.ofFn fun l => (lane l).tile, Vector.ofFn fun l => (lane l).flags)
    let hit (b : ℕ) (l : Fin 16) : Bool := ((lane l).flags &&& p.enables.get l).getLsbD b
    let names (on : Fin 16 → Bool) (tr : Trap) : Prop :=
      (∀ l, tr.lmask.getLsbD l.val = on l) ∧ ∃ l : Fin 16, tr.lane = BitVec.ofNat 4 l.val ∧ on l = true ∧ ∀ i < l, on i = false
    ((∃ l, (lane l).failed.isSome = true) → ∃ tr k, passResult p = (some written, some tr) ∧ tr.cause = .accExponent ∧
      names (fun l => (lane l).failed.isSome) tr ∧ (∃ l, (lane l).failed = some k) ∧
      (∀ l i, (lane l).failed = some i → k ≤ i) ∧ tr.detail = BitVec.ofNat 32 (p.bundle.toNat + k * 2 ^ 11)) ∧
    ((∀ l, (lane l).failed = none) → ∀ b < 7, (∃ l, hit b l = true) → (∀ c < b, ∀ l, hit c l = false) →
      ∃ tr, passResult p = (none, some tr) ∧ tr.cause = flagCause b ∧ names (hit b) tr ∧
        tr.detail = p.bundle.setWidth 32) ∧
    ((∀ l, (lane l).failed = none) → (∀ b < 7, ∀ l, hit b l = false) → passResult p = (some written, none)))

/-- R206-R209: a `tmma` whose latches and accumulator pass R207 in every lane starts a pass: it reads the named
latches and accumulator, its result is due 40 cycles after issue, and the tile multiplier is busy for 32. -/
def Sys2Proof.Claims.PassesStartWithTheirOperands : Prop :=
  ∀ (w : RForm) (s : State), InSlot s w.guard →
    let k := s.core.kern
    let a : Vector LatchLane 16 := k.latch.get (w.a.setWidth 2 : BitVec 2).toFin
    let b : Vector LatchLane 16 := k.latch.get (w.b.setWidth 2 : BitVec 2).toFin
    let t : Vector AccLane 16 := k.acc.get (w.d.setWidth 2 : BitVec 2).toFin
    let starts (i : Instr) (op : BitVec 4) : Prop :=
      (∀ l : Fin 16, passCause op.toNat (a.get l) (b.get l) (t.get l) = none) →
        exec i s = .next (Safety.unitBusy (s.withKern { k with
          seq := k.seq + 1
          passes := k.passes ++ [{
            issue := k.ktime, seq := k.seq, bundle := k.kpc.setWidth 11, op := op, half := w.fn.getLsbD 4, limm := s.limm,
            d := w.d.setWidth 2, qa := w.a.setWidth 2, qb := w.b.setWidth 2,
            enables := Vector.ofFn fun l => laneEn s l.val, a := [(k.ktime, a)], b := [(k.ktime, b)],
            acc := [(k.ktime, t)] }] }) 2 32)
    starts (.tmmaMadd w) 0 ∧ starts (.tmmaAdif w) 1 ∧ starts (.tmmaCselmax w) 2 ∧ starts (.tmmaCselmin w) 3 ∧
      starts (.tmmaCmad w) 4 ∧ starts (.tmmaSeq w) 5

/-- R207, R113, R406: a `tmma` with an empty latch in lane 0 faults FORMAT_MISMATCH in its slot and starts nothing. -/
def Sys2Proof.Claims.EmptyLatchesFaultThePass : Prop :=
  ∀ (w : RForm) (s : State), InSlot s w.guard →
    ((s.core.kern.latch.get (w.a.setWidth 2 : BitVec 2).toFin).get 0).fmt = 0 →
    ∀ i ∈ [Instr.tmmaMadd w, .tmmaAdif w, .tmmaCselmax w, .tmmaCselmin w, .tmmaCmad w, .tmmaSeq w],
      ∃ mask : BitVec 16, mask.getLsbD 0 = true ∧
        exec i s = .next (slotFault s { cause := .formatMismatch, lane := 0, lmask := mask } 0x80)

/-- R167, R168, R172, R212-R219: the accumulator words clear, read out, replace or add a row, normalise, report, copy
and merge the tiles of every lane. -/
def Sys2Proof.Claims.AccumulatorWordsActOnTiles : Prop :=
  ∀ (w : RForm) (s : State), InSlot s w.guard →
    let d : BitVec 2 := w.d.setWidth 2
    let tile (r : BitVec 6) (l : Fin 16) : AccLane := (s.core.kern.acc.get (r.setWidth 2 : BitVec 2).toFin).get l
    let row := (opB s w true).toNat % 32
    let op := w.fn.toNat % 16
    let cplx := tyComplex w.ty
    let n := if cplx then tyWidth w.ty / 2 else tyWidth w.ty
    let none' : LaneFlags := Vector.replicate 16 0
    let writes (i : Instr) (lat : Nat) (f : Fin 16 → AccLane) : Prop :=
      exec i s = .next (slotWrites s lat (.acc d (Vector.ofFn f) none'))
    let old (l : Fin 16) (c : Nat) : FVal := accValue (tile w.a l).ae ((tile w.a l).m.getD (32 * row + c) 0)
    let out (l : Fin 16) (c : Nat) : Nat × Flags := deliver (tyFmt w.ty) w.rm.toNat false (old l c)
    let rfl1 : LaneFlags := Vector.ofFn fun l => orFlags ((List.range 32).map fun c => (out l c).2)
    let src (l : Fin 16) (c : Nat) : FVal :=
      decodeFloat (tyFmt w.ty) (vElem (readV s (w.a + BitVec.ofNat 6 (c / (256 / n)))) n l.val (c % (256 / n)))
    let rowStep (l : Fin 16) : Option AccLane :=
      (accStep (if op = 1 then .add else .replace)
        ((List.range 1024).map fun e => if e / 32 = row then some (src l (e % 32)) else none) (tile w.d l)).1
    let sum (l : Fin 16) : Option AccLane × Bool :=
      accStep .add ((tile w.a l).m.map fun m => some (accValue (tile w.a l).ae m)) (tile w.d l)
    let mfl : LaneFlags := Vector.ofFn fun l => if (sum l).2 then flNV else 0
    let norm (t : AccLane) : AccLane :=
      let h := largestM t
      match t.ae with
      | none => t
      | some e =>
        let sh : Int := 44 - (Nat.log2 h : Int)
        let k := min sh (e + 512)
        if h = 0 then { t with ae := none }
        else if sh ≤ 0 then t
        else { t with ae := some (e - k), m := t.m.map fun m => if isMarker m then m else m * 2 ^ k.toNat }
    writes (.tclr w) 2 (fun _ =>
      { ae := none, m := List.replicate 1024 (if op = 2 then markNegInf else if op = 3 then markPosInf else 0)
        domain := op == 4, packed := w.fn.getLsbD 4, scaled := w.fn.getLsbD 5 }) ∧
    (w.c = 0 → w.ty ∈ [0x09, 0x0A, 0x0B, 0x11, 0x12] → (∀ l, (tile w.a l).domain = cplx) →
      FaultsOnFlags (.taccRd w) s rfl1 ∧ (NoLaneTrap s rfl1 → ∃ x : Nat → VecReg,
        exec (.taccRd w) s =
          .next (lanesGive s 8 ((List.range (32 / (256 / n))).map fun k => .v (w.d + BitVec.ofNat 6 k) (x k)) rfl1) ∧
        ∀ (l : Fin 16) (c : Nat), c < 32 → vElem (x (c / (256 / n))) n l.val (c % (256 / n)) = (out l c).1)) ∧
    (∀ f, w.c ≠ 0 → fmtReserved s w.c.toNat = false → fmtPackable w.c.toNat = true → tileFmt w.c.toNat = some f →
      (∀ l, (tile w.a l).domain = false) →
      let band := s.limm.toNat / 2 ^ 16
      let enc (l : Fin 16) := encodeRow f w.rm.toNat (decodeFloat fmtBF16 band) ((List.range 32).map (old l))
      let fl : LaneFlags := Vector.ofFn fun l => (enc l).2.2
      (f.scaling = .kf → bandOk band = true) → NoLaneTrap s fl → ∃ x y : VecReg,
        exec (.taccRd w) s =
          .next (lanesGive s 8 (.v w.d x :: if f.scaling = .plain then [] else [.v (w.d + 1) y]) fl) ∧
        ∀ l : Fin 16, vElem x 256 l.val 0 = (enc l).1 % 2 ^ 256 ∧ vElem y 256 l.val 0 = (enc l).2.1 % 2 ^ 256) ∧
    (w.ty ∈ [0x09, 0x0A, 0x11, 0x12] → (∀ l, (tile w.d l).domain = cplx) → (∀ l, (rowStep l).isSome = true) →
      writes (.taccWr w) 4 (fun l => (rowStep l).getD AccLane.reset)) ∧
    writes (.tnorm w) 8 (fun l => norm (tile w.d l)) ∧
    (d ≠ w.a.setWidth 2 → writes (.tcopy w) 4 (tile w.a)) ∧ (d = w.a.setWidth 2 → exec (.tcopy w) s = .next s) ∧
    exec (.tqclr w) s = .next (slotWrites s 2 (.latchClear d)) ∧
    ((∀ l, (tile w.d l).domain = (tile w.a l).domain ∧ (tile w.d l).scaled = (tile w.a l).scaled ∧
        (tile w.d l).packed = (tile w.a l).packed) → (∀ l, (sum l).1.isSome = true) → NoLaneTrap s mfl →
      exec (.tmerge w) s = .next (Safety.unitBusy
        (slotWrites s 8 (.acc d (Vector.ofFn fun l => (sum l).1.getD AccLane.reset) mfl)) 2 8))

/-- R217: `tstat` reports the exponent, tags, markers and size of an accumulator's lane, or the tags and band scale of
a latch's. -/
def Sys2Proof.Claims.StatusWordsReportTilesAndLatches : Prop :=
  ∀ (w : RForm) (s : State), InSlot s w.guard →
    let l := Fin.ofNat 16 w.c.toNat
    let t := (s.core.kern.acc.get (w.a.setWidth 2 : BitVec 2).toFin).get l
    let q := (s.core.kern.latch.get (w.a.setWidth 2 : BitVec 2).toFin).get l
    (∃ v, Delivers (.tstatAcc w) s 2 w.d v 0 ∧
      ((∀ e, t.ae = some e → -512 ≤ e → e ≤ 511 → (v.extractLsb' 0 10).toInt = e) ∧
        (t.ae = none → v.extractLsb' 0 10 = 0)) ∧
      bit v 10 = t.ae.isNone ∧ bit v 11 = t.domain ∧ bit v 12 = t.packed ∧ bit v 13 = t.scaled ∧
      bit v 14 = t.m.contains markNaN ∧ bit v 15 = (t.m.contains markPosInf || t.m.contains markNegInf) ∧
      ((∀ m ∈ t.m, m.natAbs < 2 ^ 48) → fld v 16 48 = bitLen (largestM t))) ∧
    (∃ v, Delivers (.tstatLatch w) s 2 w.d v 0 ∧
      fld v 0 10 = q.fmt.toNat ∧ bit v 10 = q.domain ∧ bit v 11 = q.packed ∧ bit v 12 = q.scaled ∧ fld v 13 19 = 0 ∧
      fld v 32 32 = (q.scales.get 0).band.toNat)

namespace Sys2Proof.Claims

/-- A transform has entered its unit: it is due `lat` cycles after issue, with what it will write and raise, and the
unit is busy for `n` (R226, R227). -/
def transforms (s : State) (opc : BitVec 8) (lat n : Nat) (r : XResult) : State :=
  let k := s.core.kern
  Safety.unitBusy (s.withKern { k with
    seq := k.seq + 1
    xforms := k.xforms ++ [{
      due := k.ktime + lat, seq := k.seq, opc := opc, bundle := k.kpc.setWidth 11, enables := laneEn s 0, raised := r.raised,
      bytes := r.bytes }] }) 3 n

end Sys2Proof.Claims

namespace Sys2Proof.Claims

/-! ### The transforms as the pseudocode of R230 and R231 has them -/

/-- One butterfly: both results come from the old `u[g + j]`. -/
def butterfly (inv : Bool) (m g j : Nat) (u : Nat → XPair) : Nat → XPair :=
  let w := if inv then pairConj (tw (32 * j / m)) else tw (32 * j / m)
  let t := cmul w (u (g + j + m / 2))
  fun n => if n = g + j + m / 2 then pairSub (u (g + j)) t else if n = g + j then pairAdd (u (g + j)) t else u n

/-- `fft16` of R230: the loops over s, g and j. -/
def fftLoops (z : Nat → XPair) (inv : Bool) : Nat → XPair :=
  [1, 2, 3, 4].foldl (fun u s =>
    (List.range (16 / 2 ^ s)).foldl (fun u g =>
      (List.range (2 ^ s / 2)).foldl (fun u j => butterfly inv (2 ^ s) (2 ^ s * g) j u) u) u) fun n => z (rev4 n)

/-- `rfwd` of R231. -/
def forward (x : Nat → XVal) (scaled : Bool) (k : Nat) : XPair :=
  let z := fftLoops (fun n => ⟨x (2 * n), x (2 * n + 1)⟩) false
  let sc : Int := if scaled then -5 else 0
  let y := pairConj (z (16 - k))
  if k = 0 then ⟨xmul (xadd (z 0).re (z 0).im) (xpow sc), xmul (xsub (z 0).re (z 0).im) (xpow sc)⟩
  else pairScale (pairAdd (pairAdd (z k) y) (cmul (tw k) (mulni (pairSub (z k) y)))) (xpow (sc - 1))

/-- `rinv` of R231: pair n of the row. -/
def inverse (p : Nat → XPair) (scaled : Bool) (n : Nat) : XPair :=
  let z (k : Nat) : XPair :=
    let y := pairConj (p (16 - k))
    if k = 0 then ⟨xadd (p 0).re (p 0).im, xsub (p 0).re (p 0).im⟩
    else pairAdd (pairAdd (p k) y) (muli (cmul (pairConj (tw k)) (pairSub (p k) y)))
  pairScale (fftLoops z true n) (xpow (if scaled then 0 else -5))

/-- Place c of a row of pairs: the real part stands first. -/
def partAt (p : Nat → XPair) (c : Nat) : XVal := if c % 2 = 0 then (p (c / 2)).re else (p (c / 2)).im

/-- R230: each operation of the unit rounds once to f32 in rne and adds its flags; the twiddle factors are the cosines
and sines of multiples of π/16, rounded to nearest. -/
def UnitArithmetic : Prop :=
  (∀ a b : XVal,
    let once (v : FVal) : XVal :=
      ⟨decodeFloat fmtF32 (deliver fmtF32 0 false v).1, (deliver fmtF32 0 false v).2 ||| (a.fl ||| b.fl)⟩
    xadd a b = once (addV 0 a.v b.v) ∧ xsub a b = once (subV 0 a.v b.v) ∧ xmul a b = once (mulV a.v b.v)) ∧
  (∀ x y : XPair,
    cmul x y = ⟨xsub (xmul x.re y.re) (xmul x.im y.im), xadd (xmul x.re y.im) (xmul x.im y.re)⟩ ∧
    pairAdd x y = ⟨xadd x.re y.re, xadd x.im y.im⟩ ∧ pairSub x y = ⟨xsub x.re y.re, xsub x.im y.im⟩ ∧
    pairConj x = ⟨x.re, ⟨x.im.v.neg, x.im.fl⟩⟩ ∧ muli x = ⟨⟨x.im.v.neg, x.im.fl⟩, x.re⟩ ∧
    mulni x = ⟨x.im, ⟨x.re.v.neg, x.re.fl⟩⟩) ∧
  (∀ k : Fin 16, ∀ b ∈ [(0x3F800000, 0x00000000), (0x3F7B14BE, 0xBE47C5C2), (0x3F6C835E, 0xBEC3EF15),
      (0x3F54DB31, 0xBF0E39DA), (0x3F3504F3, 0xBF3504F3), (0x3F0E39DA, 0xBF54DB31), (0x3EC3EF15, 0xBF6C835E),
      (0x3E47C5C2, 0xBF7B14BE), (0x00000000, 0xBF800000), (0xBE47C5C2, 0xBF7B14BE), (0xBEC3EF15, 0xBF6C835E),
      (0xBF0E39DA, 0xBF54DB31), (0xBF3504F3, 0xBF3504F3), (0xBF54DB31, 0xBF0E39DA), (0xBF6C835E, 0xBEC3EF15),
      (0xBF7B14BE, 0xBE47C5C2)][k.val]?,
    (tw k).re.fl = 0 ∧ (tw k).im.fl = 0 ∧ cmpV (tw k).re.v (decodeFloat fmtF32 b.1) = some .eq ∧
      cmpV (tw k).im.v (decodeFloat fmtF32 b.2) = some .eq)

/-! ### What an X word writes -/

/-- A source that passes the checks of R228: aligned, within the SRF, with a sound header of a plain format, its tags
allowed and its codewords sound. -/
def SoundSource (s : State) (o : Nat) (h : Header) (f : TileFmt) : Prop :=
  o % 64 = 0 ∧ o + footprint h.code ≤ 0x300000 ∧ headerCheck s (srfBytes s.core o 64) = .ok h ∧
    tileFmt h.code = some f ∧ h.code ∈ [0x02, 0x03, 0x04, 0x28, 0x29] ∧ s.core.srfBad o (footprint h.code) = false ∧
    (h.domain = true → s.md.faccept.getLsbD 0 = true)

def Room (o n : Nat) : Prop := o % 64 = 0 ∧ o + n ≤ 0x300000

/-- The floating format of the elements of F32, BF16, F16, CBF16 and CF32 (R152). -/
def plainFlt (code : Nat) : FFmt :=
  if code = 0x03 ∨ code = 0x28 then fmtBF16 else if code = 0x04 then fmtF16 else fmtF32

/-- Element c of row r of the record at `o`, its bits and its value. -/
def elemBits (s : State) (o : Nat) (f : TileFmt) (r c : Nat) : Nat :=
  rowElem f.w (leNat (srfBytes s.core (o + 64 + r * f.rowBytes) f.rowBytes)) c
def elemVal (s : State) (o : Nat) (h : Header) (f : TileFmt) (r c : Nat) : XVal :=
  ⟨decodeFloat (plainFlt h.code) (elemBits s o f r c), 0⟩

/-- The word enters the unit with a whole record: a header with its CRC and 32 rows of 32 elements. -/
def WritesRecord (i : Instr) (s : State) (opc : BitVec 8) (lat n dst : Nat) (h : Header) (e : Nat → Nat → Nat)
    (fl : Flags) : Prop :=
  ∃ (b : List Byte) (g : TileFmt), tileFmt h.code = some g ∧
    exec i s = .next (transforms s opc lat n ⟨some (atAddr dst b), fl⟩) ∧ b.length = footprint h.code ∧
    b.take 64 = headerBytes h.toWord ∧
    ∀ r c, r < 32 → c < 32 → rowElem g.w (leNat ((b.drop (64 + r * g.rowBytes)).take g.rowBytes)) c = e r c

/-- The word enters the unit with a record of floating elements, rounded once in RM where `inside` holds and zero
elsewhere. -/
def WritesValues (i : Instr) (s : State) (opc : BitVec 8) (lat n rm dst : Nat) (h : Header) (inside : Nat → Nat → Bool)
    (x : Nat → Nat → XVal) : Prop :=
  let y (r c : Nat) : Nat × Flags := deliver (plainFlt h.code) rm false (x r c).v
  WritesRecord i s opc lat n dst h (fun r c => if inside r c then (y r c).1 else 0)
    (orFlags ((List.range 32).flatMap fun r => (List.range 32).map fun c =>
      if inside r c then (y r c).2 ||| (x r c).fl else 0))

end Sys2Proof.Claims

/-- R226-R229: each X word whose checks pass enters the transform unit with its result; a failing check faults the X
slot and nothing is written. The readings of the checks' order are in log entry 21. -/
def Sys2Proof.Claims.TransformChecksFaultTheSlot : Prop :=
  ∀ (w : RForm) (s : State), InSlot s w.guard →
    let runs (i : Instr) (opc : BitVec 8) (lat n : Nat) (plan : XPlan) : Prop :=
      (∀ r, plan s w = .ok r → exec i s = .next (transforms s opc lat n r)) ∧
        ∀ t, plan s w = .error t → exec i s = .next (slotFault s t opc)
    runs (.xfft w) 0xA0 40 8 xfftPlan ∧ runs (.xifft w) 0xA1 40 8 xifftPlan ∧ runs (.xtrn w) 0xA2 16 4 xtrnPlan ∧
      runs (.xtrnTurn w) 0xA2 16 4 xturnPlan ∧ runs (.xtrnBack w) 0xA2 16 4 xbackPlan ∧ runs (.xcvt w) 0xA3 12 4 xcvtPlan ∧
      runs (.xexp w) 0xA4 48 16 xexpPlan ∧ runs (.xsclS w) 0xA5 12 4 (xsclPlan false) ∧
      runs (.xsclU w) 0xA5 12 4 (xsclPlan true) ∧ runs (.xmov w) 0xA6 12 4 xmovPlan ∧ runs (.xhdr w) 0xA7 12 4 xhdrPlan

/-- R224, R227, R230-R232: `xfft` writes the spectrum of each valid row, `xifft` the row of each spectrum, by the
loops of the pseudocode. -/
def Sys2Proof.Claims.TransformsComputeTheirSpectra : Prop :=
  Claims.UnitArithmetic ∧
  ∀ (w : RForm) (s : State) (h : Header) (f : TileFmt), InSlot s w.guard →
    let src := (readR s w.b).toNat
    let dst := (readR s w.a).toNat
    let rm := w.rm.toNat
    let sc := w.fn.getLsbD 0
    let x (r : Nat) : Nat → XVal := elemVal s src h f r
    let pairs (r n : Nat) : XPair := ⟨x r (2 * n), x r (2 * n + 1)⟩
    let half (up : Bool) (u : Nat → XPair) (n : Nat) : XPair := pairScale (u n) (xpow (if up then -4 else 0))
    let code := if w.ty = 0x12 then 0x29 else 0x28
    let real (t : BitVec 5) : Nat := if t = 9 then 2 else if t = 10 then 3 else 4
    let valid (r _c : Nat) : Bool := r < h.rows
    SoundSource s src h f →
    (Room dst (footprint code) → h.domain = false → h.cols = maxCols h.code →
      WritesValues (.xfft w) s 0xA0 40 8 rm dst ⟨code, true, !complexCode h.code, sc, h.rows, 16, 0⟩ valid fun r =>
        partAt (if complexCode h.code then half sc (fftLoops (pairs r) false) else forward (x r) sc)) ∧
    (complexCode h.code = true → h.domain = true → h.cols = 16 →
      (h.packed = true → w.ty ∈ [9, 10, 11] → Room dst (footprint (real w.ty)) →
        WritesValues (.xifft w) s 0xA1 40 8 rm dst ⟨real w.ty, false, false, false, h.rows, 32, 0⟩ valid fun r =>
          partAt (inverse (pairs r) h.scaled)) ∧
      (h.packed = false → w.ty ∈ [0x11, 0x12] → Room dst (footprint code) →
        WritesValues (.xifft w) s 0xA1 40 8 rm dst ⟨code, false, false, false, h.rows, 16, 0⟩ valid fun r =>
          partAt (half (!h.scaled) (fftLoops (pairs r) true))))

/-- R165, R234, R236, R237, R249: `xcvt` between formats of one kind converts each element in RM and writes the tags
of its retag; `xscl` multiplies by a power of two and exchanges SCALED; `xhdr` writes a header. -/
def Sys2Proof.Claims.ConversionStageWordsWriteRecords : Prop :=
  ∀ (w : RForm) (s : State) (h : Header) (f : TileFmt), InSlot s w.guard →
    let src := (readR s w.b).toNat
    let dst := (readR s w.a).toNat
    let rm := w.rm.toNat
    let code := w.c.toNat
    let how := w.fn.toNat % 4
    let inside (r c : Nat) : Bool := r < h.rows && c < h.validPlaces
    let x (r c : Nat) : XVal := elemVal s src h f r c
    let tagged : Header :=
      if how = 1 then { h with code := code, domain := false, packed := false, scaled := false }
      else if how = 2 then { h with code := code, domain := true, packed := w.fn.getLsbD 2, scaled := w.fn.getLsbD 3 }
      else { h with code := code }
    let n : Int := if h.packed then 5 else 4
    let scaled (k : Int) (r c : Nat) : XVal := ⟨(x r c).v.scale k, 0⟩
    let v := readR s w.b
    (SoundSource s src h f → Room dst (footprint code) → code ∈ [0x02, 0x03, 0x04, 0x28, 0x29] → code ≠ h.code →
      complexCode code = complexCode h.code → (how = 2 → complexCode code = true) →
      WritesRecord (.xcvt w) s 0xA3 12 4 dst tagged
        (fun r c => if inside r c then
          (deliver (plainFlt code) rm false (decodeFloat fmtF32 (rodd32 (x r c).v))).1 else 0)
        (orFlags ((List.range 32).flatMap fun r => (List.range 32).map fun c =>
          if inside r c then (deliver (plainFlt code) rm false (x r c).v).2 else 0))) ∧
    (SoundSource s src h f → Room dst (footprint h.code) → complexCode h.code = true → h.domain = true →
      (h.scaled = false → WritesValues (.xsclS w) s 0xA5 12 4 rm dst { h with scaled := true } inside (scaled (-n))) ∧
      (h.scaled = true → WritesValues (.xsclU w) s 0xA5 12 4 rm dst { h with scaled := false } inside (scaled n))) ∧
    (Room dst 64 → fld v 0 7 ∈ [0x02, 0x03, 0x04, 0x28, 0x29] → v &&& 0xFFFF0000C0C0F880 = 0 → 1 ≤ fld v 16 6 →
      fld v 16 6 ≤ 32 → 1 ≤ fld v 24 6 → fld v 24 6 ≤ maxCols (fld v 0 7) → fld v 32 16 = 0 →
      (bit v 8 = true → complexCode (fld v 0 7) = true ∧ s.md.faccept.getLsbD 0 = true) →
      (bit v 8 = false → bit v 9 = false ∧ bit v 10 = false) → ∃ b : List Byte,
        exec (.xhdr w) s = .next (transforms s 0xA7 12 4 ⟨some (atAddr dst b), 0⟩) ∧ b.length = 64 ∧
        leNat (b.take 8) = v.toNat ∧ (b.drop 8).take 54 = List.replicate 54 0 ∧ leNat (b.drop 62) = crc16 (b.take 62)) ∧
    crc16 ([0x31, 0x32, 0x33, 0x34, 0x35, 0x36, 0x37, 0x38, 0x39] : List Byte) = 0x29B1

/-- R233: the turn moves pair s of the source's rows into two rows of record s, zero outside that record's valid
region; the back gathers them again, with a header of 32 rows and 16 pairs. -/
def Sys2Proof.Claims.TurnAndBackMoveRowsOfPairs : Prop :=
  ∀ (w : RForm) (s : State) (h : Header) (f : TileFmt) (g : Nat → Header), InSlot s w.guard →
    let r0 := (readR s w.d).toNat % 32
    let rec' (base : BitVec 6) (i : Nat) : Nat := (readR s base + readR s w.c * BitVec.ofNat 64 i).toNat
    let part (i : Nat) (o : Nat) : Prop :=
      Room o 64 ∧ rowOff f o r0 + 2 * f.rowBytes ≤ 0x300000 ∧ s.core.srfBad o 64 = false ∧
        headerCheck s (srfBytes s.core o 64) = .ok (g i) ∧
        (g i).code = h.code ∧ (g i).domain = h.domain ∧ (g i).scaled = h.scaled ∧ (g i).packed = h.packed
    r0 % 2 = 0 → complexCode h.code = true → h.domain = true →
    (SoundSource s (readR s w.b).toNat h f → h.rows = 32 → h.cols = 16 → (∀ i < 16, part i (rec' w.a i)) →
      ∃ b : Nat → List Byte,
        exec (.xtrnTurn w) s = .next (transforms s 0xA2 16 4
          ⟨some ((List.range 16).flatMap fun i => atAddr (rowOff f (rec' w.a i) r0) (b i)), 0⟩) ∧
        ∀ i k c, i < 16 → k < 2 → c < 32 → (b i).length = 2 * f.rowBytes ∧
          rowElem f.w (leNat (((b i).drop (k * f.rowBytes)).take f.rowBytes)) c =
            if r0 + k < (g i).rows ∧ c / 2 < (g i).cols then
              elemBits s (readR s w.b).toNat f (16 * k + c / 2) (2 * i + c % 2)
            else 0) ∧
    (tileFmt h.code = some f → s.md.faccept.getLsbD 0 = true → Room (readR s w.a).toNat (footprint h.code) →
      (∀ i < 16, part i (rec' w.b i) ∧ r0 + 2 ≤ (g i).rows ∧ (g i).cols = 16 ∧
        s.core.srfBad (rowOff f (rec' w.b i) r0) (2 * f.rowBytes) = false) →
      WritesRecord (.xtrnBack w) s 0xA2 16 4 (readR s w.a).toNat
        ⟨h.code, true, h.packed, h.scaled, 32, 16, 0⟩
        (fun n c => elemBits s (rec' w.b (c / 2)) f (r0 + n / 16) (2 * (n % 16) + c % 2)) 0)

/-- R235: `xexp` writes the decoded 4 KiB of a run: no block present, or words 0 and 7 of block 0; a block without
words is malformed and raises the transform's DECOMPRESS fault when its time comes. -/
def Sys2Proof.Claims.ExpandDecodesItsRun : Prop :=
  ∀ (w : RForm) (s : State) (x y : Word), InSlot s w.guard →
    let src := (readR s w.b).toNat
    let dst := (readR s w.a).toNat
    let gives (r : XResult) : Prop := exec (.xexp w) s = .next (transforms s 0xA4 48 16 r)
    Room src 32 → Room dst 4096 → s.core.srfBad src 32 = false →
    (srfBytes s.core src 8 = leBytes 8 0 → gives ⟨some (atAddr dst (List.replicate 4096 0)), 0⟩) ∧
    (srfBytes s.core src 32 = leBytes 8 1 ++ leBytes 8 0x81 ++ leBytes 8 x.toNat ++ leBytes 8 y.toNat →
      gives ⟨some (atAddr dst (leBytes 8 x.toNat ++ List.replicate 48 0 ++ leBytes 8 y.toNat ++ List.replicate 4032 0)), 0⟩) ∧
    (srfBytes s.core src 16 = leBytes 8 1 ++ leBytes 8 0 → gives ⟨none, 0⟩)

/-- R233, R237, R250: `xmov` copies a sound record, and `xtrn` writes the transpose of the valid elements; the offsets
are multiples of 64 and lie in the SRF. -/
def Obligations.MovesAndTransposesKeepTheElements : Prop :=
  ∀ (w : RForm) (s : State) (h : Header) (f : TileFmt), InSlot s w.guard →
    let src := (readR s w.b).toNat
    let dst := (readR s w.a).toNat
    let n := footprint h.code
    let c := s.core
    src % 64 = 0 → dst % 64 = 0 → src + n ≤ 0x300000 → dst + n ≤ 0x300000 →
    headerCheck s (srfBytes c src 64) = .ok h → tileFmt h.code = some f → fmtKF h.code = false →
    h.domain = false → c.srfBad src n = false →
    exec (.xmov w) s = .next (transforms s 0xA6 12 4 ⟨some (atAddr dst (srfBytes c src n)), 0⟩) ∧
    (h.code ∈ [1, 2, 3, 4, 5, 6, 7, 8, 9, 0x20, 0x21, 0x22, 0x23] → ∃ b : List Byte,
      exec (.xtrn w) s = .next (transforms s 0xA2 16 4 ⟨some (atAddr dst b), 0⟩) ∧ b.length = n ∧
      b.take 64 = headerBytes ({ h with rows := h.cols, cols := h.rows } : Header).toWord ∧
      ∀ i j, i < 32 → j < 32 →
        rowElem f.w (leNat ((b.drop (64 + i * f.rowBytes)).take f.rowBytes)) j =
          if j < h.rows ∧ i < h.cols then rowElem f.w (leNat (srfBytes c (src + 64 + j * f.rowBytes) f.rowBytes)) i else 0)

/-- R224, R226-R237: the X words: their checks, and what each of them writes. -/
def Obligations.TransformWordsEnterTheirUnit : Prop :=
  Claims.TransformChecksFaultTheSlot ∧ Claims.TransformsComputeTheirSpectra ∧ Claims.ConversionStageWordsWriteRecords ∧ Claims.TurnAndBackMoveRowsOfPairs ∧ Claims.ExpandDecodesItsRun

/-- R167, R169-R171, R198-R200, R206-R210: a pass starts, or faults for an empty latch; what its steps leave. -/
def Obligations.PassesStartAndAccumulate : Prop :=
  Claims.PassesStartWithTheirOperands ∧ Claims.EmptyLatchesFaultThePass ∧ Claims.StepsAccumulateExactly ∧ Claims.PassesApplyTheirSteps

/-- R167, R168, R172, R212-R219: the words on accumulators, and the reports of tiles and latches. -/
def Obligations.AccumulatorAndStatusWords : Prop :=
  Claims.AccumulatorWordsActOnTiles ∧ Claims.StatusWordsReportTilesAndLatches

/-! ## Stream words (R345-R361, R372-R390) -/

namespace Sys2Proof.Claims

/-- The entry stands last in the queue, and the token it names counts one producer more (R346, R355). -/
def joined (s : State) (w : SForm) (e : QEntry) : State :=
  let u := s.core.st
  s.withSt { u with
    queue := u.queue ++ [e], seq := u.seq + 1
    tok := if w.te = 1 then u.tok.set w.tk.toFin (tokArm (u.tok.get w.tk.toFin)) else u.tok }

/-- A word traps for the check that fails; else it joins the queue, adding 1 to INFLIGHT of the object that an engine
instruction names, or it waits for a place in a full queue, for a full INFLIGHT, for the object's host-managed page,
or for the response of another package; an object that cannot be reached, or does not respond in time, makes the
instruction an engine fault (R263, R345, R346, R356, R357, R443). -/
def Joins (i : Instr) (opc : BitVec 8) (w : SForm) (s : State) (check : SCheck (List Extent)) : Prop :=
  (∀ t, check = .error t → exec i s = .next (stopWord s opc (.trap t s))) ∧
    ∀ decls, check = .ok decls →
      let e := entryFor s opc w decls
      let more (w0 w1 : Word) : Option (Word × Word) :=
        if fld w1 16 16 = 0xFFFF then none else some (w0, setFld w1 16 16 (fld w1 16 16 + 1))
      (32 ≤ s.core.st.queue.length → exec i s = .next (stayHere s false true opc none)) ∧
        (s.core.st.queue.length < 32 → w.gx = 0 ∨ opc = 0xDF → exec i s = .next (cpDone (joined s w e) s.core.cp)) ∧
        (s.core.st.queue.length < 32 → w.gx ≠ 0 → opc ≠ 0xDF →
          let a := s.core.cp.readG w.gx
          let who := { engAccess s e with refused := PageWait.refusal s.core.cp.asid s.core.st.objPage }
          let arrives (s' : State) : State := s'.withSt { s'.core.st with objPage := none }
          let lost (s' : State) (c : Cause) : Prop := exec i s = .next (cpDone (joined (arrives s') w
            { e with bar := none, bad := some { cause := c, addr := a } }) s'.core.cp)
          let z := s.withCp { s.core.cp with remote := none }
          let away : Prop := objRemote s (cpAccess s) (objRequest s a 3 0) = true
          ((∃ p, s.core.st.objPage = some p ∧ p.refused = false ∧ p.asid = s.core.cp.asid ∧ p.page = fld a 0 56 / 4096) →
            exec i s = .next (stayHere s false true opc none)) ∧
          ((∀ p, s.core.st.objPage = some p →
              p.refused = true ∨ p.asid ≠ s.core.cp.asid ∨ p.page ≠ fld a 0 56 / 4096) →
            (∀ r, s.core.cp.remote = some r → r.status ≠ .inFlight → lost z .remoteTimeout) ∧
            (s.core.cp.remote = none → away → exec i s = .next (stayHere
              (s.withCp { s.core.cp with remote := some (objRequest s a 3 0) }) true false opc none)) ∧
            ((s.core.cp.remote = none ∧ ¬ away) ∨ (∃ r, s.core.cp.remote = some r ∧ r.status = .inFlight) →
              (∀ l s', objUpdateAt z who a more = .ok ((l, true), s') →
                exec i s = .next (cpDone (joined (arrives s') w e) s'.core.cp)) ∧
              (∀ l s', objUpdateAt z who a more = .ok ((l, false), s') →
                exec i s = .next (stopWord s opc (.wait (arrives s')))) ∧
              ∀ t s', objUpdateAt z who a more = .error (.trap t s') → t.cause ≠ .hostPage → lost s' t.cause)))

end Sys2Proof.Claims

/-- R345, R346, R375: each enqueued word joins the queue when its checks pass, with the operand values and descriptors
it has captured. That an unreachable object is the instruction's fault at issue, that `snop` is not counted in
INFLIGHT, and that the word waits for a host-managed page of its object, is deduced (log entry 24). Beside that, the
plain forms are written out: `sload` and `sstore` of a whole buffer with XF = 0, `sfill`, `krun` without declarations,
and KERNEL_ENTRY. -/
def Obligations.StreamWordsJoinTheQueue : Prop :=
  ∀ (w : SForm) (s : State), OnCp s w.guard →
    let join (i : Instr) (opc : BitVec 8) (check : State → SForm → SCheck (List Extent)) : Prop :=
      Joins i opc w s (check s w)
    let g (r : BitVec 5) : Word := s.core.cp.readG r
    let plain : Prop := w.te = 0 ∧ w.gx = 0 ∧ w.gg = 0 ∧ s.core.st.queue.length < 32
    let queued (i : Instr) (opc : BitVec 8) (decls : List Extent) : Prop :=
      exec i s = .next (cpDone (joined s w (entryFor s opc w decls)) s.core.cp)
    let buffer (d : Desc) (write : Bool) : Extent := ⟨fld d.w0 0 22, fld d.w0 0 22 + fld d.w0 24 22, write⟩
    let sd := descOf s w.sd
    let se := descOf s w.se
    let far (a : Word) : Prop := fld a 56 8 = 0 ∧ a.toNat % 64 = 0
    join (.sload w) 0xD0 sloadCheck ∧ join (.sstore w) 0xD1 sstoreCheck ∧ join (.stileRd w) 0xD2 (stileCheck false) ∧
      join (.stileWr w) 0xD2 (stileCheck true) ∧ join (.scopy w) 0xD3 (scopyCheck false) ∧
      join (.scopyR w) 0xD3 (scopyCheck true) ∧ join (.scopyM w) 0xD3 scopyMCheck ∧
      join (.sfill w) 0xD4 (sfillCheck false) ∧ join (.sfillR w) 0xD4 (sfillCheck true) ∧ join (.sfillM w) 0xD4 sfillMCheck ∧
      join (.sgather w) 0xD5 sgatherCheck ∧ join (.sscadd w) 0xD6 sscaddCheck ∧ join (.srecv w) 0xD7 srecvCheck ∧
      join (.krun w) 0xD8 krunCheck ∧ join (.snop w) 0xDF snopCheck ∧
      (plain → w.fn = 0 → g w.gc = 0 → g w.gb = 0 → far (g w.ga) →
        (descCause s sd = none → queued (.sload w) 0xD0 [buffer sd true]) ∧
          (descCause s se = none → queued (.sstore w) 0xD1 [buffer se false])) ∧
      (plain → descCause s sd = none → queued (.sfill w) 0xD4 [buffer sd true]) ∧
      (plain → w.fn = 0 → g w.gd = 0 → (g w.gc).toNat < 2 ^ 32 →
        ((g w.ga).toNat < 1024 → (g w.gb).toNat ≤ 1024 → queued (.krun w) 0xD8 []) ∧
          (1024 ≤ (g w.ga).toNat ∨ 1024 < (g w.gb).toNat →
            exec (.krun w) s = .next (stopWord s 0xD8 (.trap { cause := .kernelEntry } s)))) ∧
      (plain → (g w.gb).toNat < 2 ^ 32 → queued (.snop w) 0xDF [])

/-- R355, R386, R492, R387, R390: a wait on a token goes on when its producers are done, waits while one is not, and
traps for an idle token and, once, for a faulted one; waits for all report the oldest unreported fault. `kresume`
re-enters a stopped kernel and `kresume.abort` discards it; the descriptor moves read, write and resolve descriptors.
-/
def Sys2Proof.Claims.StreamWaitsAndDescriptorMoves : Prop :=
  ∀ (w : SForm) (s : State), OnCp s w.guard →
    let c := s.core.cp
    let u := s.core.st
    let k := s.core.kern
    let d : Desc := u.sd.get w.sd.toFin
    let e : Desc := u.sd.get w.se.toFin
    let t : Word := u.tok.get w.tk.toFin
    let state := fld t 0 2
    let ends (i : Instr) (t : State) : Prop := exec i s = .next (cpDone t t.core.cp)
    let gives (i : Instr) (v : Word) : Prop := exec i s = .next (cpDone s (c.writeG w.gd v))
    let waits (i : Instr) (opc : BitVec 8) : Prop := exec i s = .next (stayHere s false true opc none)
    let traps (i : Instr) (opc : BitVec 8) (s' : State) (x : Trap) : Prop := exec i s = .next (takeSync s' x opc c.pc)
    let onTok (i : Instr) (opc : BitVec 8) (done : Prop) : Prop :=
      (state = 2 → done) ∧ (state = 1 → waits i opc) ∧
        (state = 0 → traps i opc s { cause := .tokenUnarmed, detail := w.tk.setWidth 32 }) ∧
        (state = 3 → fld t 2 6 ≠ 0 → waits i opc) ∧
        (state = 3 → fld t 2 6 = 0 → traps i opc
          (s.withSt { u with
            tok := u.tok.set w.tk.toFin 0, tokRec := u.tokRec.set w.tk.toFin 0
            unreported := u.unreported.filter fun x => x.tok != some w.tk })
          { cause := .engineFault, addr := w.tk.setWidth 64
            detail := BitVec.ofNat 32 (fld t 16 7 + (u.tokRec.get w.tk.toFin).toNat * 2 ^ 16) })
    let oldest (p : Unreported → Bool) (x : Unreported) : Prop :=
      x ∈ u.unreported ∧ p x = true ∧ ∀ y ∈ u.unreported, p y = true → x.seq ≤ y.seq
    let reports (i : Instr) (opc : BitVec 8) (p : Unreported → Bool) (lost : Option Cause) : Prop :=
      (∃ y ∈ u.unreported, p y = true) → ∃ x, oldest p x ∧
        traps i opc (s.withSt { u with unreported := u.unreported.filter fun y => !p y, overflow := lost })
          { cause := .engineFault, detail := BitVec.ofNat 32 (x.cause.code.toNat + x.record.toNat * 2 ^ 16) }
    let aKrun : Prop := ∃ x ∈ u.queue ++ u.flight, x.opc = 0xD8
    let none' (p : Unreported → Bool) : Prop := ∀ y ∈ u.unreported, p y = false
    let again (o : Option LogEntry) : Option LogEntry := o.map fun x =>
      match x.status with
      | .data _ => x
      | _ => { x with status := .inFlight, since := s.clock, walked := none }
    let recSize := fld e.w1 0 16
    let step := (c.readG w.gb).toNat * fld e.w1 16 22
    let len := fld e.w0 24 22
    let at' (o : Nat) : Prop := gives (.sdrec w) (BitVec.ofNat 64 (0xFF * 2 ^ 56 + fld e.w0 0 22 + o))
    gives (.swaitTest w) t ∧ onTok (.swait w) 0xDB (gives (.swait w) t) ∧
      (w.te = 1 → onTok (.kwait w) 0xD9 (ends (.kwait w) s)) ∧
      (w.te = 0 → (aKrun → waits (.kwait w) 0xD9) ∧
        (¬ aKrun → reports (.kwait w) 0xD9 (·.krun) u.overflow ∧ (none' (·.krun) → ends (.kwait w) s))) ∧
      (u.queue ++ u.flight ≠ [] → waits (.swaitAll w) 0xDB) ∧
      (u.queue = [] → u.flight = [] → reports (.swaitAll w) 0xDB (fun _ => true) none ∧
        (u.unreported = [] → u.overflow = none → ends (.swaitAll w) s)) ∧
      (c.mode = true →
        (fld k.kstat 0 2 ≠ 2 → ends (.kresume w) s ∧ ends (.kresumeAbort w) s) ∧
        (fld k.kstat 0 2 = 2 → ends (.kresume w) (s.withKern { k with
          kstat := setFld (setFld k.kstat 0 2 1) 10 3 0, resume := fld k.kstat 10 3, nextPc := fld k.kpc 0 11, fault := none
          preStop := s.core.ctx.pend && s.core.ctx.expired
          landing := k.landing.map again, wqueue := k.wqueue.map again })) ∧
        (fld k.kstat 0 2 = 2 →
          let t := abortKernel s
          ends (.kresumeAbort w) t ∧ fld t.core.kern.kstat 0 2 = 0 ∧
            t.core.kern.kpc = BitVec.ofNat 64 (fld k.kstat 16 11) ∧ t.core.kern.krun = none)) ∧
      gives (.sdgetW0 w) e.w0 ∧ gives (.sdgetW1 w) e.w1 ∧
      ends (.sdputW0 w) (s.withSt { u with sd := u.sd.set w.sd.toFin ⟨c.readG w.ga, d.w1⟩ }) ∧
      ends (.sdputW1 w) (s.withSt { u with sd := u.sd.set w.sd.toFin ⟨d.w0, c.readG w.ga⟩ }) ∧
      (descCause s e = none →
        (bit e.w1 45 = true → at' (step % len)) ∧ (bit e.w1 45 = false → step + recSize ≤ len → at' step) ∧
        (bit e.w1 45 = false → len < step + recSize →
          traps (.sdrec w) 0xDE s { cause := .streamDescriptor, detail := w.se.setWidth 32 }))

/-- R356-R358, R389: arming sets EXPECTED, clears ARRIVED and ERR and sets ARMED; an arrival counts n bytes and flips
the phase when EXPECTED is reached, setting ERR beyond it; a wait goes on when the phase differs, traps when ERR is
set or when nothing can flip the phase, and else waits. An object of another package is asked for it, and its response
awaited (R443). -/
def Sys2Proof.Claims.BarrierObjectsCountArrivals : Prop :=
  ∀ (w : SForm) (s s' : State) (l : Loc) (w0 w1 : Word), OnCp s w.guard →
    let a := s.core.cp.readG w.ga
    let v := (s.core.cp.readG w.gb).toNat
    let exp := fld w0 0 32
    let arr := fld w0 32 32
    let loads (opc : BitVec 8) : Prop :=
      frontTrap a 16 16 (fun _ => true) (writesMem opc) = none ∧
        objLoad s (cpAccess s) (engEntry s opc a 16 []) = .ok ((l, w0, w1), s') ∧ s.core.cp.remote = none ∧
        objRemote s (cpAccess s) (engEntry s opc a 16 []) = false
    let asks (i : Instr) (req : LogEntry) (hold : Bool) (addr : Option Word) : Prop :=
      s.core.cp.remote = none → frontTrap a 16 16 (fun _ => true) (writesMem req.opc) = none →
        objRemote s (cpAccess s) req = true → exec i s =
          .next (stayHere (s.withCp { s.core.cp with remote := some req }) hold false 0xDC addr)
    let leaves (i : Instr) (x : State) (v0 v1 : Word) : Prop :=
      exec i s = .next (cpDone (objStore x l v0 v1) (objStore x l v0 v1).core.cp)
    let bad (i : Instr) : Prop := exec i s = .next (stopWord s 0xDC (.trap { cause := .badMode } s))
    (v ≠ 0 → v < 2 ^ 32 → asks (.barvArm w) (objRequest s a 1 (s.core.cp.readG w.gb)) true none) ∧
      (v < 2 ^ 32 → asks (.barvArrive w) (objRequest s a 2 (s.core.cp.readG w.gb)) true none) ∧
      (v < 2 → asks (.barvWait w) (engEntry s objRead a 16 []) false (some a)) ∧
    (v = 0 ∨ 2 ^ 32 ≤ v → bad (.barvArm w)) ∧ (2 ^ 32 ≤ v → bad (.barvArrive w)) ∧ (2 ≤ v → bad (.barvWait w)) ∧
      (loads 0xDC → v ≠ 0 → v < 2 ^ 32 →
        exec (.barvArm w) s = .next (
          let t := objStore s' l (BitVec.ofNat 64 v) (setBit (setBit w1 2 false) 1 true)
          let t := { t with objErr := t.objErr.filter fun x => (x.kind, x.owner, x.off) != objPlace l }
          cpDone t t.core.cp)) ∧
      (loads 0xDC → v < 2 ^ 32 →
        (v = 0 → leaves (.barvArrive w) s' w0 w1) ∧
        (v ≠ 0 → arr + v < exp → leaves (.barvArrive w) s' (setFld w0 32 32 (arr + v)) w1) ∧
        (v ≠ 0 → arr + v = exp → leaves (.barvArrive w) s' (setFld w0 32 32 0) (setBit w1 0 (!bit w1 0))) ∧
        (v ≠ 0 → exp < arr + v → leaves (.barvArrive w) s' w0 (setBit w1 2 true))) ∧
      (loads objRead → v < 2 → (∀ x, s'.core.cp.wait = some x → x.begun = false) →
        let flipped : Prop := (bit w1 0).toNat ≠ v
        (bit w1 2 = true → ∀ x, s'.objErr.find? (fun y => (y.kind, y.owner, y.off) == objPlace l) = some x →
          exec (.barvWait w) s = .next (takeSync { s' with fresh := s'.fresh + 1 }
            { cause := .engineFault, addr := a
              detail := BitVec.ofNat 32 (x.cause.code.toNat + x.record.toNat * 2 ^ 16) } 0xDC s'.core.cp.pc)) ∧
        (bit w1 2 = false → flipped → exec (.barvWait w) s = .next (cpDone s' s'.core.cp)) ∧
        (bit w1 2 = false → ¬ flipped → bit w1 1 = false → fld w1 16 16 = 0 →
          exec (.barvWait w) s = .next (takeSync s' { cause := .barrierUnarmed, addr := a } 0xDC s'.core.cp.pc)) ∧
        (bit w1 2 = false → ¬ flipped → bit w1 1 = true ∨ fld w1 16 16 ≠ 0 →
          exec (.barvWait w) s = .next (stayHere s' false true 0xDC none))) ∧
      (loads objRead → v < 2 → (∃ x, s'.core.cp.wait = some x ∧ x.begun = true) → (bit w1 0).toNat ≠ v →
        exec (.barvWait w) s = .next (cpDone s' s'.core.cp))

/-- R355-R358, R386-R390, R492: waits of the stream unit, descriptor moves, and barrier objects from the CP. -/
def Obligations.StreamWaitsAndBarrierObjects : Prop :=
  Claims.StreamWaitsAndDescriptorMoves ∧ Claims.BarrierObjectsCountArrivals

/-! ## The kernel engine over time (R36, R115-R134, R210, R229, R311, R402-R412, R421) -/

namespace Sys2Proof.Claims

/-- The event of core `n` leaves the machine as `t`, in which that core stands in focus. -/
def Leaves (i : Instr) (s : State) (t : State) : Prop := exec i s = .next (t.focusOn s.focus)

/-- What a stop leaves: no further bundle issues until the fault is reported (R405). -/
def stopped (x : State) (f : KStop) : State := x.withKern { x.core.kern with stop := some f, issuing := none }

/-- The cause first of those that stand highest among the pending ones (R402). -/
def Foremost (a : Async) (l : List Async) : Prop :=
  ∃ pre post, l = pre ++ a :: post ∧ (∀ b ∈ pre, a.priority < b.priority) ∧ ∀ b ∈ post, a.priority ≤ b.priority

/-- The CP that acts in this step, time having passed: that of the core in focus with nothing scheduled, or the one
whose turn comes next (R7, R17). -/
def CpActs (s x : State) : Prop :=
  (s.agenda = [] ∧ x = tick s) ∨ ∃ n rest, s.agenda = .cp n :: rest ∧ x = (tick { s with agenda := rest }).focusOn n

/-- The kernel engine whose turn comes next (R7). -/
def KernelActs (s x : State) : Prop :=
  ∃ n rest, s.agenda = .kernel n :: rest ∧ x = (tick { s with agenda := rest }).focusOn n

/-- An access may or may not have been performed: `y` is one of the two states (R7, R400, R443). -/
def Perhaps (x : State) (who : Access) (e : LogEntry) (y : State) : Prop :=
  let x1 := { x with fresh := x.fresh + 1 }
  y = x1 ∨ ∃ b, perform x1 who e = .ok (b, y)

end Sys2Proof.Claims

/-- R36, R402, R404: at a word boundary with IE = 1 the pending cause that stands highest is taken: the trap's own
registers are written, with ASYNC set, and it is pending no more; `idle` completes first (R104). A kernel fault has
ORIGIN 1 and the kernel's own record. The CP's turn takes it in place of a fetch. -/
def Sys2Proof.Claims.PendingCausesAreTaken : Prop :=
  ∀ (n : Nat) (s : State) (a : Async),
    let x := s.focusOn n
    let c := x.core.cp
    c.run = .running → bit c.cstat 1 = true → c.work = .idle → (∀ w, c.wait = some w → w.hold = false ∧ w.opc ≠ 0xE6) →
    Foremost a c.pending →
    let rest := c.pending.filter fun b => !(b.cause == a.cause && b.kernel == a.kernel)
    let takes (origin : Nat) (addr : Word) (detail : BitVec 32) (opc : BitVec 8) : Prop :=
      let y := x.withCp { trapped c a.cause origin c.pc addr detail opc with
        ccause := BitVec.ofNat 64 (a.cause.code.toNat + 2 ^ 7), pending := rest }
      Leaves (.takeTrap n) s y ∧ ∀ before, slotFirst before = none → CpActs before x → step before = .next y
    let k := x.core.kern
    (a.kernel = false → takes 3 0 a.detail 0) ∧
      (∀ f, a.kernel = true → k.fault = some f →
        takes (1 + fld k.kinfo 0 3 * 4 + f.write.toNat * 32) f.addr (k.kinfo.extractLsb' 32 32) f.opc)

/-- R116-R125, R133: a kernel starts when a `krun` stands first, none runs and no stop is asked for; a bundle issues
when its header and words pass their checks, its units are free and the entries that it needs are; idle cycles pass
with nothing else changed. -/
def Sys2Proof.Claims.KernelsStartAndIssueBundles : Prop :=
  ∀ (n : Nat) (s : State),
    let x := s.focusOn n
    let k := x.core.kern
    let live : Prop := x.core.cp.run = .running
    (∃ t, passIdle x = x.withKern { k with ktime := t } ∧ (kernelNext x ≠ .cycle → t = k.ktime) ∧
      (kernelNext x = .cycle → k.ending = false → t ≤ k.nextIssue ∧ ∀ e ∈ k.timed, t ≤ e.due)) ∧
    (∀ e pre post, live → x.core.ctx.pend = false → fld k.kstat 0 2 = 0 →
      x.core.st.flight = pre ++ e :: post → e.opc = 0xD8 → e.stage = .running →
      (∀ y ∈ pre, y.opc = 0xD8 → ∃ f m, y.stage = .completing f m) →
      ∃ t, Leaves (.kernelStart n) s (x.withKern t) ∧
        t = { k with
          kstat := t.kstat, kpc := BitVec.ofNat 64 (fld e.a 0 11), nextPc := fld e.a 0 11, ktime := 0, nextIssue := 0
          resume := 0, busy := Vector.replicate 4 0, krun := some e.seq } ∧
        fld t.kstat 0 2 = 1 ∧ fld t.kstat 13 2 = 0 ∧ fld t.kstat 16 11 = fld e.b 0 11 ∧
        ∀ i, i < 64 → i ∉ [0, 1, 13, 14] → i < 16 ∨ 27 ≤ i → bit t.kstat i = bit k.kstat i) ∧
    (∀ l, kernelNext (passIdle x) = .issue → k.nextPc < 1024 →
      let y := passIdle x
      let now := y.core.kern.ktime
      let pc := k.nextPc
      let h := (lookupNum (8 * pc) k.store).getD 0
      let first := if 1 < k.resume then k.resume else 1
      fld h 8 3 ≤ 5 → fld h 11 21 = 0 → bundleWords y pc (h.extractLsb' 32 32) first = .ok l → l ≠ [] →
      (first = 1 → slotConflict l = false ∧ (fld k.kstat 13 2 ≠ 0 → l.any isBranch = false) ∧ bit k.kstat 2 = false) →
      (∀ w ∈ l, ∀ u, unitOf (opcOf w.word) = some u → k.busy.get u ≤ now) →
      l.countP (needsLanding y) ≤ freeEntries k.landing → l.countP (needsQueue y) ≤ freeEntries k.wqueue →
      ∃ d c v, Leaves (.kernelBundleIssue n) s (x.withKern { k with
        ktime := now, kpc := BitVec.ofNat 64 pc, resume := 0
        issuing := some
          { limm := h.extractLsb' 32 32, scope := h.extractLsb' 8 3, stall := fld h 0 8, hold := c
            words := l.map fun w => (BitVec.ofNat 3 w.pos, w.word), delay := d, software := v, again := false } }) ∧
        (first = 1 → d = BitVec.ofNat 2 (fld k.kstat 13 2) ∧ c = 0 ∧ v = none))

/-- R72, R73, R95, R120-R125, R405: a bundle that fails a check does not issue: the kernel stops with the cause in
slot 0, or in the slot of the first word that fails. Which checks a split bundle repeats is the model's choice (log
entry 20). -/
def Sys2Proof.Claims.BundlesFaultBeforeTheyIssue : Prop :=
  ∀ (n : Nat) (s : State),
    let x := passIdle (s.focusOn n)
    let k := x.core.kern
    let pc := k.nextPc
    let h := (lookupNum (8 * pc) k.store).getD 0
    let first := if 1 < k.resume then k.resume else 1
    let words := bundleWords x pc (h.extractLsb' 32 32) first
    let good : Prop := fld h 8 3 ≤ 5 ∧ fld h 11 21 = 0
    let faults (at' slot : Nat) (opc : BitVec 8) (t : Trap) : Prop := Leaves (.kernelBundleIssue n) s (stopped x
      { trap := t, slot := BitVec.ofNat 3 slot, opc := opc, late := none, kpc := at', resume := first })
    kernelNext x = .issue →
      (1024 ≤ pc → faults 1024 0 0 { cause := .kstoreRange, detail := BitVec.ofNat 32 pc }) ∧
      (pc < 1024 → ¬ good → faults pc 0 0 { cause := .badHeader }) ∧
      (∀ i w t, pc < 1024 → good → words = .error (i, w, t) → faults pc i (w.extractLsb' 56 8) t) ∧
      (∀ l, pc < 1024 → good → words = .ok l → first = 1 →
        (slotConflict l = true → faults pc 0 0 { cause := .slotConflict }) ∧
        (slotConflict l = false → fld k.kstat 13 2 ≠ 0 → l.any isBranch = true → faults pc 0 0 { cause := .delayBranch }) ∧
        (slotConflict l = false → (fld k.kstat 13 2 = 0 ∨ l.any isBranch = false) →
          l.countP (needsLanding x) ≤ freeEntries k.landing → bit k.kstat 2 = true → accepted x 3 = true →
          stallShort k k.ktime l = true → faults pc 0 0 { cause := .stallShort }))

/-- R119, R127-R129, R210, R229, R318: a fixed-latency write, a landing, a pass and a transform take effect at their
cycle of kernel time; the data of a landing entry arrives and a write-queue entry frees when its access is performed.
The order of what falls into one cycle is the model's (log entry 25). -/
def Obligations.TimedResultsTakeEffect : Prop :=
  ∀ (n : Nat) (s : State),
    let x := passIdle (s.focusOn n)
    let k := x.core.kern
    let forget (y : State) : State :=
      y.withKern { y.core.kern with undo := y.core.kern.undo.filter y.core.kern.wants }
    let raises (f : Vector Word 16) (r : Vector (BitVec 7) 16) : Vector Word 16 :=
      Vector.ofFn fun l => f.get l ||| (r.get l).setWidth 64
    (∀ w, kernelNext x = .event (.write w) →
      let k' := { k with pend := k.pend.filter fun y => y.seq != w.seq }
      Leaves (.fixedLatencyWrite n) s { x with core := applyWrite { x.core with kern := k' } w.due w.seq w.what } ∧
        (∀ r v, w.what = .k r v → r ≠ 0 →
          Leaves (.fixedLatencyWrite n) s (x.withKern { k' with k := k.k.set r.toFin v })) ∧
        (∀ r v, w.what = .v r v → Leaves (.fixedLatencyWrite n) s (x.withKern { k' with v := k.v.set r.toFin v }))) ∧
    (∀ i e b, kernelNext x = .event (.land i e) → e.status = .data b →
      let c := { x.core with kern := { k with landing := k.landing.set i none } }
      Leaves (.landing n) s { x with core := (landWrites e b).foldl (fun c w => applyWrite c e.due e.seq w) c } ∧
        (∀ r, e.dest = some (.k r) → r ≠ 0 →
          Leaves (.landing n) s (x.withKern { c.kern with k := k.k.set r.toFin (loadValue e b) }))) ∧
    (∀ p, kernelNext x = .event (.pass p) →
      let k' := { k with passes := k.passes.filter fun q => q.seq != p.seq }
      (∀ a f, passResult p = (some (a, f), none) →
        Leaves (.tmmaPassComplete n) s (x.withKern { k' with
          acc := k.acc.set p.d.toFin a, lflags := raises k.lflags f
          passes := k'.passes.map fun q => if q.d == p.d then { q with acc := q.acc ++ [(p.issue + 40, a)] } else q })) ∧
      (∀ t, passResult p = (none, some t) →
        Leaves (.tmmaPassComplete n) s (x.withKern { k' with held := k.held ++ [⟨t, 4, 0x80⟩] }))) ∧
    (∀ f, kernelNext x = .event (.xform f) →
      let k' := { k with xforms := k.xforms.filter fun y => y.seq != f.seq }
      (∀ b, f.bytes = some b → f.raised &&& f.enables = 0 →
        Leaves (.transformComplete n) s (
          let c := Core.kernSrf { x.core with kern := k' } f.seq ⟨f.opc, 0, 0, 0⟩ b
          { x with core := { c with kern := { c.kern with
            lflags := raises k.lflags (Vector.ofFn fun l => if l.val = 0 then f.raised else 0) } } })) ∧
      (f.bytes = none → Leaves (.transformComplete n) s (x.withKern { k' with
        held := k.held ++ [⟨{ cause := .decompress, detail := f.bundle.setWidth 32 }, 7, f.opc⟩] }))) ∧
    (∀ (i : Fin 32) e b y z,
      let before := s.focusOn n
      let kz := before.core.kern
      e.status = .inFlight → walkOlder before e.seq = some z → mayPerform z e = true → ownLoad z e = none →
      (e.opc = 0xB9 → e.ord = 0 → e.fence = 0 → False) →
      (perform z (kernAccess z) e = .ok (b, y) →
        (kz.landing.get i = some e → Leaves (.landingDataArrival n i.val false) s (forget
          (y.withKern { y.core.kern with landing := y.core.kern.landing.set i (some { e with status := .data b }) }))) ∧
        (kz.wqueue.get i = some e → Leaves (.writeQueueAck n i.val false) s (forget
          (y.withKern { y.core.kern with wqueue := y.core.kern.wqueue.set i none })))) ∧
      (kz.landing.get i = some e → perform { z with fresh := z.fresh + 1 } (kernAccess z) e = .ok (b, y) →
        ∃ v, Perhaps z (kernAccess z) e v ∧
          Leaves (.landingDataArrival n i.val true) s (forget (v.withKern { v.core.kern with
            landing := v.core.kern.landing.set i (some { e with status := .failed (etrap .landingLost e) }) }))))

/-- R126, R404-R406, R411: a late failure and a held fault stop the kernel, and every stop is reported, once nothing
of what completes before it is left, in KPC, KCAUSE, KINFO and KSTAT with the cause pending on the CP; a kernel at its
end leaves STATE 0 and completes its `krun`. The order of what falls into one cycle is the model's (log entry 25). -/
def Sys2Proof.Claims.KernelsStopAndEnd : Prop :=
  ∀ (n : Nat) (s : State),
    let x := passIdle (s.focusOn n)
    let k := x.core.kern
    let u := x.core.st
    (∀ l, kernelNext x = .late l → Leaves (.lateFault n) s (stopped x
      { trap := { l.trap with detail := if l.queue then l.trap.detail ||| 0x80000000 else l.trap.detail }
        slot := l.entry.slot, opc := l.entry.opc, late := some (BitVec.ofNat 5 l.num), kpc := k.nextPc
        resume := if 1 < k.resume then k.resume else 1 })) ∧
    (∀ h l before, kernelNext x = .held h → k.held = h :: l → k.issuing = none → kernelNext (s.focusOn n) = .held h →
      slotFirst before = none → KernelActs before (s.focusOn n) →
      step before = .next (stopped (x.withKern { k with held := l })
        { trap := h.trap, slot := h.slot, opc := h.opc, late := none, kpc := k.nextPc
          resume := if 1 < k.resume then k.resume else 1 })) ∧
    (∀ f, kernelNext (s.focusOn n) = .report f → k.issuing = none →
      (∀ a ∈ x.core.cp.pending, a.cause ≠ f.trap.cause ∨ a.kernel = false) →
      ∃ t, (f.late.isSome = true → Leaves (.lateFault n) s t) ∧
        (∀ before, slotFirst before = none → KernelActs before (s.focusOn n) → step before = .next t) ∧
        t = { x with core := { x.core with
          kern := { k with
            kstat := t.core.kern.kstat, kpc := BitVec.ofNat 64 f.kpc
            kcause := BitVec.ofNat 64 f.trap.cause.code.toNat, kinfo := t.core.kern.kinfo
            fault := some { opc := f.opc, addr := f.trap.addr, write := f.trap.write }, stop := none, resume := 0
            shown := k.showable }
          cp := { x.core.cp with pending := x.core.cp.pending ++
            [{ cause := f.trap.cause, detail := f.trap.detail, kernel := true, since := x.clock }] } } } ∧
        fld t.core.kern.kstat 0 2 = 2 ∧ fld t.core.kern.kstat 10 3 = f.resume % 8 ∧
        fld t.core.kern.kinfo 0 3 = f.slot.toNat ∧ fld t.core.kern.kinfo 4 4 = f.trap.lane.toNat ∧
        fld t.core.kern.kinfo 8 1 = f.late.isSome.toNat ∧ fld t.core.kern.kinfo 9 5 = (f.late.getD 0).toNat ∧
        fld t.core.kern.kinfo 16 16 = f.trap.lmask.toNat ∧ fld t.core.kern.kinfo 32 32 = f.trap.detail.toNat) ∧
    (∀ q e, kernelNext x = .finish → k.krun = some q → u.flight.find? (·.seq == q) = some e → e.bar = none →
      ∃ t, Leaves (.kernelEnd n) s { x with core := { x.core with
          kern := { k with kstat := t, kpc := BitVec.ofNat 64 (fld k.kstat 16 11), krun := none, undo := [] }
          st := { u with
            queue := u.queue.filter (·.seq != q), flight := u.flight.filter (·.seq != q)
            tok := match e.tok with
              | some i => u.tok.set i.toFin (tokDone (u.tok.get i.toFin) none e.flags)
              | none => u.tok
            owed := u.owed.filter (·.owner.seq != q) } } } ∧
        fld t 0 2 = 0 ∧ ∀ i, 2 ≤ i → bit t i = bit k.kstat i)

/-- R311, R402, R421: a wait that has lasted longer than 2^WDLOG cycles traps WAIT_WATCHDOG, that of an `ldge`
THRESHOLD_TIMEOUT; in a kernel the barrier wait stops the kernel and the landing entry fails; a group abort not taken
in time stops the core. Before, nothing happens. -/
def Sys2Proof.Claims.WatchdogsEndLongWaits : Prop :=
  ∀ (n : Nat) (s : State),
    let x := s.focusOn n
    let c := x.core.cp
    let k := x.core.kern
    let late (since : Nat) : Prop := 2 ^ fld c.cstat 16 5 < x.clock - since
    (∀ w, c.wait = some w → c.run = .running → c.inTrap = false →
      (w.hold = false → w.opc ∉ [0xBC, 0xE5, 0xE6, 0xE8] →
        (late w.since → Leaves (.waitWatchdogExpiry n false) s (x.withCp (trapped c .waitWatchdog 0 w.pc 0 0 w.opc))) ∧
        (¬ late w.since → Leaves (.waitWatchdogExpiry n false) s x)) ∧
      (w.opc = 0xBC →
        (late w.since →
          Leaves (.thresholdTimeoutExpiry n none) s (x.withCp (trapped c .thresholdTimeout 0 w.pc w.addr 0 w.opc))) ∧
        (¬ late w.since → Leaves (.thresholdTimeoutExpiry n none) s x))) ∧
    (∀ die ch since q, k.freeze = .barrier die ch since q → k.issuing = none → k.stop = none → fld k.kstat 0 2 = 1 →
      k.preStop = false →
      (late since → Leaves (.waitWatchdogExpiry n true) s (stopped (x.withKern { k with freeze := .none })
        { trap := { cause := .waitWatchdog }, slot := 1, opc := 0xC6, late := none, kpc := k.nextPc, resume := 1 })) ∧
      (¬ late since → Leaves (.waitWatchdogExpiry n true) s x)) ∧
    (∀ (i : Fin 32) e, k.landing.get i = some e → e.opc = 0xBC → e.status = .inFlight → late e.since →
      Leaves (.thresholdTimeoutExpiry n (some i.val)) s (x.withKern { k with
        landing := k.landing.set i (some { e with status := .failed { cause := .thresholdTimeout, addr := e.addr } }) })) ∧
    (c.run = .running → (∃ a ∈ c.pending, a.cause = .groupAbort ∧ late a.since) →
      ∃ t, Leaves (.groupAbortExpiry n) s t ∧ t.focus = n ∧ t.core.cp.run ≠ .running ∧ t.core.cp.g = c.g ∧
        t.core.cp.pc = c.pc ∧ t.core.cp.cstat = c.cstat ∧ t.core.kern.v = k.v ∧ t.mem = s.mem)

/-- R116-R126, R133, R404, R411: the life of a kernel. -/
def Obligations.KernelsStartIssueAndEnd : Prop :=
  Claims.KernelsStartAndIssueBundles ∧ Claims.BundlesFaultBeforeTheyIssue ∧ Claims.KernelsStopAndEnd

/-- R36, R311, R402, R404, R421: asynchronous causes and watchdogs. Which waits a watchdog watches is deduced (log
entry 30). -/
def Obligations.CausesAndWatchdogsTrap : Prop :=
  Claims.PendingCausesAreTaken ∧ Claims.WatchdogsEndLongWaits

/-! ## Engines, gates and walkers (R145-R151, R279, R349-R353, R385) -/

/-- R349, R353, R279, R385: the oldest instruction that conflicts with no older one and finds a place in its engine
issues, held where it names a gate; a transfer completes once its units are over, counting its bytes at the token it
names; a gate passes when the phase differs, and fails for an object in error or one that nothing can flip, or past
the watchdog. When a unit of a transfer is done is left to an event (log entries 3, 24). -/
def Sys2Proof.Claims.EnginesIssueGateAndComplete : Prop :=
  ∀ (n q : Nat) (s : State),
    let x := s.focusOn n
    let u := x.core.st
    let running : Prop := x.core.cp.run = .running
    let inFlight (e : QEntry) : Prop := u.flight.find? (·.seq == q) = some e
    let replaced (y : State) (e : QEntry) : State :=
      y.withSt { y.core.st with flight := y.core.st.flight.map fun z => if z.seq == e.seq then e else z }
    let failed (y : State) (e : QEntry) (c : Cause) : State := completeEntry y e (some { cause := c }) 0
    let without (e : QEntry) (l : List QEntry) : List QEntry := l.filter (·.seq != e.seq)
    let counted (u : StreamUnit) (e : QEntry) : Vector Word 8 :=
      match e.tok with
      | some i => u.tok.set i.toFin (tokDone (u.tok.get i.toFin) none e.flags)
      | none => u.tok
    let served (u : StreamUnit) (e : QEntry) : List Owed := u.owed.filter (·.owner.seq != e.seq)
    (∀ e, running → x.core.ctx.pend = false → u.queue.find? (mayIssue u) = some e → e.bad = none →
      let issued : QEntry := { e with stage := if e.gate.isSome then .gated x.clock else .running, since := x.clock }
      let taken := x.withSt { u with queue := without e u.queue, flight := u.flight ++ [issued] }
      (e.opc ≠ 0xDF → e.opc ≠ 0xD7 ∨ e.gate ≠ none → Leaves (.scoreboardIssue n) s taken) ∧
      (e.opc = 0xD7 → e.gate = none → Leaves (.scoreboardIssue n) s
        (taken.onPort (fld e.a 0 3) fun p => p.onRing (fld e.a 3 13) fun r => { r with record := some (fld e.sd.w1 0 16) })) ∧
      (e.opc = 0xDF → e.bar = none → Leaves (.scoreboardIssue n) s
        (x.withSt { u with
          queue := without e u.queue, flight := without e u.flight, tok := counted u e, owed := served u e }))) ∧
    (∀ e y e', running → inFlight e → e.bad = none → e.stage = .running → e.transfers = true →
      runUnits x e = (y, e') → y.core.cp.run = .running →
      (e'.over = false ∨ y.core.st.owedBy e' ≠ [] → Leaves (.engineComplete n q) s (replaced y e')) ∧
      (e'.over = true → y.core.st.owedBy e' = [] → e'.fault = none → e'.bar = none →
        let v := (replaced y e').core.st
        Leaves (.engineComplete n q) s (y.withSt { v with
          queue := without e' v.queue, flight := without e' v.flight, tok := counted v e', owed := served v e' }))) ∧
    (∀ e y e', inFlight e → e.opc = 0xD2 → e.bad = none → e.stage = .running →
      runUnits x e = (y, e') → Leaves (.tileRequest n q) s (replaced y e')) ∧
    (∀ e t a v l w0 w1 y, inFlight e → e.stage = .gated t → e.gate = some (a, v) → e.page = none → running →
      (asksAway x e (some a) objRead = true →
        Leaves (.gatePass n q) s (replaced x { e with sent := some x.clock })) ∧
      (asksAway x e (some a) objRead = false →
      let e : QEntry := { e with sent := none }
      let z := replaced x e
      objLoad z (engAccess z e) (engEntry z objRead a 16 []) = .ok ((l, w0, w1), y) →
      let flipped : Prop := bit w1 0 ≠ v
      let stuck : Prop := bit w1 1 = false ∧ fld w1 16 16 = 0
      (bit w1 2 = true → Leaves (.gatePass n q) s (afterEngine (failed y e .engineFault))) ∧
      (bit w1 2 = false → flipped → e.opc ≠ 0xD7 → y.core.cp.run = .running →
        Leaves (.gatePass n q) s (replaced y { e with stage := .running, since := x.clock })) ∧
      (bit w1 2 = false → ¬ flipped → stuck → Leaves (.gatePass n q) s (afterEngine (failed y e .barrierUnarmed))) ∧
      (bit w1 2 = false → ¬ flipped → ¬ stuck → y.core.cp.run = .running → Leaves (.gatePass n q) s y))) ∧
    (∀ e t, inFlight e → e.stage = .gated t →
      (2 ^ fld x.core.cp.cstat 16 5 < x.clock - t → Leaves (.gateWatchdogExpiry n q) s (failed x { e with sent := none } .waitWatchdog)) ∧
      (x.clock - t ≤ 2 ^ fld x.core.cp.cstat 16 5 → Leaves (.gateWatchdogExpiry n q) s x))

/-- R357, R371, R377: one unit of a copy within the SRF moves the 64 bytes of its block, one of a fill writes the
pattern of gB; no byte outside the block changes. -/
def Sys2Proof.Claims.TransferUnitsMoveTheirBlock : Prop :=
  ∀ (s : State) (e : QEntry) (i : Nat), Memory.wf s.core.srf = true → fld e.xf 0 4 = 0 → e.fn.toNat ≤ 1 →
    let dst := (extentAt e 0).lo + 64 * i
    let src := (extentAt e 1).lo + 64 * i
    (extentAt e 0).lo + 64 * i + 64 ≤ (extentAt e 0).hi →
    let moves (get : Nat → Byte) : Prop := ∃ t : Core, runUnit s e i = .done { s with core := t } e ∧
      t = { s.core with
        srf := t.srf, srfPoison := t.srfPoison
        kern := s.core.kern.writtenOver (atAddr dst ((List.range 64).map get)) } ∧
      (∀ p ∈ t.srfPoison, p ∈ s.core.srfPoison ∧ (dst % 64 = 0 → p ≠ dst / 64)) ∧ Memory.wf t.srf = true ∧
      (∀ j < 64, cellGet t.srf (dst + j) = get j) ∧
      ∀ a, (a < dst ∨ dst + 64 ≤ a) → cellGet t.srf a = cellGet s.core.srf a
    (e.opc = 0xD3 → s.core.srfBad src 64 = false → moves fun j => cellGet s.core.srfSeen (src + j)) ∧
      (e.opc = 0xD4 → moves fun j => BitVec.ofNat 8 (e.b.toNat / 256 ^ (j % 8)))

/-- R147-R150: the die asked gives the upper half of its range where a program of the launch still runs there, else
all of it, and nothing it lacks; a steal that returns empty makes the die dry and answers every waiting request with
none. -/
def Sys2Proof.Claims.StealsMoveHalfTheRange : Prop :=
  ∀ (thief victim id : Nat) (s : State) (l : Launch) (t v : Walker) (rest : List Nat),
    s.launch? id = some l → l.walkers.find? (·.die == thief) = some t →
    let onWalkers (f : Walker → Walker) : State :=
      { s with launches := s.launches.map fun m => if m.id == id then { m with walkers := m.walkers.map f } else m }
    let r := v.hi - v.lo
    let lives := launchLives s l victim
    let give (cut : Nat) (w : Walker) : Walker :=
      if w.die = thief then { w with lo := cut, hi := v.hi, steal := some [], got := true }
      else if w.die = victim then { w with hi := cut }
      else w
    (thief ≠ victim → t.steal = some (victim :: rest) → l.walkers.find? (·.die == victim) = some v →
      ((r = 0 ∨ lives = true ∧ r = 1) → exec (.stealRequest thief victim id) s =
        .next (onWalkers fun w => if w.die = thief then { w with steal := some rest } else w)) ∧
      (lives = true → 2 ≤ r → exec (.stealRequest thief victim id) s = .next (onWalkers (give (v.lo + (r + 1) / 2)))) ∧
      (lives = false → 1 ≤ r → exec (.stealRequest thief victim id) s = .next (onWalkers (give v.lo)))) ∧
    (t.steal = some [] → t.got = false → ∃ y, exec (.stealReturn thief id) s = .next y ∧
      (∀ c ∈ t.queue, (y.getCore c).cp.work = .answered none) ∧
      y.launches = (onWalkers fun w =>
        if w.die = thief then { w with steal := none, dry := true, queue := [] } else w).launches) ∧
    (∀ c, t.steal = some [] → t.got = true → t.queue = [c] → t.lo < t.hi →
      ∃ y, exec (.stealReturn thief id) s = .next y ∧ (y.getCore c).cp.work = .answered (some t.lo) ∧
        ∀ l', y.launch? id = some l' → ∀ w, l'.walkers.find? (·.die == thief) = some w →
          w = { t with lo := t.lo + 1, steal := none, got := false, queue := [] })

/-- R279, R349-R353, R357, R371, R377, R385: the stream engines. -/
def Obligations.EnginesIssueTransferAndComplete : Prop :=
  Claims.EnginesIssueGateAndComplete ∧ Claims.TransferUnitsMoveTheirBlock

/-! ## Queues, launches and grants (R13, R16, R138-R142, R464-R468, R482, R483) -/

namespace Sys2Proof.Claims

/-- The head packet of queue q has been read in `s'`, is well formed and of the given type, and waits for no page that
the host has not answered (R263, R464). -/
def HeadIs (s : State) (q t : Nat) (p : List Word) (s' : State) : Prop :=
  queueLive s q = true ∧ (∀ w, (queueAt s q).page = some w → w.refused = true) ∧ headPacket s q = .ok (p, s') ∧ malformed p = false ∧ fld (p.getD 0 0) 0 8 = t

/-- A queue with its fields replaced. -/
def putQ (s : State) (q : Fin 64) (r : Queue) : State := { s with queues := s.queues.set q r }

/-- The head packet has left queue q. -/
def left (s : State) (q : Fin 64) : State := putQ s q { s.queues.get q with read := (s.queues.get q).read + 1, page := none }

/-- The queue has stopped at its head packet. -/
def halted (s : State) (q : Fin 64) : State := putQ s q { s.queues.get q with err := true, page := none }

/-- The head packet stays, and waits for a host-managed page, or for none. -/
def stays (s : State) (q : Fin 64) (page : Option PageWait) : State := putQ s q { s.queues.get q with page := page }

/-- Every instruction cache without some of its words. -/
def uncached (s : State) (p : CachedWord → Bool) : State :=
  let f (c : Core) : Core := { c with cp := { c.cp with icache := c.cp.icache.filter fun x => !p x } }
  { s with core := f s.core, parked := s.parked.map fun x => (x.1, f x.2) }

end Sys2Proof.Claims

/-- R464-R468, R482, R483: a LAUNCH that passes its checks is accepted, and one that fails is refused by its
completion record; BARRIER leaves once its signal has reached V; SIGNAL stores and tells the host; CODE copies or
stops the queue; UNLOAD clears the queue's bit of REFS; an ended launch writes its record. A malformed packet stops
its queue. The queue's accesses, ASID 0 and the record of UNLOAD are the model's readings (log entries 14, 26). -/
def Obligations.PacketsTakeTheirEffect : Prop :=
  ∀ (q : Fin 64) (s s' : State) (p : List Word),
    let n := q.val
    let ended : Prop := ∀ l ∈ s'.launches, l.queue ≠ n
    let alone : Prop := ∀ l ∈ s'.launches, l.queue = n → l.leftHead = true
    let w (i : Nat) : Word := p.getD i 0
    let page := (s'.queues.get q).page
    let who (asid : BitVec 16) : Access := { core := 0, asid, sup := true, refused := PageWait.refusal asid page }
    (HeadIs s n 1 p s' → alone →
      (∀ l y, acceptLaunch s' p (launchOf s' n p) = .ok (l, y) → exec (.launch n) s =
        .next { stays y q none with launches := y.launches ++ [l], nextLaunch := y.nextLaunch + 1 }) ∧
      (∀ g y, acceptLaunch s' p (launchOf s' n p) = .error (.waits g y) → exec (.launch n) s = .next (stays y q g)) ∧
      (∀ c y z, acceptLaunch s' p (launchOf s' n p) = .error (.refused c y) →
        writeCompletion y { launchOf s' n p with status := 2, cause := some c } page = .ok ((), z) →
        exec (.launch n) s = .next (left z q))) ∧
    (∀ b y, HeadIs s n 2 p s' → engLoad s' (who 0) (w 1) 8 = .ok (b, y) →
      ((w 2).toNat ≤ leNat b → exec (.barrierPacket n) s = .next (left y q)) ∧
      (leNat b < (w 2).toNat → exec (.barrierPacket n) s = .next (stays y q none))) ∧
    (HeadIs s n 3 p s' →
      (∀ y, codeCopy s' (who ((w 0).extractLsb' 16 16)) (w 1) (w 2) (w 3).toNat = .ok ((), y) →
        exec (.codePacket n) s = .next (left y q)) ∧
      (∀ c a y, codeCopy s' (who ((w 0).extractLsb' 16 16)) (w 1) (w 2) (w 3).toNat = .error (.fail c a y) →
        exec (.codePacket n) s = .next (halted (logError y c 10 n) q))) ∧
    (∀ k o, HeadIs s n 4 p s' → ended → tableLoc s' (w 1).toNat = some (k, o) →
      let me := s'.md.pkg.toNat
      let key := cellKey s' me k o
      bridgeCut s' 0 me k = false → quiesced s' key = false → lineWaits s' key = false →
      setHas (key / 128) s'.unmet = false → linePoisoned s' key = false →
      let rd (i : Nat) : Nat := leNat (locBytes s' (.stk me k (o + 8 * i)) 8)
      let refs := setBit (BitVec.ofNat 64 (rd 0)) n false
      let y := stkPut s' me k o (leBytes 8 refs.toNat)
      (refs ≠ 0 → exec (.unloadPacket n) s = .next (left y q)) ∧
        (refs = 0 → exec (.unloadPacket n) s = .next (left
          (stkPut (uncached y fun x => x.asid == BitVec.ofNat 16 (rd 1) && rd 2 ≤ x.pc.toNat && x.pc.toNat < rd 2 + rd 3)
            me k (o + 32) (leBytes 8 2)) q))) ∧
    (∀ y, HeadIs s n 5 p s' → ended → engStore s' (who 0) (w 1) (leBytes 8 (w 2).toNat) = .ok ((), y) →
      exec (.signalPacket n) s = .next (left
        (if bit (w 0) 13 then { y with md := { y.md with msix := y.md.msix ++ [(w 7).extractLsb' 19 11] } } else y) q)) ∧
    (queueLive s n = true → (∀ w, (queueAt s n).page = some w → w.refused = true) → headPacket s n = .ok (p, s') → fld (w 0) 0 8 ∉ [1, 2, 3, 4, 5] →
      exec (.launch n) s = .next (halted s' q)) ∧
    (∀ id l y, s.launch? id = some l → l.leftHead = true → l.groups = [] → l.ended = l.cores →
      (∀ w, l.page = some w → w.refused = true) →
      (writeCompletion s l l.page = .ok ((), y) →
        exec (.launchComplete id) s = .next { y with launches := y.launches.filter fun x => x.id != id }) ∧
      (∀ g, writeCompletion s l l.page = .error (.wait g y) → exec (.launchComplete id) s =
        .next { y with launches := y.launches.map fun x => if x.id == id then { x with page := g } else x }))

/-- R464: QWRITE holds the low 32 bits written, and ERR is set where more packets stand than the ring holds; QCTL sets
ENABLE, and clears ERR where bit 1 is 0 and no more packets stand than the ring holds (the model's reading, log entry
24); the first ENABLE of a started module puts it in state 2. -/
def Sys2Proof.Claims.QueueRegistersFollowTheirWrites : Prop :=
  ∀ (q : Fin 64) (v : Word) (s : State),
    let y := { s with fresh := s.fresh + 1 }
    let r := s.queues.get q
    let w : BitVec 32 := v.setWidth 32
    (exec (.qwriteWrite q.val v) s =
      .next (putQ y q { r with write := w, err := r.err || decide (2 ^ r.size < (w - r.read).toNat) })) ∧
    (s.md.mstate ≠ 3 → exec (.qctlEnable q.val v) s =
      .next { putQ y q { r with
        enable := bit v 0, err := (r.err && bit v 1) || decide (2 ^ r.size < (r.write - r.read).toNat), page := none } with
        md := if bit v 0 = true ∧ s.md.mstate = 1 then { s.md with mstate := 2 } else s.md }) ∧
    (s.md.mstate = 3 → exec (.qctlEnable q.val v) s = .next y)

/-- R13, R16, R139, R142, R240: a group that fits is granted all at once. Each core of it starts in supervisor mode
with IE 0 at RTENTRY, g1 the argument address, g2 its rank, G and its group's number, g3 the base, every other general
register zero, every predicate other than p0 zero, its SRF zero, no kernel running; a core of another group keeps what
it holds. -/
def Sys2Proof.Claims.GrantedCoresStartAtTheLaunchEntry : Prop :=
  ∀ (id d base : Nat) (s : State) (l : Launch), eligibleOn s d = some l → l.id = id → d < 8 →
    restoreWaits s d l.prio = false → baseFits s l d base (coreFree s) = true →
    ∃ t, exec (.grantGroup id d base) s = .next t ∧
      (∀ i < l.g,
        let c := t.getCore (96 * d + base + i)
        c.cp.run = .running ∧ c.cp.pc = s.md.rtEntry ∧ c.cp.mode = true ∧ c.cp.ie = false ∧ c.cp.inTrap = false ∧
          c.cp.casid = l.asid.setWidth 64 ∧ c.cp.readG 1 = l.args ∧
          c.cp.readG 2 = BitVec.ofNat 64 (i + l.g * 2 ^ 16 + l.grantedOn d % 2 ^ 16 * 2 ^ 32) ∧
          c.cp.readG 3 = BitVec.ofNat 64 base ∧ (∀ r : BitVec 5, r ∉ [1, 2, 3] → c.cp.readG r = 0) ∧
          (∀ r : BitVec 3, r ≠ 0 → readPred c.cp.p r = false) ∧ c.srf = [] ∧ c.kern.stState = 0 ∧ c.st.queue = [] ∧
          c.prog = some ⟨l.id, base, l.g, l.grantedOn d⟩) ∧
      (∀ n, (n < 96 * d + base ∨ 96 * d + base + l.g ≤ n) → t.getCore n = s.getCore n) ∧
      t.mem = s.mem ∧ t.md = s.md

/-- R13, R16, R139-R150, R240: granted cores, and steals of work. -/
def Obligations.WorkIsGrantedAndStolen : Prop :=
  Claims.GrantedCoresStartAtTheLaunchEntry ∧ Claims.StealsMoveHalfTheRange

/-! ## Pre-emption and contexts (R425-R433, R468) -/

namespace Sys2Proof.Claims

/-- A core is asked to stop: PREEMPT_REQUEST is pending on its CP, and stopping has begun (R425, R427). -/
def AskedToStop (c : Core) : Prop := c.ctx.pend = true ∧ ∃ a ∈ c.cp.pending, a.cause = .preemptRequest ∧ a.kernel = false

/-- Every core of the group that still runs has been asked to stop; the others and memory are as before. -/
def GroupAsked (s t : State) (l : Launch) (g : Group) : Prop :=
  (∀ i < l.g, liveInGroup s l.id g.base (96 * g.die + g.base + i) = true →
    AskedToStop (t.getCore (96 * g.die + g.base + i))) ∧
  (∀ n, (n < 96 * g.die + g.base ∨ 96 * g.die + g.base + l.g ≤ n) → t.getCore n = s.getCore n) ∧ t.mem = s.mem

end Sys2Proof.Claims

/-- R425, R427, R428, R468: PREEMPT names a launch by queue and index and sets or clears its hold, asking its groups
to stop; the launch unit asks the newest standing group of the launch of lowest priority; the end of the grace period
stops a running kernel at the next bundle boundary. When the launch unit acts is left to an event (log entries 3, 27).
-/
def Obligations.PreemptionAsksCoresToStop : Prop :=
  ∀ (v : Word) (n d base : Nat) (s : State) (l : Launch),
    let y := { s with fresh := s.fresh + 1 }
    let named (x : Launch) : Bool := x.queue == fld v 0 6 && x.index.toNat % 2 ^ 24 == fld v 8 24
    let held (h : Bool) : State :=
      { y with
        md := { s.md with preempt := v &&& 0x80000000FFFFFF3F }
        launches := s.launches.map fun x => if x.id == l.id then { x with hold := h } else x }
    (s.launches.find? named = some l →
      (bit v 63 = true → (∀ g ∈ l.groups, g.preempted = true) → exec (.preemptHold v) s = .next (held true)) ∧
      (∀ g, bit v 63 = true → l.groups = [g] → g.preempted = false → ∃ t, exec (.preemptHold v) s = .next t ∧
        t.launches = (held true).launches ∧ GroupAsked s t l g) ∧
      (bit v 63 = false → exec (.preemptRelease v) s = .next (held false))) ∧
    (s.launches.find? named = none → exec (.registerWrite 0x40 v) s = .next y) ∧
    (∀ want g, eligibleOn s d = some want → lacksPlace s want d = true → victimLaunch s d want.prio = some l →
      newest (standing s l d) = some g → g.base = base → g.die = d →
      ∃ t, exec (.preemptRequest l.id d base) s = .next t ∧ GroupAsked s t l g) ∧
    (let x := s.focusOn n
     let k := x.core.kern
     let left := 850 * x.core.ctx.grace
     x.core.ctx.pend = true → x.core.ctx.expired = false →
       (left ≤ x.clock - x.core.ctx.since → Leaves (.graceExpiry n) s { x with core := { x.core with
         ctx := { x.core.ctx with expired := true }
         kern := if fld k.kstat 0 2 = 1 then { k with preStop := true } else k } }) ∧
       (x.clock - x.core.ctx.since < left → Leaves (.graceExpiry n) s x))

/-- R430-R433: SAVE begins the stop and the save; once the core has stopped its context stands in the area, and the
core is free; a restore grant starts the saved cores again, and RESTORE puts the registers, the kernel engine and the
SRF back from a sound area. A damaged area is refused. The layout that the area leaves open is opaque (log entry 12);
the order of the checks is deduced (log entry 27). -/
def Obligations.ContextsAreSavedAndRestored : Prop :=
  ∀ (n : Nat) (s : State) (p : Prog),
    let x := s.focusOn n
    let c := x.core
    let who : Access := { core := x.focus, asid := c.cp.asid, sup := true }
    (s.md.mstate ≠ 3 → ∃ t, exec (.save n) s = .next t ∧ (t.getCore n).ctx.saving = true ∧ (t.getCore n).ctx.pend = true ∧
      (t.getCore n).cp = (s.getCore n).cp ∧ (t.getCore n).kern = (s.getCore n).kern ∧
      (t.getCore n).srf = (s.getCore n).srf ∧ ∀ m, m ≠ n → t.getCore m = s.getCore m) ∧
    (∀ s1 s2, c.prog = some p → saveReady c = true → pipelineFits (savedCore c) = true →
      checkPages x who engWrite c.ctx.area (0xE0000 + 4096 * c.ctx.srfLen) = .ok s1 →
      engStore s1 who c.ctx.area (contextBytes s1 (savedCore c)) = .ok ((), s2) → s1.focus = n → s2.focus = n →
      ∃ t, Leaves (.saveWrite n) s t ∧ t.core.prog = none ∧ t.core.cp.run = .off ∧ t.core.srf = [] ∧
        t.core.kern = Kern.reset ∧
        ∃ z ∈ t.saved, z.launch = p.launch ∧ z.core = n ∧ z.image.cp.g = c.cp.g ∧ z.image.kern.v = c.kern.v ∧
          z.image.st.queue = c.st.queue) ∧
    (∀ b s0 s1, c.prog = some p → c.cp.run = .running → c.ctx.restoring = true →
      checkPages x who engRead c.ctx.area (0xE0000 + 4096 * c.ctx.srfLen) = .ok s0 →
      engLoad s0 who c.ctx.area (0xE0000 + 4096 * c.ctx.srfLen) = .ok (b, s1) →
      let word (off : Nat) : Word := BitVec.ofNat 64 (leNat ((b.drop off).take 8))
      (areaBad s1 b = false → ∃ t, Leaves (.restore n) s t ∧
        (∀ r : Fin 32, t.core.cp.g.get r = word (0x40 + 8 * r.val)) ∧ t.core.cp.pc = word 0x148 ∧
        t.core.cp.ctvec = word 0x160 &&& ~~~7 ∧ t.core.cp.cflags = word 0x1B0 &&& 0x3F ∧
        t.core.cp.ccause = word 0x170 &&& 0xFF ∧ t.core.cp.casid = word 0x1A8 &&& 0xFFFF ∧
        (∀ i < 10, bit t.core.cp.cstat i = bit (word 0x150) i) ∧
        fld t.core.cp.cstat 16 5 = max 10 (fld (word 0x150) 16 5) ∧
        (∀ r : Fin 32, t.core.kern.k.get r = word (0x200 + 8 * r.val)) ∧ t.core.kern.kpc = word 0x308 &&& 0x7FF ∧
        fld t.core.kern.kstat 0 2 = fld (word 0x310) 0 2 ∧ fld t.core.kern.kstat 13 2 = min 2 (fld (word 0x310) 13 2) ∧
        fld t.core.kern.kstat 10 3 = (if fld (word 0x310) 0 2 = 2 then fld (word 0x310) 10 3 else 0) ∧
        fld t.core.kern.kstat 16 11 = fld (word 0x310) 16 11 ∧
        (∀ r : Fin 64, t.core.kern.v.get r = BitVec.ofNat 4096 (leNat ((b.drop (0x10000 + 512 * r.val)).take 512))) ∧
        (∀ i : Fin 8, t.core.st.tok.get i = word (0x500 + 8 * i.val)) ∧
        (∀ i < b.length - 0xE0000, cellGet t.core.srf i = (b.drop 0xE0000).getD i 0) ∧ Memory.wf t.core.srf = true ∧
        (∀ z, imageFor s1 p = z → ∀ a, a ∈ z.raised ∨ a ∈ s1.core.cp.pending → ∃ a' ∈ t.core.cp.pending, a'.cause = a.cause ∧ a'.kernel = a.kernel) ∧
        t.core.ctx.restoring = false ∧ t.core.cp.run = .running ∧
        ∀ z ∈ t.saved, ¬ (z.launch = p.launch ∧ z.core = x.focus)) ∧
      (areaBad s1 b = true → ownStore s1.core.cp = false → ∃ t, Leaves (.restore n) s t ∧ t.core.ctx.restoring = false ∧
        t.core.cp = s1.core.cp ∧ t.core.kern = s1.core.kern ∧ t.core.srf = s1.core.srf ∧ t.mem = s1.mem)) ∧
    (∀ id l d base g, s.launch? id = some l → s.md.mstate = 2 → l.hold = false →
      l.groups.find? (fun g => g.die == d && g.base == base && g.preempted) = some g →
      let mine (m : Nat) : Prop := ∃ z ∈ s.saved, z.launch = id ∧ z.core = m ∧ m ∈ groupCores d base l.g
      (∀ m, mine m → coreFree s m = true) →
      (∀ w, eligibleOn s d = some w → l.prio ≤ w.prio) → ∃ t, exec (.restoreGrant id d base) s = .next t ∧
        (∀ m, mine m → (t.getCore m).cp.run = .running ∧ (t.getCore m).cp.pc = s.md.rtEntry ∧
          (t.getCore m).cp.mode = true ∧ (t.getCore m).prog = some ⟨id, base, l.g, g.number⟩ ∧
          (t.getCore m).kern.store = []) ∧
        (∀ m, ¬ mine m → t.getCore m = s.getCore m) ∧
        t.launches = s.launches.map fun x => if x.id == id then { x with groups := x.groups.map fun y =>
          if y.die == d && y.base == base then { y with preempted := false } else y } else x)

/-! ## The module, its stacks and its units (R273, R274, R283, R284, R342, R402, R417, R422-R424, R461-R472) -/

namespace Sys2Proof.Claims

/-- The module block with `f` applied. -/
def withMd (s : State) (f : Module → Module) : State := { s with md := f s.md }

/-- A cause is pending on the CP of core n (R402). -/
def PendingOn (t : State) (n : Nat) (c : Cause) : Prop := ∃ a ∈ (t.getCore n).cp.pending, a.cause = c ∧ a.kernel = false

/-- A CP that holds a launched program (R402). -/
def Holds (s : State) (n : Nat) : Prop :=
  (n = s.focus ∨ n ∈ s.parked.map (·.1)) ∧ (s.getCore n).cp.run = .running ∧ (s.getCore n).prog.isSome = true

/-- A new entry stands in the error log, of the given class and index; nothing else has changed but the count of
entries (R462). -/
def Logged (s t : State) (cls index : Nat) : Prop :=
  ∃ (w : Word) (fresh : Nat),
    t = { s with fresh := fresh, md := { s.md with
      errHead := s.md.errHead + 1
      errLog := insertNum (s.md.errHead.toNat % 256) (w, BitVec.ofNat 64 s.clock) s.md.errLog } } ∧
    fld w 8 8 = cls ∧ fld w 16 32 = index % 2 ^ 32

/-- Stack i with `f` applied. -/
def withStack (s : State) (i : Fin 16) (f : Stack → Stack) : State := { s with hbm := s.hbm.set i (f (s.hbm.get i)) }

end Sys2Proof.Claims

/-- R461-R463, R469: register writes of the host store the register's own bits, and those that state 1 alone admits
nothing elsewhere; a key command is busy until it is done, when it fills, empties or reports its slot. -/
def Sys2Proof.Claims.HostWritesSetTheirRegisters : Prop :=
  ∀ (v : Word) (off : Nat) (s : State),
    let y := { s with fresh := s.fresh + 1 }
    let one : Prop := s.md.mstate = 1
    let writes (o : Nat) (f : Module → Module) : Prop := exec (.registerWrite o v) s = .next (withMd y f)
    let begins (i : Instr) (op : Nat) : Prop := s.md.keyBusy = none → fld v 12 2 = op →
      exec i s = .next (withMd y fun m => { m with keyCmd := v &&& 0x3FFF, keyBusy := some ⟨fld v 0 12, op⟩ })
    let done (f : Module → Module) : Prop := exec .keyOpDone s = .next (withMd s fun m => f { m with keyBusy := none })
    let key : BitVec 256 := s.md.keyData.get 3 ++ s.md.keyData.get 2 ++ s.md.keyData.get 1 ++ s.md.keyData.get 0
    (off % 8 ≠ 0 ∨ 2 ^ 39 ≤ off → exec (.registerWrite off v) s = .next s) ∧
      writes 0x30 (fun m => { m with astBase := v &&& 0x3FFFFFFFFFF000 }) ∧
      writes 0x38 (fun m => { m with astLen := v &&& 0x1FFFF }) ∧
      writes 0x48 (fun m => { m with powerCap := max 1000 (min 4000 (fld v 0 16)) }) ∧
      writes 0x60 (fun m => { m with keyData := m.keyData.set 0 v }) ∧
      writes 0x78 (fun m => { m with keyData := m.keyData.set 3 v }) ∧
      (one → writes 0x28 (fun m => { m with pkg := v.setWidth 13 }) ∧
        writes 0x88 (fun m => { m with rtEntry := v &&& 0xFFFFFFFFFFFFF8 }) ∧
        writes 0x10 (fun m => { m with faccept := m.feature &&& (m.faccept.extractLsb' 64 64 ++ v) }) ∧
        writes 0x18 (fun m => { m with faccept := m.feature &&& (v ++ m.faccept.extractLsb' 0 64) })) ∧
      (¬ one → writes 0x28 id ∧ writes 0x88 id ∧ writes 0x10 id ∧ writes 0x18 id) ∧
      begins (.keyWrite v) 1 ∧ begins (.keyEmpty v) 2 ∧ begins (.keyQuery v) 3 ∧
      (∀ n, s.md.keyBusy = some ⟨n, 1⟩ → done fun m => { m with keys := insertNum n key m.keys }) ∧
      (∀ n, s.md.keyBusy = some ⟨n, 2⟩ → done fun m => { m with keys := eraseNum n m.keys }) ∧
      (∀ n, s.md.keyBusy = some ⟨n, 3⟩ → done fun m =>
        { m with keyCmd := setBit m.keyCmd 62 (lookupNum n m.keys).isSome })

/-- R402, R471, R472: START resets the module and begins step 1 of a cold or a warm start; a step that passes is
followed by the next, a failing one ends the start (a failing step 5 begins it again as cold), for good the third
time; sensors raise their cause on every CP that holds a program; a critical temperature ends every program (what else
it clears: log entry 28). -/
def Obligations.StartUpPowerAndHeat : Prop :=
  ∀ (v : Word) (valid : Bool) (n : Nat) (s : State),
    let warm := bit v 7 && valid
    let step := s.md.step.toNat
    let all (t : State) (c : Cause) : Prop := ∀ m, Holds s m → PendingOn t m c
    let next := if s.md.coldStart then (if step = 4 then 6 else step + 1) else if step = 1 then 5 else 6
    (bit v 8 = false → exec (.moduleStart v valid) s = .next (withMd s fun m => { m with warm := bit v 7 })) ∧
    (bit v 8 = true → s.md.mstate = 3 → warm = true → exec (.moduleStart v valid) s = .next s) ∧
    (bit v 8 = true → (s.md.mstate ≠ 3 ∨ warm = false) → ∃ t, exec (.moduleStart v valid) s = .next t ∧
      t.md.step = 1 ∧ t.md.mstate = 0 ∧ t.md.fails = s.md.fails ∧ t.md.coldStart = !warm ∧ t.md.pkg = 0 ∧
      t.md.faccept = 0 ∧ t.md.keys = (if warm then s.md.keys else []) ∧
      t.md.errLog = (if warm then s.md.errLog else []) ∧ t.mem = s.mem ∧ t.launches = [] ∧ t.tlb = [] ∧
      (∀ m, (t.getCore m).cp = CP.reset ∧ (t.getCore m).kern = Kern.reset ∧ (t.getCore m).prog = none) ∧
      ∀ i, (t.hbm.get i).masks = if warm then (s.hbm.get i).masks else Stack.reset.masks) ∧
    (s.md.mstate ≠ 3 → step ∈ [1, 3, 4, 5] → exec (.startStepComplete true) s = .next (withMd s fun m => { m with
      step := BitVec.ofNat 3 next })) ∧
    (s.md.mstate ≠ 3 → step = 2 → exec (.startStepComplete true) s = .next { s with
      mem := s.mem.filter fun c => 2 ^ 40 ≤ c.1
      poison := s.poison.filter fun g => 2 ^ 33 ≤ g
      unmet := s.unmet.filter fun g => 2 ^ 33 ≤ g
      md := { s.md with step := BitVec.ofNat 3 next } }) ∧
    (s.md.mstate ≠ 3 → step = 6 → exec (.startStepComplete true) s = .next (withMd s fun m => { m with
      step := 0, mstate := 1, fails := 0, feature := Config.featureOffered.setWidth 128 })) ∧
    (s.md.mstate = 3 → ∀ ok, exec (.startStepComplete ok) s = .next s) ∧
    (s.md.mstate ≠ 3 → step = 5 → s.md.fails.toNat < 2 → ∃ t, exec (.startStepComplete false) s = .next t ∧
      t.md.step = 1 ∧ t.md.coldStart = true ∧ t.md.mstate = 0 ∧ t.md.fails = s.md.fails + 1 ∧ t.md.keys = [] ∧
      t.md.errHead = 1) ∧
    (s.md.mstate ≠ 3 → step ≠ 0 → (step = 5 → 2 ≤ s.md.fails.toNat) → ∃ t, exec (.startStepComplete false) s = .next t ∧ t.md.step = 0 ∧
      t.md.errHead = s.md.errHead + 1 ∧ (s.md.fails.toNat < 2 → t.md.fails = s.md.fails + 1 ∧ t.md.mstate = 0) ∧
      (2 ≤ s.md.fails.toNat → t.md.fails = 3 ∧ t.md.mstate = 3)) ∧
    (∃ t, exec .powerCapExceeded s = .next t ∧ t.md.capped = true ∧ all t .powerCap) ∧
    (∃ t, exec .thermalHot s = .next t ∧ t.md.hot = true ∧ all t .thermal) ∧
    (∃ t, exec .hostLinkDown s = .next t ∧ all t .hostLinkDown) ∧
    (Holds s n → ∃ t, exec (.debugHalt n) s = .next t ∧ PendingOn t n .debugHalt ∧
      ∀ m, m ≠ n → t.getCore m = s.getCore m) ∧
    (∃ t, exec .thermalCrit s = .next t ∧ t.md.crit = true ∧ t.md.mstate = 3 ∧ t.channels = [] ∧ t.saved = [] ∧
      (∀ m, (t.getCore m).prog = none) ∧ t.md.step = 0 ∧
      (∀ l ∈ t.launches, l.status = 1 ∧ l.cause = some .thermal ∧ l.groups = [] ∧ l.leftHead = true) ∧
      t.mem = s.mem)

/-- R274, R283, R284, R342: QUIESCE holds a stack's requests; a selector mask is replaced only in a quiesced stack and
with the bits that R274 requires, else MASKERR is set until it is cleared; lines that home slices hold across a change
are written back by their offset; missed heartbeats lead to a takeover, and a window without catching up to a failed
stack. When an event occurs is the schedule's choice (log entry 31). -/
def Sys2Proof.Claims.StackEventsSetTheirState : Prop :=
  ∀ (i : Fin 16) (j : Fin 6) (v : Word) (s : State),
    let y := { s with fresh := s.fresh + 1 }
    let k := s.hbm.get i
    let n := i.val
    let becomes (e : Instr) (x : State) (k' : Stack) : Prop := exec e s = .next (withStack x i fun _ => k')
    (s.md.mstate ≠ 3 →
      (bit v 0 = true → becomes (.quiesce n v) y { k with quiesce := true }) ∧
      (bit v 0 = false → k.held = none → becomes (.quiesce n v) y { k with quiesce := false }) ∧
      (∀ h, bit v 0 = false → k.held = some [h] → h.bytes.length = 128 → 128 * h.line < stackBacked → s.migrating = [] →
        Memory.wf s.mem = true → ∃ t, exec (.quiesce n v) s = .next t ∧ t.hbm.get i = { k with quiesce := false, held := none } ∧
        (∀ b < 128, byteAt t (cellKey t s.md.pkg.toNat n (128 * h.line) + b) = h.bytes.getD b 0) ∧
        setHas (granuleKey t s.md.pkg.toNat n (128 * h.line)) t.poison = h.poisoned) ∧
      (k.quiesce = true → fld v 0 13 = 2 ^ (7 + j.val) →
        let k' := { k with masks := k.masks.set j (v.setWidth 36) }
        (k.held ≠ none → becomes (.hsmaskWrite n j.val v) y k') ∧
        (k.held = none → ∃ held, becomes (.hsmaskWrite n j.val v) { y with fresh := s.fresh + 2 } { k' with held := some held } ∧
          ∀ h ∈ held, h.bytes = (List.range 128).map (fun b => byteAt s (128 * granuleKey s s.md.pkg.toNat n (128 * h.line) + b)) ∧
            h.poisoned = setHas (granuleKey s s.md.pkg.toNat n (128 * h.line)) s.poison)) ∧
      (k.quiesce = false ∨ fld v 0 13 ≠ 2 ^ (7 + j.val) → becomes (.hsmaskWrite n j.val v) y { k with maskErr := true }) ∧
      becomes (.maskerrClear n v) y { k with maskErr := k.maskErr && !bit v 1 }) ∧
    becomes (.heartbeat n) s { k with missed := 0, beats := k.beats + 1 } ∧
    becomes (.heartbeatMissed n) s { k with
      missed := min 255 (k.missed + 1), takeover := k.takeover || (decide (1 ≤ k.missed) && !k.refOwn) } ∧
    (k.takeover = true → ∃ t, exec (.takeoverAck n) s = .next t ∧
      Logged (withStack s i fun _ => { k with
        takeover := false, refOwn := true, takeovers := min 0xFFFF (k.takeovers + 1), catchUp := true }) t 5 n) ∧
    (k.takeover = false → exec (.takeoverAck n) s = .next s) ∧
    (k.refOwn = true → k.catchUp = true → k.failed = false → ∃ t, exec (.refreshWindowExpiry n) s = .next t ∧
      Logged (withStack s i fun _ => { k with failed := true }) t 5 n)

/-- R245, R402, R403, R417, R422-R424: an uncorrectable error poisons its granule, which no access has met yet, or
marks its codeword; in lane or CP state it stops the core; a corrected one is logged (that a corrected symbol of an
SRF is entered for any bank of its core is the model's reading, log entry 15). A failed write-back poisons its line
and tells the CP that caused it; a self-test runs once at a time and reports a soft error, or a lasting fault of its
lane, bank, slice or row. When an error occurs is an event's choice (log entry 28). -/
def Sys2Proof.Claims.PoisonAndSelfTestsAreRecorded : Prop :=
  ∀ (k o n : Nat) (u : ErrUnit) (s : State),
    let g := granuleKey s s.md.pkg.toNat k o
    let cls := u.cls.toNat
    let ix := u.index.toNat
    let tested : State := withMd s fun m => { m with testing := m.testing.filter (· != u) }
    let fails (f : State → State) : Prop :=
      ∃ t, exec (.selftestComplete u false) s = .next (f t) ∧ Logged tested t cls ix
    (k < 16 → o < stackBacked →
      (setHas g s.poison = false → exec (.poisonDetect (.stack k) o) s =
        .next { s with poison := setAdd g s.poison, unmet := setAdd g s.unmet }) ∧
      (setHas g s.poison = true → exec (.poisonDetect (.stack k) o) s = .next s) ∧
      exec (.writebackFailure k o none) s = .next { s with poison := setAdd g s.poison } ∧
      (Holds s n → ∃ t, exec (.writebackFailure k o (some n)) s = .next t ∧ t.poison = setAdd g s.poison ∧
        PendingOn t n .uncorrectedHbm ∧ t.mem = s.mem)) ∧
    (n < 768 → ∀ q e, q < 65536 → let f := erasures s n
      let counted (a b : State) : Prop := ∃ i < 68, Logged a b 2 (68 * n + i)
      (e = 0 → f ≤ 4 → exec (.poisonDetect (.srf n e) q) s = .next s) ∧
      (e = 1 → 2 + f ≤ 4 → ∃ t, exec (.poisonDetect (.srf n e) q) s = .next t ∧ counted s t) ∧
      (e = 2 → f = 0 → ∃ t z, exec (.poisonDetect (.srf n e) q) s = .next t ∧ counted s z ∧ counted z t) ∧
      (4 < 2 * e + f → exec (.poisonDetect (.srf n e) q) s =
        .next (s.onCore n fun c => { c with srfPoison := setAdd q c.srfPoison }))) ∧
    (n < 768 → let x := s.focusOn n
      x.core.cp.run = .running → (∀ l < 16, exec (.poisonDetect (.lane n) l) s =
        .next ((fatalStop x .laneFailure).focusOn s.focus)) ∧
      exec (.poisonDetect .cpState n) s = .next ((fatalStop x .machineCheck).focusOn s.focus)) ∧
    (∃ t, exec (.poisonDetect (.corrected u.cls) u.index.toNat) s = .next t ∧ Logged s t cls ix) ∧
    (1 ≤ cls → cls ≤ 4 → u ∉ s.md.testing →
      exec (.selftest u) s = .next (withMd s fun m => { m with testing := u :: m.testing })) ∧
    (u ∈ s.md.testing →
      (∃ t, exec (.selftestComplete u true) s = .next t ∧ Logged tested t cls ix) ∧
      (cls = 1 → fails fun t => t.onCore (ix / 16) fun c => { c with outOfService := true }) ∧
      (cls = 2 → fails fun t => t.onCore (ix / 68) fun c =>
        let bad := setAdd (ix % 68) c.badBanks
        { c with badBanks := bad, outOfService := c.outOfService || decide (3 ≤ bad.length) }) ∧
      (cls = 3 → fails fun t => withMd t fun m => { m with badSlices := setAdd ix m.badSlices }) ∧
      (cls = 4 → fails fun t => withMd t fun m =>
        { m with badRows := setAdd (rowKey t (ix / 2 ^ 24) (ix % 2 ^ 24 * 2 ^ 12)) m.badRows }))

/-- R461-R464, R469: the device registers that the host writes. -/
def Obligations.HostWritesAndQueueRegisters : Prop :=
  Claims.HostWritesSetTheirRegisters ∧ Claims.QueueRegistersFollowTheirWrites

/-- R274, R283, R284, R342, R402, R417, R422-R424: stacks, poison and self-tests. -/
def Obligations.StackAndUnitEvents : Prop :=
  Claims.StackEventsSetTheirState ∧ Claims.PoisonAndSelfTestsAreRecorded

/-! ## Beyond the package (R314, R438-R458, R469, R470) -/

/-- R440-R443, R446: bridges and Kibry ports fail and train; a request of another package has its access's effect
where the package serves it, and none in reset or in the management-only state; a remote access that times out traps
at its word or fails in its entry, performed or not. That of an enqueue to a barrier object is the instruction's
fault. That a port lost is entered in the error log, and a port trained is not, is deduced (log entry 15). Whether an
access that times out was performed is a free choice (log entry 4). -/
def Sys2Proof.Claims.RemoteAccessesAreServedOrTimeOut : Prop :=
  ∀ (n die port : Nat) (r : RemoteReq) (s : State),
    let x := s.focusOn n
    let k := x.core.kern
    let m := r.pa.toNat % 2 ^ 40
    let at' := interleave r.mode.toNat m
    let crossed := { s with fresh := s.fresh + 1, md := { s.md with
      kbRetry := BitVec.ofNat 32 (min (s.md.kbRetry.toNat + Config.resent s.fresh) (2 ^ 32 - 1)) } }
    let late (since : Nat) : Prop := 850 * s.md.kbTimeout < s.clock - since
    (die < 8 → die ∉ s.md.deadBridges → ∃ t, exec (.bridgeFailure die) s = .next t ∧ ∃ y, Logged s y 6 die ∧
      t = withMd y fun m => { m with deadBridges := setAdd die m.deadBridges }) ∧
    (port < 16 → exec (.kibryPortTrained port) s = .next (withMd s fun m => { m with kbLive := setBit m.kbLive port true }) ∧
      (bit (s.md.kbLive.setWidth 64) port = false → exec (.kibryPortLost port) s = .next s) ∧
      (bit (s.md.kbLive.setWidth 64) port = true → ∃ t, exec (.kibryPortLost port) s = .next t ∧ ∃ y, Logged s y 8 port ∧
        t = withMd y fun m => { m with kbLive := setBit m.kbLive port false })) ∧
    (s.md.mstate = 0 ∨ s.md.mstate = 3 → exec (.remoteRequest r) s = .next crossed) ∧
    (∀ b y, s.md.mstate = 1 ∨ s.md.mstate = 2 → r.pa.toNat / 2 ^ 40 = 2 * s.md.pkg.toNat → at'.2 < stackBacked →
      r.lattice = 0 →
      serve crossed 0 (remoteEntry crossed r) ⟨.stk s.md.pkg.toNat at'.1 at'.2, 0, r.srcDie⟩ = .ok (b, y) →
      exec (.remoteRequest r) s = .next y) ∧
    (∀ e w, x.core.cp.remote = some e → x.core.cp.wait = some w → e.status = .inFlight → e.opc = objUpdate →
      let object (y : State) : Prop :=
        y = { x with fresh := x.fresh + 1 } ∨ ∃ b, serveObject { x with fresh := x.fresh + 1 } (cpAccess x) e = .ok (b, y)
      (late e.since → e.aop ≠ 3 → ∃ y, object y ∧
        Leaves (.remoteTimeoutExpiry n none) s (takeSync y (etrap .remoteTimeout e) w.opc w.pc)) ∧
      (late e.since → e.aop = 3 → ∃ y, object y ∧ Leaves (.remoteTimeoutExpiry n none) s
        (y.withCp { y.core.cp with remote := some { e with status := .failed (etrap .remoteTimeout e) } })) ∧
      (¬ late e.since → Leaves (.remoteTimeoutExpiry n none) s x)) ∧
    (∀ e w, x.core.cp.remote = some e → x.core.cp.wait = some w → e.status = .inFlight → e.opc ≠ objUpdate →
      (late e.since → ∃ y, (y = { x with fresh := x.fresh + 1 } ∨ Perhaps x (cpAccess x) e y) ∧
        Leaves (.remoteTimeoutExpiry n none) s (takeSync y (etrap .remoteTimeout e) w.opc w.pc)) ∧
      (¬ late e.since → Leaves (.remoteTimeoutExpiry n none) s x)) ∧
    (∀ (i : Fin 32) e z, k.landing.get i = some e → e.status = .inFlight → e.opc ≠ 0xBC → walkOlder x e.seq = some z →
      mayPerform z e = true → entryRemote z (kernAccess z) e = true → late e.since → ∃ y, Perhaps z (kernAccess z) e y ∧
        Leaves (.remoteTimeoutExpiry n (some i.val)) s (y.withKern { y.core.kern with
          landing := y.core.kern.landing.set i (some { e with status := .failed (etrap .remoteTimeout e) }) }))

/-- R445-R450: an entry that passes its checks is enabled, with this package's replicas at round 0, and one that fails
sets ERR; a replica begins its next round when the last is complete and its period, PIN or POUT, has elapsed; an
exchange leaves in both replicas the join of their cells and completes the round; where the partner cannot be reached
(over a failed bridge, or in another package) an exchange that is not made within the period and TIMEOUT only
completes the round and is logged. That this time counts from the beginning of the round in the replica is deduced
(log entry 3). The partner package is memory alone (the model's choice, log entry 16). -/
def Obligations.LatticeRegionsExchangeTheirJoins : Prop :=
  ∀ (j : Fin 64) (i : Nat) (v : Word) (s : State),
    let y := { s with fresh := s.fresh + 1 }
    let n := j.val
    let e := s.lrt.get j
    let put (x : State) (f : LrtEntry) : State := { x with lrt := x.lrt.set j f }
    let raw := e.raw.set 0 (v &&& ~~~0x1000001)
    let e' := { e with raw := raw, live := raw }
    let period (t : Nat) : Nat := 850 * (if t % e.levels < Nat.log2 (diesOf e.dieMask).length then e.pin else e.pout)
    let r (r : Nat) (d : Bool) (l : List (Nat × Nat × Bool)) : List (Nat × Nat × Bool) :=
      l.map fun q => if q.1 = i then (i, r, d) else q
    (accepted s 1 = true → s.md.mstate ≠ 3 →
      (bit v 0 = true → e.v = false → lrtRefused s n e' = false →
        exec (.lrtEnable n v) s = .next (put y { e' with
          v := true, err := false, stopping := false
          replicas := (lrtIndexes e' s.md.pkg.toNat).map fun q => (q, 0, false)
          began := (lrtIndexes e' s.md.pkg.toNat).map fun _ => s.clock })) ∧
      (bit v 0 = true → e.v = false → lrtRefused s n e' = true →
        exec (.lrtEnable n v) s = .next (put y { e with raw := raw, err := true })) ∧
      (bit v 0 = false → exec (.lrtDisable n v) s =
        .next (put y { e with raw := raw, v := false, stopping := e.v || e.stopping }))) ∧
    (∀ t, e.v = true → e.stopping = false → e.levels ≠ 0 → e.replicas.find? (·.1 == i) = some (i, t, true) →
      (period t ≤ s.clock - roundBegan e i →
        ∃ b, exec (.exchangeRoundBegin n i) s = .next (put s { e with replicas := r (t + 1) false e.replicas, began := b })) ∧
      (s.clock - roundBegan e i < period t → exec (.exchangeRoundBegin n i) s = .next s)) ∧
    (∀ t, e.v = true ∨ e.stopping = true → e.levels ≠ 0 → e.replicas.find? (·.1 == i) = some (i, t, false) →
      let q := partnerOf e i t
      let a := replicaHome e i
      let b := replicaHome e q
      pairReady s e q t = true →
      (reachable s a b = true → (∀ c ∈ regionCells e, cellWaits s a c = false ∧ cellWaits s b c = false) →
        exec (.exchange n i) s = .next
          (completeRound ((regionCells e).foldl (fun z c => joinCell z e.typ a b c) (countExchange s a b)) n i q t)) ∧
      (reachable s a b = false → exec (.exchange n i) s = .next s) ∧
      (a.1 ≠ b.1 ∨ reachable s a b = false → period t + 850 * s.md.kbTimeout < s.clock - roundBegan e i →
        ∃ z, Logged s z 7 n ∧ exec (.exchangeFailure n i) s = .next (completeRound z n i q t)) ∧
      (a.1 = b.1 → reachable s a b = true → exec (.exchangeFailure n i) s = .next s) ∧
      (s.clock - roundBegan e i ≤ period t + 850 * s.md.kbTimeout → exec (.exchangeFailure n i) s = .next s))

/-- R452-R456: a malformed frame and one that no entry steers are counted; one for a ring is counted where it is
dropped or too big for its record; a packet that fits its record, in clear or decrypted, is delivered into the SRF of
the ring's core behind its head of 64 bytes; an encrypted one without a key, or whose tag does not match, is counted.
A ring's entry and the counters are written as R454 and R456 say. Which frame arrives is the event's parameter (log
entry 29); the numbers of UDP and the sizes of its headers are presumed (log entry 17), and RECORD of the records
posted last and the count U are deduced (log entry 29). -/
def Obligations.FramesReachTheirRecord : Prop :=
  ∀ (p : Fin 8) (f : Frame) (v : Word) (s : State),
    let y := { s with fresh := s.fresh + 1 }
    let port := s.ports.get p
    let put (x : State) (q : Port) : State := { x with ports := x.ports.set p q }
    let inc (w : Word) (n : Nat) : Word := BitVec.ofNat 64 (min (w.toNat + n) (2 ^ 64 - 1))
    let h := leNat (f.payload.take 2)
    let enc := h / 2 ^ 15 % 2
    let carries : Prop := match f.ip with
      | .v4 ihl total protocol => ihl = 5 ∧ protocol = 17 ∧ total = 20 + f.udpLength
      | .v6 length protocol => protocol = 17 ∧ length = f.udpLength
      | .other => False
    let transport : Prop := match f.transport with
      | .none => f.header = 0
      | .unordered passes => passes = true
      | .unsupported => False
    let good : Prop := f.ethernetII = true ∧ f.fcsGood = true ∧ carries ∧
      f.udpLength = 8 + f.header + f.payload.length ∧ transport
    let bad : Prop := ¬ good ∨ f.payload.length < 16 + 16 * (h / 2 ^ 15 % 2) ∨ h / 2 ^ 12 % 8 ≠ 0 ∨
      leNat ((f.payload.drop 2).take 2) ≠ 0
    let units := f.payload.length
    (bad → exec (.frameReceive p.val f) s = .next (put s { port with malformed := inc port.malformed 1 })) ∧
    (¬ bad → steerTo port f.udpPort = none →
      exec (.frameReceive p.val f) s = .next (put s { port with unsteered := inc port.unsteered 1 })) ∧
    (∀ ring, ¬ bad → steerTo port f.udpPort = some ring →
      let g := port.ring ring
      let n := 96 * fld g.entry 1 3 + fld g.entry 4 7
      let c := s.getCore n
      let counts (g' : Ring) : Prop :=
        exec (.frameReceive p.val f) s = .next (put s { port with rings := insertNum ring g' port.rings })
      let dropped : Prop := counts { g with dropPkt := inc g.dropPkt 1, dropByte := inc g.dropByte units }
      let posted := postedOn c p.val ring
      let ready : Prop := accepted s 2 = true ∧ bit g.entry 0 = true ∧ fld g.entry 4 7 < 96
      let needs := f.payload.length - 16 - 16 * enc + 64
      (accepted s 2 = false ∨ bit g.entry 0 = false → dropped) ∧
      (∀ e, ready → posted = some e → fld e.sd.w1 0 16 < needs → counts { g with big := inc g.big 1 }) ∧
      (∀ k, ready → posted = none → g.record = some k → k < needs → counts { g with big := inc g.big 1 }) ∧
      (∀ k, ready → posted = none → g.record = some k → needs ≤ k → dropped) ∧
      (ready → posted = none → g.record = none → dropped) ∧
      let key := lookupNum (h % 2 ^ 12) s.md.keys
      let unlocked (k : BitVec 256) : Option (List Byte) :=
        gcmOpen k ((f.payload.drop 4).take 12) (f.payload.take 16) ((f.payload.drop 16).take (units - 32))
          (f.payload.drop (16 + (units - 32)))
      let opened (b : List Byte) : Prop :=
        if enc = 0 then b = f.payload.drop 16 else accepted s 9 = true ∧ ∃ k, key = some k ∧ unlocked k = some b
      let fits (e : QEntry) : Prop := ready ∧ posted = some e ∧ needs ≤ fld e.sd.w1 0 16
      (∀ e, fits e → enc = 1 → accepted s 9 = false ∨ key = none → counts { g with noKey := inc g.noKey 1 }) ∧
      (∀ e k, fits e → enc = 1 → accepted s 9 = true → key = some k → unlocked k = none →
        counts { g with authPkt := inc g.authPkt 1, authByte := inc g.authByte units }) ∧
      (∀ e b, fits e → opened b → c.fenced = true ∨ c.prog = none → dropped) ∧
      (∀ e body, fits e → opened body → c.fenced = false → c.prog.isSome = true → Memory.wf c.srf = true →
        let bytes := recordHead p.val (h % 2 ^ 12) body.length s.clock (enc == 1) ++ body
        let at' := recAt e.sd g.next
        ∃ t, exec (.frameReceive p.val f) s = .next t ∧
          (∀ i < bytes.length, cellGet (t.getCore n).srf (at' + i) = bytes.getD i 0) ∧
          (∀ a, (a < at' ∨ at' + bytes.length ≤ a) → cellGet (t.getCore n).srf a = cellGet c.srf a) ∧
          (t.getCore n).cp = c.cp ∧ (t.getCore n).kern = c.kern.writtenOver (atAddr at' bytes) ∧ t.mem = s.mem ∧
          t.ports = s.ports.set p { port with rings := insertNum ring { g with
            rxPkt := inc g.rxPkt 1, rxByte := inc g.rxByte units, next := g.next + 1 } port.rings })) ∧
    (∀ ring i, s.md.mstate ≠ 3 → ring < 8192 → i < 8 →
      let g := port.ring ring
      let set' (x : Ring) : State := put y { port with rings := insertNum ring x port.rings }
      exec (.ringBind p.val ring v) s = .next (set' (if bit v 0 = true ∨ g.entry ≠ v &&& 0x7FF
        then { g with entry := v &&& 0x7FF, next := 0, record := none } else { g with entry := v &&& 0x7FF })) ∧
      (v = 0 → exec (.counterClear p.val (some ring) i v) s = .next (set' (clearRingCounter g i))) ∧
      (v = 0 → exec (.counterClear p.val none 0 v) s = .next (put y { port with malformed := 0 })) ∧
      (v = 0 → exec (.counterClear p.val none 1 v) s = .next (put y { port with unsteered := 0 })) ∧
      (v ≠ 0 → exec (.counterClear p.val (some ring) i v) s = .next y))

/-- R263, R314, R469, R470: a page-request response closes its request, and a code other than success and invalid
request (PCIe's numbers 0 and 1, presumed: log entry 17) ends page requests; an ATS invalidation drops every held
translation of its page once no access in flight uses one, and ends the move of a line that has committed there and
has no translation to its old home left; a migrating line commits (when, is the model's choice: log entry 29) with its
bytes, and its marks, at the new home. -/
def Sys2Proof.Claims.PagesAreAnsweredAndMigrate : Prop :=
  ∀ (n code asid va' old new : Nat) (a : BitVec 16) (va : Word) (s : State) (q : PageReq),
    (s.md.pageReqs.find? (·.tag == n) = some q → ∃ t, exec (.prgResponse n code) s = .next t ∧
      t.md = { s.md with
        pageReqs := s.md.pageReqs.filter (·.tag != n), prgFailed := s.md.prgFailed || !(code == 0 || code == 1) } ∧
      t.mem = s.mem ∧
      (∀ i : Fin 64, (s.queues.get i).page = some ⟨q.asid, q.page, false⟩ →
        (t.queues.get i).page = if code = 1 then some ⟨q.asid, q.page, true⟩ else none)) ∧
    (s.md.pageReqs.find? (·.tag == n) = none → exec (.prgResponse n code) s = .next s) ∧
    let meant (x : TlbEntry) : Prop := x.asid.toNat = asid ∧ x.va ≤ fld va 0 56 ∧ fld va 0 56 < x.va + x.size
    ((∃ x ∈ inUse s, meant x) → exec (.atsInvalidate asid va) s = .next s) ∧
    ((∀ x ∈ inUse s, ¬ meant x) → ∃ t, exec (.atsInvalidate asid va) s = .next t ∧
      (∀ x, x ∈ t.tlb ↔ x ∈ s.tlb ∧ ¬ meant x) ∧
      (∀ m ∈ t.migrating, m ∈ s.migrating) ∧
      (∀ m ∈ s.migrating, m.asid.toNat = asid → m.va = fld va 0 56 → m.done = true →
        (∀ y, y ∈ t.tlb ∨ y ∈ inUse s → leadsOld { s with tlb := t.tlb } m y = false) → m ∉ t.migrating) ∧
      (∀ m ∈ s.migrating, m.done = false → m ∈ t.migrating) ∧ t.mem = s.mem ∧ t.core = s.core) ∧
    (old ≠ new → (∀ m ∈ s.migrating, old ∉ [m.old, m.new] ∧ new ∉ [m.old, m.new]) →
      exec (.lineCommit ⟨a, va', old⟩ new false) s = .next { s with migrating := s.migrating ++ [⟨a, va', old, new, false⟩] } ∧
      exec (.lineCommit ⟨a, va', old⟩ new true) s = .next s) ∧
    (Memory.wf s.mem = true → hostFrom 0 s.hostMem = true → old ≠ new →
      s.migrating.find? (fun m => m.old == old || m.new == new || m.old == new || m.new == old) =
        some ⟨a, va', old, new, false⟩ → quiesced s (128 * old) = false → quiesced s (128 * new) = false → ∃ t, exec (.lineCommit ⟨a, va', old⟩ new true) s = .next t ∧
        (∀ i < 128, byteAt t (128 * new + i) = byteAt s (128 * old + i)) ∧
        (∀ k, (k < 128 * new ∨ 128 * new + 128 ≤ k) → byteAt t k = byteAt s k) ∧
        Memory.wf t.mem = true ∧ (⟨a, va', old, new, true⟩ : MigLine) ∈ t.migrating ∧
        (setHas new t.poison = setHas old s.poison) ∧
        t = { s with
          mem := t.mem, hostMem := t.hostMem, poison := t.poison, unmet := t.unmet, migrating := t.migrating })

/-- R263, R314, R440-R443, R446, R469, R470: other packages, page requests and migration. -/
def Obligations.RemoteAccessesAndPages : Prop :=
  Claims.RemoteAccessesAreServedOrTimeOut ∧ Claims.PagesAreAnsweredAndMigrate

/-! ## Encoding, the step, and what every step keeps (R7, R16-R19, R56-R73, R240, R264, R461, R462, R488) -/

/-- R56, R58, R372: words written out from the encoding tables decode to the instructions they stand for, in forms R,
I, M and S, on the CP and in a slot. -/
def Obligations.WrittenWordsDecodeToTheirInstruction : Prop :=
  let reads (w : Word) (i : Instr) : Prop := decodeTableWord 64 w.toNat = some i
  reads 0x0100C41400008000 (.add ⟨0, 3, 4, 5, 0, 0, 1, 0, 0, 0, 0⟩) ∧
    reads 0x1301C40400100040 (.addi ⟨0, 7, 4, 4, 0x00100040⟩) ∧
    reads 0x2D00C000FFFFFFFD (.loop ⟨0, 3, 0, 0, 0xFFFFFFFD⟩) ∧
    reads 0x4401050469050400 (.vfma ⟨0, 4, 5, 1, 6, 0x90, 10, 0, 0, 1, 0⟩) ∧
    reads 0x8000000800000000 (.tmmaMadd ⟨0, 0, 0, 2, 0, 0, 0, 0, 0, 0, 0⟩) ∧
    reads 0xB101470080000000 (.st ⟨0, 5, 7, 0, 4, 0, 0, 0, 0⟩) ∧
    reads 0xD001002000048000 (.sload ⟨0, 1, 0, 0, 0, 4, 0, 0, 0, 9, 0, 0, 0, 0⟩) ∧
    reads 0xE700410900000000 (.xchsys ⟨0, 1, 1, 9, 0⟩) ∧
    decodeSlot ⟨.s, 0, true⟩ 0xC600000200000000 = .ok (.barSync ⟨0, 0, 0, 2, 0⟩)

/-- R56-R72: for every instruction that passes every check in its place, decoding its word there gives it back, every
operand at every value that its encoding admits; in a slot as well as on the CP. -/
def Obligations.DecodingInvertsEncoding : Prop :=
  ∀ (e : Env) (i : Instr), WellFormed e i →
    decodeWord e (encode i) = .ok i ∧ (e.place ≠ .cp → decodeSlot e (encode i) = .ok i)

/-- R16-R19, R67, R72, R73: a step runs the word that its fetch and decoder give: on the CP the word at PC, which
traps or is passed over where R72 says so, with the bytes that memory holds there; of a bundle in issue its next slot
word, the bundle ending with its last; and, scheduled, an event. That a word that waits runs again as it was fetched,
and that a trap of the decoder carries the word's OPC, is deduced (log entry 30); that the walks of older accesses are
made before a word that may read the SRF is too (log entry 22). A CP with a cause to take is another statement's. The
list of events to come is the model's own (log entries 31, 32). -/
def Obligations.StepsRunTheDecodedWord : Prop :=
  ∀ (s x : State), slotFirst s = none →
    (CpActs s x → x.core.cp.run = .running → pendingNow x = false →
      let runs (w : Word) (y : State) : Prop :=
        let d := decodeWord ⟨.cp, 0, accepted y 0⟩ w
        let opc : BitVec 8 := w.extractLsb' 56 8
        (∀ i, d = .ok i → step s =
          exec i { y.withCp { y.core.cp with fetched := w } with place := .cp, limm := 0, scope := 0 }) ∧
        (d = .never → step s = .next (y.withCp { y.core.cp with pc := y.core.cp.pc + 8, wait := none })) ∧
        (∀ t, d = .bad t → step s = .next (takeSync y t opc y.core.cp.pc))
      ((∀ v, x.core.cp.wait = some v → v.pc ≠ x.core.cp.pc) → ∀ w y, fetchWord x = .ok (w, y) → runs w y) ∧
      (∀ v, x.core.cp.wait = some v → v.pc = x.core.cp.pc → runs x.core.cp.fetched x) ∧
      (∀ p y g, let pc := x.core.cp.pc
        let who : Access := { core := x.focus, asid := x.core.cp.asid, sup := x.core.cp.mode, fetch := true }
        pc.toNat % 8 = 0 → fld pc 56 8 = 0 → translate x who pc.toNat 8 = .ok (p, y) →
        p.lattice = 0 → p.pa / 2 ^ 41 = y.md.pkg.toNat → y.core = x.core → y.focus = x.focus →
        place y who pc.toNat p = .ok g → ∀ k o, g.loc = .stk y.md.pkg.toNat k o →
        let key := cellKey y y.md.pkg.toNat k o
        cachedWord y pc (key / 8) = none → bridgeCut y (coreDie y.focus) y.md.pkg.toNat k = false → quiesced y key = false → metPoison y key false = none →
          let w : Word := BitVec.ofNat 64 (leNat (locBytes y g.loc 8))
          fetchWord x = .ok (w, y.withCp { y.core.cp with
            icache := ⟨x.core.cp.asid, pc, w, key / 8, []⟩ ::
              y.core.cp.icache.filter fun z => !(z.asid == x.core.cp.asid && z.pc == pc) }))) ∧
    (∀ b n w rest i, let z := s.withKern { s.core.kern with issuing := some b }
      s.core.cp.run = .running → b.words = (n, w) :: rest → b.again = false →
      decodeSlot ⟨slotPlace n.toNat, b.limm, accepted s 0⟩ w = .ok i → ∀ t,
      let u := walksFirst z n.toNat
      exec i { u.withKern { u.core.kern with issuing := some b } with
        place := slotPlace n.toNat, limm := b.limm, scope := b.scope } = .next t →
      let t := { t with place := .cp }
      (∀ c, t.core.kern.issuing = some c → c.again = false →
        let c' := { c with words := c.words.drop 1 }
        (c'.words = [] → step z = .next (finishBundle t c')) ∧
        (c'.words ≠ [] → step z = .next (t.withKern { t.core.kern with issuing := some c' }))) ∧
        (∀ c, t.core.kern.issuing = some c → c.again = true → step z = .next t) ∧
        (t.core.kern.issuing = none → step z = .next t)) ∧
    (∀ i rest, s.agenda = .event i :: rest → Instr.raw i = none → step s = exec i (tick { s with agenda := rest }))

/-- R16, R24, R240, R445, R462, R488: the machine right after reset is in the form that every step keeps, with
MSTAT.STATE 0, no core granted, memory and SRF empty, and the reset values of the device registers. That memory and
SRFs list nothing and that no launch stands are the model's choice (log entry 1), the canonical form its own (log
entry 32); the other values are stated. -/
def Obligations.ResetHasTheStatedValues : Prop :=
  let s := State.reset
  let m := s.md
  Canonical s ∧ s.mem = [] ∧ s.core.srf = [] ∧ s.launches = [] ∧ s.core.prog = none ∧ s.core.cp.run = .off ∧
    m.mstate = 0 ∧ m.fails = 0 ∧ m.faccept = 0 ∧ m.pkg = 0 ∧ m.astBase = 0 ∧ m.astLen = 0 ∧ m.powerCap = 4000 ∧
    m.rtEntry = 0 ∧ m.errHead = 0 ∧ m.kbTimeout = 100 ∧ devRead s 0x20 = 0 ∧ devRead s 0x48 = 4000 ∧
    devRead s 0x20018 = 0xA0001 ∧ s.core.cp.mode = true ∧ s.core.cp.ie = false ∧
    s.core.cp.inTrap = false ∧ fld s.core.cp.cstat 16 5 = 24 ∧ s.core.kern.stState = 0

/-- R240, R264, R461, R488: every step keeps the form of memory, the host window, every SRF and the list of cores:
addresses strictly rising, no byte listed that reads as an unlisted one, each core listed once. The form is the
model's own (log entry 32): the rules give the memories and their reset, not how they are listed. -/
def Obligations.EveryStepKeepsTheCanonicalForm : Prop :=
  ∀ (s t : State), Canonical s → step s = .next t → Canonical t
end

