-- ==== Sys2Proof/Laws/State.lean ====
section
/-! SUPPORT. One lemma for each field of each update of State, so that no proof unfolds a record update. -/

namespace Sys2Proof.Machine


/-! `withCp` -/

@[simp] theorem State.withCp_focus (s : State) (c : CP) : (s.withCp c).focus = s.focus := rfl
@[simp] theorem State.withCp_parked (s : State) (c : CP) : (s.withCp c).parked = s.parked := rfl
@[simp] theorem State.withCp_place (s : State) (c : CP) : (s.withCp c).place = s.place := rfl
@[simp] theorem State.withCp_limm (s : State) (c : CP) : (s.withCp c).limm = s.limm := rfl
@[simp] theorem State.withCp_scope (s : State) (c : CP) : (s.withCp c).scope = s.scope := rfl
@[simp] theorem State.withCp_mem (s : State) (c : CP) : (s.withCp c).mem = s.mem := rfl
@[simp] theorem State.withCp_poison (s : State) (c : CP) : (s.withCp c).poison = s.poison := rfl
@[simp] theorem State.withCp_unmet (s : State) (c : CP) : (s.withCp c).unmet = s.unmet := rfl
@[simp] theorem State.withCp_hostMem (s : State) (c : CP) : (s.withCp c).hostMem = s.hostMem := rfl
@[simp] theorem State.withCp_hbm (s : State) (c : CP) : (s.withCp c).hbm = s.hbm := rfl
@[simp] theorem State.withCp_queues (s : State) (c : CP) : (s.withCp c).queues = s.queues := rfl
@[simp] theorem State.withCp_served (s : State) (c : CP) : (s.withCp c).served = s.served := rfl
@[simp] theorem State.withCp_launches (s : State) (c : CP) : (s.withCp c).launches = s.launches := rfl
@[simp] theorem State.withCp_nextLaunch (s : State) (c : CP) : (s.withCp c).nextLaunch = s.nextLaunch := rfl
@[simp] theorem State.withCp_channels (s : State) (c : CP) : (s.withCp c).channels = s.channels := rfl
@[simp] theorem State.withCp_lrt (s : State) (c : CP) : (s.withCp c).lrt = s.lrt := rfl
@[simp] theorem State.withCp_ports (s : State) (c : CP) : (s.withCp c).ports = s.ports := rfl
@[simp] theorem State.withCp_tlb (s : State) (c : CP) : (s.withCp c).tlb = s.tlb := rfl
@[simp] theorem State.withCp_migrating (s : State) (c : CP) : (s.withCp c).migrating = s.migrating := rfl
@[simp] theorem State.withCp_saved (s : State) (c : CP) : (s.withCp c).saved = s.saved := rfl
@[simp] theorem State.withCp_objErr (s : State) (c : CP) : (s.withCp c).objErr = s.objErr := rfl
@[simp] theorem State.withCp_md (s : State) (c : CP) : (s.withCp c).md = s.md := rfl
@[simp] theorem State.withCp_agenda (s : State) (c : CP) : (s.withCp c).agenda = s.agenda := rfl
@[simp] theorem State.withCp_clock (s : State) (c : CP) : (s.withCp c).clock = s.clock := rfl
@[simp] theorem State.withCp_fresh (s : State) (c : CP) : (s.withCp c).fresh = s.fresh := rfl
@[simp] theorem State.withCp_core_cp (s : State) (c : CP) : (s.withCp c).core.cp = c := rfl
@[simp] theorem State.withCp_core_kern (s : State) (c : CP) : (s.withCp c).core.kern = s.core.kern := rfl
@[simp] theorem State.withCp_core_st (s : State) (c : CP) : (s.withCp c).core.st = s.core.st := rfl
@[simp] theorem State.withCp_core_srf (s : State) (c : CP) : (s.withCp c).core.srf = s.core.srf := rfl
@[simp] theorem State.withCp_core_srfPoison (s : State) (c : CP) : (s.withCp c).core.srfPoison = s.core.srfPoison := rfl
@[simp] theorem State.withCp_core_prog (s : State) (c : CP) : (s.withCp c).core.prog = s.core.prog := rfl
@[simp] theorem State.withCp_core_arrQuad (s : State) (c : CP) : (s.withCp c).core.arrQuad = s.core.arrQuad := rfl
@[simp] theorem State.withCp_core_arrDie (s : State) (c : CP) : (s.withCp c).core.arrDie = s.core.arrDie := rfl
@[simp] theorem State.withCp_core_ctx (s : State) (c : CP) : (s.withCp c).core.ctx = s.core.ctx := rfl
@[simp] theorem State.withCp_core_fenced (s : State) (c : CP) : (s.withCp c).core.fenced = s.core.fenced := rfl
@[simp] theorem State.withCp_core_badBanks (s : State) (c : CP) : (s.withCp c).core.badBanks = s.core.badBanks := rfl
@[simp] theorem State.withCp_core_outOfService (s : State) (c : CP) :
    (s.withCp c).core.outOfService = s.core.outOfService := rfl
@[simp] theorem State.withCp_self (s : State) : s.withCp s.core.cp = s := rfl
@[simp] theorem State.withCp_withCp (s : State) (c c' : CP) : (s.withCp c).withCp c' = s.withCp c' := rfl

/-! `withKern` -/

@[simp] theorem State.withKern_focus (s : State) (k : Kern) : (s.withKern k).focus = s.focus := rfl
@[simp] theorem State.withKern_parked (s : State) (k : Kern) : (s.withKern k).parked = s.parked := rfl
@[simp] theorem State.withKern_place (s : State) (k : Kern) : (s.withKern k).place = s.place := rfl
@[simp] theorem State.withKern_limm (s : State) (k : Kern) : (s.withKern k).limm = s.limm := rfl
@[simp] theorem State.withKern_scope (s : State) (k : Kern) : (s.withKern k).scope = s.scope := rfl
@[simp] theorem State.withKern_mem (s : State) (k : Kern) : (s.withKern k).mem = s.mem := rfl
@[simp] theorem State.withKern_poison (s : State) (k : Kern) : (s.withKern k).poison = s.poison := rfl
@[simp] theorem State.withKern_unmet (s : State) (k : Kern) : (s.withKern k).unmet = s.unmet := rfl
@[simp] theorem State.withKern_hostMem (s : State) (k : Kern) : (s.withKern k).hostMem = s.hostMem := rfl
@[simp] theorem State.withKern_hbm (s : State) (k : Kern) : (s.withKern k).hbm = s.hbm := rfl
@[simp] theorem State.withKern_queues (s : State) (k : Kern) : (s.withKern k).queues = s.queues := rfl
@[simp] theorem State.withKern_served (s : State) (k : Kern) : (s.withKern k).served = s.served := rfl
@[simp] theorem State.withKern_launches (s : State) (k : Kern) : (s.withKern k).launches = s.launches := rfl
@[simp] theorem State.withKern_nextLaunch (s : State) (k : Kern) : (s.withKern k).nextLaunch = s.nextLaunch := rfl
@[simp] theorem State.withKern_channels (s : State) (k : Kern) : (s.withKern k).channels = s.channels := rfl
@[simp] theorem State.withKern_lrt (s : State) (k : Kern) : (s.withKern k).lrt = s.lrt := rfl
@[simp] theorem State.withKern_ports (s : State) (k : Kern) : (s.withKern k).ports = s.ports := rfl
@[simp] theorem State.withKern_tlb (s : State) (k : Kern) : (s.withKern k).tlb = s.tlb := rfl
@[simp] theorem State.withKern_migrating (s : State) (k : Kern) : (s.withKern k).migrating = s.migrating := rfl
@[simp] theorem State.withKern_saved (s : State) (k : Kern) : (s.withKern k).saved = s.saved := rfl
@[simp] theorem State.withKern_objErr (s : State) (k : Kern) : (s.withKern k).objErr = s.objErr := rfl
@[simp] theorem State.withKern_md (s : State) (k : Kern) : (s.withKern k).md = s.md := rfl
@[simp] theorem State.withKern_agenda (s : State) (k : Kern) : (s.withKern k).agenda = s.agenda := rfl
@[simp] theorem State.withKern_clock (s : State) (k : Kern) : (s.withKern k).clock = s.clock := rfl
@[simp] theorem State.withKern_fresh (s : State) (k : Kern) : (s.withKern k).fresh = s.fresh := rfl
@[simp] theorem State.withKern_core_cp (s : State) (k : Kern) : (s.withKern k).core.cp = s.core.cp := rfl
@[simp] theorem State.withKern_core_kern (s : State) (k : Kern) : (s.withKern k).core.kern = k := rfl
@[simp] theorem State.withKern_core_st (s : State) (k : Kern) : (s.withKern k).core.st = s.core.st := rfl
@[simp] theorem State.withKern_core_srf (s : State) (k : Kern) : (s.withKern k).core.srf = s.core.srf := rfl
@[simp] theorem State.withKern_core_srfPoison (s : State) (k : Kern) :
    (s.withKern k).core.srfPoison = s.core.srfPoison := rfl
@[simp] theorem State.withKern_core_prog (s : State) (k : Kern) : (s.withKern k).core.prog = s.core.prog := rfl
@[simp] theorem State.withKern_core_arrQuad (s : State) (k : Kern) : (s.withKern k).core.arrQuad = s.core.arrQuad := rfl
@[simp] theorem State.withKern_core_arrDie (s : State) (k : Kern) : (s.withKern k).core.arrDie = s.core.arrDie := rfl
@[simp] theorem State.withKern_core_ctx (s : State) (k : Kern) : (s.withKern k).core.ctx = s.core.ctx := rfl
@[simp] theorem State.withKern_core_fenced (s : State) (k : Kern) : (s.withKern k).core.fenced = s.core.fenced := rfl
@[simp] theorem State.withKern_core_badBanks (s : State) (k : Kern) :
    (s.withKern k).core.badBanks = s.core.badBanks := rfl
@[simp] theorem State.withKern_core_outOfService (s : State) (k : Kern) :
    (s.withKern k).core.outOfService = s.core.outOfService := rfl
@[simp] theorem State.withKern_self (s : State) : s.withKern s.core.kern = s := rfl
@[simp] theorem State.withKern_withKern (s : State) (k k' : Kern) : (s.withKern k).withKern k' = s.withKern k' := rfl

/-! `withSt` -/

@[simp] theorem State.withSt_focus (s : State) (u : StreamUnit) : (s.withSt u).focus = s.focus := rfl
@[simp] theorem State.withSt_parked (s : State) (u : StreamUnit) : (s.withSt u).parked = s.parked := rfl
@[simp] theorem State.withSt_place (s : State) (u : StreamUnit) : (s.withSt u).place = s.place := rfl
@[simp] theorem State.withSt_limm (s : State) (u : StreamUnit) : (s.withSt u).limm = s.limm := rfl
@[simp] theorem State.withSt_scope (s : State) (u : StreamUnit) : (s.withSt u).scope = s.scope := rfl
@[simp] theorem State.withSt_mem (s : State) (u : StreamUnit) : (s.withSt u).mem = s.mem := rfl
@[simp] theorem State.withSt_poison (s : State) (u : StreamUnit) : (s.withSt u).poison = s.poison := rfl
@[simp] theorem State.withSt_unmet (s : State) (u : StreamUnit) : (s.withSt u).unmet = s.unmet := rfl
@[simp] theorem State.withSt_hostMem (s : State) (u : StreamUnit) : (s.withSt u).hostMem = s.hostMem := rfl
@[simp] theorem State.withSt_hbm (s : State) (u : StreamUnit) : (s.withSt u).hbm = s.hbm := rfl
@[simp] theorem State.withSt_queues (s : State) (u : StreamUnit) : (s.withSt u).queues = s.queues := rfl
@[simp] theorem State.withSt_served (s : State) (u : StreamUnit) : (s.withSt u).served = s.served := rfl
@[simp] theorem State.withSt_launches (s : State) (u : StreamUnit) : (s.withSt u).launches = s.launches := rfl
@[simp] theorem State.withSt_nextLaunch (s : State) (u : StreamUnit) : (s.withSt u).nextLaunch = s.nextLaunch := rfl
@[simp] theorem State.withSt_channels (s : State) (u : StreamUnit) : (s.withSt u).channels = s.channels := rfl
@[simp] theorem State.withSt_lrt (s : State) (u : StreamUnit) : (s.withSt u).lrt = s.lrt := rfl
@[simp] theorem State.withSt_ports (s : State) (u : StreamUnit) : (s.withSt u).ports = s.ports := rfl
@[simp] theorem State.withSt_tlb (s : State) (u : StreamUnit) : (s.withSt u).tlb = s.tlb := rfl
@[simp] theorem State.withSt_migrating (s : State) (u : StreamUnit) : (s.withSt u).migrating = s.migrating := rfl
@[simp] theorem State.withSt_saved (s : State) (u : StreamUnit) : (s.withSt u).saved = s.saved := rfl
@[simp] theorem State.withSt_objErr (s : State) (u : StreamUnit) : (s.withSt u).objErr = s.objErr := rfl
@[simp] theorem State.withSt_md (s : State) (u : StreamUnit) : (s.withSt u).md = s.md := rfl
@[simp] theorem State.withSt_agenda (s : State) (u : StreamUnit) : (s.withSt u).agenda = s.agenda := rfl
@[simp] theorem State.withSt_clock (s : State) (u : StreamUnit) : (s.withSt u).clock = s.clock := rfl
@[simp] theorem State.withSt_fresh (s : State) (u : StreamUnit) : (s.withSt u).fresh = s.fresh := rfl
@[simp] theorem State.withSt_core_cp (s : State) (u : StreamUnit) : (s.withSt u).core.cp = s.core.cp := rfl
@[simp] theorem State.withSt_core_kern (s : State) (u : StreamUnit) : (s.withSt u).core.kern = s.core.kern := rfl
@[simp] theorem State.withSt_core_st (s : State) (u : StreamUnit) : (s.withSt u).core.st = u := rfl
@[simp] theorem State.withSt_core_srf (s : State) (u : StreamUnit) : (s.withSt u).core.srf = s.core.srf := rfl
@[simp] theorem State.withSt_core_srfPoison (s : State) (u : StreamUnit) :
    (s.withSt u).core.srfPoison = s.core.srfPoison := rfl
@[simp] theorem State.withSt_core_prog (s : State) (u : StreamUnit) : (s.withSt u).core.prog = s.core.prog := rfl
@[simp] theorem State.withSt_core_arrQuad (s : State) (u : StreamUnit) :
    (s.withSt u).core.arrQuad = s.core.arrQuad := rfl
@[simp] theorem State.withSt_core_arrDie (s : State) (u : StreamUnit) : (s.withSt u).core.arrDie = s.core.arrDie := rfl
@[simp] theorem State.withSt_core_ctx (s : State) (u : StreamUnit) : (s.withSt u).core.ctx = s.core.ctx := rfl
@[simp] theorem State.withSt_core_fenced (s : State) (u : StreamUnit) : (s.withSt u).core.fenced = s.core.fenced := rfl
@[simp] theorem State.withSt_core_badBanks (s : State) (u : StreamUnit) :
    (s.withSt u).core.badBanks = s.core.badBanks := rfl
@[simp] theorem State.withSt_core_outOfService (s : State) (u : StreamUnit) :
    (s.withSt u).core.outOfService = s.core.outOfService := rfl
@[simp] theorem State.withSt_self (s : State) : s.withSt s.core.st = s := rfl
@[simp] theorem State.withSt_withSt (s : State) (u u' : StreamUnit) : (s.withSt u).withSt u' = s.withSt u' := rfl

/-! `onCp`, `onKern`, `onSt`, `onMd` -/

@[simp] theorem State.onCp_eq (s : State) (f : CP → CP) : s.onCp f = s.withCp (f s.core.cp) := rfl
@[simp] theorem State.onKern_eq (s : State) (f : Kern → Kern) : s.onKern f = s.withKern (f s.core.kern) := rfl
@[simp] theorem State.onSt_eq (s : State) (f : StreamUnit → StreamUnit) : s.onSt f = s.withSt (f s.core.st) := rfl
@[simp] theorem State.onMd_focus (s : State) (f : Module → Module) : (s.onMd f).focus = s.focus := rfl
@[simp] theorem State.onMd_core (s : State) (f : Module → Module) : (s.onMd f).core = s.core := rfl
@[simp] theorem State.onMd_parked (s : State) (f : Module → Module) : (s.onMd f).parked = s.parked := rfl
@[simp] theorem State.onMd_place (s : State) (f : Module → Module) : (s.onMd f).place = s.place := rfl
@[simp] theorem State.onMd_limm (s : State) (f : Module → Module) : (s.onMd f).limm = s.limm := rfl
@[simp] theorem State.onMd_scope (s : State) (f : Module → Module) : (s.onMd f).scope = s.scope := rfl
@[simp] theorem State.onMd_mem (s : State) (f : Module → Module) : (s.onMd f).mem = s.mem := rfl
@[simp] theorem State.onMd_poison (s : State) (f : Module → Module) : (s.onMd f).poison = s.poison := rfl
@[simp] theorem State.onMd_unmet (s : State) (f : Module → Module) : (s.onMd f).unmet = s.unmet := rfl
@[simp] theorem State.onMd_hostMem (s : State) (f : Module → Module) : (s.onMd f).hostMem = s.hostMem := rfl
@[simp] theorem State.onMd_hbm (s : State) (f : Module → Module) : (s.onMd f).hbm = s.hbm := rfl
@[simp] theorem State.onMd_queues (s : State) (f : Module → Module) : (s.onMd f).queues = s.queues := rfl
@[simp] theorem State.onMd_served (s : State) (f : Module → Module) : (s.onMd f).served = s.served := rfl
@[simp] theorem State.onMd_launches (s : State) (f : Module → Module) : (s.onMd f).launches = s.launches := rfl
@[simp] theorem State.onMd_nextLaunch (s : State) (f : Module → Module) : (s.onMd f).nextLaunch = s.nextLaunch := rfl
@[simp] theorem State.onMd_channels (s : State) (f : Module → Module) : (s.onMd f).channels = s.channels := rfl
@[simp] theorem State.onMd_lrt (s : State) (f : Module → Module) : (s.onMd f).lrt = s.lrt := rfl
@[simp] theorem State.onMd_ports (s : State) (f : Module → Module) : (s.onMd f).ports = s.ports := rfl
@[simp] theorem State.onMd_tlb (s : State) (f : Module → Module) : (s.onMd f).tlb = s.tlb := rfl
@[simp] theorem State.onMd_migrating (s : State) (f : Module → Module) : (s.onMd f).migrating = s.migrating := rfl
@[simp] theorem State.onMd_saved (s : State) (f : Module → Module) : (s.onMd f).saved = s.saved := rfl
@[simp] theorem State.onMd_objErr (s : State) (f : Module → Module) : (s.onMd f).objErr = s.objErr := rfl
@[simp] theorem State.onMd_md (s : State) (f : Module → Module) : (s.onMd f).md = f s.md := rfl
@[simp] theorem State.onMd_agenda (s : State) (f : Module → Module) : (s.onMd f).agenda = s.agenda := rfl
@[simp] theorem State.onMd_clock (s : State) (f : Module → Module) : (s.onMd f).clock = s.clock := rfl
@[simp] theorem State.onMd_fresh (s : State) (f : Module → Module) : (s.onMd f).fresh = s.fresh := rfl

/-! Kernel updates -/

@[simp] theorem Kern.setState_k (k : Kern) (n : Nat) : (k.setState n).k = k.k := rfl
@[simp] theorem Kern.setState_p (k : Kern) (n : Nat) : (k.setState n).p = k.p := rfl
@[simp] theorem Kern.setState_v (k : Kern) (n : Nat) : (k.setState n).v = k.v := rfl
@[simp] theorem Kern.setState_m (k : Kern) (n : Nat) : (k.setState n).m = k.m := rfl
@[simp] theorem Kern.setState_acc (k : Kern) (n : Nat) : (k.setState n).acc = k.acc := rfl
@[simp] theorem Kern.setState_latch (k : Kern) (n : Nat) : (k.setState n).latch = k.latch := rfl
@[simp] theorem Kern.setState_lflags (k : Kern) (n : Nat) : (k.setState n).lflags = k.lflags := rfl
@[simp] theorem Kern.setState_kpc (k : Kern) (n : Nat) : (k.setState n).kpc = k.kpc := rfl
@[simp] theorem Kern.setState_kdtarget (k : Kern) (n : Nat) : (k.setState n).kdtarget = k.kdtarget := rfl
@[simp] theorem Kern.setState_kcause (k : Kern) (n : Nat) : (k.setState n).kcause = k.kcause := rfl
@[simp] theorem Kern.setState_kinfo (k : Kern) (n : Nat) : (k.setState n).kinfo = k.kinfo := rfl
@[simp] theorem Kern.setState_kflags (k : Kern) (n : Nat) : (k.setState n).kflags = k.kflags := rfl
@[simp] theorem Kern.setState_store (k : Kern) (n : Nat) : (k.setState n).store = k.store := rfl
@[simp] theorem Kern.setState_ktime (k : Kern) (n : Nat) : (k.setState n).ktime = k.ktime := rfl
@[simp] theorem Kern.setState_nextIssue (k : Kern) (n : Nat) : (k.setState n).nextIssue = k.nextIssue := rfl
@[simp] theorem Kern.setState_nextPc (k : Kern) (n : Nat) : (k.setState n).nextPc = k.nextPc := rfl
@[simp] theorem Kern.setState_resume (k : Kern) (n : Nat) : (k.setState n).resume = k.resume := rfl
@[simp] theorem Kern.setState_seq (k : Kern) (n : Nat) : (k.setState n).seq = k.seq := rfl
@[simp] theorem Kern.setState_pend (k : Kern) (n : Nat) : (k.setState n).pend = k.pend := rfl
@[simp] theorem Kern.setState_landing (k : Kern) (n : Nat) : (k.setState n).landing = k.landing := rfl
@[simp] theorem Kern.setState_wqueue (k : Kern) (n : Nat) : (k.setState n).wqueue = k.wqueue := rfl
@[simp] theorem Kern.setState_passes (k : Kern) (n : Nat) : (k.setState n).passes = k.passes := rfl
@[simp] theorem Kern.setState_xforms (k : Kern) (n : Nat) : (k.setState n).xforms = k.xforms := rfl
@[simp] theorem Kern.setState_busy (k : Kern) (n : Nat) : (k.setState n).busy = k.busy := rfl
@[simp] theorem Kern.setState_fenceRel (k : Kern) (n : Nat) : (k.setState n).fenceRel = k.fenceRel := rfl
@[simp] theorem Kern.setState_freeze (k : Kern) (n : Nat) : (k.setState n).freeze = k.freeze := rfl
@[simp] theorem Kern.setState_held (k : Kern) (n : Nat) : (k.setState n).held = k.held := rfl
@[simp] theorem Kern.setState_issuing (k : Kern) (n : Nat) : (k.setState n).issuing = k.issuing := rfl
@[simp] theorem Kern.setState_stop (k : Kern) (n : Nat) : (k.setState n).stop = k.stop := rfl
@[simp] theorem Kern.setState_fault (k : Kern) (n : Nat) : (k.setState n).fault = k.fault := rfl
@[simp] theorem Kern.setState_krun (k : Kern) (n : Nat) : (k.setState n).krun = k.krun := rfl
@[simp] theorem Kern.setState_preStop (k : Kern) (n : Nat) : (k.setState n).preStop = k.preStop := rfl
@[simp] theorem Kern.setResume_k (k : Kern) (n : Nat) : (k.setResume n).k = k.k := rfl
@[simp] theorem Kern.setResume_p (k : Kern) (n : Nat) : (k.setResume n).p = k.p := rfl
@[simp] theorem Kern.setResume_v (k : Kern) (n : Nat) : (k.setResume n).v = k.v := rfl
@[simp] theorem Kern.setResume_m (k : Kern) (n : Nat) : (k.setResume n).m = k.m := rfl
@[simp] theorem Kern.setResume_acc (k : Kern) (n : Nat) : (k.setResume n).acc = k.acc := rfl
@[simp] theorem Kern.setResume_latch (k : Kern) (n : Nat) : (k.setResume n).latch = k.latch := rfl
@[simp] theorem Kern.setResume_lflags (k : Kern) (n : Nat) : (k.setResume n).lflags = k.lflags := rfl
@[simp] theorem Kern.setResume_kpc (k : Kern) (n : Nat) : (k.setResume n).kpc = k.kpc := rfl
@[simp] theorem Kern.setResume_kdtarget (k : Kern) (n : Nat) : (k.setResume n).kdtarget = k.kdtarget := rfl
@[simp] theorem Kern.setResume_kcause (k : Kern) (n : Nat) : (k.setResume n).kcause = k.kcause := rfl
@[simp] theorem Kern.setResume_kinfo (k : Kern) (n : Nat) : (k.setResume n).kinfo = k.kinfo := rfl
@[simp] theorem Kern.setResume_kflags (k : Kern) (n : Nat) : (k.setResume n).kflags = k.kflags := rfl
@[simp] theorem Kern.setResume_store (k : Kern) (n : Nat) : (k.setResume n).store = k.store := rfl
@[simp] theorem Kern.setResume_ktime (k : Kern) (n : Nat) : (k.setResume n).ktime = k.ktime := rfl
@[simp] theorem Kern.setResume_nextIssue (k : Kern) (n : Nat) : (k.setResume n).nextIssue = k.nextIssue := rfl
@[simp] theorem Kern.setResume_nextPc (k : Kern) (n : Nat) : (k.setResume n).nextPc = k.nextPc := rfl
@[simp] theorem Kern.setResume_resume (k : Kern) (n : Nat) : (k.setResume n).resume = k.resume := rfl
@[simp] theorem Kern.setResume_seq (k : Kern) (n : Nat) : (k.setResume n).seq = k.seq := rfl
@[simp] theorem Kern.setResume_pend (k : Kern) (n : Nat) : (k.setResume n).pend = k.pend := rfl
@[simp] theorem Kern.setResume_landing (k : Kern) (n : Nat) : (k.setResume n).landing = k.landing := rfl
@[simp] theorem Kern.setResume_wqueue (k : Kern) (n : Nat) : (k.setResume n).wqueue = k.wqueue := rfl
@[simp] theorem Kern.setResume_passes (k : Kern) (n : Nat) : (k.setResume n).passes = k.passes := rfl
@[simp] theorem Kern.setResume_xforms (k : Kern) (n : Nat) : (k.setResume n).xforms = k.xforms := rfl
@[simp] theorem Kern.setResume_busy (k : Kern) (n : Nat) : (k.setResume n).busy = k.busy := rfl
@[simp] theorem Kern.setResume_fenceRel (k : Kern) (n : Nat) : (k.setResume n).fenceRel = k.fenceRel := rfl
@[simp] theorem Kern.setResume_freeze (k : Kern) (n : Nat) : (k.setResume n).freeze = k.freeze := rfl
@[simp] theorem Kern.setResume_held (k : Kern) (n : Nat) : (k.setResume n).held = k.held := rfl
@[simp] theorem Kern.setResume_issuing (k : Kern) (n : Nat) : (k.setResume n).issuing = k.issuing := rfl
@[simp] theorem Kern.setResume_stop (k : Kern) (n : Nat) : (k.setResume n).stop = k.stop := rfl
@[simp] theorem Kern.setResume_fault (k : Kern) (n : Nat) : (k.setResume n).fault = k.fault := rfl
@[simp] theorem Kern.setResume_krun (k : Kern) (n : Nat) : (k.setResume n).krun = k.krun := rfl
@[simp] theorem Kern.setResume_preStop (k : Kern) (n : Nat) : (k.setResume n).preStop = k.preStop := rfl
@[simp] theorem Kern.setDelay_k (k : Kern) (n : Nat) : (k.setDelay n).k = k.k := rfl
@[simp] theorem Kern.setDelay_p (k : Kern) (n : Nat) : (k.setDelay n).p = k.p := rfl
@[simp] theorem Kern.setDelay_v (k : Kern) (n : Nat) : (k.setDelay n).v = k.v := rfl
@[simp] theorem Kern.setDelay_m (k : Kern) (n : Nat) : (k.setDelay n).m = k.m := rfl
@[simp] theorem Kern.setDelay_acc (k : Kern) (n : Nat) : (k.setDelay n).acc = k.acc := rfl
@[simp] theorem Kern.setDelay_latch (k : Kern) (n : Nat) : (k.setDelay n).latch = k.latch := rfl
@[simp] theorem Kern.setDelay_lflags (k : Kern) (n : Nat) : (k.setDelay n).lflags = k.lflags := rfl
@[simp] theorem Kern.setDelay_kpc (k : Kern) (n : Nat) : (k.setDelay n).kpc = k.kpc := rfl
@[simp] theorem Kern.setDelay_kdtarget (k : Kern) (n : Nat) : (k.setDelay n).kdtarget = k.kdtarget := rfl
@[simp] theorem Kern.setDelay_kcause (k : Kern) (n : Nat) : (k.setDelay n).kcause = k.kcause := rfl
@[simp] theorem Kern.setDelay_kinfo (k : Kern) (n : Nat) : (k.setDelay n).kinfo = k.kinfo := rfl
@[simp] theorem Kern.setDelay_kflags (k : Kern) (n : Nat) : (k.setDelay n).kflags = k.kflags := rfl
@[simp] theorem Kern.setDelay_store (k : Kern) (n : Nat) : (k.setDelay n).store = k.store := rfl
@[simp] theorem Kern.setDelay_ktime (k : Kern) (n : Nat) : (k.setDelay n).ktime = k.ktime := rfl
@[simp] theorem Kern.setDelay_nextIssue (k : Kern) (n : Nat) : (k.setDelay n).nextIssue = k.nextIssue := rfl
@[simp] theorem Kern.setDelay_nextPc (k : Kern) (n : Nat) : (k.setDelay n).nextPc = k.nextPc := rfl
@[simp] theorem Kern.setDelay_resume (k : Kern) (n : Nat) : (k.setDelay n).resume = k.resume := rfl
@[simp] theorem Kern.setDelay_seq (k : Kern) (n : Nat) : (k.setDelay n).seq = k.seq := rfl
@[simp] theorem Kern.setDelay_pend (k : Kern) (n : Nat) : (k.setDelay n).pend = k.pend := rfl
@[simp] theorem Kern.setDelay_landing (k : Kern) (n : Nat) : (k.setDelay n).landing = k.landing := rfl
@[simp] theorem Kern.setDelay_wqueue (k : Kern) (n : Nat) : (k.setDelay n).wqueue = k.wqueue := rfl
@[simp] theorem Kern.setDelay_passes (k : Kern) (n : Nat) : (k.setDelay n).passes = k.passes := rfl
@[simp] theorem Kern.setDelay_xforms (k : Kern) (n : Nat) : (k.setDelay n).xforms = k.xforms := rfl
@[simp] theorem Kern.setDelay_busy (k : Kern) (n : Nat) : (k.setDelay n).busy = k.busy := rfl
@[simp] theorem Kern.setDelay_fenceRel (k : Kern) (n : Nat) : (k.setDelay n).fenceRel = k.fenceRel := rfl
@[simp] theorem Kern.setDelay_freeze (k : Kern) (n : Nat) : (k.setDelay n).freeze = k.freeze := rfl
@[simp] theorem Kern.setDelay_held (k : Kern) (n : Nat) : (k.setDelay n).held = k.held := rfl
@[simp] theorem Kern.setDelay_issuing (k : Kern) (n : Nat) : (k.setDelay n).issuing = k.issuing := rfl
@[simp] theorem Kern.setDelay_stop (k : Kern) (n : Nat) : (k.setDelay n).stop = k.stop := rfl
@[simp] theorem Kern.setDelay_fault (k : Kern) (n : Nat) : (k.setDelay n).fault = k.fault := rfl
@[simp] theorem Kern.setDelay_krun (k : Kern) (n : Nat) : (k.setDelay n).krun = k.krun := rfl
@[simp] theorem Kern.setDelay_preStop (k : Kern) (n : Nat) : (k.setDelay n).preStop = k.preStop := rfl
@[simp] theorem Kern.setEnd_k (k : Kern) (n : Nat) : (k.setEnd n).k = k.k := rfl
@[simp] theorem Kern.setEnd_p (k : Kern) (n : Nat) : (k.setEnd n).p = k.p := rfl
@[simp] theorem Kern.setEnd_v (k : Kern) (n : Nat) : (k.setEnd n).v = k.v := rfl
@[simp] theorem Kern.setEnd_m (k : Kern) (n : Nat) : (k.setEnd n).m = k.m := rfl
@[simp] theorem Kern.setEnd_acc (k : Kern) (n : Nat) : (k.setEnd n).acc = k.acc := rfl
@[simp] theorem Kern.setEnd_latch (k : Kern) (n : Nat) : (k.setEnd n).latch = k.latch := rfl
@[simp] theorem Kern.setEnd_lflags (k : Kern) (n : Nat) : (k.setEnd n).lflags = k.lflags := rfl
@[simp] theorem Kern.setEnd_kpc (k : Kern) (n : Nat) : (k.setEnd n).kpc = k.kpc := rfl
@[simp] theorem Kern.setEnd_kdtarget (k : Kern) (n : Nat) : (k.setEnd n).kdtarget = k.kdtarget := rfl
@[simp] theorem Kern.setEnd_kcause (k : Kern) (n : Nat) : (k.setEnd n).kcause = k.kcause := rfl
@[simp] theorem Kern.setEnd_kinfo (k : Kern) (n : Nat) : (k.setEnd n).kinfo = k.kinfo := rfl
@[simp] theorem Kern.setEnd_kflags (k : Kern) (n : Nat) : (k.setEnd n).kflags = k.kflags := rfl
@[simp] theorem Kern.setEnd_store (k : Kern) (n : Nat) : (k.setEnd n).store = k.store := rfl
@[simp] theorem Kern.setEnd_ktime (k : Kern) (n : Nat) : (k.setEnd n).ktime = k.ktime := rfl
@[simp] theorem Kern.setEnd_nextIssue (k : Kern) (n : Nat) : (k.setEnd n).nextIssue = k.nextIssue := rfl
@[simp] theorem Kern.setEnd_nextPc (k : Kern) (n : Nat) : (k.setEnd n).nextPc = k.nextPc := rfl
@[simp] theorem Kern.setEnd_resume (k : Kern) (n : Nat) : (k.setEnd n).resume = k.resume := rfl
@[simp] theorem Kern.setEnd_seq (k : Kern) (n : Nat) : (k.setEnd n).seq = k.seq := rfl
@[simp] theorem Kern.setEnd_pend (k : Kern) (n : Nat) : (k.setEnd n).pend = k.pend := rfl
@[simp] theorem Kern.setEnd_landing (k : Kern) (n : Nat) : (k.setEnd n).landing = k.landing := rfl
@[simp] theorem Kern.setEnd_wqueue (k : Kern) (n : Nat) : (k.setEnd n).wqueue = k.wqueue := rfl
@[simp] theorem Kern.setEnd_passes (k : Kern) (n : Nat) : (k.setEnd n).passes = k.passes := rfl
@[simp] theorem Kern.setEnd_xforms (k : Kern) (n : Nat) : (k.setEnd n).xforms = k.xforms := rfl
@[simp] theorem Kern.setEnd_busy (k : Kern) (n : Nat) : (k.setEnd n).busy = k.busy := rfl
@[simp] theorem Kern.setEnd_fenceRel (k : Kern) (n : Nat) : (k.setEnd n).fenceRel = k.fenceRel := rfl
@[simp] theorem Kern.setEnd_freeze (k : Kern) (n : Nat) : (k.setEnd n).freeze = k.freeze := rfl
@[simp] theorem Kern.setEnd_held (k : Kern) (n : Nat) : (k.setEnd n).held = k.held := rfl
@[simp] theorem Kern.setEnd_issuing (k : Kern) (n : Nat) : (k.setEnd n).issuing = k.issuing := rfl
@[simp] theorem Kern.setEnd_stop (k : Kern) (n : Nat) : (k.setEnd n).stop = k.stop := rfl
@[simp] theorem Kern.setEnd_fault (k : Kern) (n : Nat) : (k.setEnd n).fault = k.fault := rfl
@[simp] theorem Kern.setEnd_krun (k : Kern) (n : Nat) : (k.setEnd n).krun = k.krun := rfl
@[simp] theorem Kern.setEnd_preStop (k : Kern) (n : Nat) : (k.setEnd n).preStop = k.preStop := rfl

/-! Words that end: `advance`, `stayHere`, `pushWrite` -/

@[simp] theorem advance_focus (s : State) : (advance s).focus = s.focus := rfl
@[simp] theorem advance_parked (s : State) : (advance s).parked = s.parked := rfl
@[simp] theorem advance_place (s : State) : (advance s).place = s.place := rfl
@[simp] theorem advance_limm (s : State) : (advance s).limm = s.limm := rfl
@[simp] theorem advance_scope (s : State) : (advance s).scope = s.scope := rfl
@[simp] theorem advance_mem (s : State) : (advance s).mem = s.mem := rfl
@[simp] theorem advance_poison (s : State) : (advance s).poison = s.poison := rfl
@[simp] theorem advance_unmet (s : State) : (advance s).unmet = s.unmet := rfl
@[simp] theorem advance_hostMem (s : State) : (advance s).hostMem = s.hostMem := rfl
@[simp] theorem advance_hbm (s : State) : (advance s).hbm = s.hbm := rfl
@[simp] theorem advance_queues (s : State) : (advance s).queues = s.queues := rfl
@[simp] theorem advance_served (s : State) : (advance s).served = s.served := rfl
@[simp] theorem advance_launches (s : State) : (advance s).launches = s.launches := rfl
@[simp] theorem advance_nextLaunch (s : State) : (advance s).nextLaunch = s.nextLaunch := rfl
@[simp] theorem advance_channels (s : State) : (advance s).channels = s.channels := rfl
@[simp] theorem advance_lrt (s : State) : (advance s).lrt = s.lrt := rfl
@[simp] theorem advance_ports (s : State) : (advance s).ports = s.ports := rfl
@[simp] theorem advance_tlb (s : State) : (advance s).tlb = s.tlb := rfl
@[simp] theorem advance_migrating (s : State) : (advance s).migrating = s.migrating := rfl
@[simp] theorem advance_saved (s : State) : (advance s).saved = s.saved := rfl
@[simp] theorem advance_objErr (s : State) : (advance s).objErr = s.objErr := rfl
@[simp] theorem advance_md (s : State) : (advance s).md = s.md := rfl
@[simp] theorem advance_agenda (s : State) : (advance s).agenda = s.agenda := rfl
@[simp] theorem advance_clock (s : State) : (advance s).clock = s.clock := rfl
@[simp] theorem advance_fresh (s : State) : (advance s).fresh = s.fresh := rfl
@[simp] theorem advance_core_kern (s : State) : (advance s).core.kern = s.core.kern := rfl
@[simp] theorem advance_core_st (s : State) : (advance s).core.st = s.core.st := rfl
@[simp] theorem advance_core_srf (s : State) : (advance s).core.srf = s.core.srf := rfl
@[simp] theorem advance_core_srfPoison (s : State) : (advance s).core.srfPoison = s.core.srfPoison := rfl
@[simp] theorem advance_core_prog (s : State) : (advance s).core.prog = s.core.prog := rfl
@[simp] theorem advance_core_arrQuad (s : State) : (advance s).core.arrQuad = s.core.arrQuad := rfl
@[simp] theorem advance_core_arrDie (s : State) : (advance s).core.arrDie = s.core.arrDie := rfl
@[simp] theorem advance_core_ctx (s : State) : (advance s).core.ctx = s.core.ctx := rfl
@[simp] theorem advance_core_fenced (s : State) : (advance s).core.fenced = s.core.fenced := rfl
@[simp] theorem advance_core_badBanks (s : State) : (advance s).core.badBanks = s.core.badBanks := rfl
@[simp] theorem advance_core_outOfService (s : State) : (advance s).core.outOfService = s.core.outOfService := rfl
@[simp] theorem advance_cp_g (s : State) : (advance s).core.cp.g = s.core.cp.g := rfl
@[simp] theorem advance_cp_p (s : State) : (advance s).core.cp.p = s.core.cp.p := rfl
@[simp] theorem advance_cp_pc (s : State) : (advance s).core.cp.pc = s.core.cp.pc + 8 := rfl
@[simp] theorem advance_cp_cstat (s : State) : (advance s).core.cp.cstat = s.core.cp.cstat := rfl
@[simp] theorem advance_cp_csave (s : State) : (advance s).core.cp.csave = s.core.cp.csave := rfl
@[simp] theorem advance_cp_ctvec (s : State) : (advance s).core.cp.ctvec = s.core.cp.ctvec := rfl
@[simp] theorem advance_cp_ctpc (s : State) : (advance s).core.cp.ctpc = s.core.cp.ctpc := rfl
@[simp] theorem advance_cp_ccause (s : State) : (advance s).core.cp.ccause = s.core.cp.ccause := rfl
@[simp] theorem advance_cp_ctaddr (s : State) : (advance s).core.cp.ctaddr = s.core.cp.ctaddr := rfl
@[simp] theorem advance_cp_ctinfo (s : State) : (advance s).core.cp.ctinfo = s.core.cp.ctinfo := rfl
@[simp] theorem advance_cp_cscratch (s : State) : (advance s).core.cp.cscratch = s.core.cp.cscratch := rfl
@[simp] theorem advance_cp_casid (s : State) : (advance s).core.cp.casid = s.core.cp.casid := rfl
@[simp] theorem advance_cp_cflags (s : State) : (advance s).core.cp.cflags = s.core.cp.cflags := rfl
@[simp] theorem advance_cp_run (s : State) : (advance s).core.cp.run = s.core.cp.run := rfl
@[simp] theorem advance_cp_pending (s : State) : (advance s).core.cp.pending = s.core.cp.pending := rfl
@[simp] theorem advance_cp_wait (s : State) : (advance s).core.cp.wait = none := rfl
@[simp] theorem advance_cp_work (s : State) : (advance s).core.cp.work = s.core.cp.work := rfl
@[simp] theorem advance_cp_icache (s : State) : (advance s).core.cp.icache = s.core.cp.icache := rfl
@[simp] theorem advance_cp_vecSet (s : State) : (advance s).core.cp.vecSet = s.core.cp.vecSet := rfl
@[simp] theorem advance_cp_remote (s : State) : (advance s).core.cp.remote = s.core.cp.remote := rfl
@[simp] theorem advance_cp_fetched (s : State) : (advance s).core.cp.fetched = s.core.cp.fetched := rfl
@[simp] theorem stayHere_focus (s : State) (h b : Bool) (o : BitVec 8) (a : Option Word) :
    (stayHere s h b o a).focus = s.focus := rfl
@[simp] theorem stayHere_parked (s : State) (h b : Bool) (o : BitVec 8) (a : Option Word) :
    (stayHere s h b o a).parked = s.parked := rfl
@[simp] theorem stayHere_place (s : State) (h b : Bool) (o : BitVec 8) (a : Option Word) :
    (stayHere s h b o a).place = s.place := rfl
@[simp] theorem stayHere_limm (s : State) (h b : Bool) (o : BitVec 8) (a : Option Word) :
    (stayHere s h b o a).limm = s.limm := rfl
@[simp] theorem stayHere_scope (s : State) (h b : Bool) (o : BitVec 8) (a : Option Word) :
    (stayHere s h b o a).scope = s.scope := rfl
@[simp] theorem stayHere_mem (s : State) (h b : Bool) (o : BitVec 8) (a : Option Word) :
    (stayHere s h b o a).mem = s.mem := rfl
@[simp] theorem stayHere_poison (s : State) (h b : Bool) (o : BitVec 8) (a : Option Word) :
    (stayHere s h b o a).poison = s.poison := rfl
@[simp] theorem stayHere_unmet (s : State) (h b : Bool) (o : BitVec 8) (a : Option Word) :
    (stayHere s h b o a).unmet = s.unmet := rfl
@[simp] theorem stayHere_hostMem (s : State) (h b : Bool) (o : BitVec 8) (a : Option Word) :
    (stayHere s h b o a).hostMem = s.hostMem := rfl
@[simp] theorem stayHere_hbm (s : State) (h b : Bool) (o : BitVec 8) (a : Option Word) :
    (stayHere s h b o a).hbm = s.hbm := rfl
@[simp] theorem stayHere_queues (s : State) (h b : Bool) (o : BitVec 8) (a : Option Word) :
    (stayHere s h b o a).queues = s.queues := rfl
@[simp] theorem stayHere_served (s : State) (h b : Bool) (o : BitVec 8) (a : Option Word) :
    (stayHere s h b o a).served = s.served := rfl
@[simp] theorem stayHere_launches (s : State) (h b : Bool) (o : BitVec 8) (a : Option Word) :
    (stayHere s h b o a).launches = s.launches := rfl
@[simp] theorem stayHere_nextLaunch (s : State) (h b : Bool) (o : BitVec 8) (a : Option Word) :
    (stayHere s h b o a).nextLaunch = s.nextLaunch := rfl
@[simp] theorem stayHere_channels (s : State) (h b : Bool) (o : BitVec 8) (a : Option Word) :
    (stayHere s h b o a).channels = s.channels := rfl
@[simp] theorem stayHere_lrt (s : State) (h b : Bool) (o : BitVec 8) (a : Option Word) :
    (stayHere s h b o a).lrt = s.lrt := rfl
@[simp] theorem stayHere_ports (s : State) (h b : Bool) (o : BitVec 8) (a : Option Word) :
    (stayHere s h b o a).ports = s.ports := rfl
@[simp] theorem stayHere_tlb (s : State) (h b : Bool) (o : BitVec 8) (a : Option Word) :
    (stayHere s h b o a).tlb = s.tlb := rfl
@[simp] theorem stayHere_migrating (s : State) (h b : Bool) (o : BitVec 8) (a : Option Word) :
    (stayHere s h b o a).migrating = s.migrating := rfl
@[simp] theorem stayHere_saved (s : State) (h b : Bool) (o : BitVec 8) (a : Option Word) :
    (stayHere s h b o a).saved = s.saved := rfl
@[simp] theorem stayHere_objErr (s : State) (h b : Bool) (o : BitVec 8) (a : Option Word) :
    (stayHere s h b o a).objErr = s.objErr := rfl
@[simp] theorem stayHere_md (s : State) (h b : Bool) (o : BitVec 8) (a : Option Word) :
    (stayHere s h b o a).md = s.md := rfl
@[simp] theorem stayHere_agenda (s : State) (h b : Bool) (o : BitVec 8) (a : Option Word) :
    (stayHere s h b o a).agenda = s.agenda := rfl
@[simp] theorem stayHere_clock (s : State) (h b : Bool) (o : BitVec 8) (a : Option Word) :
    (stayHere s h b o a).clock = s.clock := rfl
@[simp] theorem stayHere_fresh (s : State) (h b : Bool) (o : BitVec 8) (a : Option Word) :
    (stayHere s h b o a).fresh = s.fresh := rfl
@[simp] theorem stayHere_core_kern (s : State) (h b : Bool) (o : BitVec 8) (a : Option Word) :
    (stayHere s h b o a).core.kern = s.core.kern := rfl
@[simp] theorem stayHere_core_st (s : State) (h b : Bool) (o : BitVec 8) (a : Option Word) :
    (stayHere s h b o a).core.st = s.core.st := rfl
@[simp] theorem stayHere_core_srf (s : State) (h b : Bool) (o : BitVec 8) (a : Option Word) :
    (stayHere s h b o a).core.srf = s.core.srf := rfl
@[simp] theorem stayHere_core_srfPoison (s : State) (h b : Bool) (o : BitVec 8) (a : Option Word) :
    (stayHere s h b o a).core.srfPoison = s.core.srfPoison := rfl
@[simp] theorem stayHere_core_prog (s : State) (h b : Bool) (o : BitVec 8) (a : Option Word) :
    (stayHere s h b o a).core.prog = s.core.prog := rfl
@[simp] theorem stayHere_core_arrQuad (s : State) (h b : Bool) (o : BitVec 8) (a : Option Word) :
    (stayHere s h b o a).core.arrQuad = s.core.arrQuad := rfl
@[simp] theorem stayHere_core_arrDie (s : State) (h b : Bool) (o : BitVec 8) (a : Option Word) :
    (stayHere s h b o a).core.arrDie = s.core.arrDie := rfl
@[simp] theorem stayHere_core_ctx (s : State) (h b : Bool) (o : BitVec 8) (a : Option Word) :
    (stayHere s h b o a).core.ctx = s.core.ctx := rfl
@[simp] theorem stayHere_core_fenced (s : State) (h b : Bool) (o : BitVec 8) (a : Option Word) :
    (stayHere s h b o a).core.fenced = s.core.fenced := rfl
@[simp] theorem stayHere_core_badBanks (s : State) (h b : Bool) (o : BitVec 8) (a : Option Word) :
    (stayHere s h b o a).core.badBanks = s.core.badBanks := rfl
@[simp] theorem stayHere_core_outOfService (s : State) (h b : Bool) (o : BitVec 8) (a : Option Word) :
    (stayHere s h b o a).core.outOfService = s.core.outOfService := rfl
@[simp] theorem stayHere_cp_g (s : State) (h b : Bool) (o : BitVec 8) (a : Option Word) :
    (stayHere s h b o a).core.cp.g = s.core.cp.g := rfl
@[simp] theorem stayHere_cp_p (s : State) (h b : Bool) (o : BitVec 8) (a : Option Word) :
    (stayHere s h b o a).core.cp.p = s.core.cp.p := rfl
@[simp] theorem stayHere_cp_pc (s : State) (h b : Bool) (o : BitVec 8) (a : Option Word) :
    (stayHere s h b o a).core.cp.pc = s.core.cp.pc := rfl
@[simp] theorem stayHere_cp_cstat (s : State) (h b : Bool) (o : BitVec 8) (a : Option Word) :
    (stayHere s h b o a).core.cp.cstat = s.core.cp.cstat := rfl
@[simp] theorem stayHere_cp_csave (s : State) (h b : Bool) (o : BitVec 8) (a : Option Word) :
    (stayHere s h b o a).core.cp.csave = s.core.cp.csave := rfl
@[simp] theorem stayHere_cp_ctvec (s : State) (h b : Bool) (o : BitVec 8) (a : Option Word) :
    (stayHere s h b o a).core.cp.ctvec = s.core.cp.ctvec := rfl
@[simp] theorem stayHere_cp_ctpc (s : State) (h b : Bool) (o : BitVec 8) (a : Option Word) :
    (stayHere s h b o a).core.cp.ctpc = s.core.cp.ctpc := rfl
@[simp] theorem stayHere_cp_ccause (s : State) (h b : Bool) (o : BitVec 8) (a : Option Word) :
    (stayHere s h b o a).core.cp.ccause = s.core.cp.ccause := rfl
@[simp] theorem stayHere_cp_ctaddr (s : State) (h b : Bool) (o : BitVec 8) (a : Option Word) :
    (stayHere s h b o a).core.cp.ctaddr = s.core.cp.ctaddr := rfl
@[simp] theorem stayHere_cp_ctinfo (s : State) (h b : Bool) (o : BitVec 8) (a : Option Word) :
    (stayHere s h b o a).core.cp.ctinfo = s.core.cp.ctinfo := rfl
@[simp] theorem stayHere_cp_cscratch (s : State) (h b : Bool) (o : BitVec 8) (a : Option Word) :
    (stayHere s h b o a).core.cp.cscratch = s.core.cp.cscratch := rfl
@[simp] theorem stayHere_cp_casid (s : State) (h b : Bool) (o : BitVec 8) (a : Option Word) :
    (stayHere s h b o a).core.cp.casid = s.core.cp.casid := rfl
@[simp] theorem stayHere_cp_cflags (s : State) (h b : Bool) (o : BitVec 8) (a : Option Word) :
    (stayHere s h b o a).core.cp.cflags = s.core.cp.cflags := rfl
@[simp] theorem stayHere_cp_run (s : State) (h b : Bool) (o : BitVec 8) (a : Option Word) :
    (stayHere s h b o a).core.cp.run = s.core.cp.run := rfl
@[simp] theorem stayHere_cp_pending (s : State) (h b : Bool) (o : BitVec 8) (a : Option Word) :
    (stayHere s h b o a).core.cp.pending = s.core.cp.pending := rfl
@[simp] theorem stayHere_cp_work (s : State) (h b : Bool) (o : BitVec 8) (a : Option Word) :
    (stayHere s h b o a).core.cp.work = s.core.cp.work := rfl
@[simp] theorem stayHere_cp_icache (s : State) (h b : Bool) (o : BitVec 8) (a : Option Word) :
    (stayHere s h b o a).core.cp.icache = s.core.cp.icache := rfl
@[simp] theorem stayHere_cp_vecSet (s : State) (h b : Bool) (o : BitVec 8) (a : Option Word) :
    (stayHere s h b o a).core.cp.vecSet = s.core.cp.vecSet := rfl
@[simp] theorem stayHere_cp_remote (s : State) (h b : Bool) (o : BitVec 8) (a : Option Word) :
    (stayHere s h b o a).core.cp.remote = s.core.cp.remote := rfl
@[simp] theorem stayHere_cp_fetched (s : State) (h b : Bool) (o : BitVec 8) (a : Option Word) :
    (stayHere s h b o a).core.cp.fetched = s.core.cp.fetched := rfl
@[simp] theorem pushWrite_focus (s : State) (n : Nat) (w : KWrite) : (pushWrite s n w).focus = s.focus := rfl
@[simp] theorem pushWrite_parked (s : State) (n : Nat) (w : KWrite) : (pushWrite s n w).parked = s.parked := rfl
@[simp] theorem pushWrite_place (s : State) (n : Nat) (w : KWrite) : (pushWrite s n w).place = s.place := rfl
@[simp] theorem pushWrite_limm (s : State) (n : Nat) (w : KWrite) : (pushWrite s n w).limm = s.limm := rfl
@[simp] theorem pushWrite_scope (s : State) (n : Nat) (w : KWrite) : (pushWrite s n w).scope = s.scope := rfl
@[simp] theorem pushWrite_mem (s : State) (n : Nat) (w : KWrite) : (pushWrite s n w).mem = s.mem := rfl
@[simp] theorem pushWrite_poison (s : State) (n : Nat) (w : KWrite) : (pushWrite s n w).poison = s.poison := rfl
@[simp] theorem pushWrite_unmet (s : State) (n : Nat) (w : KWrite) : (pushWrite s n w).unmet = s.unmet := rfl
@[simp] theorem pushWrite_hostMem (s : State) (n : Nat) (w : KWrite) : (pushWrite s n w).hostMem = s.hostMem := rfl
@[simp] theorem pushWrite_hbm (s : State) (n : Nat) (w : KWrite) : (pushWrite s n w).hbm = s.hbm := rfl
@[simp] theorem pushWrite_queues (s : State) (n : Nat) (w : KWrite) : (pushWrite s n w).queues = s.queues := rfl
@[simp] theorem pushWrite_served (s : State) (n : Nat) (w : KWrite) : (pushWrite s n w).served = s.served := rfl
@[simp] theorem pushWrite_launches (s : State) (n : Nat) (w : KWrite) : (pushWrite s n w).launches = s.launches := rfl
@[simp] theorem pushWrite_nextLaunch (s : State) (n : Nat) (w : KWrite) :
    (pushWrite s n w).nextLaunch = s.nextLaunch := rfl
@[simp] theorem pushWrite_channels (s : State) (n : Nat) (w : KWrite) : (pushWrite s n w).channels = s.channels := rfl
@[simp] theorem pushWrite_lrt (s : State) (n : Nat) (w : KWrite) : (pushWrite s n w).lrt = s.lrt := rfl
@[simp] theorem pushWrite_ports (s : State) (n : Nat) (w : KWrite) : (pushWrite s n w).ports = s.ports := rfl
@[simp] theorem pushWrite_tlb (s : State) (n : Nat) (w : KWrite) : (pushWrite s n w).tlb = s.tlb := rfl
@[simp] theorem pushWrite_migrating (s : State) (n : Nat) (w : KWrite) :
    (pushWrite s n w).migrating = s.migrating := rfl
@[simp] theorem pushWrite_saved (s : State) (n : Nat) (w : KWrite) : (pushWrite s n w).saved = s.saved := rfl
@[simp] theorem pushWrite_objErr (s : State) (n : Nat) (w : KWrite) : (pushWrite s n w).objErr = s.objErr := rfl
@[simp] theorem pushWrite_md (s : State) (n : Nat) (w : KWrite) : (pushWrite s n w).md = s.md := rfl
@[simp] theorem pushWrite_agenda (s : State) (n : Nat) (w : KWrite) : (pushWrite s n w).agenda = s.agenda := rfl
@[simp] theorem pushWrite_clock (s : State) (n : Nat) (w : KWrite) : (pushWrite s n w).clock = s.clock := rfl
@[simp] theorem pushWrite_fresh (s : State) (n : Nat) (w : KWrite) : (pushWrite s n w).fresh = s.fresh := rfl
@[simp] theorem pushWrite_core_cp (s : State) (n : Nat) (w : KWrite) : (pushWrite s n w).core.cp = s.core.cp := rfl
@[simp] theorem pushWrite_core_st (s : State) (n : Nat) (w : KWrite) : (pushWrite s n w).core.st = s.core.st := rfl
@[simp] theorem pushWrite_core_srf (s : State) (n : Nat) (w : KWrite) : (pushWrite s n w).core.srf = s.core.srf := rfl
@[simp] theorem pushWrite_core_srfPoison (s : State) (n : Nat) (w : KWrite) :
    (pushWrite s n w).core.srfPoison = s.core.srfPoison := rfl
@[simp] theorem pushWrite_core_prog (s : State) (n : Nat) (w : KWrite) :
    (pushWrite s n w).core.prog = s.core.prog := rfl
@[simp] theorem pushWrite_core_arrQuad (s : State) (n : Nat) (w : KWrite) :
    (pushWrite s n w).core.arrQuad = s.core.arrQuad := rfl
@[simp] theorem pushWrite_core_arrDie (s : State) (n : Nat) (w : KWrite) :
    (pushWrite s n w).core.arrDie = s.core.arrDie := rfl
@[simp] theorem pushWrite_core_ctx (s : State) (n : Nat) (w : KWrite) : (pushWrite s n w).core.ctx = s.core.ctx := rfl
@[simp] theorem pushWrite_core_fenced (s : State) (n : Nat) (w : KWrite) :
    (pushWrite s n w).core.fenced = s.core.fenced := rfl
@[simp] theorem pushWrite_core_badBanks (s : State) (n : Nat) (w : KWrite) :
    (pushWrite s n w).core.badBanks = s.core.badBanks := rfl
@[simp] theorem pushWrite_core_outOfService (s : State) (n : Nat) (w : KWrite) :
    (pushWrite s n w).core.outOfService = s.core.outOfService := rfl
@[simp] theorem pushWrite_kern_k (s : State) (n : Nat) (w : KWrite) :
    (pushWrite s n w).core.kern.k = s.core.kern.k := rfl
@[simp] theorem pushWrite_kern_p (s : State) (n : Nat) (w : KWrite) :
    (pushWrite s n w).core.kern.p = s.core.kern.p := rfl
@[simp] theorem pushWrite_kern_v (s : State) (n : Nat) (w : KWrite) :
    (pushWrite s n w).core.kern.v = s.core.kern.v := rfl
@[simp] theorem pushWrite_kern_m (s : State) (n : Nat) (w : KWrite) :
    (pushWrite s n w).core.kern.m = s.core.kern.m := rfl
@[simp] theorem pushWrite_kern_acc (s : State) (n : Nat) (w : KWrite) :
    (pushWrite s n w).core.kern.acc = s.core.kern.acc := rfl
@[simp] theorem pushWrite_kern_latch (s : State) (n : Nat) (w : KWrite) :
    (pushWrite s n w).core.kern.latch = s.core.kern.latch := rfl
@[simp] theorem pushWrite_kern_lflags (s : State) (n : Nat) (w : KWrite) :
    (pushWrite s n w).core.kern.lflags = s.core.kern.lflags := rfl
@[simp] theorem pushWrite_kern_kpc (s : State) (n : Nat) (w : KWrite) :
    (pushWrite s n w).core.kern.kpc = s.core.kern.kpc := rfl
@[simp] theorem pushWrite_kern_kstat (s : State) (n : Nat) (w : KWrite) :
    (pushWrite s n w).core.kern.kstat = s.core.kern.kstat := rfl
@[simp] theorem pushWrite_kern_kdtarget (s : State) (n : Nat) (w : KWrite) :
    (pushWrite s n w).core.kern.kdtarget = s.core.kern.kdtarget := rfl
@[simp] theorem pushWrite_kern_kcause (s : State) (n : Nat) (w : KWrite) :
    (pushWrite s n w).core.kern.kcause = s.core.kern.kcause := rfl
@[simp] theorem pushWrite_kern_kinfo (s : State) (n : Nat) (w : KWrite) :
    (pushWrite s n w).core.kern.kinfo = s.core.kern.kinfo := rfl
@[simp] theorem pushWrite_kern_kflags (s : State) (n : Nat) (w : KWrite) :
    (pushWrite s n w).core.kern.kflags = s.core.kern.kflags := rfl
@[simp] theorem pushWrite_kern_store (s : State) (n : Nat) (w : KWrite) :
    (pushWrite s n w).core.kern.store = s.core.kern.store := rfl
@[simp] theorem pushWrite_kern_ktime (s : State) (n : Nat) (w : KWrite) :
    (pushWrite s n w).core.kern.ktime = s.core.kern.ktime := rfl
@[simp] theorem pushWrite_kern_nextIssue (s : State) (n : Nat) (w : KWrite) :
    (pushWrite s n w).core.kern.nextIssue = s.core.kern.nextIssue := rfl
@[simp] theorem pushWrite_kern_nextPc (s : State) (n : Nat) (w : KWrite) :
    (pushWrite s n w).core.kern.nextPc = s.core.kern.nextPc := rfl
@[simp] theorem pushWrite_kern_resume (s : State) (n : Nat) (w : KWrite) :
    (pushWrite s n w).core.kern.resume = s.core.kern.resume := rfl
@[simp] theorem pushWrite_kern_seq (s : State) (n : Nat) (w : KWrite) :
    (pushWrite s n w).core.kern.seq = s.core.kern.seq + 1 := rfl
@[simp] theorem pushWrite_kern_pend (s : State) (n : Nat) (w : KWrite) :
    (pushWrite s n w).core.kern.pend = s.core.kern.pend ++ [⟨s.core.kern.ktime + n, s.core.kern.seq, w⟩] := rfl
@[simp] theorem pushWrite_kern_landing (s : State) (n : Nat) (w : KWrite) :
    (pushWrite s n w).core.kern.landing = s.core.kern.landing := rfl
@[simp] theorem pushWrite_kern_wqueue (s : State) (n : Nat) (w : KWrite) :
    (pushWrite s n w).core.kern.wqueue = s.core.kern.wqueue := rfl
@[simp] theorem pushWrite_kern_passes (s : State) (n : Nat) (w : KWrite) :
    (pushWrite s n w).core.kern.passes = s.core.kern.passes := rfl
@[simp] theorem pushWrite_kern_xforms (s : State) (n : Nat) (w : KWrite) :
    (pushWrite s n w).core.kern.xforms = s.core.kern.xforms := rfl
@[simp] theorem pushWrite_kern_busy (s : State) (n : Nat) (w : KWrite) :
    (pushWrite s n w).core.kern.busy = s.core.kern.busy := rfl
@[simp] theorem pushWrite_kern_fenceRel (s : State) (n : Nat) (w : KWrite) :
    (pushWrite s n w).core.kern.fenceRel = s.core.kern.fenceRel := rfl
@[simp] theorem pushWrite_kern_freeze (s : State) (n : Nat) (w : KWrite) :
    (pushWrite s n w).core.kern.freeze = s.core.kern.freeze := rfl
@[simp] theorem pushWrite_kern_held (s : State) (n : Nat) (w : KWrite) :
    (pushWrite s n w).core.kern.held = s.core.kern.held := rfl
@[simp] theorem pushWrite_kern_issuing (s : State) (n : Nat) (w : KWrite) :
    (pushWrite s n w).core.kern.issuing = s.core.kern.issuing := rfl
@[simp] theorem pushWrite_kern_stop (s : State) (n : Nat) (w : KWrite) :
    (pushWrite s n w).core.kern.stop = s.core.kern.stop := rfl
@[simp] theorem pushWrite_kern_fault (s : State) (n : Nat) (w : KWrite) :
    (pushWrite s n w).core.kern.fault = s.core.kern.fault := rfl
@[simp] theorem pushWrite_kern_krun (s : State) (n : Nat) (w : KWrite) :
    (pushWrite s n w).core.kern.krun = s.core.kern.krun := rfl
@[simp] theorem pushWrite_kern_preStop (s : State) (n : Nat) (w : KWrite) :
    (pushWrite s n w).core.kern.preStop = s.core.kern.preStop := rfl

/-! `takeTrap` and `trapReturn` leave the registers that R33 and R38 do not name -/

@[simp] theorem CP.takeTrap_g (c : CP) (x : Cause) (b : Bool) (r a i : Word) : (c.takeTrap x b r a i).g = c.g := rfl
@[simp] theorem CP.takeTrap_p (c : CP) (x : Cause) (b : Bool) (r a i : Word) : (c.takeTrap x b r a i).p = c.p := rfl
@[simp] theorem CP.takeTrap_ctvec (c : CP) (x : Cause) (b : Bool) (r a i : Word) :
    (c.takeTrap x b r a i).ctvec = c.ctvec := rfl
@[simp] theorem CP.takeTrap_cscratch (c : CP) (x : Cause) (b : Bool) (r a i : Word) :
    (c.takeTrap x b r a i).cscratch = c.cscratch := rfl
@[simp] theorem CP.takeTrap_casid (c : CP) (x : Cause) (b : Bool) (r a i : Word) :
    (c.takeTrap x b r a i).casid = c.casid := rfl
@[simp] theorem CP.takeTrap_cflags (c : CP) (x : Cause) (b : Bool) (r a i : Word) :
    (c.takeTrap x b r a i).cflags = c.cflags := rfl
@[simp] theorem CP.takeTrap_run (c : CP) (x : Cause) (b : Bool) (r a i : Word) :
    (c.takeTrap x b r a i).run = c.run := rfl
@[simp] theorem CP.takeTrap_pending (c : CP) (x : Cause) (b : Bool) (r a i : Word) :
    (c.takeTrap x b r a i).pending = c.pending := rfl
@[simp] theorem CP.takeTrap_work (c : CP) (x : Cause) (b : Bool) (r a i : Word) :
    (c.takeTrap x b r a i).work = c.work := rfl
@[simp] theorem CP.takeTrap_icache (c : CP) (x : Cause) (b : Bool) (r a i : Word) :
    (c.takeTrap x b r a i).icache = c.icache := rfl
@[simp] theorem CP.takeTrap_vecSet (c : CP) (x : Cause) (b : Bool) (r a i : Word) :
    (c.takeTrap x b r a i).vecSet = c.vecSet := rfl
@[simp] theorem CP.takeTrap_pc (c : CP) (x : Cause) (b : Bool) (r a i : Word) :
    (c.takeTrap x b r a i).pc = c.ctvec := rfl
@[simp] theorem CP.takeTrap_ctpc (c : CP) (x : Cause) (b : Bool) (r a i : Word) : (c.takeTrap x b r a i).ctpc = r := rfl
@[simp] theorem CP.takeTrap_ctaddr (c : CP) (x : Cause) (b : Bool) (r a i : Word) :
    (c.takeTrap x b r a i).ctaddr = a := rfl
@[simp] theorem CP.takeTrap_wait (c : CP) (x : Cause) (b : Bool) (r a i : Word) :
    (c.takeTrap x b r a i).wait = none := rfl
@[simp] theorem CP.takeTrap_remote (c : CP) (x : Cause) (b : Bool) (r a i : Word) :
    (c.takeTrap x b r a i).remote = none := rfl
@[simp] theorem CP.trapReturn_g (c : CP) : c.trapReturn.g = c.g := rfl
@[simp] theorem CP.trapReturn_p (c : CP) : c.trapReturn.p = c.p := rfl
@[simp] theorem CP.trapReturn_csave (c : CP) : c.trapReturn.csave = c.csave := rfl
@[simp] theorem CP.trapReturn_ctvec (c : CP) : c.trapReturn.ctvec = c.ctvec := rfl
@[simp] theorem CP.trapReturn_ctpc (c : CP) : c.trapReturn.ctpc = c.ctpc := rfl
@[simp] theorem CP.trapReturn_ccause (c : CP) : c.trapReturn.ccause = c.ccause := rfl
@[simp] theorem CP.trapReturn_ctaddr (c : CP) : c.trapReturn.ctaddr = c.ctaddr := rfl
@[simp] theorem CP.trapReturn_ctinfo (c : CP) : c.trapReturn.ctinfo = c.ctinfo := rfl
@[simp] theorem CP.trapReturn_cscratch (c : CP) : c.trapReturn.cscratch = c.cscratch := rfl
@[simp] theorem CP.trapReturn_casid (c : CP) : c.trapReturn.casid = c.casid := rfl
@[simp] theorem CP.trapReturn_cflags (c : CP) : c.trapReturn.cflags = c.cflags := rfl
@[simp] theorem CP.trapReturn_run (c : CP) : c.trapReturn.run = c.run := rfl
@[simp] theorem CP.trapReturn_pending (c : CP) : c.trapReturn.pending = c.pending := rfl
@[simp] theorem CP.trapReturn_wait (c : CP) : c.trapReturn.wait = c.wait := rfl
@[simp] theorem CP.trapReturn_work (c : CP) : c.trapReturn.work = c.work := rfl
@[simp] theorem CP.trapReturn_icache (c : CP) : c.trapReturn.icache = c.icache := rfl
@[simp] theorem CP.trapReturn_vecSet (c : CP) : c.trapReturn.vecSet = c.vecSet := rfl
@[simp] theorem CP.trapReturn_remote (c : CP) : c.trapReturn.remote = c.remote := rfl
@[simp] theorem CP.trapReturn_pc (c : CP) : c.trapReturn.pc = c.ctpc := rfl

/-! `writeG`: only the general registers (R12) -/

@[simp] theorem CP.writeG_p (c : CP) (r : BitVec 5) (v : Word) : (c.writeG r v).p = c.p := by
  unfold CP.writeG; split <;> rfl
@[simp] theorem CP.writeG_pc (c : CP) (r : BitVec 5) (v : Word) : (c.writeG r v).pc = c.pc := by
  unfold CP.writeG; split <;> rfl
@[simp] theorem CP.writeG_cstat (c : CP) (r : BitVec 5) (v : Word) : (c.writeG r v).cstat = c.cstat := by
  unfold CP.writeG; split <;> rfl
@[simp] theorem CP.writeG_csave (c : CP) (r : BitVec 5) (v : Word) : (c.writeG r v).csave = c.csave := by
  unfold CP.writeG; split <;> rfl
@[simp] theorem CP.writeG_ctvec (c : CP) (r : BitVec 5) (v : Word) : (c.writeG r v).ctvec = c.ctvec := by
  unfold CP.writeG; split <;> rfl
@[simp] theorem CP.writeG_ctpc (c : CP) (r : BitVec 5) (v : Word) : (c.writeG r v).ctpc = c.ctpc := by
  unfold CP.writeG; split <;> rfl
@[simp] theorem CP.writeG_ccause (c : CP) (r : BitVec 5) (v : Word) : (c.writeG r v).ccause = c.ccause := by
  unfold CP.writeG; split <;> rfl
@[simp] theorem CP.writeG_ctaddr (c : CP) (r : BitVec 5) (v : Word) : (c.writeG r v).ctaddr = c.ctaddr := by
  unfold CP.writeG; split <;> rfl
@[simp] theorem CP.writeG_ctinfo (c : CP) (r : BitVec 5) (v : Word) : (c.writeG r v).ctinfo = c.ctinfo := by
  unfold CP.writeG; split <;> rfl
@[simp] theorem CP.writeG_cscratch (c : CP) (r : BitVec 5) (v : Word) : (c.writeG r v).cscratch = c.cscratch := by
  unfold CP.writeG; split <;> rfl
@[simp] theorem CP.writeG_casid (c : CP) (r : BitVec 5) (v : Word) : (c.writeG r v).casid = c.casid := by
  unfold CP.writeG; split <;> rfl
@[simp] theorem CP.writeG_cflags (c : CP) (r : BitVec 5) (v : Word) : (c.writeG r v).cflags = c.cflags := by
  unfold CP.writeG; split <;> rfl
@[simp] theorem CP.writeG_run (c : CP) (r : BitVec 5) (v : Word) : (c.writeG r v).run = c.run := by
  unfold CP.writeG; split <;> rfl
@[simp] theorem CP.writeG_pending (c : CP) (r : BitVec 5) (v : Word) : (c.writeG r v).pending = c.pending := by
  unfold CP.writeG; split <;> rfl
@[simp] theorem CP.writeG_wait (c : CP) (r : BitVec 5) (v : Word) : (c.writeG r v).wait = c.wait := by
  unfold CP.writeG; split <;> rfl
@[simp] theorem CP.writeG_work (c : CP) (r : BitVec 5) (v : Word) : (c.writeG r v).work = c.work := by
  unfold CP.writeG; split <;> rfl
@[simp] theorem CP.writeG_icache (c : CP) (r : BitVec 5) (v : Word) : (c.writeG r v).icache = c.icache := by
  unfold CP.writeG; split <;> rfl
@[simp] theorem CP.writeG_vecSet (c : CP) (r : BitVec 5) (v : Word) : (c.writeG r v).vecSet = c.vecSet := by
  unfold CP.writeG; split <;> rfl
@[simp] theorem CP.writeG_remote (c : CP) (r : BitVec 5) (v : Word) : (c.writeG r v).remote = c.remote := by
  unfold CP.writeG; split <;> rfl
@[simp] theorem Kern.writeK_p (k : Kern) (r : BitVec 5) (v : Word) : (k.writeK r v).p = k.p := by
  unfold Kern.writeK; split <;> rfl
@[simp] theorem Kern.writeK_v (k : Kern) (r : BitVec 5) (v : Word) : (k.writeK r v).v = k.v := by
  unfold Kern.writeK; split <;> rfl
@[simp] theorem Kern.writeK_m (k : Kern) (r : BitVec 5) (v : Word) : (k.writeK r v).m = k.m := by
  unfold Kern.writeK; split <;> rfl
@[simp] theorem Kern.writeK_acc (k : Kern) (r : BitVec 5) (v : Word) : (k.writeK r v).acc = k.acc := by
  unfold Kern.writeK; split <;> rfl
@[simp] theorem Kern.writeK_latch (k : Kern) (r : BitVec 5) (v : Word) : (k.writeK r v).latch = k.latch := by
  unfold Kern.writeK; split <;> rfl
@[simp] theorem Kern.writeK_lflags (k : Kern) (r : BitVec 5) (v : Word) : (k.writeK r v).lflags = k.lflags := by
  unfold Kern.writeK; split <;> rfl
@[simp] theorem Kern.writeK_kpc (k : Kern) (r : BitVec 5) (v : Word) : (k.writeK r v).kpc = k.kpc := by
  unfold Kern.writeK; split <;> rfl
@[simp] theorem Kern.writeK_kstat (k : Kern) (r : BitVec 5) (v : Word) : (k.writeK r v).kstat = k.kstat := by
  unfold Kern.writeK; split <;> rfl
@[simp] theorem Kern.writeK_kdtarget (k : Kern) (r : BitVec 5) (v : Word) : (k.writeK r v).kdtarget = k.kdtarget := by
  unfold Kern.writeK; split <;> rfl
@[simp] theorem Kern.writeK_kcause (k : Kern) (r : BitVec 5) (v : Word) : (k.writeK r v).kcause = k.kcause := by
  unfold Kern.writeK; split <;> rfl
@[simp] theorem Kern.writeK_kinfo (k : Kern) (r : BitVec 5) (v : Word) : (k.writeK r v).kinfo = k.kinfo := by
  unfold Kern.writeK; split <;> rfl
@[simp] theorem Kern.writeK_kflags (k : Kern) (r : BitVec 5) (v : Word) : (k.writeK r v).kflags = k.kflags := by
  unfold Kern.writeK; split <;> rfl
@[simp] theorem Kern.writeK_store (k : Kern) (r : BitVec 5) (v : Word) : (k.writeK r v).store = k.store := by
  unfold Kern.writeK; split <;> rfl
@[simp] theorem Kern.writeK_ktime (k : Kern) (r : BitVec 5) (v : Word) : (k.writeK r v).ktime = k.ktime := by
  unfold Kern.writeK; split <;> rfl
@[simp] theorem Kern.writeK_nextIssue (k : Kern) (r : BitVec 5) (v : Word) : (k.writeK r v).nextIssue = k.nextIssue := by
  unfold Kern.writeK; split <;> rfl
@[simp] theorem Kern.writeK_nextPc (k : Kern) (r : BitVec 5) (v : Word) : (k.writeK r v).nextPc = k.nextPc := by
  unfold Kern.writeK; split <;> rfl
@[simp] theorem Kern.writeK_resume (k : Kern) (r : BitVec 5) (v : Word) : (k.writeK r v).resume = k.resume := by
  unfold Kern.writeK; split <;> rfl
@[simp] theorem Kern.writeK_seq (k : Kern) (r : BitVec 5) (v : Word) : (k.writeK r v).seq = k.seq := by
  unfold Kern.writeK; split <;> rfl
@[simp] theorem Kern.writeK_pend (k : Kern) (r : BitVec 5) (v : Word) : (k.writeK r v).pend = k.pend := by
  unfold Kern.writeK; split <;> rfl
@[simp] theorem Kern.writeK_landing (k : Kern) (r : BitVec 5) (v : Word) : (k.writeK r v).landing = k.landing := by
  unfold Kern.writeK; split <;> rfl
@[simp] theorem Kern.writeK_wqueue (k : Kern) (r : BitVec 5) (v : Word) : (k.writeK r v).wqueue = k.wqueue := by
  unfold Kern.writeK; split <;> rfl
@[simp] theorem Kern.writeK_passes (k : Kern) (r : BitVec 5) (v : Word) : (k.writeK r v).passes = k.passes := by
  unfold Kern.writeK; split <;> rfl
@[simp] theorem Kern.writeK_xforms (k : Kern) (r : BitVec 5) (v : Word) : (k.writeK r v).xforms = k.xforms := by
  unfold Kern.writeK; split <;> rfl
@[simp] theorem Kern.writeK_busy (k : Kern) (r : BitVec 5) (v : Word) : (k.writeK r v).busy = k.busy := by
  unfold Kern.writeK; split <;> rfl
@[simp] theorem Kern.writeK_fenceRel (k : Kern) (r : BitVec 5) (v : Word) : (k.writeK r v).fenceRel = k.fenceRel := by
  unfold Kern.writeK; split <;> rfl
@[simp] theorem Kern.writeK_freeze (k : Kern) (r : BitVec 5) (v : Word) : (k.writeK r v).freeze = k.freeze := by
  unfold Kern.writeK; split <;> rfl
@[simp] theorem Kern.writeK_held (k : Kern) (r : BitVec 5) (v : Word) : (k.writeK r v).held = k.held := by
  unfold Kern.writeK; split <;> rfl
@[simp] theorem Kern.writeK_issuing (k : Kern) (r : BitVec 5) (v : Word) : (k.writeK r v).issuing = k.issuing := by
  unfold Kern.writeK; split <;> rfl
@[simp] theorem Kern.writeK_stop (k : Kern) (r : BitVec 5) (v : Word) : (k.writeK r v).stop = k.stop := by
  unfold Kern.writeK; split <;> rfl
@[simp] theorem Kern.writeK_fault (k : Kern) (r : BitVec 5) (v : Word) : (k.writeK r v).fault = k.fault := by
  unfold Kern.writeK; split <;> rfl
@[simp] theorem Kern.writeK_krun (k : Kern) (r : BitVec 5) (v : Word) : (k.writeK r v).krun = k.krun := by
  unfold Kern.writeK; split <;> rfl
@[simp] theorem Kern.writeK_preStop (k : Kern) (r : BitVec 5) (v : Word) : (k.writeK r v).preStop = k.preStop := by
  unfold Kern.writeK; split <;> rfl

end Sys2Proof.Machine
end

