-- ==== Sys2Proof/Laws/Memory.lean ====
section
/-! SUPPORT. Memory as a list in canonical form: every operation keeps the form, and a read after a write gives what
was written or what stood there. -/

namespace Sys2Proof.Machine

/-! ## The canonical form -/

theorem cellsFrom_mono {lo lo' : Nat} {l : List Host.Cell} (h : lo ≤ lo') (w : cellsFrom lo' l = true) :
    cellsFrom lo l = true := by
  cases l with
  | nil => rfl
  | cons x l =>
    obtain ⟨a, b⟩ := x
    simp only [cellsFrom, Bool.and_eq_true, decide_eq_true_eq] at w ⊢
    exact ⟨⟨h.trans w.1.1, w.1.2⟩, w.2⟩

theorem insertNum_cellsFrom {lo k : Nat} {v : Byte} {l : List Host.Cell} (hk : lo ≤ k) (hv : v ≠ 0)
    (w : cellsFrom lo l = true) : cellsFrom lo (insertNum k v l) = true := by
  induction l generalizing lo with
  | nil => simpa [insertNum, cellsFrom, hk] using hv
  | cons x l ih =>
    obtain ⟨a, b⟩ := x
    simp only [cellsFrom, Bool.and_eq_true, decide_eq_true_eq] at w
    unfold insertNum
    split
    · rename_i hlt
      simp only [cellsFrom, Bool.and_eq_true, decide_eq_true_eq, bne_iff_ne]
      exact ⟨⟨hk, hv⟩, ⟨⟨hlt, by simpa using w.1.2⟩, w.2⟩⟩
    · split
      · rename_i heq
        simp only [beq_iff_eq] at heq
        subst heq
        simp only [cellsFrom, Bool.and_eq_true, decide_eq_true_eq, bne_iff_ne]
        exact ⟨⟨hk, hv⟩, w.2⟩
      · rename_i hne heq
        simp only [beq_iff_eq] at heq
        simp only [cellsFrom, Bool.and_eq_true, decide_eq_true_eq]
        exact ⟨w.1, ih (by omega) w.2⟩

theorem eraseNum_cellsFrom {lo k : Nat} {l : List Host.Cell} (w : cellsFrom lo l = true) :
    cellsFrom lo (eraseNum k l) = true := by
  induction l generalizing lo with
  | nil => rfl
  | cons x l ih =>
    obtain ⟨a, b⟩ := x
    have w' := w
    simp only [cellsFrom, Bool.and_eq_true, decide_eq_true_eq] at w
    unfold eraseNum
    split
    · exact w'
    · split
      · exact cellsFrom_mono (by omega) w.2
      · simp only [cellsFrom, Bool.and_eq_true, decide_eq_true_eq]
        exact ⟨w.1, ih w.2⟩

theorem cellPut_wf {l : List Host.Cell} (a : Nat) (b : Byte) (w : Memory.wf l = true) :
    Memory.wf (cellPut l a b) = true := by
  unfold cellPut
  split
  · exact eraseNum_cellsFrom w
  · rename_i h
    exact insertNum_cellsFrom (Nat.zero_le _) (by simpa using h) w

theorem cellPutAll_wf {l : List Host.Cell} (c : List Host.Cell) (w : Memory.wf l = true) :
    Memory.wf (cellPutAll l c) = true := by
  unfold cellPutAll
  induction c generalizing l with
  | nil => exact w
  | cons x c ih => exact ih (cellPut_wf _ _ w)

theorem nil_wf : Memory.wf [] = true := rfl

theorem reset_mem_wf : Memory.wf State.reset.mem = true := rfl
theorem reset_srf_wf : Memory.wf State.reset.core.srf = true := rfl

/-! ## Reading what was written -/

theorem lookupNum_below {lo k : Nat} {l : List Host.Cell} (w : cellsFrom lo l = true) (h : k < lo) :
    lookupNum k l = none := by
  induction l generalizing lo with
  | nil => rfl
  | cons x l ih =>
    obtain ⟨a, b⟩ := x
    simp only [cellsFrom, Bool.and_eq_true, decide_eq_true_eq] at w
    unfold lookupNum
    rw [if_neg (by simp; omega)]
    exact ih w.2 (by omega)

theorem lookupNum_insertNum_same {α : Type} (k : Nat) (v : α) (l : List (Nat × α)) :
    lookupNum k (insertNum k v l) = some v := by
  induction l with
  | nil => simp [insertNum, lookupNum]
  | cons x l ih =>
    obtain ⟨a, b⟩ := x
    unfold insertNum
    split
    · simp [lookupNum]
    · split
      · simp [lookupNum]
      · rename_i h1 h2
        simp only [beq_iff_eq] at h2
        unfold lookupNum
        rw [if_neg (by simp; omega)]
        exact ih

theorem lookupNum_insertNum_other {α : Type} {k j : Nat} (v : α) (l : List (Nat × α)) (h : j ≠ k) :
    lookupNum j (insertNum k v l) = lookupNum j l := by
  induction l with
  | nil => simp [insertNum, lookupNum, h.symm]
  | cons x l ih =>
    obtain ⟨a, b⟩ := x
    unfold insertNum
    split
    · simp [lookupNum, h.symm]
    · split
      · rename_i h1 h2
        simp only [beq_iff_eq] at h2
        subst h2
        simp [lookupNum, h.symm]
      · by_cases ha : a = j
        · simp [lookupNum, ha]
        · simp [lookupNum, ha, ih]

theorem lookupNum_eraseNum_same {lo k : Nat} {l : List Host.Cell} (w : cellsFrom lo l = true) :
    lookupNum k (eraseNum k l) = none := by
  induction l generalizing lo with
  | nil => rfl
  | cons x l ih =>
    obtain ⟨a, b⟩ := x
    have w' := w
    simp only [cellsFrom, Bool.and_eq_true, decide_eq_true_eq] at w
    unfold eraseNum
    split
    · rename_i h
      have : cellsFrom a ((a, b) :: l) = true := by
        simp only [cellsFrom, Bool.and_eq_true, decide_eq_true_eq]
        exact ⟨⟨le_refl a, w.1.2⟩, w.2⟩
      exact lookupNum_below this h
    · split
      · rename_i h1 h2
        simp only [beq_iff_eq] at h2
        exact lookupNum_below w.2 (by omega)
      · rename_i h1 h2
        simp only [beq_iff_eq] at h2
        unfold lookupNum
        rw [if_neg (by simp; omega)]
        exact ih w.2

theorem lookupNum_eraseNum_other {lo k j : Nat} {l : List Host.Cell} (w : cellsFrom lo l = true) (h : j ≠ k) :
    lookupNum j (eraseNum k l) = lookupNum j l := by
  induction l generalizing lo with
  | nil => rfl
  | cons x l ih =>
    obtain ⟨a, b⟩ := x
    simp only [cellsFrom, Bool.and_eq_true, decide_eq_true_eq] at w
    unfold eraseNum
    split
    · rfl
    · split
      · rename_i h1 h2
        simp only [beq_iff_eq] at h2
        subst h2
        simp [lookupNum, h.symm]
      · by_cases ha : a = j
        · simp [lookupNum, ha]
        · simp [lookupNum, ha, ih w.2]

/-- A byte written is the byte read. -/
theorem cellGet_cellPut_same {l : List Host.Cell} (a : Nat) (b : Byte) (w : Memory.wf l = true) :
    cellGet (cellPut l a b) a = b := by
  unfold cellGet cellPut
  split
  · rename_i h
    rw [lookupNum_eraseNum_same w]
    simpa using (by simpa using h : b = 0).symm
  · rw [lookupNum_insertNum_same]
    rfl

/-- A write leaves every other byte alone. -/
theorem cellGet_cellPut_other {l : List Host.Cell} {a j : Nat} (b : Byte) (w : Memory.wf l = true) (h : j ≠ a) :
    cellGet (cellPut l a b) j = cellGet l j := by
  unfold cellGet cellPut
  split
  · rw [lookupNum_eraseNum_other w h]
  · rw [lookupNum_insertNum_other _ _ h]

/-- A list of cells leaves every address that it does not name alone. -/
theorem cellGet_cellPutAll_other {l : List Host.Cell} {j : Nat} (c : List Host.Cell) (w : Memory.wf l = true)
    (h : ∀ x ∈ c, x.1 ≠ j) : cellGet (cellPutAll l c) j = cellGet l j := by
  unfold cellPutAll
  induction c generalizing l with
  | nil => rfl
  | cons x c ih =>
    rw [List.foldl_cons, ih (cellPut_wf _ _ w) fun y hy => h y (List.mem_cons_of_mem _ hy)]
    exact cellGet_cellPut_other _ w (h x List.mem_cons_self).symm

/-! ## Writes to an SRF and to a stack -/

theorem Core.putSrf_wf {c : Core} (cells : List Host.Cell) (w : Memory.wf c.srf = true) :
    Memory.wf (c.putSrf cells).srf = true := cellPutAll_wf cells w

theorem putByteAt_wf {s : State} (k : Nat) (b : Byte) (w : Memory.wf s.mem = true) :
    Memory.wf (putByteAt s k b).mem = true := by
  unfold putByteAt
  split
  · exact cellPut_wf _ _ w
  · exact w

theorem putBytesAt_wf (l : List Host.Cell) {s : State} (w : Memory.wf s.mem = true) :
    Memory.wf (putBytesAt s l).mem = true := by
  induction l generalizing s with
  | nil => exact w
  | cons x l ih => exact ih (putByteAt_wf _ _ w)

/-- A write of bytes by key changes HBM and the host window alone. -/
theorem putBytesAt_frame (l : List Host.Cell) (s : State) :
    putBytesAt s l = { s with mem := (putBytesAt s l).mem, hostMem := (putBytesAt s l).hostMem } := by
  induction l generalizing s with
  | nil => rfl
  | cons x l ih =>
    rw [putBytesAt, ih]
    unfold putByteAt
    split <;> rfl

/-- Bytes of HBM, written by key. -/
theorem putBytesAt_mem (l : List Host.Cell) (s : State) (h : ∀ c ∈ l, c.1 < hostBase) :
    (putBytesAt s l).mem = cellPutAll s.mem l := by
  induction l generalizing s with
  | nil => rfl
  | cons x l ih =>
    rw [putBytesAt, ih _ fun c hc => h c (List.mem_cons_of_mem _ hc), putByteAt, if_pos (h x List.mem_cons_self)]
    rfl

theorem clearGranule_frame (s : State) (pkg stack o : Nat) :
    clearGranule s pkg stack o =
      { s with poison := (clearGranule s pkg stack o).poison, unmet := (clearGranule s pkg stack o).unmet } := by
  unfold clearGranule
  split <;> rfl

theorem stkPut_wf {s : State} (pkg stack o : Nat) (b : List Byte) (w : Memory.wf s.mem = true) :
    Memory.wf (stkPut s pkg stack o b).mem = true := by
  unfold stkPut
  dsimp only
  split
  · rw [clearGranule_frame]
    exact putBytesAt_wf _ w
  · exact putBytesAt_wf _ w

/-- A write to a stack changes bytes of memory and poison marks alone. -/
theorem stkPut_frame (s : State) (pkg stack o : Nat) (b : List Byte) :
    stkPut s pkg stack o b =
      { s with
        mem := (stkPut s pkg stack o b).mem
        hostMem := (stkPut s pkg stack o b).hostMem
        poison := (stkPut s pkg stack o b).poison
        unmet := (stkPut s pkg stack o b).unmet } := by
  unfold stkPut
  dsimp only
  split
  · rw [clearGranule_frame, putBytesAt_frame]
  · rw [putBytesAt_frame]

/-- A write to the host window changes bytes of memory alone. -/
theorem hostWrites_frame (s : State) (pasid off : Nat) (b : List Byte) :
    hostWrites s pasid off b =
      { s with mem := (hostWrites s pasid off b).mem, hostMem := (hostWrites s pasid off b).hostMem } :=
  putBytesAt_frame _ _

end Sys2Proof.Machine
end

