-- ==== Sys2Proof/Laws/Context.lean ====
section
/-! SUPPORT. What an engine's transfer within the own SRF does, and when a context area is sound. -/

namespace Sys2Proof.Machine

/-! ## Addresses of the own SRF (R238) -/

theorem ownAddr_toNat {off : Nat} (h : off < 2 ^ 22) : (ownAddr off).toNat = 0xFF * 2 ^ 56 + off := by
  simp only [ownAddr, BitVec.toNat_ofNat]
  omega

theorem ownAddr_add (off m : Nat) : ownAddr off + BitVec.ofNat 64 m = ownAddr (off + m) := by
  simp only [ownAddr, ← BitVec.ofNat_add, Nat.add_assoc]

theorem apertureOf_own {off : Nat} (h : off < 2 ^ 22) : apertureOf (ownAddr off) = some 2 := by
  have : fld (ownAddr off) 56 8 = 0xFF := by
    rw [fld, ownAddr_toNat h]
    omega
  simp [apertureOf, this]

theorem fld_own {off : Nat} (h : off < 2 ^ 22) : fld (ownAddr off) 0 22 = off := by
  rw [fld, ownAddr_toNat h]
  omega

theorem frontTrap_own {off n : Nat} (h : off < 2 ^ 22) (hn : off + n ≤ srfSize) (w : Bool) :
    frontTrap (ownAddr off) n 1 (fun _ => true) w = none := by
  have h34 : fld (ownAddr off) 22 34 = 0 := by
    rw [fld, ownAddr_toNat h]
    omega
  have : ¬ srfSize < off + n := by omega
  simp [frontTrap, apertureOf_own h, apertureTrap, h34, fld_own h, this, Nat.mod_one]

/-! ## One access -/

theorem resolve_own {s : State} {who : Access} {e : LogEntry} {off : Nat} (h : off < 2 ^ 22) (ha : e.addr = ownAddr off)
    (ho : e.opc = engRead ∨ e.opc = engWrite) : resolve s who e = .ok (⟨.srf who.core off, 0, 0⟩, s) := by
  have h1 : (isAtomic e.opc || e.opc == engAdd) = false := by rcases ho with ho | ho <;> rw [ho] <;> decide
  have h2 : isLatticeOp e.opc = false := by rcases ho with ho | ho <;> rw [ho] <;> decide
  simp [resolve, ha, apertureOf_own h, accessOf, h1, h2, fld_own h]

/-- A piece of a read within a sound own SRF gives its bytes and changes nothing. -/
theorem engPerform_own_read {s : State} {who : Access} {off m : Nat} (hw : who.core = s.focus) (h : off < 2 ^ 22)
    (hn : off + m ≤ srfSize) (hp : s.core.srfPoison = []) (hk : s.core.badBanks.length ≤ 4) :
    engPerform s who 1 (engEntry s engRead (ownAddr off) m []) =
      .ok ((List.range m).map fun i => cellGet s.core.srfSeen (off + i), s) := by
  have hr := resolve_own (s := s) (who := who) (e := engEntry s engRead (ownAddr off) m []) h rfl (.inl rfl)
  have hg : s.getCore s.focus = s.core := by simp [State.getCore]
  have hs : serve s who.core (engEntry s engRead (ownAddr off) m []) ⟨.srf who.core off, 0, 0⟩ =
      .ok ((List.range m).map fun i => cellGet s.core.srfSeen (off + i), s) := by
    simp [serve, Target.remote, engEntry, engRead, isAtomic, engAdd, isStore, engWrite, serveLoad, hw, hg, Core.srfBad, hp,
      locBytes, locByte, Nat.not_lt.2 hk]
  have hf : frontTrap (engEntry s engRead (ownAddr off) m []).addr (engEntry s engRead (ownAddr off) m []).size 1
      (fun _ => true) (writesMem (engEntry s engRead (ownAddr off) m []).opc) = none := frontTrap_own h hn _
  rw [engPerform, hf]
  simp only [perform, hr, bind, Except.bind, serveAt, Target.cut, Target.remote, hs, Bool.false_eq_true, if_false]

/-- A piece of a write within the own SRF leaves its bytes there. -/
theorem engPerform_own_write {s : State} {who : Access} {off m : Nat} (b : List Byte) (hw : who.core = s.focus)
    (h : off < 2 ^ 22) (hn : off + m ≤ srfSize) :
    engPerform s who 1 (engEntry s engWrite (ownAddr off) m b) =
      .ok ([], { s with core := s.core.putSrf (atAddr off b) }) := by
  have hr := resolve_own (s := s) (who := who) (e := engEntry s engWrite (ownAddr off) m b) h rfl (.inr rfl)
  have hs : serve s who.core (engEntry s engWrite (ownAddr off) m b) ⟨.srf who.core off, 0, 0⟩ =
      .ok ([], { s with core := s.core.putSrf (atAddr off b) }) := by
    simp [serve, Target.remote, engEntry, isAtomic, engAdd, isStore, engWrite, serveStore, hw, State.onCore,
      State.putCore, State.getCore]
  have hf : frontTrap (engEntry s engWrite (ownAddr off) m b).addr (engEntry s engWrite (ownAddr off) m b).size 1
      (fun _ => true) (writesMem (engEntry s engWrite (ownAddr off) m b).opc) = none := frontTrap_own h hn _
  rw [engPerform, hf]
  simp only [perform, hr, bind, Except.bind, serveAt, Target.cut, Target.remote, hs, Bool.false_eq_true, if_false]

theorem engAct_own_write {s : State} {who : Access} {off m : Nat} (b : List Byte) (hw : who.core = s.focus)
    (h : off < 2 ^ 22) (hn : off + m ≤ srfSize) :
    engAct s who 1 (engEntry s engWrite (ownAddr off) m b) = .ok { s with core := s.core.putSrf (atAddr off b) } := by
  simp only [engAct, engPerform_own_write b hw h hn]

/-! ## A whole transfer -/

/-- A read of a range of a sound own SRF gives its bytes and changes nothing. -/
theorem linePieces_own_read {s : State} {who : Access} (hw : who.core = s.focus) (hp : s.core.srfPoison = [])
    (hb : s.core.badBanks.length ≤ 4) :
    ∀ (k off n : Nat) (acc : List Byte), off + n ≤ srfSize → (n = 0 ∨ n + off % 128 ≤ 128 * k) →
      (linePieces k (ownAddr off) n).foldlM (m := EngM) (fun acc p => do
        let (b, s) ← engPerform acc.2 who 1 (engEntry acc.2 engRead p.1 p.2 [])
        .ok (acc.1 ++ b, s)) (acc, s) =
      .ok (acc ++ (List.range n).map fun i => cellGet s.core.srfSeen (off + i), s) := by
  intro k
  induction k with
  | zero =>
    intro off n acc _ hk
    obtain rfl : n = 0 := hk.elim id fun h => by omega
    simp [linePieces, pure, Except.pure]
  | succ k ih =>
    intro off n acc hn hk
    by_cases h0 : n = 0
    · subst h0
      simp [linePieces, pure, Except.pure]
    have hs : srfSize = 0x300000 := rfl
    have ho : off < 2 ^ 22 := by omega
    have hmod : (ownAddr off).toNat % 128 = off % 128 := by
      rw [ownAddr_toNat ho]
      omega
    obtain ⟨m, hm⟩ : ∃ m, m = Nat.min n (128 - off % 128) := ⟨_, rfl⟩
    have hm1 : m ≤ n := hm ▸ Nat.min_le_left _ _
    have hm2 : m ≤ 128 - off % 128 := hm ▸ Nat.min_le_right _ _
    have hm3 : m = n ∨ m = 128 - off % 128 := by
      rcases Nat.le_total n (128 - off % 128) with h | h
      · exact .inl (hm.trans (Nat.min_eq_left h))
      · exact .inr (hm.trans (Nat.min_eq_right h))
    have hl : linePieces (k + 1) (ownAddr off) n = (ownAddr off, m) :: linePieces k (ownAddr (off + m)) (n - m) := by
      rw [linePieces, if_neg (by simpa using h0), hmod, ← hm]
      dsimp only
      rw [ownAddr_add]
    have hr : (List.range n).map (fun i => cellGet s.core.srfSeen (off + i)) =
        (List.range m).map (fun i => cellGet s.core.srfSeen (off + i)) ++
          (List.range (n - m)).map fun i => cellGet s.core.srfSeen (off + m + i) := by
      conv_lhs => rw [show n = m + (n - m) by omega, List.range_add, List.map_append, List.map_map]
      simp [Function.comp_def, Nat.add_assoc]
    rw [hl, List.foldlM_cons]
    simp only [engPerform_own_read hw ho (show off + m ≤ srfSize by omega) hp hb, bind, Except.bind]
    have := ih (off + m) (n - m) (acc ++ (List.range m).map fun i => cellGet s.core.srfSeen (off + i)) (by omega)
      (by clear hm; omega)
    simp only [bind, Except.bind] at this
    rw [this, hr, List.append_assoc]

theorem engLoad_own {s : State} {who : Access} (hw : who.core = s.focus) (hp : s.core.srfPoison = [])
    (hb : s.core.badBanks.length ≤ 4) {off n : Nat}
    (hn : off + n ≤ srfSize) :
    engLoad s who (ownAddr off) n = .ok ((List.range n).map fun i => cellGet s.core.srfSeen (off + i), s) := by
  have := linePieces_own_read hw hp hb (n / 128 + 2) off n [] hn (.inr (by omega))
  simpa [engLoad, pieces] using this

/-- A write of a range of the own SRF completes; the core stays in focus. -/
theorem linePieces_own_write {who : Access} :
    ∀ (k off n : Nat) (b : List Byte) (s : State), who.core = s.focus → off + n ≤ srfSize →
      ∃ r, (linePieces k (ownAddr off) n).foldlM (m := EngM) (fun (acc : List Byte × State) p => do
          let s ← engAct acc.2 who 1 (engEntry acc.2 engWrite p.1 p.2 (acc.1.take p.2))
          .ok (acc.1.drop p.2, s)) (b, s) = .ok r ∧ r.2.focus = s.focus := by
  intro k
  induction k with
  | zero => intro off n b s _ _; exact ⟨(b, s), rfl, rfl⟩
  | succ k ih =>
    intro off n b s hw hn
    by_cases h0 : n = 0
    · subst h0
      exact ⟨(b, s), by simp [linePieces, pure, Except.pure], rfl⟩
    have hs : srfSize = 0x300000 := rfl
    have ho : off < 2 ^ 22 := by omega
    obtain ⟨m, hm, hl⟩ : ∃ m, m ≤ n ∧
        linePieces (k + 1) (ownAddr off) n = (ownAddr off, m) :: linePieces k (ownAddr (off + m)) (n - m) :=
      ⟨Nat.min n (128 - (ownAddr off).toNat % 128), Nat.min_le_left _ _, by
        rw [linePieces, if_neg (by simpa using h0)]
        dsimp only
        rw [ownAddr_add]⟩
    obtain ⟨r, hr, hf⟩ := ih (off + m) (n - m) (b.drop m)
      { s with core := s.core.putSrf (atAddr off (b.take m)) } hw (by omega)
    refine ⟨r, ?_, hf⟩
    rw [hl, List.foldlM_cons]
    simp only [engAct_own_write (b.take m) hw ho (show off + m ≤ srfSize by omega), bind, Except.bind]
    simpa only [bind, Except.bind] using hr

theorem engStore_own {s : State} {who : Access} (hw : who.core = s.focus) {off : Nat} {b : List Byte}
    (hn : off + b.length ≤ srfSize) :
    ∃ s', engStore s who (ownAddr off) b = .ok ((), s') ∧ s'.focus = s.focus := by
  obtain ⟨r, hr, hf⟩ := linePieces_own_write (b.length / 128 + 2) off b.length b s hw hn
  refine ⟨r.2, ?_, hf⟩
  simp only [bind, Except.bind] at hr
  simp only [engStore, pieces, bind, Except.bind, hr]

/-- Every page of an area in the own SRF passes (R430). -/
theorem checkPages_own {s : State} {who : Access} {opc : BitVec 8} {off n : Nat} (ho : opc = engRead ∨ opc = engWrite)
    (hn : off + n ≤ srfSize) : checkPages s who opc (ownAddr off) n = .ok s := by
  have hs : srfSize = 0x300000 := rfl
  unfold checkPages
  generalize hl : List.range (n / 4096) = l
  have hb : ∀ i ∈ l, i < n / 4096 := fun i hi => by simpa [← hl] using hi
  clear hl
  induction l with
  | nil => rfl
  | cons i l ih =>
    have hi := hb i (by simp)
    have hi' : off + 4096 * i < 2 ^ 22 := by omega
    have hf := frontTrap_own hi' (show off + 4096 * i + 4096 ≤ srfSize by omega) (writesMem opc)
    have hr := resolve_own (s := s) (who := who) (e := engEntry s opc (ownAddr (off + 4096 * i)) 4096 []) hi' rfl ho
    rw [List.foldlM_cons]
    simp only [ownAddr_add, engEntry] at hr ⊢
    simp only [hf, hr, bind, Except.bind]
    simpa only [ownAddr_add, engEntry] using ih fun j hj => hb j (by simp [hj])

/-! ## Sound areas (R432, R433) -/

theorem leNat_leBytes (n x : Nat) : leNat (leBytes n x) = x % 256 ^ n := by
  induction n generalizing x with
  | zero => simp [leBytes, leNat, Nat.mod_one]
  | succ n ih =>
    simp only [leBytes, leNat, ih, BitVec.toNat_ofNat]
    rw [show 256 ^ (n + 1) = 256 * 256 ^ n from Nat.pow_succ', Nat.mod_mul]

theorem cellGet_cellPutAll_atAddr (b : List Byte) : ∀ {l : List Host.Cell} (a i : Nat), Memory.wf l = true →
    i < b.length → cellGet (cellPutAll l (atAddr a b)) (a + i) = b.getD i 0 := by
  induction b with
  | nil => intro l a i _ h; simp at h
  | cons x b ih =>
    intro l a i w h
    have hc : cellPutAll l (atAddr a (x :: b)) = cellPutAll (cellPut l a x) (atAddr (a + 1) b) := rfl
    have w' := cellPut_wf a x w
    rw [hc]
    cases i with
    | zero =>
      rw [cellGet_cellPutAll_other _ w' ?_]
      · simpa using cellGet_cellPut_same a x w
      · intro c hc
        have : ∀ (b : List Byte) (k : Nat), ∀ c ∈ atAddr k b, k ≤ c.1 := by
          intro b
          induction b with
          | nil => simp [atAddr]
          | cons y b ihb =>
            intro k c hc
            rcases List.mem_cons.1 hc with rfl | hc
            · exact Nat.le_refl _
            · exact (Nat.le_succ k).trans (ihb (k + 1) c hc)
        have := this b (a + 1) c hc
        omega
    | succ i =>
      have := ih (a + 1) i w' (by simpa using h)
      rw [show a + (i + 1) = a + 1 + i by omega, this]
      simp

/-- An area whose header is the core's own and whose check word is the CRC of the rest is sound. -/
theorem areaBad_sound (s : State) (head body : List Byte) (h : head.length = 56)
    (hh : ((headerWords s s.core).zipIdx.all fun (w, i) =>
      if i == 0 then fld (areaWord head 0) 0 39 == fld w 0 39 else areaWord head 8 == w) = true) :
    areaBad s (head ++ leBytes 8 (crc32 (head ++ body)).toNat ++ body) = false := by
  obtain ⟨c, hc⟩ : ∃ c, c = crc32 (head ++ body) := ⟨_, rfl⟩
  rw [← hc]
  have h8 : (leBytes 8 c.toNat).length = 8 := rfl
  have h0 : ∀ off n, off + n ≤ 56 → areaNat (head ++ leBytes 8 c.toNat ++ body) off n = areaNat head off n := by
    intro off n hn
    rw [areaNat, areaNat, List.append_assoc, List.drop_append_of_le_length (by omega),
      List.take_append_of_le_length (by simp; omega)]
  have h1 : areaNat (head ++ leBytes 8 c.toNat ++ body) 56 4 = c.toNat := by
    have ht : ((leBytes 8 c.toNat ++ body).take 4) = leBytes 4 c.toNat := rfl
    rw [areaNat, List.append_assoc, ← h, List.drop_left, ht, leNat_leBytes]
    exact Nat.mod_eq_of_lt (by have := c.isLt; omega)
  have h2 : (head ++ leBytes 8 c.toNat ++ body).take 56 ++ (head ++ leBytes 8 c.toNat ++ body).drop 64 = head ++ body := by
    have e1 : (head ++ leBytes 8 c.toNat ++ body).take 56 = head := by
      rw [List.append_assoc, ← h, List.take_left]
    have e2 : (head ++ leBytes 8 c.toNat ++ body).drop 64 = body := by
      rw [show 64 = (head ++ leBytes 8 c.toNat).length by simp [h, h8], List.drop_left]
    rw [e1, e2]
  have hw : ∀ off, off + 8 ≤ 56 → areaWord (head ++ leBytes 8 c.toNat ++ body) off = areaWord head off := fun off ho => by
    rw [areaWord, areaWord, h0 off 8 ho]
  rw [areaBad, h1, h2, ← hc, hw 0 (by omega), hw 8 (by omega), hh]
  simp

/-! ## The length of an area (R431) -/

@[simp] theorem leBytes_length (n x : Nat) : (leBytes n x).length = n := by
  induction n generalizing x with
  | zero => rfl
  | succ n ih => simp [leBytes, ih]

@[simp] theorem sect_length (n : Nat) (b : List Byte) : (sect n b).length = n := by
  simp [sect]

theorem flatMap_length {α : Type} (f : α → List Byte) (n : Nat) :
    ∀ l : List α, (∀ x ∈ l, (f x).length = n) → (l.flatMap f).length = l.length * n := by
  intro l
  induction l with
  | nil => simp
  | cons x l ih =>
    intro h
    rw [List.flatMap_cons, List.length_append, h x (by simp), ih fun y hy => h y (by simp [hy]), List.length_cons,
      Nat.succ_mul, Nat.add_comm]

@[simp] theorem wordsBytes_length (l : List Word) : (wordsBytes l).length = l.length * 8 :=
  flatMap_length _ 8 l fun _ _ => leBytes_length _ _

theorem queueBytes_length (stamp off : Nat) (e : Option QEntry) : (queueBytes stamp off e).length = 64 := by
  cases e <;> simp [queueBytes, openBytes]

theorem logBytes_length (now : Nat) (e : Option LogEntry) : (logBytes now e).length = 64 := by
  cases e
  · exact List.length_replicate
  · simp [logBytes, mixFields]

theorem longData_length (e : Option LogEntry) : (longData e).length = 512 := by
  cases e
  · exact List.length_replicate
  · exact sect_length _ _

theorem lanes_length {α : Type} (v : Vector (Vector α 16) 4) : (v.toList.flatMap fun t => t.toList).length = 64 := by
  rw [List.length_flatMap]
  have : v.toList.map (fun t => t.toList.length) = List.replicate 4 16 := by
    rw [List.eq_replicate_iff]
    exact ⟨by simp, by simp⟩
  rw [this]
  rfl

theorem flatMap_length_of {α : Type} {f : α → List Byte} {l : List α} (k n : Nat) (hl : l.length = k)
    (h : ∀ x, (f x).length = n) : (l.flatMap f).length = k * n := by
  rw [flatMap_length f n l fun x _ => h x, hl]

theorem queueSection_length (stamp : Nat) (c : Core) : (queueSection stamp c).length = 32 * 64 :=
  flatMap_length_of 32 64 List.length_range fun _ => queueBytes_length _ _ _

theorem logSection_length (now : Nat) (v : Vector (Option LogEntry) 32) : (logSection now v).length = 32 * 64 :=
  flatMap_length_of 32 64 Vector.length_toList fun _ => logBytes_length _ _

/-- Every section of the area has the length that R431 gives it. -/
theorem contextBody_length (stamp : Nat) (c : Core) : (contextBody stamp c).length = 0xE0000 - 64 := by
  have h1 : (c.kern.v.toList.flatMap fun x => leBytes 512 x.toNat).length = 64 * 512 :=
    flatMap_length_of 64 512 Vector.length_toList fun _ => leBytes_length _ _
  have h2 : (c.kern.m.toList.flatMap fun x => leBytes 128 x.toNat).length = 8 * 128 :=
    flatMap_length_of 8 128 Vector.length_toList fun _ => leBytes_length _ _
  have h3 : ((accLanes c.kern).flatMap fun a => sect 6144 (a.m.flatMap elemBytes)).length = 64 * 6144 :=
    flatMap_length_of 64 6144 (lanes_length _) fun _ => sect_length _ _
  have h4 : ((latchLanes c.kern).flatMap fun q => leBytes 2048 q.payload.toNat).length = 64 * 2048 :=
    flatMap_length_of 64 2048 (lanes_length _) fun _ => leBytes_length _ _
  have h5 : ((latchLanes c.kern).flatMap fun q => q.scales.toList.flatMap fun p =>
      sect 512 (leBytes 256 p.scale.toNat ++ leBytes 2 p.band.toNat)).length = 64 * (4 * 512) :=
    flatMap_length_of 64 (4 * 512) (lanes_length _) fun _ =>
      flatMap_length_of 4 512 Vector.length_toList fun _ => sect_length _ _
  have h6 : ((List.range 8192).flatMap fun i => leBytes 8 (storeWord64 c.kern i).toNat).length = 8192 * 8 :=
    flatMap_length_of 8192 8 List.length_range fun _ => leBytes_length _ _
  have h7 : ∀ v : Vector (Option LogEntry) 32, (v.toList.flatMap longData).length = 32 * 512 := fun v =>
    flatMap_length_of 32 512 Vector.length_toList longData_length
  have h8 : (accLanes c.kern).length = 64 := lanes_length _
  unfold contextBody
  simp only [List.length_append, sect_length, queueSection_length, logSection_length, wordsBytes_length, List.length_map,
    Vector.length_toList]
  rw [h1, h2, h3, h4, h5, h6, h7, h7, h8]

theorem contextBytes_length (s : State) (c : Core) : (contextBytes s c).length = areaSize c := by
  simp only [contextBytes, List.length_append, sect_length, leBytes_length, contextBody_length, List.length_map,
    List.length_range, areaSize]
  omega

end Sys2Proof.Machine
end

