-- ==== Sys2Proof/Laws/Exec.lean ====
section
/-! SUPPORT. What `exec` calls for each operation. -/

namespace Sys2Proof.Machine

@[simp] theorem exec_add (w : RForm) (s : State) : exec (.add w) s = execAdd w s := rfl
@[simp] theorem exec_sub (w : RForm) (s : State) : exec (.sub w) s = execSub w s := rfl
@[simp] theorem exec_mul (w : RForm) (s : State) : exec (.mul w) s = execMul w s := rfl
@[simp] theorem exec_mulh (w : RForm) (s : State) : exec (.mulh w) s = execMulh w s := rfl
@[simp] theorem exec_div (w : RForm) (s : State) : exec (.div w) s = execDiv w s := rfl
@[simp] theorem exec_rem (w : RForm) (s : State) : exec (.rem w) s = execRem w s := rfl
@[simp] theorem exec_min (w : RForm) (s : State) : exec (.min w) s = execMin w s := rfl
@[simp] theorem exec_max (w : RForm) (s : State) : exec (.max w) s = execMax w s := rfl
@[simp] theorem exec_abs (w : RForm) (s : State) : exec (.abs w) s = execAbs w s := rfl
@[simp] theorem exec_neg (w : RForm) (s : State) : exec (.neg w) s = execNeg w s := rfl
@[simp] theorem exec_and (w : RForm) (s : State) : exec (.and w) s = execAnd w s := rfl
@[simp] theorem exec_or (w : RForm) (s : State) : exec (.or w) s = execOr w s := rfl
@[simp] theorem exec_xor (w : RForm) (s : State) : exec (.xor w) s = execXor w s := rfl
@[simp] theorem exec_andn (w : RForm) (s : State) : exec (.andn w) s = execAndn w s := rfl
@[simp] theorem exec_shl (w : RForm) (s : State) : exec (.shl w) s = execShl w s := rfl
@[simp] theorem exec_shr (w : RForm) (s : State) : exec (.shr w) s = execShr w s := rfl
@[simp] theorem exec_sra (w : RForm) (s : State) : exec (.sra w) s = execSra w s := rfl
@[simp] theorem exec_bcntPop (w : RForm) (s : State) : exec (.bcntPop w) s = execBcntPop w s := rfl
@[simp] theorem exec_bcntClz (w : RForm) (s : State) : exec (.bcntClz w) s = execBcntClz w s := rfl
@[simp] theorem exec_bcntCtz (w : RForm) (s : State) : exec (.bcntCtz w) s = execBcntCtz w s := rfl
@[simp] theorem exec_addi (w : IForm) (s : State) : exec (.addi w) s = execAddi w s := rfl
@[simp] theorem exec_andi (w : IForm) (s : State) : exec (.andi w) s = execAndi w s := rfl
@[simp] theorem exec_ori (w : IForm) (s : State) : exec (.ori w) s = execOri w s := rfl
@[simp] theorem exec_xori (w : IForm) (s : State) : exec (.xori w) s = execXori w s := rfl
@[simp] theorem exec_andni (w : IForm) (s : State) : exec (.andni w) s = execAndni w s := rfl
@[simp] theorem exec_shli (w : IForm) (s : State) : exec (.shli w) s = execShli w s := rfl
@[simp] theorem exec_shri (w : IForm) (s : State) : exec (.shri w) s = execShri w s := rfl
@[simp] theorem exec_srai (w : IForm) (s : State) : exec (.srai w) s = execSrai w s := rfl
@[simp] theorem exec_movi (w : IForm) (s : State) : exec (.movi w) s = execMovi w s := rfl
@[simp] theorem exec_movh (w : IForm) (s : State) : exec (.movh w) s = execMovh w s := rfl
@[simp] theorem exec_lea (w : RForm) (s : State) : exec (.lea w) s = execLea w s := rfl
@[simp] theorem exec_pcrel (w : IForm) (s : State) : exec (.pcrel w) s = execPcrel w s := rfl
@[simp] theorem exec_bfxZ (w : IForm) (s : State) : exec (.bfxZ w) s = execBfxZ w s := rfl
@[simp] theorem exec_bfxS (w : IForm) (s : State) : exec (.bfxS w) s = execBfxS w s := rfl
@[simp] theorem exec_bfxI (w : IForm) (s : State) : exec (.bfxI w) s = execBfxI w s := rfl
@[simp] theorem exec_cmp (w : RForm) (s : State) : exec (.cmp w) s = execCmp w s := rfl
@[simp] theorem exec_cmpi (w : IForm) (s : State) : exec (.cmpi w) s = execCmpi w s := rfl
@[simp] theorem exec_pand (w : RForm) (s : State) : exec (.pand w) s = execPand w s := rfl
@[simp] theorem exec_por (w : RForm) (s : State) : exec (.por w) s = execPor w s := rfl
@[simp] theorem exec_pxor (w : RForm) (s : State) : exec (.pxor w) s = execPxor w s := rfl
@[simp] theorem exec_pandn (w : RForm) (s : State) : exec (.pandn w) s = execPandn w s := rfl
@[simp] theorem exec_porn (w : RForm) (s : State) : exec (.porn w) s = execPorn w s := rfl
@[simp] theorem exec_pmovGet (w : RForm) (s : State) : exec (.pmovGet w) s = execPmovGet w s := rfl
@[simp] theorem exec_pmovPut (w : RForm) (s : State) : exec (.pmovPut w) s = execPmovPut w s := rfl
@[simp] theorem exec_sel (w : RForm) (s : State) : exec (.sel w) s = execSel w s := rfl
@[simp] theorem exec_fadd (w : RForm) (s : State) : exec (.fadd w) s = execFadd w s := rfl
@[simp] theorem exec_fsub (w : RForm) (s : State) : exec (.fsub w) s = execFsub w s := rfl
@[simp] theorem exec_fmul (w : RForm) (s : State) : exec (.fmul w) s = execFmul w s := rfl
@[simp] theorem exec_fdiv (w : RForm) (s : State) : exec (.fdiv w) s = execFdiv w s := rfl
@[simp] theorem exec_fsqrt (w : RForm) (s : State) : exec (.fsqrt w) s = execFsqrt w s := rfl
@[simp] theorem exec_fma (w : RForm) (s : State) : exec (.fma w) s = execFma w s := rfl
@[simp] theorem exec_fmin (w : RForm) (s : State) : exec (.fmin w) s = execFmin w s := rfl
@[simp] theorem exec_fmax (w : RForm) (s : State) : exec (.fmax w) s = execFmax w s := rfl
@[simp] theorem exec_fsgnCpy (w : RForm) (s : State) : exec (.fsgnCpy w) s = execFsgnCpy w s := rfl
@[simp] theorem exec_fsgnNeg (w : RForm) (s : State) : exec (.fsgnNeg w) s = execFsgnNeg w s := rfl
@[simp] theorem exec_fsgnXor (w : RForm) (s : State) : exec (.fsgnXor w) s = execFsgnXor w s := rfl
@[simp] theorem exec_fclass (w : RForm) (s : State) : exec (.fclass w) s = execFclass w s := rfl
@[simp] theorem exec_cvt (w : RForm) (s : State) : exec (.cvt w) s = execCvt w s := rfl
@[simp] theorem exec_br (w : JForm) (s : State) : exec (.br w) s = execBr w s := rfl
@[simp] theorem exec_call (w : JForm) (s : State) : exec (.call w) s = execCall w s := rfl
@[simp] theorem exec_jmp (w : RForm) (s : State) : exec (.jmp w) s = execJmp w s := rfl
@[simp] theorem exec_bcz (w : IForm) (s : State) : exec (.bcz w) s = execBcz w s := rfl
@[simp] theorem exec_loop (w : IForm) (s : State) : exec (.loop w) s = execLoop w s := rfl
@[simp] theorem exec_ld (w : MForm) (s : State) : exec (.ld w) s = execLd w s := rfl
@[simp] theorem exec_st (w : MForm) (s : State) : exec (.st w) s = execSt w s := rfl
@[simp] theorem exec_rdsys (w : IForm) (s : State) : exec (.rdsys w) s = execRdsys w s := rfl
@[simp] theorem exec_wrsys (w : IForm) (s : State) : exec (.wrsys w) s = execWrsys w s := rfl
@[simp] theorem exec_xchsys (w : IForm) (s : State) : exec (.xchsys w) s = execXchsys w s := rfl
@[simp] theorem exec_trapSw (w : IForm) (s : State) : exec (.trapSw w) s = execTrapSw w s := rfl
@[simp] theorem exec_trapCall (w : IForm) (s : State) : exec (.trapCall w) s = execTrapCall w s := rfl
@[simp] theorem exec_brk (w : IForm) (s : State) : exec (.brk w) s = execBrk w s := rfl
@[simp] theorem exec_tret (w : IForm) (s : State) : exec (.tret w) s = execTret w s := rfl
@[simp] theorem exec_halt (w : IForm) (s : State) : exec (.halt w) s = execHalt w s := rfl
@[simp] theorem exec_idle (w : IForm) (s : State) : exec (.idle w) s = execIdle w s := rfl
@[simp] theorem exec_work (w : IForm) (s : State) : exec (.work w) s = execWork w s := rfl
@[simp] theorem exec_vadd (w : RForm) (s : State) : exec (.vadd w) s = execVadd w s := rfl
@[simp] theorem exec_vsub (w : RForm) (s : State) : exec (.vsub w) s = execVsub w s := rfl
@[simp] theorem exec_vmul (w : RForm) (s : State) : exec (.vmul w) s = execVmul w s := rfl
@[simp] theorem exec_vmulh (w : RForm) (s : State) : exec (.vmulh w) s = execVmulh w s := rfl
@[simp] theorem exec_vfma (w : RForm) (s : State) : exec (.vfma w) s = execVfma w s := rfl
@[simp] theorem exec_vfms (w : RForm) (s : State) : exec (.vfms w) s = execVfms w s := rfl
@[simp] theorem exec_vfnma (w : RForm) (s : State) : exec (.vfnma w) s = execVfnma w s := rfl
@[simp] theorem exec_vfnms (w : RForm) (s : State) : exec (.vfnms w) s = execVfnms w s := rfl
@[simp] theorem exec_vmin (w : RForm) (s : State) : exec (.vmin w) s = execVmin w s := rfl
@[simp] theorem exec_vmax (w : RForm) (s : State) : exec (.vmax w) s = execVmax w s := rfl
@[simp] theorem exec_vabs (w : RForm) (s : State) : exec (.vabs w) s = execVabs w s := rfl
@[simp] theorem exec_vneg (w : RForm) (s : State) : exec (.vneg w) s = execVneg w s := rfl
@[simp] theorem exec_vclamp (w : RForm) (s : State) : exec (.vclamp w) s = execVclamp w s := rfl
@[simp] theorem exec_vsgnCpy (w : RForm) (s : State) : exec (.vsgnCpy w) s = execVsgnCpy w s := rfl
@[simp] theorem exec_vsgnNeg (w : RForm) (s : State) : exec (.vsgnNeg w) s = execVsgnNeg w s := rfl
@[simp] theorem exec_vsgnXor (w : RForm) (s : State) : exec (.vsgnXor w) s = execVsgnXor w s := rfl
@[simp] theorem exec_vrint (w : RForm) (s : State) : exec (.vrint w) s = execVrint w s := rfl
@[simp] theorem exec_vrintX (w : RForm) (s : State) : exec (.vrintX w) s = execVrintX w s := rfl
@[simp] theorem exec_vscale (w : RForm) (s : State) : exec (.vscale w) s = execVscale w s := rfl
@[simp] theorem exec_vfnDiv (w : RForm) (s : State) : exec (.vfnDiv w) s = execVfnDiv w s := rfl
@[simp] theorem exec_vfnSqrt (w : RForm) (s : State) : exec (.vfnSqrt w) s = execVfnSqrt w s := rfl
@[simp] theorem exec_vfnRsqrt (w : RForm) (s : State) : exec (.vfnRsqrt w) s = execVfnRsqrt w s := rfl
@[simp] theorem exec_vfnRecip (w : RForm) (s : State) : exec (.vfnRecip w) s = execVfnRecip w s := rfl
@[simp] theorem exec_vfnExp (w : RForm) (s : State) : exec (.vfnExp w) s = execVfnExp w s := rfl
@[simp] theorem exec_vfnExp2 (w : RForm) (s : State) : exec (.vfnExp2 w) s = execVfnExp2 w s := rfl
@[simp] theorem exec_vfnLog (w : RForm) (s : State) : exec (.vfnLog w) s = execVfnLog w s := rfl
@[simp] theorem exec_vfnLog2 (w : RForm) (s : State) : exec (.vfnLog2 w) s = execVfnLog2 w s := rfl
@[simp] theorem exec_vfnTanh (w : RForm) (s : State) : exec (.vfnTanh w) s = execVfnTanh w s := rfl
@[simp] theorem exec_vfnLogistic (w : RForm) (s : State) : exec (.vfnLogistic w) s = execVfnLogistic w s := rfl
@[simp] theorem exec_vfnSinpi (w : RForm) (s : State) : exec (.vfnSinpi w) s = execVfnSinpi w s := rfl
@[simp] theorem exec_vfnCospi (w : RForm) (s : State) : exec (.vfnCospi w) s = execVfnCospi w s := rfl
@[simp] theorem exec_vlogAnd (w : RForm) (s : State) : exec (.vlogAnd w) s = execVlogAnd w s := rfl
@[simp] theorem exec_vlogOr (w : RForm) (s : State) : exec (.vlogOr w) s = execVlogOr w s := rfl
@[simp] theorem exec_vlogXor (w : RForm) (s : State) : exec (.vlogXor w) s = execVlogXor w s := rfl
@[simp] theorem exec_vlogAndn (w : RForm) (s : State) : exec (.vlogAndn w) s = execVlogAndn w s := rfl
@[simp] theorem exec_vlogNot (w : RForm) (s : State) : exec (.vlogNot w) s = execVlogNot w s := rfl
@[simp] theorem exec_vshShl (w : RForm) (s : State) : exec (.vshShl w) s = execVshShl w s := rfl
@[simp] theorem exec_vshShr (w : RForm) (s : State) : exec (.vshShr w) s = execVshShr w s := rfl
@[simp] theorem exec_vshSra (w : RForm) (s : State) : exec (.vshSra w) s = execVshSra w s := rfl
@[simp] theorem exec_vbcntPop (w : RForm) (s : State) : exec (.vbcntPop w) s = execVbcntPop w s := rfl
@[simp] theorem exec_vbcntClz (w : RForm) (s : State) : exec (.vbcntClz w) s = execVbcntClz w s := rfl
@[simp] theorem exec_vbcntCtz (w : RForm) (s : State) : exec (.vbcntCtz w) s = execVbcntCtz w s := rfl
@[simp] theorem exec_vcmp (w : RForm) (s : State) : exec (.vcmp w) s = execVcmp w s := rfl
@[simp] theorem exec_vsel (w : RForm) (s : State) : exec (.vsel w) s = execVsel w s := rfl
@[simp] theorem exec_mlogAnd (w : RForm) (s : State) : exec (.mlogAnd w) s = execMlogAnd w s := rfl
@[simp] theorem exec_mlogOr (w : RForm) (s : State) : exec (.mlogOr w) s = execMlogOr w s := rfl
@[simp] theorem exec_mlogXor (w : RForm) (s : State) : exec (.mlogXor w) s = execMlogXor w s := rfl
@[simp] theorem exec_mlogAndn (w : RForm) (s : State) : exec (.mlogAndn w) s = execMlogAndn w s := rfl
@[simp] theorem exec_mlogNot (w : RForm) (s : State) : exec (.mlogNot w) s = execMlogNot w s := rfl
@[simp] theorem exec_mlogSet (w : RForm) (s : State) : exec (.mlogSet w) s = execMlogSet w s := rfl
@[simp] theorem exec_mlogClr (w : RForm) (s : State) : exec (.mlogClr w) s = execMlogClr w s := rfl
@[simp] theorem exec_mpopCnt (w : RForm) (s : State) : exec (.mpopCnt w) s = execMpopCnt w s := rfl
@[simp] theorem exec_mpopFirst (w : RForm) (s : State) : exec (.mpopFirst w) s = execMpopFirst w s := rfl
@[simp] theorem exec_vcvt (w : RForm) (s : State) : exec (.vcvt w) s = execVcvt w s := rfl
@[simp] theorem exec_vpack (w : RForm) (s : State) : exec (.vpack w) s = execVpack w s := rfl
@[simp] theorem exec_vunpack (w : RForm) (s : State) : exec (.vunpack w) s = execVunpack w s := rfl
@[simp] theorem exec_vpermIdx (w : RForm) (s : State) : exec (.vpermIdx w) s = execVpermIdx w s := rfl
@[simp] theorem exec_vpermRot (w : RForm) (s : State) : exec (.vpermRot w) s = execVpermRot w s := rfl
@[simp] theorem exec_vpermXor (w : RForm) (s : State) : exec (.vpermXor w) s = execVpermXor w s := rfl
@[simp] theorem exec_vbcastLane (w : RForm) (s : State) : exec (.vbcastLane w) s = execVbcastLane w s := rfl
@[simp] theorem exec_vbcastElem (w : RForm) (s : State) : exec (.vbcastElem w) s = execVbcastElem w s := rfl
@[simp] theorem exec_vshuf (w : RForm) (s : State) : exec (.vshuf w) s = execVshuf w s := rfl
@[simp] theorem exec_vred (w : RForm) (s : State) : exec (.vred w) s = execVred w s := rfl
@[simp] theorem exec_vscan (w : RForm) (s : State) : exec (.vscan w) s = execVscan w s := rfl
@[simp] theorem exec_vidx (w : RForm) (s : State) : exec (.vidx w) s = execVidx w s := rfl
@[simp] theorem exec_vidxElem (w : RForm) (s : State) : exec (.vidxElem w) s = execVidxElem w s := rfl
@[simp] theorem exec_vidxFlat (w : RForm) (s : State) : exec (.vidxFlat w) s = execVidxFlat w s := rfl
@[simp] theorem exec_vmovk (w : RForm) (s : State) : exec (.vmovk w) s = execVmovk w s := rfl
@[simp] theorem exec_vext (w : RForm) (s : State) : exec (.vext w) s = execVext w s := rfl
@[simp] theorem exec_vins (w : RForm) (s : State) : exec (.vins w) s = execVins w s := rfl
@[simp] theorem exec_vflagRd (w : RForm) (s : State) : exec (.vflagRd w) s = execVflagRd w s := rfl
@[simp] theorem exec_vflagWr (w : RForm) (s : State) : exec (.vflagWr w) s = execVflagWr w s := rfl
@[simp] theorem exec_vflagClr (w : RForm) (s : State) : exec (.vflagClr w) s = execVflagClr w s := rfl
@[simp] theorem exec_vcmul (w : RForm) (s : State) : exec (.vcmul w) s = execVcmul w s := rfl
@[simp] theorem exec_vcmulConj (w : RForm) (s : State) : exec (.vcmulConj w) s = execVcmulConj w s := rfl
@[simp] theorem exec_vcmulFma (w : RForm) (s : State) : exec (.vcmulFma w) s = execVcmulFma w s := rfl
@[simp] theorem exec_vcmulFmac (w : RForm) (s : State) : exec (.vcmulFmac w) s = execVcmulFmac w s := rfl
@[simp] theorem exec_vdot (w : RForm) (s : State) : exec (.vdot w) s = execVdot w s := rfl
@[simp] theorem exec_tfillAll (w : RForm) (s : State) : exec (.tfillAll w) s = execTfillAll w s := rfl
@[simp] theorem exec_tfillPart (w : RForm) (s : State) : exec (.tfillPart w) s = execTfillPart w s := rfl
@[simp] theorem exec_tfillGath (w : RForm) (s : State) : exec (.tfillGath w) s = execTfillGath w s := rfl
@[simp] theorem exec_tmmaMadd (w : RForm) (s : State) : exec (.tmmaMadd w) s = execTmmaMadd w s := rfl
@[simp] theorem exec_tmmaAdif (w : RForm) (s : State) : exec (.tmmaAdif w) s = execTmmaAdif w s := rfl
@[simp] theorem exec_tmmaCselmax (w : RForm) (s : State) : exec (.tmmaCselmax w) s = execTmmaCselmax w s := rfl
@[simp] theorem exec_tmmaCselmin (w : RForm) (s : State) : exec (.tmmaCselmin w) s = execTmmaCselmin w s := rfl
@[simp] theorem exec_tmmaCmad (w : RForm) (s : State) : exec (.tmmaCmad w) s = execTmmaCmad w s := rfl
@[simp] theorem exec_tmmaSeq (w : RForm) (s : State) : exec (.tmmaSeq w) s = execTmmaSeq w s := rfl
@[simp] theorem exec_tclr (w : RForm) (s : State) : exec (.tclr w) s = execTclr w s := rfl
@[simp] theorem exec_taccRd (w : RForm) (s : State) : exec (.taccRd w) s = execTaccRd w s := rfl
@[simp] theorem exec_taccWr (w : RForm) (s : State) : exec (.taccWr w) s = execTaccWr w s := rfl
@[simp] theorem exec_tnorm (w : RForm) (s : State) : exec (.tnorm w) s = execTnorm w s := rfl
@[simp] theorem exec_tstatAcc (w : RForm) (s : State) : exec (.tstatAcc w) s = execTstatAcc w s := rfl
@[simp] theorem exec_tstatLatch (w : RForm) (s : State) : exec (.tstatLatch w) s = execTstatLatch w s := rfl
@[simp] theorem exec_tcopy (w : RForm) (s : State) : exec (.tcopy w) s = execTcopy w s := rfl
@[simp] theorem exec_tqclr (w : RForm) (s : State) : exec (.tqclr w) s = execTqclr w s := rfl
@[simp] theorem exec_tmerge (w : RForm) (s : State) : exec (.tmerge w) s = execTmerge w s := rfl
@[simp] theorem exec_xfft (w : RForm) (s : State) : exec (.xfft w) s = execXfft w s := rfl
@[simp] theorem exec_xifft (w : RForm) (s : State) : exec (.xifft w) s = execXifft w s := rfl
@[simp] theorem exec_xtrn (w : RForm) (s : State) : exec (.xtrn w) s = execXtrn w s := rfl
@[simp] theorem exec_xtrnTurn (w : RForm) (s : State) : exec (.xtrnTurn w) s = execXtrnTurn w s := rfl
@[simp] theorem exec_xtrnBack (w : RForm) (s : State) : exec (.xtrnBack w) s = execXtrnBack w s := rfl
@[simp] theorem exec_xcvt (w : RForm) (s : State) : exec (.xcvt w) s = execXcvt w s := rfl
@[simp] theorem exec_xexp (w : RForm) (s : State) : exec (.xexp w) s = execXexp w s := rfl
@[simp] theorem exec_xsclS (w : RForm) (s : State) : exec (.xsclS w) s = execXsclS w s := rfl
@[simp] theorem exec_xsclU (w : RForm) (s : State) : exec (.xsclU w) s = execXsclU w s := rfl
@[simp] theorem exec_xmov (w : RForm) (s : State) : exec (.xmov w) s = execXmov w s := rfl
@[simp] theorem exec_xhdr (w : RForm) (s : State) : exec (.xhdr w) s = execXhdr w s := rfl
@[simp] theorem exec_lds (w : MForm) (s : State) : exec (.lds w) s = execLds w s := rfl
@[simp] theorem exec_sts (w : MForm) (s : State) : exec (.sts w) s = execSts w s := rfl
@[simp] theorem exec_ldq (w : MForm) (s : State) : exec (.ldq w) s = execLdq w s := rfl
@[simp] theorem exec_stq (w : MForm) (s : State) : exec (.stq w) s = execStq w s := rfl
@[simp] theorem exec_pref (w : MForm) (s : State) : exec (.pref w) s = execPref w s := rfl
@[simp] theorem exec_stz (w : MForm) (s : State) : exec (.stz w) s = execStz w s := rfl
@[simp] theorem exec_amoAdd (w : MForm) (s : State) : exec (.amoAdd w) s = execAmoAdd w s := rfl
@[simp] theorem exec_amoAnd (w : MForm) (s : State) : exec (.amoAnd w) s = execAmoAnd w s := rfl
@[simp] theorem exec_amoOr (w : MForm) (s : State) : exec (.amoOr w) s = execAmoOr w s := rfl
@[simp] theorem exec_amoXor (w : MForm) (s : State) : exec (.amoXor w) s = execAmoXor w s := rfl
@[simp] theorem exec_amoMin (w : MForm) (s : State) : exec (.amoMin w) s = execAmoMin w s := rfl
@[simp] theorem exec_amoMax (w : MForm) (s : State) : exec (.amoMax w) s = execAmoMax w s := rfl
@[simp] theorem exec_amoExch (w : MForm) (s : State) : exec (.amoExch w) s = execAmoExch w s := rfl
@[simp] theorem exec_amoFadd (w : MForm) (s : State) : exec (.amoFadd w) s = execAmoFadd w s := rfl
@[simp] theorem exec_redAdd (w : MForm) (s : State) : exec (.redAdd w) s = execRedAdd w s := rfl
@[simp] theorem exec_redAnd (w : MForm) (s : State) : exec (.redAnd w) s = execRedAnd w s := rfl
@[simp] theorem exec_redOr (w : MForm) (s : State) : exec (.redOr w) s = execRedOr w s := rfl
@[simp] theorem exec_redXor (w : MForm) (s : State) : exec (.redXor w) s = execRedXor w s := rfl
@[simp] theorem exec_redMin (w : MForm) (s : State) : exec (.redMin w) s = execRedMin w s := rfl
@[simp] theorem exec_redMax (w : MForm) (s : State) : exec (.redMax w) s = execRedMax w s := rfl
@[simp] theorem exec_redFadd (w : MForm) (s : State) : exec (.redFadd w) s = execRedFadd w s := rfl
@[simp] theorem exec_cas (w : MForm) (s : State) : exec (.cas w) s = execCas w s := rfl
@[simp] theorem exec_join (w : MForm) (s : State) : exec (.join w) s = execJoin w s := rfl
@[simp] theorem exec_ldge (w : MForm) (s : State) : exec (.ldge w) s = execLdge w s := rfl
@[simp] theorem exec_fenceAcq (w : MForm) (s : State) : exec (.fenceAcq w) s = execFenceAcq w s := rfl
@[simp] theorem exec_fenceRel (w : MForm) (s : State) : exec (.fenceRel w) s = execFenceRel w s := rfl
@[simp] theorem exec_fenceAr (w : MForm) (s : State) : exec (.fenceAr w) s = execFenceAr w s := rfl
@[simp] theorem exec_fenceSc (w : MForm) (s : State) : exec (.fenceSc w) s = execFenceSc w s := rfl
@[simp] theorem exec_sread (w : MForm) (s : State) : exec (.sread w) s = execSread w s := rfl
@[simp] theorem exec_swrite (w : MForm) (s : State) : exec (.swrite w) s = execSwrite w s := rfl
@[simp] theorem exec_sreadx (w : MForm) (s : State) : exec (.sreadx w) s = execSreadx w s := rfl
@[simp] theorem exec_swritex (w : MForm) (s : State) : exec (.swritex w) s = execSwritex w s := rfl
@[simp] theorem exec_sbcast (w : MForm) (s : State) : exec (.sbcast w) s = execSbcast w s := rfl
@[simp] theorem exec_cvtaGal (w : RForm) (s : State) : exec (.cvtaGal w) s = execCvtaGal w s := rfl
@[simp] theorem exec_cvtaOwn (w : RForm) (s : State) : exec (.cvtaOwn w) s = execCvtaOwn w s := rfl
@[simp] theorem exec_cvtaCore (w : RForm) (s : State) : exec (.cvtaCore w) s = execCvtaCore w s := rfl
@[simp] theorem exec_cvtaOff (w : RForm) (s : State) : exec (.cvtaOff w) s = execCvtaOff w s := rfl
@[simp] theorem exec_inapGlob (w : RForm) (s : State) : exec (.inapGlob w) s = execInapGlob w s := rfl
@[simp] theorem exec_inapSrf (w : RForm) (s : State) : exec (.inapSrf w) s = execInapSrf w s := rfl
@[simp] theorem exec_inapGal (w : RForm) (s : State) : exec (.inapGal w) s = execInapGal w s := rfl
@[simp] theorem exec_inapLocal (w : RForm) (s : State) : exec (.inapLocal w) s = execInapLocal w s := rfl
@[simp] theorem exec_barArrive (w : IForm) (s : State) : exec (.barArrive w) s = execBarArrive w s := rfl
@[simp] theorem exec_barWait (w : IForm) (s : State) : exec (.barWait w) s = execBarWait w s := rfl
@[simp] theorem exec_barSync (w : IForm) (s : State) : exec (.barSync w) s = execBarSync w s := rfl
@[simp] theorem exec_cacheIall (w : RForm) (s : State) : exec (.cacheIall w) s = execCacheIall w s := rfl
@[simp] theorem exec_cacheIline (w : RForm) (s : State) : exec (.cacheIline w) s = execCacheIline w s := rfl
@[simp] theorem exec_cacheDline (w : RForm) (s : State) : exec (.cacheDline w) s = execCacheDline w s := rfl
@[simp] theorem exec_cacheDall (w : RForm) (s : State) : exec (.cacheDall w) s = execCacheDall w s := rfl
@[simp] theorem exec_tlbiAll (w : RForm) (s : State) : exec (.tlbiAll w) s = execTlbiAll w s := rfl
@[simp] theorem exec_tlbiAsid (w : RForm) (s : State) : exec (.tlbiAsid w) s = execTlbiAsid w s := rfl
@[simp] theorem exec_tlbiPage (w : RForm) (s : State) : exec (.tlbiPage w) s = execTlbiPage w s := rfl
@[simp] theorem exec_tlbiRange (w : RForm) (s : State) : exec (.tlbiRange w) s = execTlbiRange w s := rfl
@[simp] theorem exec_sload (w : SForm) (s : State) : exec (.sload w) s = execSload w s := rfl
@[simp] theorem exec_sstore (w : SForm) (s : State) : exec (.sstore w) s = execSstore w s := rfl
@[simp] theorem exec_stileRd (w : SForm) (s : State) : exec (.stileRd w) s = execStileRd w s := rfl
@[simp] theorem exec_stileWr (w : SForm) (s : State) : exec (.stileWr w) s = execStileWr w s := rfl
@[simp] theorem exec_scopy (w : SForm) (s : State) : exec (.scopy w) s = execScopy w s := rfl
@[simp] theorem exec_scopyR (w : SForm) (s : State) : exec (.scopyR w) s = execScopyR w s := rfl
@[simp] theorem exec_scopyM (w : SForm) (s : State) : exec (.scopyM w) s = execScopyM w s := rfl
@[simp] theorem exec_sfill (w : SForm) (s : State) : exec (.sfill w) s = execSfill w s := rfl
@[simp] theorem exec_sfillR (w : SForm) (s : State) : exec (.sfillR w) s = execSfillR w s := rfl
@[simp] theorem exec_sfillM (w : SForm) (s : State) : exec (.sfillM w) s = execSfillM w s := rfl
@[simp] theorem exec_sgather (w : SForm) (s : State) : exec (.sgather w) s = execSgather w s := rfl
@[simp] theorem exec_sscadd (w : SForm) (s : State) : exec (.sscadd w) s = execSscadd w s := rfl
@[simp] theorem exec_srecv (w : SForm) (s : State) : exec (.srecv w) s = execSrecv w s := rfl
@[simp] theorem exec_krun (w : SForm) (s : State) : exec (.krun w) s = execKrun w s := rfl
@[simp] theorem exec_kwait (w : SForm) (s : State) : exec (.kwait w) s = execKwait w s := rfl
@[simp] theorem exec_kresume (w : SForm) (s : State) : exec (.kresume w) s = execKresume w s := rfl
@[simp] theorem exec_kresumeAbort (w : SForm) (s : State) : exec (.kresumeAbort w) s = execKresumeAbort w s := rfl
@[simp] theorem exec_swait (w : SForm) (s : State) : exec (.swait w) s = execSwait w s := rfl
@[simp] theorem exec_swaitTest (w : SForm) (s : State) : exec (.swaitTest w) s = execSwaitTest w s := rfl
@[simp] theorem exec_swaitAll (w : SForm) (s : State) : exec (.swaitAll w) s = execSwaitAll w s := rfl
@[simp] theorem exec_barvArm (w : SForm) (s : State) : exec (.barvArm w) s = execBarvArm w s := rfl
@[simp] theorem exec_barvArrive (w : SForm) (s : State) : exec (.barvArrive w) s = execBarvArrive w s := rfl
@[simp] theorem exec_barvWait (w : SForm) (s : State) : exec (.barvWait w) s = execBarvWait w s := rfl
@[simp] theorem exec_sdgetW0 (w : SForm) (s : State) : exec (.sdgetW0 w) s = execSdgetW0 w s := rfl
@[simp] theorem exec_sdgetW1 (w : SForm) (s : State) : exec (.sdgetW1 w) s = execSdgetW1 w s := rfl
@[simp] theorem exec_sdputW0 (w : SForm) (s : State) : exec (.sdputW0 w) s = execSdputW0 w s := rfl
@[simp] theorem exec_sdputW1 (w : SForm) (s : State) : exec (.sdputW1 w) s = execSdputW1 w s := rfl
@[simp] theorem exec_sdrec (w : SForm) (s : State) : exec (.sdrec w) s = execSdrec w s := rfl
@[simp] theorem exec_snop (w : SForm) (s : State) : exec (.snop w) s = execSnop w s := rfl
@[simp] theorem exec_takeTrap (core : Nat) (s : State) : exec (.takeTrap core) s = execTakeTrap core s := rfl
@[simp] theorem exec_kernelBundleIssue (core : Nat) (s : State) :
    exec (.kernelBundleIssue core) s = execKernelBundleIssue core s := rfl
@[simp] theorem exec_fixedLatencyWrite (core : Nat) (s : State) :
    exec (.fixedLatencyWrite core) s = execFixedLatencyWrite core s := rfl
@[simp] theorem exec_landing (core : Nat) (s : State) : exec (.landing core) s = execLanding core s := rfl
@[simp] theorem exec_landingDataArrival (core : Nat) (entry : Nat) (lost : Bool) (s : State) :
    exec (.landingDataArrival core entry lost) s = execLandingDataArrival core entry lost s := rfl
@[simp] theorem exec_writeQueueAck (core : Nat) (entry : Nat) (lost : Bool) (s : State) :
    exec (.writeQueueAck core entry lost) s = execWriteQueueAck core entry lost s := rfl
@[simp] theorem exec_lateFault (core : Nat) (s : State) : exec (.lateFault core) s = execLateFault core s := rfl
@[simp] theorem exec_tmmaPassComplete (core : Nat) (s : State) :
    exec (.tmmaPassComplete core) s = execTmmaPassComplete core s := rfl
@[simp] theorem exec_transformComplete (core : Nat) (s : State) :
    exec (.transformComplete core) s = execTransformComplete core s := rfl
@[simp] theorem exec_kernelStart (core : Nat) (s : State) : exec (.kernelStart core) s = execKernelStart core s := rfl
@[simp] theorem exec_kernelEnd (core : Nat) (s : State) : exec (.kernelEnd core) s = execKernelEnd core s := rfl
@[simp] theorem exec_barrierArrivalCounted (core : Nat) (s : State) :
    exec (.barrierArrivalCounted core) s = execBarrierArrivalCounted core s := rfl
@[simp] theorem exec_waitWatchdogExpiry (core : Nat) (kernel : Bool) (s : State) :
    exec (.waitWatchdogExpiry core kernel) s = execWaitWatchdogExpiry core kernel s := rfl
@[simp] theorem exec_thresholdTimeoutExpiry (core : Nat) (entry : Option Nat) (s : State) :
    exec (.thresholdTimeoutExpiry core entry) s = execThresholdTimeoutExpiry core entry s := rfl
@[simp] theorem exec_stealRequest (thief : Nat) (victim : Nat) (launchId : Nat) (s : State) :
    exec (.stealRequest thief victim launchId) s = execStealRequest thief victim launchId s := rfl
@[simp] theorem exec_stealReturn (thief : Nat) (launchId : Nat) (s : State) :
    exec (.stealReturn thief launchId) s = execStealReturn thief launchId s := rfl
@[simp] theorem exec_scoreboardIssue (core : Nat) (s : State) :
    exec (.scoreboardIssue core) s = execScoreboardIssue core s := rfl
@[simp] theorem exec_engineComplete (core : Nat) (seq : Nat) (s : State) :
    exec (.engineComplete core seq) s = execEngineComplete core seq s := rfl
@[simp] theorem exec_gatePass (core : Nat) (seq : Nat) (s : State) :
    exec (.gatePass core seq) s = execGatePass core seq s := rfl
@[simp] theorem exec_gateWatchdogExpiry (core : Nat) (seq : Nat) (s : State) :
    exec (.gateWatchdogExpiry core seq) s = execGateWatchdogExpiry core seq s := rfl
@[simp] theorem exec_tileRequest (core : Nat) (seq : Nat) (s : State) :
    exec (.tileRequest core seq) s = execTileRequest core seq s := rfl
@[simp] theorem exec_launch (queue : Nat) (s : State) : exec (.launch queue) s = execLaunch queue s := rfl
@[simp] theorem exec_grantGroup (launchId : Nat) (die : Nat) (base : Nat) (s : State) :
    exec (.grantGroup launchId die base) s = execGrantGroup launchId die base s := rfl
@[simp] theorem exec_launchComplete (launchId : Nat) (s : State) :
    exec (.launchComplete launchId) s = execLaunchComplete launchId s := rfl
@[simp] theorem exec_barrierPacket (queue : Nat) (s : State) :
    exec (.barrierPacket queue) s = execBarrierPacket queue s := rfl
@[simp] theorem exec_codePacket (queue : Nat) (s : State) : exec (.codePacket queue) s = execCodePacket queue s := rfl
@[simp] theorem exec_unloadPacket (queue : Nat) (s : State) :
    exec (.unloadPacket queue) s = execUnloadPacket queue s := rfl
@[simp] theorem exec_signalPacket (queue : Nat) (s : State) :
    exec (.signalPacket queue) s = execSignalPacket queue s := rfl
@[simp] theorem exec_qwriteWrite (queue : Nat) (value : Word) (s : State) :
    exec (.qwriteWrite queue value) s = execQwriteWrite queue value s := rfl
@[simp] theorem exec_qctlEnable (queue : Nat) (value : Word) (s : State) :
    exec (.qctlEnable queue value) s = execQctlEnable queue value s := rfl
@[simp] theorem exec_preemptHold (value : Word) (s : State) :
    exec (.preemptHold value) s = execPreemptHold value s := rfl
@[simp] theorem exec_preemptRelease (value : Word) (s : State) :
    exec (.preemptRelease value) s = execPreemptRelease value s := rfl
@[simp] theorem exec_keyWrite (value : Word) (s : State) : exec (.keyWrite value) s = execKeyWrite value s := rfl
@[simp] theorem exec_keyEmpty (value : Word) (s : State) : exec (.keyEmpty value) s = execKeyEmpty value s := rfl
@[simp] theorem exec_keyQuery (value : Word) (s : State) : exec (.keyQuery value) s = execKeyQuery value s := rfl
@[simp] theorem exec_keyOpDone (s : State) : exec (.keyOpDone) s = execKeyOpDone s := rfl
@[simp] theorem exec_moduleStart (value : Word) (retained : Bool) (s : State) :
    exec (.moduleStart value retained) s = execModuleStart value retained s := rfl
@[simp] theorem exec_startStepComplete (ok : Bool) (s : State) :
    exec (.startStepComplete ok) s = execStartStepComplete ok s := rfl
@[simp] theorem exec_registerWrite (offset : Nat) (value : Word) (s : State) :
    exec (.registerWrite offset value) s = execRegisterWrite offset value s := rfl
@[simp] theorem exec_preemptRequest (launchId : Nat) (die : Nat) (base : Nat) (s : State) :
    exec (.preemptRequest launchId die base) s = execPreemptRequest launchId die base s := rfl
@[simp] theorem exec_graceExpiry (core : Nat) (s : State) : exec (.graceExpiry core) s = execGraceExpiry core s := rfl
@[simp] theorem exec_save (core : Nat) (s : State) : exec (.save core) s = execSave core s := rfl
@[simp] theorem exec_saveWrite (core : Nat) (s : State) : exec (.saveWrite core) s = execSaveWrite core s := rfl
@[simp] theorem exec_restore (core : Nat) (s : State) : exec (.restore core) s = execRestore core s := rfl
@[simp] theorem exec_restoreGrant (launchId : Nat) (die : Nat) (base : Nat) (s : State) :
    exec (.restoreGrant launchId die base) s = execRestoreGrant launchId die base s := rfl
@[simp] theorem exec_quiesce (stack : Nat) (value : Word) (s : State) :
    exec (.quiesce stack value) s = execQuiesce stack value s := rfl
@[simp] theorem exec_hsmaskWrite (stack : Nat) (index : Nat) (value : Word) (s : State) :
    exec (.hsmaskWrite stack index value) s = execHsmaskWrite stack index value s := rfl
@[simp] theorem exec_maskerrClear (stack : Nat) (value : Word) (s : State) :
    exec (.maskerrClear stack value) s = execMaskerrClear stack value s := rfl
@[simp] theorem exec_heartbeat (stack : Nat) (s : State) : exec (.heartbeat stack) s = execHeartbeat stack s := rfl
@[simp] theorem exec_heartbeatMissed (stack : Nat) (s : State) :
    exec (.heartbeatMissed stack) s = execHeartbeatMissed stack s := rfl
@[simp] theorem exec_takeoverAck (stack : Nat) (s : State) :
    exec (.takeoverAck stack) s = execTakeoverAck stack s := rfl
@[simp] theorem exec_refreshWindowExpiry (stack : Nat) (s : State) :
    exec (.refreshWindowExpiry stack) s = execRefreshWindowExpiry stack s := rfl
@[simp] theorem exec_poisonDetect (err : EccError) (place : Nat) (s : State) :
    exec (.poisonDetect err place) s = execPoisonDetect err place s := rfl
@[simp] theorem exec_writebackFailure (stack : Nat) (offset : Nat) (core : Option Nat) (s : State) :
    exec (.writebackFailure stack offset core) s = execWritebackFailure stack offset core s := rfl
@[simp] theorem exec_selftest (unit : ErrUnit) (s : State) : exec (.selftest unit) s = execSelftest unit s := rfl
@[simp] theorem exec_selftestComplete (unit : ErrUnit) (pass : Bool) (s : State) :
    exec (.selftestComplete unit pass) s = execSelftestComplete unit pass s := rfl
@[simp] theorem exec_groupAbortExpiry (core : Nat) (s : State) :
    exec (.groupAbortExpiry core) s = execGroupAbortExpiry core s := rfl
@[simp] theorem exec_bridgeFailure (die : Nat) (s : State) :
    exec (.bridgeFailure die) s = execBridgeFailure die s := rfl
@[simp] theorem exec_remoteRequest (req : RemoteReq) (s : State) :
    exec (.remoteRequest req) s = execRemoteRequest req s := rfl
@[simp] theorem exec_remoteTimeoutExpiry (core : Nat) (entry : Option Nat) (s : State) :
    exec (.remoteTimeoutExpiry core entry) s = execRemoteTimeoutExpiry core entry s := rfl
@[simp] theorem exec_lrtEnable (entry : Nat) (value : Word) (s : State) :
    exec (.lrtEnable entry value) s = execLrtEnable entry value s := rfl
@[simp] theorem exec_lrtDisable (entry : Nat) (value : Word) (s : State) :
    exec (.lrtDisable entry value) s = execLrtDisable entry value s := rfl
@[simp] theorem exec_exchangeRoundBegin (entry : Nat) (replica : Nat) (s : State) :
    exec (.exchangeRoundBegin entry replica) s = execExchangeRoundBegin entry replica s := rfl
@[simp] theorem exec_exchange (entry : Nat) (replica : Nat) (s : State) :
    exec (.exchange entry replica) s = execExchange entry replica s := rfl
@[simp] theorem exec_exchangeFailure (entry : Nat) (replica : Nat) (s : State) :
    exec (.exchangeFailure entry replica) s = execExchangeFailure entry replica s := rfl
@[simp] theorem exec_frameReceive (port : Nat) (frame : Frame) (s : State) :
    exec (.frameReceive port frame) s = execFrameReceive port frame s := rfl
@[simp] theorem exec_ringBind (port : Nat) (ring : Nat) (value : Word) (s : State) :
    exec (.ringBind port ring value) s = execRingBind port ring value s := rfl
@[simp] theorem exec_counterClear (port : Nat) (ring : Option Nat) (counter : Nat) (value : Word) (s : State) :
    exec (.counterClear port ring counter value) s = execCounterClear port ring counter value s := rfl
@[simp] theorem exec_prgResponse (tag : Nat) (code : Nat) (s : State) :
    exec (.prgResponse tag code) s = execPrgResponse tag code s := rfl
@[simp] theorem exec_atsInvalidate (asid : Nat) (va : Word) (s : State) :
    exec (.atsInvalidate asid va) s = execAtsInvalidate asid va s := rfl
@[simp] theorem exec_lineCommit (line : LineHome) (new : Nat) (commit : Bool) (s : State) :
    exec (.lineCommit line new commit) s = execLineCommit line new commit s := rfl
@[simp] theorem exec_powerCapExceeded (s : State) : exec (.powerCapExceeded) s = execPowerCapExceeded s := rfl
@[simp] theorem exec_thermalHot (s : State) : exec (.thermalHot) s = execThermalHot s := rfl
@[simp] theorem exec_thermalCrit (s : State) : exec (.thermalCrit) s = execThermalCrit s := rfl
@[simp] theorem exec_hostLinkDown (s : State) : exec (.hostLinkDown) s = execHostLinkDown s := rfl
@[simp] theorem exec_debugHalt (core : Nat) (s : State) : exec (.debugHalt core) s = execDebugHalt core s := rfl
@[simp] theorem exec_kibryPortTrained (port : Nat) (s : State) :
    exec (.kibryPortTrained port) s = execKibryPortTrained port s := rfl
@[simp] theorem exec_kibryPortLost (port : Nat) (s : State) :
    exec (.kibryPortLost port) s = execKibryPortLost port s := rfl

end Sys2Proof.Machine
end

