-- ==== Sys2Proof/Laws/Word.lean ====
section
/-! SUPPORT. Fields of a word: every form reads back what it wrote, and what each major opcode decodes to. -/

namespace Sys2Proof

open Sys2Proof.Machine

theorem extract_skip {n m s k : Nat} (x : BitVec n) (y : BitVec m) (h : m ≤ s) :
    (x ++ y).extractLsb' s k = x.extractLsb' (s - m) k := BitVec.extractLsb'_append_eq_of_le h

theorem extract_low {n m : Nat} (x : BitVec n) (y : BitVec m) : (x ++ y).extractLsb' 0 m = y := by
  rw [BitVec.extractLsb'_append_eq_of_add_le (by omega), BitVec.extractLsb'_eq_self]

theorem extract_all {n : Nat} (x : BitVec n) : x.extractLsb' 0 n = x := BitVec.extractLsb'_eq_self

/-- The upper half of the opcode field. -/
theorem high_of_opc (w : Word) : w.extractLsb' 60 4 = (w.extractLsb' 56 8).extractLsb' 4 4 := by
  ext i hi
  have h : 4 + i < 8 := by omega
  simp [BitVec.getElem_extractLsb', h, ← Nat.add_assoc]

theorem instrOf_plain (w : Word) (h : (w.extractLsb' 56 8).extractLsb' 4 4 ≠ 0xD) : instrOf w = plainInstrOf w := by
  rw [instrOf, high_of_opc, if_neg (by simpa using h)]

theorem instrOf_stream (w : Word) (h : (w.extractLsb' 56 8).extractLsb' 4 4 = 0xD) : instrOf w = streamInstrOf w := by
  rw [instrOf, high_of_opc, if_pos (by simpa using h)]

theorem RForm.opc_toWord (o : BitVec 8) (f : RForm) : (RForm.toWord o f).extractLsb' 56 8 = o := by
  cases f
  exact (extract_skip (n := 54) (m := 10) _ _ (by decide)) |>.trans (extract_skip (n := 53) (m := 1) _ _ (by decide)) |>.trans (extract_skip (n := 52) (m := 1) _ _ (by decide)) |>.trans (extract_skip (n := 49) (m := 3) _ _ (by decide)) |>.trans (extract_skip (n := 44) (m := 5) _ _ (by decide)) |>.trans (extract_skip (n := 36) (m := 8) _ _ (by decide)) |>.trans (extract_skip (n := 30) (m := 6) _ _ (by decide)) |>.trans (extract_skip (n := 24) (m := 6) _ _ (by decide)) |>.trans (extract_skip (n := 18) (m := 6) _ _ (by decide)) |>.trans (extract_skip (n := 12) (m := 6) _ _ (by decide)) |>.trans (extract_skip (n := 8) (m := 4) _ _ (by decide)) |>.trans (extract_all _)

theorem RForm.guard_toWord (o : BitVec 8) (f : RForm) : (RForm.toWord o f).extractLsb' 52 4 = f.guard := by
  cases f
  exact (extract_skip (n := 54) (m := 10) _ _ (by decide)) |>.trans (extract_skip (n := 53) (m := 1) _ _ (by decide)) |>.trans (extract_skip (n := 52) (m := 1) _ _ (by decide)) |>.trans (extract_skip (n := 49) (m := 3) _ _ (by decide)) |>.trans (extract_skip (n := 44) (m := 5) _ _ (by decide)) |>.trans (extract_skip (n := 36) (m := 8) _ _ (by decide)) |>.trans (extract_skip (n := 30) (m := 6) _ _ (by decide)) |>.trans (extract_skip (n := 24) (m := 6) _ _ (by decide)) |>.trans (extract_skip (n := 18) (m := 6) _ _ (by decide)) |>.trans (extract_skip (n := 12) (m := 6) _ _ (by decide)) |>.trans (extract_low (n := 8) (m := 4) _ _)

theorem RForm.ofWord_toWord (o : BitVec 8) (f : RForm) : RForm.ofWord (RForm.toWord o f) = f := by
  cases f
  simp only [RForm.ofWord, RForm.mk.injEq]
  refine ⟨?_, ?_, ?_, ?_, ?_, ?_, ?_, ?_, ?_, ?_, ?_⟩
  · exact (extract_skip (n := 54) (m := 10) _ _ (by decide)) |>.trans (extract_skip (n := 53) (m := 1) _ _ (by decide)) |>.trans (extract_skip (n := 52) (m := 1) _ _ (by decide)) |>.trans (extract_skip (n := 49) (m := 3) _ _ (by decide)) |>.trans (extract_skip (n := 44) (m := 5) _ _ (by decide)) |>.trans (extract_skip (n := 36) (m := 8) _ _ (by decide)) |>.trans (extract_skip (n := 30) (m := 6) _ _ (by decide)) |>.trans (extract_skip (n := 24) (m := 6) _ _ (by decide)) |>.trans (extract_skip (n := 18) (m := 6) _ _ (by decide)) |>.trans (extract_skip (n := 12) (m := 6) _ _ (by decide)) |>.trans (extract_low (n := 8) (m := 4) _ _)
  · exact (extract_skip (n := 54) (m := 10) _ _ (by decide)) |>.trans (extract_skip (n := 53) (m := 1) _ _ (by decide)) |>.trans (extract_skip (n := 52) (m := 1) _ _ (by decide)) |>.trans (extract_skip (n := 49) (m := 3) _ _ (by decide)) |>.trans (extract_skip (n := 44) (m := 5) _ _ (by decide)) |>.trans (extract_skip (n := 36) (m := 8) _ _ (by decide)) |>.trans (extract_skip (n := 30) (m := 6) _ _ (by decide)) |>.trans (extract_skip (n := 24) (m := 6) _ _ (by decide)) |>.trans (extract_skip (n := 18) (m := 6) _ _ (by decide)) |>.trans (extract_low (n := 12) (m := 6) _ _)
  · exact (extract_skip (n := 54) (m := 10) _ _ (by decide)) |>.trans (extract_skip (n := 53) (m := 1) _ _ (by decide)) |>.trans (extract_skip (n := 52) (m := 1) _ _ (by decide)) |>.trans (extract_skip (n := 49) (m := 3) _ _ (by decide)) |>.trans (extract_skip (n := 44) (m := 5) _ _ (by decide)) |>.trans (extract_skip (n := 36) (m := 8) _ _ (by decide)) |>.trans (extract_skip (n := 30) (m := 6) _ _ (by decide)) |>.trans (extract_skip (n := 24) (m := 6) _ _ (by decide)) |>.trans (extract_low (n := 18) (m := 6) _ _)
  · exact (extract_skip (n := 54) (m := 10) _ _ (by decide)) |>.trans (extract_skip (n := 53) (m := 1) _ _ (by decide)) |>.trans (extract_skip (n := 52) (m := 1) _ _ (by decide)) |>.trans (extract_skip (n := 49) (m := 3) _ _ (by decide)) |>.trans (extract_skip (n := 44) (m := 5) _ _ (by decide)) |>.trans (extract_skip (n := 36) (m := 8) _ _ (by decide)) |>.trans (extract_skip (n := 30) (m := 6) _ _ (by decide)) |>.trans (extract_low (n := 24) (m := 6) _ _)
  · exact (extract_skip (n := 54) (m := 10) _ _ (by decide)) |>.trans (extract_skip (n := 53) (m := 1) _ _ (by decide)) |>.trans (extract_skip (n := 52) (m := 1) _ _ (by decide)) |>.trans (extract_skip (n := 49) (m := 3) _ _ (by decide)) |>.trans (extract_skip (n := 44) (m := 5) _ _ (by decide)) |>.trans (extract_skip (n := 36) (m := 8) _ _ (by decide)) |>.trans (extract_low (n := 30) (m := 6) _ _)
  · exact (extract_skip (n := 54) (m := 10) _ _ (by decide)) |>.trans (extract_skip (n := 53) (m := 1) _ _ (by decide)) |>.trans (extract_skip (n := 52) (m := 1) _ _ (by decide)) |>.trans (extract_skip (n := 49) (m := 3) _ _ (by decide)) |>.trans (extract_skip (n := 44) (m := 5) _ _ (by decide)) |>.trans (extract_low (n := 36) (m := 8) _ _)
  · exact (extract_skip (n := 54) (m := 10) _ _ (by decide)) |>.trans (extract_skip (n := 53) (m := 1) _ _ (by decide)) |>.trans (extract_skip (n := 52) (m := 1) _ _ (by decide)) |>.trans (extract_skip (n := 49) (m := 3) _ _ (by decide)) |>.trans (extract_low (n := 44) (m := 5) _ _)
  · exact (extract_skip (n := 54) (m := 10) _ _ (by decide)) |>.trans (extract_skip (n := 53) (m := 1) _ _ (by decide)) |>.trans (extract_skip (n := 52) (m := 1) _ _ (by decide)) |>.trans (extract_low (n := 49) (m := 3) _ _)
  · exact (extract_skip (n := 54) (m := 10) _ _ (by decide)) |>.trans (extract_skip (n := 53) (m := 1) _ _ (by decide)) |>.trans (extract_low (n := 52) (m := 1) _ _)
  · exact (extract_skip (n := 54) (m := 10) _ _ (by decide)) |>.trans (extract_low (n := 53) (m := 1) _ _)
  · exact extract_low (n := 54) (m := 10) _ _

theorem IForm.opc_toWord (o : BitVec 8) (f : IForm) : (IForm.toWord o f).extractLsb' 56 8 = o := by
  cases f
  exact (extract_skip (n := 32) (m := 32) _ _ (by decide)) |>.trans (extract_skip (n := 24) (m := 8) _ _ (by decide)) |>.trans (extract_skip (n := 18) (m := 6) _ _ (by decide)) |>.trans (extract_skip (n := 12) (m := 6) _ _ (by decide)) |>.trans (extract_skip (n := 8) (m := 4) _ _ (by decide)) |>.trans (extract_all _)

theorem IForm.guard_toWord (o : BitVec 8) (f : IForm) : (IForm.toWord o f).extractLsb' 52 4 = f.guard := by
  cases f
  exact (extract_skip (n := 32) (m := 32) _ _ (by decide)) |>.trans (extract_skip (n := 24) (m := 8) _ _ (by decide)) |>.trans (extract_skip (n := 18) (m := 6) _ _ (by decide)) |>.trans (extract_skip (n := 12) (m := 6) _ _ (by decide)) |>.trans (extract_low (n := 8) (m := 4) _ _)

theorem IForm.ofWord_toWord (o : BitVec 8) (f : IForm) : IForm.ofWord (IForm.toWord o f) = f := by
  cases f
  simp only [IForm.ofWord, IForm.mk.injEq]
  refine ⟨?_, ?_, ?_, ?_, ?_⟩
  · exact (extract_skip (n := 32) (m := 32) _ _ (by decide)) |>.trans (extract_skip (n := 24) (m := 8) _ _ (by decide)) |>.trans (extract_skip (n := 18) (m := 6) _ _ (by decide)) |>.trans (extract_skip (n := 12) (m := 6) _ _ (by decide)) |>.trans (extract_low (n := 8) (m := 4) _ _)
  · exact (extract_skip (n := 32) (m := 32) _ _ (by decide)) |>.trans (extract_skip (n := 24) (m := 8) _ _ (by decide)) |>.trans (extract_skip (n := 18) (m := 6) _ _ (by decide)) |>.trans (extract_low (n := 12) (m := 6) _ _)
  · exact (extract_skip (n := 32) (m := 32) _ _ (by decide)) |>.trans (extract_skip (n := 24) (m := 8) _ _ (by decide)) |>.trans (extract_low (n := 18) (m := 6) _ _)
  · exact (extract_skip (n := 32) (m := 32) _ _ (by decide)) |>.trans (extract_low (n := 24) (m := 8) _ _)
  · exact extract_low (n := 32) (m := 32) _ _

theorem JForm.opc_toWord (o : BitVec 8) (f : JForm) : (JForm.toWord o f).extractLsb' 56 8 = o := by
  cases f
  exact (extract_skip (n := 22) (m := 42) _ _ (by decide)) |>.trans (extract_skip (n := 16) (m := 6) _ _ (by decide)) |>.trans (extract_skip (n := 12) (m := 4) _ _ (by decide)) |>.trans (extract_skip (n := 8) (m := 4) _ _ (by decide)) |>.trans (extract_all _)

theorem JForm.guard_toWord (o : BitVec 8) (f : JForm) : (JForm.toWord o f).extractLsb' 52 4 = f.guard := by
  cases f
  exact (extract_skip (n := 22) (m := 42) _ _ (by decide)) |>.trans (extract_skip (n := 16) (m := 6) _ _ (by decide)) |>.trans (extract_skip (n := 12) (m := 4) _ _ (by decide)) |>.trans (extract_low (n := 8) (m := 4) _ _)

theorem JForm.ofWord_toWord (o : BitVec 8) (f : JForm) : JForm.ofWord (JForm.toWord o f) = f := by
  cases f
  simp only [JForm.ofWord, JForm.mk.injEq]
  refine ⟨?_, ?_, ?_, ?_⟩
  · exact (extract_skip (n := 22) (m := 42) _ _ (by decide)) |>.trans (extract_skip (n := 16) (m := 6) _ _ (by decide)) |>.trans (extract_skip (n := 12) (m := 4) _ _ (by decide)) |>.trans (extract_low (n := 8) (m := 4) _ _)
  · exact (extract_skip (n := 22) (m := 42) _ _ (by decide)) |>.trans (extract_skip (n := 16) (m := 6) _ _ (by decide)) |>.trans (extract_low (n := 12) (m := 4) _ _)
  · exact (extract_skip (n := 22) (m := 42) _ _ (by decide)) |>.trans (extract_low (n := 16) (m := 6) _ _)
  · exact extract_low (n := 22) (m := 42) _ _

theorem MForm.opc_toWord (o : BitVec 8) (f : MForm) : (MForm.toWord o f).extractLsb' 56 8 = o := by
  cases f
  exact (extract_skip (n := 48) (m := 16) _ _ (by decide)) |>.trans (extract_skip (n := 40) (m := 8) _ _ (by decide)) |>.trans (extract_skip (n := 37) (m := 3) _ _ (by decide)) |>.trans (extract_skip (n := 35) (m := 2) _ _ (by decide)) |>.trans (extract_skip (n := 30) (m := 5) _ _ (by decide)) |>.trans (extract_skip (n := 24) (m := 6) _ _ (by decide)) |>.trans (extract_skip (n := 18) (m := 6) _ _ (by decide)) |>.trans (extract_skip (n := 12) (m := 6) _ _ (by decide)) |>.trans (extract_skip (n := 8) (m := 4) _ _ (by decide)) |>.trans (extract_all _)

theorem MForm.guard_toWord (o : BitVec 8) (f : MForm) : (MForm.toWord o f).extractLsb' 52 4 = f.guard := by
  cases f
  exact (extract_skip (n := 48) (m := 16) _ _ (by decide)) |>.trans (extract_skip (n := 40) (m := 8) _ _ (by decide)) |>.trans (extract_skip (n := 37) (m := 3) _ _ (by decide)) |>.trans (extract_skip (n := 35) (m := 2) _ _ (by decide)) |>.trans (extract_skip (n := 30) (m := 5) _ _ (by decide)) |>.trans (extract_skip (n := 24) (m := 6) _ _ (by decide)) |>.trans (extract_skip (n := 18) (m := 6) _ _ (by decide)) |>.trans (extract_skip (n := 12) (m := 6) _ _ (by decide)) |>.trans (extract_low (n := 8) (m := 4) _ _)

theorem MForm.ofWord_toWord (o : BitVec 8) (f : MForm) : MForm.ofWord (MForm.toWord o f) = f := by
  cases f
  simp only [MForm.ofWord, MForm.mk.injEq]
  refine ⟨?_, ?_, ?_, ?_, ?_, ?_, ?_, ?_, ?_⟩
  · exact (extract_skip (n := 48) (m := 16) _ _ (by decide)) |>.trans (extract_skip (n := 40) (m := 8) _ _ (by decide)) |>.trans (extract_skip (n := 37) (m := 3) _ _ (by decide)) |>.trans (extract_skip (n := 35) (m := 2) _ _ (by decide)) |>.trans (extract_skip (n := 30) (m := 5) _ _ (by decide)) |>.trans (extract_skip (n := 24) (m := 6) _ _ (by decide)) |>.trans (extract_skip (n := 18) (m := 6) _ _ (by decide)) |>.trans (extract_skip (n := 12) (m := 6) _ _ (by decide)) |>.trans (extract_low (n := 8) (m := 4) _ _)
  · exact (extract_skip (n := 48) (m := 16) _ _ (by decide)) |>.trans (extract_skip (n := 40) (m := 8) _ _ (by decide)) |>.trans (extract_skip (n := 37) (m := 3) _ _ (by decide)) |>.trans (extract_skip (n := 35) (m := 2) _ _ (by decide)) |>.trans (extract_skip (n := 30) (m := 5) _ _ (by decide)) |>.trans (extract_skip (n := 24) (m := 6) _ _ (by decide)) |>.trans (extract_skip (n := 18) (m := 6) _ _ (by decide)) |>.trans (extract_low (n := 12) (m := 6) _ _)
  · exact (extract_skip (n := 48) (m := 16) _ _ (by decide)) |>.trans (extract_skip (n := 40) (m := 8) _ _ (by decide)) |>.trans (extract_skip (n := 37) (m := 3) _ _ (by decide)) |>.trans (extract_skip (n := 35) (m := 2) _ _ (by decide)) |>.trans (extract_skip (n := 30) (m := 5) _ _ (by decide)) |>.trans (extract_skip (n := 24) (m := 6) _ _ (by decide)) |>.trans (extract_low (n := 18) (m := 6) _ _)
  · exact (extract_skip (n := 48) (m := 16) _ _ (by decide)) |>.trans (extract_skip (n := 40) (m := 8) _ _ (by decide)) |>.trans (extract_skip (n := 37) (m := 3) _ _ (by decide)) |>.trans (extract_skip (n := 35) (m := 2) _ _ (by decide)) |>.trans (extract_skip (n := 30) (m := 5) _ _ (by decide)) |>.trans (extract_low (n := 24) (m := 6) _ _)
  · exact (extract_skip (n := 48) (m := 16) _ _ (by decide)) |>.trans (extract_skip (n := 40) (m := 8) _ _ (by decide)) |>.trans (extract_skip (n := 37) (m := 3) _ _ (by decide)) |>.trans (extract_skip (n := 35) (m := 2) _ _ (by decide)) |>.trans (extract_low (n := 30) (m := 5) _ _)
  · exact (extract_skip (n := 48) (m := 16) _ _ (by decide)) |>.trans (extract_skip (n := 40) (m := 8) _ _ (by decide)) |>.trans (extract_skip (n := 37) (m := 3) _ _ (by decide)) |>.trans (extract_low (n := 35) (m := 2) _ _)
  · exact (extract_skip (n := 48) (m := 16) _ _ (by decide)) |>.trans (extract_skip (n := 40) (m := 8) _ _ (by decide)) |>.trans (extract_low (n := 37) (m := 3) _ _)
  · exact (extract_skip (n := 48) (m := 16) _ _ (by decide)) |>.trans (extract_low (n := 40) (m := 8) _ _)
  · exact extract_low (n := 48) (m := 16) _ _

theorem SForm.opc_toWord (o : BitVec 8) (f : SForm) : (SForm.toWord o f).extractLsb' 56 8 = o := by
  cases f
  exact (extract_skip (n := 59) (m := 5) _ _ (by decide)) |>.trans (extract_skip (n := 58) (m := 1) _ _ (by decide)) |>.trans (extract_skip (n := 54) (m := 4) _ _ (by decide)) |>.trans (extract_skip (n := 49) (m := 5) _ _ (by decide)) |>.trans (extract_skip (n := 44) (m := 5) _ _ (by decide)) |>.trans (extract_skip (n := 39) (m := 5) _ _ (by decide)) |>.trans (extract_skip (n := 34) (m := 5) _ _ (by decide)) |>.trans (extract_skip (n := 29) (m := 5) _ _ (by decide)) |>.trans (extract_skip (n := 24) (m := 5) _ _ (by decide)) |>.trans (extract_skip (n := 21) (m := 3) _ _ (by decide)) |>.trans (extract_skip (n := 20) (m := 1) _ _ (by decide)) |>.trans (extract_skip (n := 16) (m := 4) _ _ (by decide)) |>.trans (extract_skip (n := 12) (m := 4) _ _ (by decide)) |>.trans (extract_skip (n := 8) (m := 4) _ _ (by decide)) |>.trans (extract_all _)

theorem SForm.guard_toWord (o : BitVec 8) (f : SForm) : (SForm.toWord o f).extractLsb' 52 4 = f.guard := by
  cases f
  exact (extract_skip (n := 59) (m := 5) _ _ (by decide)) |>.trans (extract_skip (n := 58) (m := 1) _ _ (by decide)) |>.trans (extract_skip (n := 54) (m := 4) _ _ (by decide)) |>.trans (extract_skip (n := 49) (m := 5) _ _ (by decide)) |>.trans (extract_skip (n := 44) (m := 5) _ _ (by decide)) |>.trans (extract_skip (n := 39) (m := 5) _ _ (by decide)) |>.trans (extract_skip (n := 34) (m := 5) _ _ (by decide)) |>.trans (extract_skip (n := 29) (m := 5) _ _ (by decide)) |>.trans (extract_skip (n := 24) (m := 5) _ _ (by decide)) |>.trans (extract_skip (n := 21) (m := 3) _ _ (by decide)) |>.trans (extract_skip (n := 20) (m := 1) _ _ (by decide)) |>.trans (extract_skip (n := 16) (m := 4) _ _ (by decide)) |>.trans (extract_skip (n := 12) (m := 4) _ _ (by decide)) |>.trans (extract_low (n := 8) (m := 4) _ _)

theorem SForm.ofWord_toWord (o : BitVec 8) (f : SForm) : SForm.ofWord (SForm.toWord o f) = f := by
  cases f
  simp only [SForm.ofWord, SForm.mk.injEq]
  refine ⟨?_, ?_, ?_, ?_, ?_, ?_, ?_, ?_, ?_, ?_, ?_, ?_, ?_, ?_⟩
  · exact (extract_skip (n := 59) (m := 5) _ _ (by decide)) |>.trans (extract_skip (n := 58) (m := 1) _ _ (by decide)) |>.trans (extract_skip (n := 54) (m := 4) _ _ (by decide)) |>.trans (extract_skip (n := 49) (m := 5) _ _ (by decide)) |>.trans (extract_skip (n := 44) (m := 5) _ _ (by decide)) |>.trans (extract_skip (n := 39) (m := 5) _ _ (by decide)) |>.trans (extract_skip (n := 34) (m := 5) _ _ (by decide)) |>.trans (extract_skip (n := 29) (m := 5) _ _ (by decide)) |>.trans (extract_skip (n := 24) (m := 5) _ _ (by decide)) |>.trans (extract_skip (n := 21) (m := 3) _ _ (by decide)) |>.trans (extract_skip (n := 20) (m := 1) _ _ (by decide)) |>.trans (extract_skip (n := 16) (m := 4) _ _ (by decide)) |>.trans (extract_skip (n := 12) (m := 4) _ _ (by decide)) |>.trans (extract_low (n := 8) (m := 4) _ _)
  · exact (extract_skip (n := 59) (m := 5) _ _ (by decide)) |>.trans (extract_skip (n := 58) (m := 1) _ _ (by decide)) |>.trans (extract_skip (n := 54) (m := 4) _ _ (by decide)) |>.trans (extract_skip (n := 49) (m := 5) _ _ (by decide)) |>.trans (extract_skip (n := 44) (m := 5) _ _ (by decide)) |>.trans (extract_skip (n := 39) (m := 5) _ _ (by decide)) |>.trans (extract_skip (n := 34) (m := 5) _ _ (by decide)) |>.trans (extract_skip (n := 29) (m := 5) _ _ (by decide)) |>.trans (extract_skip (n := 24) (m := 5) _ _ (by decide)) |>.trans (extract_skip (n := 21) (m := 3) _ _ (by decide)) |>.trans (extract_skip (n := 20) (m := 1) _ _ (by decide)) |>.trans (extract_skip (n := 16) (m := 4) _ _ (by decide)) |>.trans (extract_low (n := 12) (m := 4) _ _)
  · exact (extract_skip (n := 59) (m := 5) _ _ (by decide)) |>.trans (extract_skip (n := 58) (m := 1) _ _ (by decide)) |>.trans (extract_skip (n := 54) (m := 4) _ _ (by decide)) |>.trans (extract_skip (n := 49) (m := 5) _ _ (by decide)) |>.trans (extract_skip (n := 44) (m := 5) _ _ (by decide)) |>.trans (extract_skip (n := 39) (m := 5) _ _ (by decide)) |>.trans (extract_skip (n := 34) (m := 5) _ _ (by decide)) |>.trans (extract_skip (n := 29) (m := 5) _ _ (by decide)) |>.trans (extract_skip (n := 24) (m := 5) _ _ (by decide)) |>.trans (extract_skip (n := 21) (m := 3) _ _ (by decide)) |>.trans (extract_skip (n := 20) (m := 1) _ _ (by decide)) |>.trans (extract_low (n := 16) (m := 4) _ _)
  · exact (extract_skip (n := 59) (m := 5) _ _ (by decide)) |>.trans (extract_skip (n := 58) (m := 1) _ _ (by decide)) |>.trans (extract_skip (n := 54) (m := 4) _ _ (by decide)) |>.trans (extract_skip (n := 49) (m := 5) _ _ (by decide)) |>.trans (extract_skip (n := 44) (m := 5) _ _ (by decide)) |>.trans (extract_skip (n := 39) (m := 5) _ _ (by decide)) |>.trans (extract_skip (n := 34) (m := 5) _ _ (by decide)) |>.trans (extract_skip (n := 29) (m := 5) _ _ (by decide)) |>.trans (extract_skip (n := 24) (m := 5) _ _ (by decide)) |>.trans (extract_skip (n := 21) (m := 3) _ _ (by decide)) |>.trans (extract_low (n := 20) (m := 1) _ _)
  · exact (extract_skip (n := 59) (m := 5) _ _ (by decide)) |>.trans (extract_skip (n := 58) (m := 1) _ _ (by decide)) |>.trans (extract_skip (n := 54) (m := 4) _ _ (by decide)) |>.trans (extract_skip (n := 49) (m := 5) _ _ (by decide)) |>.trans (extract_skip (n := 44) (m := 5) _ _ (by decide)) |>.trans (extract_skip (n := 39) (m := 5) _ _ (by decide)) |>.trans (extract_skip (n := 34) (m := 5) _ _ (by decide)) |>.trans (extract_skip (n := 29) (m := 5) _ _ (by decide)) |>.trans (extract_skip (n := 24) (m := 5) _ _ (by decide)) |>.trans (extract_low (n := 21) (m := 3) _ _)
  · exact (extract_skip (n := 59) (m := 5) _ _ (by decide)) |>.trans (extract_skip (n := 58) (m := 1) _ _ (by decide)) |>.trans (extract_skip (n := 54) (m := 4) _ _ (by decide)) |>.trans (extract_skip (n := 49) (m := 5) _ _ (by decide)) |>.trans (extract_skip (n := 44) (m := 5) _ _ (by decide)) |>.trans (extract_skip (n := 39) (m := 5) _ _ (by decide)) |>.trans (extract_skip (n := 34) (m := 5) _ _ (by decide)) |>.trans (extract_skip (n := 29) (m := 5) _ _ (by decide)) |>.trans (extract_low (n := 24) (m := 5) _ _)
  · exact (extract_skip (n := 59) (m := 5) _ _ (by decide)) |>.trans (extract_skip (n := 58) (m := 1) _ _ (by decide)) |>.trans (extract_skip (n := 54) (m := 4) _ _ (by decide)) |>.trans (extract_skip (n := 49) (m := 5) _ _ (by decide)) |>.trans (extract_skip (n := 44) (m := 5) _ _ (by decide)) |>.trans (extract_skip (n := 39) (m := 5) _ _ (by decide)) |>.trans (extract_skip (n := 34) (m := 5) _ _ (by decide)) |>.trans (extract_low (n := 29) (m := 5) _ _)
  · exact (extract_skip (n := 59) (m := 5) _ _ (by decide)) |>.trans (extract_skip (n := 58) (m := 1) _ _ (by decide)) |>.trans (extract_skip (n := 54) (m := 4) _ _ (by decide)) |>.trans (extract_skip (n := 49) (m := 5) _ _ (by decide)) |>.trans (extract_skip (n := 44) (m := 5) _ _ (by decide)) |>.trans (extract_skip (n := 39) (m := 5) _ _ (by decide)) |>.trans (extract_low (n := 34) (m := 5) _ _)
  · exact (extract_skip (n := 59) (m := 5) _ _ (by decide)) |>.trans (extract_skip (n := 58) (m := 1) _ _ (by decide)) |>.trans (extract_skip (n := 54) (m := 4) _ _ (by decide)) |>.trans (extract_skip (n := 49) (m := 5) _ _ (by decide)) |>.trans (extract_skip (n := 44) (m := 5) _ _ (by decide)) |>.trans (extract_low (n := 39) (m := 5) _ _)
  · exact (extract_skip (n := 59) (m := 5) _ _ (by decide)) |>.trans (extract_skip (n := 58) (m := 1) _ _ (by decide)) |>.trans (extract_skip (n := 54) (m := 4) _ _ (by decide)) |>.trans (extract_skip (n := 49) (m := 5) _ _ (by decide)) |>.trans (extract_low (n := 44) (m := 5) _ _)
  · exact (extract_skip (n := 59) (m := 5) _ _ (by decide)) |>.trans (extract_skip (n := 58) (m := 1) _ _ (by decide)) |>.trans (extract_skip (n := 54) (m := 4) _ _ (by decide)) |>.trans (extract_low (n := 49) (m := 5) _ _)
  · exact (extract_skip (n := 59) (m := 5) _ _ (by decide)) |>.trans (extract_skip (n := 58) (m := 1) _ _ (by decide)) |>.trans (extract_low (n := 54) (m := 4) _ _)
  · exact (extract_skip (n := 59) (m := 5) _ _ (by decide)) |>.trans (extract_low (n := 58) (m := 1) _ _)
  · exact extract_low (n := 59) (m := 5) _ _

theorem opc_01 (w : Word) (h : w.extractLsb' 56 8 = 0x01) :
    instrOf w = (
      let f := RForm.ofWord w
      some (.add f)) := by
  rw [instrOf_plain w (by rw [h]; decide)]
  unfold plainInstrOf
  rw [h]
  rfl

theorem opc_02 (w : Word) (h : w.extractLsb' 56 8 = 0x02) :
    instrOf w = (
      let f := RForm.ofWord w
      some (.sub f)) := by
  rw [instrOf_plain w (by rw [h]; decide)]
  unfold plainInstrOf
  rw [h]
  rfl

theorem opc_03 (w : Word) (h : w.extractLsb' 56 8 = 0x03) :
    instrOf w = (
      let f := RForm.ofWord w
      some (.mul f)) := by
  rw [instrOf_plain w (by rw [h]; decide)]
  unfold plainInstrOf
  rw [h]
  rfl

theorem opc_04 (w : Word) (h : w.extractLsb' 56 8 = 0x04) :
    instrOf w = (
      let f := RForm.ofWord w
      some (.mulh f)) := by
  rw [instrOf_plain w (by rw [h]; decide)]
  unfold plainInstrOf
  rw [h]
  rfl

theorem opc_05 (w : Word) (h : w.extractLsb' 56 8 = 0x05) :
    instrOf w = (
      let f := RForm.ofWord w
      some (.div f)) := by
  rw [instrOf_plain w (by rw [h]; decide)]
  unfold plainInstrOf
  rw [h]
  rfl

theorem opc_06 (w : Word) (h : w.extractLsb' 56 8 = 0x06) :
    instrOf w = (
      let f := RForm.ofWord w
      some (.rem f)) := by
  rw [instrOf_plain w (by rw [h]; decide)]
  unfold plainInstrOf
  rw [h]
  rfl

theorem opc_07 (w : Word) (h : w.extractLsb' 56 8 = 0x07) :
    instrOf w = (
      let f := RForm.ofWord w
      some (.min f)) := by
  rw [instrOf_plain w (by rw [h]; decide)]
  unfold plainInstrOf
  rw [h]
  rfl

theorem opc_08 (w : Word) (h : w.extractLsb' 56 8 = 0x08) :
    instrOf w = (
      let f := RForm.ofWord w
      some (.max f)) := by
  rw [instrOf_plain w (by rw [h]; decide)]
  unfold plainInstrOf
  rw [h]
  rfl

theorem opc_09 (w : Word) (h : w.extractLsb' 56 8 = 0x09) :
    instrOf w = (
      let f := RForm.ofWord w
      some (.abs f)) := by
  rw [instrOf_plain w (by rw [h]; decide)]
  unfold plainInstrOf
  rw [h]
  rfl

theorem opc_0A (w : Word) (h : w.extractLsb' 56 8 = 0x0A) :
    instrOf w = (
      let f := RForm.ofWord w
      some (.neg f)) := by
  rw [instrOf_plain w (by rw [h]; decide)]
  unfold plainInstrOf
  rw [h]
  rfl

theorem opc_0B (w : Word) (h : w.extractLsb' 56 8 = 0x0B) :
    instrOf w = (
      let f := RForm.ofWord w
      some (.and f)) := by
  rw [instrOf_plain w (by rw [h]; decide)]
  unfold plainInstrOf
  rw [h]
  rfl

theorem opc_0C (w : Word) (h : w.extractLsb' 56 8 = 0x0C) :
    instrOf w = (
      let f := RForm.ofWord w
      some (.or f)) := by
  rw [instrOf_plain w (by rw [h]; decide)]
  unfold plainInstrOf
  rw [h]
  rfl

theorem opc_0D (w : Word) (h : w.extractLsb' 56 8 = 0x0D) :
    instrOf w = (
      let f := RForm.ofWord w
      some (.xor f)) := by
  rw [instrOf_plain w (by rw [h]; decide)]
  unfold plainInstrOf
  rw [h]
  rfl

theorem opc_0E (w : Word) (h : w.extractLsb' 56 8 = 0x0E) :
    instrOf w = (
      let f := RForm.ofWord w
      some (.andn f)) := by
  rw [instrOf_plain w (by rw [h]; decide)]
  unfold plainInstrOf
  rw [h]
  rfl

theorem opc_0F (w : Word) (h : w.extractLsb' 56 8 = 0x0F) :
    instrOf w = (
      let f := RForm.ofWord w
      some (.shl f)) := by
  rw [instrOf_plain w (by rw [h]; decide)]
  unfold plainInstrOf
  rw [h]
  rfl

theorem opc_10 (w : Word) (h : w.extractLsb' 56 8 = 0x10) :
    instrOf w = (
      let f := RForm.ofWord w
      some (.shr f)) := by
  rw [instrOf_plain w (by rw [h]; decide)]
  unfold plainInstrOf
  rw [h]
  rfl

theorem opc_11 (w : Word) (h : w.extractLsb' 56 8 = 0x11) :
    instrOf w = (
      let f := RForm.ofWord w
      some (.sra f)) := by
  rw [instrOf_plain w (by rw [h]; decide)]
  unfold plainInstrOf
  rw [h]
  rfl

theorem opc_12 (w : Word) (h : w.extractLsb' 56 8 = 0x12) :
    instrOf w = (
      let f := RForm.ofWord w
      if Instr.selects (.bcntPop f) then some (.bcntPop f)
      else if Instr.selects (.bcntClz f) then some (.bcntClz f)
      else if Instr.selects (.bcntCtz f) then some (.bcntCtz f)
      else none) := by
  rw [instrOf_plain w (by rw [h]; decide)]
  unfold plainInstrOf
  rw [h]
  rfl

theorem opc_13 (w : Word) (h : w.extractLsb' 56 8 = 0x13) :
    instrOf w = (
      let f := IForm.ofWord w
      some (.addi f)) := by
  rw [instrOf_plain w (by rw [h]; decide)]
  unfold plainInstrOf
  rw [h]
  rfl

theorem opc_14 (w : Word) (h : w.extractLsb' 56 8 = 0x14) :
    instrOf w = (
      let f := IForm.ofWord w
      if Instr.selects (.andi f) then some (.andi f)
      else if Instr.selects (.ori f) then some (.ori f)
      else if Instr.selects (.xori f) then some (.xori f)
      else if Instr.selects (.andni f) then some (.andni f)
      else none) := by
  rw [instrOf_plain w (by rw [h]; decide)]
  unfold plainInstrOf
  rw [h]
  rfl

theorem opc_15 (w : Word) (h : w.extractLsb' 56 8 = 0x15) :
    instrOf w = (
      let f := IForm.ofWord w
      if Instr.selects (.shli f) then some (.shli f)
      else if Instr.selects (.shri f) then some (.shri f)
      else if Instr.selects (.srai f) then some (.srai f)
      else none) := by
  rw [instrOf_plain w (by rw [h]; decide)]
  unfold plainInstrOf
  rw [h]
  rfl

theorem opc_16 (w : Word) (h : w.extractLsb' 56 8 = 0x16) :
    instrOf w = (
      let f := IForm.ofWord w
      some (.movi f)) := by
  rw [instrOf_plain w (by rw [h]; decide)]
  unfold plainInstrOf
  rw [h]
  rfl

theorem opc_17 (w : Word) (h : w.extractLsb' 56 8 = 0x17) :
    instrOf w = (
      let f := IForm.ofWord w
      some (.movh f)) := by
  rw [instrOf_plain w (by rw [h]; decide)]
  unfold plainInstrOf
  rw [h]
  rfl

theorem opc_18 (w : Word) (h : w.extractLsb' 56 8 = 0x18) :
    instrOf w = (
      let f := RForm.ofWord w
      some (.lea f)) := by
  rw [instrOf_plain w (by rw [h]; decide)]
  unfold plainInstrOf
  rw [h]
  rfl

theorem opc_19 (w : Word) (h : w.extractLsb' 56 8 = 0x19) :
    instrOf w = (
      let f := IForm.ofWord w
      some (.pcrel f)) := by
  rw [instrOf_plain w (by rw [h]; decide)]
  unfold plainInstrOf
  rw [h]
  rfl

theorem opc_1A (w : Word) (h : w.extractLsb' 56 8 = 0x1A) :
    instrOf w = (
      let f := RForm.ofWord w
      if Instr.selects (.cmp f) then some (.cmp f)
      else none) := by
  rw [instrOf_plain w (by rw [h]; decide)]
  unfold plainInstrOf
  rw [h]
  rfl

theorem opc_1B (w : Word) (h : w.extractLsb' 56 8 = 0x1B) :
    instrOf w = (
      let f := IForm.ofWord w
      if Instr.selects (.cmpi f) then some (.cmpi f)
      else none) := by
  rw [instrOf_plain w (by rw [h]; decide)]
  unfold plainInstrOf
  rw [h]
  rfl

theorem opc_1C (w : Word) (h : w.extractLsb' 56 8 = 0x1C) :
    instrOf w = (
      let f := RForm.ofWord w
      if Instr.selects (.pand f) then some (.pand f)
      else if Instr.selects (.por f) then some (.por f)
      else if Instr.selects (.pxor f) then some (.pxor f)
      else if Instr.selects (.pandn f) then some (.pandn f)
      else if Instr.selects (.porn f) then some (.porn f)
      else none) := by
  rw [instrOf_plain w (by rw [h]; decide)]
  unfold plainInstrOf
  rw [h]
  rfl

theorem opc_1D (w : Word) (h : w.extractLsb' 56 8 = 0x1D) :
    instrOf w = (
      let f := RForm.ofWord w
      if Instr.selects (.pmovGet f) then some (.pmovGet f)
      else if Instr.selects (.pmovPut f) then some (.pmovPut f)
      else none) := by
  rw [instrOf_plain w (by rw [h]; decide)]
  unfold plainInstrOf
  rw [h]
  rfl

theorem opc_1E (w : Word) (h : w.extractLsb' 56 8 = 0x1E) :
    instrOf w = (
      let f := RForm.ofWord w
      some (.sel f)) := by
  rw [instrOf_plain w (by rw [h]; decide)]
  unfold plainInstrOf
  rw [h]
  rfl

theorem opc_1F (w : Word) (h : w.extractLsb' 56 8 = 0x1F) :
    instrOf w = (
      let f := RForm.ofWord w
      some (.fadd f)) := by
  rw [instrOf_plain w (by rw [h]; decide)]
  unfold plainInstrOf
  rw [h]
  rfl

theorem opc_20 (w : Word) (h : w.extractLsb' 56 8 = 0x20) :
    instrOf w = (
      let f := RForm.ofWord w
      some (.fsub f)) := by
  rw [instrOf_plain w (by rw [h]; decide)]
  unfold plainInstrOf
  rw [h]
  rfl

theorem opc_21 (w : Word) (h : w.extractLsb' 56 8 = 0x21) :
    instrOf w = (
      let f := RForm.ofWord w
      some (.fmul f)) := by
  rw [instrOf_plain w (by rw [h]; decide)]
  unfold plainInstrOf
  rw [h]
  rfl

theorem opc_22 (w : Word) (h : w.extractLsb' 56 8 = 0x22) :
    instrOf w = (
      let f := RForm.ofWord w
      some (.fdiv f)) := by
  rw [instrOf_plain w (by rw [h]; decide)]
  unfold plainInstrOf
  rw [h]
  rfl

theorem opc_23 (w : Word) (h : w.extractLsb' 56 8 = 0x23) :
    instrOf w = (
      let f := RForm.ofWord w
      some (.fsqrt f)) := by
  rw [instrOf_plain w (by rw [h]; decide)]
  unfold plainInstrOf
  rw [h]
  rfl

theorem opc_24 (w : Word) (h : w.extractLsb' 56 8 = 0x24) :
    instrOf w = (
      let f := RForm.ofWord w
      some (.fma f)) := by
  rw [instrOf_plain w (by rw [h]; decide)]
  unfold plainInstrOf
  rw [h]
  rfl

theorem opc_25 (w : Word) (h : w.extractLsb' 56 8 = 0x25) :
    instrOf w = (
      let f := RForm.ofWord w
      if Instr.selects (.fmin f) then some (.fmin f)
      else none) := by
  rw [instrOf_plain w (by rw [h]; decide)]
  unfold plainInstrOf
  rw [h]
  rfl

theorem opc_26 (w : Word) (h : w.extractLsb' 56 8 = 0x26) :
    instrOf w = (
      let f := RForm.ofWord w
      if Instr.selects (.fmax f) then some (.fmax f)
      else none) := by
  rw [instrOf_plain w (by rw [h]; decide)]
  unfold plainInstrOf
  rw [h]
  rfl

theorem opc_27 (w : Word) (h : w.extractLsb' 56 8 = 0x27) :
    instrOf w = (
      let f := RForm.ofWord w
      if Instr.selects (.fsgnCpy f) then some (.fsgnCpy f)
      else if Instr.selects (.fsgnNeg f) then some (.fsgnNeg f)
      else if Instr.selects (.fsgnXor f) then some (.fsgnXor f)
      else none) := by
  rw [instrOf_plain w (by rw [h]; decide)]
  unfold plainInstrOf
  rw [h]
  rfl

theorem opc_28 (w : Word) (h : w.extractLsb' 56 8 = 0x28) :
    instrOf w = (
      let f := RForm.ofWord w
      some (.fclass f)) := by
  rw [instrOf_plain w (by rw [h]; decide)]
  unfold plainInstrOf
  rw [h]
  rfl

theorem opc_29 (w : Word) (h : w.extractLsb' 56 8 = 0x29) :
    instrOf w = (
      let f := RForm.ofWord w
      some (.cvt f)) := by
  rw [instrOf_plain w (by rw [h]; decide)]
  unfold plainInstrOf
  rw [h]
  rfl

theorem opc_2A (w : Word) (h : w.extractLsb' 56 8 = 0x2A) :
    instrOf w = (
      let f := JForm.ofWord w
      if Instr.selects (.br f) then some (.br f)
      else if Instr.selects (.call f) then some (.call f)
      else none) := by
  rw [instrOf_plain w (by rw [h]; decide)]
  unfold plainInstrOf
  rw [h]
  rfl

theorem opc_2B (w : Word) (h : w.extractLsb' 56 8 = 0x2B) :
    instrOf w = (
      let f := RForm.ofWord w
      some (.jmp f)) := by
  rw [instrOf_plain w (by rw [h]; decide)]
  unfold plainInstrOf
  rw [h]
  rfl

theorem opc_2C (w : Word) (h : w.extractLsb' 56 8 = 0x2C) :
    instrOf w = (
      let f := IForm.ofWord w
      if Instr.selects (.bcz f) then some (.bcz f)
      else none) := by
  rw [instrOf_plain w (by rw [h]; decide)]
  unfold plainInstrOf
  rw [h]
  rfl

theorem opc_2D (w : Word) (h : w.extractLsb' 56 8 = 0x2D) :
    instrOf w = (
      let f := IForm.ofWord w
      some (.loop f)) := by
  rw [instrOf_plain w (by rw [h]; decide)]
  unfold plainInstrOf
  rw [h]
  rfl

theorem opc_2E (w : Word) (h : w.extractLsb' 56 8 = 0x2E) :
    instrOf w = (
      let f := IForm.ofWord w
      if Instr.selects (.bfxZ f) then some (.bfxZ f)
      else if Instr.selects (.bfxS f) then some (.bfxS f)
      else if Instr.selects (.bfxI f) then some (.bfxI f)
      else none) := by
  rw [instrOf_plain w (by rw [h]; decide)]
  unfold plainInstrOf
  rw [h]
  rfl

theorem opc_40 (w : Word) (h : w.extractLsb' 56 8 = 0x40) :
    instrOf w = (
      let f := RForm.ofWord w
      if Instr.selects (.vadd f) then some (.vadd f)
      else none) := by
  rw [instrOf_plain w (by rw [h]; decide)]
  unfold plainInstrOf
  rw [h]
  rfl

theorem opc_41 (w : Word) (h : w.extractLsb' 56 8 = 0x41) :
    instrOf w = (
      let f := RForm.ofWord w
      if Instr.selects (.vsub f) then some (.vsub f)
      else none) := by
  rw [instrOf_plain w (by rw [h]; decide)]
  unfold plainInstrOf
  rw [h]
  rfl

theorem opc_42 (w : Word) (h : w.extractLsb' 56 8 = 0x42) :
    instrOf w = (
      let f := RForm.ofWord w
      if Instr.selects (.vmul f) then some (.vmul f)
      else none) := by
  rw [instrOf_plain w (by rw [h]; decide)]
  unfold plainInstrOf
  rw [h]
  rfl

theorem opc_43 (w : Word) (h : w.extractLsb' 56 8 = 0x43) :
    instrOf w = (
      let f := RForm.ofWord w
      if Instr.selects (.vmulh f) then some (.vmulh f)
      else none) := by
  rw [instrOf_plain w (by rw [h]; decide)]
  unfold plainInstrOf
  rw [h]
  rfl

theorem opc_44 (w : Word) (h : w.extractLsb' 56 8 = 0x44) :
    instrOf w = (
      let f := RForm.ofWord w
      if Instr.selects (.vfma f) then some (.vfma f)
      else if Instr.selects (.vfms f) then some (.vfms f)
      else if Instr.selects (.vfnma f) then some (.vfnma f)
      else if Instr.selects (.vfnms f) then some (.vfnms f)
      else none) := by
  rw [instrOf_plain w (by rw [h]; decide)]
  unfold plainInstrOf
  rw [h]
  rfl

theorem opc_45 (w : Word) (h : w.extractLsb' 56 8 = 0x45) :
    instrOf w = (
      let f := RForm.ofWord w
      if Instr.selects (.vmin f) then some (.vmin f)
      else none) := by
  rw [instrOf_plain w (by rw [h]; decide)]
  unfold plainInstrOf
  rw [h]
  rfl

theorem opc_46 (w : Word) (h : w.extractLsb' 56 8 = 0x46) :
    instrOf w = (
      let f := RForm.ofWord w
      if Instr.selects (.vmax f) then some (.vmax f)
      else none) := by
  rw [instrOf_plain w (by rw [h]; decide)]
  unfold plainInstrOf
  rw [h]
  rfl

theorem opc_47 (w : Word) (h : w.extractLsb' 56 8 = 0x47) :
    instrOf w = (
      let f := RForm.ofWord w
      if Instr.selects (.vabs f) then some (.vabs f)
      else if Instr.selects (.vneg f) then some (.vneg f)
      else none) := by
  rw [instrOf_plain w (by rw [h]; decide)]
  unfold plainInstrOf
  rw [h]
  rfl

theorem opc_48 (w : Word) (h : w.extractLsb' 56 8 = 0x48) :
    instrOf w = (
      let f := RForm.ofWord w
      if Instr.selects (.vfnDiv f) then some (.vfnDiv f)
      else if Instr.selects (.vfnSqrt f) then some (.vfnSqrt f)
      else if Instr.selects (.vfnRsqrt f) then some (.vfnRsqrt f)
      else if Instr.selects (.vfnRecip f) then some (.vfnRecip f)
      else if Instr.selects (.vfnExp f) then some (.vfnExp f)
      else if Instr.selects (.vfnExp2 f) then some (.vfnExp2 f)
      else if Instr.selects (.vfnLog f) then some (.vfnLog f)
      else if Instr.selects (.vfnLog2 f) then some (.vfnLog2 f)
      else if Instr.selects (.vfnTanh f) then some (.vfnTanh f)
      else if Instr.selects (.vfnLogistic f) then some (.vfnLogistic f)
      else if Instr.selects (.vfnSinpi f) then some (.vfnSinpi f)
      else if Instr.selects (.vfnCospi f) then some (.vfnCospi f)
      else none) := by
  rw [instrOf_plain w (by rw [h]; decide)]
  unfold plainInstrOf
  rw [h]
  rfl

theorem opc_49 (w : Word) (h : w.extractLsb' 56 8 = 0x49) :
    instrOf w = (
      let f := RForm.ofWord w
      if Instr.selects (.vlogAnd f) then some (.vlogAnd f)
      else if Instr.selects (.vlogOr f) then some (.vlogOr f)
      else if Instr.selects (.vlogXor f) then some (.vlogXor f)
      else if Instr.selects (.vlogAndn f) then some (.vlogAndn f)
      else if Instr.selects (.vlogNot f) then some (.vlogNot f)
      else none) := by
  rw [instrOf_plain w (by rw [h]; decide)]
  unfold plainInstrOf
  rw [h]
  rfl

theorem opc_4A (w : Word) (h : w.extractLsb' 56 8 = 0x4A) :
    instrOf w = (
      let f := RForm.ofWord w
      if Instr.selects (.vshShl f) then some (.vshShl f)
      else if Instr.selects (.vshShr f) then some (.vshShr f)
      else if Instr.selects (.vshSra f) then some (.vshSra f)
      else none) := by
  rw [instrOf_plain w (by rw [h]; decide)]
  unfold plainInstrOf
  rw [h]
  rfl

theorem opc_4B (w : Word) (h : w.extractLsb' 56 8 = 0x4B) :
    instrOf w = (
      let f := RForm.ofWord w
      if Instr.selects (.vcmp f) then some (.vcmp f)
      else none) := by
  rw [instrOf_plain w (by rw [h]; decide)]
  unfold plainInstrOf
  rw [h]
  rfl

theorem opc_4C (w : Word) (h : w.extractLsb' 56 8 = 0x4C) :
    instrOf w = (
      let f := RForm.ofWord w
      some (.vsel f)) := by
  rw [instrOf_plain w (by rw [h]; decide)]
  unfold plainInstrOf
  rw [h]
  rfl

theorem opc_4D (w : Word) (h : w.extractLsb' 56 8 = 0x4D) :
    instrOf w = (
      let f := RForm.ofWord w
      if Instr.selects (.mlogAnd f) then some (.mlogAnd f)
      else if Instr.selects (.mlogOr f) then some (.mlogOr f)
      else if Instr.selects (.mlogXor f) then some (.mlogXor f)
      else if Instr.selects (.mlogAndn f) then some (.mlogAndn f)
      else if Instr.selects (.mlogNot f) then some (.mlogNot f)
      else if Instr.selects (.mlogSet f) then some (.mlogSet f)
      else if Instr.selects (.mlogClr f) then some (.mlogClr f)
      else none) := by
  rw [instrOf_plain w (by rw [h]; decide)]
  unfold plainInstrOf
  rw [h]
  rfl

theorem opc_4E (w : Word) (h : w.extractLsb' 56 8 = 0x4E) :
    instrOf w = (
      let f := RForm.ofWord w
      if Instr.selects (.mpopCnt f) then some (.mpopCnt f)
      else if Instr.selects (.mpopFirst f) then some (.mpopFirst f)
      else none) := by
  rw [instrOf_plain w (by rw [h]; decide)]
  unfold plainInstrOf
  rw [h]
  rfl

theorem opc_4F (w : Word) (h : w.extractLsb' 56 8 = 0x4F) :
    instrOf w = (
      let f := RForm.ofWord w
      some (.vcvt f)) := by
  rw [instrOf_plain w (by rw [h]; decide)]
  unfold plainInstrOf
  rw [h]
  rfl

theorem opc_50 (w : Word) (h : w.extractLsb' 56 8 = 0x50) :
    instrOf w = (
      let f := RForm.ofWord w
      some (.vpack f)) := by
  rw [instrOf_plain w (by rw [h]; decide)]
  unfold plainInstrOf
  rw [h]
  rfl

theorem opc_51 (w : Word) (h : w.extractLsb' 56 8 = 0x51) :
    instrOf w = (
      let f := RForm.ofWord w
      some (.vunpack f)) := by
  rw [instrOf_plain w (by rw [h]; decide)]
  unfold plainInstrOf
  rw [h]
  rfl

theorem opc_52 (w : Word) (h : w.extractLsb' 56 8 = 0x52) :
    instrOf w = (
      let f := RForm.ofWord w
      if Instr.selects (.vpermIdx f) then some (.vpermIdx f)
      else if Instr.selects (.vpermRot f) then some (.vpermRot f)
      else if Instr.selects (.vpermXor f) then some (.vpermXor f)
      else none) := by
  rw [instrOf_plain w (by rw [h]; decide)]
  unfold plainInstrOf
  rw [h]
  rfl

theorem opc_53 (w : Word) (h : w.extractLsb' 56 8 = 0x53) :
    instrOf w = (
      let f := RForm.ofWord w
      if Instr.selects (.vbcastLane f) then some (.vbcastLane f)
      else if Instr.selects (.vbcastElem f) then some (.vbcastElem f)
      else none) := by
  rw [instrOf_plain w (by rw [h]; decide)]
  unfold plainInstrOf
  rw [h]
  rfl

theorem opc_54 (w : Word) (h : w.extractLsb' 56 8 = 0x54) :
    instrOf w = (
      let f := RForm.ofWord w
      if Instr.selects (.vshuf f) then some (.vshuf f)
      else none) := by
  rw [instrOf_plain w (by rw [h]; decide)]
  unfold plainInstrOf
  rw [h]
  rfl

theorem opc_55 (w : Word) (h : w.extractLsb' 56 8 = 0x55) :
    instrOf w = (
      let f := RForm.ofWord w
      if Instr.selects (.vred f) then some (.vred f)
      else none) := by
  rw [instrOf_plain w (by rw [h]; decide)]
  unfold plainInstrOf
  rw [h]
  rfl

theorem opc_56 (w : Word) (h : w.extractLsb' 56 8 = 0x56) :
    instrOf w = (
      let f := RForm.ofWord w
      if Instr.selects (.vscan f) then some (.vscan f)
      else none) := by
  rw [instrOf_plain w (by rw [h]; decide)]
  unfold plainInstrOf
  rw [h]
  rfl

theorem opc_57 (w : Word) (h : w.extractLsb' 56 8 = 0x57) :
    instrOf w = (
      let f := RForm.ofWord w
      if Instr.selects (.vidx f) then some (.vidx f)
      else if Instr.selects (.vidxElem f) then some (.vidxElem f)
      else if Instr.selects (.vidxFlat f) then some (.vidxFlat f)
      else none) := by
  rw [instrOf_plain w (by rw [h]; decide)]
  unfold plainInstrOf
  rw [h]
  rfl

theorem opc_58 (w : Word) (h : w.extractLsb' 56 8 = 0x58) :
    instrOf w = (
      let f := RForm.ofWord w
      if Instr.selects (.vmovk f) then some (.vmovk f)
      else none) := by
  rw [instrOf_plain w (by rw [h]; decide)]
  unfold plainInstrOf
  rw [h]
  rfl

theorem opc_59 (w : Word) (h : w.extractLsb' 56 8 = 0x59) :
    instrOf w = (
      let f := RForm.ofWord w
      some (.vext f)) := by
  rw [instrOf_plain w (by rw [h]; decide)]
  unfold plainInstrOf
  rw [h]
  rfl

theorem opc_5A (w : Word) (h : w.extractLsb' 56 8 = 0x5A) :
    instrOf w = (
      let f := RForm.ofWord w
      some (.vins f)) := by
  rw [instrOf_plain w (by rw [h]; decide)]
  unfold plainInstrOf
  rw [h]
  rfl

theorem opc_5B (w : Word) (h : w.extractLsb' 56 8 = 0x5B) :
    instrOf w = (
      let f := RForm.ofWord w
      if Instr.selects (.vflagRd f) then some (.vflagRd f)
      else if Instr.selects (.vflagWr f) then some (.vflagWr f)
      else if Instr.selects (.vflagClr f) then some (.vflagClr f)
      else none) := by
  rw [instrOf_plain w (by rw [h]; decide)]
  unfold plainInstrOf
  rw [h]
  rfl

theorem opc_5C (w : Word) (h : w.extractLsb' 56 8 = 0x5C) :
    instrOf w = (
      let f := RForm.ofWord w
      if Instr.selects (.vcmul f) then some (.vcmul f)
      else if Instr.selects (.vcmulConj f) then some (.vcmulConj f)
      else if Instr.selects (.vcmulFma f) then some (.vcmulFma f)
      else if Instr.selects (.vcmulFmac f) then some (.vcmulFmac f)
      else none) := by
  rw [instrOf_plain w (by rw [h]; decide)]
  unfold plainInstrOf
  rw [h]
  rfl

theorem opc_5D (w : Word) (h : w.extractLsb' 56 8 = 0x5D) :
    instrOf w = (
      let f := RForm.ofWord w
      if Instr.selects (.vclamp f) then some (.vclamp f)
      else none) := by
  rw [instrOf_plain w (by rw [h]; decide)]
  unfold plainInstrOf
  rw [h]
  rfl

theorem opc_5E (w : Word) (h : w.extractLsb' 56 8 = 0x5E) :
    instrOf w = (
      let f := RForm.ofWord w
      if Instr.selects (.vsgnCpy f) then some (.vsgnCpy f)
      else if Instr.selects (.vsgnNeg f) then some (.vsgnNeg f)
      else if Instr.selects (.vsgnXor f) then some (.vsgnXor f)
      else none) := by
  rw [instrOf_plain w (by rw [h]; decide)]
  unfold plainInstrOf
  rw [h]
  rfl

theorem opc_5F (w : Word) (h : w.extractLsb' 56 8 = 0x5F) :
    instrOf w = (
      let f := RForm.ofWord w
      if Instr.selects (.vbcntPop f) then some (.vbcntPop f)
      else if Instr.selects (.vbcntClz f) then some (.vbcntClz f)
      else if Instr.selects (.vbcntCtz f) then some (.vbcntCtz f)
      else none) := by
  rw [instrOf_plain w (by rw [h]; decide)]
  unfold plainInstrOf
  rw [h]
  rfl

theorem opc_60 (w : Word) (h : w.extractLsb' 56 8 = 0x60) :
    instrOf w = (
      let f := RForm.ofWord w
      if Instr.selects (.vdot f) then some (.vdot f)
      else none) := by
  rw [instrOf_plain w (by rw [h]; decide)]
  unfold plainInstrOf
  rw [h]
  rfl

theorem opc_61 (w : Word) (h : w.extractLsb' 56 8 = 0x61) :
    instrOf w = (
      let f := RForm.ofWord w
      if Instr.selects (.vrint f) then some (.vrint f)
      else if Instr.selects (.vrintX f) then some (.vrintX f)
      else none) := by
  rw [instrOf_plain w (by rw [h]; decide)]
  unfold plainInstrOf
  rw [h]
  rfl

theorem opc_62 (w : Word) (h : w.extractLsb' 56 8 = 0x62) :
    instrOf w = (
      let f := RForm.ofWord w
      if Instr.selects (.vscale f) then some (.vscale f)
      else none) := by
  rw [instrOf_plain w (by rw [h]; decide)]
  unfold plainInstrOf
  rw [h]
  rfl

theorem opc_80 (w : Word) (h : w.extractLsb' 56 8 = 0x80) :
    instrOf w = (
      let f := RForm.ofWord w
      if Instr.selects (.tmmaMadd f) then some (.tmmaMadd f)
      else if Instr.selects (.tmmaAdif f) then some (.tmmaAdif f)
      else if Instr.selects (.tmmaCselmax f) then some (.tmmaCselmax f)
      else if Instr.selects (.tmmaCselmin f) then some (.tmmaCselmin f)
      else if Instr.selects (.tmmaCmad f) then some (.tmmaCmad f)
      else if Instr.selects (.tmmaSeq f) then some (.tmmaSeq f)
      else none) := by
  rw [instrOf_plain w (by rw [h]; decide)]
  unfold plainInstrOf
  rw [h]
  rfl

theorem opc_81 (w : Word) (h : w.extractLsb' 56 8 = 0x81) :
    instrOf w = (
      let f := RForm.ofWord w
      if Instr.selects (.tclr f) then some (.tclr f)
      else none) := by
  rw [instrOf_plain w (by rw [h]; decide)]
  unfold plainInstrOf
  rw [h]
  rfl

theorem opc_82 (w : Word) (h : w.extractLsb' 56 8 = 0x82) :
    instrOf w = (
      let f := RForm.ofWord w
      some (.taccRd f)) := by
  rw [instrOf_plain w (by rw [h]; decide)]
  unfold plainInstrOf
  rw [h]
  rfl

theorem opc_83 (w : Word) (h : w.extractLsb' 56 8 = 0x83) :
    instrOf w = (
      let f := RForm.ofWord w
      if Instr.selects (.taccWr f) then some (.taccWr f)
      else none) := by
  rw [instrOf_plain w (by rw [h]; decide)]
  unfold plainInstrOf
  rw [h]
  rfl

theorem opc_84 (w : Word) (h : w.extractLsb' 56 8 = 0x84) :
    instrOf w = (
      let f := RForm.ofWord w
      some (.tnorm f)) := by
  rw [instrOf_plain w (by rw [h]; decide)]
  unfold plainInstrOf
  rw [h]
  rfl

theorem opc_85 (w : Word) (h : w.extractLsb' 56 8 = 0x85) :
    instrOf w = (
      let f := RForm.ofWord w
      if Instr.selects (.tstatAcc f) then some (.tstatAcc f)
      else if Instr.selects (.tstatLatch f) then some (.tstatLatch f)
      else none) := by
  rw [instrOf_plain w (by rw [h]; decide)]
  unfold plainInstrOf
  rw [h]
  rfl

theorem opc_86 (w : Word) (h : w.extractLsb' 56 8 = 0x86) :
    instrOf w = (
      let f := RForm.ofWord w
      some (.tcopy f)) := by
  rw [instrOf_plain w (by rw [h]; decide)]
  unfold plainInstrOf
  rw [h]
  rfl

theorem opc_87 (w : Word) (h : w.extractLsb' 56 8 = 0x87) :
    instrOf w = (
      let f := RForm.ofWord w
      some (.tqclr f)) := by
  rw [instrOf_plain w (by rw [h]; decide)]
  unfold plainInstrOf
  rw [h]
  rfl

theorem opc_88 (w : Word) (h : w.extractLsb' 56 8 = 0x88) :
    instrOf w = (
      let f := RForm.ofWord w
      some (.tmerge f)) := by
  rw [instrOf_plain w (by rw [h]; decide)]
  unfold plainInstrOf
  rw [h]
  rfl

theorem opc_A0 (w : Word) (h : w.extractLsb' 56 8 = 0xA0) :
    instrOf w = (
      let f := RForm.ofWord w
      if Instr.selects (.xfft f) then some (.xfft f)
      else none) := by
  rw [instrOf_plain w (by rw [h]; decide)]
  unfold plainInstrOf
  rw [h]
  rfl

theorem opc_A1 (w : Word) (h : w.extractLsb' 56 8 = 0xA1) :
    instrOf w = (
      let f := RForm.ofWord w
      if Instr.selects (.xifft f) then some (.xifft f)
      else none) := by
  rw [instrOf_plain w (by rw [h]; decide)]
  unfold plainInstrOf
  rw [h]
  rfl

theorem opc_A2 (w : Word) (h : w.extractLsb' 56 8 = 0xA2) :
    instrOf w = (
      let f := RForm.ofWord w
      if Instr.selects (.xtrn f) then some (.xtrn f)
      else if Instr.selects (.xtrnTurn f) then some (.xtrnTurn f)
      else if Instr.selects (.xtrnBack f) then some (.xtrnBack f)
      else none) := by
  rw [instrOf_plain w (by rw [h]; decide)]
  unfold plainInstrOf
  rw [h]
  rfl

theorem opc_A3 (w : Word) (h : w.extractLsb' 56 8 = 0xA3) :
    instrOf w = (
      let f := RForm.ofWord w
      if Instr.selects (.xcvt f) then some (.xcvt f)
      else none) := by
  rw [instrOf_plain w (by rw [h]; decide)]
  unfold plainInstrOf
  rw [h]
  rfl

theorem opc_A4 (w : Word) (h : w.extractLsb' 56 8 = 0xA4) :
    instrOf w = (
      let f := RForm.ofWord w
      if Instr.selects (.xexp f) then some (.xexp f)
      else none) := by
  rw [instrOf_plain w (by rw [h]; decide)]
  unfold plainInstrOf
  rw [h]
  rfl

theorem opc_A5 (w : Word) (h : w.extractLsb' 56 8 = 0xA5) :
    instrOf w = (
      let f := RForm.ofWord w
      if Instr.selects (.xsclS f) then some (.xsclS f)
      else if Instr.selects (.xsclU f) then some (.xsclU f)
      else none) := by
  rw [instrOf_plain w (by rw [h]; decide)]
  unfold plainInstrOf
  rw [h]
  rfl

theorem opc_A6 (w : Word) (h : w.extractLsb' 56 8 = 0xA6) :
    instrOf w = (
      let f := RForm.ofWord w
      if Instr.selects (.xmov f) then some (.xmov f)
      else none) := by
  rw [instrOf_plain w (by rw [h]; decide)]
  unfold plainInstrOf
  rw [h]
  rfl

theorem opc_A7 (w : Word) (h : w.extractLsb' 56 8 = 0xA7) :
    instrOf w = (
      let f := RForm.ofWord w
      if Instr.selects (.xhdr f) then some (.xhdr f)
      else none) := by
  rw [instrOf_plain w (by rw [h]; decide)]
  unfold plainInstrOf
  rw [h]
  rfl

theorem opc_B0 (w : Word) (h : w.extractLsb' 56 8 = 0xB0) :
    instrOf w = (
      let f := MForm.ofWord w
      some (.ld f)) := by
  rw [instrOf_plain w (by rw [h]; decide)]
  unfold plainInstrOf
  rw [h]
  rfl

theorem opc_B1 (w : Word) (h : w.extractLsb' 56 8 = 0xB1) :
    instrOf w = (
      let f := MForm.ofWord w
      some (.st f)) := by
  rw [instrOf_plain w (by rw [h]; decide)]
  unfold plainInstrOf
  rw [h]
  rfl

theorem opc_B2 (w : Word) (h : w.extractLsb' 56 8 = 0xB2) :
    instrOf w = (
      let f := MForm.ofWord w
      some (.lds f)) := by
  rw [instrOf_plain w (by rw [h]; decide)]
  unfold plainInstrOf
  rw [h]
  rfl

theorem opc_B3 (w : Word) (h : w.extractLsb' 56 8 = 0xB3) :
    instrOf w = (
      let f := MForm.ofWord w
      some (.sts f)) := by
  rw [instrOf_plain w (by rw [h]; decide)]
  unfold plainInstrOf
  rw [h]
  rfl

theorem opc_B4 (w : Word) (h : w.extractLsb' 56 8 = 0xB4) :
    instrOf w = (
      let f := MForm.ofWord w
      some (.ldq f)) := by
  rw [instrOf_plain w (by rw [h]; decide)]
  unfold plainInstrOf
  rw [h]
  rfl

theorem opc_B5 (w : Word) (h : w.extractLsb' 56 8 = 0xB5) :
    instrOf w = (
      let f := MForm.ofWord w
      some (.stq f)) := by
  rw [instrOf_plain w (by rw [h]; decide)]
  unfold plainInstrOf
  rw [h]
  rfl

theorem opc_B6 (w : Word) (h : w.extractLsb' 56 8 = 0xB6) :
    instrOf w = (
      let f := MForm.ofWord w
      some (.pref f)) := by
  rw [instrOf_plain w (by rw [h]; decide)]
  unfold plainInstrOf
  rw [h]
  rfl

theorem opc_B7 (w : Word) (h : w.extractLsb' 56 8 = 0xB7) :
    instrOf w = (
      let f := MForm.ofWord w
      some (.stz f)) := by
  rw [instrOf_plain w (by rw [h]; decide)]
  unfold plainInstrOf
  rw [h]
  rfl

theorem opc_B8 (w : Word) (h : w.extractLsb' 56 8 = 0xB8) :
    instrOf w = (
      let f := MForm.ofWord w
      if Instr.selects (.amoAdd f) then some (.amoAdd f)
      else if Instr.selects (.amoAnd f) then some (.amoAnd f)
      else if Instr.selects (.amoOr f) then some (.amoOr f)
      else if Instr.selects (.amoXor f) then some (.amoXor f)
      else if Instr.selects (.amoMin f) then some (.amoMin f)
      else if Instr.selects (.amoMax f) then some (.amoMax f)
      else if Instr.selects (.amoExch f) then some (.amoExch f)
      else if Instr.selects (.amoFadd f) then some (.amoFadd f)
      else none) := by
  rw [instrOf_plain w (by rw [h]; decide)]
  unfold plainInstrOf
  rw [h]
  rfl

theorem opc_B9 (w : Word) (h : w.extractLsb' 56 8 = 0xB9) :
    instrOf w = (
      let f := MForm.ofWord w
      if Instr.selects (.redAdd f) then some (.redAdd f)
      else if Instr.selects (.redAnd f) then some (.redAnd f)
      else if Instr.selects (.redOr f) then some (.redOr f)
      else if Instr.selects (.redXor f) then some (.redXor f)
      else if Instr.selects (.redMin f) then some (.redMin f)
      else if Instr.selects (.redMax f) then some (.redMax f)
      else if Instr.selects (.redFadd f) then some (.redFadd f)
      else none) := by
  rw [instrOf_plain w (by rw [h]; decide)]
  unfold plainInstrOf
  rw [h]
  rfl

theorem opc_BA (w : Word) (h : w.extractLsb' 56 8 = 0xBA) :
    instrOf w = (
      let f := MForm.ofWord w
      some (.cas f)) := by
  rw [instrOf_plain w (by rw [h]; decide)]
  unfold plainInstrOf
  rw [h]
  rfl

theorem opc_BB (w : Word) (h : w.extractLsb' 56 8 = 0xBB) :
    instrOf w = (
      let f := MForm.ofWord w
      some (.join f)) := by
  rw [instrOf_plain w (by rw [h]; decide)]
  unfold plainInstrOf
  rw [h]
  rfl

theorem opc_BC (w : Word) (h : w.extractLsb' 56 8 = 0xBC) :
    instrOf w = (
      let f := MForm.ofWord w
      some (.ldge f)) := by
  rw [instrOf_plain w (by rw [h]; decide)]
  unfold plainInstrOf
  rw [h]
  rfl

theorem opc_BD (w : Word) (h : w.extractLsb' 56 8 = 0xBD) :
    instrOf w = (
      let f := MForm.ofWord w
      if Instr.selects (.fenceAcq f) then some (.fenceAcq f)
      else if Instr.selects (.fenceRel f) then some (.fenceRel f)
      else if Instr.selects (.fenceAr f) then some (.fenceAr f)
      else if Instr.selects (.fenceSc f) then some (.fenceSc f)
      else none) := by
  rw [instrOf_plain w (by rw [h]; decide)]
  unfold plainInstrOf
  rw [h]
  rfl

theorem opc_BE (w : Word) (h : w.extractLsb' 56 8 = 0xBE) :
    instrOf w = (
      let f := MForm.ofWord w
      some (.sread f)) := by
  rw [instrOf_plain w (by rw [h]; decide)]
  unfold plainInstrOf
  rw [h]
  rfl

theorem opc_BF (w : Word) (h : w.extractLsb' 56 8 = 0xBF) :
    instrOf w = (
      let f := MForm.ofWord w
      some (.swrite f)) := by
  rw [instrOf_plain w (by rw [h]; decide)]
  unfold plainInstrOf
  rw [h]
  rfl

theorem opc_C0 (w : Word) (h : w.extractLsb' 56 8 = 0xC0) :
    instrOf w = (
      let f := MForm.ofWord w
      some (.sreadx f)) := by
  rw [instrOf_plain w (by rw [h]; decide)]
  unfold plainInstrOf
  rw [h]
  rfl

theorem opc_C1 (w : Word) (h : w.extractLsb' 56 8 = 0xC1) :
    instrOf w = (
      let f := MForm.ofWord w
      some (.swritex f)) := by
  rw [instrOf_plain w (by rw [h]; decide)]
  unfold plainInstrOf
  rw [h]
  rfl

theorem opc_C2 (w : Word) (h : w.extractLsb' 56 8 = 0xC2) :
    instrOf w = (
      let f := MForm.ofWord w
      some (.sbcast f)) := by
  rw [instrOf_plain w (by rw [h]; decide)]
  unfold plainInstrOf
  rw [h]
  rfl

theorem opc_C3 (w : Word) (h : w.extractLsb' 56 8 = 0xC3) :
    instrOf w = (
      let f := RForm.ofWord w
      if Instr.selects (.tfillAll f) then some (.tfillAll f)
      else if Instr.selects (.tfillPart f) then some (.tfillPart f)
      else if Instr.selects (.tfillGath f) then some (.tfillGath f)
      else none) := by
  rw [instrOf_plain w (by rw [h]; decide)]
  unfold plainInstrOf
  rw [h]
  rfl

theorem opc_C4 (w : Word) (h : w.extractLsb' 56 8 = 0xC4) :
    instrOf w = (
      let f := RForm.ofWord w
      if Instr.selects (.cvtaGal f) then some (.cvtaGal f)
      else if Instr.selects (.cvtaOwn f) then some (.cvtaOwn f)
      else if Instr.selects (.cvtaCore f) then some (.cvtaCore f)
      else if Instr.selects (.cvtaOff f) then some (.cvtaOff f)
      else none) := by
  rw [instrOf_plain w (by rw [h]; decide)]
  unfold plainInstrOf
  rw [h]
  rfl

theorem opc_C5 (w : Word) (h : w.extractLsb' 56 8 = 0xC5) :
    instrOf w = (
      let f := RForm.ofWord w
      if Instr.selects (.inapGlob f) then some (.inapGlob f)
      else if Instr.selects (.inapSrf f) then some (.inapSrf f)
      else if Instr.selects (.inapGal f) then some (.inapGal f)
      else if Instr.selects (.inapLocal f) then some (.inapLocal f)
      else none) := by
  rw [instrOf_plain w (by rw [h]; decide)]
  unfold plainInstrOf
  rw [h]
  rfl

theorem opc_C6 (w : Word) (h : w.extractLsb' 56 8 = 0xC6) :
    instrOf w = (
      let f := IForm.ofWord w
      if Instr.selects (.barArrive f) then some (.barArrive f)
      else if Instr.selects (.barWait f) then some (.barWait f)
      else if Instr.selects (.barSync f) then some (.barSync f)
      else none) := by
  rw [instrOf_plain w (by rw [h]; decide)]
  unfold plainInstrOf
  rw [h]
  rfl

theorem opc_C7 (w : Word) (h : w.extractLsb' 56 8 = 0xC7) :
    instrOf w = (
      let f := RForm.ofWord w
      if Instr.selects (.cacheIall f) then some (.cacheIall f)
      else if Instr.selects (.cacheIline f) then some (.cacheIline f)
      else if Instr.selects (.cacheDline f) then some (.cacheDline f)
      else if Instr.selects (.cacheDall f) then some (.cacheDall f)
      else none) := by
  rw [instrOf_plain w (by rw [h]; decide)]
  unfold plainInstrOf
  rw [h]
  rfl

theorem opc_C8 (w : Word) (h : w.extractLsb' 56 8 = 0xC8) :
    instrOf w = (
      let f := RForm.ofWord w
      if Instr.selects (.tlbiAll f) then some (.tlbiAll f)
      else if Instr.selects (.tlbiAsid f) then some (.tlbiAsid f)
      else if Instr.selects (.tlbiPage f) then some (.tlbiPage f)
      else if Instr.selects (.tlbiRange f) then some (.tlbiRange f)
      else none) := by
  rw [instrOf_plain w (by rw [h]; decide)]
  unfold plainInstrOf
  rw [h]
  rfl

theorem opc_E0 (w : Word) (h : w.extractLsb' 56 8 = 0xE0) :
    instrOf w = (
      let f := IForm.ofWord w
      some (.rdsys f)) := by
  rw [instrOf_plain w (by rw [h]; decide)]
  unfold plainInstrOf
  rw [h]
  rfl

theorem opc_E1 (w : Word) (h : w.extractLsb' 56 8 = 0xE1) :
    instrOf w = (
      let f := IForm.ofWord w
      if Instr.selects (.trapSw f) then some (.trapSw f)
      else if Instr.selects (.trapCall f) then some (.trapCall f)
      else none) := by
  rw [instrOf_plain w (by rw [h]; decide)]
  unfold plainInstrOf
  rw [h]
  rfl

theorem opc_E2 (w : Word) (h : w.extractLsb' 56 8 = 0xE2) :
    instrOf w = (
      let f := IForm.ofWord w
      some (.brk f)) := by
  rw [instrOf_plain w (by rw [h]; decide)]
  unfold plainInstrOf
  rw [h]
  rfl

theorem opc_E3 (w : Word) (h : w.extractLsb' 56 8 = 0xE3) :
    instrOf w = (
      let f := IForm.ofWord w
      some (.wrsys f)) := by
  rw [instrOf_plain w (by rw [h]; decide)]
  unfold plainInstrOf
  rw [h]
  rfl

theorem opc_E4 (w : Word) (h : w.extractLsb' 56 8 = 0xE4) :
    instrOf w = (
      let f := IForm.ofWord w
      some (.tret f)) := by
  rw [instrOf_plain w (by rw [h]; decide)]
  unfold plainInstrOf
  rw [h]
  rfl

theorem opc_E5 (w : Word) (h : w.extractLsb' 56 8 = 0xE5) :
    instrOf w = (
      let f := IForm.ofWord w
      some (.halt f)) := by
  rw [instrOf_plain w (by rw [h]; decide)]
  unfold plainInstrOf
  rw [h]
  rfl

theorem opc_E6 (w : Word) (h : w.extractLsb' 56 8 = 0xE6) :
    instrOf w = (
      let f := IForm.ofWord w
      some (.idle f)) := by
  rw [instrOf_plain w (by rw [h]; decide)]
  unfold plainInstrOf
  rw [h]
  rfl

theorem opc_E7 (w : Word) (h : w.extractLsb' 56 8 = 0xE7) :
    instrOf w = (
      let f := IForm.ofWord w
      some (.xchsys f)) := by
  rw [instrOf_plain w (by rw [h]; decide)]
  unfold plainInstrOf
  rw [h]
  rfl

theorem opc_E8 (w : Word) (h : w.extractLsb' 56 8 = 0xE8) :
    instrOf w = (
      let f := IForm.ofWord w
      some (.work f)) := by
  rw [instrOf_plain w (by rw [h]; decide)]
  unfold plainInstrOf
  rw [h]
  rfl

theorem opc_D0 (w : Word) (h : w.extractLsb' 56 8 = 0xD0) :
    instrOf w = (
      let f := SForm.ofWord w
      some (.sload f)) := by
  rw [instrOf_stream w (by rw [h]; decide)]
  unfold streamInstrOf
  rw [h]
  rfl

theorem opc_D1 (w : Word) (h : w.extractLsb' 56 8 = 0xD1) :
    instrOf w = (
      let f := SForm.ofWord w
      some (.sstore f)) := by
  rw [instrOf_stream w (by rw [h]; decide)]
  unfold streamInstrOf
  rw [h]
  rfl

theorem opc_D2 (w : Word) (h : w.extractLsb' 56 8 = 0xD2) :
    instrOf w = (
      let f := SForm.ofWord w
      if Instr.selects (.stileRd f) then some (.stileRd f)
      else if Instr.selects (.stileWr f) then some (.stileWr f)
      else none) := by
  rw [instrOf_stream w (by rw [h]; decide)]
  unfold streamInstrOf
  rw [h]
  rfl

theorem opc_D3 (w : Word) (h : w.extractLsb' 56 8 = 0xD3) :
    instrOf w = (
      let f := SForm.ofWord w
      if Instr.selects (.scopy f) then some (.scopy f)
      else if Instr.selects (.scopyR f) then some (.scopyR f)
      else if Instr.selects (.scopyM f) then some (.scopyM f)
      else none) := by
  rw [instrOf_stream w (by rw [h]; decide)]
  unfold streamInstrOf
  rw [h]
  rfl

theorem opc_D4 (w : Word) (h : w.extractLsb' 56 8 = 0xD4) :
    instrOf w = (
      let f := SForm.ofWord w
      if Instr.selects (.sfill f) then some (.sfill f)
      else if Instr.selects (.sfillR f) then some (.sfillR f)
      else if Instr.selects (.sfillM f) then some (.sfillM f)
      else none) := by
  rw [instrOf_stream w (by rw [h]; decide)]
  unfold streamInstrOf
  rw [h]
  rfl

theorem opc_D5 (w : Word) (h : w.extractLsb' 56 8 = 0xD5) :
    instrOf w = (
      let f := SForm.ofWord w
      some (.sgather f)) := by
  rw [instrOf_stream w (by rw [h]; decide)]
  unfold streamInstrOf
  rw [h]
  rfl

theorem opc_D6 (w : Word) (h : w.extractLsb' 56 8 = 0xD6) :
    instrOf w = (
      let f := SForm.ofWord w
      some (.sscadd f)) := by
  rw [instrOf_stream w (by rw [h]; decide)]
  unfold streamInstrOf
  rw [h]
  rfl

theorem opc_D7 (w : Word) (h : w.extractLsb' 56 8 = 0xD7) :
    instrOf w = (
      let f := SForm.ofWord w
      some (.srecv f)) := by
  rw [instrOf_stream w (by rw [h]; decide)]
  unfold streamInstrOf
  rw [h]
  rfl

theorem opc_D8 (w : Word) (h : w.extractLsb' 56 8 = 0xD8) :
    instrOf w = (
      let f := SForm.ofWord w
      some (.krun f)) := by
  rw [instrOf_stream w (by rw [h]; decide)]
  unfold streamInstrOf
  rw [h]
  rfl

theorem opc_D9 (w : Word) (h : w.extractLsb' 56 8 = 0xD9) :
    instrOf w = (
      let f := SForm.ofWord w
      if Instr.selects (.kwait f) then some (.kwait f)
      else none) := by
  rw [instrOf_stream w (by rw [h]; decide)]
  unfold streamInstrOf
  rw [h]
  rfl

theorem opc_DA (w : Word) (h : w.extractLsb' 56 8 = 0xDA) :
    instrOf w = (
      let f := SForm.ofWord w
      if Instr.selects (.kresume f) then some (.kresume f)
      else if Instr.selects (.kresumeAbort f) then some (.kresumeAbort f)
      else none) := by
  rw [instrOf_stream w (by rw [h]; decide)]
  unfold streamInstrOf
  rw [h]
  rfl

theorem opc_DB (w : Word) (h : w.extractLsb' 56 8 = 0xDB) :
    instrOf w = (
      let f := SForm.ofWord w
      if Instr.selects (.swait f) then some (.swait f)
      else if Instr.selects (.swaitTest f) then some (.swaitTest f)
      else if Instr.selects (.swaitAll f) then some (.swaitAll f)
      else none) := by
  rw [instrOf_stream w (by rw [h]; decide)]
  unfold streamInstrOf
  rw [h]
  rfl

theorem opc_DC (w : Word) (h : w.extractLsb' 56 8 = 0xDC) :
    instrOf w = (
      let f := SForm.ofWord w
      if Instr.selects (.barvArm f) then some (.barvArm f)
      else if Instr.selects (.barvArrive f) then some (.barvArrive f)
      else if Instr.selects (.barvWait f) then some (.barvWait f)
      else none) := by
  rw [instrOf_stream w (by rw [h]; decide)]
  unfold streamInstrOf
  rw [h]
  rfl

theorem opc_DD (w : Word) (h : w.extractLsb' 56 8 = 0xDD) :
    instrOf w = (
      let f := SForm.ofWord w
      if Instr.selects (.sdgetW0 f) then some (.sdgetW0 f)
      else if Instr.selects (.sdgetW1 f) then some (.sdgetW1 f)
      else if Instr.selects (.sdputW0 f) then some (.sdputW0 f)
      else if Instr.selects (.sdputW1 f) then some (.sdputW1 f)
      else none) := by
  rw [instrOf_stream w (by rw [h]; decide)]
  unfold streamInstrOf
  rw [h]
  rfl

theorem opc_DE (w : Word) (h : w.extractLsb' 56 8 = 0xDE) :
    instrOf w = (
      let f := SForm.ofWord w
      if Instr.selects (.sdrec f) then some (.sdrec f)
      else none) := by
  rw [instrOf_stream w (by rw [h]; decide)]
  unfold streamInstrOf
  rw [h]
  rfl

theorem opc_DF (w : Word) (h : w.extractLsb' 56 8 = 0xDF) :
    instrOf w = (
      let f := SForm.ofWord w
      some (.snop f)) := by
  rw [instrOf_stream w (by rw [h]; decide)]
  unfold streamInstrOf
  rw [h]
  rfl

end Sys2Proof
end

