-- ==== Sys2Proof/Laws/PerInstr.lean ====
section
/-! SUPPORT. One lemma for each operation about its word (R56-R72): the word holds the opcode and the guard, and the
decoder finds the operation that wrote it. -/

namespace Sys2Proof.Laws.Word

open Sys2Proof Sys2Proof.Machine

/-- The word of an operation has its opcode and guard in bits 63:52, the opcode is assigned, and, its selector fields
holding what the operation's entry assigns, the decoder reads the operation back. An event has no word. -/
def Statement (i : Instr) : Prop :=
  ∀ r, Instr.raw i = some r →
    r.toWord.extractLsb' 56 8 = r.opc ∧ r.toWord.extractLsb' 52 4 = r.guard ∧ opcAssigned r.opc = true ∧
      (Instr.selects i = true → instrOf r.toWord = some i)

theorem Statement.word {i : Instr} (r : Raw) (h : Instr.raw i = some r) (h1 : r.toWord.extractLsb' 56 8 = r.opc)
    (h2 : r.toWord.extractLsb' 52 4 = r.guard) (h3 : opcAssigned r.opc = true)
    (h4 : Instr.selects i = true → instrOf r.toWord = some i) : Statement i := by
  intro r' h'
  rw [h] at h'
  cases h'
  exact ⟨h1, h2, h3, h4⟩

theorem Statement.event {i : Instr} (h : Instr.raw i = none) : Statement i := by
  intro r' h'
  rw [h] at h'
  cases h'

theorem add (w : RForm) : Statement (.add w) := by
  refine .word (.r 0x01 w) rfl (RForm.opc_toWord _ _) (RForm.guard_toWord _ _) rfl (fun _ => ?_)
  rw [Raw.toWord, opc_01 _ (RForm.opc_toWord _ _), RForm.ofWord_toWord]

theorem sub (w : RForm) : Statement (.sub w) := by
  refine .word (.r 0x02 w) rfl (RForm.opc_toWord _ _) (RForm.guard_toWord _ _) rfl (fun _ => ?_)
  rw [Raw.toWord, opc_02 _ (RForm.opc_toWord _ _), RForm.ofWord_toWord]

theorem mul (w : RForm) : Statement (.mul w) := by
  refine .word (.r 0x03 w) rfl (RForm.opc_toWord _ _) (RForm.guard_toWord _ _) rfl (fun _ => ?_)
  rw [Raw.toWord, opc_03 _ (RForm.opc_toWord _ _), RForm.ofWord_toWord]

theorem mulh (w : RForm) : Statement (.mulh w) := by
  refine .word (.r 0x04 w) rfl (RForm.opc_toWord _ _) (RForm.guard_toWord _ _) rfl (fun _ => ?_)
  rw [Raw.toWord, opc_04 _ (RForm.opc_toWord _ _), RForm.ofWord_toWord]

theorem div (w : RForm) : Statement (.div w) := by
  refine .word (.r 0x05 w) rfl (RForm.opc_toWord _ _) (RForm.guard_toWord _ _) rfl (fun _ => ?_)
  rw [Raw.toWord, opc_05 _ (RForm.opc_toWord _ _), RForm.ofWord_toWord]

theorem rem (w : RForm) : Statement (.rem w) := by
  refine .word (.r 0x06 w) rfl (RForm.opc_toWord _ _) (RForm.guard_toWord _ _) rfl (fun _ => ?_)
  rw [Raw.toWord, opc_06 _ (RForm.opc_toWord _ _), RForm.ofWord_toWord]

theorem min (w : RForm) : Statement (.min w) := by
  refine .word (.r 0x07 w) rfl (RForm.opc_toWord _ _) (RForm.guard_toWord _ _) rfl (fun _ => ?_)
  rw [Raw.toWord, opc_07 _ (RForm.opc_toWord _ _), RForm.ofWord_toWord]

theorem max (w : RForm) : Statement (.max w) := by
  refine .word (.r 0x08 w) rfl (RForm.opc_toWord _ _) (RForm.guard_toWord _ _) rfl (fun _ => ?_)
  rw [Raw.toWord, opc_08 _ (RForm.opc_toWord _ _), RForm.ofWord_toWord]

theorem abs (w : RForm) : Statement (.abs w) := by
  refine .word (.r 0x09 w) rfl (RForm.opc_toWord _ _) (RForm.guard_toWord _ _) rfl (fun _ => ?_)
  rw [Raw.toWord, opc_09 _ (RForm.opc_toWord _ _), RForm.ofWord_toWord]

theorem neg (w : RForm) : Statement (.neg w) := by
  refine .word (.r 0x0A w) rfl (RForm.opc_toWord _ _) (RForm.guard_toWord _ _) rfl (fun _ => ?_)
  rw [Raw.toWord, opc_0A _ (RForm.opc_toWord _ _), RForm.ofWord_toWord]

theorem and (w : RForm) : Statement (.and w) := by
  refine .word (.r 0x0B w) rfl (RForm.opc_toWord _ _) (RForm.guard_toWord _ _) rfl (fun _ => ?_)
  rw [Raw.toWord, opc_0B _ (RForm.opc_toWord _ _), RForm.ofWord_toWord]

theorem or (w : RForm) : Statement (.or w) := by
  refine .word (.r 0x0C w) rfl (RForm.opc_toWord _ _) (RForm.guard_toWord _ _) rfl (fun _ => ?_)
  rw [Raw.toWord, opc_0C _ (RForm.opc_toWord _ _), RForm.ofWord_toWord]

theorem xor (w : RForm) : Statement (.xor w) := by
  refine .word (.r 0x0D w) rfl (RForm.opc_toWord _ _) (RForm.guard_toWord _ _) rfl (fun _ => ?_)
  rw [Raw.toWord, opc_0D _ (RForm.opc_toWord _ _), RForm.ofWord_toWord]

theorem andn (w : RForm) : Statement (.andn w) := by
  refine .word (.r 0x0E w) rfl (RForm.opc_toWord _ _) (RForm.guard_toWord _ _) rfl (fun _ => ?_)
  rw [Raw.toWord, opc_0E _ (RForm.opc_toWord _ _), RForm.ofWord_toWord]

theorem shl (w : RForm) : Statement (.shl w) := by
  refine .word (.r 0x0F w) rfl (RForm.opc_toWord _ _) (RForm.guard_toWord _ _) rfl (fun _ => ?_)
  rw [Raw.toWord, opc_0F _ (RForm.opc_toWord _ _), RForm.ofWord_toWord]

theorem shr (w : RForm) : Statement (.shr w) := by
  refine .word (.r 0x10 w) rfl (RForm.opc_toWord _ _) (RForm.guard_toWord _ _) rfl (fun _ => ?_)
  rw [Raw.toWord, opc_10 _ (RForm.opc_toWord _ _), RForm.ofWord_toWord]

theorem sra (w : RForm) : Statement (.sra w) := by
  refine .word (.r 0x11 w) rfl (RForm.opc_toWord _ _) (RForm.guard_toWord _ _) rfl (fun _ => ?_)
  rw [Raw.toWord, opc_11 _ (RForm.opc_toWord _ _), RForm.ofWord_toWord]

theorem bcntPop (w : RForm) : Statement (.bcntPop w) := by
  refine .word (.r 0x12 w) rfl (RForm.opc_toWord _ _) (RForm.guard_toWord _ _) rfl (fun h => ?_)
  rw [Raw.toWord, opc_12 _ (RForm.opc_toWord _ _), RForm.ofWord_toWord]
  rw [if_pos h]

theorem bcntClz (w : RForm) : Statement (.bcntClz w) := by
  refine .word (.r 0x12 w) rfl (RForm.opc_toWord _ _) (RForm.guard_toWord _ _) rfl (fun h => ?_)
  rw [Raw.toWord, opc_12 _ (RForm.opc_toWord _ _), RForm.ofWord_toWord]
  have h0 : (w.fn == 1) = true := h
  have nbcntPop : ¬ Instr.selects (.bcntPop w) = true := show ¬ (w.fn == 0) = true by simp_all
  rw [if_neg nbcntPop]
  rw [if_pos h]

theorem bcntCtz (w : RForm) : Statement (.bcntCtz w) := by
  refine .word (.r 0x12 w) rfl (RForm.opc_toWord _ _) (RForm.guard_toWord _ _) rfl (fun h => ?_)
  rw [Raw.toWord, opc_12 _ (RForm.opc_toWord _ _), RForm.ofWord_toWord]
  have h0 : (w.fn == 2) = true := h
  have nbcntPop : ¬ Instr.selects (.bcntPop w) = true := show ¬ (w.fn == 0) = true by simp_all
  have nbcntClz : ¬ Instr.selects (.bcntClz w) = true := show ¬ (w.fn == 1) = true by simp_all
  rw [if_neg nbcntPop]
  rw [if_neg nbcntClz]
  rw [if_pos h]

theorem addi (w : IForm) : Statement (.addi w) := by
  refine .word (.i 0x13 w) rfl (IForm.opc_toWord _ _) (IForm.guard_toWord _ _) rfl (fun _ => ?_)
  rw [Raw.toWord, opc_13 _ (IForm.opc_toWord _ _), IForm.ofWord_toWord]

theorem andi (w : IForm) : Statement (.andi w) := by
  refine .word (.i 0x14 w) rfl (IForm.opc_toWord _ _) (IForm.guard_toWord _ _) rfl (fun h => ?_)
  rw [Raw.toWord, opc_14 _ (IForm.opc_toWord _ _), IForm.ofWord_toWord]
  rw [if_pos h]

theorem ori (w : IForm) : Statement (.ori w) := by
  refine .word (.i 0x14 w) rfl (IForm.opc_toWord _ _) (IForm.guard_toWord _ _) rfl (fun h => ?_)
  rw [Raw.toWord, opc_14 _ (IForm.opc_toWord _ _), IForm.ofWord_toWord]
  have h0 : (w.fn.extractLsb' 0 2 == 1) = true := h
  have nandi : ¬ Instr.selects (.andi w) = true := show ¬ (w.fn.extractLsb' 0 2 == 0) = true by simp_all
  rw [if_neg nandi]
  rw [if_pos h]

theorem xori (w : IForm) : Statement (.xori w) := by
  refine .word (.i 0x14 w) rfl (IForm.opc_toWord _ _) (IForm.guard_toWord _ _) rfl (fun h => ?_)
  rw [Raw.toWord, opc_14 _ (IForm.opc_toWord _ _), IForm.ofWord_toWord]
  have h0 : (w.fn.extractLsb' 0 2 == 2) = true := h
  have nandi : ¬ Instr.selects (.andi w) = true := show ¬ (w.fn.extractLsb' 0 2 == 0) = true by simp_all
  have nori : ¬ Instr.selects (.ori w) = true := show ¬ (w.fn.extractLsb' 0 2 == 1) = true by simp_all
  rw [if_neg nandi]
  rw [if_neg nori]
  rw [if_pos h]

theorem andni (w : IForm) : Statement (.andni w) := by
  refine .word (.i 0x14 w) rfl (IForm.opc_toWord _ _) (IForm.guard_toWord _ _) rfl (fun h => ?_)
  rw [Raw.toWord, opc_14 _ (IForm.opc_toWord _ _), IForm.ofWord_toWord]
  have h0 : (w.fn.extractLsb' 0 2 == 3) = true := h
  have nandi : ¬ Instr.selects (.andi w) = true := show ¬ (w.fn.extractLsb' 0 2 == 0) = true by simp_all
  have nori : ¬ Instr.selects (.ori w) = true := show ¬ (w.fn.extractLsb' 0 2 == 1) = true by simp_all
  have nxori : ¬ Instr.selects (.xori w) = true := show ¬ (w.fn.extractLsb' 0 2 == 2) = true by simp_all
  rw [if_neg nandi]
  rw [if_neg nori]
  rw [if_neg nxori]
  rw [if_pos h]

theorem shli (w : IForm) : Statement (.shli w) := by
  refine .word (.i 0x15 w) rfl (IForm.opc_toWord _ _) (IForm.guard_toWord _ _) rfl (fun h => ?_)
  rw [Raw.toWord, opc_15 _ (IForm.opc_toWord _ _), IForm.ofWord_toWord]
  rw [if_pos h]

theorem shri (w : IForm) : Statement (.shri w) := by
  refine .word (.i 0x15 w) rfl (IForm.opc_toWord _ _) (IForm.guard_toWord _ _) rfl (fun h => ?_)
  rw [Raw.toWord, opc_15 _ (IForm.opc_toWord _ _), IForm.ofWord_toWord]
  have h0 : (w.fn.extractLsb' 0 2 == 1) = true := h
  have nshli : ¬ Instr.selects (.shli w) = true := show ¬ (w.fn.extractLsb' 0 2 == 0) = true by simp_all
  rw [if_neg nshli]
  rw [if_pos h]

theorem srai (w : IForm) : Statement (.srai w) := by
  refine .word (.i 0x15 w) rfl (IForm.opc_toWord _ _) (IForm.guard_toWord _ _) rfl (fun h => ?_)
  rw [Raw.toWord, opc_15 _ (IForm.opc_toWord _ _), IForm.ofWord_toWord]
  have h0 : (w.fn.extractLsb' 0 2 == 2) = true := h
  have nshli : ¬ Instr.selects (.shli w) = true := show ¬ (w.fn.extractLsb' 0 2 == 0) = true by simp_all
  have nshri : ¬ Instr.selects (.shri w) = true := show ¬ (w.fn.extractLsb' 0 2 == 1) = true by simp_all
  rw [if_neg nshli]
  rw [if_neg nshri]
  rw [if_pos h]

theorem movi (w : IForm) : Statement (.movi w) := by
  refine .word (.i 0x16 w) rfl (IForm.opc_toWord _ _) (IForm.guard_toWord _ _) rfl (fun _ => ?_)
  rw [Raw.toWord, opc_16 _ (IForm.opc_toWord _ _), IForm.ofWord_toWord]

theorem movh (w : IForm) : Statement (.movh w) := by
  refine .word (.i 0x17 w) rfl (IForm.opc_toWord _ _) (IForm.guard_toWord _ _) rfl (fun _ => ?_)
  rw [Raw.toWord, opc_17 _ (IForm.opc_toWord _ _), IForm.ofWord_toWord]

theorem lea (w : RForm) : Statement (.lea w) := by
  refine .word (.r 0x18 w) rfl (RForm.opc_toWord _ _) (RForm.guard_toWord _ _) rfl (fun _ => ?_)
  rw [Raw.toWord, opc_18 _ (RForm.opc_toWord _ _), RForm.ofWord_toWord]

theorem pcrel (w : IForm) : Statement (.pcrel w) := by
  refine .word (.i 0x19 w) rfl (IForm.opc_toWord _ _) (IForm.guard_toWord _ _) rfl (fun _ => ?_)
  rw [Raw.toWord, opc_19 _ (IForm.opc_toWord _ _), IForm.ofWord_toWord]

theorem bfxZ (w : IForm) : Statement (.bfxZ w) := by
  refine .word (.i 0x2E w) rfl (IForm.opc_toWord _ _) (IForm.guard_toWord _ _) rfl (fun h => ?_)
  rw [Raw.toWord, opc_2E _ (IForm.opc_toWord _ _), IForm.ofWord_toWord]
  rw [if_pos h]

theorem bfxS (w : IForm) : Statement (.bfxS w) := by
  refine .word (.i 0x2E w) rfl (IForm.opc_toWord _ _) (IForm.guard_toWord _ _) rfl (fun h => ?_)
  rw [Raw.toWord, opc_2E _ (IForm.opc_toWord _ _), IForm.ofWord_toWord]
  have h0 : (w.fn.extractLsb' 0 2 == 1) = true := h
  have nbfxZ : ¬ Instr.selects (.bfxZ w) = true := show ¬ (w.fn.extractLsb' 0 2 == 0) = true by simp_all
  rw [if_neg nbfxZ]
  rw [if_pos h]

theorem bfxI (w : IForm) : Statement (.bfxI w) := by
  refine .word (.i 0x2E w) rfl (IForm.opc_toWord _ _) (IForm.guard_toWord _ _) rfl (fun h => ?_)
  rw [Raw.toWord, opc_2E _ (IForm.opc_toWord _ _), IForm.ofWord_toWord]
  have h0 : (w.fn.extractLsb' 0 2 == 2) = true := h
  have nbfxZ : ¬ Instr.selects (.bfxZ w) = true := show ¬ (w.fn.extractLsb' 0 2 == 0) = true by simp_all
  have nbfxS : ¬ Instr.selects (.bfxS w) = true := show ¬ (w.fn.extractLsb' 0 2 == 1) = true by simp_all
  rw [if_neg nbfxZ]
  rw [if_neg nbfxS]
  rw [if_pos h]

theorem cmp (w : RForm) : Statement (.cmp w) := by
  refine .word (.r 0x1A w) rfl (RForm.opc_toWord _ _) (RForm.guard_toWord _ _) rfl (fun h => ?_)
  rw [Raw.toWord, opc_1A _ (RForm.opc_toWord _ _), RForm.ofWord_toWord]
  rw [if_pos h]

theorem cmpi (w : IForm) : Statement (.cmpi w) := by
  refine .word (.i 0x1B w) rfl (IForm.opc_toWord _ _) (IForm.guard_toWord _ _) rfl (fun h => ?_)
  rw [Raw.toWord, opc_1B _ (IForm.opc_toWord _ _), IForm.ofWord_toWord]
  rw [if_pos h]

theorem pand (w : RForm) : Statement (.pand w) := by
  refine .word (.r 0x1C w) rfl (RForm.opc_toWord _ _) (RForm.guard_toWord _ _) rfl (fun h => ?_)
  rw [Raw.toWord, opc_1C _ (RForm.opc_toWord _ _), RForm.ofWord_toWord]
  rw [if_pos h]

theorem por (w : RForm) : Statement (.por w) := by
  refine .word (.r 0x1C w) rfl (RForm.opc_toWord _ _) (RForm.guard_toWord _ _) rfl (fun h => ?_)
  rw [Raw.toWord, opc_1C _ (RForm.opc_toWord _ _), RForm.ofWord_toWord]
  have h0 : (w.fn == 1) = true := h
  have npand : ¬ Instr.selects (.pand w) = true := show ¬ (w.fn == 0) = true by simp_all
  rw [if_neg npand]
  rw [if_pos h]

theorem pxor (w : RForm) : Statement (.pxor w) := by
  refine .word (.r 0x1C w) rfl (RForm.opc_toWord _ _) (RForm.guard_toWord _ _) rfl (fun h => ?_)
  rw [Raw.toWord, opc_1C _ (RForm.opc_toWord _ _), RForm.ofWord_toWord]
  have h0 : (w.fn == 2) = true := h
  have npand : ¬ Instr.selects (.pand w) = true := show ¬ (w.fn == 0) = true by simp_all
  have npor : ¬ Instr.selects (.por w) = true := show ¬ (w.fn == 1) = true by simp_all
  rw [if_neg npand]
  rw [if_neg npor]
  rw [if_pos h]

theorem pandn (w : RForm) : Statement (.pandn w) := by
  refine .word (.r 0x1C w) rfl (RForm.opc_toWord _ _) (RForm.guard_toWord _ _) rfl (fun h => ?_)
  rw [Raw.toWord, opc_1C _ (RForm.opc_toWord _ _), RForm.ofWord_toWord]
  have h0 : (w.fn == 3) = true := h
  have npand : ¬ Instr.selects (.pand w) = true := show ¬ (w.fn == 0) = true by simp_all
  have npor : ¬ Instr.selects (.por w) = true := show ¬ (w.fn == 1) = true by simp_all
  have npxor : ¬ Instr.selects (.pxor w) = true := show ¬ (w.fn == 2) = true by simp_all
  rw [if_neg npand]
  rw [if_neg npor]
  rw [if_neg npxor]
  rw [if_pos h]

theorem porn (w : RForm) : Statement (.porn w) := by
  refine .word (.r 0x1C w) rfl (RForm.opc_toWord _ _) (RForm.guard_toWord _ _) rfl (fun h => ?_)
  rw [Raw.toWord, opc_1C _ (RForm.opc_toWord _ _), RForm.ofWord_toWord]
  have h0 : (w.fn == 4) = true := h
  have npand : ¬ Instr.selects (.pand w) = true := show ¬ (w.fn == 0) = true by simp_all
  have npor : ¬ Instr.selects (.por w) = true := show ¬ (w.fn == 1) = true by simp_all
  have npxor : ¬ Instr.selects (.pxor w) = true := show ¬ (w.fn == 2) = true by simp_all
  have npandn : ¬ Instr.selects (.pandn w) = true := show ¬ (w.fn == 3) = true by simp_all
  rw [if_neg npand]
  rw [if_neg npor]
  rw [if_neg npxor]
  rw [if_neg npandn]
  rw [if_pos h]

theorem pmovGet (w : RForm) : Statement (.pmovGet w) := by
  refine .word (.r 0x1D w) rfl (RForm.opc_toWord _ _) (RForm.guard_toWord _ _) rfl (fun h => ?_)
  rw [Raw.toWord, opc_1D _ (RForm.opc_toWord _ _), RForm.ofWord_toWord]
  rw [if_pos h]

theorem pmovPut (w : RForm) : Statement (.pmovPut w) := by
  refine .word (.r 0x1D w) rfl (RForm.opc_toWord _ _) (RForm.guard_toWord _ _) rfl (fun h => ?_)
  rw [Raw.toWord, opc_1D _ (RForm.opc_toWord _ _), RForm.ofWord_toWord]
  have h0 : (w.fn == 1) = true := h
  have npmovGet : ¬ Instr.selects (.pmovGet w) = true := show ¬ (w.fn == 0) = true by simp_all
  rw [if_neg npmovGet]
  rw [if_pos h]

theorem sel (w : RForm) : Statement (.sel w) := by
  refine .word (.r 0x1E w) rfl (RForm.opc_toWord _ _) (RForm.guard_toWord _ _) rfl (fun _ => ?_)
  rw [Raw.toWord, opc_1E _ (RForm.opc_toWord _ _), RForm.ofWord_toWord]

theorem fadd (w : RForm) : Statement (.fadd w) := by
  refine .word (.r 0x1F w) rfl (RForm.opc_toWord _ _) (RForm.guard_toWord _ _) rfl (fun _ => ?_)
  rw [Raw.toWord, opc_1F _ (RForm.opc_toWord _ _), RForm.ofWord_toWord]

theorem fsub (w : RForm) : Statement (.fsub w) := by
  refine .word (.r 0x20 w) rfl (RForm.opc_toWord _ _) (RForm.guard_toWord _ _) rfl (fun _ => ?_)
  rw [Raw.toWord, opc_20 _ (RForm.opc_toWord _ _), RForm.ofWord_toWord]

theorem fmul (w : RForm) : Statement (.fmul w) := by
  refine .word (.r 0x21 w) rfl (RForm.opc_toWord _ _) (RForm.guard_toWord _ _) rfl (fun _ => ?_)
  rw [Raw.toWord, opc_21 _ (RForm.opc_toWord _ _), RForm.ofWord_toWord]

theorem fdiv (w : RForm) : Statement (.fdiv w) := by
  refine .word (.r 0x22 w) rfl (RForm.opc_toWord _ _) (RForm.guard_toWord _ _) rfl (fun _ => ?_)
  rw [Raw.toWord, opc_22 _ (RForm.opc_toWord _ _), RForm.ofWord_toWord]

theorem fsqrt (w : RForm) : Statement (.fsqrt w) := by
  refine .word (.r 0x23 w) rfl (RForm.opc_toWord _ _) (RForm.guard_toWord _ _) rfl (fun _ => ?_)
  rw [Raw.toWord, opc_23 _ (RForm.opc_toWord _ _), RForm.ofWord_toWord]

theorem fma (w : RForm) : Statement (.fma w) := by
  refine .word (.r 0x24 w) rfl (RForm.opc_toWord _ _) (RForm.guard_toWord _ _) rfl (fun _ => ?_)
  rw [Raw.toWord, opc_24 _ (RForm.opc_toWord _ _), RForm.ofWord_toWord]

theorem fmin (w : RForm) : Statement (.fmin w) := by
  refine .word (.r 0x25 w) rfl (RForm.opc_toWord _ _) (RForm.guard_toWord _ _) rfl (fun h => ?_)
  rw [Raw.toWord, opc_25 _ (RForm.opc_toWord _ _), RForm.ofWord_toWord]
  rw [if_pos h]

theorem fmax (w : RForm) : Statement (.fmax w) := by
  refine .word (.r 0x26 w) rfl (RForm.opc_toWord _ _) (RForm.guard_toWord _ _) rfl (fun h => ?_)
  rw [Raw.toWord, opc_26 _ (RForm.opc_toWord _ _), RForm.ofWord_toWord]
  rw [if_pos h]

theorem fsgnCpy (w : RForm) : Statement (.fsgnCpy w) := by
  refine .word (.r 0x27 w) rfl (RForm.opc_toWord _ _) (RForm.guard_toWord _ _) rfl (fun h => ?_)
  rw [Raw.toWord, opc_27 _ (RForm.opc_toWord _ _), RForm.ofWord_toWord]
  rw [if_pos h]

theorem fsgnNeg (w : RForm) : Statement (.fsgnNeg w) := by
  refine .word (.r 0x27 w) rfl (RForm.opc_toWord _ _) (RForm.guard_toWord _ _) rfl (fun h => ?_)
  rw [Raw.toWord, opc_27 _ (RForm.opc_toWord _ _), RForm.ofWord_toWord]
  have h0 : (w.fn == 1) = true := h
  have nfsgnCpy : ¬ Instr.selects (.fsgnCpy w) = true := show ¬ (w.fn == 0) = true by simp_all
  rw [if_neg nfsgnCpy]
  rw [if_pos h]

theorem fsgnXor (w : RForm) : Statement (.fsgnXor w) := by
  refine .word (.r 0x27 w) rfl (RForm.opc_toWord _ _) (RForm.guard_toWord _ _) rfl (fun h => ?_)
  rw [Raw.toWord, opc_27 _ (RForm.opc_toWord _ _), RForm.ofWord_toWord]
  have h0 : (w.fn == 2) = true := h
  have nfsgnCpy : ¬ Instr.selects (.fsgnCpy w) = true := show ¬ (w.fn == 0) = true by simp_all
  have nfsgnNeg : ¬ Instr.selects (.fsgnNeg w) = true := show ¬ (w.fn == 1) = true by simp_all
  rw [if_neg nfsgnCpy]
  rw [if_neg nfsgnNeg]
  rw [if_pos h]

theorem fclass (w : RForm) : Statement (.fclass w) := by
  refine .word (.r 0x28 w) rfl (RForm.opc_toWord _ _) (RForm.guard_toWord _ _) rfl (fun _ => ?_)
  rw [Raw.toWord, opc_28 _ (RForm.opc_toWord _ _), RForm.ofWord_toWord]

theorem cvt (w : RForm) : Statement (.cvt w) := by
  refine .word (.r 0x29 w) rfl (RForm.opc_toWord _ _) (RForm.guard_toWord _ _) rfl (fun _ => ?_)
  rw [Raw.toWord, opc_29 _ (RForm.opc_toWord _ _), RForm.ofWord_toWord]

theorem br (w : JForm) : Statement (.br w) := by
  refine .word (.j 0x2A w) rfl (JForm.opc_toWord _ _) (JForm.guard_toWord _ _) rfl (fun h => ?_)
  rw [Raw.toWord, opc_2A _ (JForm.opc_toWord _ _), JForm.ofWord_toWord]
  rw [if_pos h]

theorem call (w : JForm) : Statement (.call w) := by
  refine .word (.j 0x2A w) rfl (JForm.opc_toWord _ _) (JForm.guard_toWord _ _) rfl (fun h => ?_)
  rw [Raw.toWord, opc_2A _ (JForm.opc_toWord _ _), JForm.ofWord_toWord]
  have h0 : (w.d != 0) = true := h
  have nbr : ¬ Instr.selects (.br w) = true := show ¬ (w.d == 0) = true by simp_all
  rw [if_neg nbr]
  rw [if_pos h]

theorem jmp (w : RForm) : Statement (.jmp w) := by
  refine .word (.r 0x2B w) rfl (RForm.opc_toWord _ _) (RForm.guard_toWord _ _) rfl (fun _ => ?_)
  rw [Raw.toWord, opc_2B _ (RForm.opc_toWord _ _), RForm.ofWord_toWord]

theorem bcz (w : IForm) : Statement (.bcz w) := by
  refine .word (.i 0x2C w) rfl (IForm.opc_toWord _ _) (IForm.guard_toWord _ _) rfl (fun h => ?_)
  rw [Raw.toWord, opc_2C _ (IForm.opc_toWord _ _), IForm.ofWord_toWord]
  rw [if_pos h]

theorem loop (w : IForm) : Statement (.loop w) := by
  refine .word (.i 0x2D w) rfl (IForm.opc_toWord _ _) (IForm.guard_toWord _ _) rfl (fun _ => ?_)
  rw [Raw.toWord, opc_2D _ (IForm.opc_toWord _ _), IForm.ofWord_toWord]

theorem ld (w : MForm) : Statement (.ld w) := by
  refine .word (.m 0xB0 w) rfl (MForm.opc_toWord _ _) (MForm.guard_toWord _ _) rfl (fun _ => ?_)
  rw [Raw.toWord, opc_B0 _ (MForm.opc_toWord _ _), MForm.ofWord_toWord]

theorem st (w : MForm) : Statement (.st w) := by
  refine .word (.m 0xB1 w) rfl (MForm.opc_toWord _ _) (MForm.guard_toWord _ _) rfl (fun _ => ?_)
  rw [Raw.toWord, opc_B1 _ (MForm.opc_toWord _ _), MForm.ofWord_toWord]

theorem rdsys (w : IForm) : Statement (.rdsys w) := by
  refine .word (.i 0xE0 w) rfl (IForm.opc_toWord _ _) (IForm.guard_toWord _ _) rfl (fun _ => ?_)
  rw [Raw.toWord, opc_E0 _ (IForm.opc_toWord _ _), IForm.ofWord_toWord]

theorem wrsys (w : IForm) : Statement (.wrsys w) := by
  refine .word (.i 0xE3 w) rfl (IForm.opc_toWord _ _) (IForm.guard_toWord _ _) rfl (fun _ => ?_)
  rw [Raw.toWord, opc_E3 _ (IForm.opc_toWord _ _), IForm.ofWord_toWord]

theorem xchsys (w : IForm) : Statement (.xchsys w) := by
  refine .word (.i 0xE7 w) rfl (IForm.opc_toWord _ _) (IForm.guard_toWord _ _) rfl (fun _ => ?_)
  rw [Raw.toWord, opc_E7 _ (IForm.opc_toWord _ _), IForm.ofWord_toWord]

theorem trapSw (w : IForm) : Statement (.trapSw w) := by
  refine .word (.i 0xE1 w) rfl (IForm.opc_toWord _ _) (IForm.guard_toWord _ _) rfl (fun h => ?_)
  rw [Raw.toWord, opc_E1 _ (IForm.opc_toWord _ _), IForm.ofWord_toWord]
  rw [if_pos h]

theorem trapCall (w : IForm) : Statement (.trapCall w) := by
  refine .word (.i 0xE1 w) rfl (IForm.opc_toWord _ _) (IForm.guard_toWord _ _) rfl (fun h => ?_)
  rw [Raw.toWord, opc_E1 _ (IForm.opc_toWord _ _), IForm.ofWord_toWord]
  have h0 : (w.fn == 1) = true := h
  have ntrapSw : ¬ Instr.selects (.trapSw w) = true := show ¬ (w.fn == 0) = true by simp_all
  rw [if_neg ntrapSw]
  rw [if_pos h]

theorem brk (w : IForm) : Statement (.brk w) := by
  refine .word (.i 0xE2 w) rfl (IForm.opc_toWord _ _) (IForm.guard_toWord _ _) rfl (fun _ => ?_)
  rw [Raw.toWord, opc_E2 _ (IForm.opc_toWord _ _), IForm.ofWord_toWord]

theorem tret (w : IForm) : Statement (.tret w) := by
  refine .word (.i 0xE4 w) rfl (IForm.opc_toWord _ _) (IForm.guard_toWord _ _) rfl (fun _ => ?_)
  rw [Raw.toWord, opc_E4 _ (IForm.opc_toWord _ _), IForm.ofWord_toWord]

theorem halt (w : IForm) : Statement (.halt w) := by
  refine .word (.i 0xE5 w) rfl (IForm.opc_toWord _ _) (IForm.guard_toWord _ _) rfl (fun _ => ?_)
  rw [Raw.toWord, opc_E5 _ (IForm.opc_toWord _ _), IForm.ofWord_toWord]

theorem idle (w : IForm) : Statement (.idle w) := by
  refine .word (.i 0xE6 w) rfl (IForm.opc_toWord _ _) (IForm.guard_toWord _ _) rfl (fun _ => ?_)
  rw [Raw.toWord, opc_E6 _ (IForm.opc_toWord _ _), IForm.ofWord_toWord]

theorem work (w : IForm) : Statement (.work w) := by
  refine .word (.i 0xE8 w) rfl (IForm.opc_toWord _ _) (IForm.guard_toWord _ _) rfl (fun _ => ?_)
  rw [Raw.toWord, opc_E8 _ (IForm.opc_toWord _ _), IForm.ofWord_toWord]

theorem vadd (w : RForm) : Statement (.vadd w) := by
  refine .word (.r 0x40 w) rfl (RForm.opc_toWord _ _) (RForm.guard_toWord _ _) rfl (fun h => ?_)
  rw [Raw.toWord, opc_40 _ (RForm.opc_toWord _ _), RForm.ofWord_toWord]
  rw [if_pos h]

theorem vsub (w : RForm) : Statement (.vsub w) := by
  refine .word (.r 0x41 w) rfl (RForm.opc_toWord _ _) (RForm.guard_toWord _ _) rfl (fun h => ?_)
  rw [Raw.toWord, opc_41 _ (RForm.opc_toWord _ _), RForm.ofWord_toWord]
  rw [if_pos h]

theorem vmul (w : RForm) : Statement (.vmul w) := by
  refine .word (.r 0x42 w) rfl (RForm.opc_toWord _ _) (RForm.guard_toWord _ _) rfl (fun h => ?_)
  rw [Raw.toWord, opc_42 _ (RForm.opc_toWord _ _), RForm.ofWord_toWord]
  rw [if_pos h]

theorem vmulh (w : RForm) : Statement (.vmulh w) := by
  refine .word (.r 0x43 w) rfl (RForm.opc_toWord _ _) (RForm.guard_toWord _ _) rfl (fun h => ?_)
  rw [Raw.toWord, opc_43 _ (RForm.opc_toWord _ _), RForm.ofWord_toWord]
  rw [if_pos h]

theorem vfma (w : RForm) : Statement (.vfma w) := by
  refine .word (.r 0x44 w) rfl (RForm.opc_toWord _ _) (RForm.guard_toWord _ _) rfl (fun h => ?_)
  rw [Raw.toWord, opc_44 _ (RForm.opc_toWord _ _), RForm.ofWord_toWord]
  rw [if_pos h]

theorem vfms (w : RForm) : Statement (.vfms w) := by
  refine .word (.r 0x44 w) rfl (RForm.opc_toWord _ _) (RForm.guard_toWord _ _) rfl (fun h => ?_)
  rw [Raw.toWord, opc_44 _ (RForm.opc_toWord _ _), RForm.ofWord_toWord]
  have h0 : (w.fn.extractLsb' 0 4 == 1) = true := h
  have nvfma : ¬ Instr.selects (.vfma w) = true := show ¬ (w.fn.extractLsb' 0 4 == 0) = true by simp_all
  rw [if_neg nvfma]
  rw [if_pos h]

theorem vfnma (w : RForm) : Statement (.vfnma w) := by
  refine .word (.r 0x44 w) rfl (RForm.opc_toWord _ _) (RForm.guard_toWord _ _) rfl (fun h => ?_)
  rw [Raw.toWord, opc_44 _ (RForm.opc_toWord _ _), RForm.ofWord_toWord]
  have h0 : (w.fn.extractLsb' 0 4 == 2) = true := h
  have nvfma : ¬ Instr.selects (.vfma w) = true := show ¬ (w.fn.extractLsb' 0 4 == 0) = true by simp_all
  have nvfms : ¬ Instr.selects (.vfms w) = true := show ¬ (w.fn.extractLsb' 0 4 == 1) = true by simp_all
  rw [if_neg nvfma]
  rw [if_neg nvfms]
  rw [if_pos h]

theorem vfnms (w : RForm) : Statement (.vfnms w) := by
  refine .word (.r 0x44 w) rfl (RForm.opc_toWord _ _) (RForm.guard_toWord _ _) rfl (fun h => ?_)
  rw [Raw.toWord, opc_44 _ (RForm.opc_toWord _ _), RForm.ofWord_toWord]
  have h0 : (w.fn.extractLsb' 0 4 == 3) = true := h
  have nvfma : ¬ Instr.selects (.vfma w) = true := show ¬ (w.fn.extractLsb' 0 4 == 0) = true by simp_all
  have nvfms : ¬ Instr.selects (.vfms w) = true := show ¬ (w.fn.extractLsb' 0 4 == 1) = true by simp_all
  have nvfnma : ¬ Instr.selects (.vfnma w) = true := show ¬ (w.fn.extractLsb' 0 4 == 2) = true by simp_all
  rw [if_neg nvfma]
  rw [if_neg nvfms]
  rw [if_neg nvfnma]
  rw [if_pos h]

theorem vmin (w : RForm) : Statement (.vmin w) := by
  refine .word (.r 0x45 w) rfl (RForm.opc_toWord _ _) (RForm.guard_toWord _ _) rfl (fun h => ?_)
  rw [Raw.toWord, opc_45 _ (RForm.opc_toWord _ _), RForm.ofWord_toWord]
  rw [if_pos h]

theorem vmax (w : RForm) : Statement (.vmax w) := by
  refine .word (.r 0x46 w) rfl (RForm.opc_toWord _ _) (RForm.guard_toWord _ _) rfl (fun h => ?_)
  rw [Raw.toWord, opc_46 _ (RForm.opc_toWord _ _), RForm.ofWord_toWord]
  rw [if_pos h]

theorem vabs (w : RForm) : Statement (.vabs w) := by
  refine .word (.r 0x47 w) rfl (RForm.opc_toWord _ _) (RForm.guard_toWord _ _) rfl (fun h => ?_)
  rw [Raw.toWord, opc_47 _ (RForm.opc_toWord _ _), RForm.ofWord_toWord]
  rw [if_pos h]

theorem vneg (w : RForm) : Statement (.vneg w) := by
  refine .word (.r 0x47 w) rfl (RForm.opc_toWord _ _) (RForm.guard_toWord _ _) rfl (fun h => ?_)
  rw [Raw.toWord, opc_47 _ (RForm.opc_toWord _ _), RForm.ofWord_toWord]
  have h0 : (w.fn.extractLsb' 0 4 == 1) = true := h
  have nvabs : ¬ Instr.selects (.vabs w) = true := show ¬ (w.fn.extractLsb' 0 4 == 0) = true by simp_all
  rw [if_neg nvabs]
  rw [if_pos h]

theorem vclamp (w : RForm) : Statement (.vclamp w) := by
  refine .word (.r 0x5D w) rfl (RForm.opc_toWord _ _) (RForm.guard_toWord _ _) rfl (fun h => ?_)
  rw [Raw.toWord, opc_5D _ (RForm.opc_toWord _ _), RForm.ofWord_toWord]
  rw [if_pos h]

theorem vsgnCpy (w : RForm) : Statement (.vsgnCpy w) := by
  refine .word (.r 0x5E w) rfl (RForm.opc_toWord _ _) (RForm.guard_toWord _ _) rfl (fun h => ?_)
  rw [Raw.toWord, opc_5E _ (RForm.opc_toWord _ _), RForm.ofWord_toWord]
  rw [if_pos h]

theorem vsgnNeg (w : RForm) : Statement (.vsgnNeg w) := by
  refine .word (.r 0x5E w) rfl (RForm.opc_toWord _ _) (RForm.guard_toWord _ _) rfl (fun h => ?_)
  rw [Raw.toWord, opc_5E _ (RForm.opc_toWord _ _), RForm.ofWord_toWord]
  have h0 : (w.fn.extractLsb' 0 4 == 1) = true := h
  have nvsgnCpy : ¬ Instr.selects (.vsgnCpy w) = true := show ¬ (w.fn.extractLsb' 0 4 == 0) = true by simp_all
  rw [if_neg nvsgnCpy]
  rw [if_pos h]

theorem vsgnXor (w : RForm) : Statement (.vsgnXor w) := by
  refine .word (.r 0x5E w) rfl (RForm.opc_toWord _ _) (RForm.guard_toWord _ _) rfl (fun h => ?_)
  rw [Raw.toWord, opc_5E _ (RForm.opc_toWord _ _), RForm.ofWord_toWord]
  have h0 : (w.fn.extractLsb' 0 4 == 2) = true := h
  have nvsgnCpy : ¬ Instr.selects (.vsgnCpy w) = true := show ¬ (w.fn.extractLsb' 0 4 == 0) = true by simp_all
  have nvsgnNeg : ¬ Instr.selects (.vsgnNeg w) = true := show ¬ (w.fn.extractLsb' 0 4 == 1) = true by simp_all
  rw [if_neg nvsgnCpy]
  rw [if_neg nvsgnNeg]
  rw [if_pos h]

theorem vrint (w : RForm) : Statement (.vrint w) := by
  refine .word (.r 0x61 w) rfl (RForm.opc_toWord _ _) (RForm.guard_toWord _ _) rfl (fun h => ?_)
  rw [Raw.toWord, opc_61 _ (RForm.opc_toWord _ _), RForm.ofWord_toWord]
  rw [if_pos h]

theorem vrintX (w : RForm) : Statement (.vrintX w) := by
  refine .word (.r 0x61 w) rfl (RForm.opc_toWord _ _) (RForm.guard_toWord _ _) rfl (fun h => ?_)
  rw [Raw.toWord, opc_61 _ (RForm.opc_toWord _ _), RForm.ofWord_toWord]
  have h0 : (w.fn.extractLsb' 0 4 == 1) = true := h
  have nvrint : ¬ Instr.selects (.vrint w) = true := show ¬ (w.fn.extractLsb' 0 4 == 0) = true by simp_all
  rw [if_neg nvrint]
  rw [if_pos h]

theorem vscale (w : RForm) : Statement (.vscale w) := by
  refine .word (.r 0x62 w) rfl (RForm.opc_toWord _ _) (RForm.guard_toWord _ _) rfl (fun h => ?_)
  rw [Raw.toWord, opc_62 _ (RForm.opc_toWord _ _), RForm.ofWord_toWord]
  rw [if_pos h]

theorem vfnDiv (w : RForm) : Statement (.vfnDiv w) := by
  refine .word (.r 0x48 w) rfl (RForm.opc_toWord _ _) (RForm.guard_toWord _ _) rfl (fun h => ?_)
  rw [Raw.toWord, opc_48 _ (RForm.opc_toWord _ _), RForm.ofWord_toWord]
  rw [if_pos h]

theorem vfnSqrt (w : RForm) : Statement (.vfnSqrt w) := by
  refine .word (.r 0x48 w) rfl (RForm.opc_toWord _ _) (RForm.guard_toWord _ _) rfl (fun h => ?_)
  rw [Raw.toWord, opc_48 _ (RForm.opc_toWord _ _), RForm.ofWord_toWord]
  have h0 : (w.fn.extractLsb' 0 4 == 1) = true := h
  have nvfnDiv : ¬ Instr.selects (.vfnDiv w) = true := show ¬ (w.fn.extractLsb' 0 4 == 0) = true by simp_all
  rw [if_neg nvfnDiv]
  rw [if_pos h]

theorem vfnRsqrt (w : RForm) : Statement (.vfnRsqrt w) := by
  refine .word (.r 0x48 w) rfl (RForm.opc_toWord _ _) (RForm.guard_toWord _ _) rfl (fun h => ?_)
  rw [Raw.toWord, opc_48 _ (RForm.opc_toWord _ _), RForm.ofWord_toWord]
  have h0 : (w.fn.extractLsb' 0 4 == 2) = true := h
  have nvfnDiv : ¬ Instr.selects (.vfnDiv w) = true := show ¬ (w.fn.extractLsb' 0 4 == 0) = true by simp_all
  have nvfnSqrt : ¬ Instr.selects (.vfnSqrt w) = true := show ¬ (w.fn.extractLsb' 0 4 == 1) = true by simp_all
  rw [if_neg nvfnDiv]
  rw [if_neg nvfnSqrt]
  rw [if_pos h]

theorem vfnRecip (w : RForm) : Statement (.vfnRecip w) := by
  refine .word (.r 0x48 w) rfl (RForm.opc_toWord _ _) (RForm.guard_toWord _ _) rfl (fun h => ?_)
  rw [Raw.toWord, opc_48 _ (RForm.opc_toWord _ _), RForm.ofWord_toWord]
  have h0 : (w.fn.extractLsb' 0 4 == 3) = true := h
  have nvfnDiv : ¬ Instr.selects (.vfnDiv w) = true := show ¬ (w.fn.extractLsb' 0 4 == 0) = true by simp_all
  have nvfnSqrt : ¬ Instr.selects (.vfnSqrt w) = true := show ¬ (w.fn.extractLsb' 0 4 == 1) = true by simp_all
  have nvfnRsqrt : ¬ Instr.selects (.vfnRsqrt w) = true := show ¬ (w.fn.extractLsb' 0 4 == 2) = true by simp_all
  rw [if_neg nvfnDiv]
  rw [if_neg nvfnSqrt]
  rw [if_neg nvfnRsqrt]
  rw [if_pos h]

theorem vfnExp (w : RForm) : Statement (.vfnExp w) := by
  refine .word (.r 0x48 w) rfl (RForm.opc_toWord _ _) (RForm.guard_toWord _ _) rfl (fun h => ?_)
  rw [Raw.toWord, opc_48 _ (RForm.opc_toWord _ _), RForm.ofWord_toWord]
  have h0 : (w.fn.extractLsb' 0 4 == 4) = true := h
  have nvfnDiv : ¬ Instr.selects (.vfnDiv w) = true := show ¬ (w.fn.extractLsb' 0 4 == 0) = true by simp_all
  have nvfnSqrt : ¬ Instr.selects (.vfnSqrt w) = true := show ¬ (w.fn.extractLsb' 0 4 == 1) = true by simp_all
  have nvfnRsqrt : ¬ Instr.selects (.vfnRsqrt w) = true := show ¬ (w.fn.extractLsb' 0 4 == 2) = true by simp_all
  have nvfnRecip : ¬ Instr.selects (.vfnRecip w) = true := show ¬ (w.fn.extractLsb' 0 4 == 3) = true by simp_all
  rw [if_neg nvfnDiv]
  rw [if_neg nvfnSqrt]
  rw [if_neg nvfnRsqrt]
  rw [if_neg nvfnRecip]
  rw [if_pos h]

theorem vfnExp2 (w : RForm) : Statement (.vfnExp2 w) := by
  refine .word (.r 0x48 w) rfl (RForm.opc_toWord _ _) (RForm.guard_toWord _ _) rfl (fun h => ?_)
  rw [Raw.toWord, opc_48 _ (RForm.opc_toWord _ _), RForm.ofWord_toWord]
  have h0 : (w.fn.extractLsb' 0 4 == 5) = true := h
  have nvfnDiv : ¬ Instr.selects (.vfnDiv w) = true := show ¬ (w.fn.extractLsb' 0 4 == 0) = true by simp_all
  have nvfnSqrt : ¬ Instr.selects (.vfnSqrt w) = true := show ¬ (w.fn.extractLsb' 0 4 == 1) = true by simp_all
  have nvfnRsqrt : ¬ Instr.selects (.vfnRsqrt w) = true := show ¬ (w.fn.extractLsb' 0 4 == 2) = true by simp_all
  have nvfnRecip : ¬ Instr.selects (.vfnRecip w) = true := show ¬ (w.fn.extractLsb' 0 4 == 3) = true by simp_all
  have nvfnExp : ¬ Instr.selects (.vfnExp w) = true := show ¬ (w.fn.extractLsb' 0 4 == 4) = true by simp_all
  rw [if_neg nvfnDiv]
  rw [if_neg nvfnSqrt]
  rw [if_neg nvfnRsqrt]
  rw [if_neg nvfnRecip]
  rw [if_neg nvfnExp]
  rw [if_pos h]

theorem vfnLog (w : RForm) : Statement (.vfnLog w) := by
  refine .word (.r 0x48 w) rfl (RForm.opc_toWord _ _) (RForm.guard_toWord _ _) rfl (fun h => ?_)
  rw [Raw.toWord, opc_48 _ (RForm.opc_toWord _ _), RForm.ofWord_toWord]
  have h0 : (w.fn.extractLsb' 0 4 == 6) = true := h
  have nvfnDiv : ¬ Instr.selects (.vfnDiv w) = true := show ¬ (w.fn.extractLsb' 0 4 == 0) = true by simp_all
  have nvfnSqrt : ¬ Instr.selects (.vfnSqrt w) = true := show ¬ (w.fn.extractLsb' 0 4 == 1) = true by simp_all
  have nvfnRsqrt : ¬ Instr.selects (.vfnRsqrt w) = true := show ¬ (w.fn.extractLsb' 0 4 == 2) = true by simp_all
  have nvfnRecip : ¬ Instr.selects (.vfnRecip w) = true := show ¬ (w.fn.extractLsb' 0 4 == 3) = true by simp_all
  have nvfnExp : ¬ Instr.selects (.vfnExp w) = true := show ¬ (w.fn.extractLsb' 0 4 == 4) = true by simp_all
  have nvfnExp2 : ¬ Instr.selects (.vfnExp2 w) = true := show ¬ (w.fn.extractLsb' 0 4 == 5) = true by simp_all
  rw [if_neg nvfnDiv]
  rw [if_neg nvfnSqrt]
  rw [if_neg nvfnRsqrt]
  rw [if_neg nvfnRecip]
  rw [if_neg nvfnExp]
  rw [if_neg nvfnExp2]
  rw [if_pos h]

theorem vfnLog2 (w : RForm) : Statement (.vfnLog2 w) := by
  refine .word (.r 0x48 w) rfl (RForm.opc_toWord _ _) (RForm.guard_toWord _ _) rfl (fun h => ?_)
  rw [Raw.toWord, opc_48 _ (RForm.opc_toWord _ _), RForm.ofWord_toWord]
  have h0 : (w.fn.extractLsb' 0 4 == 7) = true := h
  have nvfnDiv : ¬ Instr.selects (.vfnDiv w) = true := show ¬ (w.fn.extractLsb' 0 4 == 0) = true by simp_all
  have nvfnSqrt : ¬ Instr.selects (.vfnSqrt w) = true := show ¬ (w.fn.extractLsb' 0 4 == 1) = true by simp_all
  have nvfnRsqrt : ¬ Instr.selects (.vfnRsqrt w) = true := show ¬ (w.fn.extractLsb' 0 4 == 2) = true by simp_all
  have nvfnRecip : ¬ Instr.selects (.vfnRecip w) = true := show ¬ (w.fn.extractLsb' 0 4 == 3) = true by simp_all
  have nvfnExp : ¬ Instr.selects (.vfnExp w) = true := show ¬ (w.fn.extractLsb' 0 4 == 4) = true by simp_all
  have nvfnExp2 : ¬ Instr.selects (.vfnExp2 w) = true := show ¬ (w.fn.extractLsb' 0 4 == 5) = true by simp_all
  have nvfnLog : ¬ Instr.selects (.vfnLog w) = true := show ¬ (w.fn.extractLsb' 0 4 == 6) = true by simp_all
  rw [if_neg nvfnDiv]
  rw [if_neg nvfnSqrt]
  rw [if_neg nvfnRsqrt]
  rw [if_neg nvfnRecip]
  rw [if_neg nvfnExp]
  rw [if_neg nvfnExp2]
  rw [if_neg nvfnLog]
  rw [if_pos h]

theorem vfnTanh (w : RForm) : Statement (.vfnTanh w) := by
  refine .word (.r 0x48 w) rfl (RForm.opc_toWord _ _) (RForm.guard_toWord _ _) rfl (fun h => ?_)
  rw [Raw.toWord, opc_48 _ (RForm.opc_toWord _ _), RForm.ofWord_toWord]
  have h0 : (w.fn.extractLsb' 0 4 == 8) = true := h
  have nvfnDiv : ¬ Instr.selects (.vfnDiv w) = true := show ¬ (w.fn.extractLsb' 0 4 == 0) = true by simp_all
  have nvfnSqrt : ¬ Instr.selects (.vfnSqrt w) = true := show ¬ (w.fn.extractLsb' 0 4 == 1) = true by simp_all
  have nvfnRsqrt : ¬ Instr.selects (.vfnRsqrt w) = true := show ¬ (w.fn.extractLsb' 0 4 == 2) = true by simp_all
  have nvfnRecip : ¬ Instr.selects (.vfnRecip w) = true := show ¬ (w.fn.extractLsb' 0 4 == 3) = true by simp_all
  have nvfnExp : ¬ Instr.selects (.vfnExp w) = true := show ¬ (w.fn.extractLsb' 0 4 == 4) = true by simp_all
  have nvfnExp2 : ¬ Instr.selects (.vfnExp2 w) = true := show ¬ (w.fn.extractLsb' 0 4 == 5) = true by simp_all
  have nvfnLog : ¬ Instr.selects (.vfnLog w) = true := show ¬ (w.fn.extractLsb' 0 4 == 6) = true by simp_all
  have nvfnLog2 : ¬ Instr.selects (.vfnLog2 w) = true := show ¬ (w.fn.extractLsb' 0 4 == 7) = true by simp_all
  rw [if_neg nvfnDiv]
  rw [if_neg nvfnSqrt]
  rw [if_neg nvfnRsqrt]
  rw [if_neg nvfnRecip]
  rw [if_neg nvfnExp]
  rw [if_neg nvfnExp2]
  rw [if_neg nvfnLog]
  rw [if_neg nvfnLog2]
  rw [if_pos h]

theorem vfnLogistic (w : RForm) : Statement (.vfnLogistic w) := by
  refine .word (.r 0x48 w) rfl (RForm.opc_toWord _ _) (RForm.guard_toWord _ _) rfl (fun h => ?_)
  rw [Raw.toWord, opc_48 _ (RForm.opc_toWord _ _), RForm.ofWord_toWord]
  have h0 : (w.fn.extractLsb' 0 4 == 9) = true := h
  have nvfnDiv : ¬ Instr.selects (.vfnDiv w) = true := show ¬ (w.fn.extractLsb' 0 4 == 0) = true by simp_all
  have nvfnSqrt : ¬ Instr.selects (.vfnSqrt w) = true := show ¬ (w.fn.extractLsb' 0 4 == 1) = true by simp_all
  have nvfnRsqrt : ¬ Instr.selects (.vfnRsqrt w) = true := show ¬ (w.fn.extractLsb' 0 4 == 2) = true by simp_all
  have nvfnRecip : ¬ Instr.selects (.vfnRecip w) = true := show ¬ (w.fn.extractLsb' 0 4 == 3) = true by simp_all
  have nvfnExp : ¬ Instr.selects (.vfnExp w) = true := show ¬ (w.fn.extractLsb' 0 4 == 4) = true by simp_all
  have nvfnExp2 : ¬ Instr.selects (.vfnExp2 w) = true := show ¬ (w.fn.extractLsb' 0 4 == 5) = true by simp_all
  have nvfnLog : ¬ Instr.selects (.vfnLog w) = true := show ¬ (w.fn.extractLsb' 0 4 == 6) = true by simp_all
  have nvfnLog2 : ¬ Instr.selects (.vfnLog2 w) = true := show ¬ (w.fn.extractLsb' 0 4 == 7) = true by simp_all
  have nvfnTanh : ¬ Instr.selects (.vfnTanh w) = true := show ¬ (w.fn.extractLsb' 0 4 == 8) = true by simp_all
  rw [if_neg nvfnDiv]
  rw [if_neg nvfnSqrt]
  rw [if_neg nvfnRsqrt]
  rw [if_neg nvfnRecip]
  rw [if_neg nvfnExp]
  rw [if_neg nvfnExp2]
  rw [if_neg nvfnLog]
  rw [if_neg nvfnLog2]
  rw [if_neg nvfnTanh]
  rw [if_pos h]

theorem vfnSinpi (w : RForm) : Statement (.vfnSinpi w) := by
  refine .word (.r 0x48 w) rfl (RForm.opc_toWord _ _) (RForm.guard_toWord _ _) rfl (fun h => ?_)
  rw [Raw.toWord, opc_48 _ (RForm.opc_toWord _ _), RForm.ofWord_toWord]
  have h0 : (w.fn.extractLsb' 0 4 == 10) = true := h
  have nvfnDiv : ¬ Instr.selects (.vfnDiv w) = true := show ¬ (w.fn.extractLsb' 0 4 == 0) = true by simp_all
  have nvfnSqrt : ¬ Instr.selects (.vfnSqrt w) = true := show ¬ (w.fn.extractLsb' 0 4 == 1) = true by simp_all
  have nvfnRsqrt : ¬ Instr.selects (.vfnRsqrt w) = true := show ¬ (w.fn.extractLsb' 0 4 == 2) = true by simp_all
  have nvfnRecip : ¬ Instr.selects (.vfnRecip w) = true := show ¬ (w.fn.extractLsb' 0 4 == 3) = true by simp_all
  have nvfnExp : ¬ Instr.selects (.vfnExp w) = true := show ¬ (w.fn.extractLsb' 0 4 == 4) = true by simp_all
  have nvfnExp2 : ¬ Instr.selects (.vfnExp2 w) = true := show ¬ (w.fn.extractLsb' 0 4 == 5) = true by simp_all
  have nvfnLog : ¬ Instr.selects (.vfnLog w) = true := show ¬ (w.fn.extractLsb' 0 4 == 6) = true by simp_all
  have nvfnLog2 : ¬ Instr.selects (.vfnLog2 w) = true := show ¬ (w.fn.extractLsb' 0 4 == 7) = true by simp_all
  have nvfnTanh : ¬ Instr.selects (.vfnTanh w) = true := show ¬ (w.fn.extractLsb' 0 4 == 8) = true by simp_all
  have nvfnLogistic : ¬ Instr.selects (.vfnLogistic w) = true := show ¬ (w.fn.extractLsb' 0 4 == 9) = true by simp_all
  rw [if_neg nvfnDiv]
  rw [if_neg nvfnSqrt]
  rw [if_neg nvfnRsqrt]
  rw [if_neg nvfnRecip]
  rw [if_neg nvfnExp]
  rw [if_neg nvfnExp2]
  rw [if_neg nvfnLog]
  rw [if_neg nvfnLog2]
  rw [if_neg nvfnTanh]
  rw [if_neg nvfnLogistic]
  rw [if_pos h]

theorem vfnCospi (w : RForm) : Statement (.vfnCospi w) := by
  refine .word (.r 0x48 w) rfl (RForm.opc_toWord _ _) (RForm.guard_toWord _ _) rfl (fun h => ?_)
  rw [Raw.toWord, opc_48 _ (RForm.opc_toWord _ _), RForm.ofWord_toWord]
  have h0 : (w.fn.extractLsb' 0 4 == 11) = true := h
  have nvfnDiv : ¬ Instr.selects (.vfnDiv w) = true := show ¬ (w.fn.extractLsb' 0 4 == 0) = true by simp_all
  have nvfnSqrt : ¬ Instr.selects (.vfnSqrt w) = true := show ¬ (w.fn.extractLsb' 0 4 == 1) = true by simp_all
  have nvfnRsqrt : ¬ Instr.selects (.vfnRsqrt w) = true := show ¬ (w.fn.extractLsb' 0 4 == 2) = true by simp_all
  have nvfnRecip : ¬ Instr.selects (.vfnRecip w) = true := show ¬ (w.fn.extractLsb' 0 4 == 3) = true by simp_all
  have nvfnExp : ¬ Instr.selects (.vfnExp w) = true := show ¬ (w.fn.extractLsb' 0 4 == 4) = true by simp_all
  have nvfnExp2 : ¬ Instr.selects (.vfnExp2 w) = true := show ¬ (w.fn.extractLsb' 0 4 == 5) = true by simp_all
  have nvfnLog : ¬ Instr.selects (.vfnLog w) = true := show ¬ (w.fn.extractLsb' 0 4 == 6) = true by simp_all
  have nvfnLog2 : ¬ Instr.selects (.vfnLog2 w) = true := show ¬ (w.fn.extractLsb' 0 4 == 7) = true by simp_all
  have nvfnTanh : ¬ Instr.selects (.vfnTanh w) = true := show ¬ (w.fn.extractLsb' 0 4 == 8) = true by simp_all
  have nvfnLogistic : ¬ Instr.selects (.vfnLogistic w) = true := show ¬ (w.fn.extractLsb' 0 4 == 9) = true by simp_all
  have nvfnSinpi : ¬ Instr.selects (.vfnSinpi w) = true := show ¬ (w.fn.extractLsb' 0 4 == 10) = true by simp_all
  rw [if_neg nvfnDiv]
  rw [if_neg nvfnSqrt]
  rw [if_neg nvfnRsqrt]
  rw [if_neg nvfnRecip]
  rw [if_neg nvfnExp]
  rw [if_neg nvfnExp2]
  rw [if_neg nvfnLog]
  rw [if_neg nvfnLog2]
  rw [if_neg nvfnTanh]
  rw [if_neg nvfnLogistic]
  rw [if_neg nvfnSinpi]
  rw [if_pos h]

theorem vlogAnd (w : RForm) : Statement (.vlogAnd w) := by
  refine .word (.r 0x49 w) rfl (RForm.opc_toWord _ _) (RForm.guard_toWord _ _) rfl (fun h => ?_)
  rw [Raw.toWord, opc_49 _ (RForm.opc_toWord _ _), RForm.ofWord_toWord]
  rw [if_pos h]

theorem vlogOr (w : RForm) : Statement (.vlogOr w) := by
  refine .word (.r 0x49 w) rfl (RForm.opc_toWord _ _) (RForm.guard_toWord _ _) rfl (fun h => ?_)
  rw [Raw.toWord, opc_49 _ (RForm.opc_toWord _ _), RForm.ofWord_toWord]
  have h0 : (w.fn.extractLsb' 0 4 == 1) = true := h
  have nvlogAnd : ¬ Instr.selects (.vlogAnd w) = true := show ¬ (w.fn.extractLsb' 0 4 == 0) = true by simp_all
  rw [if_neg nvlogAnd]
  rw [if_pos h]

theorem vlogXor (w : RForm) : Statement (.vlogXor w) := by
  refine .word (.r 0x49 w) rfl (RForm.opc_toWord _ _) (RForm.guard_toWord _ _) rfl (fun h => ?_)
  rw [Raw.toWord, opc_49 _ (RForm.opc_toWord _ _), RForm.ofWord_toWord]
  have h0 : (w.fn.extractLsb' 0 4 == 2) = true := h
  have nvlogAnd : ¬ Instr.selects (.vlogAnd w) = true := show ¬ (w.fn.extractLsb' 0 4 == 0) = true by simp_all
  have nvlogOr : ¬ Instr.selects (.vlogOr w) = true := show ¬ (w.fn.extractLsb' 0 4 == 1) = true by simp_all
  rw [if_neg nvlogAnd]
  rw [if_neg nvlogOr]
  rw [if_pos h]

theorem vlogAndn (w : RForm) : Statement (.vlogAndn w) := by
  refine .word (.r 0x49 w) rfl (RForm.opc_toWord _ _) (RForm.guard_toWord _ _) rfl (fun h => ?_)
  rw [Raw.toWord, opc_49 _ (RForm.opc_toWord _ _), RForm.ofWord_toWord]
  have h0 : (w.fn.extractLsb' 0 4 == 3) = true := h
  have nvlogAnd : ¬ Instr.selects (.vlogAnd w) = true := show ¬ (w.fn.extractLsb' 0 4 == 0) = true by simp_all
  have nvlogOr : ¬ Instr.selects (.vlogOr w) = true := show ¬ (w.fn.extractLsb' 0 4 == 1) = true by simp_all
  have nvlogXor : ¬ Instr.selects (.vlogXor w) = true := show ¬ (w.fn.extractLsb' 0 4 == 2) = true by simp_all
  rw [if_neg nvlogAnd]
  rw [if_neg nvlogOr]
  rw [if_neg nvlogXor]
  rw [if_pos h]

theorem vlogNot (w : RForm) : Statement (.vlogNot w) := by
  refine .word (.r 0x49 w) rfl (RForm.opc_toWord _ _) (RForm.guard_toWord _ _) rfl (fun h => ?_)
  rw [Raw.toWord, opc_49 _ (RForm.opc_toWord _ _), RForm.ofWord_toWord]
  have h0 : (w.fn.extractLsb' 0 4 == 4) = true := h
  have nvlogAnd : ¬ Instr.selects (.vlogAnd w) = true := show ¬ (w.fn.extractLsb' 0 4 == 0) = true by simp_all
  have nvlogOr : ¬ Instr.selects (.vlogOr w) = true := show ¬ (w.fn.extractLsb' 0 4 == 1) = true by simp_all
  have nvlogXor : ¬ Instr.selects (.vlogXor w) = true := show ¬ (w.fn.extractLsb' 0 4 == 2) = true by simp_all
  have nvlogAndn : ¬ Instr.selects (.vlogAndn w) = true := show ¬ (w.fn.extractLsb' 0 4 == 3) = true by simp_all
  rw [if_neg nvlogAnd]
  rw [if_neg nvlogOr]
  rw [if_neg nvlogXor]
  rw [if_neg nvlogAndn]
  rw [if_pos h]

theorem vshShl (w : RForm) : Statement (.vshShl w) := by
  refine .word (.r 0x4A w) rfl (RForm.opc_toWord _ _) (RForm.guard_toWord _ _) rfl (fun h => ?_)
  rw [Raw.toWord, opc_4A _ (RForm.opc_toWord _ _), RForm.ofWord_toWord]
  rw [if_pos h]

theorem vshShr (w : RForm) : Statement (.vshShr w) := by
  refine .word (.r 0x4A w) rfl (RForm.opc_toWord _ _) (RForm.guard_toWord _ _) rfl (fun h => ?_)
  rw [Raw.toWord, opc_4A _ (RForm.opc_toWord _ _), RForm.ofWord_toWord]
  have h0 : (w.fn.extractLsb' 0 4 == 1) = true := h
  have nvshShl : ¬ Instr.selects (.vshShl w) = true := show ¬ (w.fn.extractLsb' 0 4 == 0) = true by simp_all
  rw [if_neg nvshShl]
  rw [if_pos h]

theorem vshSra (w : RForm) : Statement (.vshSra w) := by
  refine .word (.r 0x4A w) rfl (RForm.opc_toWord _ _) (RForm.guard_toWord _ _) rfl (fun h => ?_)
  rw [Raw.toWord, opc_4A _ (RForm.opc_toWord _ _), RForm.ofWord_toWord]
  have h0 : (w.fn.extractLsb' 0 4 == 2) = true := h
  have nvshShl : ¬ Instr.selects (.vshShl w) = true := show ¬ (w.fn.extractLsb' 0 4 == 0) = true by simp_all
  have nvshShr : ¬ Instr.selects (.vshShr w) = true := show ¬ (w.fn.extractLsb' 0 4 == 1) = true by simp_all
  rw [if_neg nvshShl]
  rw [if_neg nvshShr]
  rw [if_pos h]

theorem vbcntPop (w : RForm) : Statement (.vbcntPop w) := by
  refine .word (.r 0x5F w) rfl (RForm.opc_toWord _ _) (RForm.guard_toWord _ _) rfl (fun h => ?_)
  rw [Raw.toWord, opc_5F _ (RForm.opc_toWord _ _), RForm.ofWord_toWord]
  rw [if_pos h]

theorem vbcntClz (w : RForm) : Statement (.vbcntClz w) := by
  refine .word (.r 0x5F w) rfl (RForm.opc_toWord _ _) (RForm.guard_toWord _ _) rfl (fun h => ?_)
  rw [Raw.toWord, opc_5F _ (RForm.opc_toWord _ _), RForm.ofWord_toWord]
  have h0 : (w.fn.extractLsb' 0 4 == 1) = true := h
  have nvbcntPop : ¬ Instr.selects (.vbcntPop w) = true := show ¬ (w.fn.extractLsb' 0 4 == 0) = true by simp_all
  rw [if_neg nvbcntPop]
  rw [if_pos h]

theorem vbcntCtz (w : RForm) : Statement (.vbcntCtz w) := by
  refine .word (.r 0x5F w) rfl (RForm.opc_toWord _ _) (RForm.guard_toWord _ _) rfl (fun h => ?_)
  rw [Raw.toWord, opc_5F _ (RForm.opc_toWord _ _), RForm.ofWord_toWord]
  have h0 : (w.fn.extractLsb' 0 4 == 2) = true := h
  have nvbcntPop : ¬ Instr.selects (.vbcntPop w) = true := show ¬ (w.fn.extractLsb' 0 4 == 0) = true by simp_all
  have nvbcntClz : ¬ Instr.selects (.vbcntClz w) = true := show ¬ (w.fn.extractLsb' 0 4 == 1) = true by simp_all
  rw [if_neg nvbcntPop]
  rw [if_neg nvbcntClz]
  rw [if_pos h]

theorem vcmp (w : RForm) : Statement (.vcmp w) := by
  refine .word (.r 0x4B w) rfl (RForm.opc_toWord _ _) (RForm.guard_toWord _ _) rfl (fun h => ?_)
  rw [Raw.toWord, opc_4B _ (RForm.opc_toWord _ _), RForm.ofWord_toWord]
  rw [if_pos h]

theorem vsel (w : RForm) : Statement (.vsel w) := by
  refine .word (.r 0x4C w) rfl (RForm.opc_toWord _ _) (RForm.guard_toWord _ _) rfl (fun _ => ?_)
  rw [Raw.toWord, opc_4C _ (RForm.opc_toWord _ _), RForm.ofWord_toWord]

theorem mlogAnd (w : RForm) : Statement (.mlogAnd w) := by
  refine .word (.r 0x4D w) rfl (RForm.opc_toWord _ _) (RForm.guard_toWord _ _) rfl (fun h => ?_)
  rw [Raw.toWord, opc_4D _ (RForm.opc_toWord _ _), RForm.ofWord_toWord]
  rw [if_pos h]

theorem mlogOr (w : RForm) : Statement (.mlogOr w) := by
  refine .word (.r 0x4D w) rfl (RForm.opc_toWord _ _) (RForm.guard_toWord _ _) rfl (fun h => ?_)
  rw [Raw.toWord, opc_4D _ (RForm.opc_toWord _ _), RForm.ofWord_toWord]
  have h0 : (w.fn.extractLsb' 0 4 == 1) = true := h
  have nmlogAnd : ¬ Instr.selects (.mlogAnd w) = true := show ¬ (w.fn.extractLsb' 0 4 == 0) = true by simp_all
  rw [if_neg nmlogAnd]
  rw [if_pos h]

theorem mlogXor (w : RForm) : Statement (.mlogXor w) := by
  refine .word (.r 0x4D w) rfl (RForm.opc_toWord _ _) (RForm.guard_toWord _ _) rfl (fun h => ?_)
  rw [Raw.toWord, opc_4D _ (RForm.opc_toWord _ _), RForm.ofWord_toWord]
  have h0 : (w.fn.extractLsb' 0 4 == 2) = true := h
  have nmlogAnd : ¬ Instr.selects (.mlogAnd w) = true := show ¬ (w.fn.extractLsb' 0 4 == 0) = true by simp_all
  have nmlogOr : ¬ Instr.selects (.mlogOr w) = true := show ¬ (w.fn.extractLsb' 0 4 == 1) = true by simp_all
  rw [if_neg nmlogAnd]
  rw [if_neg nmlogOr]
  rw [if_pos h]

theorem mlogAndn (w : RForm) : Statement (.mlogAndn w) := by
  refine .word (.r 0x4D w) rfl (RForm.opc_toWord _ _) (RForm.guard_toWord _ _) rfl (fun h => ?_)
  rw [Raw.toWord, opc_4D _ (RForm.opc_toWord _ _), RForm.ofWord_toWord]
  have h0 : (w.fn.extractLsb' 0 4 == 3) = true := h
  have nmlogAnd : ¬ Instr.selects (.mlogAnd w) = true := show ¬ (w.fn.extractLsb' 0 4 == 0) = true by simp_all
  have nmlogOr : ¬ Instr.selects (.mlogOr w) = true := show ¬ (w.fn.extractLsb' 0 4 == 1) = true by simp_all
  have nmlogXor : ¬ Instr.selects (.mlogXor w) = true := show ¬ (w.fn.extractLsb' 0 4 == 2) = true by simp_all
  rw [if_neg nmlogAnd]
  rw [if_neg nmlogOr]
  rw [if_neg nmlogXor]
  rw [if_pos h]

theorem mlogNot (w : RForm) : Statement (.mlogNot w) := by
  refine .word (.r 0x4D w) rfl (RForm.opc_toWord _ _) (RForm.guard_toWord _ _) rfl (fun h => ?_)
  rw [Raw.toWord, opc_4D _ (RForm.opc_toWord _ _), RForm.ofWord_toWord]
  have h0 : (w.fn.extractLsb' 0 4 == 4) = true := h
  have nmlogAnd : ¬ Instr.selects (.mlogAnd w) = true := show ¬ (w.fn.extractLsb' 0 4 == 0) = true by simp_all
  have nmlogOr : ¬ Instr.selects (.mlogOr w) = true := show ¬ (w.fn.extractLsb' 0 4 == 1) = true by simp_all
  have nmlogXor : ¬ Instr.selects (.mlogXor w) = true := show ¬ (w.fn.extractLsb' 0 4 == 2) = true by simp_all
  have nmlogAndn : ¬ Instr.selects (.mlogAndn w) = true := show ¬ (w.fn.extractLsb' 0 4 == 3) = true by simp_all
  rw [if_neg nmlogAnd]
  rw [if_neg nmlogOr]
  rw [if_neg nmlogXor]
  rw [if_neg nmlogAndn]
  rw [if_pos h]

theorem mlogSet (w : RForm) : Statement (.mlogSet w) := by
  refine .word (.r 0x4D w) rfl (RForm.opc_toWord _ _) (RForm.guard_toWord _ _) rfl (fun h => ?_)
  rw [Raw.toWord, opc_4D _ (RForm.opc_toWord _ _), RForm.ofWord_toWord]
  have h0 : (w.fn.extractLsb' 0 4 == 5) = true := h
  have nmlogAnd : ¬ Instr.selects (.mlogAnd w) = true := show ¬ (w.fn.extractLsb' 0 4 == 0) = true by simp_all
  have nmlogOr : ¬ Instr.selects (.mlogOr w) = true := show ¬ (w.fn.extractLsb' 0 4 == 1) = true by simp_all
  have nmlogXor : ¬ Instr.selects (.mlogXor w) = true := show ¬ (w.fn.extractLsb' 0 4 == 2) = true by simp_all
  have nmlogAndn : ¬ Instr.selects (.mlogAndn w) = true := show ¬ (w.fn.extractLsb' 0 4 == 3) = true by simp_all
  have nmlogNot : ¬ Instr.selects (.mlogNot w) = true := show ¬ (w.fn.extractLsb' 0 4 == 4) = true by simp_all
  rw [if_neg nmlogAnd]
  rw [if_neg nmlogOr]
  rw [if_neg nmlogXor]
  rw [if_neg nmlogAndn]
  rw [if_neg nmlogNot]
  rw [if_pos h]

theorem mlogClr (w : RForm) : Statement (.mlogClr w) := by
  refine .word (.r 0x4D w) rfl (RForm.opc_toWord _ _) (RForm.guard_toWord _ _) rfl (fun h => ?_)
  rw [Raw.toWord, opc_4D _ (RForm.opc_toWord _ _), RForm.ofWord_toWord]
  have h0 : (w.fn.extractLsb' 0 4 == 6) = true := h
  have nmlogAnd : ¬ Instr.selects (.mlogAnd w) = true := show ¬ (w.fn.extractLsb' 0 4 == 0) = true by simp_all
  have nmlogOr : ¬ Instr.selects (.mlogOr w) = true := show ¬ (w.fn.extractLsb' 0 4 == 1) = true by simp_all
  have nmlogXor : ¬ Instr.selects (.mlogXor w) = true := show ¬ (w.fn.extractLsb' 0 4 == 2) = true by simp_all
  have nmlogAndn : ¬ Instr.selects (.mlogAndn w) = true := show ¬ (w.fn.extractLsb' 0 4 == 3) = true by simp_all
  have nmlogNot : ¬ Instr.selects (.mlogNot w) = true := show ¬ (w.fn.extractLsb' 0 4 == 4) = true by simp_all
  have nmlogSet : ¬ Instr.selects (.mlogSet w) = true := show ¬ (w.fn.extractLsb' 0 4 == 5) = true by simp_all
  rw [if_neg nmlogAnd]
  rw [if_neg nmlogOr]
  rw [if_neg nmlogXor]
  rw [if_neg nmlogAndn]
  rw [if_neg nmlogNot]
  rw [if_neg nmlogSet]
  rw [if_pos h]

theorem mpopCnt (w : RForm) : Statement (.mpopCnt w) := by
  refine .word (.r 0x4E w) rfl (RForm.opc_toWord _ _) (RForm.guard_toWord _ _) rfl (fun h => ?_)
  rw [Raw.toWord, opc_4E _ (RForm.opc_toWord _ _), RForm.ofWord_toWord]
  rw [if_pos h]

theorem mpopFirst (w : RForm) : Statement (.mpopFirst w) := by
  refine .word (.r 0x4E w) rfl (RForm.opc_toWord _ _) (RForm.guard_toWord _ _) rfl (fun h => ?_)
  rw [Raw.toWord, opc_4E _ (RForm.opc_toWord _ _), RForm.ofWord_toWord]
  have h0 : (w.fn.extractLsb' 0 4 == 1) = true := h
  have nmpopCnt : ¬ Instr.selects (.mpopCnt w) = true := show ¬ (w.fn.extractLsb' 0 4 == 0) = true by simp_all
  rw [if_neg nmpopCnt]
  rw [if_pos h]

theorem vcvt (w : RForm) : Statement (.vcvt w) := by
  refine .word (.r 0x4F w) rfl (RForm.opc_toWord _ _) (RForm.guard_toWord _ _) rfl (fun _ => ?_)
  rw [Raw.toWord, opc_4F _ (RForm.opc_toWord _ _), RForm.ofWord_toWord]

theorem vpack (w : RForm) : Statement (.vpack w) := by
  refine .word (.r 0x50 w) rfl (RForm.opc_toWord _ _) (RForm.guard_toWord _ _) rfl (fun _ => ?_)
  rw [Raw.toWord, opc_50 _ (RForm.opc_toWord _ _), RForm.ofWord_toWord]

theorem vunpack (w : RForm) : Statement (.vunpack w) := by
  refine .word (.r 0x51 w) rfl (RForm.opc_toWord _ _) (RForm.guard_toWord _ _) rfl (fun _ => ?_)
  rw [Raw.toWord, opc_51 _ (RForm.opc_toWord _ _), RForm.ofWord_toWord]

theorem vpermIdx (w : RForm) : Statement (.vpermIdx w) := by
  refine .word (.r 0x52 w) rfl (RForm.opc_toWord _ _) (RForm.guard_toWord _ _) rfl (fun h => ?_)
  rw [Raw.toWord, opc_52 _ (RForm.opc_toWord _ _), RForm.ofWord_toWord]
  rw [if_pos h]

theorem vpermRot (w : RForm) : Statement (.vpermRot w) := by
  refine .word (.r 0x52 w) rfl (RForm.opc_toWord _ _) (RForm.guard_toWord _ _) rfl (fun h => ?_)
  rw [Raw.toWord, opc_52 _ (RForm.opc_toWord _ _), RForm.ofWord_toWord]
  have h0 : (w.fn.extractLsb' 0 4 == 1) = true := h
  have nvpermIdx : ¬ Instr.selects (.vpermIdx w) = true := show ¬ (w.fn.extractLsb' 0 4 == 0) = true by simp_all
  rw [if_neg nvpermIdx]
  rw [if_pos h]

theorem vpermXor (w : RForm) : Statement (.vpermXor w) := by
  refine .word (.r 0x52 w) rfl (RForm.opc_toWord _ _) (RForm.guard_toWord _ _) rfl (fun h => ?_)
  rw [Raw.toWord, opc_52 _ (RForm.opc_toWord _ _), RForm.ofWord_toWord]
  have h0 : (w.fn.extractLsb' 0 4 == 2) = true := h
  have nvpermIdx : ¬ Instr.selects (.vpermIdx w) = true := show ¬ (w.fn.extractLsb' 0 4 == 0) = true by simp_all
  have nvpermRot : ¬ Instr.selects (.vpermRot w) = true := show ¬ (w.fn.extractLsb' 0 4 == 1) = true by simp_all
  rw [if_neg nvpermIdx]
  rw [if_neg nvpermRot]
  rw [if_pos h]

theorem vbcastLane (w : RForm) : Statement (.vbcastLane w) := by
  refine .word (.r 0x53 w) rfl (RForm.opc_toWord _ _) (RForm.guard_toWord _ _) rfl (fun h => ?_)
  rw [Raw.toWord, opc_53 _ (RForm.opc_toWord _ _), RForm.ofWord_toWord]
  rw [if_pos h]

theorem vbcastElem (w : RForm) : Statement (.vbcastElem w) := by
  refine .word (.r 0x53 w) rfl (RForm.opc_toWord _ _) (RForm.guard_toWord _ _) rfl (fun h => ?_)
  rw [Raw.toWord, opc_53 _ (RForm.opc_toWord _ _), RForm.ofWord_toWord]
  have h0 : (w.fn.extractLsb' 0 4 == 1) = true := h
  have nvbcastLane : ¬ Instr.selects (.vbcastLane w) = true := show ¬ (w.fn.extractLsb' 0 4 == 0) = true by simp_all
  rw [if_neg nvbcastLane]
  rw [if_pos h]

theorem vshuf (w : RForm) : Statement (.vshuf w) := by
  refine .word (.r 0x54 w) rfl (RForm.opc_toWord _ _) (RForm.guard_toWord _ _) rfl (fun h => ?_)
  rw [Raw.toWord, opc_54 _ (RForm.opc_toWord _ _), RForm.ofWord_toWord]
  rw [if_pos h]

theorem vred (w : RForm) : Statement (.vred w) := by
  refine .word (.r 0x55 w) rfl (RForm.opc_toWord _ _) (RForm.guard_toWord _ _) rfl (fun h => ?_)
  rw [Raw.toWord, opc_55 _ (RForm.opc_toWord _ _), RForm.ofWord_toWord]
  rw [if_pos h]

theorem vscan (w : RForm) : Statement (.vscan w) := by
  refine .word (.r 0x56 w) rfl (RForm.opc_toWord _ _) (RForm.guard_toWord _ _) rfl (fun h => ?_)
  rw [Raw.toWord, opc_56 _ (RForm.opc_toWord _ _), RForm.ofWord_toWord]
  rw [if_pos h]

theorem vidx (w : RForm) : Statement (.vidx w) := by
  refine .word (.r 0x57 w) rfl (RForm.opc_toWord _ _) (RForm.guard_toWord _ _) rfl (fun h => ?_)
  rw [Raw.toWord, opc_57 _ (RForm.opc_toWord _ _), RForm.ofWord_toWord]
  rw [if_pos h]

theorem vidxElem (w : RForm) : Statement (.vidxElem w) := by
  refine .word (.r 0x57 w) rfl (RForm.opc_toWord _ _) (RForm.guard_toWord _ _) rfl (fun h => ?_)
  rw [Raw.toWord, opc_57 _ (RForm.opc_toWord _ _), RForm.ofWord_toWord]
  have h0 : (w.fn.extractLsb' 0 4 == 1) = true := h
  have nvidx : ¬ Instr.selects (.vidx w) = true := show ¬ (w.fn.extractLsb' 0 4 == 0) = true by simp_all
  rw [if_neg nvidx]
  rw [if_pos h]

theorem vidxFlat (w : RForm) : Statement (.vidxFlat w) := by
  refine .word (.r 0x57 w) rfl (RForm.opc_toWord _ _) (RForm.guard_toWord _ _) rfl (fun h => ?_)
  rw [Raw.toWord, opc_57 _ (RForm.opc_toWord _ _), RForm.ofWord_toWord]
  have h0 : (w.fn.extractLsb' 0 4 == 2) = true := h
  have nvidx : ¬ Instr.selects (.vidx w) = true := show ¬ (w.fn.extractLsb' 0 4 == 0) = true by simp_all
  have nvidxElem : ¬ Instr.selects (.vidxElem w) = true := show ¬ (w.fn.extractLsb' 0 4 == 1) = true by simp_all
  rw [if_neg nvidx]
  rw [if_neg nvidxElem]
  rw [if_pos h]

theorem vmovk (w : RForm) : Statement (.vmovk w) := by
  refine .word (.r 0x58 w) rfl (RForm.opc_toWord _ _) (RForm.guard_toWord _ _) rfl (fun h => ?_)
  rw [Raw.toWord, opc_58 _ (RForm.opc_toWord _ _), RForm.ofWord_toWord]
  rw [if_pos h]

theorem vext (w : RForm) : Statement (.vext w) := by
  refine .word (.r 0x59 w) rfl (RForm.opc_toWord _ _) (RForm.guard_toWord _ _) rfl (fun _ => ?_)
  rw [Raw.toWord, opc_59 _ (RForm.opc_toWord _ _), RForm.ofWord_toWord]

theorem vins (w : RForm) : Statement (.vins w) := by
  refine .word (.r 0x5A w) rfl (RForm.opc_toWord _ _) (RForm.guard_toWord _ _) rfl (fun _ => ?_)
  rw [Raw.toWord, opc_5A _ (RForm.opc_toWord _ _), RForm.ofWord_toWord]

theorem vflagRd (w : RForm) : Statement (.vflagRd w) := by
  refine .word (.r 0x5B w) rfl (RForm.opc_toWord _ _) (RForm.guard_toWord _ _) rfl (fun h => ?_)
  rw [Raw.toWord, opc_5B _ (RForm.opc_toWord _ _), RForm.ofWord_toWord]
  rw [if_pos h]

theorem vflagWr (w : RForm) : Statement (.vflagWr w) := by
  refine .word (.r 0x5B w) rfl (RForm.opc_toWord _ _) (RForm.guard_toWord _ _) rfl (fun h => ?_)
  rw [Raw.toWord, opc_5B _ (RForm.opc_toWord _ _), RForm.ofWord_toWord]
  have h0 : (w.fn.extractLsb' 0 4 == 1) = true := h
  have nvflagRd : ¬ Instr.selects (.vflagRd w) = true := show ¬ (w.fn.extractLsb' 0 4 == 0) = true by simp_all
  rw [if_neg nvflagRd]
  rw [if_pos h]

theorem vflagClr (w : RForm) : Statement (.vflagClr w) := by
  refine .word (.r 0x5B w) rfl (RForm.opc_toWord _ _) (RForm.guard_toWord _ _) rfl (fun h => ?_)
  rw [Raw.toWord, opc_5B _ (RForm.opc_toWord _ _), RForm.ofWord_toWord]
  have h0 : (w.fn.extractLsb' 0 4 == 2) = true := h
  have nvflagRd : ¬ Instr.selects (.vflagRd w) = true := show ¬ (w.fn.extractLsb' 0 4 == 0) = true by simp_all
  have nvflagWr : ¬ Instr.selects (.vflagWr w) = true := show ¬ (w.fn.extractLsb' 0 4 == 1) = true by simp_all
  rw [if_neg nvflagRd]
  rw [if_neg nvflagWr]
  rw [if_pos h]

theorem vcmul (w : RForm) : Statement (.vcmul w) := by
  refine .word (.r 0x5C w) rfl (RForm.opc_toWord _ _) (RForm.guard_toWord _ _) rfl (fun h => ?_)
  rw [Raw.toWord, opc_5C _ (RForm.opc_toWord _ _), RForm.ofWord_toWord]
  rw [if_pos h]

theorem vcmulConj (w : RForm) : Statement (.vcmulConj w) := by
  refine .word (.r 0x5C w) rfl (RForm.opc_toWord _ _) (RForm.guard_toWord _ _) rfl (fun h => ?_)
  rw [Raw.toWord, opc_5C _ (RForm.opc_toWord _ _), RForm.ofWord_toWord]
  have h0 : (w.fn.extractLsb' 0 4 == 1) = true := h
  have nvcmul : ¬ Instr.selects (.vcmul w) = true := show ¬ (w.fn.extractLsb' 0 4 == 0) = true by simp_all
  rw [if_neg nvcmul]
  rw [if_pos h]

theorem vcmulFma (w : RForm) : Statement (.vcmulFma w) := by
  refine .word (.r 0x5C w) rfl (RForm.opc_toWord _ _) (RForm.guard_toWord _ _) rfl (fun h => ?_)
  rw [Raw.toWord, opc_5C _ (RForm.opc_toWord _ _), RForm.ofWord_toWord]
  have h0 : (w.fn.extractLsb' 0 4 == 2) = true := h
  have nvcmul : ¬ Instr.selects (.vcmul w) = true := show ¬ (w.fn.extractLsb' 0 4 == 0) = true by simp_all
  have nvcmulConj : ¬ Instr.selects (.vcmulConj w) = true := show ¬ (w.fn.extractLsb' 0 4 == 1) = true by simp_all
  rw [if_neg nvcmul]
  rw [if_neg nvcmulConj]
  rw [if_pos h]

theorem vcmulFmac (w : RForm) : Statement (.vcmulFmac w) := by
  refine .word (.r 0x5C w) rfl (RForm.opc_toWord _ _) (RForm.guard_toWord _ _) rfl (fun h => ?_)
  rw [Raw.toWord, opc_5C _ (RForm.opc_toWord _ _), RForm.ofWord_toWord]
  have h0 : (w.fn.extractLsb' 0 4 == 3) = true := h
  have nvcmul : ¬ Instr.selects (.vcmul w) = true := show ¬ (w.fn.extractLsb' 0 4 == 0) = true by simp_all
  have nvcmulConj : ¬ Instr.selects (.vcmulConj w) = true := show ¬ (w.fn.extractLsb' 0 4 == 1) = true by simp_all
  have nvcmulFma : ¬ Instr.selects (.vcmulFma w) = true := show ¬ (w.fn.extractLsb' 0 4 == 2) = true by simp_all
  rw [if_neg nvcmul]
  rw [if_neg nvcmulConj]
  rw [if_neg nvcmulFma]
  rw [if_pos h]

theorem vdot (w : RForm) : Statement (.vdot w) := by
  refine .word (.r 0x60 w) rfl (RForm.opc_toWord _ _) (RForm.guard_toWord _ _) rfl (fun h => ?_)
  rw [Raw.toWord, opc_60 _ (RForm.opc_toWord _ _), RForm.ofWord_toWord]
  rw [if_pos h]

theorem tfillAll (w : RForm) : Statement (.tfillAll w) := by
  refine .word (.r 0xC3 w) rfl (RForm.opc_toWord _ _) (RForm.guard_toWord _ _) rfl (fun h => ?_)
  rw [Raw.toWord, opc_C3 _ (RForm.opc_toWord _ _), RForm.ofWord_toWord]
  rw [if_pos h]

theorem tfillPart (w : RForm) : Statement (.tfillPart w) := by
  refine .word (.r 0xC3 w) rfl (RForm.opc_toWord _ _) (RForm.guard_toWord _ _) rfl (fun h => ?_)
  rw [Raw.toWord, opc_C3 _ (RForm.opc_toWord _ _), RForm.ofWord_toWord]
  have h0 : (w.fn.extractLsb' 0 2 == 1) = true := h
  have ntfillAll : ¬ Instr.selects (.tfillAll w) = true := show ¬ (w.fn.extractLsb' 0 2 == 0) = true by simp_all
  rw [if_neg ntfillAll]
  rw [if_pos h]

theorem tfillGath (w : RForm) : Statement (.tfillGath w) := by
  refine .word (.r 0xC3 w) rfl (RForm.opc_toWord _ _) (RForm.guard_toWord _ _) rfl (fun h => ?_)
  rw [Raw.toWord, opc_C3 _ (RForm.opc_toWord _ _), RForm.ofWord_toWord]
  have h0 : (w.fn.extractLsb' 0 2 == 2) = true := h
  have ntfillAll : ¬ Instr.selects (.tfillAll w) = true := show ¬ (w.fn.extractLsb' 0 2 == 0) = true by simp_all
  have ntfillPart : ¬ Instr.selects (.tfillPart w) = true := show ¬ (w.fn.extractLsb' 0 2 == 1) = true by simp_all
  rw [if_neg ntfillAll]
  rw [if_neg ntfillPart]
  rw [if_pos h]

theorem tmmaMadd (w : RForm) : Statement (.tmmaMadd w) := by
  refine .word (.r 0x80 w) rfl (RForm.opc_toWord _ _) (RForm.guard_toWord _ _) rfl (fun h => ?_)
  rw [Raw.toWord, opc_80 _ (RForm.opc_toWord _ _), RForm.ofWord_toWord]
  rw [if_pos h]

theorem tmmaAdif (w : RForm) : Statement (.tmmaAdif w) := by
  refine .word (.r 0x80 w) rfl (RForm.opc_toWord _ _) (RForm.guard_toWord _ _) rfl (fun h => ?_)
  rw [Raw.toWord, opc_80 _ (RForm.opc_toWord _ _), RForm.ofWord_toWord]
  have h0 : (w.fn.extractLsb' 0 4 == 1) = true := h
  have ntmmaMadd : ¬ Instr.selects (.tmmaMadd w) = true := show ¬ (w.fn.extractLsb' 0 4 == 0) = true by simp_all
  rw [if_neg ntmmaMadd]
  rw [if_pos h]

theorem tmmaCselmax (w : RForm) : Statement (.tmmaCselmax w) := by
  refine .word (.r 0x80 w) rfl (RForm.opc_toWord _ _) (RForm.guard_toWord _ _) rfl (fun h => ?_)
  rw [Raw.toWord, opc_80 _ (RForm.opc_toWord _ _), RForm.ofWord_toWord]
  have h0 : (w.fn.extractLsb' 0 4 == 2) = true := h
  have ntmmaMadd : ¬ Instr.selects (.tmmaMadd w) = true := show ¬ (w.fn.extractLsb' 0 4 == 0) = true by simp_all
  have ntmmaAdif : ¬ Instr.selects (.tmmaAdif w) = true := show ¬ (w.fn.extractLsb' 0 4 == 1) = true by simp_all
  rw [if_neg ntmmaMadd]
  rw [if_neg ntmmaAdif]
  rw [if_pos h]

theorem tmmaCselmin (w : RForm) : Statement (.tmmaCselmin w) := by
  refine .word (.r 0x80 w) rfl (RForm.opc_toWord _ _) (RForm.guard_toWord _ _) rfl (fun h => ?_)
  rw [Raw.toWord, opc_80 _ (RForm.opc_toWord _ _), RForm.ofWord_toWord]
  have h0 : (w.fn.extractLsb' 0 4 == 3) = true := h
  have ntmmaMadd : ¬ Instr.selects (.tmmaMadd w) = true := show ¬ (w.fn.extractLsb' 0 4 == 0) = true by simp_all
  have ntmmaAdif : ¬ Instr.selects (.tmmaAdif w) = true := show ¬ (w.fn.extractLsb' 0 4 == 1) = true by simp_all
  have ntmmaCselmax : ¬ Instr.selects (.tmmaCselmax w) = true := show ¬ (w.fn.extractLsb' 0 4 == 2) = true by simp_all
  rw [if_neg ntmmaMadd]
  rw [if_neg ntmmaAdif]
  rw [if_neg ntmmaCselmax]
  rw [if_pos h]

theorem tmmaCmad (w : RForm) : Statement (.tmmaCmad w) := by
  refine .word (.r 0x80 w) rfl (RForm.opc_toWord _ _) (RForm.guard_toWord _ _) rfl (fun h => ?_)
  rw [Raw.toWord, opc_80 _ (RForm.opc_toWord _ _), RForm.ofWord_toWord]
  have h0 : (w.fn.extractLsb' 0 4 == 4) = true := h
  have ntmmaMadd : ¬ Instr.selects (.tmmaMadd w) = true := show ¬ (w.fn.extractLsb' 0 4 == 0) = true by simp_all
  have ntmmaAdif : ¬ Instr.selects (.tmmaAdif w) = true := show ¬ (w.fn.extractLsb' 0 4 == 1) = true by simp_all
  have ntmmaCselmax : ¬ Instr.selects (.tmmaCselmax w) = true := show ¬ (w.fn.extractLsb' 0 4 == 2) = true by simp_all
  have ntmmaCselmin : ¬ Instr.selects (.tmmaCselmin w) = true := show ¬ (w.fn.extractLsb' 0 4 == 3) = true by simp_all
  rw [if_neg ntmmaMadd]
  rw [if_neg ntmmaAdif]
  rw [if_neg ntmmaCselmax]
  rw [if_neg ntmmaCselmin]
  rw [if_pos h]

theorem tmmaSeq (w : RForm) : Statement (.tmmaSeq w) := by
  refine .word (.r 0x80 w) rfl (RForm.opc_toWord _ _) (RForm.guard_toWord _ _) rfl (fun h => ?_)
  rw [Raw.toWord, opc_80 _ (RForm.opc_toWord _ _), RForm.ofWord_toWord]
  have h0 : (w.fn.extractLsb' 0 4 == 5) = true := h
  have ntmmaMadd : ¬ Instr.selects (.tmmaMadd w) = true := show ¬ (w.fn.extractLsb' 0 4 == 0) = true by simp_all
  have ntmmaAdif : ¬ Instr.selects (.tmmaAdif w) = true := show ¬ (w.fn.extractLsb' 0 4 == 1) = true by simp_all
  have ntmmaCselmax : ¬ Instr.selects (.tmmaCselmax w) = true := show ¬ (w.fn.extractLsb' 0 4 == 2) = true by simp_all
  have ntmmaCselmin : ¬ Instr.selects (.tmmaCselmin w) = true := show ¬ (w.fn.extractLsb' 0 4 == 3) = true by simp_all
  have ntmmaCmad : ¬ Instr.selects (.tmmaCmad w) = true := show ¬ (w.fn.extractLsb' 0 4 == 4) = true by simp_all
  rw [if_neg ntmmaMadd]
  rw [if_neg ntmmaAdif]
  rw [if_neg ntmmaCselmax]
  rw [if_neg ntmmaCselmin]
  rw [if_neg ntmmaCmad]
  rw [if_pos h]

theorem tclr (w : RForm) : Statement (.tclr w) := by
  refine .word (.r 0x81 w) rfl (RForm.opc_toWord _ _) (RForm.guard_toWord _ _) rfl (fun h => ?_)
  rw [Raw.toWord, opc_81 _ (RForm.opc_toWord _ _), RForm.ofWord_toWord]
  rw [if_pos h]

theorem taccRd (w : RForm) : Statement (.taccRd w) := by
  refine .word (.r 0x82 w) rfl (RForm.opc_toWord _ _) (RForm.guard_toWord _ _) rfl (fun _ => ?_)
  rw [Raw.toWord, opc_82 _ (RForm.opc_toWord _ _), RForm.ofWord_toWord]

theorem taccWr (w : RForm) : Statement (.taccWr w) := by
  refine .word (.r 0x83 w) rfl (RForm.opc_toWord _ _) (RForm.guard_toWord _ _) rfl (fun h => ?_)
  rw [Raw.toWord, opc_83 _ (RForm.opc_toWord _ _), RForm.ofWord_toWord]
  rw [if_pos h]

theorem tnorm (w : RForm) : Statement (.tnorm w) := by
  refine .word (.r 0x84 w) rfl (RForm.opc_toWord _ _) (RForm.guard_toWord _ _) rfl (fun _ => ?_)
  rw [Raw.toWord, opc_84 _ (RForm.opc_toWord _ _), RForm.ofWord_toWord]

theorem tstatAcc (w : RForm) : Statement (.tstatAcc w) := by
  refine .word (.r 0x85 w) rfl (RForm.opc_toWord _ _) (RForm.guard_toWord _ _) rfl (fun h => ?_)
  rw [Raw.toWord, opc_85 _ (RForm.opc_toWord _ _), RForm.ofWord_toWord]
  rw [if_pos h]

theorem tstatLatch (w : RForm) : Statement (.tstatLatch w) := by
  refine .word (.r 0x85 w) rfl (RForm.opc_toWord _ _) (RForm.guard_toWord _ _) rfl (fun h => ?_)
  rw [Raw.toWord, opc_85 _ (RForm.opc_toWord _ _), RForm.ofWord_toWord]
  have h0 : (w.fn.extractLsb' 0 1 == 1) = true := h
  have ntstatAcc : ¬ Instr.selects (.tstatAcc w) = true := show ¬ (w.fn.extractLsb' 0 1 == 0) = true by simp_all
  rw [if_neg ntstatAcc]
  rw [if_pos h]

theorem tcopy (w : RForm) : Statement (.tcopy w) := by
  refine .word (.r 0x86 w) rfl (RForm.opc_toWord _ _) (RForm.guard_toWord _ _) rfl (fun _ => ?_)
  rw [Raw.toWord, opc_86 _ (RForm.opc_toWord _ _), RForm.ofWord_toWord]

theorem tqclr (w : RForm) : Statement (.tqclr w) := by
  refine .word (.r 0x87 w) rfl (RForm.opc_toWord _ _) (RForm.guard_toWord _ _) rfl (fun _ => ?_)
  rw [Raw.toWord, opc_87 _ (RForm.opc_toWord _ _), RForm.ofWord_toWord]

theorem tmerge (w : RForm) : Statement (.tmerge w) := by
  refine .word (.r 0x88 w) rfl (RForm.opc_toWord _ _) (RForm.guard_toWord _ _) rfl (fun _ => ?_)
  rw [Raw.toWord, opc_88 _ (RForm.opc_toWord _ _), RForm.ofWord_toWord]

theorem xfft (w : RForm) : Statement (.xfft w) := by
  refine .word (.r 0xA0 w) rfl (RForm.opc_toWord _ _) (RForm.guard_toWord _ _) rfl (fun h => ?_)
  rw [Raw.toWord, opc_A0 _ (RForm.opc_toWord _ _), RForm.ofWord_toWord]
  rw [if_pos h]

theorem xifft (w : RForm) : Statement (.xifft w) := by
  refine .word (.r 0xA1 w) rfl (RForm.opc_toWord _ _) (RForm.guard_toWord _ _) rfl (fun h => ?_)
  rw [Raw.toWord, opc_A1 _ (RForm.opc_toWord _ _), RForm.ofWord_toWord]
  rw [if_pos h]

theorem xtrn (w : RForm) : Statement (.xtrn w) := by
  refine .word (.r 0xA2 w) rfl (RForm.opc_toWord _ _) (RForm.guard_toWord _ _) rfl (fun h => ?_)
  rw [Raw.toWord, opc_A2 _ (RForm.opc_toWord _ _), RForm.ofWord_toWord]
  rw [if_pos h]

theorem xtrnTurn (w : RForm) : Statement (.xtrnTurn w) := by
  refine .word (.r 0xA2 w) rfl (RForm.opc_toWord _ _) (RForm.guard_toWord _ _) rfl (fun h => ?_)
  rw [Raw.toWord, opc_A2 _ (RForm.opc_toWord _ _), RForm.ofWord_toWord]
  have h0 : (w.fn == 1) = true := h
  have nxtrn : ¬ Instr.selects (.xtrn w) = true := show ¬ (w.fn == 0) = true by simp_all
  rw [if_neg nxtrn]
  rw [if_pos h]

theorem xtrnBack (w : RForm) : Statement (.xtrnBack w) := by
  refine .word (.r 0xA2 w) rfl (RForm.opc_toWord _ _) (RForm.guard_toWord _ _) rfl (fun h => ?_)
  rw [Raw.toWord, opc_A2 _ (RForm.opc_toWord _ _), RForm.ofWord_toWord]
  have h0 : (w.fn == 2) = true := h
  have nxtrn : ¬ Instr.selects (.xtrn w) = true := show ¬ (w.fn == 0) = true by simp_all
  have nxtrnTurn : ¬ Instr.selects (.xtrnTurn w) = true := show ¬ (w.fn == 1) = true by simp_all
  rw [if_neg nxtrn]
  rw [if_neg nxtrnTurn]
  rw [if_pos h]

theorem xcvt (w : RForm) : Statement (.xcvt w) := by
  refine .word (.r 0xA3 w) rfl (RForm.opc_toWord _ _) (RForm.guard_toWord _ _) rfl (fun h => ?_)
  rw [Raw.toWord, opc_A3 _ (RForm.opc_toWord _ _), RForm.ofWord_toWord]
  rw [if_pos h]

theorem xexp (w : RForm) : Statement (.xexp w) := by
  refine .word (.r 0xA4 w) rfl (RForm.opc_toWord _ _) (RForm.guard_toWord _ _) rfl (fun h => ?_)
  rw [Raw.toWord, opc_A4 _ (RForm.opc_toWord _ _), RForm.ofWord_toWord]
  rw [if_pos h]

theorem xsclS (w : RForm) : Statement (.xsclS w) := by
  refine .word (.r 0xA5 w) rfl (RForm.opc_toWord _ _) (RForm.guard_toWord _ _) rfl (fun h => ?_)
  rw [Raw.toWord, opc_A5 _ (RForm.opc_toWord _ _), RForm.ofWord_toWord]
  rw [if_pos h]

theorem xsclU (w : RForm) : Statement (.xsclU w) := by
  refine .word (.r 0xA5 w) rfl (RForm.opc_toWord _ _) (RForm.guard_toWord _ _) rfl (fun h => ?_)
  rw [Raw.toWord, opc_A5 _ (RForm.opc_toWord _ _), RForm.ofWord_toWord]
  have h0 : (w.fn == 1) = true := h
  have nxsclS : ¬ Instr.selects (.xsclS w) = true := show ¬ (w.fn == 0) = true by simp_all
  rw [if_neg nxsclS]
  rw [if_pos h]

theorem xmov (w : RForm) : Statement (.xmov w) := by
  refine .word (.r 0xA6 w) rfl (RForm.opc_toWord _ _) (RForm.guard_toWord _ _) rfl (fun h => ?_)
  rw [Raw.toWord, opc_A6 _ (RForm.opc_toWord _ _), RForm.ofWord_toWord]
  rw [if_pos h]

theorem xhdr (w : RForm) : Statement (.xhdr w) := by
  refine .word (.r 0xA7 w) rfl (RForm.opc_toWord _ _) (RForm.guard_toWord _ _) rfl (fun h => ?_)
  rw [Raw.toWord, opc_A7 _ (RForm.opc_toWord _ _), RForm.ofWord_toWord]
  rw [if_pos h]

theorem lds (w : MForm) : Statement (.lds w) := by
  refine .word (.m 0xB2 w) rfl (MForm.opc_toWord _ _) (MForm.guard_toWord _ _) rfl (fun _ => ?_)
  rw [Raw.toWord, opc_B2 _ (MForm.opc_toWord _ _), MForm.ofWord_toWord]

theorem sts (w : MForm) : Statement (.sts w) := by
  refine .word (.m 0xB3 w) rfl (MForm.opc_toWord _ _) (MForm.guard_toWord _ _) rfl (fun _ => ?_)
  rw [Raw.toWord, opc_B3 _ (MForm.opc_toWord _ _), MForm.ofWord_toWord]

theorem ldq (w : MForm) : Statement (.ldq w) := by
  refine .word (.m 0xB4 w) rfl (MForm.opc_toWord _ _) (MForm.guard_toWord _ _) rfl (fun _ => ?_)
  rw [Raw.toWord, opc_B4 _ (MForm.opc_toWord _ _), MForm.ofWord_toWord]

theorem stq (w : MForm) : Statement (.stq w) := by
  refine .word (.m 0xB5 w) rfl (MForm.opc_toWord _ _) (MForm.guard_toWord _ _) rfl (fun _ => ?_)
  rw [Raw.toWord, opc_B5 _ (MForm.opc_toWord _ _), MForm.ofWord_toWord]

theorem pref (w : MForm) : Statement (.pref w) := by
  refine .word (.m 0xB6 w) rfl (MForm.opc_toWord _ _) (MForm.guard_toWord _ _) rfl (fun _ => ?_)
  rw [Raw.toWord, opc_B6 _ (MForm.opc_toWord _ _), MForm.ofWord_toWord]

theorem stz (w : MForm) : Statement (.stz w) := by
  refine .word (.m 0xB7 w) rfl (MForm.opc_toWord _ _) (MForm.guard_toWord _ _) rfl (fun _ => ?_)
  rw [Raw.toWord, opc_B7 _ (MForm.opc_toWord _ _), MForm.ofWord_toWord]

theorem amoAdd (w : MForm) : Statement (.amoAdd w) := by
  refine .word (.m 0xB8 w) rfl (MForm.opc_toWord _ _) (MForm.guard_toWord _ _) rfl (fun h => ?_)
  rw [Raw.toWord, opc_B8 _ (MForm.opc_toWord _ _), MForm.ofWord_toWord]
  rw [if_pos h]

theorem amoAnd (w : MForm) : Statement (.amoAnd w) := by
  refine .word (.m 0xB8 w) rfl (MForm.opc_toWord _ _) (MForm.guard_toWord _ _) rfl (fun h => ?_)
  rw [Raw.toWord, opc_B8 _ (MForm.opc_toWord _ _), MForm.ofWord_toWord]
  have h0 : (w.off.extractLsb' 12 4 == 1) = true := h
  have namoAdd : ¬ Instr.selects (.amoAdd w) = true := show ¬ (w.off.extractLsb' 12 4 == 0) = true by simp_all
  rw [if_neg namoAdd]
  rw [if_pos h]

theorem amoOr (w : MForm) : Statement (.amoOr w) := by
  refine .word (.m 0xB8 w) rfl (MForm.opc_toWord _ _) (MForm.guard_toWord _ _) rfl (fun h => ?_)
  rw [Raw.toWord, opc_B8 _ (MForm.opc_toWord _ _), MForm.ofWord_toWord]
  have h0 : (w.off.extractLsb' 12 4 == 2) = true := h
  have namoAdd : ¬ Instr.selects (.amoAdd w) = true := show ¬ (w.off.extractLsb' 12 4 == 0) = true by simp_all
  have namoAnd : ¬ Instr.selects (.amoAnd w) = true := show ¬ (w.off.extractLsb' 12 4 == 1) = true by simp_all
  rw [if_neg namoAdd]
  rw [if_neg namoAnd]
  rw [if_pos h]

theorem amoXor (w : MForm) : Statement (.amoXor w) := by
  refine .word (.m 0xB8 w) rfl (MForm.opc_toWord _ _) (MForm.guard_toWord _ _) rfl (fun h => ?_)
  rw [Raw.toWord, opc_B8 _ (MForm.opc_toWord _ _), MForm.ofWord_toWord]
  have h0 : (w.off.extractLsb' 12 4 == 3) = true := h
  have namoAdd : ¬ Instr.selects (.amoAdd w) = true := show ¬ (w.off.extractLsb' 12 4 == 0) = true by simp_all
  have namoAnd : ¬ Instr.selects (.amoAnd w) = true := show ¬ (w.off.extractLsb' 12 4 == 1) = true by simp_all
  have namoOr : ¬ Instr.selects (.amoOr w) = true := show ¬ (w.off.extractLsb' 12 4 == 2) = true by simp_all
  rw [if_neg namoAdd]
  rw [if_neg namoAnd]
  rw [if_neg namoOr]
  rw [if_pos h]

theorem amoMin (w : MForm) : Statement (.amoMin w) := by
  refine .word (.m 0xB8 w) rfl (MForm.opc_toWord _ _) (MForm.guard_toWord _ _) rfl (fun h => ?_)
  rw [Raw.toWord, opc_B8 _ (MForm.opc_toWord _ _), MForm.ofWord_toWord]
  have h0 : (w.off.extractLsb' 12 4 == 4) = true := h
  have namoAdd : ¬ Instr.selects (.amoAdd w) = true := show ¬ (w.off.extractLsb' 12 4 == 0) = true by simp_all
  have namoAnd : ¬ Instr.selects (.amoAnd w) = true := show ¬ (w.off.extractLsb' 12 4 == 1) = true by simp_all
  have namoOr : ¬ Instr.selects (.amoOr w) = true := show ¬ (w.off.extractLsb' 12 4 == 2) = true by simp_all
  have namoXor : ¬ Instr.selects (.amoXor w) = true := show ¬ (w.off.extractLsb' 12 4 == 3) = true by simp_all
  rw [if_neg namoAdd]
  rw [if_neg namoAnd]
  rw [if_neg namoOr]
  rw [if_neg namoXor]
  rw [if_pos h]

theorem amoMax (w : MForm) : Statement (.amoMax w) := by
  refine .word (.m 0xB8 w) rfl (MForm.opc_toWord _ _) (MForm.guard_toWord _ _) rfl (fun h => ?_)
  rw [Raw.toWord, opc_B8 _ (MForm.opc_toWord _ _), MForm.ofWord_toWord]
  have h0 : (w.off.extractLsb' 12 4 == 5) = true := h
  have namoAdd : ¬ Instr.selects (.amoAdd w) = true := show ¬ (w.off.extractLsb' 12 4 == 0) = true by simp_all
  have namoAnd : ¬ Instr.selects (.amoAnd w) = true := show ¬ (w.off.extractLsb' 12 4 == 1) = true by simp_all
  have namoOr : ¬ Instr.selects (.amoOr w) = true := show ¬ (w.off.extractLsb' 12 4 == 2) = true by simp_all
  have namoXor : ¬ Instr.selects (.amoXor w) = true := show ¬ (w.off.extractLsb' 12 4 == 3) = true by simp_all
  have namoMin : ¬ Instr.selects (.amoMin w) = true := show ¬ (w.off.extractLsb' 12 4 == 4) = true by simp_all
  rw [if_neg namoAdd]
  rw [if_neg namoAnd]
  rw [if_neg namoOr]
  rw [if_neg namoXor]
  rw [if_neg namoMin]
  rw [if_pos h]

theorem amoExch (w : MForm) : Statement (.amoExch w) := by
  refine .word (.m 0xB8 w) rfl (MForm.opc_toWord _ _) (MForm.guard_toWord _ _) rfl (fun h => ?_)
  rw [Raw.toWord, opc_B8 _ (MForm.opc_toWord _ _), MForm.ofWord_toWord]
  have h0 : (w.off.extractLsb' 12 4 == 6) = true := h
  have namoAdd : ¬ Instr.selects (.amoAdd w) = true := show ¬ (w.off.extractLsb' 12 4 == 0) = true by simp_all
  have namoAnd : ¬ Instr.selects (.amoAnd w) = true := show ¬ (w.off.extractLsb' 12 4 == 1) = true by simp_all
  have namoOr : ¬ Instr.selects (.amoOr w) = true := show ¬ (w.off.extractLsb' 12 4 == 2) = true by simp_all
  have namoXor : ¬ Instr.selects (.amoXor w) = true := show ¬ (w.off.extractLsb' 12 4 == 3) = true by simp_all
  have namoMin : ¬ Instr.selects (.amoMin w) = true := show ¬ (w.off.extractLsb' 12 4 == 4) = true by simp_all
  have namoMax : ¬ Instr.selects (.amoMax w) = true := show ¬ (w.off.extractLsb' 12 4 == 5) = true by simp_all
  rw [if_neg namoAdd]
  rw [if_neg namoAnd]
  rw [if_neg namoOr]
  rw [if_neg namoXor]
  rw [if_neg namoMin]
  rw [if_neg namoMax]
  rw [if_pos h]

theorem amoFadd (w : MForm) : Statement (.amoFadd w) := by
  refine .word (.m 0xB8 w) rfl (MForm.opc_toWord _ _) (MForm.guard_toWord _ _) rfl (fun h => ?_)
  rw [Raw.toWord, opc_B8 _ (MForm.opc_toWord _ _), MForm.ofWord_toWord]
  have h0 : (w.off.extractLsb' 12 4 == 7) = true := h
  have namoAdd : ¬ Instr.selects (.amoAdd w) = true := show ¬ (w.off.extractLsb' 12 4 == 0) = true by simp_all
  have namoAnd : ¬ Instr.selects (.amoAnd w) = true := show ¬ (w.off.extractLsb' 12 4 == 1) = true by simp_all
  have namoOr : ¬ Instr.selects (.amoOr w) = true := show ¬ (w.off.extractLsb' 12 4 == 2) = true by simp_all
  have namoXor : ¬ Instr.selects (.amoXor w) = true := show ¬ (w.off.extractLsb' 12 4 == 3) = true by simp_all
  have namoMin : ¬ Instr.selects (.amoMin w) = true := show ¬ (w.off.extractLsb' 12 4 == 4) = true by simp_all
  have namoMax : ¬ Instr.selects (.amoMax w) = true := show ¬ (w.off.extractLsb' 12 4 == 5) = true by simp_all
  have namoExch : ¬ Instr.selects (.amoExch w) = true := show ¬ (w.off.extractLsb' 12 4 == 6) = true by simp_all
  rw [if_neg namoAdd]
  rw [if_neg namoAnd]
  rw [if_neg namoOr]
  rw [if_neg namoXor]
  rw [if_neg namoMin]
  rw [if_neg namoMax]
  rw [if_neg namoExch]
  rw [if_pos h]

theorem redAdd (w : MForm) : Statement (.redAdd w) := by
  refine .word (.m 0xB9 w) rfl (MForm.opc_toWord _ _) (MForm.guard_toWord _ _) rfl (fun h => ?_)
  rw [Raw.toWord, opc_B9 _ (MForm.opc_toWord _ _), MForm.ofWord_toWord]
  rw [if_pos h]

theorem redAnd (w : MForm) : Statement (.redAnd w) := by
  refine .word (.m 0xB9 w) rfl (MForm.opc_toWord _ _) (MForm.guard_toWord _ _) rfl (fun h => ?_)
  rw [Raw.toWord, opc_B9 _ (MForm.opc_toWord _ _), MForm.ofWord_toWord]
  have h0 : (w.off.extractLsb' 12 4 == 1) = true := h
  have nredAdd : ¬ Instr.selects (.redAdd w) = true := show ¬ (w.off.extractLsb' 12 4 == 0) = true by simp_all
  rw [if_neg nredAdd]
  rw [if_pos h]

theorem redOr (w : MForm) : Statement (.redOr w) := by
  refine .word (.m 0xB9 w) rfl (MForm.opc_toWord _ _) (MForm.guard_toWord _ _) rfl (fun h => ?_)
  rw [Raw.toWord, opc_B9 _ (MForm.opc_toWord _ _), MForm.ofWord_toWord]
  have h0 : (w.off.extractLsb' 12 4 == 2) = true := h
  have nredAdd : ¬ Instr.selects (.redAdd w) = true := show ¬ (w.off.extractLsb' 12 4 == 0) = true by simp_all
  have nredAnd : ¬ Instr.selects (.redAnd w) = true := show ¬ (w.off.extractLsb' 12 4 == 1) = true by simp_all
  rw [if_neg nredAdd]
  rw [if_neg nredAnd]
  rw [if_pos h]

theorem redXor (w : MForm) : Statement (.redXor w) := by
  refine .word (.m 0xB9 w) rfl (MForm.opc_toWord _ _) (MForm.guard_toWord _ _) rfl (fun h => ?_)
  rw [Raw.toWord, opc_B9 _ (MForm.opc_toWord _ _), MForm.ofWord_toWord]
  have h0 : (w.off.extractLsb' 12 4 == 3) = true := h
  have nredAdd : ¬ Instr.selects (.redAdd w) = true := show ¬ (w.off.extractLsb' 12 4 == 0) = true by simp_all
  have nredAnd : ¬ Instr.selects (.redAnd w) = true := show ¬ (w.off.extractLsb' 12 4 == 1) = true by simp_all
  have nredOr : ¬ Instr.selects (.redOr w) = true := show ¬ (w.off.extractLsb' 12 4 == 2) = true by simp_all
  rw [if_neg nredAdd]
  rw [if_neg nredAnd]
  rw [if_neg nredOr]
  rw [if_pos h]

theorem redMin (w : MForm) : Statement (.redMin w) := by
  refine .word (.m 0xB9 w) rfl (MForm.opc_toWord _ _) (MForm.guard_toWord _ _) rfl (fun h => ?_)
  rw [Raw.toWord, opc_B9 _ (MForm.opc_toWord _ _), MForm.ofWord_toWord]
  have h0 : (w.off.extractLsb' 12 4 == 4) = true := h
  have nredAdd : ¬ Instr.selects (.redAdd w) = true := show ¬ (w.off.extractLsb' 12 4 == 0) = true by simp_all
  have nredAnd : ¬ Instr.selects (.redAnd w) = true := show ¬ (w.off.extractLsb' 12 4 == 1) = true by simp_all
  have nredOr : ¬ Instr.selects (.redOr w) = true := show ¬ (w.off.extractLsb' 12 4 == 2) = true by simp_all
  have nredXor : ¬ Instr.selects (.redXor w) = true := show ¬ (w.off.extractLsb' 12 4 == 3) = true by simp_all
  rw [if_neg nredAdd]
  rw [if_neg nredAnd]
  rw [if_neg nredOr]
  rw [if_neg nredXor]
  rw [if_pos h]

theorem redMax (w : MForm) : Statement (.redMax w) := by
  refine .word (.m 0xB9 w) rfl (MForm.opc_toWord _ _) (MForm.guard_toWord _ _) rfl (fun h => ?_)
  rw [Raw.toWord, opc_B9 _ (MForm.opc_toWord _ _), MForm.ofWord_toWord]
  have h0 : (w.off.extractLsb' 12 4 == 5) = true := h
  have nredAdd : ¬ Instr.selects (.redAdd w) = true := show ¬ (w.off.extractLsb' 12 4 == 0) = true by simp_all
  have nredAnd : ¬ Instr.selects (.redAnd w) = true := show ¬ (w.off.extractLsb' 12 4 == 1) = true by simp_all
  have nredOr : ¬ Instr.selects (.redOr w) = true := show ¬ (w.off.extractLsb' 12 4 == 2) = true by simp_all
  have nredXor : ¬ Instr.selects (.redXor w) = true := show ¬ (w.off.extractLsb' 12 4 == 3) = true by simp_all
  have nredMin : ¬ Instr.selects (.redMin w) = true := show ¬ (w.off.extractLsb' 12 4 == 4) = true by simp_all
  rw [if_neg nredAdd]
  rw [if_neg nredAnd]
  rw [if_neg nredOr]
  rw [if_neg nredXor]
  rw [if_neg nredMin]
  rw [if_pos h]

theorem redFadd (w : MForm) : Statement (.redFadd w) := by
  refine .word (.m 0xB9 w) rfl (MForm.opc_toWord _ _) (MForm.guard_toWord _ _) rfl (fun h => ?_)
  rw [Raw.toWord, opc_B9 _ (MForm.opc_toWord _ _), MForm.ofWord_toWord]
  have h0 : (w.off.extractLsb' 12 4 == 7) = true := h
  have nredAdd : ¬ Instr.selects (.redAdd w) = true := show ¬ (w.off.extractLsb' 12 4 == 0) = true by simp_all
  have nredAnd : ¬ Instr.selects (.redAnd w) = true := show ¬ (w.off.extractLsb' 12 4 == 1) = true by simp_all
  have nredOr : ¬ Instr.selects (.redOr w) = true := show ¬ (w.off.extractLsb' 12 4 == 2) = true by simp_all
  have nredXor : ¬ Instr.selects (.redXor w) = true := show ¬ (w.off.extractLsb' 12 4 == 3) = true by simp_all
  have nredMin : ¬ Instr.selects (.redMin w) = true := show ¬ (w.off.extractLsb' 12 4 == 4) = true by simp_all
  have nredMax : ¬ Instr.selects (.redMax w) = true := show ¬ (w.off.extractLsb' 12 4 == 5) = true by simp_all
  rw [if_neg nredAdd]
  rw [if_neg nredAnd]
  rw [if_neg nredOr]
  rw [if_neg nredXor]
  rw [if_neg nredMin]
  rw [if_neg nredMax]
  rw [if_pos h]

theorem cas (w : MForm) : Statement (.cas w) := by
  refine .word (.m 0xBA w) rfl (MForm.opc_toWord _ _) (MForm.guard_toWord _ _) rfl (fun _ => ?_)
  rw [Raw.toWord, opc_BA _ (MForm.opc_toWord _ _), MForm.ofWord_toWord]

theorem join (w : MForm) : Statement (.join w) := by
  refine .word (.m 0xBB w) rfl (MForm.opc_toWord _ _) (MForm.guard_toWord _ _) rfl (fun _ => ?_)
  rw [Raw.toWord, opc_BB _ (MForm.opc_toWord _ _), MForm.ofWord_toWord]

theorem ldge (w : MForm) : Statement (.ldge w) := by
  refine .word (.m 0xBC w) rfl (MForm.opc_toWord _ _) (MForm.guard_toWord _ _) rfl (fun _ => ?_)
  rw [Raw.toWord, opc_BC _ (MForm.opc_toWord _ _), MForm.ofWord_toWord]

theorem fenceAcq (w : MForm) : Statement (.fenceAcq w) := by
  refine .word (.m 0xBD w) rfl (MForm.opc_toWord _ _) (MForm.guard_toWord _ _) rfl (fun h => ?_)
  rw [Raw.toWord, opc_BD _ (MForm.opc_toWord _ _), MForm.ofWord_toWord]
  rw [if_pos h]

theorem fenceRel (w : MForm) : Statement (.fenceRel w) := by
  refine .word (.m 0xBD w) rfl (MForm.opc_toWord _ _) (MForm.guard_toWord _ _) rfl (fun h => ?_)
  rw [Raw.toWord, opc_BD _ (MForm.opc_toWord _ _), MForm.ofWord_toWord]
  have h0 : (w.ord == 2 && w.off.extractLsb' 0 1 == 0) = true := h
  have nfenceAcq : ¬ Instr.selects (.fenceAcq w) = true := show ¬ (w.ord == 1 && w.off.extractLsb' 0 1 == 0) = true by simp_all
  rw [if_neg nfenceAcq]
  rw [if_pos h]

theorem fenceAr (w : MForm) : Statement (.fenceAr w) := by
  refine .word (.m 0xBD w) rfl (MForm.opc_toWord _ _) (MForm.guard_toWord _ _) rfl (fun h => ?_)
  rw [Raw.toWord, opc_BD _ (MForm.opc_toWord _ _), MForm.ofWord_toWord]
  have h0 : (w.ord == 3 && w.off.extractLsb' 0 1 == 0) = true := h
  have nfenceAcq : ¬ Instr.selects (.fenceAcq w) = true := show ¬ (w.ord == 1 && w.off.extractLsb' 0 1 == 0) = true by simp_all
  have nfenceRel : ¬ Instr.selects (.fenceRel w) = true := show ¬ (w.ord == 2 && w.off.extractLsb' 0 1 == 0) = true by simp_all
  rw [if_neg nfenceAcq]
  rw [if_neg nfenceRel]
  rw [if_pos h]

theorem fenceSc (w : MForm) : Statement (.fenceSc w) := by
  refine .word (.m 0xBD w) rfl (MForm.opc_toWord _ _) (MForm.guard_toWord _ _) rfl (fun h => ?_)
  rw [Raw.toWord, opc_BD _ (MForm.opc_toWord _ _), MForm.ofWord_toWord]
  have h0 : (w.ord == 3 && w.off.extractLsb' 0 1 == 1) = true := h
  have nfenceAcq : ¬ Instr.selects (.fenceAcq w) = true := show ¬ (w.ord == 1 && w.off.extractLsb' 0 1 == 0) = true by simp_all
  have nfenceRel : ¬ Instr.selects (.fenceRel w) = true := show ¬ (w.ord == 2 && w.off.extractLsb' 0 1 == 0) = true by simp_all
  have nfenceAr : ¬ Instr.selects (.fenceAr w) = true := show ¬ (w.ord == 3 && w.off.extractLsb' 0 1 == 0) = true by simp_all
  rw [if_neg nfenceAcq]
  rw [if_neg nfenceRel]
  rw [if_neg nfenceAr]
  rw [if_pos h]

theorem sread (w : MForm) : Statement (.sread w) := by
  refine .word (.m 0xBE w) rfl (MForm.opc_toWord _ _) (MForm.guard_toWord _ _) rfl (fun _ => ?_)
  rw [Raw.toWord, opc_BE _ (MForm.opc_toWord _ _), MForm.ofWord_toWord]

theorem swrite (w : MForm) : Statement (.swrite w) := by
  refine .word (.m 0xBF w) rfl (MForm.opc_toWord _ _) (MForm.guard_toWord _ _) rfl (fun _ => ?_)
  rw [Raw.toWord, opc_BF _ (MForm.opc_toWord _ _), MForm.ofWord_toWord]

theorem sreadx (w : MForm) : Statement (.sreadx w) := by
  refine .word (.m 0xC0 w) rfl (MForm.opc_toWord _ _) (MForm.guard_toWord _ _) rfl (fun _ => ?_)
  rw [Raw.toWord, opc_C0 _ (MForm.opc_toWord _ _), MForm.ofWord_toWord]

theorem swritex (w : MForm) : Statement (.swritex w) := by
  refine .word (.m 0xC1 w) rfl (MForm.opc_toWord _ _) (MForm.guard_toWord _ _) rfl (fun _ => ?_)
  rw [Raw.toWord, opc_C1 _ (MForm.opc_toWord _ _), MForm.ofWord_toWord]

theorem sbcast (w : MForm) : Statement (.sbcast w) := by
  refine .word (.m 0xC2 w) rfl (MForm.opc_toWord _ _) (MForm.guard_toWord _ _) rfl (fun _ => ?_)
  rw [Raw.toWord, opc_C2 _ (MForm.opc_toWord _ _), MForm.ofWord_toWord]

theorem cvtaGal (w : RForm) : Statement (.cvtaGal w) := by
  refine .word (.r 0xC4 w) rfl (RForm.opc_toWord _ _) (RForm.guard_toWord _ _) rfl (fun h => ?_)
  rw [Raw.toWord, opc_C4 _ (RForm.opc_toWord _ _), RForm.ofWord_toWord]
  rw [if_pos h]

theorem cvtaOwn (w : RForm) : Statement (.cvtaOwn w) := by
  refine .word (.r 0xC4 w) rfl (RForm.opc_toWord _ _) (RForm.guard_toWord _ _) rfl (fun h => ?_)
  rw [Raw.toWord, opc_C4 _ (RForm.opc_toWord _ _), RForm.ofWord_toWord]
  have h0 : (w.fn == 1) = true := h
  have ncvtaGal : ¬ Instr.selects (.cvtaGal w) = true := show ¬ (w.fn == 0) = true by simp_all
  rw [if_neg ncvtaGal]
  rw [if_pos h]

theorem cvtaCore (w : RForm) : Statement (.cvtaCore w) := by
  refine .word (.r 0xC4 w) rfl (RForm.opc_toWord _ _) (RForm.guard_toWord _ _) rfl (fun h => ?_)
  rw [Raw.toWord, opc_C4 _ (RForm.opc_toWord _ _), RForm.ofWord_toWord]
  have h0 : (w.fn == 2) = true := h
  have ncvtaGal : ¬ Instr.selects (.cvtaGal w) = true := show ¬ (w.fn == 0) = true by simp_all
  have ncvtaOwn : ¬ Instr.selects (.cvtaOwn w) = true := show ¬ (w.fn == 1) = true by simp_all
  rw [if_neg ncvtaGal]
  rw [if_neg ncvtaOwn]
  rw [if_pos h]

theorem cvtaOff (w : RForm) : Statement (.cvtaOff w) := by
  refine .word (.r 0xC4 w) rfl (RForm.opc_toWord _ _) (RForm.guard_toWord _ _) rfl (fun h => ?_)
  rw [Raw.toWord, opc_C4 _ (RForm.opc_toWord _ _), RForm.ofWord_toWord]
  have h0 : (w.fn == 3) = true := h
  have ncvtaGal : ¬ Instr.selects (.cvtaGal w) = true := show ¬ (w.fn == 0) = true by simp_all
  have ncvtaOwn : ¬ Instr.selects (.cvtaOwn w) = true := show ¬ (w.fn == 1) = true by simp_all
  have ncvtaCore : ¬ Instr.selects (.cvtaCore w) = true := show ¬ (w.fn == 2) = true by simp_all
  rw [if_neg ncvtaGal]
  rw [if_neg ncvtaOwn]
  rw [if_neg ncvtaCore]
  rw [if_pos h]

theorem inapGlob (w : RForm) : Statement (.inapGlob w) := by
  refine .word (.r 0xC5 w) rfl (RForm.opc_toWord _ _) (RForm.guard_toWord _ _) rfl (fun h => ?_)
  rw [Raw.toWord, opc_C5 _ (RForm.opc_toWord _ _), RForm.ofWord_toWord]
  rw [if_pos h]

theorem inapSrf (w : RForm) : Statement (.inapSrf w) := by
  refine .word (.r 0xC5 w) rfl (RForm.opc_toWord _ _) (RForm.guard_toWord _ _) rfl (fun h => ?_)
  rw [Raw.toWord, opc_C5 _ (RForm.opc_toWord _ _), RForm.ofWord_toWord]
  have h0 : (w.fn == 1) = true := h
  have ninapGlob : ¬ Instr.selects (.inapGlob w) = true := show ¬ (w.fn == 0) = true by simp_all
  rw [if_neg ninapGlob]
  rw [if_pos h]

theorem inapGal (w : RForm) : Statement (.inapGal w) := by
  refine .word (.r 0xC5 w) rfl (RForm.opc_toWord _ _) (RForm.guard_toWord _ _) rfl (fun h => ?_)
  rw [Raw.toWord, opc_C5 _ (RForm.opc_toWord _ _), RForm.ofWord_toWord]
  have h0 : (w.fn == 2) = true := h
  have ninapGlob : ¬ Instr.selects (.inapGlob w) = true := show ¬ (w.fn == 0) = true by simp_all
  have ninapSrf : ¬ Instr.selects (.inapSrf w) = true := show ¬ (w.fn == 1) = true by simp_all
  rw [if_neg ninapGlob]
  rw [if_neg ninapSrf]
  rw [if_pos h]

theorem inapLocal (w : RForm) : Statement (.inapLocal w) := by
  refine .word (.r 0xC5 w) rfl (RForm.opc_toWord _ _) (RForm.guard_toWord _ _) rfl (fun h => ?_)
  rw [Raw.toWord, opc_C5 _ (RForm.opc_toWord _ _), RForm.ofWord_toWord]
  have h0 : (w.fn == 3) = true := h
  have ninapGlob : ¬ Instr.selects (.inapGlob w) = true := show ¬ (w.fn == 0) = true by simp_all
  have ninapSrf : ¬ Instr.selects (.inapSrf w) = true := show ¬ (w.fn == 1) = true by simp_all
  have ninapGal : ¬ Instr.selects (.inapGal w) = true := show ¬ (w.fn == 2) = true by simp_all
  rw [if_neg ninapGlob]
  rw [if_neg ninapSrf]
  rw [if_neg ninapGal]
  rw [if_pos h]

theorem barArrive (w : IForm) : Statement (.barArrive w) := by
  refine .word (.i 0xC6 w) rfl (IForm.opc_toWord _ _) (IForm.guard_toWord _ _) rfl (fun h => ?_)
  rw [Raw.toWord, opc_C6 _ (IForm.opc_toWord _ _), IForm.ofWord_toWord]
  rw [if_pos h]

theorem barWait (w : IForm) : Statement (.barWait w) := by
  refine .word (.i 0xC6 w) rfl (IForm.opc_toWord _ _) (IForm.guard_toWord _ _) rfl (fun h => ?_)
  rw [Raw.toWord, opc_C6 _ (IForm.opc_toWord _ _), IForm.ofWord_toWord]
  have h0 : (w.fn.extractLsb' 0 2 == 1) = true := h
  have nbarArrive : ¬ Instr.selects (.barArrive w) = true := show ¬ (w.fn.extractLsb' 0 2 == 0) = true by simp_all
  rw [if_neg nbarArrive]
  rw [if_pos h]

theorem barSync (w : IForm) : Statement (.barSync w) := by
  refine .word (.i 0xC6 w) rfl (IForm.opc_toWord _ _) (IForm.guard_toWord _ _) rfl (fun h => ?_)
  rw [Raw.toWord, opc_C6 _ (IForm.opc_toWord _ _), IForm.ofWord_toWord]
  have h0 : (w.fn.extractLsb' 0 2 == 2) = true := h
  have nbarArrive : ¬ Instr.selects (.barArrive w) = true := show ¬ (w.fn.extractLsb' 0 2 == 0) = true by simp_all
  have nbarWait : ¬ Instr.selects (.barWait w) = true := show ¬ (w.fn.extractLsb' 0 2 == 1) = true by simp_all
  rw [if_neg nbarArrive]
  rw [if_neg nbarWait]
  rw [if_pos h]

theorem cacheIall (w : RForm) : Statement (.cacheIall w) := by
  refine .word (.r 0xC7 w) rfl (RForm.opc_toWord _ _) (RForm.guard_toWord _ _) rfl (fun h => ?_)
  rw [Raw.toWord, opc_C7 _ (RForm.opc_toWord _ _), RForm.ofWord_toWord]
  rw [if_pos h]

theorem cacheIline (w : RForm) : Statement (.cacheIline w) := by
  refine .word (.r 0xC7 w) rfl (RForm.opc_toWord _ _) (RForm.guard_toWord _ _) rfl (fun h => ?_)
  rw [Raw.toWord, opc_C7 _ (RForm.opc_toWord _ _), RForm.ofWord_toWord]
  have h0 : (w.fn == 1) = true := h
  have ncacheIall : ¬ Instr.selects (.cacheIall w) = true := show ¬ (w.fn == 0) = true by simp_all
  rw [if_neg ncacheIall]
  rw [if_pos h]

theorem cacheDline (w : RForm) : Statement (.cacheDline w) := by
  refine .word (.r 0xC7 w) rfl (RForm.opc_toWord _ _) (RForm.guard_toWord _ _) rfl (fun h => ?_)
  rw [Raw.toWord, opc_C7 _ (RForm.opc_toWord _ _), RForm.ofWord_toWord]
  have h0 : (w.fn == 2) = true := h
  have ncacheIall : ¬ Instr.selects (.cacheIall w) = true := show ¬ (w.fn == 0) = true by simp_all
  have ncacheIline : ¬ Instr.selects (.cacheIline w) = true := show ¬ (w.fn == 1) = true by simp_all
  rw [if_neg ncacheIall]
  rw [if_neg ncacheIline]
  rw [if_pos h]

theorem cacheDall (w : RForm) : Statement (.cacheDall w) := by
  refine .word (.r 0xC7 w) rfl (RForm.opc_toWord _ _) (RForm.guard_toWord _ _) rfl (fun h => ?_)
  rw [Raw.toWord, opc_C7 _ (RForm.opc_toWord _ _), RForm.ofWord_toWord]
  have h0 : (w.fn == 3) = true := h
  have ncacheIall : ¬ Instr.selects (.cacheIall w) = true := show ¬ (w.fn == 0) = true by simp_all
  have ncacheIline : ¬ Instr.selects (.cacheIline w) = true := show ¬ (w.fn == 1) = true by simp_all
  have ncacheDline : ¬ Instr.selects (.cacheDline w) = true := show ¬ (w.fn == 2) = true by simp_all
  rw [if_neg ncacheIall]
  rw [if_neg ncacheIline]
  rw [if_neg ncacheDline]
  rw [if_pos h]

theorem tlbiAll (w : RForm) : Statement (.tlbiAll w) := by
  refine .word (.r 0xC8 w) rfl (RForm.opc_toWord _ _) (RForm.guard_toWord _ _) rfl (fun h => ?_)
  rw [Raw.toWord, opc_C8 _ (RForm.opc_toWord _ _), RForm.ofWord_toWord]
  rw [if_pos h]

theorem tlbiAsid (w : RForm) : Statement (.tlbiAsid w) := by
  refine .word (.r 0xC8 w) rfl (RForm.opc_toWord _ _) (RForm.guard_toWord _ _) rfl (fun h => ?_)
  rw [Raw.toWord, opc_C8 _ (RForm.opc_toWord _ _), RForm.ofWord_toWord]
  have h0 : (w.fn.extractLsb' 0 2 == 1) = true := h
  have ntlbiAll : ¬ Instr.selects (.tlbiAll w) = true := show ¬ (w.fn.extractLsb' 0 2 == 0) = true by simp_all
  rw [if_neg ntlbiAll]
  rw [if_pos h]

theorem tlbiPage (w : RForm) : Statement (.tlbiPage w) := by
  refine .word (.r 0xC8 w) rfl (RForm.opc_toWord _ _) (RForm.guard_toWord _ _) rfl (fun h => ?_)
  rw [Raw.toWord, opc_C8 _ (RForm.opc_toWord _ _), RForm.ofWord_toWord]
  have h0 : (w.fn.extractLsb' 0 2 == 2) = true := h
  have ntlbiAll : ¬ Instr.selects (.tlbiAll w) = true := show ¬ (w.fn.extractLsb' 0 2 == 0) = true by simp_all
  have ntlbiAsid : ¬ Instr.selects (.tlbiAsid w) = true := show ¬ (w.fn.extractLsb' 0 2 == 1) = true by simp_all
  rw [if_neg ntlbiAll]
  rw [if_neg ntlbiAsid]
  rw [if_pos h]

theorem tlbiRange (w : RForm) : Statement (.tlbiRange w) := by
  refine .word (.r 0xC8 w) rfl (RForm.opc_toWord _ _) (RForm.guard_toWord _ _) rfl (fun h => ?_)
  rw [Raw.toWord, opc_C8 _ (RForm.opc_toWord _ _), RForm.ofWord_toWord]
  have h0 : (w.fn.extractLsb' 0 2 == 3) = true := h
  have ntlbiAll : ¬ Instr.selects (.tlbiAll w) = true := show ¬ (w.fn.extractLsb' 0 2 == 0) = true by simp_all
  have ntlbiAsid : ¬ Instr.selects (.tlbiAsid w) = true := show ¬ (w.fn.extractLsb' 0 2 == 1) = true by simp_all
  have ntlbiPage : ¬ Instr.selects (.tlbiPage w) = true := show ¬ (w.fn.extractLsb' 0 2 == 2) = true by simp_all
  rw [if_neg ntlbiAll]
  rw [if_neg ntlbiAsid]
  rw [if_neg ntlbiPage]
  rw [if_pos h]

theorem sload (w : SForm) : Statement (.sload w) := by
  refine .word (.s 0xD0 w) rfl (SForm.opc_toWord _ _) (SForm.guard_toWord _ _) rfl (fun _ => ?_)
  rw [Raw.toWord, opc_D0 _ (SForm.opc_toWord _ _), SForm.ofWord_toWord]

theorem sstore (w : SForm) : Statement (.sstore w) := by
  refine .word (.s 0xD1 w) rfl (SForm.opc_toWord _ _) (SForm.guard_toWord _ _) rfl (fun _ => ?_)
  rw [Raw.toWord, opc_D1 _ (SForm.opc_toWord _ _), SForm.ofWord_toWord]

theorem stileRd (w : SForm) : Statement (.stileRd w) := by
  refine .word (.s 0xD2 w) rfl (SForm.opc_toWord _ _) (SForm.guard_toWord _ _) rfl (fun h => ?_)
  rw [Raw.toWord, opc_D2 _ (SForm.opc_toWord _ _), SForm.ofWord_toWord]
  rw [if_pos h]

theorem stileWr (w : SForm) : Statement (.stileWr w) := by
  refine .word (.s 0xD2 w) rfl (SForm.opc_toWord _ _) (SForm.guard_toWord _ _) rfl (fun h => ?_)
  rw [Raw.toWord, opc_D2 _ (SForm.opc_toWord _ _), SForm.ofWord_toWord]
  have h0 : (w.fn.extractLsb' 0 1 == 1) = true := h
  have nstileRd : ¬ Instr.selects (.stileRd w) = true := show ¬ (w.fn.extractLsb' 0 1 == 0) = true by simp_all
  rw [if_neg nstileRd]
  rw [if_pos h]

theorem scopy (w : SForm) : Statement (.scopy w) := by
  refine .word (.s 0xD3 w) rfl (SForm.opc_toWord _ _) (SForm.guard_toWord _ _) rfl (fun h => ?_)
  rw [Raw.toWord, opc_D3 _ (SForm.opc_toWord _ _), SForm.ofWord_toWord]
  rw [if_pos h]

theorem scopyR (w : SForm) : Statement (.scopyR w) := by
  refine .word (.s 0xD3 w) rfl (SForm.opc_toWord _ _) (SForm.guard_toWord _ _) rfl (fun h => ?_)
  rw [Raw.toWord, opc_D3 _ (SForm.opc_toWord _ _), SForm.ofWord_toWord]
  have h0 : (w.fn.extractLsb' 0 2 == 1) = true := h
  have nscopy : ¬ Instr.selects (.scopy w) = true := show ¬ (w.fn.extractLsb' 0 2 == 0) = true by simp_all
  rw [if_neg nscopy]
  rw [if_pos h]

theorem scopyM (w : SForm) : Statement (.scopyM w) := by
  refine .word (.s 0xD3 w) rfl (SForm.opc_toWord _ _) (SForm.guard_toWord _ _) rfl (fun h => ?_)
  rw [Raw.toWord, opc_D3 _ (SForm.opc_toWord _ _), SForm.ofWord_toWord]
  have h0 : (w.fn.extractLsb' 0 2 == 2) = true := h
  have nscopy : ¬ Instr.selects (.scopy w) = true := show ¬ (w.fn.extractLsb' 0 2 == 0) = true by simp_all
  have nscopyR : ¬ Instr.selects (.scopyR w) = true := show ¬ (w.fn.extractLsb' 0 2 == 1) = true by simp_all
  rw [if_neg nscopy]
  rw [if_neg nscopyR]
  rw [if_pos h]

theorem sfill (w : SForm) : Statement (.sfill w) := by
  refine .word (.s 0xD4 w) rfl (SForm.opc_toWord _ _) (SForm.guard_toWord _ _) rfl (fun h => ?_)
  rw [Raw.toWord, opc_D4 _ (SForm.opc_toWord _ _), SForm.ofWord_toWord]
  rw [if_pos h]

theorem sfillR (w : SForm) : Statement (.sfillR w) := by
  refine .word (.s 0xD4 w) rfl (SForm.opc_toWord _ _) (SForm.guard_toWord _ _) rfl (fun h => ?_)
  rw [Raw.toWord, opc_D4 _ (SForm.opc_toWord _ _), SForm.ofWord_toWord]
  have h0 : (w.fn.extractLsb' 0 2 == 1) = true := h
  have nsfill : ¬ Instr.selects (.sfill w) = true := show ¬ (w.fn.extractLsb' 0 2 == 0) = true by simp_all
  rw [if_neg nsfill]
  rw [if_pos h]

theorem sfillM (w : SForm) : Statement (.sfillM w) := by
  refine .word (.s 0xD4 w) rfl (SForm.opc_toWord _ _) (SForm.guard_toWord _ _) rfl (fun h => ?_)
  rw [Raw.toWord, opc_D4 _ (SForm.opc_toWord _ _), SForm.ofWord_toWord]
  have h0 : (w.fn.extractLsb' 0 2 == 2) = true := h
  have nsfill : ¬ Instr.selects (.sfill w) = true := show ¬ (w.fn.extractLsb' 0 2 == 0) = true by simp_all
  have nsfillR : ¬ Instr.selects (.sfillR w) = true := show ¬ (w.fn.extractLsb' 0 2 == 1) = true by simp_all
  rw [if_neg nsfill]
  rw [if_neg nsfillR]
  rw [if_pos h]

theorem sgather (w : SForm) : Statement (.sgather w) := by
  refine .word (.s 0xD5 w) rfl (SForm.opc_toWord _ _) (SForm.guard_toWord _ _) rfl (fun _ => ?_)
  rw [Raw.toWord, opc_D5 _ (SForm.opc_toWord _ _), SForm.ofWord_toWord]

theorem sscadd (w : SForm) : Statement (.sscadd w) := by
  refine .word (.s 0xD6 w) rfl (SForm.opc_toWord _ _) (SForm.guard_toWord _ _) rfl (fun _ => ?_)
  rw [Raw.toWord, opc_D6 _ (SForm.opc_toWord _ _), SForm.ofWord_toWord]

theorem srecv (w : SForm) : Statement (.srecv w) := by
  refine .word (.s 0xD7 w) rfl (SForm.opc_toWord _ _) (SForm.guard_toWord _ _) rfl (fun _ => ?_)
  rw [Raw.toWord, opc_D7 _ (SForm.opc_toWord _ _), SForm.ofWord_toWord]

theorem krun (w : SForm) : Statement (.krun w) := by
  refine .word (.s 0xD8 w) rfl (SForm.opc_toWord _ _) (SForm.guard_toWord _ _) rfl (fun _ => ?_)
  rw [Raw.toWord, opc_D8 _ (SForm.opc_toWord _ _), SForm.ofWord_toWord]

theorem kwait (w : SForm) : Statement (.kwait w) := by
  refine .word (.s 0xD9 w) rfl (SForm.opc_toWord _ _) (SForm.guard_toWord _ _) rfl (fun h => ?_)
  rw [Raw.toWord, opc_D9 _ (SForm.opc_toWord _ _), SForm.ofWord_toWord]
  rw [if_pos h]

theorem kresume (w : SForm) : Statement (.kresume w) := by
  refine .word (.s 0xDA w) rfl (SForm.opc_toWord _ _) (SForm.guard_toWord _ _) rfl (fun h => ?_)
  rw [Raw.toWord, opc_DA _ (SForm.opc_toWord _ _), SForm.ofWord_toWord]
  rw [if_pos h]

theorem kresumeAbort (w : SForm) : Statement (.kresumeAbort w) := by
  refine .word (.s 0xDA w) rfl (SForm.opc_toWord _ _) (SForm.guard_toWord _ _) rfl (fun h => ?_)
  rw [Raw.toWord, opc_DA _ (SForm.opc_toWord _ _), SForm.ofWord_toWord]
  have h0 : (w.fn == 1) = true := h
  have nkresume : ¬ Instr.selects (.kresume w) = true := show ¬ (w.fn == 0) = true by simp_all
  rw [if_neg nkresume]
  rw [if_pos h]

theorem swait (w : SForm) : Statement (.swait w) := by
  refine .word (.s 0xDB w) rfl (SForm.opc_toWord _ _) (SForm.guard_toWord _ _) rfl (fun h => ?_)
  rw [Raw.toWord, opc_DB _ (SForm.opc_toWord _ _), SForm.ofWord_toWord]
  rw [if_pos h]

theorem swaitTest (w : SForm) : Statement (.swaitTest w) := by
  refine .word (.s 0xDB w) rfl (SForm.opc_toWord _ _) (SForm.guard_toWord _ _) rfl (fun h => ?_)
  rw [Raw.toWord, opc_DB _ (SForm.opc_toWord _ _), SForm.ofWord_toWord]
  have h0 : (w.te == 1 && w.fn == 1) = true := h
  have nswait : ¬ Instr.selects (.swait w) = true := show ¬ (w.te == 1 && w.fn == 0) = true by simp_all
  rw [if_neg nswait]
  rw [if_pos h]

theorem swaitAll (w : SForm) : Statement (.swaitAll w) := by
  refine .word (.s 0xDB w) rfl (SForm.opc_toWord _ _) (SForm.guard_toWord _ _) rfl (fun h => ?_)
  rw [Raw.toWord, opc_DB _ (SForm.opc_toWord _ _), SForm.ofWord_toWord]
  have h0 : (w.te == 0 && w.fn == 2) = true := h
  have nswait : ¬ Instr.selects (.swait w) = true := show ¬ (w.te == 1 && w.fn == 0) = true by simp_all
  have nswaitTest : ¬ Instr.selects (.swaitTest w) = true := show ¬ (w.te == 1 && w.fn == 1) = true by simp_all
  rw [if_neg nswait]
  rw [if_neg nswaitTest]
  rw [if_pos h]

theorem barvArm (w : SForm) : Statement (.barvArm w) := by
  refine .word (.s 0xDC w) rfl (SForm.opc_toWord _ _) (SForm.guard_toWord _ _) rfl (fun h => ?_)
  rw [Raw.toWord, opc_DC _ (SForm.opc_toWord _ _), SForm.ofWord_toWord]
  rw [if_pos h]

theorem barvArrive (w : SForm) : Statement (.barvArrive w) := by
  refine .word (.s 0xDC w) rfl (SForm.opc_toWord _ _) (SForm.guard_toWord _ _) rfl (fun h => ?_)
  rw [Raw.toWord, opc_DC _ (SForm.opc_toWord _ _), SForm.ofWord_toWord]
  have h0 : (w.fn == 1) = true := h
  have nbarvArm : ¬ Instr.selects (.barvArm w) = true := show ¬ (w.fn == 0) = true by simp_all
  rw [if_neg nbarvArm]
  rw [if_pos h]

theorem barvWait (w : SForm) : Statement (.barvWait w) := by
  refine .word (.s 0xDC w) rfl (SForm.opc_toWord _ _) (SForm.guard_toWord _ _) rfl (fun h => ?_)
  rw [Raw.toWord, opc_DC _ (SForm.opc_toWord _ _), SForm.ofWord_toWord]
  have h0 : (w.fn == 2) = true := h
  have nbarvArm : ¬ Instr.selects (.barvArm w) = true := show ¬ (w.fn == 0) = true by simp_all
  have nbarvArrive : ¬ Instr.selects (.barvArrive w) = true := show ¬ (w.fn == 1) = true by simp_all
  rw [if_neg nbarvArm]
  rw [if_neg nbarvArrive]
  rw [if_pos h]

theorem sdgetW0 (w : SForm) : Statement (.sdgetW0 w) := by
  refine .word (.s 0xDD w) rfl (SForm.opc_toWord _ _) (SForm.guard_toWord _ _) rfl (fun h => ?_)
  rw [Raw.toWord, opc_DD _ (SForm.opc_toWord _ _), SForm.ofWord_toWord]
  rw [if_pos h]

theorem sdgetW1 (w : SForm) : Statement (.sdgetW1 w) := by
  refine .word (.s 0xDD w) rfl (SForm.opc_toWord _ _) (SForm.guard_toWord _ _) rfl (fun h => ?_)
  rw [Raw.toWord, opc_DD _ (SForm.opc_toWord _ _), SForm.ofWord_toWord]
  have h0 : (w.fn == 1) = true := h
  have nsdgetW0 : ¬ Instr.selects (.sdgetW0 w) = true := show ¬ (w.fn == 0) = true by simp_all
  rw [if_neg nsdgetW0]
  rw [if_pos h]

theorem sdputW0 (w : SForm) : Statement (.sdputW0 w) := by
  refine .word (.s 0xDD w) rfl (SForm.opc_toWord _ _) (SForm.guard_toWord _ _) rfl (fun h => ?_)
  rw [Raw.toWord, opc_DD _ (SForm.opc_toWord _ _), SForm.ofWord_toWord]
  have h0 : (w.fn == 2) = true := h
  have nsdgetW0 : ¬ Instr.selects (.sdgetW0 w) = true := show ¬ (w.fn == 0) = true by simp_all
  have nsdgetW1 : ¬ Instr.selects (.sdgetW1 w) = true := show ¬ (w.fn == 1) = true by simp_all
  rw [if_neg nsdgetW0]
  rw [if_neg nsdgetW1]
  rw [if_pos h]

theorem sdputW1 (w : SForm) : Statement (.sdputW1 w) := by
  refine .word (.s 0xDD w) rfl (SForm.opc_toWord _ _) (SForm.guard_toWord _ _) rfl (fun h => ?_)
  rw [Raw.toWord, opc_DD _ (SForm.opc_toWord _ _), SForm.ofWord_toWord]
  have h0 : (w.fn == 3) = true := h
  have nsdgetW0 : ¬ Instr.selects (.sdgetW0 w) = true := show ¬ (w.fn == 0) = true by simp_all
  have nsdgetW1 : ¬ Instr.selects (.sdgetW1 w) = true := show ¬ (w.fn == 1) = true by simp_all
  have nsdputW0 : ¬ Instr.selects (.sdputW0 w) = true := show ¬ (w.fn == 2) = true by simp_all
  rw [if_neg nsdgetW0]
  rw [if_neg nsdgetW1]
  rw [if_neg nsdputW0]
  rw [if_pos h]

theorem sdrec (w : SForm) : Statement (.sdrec w) := by
  refine .word (.s 0xDE w) rfl (SForm.opc_toWord _ _) (SForm.guard_toWord _ _) rfl (fun h => ?_)
  rw [Raw.toWord, opc_DE _ (SForm.opc_toWord _ _), SForm.ofWord_toWord]
  rw [if_pos h]

theorem snop (w : SForm) : Statement (.snop w) := by
  refine .word (.s 0xDF w) rfl (SForm.opc_toWord _ _) (SForm.guard_toWord _ _) rfl (fun _ => ?_)
  rw [Raw.toWord, opc_DF _ (SForm.opc_toWord _ _), SForm.ofWord_toWord]

theorem takeTrap (core : Nat) : Statement (.takeTrap core) := .event rfl

theorem kernelBundleIssue (core : Nat) : Statement (.kernelBundleIssue core) := .event rfl

theorem fixedLatencyWrite (core : Nat) : Statement (.fixedLatencyWrite core) := .event rfl

theorem landing (core : Nat) : Statement (.landing core) := .event rfl

theorem landingDataArrival (core : Nat) (entry : Nat) (lost : Bool) : Statement (.landingDataArrival core entry lost) := .event rfl

theorem writeQueueAck (core : Nat) (entry : Nat) (lost : Bool) : Statement (.writeQueueAck core entry lost) := .event rfl

theorem lateFault (core : Nat) : Statement (.lateFault core) := .event rfl

theorem tmmaPassComplete (core : Nat) : Statement (.tmmaPassComplete core) := .event rfl

theorem transformComplete (core : Nat) : Statement (.transformComplete core) := .event rfl

theorem kernelStart (core : Nat) : Statement (.kernelStart core) := .event rfl

theorem kernelEnd (core : Nat) : Statement (.kernelEnd core) := .event rfl

theorem barrierArrivalCounted (core : Nat) : Statement (.barrierArrivalCounted core) := .event rfl

theorem waitWatchdogExpiry (core : Nat) (kernel : Bool) : Statement (.waitWatchdogExpiry core kernel) := .event rfl

theorem thresholdTimeoutExpiry (core : Nat) (entry : Option Nat) : Statement (.thresholdTimeoutExpiry core entry) := .event rfl

theorem stealRequest (thief : Nat) (victim : Nat) (launchId : Nat) : Statement (.stealRequest thief victim launchId) := .event rfl

theorem stealReturn (thief : Nat) (launchId : Nat) : Statement (.stealReturn thief launchId) := .event rfl

theorem scoreboardIssue (core : Nat) : Statement (.scoreboardIssue core) := .event rfl

theorem engineComplete (core : Nat) (seq : Nat) : Statement (.engineComplete core seq) := .event rfl

theorem gatePass (core : Nat) (seq : Nat) : Statement (.gatePass core seq) := .event rfl

theorem gateWatchdogExpiry (core : Nat) (seq : Nat) : Statement (.gateWatchdogExpiry core seq) := .event rfl

theorem tileRequest (core : Nat) (seq : Nat) : Statement (.tileRequest core seq) := .event rfl

theorem launch (queue : Nat) : Statement (.launch queue) := .event rfl

theorem grantGroup (launchId : Nat) (die : Nat) (base : Nat) : Statement (.grantGroup launchId die base) := .event rfl

theorem launchComplete (launchId : Nat) : Statement (.launchComplete launchId) := .event rfl

theorem barrierPacket (queue : Nat) : Statement (.barrierPacket queue) := .event rfl

theorem codePacket (queue : Nat) : Statement (.codePacket queue) := .event rfl

theorem unloadPacket (queue : Nat) : Statement (.unloadPacket queue) := .event rfl

theorem signalPacket (queue : Nat) : Statement (.signalPacket queue) := .event rfl

theorem qwriteWrite (queue : Nat) (value : Word) : Statement (.qwriteWrite queue value) := .event rfl

theorem qctlEnable (queue : Nat) (value : Word) : Statement (.qctlEnable queue value) := .event rfl

theorem preemptHold (value : Word) : Statement (.preemptHold value) := .event rfl

theorem preemptRelease (value : Word) : Statement (.preemptRelease value) := .event rfl

theorem keyWrite (value : Word) : Statement (.keyWrite value) := .event rfl

theorem keyEmpty (value : Word) : Statement (.keyEmpty value) := .event rfl

theorem keyQuery (value : Word) : Statement (.keyQuery value) := .event rfl

theorem keyOpDone : Statement (.keyOpDone) := .event rfl

theorem moduleStart (value : Word) (retained : Bool) : Statement (.moduleStart value retained) := .event rfl

theorem startStepComplete (ok : Bool) : Statement (.startStepComplete ok) := .event rfl

theorem registerWrite (offset : Nat) (value : Word) : Statement (.registerWrite offset value) := .event rfl

theorem preemptRequest (launchId : Nat) (die : Nat) (base : Nat) : Statement (.preemptRequest launchId die base) := .event rfl

theorem graceExpiry (core : Nat) : Statement (.graceExpiry core) := .event rfl

theorem save (core : Nat) : Statement (.save core) := .event rfl

theorem saveWrite (core : Nat) : Statement (.saveWrite core) := .event rfl

theorem restore (core : Nat) : Statement (.restore core) := .event rfl

theorem restoreGrant (launchId : Nat) (die : Nat) (base : Nat) : Statement (.restoreGrant launchId die base) := .event rfl

theorem quiesce (stack : Nat) (value : Word) : Statement (.quiesce stack value) := .event rfl

theorem hsmaskWrite (stack : Nat) (index : Nat) (value : Word) : Statement (.hsmaskWrite stack index value) := .event rfl

theorem maskerrClear (stack : Nat) (value : Word) : Statement (.maskerrClear stack value) := .event rfl

theorem heartbeat (stack : Nat) : Statement (.heartbeat stack) := .event rfl

theorem heartbeatMissed (stack : Nat) : Statement (.heartbeatMissed stack) := .event rfl

theorem takeoverAck (stack : Nat) : Statement (.takeoverAck stack) := .event rfl

theorem refreshWindowExpiry (stack : Nat) : Statement (.refreshWindowExpiry stack) := .event rfl

theorem poisonDetect (err : EccError) (place : Nat) : Statement (.poisonDetect err place) := .event rfl

theorem writebackFailure (stack : Nat) (offset : Nat) (core : Option Nat) : Statement (.writebackFailure stack offset core) := .event rfl

theorem selftest (unit : ErrUnit) : Statement (.selftest unit) := .event rfl

theorem selftestComplete (unit : ErrUnit) (pass : Bool) : Statement (.selftestComplete unit pass) := .event rfl

theorem groupAbortExpiry (core : Nat) : Statement (.groupAbortExpiry core) := .event rfl

theorem bridgeFailure (die : Nat) : Statement (.bridgeFailure die) := .event rfl

theorem remoteRequest (req : RemoteReq) : Statement (.remoteRequest req) := .event rfl

theorem remoteTimeoutExpiry (core : Nat) (entry : Option Nat) : Statement (.remoteTimeoutExpiry core entry) := .event rfl

theorem lrtEnable (entry : Nat) (value : Word) : Statement (.lrtEnable entry value) := .event rfl

theorem lrtDisable (entry : Nat) (value : Word) : Statement (.lrtDisable entry value) := .event rfl

theorem exchangeRoundBegin (entry : Nat) (replica : Nat) : Statement (.exchangeRoundBegin entry replica) := .event rfl

theorem exchange (entry : Nat) (replica : Nat) : Statement (.exchange entry replica) := .event rfl

theorem exchangeFailure (entry : Nat) (replica : Nat) : Statement (.exchangeFailure entry replica) := .event rfl

theorem frameReceive (port : Nat) (frame : Frame) : Statement (.frameReceive port frame) := .event rfl

theorem ringBind (port : Nat) (ring : Nat) (value : Word) : Statement (.ringBind port ring value) := .event rfl

theorem counterClear (port : Nat) (ring : Option Nat) (counter : Nat) (value : Word) : Statement (.counterClear port ring counter value) := .event rfl

theorem prgResponse (tag : Nat) (code : Nat) : Statement (.prgResponse tag code) := .event rfl

theorem atsInvalidate (asid : Nat) (va : Word) : Statement (.atsInvalidate asid va) := .event rfl

theorem lineCommit (line : LineHome) (new : Nat) (commit : Bool) :
    Statement (.lineCommit line new commit) := .event rfl

theorem powerCapExceeded : Statement (.powerCapExceeded) := .event rfl

theorem thermalHot : Statement (.thermalHot) := .event rfl

theorem thermalCrit : Statement (.thermalCrit) := .event rfl

theorem hostLinkDown : Statement (.hostLinkDown) := .event rfl

theorem debugHalt (core : Nat) : Statement (.debugHalt core) := .event rfl

theorem kibryPortTrained (port : Nat) : Statement (.kibryPortTrained port) := .event rfl

theorem kibryPortLost (port : Nat) : Statement (.kibryPortLost port) := .event rfl

end Sys2Proof.Laws.Word
end

