-- ==== Sys2Proof/Laws/Run.lean ====
section
/-! SUPPORT. What running a word can do: the guard, the privilege check, flags and results, each said once. -/

namespace Sys2Proof.Machine

open Sys2Proof.Safety

/-! ## The guard and the body -/

/-- A word whose body completes. -/
theorem runBody_ok {s s' : State} {opc : BitVec 8} {g : BitVec 4} {priv jump : Bool} {body : State → Body}
    (hd : denied s priv = false) (hg : guardHolds s g = true) (hb : body s = .ok s') :
    runBody s opc g priv jump body = .next (if s.onCpPlace && !jump then advance s' else s') := by
  simp [runBody, hd, hg, hb]

/-- A word whose body a check stops. -/
theorem runBody_error {s : State} {opc : BitVec 8} {g : BitVec 4} {priv jump : Bool} {body : State → Body} {x : Stop}
    (hd : denied s priv = false) (hg : guardHolds s g = true) (hb : body s = .error x) :
    runBody s opc g priv jump body = .next (stopWord s opc x) := by
  simp [runBody, hd, hg, hb]

/-- A word with a false guard: the PC advances on the CP, and nothing happens in a slot (R57). -/
theorem runBody_skip {s : State} {opc : BitVec 8} {g : BitVec 4} {priv jump : Bool} {body : State → Body}
    (hd : denied s priv = false) (hg : guardHolds s g = false) :
    runBody s opc g priv jump body = .next (if s.onCpPlace then advance s else s) := by
  simp [runBody, hd, hg]

/-- A privileged word in user mode (R15). -/
theorem runBody_denied {s : State} {opc : BitVec 8} {g : BitVec 4} {priv jump : Bool} {body : State → Body}
    (hd : denied s priv = true) :
    runBody s opc g priv jump body = .next (stopWord s opc (.trap { cause := .privileged } s)) := by
  simp [runBody, hd]

@[simp] theorem denied_false (s : State) : denied s false = false := rfl

theorem runPlain_ok {s s' : State} {opc : BitVec 8} {g : BitVec 4} {body : State → Body}
    (hg : guardHolds s g = true) (hb : body s = .ok s') :
    runPlain s opc g body = .next (if s.onCpPlace then advance s' else s') := by
  rw [runPlain, runBody_ok (denied_false s) hg hb]
  simp

theorem runPlain_error {s : State} {opc : BitVec 8} {g : BitVec 4} {body : State → Body} {x : Stop}
    (hg : guardHolds s g = true) (hb : body s = .error x) : runPlain s opc g body = .next (stopWord s opc x) :=
  runBody_error (denied_false s) hg hb

theorem runPlain_skip {s : State} {opc : BitVec 8} {g : BitVec 4} {body : State → Body}
    (hg : guardHolds s g = false) : runPlain s opc g body = .next (if s.onCpPlace then advance s else s) :=
  runBody_skip (denied_false s) hg

/-- Every word ends in a next state. -/
theorem runBody_next (s : State) (opc : BitVec 8) (g : BitVec 4) (priv jump : Bool) (body : State → Body) :
    ∃ t, runBody s opc g priv jump body = .next t := by
  unfold runBody
  split
  · exact ⟨_, rfl⟩
  · split
    · exact ⟨_, rfl⟩
    · split <;> exact ⟨_, rfl⟩

theorem onCpPlace_iff (s : State) : s.onCpPlace = true ↔ s.place = .cp := by simp [State.onCpPlace]

theorem onCpPlace_of_cp {s : State} (h : s.place = .cp) : s.onCpPlace = true := (onCpPlace_iff s).2 h

theorem onCpPlace_of_slot {s : State} (h : s.place ≠ .cp) : s.onCpPlace = false := by
  simpa [State.onCpPlace] using h

/-! ## Flags -/

@[simp] theorem lowestFlag_zero : lowestFlag 0 = none := by decide

/-- No raised flag is enabled: all are set, in CFLAGS on the CP and in KFLAGS in a slot (R55). -/
theorem raiseFlags_ok {s : State} {fl : Flags} (h : fl &&& scalarEnables s = 0) :
    raiseFlags s fl =
      .ok (if s.place = .cp then s.withCp { s.core.cp with cflags := s.core.cp.cflags ||| fl.setWidth 64 }
        else slotRaises s fl) := by
  unfold raiseFlags
  rw [h, lowestFlag_zero]
  by_cases hp : s.place = .cp
  · simp [onCpPlace_of_cp hp, hp]
  · simp [onCpPlace_of_slot hp, hp, slotRaises]

/-- An operation that raises no flag. -/
theorem raiseFlags_zero (s : State) : raiseFlags s 0 = .ok s := by
  rw [raiseFlags_ok (by simp)]
  split <;> simp [slotRaises] <;> rfl

/-! ## Results -/

theorem writeR_cp {s : State} (h : s.place = .cp) (lat : Nat) (d : BitVec 6) (v : Word) :
    writeR s lat d v = s.withCp (s.core.cp.writeG (d.setWidth 5) v) := by
  simp [writeR, onCpPlace_of_cp h, r5]

theorem writeR_slot {s : State} (h : s.place ≠ .cp) (lat : Nat) (d : BitVec 6) (v : Word) :
    writeR s lat d v = if d.setWidth 5 = (0 : BitVec 5) then s else slotWrites s lat (.k (d.setWidth 5) v) := by
  simp [writeR, onCpPlace_of_slot h, r5, pushWrite, slotWrites]

theorem writeP_cp {s : State} (h : s.place = .cp) (lat : Nat) (d : BitVec 3) (v : Bool) :
    writeP s lat d v = s.withCp { s.core.cp with p := writePred s.core.cp.p d v } := by
  simp [writeP, onCpPlace_of_cp h]

theorem writeP_slot {s : State} (h : s.place ≠ .cp) (lat : Nat) (d : BitVec 3) (v : Bool) :
    writeP s lat d v = if d = 0 then s else slotWrites s lat (.p d v) := by
  simp [writeP, onCpPlace_of_slot h, pushWrite, slotWrites]

/-- What a scalar word has done once its flags are raised and its result is written. -/
theorem raise_write_cp {s : State} (h : s.place = .cp) (lat : Nat) (d : BitVec 6) (v : Word) (fl : Flags) :
    advance (writeR (s.withCp { s.core.cp with cflags := s.core.cp.cflags ||| fl.setWidth 64 }) lat d v) =
      cpGives s d v fl := by
  rw [writeR_cp (by simpa using h)]
  simp only [advance, cpGives, cpDone, CP.writeG, State.withCp_core_cp, State.onCp_eq, State.withCp_withCp]
  split <;> rfl

theorem raise_write_slot {s : State} (h : s.place ≠ .cp) (lat : Nat) (d : BitVec 6) (v : Word) (fl : Flags) :
    writeR (slotRaises s fl) lat d v = slotGives s lat d v fl := by
  rw [writeR_slot (by simpa [slotRaises] using h)]
  rfl

/-- A scalar word that writes a register and raises flags, none of them enabled. -/
theorem runPlain_gives {s : State} {opc : BitVec 8} {g : BitVec 4} {body : State → Body} {lat : Nat} {d : BitVec 6}
    {v : Word} {fl : Flags} (hg : guardHolds s g = true) (hf : fl &&& scalarEnables s = 0)
    (hb : body s = (raiseFlags s fl).bind fun s => .ok (writeR s lat d v)) :
    runPlain s opc g body = .next (if s.place = .cp then cpGives s d v fl else slotGives s lat d v fl) := by
  rw [raiseFlags_ok hf] at hb
  rw [runPlain_ok hg hb]
  by_cases hp : s.place = .cp
  · simp only [hp, if_true, onCpPlace_of_cp hp, raise_write_cp hp]
  · simp only [hp, if_false, onCpPlace_of_slot hp, raise_write_slot hp]
    rfl

/-- A scalar word that writes a register and raises nothing. -/
theorem runPlain_writes {s : State} {opc : BitVec 8} {g : BitVec 4} {body : State → Body} {lat : Nat} {d : BitVec 6}
    {v : Word} (hg : guardHolds s g = true) (hb : body s = .ok (writeR s lat d v)) :
    runPlain s opc g body = .next (if s.place = .cp then cpGives s d v 0 else slotGives s lat d v 0) :=
  runPlain_gives hg (by simp) (by rw [hb, raiseFlags_zero]; rfl)

theorem giveInt_eq (s : State) (lat : Nat) (d : BitVec 6) (r : Int × Flags) :
    giveInt s lat d r = (raiseFlags s r.2).bind fun s => .ok (writeR s lat d (intWord r.1)) := rfl

theorem giveFloat_eq (s : State) (lat : Nat) (d : BitVec 6) (r : Nat × Flags) :
    giveFloat s lat d r = (raiseFlags s r.2).bind fun s => .ok (writeR s lat d (BitVec.ofNat 64 r.1)) := rfl

end Sys2Proof.Machine
end

