-- ==== Sys2Proof/Laws/Vector.lean ====
section
/-! SUPPORT. Vector registers by element, lane flags, and what running a vector word leaves, each said once. -/

namespace Sys2Proof.Machine

open Sys2Proof.Safety

/-! ## Packed elements -/

theorem packBits_lt (n : Nat) (l : List Nat) (h : ∀ x ∈ l, x < 2 ^ n) : packBits n l < 2 ^ (n * l.length) := by
  induction l with
  | nil => simp [packBits]
  | cons x l ih =>
    have hx := h x (by simp)
    have hl := ih fun y hy => h y (by simp [hy])
    have : 2 ^ (n * (l.length + 1)) = 2 ^ n * 2 ^ (n * l.length) := by rw [Nat.mul_succ, Nat.pow_add, Nat.mul_comm]
    simp only [packBits, List.length_cons, this]
    calc x + 2 ^ n * packBits n l < 2 ^ n * 1 + 2 ^ n * packBits n l := by omega
      _ = 2 ^ n * (packBits n l + 1) := by ring
      _ ≤ 2 ^ n * 2 ^ (n * l.length) := Nat.mul_le_mul_left _ hl

/-- An element of packed elements. -/
theorem packBits_get (n : Nat) (l : List Nat) (h : ∀ x ∈ l, x < 2 ^ n) (i : Nat) :
    packBits n l / 2 ^ (n * i) % 2 ^ n = l.getD i 0 := by
  induction l generalizing i with
  | nil => simp [packBits]
  | cons x l ih =>
    have hx := h x (by simp)
    have hl := ih fun y hy => h y (by simp [hy])
    cases i with
    | zero => simp [packBits, Nat.add_mul_mod_self_left, Nat.mod_eq_of_lt hx]
    | succ i =>
      have e : 2 ^ (n * (i + 1)) = 2 ^ n * 2 ^ (n * i) := by rw [Nat.mul_succ, Nat.pow_add, Nat.mul_comm]
      rw [packBits, e, ← Nat.div_div_eq_div_mul, Nat.add_mul_div_left _ _ (Nat.two_pow_pos n), Nat.div_eq_of_lt hx,
        Nat.zero_add, hl]
      simp

theorem getD_flatMap_range {α : Type} (a : α) (m n : Nat) (f : Nat → Nat → α) (l j : Nat) (hl : l < m) (hj : j < n) :
    ((List.range m).flatMap fun l => (List.range n).map fun j => f l j).getD (l * n + j) a = f l j := by
  induction m generalizing l f with
  | zero => omega
  | succ m ih =>
    rw [List.range_succ_eq_map, List.flatMap_cons, List.flatMap_map]
    cases l with
    | zero => simp [List.getD_eq_getElem?_getD, List.getElem?_append, hj]
    | succ l =>
      have e : (l + 1) * n + j = n + (l * n + j) := by ring
      rw [e, List.getD_append_right _ _ _ _ (by simp)]
      simpa using ih (fun l j => f (l + 1) j) l (by omega)

theorem tyWidth_mul_tyNel (t : BitVec 5) : tyWidth t * tyNel t = 256 := by
  revert t
  decide

/-- Element j of lane l of a register built element by element. -/
theorem vElem_vAll {n nel : Nat} (h : n * nel = 256) (f : Nat → Nat → Nat × Flags) {l j : Nat} (hl : l < 16)
    (hj : j < nel) : vElem (vAll n nel f).1 n l j = (f l j).1 % 2 ^ n := by
  have e : ((List.range 16).map fun l => (List.range nel).map fun j => f l j).flatMap (fun x => x.map (·.1 % 2 ^ n)) =
      (List.range 16).flatMap fun l => (List.range nel).map fun j => (f l j).1 % 2 ^ n := by
    rw [List.flatMap_map]
    simp [Function.comp_def]
  have hb : ∀ x ∈ (List.range 16).flatMap fun l => (List.range nel).map fun j => (f l j).1 % 2 ^ n, x < 2 ^ n := by
    simp only [List.mem_flatMap, List.mem_map]
    rintro x ⟨_, _, _, _, rfl⟩
    exact Nat.mod_lt _ (Nat.two_pow_pos n)
  have hlen : ((List.range 16).flatMap fun l => (List.range nel).map fun j => (f l j).1 % 2 ^ n).length = 16 * nel := by
    simp [List.length_flatMap]
    ring
  have hlt := packBits_lt n _ hb
  rw [hlen, show n * (16 * nel) = 4096 by rw [Nat.mul_left_comm, h]] at hlt
  simp only [vElem, vAll, e, BitVec.toNat_ofNat, Nat.mod_eq_of_lt hlt]
  rw [show 256 * l + n * j = n * (l * nel + j) by rw [← h]; ring, packBits_get n _ hb, getD_flatMap_range 0 _ _ _ l j hl hj]

/-- The flags of a register built element by element. -/
theorem vAll_flags (n nel : Nat) (f : Nat → Nat → Nat × Flags) :
    (vAll n nel f).2 = Vector.ofFn fun l => orFlags ((List.range nel).map fun j => (f l.val j).2) := by
  simp only [vAll, laneFlagsOf]
  congr 1
  funext l
  simp [List.getD_eq_getElem?_getD, l.isLt, List.map_map, Function.comp_def]

/-! ## Lane flags (R176) -/

theorem laneFlags_at (fl : LaneFlags) (l : Fin 16) : LaneFlags.at fl l.val = fl.get l := by
  simp [LaneFlags.at, Vector.get, l.isLt]

theorem orFlags_zero (l : List Flags) (h : ∀ x ∈ l, x = 0) : orFlags l = 0 := by
  unfold orFlags
  induction l with
  | nil => rfl
  | cons x l ih => simpa [h x (by simp)] using ih fun y hy => h y (by simp [hy])

theorem laneTrap_none {s : State} {fl : LaneFlags} (h : NoLaneTrap s fl) : laneTrap s fl = none := by
  have hz : orFlags ((List.range 16).map fun l => LaneFlags.at fl l &&& laneEn s l) = 0 := by
    refine orFlags_zero _ fun x hx => ?_
    obtain ⟨l, hl, rfl⟩ := List.mem_map.1 hx
    simpa using laneFlags_at fl ⟨l, List.mem_range.1 hl⟩ ▸ h ⟨l, List.mem_range.1 hl⟩
  simp only [laneTrap, hz, lowestFlag_zero, Option.bind_none]

theorem foldl_or_getLsbD (l : List Flags) (a : Flags) (i : Nat) :
    (l.foldl (· ||| ·) a).getLsbD i = (a.getLsbD i || l.any fun x => x.getLsbD i) := by
  induction l generalizing a with
  | nil => simp
  | cons x l ih => simp [ih, Bool.or_assoc]

/-- A bit of the union of flags. -/
theorem orFlags_getLsbD (l : List Flags) (i : Nat) : (orFlags l).getLsbD i = l.any fun x => x.getLsbD i := by
  simp [orFlags, foldl_or_getLsbD]

theorem lowestFlag_eq {x : Flags} {b : Nat} (hb : b < 7) (h : x.getLsbD b = true) (hl : ∀ c < b, x.getLsbD c = false) :
    lowestFlag x = some b := by
  simp only [lowestFlag, List.find?_range_eq_some]
  exact ⟨h, List.mem_range.2 hb, fun c hc => by simp [hl c hc]⟩

/-- The mask of the lanes below `n` that `p` selects. -/
theorem laneMask_testBit (p : Nat → Bool) (n : Nat) :
    ((List.range n).filter p).foldl (fun m x => m + 2 ^ x) 0 < 2 ^ n ∧
      ∀ l < n, (((List.range n).filter p).foldl (fun m x => m + 2 ^ x) 0).testBit l = p l := by
  induction n with
  | zero => simp
  | succ n ih =>
    obtain ⟨hlt, hb⟩ := ih
    rw [List.range_succ, List.filter_append, List.foldl_append]
    set m := ((List.range n).filter p).foldl (fun m x => m + 2 ^ x) 0
    have hp : 2 ^ (n + 1) = 2 ^ n + 2 ^ n := by ring
    cases h : p n
    · refine ⟨by simp [h]; omega, fun l hl => ?_⟩
      rcases Nat.lt_succ_iff_lt_or_eq.1 hl with hl | rfl
      · simpa [h] using hb l hl
      · simpa [h] using Nat.testBit_lt_two_pow hlt
    · refine ⟨by simp [h]; omega, fun l hl => ?_⟩
      rcases Nat.lt_succ_iff_lt_or_eq.1 hl with hl | rfl
      · simpa [h, Nat.add_comm m, Nat.testBit_two_pow_add_gt hl] using hb l hl
      · simpa [h, Nat.add_comm m] using by
          rw [Nat.testBit_two_pow_add_eq, Nat.testBit_lt_two_pow hlt]; rfl

/-- The lane fault of one cause: the lanes that `p` selects, the lowest of them first (R113). -/
theorem laneFault_const (p : Nat → Bool) (t : Trap) (h : ∃ l < 16, p l = true) :
    ∃ (lane : Fin 16) (mask : BitVec 16),
      laneFault (fun l => if p l then some t else none) = some { t with lane := BitVec.ofNat 4 lane.val, lmask := mask } ∧
      (∀ l : Fin 16, mask.getLsbD l.val = p l.val) ∧ p lane.val = true ∧ ∀ l : Fin 16, l.val < lane.val → p l.val = false := by
  have hf : ((List.range 16).filterMap fun l => ((if p l then some t else none : Option Trap)).map fun t => (l, t)) =
      ((List.range 16).filter p).map fun l => (l, t) := by
    rw [← List.filterMap_eq_map, List.filterMap_filter]
    refine List.filterMap_congr fun l _ => ?_
    cases p l <;> rfl
  obtain ⟨hlt, hbit⟩ := laneMask_testBit p 16
  cases hc : (List.range 16).filter p with
  | nil =>
    obtain ⟨l, hl, hp⟩ := h
    have : l ∈ (List.range 16).filter p := by simp [hl, hp]
    simp [hc] at this
  | cons a r =>
    have ha : a ∈ (List.range 16).filter p := by simp [hc]
    have ha' : a < 16 ∧ p a = true := by simpa using ha
    refine ⟨⟨a, ha'.1⟩, BitVec.ofNat 16 (((List.range 16).filter p).foldl (fun m x => m + 2 ^ x) 0), ?_, ?_, ha'.2, ?_⟩
    · simp only [laneFault, hf, hc, List.map_cons]
      rw [← List.map_cons (f := fun l => (l, t)), List.filter_eq_self.2 (by simp), List.foldl_map]
    · intro l
      simp only [BitVec.getLsbD_ofNat, l.isLt, decide_true, Bool.true_and, hbit l.val l.isLt]
    · intro l hl
      by_contra hp
      have hs : ((List.range 16).filter p).Pairwise (· < ·) := List.pairwise_lt_range.filter p
      rw [hc, List.pairwise_cons] at hs
      have hm : l.val ∈ a :: r := by rw [← hc]; simpa [l.isLt] using hp
      rcases List.mem_cons.1 hm with e | e
      · exact absurd e (Nat.ne_of_lt hl)
      · exact absurd (hs.1 _ e) (Nat.not_lt.2 hl.le)

/-- The trap of the lowest flag that some lane raises and enables (R176). -/
theorem laneTrap_some {s : State} {fl : LaneFlags} {b : Nat} (hb : b < 7) (h : ∃ l, flagHit s fl b l = true)
    (hl : ∀ c < b, ∀ l, flagHit s fl c l = false) :
    ∃ (lane : Fin 16) (mask : BitVec 16),
      laneTrap s fl = some { cause := flagCause b, lane := BitVec.ofNat 4 lane.val, lmask := mask } ∧
      (∀ l : Fin 16, mask.getLsbD l.val = flagHit s fl b l) ∧ flagHit s fl b lane = true ∧
      ∀ l : Fin 16, l.val < lane.val → flagHit s fl b l = false := by
  have hh (c : Nat) (l : Fin 16) : (LaneFlags.at fl l.val &&& laneEn s l.val).getLsbD c = flagHit s fl c l := by
    rw [laneFlags_at]; rfl
  obtain ⟨l0, h0⟩ := h
  have hlow : lowestFlag (orFlags ((List.range 16).map fun l => LaneFlags.at fl l &&& laneEn s l)) = some b := by
    refine lowestFlag_eq hb ?_ fun c hc => ?_
    · rw [orFlags_getLsbD, List.any_map, List.any_eq_true]
      exact ⟨l0.val, List.mem_range.2 l0.isLt, (hh b l0).trans h0⟩
    · rw [orFlags_getLsbD, List.any_map, List.any_eq_false]
      intro l hm
      simpa using (hh c ⟨l, List.mem_range.1 hm⟩).trans (hl c hc _)
  obtain ⟨lane, mask, e, hm, hp, hn⟩ :=
    laneFault_const (fun l => (LaneFlags.at fl l &&& laneEn s l).getLsbD b) { cause := flagCause b }
      ⟨l0.val, l0.isLt, (hh b l0).trans h0⟩
  refine ⟨lane, mask, ?_, fun l => (hm l).trans (hh b l), (hh b lane).symm.trans hp, fun l hl => (hh b l).symm.trans (hn l hl)⟩
  simp only [laneTrap, hlow, Option.bind_some]
  exact e

theorem pushWrite_eq (s : State) (lat : Nat) (x : KWrite) : pushWrite s lat x = slotWrites s lat x := rfl

theorem allZero_iff (fl : LaneFlags) :
    ((List.range 16).all fun l => LaneFlags.at fl l == 0) = true ↔ fl = Vector.replicate 16 0 := by
  simp only [List.all_eq_true, List.mem_range, beq_iff_eq]
  constructor
  · intro h
    ext i hi : 1
    have := h i hi
    rw [laneFlags_at fl ⟨i, hi⟩] at this
    simpa [Vector.get] using this
  · rintro rfl l hl
    simp [LaneFlags.at, hl]

/-- A vector word whose flags trap in no lane writes its results and then its flags. -/
theorem giveLanes_ok {s : State} {fl : LaneFlags} (h : NoLaneTrap s fl) (lat : Nat) (out : List KWrite) :
    giveLanes s lat fl out = .ok (lanesGive s lat out fl) := by
  simp only [giveLanes, laneTrap_none h, lanesGive, ← allZero_iff, pushWrite_eq]

/-- A vector word in a slot. -/
theorem runPlain_slot {s s' : State} {opc : BitVec 8} {g : BitVec 4} {body : State → Body} (h : InSlot s g)
    (hb : body s = .ok s') : runPlain s opc g body = .next s' := by
  rw [runPlain_ok h.2 hb, onCpPlace_of_slot h.1]
  rfl

/-- A slot word that a check stops faults its slot. -/
theorem runPlain_trap {s : State} {t : Trap} {opc : BitVec 8} {g : BitVec 4} {body : State → Body} (h : InSlot s g)
    (hb : body s = .error (.trap t s)) : runPlain s opc g body = .next (slotFault s t opc) := by
  rw [runPlain_error h.2 hb]
  simp only [stopWord, onCpPlace_of_slot h.1]
  rfl

theorem flags_select (b : Bool) (x : Nat × Flags) (y : Nat) : (if b then x else (y, 0)).2 = if b then x.2 else 0 := by
  cases b <;> rfl

/-- A masked word that writes one register element by element (R178). -/
theorem velem_gives {i : Instr} {s : State} {opc : BitVec 8} {lat : Nat} {w : RForm}
    {f : State → Nat → Nat → Nat × Flags} (h : InSlot s w.guard) (he : exec i s = velem opc lat w s f)
    (ho : ∀ r, Instr.raw i = some r → r.opc = opc) :
    GivesElements i s lat w.d (tyWidth w.ty) (vActive s w) (f s) := by
  unfold GivesElements
  intro fl
  have hw := tyWidth_mul_tyNel w.ty
  have hfl : (vAll (tyWidth w.ty) (tyNel w.ty) fun l j =>
      if vActive s w l j then f s l j else (vElem (readV s w.d) (tyWidth w.ty) l j, 0)).2 = fl := by
    simp only [vAll_flags, flags_select]
    rfl
  refine ⟨fun r b hr hb hx hl => ?_, fun hq => ⟨(vAll (tyWidth w.ty) (tyNel w.ty) fun l j =>
      if vActive s w l j then f s l j else (vElem (readV s w.d) (tyWidth w.ty) l j, 0)).1, ?_, ?_⟩⟩
  · obtain ⟨lane, mask, e, hm⟩ := laneTrap_some hb hx hl
    refine ⟨lane, mask, ?_, hm⟩
    rw [he, velem, ho r hr]
    refine runPlain_trap h ?_
    simp only [hfl, giveLanes, e]
  · rw [he, velem]
    refine runPlain_slot h ?_
    simp only [hfl]
    exact giveLanes_ok hq lat _
  · intro l j hl hj
    rw [vElem_vAll hw _ hl hj]
    split
    · rfl
    · exact Nat.mod_eq_of_lt (Nat.mod_lt _ (Nat.two_pow_pos _))

end Sys2Proof.Machine
end

