-- ==== Sys2Proof/Tests/Slice0.lean ====
section
/-! SUPPORT. Tests: words written out from the encodings decode to their instruction, each check of R72 refuses an
ill-formed term, worked examples of the manual, and for every statement states that meet its hypotheses. -/

namespace Sys2Proof.Tests

open Sys2Proof.Machine Sys2Proof.Safety Sys2Proof.Claims

-- one theorem at a time: each evaluation holds a stack of its own
set_option Elab.async false

/-! ## Small states -/

/-- The outcome is a next state of which `f` holds. -/
def goes (o : Out) (f : State → Bool) : Bool :=
  match o with
  | .next t => f t
  | _ => false

/-- A core that runs a program alone in its group, in supervisor mode. -/
def cpu : State :=
  { State.reset with core := { State.reset.core with
    prog := some ⟨0, 0, 1, 0⟩, cp := { State.reset.core.cp with run := .running } } }

/-- The same with registers g4 and g5 set. -/
def nums (x y : Word) : State := cpu.withCp ((cpu.core.cp.writeG 4 x).writeG 5 y)

/-- The same in user mode. -/
def user : State := cpu.withCp { cpu.core.cp with cstat := 0x180000 }

/-- A word in a slot of a running kernel's bundle. -/
def slot (p : Place) : State :=
  { cpu with place := p, core := { cpu.core with kern := { cpu.core.kern with kstat := 1 } } }

/-- g3 := g4 op g5 on the type. -/
def rform (t : BitVec 5) : RForm := ⟨0, 3, 4, 5, 0, 0, t, 0, 0, 0, 0⟩

/-- A vector word v3 := v4 op v5 on the type. -/
def vform (t : BitVec 5) : RForm := ⟨0, 3, 4, 5, 0, 0, t, 0, 0, 0, 0⟩

def iform (fn : BitVec 8) (imm : BitVec 32) : IForm := ⟨0, 3, 4, fn, imm⟩

/-! ## Decoding -/

theorem test_decode_add : decodeTableWord 64 0x0100C41400008000 = some (.add ⟨0, 3, 4, 5, 0, 0, 1, 0, 0, 0, 0⟩) := by
  decide +kernel

theorem test_decode_addi : decodeTableWord 64 0x1301C40400100040 = some (.addi ⟨0, 7, 4, 4, 0x00100040⟩) := by
  decide +kernel

theorem test_decode_loop : decodeTableWord 64 0x2D00C000FFFFFFFD = some (.loop ⟨0, 3, 0, 0, 0xFFFFFFFD⟩) := by
  decide +kernel

theorem test_decode_vfma :
    decodeTableWord 64 0x4401050469050400 = some (.vfma ⟨0, 4, 5, 1, 6, 0x90, 10, 0, 0, 1, 0⟩) := by
  decide +kernel

theorem test_decode_vadd : (decodeTableWord 64 0x4000C10800048031).isSome = true := by decide +kernel

theorem test_decode_tmma :
    decodeTableWord 64 0x8000000800000000 = some (.tmmaMadd ⟨0, 0, 0, 2, 0, 0, 0, 0, 0, 0, 0⟩) := by
  decide +kernel

theorem test_decode_st : decodeTableWord 64 0xB101470080000000 = some (.st ⟨0, 5, 7, 0, 4, 0, 0, 0, 0⟩) := by
  decide +kernel

theorem test_decode_sload :
    decodeTableWord 64 0xD001002000048000 = some (.sload ⟨0, 1, 0, 0, 0, 4, 0, 0, 0, 9, 0, 0, 0, 0⟩) := by
  decide +kernel

theorem test_decode_xchsys : decodeTableWord 64 0xE700410900000000 = some (.xchsys ⟨0, 1, 1, 9, 0⟩) := by
  decide +kernel

theorem test_decode_tfill : (decodeTableWord 64 0xC300010000100000).isSome = true := by decide +kernel

theorem test_decode_krun : (decodeTableWord 64 0xD80129298E062F40).isSome = true := by decide +kernel

theorem test_decode_bar_sync : decodeSlot ⟨.s, 0, true⟩ 0xC600000200000000 = .ok (.barSync ⟨0, 0, 0, 2, 0⟩) := by
  decide +kernel

/-- An unassigned opcode, a word in a place where it is not legal, and a *never*-guarded word (R10, R56, R70, R72). -/
theorem test_decode_rejects :
    decodeSlot ⟨.s, 0, true⟩ 0x2F00000000000000 = .bad { cause := .badOpcode } ∧
    decodeSlot ⟨.v0, 0, true⟩ 0x0100C41400008000 = .bad { cause := .badSlot } ∧
    decodeSlot ⟨.s, 0, true⟩ 0x0180C41400008000 = .never := by
  decide +kernel

/-! ## Ill-formed terms are refused -/

theorem test_wellFormed_add : WellFormed ⟨.cp, 0, true⟩ (.add (rform 1)) := by decide +kernel

theorem test_never_guard_is_not_wellFormed : ¬ WellFormed ⟨.cp, 0, true⟩ (.add { rform 1 with guard := 8 }) := by
  decide +kernel

theorem test_event_is_not_wellFormed : ¬ WellFormed ⟨.cp, 0, true⟩ (.takeTrap 0) := by decide +kernel

theorem test_selector_of_another_word_is_not_wellFormed : ¬ WellFormed ⟨.cp, 0, true⟩ (.bcntPop { rform 0 with fn := 1 }) := by
  decide +kernel

theorem test_bad_slot : Instr.check ⟨.v0, 0, true⟩ (.add (rform 1)) = some { cause := .badSlot } := by decide +kernel

theorem test_bad_mode : Instr.check ⟨.cp, 0, true⟩ (.add (rform 9)) = some { cause := .badMode } := by decide +kernel

theorem test_reserved_field :
    Instr.check ⟨.cp, 0, true⟩ (.add { rform 1 with rm := 1 }) = some { cause := .reservedField } := by
  decide +kernel

theorem test_reserved_register :
    Instr.check ⟨.cp, 0, true⟩ (.add { rform 1 with d := 32 }) = some { cause := .reservedField } := by
  decide +kernel

theorem test_hint_unhonoured :
    Instr.check ⟨.cp, 0, true⟩ (.add { rform 1 with hint := 0x2F0 }) = some { cause := .hintUnhonoured, detail := 0x2F0 } := by
  decide +kernel

/-! ## Scalar words -/

/-- The example of R42: 100 + 50 in s8 wraps to −106, or saturates to 127. -/
theorem test_add_s8_example :
    goes (exec (.add (rform 3)) (nums 100 50)) (fun t => t.core.cp.readG 3 == 0xFFFFFFFFFFFFFF96 && t.core.cp.cflags == 0x20) = true ∧
    goes (exec (.add { rform 3 with sat := 1 }) (nums 100 50)) (fun t => t.core.cp.readG 3 == 0x7F && t.core.cp.cflags == 0x20) =
      true := by
  decide +kernel

theorem test_integer_words_have_a_state : guardHolds (nums 100 50) 0 = true ∧ NoTrap (nums 100 50) (overflows 3 150) := by
  decide +kernel

/-- A state that enables IV, with an overflowing sum. -/
def enabled : State := (nums 100 50).withCp { (nums 100 50).core.cp with cstat := 0x180201 }

theorem test_enabled_overflow_has_a_state :
    guardHolds enabled 0 = true ∧ (scalarEnables enabled).getLsbD 5 = true ∧ overflows 3 150 = flIV := by
  decide +kernel

/-- The overflow flag and the destination stay; the trap is INT_OVERFLOW (R26, R42). -/
theorem test_enabled_overflow :
    goes (exec (.add (rform 3)) enabled) (fun t => t.core.cp.readG 3 == 0 && t.core.cp.ccause == 0x11) = true := by
  decide +kernel

theorem test_division_has_states :
    guardHolds (nums 7 2) 0 = true ∧ intOf 0 (opB (nums 7 2) (rform 0) false) = 2 ∧ NoTrap (nums 7 2) (overflows 0 3) ∧
    NoTrap (nums 7 2) (overflows 0 1) ∧ intOf 0 (opB (nums 7 0) (rform 0) false) = 0 := by
  decide +kernel

/-- R43: the quotient is truncated, the remainder has the sign of the dividend. -/
theorem test_division_of_minus_seven :
    goes (exec (.div (rform 0)) (nums (-7) 2)) (fun t => t.core.cp.readG 3 == -3) = true ∧
    goes (exec (.rem (rform 0)) (nums (-7) 2)) (fun t => t.core.cp.readG 3 == -1) = true ∧
    goes (exec (.div (rform 0)) (nums 7 0)) (fun t => t.core.cp.ccause == 0x10) = true := by
  decide +kernel

theorem test_logical_words_have_a_state : guardHolds (nums 1 65) (rform 0).guard = true ∧ guardHolds cpu (iform 0 0).guard = true := by
  decide +kernel

/-- R85: a shift amount of 65 shifts by one. -/
theorem test_shift_amount_modulo_64 : goes (exec (.shl (rform 0)) (nums 1 65)) (fun t => t.core.cp.readG 3 == 2) = true := by
  decide +kernel

theorem test_immediate_words_have_states :
    guardHolds cpu 0 = true ∧ NoTrap cpu (overflows 0 5) ∧ tyIsInt (tyOfFn (iform 1 7)) = true ∧ tyOfFn (iform 9 0x3F800000) = 9 ∧
    tyOfFn (iform 8 0x3F800000) = 8 ∧ (decodeFloat fmtF32 0x3F800000).isNaN = false ∧
    (decodeFloat fmtF32 0x7FC00000).isNaN = true := by
  decide +kernel

/-- R86: `movi` of f64 converts 1.0; a bit-field of 8 bits from bit 4; the whole register as a field. -/
theorem test_immediate_words :
    goes (exec (.movi (iform 8 0x3F800000)) cpu) (fun t => t.core.cp.readG 3 == 0x3FF0000000000000) = true ∧
    goes (exec (.bfxZ (iform 0 0x0804)) (nums 0xABCDE 0)) (fun t => t.core.cp.readG 3 == 0xCD) = true ∧
    goes (exec (.bfxZ (iform 0 0x4000)) (nums 0xABCDE 0)) (fun t => t.core.cp.readG 3 == 0xABCDE) = true := by
  decide +kernel

theorem test_compares_have_states :
    guardHolds (nums 1 2) 0 = true ∧ (0 : BitVec 8).extractLsb' 0 4 = 0 ∧ NoTrap (nums 1 2) (compareFlags (nums 1 2) 0 7 1 2) ∧
    ((0x42 : BitVec 8).extractLsb' 6 2) = 1 ∧ ((0x82 : BitVec 8).extractLsb' 6 2) = 2 := by
  decide +kernel

/-- R87: 1 is below 2; a quiet NaN is unordered. -/
theorem test_compare_below :
    goes (exec (.cmp { rform 0 with d := 1, fn := 2 }) (nums 1 2)) (fun t => readPred t.core.cp.p 1) = true ∧
    goes (exec (.cmp { rform 8 with d := 1, fn := 6 }) (nums 0x7FF8000000000000 0)) (fun t => readPred t.core.cp.p 1) = true := by
  decide +kernel

theorem test_predicate_words_have_states : guardHolds cpu 0 = true ∧ cpu.place = .cp ∧ guardHolds (slot .s) 0 = true ∧
    (slot .s).place ≠ .cp := by
  decide +kernel

/-- R88: `pmov.put` of 0xFF sets p1-p7, `pand` of p1 and p0. -/
theorem test_pmov_put : goes (exec (.pmovPut (rform 0)) (nums 0xFF 0)) (fun t => t.core.cp.p == 0xFF) = true := by decide +kernel

theorem test_floating_words_have_a_state :
    guardHolds (nums 0 0) 0 = true ∧ NoTrap (nums 0 0) ((deliver fmtF64 0 false (.fin false 3 0)).2 ||| 0) ∧
    NoTrap (nums 0 0) (flagIf false flNV) := by
  decide +kernel

/-- R89: 1 + 2 = 3 in f64; 1 / 0 gives infinity and raises DZ. -/
theorem test_fadd_and_fdiv :
    goes (exec (.fadd (rform 8)) (nums 0x3FF0000000000000 0x4000000000000000)) (fun t => t.core.cp.readG 3 == 0x4008000000000000) =
      true ∧
    goes (exec (.fdiv (rform 8)) (nums 0x3FF0000000000000 0))
      (fun t => t.core.cp.readG 3 == 0x7FF0000000000000 && t.core.cp.cflags == 2) = true := by
  decide +kernel

theorem test_conversions_have_a_state :
    guardHolds (nums 1 0) 0 = true ∧ tyIsInt ((0 : BitVec 8).extractLsb' 0 5) = true ∧ tyIsInt ((8 : BitVec 8).extractLsb' 0 5) = false ∧
    tyIsInt 1 = true ∧ tyIsInt 9 = false ∧ NoTrap (nums 1 0) (overflows 1 1) := by
  decide +kernel

/-- R92: the integer 1 as f32. -/
theorem test_cvt : goes (exec (.cvt { rform 9 with b := 0 }) (nums 1 0)) (fun t => t.core.cp.readG 3 == 0x3F800000) = true := by
  decide +kernel

theorem test_branches_have_states :
    cpu.place = .cp ∧ guardHolds cpu 0 = true ∧ (slot .s).place = .s ∧ guardHolds (slot .s) 0 = true ∧
    (kpcOf (slot .s) + 1023).toNat < 1024 ∧ 1024 ≤ (kpcOf (slot .s) + 1024).toNat ∧
    (slot .s).core.kern.readK 3 - 1 ≠ 0 ∧ ((slot .s).withKern { (slot .s).core.kern with k := (slot .s).core.kern.k.set 3 1 }).core.kern.readK 3 - 1 = 0 := by
  decide +kernel

theorem test_zero_conditions : zeroTest 0 0 ∧ ¬ zeroTest 1 0 ∧ zeroTest 5 (-1) ∧ ¬ zeroTest 4 0 := by simp [zeroTest]

/-- R93, R94: a branch back by one word from 0x100 goes to 0xF8; `call` links 0x108. -/
theorem test_call_backward :
    goes (exec (.call ⟨0, 0, 7, 0x3FFFFFFFFFF⟩) (cpu.withCp { cpu.core.cp with pc := 0x100 }))
      (fun t => t.core.cp.pc == 0xF8 && t.core.cp.readG 7 == 0x108) = true := by
  decide +kernel

/-- A guard that is false: p1 is 0 (R57). -/
theorem test_false_guard_has_states :
    Instr.raw (.add { rform 0 with guard := 1 }) ≠ none ∧ guardHolds cpu 1 = false ∧ guardHolds (slot .s) 1 = false ∧
    cpu.core.cp.mode = true ∧ (slot .s).place ≠ .cp := by
  decide +kernel

theorem test_software_traps_have_states :
    OnCp cpu 0 ∧ cpu.core.cp.inTrap = false ∧ cpu.core.cp.mode = true ∧
    OnCp (cpu.withCp { cpu.core.cp with cstat := 0x180005 }) 0 ∧ (cpu.withCp { cpu.core.cp with cstat := 0x180005 }).core.cp.inTrap = true := by
  decide +kernel

/-- A bundle in issue. -/
def bundle : Issue := { limm := 0, scope := 0, stall := 0, hold := 0, words := [], delay := 0, software := none, again := false }

theorem test_slot_traps_have_a_state :
    let s := (slot .s).withKern { (slot .s).core.kern with issuing := some bundle }
    s.place = .s ∧ guardHolds s 0 = true ∧ s.core.kern.issuing = some bundle := by
  decide +kernel

/-- R100: SUPERVISOR_CALL, code 0x20, saves the address after the word. -/
theorem test_trap_call :
    goes (exec (.trapCall ⟨0, 0, 0, 1, 5⟩) user) (fun t => t.core.cp.ctpc == 8 && t.core.cp.mode && t.core.cp.inTrap) = true := by
  decide +kernel

theorem test_privileged_words_have_a_state :
    user.place = .cp ∧ user.core.cp.mode = false ∧ user.core.cp.inTrap = false ∧ (0x24 : BitVec 8).toNat = 0x24 ∧ 0xFF ∉ [0x00, 0x13, 0x21, 0x25] := by
  decide +kernel

theorem test_system_writes_have_states :
    OnCp cpu 0 ∧ cpu.core.cp.mode = true ∧ (0x01, (3 : Word)) ∈ writableSys ∧ (0x25, (0x3F : Word)) ∈ writableSys ∧
    cpu.core.kern.stState ≠ 1 ∧ OnCp user 0 ∧ user.core.cp.mode = false ∧ (0x21 : BitVec 8).toNat = 0x21 := by
  decide +kernel

/-- R25: a write of all ones to CSAVE leaves bits 1:0. -/
theorem test_wrsys_csave :
    goes (exec (.wrsys (iform 1 0)) (nums 0xFFFFFFFFFFFFFFFF 0)) (fun t => readSys t 1 == 3 && t.core.cp.pc == 8) = true := by
  decide +kernel

/-- A core with a stream instruction in its queue. -/
def queued : State := cpu.withSt { cpu.core.st with
  queue := [entryFor cpu 0xDF ⟨0, 0, 0, 0, 0, 0, 0, 0, 0, 0, 0, 0, 0, 0⟩ []] }

theorem test_halt_and_idle_have_states :
    OnCp cpu 0 ∧ cpu.core.cp.mode = true ∧ cpu.core.st.queue = [] ∧ cpu.core.st.flight = [] ∧ cpu.core.kern.stState = 0 ∧
    cpu.core.prog.isSome = true ∧ queued.core.st.queue ≠ [] ∧ OnCp queued 0 ∧ cpu.core.cp.pending = [] ∧
    (cpu.withCp { cpu.core.cp with pending := [{ cause := .thermal }] }).core.cp.pending ≠ [] := by
  decide +kernel

/-- A launch of four ordinals in two by two. -/
def nest : Nest := ⟨2, #v[2, 2, 1, 1], #v[1, 1, 0, 0], #v[0, 1, 2, 3], []⟩
def launch0 : Launch where
  id := 0
  queue := 0
  index := 0
  prio := 0
  isolate := false
  fresh := false
  msix := false
  vector := 0
  asid := 0
  dieMask := 1
  w := 1
  g := 1
  entry := 0
  args := 0x1000
  completion := 0
  faultArea := 0
  faultCap := 0
  dieChan := none
  quadChan := none
  image := []
  descs := none
  nest := some nest
  walkers := []
  groups := []
  granted := Vector.replicate 8 0
  ended := 0
  status := 0
  cause := none
  written := 0
  lost := 0
  leftHead := false
  hold := false
  page := none

def working (a : Option Nat) : State :=
  { cpu.withCp { cpu.core.cp with work := .answered a } with launches := [launch0] }

theorem test_work_has_states :
    OnCp (working (some 3)) 0 ∧ (working (some 3)).core.prog = some ⟨0, 0, 1, 0⟩ ∧ (working (some 3)).launch? 0 = some launch0 ∧
    launch0.nest = some nest ∧ nest.ndim ≠ 0 ∧ (working none).core.cp.work = .answered none ∧
    (working (some 3)).core.cp.work = .answered (some 3) := by
  decide +kernel

/-- R105: a dry die writes 0 to p1 and no general register. -/
theorem test_work_dry :
    goes (exec (.work (iform 0 0)) (working none)) (fun t => !readPred t.core.cp.p 1 && t.core.cp.g == cpu.core.cp.g) = true := by
  decide +kernel

/-! ## Vector words -/

/-- v4 and v5 hold one pattern of 256 bits in every lane, lane l having it shifted by l for v4. -/
def vecs (x y : Nat) : State :=
  (slot .v0).withKern { (slot .v0).core.kern with
    v := ((slot .v0).core.kern.v.set 4 (BitVec.ofNat 4096 ((List.range 16).foldl (fun z l => z + x * 2 ^ (256 * l)) 0))).set 5
      (BitVec.ofNat 4096 ((List.range 16).foldl (fun z l => z + y * 2 ^ (256 * l)) 0)) }

/-- What the pending write of a register holds. -/
def pendV (t : State) : Option VecReg :=
  t.core.kern.pend.findSome? fun w => match w.what with
    | .v _ x => some x
    | _ => none

theorem test_vector_words_have_a_state :
    InSlot (vecs 3 4) 0 ∧ tyIsInt 1 = true ∧ tyFloat 9 = true ∧ tyComplex 0x11 = true ∧
    NoLaneTrap (vecs 3 4) (Vector.replicate 16 0x7F) := by
  unfold NoLaneTrap; decide +kernel

/-- R180, R41: 100 + 50 in s8, in lane 15 as in lane 0; 2 cycles of latency. -/
theorem test_vadd_wraps :
    goes (exec (.vadd (vform 3)) (vecs 100 50)) (fun t => (pendV t).any fun x => vElem x 8 15 0 == 150 && vElem x 8 0 1 == 0) = true := by
  decide +kernel

/-- Lanes 3 and 7 enable IV (R175, R176). -/
def enabledLanes : State :=
  (vecs 100 50).withKern { (vecs 100 50).core.kern with
    lflags := ((vecs 100 50).core.kern.lflags.set 3 0x200000).set 7 0x200000 }

theorem test_enabled_lane_flags_have_a_state :
    let fl := lanesRaise 32 (vActive enabledLanes (vform 3)) fun l j => (0, overflows 3
      (elemInt (vform 3) (vA enabledLanes (vform 3) l j) + elemInt (vform 3) (vB enabledLanes (vform 3) l j)))
    InSlot enabledLanes 0 ∧ (fl.get 3 &&& laneEn enabledLanes 3).getLsbD 5 = true ∧
    ∀ i < 5, ∀ l : Fin 16, (fl.get l &&& laneEn enabledLanes l.val).getLsbD i = false := by
  decide +kernel

/-- LMASK names lanes 3 and 7, LANE lane 3 (R113). -/
theorem test_enabled_lane_flags :
    goes (exec (.vadd (vform 3)) enabledLanes) (fun t => t.core.kern.stop.any fun f =>
      f.trap.cause == .intOverflow && f.trap.lmask == 0x88 && f.trap.lane == 3 && t.core.kern.pend == []) = true := by
  decide +kernel

/-- R180: 1 + 2 in f32, each lane; R181: the square root of 4; R182: a shift amount of 33 shifts by one. -/
theorem test_float_and_bit_words :
    goes (exec (.vadd (vform 9)) (vecs 0x3F800000 0x40000000)) (fun t => (pendV t).any fun x => vElem x 32 9 0 == 0x40400000) = true ∧
    goes (exec (.vfnSqrt { vform 9 with b := 0 }) (vecs 0x40800000 0)) (fun t => (pendV t).any fun x => vElem x 32 9 0 == 0x40000000) =
      true ∧
    goes (exec (.vshShl (vform 1)) (vecs 3 33)) (fun t => (pendV t).any fun x => vElem x 32 2 0 == 6) = true := by
  decide +kernel

theorem test_mask_words_have_states : InSlot (vecs 3 4) 0 ∧ ((2 : BitVec 8).toNat % 16 < 8) ∧ ((7 : BitVec 8).toNat % 16 < 8) := by
  decide +kernel

/-- R183: element 0 of every lane is below, the others equal; nothing above the eight elements of z32. -/
theorem test_vcmp_below :
    goes (exec (.vcmp { vform 5 with d := 1, fn := 2 }) (vecs 3 4)) (fun t => t.core.kern.pend.any fun w => match w.what with
      | .m r m => r == 1 && mBit m 0 0 && mBit m 15 0 && !mBit m 0 1 && !mBit m 0 8
      | _ => false) = true := by
  decide +kernel

/-- R189, R192: `vidx` gives the lane number; `vins` writes one element. -/
theorem test_vector_moves :
    goes (exec (.vidx { vform 5 with a := 0, b := 0 }) (vecs 0 0)) (fun t => (pendV t).any fun x => vElem x 32 11 3 == 11) = true ∧
    goes (exec (.vbcastLane { vform 5 with l := 0 }) (vecs 7 2)) (fun t => (pendV t).any fun x => vElem x 32 15 0 == 7) = true := by
  decide +kernel

theorem test_lane_flag_words_have_a_state : InSlot (slot .v1) 0 := by decide +kernel

/-- R186, R158: `vcvt` of 1.0 in f32 to f16. -/
theorem test_vcvt :
    goes (exec (.vcvt { vform 11 with b := 0, c := 9 }) (vecs 0x3F800000 0)) (fun t => (pendV t).any fun x => vElem x 16 4 0 == 0x3C00) =
      true := by
  decide +kernel

/-- All formats accepted. -/
def spectral (s : State) : State := { s with md := { s.md with faccept := 0xFF } }

theorem test_pack_words_have_states :
    InSlot (spectral (vecs 0 0)) 0 ∧ (fmtReserved (spectral (vecs 0 0)) 3 = false ∧ fmtPackable 3 = false) ∧
    (fmtReserved (spectral (vecs 0 0)) 5 = false ∧ fmtPackable 5 = true ∧ (tileFmt 5).isSome = true) ∧
    (fmtReserved (spectral (vecs 0 0)) 0x18 = false ∧ fmtPackable 0x18 = true ∧ (tileFmt 0x18).map (·.scaling) = some .kf) ∧
    bandOk (bandOf (spectral (vecs 0 0x3F80)) (vform 9) 7) = true ∧
    bandFinite (bandOf (spectral (vecs 0 0x3F80)) (vform 9) 7) = true ∧ slotsBad 0 = false := by
  decide +kernel

theorem test_reductions_have_a_state :
    InSlot (vecs 3 4) 0 ∧ tyUnsigned (vform 5).ty = true ∧ (vform 5).sat = 0 ∧ (vform 5).fn.toNat % 16 = 0 := by
  decide +kernel

/-- The example of R132: 2^24, 1 and 1 in lanes 0, 2 and 3 sum to 2^24 + 2 by the tree. -/
theorem test_vred_example :
    let s := (slot .v0).withKern { (slot .v0).core.kern with
      v := (slot .v0).core.kern.v.set 4 (BitVec.ofNat 4096 (0x4B800000 + 0x3F800000 * 2 ^ 512 + 0x3F800000 * 2 ^ 768)) }
    goes (exec (.vred { vform 9 with b := 0 }) s) (fun t => (pendV t).any fun x => vElem x 32 0 0 == 0x4B800001 &&
      vElem x 32 15 0 == 0x4B800001) = true := by
  decide +kernel

/-- R194: (1 + i)(1 + i) = 2i in complex bf16; R195: two products of s8 pairs added to zero. -/
theorem test_vcmul_and_vdot :
    goes (exec (.vcmul (vform 0x11)) (vecs 0x3F803F80 0x3F803F80)) (fun t => (pendV t).any fun x => vElem x 32 6 0 == 0x40000000) =
      true ∧
    goes (exec (.vdot { vform 3 with c := 6 }) (vecs 0x0302 0x0504)) (fun t => (pendV t).any fun x => vElem x 32 6 0 == 23) = true := by
  decide +kernel

/-! ## Memory words -/

/-- `Reaches` of a statement, computed, with a further condition on the target. -/
def reached (s : State) (opc : BitVec 8) (aop : BitVec 4) (w : MForm) (a : Word) (n align : Nat) (f : Target → State → Bool) : Bool :=
  (frontTrap a n align anyAperture (writesMem opc)).isNone &&
    match resolve s (cpAccess s) { entryOf s opc w a n with aop := aop } with
    | .ok (t, s') => !t.cut s' s'.focus && f t s'
    | .error _ => false

theorem reached_meets {s : State} {opc : BitVec 8} {aop : BitVec 4} {w : MForm} {a : Word} {n align : Nat} {f : Target → State → Bool}
    (h : reached s opc aop w a n align f = true) : ∃ t s', Reaches s opc aop w a n align t s' ∧ f t s' = true := by
  unfold reached at h
  split at h
  · rename_i t s' hr
    simp only [Bool.and_eq_true, Bool.not_eq_true', Option.isNone_iff_eq_none] at h
    exact ⟨t, s', ⟨h.1, hr, h.2.1⟩, h.2.2⟩
  · simp at h

/-- The target is a stack of this package, free for reads and writes. -/
def inStack (n : Nat) (t : Target) (s : State) : Bool :=
  match t.loc with
  | .stk p k o => p == s.md.pkg.toNat && !quiesced s (cellKey s p k o) && (metPoison s (cellKey s p k o) false).isNone &&
      !lineWaits s (cellKey s p k o) && t.lattice < n
  | _ => false

theorem inStack_readable {m n : Nat} {t : Target} {s : State} (h : inStack m t s = true) : Readable s t n := by
  obtain ⟨l, y, z⟩ := t
  cases l with
  | stk p k o =>
    simp only [inStack, Bool.and_eq_true, beq_iff_eq, Bool.not_eq_true', Option.isNone_iff_eq_none] at h
    exact ⟨h.1.1.1.1, h.1.1.1.2, h.1.1.2⟩
  | _ => simp [inStack] at h

/-- Virtual page 0 is local page 2, readable and writable, with the lattice type. -/
def mapped (lattice : BitVec 3) : State :=
  let s := { nums 0 5 with md := { cpu.md with faccept := 0xFF, astLen := 1 } }
  putWords (putWords s 0 [1, 4097]) 4096 [1, 0, 8192, (lattice ++ (0xF : BitVec 4)).setWidth 64]

/-- The word at address gA = 0, or in the own SRF. -/
def mform (t : BitVec 5) : MForm := ⟨0, 3, 4, 5, t, 0, 0, 0, 0⟩
def inSrf : State := (nums 0xFF00000000000000 5).withCp (((nums 0xFF00000000000000 5).core.cp).writeG 5 0)

theorem test_loads_and_stores_reach_memory :
    OnCp (mapped 0) 0 ∧
    reached ((mapped 0).withCp ((mapped 0).core.cp.writeG 5 0)) 0xB0 0 (mform 4) 0 8 8 (inStack 1) = true ∧
    reached ((mapped 0).withCp ((mapped 0).core.cp.writeG 5 0)) 0xB4 0 (mform 4) 0 16 16 (inStack 1) = true ∧
    reached ((mapped 0).withCp ((mapped 0).core.cp.writeG 5 0)) 0xB1 0 (mform 4) 0 8 8 (inStack 1) = true ∧
    reached ((mapped 0).withCp ((mapped 0).core.cp.writeG 5 0)) 0xB7 0 (mform 4) 0 128 128 (inStack 1) = true ∧
    reached inSrf 0xB0 0 (mform 4) 0xFF00000000000000 8 8 (fun t s => t.loc == .srf 0 0 && !(s.getCore 0).srfBad 0 8) = true := by
  decide +kernel

theorem test_stores_have_a_state : Canonical (mapped 0) ∧ Canonical inSrf ∧ OnCp inSrf 0 := by decide +kernel

/-- R96, R319: the low byte of g5 stored in the SRF, and nothing else. -/
theorem test_store_byte :
    goes (exec (.st { mform 7 with d := 4, b := 0 }) (nums 0xFF00000000000000 0)) (fun t => t.core.srf == []) = true ∧
    goes (exec (.st { mform 7 with d := 5, b := 0 }) (nums 0xFF00000000000000 0x1234)) (fun t => t.core.srf == [(0, 0x34)]) = true := by
  decide +kernel

/-- R319: a loaded s8 is extended by its sign; the SRF byte 0x80 reads as −128. -/
theorem test_load_byte :
    goes (exec (.ld { mform 3 with b := 0 }) { nums 0xFF00000000000000 0 with core := { (nums 0xFF00000000000000 0).core with srf := [(0, 0x80)] } })
      (fun t => t.core.cp.readG 3 == -128) = true := by
  decide +kernel

theorem test_bad_addresses_have_states :
    OnCp cpu 0 ∧ cpu.core.cp.inTrap = false ∧ fld (0x1200000000000000 : Word) 56 8 ∉ [0x00, 0xFE, 0xFF] ∧
    fld (0xFF00000000000004 : Word) 56 8 ∈ [0x00, 0xFE, 0xFF] ∧ (0xFF00000000000004 : Word).toNat % 8 ≠ 0 ∧
    (0xFF00000000000008 : Word).toNat % 16 ≠ 0 := by
  decide +kernel

/-- R316: MISALIGNED with CTADDR the address, WRITE for a store. -/
theorem test_misaligned_store :
    goes (exec (.st { mform 4 with b := 0 }) (nums 0xFF00000000000004 0))
      (fun t => t.core.cp.ctaddr == 0xFF00000000000004 && bit t.core.cp.ctinfo 5) = true := by
  decide +kernel

theorem test_atomics_reach_memory :
    OnCp (mapped 0) 0 ∧ Canonical (mapped 0) ∧ reached (mapped 0) 0xB8 0 (mform 4) 0 8 8 (inStack 1) = true ∧
    reached (mapped 0) 0xB8 6 (mform 4) 0 8 8 (inStack 1) = true ∧ reached (mapped 0) 0xB9 7 (mform 8) 0 8 8 (inStack 1) = true ∧
    reached (mapped 0) 0xBA 0 (mform 4) 0 8 8 (inStack 1) = true := by
  decide +kernel

/-- R326, R327: `amo.add` of 5 to a cell that reads 0; `cas` with gD = 0 stores, with gD = 1 leaves it. -/
theorem test_amo_and_cas :
    goes (exec (.amoAdd (mform 4)) (mapped 0)) (fun t => t.mem.length == (mapped 0).mem.length + 1 && t.core.cp.readG 3 == 0) = true ∧
    goes (exec (.cas (mform 4)) (mapped 0)) (fun t => t.mem.length == (mapped 0).mem.length + 1) = true ∧
    goes (exec (.cas (mform 4)) ((mapped 0).withCp ((mapped 0).core.cp.writeG 3 1))) (fun t => t.mem == (mapped 0).mem) = true := by
  decide +kernel

theorem test_lattice_words_reach_memory :
    OnCp (mapped 1) 0 ∧ Canonical (mapped 1) ∧ reached (mapped 1) 0xBB 0 (mform 1) 0 8 8 (inStack 8) = true ∧
    reached (mapped 7) 0xBB 0 (mform 7) 0 8 8 (inStack 8) = true ∧ reached (mapped 1) 0xBC 0 (mform 1) 0 8 8 (inStack 8) = true ∧
    latPasses 1 0 0 = true ∧ latPasses 1 5 0 = false := by
  decide +kernel

/-- R329: the join of a maximum cell that reads 0 with 5 is 5; R330: an `ldge` below its threshold waits. -/
theorem test_join_and_ldge :
    goes (exec (.join (mform 1)) (mapped 1)) (fun t => t.mem.length == (mapped 1).mem.length + 1) = true ∧
    goes (exec (.ldge (mform 1)) (mapped 1)) (fun t => t.core.cp.wait.isSome && t.core.cp.pc == 0) = true := by
  decide +kernel

/-- A kernel's memory word with kA = 0, or in the own SRF. -/
def slotMem (a : Word) : State :=
  (slot .s).withKern { (slot .s).core.kern with k := (slot .s).core.kern.k.set 4 a }

theorem test_kernel_accesses_have_states :
    InSlot (slotMem 0) 0 ∧ frontTrap (0 : Word) 8 8 anyAperture true = none ∧ ownOffset (slotMem 0) 0 = none ∧
    ownOffset (slotMem 0) 0xFF00000000000040 = some 0x40 ∧ (slotMem 0).core.srfBad 0x40 8 = false ∧
    frontTrap (0xFF00000000000040 : Word) 8 8 anyAperture false = none ∧ (slotMem 0).core.kern.landing.get 0 = none ∧
    (slotMem 0).core.kern.wqueue.get 0 = none := by
  decide +kernel

theorem test_srf_moves_have_states :
    InSlot (slot .c0) 0 ∧ frontTrap (0xFF00000000000040 : Word) 512 64 srfApertures false = none ∧
    frontTrap (0xFE00000000400040 : Word) 512 64 srfApertures true = none ∧ ownOffset (slot .c0) 0xFE00000000400040 = none ∧
    (slot .c0).core.srfBad 0x40 512 = false := by
  decide +kernel

/-- Every lane's element address lies in the own SRF: byte addresses are 0xFF… with the index register at 0. -/
theorem test_element_moves_have_a_state :
    let s := (slot .c0).withKern { (slot .c0).core.kern with k := (slot .c0).core.kern.k.set 4 0xFF00000000000000 }
    (∀ l < 16, elemTrap s (mform 4) false l = none) ∧ (∀ l < 16, elemTrap s (mform 4) true l = none) := by
  decide +kernel

theorem test_address_words_have_states :
    guardHolds cpu 0 = true ∧
    (fld (0xFF00000000000010 : Word) 56 8 = 0xFF ∧ fld (0xFF00000000000010 : Word) 22 34 = 0 ∧ fld (0xFF00000000000010 : Word) 0 22 < 0x300000) ∧
    (fld (0xFE00000017C00010 : Word) 56 8 = 0xFE ∧ fld (0xFE00000017C00010 : Word) 29 27 = 0 ∧ fld (0xFE00000017C00010 : Word) 22 7 = 95 ∧
      fld (0xFE00000017C00010 : Word) 0 22 < 0x300000) ∧ coreNum cpu.focus = 0 := by
  decide +kernel

/-- R336: `cvta.core` to core 95, the last, and to 96, which does not exist. -/
theorem test_cvta_core :
    goes (exec (.cvtaCore (rform 0)) (nums 0xFF00000000000010 95)) (fun t => t.core.cp.readG 3 == 0xFE00000017C00010) = true ∧
    goes (exec (.cvtaCore (rform 0)) (nums 0xFF00000000000010 96)) (fun t => t.core.cp.inTrap) = true := by
  decide +kernel

theorem test_fences_have_states :
    OnCp cpu 0 ∧ (mform 0).sc ≠ 1 ∧ InSlot (slot .s) 0 ∧ (slot .s).scope ≠ 1 ∧ InSlot { slot .s with scope := 1 } 0 ∧
    cpu.core.cp.mode = true := by
  decide +kernel

/-- A claimed channel of a group of two cores, 0 and 1, one arrival short. -/
def channel : Channel := ⟨0, none, 2, 0, [0, 1], false, []⟩
def barred (s : State) (a : Arrival) : State := { s with core := { s.core with arrDie := a }, channels := [channel] }

theorem test_barrier_words_have_states :
    let s := barred cpu ⟨none, none⟩
    let k := barred (slot .s) ⟨none, none⟩
    let mine := Channel.isFor 0 0 true 2
    guardHolds s 0 = true ∧ s.core.prog = some ⟨0, 0, 1, 0⟩ ∧ s.channels.find? mine = some channel ∧ cpu.channels.find? mine = none ∧
    s.core.arrival true = ⟨none, none⟩ ∧ k.core.kern.settled k.core.kern.seq = true ∧ k.channels.find? mine = some channel ∧
    (({ channel with arrived := setAdd 0 channel.arrived } : Channel).settle).gen = channel.gen ∧
    (({ channel with arrived := setAdd 0 [1] } : Channel).settle).gen ≠ channel.gen ∧
    (barred cpu ⟨some true, none⟩).core.arrival true = ⟨some true, none⟩ ∧ true ≠ channel.gen ∧ false = channel.gen ∧
    (barred (slot .s) ⟨none, some 0⟩).core.arrival true = ⟨none, some 0⟩ ∧
    (barred (slot .s) ⟨none, some 0⟩).channels.find? (fun d => d.launch == 0 && d.parts.contains 0 && d.quad.isNone == true) = some channel ∧
    mine channel = true ∧ ((barred (slot .s) ⟨none, some 0⟩).core.arrival false).pending = none := by
  decide +kernel

/-- R339: the arrival is recorded with generation 0, and a wait on it waits. -/
theorem test_bar_arrive_and_wait :
    goes (exec (.barArrive ⟨0, 0, 0, 4, 2⟩) (barred cpu ⟨none, none⟩)) (fun t => t.core.arrDie == ⟨some false, none⟩ && t.core.cp.pc == 8) =
      true ∧
    goes (exec (.barWait ⟨0, 0, 0, 5, 2⟩) (barred cpu ⟨some false, none⟩)) (fun t => t.core.cp.wait.isSome && t.core.cp.pc == 0) = true ∧
    goes (exec (.barWait ⟨0, 0, 0, 5, 2⟩) (barred cpu ⟨none, none⟩)) (fun t => t.core.cp.inTrap) = true := by
  decide +kernel

/-! ## Tile multiplier and transform slot -/

/-- A record with a zero payload at SRF offset 0, its header in the cells; k4 = 4096, k5 = 0 and k6 = 0. -/
def withRecord (p : Place) (header : List Host.Cell) : State :=
  { slot p with
    core := { (slot p).core with
      srf := header, kern := { (slot p).core.kern with k := (slot p).core.kern.k.set 4 4096 } }
    md := { cpu.md with faccept := 0xFF } }

/-- Headers with the CRC of R249 computed by hand: 32 rows of 32 columns of bf16; 32 rows of 16 complex columns with the
tags DOMAIN, DOMAIN and PACKED, and all three. -/
def bf16Cells : List Host.Cell := [(0, 0x03), (2, 0x20), (3, 0x20), (62, 0xFC), (63, 0xB7)]
def turnCells : List Host.Cell := [(0, 0x28), (1, 0x01), (2, 0x20), (3, 0x10), (62, 0x1B), (63, 0x0B)]
def packedCells : List Host.Cell := [(0, 0x28), (1, 0x03), (2, 0x20), (3, 0x10), (62, 0x7B), (63, 0xB8)]
def scaledCells : List Host.Cell := [(0, 0x28), (1, 0x07), (2, 0x20), (3, 0x10), (62, 0x9A), (63, 0xCE)]

def bf16Tile : Header := ⟨3, false, false, false, 32, 32, 0⟩

/-- Records at kA = k5 for every lane, part 0, into latch 1. -/
def fillWord : RForm := ⟨0, 1, 5, 5, 6, 0, 0, 0, 0, 0, 0⟩

theorem test_fills_have_a_state :
    InSlot (withRecord .m bf16Cells) 0 ∧ headerAt (withRecord .m bf16Cells) 0 = some bf16Tile ∧ (tileFmt 3).isSome = true := by
  decide +kernel

theorem test_fill_all_checks_pass : fillTrap (withRecord .m bf16Cells) fillWord 0 0 1 = none := by decide +kernel

theorem test_fill_part_checks_pass : fillTrap (withRecord .m bf16Cells) fillWord 1 15 1 = none := by decide +kernel

theorem test_fill_gather_checks_pass : fillTrap (withRecord .m bf16Cells) fillWord 2 15 1 = none := by decide +kernel

/-- A state whose latches hold tiles of a code. -/
def latched (code : BitVec 7) (domain : Bool) : State :=
  (slot .m).withKern { (slot .m).core.kern with
    latch := Vector.replicate 4 (Vector.replicate 16 { LatchLane.reset with fmt := code, domain := domain })
    acc := Vector.replicate 4 (Vector.replicate 16 { AccLane.reset with domain := domain }) }

theorem test_passes_have_states :
    InSlot (latched 3 false) 0 ∧
    (∀ op ∈ [0, 1, 2, 3, 5], passCause op (((latched 3 false).core.kern.latch.get 0).get 0) (((latched 3 false).core.kern.latch.get 1).get 0)
      (((latched 3 false).core.kern.acc.get 0).get 0) = none) ∧
    passCause 4 (((latched 0x28 true).core.kern.latch.get 0).get 15) (((latched 0x28 true).core.kern.latch.get 1).get 15)
      (((latched 0x28 true).core.kern.acc.get 0).get 15) = none ∧
    (((slot .m).core.kern.latch.get 0).get 0).fmt = 0 ∧ InSlot (slot .m) 0 := by
  decide +kernel

/-- R207: an empty latch faults FORMAT_MISMATCH in every lane. -/
theorem test_tmma_of_empty_latches :
    goes (exec (.tmmaMadd ⟨0, 0, 0, 1, 0, 0, 0, 0, 0, 0, 0⟩) (slot .m)) (fun t => t.core.kern.stop.any fun f =>
      f.trap.cause == .formatMismatch && f.trap.lmask == 0xFFFF) = true := by
  decide +kernel

theorem test_accumulator_words_have_states :
    let t : AccLane := ((slot .m).core.kern.acc.get 0).get 0
    InSlot (slot .m) 0 ∧ t.domain = false ∧ tyComplex 9 = false ∧ fmtReserved (slot .m) 5 = false ∧ fmtPackable 5 = true := by
  decide +kernel

theorem test_row_into_a_clear_tile :
    (accStep .replace ((List.range 1024).map fun e => if e / 32 = 0 then some (.fin false 0 0) else none) AccLane.reset).1.isSome =
      true := by
  decide +kernel

/-- Tiles of zeros with exponent 0 merge, whatever their number of elements. -/
theorem test_merge_of_zero_tiles (n : Nat) :
    (accStep .add ((List.replicate n 0).map fun m => some (accValue (some 0) m)) ⟨some 0, List.replicate n 0, false, false, false⟩).1.isSome =
      true := by
  have h : candOf (some 0) (accApply .add (accValue (some 0) 0) (accValue (some 0) 0)) = .fin 0 := by decide +kernel
  have c : candidates .add (some 0) (List.replicate n 0) (List.replicate n (some (accValue (some 0) 0))) = List.replicate n (.fin 0) := by
    simp [candidates, h]
  have l (k : Nat) : accLoop .add (List.replicate n (some (accValue (some 0) 0))) (k + 1) ⟨some 0, List.replicate n 0, false, false, false⟩ =
      some ⟨some 0, List.replicate n 0, false, false, false⟩ := by
    rw [accLoop, c, if_neg (by simp [Cand.big])]
    simp [Cand.val]
  rw [List.map_replicate]
  show (accLoop .add _ (199 + 1) _).isSome = true
  exact (congrArg Option.isSome (l 199)).trans rfl

/-- R217: a reset accumulator reports no exponent (bit 10). -/
theorem test_tstat_of_reset :
    goes (exec (.tstatAcc { rform 0 with a := 0, b := 0 }) (slot .m)) (fun t => t.core.kern.pend.any fun w => w.what == .k 3 0x400) =
      true := by
  decide +kernel

/-- The plan's checks pass, or fail. -/
def planned (x : XCheck XResult) : Bool :=
  match x with
  | .ok _ => true
  | .error _ => false

/-- From offset 0 to offset 4096. -/
def xform (ty : BitVec 5) : RForm := ⟨0, 0, 4, 5, 6, 0, ty, 0, 0, 0, 0⟩

theorem test_transform_checks_pass :
    InSlot (withRecord .x bf16Cells) 0 ∧ planned (xtrnPlan (withRecord .x bf16Cells) (xform 0)) = true ∧
    planned (xmovPlan (withRecord .x bf16Cells) (xform 0)) = true ∧
    planned (xexpPlan (withRecord .x bf16Cells) (xform 0)) = true ∧
    planned (xhdrPlan ((withRecord .x bf16Cells).withKern { (withRecord .x bf16Cells).core.kern with
      k := (withRecord .x bf16Cells).core.kern.k.set 5 0x20200003 }) (xform 0)) = true := by
  decide +kernel

theorem test_spectral_checks_pass :
    planned (xfftPlan (withRecord .x bf16Cells) (xform 0x11)) = true ∧
    planned (xifftPlan (withRecord .x packedCells) (xform 0x0A)) = true ∧
    planned (xcvtPlan (withRecord .x bf16Cells) { xform 0 with c := 2 }) = true ∧
    planned (xsclPlan false (withRecord .x packedCells) (xform 0)) = true ∧
    planned (xsclPlan true (withRecord .x scaledCells) (xform 0)) = true := by
  decide +kernel

/-- With no record in the SRF every source check fails. -/
theorem test_transform_checks_fail :
    ∀ p ∈ [xfftPlan, xifftPlan, xtrnPlan, xturnPlan, xbackPlan, xcvtPlan, xsclPlan false, xsclPlan true, xmovPlan],
      planned (p (slot .x) (xform 0)) = false := by
  decide +kernel

/-- The sixteen records of `xtrn.turn` and `xtrn.back` at one place. -/
theorem test_turn_checks_pass :
    planned (xturnPlan (withRecord .x turnCells) { xform 0 with a := 6 }) = true := by
  decide +kernel

theorem test_turn_back_checks_pass :
    planned (xbackPlan (withRecord .x turnCells) (xform 0)) = true := by
  decide +kernel

theorem test_moves_of_tiles_have_a_state :
    let s := withRecord .x bf16Cells
    (readR s 5).toNat % 64 = 0 ∧ (readR s 4).toNat % 64 = 0 ∧ (readR s 4).toNat + footprint 3 ≤ 0x300000 ∧
    headerCheck s (srfBytes s.core 0 64) = .ok bf16Tile ∧ fmtKF 3 = false ∧ s.core.srfBad 0 (footprint 3) = false := by
  decide +kernel

/-! ## Stream words -/

/-- Descriptors: 0 and 1 buffers of 64 records of 64 bytes, 2 a circular one, 3 two records of bf16 tiles; g4 = 0,
g5 = 64, g6 = 1, g7 an object's address. -/
def streams : State :=
  let c := ((cpu.core.cp.writeG 5 64).writeG 6 1).writeG 7 0xFF00000000100000
  { cpu with
    core := { cpu.core with
      cp := c
      st := { cpu.core.st with
        sd := (((cpu.core.st.sd.set 0 ⟨0x1000000000, 0x400040⟩).set 1 ⟨0x1000001000, 0x400040⟩).set 2
          ⟨0x1000002000, 0x200000400040⟩).set 3 ⟨0x1080004000, 0xC008400840⟩ } }
    ports := cpu.ports.set 0 { cpu.ports.get 0 with rings := [(0, { Ring.reset with entry := 1 })] }
    md := { cpu.md with faccept := 0xFF } }

/-- Descriptors 0 and 1, gA = g4, gB = g5, gC = g0, gD = g6. -/
def sform (fn : BitVec 4) (ga gb gd : BitVec 5) : SForm := ⟨0, 0, 1, 0, 0, ga, gb, 0, gd, 0, 0, fn, 0, 0⟩

/-- The checks pass. -/
def admitted (x : SCheck (List Extent)) : Bool :=
  match x with
  | .ok _ => true
  | .error _ => false

theorem test_copies_pass_their_checks :
    OnCp streams 0 ∧ admitted (sloadCheck streams (sform 0 0 0 0)) = true ∧ admitted (sstoreCheck streams (sform 0 0 0 0)) = true ∧
    admitted (scopyCheck false streams (sform 0 0 0 0)) = true ∧ admitted (scopyCheck true streams (sform 1 0 0 0)) = true ∧
    admitted (scopyMCheck streams (sform 2 5 0 5)) = true ∧ admitted (sfillCheck false streams (sform 0 0 0 0)) = true ∧
    admitted (sfillCheck true streams (sform 1 0 0 0)) = true ∧ admitted (sfillMCheck streams (sform 2 0 0 5)) = true := by
  decide +kernel

theorem test_other_transfers_pass_their_checks :
    admitted (stileCheck false streams { sform 0 0 0 0 with sd := 3 }) = true ∧
    admitted (stileCheck true streams { sform 1 0 0 0 with se := 3 }) = true ∧
    admitted (sgatherCheck streams (sform 0 0 5 6)) = true ∧ admitted (sscaddCheck streams (sform 0 0 5 6)) = true ∧
    admitted (srecvCheck streams { sform 0 0 0 6 with sd := 2 }) = true ∧ admitted (krunCheck streams (sform 0 6 6 0)) = true ∧
    admitted (snopCheck streams (sform 0 0 6 0)) = true := by
  decide +kernel

/-- An invalid descriptor, an odd address, a bad mode. -/
theorem test_transfers_fail_their_checks :
    admitted (sloadCheck cpu (sform 0 0 0 0)) = false ∧ admitted (sstoreCheck streams (sform 0 6 0 0)) = false ∧
    admitted (krunCheck streams (sform 0 7 6 0)) = false ∧ admitted (snopCheck streams (sform 0 0 7 0)) = false := by
  decide +kernel

/-- A queue of 32, a token to name, an object whose INFLIGHT can be counted. -/
def fullQueue : State :=
  streams.withSt { streams.core.st with queue := List.replicate 32 (entryFor streams 0xDF (sform 0 0 0 0) []) }

theorem test_joining_has_states :
    fullQueue.core.st.queue.length = 32 ∧ streams.core.st.queue.length < 32 ∧
    (match objUpdateAt streams (engAccess streams (entryFor streams 0xD0 (sform 0 0 0 0) [])) (streams.core.cp.readG 7)
        (fun w0 w1 => if fld w1 16 16 = 0xFFFF then none else some (w0, setFld w1 16 16 (fld w1 16 16 + 1))) with
      | .ok ((_, b), _) => b
      | .error _ => false) = true ∧
    fld (streams.core.cp.readG 4) 56 8 = 0 ∧ (streams.core.cp.readG 4).toNat % 64 = 0 ∧ descCause streams (descOf streams 0) = none ∧
    descCause streams (descOf streams 1) = none ∧ (streams.core.cp.readG 6).toNat < 1024 ∧ 1024 ≤ (streams.core.cp.readG 7).toNat := by
  decide +kernel

/-- R346: a `snop` joins the queue; R384: a `krun` from bundle 1,024 traps KERNEL_ENTRY. -/
theorem test_snop_joins :
    goes (exec (.snop (sform 0 0 6 0)) streams) (fun t => t.core.st.queue.length == 1 && t.core.cp.pc == 8) = true ∧
    goes (exec (.krun (sform 0 5 6 0)) (streams.withCp (streams.core.cp.writeG 5 1024))) (fun t => t.core.cp.inTrap) = true := by
  decide +kernel

/-- A token word, a queue, and unreported faults. -/
def waiting (tok : Word) (queue : List QEntry) (unreported : List Unreported) (overflow : Option Cause) : State :=
  streams.withSt { streams.core.st with tok := streams.core.st.tok.set 0 tok, queue, unreported, overflow }

def krunEntry : QEntry := entryFor streams 0xD8 (sform 0 6 6 0) []
def lateFault : Unreported := ⟨5, true, none, .misaligned, 0⟩

theorem test_token_waits_have_states :
    OnCp (waiting 2 [] [] none) 0 ∧ fld (2 : Word) 0 2 = 2 ∧ fld (5 : Word) 0 2 = 1 ∧ fld (0 : Word) 0 2 = 0 ∧
    (fld (7 : Word) 0 2 = 3 ∧ fld (7 : Word) 2 6 ≠ 0) ∧ (fld (3 : Word) 0 2 = 3 ∧ fld (3 : Word) 2 6 = 0) ∧
    (∃ x ∈ (waiting 0 [krunEntry] [] none).core.st.queue, x.opc = 0xD8) ∧
    (∃ y ∈ (waiting 0 [] [lateFault] none).core.st.unreported, y.krun = true) ∧
    (waiting 0 [krunEntry] [] none).core.st.queue ≠ [] ∧ (waiting 0 [] [] none).core.st.overflow = none := by
  decide +kernel

/-- A kernel that has stopped, its `krun` in flight. -/
def stoppedKernel : State :=
  (streams.withSt { streams.core.st with flight := [{ krunEntry with stage := .running }] }).withKern { streams.core.kern with
    kstat := 2, krun := some krunEntry.seq }

theorem test_resuming_has_states :
    fld stoppedKernel.core.kern.kstat 0 2 = 2 ∧ fld streams.core.kern.kstat 0 2 ≠ 2 ∧ stoppedKernel.core.cp.mode = true := by
  decide +kernel

theorem test_descriptor_moves_have_states :
    descCause streams (descOf streams 2) = none ∧ bit (descOf streams 2).w1 45 = true ∧ bit (descOf streams 1).w1 45 = false ∧
    (1 * fld (descOf streams 1).w1 16 22 + fld (descOf streams 1).w1 0 16 ≤ fld (descOf streams 1).w0 24 22) ∧
    (fld (descOf streams 1).w0 24 22 < 64 * fld (descOf streams 1).w1 16 22 + fld (descOf streams 1).w1 0 16) := by
  decide +kernel

/-- R355: waiting for a done token gives its word; for an idle one traps TOKEN_UNARMED. -/
theorem test_swait :
    goes (exec (.swait { sform 0 0 0 6 with te := 1 }) (waiting 0x202 [] [] none)) (fun t => t.core.cp.readG 6 == 0x202) = true ∧
    goes (exec (.swait { sform 0 0 0 6 with te := 1 }) (waiting 0 [] [] none)) (fun t => t.core.cp.inTrap) = true := by
  decide +kernel

/-- A barrier object in the own SRF with the given bytes of EXPECTED, ARRIVED and the second word. -/
def object (exp arr w1 : Byte) : State :=
  let c := (cpu.core.cp.writeG 4 0xFF00000000000000).writeG 5 1
  { cpu with core := { cpu.core with cp := c, srf := cellPutAll [] [(0, exp), (4, arr), (8, w1)] } }

/-- The object loads, with its two words. -/
def loaded (s : State) (opc : BitVec 8) : Option (Loc × Word × Word) :=
  match objLoad s (cpAccess s) (engEntry s opc 0xFF00000000000000 16 []) with
  | .ok (x, _) => some x
  | .error _ => none

theorem test_barrier_objects_have_states :
    OnCp (object 2 0 2) 0 ∧ frontTrap 0xFF00000000000000 16 16 (fun _ => true) (writesMem 0xDC) = none ∧
    frontTrap 0xFF00000000000000 16 16 (fun _ => true) (writesMem objRead) = none ∧ (object 2 0 2).core.cp.wait = none ∧
    loaded (object 2 0 2) 0xDC = some (.srf 0 0, 2, 2) ∧ loaded (object 1 0 2) 0xDC = some (.srf 0 0, 1, 2) ∧
    loaded (object 1 1 2) 0xDC = some (.srf 0 0, 0x100000001, 2) ∧ loaded (object 0 0 0) objRead = some (.srf 0 0, 0, 0) ∧
    loaded (object 0 0 6) objRead = some (.srf 0 0, 0, 6) ∧ loaded (object 0 0 3) objRead = some (.srf 0 0, 0, 3) ∧
    ({ object 0 0 6 with objErr := [⟨0, 0, 0, .misaligned, 0⟩] } : State).objErr.find? (fun y : ObjErr => (y.kind, y.owner, y.off) == objPlace (.srf 0 0)) =
      some ⟨0, 0, 0, .misaligned, 0⟩ := by
  decide +kernel

/-- R357: one of two expected arrivals; the last flips the phase; R389: arming with 0 traps BAD_MODE. -/
theorem test_barrier_object_arrivals :
    goes (exec (.barvArrive (sform 1 4 5 0)) (object 2 0 2)) (fun t => cellGet t.core.srf 4 == 1 && cellGet t.core.srf 8 == 2) = true ∧
    goes (exec (.barvArrive (sform 1 4 5 0)) (object 1 0 2)) (fun t => cellGet t.core.srf 4 == 0 && cellGet t.core.srf 8 == 3) = true ∧
    goes (exec (.barvArm (sform 0 4 6 0)) (object 1 0 2)) (fun t => t.core.cp.inTrap) = true := by
  decide +kernel

/-! ## Kernels over time -/

/-- A running kernel with the engine's fields as given. -/
def kern (k : Kern) : State := cpu.withKern { k with kstat := k.kstat ||| 1 }
def idle : Kern := cpu.core.kern

/-- Interrupts enabled, two causes pending: THERMAL before POWER_CAP. -/
def pendingTwo : State :=
  cpu.withCp { cpu.core.cp with cstat := 0x180003, pending := [{ cause := .powerCap }, { cause := .thermal }] }

theorem test_pending_causes_have_states :
    (pendingTwo.focusOn 0).core.cp.run = .running ∧ bit pendingTwo.core.cp.cstat 1 = true ∧ pendingTwo.core.cp.work = .idle ∧
    pendingTwo.core.cp.wait = none ∧ (⟨.thermal, 0, true, 0⟩ : Async).kernel = true := by
  decide +kernel

theorem test_foremost_of_one : Foremost { cause := .thermal } [{ cause := .thermal }] :=
  ⟨[], [], rfl, by simp, by simp⟩

/-- R402: the cause of the higher row is taken first; the other stays pending. -/
theorem test_take_trap :
    goes (exec (.takeTrap 0) pendingTwo) (fun t => t.core.cp.pending.length == 1 && t.core.cp.inTrap && bit t.core.cp.ccause 7) = true := by
  decide +kernel

/-- A `krun` from bundle 0 to bundle 1, first in flight. -/
def krunFlight : QEntry := { entryFor cpu 0xD8 (sform 0 0 0 0) [] with stage := .running, a := 0, b := 1 }
def starting : State := cpu.withSt { cpu.core.st with flight := [krunFlight] }

theorem test_kernel_start_has_a_state :
    let x := starting.focusOn 0
    x.core.cp.run = .running ∧ x.core.ctx.pend = false ∧ fld x.core.kern.kstat 0 2 = 0 ∧
    x.core.st.flight = [] ++ krunFlight :: [] ∧ krunFlight.opc = 0xD8 ∧ krunFlight.stage = .running := by
  decide +kernel

/-- Bundle 0 holds a header and an `add` in position 1; the kernel ends before bundle 1. -/
def issuing : State := kern { idle with kstat := 0x10000, store := [(0, 0), (1, 0x0100C41400008000)] }

theorem test_bundle_issue_has_a_state :
    let x := issuing.focusOn 0
    let h := (lookupNum 0 x.core.kern.store).getD 0
    kernelNext x = .issue ∧ x.core.kern.nextPc < 1024 ∧ fld h 8 3 ≤ 5 ∧ fld h 11 21 = 0 ∧ bit x.core.kern.kstat 2 = false ∧
    (match bundleWords x 0 0 1 with
      | .ok l => l != [] && !slotConflict l && !l.any isBranch && l.countP (needsLanding x) == 0 && l.countP (needsQueue x) == 0 &&
          l.all fun w => (unitOf (opcOf w.word)).isNone
      | .error _ => false) = true := by
  decide +kernel

/-- R122: the bundle is in issue, its words still to come. -/
theorem test_bundle_issue :
    goes (exec (.kernelBundleIssue 0) issuing) (fun t => t.core.kern.issuing.any fun b => b.words.length == 1) = true := by
  decide +kernel

/-- An entry that reads the own SRF, with the given data or failure. -/
def srfRead (st : EntryStatus) : LogEntry := { entryOf (slot .s) 0xB0 (mform 4) 0xFF00000000000000 8 with dest := some (.k 3), status := st }

def writeDue (x : KWrite) : State := kern { idle with kstat := 0x10000, pend := [⟨0, 0, x⟩] }
def landingDue : State := kern { idle with kstat := 0x10000, landing := idle.landing.set 0 (some (srfRead (.data [1, 0, 0, 0, 0, 0, 0, 0]))) }

theorem test_timed_writes_have_states :
    kernelNext ((writeDue (.k 3 7)).focusOn 0) = .event (.write ⟨0, 0, .k 3 7⟩) ∧
    kernelNext ((writeDue (.v 3 7)).focusOn 0) = .event (.write ⟨0, 0, .v 3 7⟩) ∧
    kernelNext (landingDue.focusOn 0) = .event (.land 0 (srfRead (.data [1, 0, 0, 0, 0, 0, 0, 0]))) := by
  decide +kernel

/-- R119, R127: the write and the landing reach their register. -/
theorem test_timed_writes :
    goes (exec (.fixedLatencyWrite 0) (writeDue (.k 3 7))) (fun t => t.core.kern.k.get 3 == 7 && t.core.kern.pend == []) = true ∧
    goes (exec (.landing 0) landingDue) (fun t => t.core.kern.k.get 3 == 1) = true := by
  decide +kernel

/-- A pass over latches of one mx format whose scales are NaN, into tiles without elements (so that the kernel that checks
this has little to do): SN is raised in every lane. -/
def nanPass (enables : BitVec 7) : Pass :=
  let lat : Vector LatchLane 16 := Vector.replicate 16 { LatchLane.reset with
    fmt := 0x10, scales := Vector.replicate 4 ⟨BitVec.allOnes 2048, 0⟩ }
  { issue := 0, seq := 0, bundle := 0, op := 0, half := false, limm := 0, d := 0, qa := 0, qb := 0
    enables := Vector.replicate 16 enables, a := [(0, lat)], b := [(0, lat)]
    acc := [(0, Vector.replicate 16 ⟨some 0, [], false, false, false⟩)] }

theorem test_pass_results_have_states :
    (match passResult (nanPass 0) with
      | (some _, none) => true
      | _ => false) = true ∧
    (match passResult (nanPass 0x7F) with
      | (none, some _) => true
      | _ => false) = true := by
  decide +kernel

def passDue (p : Pass) : State := kern { idle with kstat := 0x10000, ktime := 40, passes := [p] }
def xformDue (b : Option (List Host.Cell)) : State :=
  kern { idle with kstat := 0x10000, xforms := [⟨0, 0, 0xA6, 0, 0, 0, b⟩] }

theorem test_units_have_states :
    (match kernelNext ((passDue (nanPass 0)).focusOn 0) with
      | .event (.pass _) => true
      | _ => false) = true ∧
    kernelNext ((xformDue none).focusOn 0) = .event (.xform ⟨0, 0, 0xA6, 0, 0, 0, none⟩) ∧
    kernelNext ((xformDue (some [(0, 1)])).focusOn 0) = .event (.xform ⟨0, 0, 0xA6, 0, 0, 0, some [(0, 1)]⟩) := by
  decide +kernel

def reading : State := kern { idle with landing := idle.landing.set 0 (some (srfRead .inFlight)) }
def writing : State := kern { idle with wqueue := idle.wqueue.set 0 (some { srfRead .inFlight with opc := 0xB1, bytes := [1, 0, 0, 0, 0, 0, 0, 0] }) }

theorem test_accesses_in_flight_have_states :
    (∀ s ∈ [reading, writing], ∀ e ∈ s.core.kern.entries, e.status = .inFlight ∧ mayPerform s e = true ∧
      (match perform s (kernAccess s) e with
        | .ok _ => true
        | .error _ => false) = true) ∧
    (match perform { reading with fresh := reading.fresh + 1 } (kernAccess reading) (srfRead .inFlight) with
      | .ok _ => true
      | .error _ => false) = true := by
  decide +kernel

def failing : State := kern { idle with kstat := 0x10000, landing := idle.landing.set 5 (some (srfRead (.failed { cause := .pageRead }))) }

def reporting : State :=
  kern { idle with stop := some ⟨{ cause := .pageRead }, 1, 0xB0, some 5, 0, 1⟩ }

def finishing : State := (starting.withKern { idle with kstat := 1, krun := some krunFlight.seq })

theorem test_stops_and_ends_have_states :
    (match kernelNext (failing.focusOn 0) with
      | .late _ => true
      | _ => false) = true ∧
    kernelNext (reporting.focusOn 0) = .report ⟨{ cause := .pageRead }, 1, 0xB0, some 5, 0, 1⟩ ∧ reporting.core.cp.pending = [] ∧
    kernelNext (finishing.focusOn 0) = .finish ∧ finishing.core.kern.krun = some krunFlight.seq ∧
    finishing.core.st.flight.find? (·.seq == krunFlight.seq) = some krunFlight ∧ krunFlight.bar = none := by
  decide +kernel

/-- R126: the kernel ends and its `krun` leaves. -/
theorem test_kernel_end : goes (exec (.kernelEnd 0) finishing) (fun t => t.core.st.flight == [] && fld t.core.kern.kstat 0 2 == 0) = true := by
  decide +kernel

/-- A wait that began at cycle 0, at a later clock. -/
def blocked (opc : BitVec 8) (clock : Nat) : State :=
  { cpu.withCp { cpu.core.cp with wait := some ⟨0, 0, false, true, opc, 0⟩ } with clock }

theorem test_watchdogs_have_states :
    let s := blocked 0xDB 0x1000001
    let k := kern { idle with freeze := .barrier true 2 0 0 }
    s.core.cp.run = .running ∧ s.core.cp.inTrap = false ∧ (0xDB : BitVec 8) ∉ [0xBC, 0xE5, 0xE6, 0xE8] ∧
    2 ^ fld s.core.cp.cstat 16 5 < s.clock ∧ ¬ 2 ^ fld s.core.cp.cstat 16 5 < 0x1000000 ∧
    k.core.kern.freeze = .barrier true 2 0 0 ∧ k.core.kern.issuing = none ∧ k.core.kern.stop = none ∧ fld k.core.kern.kstat 0 2 = 1 ∧
    k.core.kern.preStop = false ∧ ({ srfRead .inFlight with opc := 0xBC }).status = .inFlight := by
  decide +kernel

/-- R421: at 2^24 + 1 cycles the wait traps, at 2^24 it does not. -/
theorem test_wait_watchdog :
    goes (exec (.waitWatchdogExpiry 0 false) (blocked 0xDB 0x1000001)) (fun t => t.core.cp.inTrap) = true ∧
    goes (exec (.waitWatchdogExpiry 0 false) (blocked 0xDB 0x1000000)) (fun t => !t.core.cp.inTrap) = true := by
  decide +kernel

/-- R402: a GROUP_ABORT not taken in time stops the core. -/
theorem test_group_abort_expiry :
    goes (exec (.groupAbortExpiry 0) { cpu.withCp { cpu.core.cp with pending := [{ cause := .groupAbort }] } with clock := 0x1000001 })
      (fun t => t.core.cp.run != .running) = true := by
  decide +kernel

/-! ## Engines and walkers -/

/-- A fill of 64 bytes of the SRF, in a queue or in flight. -/
def fillEntry : QEntry := { entryFor streams 0xD4 (sform 0 0 0 0) [⟨0, 64, true⟩] with b := 0x0807060504030201 }
def snopEntry : QEntry := entryFor streams 0xDF (sform 0 0 0 0) []
def inQueue (e : QEntry) : State := streams.withSt { streams.core.st with queue := [e] }
def inFlight (e : QEntry) : State := streams.withSt { streams.core.st with flight := [e] }

theorem test_issue_has_states :
    (inQueue fillEntry).core.cp.run = .running ∧ (inQueue fillEntry).core.ctx.pend = false ∧
    (inQueue fillEntry).core.st.queue.find? (mayIssue (inQueue fillEntry).core.st) = some fillEntry ∧ fillEntry.bad = none ∧
    fillEntry.opc ≠ 0xDF ∧ (inQueue snopEntry).core.st.queue.find? (mayIssue (inQueue snopEntry).core.st) = some snopEntry ∧
    snopEntry.opc = 0xDF ∧ snopEntry.bar = none := by
  decide +kernel

def runningFill : QEntry := { fillEntry with stage := .running }

/-- A load from a stack that is quiesced, so that its unit waits. -/
def runningLoad : QEntry := { entryFor (mapped 0) 0xD0 (sform 0 0 0 0) [⟨0, 64, true⟩] with stage := .running, a := 0, sup := true }
def quiet : State :=
  { (mapped 0).withSt { (mapped 0).core.st with flight := [runningLoad] } with
    hbm := Vector.replicate 16 { Stack.reset with quiesce := true } }

theorem test_transfers_have_states :
    runningFill.transfers = true ∧ ((inFlight runningFill).core.st.flight.find? (·.seq == runningFill.seq) = some runningFill) ∧
    (let r := runUnits (inFlight runningFill) runningFill
     r.2.over = true ∧ r.2.fault = none ∧ r.2.bar = none ∧ r.1.core.cp.run = .running) ∧
    (let r := runUnits quiet runningLoad
     r.2.over = false ∧ r.1.core.cp.run = .running) := by
  decide +kernel

/-- R377: the pattern of gB fills the 64 bytes, and the instruction leaves. -/
theorem test_fill_completes :
    goes (exec (.engineComplete 0 runningFill.seq) (inFlight runningFill)) (fun t => cellGet t.core.srf 63 == 8 && t.core.st.flight == []) =
      true := by
  decide +kernel

/-- An instruction held by a gate at an object in the own SRF, with bit PHASE of the second word. -/
def gatedEntry : QEntry := { fillEntry with stage := .gated 0, gate := some (0xFF00000000100000, false) }
def gated (w1 : Byte) : State :=
  { inFlight gatedEntry with core := { (inFlight gatedEntry).core with srf := cellPutAll [] [(0x100008, w1)] } }

def gateLoads (s : State) : Option (Loc × Word × Word) :=
  match objLoad s (engAccess s gatedEntry) (engEntry s objRead 0xFF00000000100000 16 []) with
  | .ok (x, _) => some x
  | .error _ => none

theorem test_gates_have_states :
    gateLoads (gated 6) = some (.srf 0 0x100000, 0, 6) ∧ gateLoads (gated 3) = some (.srf 0 0x100000, 0, 3) ∧
    gateLoads (gated 0) = some (.srf 0 0x100000, 0, 0) ∧ gateLoads (gated 2) = some (.srf 0 0x100000, 0, 2) ∧
    gatedEntry.gate = some (0xFF00000000100000, false) ∧ 2 ^ fld (gated 2).core.cp.cstat 16 5 < 0x1000001 ∧
    ¬ 2 ^ fld (gated 2).core.cp.cstat 16 5 < 0x1000000 := by
  decide +kernel

theorem test_units_of_copies_have_states :
    Memory.wf streams.core.srf = true ∧ fld fillEntry.xf 0 4 = 0 ∧ fillEntry.fn.toNat ≤ 1 ∧ (extentAt fillEntry 0).lo + 64 ≤ (extentAt fillEntry 0).hi ∧
    streams.core.srfBad 4096 64 = false := by
  decide +kernel

/-- Two walkers of a launch. -/
def walker0 : Walker := ⟨0, 0, 8, false, [], none, false⟩
def stealing (t v : Walker) (c : Core) : State := { cpu with core := c, launches := [{ launch0 with walkers := [t, v] }] }
def asking : Walker := { walker0 with lo := 8, steal := some [1], queue := [0] }

theorem test_steals_have_states :
    let l : Launch := { launch0 with walkers := [asking, { walker0 with die := 1 }] }
    let s : State := { cpu with launches := [l] }
    s.launch? 0 = some l ∧ l.walkers.find? (·.die == 0) = some asking ∧ asking.steal = some (1 :: []) ∧
    l.walkers.find? (·.die == 1) = some { walker0 with die := 1 } ∧ launchLives s l 1 = false ∧
    launchLives s { l with groups := [⟨1, 0, 0, true, 0⟩] } 1 = true ∧ ({ asking with steal := some [], lo := 0, got := true }).queue = [0] ∧
    ({ asking with steal := some [] }).got = false := by
  decide +kernel

/-- R148: a die without a running program gives all of its range; the thief's is 0 to 8. -/
theorem test_steal_of_all :
    goes (exec (.stealRequest 0 1 0) (stealing asking { walker0 with die := 1 } cpu.core)) (fun t =>
      t.launches.any fun l => l.walkers.any fun w => w.die == 0 && w.lo == 0 && w.hi == 8) = true := by
  decide +kernel

/-! ## Queues and launches -/

/-- Queue 0 enabled, its ring in the host window, one packet at its head. -/
def packet (p : List Word) : State :=
  let s := mapped 0
  { s with
    hostMem := (wordsBytes p).zipIdx.map fun x => (x.2, x.1)
    queues := s.queues.set 0 { Queue.reset with base := 1, write := 1, enable := true }
    md := { s.md with mstate := 2 } }

def heads (p : List Word) (t : Nat) : Bool :=
  queueLive (packet p) 0 && !malformed p && fld (p.getD 0 0) 0 8 == t &&
    match headPacket (packet p) 0 with
    | .ok (q, _) => q == p
    | .error _ => false

/-- One core in one group on die 0, entered at 0, with an image of one bundle and a completion record at 0x800. -/
def launchWords : List Word := [0x0001010100000001, 0, 0, 0, 0, 0x800, 0, 1]
def refusedWords : List Word := [0x0001010000000001, 0, 0, 0, 0, 0x800, 0, 1]

theorem test_launches_have_states :
    heads launchWords 1 = true ∧ (packet launchWords).launches = [] ∧
    (match acceptLaunch (packet launchWords) launchWords (launchOf (packet launchWords) 0 launchWords) with
      | .ok _ => true
      | .error _ => false) = true ∧
    heads refusedWords 1 = true ∧
    (match acceptLaunch (packet refusedWords) refusedWords (launchOf (packet refusedWords) 0 refusedWords) with
      | .error (.refused c y) => (writeCompletion y { launchOf (packet refusedWords) 0 refusedWords with status := 2, cause := some c } none).toOption.isSome
      | _ => false) = true := by
  decide +kernel

theorem test_barrier_and_signal_have_states :
    heads [2, 0, 0, 0, 0, 0, 0, 0] 2 = true ∧ heads [2, 0, 1, 0, 0, 0, 0, 0] 2 = true ∧ heads [5, 0, 7, 0, 0, 0, 0, 0] 5 = true ∧
    (match engLoad (packet [2, 0, 0, 0, 0, 0, 0, 0]) (unitAccess 0 none) 0 8 with
      | .ok (b, _) => leNat b == 0
      | .error _ => false) = true ∧
    (match engStore (packet [5, 0, 7, 0, 0, 0, 0, 0]) (unitAccess 0 none) 0 (leBytes 8 7) with
      | .ok _ => true
      | .error _ => false) = true := by
  decide +kernel

theorem test_code_and_unload_have_states :
    heads [3, 0, 0x100, 8, 0, 0, 0, 0] 3 = true ∧ heads [3, 0, 0x100, 0, 0, 0, 0, 0] 3 = true ∧ heads [4, 0x2000, 0, 0, 0, 0, 0, 0] 4 = true ∧
    (match codeCopy (packet [3, 0, 0x100, 8, 0, 0, 0, 0]) (unitAccess 0 none) 0 0x100 8 with
      | .ok _ => true
      | .error _ => false) = true ∧
    (match codeCopy (packet [3, 0, 0x100, 0, 0, 0, 0, 0]) (unitAccess 0 none) 0 0x100 0 with
      | .error (.fail _ _ _) => true
      | _ => false) = true ∧
    tableLoc (packet [4, 0x2000, 0, 0, 0, 0, 0, 0]) 0x2000 ≠ none ∧
    malformed [9, 0, 0, 0, 0, 0, 0, 0] = true ∧ queueLive (packet [9, 0, 0, 0, 0, 0, 0, 0]) 0 = true := by
  decide +kernel

/-- REFS with the bit of queue 0, alone or with that of queue 1 (R483). -/
theorem test_unload_of_a_load_record :
    let rec' (refs : Word) : State := putWords (packet [4, 0x2000, 0, 0, 0, 0, 0, 0]) 0x2000 [refs, 0, 0, 0, 1]
    goes (exec (.unloadPacket 0) (rec' 1)) (fun t => t.mem.length == (packet []).mem.length + 1) = true ∧
    goes (exec (.unloadPacket 0) (rec' 3)) (fun t => t.mem.length == (packet []).mem.length + 2) = true := by
  decide +kernel

def ending : Launch := { launch0 with leftHead := true, completion := 0x800 }

theorem test_completion_has_a_state :
    let s : State := { mapped 0 with launches := [ending] }
    s.launch? 0 = some ending ∧ ending.groups = [] ∧ ending.ended = ending.cores ∧ (writeCompletion s ending none).toOption.isSome = true := by
  decide +kernel

theorem test_queue_registers_have_states : cpu.md.mstate ≠ 3 ∧ ({ cpu.md with mstate := 3 } : Module).mstate = 3 := by decide +kernel

/-- R464: with a ring of 16, a write count of 17 sets ERR. -/
theorem test_qwrite_overflow :
    goes (exec (.qwriteWrite 0 17) cpu) (fun t => (t.queues.get 0).err) = true ∧
    goes (exec (.qwriteWrite 0 16) cpu) (fun t => !(t.queues.get 0).err) = true := by
  decide +kernel

/-- A launch of two groups of two cores, at the head of queue 0. -/
def headLaunch : Launch := { launch0 with w := 4, g := 2, prio := 3 }
def granting : State := { packet launchWords with core := Core.reset, focus := 0, launches := [headLaunch] }

theorem test_grants_have_a_state :
    eligibleOn granting 0 = some headLaunch ∧ headLaunch.id = 0 ∧ restoreWaits granting 0 headLaunch.prio = false ∧
    baseFits granting headLaunch 0 2 (coreFree granting) = true ∧ baseFits granting headLaunch 0 3 (coreFree granting) = false := by
  decide +kernel

/-- R142: core 3 has rank 1 in a group of two. -/
theorem test_grant :
    goes (exec (.grantGroup 0 0 2) granting) (fun t => (t.getCore 3).cp.readG 2 == 0x20001 && (t.getCore 3).cp.readG 3 == 2) = true := by
  decide +kernel

/-! ## Pre-emption and contexts -/

def group0 : Group := ⟨0, 0, 0, false, 0⟩
def lowLaunch : Launch := { launch0 with id := 1, queue := 1, index := 5, prio := 7, leftHead := true, groups := [group0] }
def preempting : State :=
  { packet launchWords with
    core := { cpu.core with prog := some ⟨1, 0, 1, 0⟩ }
    launches := [lowLaunch, { headLaunch with w := 96, g := 96 }] }

theorem test_preemption_has_states :
    preempting.launches.find? (fun x => x.queue == fld 0x501 0 6 && x.index.toNat % 2 ^ 24 == fld 0x501 8 24) = some lowLaunch ∧
    preempting.launches.find? (fun x => x.queue == fld 0x601 0 6 && x.index.toNat % 2 ^ 24 == fld 0x601 8 24) = none ∧
    bit (0x8000000000000501 : Word) 63 = true ∧ bit (0x501 : Word) 63 = false ∧ lowLaunch.groups = [group0] ∧ group0.preempted = false ∧
    eligibleOn preempting 0 = some { headLaunch with w := 96, g := 96 } ∧ lacksPlace preempting { headLaunch with w := 96, g := 96 } 0 = true ∧
    victimLaunch preempting 0 3 = some lowLaunch ∧ newest (standing preempting lowLaunch 0) = some group0 ∧
    (∀ g ∈ [{ group0 with preempted := true }], g.preempted = true) := by
  decide +kernel

/-- R425: the core of the group is asked to stop. -/
theorem test_preempt_request :
    goes (exec (.preemptRequest 1 0 0) preempting) (fun t => t.core.ctx.pend && t.core.cp.pending.any (·.cause == .preemptRequest)) =
      true := by
  decide +kernel

theorem test_grace_has_a_state :
    let x := { preempting with core := { preempting.core with ctx := { preempting.core.ctx with pend := true } } }
    x.core.ctx.pend = true ∧ x.core.ctx.expired = false := by
  decide +kernel

/-- A core that has stopped, its area in its own SRF. -/
def savable : Core :=
  { cpu.core with ctx := { cpu.core.ctx with saving := true, pend := true, kstop := true, drain := true, area := 0xFF00000000000000 } }

theorem test_saving_has_a_state :
    savable.prog = some ⟨0, 0, 1, 0⟩ ∧ saveReady savable = true ∧ cpu.md.mstate ≠ 3 := by
  decide +kernel

theorem test_pipeline_fits : pipelineFits (savedCore savable) = true := by decide +kernel

def restoring : State :=
  { granting with
    core := Core.reset
    launches := [{ launch0 with groups := [{ group0 with preempted := true }] }]
    saved := [⟨0, 0, cpu.core, [], 0⟩] }

theorem test_restore_grants_have_a_state :
    restoring.launch? 0 = some { launch0 with groups := [{ group0 with preempted := true }] } ∧ restoring.md.mstate = 2 ∧ launch0.hold = false ∧
    (∃ z ∈ restoring.saved, z.launch = 0 ∧ z.core = 0 ∧ 0 ∈ groupCores 0 0 1) ∧ coreFree restoring 0 = true := by
  decide +kernel

/-! ## The module, its stacks and its units -/

/-- A module state. -/
def module (f : Module → Module) : State := { cpu with md := f cpu.md }

theorem test_host_writes_have_states :
    (0x31 % 8 ≠ 0) ∧ (module fun m => { m with mstate := 1 }).md.mstate = 1 ∧ cpu.md.mstate ≠ 1 ∧ cpu.md.keyBusy = none ∧
    fld (0x1005 : Word) 12 2 = 1 ∧ fld (0x2005 : Word) 12 2 = 2 ∧ fld (0x3005 : Word) 12 2 = 3 ∧
    (module fun m => { m with keyBusy := some ⟨5, 1⟩ }).md.keyBusy = some ⟨5, 1⟩ := by
  decide +kernel

/-- R462: a power cap of 500 W is held at 1,000. -/
theorem test_power_cap : goes (exec (.registerWrite 0x48 500) cpu) (fun t => t.md.powerCap == 1000) = true := by decide +kernel

theorem test_start_up_has_states :
    bit (0x100 : Word) 8 = true ∧ bit (0x80 : Word) 8 = false ∧ cpu.md.mstate ≠ 3 ∧
    ((module fun m => { m with mstate := 3 }).md.mstate = 3 ∧ (bit (0x180 : Word) 7 && true) = true) ∧
    (∀ n ∈ [1, 2, 3, 4, 5, 6], (module fun m => { m with step := BitVec.ofNat 3 n }).md.step.toNat = n) ∧
    (module fun m => { m with fails := 2 }).md.fails.toNat = 2 ∧ cpu.md.fails.toNat < 2 ∧ Safety.Canonical cpu := by
  decide +kernel

theorem test_a_core_holds_a_program : Holds cpu 0 := ⟨Or.inl rfl, by decide +kernel, by decide +kernel⟩

/-- R472: step 6 ends in state 1; the third failure in state 3. -/
theorem test_start_steps :
    goes (exec (.startStepComplete true) (module fun m => { m with step := 6 })) (fun t => t.md.mstate == 1 && t.md.step == 0) = true ∧
    goes (exec (.startStepComplete false) (module fun m => { m with step := 2, fails := 2 })) (fun t => t.md.mstate == 3) = true := by
  decide +kernel

/-- Stack 3 with its fields as given. -/
def stack (k : Stack) : State := { cpu with hbm := cpu.hbm.set 3 k }

theorem test_stacks_have_states :
    cpu.md.mstate ≠ 3 ∧ ((stack { Stack.reset with quiesce := true }).hbm.get 3).quiesce = true ∧ (cpu.hbm.get 3).quiesce = false ∧
    fld (0x80 : Word) 0 13 = 2 ^ (7 + 0) ∧ fld (0x1000 : Word) 0 13 = 2 ^ (7 + 5) ∧ fld (0x100 : Word) 0 13 ≠ 2 ^ (7 + 0) ∧
    ((stack { Stack.reset with takeover := true }).hbm.get 3).takeover = true ∧ (cpu.hbm.get 3).takeover = false ∧
    (let k := (stack { Stack.reset with refOwn := true, catchUp := true }).hbm.get 3
     k.refOwn = true ∧ k.catchUp = true ∧ k.failed = false) := by
  decide +kernel

/-- R274: a mask without its unit bit sets MASKERR; R283: the second missed heartbeat asks for a takeover. -/
theorem test_stack_events :
    goes (exec (.hsmaskWrite 3 0 0x100) (stack { Stack.reset with quiesce := true })) (fun t => (t.hbm.get 3).maskErr) = true ∧
    goes (exec (.heartbeatMissed 3) (stack { Stack.reset with missed := 1 })) (fun t => (t.hbm.get 3).takeover) = true := by
  decide +kernel

theorem test_poison_and_self_tests_have_states :
    setHas (granuleKey cpu 0 3 0) cpu.poison = false ∧ setHas (granuleKey cpu 0 3 0) [granuleKey cpu 0 3 0] = true ∧ 0 < stackBacked ∧
    (⟨1, 95⟩ : ErrUnit) ∉ cpu.md.testing ∧ (⟨4, 7⟩ : ErrUnit) ∈ (module fun m => { m with testing := [⟨4, 7⟩] }).md.testing ∧
    (⟨1, 95⟩ : ErrUnit).cls.toNat = 1 ∧ (⟨2, 67⟩ : ErrUnit).cls.toNat = 2 ∧ (⟨3, 0⟩ : ErrUnit).cls.toNat = 3 := by
  decide +kernel

/-- R423: a lasting fault of bank 67 of core 0 is kept. -/
theorem test_self_test :
    goes (exec (.selftestComplete ⟨2, 67⟩ false) (module fun m => { m with testing := [⟨2, 67⟩] })) (fun t =>
      t.core.badBanks == [67] && !t.core.outOfService && t.md.errHead == 1) = true := by
  decide +kernel

/-! ## Beyond the package -/

/-- A load of local memory from package 1. -/
def request : RemoteReq := ⟨1, 0, 0xB0, 0, 4, 0x2000, 0, 0, 8, [], 0⟩
def serving : State := module fun m => { m with mstate := 2 }

/-- A page of package 1 with no live route; a CP load in progress. -/
def awaiting : State :=
  let s := inSrf
  s.withCp { s.core.cp with remote := some (srfRead .inFlight), wait := some ⟨0, 0, true, false, 0xB0, 0⟩ }

theorem test_remote_accesses_have_states :
    (7 ∉ cpu.md.deadBridges) ∧ cpu.md.mstate = 0 ∧ serving.md.mstate = 2 ∧ request.pa.toNat / 2 ^ 40 = 2 * serving.md.pkg.toNat ∧
    (interleave request.mode.toNat (request.pa.toNat % 2 ^ 40)).2 < stackBacked ∧ request.lattice = 0 ∧
    (let a := interleave request.mode.toNat (request.pa.toNat % 2 ^ 40)
     match serve serving 0 (remoteEntry serving request) ⟨.stk serving.md.pkg.toNat a.1 a.2, 0, request.srcDie⟩ with
      | .ok _ => true
      | .error _ => false) = true ∧
    awaiting.core.cp.remote = some (srfRead .inFlight) ∧ awaiting.core.cp.wait = some ⟨0, 0, true, false, 0xB0, 0⟩ ∧
    awaiting.core.cp.inTrap = false := by
  decide +kernel

/-- A package whose page 0 lies in package 1, over a live route. -/
def remoteRead : State :=
  let s := { reading with md := { cpu.md with faccept := 0xFF, astLen := 1, routes := [(1, 0x10001)], kbLive := 1 } }
  let s := putWords (putWords s 0 [1, 4097]) 4096 [1, 0, 0x20000002000, 0xF]
  s.withKern { s.core.kern with landing := s.core.kern.landing.set 0 (some { srfRead .inFlight with addr := 0 }) }

theorem test_remote_reads_have_a_state :
    let e : LogEntry := { srfRead .inFlight with addr := 0 }
    remoteRead.core.kern.landing.get 0 = some e ∧ e.status = .inFlight ∧ e.opc ≠ 0xBC ∧ mayPerform remoteRead e = true ∧
    entryRemote remoteRead (kernAccess remoteRead) e = true := by
  decide +kernel

/-- Entry 0 of the region table: maximum cells of page 0 on dies 0 and 1, one package. -/
def region : LrtEntry := { LrtEntry.reset with raw := #v[0x302, 0, 0, 0xA0001], live := #v[0x302, 0, 0, 0xA0001] }
def regions (e : LrtEntry) : State := { (module fun m => { m with faccept := 0xFF }) with lrt := cpu.lrt.set 0 e }
def live (d : Bool) : LrtEntry := { region with v := true, replicas := [(0, 0, d), (1, 0, d)], began := [0, 0] }

theorem test_regions_have_states :
    accepted (regions region) 1 = true ∧ (regions region).md.mstate ≠ 3 ∧ region.v = false ∧ lrtRefused (regions region) 0 region = false ∧
    lrtRefused (regions region) 0 { region with raw := #v[0x300, 0, 0, 0xA0001], live := #v[0x300, 0, 0, 0xA0001] } = true ∧
    (live true).stopping = false ∧ (live true).levels ≠ 0 ∧ (live true).replicas.find? (·.1 == 0) = some (0, 0, true) ∧
    (live false).replicas.find? (·.1 == 0) = some (0, 0, false) := by
  decide +kernel

theorem test_exchanges_have_states :
    let s := regions (live false)
    let e := live false
    pairReady s e (partnerOf e 0 0) 0 = true ∧ reachable s (replicaHome e 0) (replicaHome e (partnerOf e 0 0)) = true ∧
    (∀ c ∈ regionCells e, cellWaits s (replicaHome e 0) c = false ∧ cellWaits s (replicaHome e (partnerOf e 0 0)) c = false) ∧
    reachable { s with md := { s.md with deadBridges := [1] } } (replicaHome e 0) (replicaHome e (partnerOf e 0 0)) = false := by
  decide +kernel

/-- R445: enabling leaves this package's replicas at round 0. -/
theorem test_lrt_enable :
    goes (exec (.lrtEnable 0 0x303) (regions region)) (fun t => (t.lrt.get 0).v && (t.lrt.get 0).replicas.length == 2) = true := by
  decide +kernel

/-- A frame with a clear header and 64 bytes of body; ring 0 of port 0 bound to core 0, which has posted records. -/
def frame : Frame := ⟨true, true, .v4 5 108 17, 7, 88, .none, 0, List.replicate 80 0⟩
def receiving (posted : Bool) : State :=
  let p : Port := { Port.reset with steer := [(0, 0x70001)], rings := [(0, { Ring.reset with entry := 1 })] }
  { streams.withSt { streams.core.st with
      flight := if posted then [{ entryFor streams 0xD7 { sform 0 0 0 6 with sd := 3 } [] with stage := .running }] else [] } with
    ports := cpu.ports.set 0 p }

theorem test_frames_have_states :
    frameAccepted { frame with fcsGood := false } = false ∧ frameAccepted frame = true ∧ 16 ≤ frame.payload.length ∧ leNat (frame.payload.take 2) = 0 ∧
    steerTo ((receiving true).ports.get 0) 9 = none ∧ steerTo ((receiving true).ports.get 0) 7 = some 0 ∧
    accepted (receiving true) 2 = true ∧ accepted cpu 2 = false ∧ bit (((receiving true).ports.get 0).ring 0).entry 0 = true ∧
    (match postedOn ((receiving true).getCore 0) 0 0 with
      | some e => decide (frame.payload.length + 48 ≤ e.sd.recSize)
      | none => false) = true ∧
    ((receiving true).getCore 0).fenced = false ∧ ((receiving true).getCore 0).prog.isSome = true ∧
    Memory.wf ((receiving true).getCore 0).srf = true ∧ (receiving true).md.mstate ≠ 3 := by
  decide +kernel

/-- R453, R455: a malformed frame is counted; one in clear is delivered behind its head, whose first bytes are its length. -/
theorem test_frames :
    goes (exec (.frameReceive 0 { frame with fcsGood := false }) (receiving true)) (fun t => (t.ports.get 0).malformed == 1) = true ∧
    goes (exec (.frameReceive 0 frame) (receiving true)) (fun t => cellGet t.core.srf 0x4000 == 64 && ((t.ports.get 0).ring 0).rxPkt == 1) =
      true := by
  decide +kernel

/-- A page request with tag 5, and a line that migrates from granule 1 to granule 2. -/
def paged : State := { (module fun m => { m with pageReqs := [⟨5, 0, 3⟩] }) with migrating := [⟨0, 0x1000, 1, 2, false⟩] }

theorem test_pages_have_states :
    paged.md.pageReqs.find? (·.tag == 5) = some ⟨5, 0, 3⟩ ∧ paged.md.pageReqs.find? (·.tag == 6) = none ∧
    (∀ m ∈ cpu.migrating, 1 ∉ [m.old, m.new] ∧ 2 ∉ [m.old, m.new]) ∧ Memory.wf paged.mem = true ∧
    paged.migrating.find? (fun m => m.old == 1 || m.new == 2 || m.old == 2 || m.new == 1) = some ⟨0, 0x1000, 1, 2, false⟩ := by
  decide +kernel

/-- R470: an invalidation drops the held translation of its page. -/
theorem test_ats_invalidate :
    goes (exec (.atsInvalidate 0 0x1000) { cpu with tlb := [⟨0, 0, false, 0x1000, 4096, 0x5000, 3, 0, 0⟩] }) (fun t => t.tlb == []) = true := by
  decide +kernel

/-! ## The step -/

/-- The machine after reset with a word where the next step runs it. -/
def fetching : State := State.reset.withFetchWord 64 0x0100C41400008000

theorem test_step_runs_the_word_at_pc :
    slotFirst fetching = none ∧ fetching.agenda = [.cp 0] ∧ fetching.core.cp.run = .running ∧ pendingNow fetching = false := by
  decide +kernel

theorem test_fetch_reads_the_word :
    (match fetchWord fetching with
      | .ok (w, _) => w == 0x0100C41400008000
      | .error _ => false) = true := by
  decide +kernel

/-- A fetch whose page, place and bytes are as the statement asks. -/
theorem test_fetch_translates :
    (let a : Access := { core := 0, asid := 0, sup := true, fetch := true }
     match translate fetching a 0 8 with
      | .ok (p, y) => p.lattice == 0 && p.pa / 2 ^ 41 == y.md.pkg.toNat && (match place y a 0 p with
          | .ok g => (match g.loc with
            | .stk q k o => q == y.md.pkg.toNat && !quiesced y (cellKey y q k o) && (metPoison y (cellKey y q k o) false).isNone
            | _ => false)
          | .error _ => false)
      | .error _ => false) = true ∧ cachedWord fetching 0 0 = none := by
  decide +kernel

theorem test_step_runs_a_slot_word :
    let s := State.reset.withFetchWord 64 0x4000C10800048031
    (s.core.kern.issuing.any fun b => b.words.length == 1) = true ∧ s.core.cp.run = .running ∧
    (match decodeSlot ⟨.v0, 0, accepted s 0⟩ 0x4000C10800048031 with
      | .ok _ => true
      | _ => false) = true ∧ Instr.raw (.heartbeat 0) = none := by
  decide +kernel

theorem test_reset_is_canonical : Canonical State.reset := by decide +kernel

/-! ## Contexts whose area stands in the core's own SRF (R430-R433) -/

/-- A core that is ready to be saved into its own SRF, and its copy engine. -/
def saving : State := { cpu with core := { savable with ctx := { savable.ctx with srfLen := 0 } } }

def copier : Access := { core := 0, asid := 0, sup := true }

/-- Every hypothesis of the save clause at once. -/
theorem test_saves_have_a_state :
    saving.core.prog = some ⟨0, 0, 1, 0⟩ ∧ saveReady saving.core = true ∧ pipelineFits (savedCore saving.core) = true ∧
      ∃ s2, checkPages saving copier engWrite (ownAddr 0) (0xE0000 + 4096 * saving.core.ctx.srfLen) = .ok saving ∧
        engStore saving copier (ownAddr 0) (contextBytes saving (savedCore saving.core)) = .ok ((), s2) ∧
        saving.core.ctx.area = ownAddr 0 ∧ saving.focus = 0 ∧ s2.focus = 0 := by
  have hl : (contextBytes saving (savedCore saving.core)).length = 0xE0000 := contextBytes_length saving (savedCore saving.core)
  obtain ⟨s2, h2, hf⟩ := engStore_own (s := saving) (who := copier) rfl (off := 0)
    (b := contextBytes saving (savedCore saving.core)) (by rw [hl]; decide)
  exact ⟨by decide +kernel, by decide +kernel, by decide +kernel, s2, checkPages_own (.inr rfl) (by decide), h2, by decide, rfl, hf⟩

/-- A core of a restore grant that has written RESTORE, with the given SRF. -/
def restored (m : List Host.Cell) : State :=
  { cpu with core := { cpu.core with srf := m, ctx := { cpu.core.ctx with restoring := true, area := 0xFF00000000000000, srfLen := 0 } } }

/-- The load of the area gives the SRF's bytes. -/
theorem restored_load (m : List Host.Cell) :
    engLoad (restored m) copier (ownAddr 0) 0xE0000 = .ok ((List.range 0xE0000).map fun i => cellGet m (0 + i), restored m) :=
  engLoad_own (s := restored m) rfl rfl (Nat.zero_le 4) (by decide)

/-- An area with a sound header and nothing else, and an SRF that holds it. -/
def soundHead : List Byte := [1, 2, 0, 0, 0, 0, 0, 0, 0, 0, 14, 0] ++ List.replicate 44 0
def soundArea : List Byte :=
  soundHead ++ leBytes 8 (crc32 (soundHead ++ List.replicate (0xE0000 - 64) 0)).toNat ++ List.replicate (0xE0000 - 64) 0

theorem test_restores_have_a_state :
    ∃ (m : List Host.Cell) (b : List Byte), (restored m).core.prog = some ⟨0, 0, 1, 0⟩ ∧ (restored m).core.cp.run = .running ∧
      (restored m).core.ctx.restoring = true ∧ (restored m).core.ctx.area = ownAddr 0 ∧
      checkPages (restored m) copier engRead (ownAddr 0) (0xE0000 + 4096 * (restored m).core.ctx.srfLen) = .ok (restored m) ∧
      engLoad (restored m) copier (ownAddr 0) (0xE0000 + 4096 * (restored m).core.ctx.srfLen) = .ok (b, restored m) ∧
      areaBad (restored m) b = false := by
  have hl : soundArea.length = 0xE0000 := by
    rw [soundArea, List.length_append, List.length_append, leBytes_length, List.length_replicate]
    rfl
  refine ⟨cellPutAll [] (atAddr 0 soundArea), soundArea, rfl, rfl, rfl, by decide, checkPages_own (.inl rfl) (by decide), ?_, ?_⟩
  · refine (restored_load _).trans ?_
    have : ((List.range 0xE0000).map fun i => cellGet (cellPutAll [] (atAddr 0 soundArea)) (0 + i)) = soundArea := by
      apply List.ext_getElem
      · rw [List.length_map, List.length_range, hl]
      · intro i _ h2
        rw [List.getElem_map, List.getElem_range, cellGet_cellPutAll_atAddr soundArea 0 i nil_wf h2,
          List.getD_eq_getElem _ _ h2]
    rw [this]
  · exact areaBad_sound _ soundHead _ rfl rfl

theorem test_damaged_areas_have_a_state :
    ∃ b, (restored []).core.prog = some ⟨0, 0, 1, 0⟩ ∧ (restored []).core.cp.run = .running ∧
      (restored []).core.ctx.restoring = true ∧ (restored []).core.ctx.area = ownAddr 0 ∧
      checkPages (restored []) copier engRead (ownAddr 0) (0xE0000 + 4096 * (restored []).core.ctx.srfLen) = .ok (restored []) ∧
      engLoad (restored []) copier (ownAddr 0) (0xE0000 + 4096 * (restored []).core.ctx.srfLen) = .ok (b, restored []) ∧
      areaBad (restored []) b = true ∧ ownStore (restored []).core.cp = false := by
  refine ⟨_, rfl, rfl, rfl, by decide, checkPages_own (.inl rfl) (by decide), restored_load [], ?_, rfl⟩
  have h : ((List.range 0xE0000).map fun i => cellGet [] (0 + i)) = [0, 0, 0, 0, 0, 0, 0, 0] ++ List.replicate (0xE0000 - 8) 0 := by
    have : ∀ n, (List.range n).map (fun i => cellGet [] (0 + i)) = List.replicate n 0 := fun n => by
      simp [cellGet, lookupNum]
    rw [this, show (0xE0000 : Nat) = 8 + (0xE0000 - 8) by decide, List.replicate_add]
    rfl
  have h0 : areaWord ([0, 0, 0, 0, 0, 0, 0, 0] ++ List.replicate (0xE0000 - 8) 0) 0 = 0 := by
    rw [areaWord, areaNat, List.drop_zero]
    rfl
  have hw : (headerWords (restored []) (restored []).core).zipIdx.all (fun (w, i) =>
      if i == 0 then fld (0 : Word) 0 39 == fld w 0 39
      else areaWord ([0, 0, 0, 0, 0, 0, 0, 0] ++ List.replicate (0xE0000 - 8) 0) 8 == w) = false := by
    have h1 : (fld (0 : Word) 0 39 == fld (BitVec.ofNat 64 0x201) 0 39) = false := by decide
    have h2 : headerWords (restored []) (restored []).core = [BitVec.ofNat 64 0x201, BitVec.ofNat 64 0xE0000] := rfl
    simp only [h2, List.zipIdx_cons, List.all_cons, BEq.rfl, if_true, h1, Bool.false_and]
  rw [h, areaBad, h0, hw]
  exact Bool.or_true _

/-! ## Further states that meet the hypotheses of statements -/

def bf16Fmt : TileFmt := ⟨.flt fmtBF16, 16, .plain, false⟩
def cbf16Fmt : TileFmt := ⟨.flt fmtBF16, 16, .plain, true⟩

theorem test_sound_sources :
    SoundSource (withRecord .x bf16Cells) 0 bf16Tile bf16Fmt ∧
    SoundSource (withRecord .x turnCells) 0 ⟨0x28, true, false, false, 32, 16, 0⟩ cbf16Fmt ∧
    SoundSource (withRecord .x packedCells) 0 ⟨0x28, true, true, false, 32, 16, 0⟩ cbf16Fmt ∧
    SoundSource (withRecord .x scaledCells) 0 ⟨0x28, true, true, true, 32, 16, 0⟩ cbf16Fmt ∧
    Room 4096 (footprint 0x29) ∧ Room (0x300000 - footprint 3) (footprint 3) := by
  unfold SoundSource Room
  decide +kernel

/-- The sixteen records of a turn and of a back at one place, rows 0 and 1 and the last two. -/
theorem test_turn_parts :
    let s := withRecord .x turnCells
    (∀ r0 ∈ [0, 30], rowOff cbf16Fmt 0 r0 + 2 * cbf16Fmt.rowBytes ≤ 0x300000 ∧
      s.core.srfBad (rowOff cbf16Fmt 0 r0) (2 * cbf16Fmt.rowBytes) = false ∧ r0 + 2 ≤ 32) ∧ s.core.srfBad 0 64 = false ∧
    headerCheck s (srfBytes s.core 0 64) = .ok ⟨0x28, true, false, false, 32, 16, 0⟩ := by
  decide +kernel

/-- Runs: no block present; words 0 and 7 of block 0; a block without words. -/
theorem test_runs :
    (withRecord .x []).core.srfBad 0 32 = false ∧ srfBytes (withRecord .x []).core 0 8 = leBytes 8 0 ∧
    srfBytes (withRecord .x [(0, 1), (8, 0x81), (16, 7), (24, 9)]).core 0 32 =
      leBytes 8 1 ++ leBytes 8 0x81 ++ leBytes 8 7 ++ leBytes 8 9 ∧
    srfBytes (withRecord .x [(0, 1)]).core 0 16 = leBytes 8 1 ++ leBytes 8 0 ∧
    (0x20200003 : Word) &&& 0xFFFF0000C0C0F880 = 0 ∧ (0x10010128 : Word) &&& 0xFFFF0000C0C0F880 = 0 := by
  decide +kernel

/-- R182, R235: the two words stand at both ends of block 0. -/
theorem test_xexp :
    (match xexpPlan (withRecord .x [(0, 1), (8, 0x81), (16, 7), (24, 9)]) (xform 0) with
      | .ok ⟨some b, _⟩ => b.filter (fun c => c.2 != 0) == [(4096, 7), (4096 + 56, 9)]
      | _ => false) = true := by
  decide +kernel

/-- Two idle cycles before the next bundle. -/
def pausing : State := kern { idle with kstat := 0x10000, nextIssue := 2 }

/-- An access to memory in flight; it carries no other, and no older one must precede it. -/
def fetchingData : State :=
  let s := mapped 0
  s.withKern { s.core.kern with
    kstat := 1, landing := s.core.kern.landing.set 0 (some { srfRead .inFlight with addr := 0 })
    wqueue := s.core.kern.wqueue.set 0 (some { srfRead .inFlight with opc := 0xB9, addr := 0, ord := 1 }) }

theorem test_more_kernel_states :
    kernelNext pausing = .cycle ∧ pausing.core.kern.ending = false ∧
    (∀ e ∈ fetchingData.core.kern.entries, mayPerform fetchingData e = true ∧ ownLoad fetchingData e = none ∧
      (e.opc = 0xB9 → e.ord = 0 → e.fence = 0 → False) ∧
      (match perform fetchingData (kernAccess fetchingData) e with
        | .ok _ => true
        | .error _ => false) = true) := by
  decide +kernel

/-- A packet whose ASID's page 0 the host manages, and a launch whose record lies there. -/
def managed (s : State) : State :=
  putWords (putWords { s with md := { s.md with faccept := 0x1FF } } 0 [0x2001, 0, 0, 0]) 0x2000 [0x40]

def waitsFor (g : Option PageWait) : Bool := g == some ⟨0, 0, false⟩

theorem test_pages_are_waited_for :
    (match acceptLaunch (managed (packet launchWords)) launchWords (launchOf (managed (packet launchWords)) 0 launchWords) with
      | .error (.waits g _) => waitsFor g
      | _ => false) = true ∧
    (match writeCompletion (managed (mapped 0)) ending none with
      | .error (.wait g _) => waitsFor g
      | _ => false) = true ∧
    (match writeCompletion (managed (mapped 0)) ending (some ⟨0, 0, true⟩) with
      | .ok _ => true
      | .error _ => false) = true ∧
    ((packet launchWords).queues.get 0).page = none := by
  decide +kernel

/-- A load record at 0x2000 can be read. -/
theorem test_load_records_are_readable :
    let s := packet [4, 0x2000, 0, 0, 0, 0, 0, 0]
    let key := cellKey s 0 0 0x2000
    bridgeCut s 0 0 0 = false ∧ quiesced s key = false ∧ lineWaits s key = false ∧ setHas (key / 128) s.unmet = false ∧
    linePoisoned s key = false ∧ (∀ l ∈ s.launches, l.queue ≠ 0) := by
  decide +kernel

/-- The grace period of 200 µs is 170,000 cycles. -/
theorem test_grace_periods :
    850 * cpu.core.ctx.grace = 170000 ∧
    goes (exec (.graceExpiry 0) { cpu with clock := 169999, core := { cpu.core with ctx := { cpu.core.ctx with pend := true } } })
      (fun t => !t.core.ctx.expired) = true ∧
    goes (exec (.graceExpiry 0) { cpu with clock := 170000, core := { cpu.core with ctx := { cpu.core.ctx with pend := true } } })
      (fun t => t.core.ctx.expired) = true := by
  decide +kernel

/-- Nothing of another launch stands before the saved group. -/
theorem test_restore_comes_first :
    (restoring.launches.all fun l => l.groups.all fun g => g.preempted) = true ∧
    ((eligibleOn restoring 0).all fun w => decide (launch0.prio ≤ w.prio)) = true := by
  decide +kernel

/-- Stack 3 with a line that its home slices hold over a change of masks. -/
def heldLine : HeldLine := ⟨5, List.replicate 128 7, true, false⟩

theorem test_held_lines_have_states :
    let k : Stack := { Stack.reset with quiesce := true, held := some [heldLine] }
    ((stack k).hbm.get 3).held = some [heldLine] ∧ heldLine.bytes.length = 128 ∧ 128 * heldLine.line < stackBacked ∧
    (stack k).migrating = [] ∧ Memory.wf (stack k).mem = true ∧ ((stack { Stack.reset with quiesce := true }).hbm.get 3).held = none := by
  decide +kernel

/-- R342: the line is written back by its offset, with its mark. -/
theorem test_held_lines_return :
    goes (exec (.quiesce 3 0) (stack { Stack.reset with quiesce := true, held := some [heldLine] })) (fun t =>
      byteAt t (cellKey t 0 3 640) == 7 && setHas (granuleKey t 0 3 640) t.poison) = true := by
  decide +kernel

/-- R245: with three banks erased one unknown error is too much, none is not; R403: an error in lane state stops the core. -/
theorem test_ecc_errors :
    let s : State := { cpu with core := { cpu.core with badBanks := [1, 2, 3] } }
    erasures s 0 = 3 ∧ 2 * 0 + erasures s 0 ≤ 4 ∧ 4 < 2 * 1 + erasures s 0 ∧ (s.focusOn 0).core.cp.run = .running ∧
    goes (exec (.poisonDetect (.srf 0 1) 9) s) (fun t => t.core.srfPoison == [9]) = true ∧
    goes (exec (.poisonDetect (.lane 0) 15) s) (fun t => t.core.cp.run != .running) = true := by
  decide +kernel

/-- R488: q = 0x48D15BC is column 3, bank group 1, bank 0, row 0x1234; R266: o = 0x123456ABC has slice 1. -/
theorem test_dram_example :
    dramCell 0x48D15BC = ⟨0x3C, 3, 1, 0, 0x1234⟩ ∧ homeSlice 0x123456ABC = 1 := by
  decide +kernel

theorem test_lasting_faults_have_states :
    (⟨3, 0⟩ : ErrUnit) ∈ (module fun m => { m with testing := [⟨3, 0⟩] }).md.testing ∧
    (⟨1, 95⟩ : ErrUnit) ∈ (module fun m => { m with testing := [⟨1, 95⟩] }).md.testing ∧ cpu.md.fails.toNat < 2 ∧
    (module fun m => { m with mstate := 3, step := 5 }).md.mstate = 3 := by
  decide +kernel

/-- Ports, states in which no remote access is served, and accesses that have waited for 85,001 and 85,000 cycles. -/
theorem test_remote_timeouts_have_states :
    bit ((module fun m => { m with kbLive := 0x8000 }).md.kbLive.setWidth 64) 15 = true ∧ bit (cpu.md.kbLive.setWidth 64) 15 = false ∧
    (module fun m => { m with mstate := 3 }).md.mstate = 3 ∧ 850 * cpu.md.kbTimeout = 85000 ∧
    (srfRead .inFlight).since = 0 ∧ 850 * cpu.md.kbTimeout < 85001 - 0 ∧ ¬ 850 * cpu.md.kbTimeout < 85000 - 0 := by
  decide +kernel

/-- R443: at 85,000 cycles the waiting load does not trap yet. -/
theorem test_remote_timeout :
    goes (exec (.remoteTimeoutExpiry 0 none) { awaiting with clock := 85000 }) (fun t => !t.core.cp.inTrap) = true := by
  decide +kernel

/-- Rounds: PIN is 1 µs for a round in the package, so the next begins from cycle 850; without its partner a round fails
after 101 µs. -/
theorem test_rounds_have_states :
    let s := regions (live false)
    roundBegan (live true) 0 = 0 ∧ (live true).pin = 1 ∧ 0 % (live true).levels < Nat.log2 (diesOf (live true).dieMask).length ∧
    850 * (live false).pin + 850 * s.md.kbTimeout < 85851 ∧
    goes (exec (.exchangeRoundBegin 0 0) { regions (live true) with clock := 850 })
      (fun t => (t.lrt.get 0).replicas == [(0, 1, false), (1, 0, true)]) = true ∧
    goes (exec (.exchangeRoundBegin 0 0) { regions (live true) with clock := 849 })
      (fun t => (t.lrt.get 0).replicas == [(0, 0, true), (1, 0, true)]) = true ∧
    goes (exec (.exchangeFailure 0 0) { s with clock := 85851 }) (fun t => t.md.errHead == 0) = true ∧
    goes (exec (.exchangeFailure 0 0) { s with clock := 85851, md := { s.md with deadBridges := [1] } })
      (fun t => t.md.errHead == 1) = true := by
  decide +kernel

/-- A ring whose last posted record was of 112 bytes, with none posted now. -/
def unposted (record : Option Nat) : State :=
  let s := receiving false
  { s with ports := s.ports.set 0 { s.ports.get 0 with rings := [(0, { Ring.reset with entry := 1, record })] } }

/-- R455: BIG before DROP. -/
theorem test_unposted_rings :
    ((unposted (some 112)).ports.get 0).ring 0 = { Ring.reset with entry := 1, record := some 112 } ∧
    postedOn ((unposted none).getCore 0) 0 0 = none ∧
    goes (exec (.frameReceive 0 frame) (unposted (some 112))) (fun t => ((t.ports.get 0).ring 0).big == 1) = true ∧
    goes (exec (.frameReceive 0 frame) (unposted (some 128))) (fun t => ((t.ports.get 0).ring 0).dropPkt == 1) = true ∧
    goes (exec (.frameReceive 0 frame) (unposted none)) (fun t => ((t.ports.get 0).ring 0).dropPkt == 1) = true ∧
    bit ((receiving true).ports.get 0 |>.ring 1).entry 0 = false := by
  decide +kernel

/-- A queue that waits for the page of tag 5, and a held line that has committed. -/
theorem test_answers_have_states :
    let s : State := { paged with queues := paged.queues.set 7 { Queue.reset with page := some ⟨0, 3, false⟩ } }
    (s.queues.get 7).page = some ⟨(0 : BitVec 16), 3, false⟩ ∧
    goes (exec (.prgResponse 5 1) s) (fun t => (t.queues.get 7).page == some ⟨0, 3, true⟩) = true ∧
    goes (exec (.prgResponse 5 0) s) (fun t => (t.queues.get 7).page == none) = true ∧
    goes (exec (.atsInvalidate 0 0x1000) { paged with migrating := [⟨0, 0x1000, 1, 2, true⟩, ⟨0, 0x1000, 3, 4, false⟩] })
      (fun t => t.migrating == [⟨0, 0x1000, 3, 4, false⟩]) = true := by
  decide +kernel

/-- A word that waits at PC runs again as it was fetched (R151). -/
theorem test_waiting_words_run_again :
    let s := blocked 0xDB 5
    s.core.cp.wait = some ⟨s.core.cp.pc, 0, false, true, 0xDB, 0⟩ ∧ pendingNow s = false ∧
    slotFirst s = none ∧ s.agenda = [] ∧ fetching.core.cp.wait = none := by
  decide +kernel

/-- An object's page that is awaited, or was refused, and one that is not. -/
theorem test_object_pages_have_states :
    let s := streams.withSt { streams.core.st with objPage := some ⟨0, fld (streams.core.cp.readG 7) 0 56 / 4096, false⟩ }
    (∃ p, s.core.st.objPage = some p ∧ p.refused = false ∧ p.asid = s.core.cp.asid ∧ p.page = fld (s.core.cp.readG 7) 0 56 / 4096) ∧
    (∀ p, streams.core.st.objPage = some p → p.refused = true) ∧
    (blocked 0xDC 5).core.cp.wait = some ⟨0, 0, false, true, 0xDC, 0⟩ := by
  decide +kernel

/-- Arrivals of a kernel with earlier accesses in flight, and without. -/
theorem test_settled_kernels :
    cpu.core.kern.settled cpu.core.kern.seq = true ∧ ({ reading.core.kern with seq := 1 } : Kern).settled 1 = false ∧
    fetchingData.core.kern.behind 5 ⟨0xB0, 0, 0, 0⟩ = fetchingData.core.kern.behind 5 ⟨0xB0, 0, 0, 0⟩ ∧
    (∀ n ∈ [0, 1, 767], ∀ i ∈ List.range 32, ∀ x ∈ ((mapped 0).getCore n).kern.wqueue[i]?, x = none) := by
  decide +kernel

/-! ## States for the clauses about special registers, buffers and the schedule -/

/-- A kernel runs: a write of a kernel register waits (R110). -/
theorem test_kernel_register_waits_have_states :
    let run : State := cpu.withKern { idle with kstat := 1 }
    (OnCp run 0 ∧ run.core.kern.stState = 1 ∧ run.core.cp.mode = true) ∧ (OnCp user 0 ∧ user.core.cp.mode = false ∧ user.core.kern.stState ≠ 1) ∧
    (iform 0x13 0).fn.toNat = 0x13 ∧ (iform 0x25 0).fn.toNat = 0x25 ∧ (iform 0x20 0).fn.toNat = 0x20 ∧
    goes (exec (.wrsys (iform 0x25 0)) run) (fun t => t.core.cp.wait.isSome && t.core.cp.pc == 0) = true ∧
    goes (exec (.xchsys (iform 0x13 0)) (user.withCp (user.core.cp.writeG 4 0xFF))) (fun t => t.core.cp.cflags == 0x3F) = true := by
  decide +kernel

/-- Loads of the own SRF: none older in flight; behind an older acquire; behind an older access whose walk is to be made. -/
def behindAcquire : State :=
  (slotMem 0xFF00000000000040).withKern { (slotMem 0xFF00000000000040).core.kern with
    seq := 1, landing := idle.landing.set 0 (some { srfRead .inFlight with opc := 0xB2, addr := 0, ord := 1, seq := 0 }) }
def ownLoadEntry (q : Nat) : LogEntry := { entryOf (slotMem 0) 0xB0 (mform 4) 0xFF00000000000040 8 with dest := some (.k 3), seq := q }

theorem test_own_loads_have_states :
    let k := (slotMem 0).core.kern
    (k.entries = [] ∧ k.pend = [] ∧ k.undo = [] ∧ k.xforms = [] ∧ k.freeze = .none) ∧
    ownOffset (slotMem 0xFF00000000000040) 0xFF00000000000040 = some 0x40 ∧ InSlot behindAcquire 0 ∧
    mayPerform (slotMem 0xFF00000000000040) (ownLoadEntry 0) = true ∧ mayPerform behindAcquire (ownLoadEntry 1) = false ∧
    (walkOlder (slotMem 0) 0).isSome = true := by
  decide +kernel

/-- R339: an arrival recorded with the channel's present generation, or one not counted yet. -/
theorem test_second_arrivals_have_states :
    (barred cpu ⟨some channel.gen, none⟩).core.arrival true = ⟨some channel.gen, none⟩ ∧
    (barred (slot .s) ⟨none, some 0⟩).channels.find? (Channel.isFor 0 0 true 2) = some channel ∧
    ((barred (slot .s) ⟨none, some 0⟩).core.arrival true).pending ≠ none ∧
    goes (exec (.barArrive ⟨0, 0, 0, 4, 2⟩) (barred cpu ⟨some channel.gen, none⟩)) (fun t => t.core.cp.inTrap) = true := by
  decide +kernel

/-- An access in flight that uses a translation of page 0 of ASID 0 (R300, R314). -/
def walkedKernel : State :=
  let x : Xlat := { va := 0, size := 4096, phys := 0x2000, perm := 0xF, lattice := 0, mode := 0, range := true }
  kern { idle with landing := idle.landing.set 0 (some { srfRead .inFlight with addr := 0, walked := some x }) }

theorem test_translations_in_use :
    (walkedKernel.core.kern.entries.any fun e => e.walked.isSome) = true ∧
    (inUse walkedKernel).map (fun x => (x.asid, x.die, x.va, x.size, x.range)) = [(0, 0, 0, 4096, true)] ∧ inUse cpu = [] ∧
    goes (exec (.tlbiAll (rform 0)) walkedKernel) (fun t => t.core.cp.wait.isSome && t.core.cp.pc == 0) = true := by
  decide +kernel

/-! ## The schedule -/

/-- The turn of a CP with a cause to take, and of a kernel that stops or reports. -/
theorem test_turns_have_states :
    (slotFirst { pendingTwo with agenda := [.cp 0] } = none ∧ CpActs { pendingTwo with agenda := [.cp 0] } ((tick { pendingTwo with agenda := [] }).focusOn 0)) ∧
    (slotFirst { reporting with agenda := [.kernel 0] } = none ∧
      KernelActs { reporting with agenda := [.kernel 0] } ((tick { reporting with agenda := [] }).focusOn 0)) ∧
    Foremost { cause := .thermal } (tick { pendingTwo with agenda := [] }).core.cp.pending := by
  refine ⟨⟨by decide +kernel, .inr ⟨0, [], rfl, rfl⟩⟩, ⟨by decide +kernel, 0, [], rfl, rfl⟩, ?_⟩
  exact ⟨[{ cause := .powerCap }], [], rfl, by decide, by simp⟩

/-- A matrix fault held, and no bundle in issue. -/
def holding : State := kern { idle with kstat := 0x10000, held := [⟨{ cause := .decompress }, 7, 0xA6⟩] }

theorem test_held_faults_have_a_state :
    kernelNext (holding.focusOn 0) = .held ⟨{ cause := .decompress }, 7, 0xA6⟩ ∧
    kernelNext (passIdle (holding.focusOn 0)) = .held ⟨{ cause := .decompress }, 7, 0xA6⟩ ∧
    holding.core.kern.held = [⟨{ cause := .decompress }, 7, 0xA6⟩] ∧ holding.core.kern.issuing = none := by
  decide +kernel

/-- A kernel at bundle `pc` whose bundle 0 has this header and words. -/
def bundleAt (pc : Nat) (kstat : Word) (store : List (Nat × Word)) : State := kern { idle with kstat, nextPc := pc, store }

/-- The bundle of the state in focus. -/
def wordsAt (s : State) : Except (Nat × Word × Trap) (List SlotWord) :=
  bundleWords s s.core.kern.nextPc (((lookupNum (8 * s.core.kern.nextPc) s.core.kern.store).getD 0).extractLsb' 32 32) 1

/-- R72: the first word that fails is in position 1; a header with a reserved bit; the end of the store. -/
theorem test_failing_bundles_have_states :
    let reserved := bundleAt 0 0x10000 [(0, 0), (1, 0xFF00C41400008000)]
    kernelNext (passIdle ((bundleAt 1024 0x10000 []).focusOn 0)) = .issue ∧
    (kernelNext (passIdle ((bundleAt 0 0x10000 [(0, 0x800)]).focusOn 0)) = .issue ∧ fld (0x800 : Word) 11 21 ≠ 0 ∧ ¬ fld (0x600 : Word) 8 3 ≤ 5) ∧
    (kernelNext (passIdle (reserved.focusOn 0)) = .issue ∧ (match wordsAt reserved with
      | .error (1, _, t) => t.cause == .badOpcode
      | _ => false) = true) := by
  decide +kernel

/-- R121, R123, R124: two V slots that write one register; a branch in a delay slot; a source that is not written yet. -/
theorem test_conflicting_bundles_have_states :
    let conflict := bundleAt 0 0x10000 [(0, 0), (2, 0x4000C10800048031), (3, 0x4000C10800048031)]
    let branch := bundleAt 0 0x12000 [(0, 0), (1, 0x2D00C000FFFFFFFD)]
    let early := (bundleAt 0 0x10004 [(0, 0), (1, 0x0100C41400008000)]).withKern { (bundleAt 0 0x10004 [(0, 0), (1, 0x0100C41400008000)]).core.kern with
      pend := [⟨9, 0, .k 4 7⟩] }
    let early := { early with md := { early.md with faccept := 0xFF } }
    let good (s : State) (f : List SlotWord → Bool) : Bool := kernelNext (passIdle (s.focusOn 0)) == .issue &&
      match wordsAt s with
      | .ok l => f l
      | .error _ => false
    good conflict slotConflict = true ∧ good branch (fun l => !slotConflict l && l.any isBranch) = true ∧
    fld branch.core.kern.kstat 13 2 ≠ 0 ∧ bit early.core.kern.kstat 2 = true ∧ accepted early 3 = true ∧
    good early (fun l => !slotConflict l && stallShort early.core.kern early.core.kern.ktime l &&
      l.countP (needsLanding early) ≤ freeEntries early.core.kern.landing) = true := by
  decide +kernel

/-! ## Stream words, objects and engines -/

/-- Page 0 lies in package 1, over a live route: g4 names an object there. -/
def awayObject : State :=
  { streams with mem := remoteRead.mem, md := { streams.md with astLen := 1, routes := [(1, 0x10001)], kbLive := 1 } }
def askAway : LogEntry := objRequest awayObject 0 3 0

theorem test_objects_in_other_packages_have_states :
    OnCp awayObject 0 ∧ awayObject.core.cp.readG 4 = 0 ∧ awayObject.core.st.queue.length < 32 ∧ awayObject.core.st.objPage = none ∧
    (awayObject.core.cp.remote = none ∧ objRemote awayObject (cpAccess awayObject) askAway = true) ∧ askAway.status = .inFlight ∧
    objRemote awayObject (cpAccess awayObject) (objRequest awayObject 0 1 64) = true ∧
    objRemote awayObject (cpAccess awayObject) (engEntry awayObject objRead 0 16 []) = true ∧
    frontTrap (0 : Word) 16 16 (fun _ => true) (writesMem objUpdate) = none ∧ frontTrap (0 : Word) 16 16 (fun _ => true) (writesMem objRead) = none ∧
    objRemote streams (cpAccess streams) (objRequest streams (streams.core.cp.readG 7) 3 0) = false ∧
    ({ askAway with status := .failed { cause := .remoteTimeout } } : LogEntry).status ≠ .inFlight ∧
    goes (exec (.barvArm { sform 0 0 5 0 with ga := 4 }) awayObject) (fun t => t.core.cp.remote.isSome && t.core.cp.wait.isSome) = true := by
  decide +kernel

/-- An object whose page the tables do not give: the instruction's fault at issue (R356). -/
theorem test_unreachable_objects_have_states :
    (match objUpdateAt (streams.withCp { streams.core.cp with remote := none }) (engAccess streams (entryFor streams 0xD0 (sform 0 0 0 0) [])) 0
        (fun w0 w1 => some (w0, w1)) with
      | .error (.trap t _) => t.cause != .hostPage
      | _ => false) = true := by
  decide +kernel

/-- A request owed for unit 0, whose stack is quiesced; a gate at an object in another package. -/
def owing : State :=
  quiet.withSt { quiet.core.st with owed := [⟨⟨runningLoad.seq, 0, 0, 0⟩, .access { srfRead .inFlight with addr := 0 }⟩] }
def awayGate : QEntry := { fillEntry with stage := .gated 0, gate := some (0, false), sup := true }
def recvEntry : QEntry := { entryFor streams 0xD7 { sform 0 0 0 6 with sd := 3 } [] with gate := none }

theorem test_engines_have_more_states :
    (let r := runUnits owing runningLoad
     r.1.core.st.owedBy r.2 ≠ [] ∧ r.1.core.cp.run = .running) ∧
    (asksAway awayObject awayGate (some 0) objRead = true ∧ asksAway (gated 2) gatedEntry gatedEntry.gate.get!.1 objRead = false ∧
      ((awayObject.withSt { awayObject.core.st with flight := [awayGate] }).core.st.flight.find? (·.seq == awayGate.seq)) = some awayGate ∧
      awayGate.page = none) ∧
    ((inQueue recvEntry).core.st.queue.find? (mayIssue (inQueue recvEntry).core.st) = some recvEntry ∧ recvEntry.opc = 0xD7 ∧
      recvEntry.gate = none ∧ recvEntry.bad = none) := by
  decide +kernel

/-- R383: the record's size stands in the ring once the `srecv` runs. -/
theorem test_receive_posts_its_record :
    goes (exec (.scoreboardIssue 0) (inQueue recvEntry)) (fun t =>
      ((t.ports.get 0).rings.any fun r => r.2.record == some (fld recvEntry.sd.w1 0 16))) = true := by
  decide +kernel

/-! ## Queues, starts and restores -/

/-- Seventeen packets stand in a ring of sixteen. -/
theorem test_overfull_rings_have_states :
    let s : State := { cpu with queues := cpu.queues.set 0 { Queue.reset with write := 17, err := true } }
    2 ^ (s.queues.get 0).size < ((s.queues.get 0).write - (s.queues.get 0).read).toNat ∧
    goes (exec (.qctlEnable 0 1) s) (fun t => (t.queues.get 0).err && (t.queues.get 0).enable) = true := by
  decide +kernel

/-- The third failure, at step 5. -/
theorem test_third_failure_at_step_5 :
    let s := module fun m => { m with step := 5, fails := 2 }
    s.md.mstate ≠ 3 ∧ s.md.step.toNat = 5 ∧ 2 ≤ s.md.fails.toNat ∧
    goes (exec (.startStepComplete false) s) (fun t => t.md.mstate == 3 && t.md.step == 0 && t.md.fails == 3) = true := by
  decide +kernel

/-- R443: a CP that awaits an object, past its time: counting an instruction, and arming. -/
theorem test_object_timeouts_have_states :
    let awaits (op : BitVec 4) : State :=
      { awayObject.withCp { awayObject.core.cp with remote := some { askAway with aop := op }, wait := some ⟨0, 0, true, false, 0xDC, 0⟩ } with clock := 85001 }
    ((awaits 3).core.cp.remote = some askAway ∧ askAway.opc = objUpdate ∧ askAway.aop = 3 ∧ 850 * (awaits 3).md.kbTimeout < (awaits 3).clock - askAway.since) ∧
    ({ askAway with aop := 1 } : LogEntry).aop ≠ 3 ∧ (awaits 1).core.cp.wait = some ⟨0, 0, true, false, 0xDC, 0⟩ := by
  decide +kernel


/-! ## Frames under encryption (R455) -/

/-- Header with ENC = 1 and key slot 5, 16 bytes, and a tag. -/
def sealed (tag : List Byte) : Frame :=
  ⟨true, true, .v4 5 76 17, 7, 56, .none, 0, leBytes 2 0x8005 ++ List.replicate 14 0 ++ List.replicate 16 7 ++ tag⟩
def sealTag : List Byte :=
  natBytes (gcmTag (slotKeys 0) (List.replicate 12 0) (byteNats (leBytes 2 0x8005 ++ List.replicate 14 0)) (List.replicate 16 7))
def keyed (keys : List (Nat × BitVec 256)) : State :=
  { receiving true with md := { (receiving true).md with faccept := 0x3FF, keys } }

theorem test_sealed_frames_have_states :
    accepted (keyed []) 9 = true ∧ accepted (receiving true) 9 = false ∧
    frameAccepted (sealed (List.replicate 16 0)) = true ∧ leNat ((sealed []).payload.take 2) / 2 ^ 15 % 2 = 1 ∧
    goes (exec (.frameReceive 0 (sealed (List.replicate 16 0))) (keyed [])) (fun t => ((t.ports.get 0).ring 0).noKey == 1) = true := by
  decide +kernel

theorem test_frames_are_opened :
    sealTag.length = 16 ∧
    goes (exec (.frameReceive 0 (sealed (List.replicate 16 0))) (keyed [(5, 0)])) (fun t => ((t.ports.get 0).ring 0).authPkt == 1) = true ∧
    goes (exec (.frameReceive 0 (sealed sealTag)) (keyed [(5, 0)])) (fun t => ((t.ports.get 0).ring 0).rxPkt == 1) = true := by
  decide +kernel

/-! ## Numbers -/

/-- No value numbered below (j + 1)·2^7 + 1 of a coding with 7 fraction bits and bias b reaches beyond this. -/
theorem coded_le (b : ℤ) (m j : ℕ) (h : m ≤ (j + 1) * 128) :
    (if m / 128 = 0 then (m : ℚ) / 128 * 2 ^ (1 - b) else (1 + ((m % 128 : ℕ) : ℚ) / 128) * 2 ^ (((m / 128 : ℕ) : ℤ) - b)) ≤
      2 * 2 ^ ((j : ℤ) + 1 - b) := by
  have hj : m / 128 ≤ j + 1 := by omega
  split
  · have h1 : (m : ℚ) / 128 ≤ 2 := by
      have hm : m ≤ 256 := by omega
      have : (m : ℚ) ≤ 256 := by exact_mod_cast hm
      linarith
    gcongr <;> norm_num
  · have h1 : (1 : ℚ) + ((m % 128 : ℕ) : ℚ) / 128 ≤ 2 := by
      have hm : m % 128 ≤ 128 := by omega
      have : ((m % 128 : ℕ) : ℚ) ≤ 128 := by exact_mod_cast hm
      linarith
    have h2 : (2 : ℚ) ^ (((m / 128 : ℕ) : ℤ) - b) ≤ 2 ^ ((j : ℤ) + 1 - b) := zpow_le_zpow_right₀ (by norm_num) (by omega)
    exact mul_le_mul h1 h2 (by positivity) (by norm_num)

theorem magnitude_bf16_le (m j : ℕ) (h : m ≤ (j + 1) * 128) : magnitude 8 7 m ≤ 2 * 2 ^ ((j : ℤ) + 1 - 127) := by
  have := coded_le 127 m j h
  norm_num [magnitude] at this ⊢
  exact this

theorem test_257_is_not_tiny : ¬ Tiny 8 7 0 false 257 := by
  rintro ⟨j, c, -, ⟨n, -, hn, hc⟩, hlt⟩
  have hle : n ≤ c := by
    by_cases h1 : magnitude 8 7 n = 257 * 2 ^ j
    · simp [hc, h1]
    · simp only [hc, h1, if_false]
      split_ifs <;> omega
  have h := magnitude_bf16_le (n + 1) j (by omega)
  have : (2 : ℚ) * 2 ^ ((j : ℤ) + 1 - 127) ≤ 257 * 2 ^ j := by
    rw [show (2 : ℚ) ^ j = 2 ^ (j : ℤ) by norm_cast]
    have h3 : (2 : ℚ) ^ ((j : ℤ) + 1 - 127) ≤ 2 ^ (j : ℤ) := zpow_le_zpow_right₀ (by norm_num) (by omega)
    have : (0 : ℚ) < 2 ^ (j : ℤ) := by positivity
    nlinarith
  linarith

/-- bf16: 257 lies halfway between 256 and 258; 256.5 is told as an interval; 2^−133 and 2^−134 are tiny, the second inexact;
2^128 is beyond the largest finite value. -/
theorem test_roundings_have_values :
    ((fmtBF16, 8, 7, 0x7F7F) ∈ codings ∧ (fmtBF16, 8, 7, 0x7F7F) ∈ ieee ∧ (fmtE2M1, 2, 1, 0x7) ∈ codings) ∧
    (Stands 8 (.fin false 257 0) false 257 ∧ RoundsTo (magnitude 8 7) 0 false 257 17280 ∧ magnitude 8 7 17280 ≠ 257) ∧
    (Stands 8 (.near false 256 0) false (513 / 2) ∧ Stands 0 (.near false 1 (-2)) false (3 / 8)) ∧
    (Stands 8 (.fin true 1 (-133)) true (2 ^ (-133 : ℤ)) ∧ RoundsTo (magnitude 8 7) 0 true (2 ^ (-133 : ℤ)) 1 ∧
      Tiny 8 7 0 true (2 ^ (-133 : ℤ)) ∧ magnitude 8 7 1 = 2 ^ (-133 : ℤ)) ∧
    (Stands 8 (.fin false 1 (-134)) false (2 ^ (-134 : ℤ)) ∧ RoundsTo (magnitude 8 7) 0 false (2 ^ (-134 : ℤ)) 0 ∧
      Tiny 8 7 0 false (2 ^ (-134 : ℤ)) ∧ magnitude 8 7 0 ≠ 2 ^ (-134 : ℤ)) ∧
    (Stands 8 (.fin false 1 128) false (2 ^ (128 : ℤ)) ∧ RoundsTo (magnitude 8 7) 0 false (2 ^ (128 : ℤ)) 0x7F80 ∧ 0x7F7F < 0x7F80) ∧
    (Stands 3 (.fin false 8 0) false 8 ∧ RoundsTo (magnitude 2 1) 0 false 8 8 ∧ 0x7 < 8) ∧
    (Stands 24 (.fin false 3 0) false 3 ∧ magnitude 8 23 0x40400000 ≤ 3 ∧ 3 < magnitude 8 23 (0x40400000 + 1)) := by
  refine ⟨by decide, ⟨?_, ?_, ?_⟩, ⟨?_, ?_⟩, ⟨?_, ?_, ?_, ?_⟩, ⟨?_, ?_, ?_, ?_⟩, ⟨?_, ?_, by norm_num⟩, ⟨?_, ?_, by norm_num⟩, ?_, ?_, ?_⟩
  · exact ⟨by norm_num, 257, 0, .inl ⟨rfl, by norm_num⟩⟩
  · exact ⟨17280, by norm_num [magnitude], by norm_num [magnitude], by norm_num [magnitude]⟩
  · norm_num [magnitude]
  · exact ⟨by norm_num, 256, 0, .inr ⟨rfl, by norm_num, by norm_num, by norm_num⟩⟩
  · exact ⟨by norm_num, 1, -2, .inr ⟨rfl, by norm_num, by norm_num, by norm_num⟩⟩
  · exact ⟨by positivity, 1, -133, .inl ⟨rfl, by norm_num⟩⟩
  · exact ⟨1, by norm_num [magnitude], by norm_num [magnitude], by norm_num [magnitude]⟩
  · exact ⟨7, 128, by norm_num [magnitude], ⟨128, by norm_num [magnitude], by norm_num [magnitude], by norm_num [magnitude]⟩, by norm_num⟩
  · norm_num [magnitude]
  · exact ⟨by positivity, 1, -134, .inl ⟨rfl, by norm_num⟩⟩
  · exact ⟨0, by norm_num [magnitude], by norm_num [magnitude], by norm_num [magnitude]⟩
  · exact ⟨8, 128, by norm_num [magnitude], ⟨128, by norm_num [magnitude], by norm_num [magnitude], by norm_num [magnitude]⟩, by norm_num⟩
  · norm_num [magnitude]
  · exact ⟨by positivity, 1, 128, .inl ⟨rfl, by norm_num⟩⟩
  · exact ⟨0x7F80, by norm_num [magnitude], by norm_num [magnitude], by norm_num [magnitude]⟩
  · exact ⟨by norm_num, 8, 0, .inl ⟨rfl, by norm_num⟩⟩
  · exact ⟨8, by norm_num [magnitude], by norm_num [magnitude], by norm_num [magnitude]⟩
  · exact ⟨by norm_num, 3, 0, .inl ⟨rfl, by norm_num⟩⟩
  · norm_num [magnitude]
  · norm_num [magnitude]

/-- R48, R50: 257 rounds to 256 with NX; 2^−133 is flushed under FLUSH; 8 is beyond e2m1's 6. -/
theorem test_deliver :
    deliver fmtBF16 0 false (.fin false 257 0) = (17280, flNX) ∧ deliver fmtBF16 0 true (.fin true 1 (-133)) = (0x8000, flUF ||| flNX) ∧
    deliver fmtE2M1 0 false (.fin false 8 0) = (7, flOF ||| flNX) := by
  decide +kernel

/-- R53: f32 100, 300, −300, infinity and NaN to s8. -/
theorem test_conversions_to_integers_have_states :
    (fArg cpu 9 0x42C80000 = .fin false 13107200 (-17) ∧ val (.fin false 13107200 (-17)) = 100) ∧
    fArg cpu 9 0x7F800000 = .inf false ∧ fArg cpu 9 0xFF800000 = .inf true ∧ (fArg cpu 9 0x7FC00000).isNaN = true ∧
    (roundedTo 0 (300 : ℚ) = 300 ∧ tyMax 3 < 300 ∧ -300 < tyMin 3) ∧
    tyIsInt 9 = false ∧ tyIsInt 3 = true ∧ NoTrap cpu 0 ∧ guardHolds cpu 0 = true := by
  refine ⟨⟨by decide +kernel, by norm_num [val]⟩, by decide +kernel, by decide +kernel, by decide +kernel, ?_, by decide +kernel⟩
  exact ⟨by simp [roundedTo], by decide, by decide⟩

/-- R307: a load of a lattice cell of memory. -/
theorem test_lattice_loads_have_states :
    let t : Target := ⟨.stk 0 0 64, 7, 0⟩
    t.remote cpu = false ∧ quiesced cpu (cellKey cpu 0 0 64) = false ∧ metPoison cpu (cellKey cpu 0 0 64) false = none ∧
    lrtEntryOf cpu 0x2000 = none ∧ (match place (mapped 7) { core := 0, asid := 0, sup := true } 0 ⟨0x2000, 7, 0⟩ with
      | .ok t => t.slot == 0
      | .error _ => false) = true := by
  decide +kernel

/-! ## Tiles -/

/-- Rows of a plain, an mx and a kf format; the group scale NaN; and values to encode. -/
theorem test_rows_have_values :
    (tileFmt 0x01).isSome = true ∧ (tileFmt 0x10).isSome = true ∧ (tileFmt 0x18).isSome = true ∧
    0xFF % 256 = 255 ∧ 0x1FF / 2 ^ (16 * (0 / 8)) % 2 ^ 9 = 0x1FF ∧ 0x7F % 256 ≠ 255 ∧
    (finite (.fin false 1 0) = true ∧ 0 < val (.fin false 1 0)) ∧
    LargestOf (List.replicate 32 (.fin false 1 0)) 1 ∧ (2 : ℚ) ^ (0 : ℤ) ≤ 1 ∧ (1 : ℚ) < 2 ^ ((0 : ℤ) + 1) ∧
    LargestOf (List.replicate 32 (.fin false 0 0)) 0 := by
  refine ⟨by decide +kernel, by decide +kernel, by decide +kernel, by norm_num, by norm_num, by norm_num, by norm_num [val, finite], ?_, by norm_num,
    by norm_num, ?_⟩
  · exact ⟨fun v hv _ => by rw [List.eq_of_mem_replicate hv]; norm_num [val],
      .inl ⟨.fin false 1 0, by simp, rfl, by norm_num [val]⟩⟩
  · exact ⟨fun v hv _ => by rw [List.eq_of_mem_replicate hv]; norm_num [val],
      .inl ⟨.fin false 0 0, by simp, rfl, by norm_num [val]⟩⟩

/-- Tiles that a step of 1 in every element leaves within range, or not, at the top exponent too. -/
def tile (ae : Option Int) (m : Int) : AccLane := { AccLane.reset with ae, m := List.replicate 1024 m }
def ones : List FVal := List.replicate 1024 (.fin false 1 0)

theorem test_steps_have_tiles :
    (tile none 0).m.length = 1024 ∧ ones.length = 1024 ∧ (∀ x ∈ ones, Definite x) ∧ LargestOf ones 1 ∧
    (∀ m ∈ (tile none 0).m, m = 0 ∨ m = 2 ^ 47 - 1) ∧
    accumulated .add (accVal (some 0) 0) (.fin false 1 0) = .fin false 1 0 ∧ accInt (some 0) (.fin false 1 0) = 1 ∧
    accInt (some 0) (.fin false 70368744177664 0) = 70368744177664 := by
  have h : ∀ z : ℤ, roundedTo 0 (z : ℚ) = z := fun z => by simp [roundedTo]
  refine ⟨by rw [tile, List.length_replicate], by rw [ones, List.length_replicate], ?_, ?_, ?_, by decide +kernel, ?_, ?_⟩
  · intro x hx
    rw [List.eq_of_mem_replicate hx]
    exact .inl rfl
  · exact ⟨fun v hv _ => by rw [List.eq_of_mem_replicate hv]; norm_num [val],
      .inl ⟨.fin false 1 0, by rw [ones, List.mem_replicate]; exact ⟨by norm_num, rfl⟩, rfl, by norm_num [val]⟩⟩
  · intro m hm
    exact .inl (List.eq_of_mem_replicate hm)
  · simpa [accInt, val] using h 1
  · simpa [accInt, val] using h 70368744177664

/-- A pass that fails in every lane: its tile of one element stands beyond the range at the top exponent. -/
def failingPass : Pass :=
  let lat : Vector LatchLane 16 := Vector.replicate 16 { LatchLane.reset with fmt := 3 }
  { nanPass 0 with a := [(0, lat)], b := [(0, lat)], acc := [(0, Vector.replicate 16 ⟨some 511, [2 ^ 46], false, false, false⟩)] }

theorem test_pass_lanes_have_states :
    (tileFmt 0x10).isSome = true ∧ (latchKP 0x10).isSome = true ∧
    ((lanePass failingPass 0).failed.isSome = true) ∧ ((lanePass (nanPass 0x7F) 0).failed = none ∧
      ((lanePass (nanPass 0x7F) 0).flags &&& 0x7F) ≠ 0 ∧ ((lanePass (nanPass 0) 0).flags &&& 0) = 0) := by
  decide +kernel


/-! ## Addresses and translation (R238, R255-R268) -/

/-- One address for every check, in their order; 8 bytes at the end of the SRF pass. -/
theorem test_address_checks_have_values :
    (fld (0x1200000000000000 : Word) 56 8 = 0x12) ∧ (0xFF00000000000004 : Word).toNat % 8 ≠ 0 ∧
    (fld (0xFF00000000400000 : Word) 56 8 = 0xFF ∧ fld (0xFF00000000400000 : Word) 22 34 ≠ 0) ∧
    (fld (0xFE00000018000000 : Word) 56 8 = 0xFE ∧ fld (0xFE00000018000000 : Word) 29 27 = 0 ∧ fld (0xFE00000018000000 : Word) 22 7 = 96) ∧
    (fld (0xFF00000000300000 : Word) 0 22 + 8 > 0x300000 ∧ fld (0xFF000000002FFFF8 : Word) 0 22 + 8 ≤ 0x300000) ∧
    frontTrap (0xFF00000000300000 : Word) 8 8 anyAperture false = some { cause := .srfBounds, addr := 0xFF00000000300000 } ∧
    (frontTrap (0xFF00000000400000 : Word) 8 8 anyAperture false).map (·.cause) = some .noncanonical ∧
    OnCp ((mapped 0).withCp ((mapped 0).core.cp.writeG 4 0x1200000000000000)) 0 ∧
    (frontTrap (eaIndexed ((mapped 0).withCp ((mapped 0).core.cp.writeG 4 0x1200000000000000)) { mform 4 with b := 0 }) 8 8 anyAperture false).isSome =
      true := by
  decide +kernel

/-- An address-space table of one entry at page 0, and its range table at page 1. -/
def spaces (row ranges : List Word) : State :=
  putWords (putWords { cpu with md := { cpu.md with astLen := 1 } } 0 row) 4096 ranges

/-- Pages 0 to 1 at local page 2; pages 1 to 1 at page 8. -/
def range01 : List Word := [1, 0x1000, 0x2000, 0xF]
def range1 : List Word := [0x1001, 0x1000, 0x8000, 0xF]
def walkAt (s : State) (va : Nat) : Walk Xlat := walk s 0 0 va

def wordOf (r : TableRead) : Option Word :=
  match r with
  | .word w => some w
  | _ => none

theorem test_table_words_have_states :
    let s := spaces [1, 4097] range01
    (0 / 2 ^ 41 % 2 ^ 13 = s.md.pkg.toNat ∧ (0 : Nat) / 2 ^ 40 % 2 = 0) ∧ bridgeCut s 0 0 0 = false ∧ quiesced s (cellKey s 0 0 0) = false ∧
    linePoisoned s (cellKey s 0 0 0) = false ∧ tableWord s 0 (2 ^ 40) = .malformed ∧ wordOf (tableWord s 0 8) = some 4097 ∧
    tableWord { s with poison := [0] } 0 0 = .poison 0 ∧ tableWord { s with hbm := s.hbm.set 0 { Stack.reset with quiesce := true } } 0 0 = .waits := by
  decide +kernel

/-- R255-R257: an address in one range, in two and in none; entries that fail; poison in either table. -/
theorem test_ranges_have_states :
    let two := spaces [1, 4098] (range01 ++ range1)
    walkAt two 4096 = .error (.fail .rangeOverlap 0) ∧ walkAt (spaces [1, 4097] range01) 8192 = .error (.fail .pageNotPresent 0) ∧
    walkAt cpu 0 = .error (.fail .asidInvalid 0) ∧ walkAt (spaces [0] []) 0 = .error (.fail .asidInvalid 0) ∧
    walkAt (spaces [3] []) 0 = .error (.fail .walkError 5) ∧
    walkAt { cpu with md := { cpu.md with astLen := 1, astBase := 2 ^ 40 } } 0 = .error (.fail .walkError 5) ∧
    walkAt { two with poison := [0] } 0 = .error (.poison 5 0) := by
  decide +kernel

theorem test_range_entries_have_values :
    (RangeMalformed fun i => [0x1001, 0, 0, 0].getD i 0) ∧ ¬ (RangeMalformed fun i => range01.getD i 0) ∧
    tableWord { spaces [1, 4097] range01 with poison := [2 ^ 29] } 0 4096 = .poison (2 ^ 29) := by
  unfold RangeMalformed rangeFirst rangeLast
  decide +kernel

/-- A table at page 3 whose first entries are these. -/
def tableOf (w : List Word) : State := putWords cpu 0x3000 w
def walkTable (level : Nat) (w : List Word) : Walk Xlat := walkFrom (tableOf w) 0 0 (level + 1) level 0x3000

/-- R259, R260: leaves of each size, a table, absent and host-managed pages, and entries that fail. -/
theorem test_small_leaves_have_states :
    (walkTable 0 [0x403F]).toOption.map (fun x => (x.size, x.phys)) = some (0x1000, 0x4000) ∧
    (walkTable 1 [0x20003F]).toOption.map (·.size) = some (2 ^ 21) := by
  decide +kernel

theorem test_large_leaves_have_states : (walkTable 2 [0x4000003F]).toOption.map (·.size) = some (2 ^ 30) := by decide +kernel

theorem test_absent_entries_have_states :
    walkTable 0 [0] = .error (.fail .pageNotPresent 0) ∧ walkTable 0 [0x40] = .error .hostPage := by
  decide +kernel

theorem test_failing_entries_have_states :
    walkTable 1 [0x403F] = .error (.fail .walkError 1) ∧ walkTable 3 [0x3F] = .error (.fail .walkError 3) ∧
    walkTable 0 [1] = .error (.fail .walkError 0) ∧ walkTable 1 [5] = .error (.fail .walkError 1) ∧
    walkTable 1 [0x8000000000001001] = .error (.fail .walkError 1) := by
  decide +kernel

/-- The sixteen entries of a block of 64 KiB at local page 3. -/
def block : State :=
  let at' (i : Nat) : Nat := cellKey cpu 0 3 (8 * i)
  { cpu with mem := (List.range 16).flatMap fun i => [(at' i, 0x3F), (at' i + 2, 1), (at' i + 7, 0x40)] }

theorem test_blocks_have_sixteen_entries :
    ((List.range 16).all fun i => wordOf (tableWord block 0 (0x3000 + 8 * i)) == some 0x400000000001003F) = true := by
  decide +kernel

/-- An entry that leads to an empty table. -/
theorem test_tables_lead_to_tables : walkTable 1 [0x1001] = .error (.fail .pageNotPresent 0) := by decide +kernel

theorem test_a_root_out_of_memory : walkFrom cpu 0 0 5 4 0x10000000000 = .error (.fail .walkError 5) := by decide +kernel

theorem test_a_table_out_of_memory : walkFrom cpu 0 0 2 1 0x10000000000 = .error (.fail .walkError 2) := by decide +kernel

theorem test_poisoned_tables_have_a_state :
    walkFrom { cpu with poison := [cellKey cpu 0 3 0 / 128] } 0 0 1 0 0x3000 = .error (.poison 0 (cellKey cpu 0 3 0 / 128)) := by
  decide +kernel

def readAs (sup : Bool) : Access := { core := 0, asid := 0, sup, read := true }

/-- A page table whose page 0 the host manages, and the state with tags in use. -/
def hostPaged (tags : Nat) : State :=
  let s := putWords (putWords { cpu with md := { cpu.md with astLen := 1, faccept := 0x1FF } } 0 [0x10001]) 0x10000 [0x11001]
  let s := putWords (putWords (putWords s 0x11000 [0x12001]) 0x12000 [0x13001]) 0x13000 [0x14001]
  let s := putWords s 0x14000 [0x40]
  { s with md := { s.md with pageReqs := (List.range tags).map fun i => ⟨i, 1, i⟩ } }

/-- What the checks of a translation look at: a page that user code may not touch, the last bytes of a range, and memory
without backing. -/
theorem test_translations_have_states :
    let found (s : State) (va : Nat) (f : Xlat → Bool) : Bool := (walk s 0 0 va).toOption.any f
    (∀ sup, (readAs sup).walked = none ∧ (readAs sup).refused = none) ∧ heldFor (mapped 0) 0 0 0 = [] ∧
    (∀ q ∈ (hostPaged 2).md.pageReqs, ¬ (q.asid = 0 ∧ q.page = 0)) ∧ accepted (hostPaged 0) 8 = true ∧
    (hostPaged 0).md.prgFailed = false ∧ accepted cpu 8 = false ∧
    found (spaces [1, 4097] [1, 0, 0x2000, 0x7]) 0 (fun x => !x.perm.getLsbD 3 && x.lattice == 0) = true ∧
    found (spaces [1, 4097] [1, 0, 0x2000, 0xF]) 4092 (fun x => x.range && x.va + x.size < 4092 + 8) = true ∧
    found (spaces [1, 4097] [1, 0, 0xFFFFFFF000, 0xF]) 0 (fun x => unbacked cpu (x.physAt 0) 0) = true := by
  decide +kernel

/-- R263: the page is asked for with the lowest free tag. -/
theorem test_host_managed_pages :
    (match translate (hostPaged 2) (readAs true) 0 8 with
      | .error (.trap t x) => t.cause == .hostPage && t.detail == 2 && x.md.pageReqs.length == 3
      | _ => false) = true := by
  decide +kernel

theorem hostPaged_pageReqs (n : ℕ) : (hostPaged n).md.pageReqs = (List.range n).map fun i => ⟨i, 1, i⟩ := rfl

/-- Every tag is in use. -/
theorem test_tags_run_out :
    (∀ tag < 512, ∃ q ∈ (hostPaged 512).md.pageReqs, q.tag = tag) ∧ ∀ q ∈ (hostPaged 512).md.pageReqs, ¬ (q.asid = 0 ∧ q.page = 0) := by
  rw [hostPaged_pageReqs]
  refine ⟨fun tag h => ⟨⟨tag, 1, tag⟩, List.mem_map.2 ⟨tag, List.mem_range.2 h, rfl⟩, rfl⟩, fun q h => ?_⟩
  obtain ⟨i, -, rfl⟩ := List.mem_map.1 h
  exact fun h => absurd h.1 (by simp)

/-- A read of 8 bytes at an address. -/
def readOf (a : Word) : LogEntry := entryOf cpu 0xB0 (mform 4) a 8
def placeOf (s : State) (sup : Bool) (a : Word) : Loc × Option Cause :=
  match resolve s { core := 0, asid := 0, sup } (readOf a) with
  | .ok (t, _) => (t.loc, none)
  | .error (.trap t _) => (.srf 0 0, some t.cause)
  | .error _ => (.srf 0 1, none)

/-- One page at a physical address. -/
def pageAt (phys : Word) (lattice : Word) : State := { spaces [1, 4097] [1, 0, phys, 0xF + 16 * lattice] with md :=
  { (spaces [] []).md with faccept := 0xFF, routes := [(1, 0x10001)], kbLive := 1 } }

/-- Core 1 with a program of the same launch, of another, and fenced. -/
def beside (launch : Nat) (fenced : Bool) : State :=
  { cpu with parked := [(1, { Core.reset with prog := some ⟨launch, 0, 2, 0⟩, cp := { Core.reset.cp with run := .running }, fenced })] }

theorem test_own_and_gallery_places_have_states :
    placeOf cpu false 0xFF00000000000040 = (.srf 0 0x40, none) ∧ placeOf cpu false 0xFE00000000000040 = (.srf 0 0x40, none) ∧
    placeOf (beside 0 false) false 0xFE00000000400040 = (.srf 1 0x40, none) ∧
    placeOf (beside 1 false) false 0xFE00000000400040 = (.srf 0 0, some .galleryCore) ∧
    placeOf (beside 0 true) false 0xFE00000000400040 = (.srf 0 0, some .peerFenced) := by
  decide +kernel

/-- Loads of own memory, and, for the supervisor, of the device registers. -/
theorem test_memory_and_device_places_have_states :
    placeOf (pageAt 0x2000 0) false 0 = (.stk 0 2 0, none) ∧ placeOf (pageAt 0x10000000000 0) true 0 = (.dev 0, none) := by
  decide +kernel

/-- The place of a physical address: over a route, without one, devices of another package, the host window, device registers
for user code; and a cell of another size. -/
theorem test_physical_places_have_states :
    let at' (pa : Nat) : Loc × Option Cause := match place (pageAt 0 0) (readAs false) 0 ⟨pa, 0, 0⟩ with
      | .ok t => (t.loc, none)
      | .error (.trap t _) => (.srf 0 0, some t.cause)
      | .error _ => (.srf 0 1, none)
    at' 0x20000002000 = (.stk 1 2 0, none) ∧ at' 0x40000002000 = (.srf 0 0, some .remoteReject) ∧
    at' 0x30000000000 = (.srf 0 0, some .remoteReject) ∧ at' 0x18000000000 = (.host 1 0, none) ∧
    at' 0x10000000000 = (.srf 0 0, some .pageRead) ∧ cellFit 7 (readOf 8) = false := by
  decide +kernel

end Sys2Proof.Tests
end

section
/-! SUPPORT. The machine right after reset. -/

namespace Sys2Proof.ControlProcessor

open Sys2Proof.Machine Sys2Proof.Safety

/-! ## Reset (R16, R24, R240, R445, R462, R488) -/

/-- Nothing is listed after reset, so every list is in canonical form. -/
theorem canonical_reset : Canonical State.reset :=
  ⟨reset_mem_wf, rfl, reset_srf_wf, by simp [State.reset], by simp [State.reset], rfl, rfl⟩

/-- MSTAT, POWERCAP and the periods of the first lattice region read their reset values (R445, R462). -/
theorem devRead_reset :
    devRead State.reset 0x20 = 0 ∧ devRead State.reset 0x48 = 4000 ∧ devRead State.reset 0x20018 = 0xA0001 := by
  decide +kernel

/-- CSTAT after reset: supervisor mode, no interrupts, no trap, WDLOG 24 (R24). -/
theorem cstat_reset : CP.reset.mode = true ∧ CP.reset.ie = false ∧ CP.reset.inTrap = false ∧ fld CP.reset.cstat 16 5 = 24 := by
  decide

/-- Settles O59: each register has its reset value by definition, and nothing is listed. -/
theorem resetHasTheStatedValues : Obligations.ResetHasTheStatedValues := by
  obtain ⟨hmstat, hpower, hlattice⟩ := devRead_reset
  obtain ⟨hmode, hie, htrap, hlog⟩ := cstat_reset
  exact ⟨canonical_reset, rfl, rfl, rfl, rfl, rfl, rfl, rfl, rfl, rfl, rfl, rfl, rfl, rfl, rfl, rfl, hmstat, hpower,
    hlattice, hmode, hie, htrap, hlog, by decide⟩

end Sys2Proof.ControlProcessor
end

section
namespace Sys2Proof.ControlProcessor

open Sys2Proof.Machine Sys2Proof.Safety Sys2Proof.Claims

/-! ## Integers of a type (R40-R42, R83) -/

theorem tyWidth_pos (t : BitVec 5) : 0 < tyWidth t := by
  unfold tyWidth; split <;> decide

/-- The upper half of the patterns of `n` bits stands `2 ^ n` above its negative values (R40). -/
theorem bmod_two_pow {n : Nat} (hn : 0 < n) (x : Int) :
    x.bmod (2 ^ n) = if (2 ^ (n - 1) : Nat) ≤ x % (2 ^ n : Nat) then x % (2 ^ n : Nat) - (2 ^ n : Nat)
      else x % (2 ^ n : Nat) := by
  have half : ((2 ^ n : Nat) + 1 : Int) / 2 = (2 ^ (n - 1) : Nat) := by
    obtain ⟨m, rfl⟩ : ∃ m, n = m + 1 := ⟨n - 1, by omega⟩
    rw [Nat.add_sub_cancel, Nat.pow_succ]
    omega
  rw [Int.bmod_def, half]
  split <;> split <;> omega

theorem ivalW_signed {n : Nat} (hn : 0 < n) (x : Word) : ivalW true n x = (x.setWidth n).toInt := by
  rw [BitVec.toInt_eq_toNat_bmod, bmod_two_pow hn, BitVec.toNat_setWidth]
  simp only [ivalW, Bool.true_and, decide_eq_true_eq, Int.natCast_emod, Int.emod_emod_of_dvd, dvd_refl]
  norm_cast

theorem ivalW_unsigned (n : Nat) (x : Word) : ivalW false n x = ((x.setWidth n).toNat : Int) := by
  simp [ivalW]

/-- `ival` (R83) reads the low bits in two's complement or unsigned. -/
theorem ival_eq_intOf (t : BitVec 5) (x : Word) : ival t x = intOf t x := by
  unfold ival intOf
  cases tySigned t
  · exact ivalW_unsigned _ x
  · exact ivalW_signed (tyWidth_pos t) x

theorem intLo_eq_tyMin (t : BitVec 5) : intLo (tySigned t) (tyWidth t) = tyMin t := by
  unfold intLo tyMin; push_cast; rfl

theorem intHi_eq_tyMax (t : BitVec 5) : intHi (tySigned t) (tyWidth t) = tyMax t := by
  unfold intHi tyMax; push_cast; rfl

theorem tyMin_le_tyMax (t : BitVec 5) : tyMin t ≤ tyMax t := by
  have h (n : Nat) : (1 : Int) ≤ 2 ^ n := one_le_pow₀ (by decide)
  have := h (tyWidth t - 1)
  have := h (tyWidth t)
  unfold tyMin tyMax
  split <;> omega

/-- `intresult` raises IV exactly for a signed result out of range (R42). -/
theorem intResultTy_flags (t : BitVec 5) (sat : Bool) (x : Int) : (intResultTy t sat x).2 = overflows t x := by
  simp only [intResultTy, intResult, intLo_eq_tyMin, intHi_eq_tyMax, flagIf, overflows]
  simp

/-- The value of `intresult` as a register value is the exact integer narrowed (R41). -/
theorem intWord_intResultTy (t : BitVec 5) (sat : Bool) (x : Int) :
    intWord (intResultTy t sat x).1 = narrowed t sat x := by
  have hle := tyMin_le_tyMax t
  simp only [intResultTy, intResult, intLo_eq_tyMin, intHi_eq_tyMax, intWord, narrowed]
  cases sat with
  | true =>
    simp only [if_true]
    congr 1
    split
    · omega
    · split <;> omega
  | false =>
    cases tySigned t with
    | true =>
      simp only [BitVec.signExtend, BitVec.toInt_ofInt, bmod_two_pow (tyWidth_pos t)]
      simp
    | false =>
      apply BitVec.eq_of_toNat_eq
      simp [BitVec.toNat_ofInt, Int.toNat_emod, Int.emod_nonneg]

/-! ## The integer words (R55, R84) -/

theorem giveInt_narrowed (s : State) (lat : Nat) (d : BitVec 6) (t : BitVec 5) (sat : Bool) (x : Int) :
    giveInt s lat d (intResultTy t sat x) =
      (raiseFlags s (overflows t x)).bind fun s => .ok (writeR s lat d (narrowed t sat x)) := by
  rw [giveInt_eq, intResultTy_flags, intWord_intResultTy]

theorem intOp_eq (lat : Nat) (f : Int → Int → Int) (w : RForm) (s : State) :
    intOp lat f w s = giveInt s lat w.d (intResultTy w.ty (w.sat == 1)
      (f (intOf w.ty (readR s w.a)) (intOf w.ty (opB s w (tyUnsigned w.ty))))) := by
  simp only [intOp, ival_eq_intOf]

theorem intOp1_eq (f : Int → Int) (w : RForm) (s : State) :
    intOp1 f w s = giveInt s 1 w.d (intResultTy w.ty (w.sat == 1) (f (intOf w.ty (readR s w.a)))) := by
  simp only [intOp1, ival_eq_intOf]

/-- A word that delivers an integer result gives that integer, narrowed. -/
theorem givesInt_of_giveInt {i : Instr} {s : State} {opc : BitVec 8} {g : BitVec 4} {body : State → Body} {lat : Nat}
    {d : BitVec 6} {t : BitVec 5} {sat : Bool} {x : Int} (hg : guardHolds s g = true)
    (hi : exec i s = runPlain s opc g body) (hb : body s = giveInt s lat d (intResultTy t sat x)) :
    GivesInt i s lat d t sat x := fun hf => by
  rw [Delivers, hi]
  exact runPlain_gives hg hf (by rw [hb, giveInt_narrowed])

/-- An enabled IV is the lowest flag that is raised and enabled, and traps (R55). -/
theorem raiseFlags_enabled_overflow {s : State} (he : (scalarEnables s).getLsbD 5 = true) :
    raiseFlags s flIV = .error (.trap { cause := .intOverflow } s) := by
  have low : lowestFlag (flIV &&& scalarEnables s) = some 5 := by
    refine lowestFlag_eq (by decide) (by simpa [flIV] using he) fun c hc => ?_
    have : flIV.getLsbD c = false := by interval_cases c <;> decide
    simp [this]
  simp [raiseFlags, low, flagCause]

/-- A word whose integer result raises an enabled IV traps with it and writes nothing. -/
theorem exec_of_enabled_overflow {i : Instr} {s : State} {opc : BitVec 8} {g : BitVec 4} {body : State → Body} {lat : Nat}
    {d : BitVec 6} {t : BitVec 5} {sat : Bool} {x : Int} (hg : guardHolds s g = true)
    (he : (scalarEnables s).getLsbD 5 = true) (hi : exec i s = runPlain s opc g body)
    (hb : body s = giveInt s lat d (intResultTy t sat x)) (ho : overflows t x = flIV) :
    exec i s = .next (if s.place = .cp then takeSync s { cause := .intOverflow } opc s.core.cp.pc
      else slotFault s { cause := .intOverflow } opc) := by
  rw [hi, runPlain_error hg (by rw [hb, giveInt_narrowed, ho, raiseFlags_enabled_overflow he]; rfl)]
  simp only [stopWord, onCpPlace_iff]

theorem integerWordsNarrowTheExactResult : IntegerWordsNarrowTheExactResult := by
  intro w s hg a b gives
  have two {i : Instr} {opc : BitVec 8} {lat : Nat} {f : Int → Int → Int}
      (hi : exec i s = runPlain s opc w.guard (intOp lat f w)) : gives i lat (f a b) :=
    givesInt_of_giveInt hg hi (intOp_eq lat f w s)
  have one {i : Instr} {opc : BitVec 8} {f : Int → Int} (hi : exec i s = runPlain s opc w.guard (intOp1 f w)) :
      gives i 1 (f a) :=
    givesInt_of_giveInt hg hi (intOp1_eq f w s)
  refine ⟨two (exec_add w s), two (exec_sub w s), two (exec_mul w s), ?_, ?_, ?_, ?_, one (exec_neg w s)⟩
  · have h := two (exec_mulh w s)
    push_cast at h
    exact h
  · simpa only [min_def] using two (f := fun a b => if a ≤ b then a else b) (exec_min w s)
  · simpa only [max_def] using two (f := fun a b => if a ≤ b then b else a) (exec_max w s)
  · simpa only [Int.abs_eq_natAbs] using one (f := fun a => (a.natAbs : Int)) (exec_abs w s)

theorem enabledOverflowTraps : EnabledOverflowTraps := by
  intro w s hg he a b traps
  have two {i : Instr} {opc : BitVec 8} {lat : Nat} {f : Int → Int → Int}
      (hi : exec i s = runPlain s opc w.guard (intOp lat f w)) : traps i opc (f a b) :=
    exec_of_enabled_overflow hg he hi (intOp_eq lat f w s)
  have one {i : Instr} {opc : BitVec 8} {f : Int → Int} (hi : exec i s = runPlain s opc w.guard (intOp1 f w)) :
      traps i opc (f a) :=
    exec_of_enabled_overflow hg he hi (intOp1_eq f w s)
  refine ⟨two (exec_add w s), two (exec_sub w s), two (exec_mul w s), ?_, one (exec_neg w s)⟩
  simpa only [Int.abs_eq_natAbs] using one (f := fun a => (a.natAbs : Int)) (exec_abs w s)

/-- Settles O7: every integer word is `intresult` of the exact value, whose flag traps when it is enabled. -/
theorem integerWordsNarrowOrTrap : Obligations.IntegerWordsNarrowOrTrap :=
  ⟨integerWordsNarrowTheExactResult, enabledOverflowTraps⟩

end Sys2Proof.ControlProcessor
end

section
namespace Sys2Proof.ControlProcessor

open Sys2Proof.Machine Sys2Proof.Safety Sys2Proof.Claims

/-! ## Fields of a word -/

theorem fld_eq_extract (w : Word) (lo len : Nat) : fld w lo len = (w.extractLsb' lo len).toNat := by
  simp [fld, Nat.shiftRight_eq_div_pow]

/-- A mask that holds a whole field keeps it. -/
theorem fld_and_keep {w m : Word} {lo len : Nat} (h : m.extractLsb' lo len = BitVec.allOnes len) :
    fld (w &&& m) lo len = fld w lo len := by
  rw [fld_eq_extract, fld_eq_extract, BitVec.extractLsb'_and, h, BitVec.and_allOnes]

/-- A mask that holds nothing of a field clears it. -/
theorem fld_and_clear {w m : Word} {lo len : Nat} (h : m.extractLsb' lo len = 0) : fld (w &&& m) lo len = 0 := by
  rw [fld_eq_extract, BitVec.extractLsb'_and, h]; simp

theorem getLsbD_ones (len i : Nat) : (ones len).getLsbD i = (decide (i < 64) && decide (i < len)) := by
  rw [ones, BitVec.getLsbD_ofNat, Nat.testBit_two_pow_sub_one]

theorem getLsbD_setFld (w : Word) (lo len v i : Nat) :
    (setFld w lo len v).getLsbD i =
      if lo ≤ i ∧ i < lo + len ∧ i < 64 then v.testBit (i - lo) else w.getLsbD i := by
  by_cases h64 : i < 64
  · simp only [setFld, BitVec.getLsbD_or, BitVec.getLsbD_and, BitVec.getLsbD_not, BitVec.getLsbD_shiftLeft, getLsbD_ones,
      BitVec.getLsbD_ofNat, h64]
    by_cases hlo : i < lo
    · simp [hlo]
    · by_cases hl : i < lo + len
      · simp [hlo, hl, h64, show lo ≤ i by omega, show i - lo < len by omega, show i - lo < 64 by omega]
      · simp [hlo, hl, show ¬ i - lo < len by omega]
  · rw [if_neg (by omega), BitVec.getLsbD_of_ge _ i (by omega), BitVec.getLsbD_of_ge _ i (by omega)]

theorem fld_congr {w u : Word} {lo len : Nat} (h : ∀ i, i < len → w.getLsbD (lo + i) = u.getLsbD (lo + i)) :
    fld w lo len = fld u lo len := by
  rw [fld_eq_extract, fld_eq_extract]
  congr 1
  exact BitVec.eq_of_getLsbD_eq fun i hi => by simp [hi, h i hi]

theorem fld_setFld_same {w : Word} {lo len v : Nat} (h : lo + len ≤ 64) : fld (setFld w lo len v) lo len = v % 2 ^ len := by
  rw [fld_eq_extract, ← BitVec.toNat_ofNat]
  congr 1
  refine BitVec.eq_of_getLsbD_eq fun i hi => ?_
  rw [BitVec.getLsbD_extractLsb', getLsbD_setFld, if_pos (by omega), BitVec.getLsbD_ofNat]
  simp [hi]

theorem fld_setFld_other {w : Word} {lo len v a n : Nat} (h : a + n ≤ lo ∨ lo + len ≤ a) :
    fld (setFld w lo len v) a n = fld w a n :=
  fld_congr fun i hi => by rw [getLsbD_setFld, if_neg (by omega)]

theorem getLsbD_setBit {n : Nat} (w : BitVec n) (j : Nat) (b : Bool) (i : Nat) :
    (setBit w j b).getLsbD i = if i = j ∧ i < n then b else w.getLsbD i := by
  by_cases hn : i < n
  · by_cases h : i = j
    · subst h
      cases b <;> simp [setBit, hn]
    · cases b <;> simp [setBit, h, hn]
  · rw [if_neg (by omega), BitVec.getLsbD_of_ge _ i (by omega), BitVec.getLsbD_of_ge _ i (by omega)]

theorem fld_setBit_other {w : Word} {j : Nat} {b : Bool} {a n : Nat} (h : a + n ≤ j ∨ j < a) :
    fld (setBit w j b) a n = fld w a n :=
  fld_congr fun i hi => by rw [getLsbD_setBit, if_neg (by omega)]

theorem bit_setBit_same (w : Word) {j : Nat} (h : j < 64) (b : Bool) : bit (setBit w j b) j = b := by
  rw [bit, getLsbD_setBit, if_pos ⟨rfl, h⟩]

theorem bit_setBit_other (w : Word) {i j : Nat} (h : i ≠ j) (b : Bool) : bit (setBit w j b) i = bit w i := by
  rw [bit, getLsbD_setBit, if_neg (by tauto)]; rfl

/-- Setting a clear bit adds its weight. -/
theorem setBit_ofNat {x j : Nat} (h : x.testBit j = false) (b : Bool) :
    setBit (BitVec.ofNat 64 x) j b = BitVec.ofNat 64 (x + b.toNat * 2 ^ j) := by
  have hw : (BitVec.ofNat 64 x).getLsbD j = false := by simp [BitVec.getLsbD_ofNat, h]
  cases b with
  | false =>
    simp only [Bool.toNat_false, Nat.zero_mul, Nat.add_zero]
    refine BitVec.eq_of_getLsbD_eq fun i _ => ?_
    rw [getLsbD_setBit]
    split
    · next hi => rw [hi.1, hw]
    · rfl
  | true =>
    have disjoint : BitVec.ofNat 64 x &&& BitVec.twoPow 64 j = 0 := by
      refine BitVec.eq_of_getLsbD_eq fun i _ => ?_
      by_cases hi : j = i
      · simp [← hi, hw]
      · simp [hi]
    have power : BitVec.ofNat 64 (2 ^ j) = BitVec.twoPow 64 j :=
      BitVec.eq_of_toNat_eq (by rw [BitVec.toNat_ofNat, BitVec.toNat_twoPow])
    rw [Bool.toNat_true, Nat.one_mul, BitVec.ofNat_add, power, BitVec.add_eq_or_of_and_eq_zero _ _ disjoint]
    rfl

/-! ## Taking a trap (R33, R36) -/

theorem getLsbD_three : ∀ j < 64, (3 : Word).getLsbD j = decide (j < 2) := by decide

theorem getLsbD_seven : ∀ j < 64, (7 : Word).getLsbD j = decide (j < 3) := by decide

/-- A word is `w` with the bits of a mask replaced when its bits are. -/
theorem eq_replaced {u w m x : Word} (hx : ∀ j < 64, m.getLsbD j = false → x.getLsbD j = false)
    (hu : ∀ j < 64, u.getLsbD j = if m.getLsbD j then x.getLsbD j else w.getLsbD j) : u = (w &&& ~~~m) ||| x := by
  refine BitVec.eq_of_getLsbD_eq fun j hj => ?_
  have hx := hx j hj
  rw [hu j hj, BitVec.getLsbD_or, BitVec.getLsbD_and, BitVec.getLsbD_not]
  cases hm : m.getLsbD j
  · rw [hx hm]; simp [hj]
  · simp

/-- The mode and IE saved at trap entry (R33). -/
theorem csave_of_trap (w : Word) (m i : Bool) :
    setBit (setBit w 0 m) 1 i = (w &&& ~~~3) ||| BitVec.ofNat 64 (m.toNat + 2 * i.toNat) := by
  have saved : ∀ m i : Bool, ∀ j < 64, (BitVec.ofNat 64 (m.toNat + 2 * i.toNat)).getLsbD j =
      if j = 1 then i else if j = 0 then m else false := by decide
  refine eq_replaced (fun j hj h => ?_) fun j hj => ?_
  · rw [getLsbD_three j hj] at h
    rw [saved m i j hj, if_neg (by grind), if_neg (by grind)]
  · rw [getLsbD_three j hj, saved m i j hj, getLsbD_setBit, getLsbD_setBit]
    grind

/-- The low three bits of CSTAT replaced (R33, R38). -/
theorem cstat_replaced {w x : Word} (hx : ∀ j < 64, 2 < j → x.getLsbD j = false) :
    setBit (setBit (setBit w 0 (bit x 0)) 1 (bit x 1)) 2 (bit x 2) = (w &&& ~~~7) ||| x := by
  refine eq_replaced (fun j hj h => ?_) fun j hj => ?_
  · rw [getLsbD_seven j hj] at h
    exact hx j hj (by grind)
  · rw [getLsbD_seven j hj, getLsbD_setBit, getLsbD_setBit, getLsbD_setBit]
    grind [bit]

theorem getLsbD_five : ∀ j < 64, 2 < j → (5 : Word).getLsbD j = false := by decide

theorem cstat_of_trap (w : Word) : setBit (setBit (setBit w 0 true) 1 false) 2 true = (w &&& ~~~7) ||| 5 :=
  cstat_replaced getLsbD_five

/-- CSTAT after `tret`: mode and IE of CSAVE, INTRAP 0 (R38). -/
theorem cstat_of_return (w v : Word) :
    setBit (setBit (setBit w 0 (bit v 0)) 1 (bit v 1)) 2 false = (w &&& ~~~7) ||| (v &&& 3) := by
  have low : ∀ j < 64, (v &&& 3).getLsbD j = (v.getLsbD j && decide (j < 2)) := fun j hj => by
    rw [BitVec.getLsbD_and, getLsbD_three j hj]
  rw [← cstat_replaced fun j hj h => by rw [low j hj]; grind]
  simp [bit]

/-- CTINFO of a trap entry, PMODE filled in (R29, R33). -/
theorem ctinfo_of_trap {origin slot : Nat} (ho : origin < 4) (hs : slot < 8) (write m : Bool) (opc : BitVec 8)
    (detail : BitVec 32) :
    setBit (trapInfo origin slot write false opc detail) 7 m =
      BitVec.ofNat 64 (origin + slot * 4 + write.toNat * 32 + m.toNat * 2 ^ 7 + opc.toNat * 2 ^ 8 +
        detail.toNat * 2 ^ 32) := by
  have clear : (origin + slot * 2 ^ 2 + write.toNat * 2 ^ 5 + false.toNat * 2 ^ 6 + opc.toNat * 2 ^ 8 +
      detail.toNat * 2 ^ 32).testBit 7 = false := by
    have := Bool.toNat_lt write
    rw [Nat.testBit_eq_decide_div_mod_eq, decide_eq_false_iff_not, Bool.toNat_false]
    omega
  rw [trapInfo, setBit_ofNat clear]
  congr 1
  simp only [Bool.toNat_false]
  omega

/-- Trap entry writes the registers that R33 names; an asynchronous cause sets ASYNC beside (R36). -/
theorem takeTrap_eq_trapped (c : CP) (cause : Cause) (async : Bool) (resume addr : Word) {origin slot : Nat}
    (ho : origin < 4) (hs : slot < 8) (write : Bool) (opc : BitVec 8) (detail : BitVec 32) :
    c.takeTrap cause async resume addr (trapInfo origin slot write false opc detail) =
      { trapped c cause (origin + slot * 4 + write.toNat * 32) resume addr detail opc with
        ccause := BitVec.ofNat 64 (cause.code.toNat + async.toNat * 2 ^ 7) } := by
  rw [CP.takeTrap, cstat_of_trap, csave_of_trap, ctinfo_of_trap ho hs]
  rfl

/-- A synchronous trap of a load or of another word, outside a trap (R33). -/
theorem takeSync_eq {s : State} (h : s.core.cp.inTrap = false) {cause : Cause} (hc : cause ≠ .engineFault) (addr : Word)
    (detail : BitVec 32) (write : Bool) (opc : BitVec 8) (resume : Word) :
    takeSync s { cause, addr, detail, write } opc resume =
      s.withCp (trapped s.core.cp cause (write.toNat * 32) resume addr detail opc) := by
  rw [takeSync, h]
  simp [beq_eq_false_iff_ne.2 hc, takeTrap_eq_trapped, trapped]

/-! ## Privileged words (R15) -/

/-- A privileged word on the CP in user mode, outside a trap, traps PRIVILEGED and does nothing else. -/
theorem runBody_privileged {s : State} (hp : s.place = .cp) (hm : s.core.cp.mode = false)
    (ht : s.core.cp.inTrap = false) {priv : Bool} (h : priv = true) (opc : BitVec 8) (g : BitVec 4) (jump : Bool)
    (body : State → Body) :
    runBody s opc g priv jump body =
      .next (s.withCp (trapped s.core.cp .privileged 0 s.core.cp.pc 0 0 opc)) := by
  have hd : denied s priv = true := by simp [denied, h, onCpPlace_of_cp hp, hm]
  rw [runBody_denied hd, stopWord, if_pos (onCpPlace_of_cp hp), takeSync_eq ht (by decide)]
  rfl

theorem sysDenied_read : ∀ sel ∈ [0x01, 0x02, 0x03, 0x04, 0x05, 0x06, 0x08, 0x09, 0x0A, 0x0B, 0x22, 0x24],
    sysDenied sel true false = true := by decide

theorem sysDenied_write : ∀ sel ∈ writableSys.map (·.1), sel ∉ [0x00, 0x13, 0x21, 0x25] →
    ∀ read, sysDenied sel read true = true := by decide

/-- Settles O6: each of these words is checked for privilege before its guard and its body. -/
theorem privilegedWordsTrapInUserMode : Obligations.PrivilegedWordsTrapInUserMode := by
  intro v w s _ _ hp hm ht traps sel
  have privileged {i : Instr} {opc : BitVec 8} {g : BitVec 4} {priv jump : Bool} {body : State → Body}
      (hi : exec i s = runBody s opc g priv jump body) (h : priv = true) : traps i opc :=
    hi.trans (runBody_privileged hp hm ht h opc g jump body)
  have tlbi {i : Instr} {p : State → TlbEntry → Bool} (hi : exec i s = tlbiWord p w s) : traps i 0xC8 :=
    privileged hi rfl
  exact ⟨privileged (exec_tret v s) rfl, privileged (exec_halt v s) rfl, privileged (exec_idle v s) rfl,
    tlbi (exec_tlbiAll w s), tlbi (exec_tlbiAsid w s), tlbi (exec_tlbiPage w s), tlbi (exec_tlbiRange w s),
    fun h => privileged (exec_rdsys v s) (sysDenied_read sel h),
    fun h hu => ⟨privileged (exec_wrsys v s) (sysDenied_write sel h hu _),
      privileged (exec_xchsys v s) (sysDenied_write sel h hu _)⟩⟩

end Sys2Proof.ControlProcessor
end

section
namespace Sys2Proof.ControlProcessor

open Sys2Proof.Machine Sys2Proof.Safety Sys2Proof.Claims

/-! ## Traps by instruction, and the return (R33, R38, R100-R102) -/

/-- A word that redirects control leaves what its body leaves. -/
theorem runBody_jump {s s' : State} {opc : BitVec 8} {g : BitVec 4} {priv : Bool} {body : State → Body}
    (hd : denied s priv = false) (hg : guardHolds s g = true) (hb : body s = .ok s') :
    runBody s opc g priv true body = .next s' := by
  rw [runBody_ok hd hg hb, Bool.not_true, Bool.and_false]; rfl

theorem denied_of_supervisor {s : State} (h : s.core.cp.mode = true) (priv : Bool) : denied s priv = false := by
  simp [denied, h]

theorem denied_of_slot {s : State} (h : s.place ≠ .cp) (priv : Bool) : denied s priv = false := by
  simp [denied, onCpPlace_of_slot h]

theorem execTrapCall_cp {v : IForm} {s : State} (h : OnCp s v.guard) :
    exec (.trapCall v) s = .next (takeSync s { cause := .supervisorCall, detail := v.imm } 0xE1 (s.core.cp.pc + 8)) :=
  (exec_trapCall v s).trans (runBody_jump (denied_false s) h.2 rfl)

theorem execTrapSw_cp {v : IForm} {s : State} (h : OnCp s v.guard) :
    exec (.trapSw v) s = .next (takeSync s { cause := .software, detail := v.imm } 0xE1 (s.core.cp.pc + 8)) :=
  (exec_trapSw v s).trans (runBody_jump (denied_false s) h.2 (by rw [if_pos (onCpPlace_of_cp h.1)]))

theorem execBrk_cp {v : IForm} {s : State} (h : OnCp s v.guard) :
    exec (.brk v) s = .next (takeSync s { cause := .breakpoint, detail := v.imm } 0xE2 s.core.cp.pc) := by
  rw [exec_brk, execBrk, runPlain_error h.2 rfl, stopWord, if_pos (onCpPlace_of_cp h.1)]

theorem softwareTrapsEnterTheHandler : SoftwareTrapsEnterTheHandler := by
  intro v s h ht c
  refine ⟨(execTrapCall_cp h).trans ?_, (execTrapSw_cp h).trans ?_, (execBrk_cp h).trans ?_⟩ <;>
    rw [takeSync_eq ht (by decide)] <;> rfl

theorem softwareTrapsInTheSSlot : SoftwareTrapsInTheSSlot := by
  intro v s b hp hg hb
  have hs : s.place ≠ .cp := by simp [hp]
  constructor
  · rw [exec_trapSw]
    refine runBody_jump (denied_false s) hg ?_
    simp [onCpPlace_of_slot hs, hb]
  · rw [exec_brk, execBrk, runPlain_error hg rfl]
    simp [stopWord, onCpPlace_of_slot hs, slotFault, kernelStop, hp, slotNum, fld_eq_extract]

theorem tretRestoresModeAndPc : TretRestoresModeAndPc := by
  intro v s h hm c
  rw [exec_tret]
  refine runBody_jump (denied_of_supervisor hm true) h.2 ?_
  rw [State.onCp_eq, CP.trapReturn, cstat_of_return]

/-! ## A fatal stop (R35, R403) -/

/-- What a fatal stop leaves of the focused core and of memory: every register of the CP and of the kernel, with the CP
stopped or off and nothing pending or waited for. -/
def Halted (s t : State) : Prop :=
  t.focus = s.focus ∧ t.mem = s.mem ∧ t.core.kern = s.core.kern ∧ t.core.cp.run ≠ .running ∧
    t.core.cp = { s.core.cp with
      run := t.core.cp.run, pending := t.core.cp.pending, wait := t.core.cp.wait, work := t.core.cp.work }

/-- An operation that touches the focused core at most by switching a CP off. -/
def SwitchesOffAtMost (s t : State) : Prop :=
  t.focus = s.focus ∧ t.mem = s.mem ∧ t.core.kern = s.core.kern ∧
    (t.core.cp = s.core.cp ∨ t.core.cp = { s.core.cp with run := .off })

theorem SwitchesOffAtMost.refl (s : State) : SwitchesOffAtMost s s := ⟨rfl, rfl, rfl, .inl rfl⟩

theorem SwitchesOffAtMost.trans {s t u : State} (h : SwitchesOffAtMost s t) (h' : SwitchesOffAtMost t u) :
    SwitchesOffAtMost s u := by
  obtain ⟨hf, hm, hk, hc⟩ := h
  obtain ⟨hf', hm', hk', hc'⟩ := h'
  refine ⟨hf'.trans hf, hm'.trans hm, hk'.trans hk, ?_⟩
  rcases hc with hc | hc <;> rcases hc' with hc' | hc' <;> simp [hc', hc]

/-- An operation that leaves the focus, the focused core and memory alone. -/
theorem SwitchesOffAtMost.of_core {s t : State} (hf : t.focus = s.focus) (hm : t.mem = s.mem) (hc : t.core = s.core) :
    SwitchesOffAtMost s t := ⟨hf, hm, by rw [hc], .inl (by rw [hc])⟩

theorem SwitchesOffAtMost.ite {s t u : State} {p : Prop} [Decidable p] (ht : SwitchesOffAtMost s t)
    (hu : SwitchesOffAtMost s u) : SwitchesOffAtMost s (if p then t else u) := by
  split
  · exact ht
  · exact hu

theorem SwitchesOffAtMost.foldl {α : Type} {f : State → α → State} :
    ∀ (l : List α) (s : State), (∀ t, t.focus = s.focus → ∀ x ∈ l, SwitchesOffAtMost t (f t x)) →
      SwitchesOffAtMost s (l.foldl f s)
  | [], s, _ => .refl s
  | x :: l, s, h => by
    have first := h s rfl x (by simp)
    exact first.trans (SwitchesOffAtMost.foldl l (f s x) fun t ht y hy =>
      h t (ht.trans first.1) y (List.mem_cons_of_mem x hy))

theorem putCore_focus (s : State) (n : Nat) (c : Core) : (s.putCore n c).focus = s.focus := by
  unfold State.putCore; split <;> rfl

theorem putCore_mem (s : State) (n : Nat) (c : Core) : (s.putCore n c).mem = s.mem := by
  unfold State.putCore; split <;> rfl

theorem putCore_core (s : State) (n : Nat) (c : Core) :
    (s.putCore n c).core = if n = s.focus then c else s.core := by
  unfold State.putCore; by_cases h : n = s.focus <;> simp [h]

theorem getCore_focus (s : State) : s.getCore s.focus = s.core := by simp [State.getCore]

/-- A group that has ended is forgotten: its cores hold no program (R419). -/
theorem settleGroup_switchesOff (s : State) (launch die base size : Nat) :
    SwitchesOffAtMost s (settleGroup s launch die base size) := by
  have clears (s : State) (n : Nat) : SwitchesOffAtMost s
      (if inGroup s launch base n then
        s.onCore n fun c => { c with prog := none, fenced := false, srf := [], srfPoison := [], cp := { c.cp with run := .off } }
      else s) := by
    split
    · refine ⟨putCore_focus .., putCore_mem .., ?_⟩
      rw [State.onCore, putCore_core]
      split
      · next h => simp [h, getCore_focus]
      · exact ⟨rfl, .inl rfl⟩
    · exact .refl s
  simp only [settleGroup]
  split
  · exact .refl s
  · split
    · exact .of_core rfl rfl rfl
    · split
      · exact .refl s
      · exact (SwitchesOffAtMost.foldl _ s fun t _ n _ => clears t n).trans (.of_core rfl rfl rfl)

/-- A cause raised on another core leaves the focused one alone (R402). -/
theorem raiseAsync_other {s : State} {n : Nat} (h : n ≠ s.focus) (cause : Cause) (detail : BitVec 32) (kernel : Bool) :
    SwitchesOffAtMost s (raiseAsync s n cause detail kernel) := by
  simp only [raiseAsync]
  split
  · exact .of_core rfl rfl rfl
  · exact .of_core (putCore_focus ..) (putCore_mem ..) (by rw [putCore_core, if_neg h])

theorem raiseSaved_switchesOff (s : State) (launch die base size : Nat) (a : Async) :
    SwitchesOffAtMost s (raiseSaved s launch die base size a) := by
  have logs := SwitchesOffAtMost.foldl (f := fun s (x : Saved) => logError s a.cause 0 x.core)
    ((savedIn s launch die base size).filter fun x => a.among (x.image.cp.pending ++ x.raised)) s
    fun t _ x _ => .of_core rfl rfl rfl
  exact logs.trans (.of_core rfl rfl rfl)

/-- A group is aborted on its other cores, running or saved (R420). -/
theorem abortGroup_switchesOff (s : State) (p : Prog) (detail : BitVec 32) (die : Nat) (others : List Nat)
    (h : ∀ m ∈ others, m ≠ s.focus) (a : Async) :
    SwitchesOffAtMost s
      (raiseSaved (others.foldl (fun s m => raiseAsync s m .groupAbort detail false) s) p.launch die p.base p.size a) :=
  .trans (.foldl others s fun t ht m hm => raiseAsync_other (by rw [ht]; exact h m hm) ..) (raiseSaved_switchesOff ..)

/-- The fatal end of a program reaches other cores, the launch, its channels and saved contexts (R403, R419, R420). -/
theorem endProgram_fatal_switchesOff (s : State) (cause : Cause) :
    SwitchesOffAtMost s (endProgram s (some cause)) := by
  unfold endProgram
  split
  · exact .refl s
  · next p hp =>
    refine SwitchesOffAtMost.trans ?_ (settleGroup_switchesOff ..)
    refine .ite (.of_core rfl rfl rfl) (.trans (.of_core rfl rfl rfl)
      (abortGroup_switchesOff _ _ _ _ _ (fun m hm => ?_) _))
    have hm := (List.mem_filter.1 hm).2
    simp only [Bool.and_eq_true, bne_iff_ne] at hm
    exact hm.1

/-- R35, R403: a fatal cause stops the core and changes none of its registers. -/
theorem fatalStop_halts (s : State) (cause : Cause) : Halted s (fatalStop s cause) := by
  obtain ⟨hf, hm, hk, hc⟩ := endProgram_fatal_switchesOff _ cause
  refine ⟨hf, hm, hk, ?_, ?_⟩ <;> rcases hc with hc | hc <;> rw [fatalStop, hc] <;> simp

/-- A synchronous trap inside a trap stops the core (R35). -/
theorem takeSync_inTrap {s : State} (h : s.core.cp.inTrap = true) (t : Trap) (opc : BitVec 8) (resume : Word) :
    Halted s (takeSync s t opc resume) := by
  rw [takeSync, if_pos h]
  exact fatalStop_halts s .machineCheck

theorem trapInsideATrapStopsTheCore : TrapInsideATrapStopsTheCore := by
  intro v s h ht stops
  have halts {i : Instr} {t : State} (hi : exec i s = .next t) (hh : Halted s t) : stops i := by
    obtain ⟨hf, hm, hk, hr, hc⟩ := hh
    refine ⟨t, hi, hf, hr, ?_⟩
    rw [hc, hk, hm]
    simp only [and_self]
  exact ⟨halts (execTrapCall_cp h) (takeSync_inTrap ht ..), halts (execBrk_cp h) (takeSync_inTrap ht ..)⟩

/-- Settles O11: trap entry writes the registers of R33, the S slot marks or splits its bundle, and a trap inside a trap
is a fatal stop, which changes no register. -/
theorem trapsEnterAndReturn : Obligations.TrapsEnterAndReturn :=
  ⟨softwareTrapsEnterTheHandler, softwareTrapsInTheSSlot, trapInsideATrapStopsTheCore, tretRestoresModeAndPc⟩

end Sys2Proof.ControlProcessor
end

section
namespace Sys2Proof.ControlProcessor

open Sys2Proof.Machine Sys2Proof.Safety Sys2Proof.Claims

/-! ## One system register written (R23-R32, R109-R114) -/

/-- A write stores the register's own bits. -/
theorem readSys_writeSys_same (s : State) (v : Word) {sel : Nat} {mask : Word} (h : (sel, mask) ∈ writableSys) :
    readSys (writeSys s sel v) sel = v &&& mask := by
  have full : v = v &&& 0xFFFFFFFFFFFFFFFF := by
    rw [show (0xFFFFFFFFFFFFFFFF : Word) = BitVec.allOnes 64 from rfl, BitVec.and_allOnes]
  have scratch (i : Fin 4) : (s.core.cp.cscratch.set i v).get i = v &&& 0xFFFFFFFFFFFFFFFF := by
    rw [← full]
    exact Vector.getElem_set_self i.isLt
  simp only [writableSys, List.mem_cons, List.not_mem_nil, or_false, Prod.mk.injEq] at h
  rcases h with ⟨rfl, rfl⟩ | ⟨rfl, rfl⟩ | ⟨rfl, rfl⟩ | ⟨rfl, rfl⟩ | ⟨rfl, rfl⟩ | ⟨rfl, rfl⟩ | ⟨rfl, rfl⟩ | ⟨rfl, rfl⟩ |
    ⟨rfl, rfl⟩ | ⟨rfl, rfl⟩ | ⟨rfl, rfl⟩ | ⟨rfl, rfl⟩ | ⟨rfl, rfl⟩ | ⟨rfl, rfl⟩ | ⟨rfl, rfl⟩ | ⟨rfl, rfl⟩ | ⟨rfl, rfl⟩
  exacts [rfl, rfl, full, rfl, full, rfl, scratch 0, scratch 1, scratch 2, scratch 3, rfl, rfl, rfl, rfl, rfl, rfl, rfl]

/-- It leaves every other system register as it is. -/
theorem readSys_writeSys_other (s : State) (v : Word) {sel other : Nat} (h : other ≠ sel) :
    readSys (writeSys s sel v) other = readSys s other := by
  -- `other` names a field that is not written, the written one against `h`, or another scratch register
  unfold writeSys
  split <;> unfold readSys <;> split <;> first | rfl | contradiction | simp [Vector.get_eq_getElem]

theorem writeSys_place (s : State) (sel : Nat) (v : Word) : (writeSys s sel v).place = s.place := by
  unfold writeSys
  split <;> rfl

theorem writeSys_pc (s : State) (sel : Nat) (v : Word) : (writeSys s sel v).core.cp.pc = s.core.cp.pc := by
  unfold writeSys
  split <;> rfl

theorem writeSys_g (s : State) (sel : Nat) (v : Word) : (writeSys s sel v).core.cp.g = s.core.cp.g := by
  unfold writeSys
  split <;> rfl

theorem writeG_eq (c : CP) (r : BitVec 5) (v : Word) : c.writeG r v = { c with g := (c.writeG r v).g } := by
  unfold CP.writeG
  split <;> rfl

theorem writeG_g_congr {c c' : CP} (h : c.g = c'.g) (r : BitVec 5) (v : Word) : (c.writeG r v).g = (c'.writeG r v).g := by
  unfold CP.writeG
  split <;> simp [h]

/-- A write that ends its word changes nothing but system registers, PC, the wait and at most general registers. -/
theorem sysOnly_writeSys (s : State) (sel : Nat) (v : Word) (g : Vector Word 32) :
    SysOnly s (advance ((writeSys s sel v).withCp { (writeSys s sel v).core.cp with g })) := by
  unfold writeSys
  split <;> rfl

/-! ## The words that read and write them (R15, R99, R110) -/

/-- A word that is not denied and does not redirect control runs as an unprivileged one. -/
theorem runBody_eq_runPlain {s : State} {opc : BitVec 8} {g : BitVec 4} {priv : Bool} {body : State → Body}
    (hd : denied s priv = false) : runBody s opc g priv false body = runPlain s opc g body := by
  rw [runPlain, runBody, runBody, hd, denied_false]

/-- Either mode may use the register as the word does. -/
theorem denied_of_allowed (s : State) {sel : Nat} {read write : Bool} (h : sysDenied sel read write = false) :
    denied s (sysDenied sel read write) = false := by rw [h, denied_false]

/-- The registers that either mode writes (R15). -/
theorem denied_of_user_write (s : State) : ∀ sel ∈ [0x00, 0x13, 0x21, 0x25], ∀ read, denied s (sysDenied sel read true) = false := by
  have allowed : ∀ sel ∈ [0x00, 0x13, 0x21, 0x25], ∀ read, sysDenied sel read true = false := by decide
  exact fun sel h read => denied_of_allowed s (allowed sel h read)

theorem readR_cp {s : State} (h : s.place = .cp) (a : BitVec 6) : readR s a = s.core.cp.readG (a.setWidth 5) := by
  rw [readR, if_pos (onCpPlace_of_cp h)]; rfl

section
variable {v : IForm} {s : State}

theorem execWrsys_cp (h : OnCp s v.guard) (hd : denied s (sysDenied v.fn.toNat false true) = false)
    (hw : sysWait s v.fn.toNat = false) :
    exec (.wrsys v) s = .next (advance (writeSys s v.fn.toNat (s.core.cp.readG (v.a.setWidth 5)))) := by
  rw [exec_wrsys, execWrsys, runBody_eq_runPlain hd, runPlain_ok h.2 (by rw [hw]; rfl), if_pos (onCpPlace_of_cp h.1),
    readR_cp h.1]

theorem execXchsys_cp (h : OnCp s v.guard) (hd : denied s (sysDenied v.fn.toNat true true) = false)
    (hw : sysWait s v.fn.toNat = false) :
    let t := writeSys s v.fn.toNat (s.core.cp.readG (v.a.setWidth 5))
    exec (.xchsys v) s = .next (advance (t.withCp
      { t.core.cp with g := (s.core.cp.writeG (v.d.setWidth 5) (readSys s v.fn.toNat)).g })) := by
  rw [exec_xchsys, execXchsys, runBody_eq_runPlain hd, runPlain_ok h.2 (by rw [hw]; rfl), if_pos (onCpPlace_of_cp h.1),
    readR_cp h.1, writeR_cp ((writeSys_place ..).trans h.1), writeG_eq, writeG_g_congr (writeSys_g ..)]

/-- A write of a kernel register waits while a kernel runs (R110). -/
theorem execWrsys_waits (h : OnCp s v.guard) (hd : denied s (sysDenied v.fn.toNat false true) = false)
    (hw : sysWait s v.fn.toNat = true) : exec (.wrsys v) s = .next (stayHere s false true 0xE3 none) := by
  rw [exec_wrsys, execWrsys, runBody_error hd h.2 (by rw [hw]; rfl), stopWord, if_pos (onCpPlace_of_cp h.1)]

theorem execXchsys_waits (h : OnCp s v.guard) (hd : denied s (sysDenied v.fn.toNat true true) = false)
    (hw : sysWait s v.fn.toNat = true) : exec (.xchsys v) s = .next (stayHere s false true 0xE7 none) := by
  rw [exec_xchsys, execXchsys, runBody_error hd h.2 (by rw [hw]; rfl), stopWord, if_pos (onCpPlace_of_cp h.1)]

end

theorem sysWait_of_stopped {s : State} {sel : Nat} (h : 0x20 ≤ sel → s.core.kern.stState ≠ 1) : sysWait s sel = false := by
  by_cases hs : 0x20 ≤ sel
  · simp [sysWait, h hs]
  · simp [sysWait, sysKernelReg, hs]

/-- The end of a `wrsys` (`g` unchanged) or `xchsys`: the register holds its own bits, every other one what it held. -/
theorem stored_of_writeSys (s : State) {sel : Nat} {mask : Word} (h : (sel, mask) ∈ writableSys) (x : Word)
    (g : Vector Word 32) :
    let t := advance ((writeSys s sel x).withCp { (writeSys s sel x).core.cp with g })
    SysOnly s t ∧ t.core.cp.pc = s.core.cp.pc + 8 ∧ t.core.cp.wait = none ∧ readSys t sel = x &&& mask ∧
      ∀ other, other ≠ sel → readSys t other = readSys s other :=
  ⟨sysOnly_writeSys s sel x g, congrArg (· + 8) (writeSys_pc s sel x), rfl, readSys_writeSys_same s x h,
    fun _ ho => readSys_writeSys_other s x ho⟩

theorem systemWritesStoreTheRegistersBits : SystemWritesStoreTheRegistersBits := by
  intro v s mask h hm hmem hk x sel stored
  have hw := sysWait_of_stopped hk
  exact ⟨⟨_, execWrsys_cp h (denied_of_supervisor hm _) hw, stored_of_writeSys s hmem x (writeSys s sel x).core.cp.g,
      writeSys_g s sel x⟩,
    ⟨_, execXchsys_cp h (denied_of_supervisor hm _) hw, stored_of_writeSys s hmem x _, rfl⟩⟩

/-! ## CSTAT and KSTAT (R24, R111) -/

/-- A supervisor's CSTAT: the low ten bits as written, the reserved ones 0, WDLOG at least 10. -/
theorem cstatLegal_fields (x : Word) :
    cstatLegal x &&& 0x3FF = x &&& 0x3FF ∧ cstatLegal x &&& ~~~0x1F03FF = 0 ∧
      fld (cstatLegal x) 16 5 = max 10 (fld x 16 5) := by
  have wdlog : fld (x &&& 0x1F03FF) 16 5 = fld x 16 5 := fld_and_keep (by decide)
  have low : (x &&& 0x1F03FF) &&& 0x3FF = x &&& 0x3FF := by rw [BitVec.and_assoc]; rfl
  have high : (x &&& 0x1F03FF) &&& ~~~0x1F03FF = 0 := by rw [BitVec.and_assoc]; exact BitVec.and_zero
  rw [cstatLegal, wdlog]
  split
  · have least : setFld (x &&& 0x1F03FF) 16 5 10 = x &&& 0x3FF ||| 0xA0000 := by
      rw [show setFld (x &&& 0x1F03FF) 16 5 10 = (x &&& 0x1F03FF) &&& 0xFFFFFFFFFFE0FFFF ||| 0xA0000 from rfl,
        BitVec.and_assoc]
      rfl
    refine ⟨?_, ?_, by rw [fld_setFld_same (by decide)]; omega⟩ <;>
      rw [least, BitVec.and_or_distrib_right, BitVec.and_assoc] <;> simp
  · exact ⟨low, high, by rw [wdlog]; omega⟩

theorem fld_mergeBits_new {old new m : Word} {lo len : Nat} (h : m.extractLsb' lo len = BitVec.allOnes len)
    (hl : lo + len < 64) : fld (mergeBits old new m) lo len = fld new lo len := by
  rw [fld_eq_extract, fld_eq_extract, mergeBits, BitVec.extractLsb'_or, BitVec.extractLsb'_and, BitVec.extractLsb'_and,
    BitVec.extractLsb'_not_of_lt hl, h]
  simp

theorem fld_mergeBits_old {old new m : Word} {lo len : Nat} (h : m.extractLsb' lo len = 0) (hl : lo + len < 64) :
    fld (mergeBits old new m) lo len = fld old lo len := by
  rw [fld_eq_extract, fld_eq_extract, mergeBits, BitVec.extractLsb'_or, BitVec.extractLsb'_and, BitVec.extractLsb'_and,
    BitVec.extractLsb'_not_of_lt hl, h]
  simp

/-- The fields of KSTAT that a write stores as they are. -/
theorem kstatLegal_fld_other (checking : Bool) (v : Word) {lo len : Nat}
    (h : lo + len ≤ 2 ∨ 3 ≤ lo ∧ lo + len ≤ 10 ∨ 15 ≤ lo) (hm : (0x7FF7FFF : Word).extractLsb' lo len = BitVec.allOnes len) :
    fld (kstatLegal checking v) lo len = fld v lo len := by
  rw [← fld_and_keep (w := v) hm]
  simp only [kstatLegal]
  split_ifs <;> simp (disch := omega) only [fld_setFld_other, fld_setBit_other]

/-- A DELAY of 3 is stored as 2. -/
theorem kstatLegal_delay (checking : Bool) (v : Word) : fld (kstatLegal checking v) 13 2 = min 2 (fld v 13 2) := by
  have keep : fld (v &&& 0x7FF7FFF) 13 2 = fld v 13 2 := fld_and_keep (by decide)
  have small : fld v 13 2 < 4 := Nat.mod_lt _ (by decide)
  simp only [kstatLegal, keep, beq_iff_eq]
  split_ifs <;>
    simp (disch := omega) only [fld_setFld_other, fld_setBit_other, fld_setFld_same, keep] <;> omega

/-- RESUME_SLOT stays only while STATE is 2 (log entry 20). -/
theorem kstatLegal_resume (checking : Bool) (v : Word) :
    fld (kstatLegal checking v) 10 3 = if fld v 0 2 = 2 then fld v 10 3 else 0 := by
  have state : fld (v &&& 0x7FF7FFF) 0 2 = fld v 0 2 := fld_and_keep (by decide)
  have keep : fld (v &&& 0x7FF7FFF) 10 3 = fld v 10 3 := fld_and_keep (by decide)
  simp only [kstatLegal]
  generalize hn : (if fld (v &&& 0x7FF7FFF) 13 2 == 3 then setFld (v &&& 0x7FF7FFF) 13 2 2 else v &&& 0x7FF7FFF) = n
  have delayed {a len : Nat} (h : a + len ≤ 13) : fld n a len = fld (v &&& 0x7FF7FFF) a len := by
    rw [← hn]
    split_ifs
    · exact fld_setFld_other (.inl h)
    · rfl
  simp only [beq_iff_eq, delayed (show 0 + 2 ≤ 13 by decide), state]
  split_ifs <;>
    simp (disch := omega) only [fld_setBit_other, fld_setFld_same, delayed, keep] <;> rfl

theorem bit_setFld_other (w : Word) {lo len v i : Nat} (h : i < lo ∨ lo + len ≤ i) :
    bit (setFld w lo len v) i = bit w i := by
  rw [bit, getLsbD_setFld, if_neg (by omega)]; rfl

/-- CHECK needs its feature (R463). -/
theorem kstatLegal_check (checking : Bool) (v : Word) : bit (kstatLegal checking v) 2 = (bit v 2 && checking) := by
  have keep : bit (v &&& 0x7FF7FFF) 2 = bit v 2 := by simp [bit]
  simp only [kstatLegal]
  split_ifs <;>
    simp (disch := omega) only [bit_setFld_other, bit_setBit_same, *, Bool.and_true, Bool.and_false]

/-- The reserved bits above END are 0. -/
theorem kstatLegal_high (checking : Bool) (v : Word) : kstatLegal checking v >>> 27 = 0 := by
  have clear : ∀ i < 64, 27 ≤ i → (0x7FF7FFF : Word).getLsbD i = false := by decide
  have high (i : Nat) (h : 27 ≤ i) (h' : i < 64) : bit (kstatLegal checking v) i = false := by
    have masked : bit (v &&& 0x7FF7FFF) i = false := by rw [bit, BitVec.getLsbD_and, clear i h' h, Bool.and_false]
    simp only [kstatLegal]
    split_ifs <;> simp (disch := omega) only [bit_setFld_other, bit_setBit_other, masked]
  refine BitVec.eq_of_getLsbD_eq fun i hi => ?_
  rw [BitVec.getLsbD_ushiftRight]
  by_cases h : 27 + i < 64
  · simpa [bit] using high (27 + i) (by omega) h
  · rw [BitVec.getLsbD_of_ge _ (27 + i) (not_lt.1 h)]; simp

theorem bit_mergeBits {old new m : Word} {i : Nat} (h : m.getLsbD i = true) : bit (mergeBits old new m) i = bit new i := by
  simp only [bit, mergeBits, BitVec.getLsbD_or, BitVec.getLsbD_and, BitVec.getLsbD_not, h]
  simp

/-- KSTAT as stored: STATE stays, a DELAY of 3 becomes 2, CHECK needs its feature, RESUME_SLOT needs STATE 2, and the
reserved bits are 0 (R111). -/
theorem kstatWrite_fields (sup checking : Bool) (old x : Word) :
    let n := kstatWrite sup checking old x
    fld n 0 2 = fld old 0 2 ∧ fld n 3 7 = fld x 3 7 ∧ fld n 13 2 = min 2 (fld (if sup then x else old) 13 2) ∧
      bit n 2 = (bit x 2 && checking) ∧ fld n 10 3 = (if fld old 0 2 = 2 then fld (if sup then x else old) 10 3 else 0) ∧
      n >>> 27 = 0 ∧ fld n 16 11 = fld (if sup then x else old) 16 11 := by
  have user : (0x3FC : Word).extractLsb' 0 2 = 0 ∧ (0x3FC : Word).extractLsb' 3 7 = BitVec.allOnes 7 ∧
      (0x3FC : Word).extractLsb' 10 3 = 0 ∧ (0x3FC : Word).extractLsb' 13 2 = 0 ∧ (0x3FC : Word).extractLsb' 16 11 = 0 ∧
      (0x3FC : Word).getLsbD 2 = true := by decide
  have supervisor : (0x7FF7FFC : Word).extractLsb' 0 2 = 0 ∧ (0x7FF7FFC : Word).extractLsb' 3 7 = BitVec.allOnes 7 ∧
      (0x7FF7FFC : Word).extractLsb' 10 3 = BitVec.allOnes 3 ∧ (0x7FF7FFC : Word).extractLsb' 13 2 = BitVec.allOnes 2 ∧
      (0x7FF7FFC : Word).extractLsb' 16 11 = BitVec.allOnes 11 ∧ (0x7FF7FFC : Word).getLsbD 2 = true := by decide
  simp only [kstatWrite, kstatLegal_high, kstatLegal_check, kstatLegal_resume, kstatLegal_delay]
  rw [kstatLegal_fld_other _ _ (by decide) (by decide), kstatLegal_fld_other _ _ (by decide) (by decide),
    kstatLegal_fld_other _ _ (by decide) (by decide)]
  cases sup with
  | false =>
    obtain ⟨hstate, hflags, hresume, hdelay, hend, hcheck⟩ := user
    simp only [Bool.false_eq_true, if_false, fld_mergeBits_old hstate (by decide), fld_mergeBits_new hflags (by decide),
      fld_mergeBits_old hresume (by decide), fld_mergeBits_old hdelay (by decide), fld_mergeBits_old hend (by decide),
      bit_mergeBits hcheck, and_self]
  | true =>
    obtain ⟨hstate, hflags, hresume, hdelay, hend, hcheck⟩ := supervisor
    simp only [if_true, fld_mergeBits_old hstate (by decide), fld_mergeBits_new hflags (by decide),
      fld_mergeBits_new hresume (by decide), fld_mergeBits_new hdelay (by decide), fld_mergeBits_new hend (by decide),
      bit_mergeBits hcheck, and_self]

theorem statusWritesKeepTheirFixedFields : StatusWritesKeepTheirFixedFields := by
  intro v s h x old kold
  constructor
  · intro hsel
    have hw : sysWait s v.fn.toNat = false := by rw [hsel]; rfl
    have hd := denied_of_user_write s v.fn.toNat (by simp [hsel])
    refine ⟨cstatWrite s.core.cp.mode old x, ?_, ?_, fun hm => ?_, fun hm => ?_⟩
    · rw [execWrsys_cp h (hd _) hw, hsel]; rfl
    · rw [execXchsys_cp h (hd _) hw, hsel, writeG_eq s.core.cp _ old]; rfl
    · rw [hm]; rfl
    · rw [hm]; exact cstatLegal_fields x
  · intro hsel hk
    have hw : sysWait s v.fn.toNat = false := sysWait_of_stopped fun _ => hk
    have hd := denied_of_user_write s v.fn.toNat (by simp [hsel])
    obtain ⟨hstate, hflags, hdelay, hcheck, hresume, hhigh, hend⟩ := kstatWrite_fields s.core.cp.mode (accepted s 3) kold x
    refine ⟨kstatWrite s.core.cp.mode (accepted s 3) kold x, ?_, ?_, hstate, hflags, hdelay, hcheck, fun hs => ?_, hhigh,
      fun hm => ⟨?_, fun hs => ?_⟩, fun hm => ⟨?_, fun hs => ?_⟩⟩
    · rw [execWrsys_cp h (hd _) hw, hsel]; rfl
    · rw [execXchsys_cp h (hd _) hw, hsel, writeG_eq s.core.cp _ kold]; rfl
    · rw [hresume, if_neg hs]
    · rw [hend, hm, if_pos rfl]
    · rw [hresume, if_pos hs, hm, if_pos rfl]
    · rw [hend, hm, if_neg (by decide)]
    · rw [hresume, if_pos hs, hm, if_neg (by decide)]

theorem flagWritesAndKernelRegisterWaits : FlagWritesAndKernelRegisterWaits := by
  intro v s h c x sel writes
  refine ⟨fun hsel => ?_, fun hsel hk => ?_, fun hlo hhi hk hm => ?_⟩ <;> dsimp only [sel] at *
  · have hw : sysWait s v.fn.toNat = false := by rw [hsel]; rfl
    have hd := denied_of_user_write s v.fn.toNat (by simp [hsel])
    constructor
    · rw [execWrsys_cp h (hd _) hw, hsel]; rfl
    · rw [execXchsys_cp h (hd _) hw, hsel, writeG_g_congr (c := s.core.cp) (c' := { c with cflags := x }) rfl]; rfl
  · have hw : sysWait s v.fn.toNat = false := sysWait_of_stopped fun _ => hk
    have hd := denied_of_user_write s v.fn.toNat (by simp [hsel])
    constructor
    · rw [execWrsys_cp h (hd _) hw, hsel]; rfl
    · rw [execXchsys_cp h (hd _) hw, hsel]; rfl
  · have hw : sysWait s v.fn.toNat = true := by simp [sysWait, sysKernelReg, hk, hlo, hhi]
    have hd (read : Bool) : denied s (sysDenied v.fn.toNat read true) = false := by
      rcases hm with hm | hm
      · exact denied_of_supervisor hm _
      · exact denied_of_user_write s _ (by rcases hm with hm | hm <;> simp [hm]) read
    exact ⟨execWrsys_waits h (hd _) hw, execXchsys_waits h (hd _) hw⟩

theorem sysDenied_readable : ∀ sel ∈ [0x00, 0x10, 0x11, 0x12, 0x13, 0x20, 0x21, 0x23, 0x25, 0x30, 0x31, 0x32, 0x33],
    sysDenied sel true false = false := by decide

theorem rdsysDeliversTheRegister : RdsysDeliversTheRegister := by
  intro v s hg
  have delivers (hd : denied s (sysDenied v.fn.toNat true false) = false) :
      Delivers (.rdsys v) s 2 v.d (readSys s v.fn.toNat) 0 := by
    rw [Delivers, exec_rdsys, execRdsys, runBody_eq_runPlain hd]
    exact runPlain_writes hg rfl
  refine ⟨fun _ h => delivers ?_, fun hp => delivers (denied_of_slot hp _)⟩
  rcases h with hm | hsel
  · exact denied_of_supervisor hm _
  · rw [sysDenied_readable _ hsel, denied_false]

/-- Settles O12: each write of a system register stores its own bits into one field, and the fields of CSTAT and KSTAT
follow from their masks. -/
theorem systemRegistersAreReadAndWritten : Obligations.SystemRegistersAreReadAndWritten :=
  ⟨systemWritesStoreTheRegistersBits, statusWritesKeepTheirFixedFields, flagWritesAndKernelRegisterWaits,
    rdsysDeliversTheRegister⟩

end Sys2Proof.ControlProcessor
end

section
namespace Sys2Proof.ControlProcessor

open Sys2Proof.Machine Sys2Proof.Safety Sys2Proof.Claims

/-! ## The turn of a CP (R17, R36, R72) -/

/-- The CP that acts takes its turn in this step. -/
theorem step_of_cpActs {s x : State} (hs : slotFirst s = none) (h : CpActs s x) : step s = cpTurn x := by
  unfold step
  rw [hs]
  rcases h with ⟨ha, rfl⟩ | ⟨n, rest, ha, rfl⟩ <;> rw [ha]
  rfl

/-- With nothing to take, a running CP turns to its word: the one it waits at, or the one it fetches. -/
theorem cpNext_of_currentWord {x y : State} {w : Word} (hr : x.core.cp.run = .running) (hp : pendingNow x = false)
    (hw : currentWord x = .ok (w, y)) : cpNext x = afterDecode y w (decodeWord (cpEnv y) w) := by
  simp [cpNext, hr, hp, hw]

theorem cpTurn_run {x y : State} {i : Instr} (h : cpNext x = .run i y) : cpTurn x = exec i y := by
  rw [cpTurn, h]

theorem cpTurn_done {x y : State} (h : cpNext x = .done y) : cpTurn x = .next y := by
  rw [cpTurn, h]

theorem currentWord_fetched {x : State} (h : ∀ v, x.core.cp.wait = some v → v.pc ≠ x.core.cp.pc) :
    currentWord x = fetchWord x := by
  have : (x.core.cp.wait.any fun w => w.pc == x.core.cp.pc) = false := by
    cases hw : x.core.cp.wait with
    | none => rfl
    | some v => simpa using h v hw
  rw [currentWord, this]
  rfl

theorem currentWord_waiting {x : State} {v : Wait} (hv : x.core.cp.wait = some v) (hpc : v.pc = x.core.cp.pc) :
    currentWord x = .ok (x.core.cp.fetched, x) := by
  simp [currentWord, hv, hpc]

/-! ## Fetch (R18, R19) -/

theorem cacheWord_of_missing {s : State} {pc : Word} {place : Nat} (h : cachedWord s pc place = none) (w : Word) :
    cacheWord s pc w place = s.withCp { s.core.cp with
      icache := ⟨s.core.cp.asid, pc, w, place, []⟩ ::
        s.core.cp.icache.filter fun x => !(x.asid == s.core.cp.asid && x.pc == pc) } := by
  simp [cacheWord, h]

/-- A word that the instruction cache does not hold is fetched from memory, and held (R18, R19). -/
theorem fetchWord_from_memory {x y : State} {p : Phys} {g : Target} {k o : Nat} (ha : x.core.cp.pc.toNat % 8 = 0)
    (hp : fld x.core.cp.pc 56 8 = 0) (ht : translate x (fetchAccess x) x.core.cp.pc.toNat 8 = .ok (p, y))
    (hl : p.lattice = 0) (hpa : p.pa / 2 ^ 41 = y.md.pkg.toNat)
    (hg : place y (fetchAccess x) x.core.cp.pc.toNat p = .ok g) (hloc : g.loc = .stk y.md.pkg.toNat k o)
    (hc : cachedWord y x.core.cp.pc (cellKey y y.md.pkg.toNat k o / 8) = none)
    (hb : bridgeCut y (coreDie y.focus) y.md.pkg.toNat k = false)
    (hq : quiesced y (cellKey y y.md.pkg.toNat k o) = false)
    (hm : metPoison y (cellKey y y.md.pkg.toNat k o) false = none) :
    let w : Word := BitVec.ofNat 64 (leNat (locBytes y g.loc 8))
    fetchWord x = .ok (w, cacheWord y x.core.cp.pc w (cellKey y y.md.pkg.toNat k o / 8)) := by
  have read : fetchRead y x.core.cp.pc g.loc = .ok (BitVec.ofNat 64 (leNat (locBytes y g.loc 8))) := by
    simp [hloc, fetchRead, hb, hq, hm]
  have key : g.loc.key y = cellKey y y.md.pkg.toNat k o := by rw [hloc]; rfl
  simp [fetchWord, ha, hp, ht, bind, Except.bind, hl, hpa, hg, read, key, chooseWord, hc, -Nat.reducePow]

/-! ## A bundle in issue (R67, R73) -/

/-- The next slot word of a bundle in issue. -/
theorem slotFirst_of_words {z : State} {b : Issue} {n : BitVec 3} {w : Word} {rest : List (BitVec 3 × Word)} {i : Instr}
    (hr : z.core.cp.run = .running) (hi : z.core.kern.issuing = some b) (hw : b.words = (n, w) :: rest)
    (ha : b.again = false) (hd : decodeSlot (slotEnv z b.limm n.toNat) w = .ok i) :
    let u := walksFirst z n.toNat
    slotFirst z = some (i, { u.withKern { u.core.kern with issuing := some b } with
      place := slotPlace n.toNat, limm := b.limm, scope := b.scope }) := by
  have hb : { b with words := (n, w) :: rest, again := false } = b := by rw [← ha, ← hw]
  have next : slotFirst z = slotNext z := by simp [slotFirst, hi, ha]
  rw [next, slotNext, hr, hi]
  simp only [beq_self_eq_true, if_true, hw, hd]
  rw [hb]
  rfl

theorem step_of_slotWord {z s' t : State} {i : Instr} (h : slotFirst z = some (i, s')) (he : exec i s' = .next t) :
    step z = .next (slotDone t) := by
  unfold step
  rw [h]
  simp only [he, afterSlot]

/-- Settles O58: the turn of the CP runs what its fetch and decoder give, a bundle in issue its next word, and an event
that is scheduled takes place. -/
theorem stepsRunTheDecodedWord : Obligations.StepsRunTheDecodedWord := by
  intro s x hs
  refine ⟨?_, ?_, ?_⟩
  · intro hx hr hp runs
    have decoded (w : Word) (y : State) (hw : currentWord x = .ok (w, y)) : runs w y := by
      have next := cpNext_of_currentWord hr hp hw
      have turn := step_of_cpActs hs hx
      refine ⟨fun i hd => ?_, fun hd => ?_, fun t hd => ?_⟩ <;> rw [show decodeWord (cpEnv y) w = _ from hd] at next
      · exact turn.trans (cpTurn_run next)
      · exact turn.trans (cpTurn_done next)
      · exact turn.trans (cpTurn_done next)
    refine ⟨fun hv w y hw => decoded w y (by rw [currentWord_fetched hv, hw]),
      fun v hv hpc => decoded _ _ (currentWord_waiting hv hpc), ?_⟩
    intro p y g pc who ha hap ht hl hpa hcore hfocus hg k o hloc key hc hb hq hm w
    rw [fetchWord_from_memory ha hap ht hl hpa hg hloc hc hb hq hm, cacheWord_of_missing hc, hcore]
  · intro b n w rest i z hr hw ha hd t u ht t'
    have stepped : step z = .next (slotDone t) := step_of_slotWord (slotFirst_of_words hr rfl hw ha hd) ht
    have ended {c : Issue} (hc : t.core.kern.issuing = some c) (hca : c.again = false) :
        slotDone t = if (c.words.drop 1).isEmpty then finishBundle t' { c with words := c.words.drop 1 }
          else t'.withKern { t'.core.kern with issuing := some { c with words := c.words.drop 1 } } := by
      simp [slotDone, hc, hca, t']
    refine ⟨fun c hc hca => ⟨fun he => ?_, fun he => ?_⟩, fun c hc hca => ?_, fun hc => ?_⟩
    · rw [stepped, ended hc hca, if_pos (List.isEmpty_iff.2 he)]
    · rw [stepped, ended hc hca, if_neg (by simpa using he)]
    · rw [stepped, slotDone, show t.core.kern.issuing = some c from hc]
      simp [hca, t']
    · rw [stepped, slotDone, show t.core.kern.issuing = none from hc]
  · intro i rest ha hi
    unfold step
    simp [hs, ha, takeTurn, hi]

end Sys2Proof.ControlProcessor
end

section
namespace Sys2Proof.ControlProcessor

open Sys2Proof.Machine Sys2Proof.Safety Sys2Proof.Claims

/-! ## Events at another core -/

theorem focusOn_focus (s : State) (n : Nat) : (s.focusOn n).focus = n := by
  unfold State.focusOn
  split
  · next h => exact (beq_iff_eq.1 h).symm
  · rfl

theorem focusOn_mem (s : State) (n : Nat) : (s.focusOn n).mem = s.mem := by
  unfold State.focusOn
  split <;> rfl

/-- An event of core `n` does what it does with that core in focus, and returns the focus. -/
theorem leaves_of_atCore {i : Instr} {s t : State} {n : Nat} {f : State → State} (hi : exec i s = .next (s.atCore n f))
    (hf : f (s.focusOn n) = t) : Leaves i s t := by
  rw [Leaves, hi, State.atCore, hf]

/-! ## Pending causes (R36, R402, R404) -/

theorem firstAsync_cons (a : Async) (l : List Async) :
    firstAsync (a :: l) =
      (firstAsync l).elim (some a) fun b => if a.priority ≤ b.priority then some a else some b := by
  rw [firstAsync]
  cases firstAsync l <;> rfl

theorem mem_of_firstAsync : ∀ {l : List Async} {b : Async}, firstAsync l = some b → b ∈ l
  | [], _, h => by simp [firstAsync] at h
  | a :: l, b, h => by
    rw [firstAsync_cons] at h
    cases hl : firstAsync l with
    | none => simp_all
    | some c =>
      have hc := mem_of_firstAsync hl
      rw [hl, Option.elim_some] at h
      split at h <;> simp_all

/-- The cause that is taken is the first of those that stand highest (R402). -/
theorem firstAsync_of_foremost {l : List Async} {a : Async} (h : Foremost a l) : firstAsync l = some a := by
  obtain ⟨pre, post, rfl, hpre, hpost⟩ := h
  induction pre with
  | nil =>
    rw [List.nil_append, firstAsync_cons]
    cases hl : firstAsync post with
    | none => rfl
    | some b => exact if_pos (hpost b (mem_of_firstAsync hl))
  | cons c pre ih =>
    rw [List.cons_append, firstAsync_cons, ih fun b hb => hpre b (List.mem_cons_of_mem c hb)]
    exact if_neg (not_le.2 (hpre c List.mem_cons_self))

/-- At a word boundary with IE = 1 the foremost cause is taken (R36). -/
theorem takePending_of_foremost {x : State} {a : Async} (hm : mayTake x.core.cp = true)
    (ha : Foremost a x.core.cp.pending) : takePending x = takeAsync x a := by
  rw [takePending, if_pos hm, firstAsync_of_foremost ha]

theorem pending_of_foremost {x : State} {a : Async} (hm : mayTake x.core.cp = true) (ha : Foremost a x.core.cp.pending) :
    pendingNow x = true := by
  obtain ⟨pre, post, h, -, -⟩ := ha
  simp [pendingNow, hm, h]

theorem mayTake_of_boundary {c : CP} (hr : c.run = .running) (hi : c.ie = true) (hk : c.work = .idle)
    (hw : ∀ w, c.wait = some w → w.hold = false ∧ w.opc ≠ 0xE6) : mayTake c = true := by
  cases h : c.wait with
  | none => simp [mayTake, hr, hi, hk, h]
  | some w =>
    obtain ⟨hh, ho⟩ := hw w h
    simpa [mayTake, hr, hi, hk, h, hh] using ho

/-- What the CP's turn leaves when a cause is to be taken. -/
theorem cpTurn_takes {x : State} {a : Async} (hr : x.core.cp.run = .running) (hm : mayTake x.core.cp = true)
    (ha : Foremost a x.core.cp.pending) : cpTurn x = .next (takeAsync x a) :=
  cpTurn_done (by simp [cpNext, hr, pending_of_foremost hm ha, takePending_of_foremost hm ha])

/-- The record of a trap for an asynchronous cause: ASYNC is set and the cause is pending no more (R36). -/
theorem takeAsync_own (x : State) {a : Async} (h : a.kernel = false) :
    takeAsync x a = x.withCp { trapped x.core.cp a.cause 3 x.core.cp.pc 0 a.detail 0 with
      ccause := BitVec.ofNat 64 (a.cause.code.toNat + 2 ^ 7)
      pending := x.core.cp.pending.filter fun b => !(b.cause == a.cause && b.kernel == a.kernel) } := by
  simp [takeAsync, h, takeTrap_eq_trapped]

/-- The record of a kernel fault is the kernel's own (R404). -/
theorem takeAsync_kernel (x : State) {a : Async} (h : a.kernel = true) {f : FaultInfo} (hf : x.core.kern.fault = some f) :
    takeAsync x a = x.withCp { trapped x.core.cp a.cause (1 + fld x.core.kern.kinfo 0 3 * 4 + f.write.toNat * 32)
        x.core.cp.pc f.addr (x.core.kern.kinfo.extractLsb' 32 32) f.opc with
      ccause := BitVec.ofNat 64 (a.cause.code.toNat + 2 ^ 7)
      pending := x.core.cp.pending.filter fun b => !(b.cause == a.cause && b.kernel == a.kernel) } := by
  have slot : fld x.core.kern.kinfo 0 3 < 8 := Nat.mod_lt _ (by decide)
  simp [takeAsync, h, hf, takeTrap_eq_trapped, slot]

theorem pendingCausesAreTaken : PendingCausesAreTaken := by
  intro n s a x c hr hi hk hw ha rest takes k
  have hm := mayTake_of_boundary hr hi hk hw
  have taken {y : State} (hy : takeAsync x a = y) :
      Leaves (.takeTrap n) s y ∧ ∀ before, slotFirst before = none → CpActs before x → step before = .next y :=
    ⟨leaves_of_atCore (f := takePending) rfl ((takePending_of_foremost hm ha).trans hy),
      fun before hs hx => by rw [step_of_cpActs hs hx, cpTurn_takes hr hm ha, hy]⟩
  exact ⟨fun h => taken (takeAsync_own x h), fun f h hf => taken (takeAsync_kernel x h hf)⟩

/-! ## Watchdogs (R311, R402, R421) -/

section
variable {x : State}

theorem expired_iff (since : Nat) : expired x since = true ↔ 2 ^ fld x.core.cp.cstat 16 5 < x.clock - since := by
  simp [expired, CP.wdlog, gt_iff_lt]

theorem not_expired {since : Nat} (h : ¬ 2 ^ fld x.core.cp.cstat 16 5 < x.clock - since) : expired x since = false :=
  Bool.eq_false_iff.2 fun he => h ((expired_iff since).1 he)

theorem watched_of_not_mem {opc : BitVec 8} (h : opc ∉ [(0xBC : BitVec 8), 0xE5, 0xE6, 0xE8]) : watched opc = true := by
  simp only [List.mem_cons, List.not_mem_nil, or_false, not_or] at h
  obtain ⟨hldge, hhalt, hidle, hwork⟩ := h
  rw [watched, beq_eq_false_iff_ne.2 hldge, beq_eq_false_iff_ne.2 hhalt, beq_eq_false_iff_ne.2 hidle,
    beq_eq_false_iff_ne.2 hwork]
  rfl

/-- Nothing happens before a wait has lasted too long. -/
theorem cpWatchdog_early {w : Wait} (hw : x.core.cp.wait = some w) (he : expired x w.since = false) : cpWatchdog x = x := by
  simp [cpWatchdog, hw, he]

theorem cpWatchdog_late {w : Wait} (hw : x.core.cp.wait = some w) (hr : x.core.cp.run = .running)
    (ht : x.core.cp.inTrap = false) (hh : w.hold = false) (ho : watched w.opc = true) (he : expired x w.since = true) :
    cpWatchdog x = x.withCp (trapped x.core.cp .waitWatchdog 0 w.pc 0 0 w.opc) := by
  have fires : cpWatchdog x = takeSync x { cause := .waitWatchdog } w.opc w.pc := by simp [cpWatchdog, hw, hr, hh, ho, he]
  rw [fires, takeSync_eq ht (by decide)]
  rfl

theorem cpThreshold_early {w : Wait} (hw : x.core.cp.wait = some w) (he : expired x w.since = false) :
    cpThreshold x = x := by
  simp [cpThreshold, hw, he]

theorem cpThreshold_late {w : Wait} (hw : x.core.cp.wait = some w) (hr : x.core.cp.run = .running)
    (ht : x.core.cp.inTrap = false) (ho : w.opc = 0xBC) (he : expired x w.since = true) :
    cpThreshold x = x.withCp (trapped x.core.cp .thresholdTimeout 0 w.pc w.addr 0 w.opc) := by
  have fires : cpThreshold x = takeSync x { cause := .thresholdTimeout, addr := w.addr } w.opc w.pc := by
    simp [cpThreshold, hw, hr, ho, he, gtrap]
  rw [fires, takeSync_eq ht (by decide)]
  rfl

theorem kernWatchdog_early {die : Bool} {ch : BitVec 3} {since q : Nat} (hf : x.core.kern.freeze = .barrier die ch since q)
    (he : expired x since = false) : kernWatchdog x = x := by
  simp [kernWatchdog, hf, he]

/-- A barrier wait of the S slot that has lasted too long stops the kernel, which resumes at the next bundle. -/
theorem kernWatchdog_late {die : Bool} {ch : BitVec 3} {since q : Nat} (hf : x.core.kern.freeze = .barrier die ch since q)
    (hi : x.core.kern.issuing = none) (hs : x.core.kern.stop = none) (hk : x.core.kern.stState = 1)
    (hp : x.core.kern.preStop = false) (he : expired x since = true) :
    kernWatchdog x = stopped (x.withKern { x.core.kern with freeze := .none })
      { trap := { cause := .waitWatchdog }, slot := 1, opc := 0xC6, late := none, kpc := x.core.kern.nextPc, resume := 1 } := by
  simp [kernWatchdog, hf, hi, hs, hk, hp, he, kernelStop, stopped]

theorem kernThreshold_late {i : Fin 32} {e : LogEntry} (hi : x.core.kern.landing.get i = some e) (ho : e.opc = 0xBC)
    (hs : e.status = .inFlight) (he : expired x e.since = true) :
    kernThreshold x i.val = x.withKern { x.core.kern with
      landing := x.core.kern.landing.set i (some { e with status := .failed { cause := .thresholdTimeout, addr := e.addr } }) } := by
  have entry : entryAt x.core.kern.landing i.val = some e := by
    simp [entryAt, ← hi, Vector.get_eq_getElem]
  have trap : etrap .thresholdTimeout e = { cause := .thresholdTimeout, addr := e.addr } := by
    simp [etrap, gtrap, ho]; decide
  have fires : (e.opc == 0xBC && e.status == .inFlight && expired x e.since) = true := by simp [ho, hs, he]
  have bounds (o : Option LogEntry) : x.core.kern.landing.setIfInBounds i.val o = x.core.kern.landing.set i o := by
    ext j hj
    simp [Vector.getElem_set, Vector.getElem_setIfInBounds]
  simp only [kernThreshold, entry, fires, if_true, trap, putLanding, bounds, State.onKern_eq]

theorem abortExpiry_late (hr : x.core.cp.run = .running)
    (hp : ∃ a ∈ x.core.cp.pending, a.cause = .groupAbort ∧ expired x a.since = true) :
    abortExpiry x = fatalStop x .groupAbort := by
  obtain ⟨a, ha, hc, he⟩ := hp
  have any : (x.core.cp.pending.any fun a => a.cause == .groupAbort && expired x a.since) = true :=
    List.any_eq_true.2 ⟨a, ha, by simp [hc, he]⟩
  simp [abortExpiry, hr, any]

end

theorem watchdogsEndLongWaits : WatchdogsEndLongWaits := by
  intro n s x c k late
  have exp {since : Nat} (h : late since) : expired x since = true := (expired_iff since).2 h
  refine ⟨fun w hw hr ht => ⟨fun hh ho => ⟨fun hl => ?_, fun hl => ?_⟩, fun ho => ⟨fun hl => ?_, fun hl => ?_⟩⟩,
    fun die ch since q hf hi hs hst hp => ⟨fun hl => ?_, fun hl => ?_⟩, fun i e he ho hst hl => ?_, fun hr hp => ?_⟩
  · exact leaves_of_atCore rfl (cpWatchdog_late hw hr ht hh (watched_of_not_mem ho) (exp hl))
  · exact leaves_of_atCore rfl (cpWatchdog_early hw (not_expired hl))
  · exact leaves_of_atCore rfl (cpThreshold_late hw hr ht ho (exp hl))
  · exact leaves_of_atCore rfl (cpThreshold_early hw (not_expired hl))
  · exact leaves_of_atCore rfl (kernWatchdog_late hf hi hs hst hp (exp hl))
  · exact leaves_of_atCore rfl (kernWatchdog_early hf (not_expired hl))
  · exact leaves_of_atCore rfl (kernThreshold_late he ho hst (exp hl))
  · obtain ⟨a, ha, hc, hl⟩ := hp
    obtain ⟨hf, hm, hk, hrun, hcp⟩ := fatalStop_halts x .groupAbort
    refine ⟨_, leaves_of_atCore rfl (abortExpiry_late hr ⟨a, ha, hc, exp hl⟩), hf.trans (focusOn_focus s n), hrun, ?_⟩
    rw [hcp, hk, hm, focusOn_mem]
    exact ⟨rfl, rfl, rfl, rfl, rfl⟩

/-- Settles O44: the foremost cause is taken where the CP may take one, and each watchdog compares CCYCLE with the start
of its wait. -/
theorem causesAndWatchdogsTrap : Obligations.CausesAndWatchdogsTrap :=
  ⟨pendingCausesAreTaken, watchdogsEndLongWaits⟩

end Sys2Proof.ControlProcessor
end

section
namespace Sys2Proof.ControlProcessor

open Sys2Proof.Machine Sys2Proof.Safety Sys2Proof.Claims

/-! ## Cores by number -/

theorem getCore_putCore_same (s : State) (n : Nat) (c : Core) : (s.putCore n c).getCore n = c := by
  unfold State.putCore State.getCore
  by_cases h : n = s.focus <;> simp [h, lookupNum_insertNum_same]

theorem getCore_putCore_other {s : State} {n m : Nat} (h : m ≠ n) (c : Core) : (s.putCore n c).getCore m = s.getCore m := by
  unfold State.putCore State.getCore
  by_cases hn : n = s.focus
  · simp [hn, show m ≠ s.focus from hn ▸ h]
  · by_cases hm : m = s.focus <;> simp [hn, hm, lookupNum_insertNum_other _ _ h]

theorem getCore_onCore_same (s : State) (n : Nat) (f : Core → Core) : (s.onCore n f).getCore n = f (s.getCore n) :=
  getCore_putCore_same ..

theorem getCore_onCore_other {s : State} {n m : Nat} (h : m ≠ n) (f : Core → Core) :
    (s.onCore n f).getCore m = s.getCore m := getCore_putCore_other h _

theorem getCore_onLaunch (s : State) (id : Nat) (f : Launch → Launch) (n : Nat) :
    (s.onLaunch id f).getCore n = s.getCore n := rfl

theorem putCore_launches (s : State) (n : Nat) (c : Core) : (s.putCore n c).launches = s.launches := by
  unfold State.putCore; split <;> rfl

theorem putCore_md (s : State) (n : Nat) (c : Core) : (s.putCore n c).md = s.md := by
  unfold State.putCore; split <;> rfl

/-! ## Launches and walkers by number -/

theorem find?_map_if {α : Type} (p : α → Bool) (f : α → α) (hf : ∀ x, p (f x) = p x) (l : List α) :
    (l.map fun x => if p x then f x else x).find? p = (l.find? p).map f := by
  induction l with
  | nil => rfl
  | cons x l ih =>
    by_cases h : p x
    · simp [h, hf]
    · simp [h, ih]

theorem launch?_onLaunch (s : State) {id : Nat} {f : Launch → Launch} (hf : ∀ l, (f l).id = l.id) :
    (s.onLaunch id f).launch? id = (s.launch? id).map f :=
  find?_map_if (fun l : Launch => l.id == id) f (fun l => by rw [hf]) s.launches

theorem walker?_onWalker (l : Launch) {die : Nat} {f : Walker → Walker} (hf : ∀ w, (f w).die = w.die) :
    (l.onWalker die f).walker? die = (l.walker? die).map f :=
  find?_map_if (fun w : Walker => w.die == die) f (fun w => by rw [hf]) l.walkers

/-! ## Steals (R147-R150) -/

theorem answerWork_launches (s : State) (n : Nat) (o : Option Nat) : (answerWork s n o).launches = s.launches :=
  putCore_launches ..

theorem answerWork_launch? (s : State) (n : Nat) (o : Option Nat) (id : Nat) :
    (answerWork s n o).launch? id = s.launch? id := by
  rw [State.launch?, answerWork_launches]; rfl

theorem answerWork_same (s : State) (n : Nat) (o : Option Nat) : ((answerWork s n o).getCore n).cp.work = .answered o := by
  rw [answerWork, getCore_onCore_same]

/-- An answer stands until another one is given. -/
theorem answerWork_keeps (s : State) (n m : Nat) (o : Option Nat) (h : (s.getCore m).cp.work = .answered o) :
    ((answerWork s n o).getCore m).cp.work = .answered o := by
  by_cases hm : m = n
  · rw [hm]; exact answerWork_same s n o
  · rw [answerWork, getCore_onCore_other hm]; exact h

theorem answerAll_launches (l : List Nat) (s : State) (o : Option Nat) :
    (l.foldl (fun s n => answerWork s n o) s).launches = s.launches := by
  induction l generalizing s with
  | nil => rfl
  | cons n l ih => rw [List.foldl_cons, ih, answerWork_launches]

theorem answerAll_keeps (l : List Nat) (s : State) (o : Option Nat) (m : Nat) (h : (s.getCore m).cp.work = .answered o) :
    ((l.foldl (fun s n => answerWork s n o) s).getCore m).cp.work = .answered o := by
  induction l generalizing s with
  | nil => exact h
  | cons n l ih => exact ih _ (answerWork_keeps s n m o h)

/-- Every request of a list is answered. -/
theorem answerAll_mem {l : List Nat} {m : Nat} (hm : m ∈ l) (s : State) (o : Option Nat) :
    ((l.foldl (fun s n => answerWork s n o) s).getCore m).cp.work = .answered o := by
  induction l generalizing s with
  | nil => cases hm
  | cons n l ih =>
    rcases List.mem_cons.1 hm with rfl | hm
    · exact answerAll_keeps l _ o m (answerWork_same s m o)
    · exact ih hm _

section
variable {s : State} {l : Launch} {t v : Walker} {thief victim id : Nat} {rest : List Nat}

/-- The state with the walkers of a launch changed. -/
def onWalkers (s : State) (id : Nat) (f : Walker → Walker) : State :=
  { s with launches := s.launches.map fun m => if m.id == id then { m with walkers := m.walkers.map f } else m }

theorem onLaunch_onWalker (s : State) (id die : Nat) (f : Walker → Walker) :
    s.onLaunch id (Launch.onWalker die f) = onWalkers s id fun w => if w.die = die then f w else w := by
  simp [State.onLaunch, Launch.onWalker, onWalkers]

/-- What the die asked does not give: the steal goes on (R148). -/
theorem stealAsk_goesOn (hl : s.launch? id = some l) (ht : l.walker? thief = some t)
    (hs : t.steal = some (victim :: rest)) (hv : l.walker? victim = some v)
    (h : v.hi - v.lo = 0 ∨ launchLives s l victim = true ∧ v.hi - v.lo ≤ 1) :
    stealAsk s thief victim id = onWalkers s id fun w => if w.die = thief then { w with steal := some rest } else w := by
  have no : (v.hi - v.lo == 0 || (launchLives s l victim && decide (v.hi - v.lo ≤ 1))) = true := by
    simpa using h
  simp only [stealAsk, hl, ht, hs, bne_self_eq_false, Bool.false_eq_true, if_false, hv, no, if_true]
  exact onLaunch_onWalker ..

/-- What it gives: its range above the cut (R148, R149). -/
theorem stealAsk_gives (hl : s.launch? id = some l) (ht : l.walker? thief = some t)
    (hs : t.steal = some (victim :: rest)) (hv : l.walker? victim = some v) (hd : thief ≠ victim)
    (h : ¬ (v.hi - v.lo = 0 ∨ launchLives s l victim = true ∧ v.hi - v.lo ≤ 1)) :
    let cut := if launchLives s l victim then v.lo + (v.hi - v.lo + 1) / 2 else v.lo
    stealAsk s thief victim id = onWalkers s id fun w =>
      if w.die = thief then { w with lo := cut, hi := v.hi, steal := some [], got := true }
      else if w.die = victim then { w with hi := cut }
      else w := by
  have yes : (v.hi - v.lo == 0 || (launchLives s l victim && decide (v.hi - v.lo ≤ 1))) = false := by
    simpa using h
  simp only [stealAsk, hl, ht, hs, bne_self_eq_false, Bool.false_eq_true, if_false, hv, yes, onWalkers, State.onLaunch,
    Launch.onWalker, List.map_map]
  congr! 6 with m hm
  funext w
  by_cases hw : w.die = thief
  · simp [hw, hd]
  · by_cases hw' : w.die = victim <;> simp [hw, hw']

/-- A steal that comes back empty: every waiting request is answered with none, and the die is dry (R148). -/
theorem stealBack_empty (hl : s.launch? id = some l) (ht : l.walker? thief = some t) (hs : t.steal = some [])
    (hg : t.got = false) :
    stealBack s thief id = onWalkers (t.queue.foldl (fun s n => answerWork s n none) s) id fun w =>
      if w.die = thief then { w with steal := none, dry := true, queue := [] } else w := by
  simp only [stealBack, hl, Option.bind_some, ht, hs, hg, Bool.false_eq_true, if_false]
  exact onLaunch_onWalker ..

/-- The walker of the thief after a change that leaves its number. -/
theorem walker_onLaunch (s : State) {f : Walker → Walker} (hf : ∀ w, (f w).die = w.die) :
    ((s.onLaunch id (Launch.onWalker thief f)).launch? id).bind (·.walker? thief) =
      ((s.launch? id).bind (·.walker? thief)).map f := by
  have ids (l : Launch) : (Launch.onWalker thief f l).id = l.id := rfl
  rw [launch?_onLaunch s ids]
  cases s.launch? id with
  | none => rfl
  | some l => exact walker?_onWalker l hf

theorem answerWork_walker (s : State) (n : Nat) (o : Option Nat) :
    ((answerWork s n o).launch? id).bind (·.walker? thief) = (s.launch? id).bind (·.walker? thief) := by
  rw [answerWork_launch?]

/-- One waiting request is served from the range that came back (R147, R148). -/
theorem serveQueue_one {c : Nat} {w : Walker} (hw : (s.launch? id).bind (·.walker? thief) = some w) (h : w.lo < w.hi) :
    let y := serveQueue s id thief [c]
    (y.getCore c).cp.work = .answered (some w.lo) ∧
      (y.launch? id).bind (·.walker? thief) = some { w with lo := w.lo + 1, queue := [] } := by
  simp only [serveQueue, hw, h, if_true]
  refine ⟨answerWork_same .., ?_⟩
  rw [walker_onLaunch, answerWork_walker, walker_onLaunch, hw]
  · rfl
  · exact fun w => rfl
  · exact fun w => rfl

/-- Without a request that waits no steal begins (R148). -/
theorem startSteal_idle {w : Walker} (hw : (s.launch? id).bind (·.walker? thief) = some w) (hq : w.queue = []) :
    let y := startSteal s id thief
    (∀ n, y.getCore n = s.getCore n) ∧ (y.launch? id).bind (·.walker? thief) = some w := by
  refine ⟨fun n => rfl, ?_⟩
  obtain ⟨l, hl, hlw⟩ := Option.bind_eq_some_iff.1 hw
  rw [startSteal, launch?_onLaunch, hl, Option.map_some, Option.bind_some, walker?_onWalker, hlw]
  · simp [hq]
  · intro w
    split <;> rfl
  · exact fun l => rfl

theorem stealBack_serves {c : Nat} (hl : s.launch? id = some l) (ht : l.walker? thief = some t) (hs : t.steal = some [])
    (hg : t.got = true) (hq : t.queue = [c]) (h : t.lo < t.hi) :
    let y := stealBack s thief id
    (y.getCore c).cp.work = .answered (some t.lo) ∧
      (y.launch? id).bind (·.walker? thief) = some { t with lo := t.lo + 1, steal := none, got := false, queue := [] } := by
  have taken : ((s.onLaunch id (Launch.onWalker thief fun w => { w with steal := none, got := false })).launch? id).bind
      (·.walker? thief) = some { t with steal := none, got := false } := by
    rw [walker_onLaunch, hl, Option.bind_some, ht]
    · rfl
    · exact fun w => rfl
  obtain ⟨hwork, hwalker⟩ := serveQueue_one (c := c) taken h
  obtain ⟨hcores, hidle⟩ := startSteal_idle hwalker rfl
  simp only [stealBack, hl, Option.bind_some, ht, hs, hg, if_true, hq]
  exact ⟨by rw [hcores]; exact hwork, hidle⟩

end

theorem stealsMoveHalfTheRange : StealsMoveHalfTheRange := by
  intro thief victim id s l t v rest hl ht onWalkers r lives give
  have goes (y : State) : exec (.stealRequest thief victim id) s = .next y ↔ stealAsk s thief victim id = y := by
    rw [exec_stealRequest, execStealRequest, Host.Outcome.next.injEq]
  refine ⟨fun hd hs hv => ⟨fun h => ?_, fun h h2 => ?_, fun h h1 => ?_⟩, fun hs hg => ?_, fun c hs hg hq h => ?_⟩
  · exact (goes _).2 (stealAsk_goesOn hl ht hs hv (h.imp_right fun ⟨a, b⟩ => ⟨a, b.le⟩))
  · have := stealAsk_gives hl ht hs hv hd (by rintro (h0 | ⟨-, h1⟩) <;> omega)
    rw [if_pos h] at this
    exact (goes _).2 this
  · have := stealAsk_gives hl ht hs hv hd (by rintro (h0 | ⟨h', -⟩) <;> [omega; simp [lives, h'] at h])
    rw [if_neg (by simpa [lives] using h)] at this
    exact (goes _).2 this
  · exact ⟨_, (exec_stealReturn thief id s).trans (congrArg Host.Outcome.next (stealBack_empty hl ht hs hg)),
      fun c hc => answerAll_mem hc s none, congrArg (List.map _) (answerAll_launches t.queue s none)⟩
  · obtain ⟨hwork, hwalker⟩ := stealBack_serves hl ht hs hg hq h
    refine ⟨_, rfl, hwork, fun l' hl' w hw => ?_⟩
    rw [hl', Option.bind_some] at hwalker
    exact Option.some_injective _ (hw.symm.trans hwalker)

/-! ## Grants (R13, R16, R139, R142, R240) -/

/-- A register read after a write; g0 reads zero (R12). -/
theorem readG_writeG (c : CP) (r q : BitVec 5) (v : Word) (hr : r ≠ 0) :
    (c.writeG r v).readG q = if q = r then v else c.readG q := by
  have h0 : (r == 0) = false := beq_eq_false_iff_ne.2 hr
  have hg : c.writeG r v = { c with g := c.g.set (idx5 r) v } := by rw [CP.writeG, h0]; rfl
  rw [hg]
  by_cases h : q = r
  · subst h
    rw [CP.readG, h0]
    simp [Vector.get_eq_getElem]
  · have hi : (idx5 r).val ≠ (idx5 q).val := fun e => h (BitVec.eq_of_toNat_eq e.symm)
    simp [CP.readG, h, Vector.get_eq_getElem, Vector.getElem_set_ne _ _ hi]

theorem readG_reset (q : BitVec 5) : CP.reset.readG q = 0 := by
  simp [CP.readG, CP.reset, Vector.get_eq_getElem]

theorem readPred_reset : ∀ r : BitVec 3, r ≠ 0 → readPred (1 : BitVec 8) r = false := by decide

/-- The general registers that a grant writes: g1, g2 and g3. -/
theorem grantCore_readG (s : State) (l : Launch) (base number rank : Nat) (c : Core) (q : BitVec 5) :
    (grantCore s l base number rank c).cp.readG q =
      if q = 3 then BitVec.ofNat 64 base
      else if q = 2 then BitVec.ofNat 64 (rank + l.g * 2 ^ 16 + number % 2 ^ 16 * 2 ^ 32)
      else if q = 1 then l.args
      else 0 := by
  simp only [grantCore]
  rw [readG_writeG _ 3 q _ (by decide), readG_writeG _ 2 q _ (by decide), readG_writeG _ 1 q _ (by decide)]
  congr! 3
  exact readG_reset q

/-- A granted core but for its general registers. -/
theorem grantCore_fields (s : State) (l : Launch) (base number rank : Nat) (c : Core) :
    let c' := grantCore s l base number rank c
    c'.cp.run = .running ∧ c'.cp.pc = s.md.rtEntry ∧ c'.cp.cstat = CP.reset.cstat ∧
      c'.cp.casid = l.asid.setWidth 64 ∧ c'.cp.p = 1 ∧ c'.srf = [] ∧ c'.kern.stState = 0 ∧ c'.st.queue = [] ∧
      c'.prog = some ⟨l.id, base, l.g, number⟩ := by
  have hst : Kern.reset.stState = 0 := by decide
  simp only [grantCore, CP.writeG_pc, CP.writeG_cstat, CP.writeG_p, CP.writeG_run, CP.writeG_casid, true_and, and_true]
  exact ⟨rfl, rfl, hst, rfl⟩

theorem grantCore_congr {s s' : State} (h : s'.md = s.md) (l : Launch) (base number rank : Nat) (c : Core) :
    grantCore s' l base number rank c = grantCore s l base number rank c := by
  unfold grantCore
  rw [h]

/-- The cores of a list are granted one after the other. -/
def grantCores (s : State) (l : Launch) (base number : Nat) (cores : List (Nat × Nat)) : State :=
  cores.foldl (fun s x => s.onCore x.1 (grantCore s l base number x.2)) s

theorem grantCores_frame (l : Launch) (base number : Nat) : ∀ (cores : List (Nat × Nat)) (s : State),
    (grantCores s l base number cores).mem = s.mem ∧ (grantCores s l base number cores).md = s.md
  | [], s => ⟨rfl, rfl⟩
  | x :: cores, s => by
    obtain ⟨hm, hd⟩ := grantCores_frame l base number cores (s.onCore x.1 (grantCore s l base number x.2))
    exact ⟨hm.trans (putCore_mem ..), hd.trans (putCore_md ..)⟩

theorem grantCores_other (l : Launch) (base number n : Nat) : ∀ (cores : List (Nat × Nat)) (s : State),
    n ∉ cores.map (·.1) → (grantCores s l base number cores).getCore n = s.getCore n
  | [], _, _ => rfl
  | x :: cores, s, h => by
    rw [List.map_cons, List.mem_cons, not_or] at h
    exact (grantCores_other l base number n cores _ h.2).trans (getCore_onCore_other h.1 _)

theorem grantCores_same (l : Launch) (base number n rank : Nat) : ∀ (cores : List (Nat × Nat)) (s : State),
    (cores.map (·.1)).Nodup → (n, rank) ∈ cores →
      (grantCores s l base number cores).getCore n = grantCore s l base number rank (s.getCore n)
  | [], _, _, h => absurd h List.not_mem_nil
  | x :: cores, s, hd, h => by
    rw [List.map_cons, List.nodup_cons] at hd
    rcases List.mem_cons.1 h with rfl | h
    · exact (grantCores_other l base number n cores _ hd.1).trans (getCore_onCore_same ..)
    · have hn : n ≠ x.1 := fun e => hd.1 (e ▸ List.mem_map_of_mem h)
      have hmd : (s.onCore x.1 (grantCore s l base number x.2)).md = s.md := putCore_md ..
      refine (grantCores_same l base number n rank cores _ hd.2 h).trans ?_
      rw [getCore_onCore_other hn, grantCore_congr hmd]

theorem map_fst_zipIdx (l : List Nat) : l.zipIdx.map (·.1) = l := by simp

theorem mem_groupCores {d base g n : Nat} : n ∈ groupCores d base g ↔ ∃ i < g, n = 96 * d + base + i := by
  simp [groupCores, coreOf, Nat.add_assoc, eq_comm]

theorem groupCores_nodup (d base g : Nat) : (groupCores d base g).Nodup :=
  List.Nodup.map (fun i j h => by simpa [coreOf] using h) List.nodup_range

theorem mem_groupCores_zipIdx {d base g i : Nat} (h : i < g) : (96 * d + base + i, i) ∈ (groupCores d base g).zipIdx := by
  simp [List.mem_zipIdx_iff_getElem?, groupCores, coreOf, h, Nat.add_assoc]

/-- Beside its cores a grant changes channels, the service order, the launch and its queue. -/
theorem grantAt_eq (s : State) (l : Launch) (d base : Nat) :
    let y := grantCores s l base (l.grantedOn d) (groupCores d base l.g).zipIdx
    (∀ n, (grantAt s l d base).getCore n = y.getCore n) ∧ (grantAt s l d base).mem = y.mem ∧
      (grantAt s l d base).md = y.md := by
  simp only [grantAt]
  split <;> exact ⟨fun n => rfl, rfl, rfl⟩

theorem grantedCoresStartAtTheLaunchEntry : GrantedCoresStartAtTheLaunchEntry := by
  intro id d base s l he hid hd hr hf
  obtain ⟨hcores, hmem, hmd⟩ := grantAt_eq s l d base
  obtain ⟨hmem', hmd'⟩ := grantCores_frame l base (l.grantedOn d) (groupCores d base l.g).zipIdx s
  have granted : grantGroup s id d base = grantAt s l d base := by simp [grantGroup, he, hid, hd, hr, hf]
  refine ⟨grantAt s l d base, by rw [exec_grantGroup, execGrantGroup, granted], ?_, fun n hn => ?_,
    hmem.trans hmem', hmd.trans hmd'⟩
  · intro i hi c
    have hc : c = grantCore s l base (l.grantedOn d) i (s.getCore (96 * d + base + i)) := by
      dsimp only [c]
      rw [hcores, grantCores_same l base _ _ i _ s (by rw [map_fst_zipIdx]; exact groupCores_nodup ..)
        (mem_groupCores_zipIdx hi)]
    have hg := grantCore_readG s l base (l.grantedOn d) i (s.getCore (96 * d + base + i))
    obtain ⟨hrun, hpc, hcstat, hcasid, hp, hsrf, hst, hq, hprog⟩ :=
      grantCore_fields s l base (l.grantedOn d) i (s.getCore (96 * d + base + i))
    rw [← hc] at hg hrun hpc hcstat hcasid hp hsrf hst hq hprog
    have hmode : c.cp.mode = true ∧ c.cp.ie = false ∧ c.cp.inTrap = false := by
      simp only [CP.mode, CP.ie, CP.inTrap, hcstat]; decide
    refine ⟨hrun, hpc, hmode.1, hmode.2.1, hmode.2.2, hcasid, hg 1, hg 2, hg 3, fun r h => ?_, fun r h => ?_, hsrf, hst,
      hq, hprog⟩
    · simp only [List.mem_cons, List.not_mem_nil, or_false, not_or] at h
      obtain ⟨h1, h2, h3⟩ := h
      rw [hg, if_neg h3, if_neg h2, if_neg h1]
    · rw [hp]; exact readPred_reset r h
  · rw [hcores, grantCores_other]
    rw [map_fst_zipIdx, mem_groupCores]
    rintro ⟨i, hi, rfl⟩
    omega

/-- Settles O47: a grant writes each core of its group and no other, and a steal changes the walkers of one launch. -/
theorem workIsGrantedAndStolen : Obligations.WorkIsGrantedAndStolen :=
  ⟨grantedCoresStartAtTheLaunchEntry, stealsMoveHalfTheRange⟩

end Sys2Proof.ControlProcessor
end

section
namespace Sys2Proof.ControlProcessor

open Sys2Proof.Machine Sys2Proof.Safety Sys2Proof.Claims

/-! ## A translation changes no byte (R256, R262) -/

theorem lookup_keeps {s s' : State} {a : Access} {va : Nat} {x : Xlat} (h : lookup s a va = .ok (x, s')) :
    s' = { s with tlb := s'.tlb, fresh := s'.fresh } := by
  unfold lookup at h
  split at h
  · cases h; rfl
  · split at h
    · cases h
    · dsimp only at h
      split at h
      · cases h
      · cases h
        unfold holdXlat
        dsimp only
        split <;> rfl

theorem translate_keeps {s s' : State} {a : Access} {va size : Nat} {p : Phys}
    (h : Machine.translate s a va size = .ok (p, s')) : s' = { s with tlb := s'.tlb, fresh := s'.fresh } := by
  unfold Machine.translate at h
  split at h
  · cases h
  · rename_i hl
    split at h <;> cases h
    exact lookup_keeps hl

/-- Finding a target changes the held translations and the free choices made. -/
theorem resolve_keeps {s s' : State} {a : Access} {e : LogEntry} {t : Target} (h : resolve s a e = .ok (t, s')) :
    s' = { s with tlb := s'.tlb, fresh := s'.fresh } := by
  unfold resolve at h
  dsimp only at h
  split at h
  · split_ifs at h <;> (cases h; rfl)
  · split_ifs at h
    cases h
    rfl
  · split at h
    · cases h
    · rename_i ht
      split at h
      · cases h
      · split at h
        · cases h
        · split at h <;> cases h
          exact translate_keeps ht

theorem canonical_of_keeps {s s' : State} (h : s' = { s with tlb := s'.tlb, fresh := s'.fresh }) (hc : Canonical s) :
    Canonical s' := by
  rw [h]
  exact hc

/-! ## An access of the CP (R96, R316) -/

/-- The entry of a CP access that delivers to `dest` or writes `bytes`. -/
def accessEntry (s : State) (opc : BitVec 8) (w : MForm) (a : Word) (n : Nat) (dest : Option LandDest) (bytes : List Byte) :
    LogEntry :=
  { entryOf s opc w a n with dest, bytes }

/-- An access whose checks pass, and whose request stays in this package, is served at once. -/
theorem runAccess_of_reaches {s s' u : State} {opc : BitVec 8} {w : MForm} {a : Word} {n align : Nat} {t : Target}
    {dest : Option LandDest} {bytes b : List Byte} {done : State → List Byte → State} (hp : s.place = .cp)
    (hr : Reaches s opc 0 w a n align t s') (ho : t.remote s' = false) (hm : opc ≠ 0xB9)
    (hs : serve s' s'.focus (accessEntry s opc w a n dest bytes) t = .ok (b, u)) :
    runAccess s (accessEntry s opc w a n dest bytes) align done =
      .ok (done (u.onCp fun c => { c with remote := none }) b) := by
  obtain ⟨hf, ht, hc⟩ := hr
  have hres : resolve s (cpAccess s) (accessEntry s opc w a n dest bytes) = .ok (t, s') := ht
  have hmerge : mergeable (accessEntry s opc w a n dest bytes) = false := by
    rw [mergeable, show ((accessEntry s opc w a n dest bytes).opc == 0xB9) = false from beq_eq_false_iff_ne.2 hm]
    rfl
  have hserve : serveMerged s' s'.focus (accessEntry s opc w a n dest bytes) t = .ok (b, u) := by
    simp [serveMerged, hmerge, serveAt, hc, ho, hs]
  have hfront : frontTrap (accessEntry s opc w a n dest bytes).addr (accessEntry s opc w a n dest bytes).size align
      anyAperture (writesMem (accessEntry s opc w a n dest bytes).opc) = none := hf
  simp [runAccess, hfront, onCpPlace_of_cp hp, cpPerform, hres, ho, hserve]

/-- A word that is such an access ends with what it delivers. -/
theorem runPlain_of_reaches {s s' u : State} {opc : BitVec 8} {w : MForm} {a : Word} {n align : Nat} {t : Target}
    {dest : Option LandDest} {bytes b : List Byte} {done : State → List Byte → State} {body : State → Body}
    (h : OnCp s w.guard) (hbody : body s = runAccess s (accessEntry s opc w a n dest bytes) align done)
    (hr : Reaches s opc 0 w a n align t s') (ho : t.remote s' = false) (hm : opc ≠ 0xB9)
    (hs : serve s' s'.focus (accessEntry s opc w a n dest bytes) t = .ok (b, u)) :
    runPlain s opc w.guard body = .next (advance (done (u.onCp fun c => { c with remote := none }) b)) := by
  rw [runPlain_ok h.2 (hbody.trans (runAccess_of_reaches h.1 hr ho hm hs)), if_pos (onCpPlace_of_cp h.1)]

/-! ## Bytes and values (R4, R9, R96) -/

theorem leNat_append (a b : List Byte) : leNat (a ++ b) = leNat a + 256 ^ a.length * leNat b := by
  induction a with
  | nil => simp [leNat]
  | cons x a ih => simp only [List.cons_append, leNat, ih, List.length_cons, pow_succ]; ring

theorem leNat_lt (b : List Byte) : leNat b < 256 ^ b.length := by
  induction b with
  | nil => simp [leNat]
  | cons x b ih =>
    have hx := x.isLt
    simp only [leNat, List.length_cons, pow_succ]
    omega

theorem leNat_take (b : List Byte) (n : Nat) (h : n ≤ b.length) : leNat (b.take n) = leNat b % 256 ^ n := by
  have hl : (b.take n).length = n := by simp [h]
  conv_rhs => rw [← List.take_append_drop n b, leNat_append, hl, Nat.add_mul_mod_self_left]
  exact (Nat.mod_eq_of_lt ((leNat_lt (b.take n)).trans_eq (by rw [hl]))).symm

theorem leNat_drop (b : List Byte) (n : Nat) (h : n ≤ b.length) : leNat (b.drop n) = leNat b / 256 ^ n := by
  have hl : (b.take n).length = n := by simp [h]
  conv_rhs => rw [← List.take_append_drop n b, leNat_append, hl, Nat.add_mul_div_left _ _ (by positivity)]
  rw [Nat.div_eq_of_lt ((leNat_lt (b.take n)).trans_eq (by rw [hl])), Nat.zero_add]

/-- sext(x, n) is the sign extension of the low n bits. -/
theorem sextW_eq_signExtend (x : Nat) {n : Nat} (hn : 0 < n) (h : n ≤ 64) :
    sextW (BitVec.ofNat 64 x) n = (BitVec.ofNat n x).signExtend 64 := by
  by_cases hw : n = 64
  · subst hw
    simp [sextW]
  rw [sextW, if_neg (by omega)]
  refine BitVec.eq_of_getLsbD_eq fun i hi => ?_
  rw [BitVec.getLsbD_signExtend, BitVec.msb_eq_getLsbD_last]
  simp only [BitVec.getLsbD_ofNat, decide_eq_true hi, decide_eq_true (show n - 1 < 64 by omega),
    decide_eq_true (show n - 1 < n by omega), Bool.true_and]
  cases x.testBit (n - 1) <;> by_cases hin : i < n <;>
    simp only [if_true, if_false, Bool.false_eq_true, BitVec.getLsbD_or, BitVec.getLsbD_and, BitVec.getLsbD_not,
      BitVec.getLsbD_ofNat, getLsbD_ones, hi, hin] <;> simp

theorem tySigned_width : ∀ ty : BitVec 5, tySigned ty = true →
    8 * tyBytes ty = tyWidth ty ∧ 0 < tyWidth ty ∧ tyWidth ty ≤ 64 := by
  decide

/-- A loaded register holds the value of its bytes, extended for its type. -/
theorem loadValue_eq_extended {e : LogEntry} (ho : e.opc ≠ 0xBC) (hn : e.size = tyBytes e.ty) (b : List Byte) :
    loadValue e b = extended e.ty (leNat b) := by
  unfold loadValue extended
  dsimp only
  rw [if_neg (by simpa using ho)]
  split
  · rename_i h
    obtain ⟨hw, hpos, hle⟩ := tySigned_width e.ty h
    rw [hn, hw, sextW_eq_signExtend _ hpos hle]
  · rfl

/-! ## Loads (R96, R319-R322) -/

/-- The bytes of a load of `n` bytes at its target. -/
def loadedBytes (s : State) (t : Target) (n : Nat) : List Byte :=
  match t.loc with
  | .stk p k o => homeBytes s t p k o n
  | l => locBytes s l n

/-- The contributions of a GCOUNT cell add up to 2^64 − 1 at most. -/
theorem foldl_satAdd64 (f : Nat → Nat) (l : List Nat) (x : Nat) (hx : x ≤ 2 ^ 64 - 1) :
    l.foldl (fun x d => satAdd64 x (f d)) x = min (2 ^ 64 - 1) (x + (l.map f).sum) := by
  induction l generalizing x with
  | nil => rw [List.foldl_nil, List.map_nil, List.sum_nil, Nat.add_zero, Nat.min_eq_right hx]
  | cons d l ih =>
    rw [List.foldl_cons, ih (satAdd64 x (f d)) (Nat.min_le_right _ _), List.map_cons, List.sum_cons]
    rw [show satAdd64 x (f d) = min (x + f d) (2 ^ 64 - 1) from rfl]
    omega

/-- The bytes loaded have the value that the target holds (R307). -/
theorem leNat_loadedBytes (s : State) (t : Target) (n : Nat) : leNat (loadedBytes s t n) = held s t n := by
  obtain ⟨l, lattice, slot⟩ := t
  cases l with
  | stk p k o =>
    by_cases h : lattice = 7
    · subst h
      have fold := foldl_satAdd64 (fun d => leNat (locBytes s (.stk p k (o + 8 * d)) 8)) (List.range 8) 0 (by omega)
      simp only [loadedBytes, homeBytes, held, beq_self_eq_true, if_true, leNat_leBytes, fold, Nat.zero_add]
      omega
    · simp [loadedBytes, homeBytes, held, h]
  | srf c o => rfl
  | dev o => rfl
  | host p o => rfl

theorem loadedBytes_plain {s : State} {t : Target} (h : t.lattice = 0) (n : Nat) :
    loadedBytes s t n = locBytes s t.loc n := by
  obtain ⟨l, lattice, slot⟩ := t
  cases l <;> simp_all [loadedBytes, homeBytes]

/-- A read of a cell that takes requests and has met no poison is served. -/
theorem atStack_reads {s : State} {e : LogEntry} {key : Nat} {k : Unit → Served} (hq : quiesced s key = false)
    (hm : metPoison s key false = none) : atStack s e key true false k = k () := by
  simp [atStack, hq, hm]

/-- The opcodes of `ld`, `lds` and `ldq`. -/
def loadOpcodes : List (BitVec 8) := [0xB0, 0xB2, 0xB4]

theorem serve_as_load : ∀ o ∈ loadOpcodes, isAtomic o = false ∧ (o == engAdd) = false ∧ (o == 0xBB) = false ∧
    (o == 0xBC) = false ∧ isStore o = false ∧ isLatticeOp o = false := by decide

/-- A load of a readable target delivers its bytes and changes nothing. -/
theorem serve_load {s : State} {e : LogEntry} {t : Target} (ho : e.opc ∈ loadOpcodes) (hr : Readable s t e.size)
    (core : Nat) : serve s core e t = .ok (loadedBytes s t e.size, s) := by
  obtain ⟨hatom, hadd, hjoin, hldge, hstore, hlat⟩ := serve_as_load e.opc ho
  have hserve : serve s core e t = serveLoad s e t := by
    simp only [serve, hatom, hadd, hjoin, hldge, hstore, hlat, Bool.or_false, Bool.and_false, Bool.false_and,
      Bool.false_eq_true, if_false]
  rw [hserve]
  obtain ⟨l, lattice, slot⟩ := t
  cases l with
  | stk p k o =>
    obtain ⟨-, hq, hm⟩ := hr
    exact atStack_reads (k := fun _ => .ok (homeBytes s ⟨.stk p k o, lattice, slot⟩ p k o e.size, s)) hq hm
  | srf c o => simp [serveLoad, show (s.getCore c).srfBad o e.size = false from hr, loadedBytes]
  | dev o =>
    obtain ⟨ho, hn⟩ := hr
    simp [serveLoad, regWidth, ho, hn, loadedBytes]
  | host p o =>
    obtain ⟨hq, hm⟩ := hr
    exact atStack_reads (k := fun _ => .ok (locBytes s (.host p o) e.size, s)) hq hm

/-- A load whose target is readable stays in this package. -/
theorem remote_of_readable {s : State} {t : Target} {n : Nat} (h : Readable s t n) : t.remote s = false := by
  obtain ⟨l, lattice, slot⟩ := t
  cases l with
  | stk p k o =>
    obtain ⟨hp, -⟩ := h
    simp [Target.remote, hp]
  | srf c o => rfl
  | dev o => rfl
  | host p o => rfl

theorem advance_writeG (s : State) (r : BitVec 5) (v : Word) :
    advance ((s.onCp fun c => { c with remote := none }).onCp fun c => c.writeG r v) = cpLoaded s r v := by
  unfold cpLoaded CP.writeG State.onCp
  split <;> rfl

theorem advance_writePair (s : State) (r r' : BitVec 5) (v v' : Word) :
    advance ((s.onCp fun c => { c with remote := none }).onCp fun c => (c.writeG r v).writeG r' v') =
      cpLoaded (s.withCp (s.core.cp.writeG r v)) r' v' := by
  unfold cpLoaded CP.writeG State.onCp
  split_ifs <;> rfl

theorem pairLow_eq {b : List Byte} (h : b.length = 16) : pairLow b = BitVec.ofNat 64 (leNat b % 2 ^ 64) := by
  rw [pairLow, leNat_take b 8 (by omega), show 256 ^ 8 = 2 ^ 64 from rfl]

theorem pairHigh_eq {b : List Byte} (h : b.length = 16) : pairHigh b = BitVec.ofNat 64 (leNat b / 2 ^ 64) := by
  rw [pairHigh, List.take_of_length_le (by simp [h]), leNat_drop b 8 (by omega), show 256 ^ 8 = 2 ^ 64 from rfl]

/-- A word that loads one register from a readable target. -/
theorem loadWord_of_reaches {w : MForm} {s s' : State} {t : Target} {opc : BitVec 8} (h : OnCp s w.guard)
    (ho : opc ∈ loadOpcodes)
    (hr : Reaches s opc 0 w (eaIndexed s w) (tyBytes w.ty) (tyBytes w.ty) t s') (hread : Readable s' t (tyBytes w.ty)) :
    runPlain s opc w.guard (loadWord opc (eaIndexed · w) (tyBytes w.ty) noOperand w) =
      .next (cpLoaded s' (w.d.setWidth 5) (extended w.ty (held s' t (tyBytes w.ty)))) := by
  rw [runPlain_of_reaches (dest := some (.k (r5 w.d))) (bytes := []) h rfl hr (remote_of_readable hread)
    (ne_of_mem_of_not_mem ho (by decide)) (serve_load ho hread _),
    loadValue_eq_extended (ne_of_mem_of_not_mem ho (by decide)) rfl, leNat_loadedBytes]
  exact congrArg Host.Outcome.next (advance_writeG ..)

theorem loadsDeliverTheBytesOfMemory : LoadsDeliverTheBytesOfMemory := by
  intro w s s' t h n a d lo hi gives
  refine ⟨fun hr hread => ?_, fun hr hread => ?_, fun hr hread hl => ?_, ?_⟩
  · exact loadWord_of_reaches h (by decide) hr hread
  · exact loadWord_of_reaches h (by decide) hr hread
  · have hlen : (loadedBytes s' t 16).length = 16 := by rw [loadedBytes_plain hl]; simp [locBytes]
    rw [exec_ldq, execLdq, runPlain_of_reaches (dest := some (.kpair (r5 w.d))) (bytes := []) h rfl hr
      (remote_of_readable hread) (by decide) (serve_load (show 0xB4 ∈ loadOpcodes by decide) hread _)]
    have hlo : pairLow (loadedBytes s' t 16) = lo := by rw [pairLow_eq hlen, leNat_loadedBytes]
    have hhi : pairHigh (loadedBytes s' t 16) = hi := by rw [pairHigh_eq hlen, leNat_loadedBytes]
    rw [← hlo, ← hhi]
    exact congrArg Host.Outcome.next (advance_writePair ..)
  · rw [exec_pref, execPref, runPlain_ok h.2 rfl, if_pos (onCpPlace_of_cp h.1)]
    rfl

/-! ## Bad addresses (R238, R316) -/

/-- An access that a check of its address stops traps at its word, and nothing is accessed (R33). -/
theorem runPlain_of_frontTrap {s : State} {opc : BitVec 8} {w : MForm} {a : Word} {n align : Nat}
    {dest : Option LandDest} {bytes : List Byte} {done : State → List Byte → State} {body : State → Body} {c : Cause}
    (h : OnCp s w.guard) (ht : s.core.cp.inTrap = false) (hc : c ≠ .engineFault)
    (hbody : body s = runAccess s (accessEntry s opc w a n dest bytes) align done)
    (hf : frontTrap a n align anyAperture (writesMem opc) = some (gtrap c a.toNat 0 (writesMem opc))) :
    runPlain s opc w.guard body =
      .next (s.withCp (trapped s.core.cp c ((writesMem opc).toNat * 32) s.core.cp.pc a 0 opc)) := by
  have hacc : runAccess s (accessEntry s opc w a n dest bytes) align done =
      .error (.trap { cause := c, addr := a, detail := 0, write := writesMem opc } s) := by
    have hfront : frontTrap (accessEntry s opc w a n dest bytes).addr (accessEntry s opc w a n dest bytes).size align
        anyAperture (writesMem (accessEntry s opc w a n dest bytes).opc) = _ := hf
    simp [runAccess, hfront, gtrap]
  rw [runPlain_error h.2 (hbody.trans hacc), stopWord, if_pos (onCpPlace_of_cp h.1), takeSync_eq ht hc]

theorem frontTrap_noAperture {a : Word} (h : fld a 56 8 ∉ [0x00, 0xFE, 0xFF]) (n align : Nat) (write : Bool) :
    frontTrap a n align anyAperture write = some (gtrap .aperture a.toNat 0 write) := by
  have hnone : apertureOf a = none := by
    simp only [List.mem_cons, List.not_mem_nil, or_false, not_or] at h
    simp [apertureOf, h]
  rw [frontTrap, hnone]

theorem frontTrap_misaligned {a : Word} {align : Nat} (h : fld a 56 8 ∈ [0x00, 0xFE, 0xFF]) (ha : a.toNat % align ≠ 0)
    (n : Nat) (write : Bool) : frontTrap a n align anyAperture write = some (gtrap .misaligned a.toNat 0 write) := by
  obtain ⟨k, hk⟩ : ∃ k, apertureOf a = some k := by
    simp only [List.mem_cons, List.not_mem_nil, or_false] at h
    rcases h with h | h | h
    exacts [⟨0, by rw [apertureOf, h]; rfl⟩, ⟨1, by rw [apertureOf, h]; rfl⟩, ⟨2, by rw [apertureOf, h]; rfl⟩]
  rw [frontTrap, hk]
  simp [anyAperture, ha]

/-- A check stops an access of `n` bytes at `a` with cause `c`. -/
def StopsAt (a : Word) (n : Nat) (c : Cause) : Prop :=
  ∀ write, frontTrap a n n anyAperture write = some (gtrap c a.toNat 0 write)

section
variable {w : MForm} {s : State} {c : Cause} (h : OnCp s w.guard) (ht : s.core.cp.inTrap = false) (hc : c ≠ .engineFault)
include h ht hc

theorem execLd_stops (hf : StopsAt (eaIndexed s w) (tyBytes w.ty) c) :
    exec (.ld w) s = .next (s.withCp (trapped s.core.cp c 0 s.core.cp.pc (eaIndexed s w) 0 0xB0)) :=
  runPlain_of_frontTrap (dest := some (.k (r5 w.d))) (bytes := []) h ht hc rfl (hf false)

theorem execLds_stops (hf : StopsAt (eaIndexed s w) (tyBytes w.ty) c) :
    exec (.lds w) s = .next (s.withCp (trapped s.core.cp c 0 s.core.cp.pc (eaIndexed s w) 0 0xB2)) :=
  runPlain_of_frontTrap (dest := some (.k (r5 w.d))) (bytes := []) h ht hc rfl (hf false)

theorem execLdq_stops (hf : StopsAt (eaIndexed s w) 16 c) :
    exec (.ldq w) s = .next (s.withCp (trapped s.core.cp c 0 s.core.cp.pc (eaIndexed s w) 0 0xB4)) :=
  (exec_ldq w s).trans (runPlain_of_frontTrap (dest := some (.kpair (r5 w.d))) (bytes := []) h ht hc rfl (hf false))

theorem execSt_stops (hf : StopsAt (eaIndexed s w) (tyBytes w.ty) c) :
    exec (.st w) s = .next (s.withCp (trapped s.core.cp c 0x20 s.core.cp.pc (eaIndexed s w) 0 0xB1)) :=
  runPlain_of_frontTrap (dest := none) (bytes := leBytes (tyBytes w.ty) (readR s w.d).toNat) h ht hc rfl (hf true)

theorem execSts_stops (hf : StopsAt (eaIndexed s w) (tyBytes w.ty) c) :
    exec (.sts w) s = .next (s.withCp (trapped s.core.cp c 0x20 s.core.cp.pc (eaIndexed s w) 0 0xB3)) :=
  runPlain_of_frontTrap (dest := none) (bytes := leBytes (tyBytes w.ty) (readR s w.d).toNat) h ht hc rfl (hf true)

theorem execStq_stops (hf : StopsAt (eaIndexed s w) 16 c) :
    exec (.stq w) s = .next (s.withCp (trapped s.core.cp c 0x20 s.core.cp.pc (eaIndexed s w) 0 0xB5)) :=
  runPlain_of_frontTrap (dest := none) (bytes := 
    leBytes 8 (readR s w.d).toNat ++ leBytes 8 (readR s (w.d + 1)).toNat) h ht hc rfl (hf true)

end

theorem badAddressesTrapBeforeTheAccess : BadAddressesTrapBeforeTheAccess := by
  intro w s h ht n a top traps
  have ha : Cause.aperture ≠ .engineFault := by decide
  have hm : Cause.misaligned ≠ .engineFault := by decide
  refine ⟨fun htop => ?_, fun htop hal => ?_, fun htop hal => ?_⟩
  · have stops (m : Nat) : StopsAt a m .aperture := frontTrap_noAperture htop m m
    exact ⟨execLd_stops h ht ha (stops n), execLds_stops h ht ha (stops n), execLdq_stops h ht ha (stops 16),
      execSt_stops h ht ha (stops n), execSts_stops h ht ha (stops n), execStq_stops h ht ha (stops 16)⟩
  · have stops : StopsAt a n .misaligned := frontTrap_misaligned htop hal n
    exact ⟨execLd_stops h ht hm stops, execLds_stops h ht hm stops, execSt_stops h ht hm stops, execSts_stops h ht hm stops⟩
  · have stops : StopsAt a 16 .misaligned := frontTrap_misaligned htop hal 16
    exact ⟨execLdq_stops h ht hm stops, execStq_stops h ht hm stops⟩

end Sys2Proof.ControlProcessor
end

section
namespace Sys2Proof.ControlProcessor

open Sys2Proof.Machine Sys2Proof.Safety Sys2Proof.Claims

/-! ## Lists in the order of their keys -/

section
variable {α : Type} {lo k : Nat} {l : List (Nat × α)}

theorem keysFrom_cons {x : Nat × α} : keysFrom lo (x :: l) = true ↔ lo ≤ x.1 ∧ keysFrom (x.1 + 1) l = true := by
  simp [keysFrom]

theorem keysFrom_mono {lo' : Nat} (h : lo ≤ lo') (w : keysFrom lo' l = true) : keysFrom lo l = true := by
  cases l with
  | nil => rfl
  | cons x l =>
    rw [keysFrom_cons] at w ⊢
    exact ⟨h.trans w.1, w.2⟩

theorem insertNum_keysFrom (v : α) (hk : lo ≤ k) (w : keysFrom lo l = true) : keysFrom lo (insertNum k v l) = true := by
  induction l generalizing lo with
  | nil => simpa [insertNum, keysFrom] using hk
  | cons x l ih =>
    obtain ⟨ha, hl⟩ := keysFrom_cons.1 w
    rw [insertNum]
    split_ifs with hlt heq
    · exact keysFrom_cons.2 ⟨hk, keysFrom_cons.2 ⟨hlt, hl⟩⟩
    · exact keysFrom_cons.2 ⟨hk, beq_iff_eq.1 heq ▸ hl⟩
    · rw [beq_iff_eq] at heq
      exact keysFrom_cons.2 ⟨ha, ih (by omega) hl⟩

theorem eraseNum_keysFrom (w : keysFrom lo l = true) : keysFrom lo (eraseNum k l) = true := by
  induction l generalizing lo with
  | nil => rfl
  | cons x l ih =>
    obtain ⟨ha, hl⟩ := keysFrom_cons.1 w
    rw [eraseNum]
    split_ifs
    · exact w
    · exact keysFrom_mono (by omega) hl
    · exact keysFrom_cons.2 ⟨ha, ih hl⟩

theorem lookupNum_of_lt (w : keysFrom lo l = true) (h : k < lo) : lookupNum k l = none := by
  induction l generalizing lo with
  | nil => rfl
  | cons x l ih =>
    obtain ⟨ha, hl⟩ := keysFrom_cons.1 w
    rw [lookupNum, if_neg (by simp; omega)]
    exact ih hl (by omega)

theorem lookupNum_eraseNum_self (w : keysFrom lo l = true) : lookupNum k (eraseNum k l) = none := by
  induction l generalizing lo with
  | nil => rfl
  | cons x l ih =>
    obtain ⟨ha, hl⟩ := keysFrom_cons.1 w
    rw [eraseNum]
    split_ifs with hlt heq
    · exact lookupNum_of_lt (keysFrom_cons.2 ⟨le_refl _, hl⟩) hlt
    · exact lookupNum_of_lt hl (by rw [beq_iff_eq.1 heq]; omega)
    · rw [lookupNum, if_neg (by simpa using Ne.symm (by simpa using heq))]
      exact ih hl

theorem lookupNum_eraseNum_ne {j : Nat} (h : j ≠ k) : lookupNum j (eraseNum k l) = lookupNum j l := by
  induction l with
  | nil => rfl
  | cons x l ih =>
    rw [eraseNum]
    split_ifs with hlt heq
    · rfl
    · rw [lookupNum, if_neg (by simpa [← beq_iff_eq.1 heq] using h.symm)]
    · rw [lookupNum, lookupNum, ih]

theorem keysFrom_of_hostFrom {l : List Host.Cell} {lo : Nat} (w : hostFrom lo l = true) : keysFrom lo l = true := by
  induction l generalizing lo with
  | nil => rfl
  | cons x l ih =>
    simp only [hostFrom, Bool.and_eq_true, decide_eq_true_eq] at w
    exact keysFrom_cons.2 ⟨w.1.1, ih w.2⟩

end

/-! ## Bytes by key: HBM and the host window (R264, R461) -/

/-- HBM is in canonical form, and the host window lists every byte once. -/
def BytesListedOnce (s : State) : Prop := Memory.wf s.mem = true ∧ keysFrom 0 s.hostMem = true

theorem bytesListedOnce_of_canonical {s : State} (h : Canonical s) : BytesListedOnce s :=
  ⟨h.1, keysFrom_of_hostFrom h.2.1⟩

theorem hostGet_hostPut_same {l : List Host.Cell} (a : Nat) (b : Byte) (w : keysFrom 0 l = true) :
    hostGet (hostPut l a b) a = b := by
  unfold hostGet hostPut
  split
  · rename_i h
    rw [lookupNum_eraseNum_self w, Option.getD_none, beq_iff_eq.1 h]
  · rw [lookupNum_insertNum_same, Option.getD_some]

theorem hostGet_hostPut_other {l : List Host.Cell} {a j : Nat} (b : Byte) (h : j ≠ a) :
    hostGet (hostPut l a b) j = hostGet l j := by
  unfold hostGet hostPut
  split
  · rw [lookupNum_eraseNum_ne h]
  · rw [lookupNum_insertNum_other _ _ h]

theorem hostPut_keysFrom {l : List Host.Cell} (a : Nat) (b : Byte) (w : keysFrom 0 l = true) :
    keysFrom 0 (hostPut l a b) = true := by
  unfold hostPut
  split
  · exact eraseNum_keysFrom w
  · exact insertNum_keysFrom b (Nat.zero_le _) w

theorem byteAt_putByteAt_same {s : State} (w : BytesListedOnce s) (k : Nat) (b : Byte) : byteAt (putByteAt s k b) k = b := by
  unfold byteAt putByteAt
  by_cases h : k < hostBase
  · simpa only [if_pos h] using cellGet_cellPut_same k b w.1
  · simpa only [if_neg h] using hostGet_hostPut_same _ b w.2

theorem byteAt_putByteAt_other {s : State} (w : BytesListedOnce s) {k x : Nat} (h : x ≠ k) (b : Byte) :
    byteAt (putByteAt s k b) x = byteAt s x := by
  unfold byteAt putByteAt
  by_cases hk : k < hostBase <;> by_cases hx : x < hostBase <;> simp only [hk, hx, if_true, if_false]
  · exact cellGet_cellPut_other b w.1 h
  · exact hostGet_hostPut_other b (by omega)

theorem putByteAt_listedOnce {s : State} (w : BytesListedOnce s) (k : Nat) (b : Byte) : BytesListedOnce (putByteAt s k b) := by
  unfold putByteAt
  split
  · exact ⟨cellPut_wf k b w.1, w.2⟩
  · exact ⟨w.1, hostPut_keysFrom _ b w.2⟩

/-- A write by key leaves every byte that it does not name. -/
theorem byteAt_putBytesAt_other {l : List Host.Cell} {s : State} (w : BytesListedOnce s) {x : Nat} (h : ∀ c ∈ l, x ≠ c.1) :
    byteAt (putBytesAt s l) x = byteAt s x := by
  induction l generalizing s with
  | nil => rfl
  | cons c l ih =>
    rw [List.forall_mem_cons] at h
    rw [putBytesAt, ih (putByteAt_listedOnce w ..) h.2, byteAt_putByteAt_other w h.1]

/-- Of distinct bytes written by key each reads as written. -/
theorem byteAt_putBytesAt_mem {l : List Host.Cell} {s : State} (w : BytesListedOnce s) (hn : (l.map Prod.fst).Nodup)
    {c : Host.Cell} (hc : c ∈ l) : byteAt (putBytesAt s l) c.1 = c.2 := by
  induction l generalizing s with
  | nil => cases hc
  | cons x l ih =>
    rw [List.map_cons, List.nodup_cons] at hn
    have w' := putByteAt_listedOnce w x.1 x.2
    rw [putBytesAt]
    rcases List.mem_cons.1 hc with rfl | hc
    · rw [byteAt_putBytesAt_other w' fun y hy he => hn.1 (List.mem_map.2 ⟨y, hy, he.symm⟩), byteAt_putByteAt_same w]
    · exact ih w' hn.2 hc

/-! ## The cells of an access (R270, R314) -/

theorem rawKey_mod (s : State) (p k o : Nat) : rawKey s p k o % 128 = o % 128 := by
  unfold rawKey chanAddr
  omega

theorem rawHostKey_mod (p o : Nat) : rawHostKey p o % 128 = o % 128 := by
  unfold rawHostKey hostBase hostCell
  omega

/-- A migration moves whole lines. -/
theorem homeOf_mod (l : List MigLine) (key : Nat) : homeOf l key % 128 = key % 128 := by
  unfold homeOf
  split
  · rw [Nat.add_comm, Nat.add_mul_mod_self_right, Nat.mod_mod]
  · rfl

theorem cellKey_mod (s : State) (p k o : Nat) : cellKey s p k o % 128 = o % 128 := by
  rw [cellKey, homeOf_mod, rawKey_mod]

theorem hostKey_mod (s : State) (p o : Nat) : hostKey s p o % 128 = o % 128 := by
  rw [hostKey, homeOf_mod, rawHostKey_mod]

/-- The bytes of an access of at most 128 bytes lie in cells of their own. -/
def CellsApart (s : State) (l : Loc) : Prop := ∀ i < 128, ∀ j < 128, cellAt s l i = cellAt s l j → i = j

theorem cellsApart_stk (s : State) (p k o : Nat) : CellsApart s (.stk p k o) := by
  intro i hi j hj h
  have hm : (o + i) % 128 = (o + j) % 128 := by
    rw [← cellKey_mod s p k (o + i), ← cellKey_mod s p k (o + j)]
    exact congrArg (· % 128) h
  omega

theorem cellsApart_host (s : State) (p o : Nat) : CellsApart s (.host p o) := by
  intro i hi j hj h
  have hm : (o + i) % 128 = (o + j) % 128 := by
    rw [← hostKey_mod s p (o + i), ← hostKey_mod s p (o + j)]
    exact congrArg (· % 128) h
  omega

/-- The cells of a place with the bytes for them. -/
def cellsOf (s : State) (l : Loc) (b : List Byte) : List Host.Cell := b.zipIdx.map fun (x, i) => (cellAt s l i, x)

theorem mem_cellsOf {s : State} {l : Loc} {b : List Byte} {c : Host.Cell} :
    c ∈ cellsOf s l b ↔ ∃ i, ∃ h : i < b.length, c = (cellAt s l i, b[i]) := by
  simp only [cellsOf, List.mem_map, Prod.exists, List.mem_zipIdx_iff_getElem?, List.getElem?_eq_some_iff]
  constructor
  · rintro ⟨x, i, ⟨h, hx⟩, rfl⟩
    exact ⟨i, h, by rw [hx]⟩
  · rintro ⟨i, h, rfl⟩
    exact ⟨b[i], i, ⟨h, rfl⟩, rfl⟩

theorem cellsOf_nodup {s : State} {l : Loc} (h : CellsApart s l) {b : List Byte} (hb : b.length ≤ 128) :
    ((cellsOf s l b).map Prod.fst).Nodup := by
  have hkeys : (cellsOf s l b).map Prod.fst = (List.range b.length).map (cellAt s l) := by
    refine List.ext_getElem (by simp [cellsOf]) fun i _ _ => by simp [cellsOf]
  rw [hkeys]
  refine List.Nodup.map_on (fun i hi j hj he => h i ?_ j ?_ he) List.nodup_range
  · exact (List.mem_range.1 hi).trans_le hb
  · exact (List.mem_range.1 hj).trans_le hb

theorem cellsStored_putBytesAt {s : State} (w : BytesListedOnce s) {l : Loc} (h : CellsApart s l) {b : List Byte}
    (hb : b.length ≤ 128) : CellsStored s (putBytesAt s (cellsOf s l b)) l b := by
  refine ⟨by rw [putBytesAt_frame], fun i hi => ?_, fun x hx => ?_⟩
  · rw [List.getD_eq_getElem _ _ hi]
    exact byteAt_putBytesAt_mem w (cellsOf_nodup h hb) (mem_cellsOf.2 ⟨i, hi, rfl⟩)
  · refine byteAt_putBytesAt_other w fun c hc => ?_
    obtain ⟨i, hi, rfl⟩ := mem_cellsOf.1 hc
    exact hx i hi

/-! ## Bytes of an SRF (R240, R246) -/

theorem mem_of_lookupNum {α : Type} {k : Nat} {v : α} {l : List (Nat × α)} (h : lookupNum k l = some v) : (k, v) ∈ l := by
  induction l with
  | nil => cases h
  | cons x l ih =>
    rw [lookupNum] at h
    split_ifs at h with hk
    · rw [← beq_iff_eq.1 hk, ← Option.some.inj h]
      exact List.mem_cons_self
    · exact List.mem_cons_of_mem _ (ih h)

theorem getCore_srf_wf {s : State} (h : Canonical s) (n : Nat) : Memory.wf (s.getCore n).srf = true := by
  obtain ⟨-, -, hcore, hparked, -⟩ := h
  unfold State.getCore
  split
  · exact hcore
  · cases hl : lookupNum n s.parked with
    | none => rfl
    | some c => exact hparked _ (mem_of_lookupNum hl)

theorem mem_atAddr {a : Nat} {b : List Byte} {k : Nat} : (∃ c ∈ atAddr a b, c.1 = k) ↔ a ≤ k ∧ k < a + b.length := by
  induction b generalizing a with
  | nil => simp [atAddr]
  | cons x b ih =>
    rw [atAddr, List.exists_mem_cons_iff, ih, List.length_cons]
    dsimp only
    omega

/-- A write clears the marks of the codewords it covers (R246). -/
theorem srfClear_atAddr (l : List Nat) (off : Nat) (b : List Byte) :
    srfClear l (atAddr off b) =
      l.filter fun q => !(decide (off ≤ 64 * q) && decide (64 * q + 64 ≤ off + b.length)) := by
  refine List.filter_congr fun q _ => congrArg _ ?_
  rw [Bool.eq_iff_iff]
  simp only [List.all_eq_true, List.any_eq_true, List.mem_range, beq_iff_eq, mem_atAddr, Bool.and_eq_true, decide_eq_true_eq]
  constructor
  · intro h
    have hfirst := h 0 (by omega)
    have hlast := h 63 (by omega)
    omega
  · intro h i hi
    omega

/-! ## What a store leaves (R96, R417, R424) -/

theorem putBytesAt_marks (s : State) (l : List Host.Cell) :
    (putBytesAt s l).poison = s.poison ∧ (putBytesAt s l).unmet = s.unmet := by
  rw [putBytesAt_frame]
  exact ⟨rfl, rfl⟩

/-- Marks of poison are no bytes. -/
theorem cellsStored_marks {s t : State} {l : Loc} {b : List Byte} (h : CellsStored s t l b) (poison unmet : List Nat) :
    CellsStored s { t with poison, unmet } l b := by
  obtain ⟨hframe, hbytes, hothers⟩ := h
  exact ⟨by rw [hframe], hbytes, hothers⟩

theorem rowBad_putBytesAt (s : State) (l : List Host.Cell) (p k o : Nat) :
    rowBad (putBytesAt s l) p k o = rowBad s p k o := by
  rw [putBytesAt_frame]
  rfl

theorem granuleKey_putBytesAt (s : State) (l : List Host.Cell) (p k o : Nat) :
    granuleKey (putBytesAt s l) p k o = granuleKey s p k o := by
  rw [putBytesAt_frame]
  rfl

/-- In a row with a lasting fault the marks stay (R424). -/
theorem clearGranule_of_rowBad {s : State} {p k o : Nat} (h : rowBad s p k o = true) : clearGranule s p k o = s := by
  rw [clearGranule, if_pos h]

theorem clearGranule_of_rowGood {s : State} {p k o : Nat} (h : rowBad s p k o = false) :
    clearGranule s p k o = { s with
      poison := setDel (granuleKey s p k o) s.poison, unmet := setDel (granuleKey s p k o) s.unmet } := by
  rw [clearGranule, if_neg (by simp [h])]

theorem stored_srf {s : State} (hc : Canonical s) (c off : Nat) (b : List Byte) :
    Stored s (s.onCore c fun x => x.putSrf (atAddr off b)) (.srf c off) b := by
  have w := getCore_srf_wf hc c
  have hcore := getCore_onCore_same s c fun x => x.putSrf (atAddr off b)
  unfold Stored
  dsimp only
  rw [hcore]
  refine ⟨rfl, fun i hi => cellGet_cellPutAll_atAddr b off i w hi, fun x hx => ?_, srfClear_atAddr ..⟩
  refine cellGet_cellPutAll_other _ w fun y hy he => ?_
  have := mem_atAddr.1 ⟨y, hy, he⟩
  omega

theorem stored_host {s : State} (hc : Canonical s) (p off : Nat) {b : List Byte} (hb : b.length ≤ 128) :
    Stored s (hostWrites s p off b) (.host p off) b := by
  refine ⟨cellsStored_putBytesAt (bytesListedOnce_of_canonical hc) (cellsApart_host s p off) hb, ?_, ?_⟩ <;>
    rw [hostWrites_frame]

theorem stored_stk {s : State} (hc : Canonical s) (p k o : Nat) {b : List Byte} (hb : b.length ≤ 128) :
    Stored s (stkPut s p k o b) (.stk p k o) b := by
  have hput := cellsStored_putBytesAt (bytesListedOnce_of_canonical hc) (cellsApart_stk s p k o) hb
  have hstk : stkPut s p k o b = if b.length == 128 then clearGranule (putBytesAt s (cellsOf s (.stk p k o) b)) p k o
    else putBytesAt s (cellsOf s (.stk p k o) b) := rfl
  have hmarks := putBytesAt_marks s (cellsOf s (.stk p k o) b)
  by_cases hn : b.length = 128
  · rw [hstk, if_pos (by simpa using hn)]
    by_cases hrow : rowBad s p k o = true
    · rw [clearGranule_of_rowBad ((rowBad_putBytesAt ..).trans hrow)]
      exact ⟨hput, fun _ => hmarks, fun _ h => absurd hrow (by simp [h])⟩
    · have hrow' : rowBad s p k o = false := by simpa using hrow
      have hrow'' := (rowBad_putBytesAt s (cellsOf s (.stk p k o) b) p k o).trans hrow'
      rw [clearGranule_of_rowGood hrow'', hmarks.1, hmarks.2, granuleKey_putBytesAt]
      refine ⟨cellsStored_marks hput _ _, fun h => ?_, fun _ _ => ⟨rfl, rfl⟩⟩
      rcases h with h | h
      · omega
      · exact absurd h hrow
  · rw [hstk, if_neg (by simpa using hn)]
    exact ⟨hput, fun _ => hmarks, fun h => absurd h hn⟩

/-! ## Stores (R96, R319-R323) -/

/-- A store at the target goes through: in this package, from a stack that is not quiesced, no device register. -/
def Writable (s : State) (t : Target) : Prop :=
  match t.loc with
  | .stk p k o => p = s.md.pkg.toNat ∧ quiesced s (cellKey s p k o) = false
  | .host p off => quiesced s (hostKey s p off) = false
  | .dev _ => False
  | .srf _ _ => True

theorem remote_of_writable {s : State} {t : Target} (h : Writable s t) : t.remote s = false := by
  obtain ⟨l, lattice, slot⟩ := t
  cases l with
  | stk p k o =>
    obtain ⟨hp, -⟩ := h
    simp [Target.remote, hp]
  | srf c o => rfl
  | dev o => rfl
  | host p o => rfl

/-- The opcodes of `st`, `sts`, `stq` and `stz`. -/
def storeOpcodes : List (BitVec 8) := [0xB1, 0xB3, 0xB5, 0xB7]

theorem serve_as_store : ∀ o ∈ storeOpcodes, isAtomic o = false ∧ (o == engAdd) = false ∧ (o == 0xBB) = false ∧
    (o == 0xBC) = false ∧ isStore o = true ∧ isLatticeOp o = false := by decide

/-- A write of a cell that takes requests is served. -/
theorem atStack_writes {s : State} {e : LogEntry} {key : Nat} {k : Unit → Served} (hq : quiesced s key = false) :
    atStack s e key false false k = k () := by
  simp [atStack, hq]

/-- A store to a writable target stores its bytes. -/
theorem serve_store {s : State} {e : LogEntry} {t : Target} (ho : e.opc ∈ storeOpcodes) (hc : Canonical s)
    (hl : t.lattice = 0) (hw : Writable s t) (hb : e.bytes.length ≤ 128) (core : Nat) :
    ∃ u, serve s core e t = .ok ([], u) ∧ Stored s u t.loc e.bytes := by
  obtain ⟨hatom, hadd, hjoin, hldge, hstore, hlat⟩ := serve_as_store e.opc ho
  have hserve : serve s core e t = serveStore s core e t := by
    simp only [serve, hatom, hadd, hjoin, hldge, hstore, hlat, Bool.or_false, Bool.and_false, Bool.false_and,
      Bool.false_eq_true, if_false, if_true]
  rw [hserve]
  obtain ⟨l, lattice, slot⟩ := t
  cases l with
  | stk p k o =>
    obtain ⟨-, hq⟩ := hw
    subst hl
    exact ⟨_, atStack_writes (k := fun _ => .ok ([], stkPut s p k o e.bytes)) hq, stored_stk hc p k o hb⟩
  | srf c o => exact ⟨_, rfl, stored_srf hc c o e.bytes⟩
  | dev o => exact hw.elim
  | host p o => exact ⟨_, atStack_writes (k := fun _ => .ok ([], hostWrites s p o e.bytes)) hw, stored_host hc p o hb⟩

/-- A word that stores `bytes` at a writable target. -/
theorem storesBytes_of_reaches {w : MForm} {s s' : State} {t : Target} {i : Instr} {opc : BitVec 8} {a : Word} {n : Nat}
    {bytes : List Byte} {body : State → Body} (hi : exec i s = runPlain s opc w.guard body)
    (hbody : body s = runAccess s (accessEntry s opc w a n none bytes) n fun s _ => s)
    (h : OnCp s w.guard) (hc : Canonical s) (hl : t.lattice = 0) (hw : Writable s' t) (ho : opc ∈ storeOpcodes)
    (hb : bytes.length ≤ 128) (hr : Reaches s opc 0 w a n n t s') : StoresBytes i s s' t.loc bytes := by
  have hc' : Canonical s' := canonical_of_keeps (resolve_keeps hr.2.1) hc
  obtain ⟨u, hserve, hstored⟩ := serve_store (e := accessEntry s opc w a n none bytes) ho hc' hl hw hb s'.focus
  refine ⟨u, ?_, hstored⟩
  rw [hi, runPlain_of_reaches h hbody hr (remote_of_writable hw) (ne_of_mem_of_not_mem ho (by decide)) hserve]
  rfl

theorem tyBytes_le (ty : BitVec 5) : tyBytes ty ≤ 128 := by
  revert ty
  decide

theorem storesWriteTheirBytesAlone : StoresWriteTheirBytesAlone := by
  intro w s s' t hc h hl hw n a x gives
  have hn : (leBytes n x).length ≤ 128 := by rw [leBytes_length]; exact tyBytes_le w.ty
  exact ⟨storesBytes_of_reaches (exec_st w s) rfl h hc hl hw (by decide) hn,
    storesBytes_of_reaches (exec_sts w s) rfl h hc hl hw (by decide) hn,
    storesBytes_of_reaches (exec_stq w s) rfl h hc hl hw (by decide) (by simp),
    storesBytes_of_reaches (exec_stz w s) rfl h hc hl hw (by decide) (by simp)⟩

/-- Settles O26: a CP access whose checks pass is served at once, and one that a check stops is not made. -/
theorem loadsAndStoresOfTheCp : Obligations.LoadsAndStoresOfTheCp :=
  ⟨loadsDeliverTheBytesOfMemory, storesWriteTheirBytesAlone, badAddressesTrapBeforeTheAccess⟩

end Sys2Proof.ControlProcessor
end

section
namespace Sys2Proof.Numbers

open Sys2Proof.Machine Sys2Proof.Safety Sys2Proof.Claims Sys2Proof.ControlProcessor

/-! ## Division (R43, R84, R118) -/

theorem useUnit_cp {s : State} (h : s.place = .cp) (u : Fin 4) (n : Nat) : useUnit s u n = s := by
  rw [useUnit, if_pos (onCpPlace_of_cp h)]

theorem useUnit_slot {s : State} (h : s.place ≠ .cp) (u : Fin 4) (n : Nat) : useUnit s u n = unitBusy s u n := by
  rw [useUnit, onCpPlace_of_slot h]; rfl

theorem slotGives_place (s : State) (lat : Nat) (d : BitVec 6) (v : Word) (fl : Flags) :
    (slotGives s lat d v fl).place = s.place := by
  unfold slotGives; split <;> rfl

/-- A scalar word that raises flags, none of them enabled, writes a register and keeps a unit busy (R118). -/
theorem runPlain_gives_busy {s : State} {opc : BitVec 8} {g : BitVec 4} {body : State → Body} {lat : Nat} {d : BitVec 6}
    {v : Word} {fl : Flags} {u : Fin 4} {n : Nat} (hg : guardHolds s g = true) (hf : NoTrap s fl)
    (hb : body s = (raiseFlags s fl).bind fun s => .ok (useUnit (writeR s lat d v) u n)) :
    runPlain s opc g body =
      .next (if s.place = .cp then cpGives s d v fl else unitBusy (slotGives s lat d v fl) u n) := by
  rw [raiseFlags_ok hf] at hb
  rw [runPlain_ok hg hb]
  by_cases hp : s.place = .cp
  · have place : (writeR (s.withCp { s.core.cp with cflags := s.core.cp.cflags ||| fl.setWidth 64 }) lat d v).place = .cp := by
      rw [writeR_cp (by simpa using hp)]; simpa using hp
    simp only [hp, if_true, onCpPlace_of_cp hp, useUnit_cp place, raise_write_cp hp]
  · have place : (slotGives s lat d v fl).place ≠ .cp := by rwa [slotGives_place]
    simp only [hp, if_false, onCpPlace_of_slot hp, raise_write_slot hp, useUnit_slot place]
    rfl

section
variable {w : RForm} {s : State} {f : Int → Int → Int} {opc : BitVec 8}

theorem runPlain_divOp (hg : guardHolds s w.guard = true) (hb : intOf w.ty (opB s w (tyUnsigned w.ty)) ≠ 0)
    (hf : NoTrap s (overflows w.ty (f (intOf w.ty (readR s w.a)) (intOf w.ty (opB s w (tyUnsigned w.ty)))))) :
    let v := f (intOf w.ty (readR s w.a)) (intOf w.ty (opB s w (tyUnsigned w.ty)))
    runPlain s opc w.guard (divOp f w) = .next (if s.place = .cp
      then cpGives s w.d (narrowed w.ty (w.sat == 1) v) (overflows w.ty v)
      else unitBusy (slotGives s 36 w.d (narrowed w.ty (w.sat == 1) v) (overflows w.ty v)) 0 36) := by
  refine runPlain_gives_busy hg hf ?_
  have nonzero : (ival w.ty (opB s w (tyUnsigned w.ty)) == 0) = false := by rw [ival_eq_intOf]; exact beq_false_of_ne hb
  rw [divOp, nonzero, intOp_eq, giveInt_narrowed, raiseFlags_ok hf]
  rfl

theorem runPlain_divOp_zero (hg : guardHolds s w.guard = true) (hb : intOf w.ty (opB s w (tyUnsigned w.ty)) = 0) :
    runPlain s opc w.guard (divOp f w) = .next (stopWord s opc (.trap { cause := .intDivzero } s)) := by
  refine runPlain_error hg ?_
  rw [divOp, ival_eq_intOf, hb]
  rfl

end

/-- Settles O1: both words are one division body, which tests the divisor first and holds the divider last. -/
theorem divisionTruncatesAndZeroDivisorTraps : Obligations.DivisionTruncatesAndZeroDivisorTraps := by
  intro w s hg a b t busy after
  have divides {i : Instr} {opc : BitVec 8} {f : Int → Int → Int} (hi : exec i s = runPlain s opc w.guard (divOp f w))
      (hb : b ≠ 0) (hf : NoTrap s (overflows t (f a b))) : exec i s = .next (busy (after (f a b))) := by
    rw [hi, runPlain_divOp hg hb hf]
    by_cases hp : s.place = .cp <;> simp [busy, after, hp, a, b, t]
  exact ⟨divides (exec_div w s), divides (exec_rem w s), fun hb => (exec_div w s).trans (runPlain_divOp_zero hg hb),
    fun hb => (exec_rem w s).trans (runPlain_divOp_zero hg hb)⟩

end Sys2Proof.Numbers
end

section
namespace Sys2Proof.Numbers

open Sys2Proof.Machine Sys2Proof.Safety Sys2Proof.Claims

/-! ## The floating codings (R46, R154) -/

/-- What `codings` says of a format: its precision and width, the exponent of its least subnormal, and its special
magnitudes just above the largest finite one. -/
structure Coding (f : FFmt) (eb k top : ℕ) : Prop where
  precision : f.p = k + 1
  width : f.width = eb + k + 1
  least : f.qmin = 2 - 2 ^ (eb - 1) - k
  largest : f.maxMag = top
  fraction : 1 ≤ k
  normal : 2 ^ k ≤ top
  infinite : ∀ i, f.inf = some i → i = top + 1
  nan : f.inf = none → ∀ i, f.nan = some i → i = top + 1

theorem coding_of_mem {f : FFmt} {eb k top : ℕ} (h : (f, eb, k, top) ∈ codings) : Coding f eb k top := by
  simp only [codings, List.mem_cons, Prod.mk.injEq, List.not_mem_nil, or_false] at h
  rcases h with ⟨rfl, rfl, rfl, rfl⟩ | ⟨rfl, rfl, rfl, rfl⟩ | ⟨rfl, rfl, rfl, rfl⟩ | ⟨rfl, rfl, rfl, rfl⟩ |
    ⟨rfl, rfl, rfl, rfl⟩ | ⟨rfl, rfl, rfl, rfl⟩ | ⟨rfl, rfl, rfl, rfl⟩ | ⟨rfl, rfl, rfl, rfl⟩ | ⟨rfl, rfl, rfl, rfl⟩ <;>
  constructor <;> simp [fmtF64, fmtF32, fmtBF16, fmtF16, fmtE5M2, fmtE4M3, fmtE3M2, fmtE2M3, fmtE2M1]

/-- A coding has an infinity exactly when it is listed as one that has. -/
theorem inf_of_mem {f : FFmt} {eb k top : ℕ} (h : (f, eb, k, top) ∈ codings) :
    f.inf = if (f, eb, k, top) ∈ ieee then some (top + 1) else none := by
  revert h
  have all : ∀ c ∈ codings, c.1.inf = if c ∈ ieee then some (c.2.2.2 + 1) else none := by decide
  exact all (f, eb, k, top)

theorem inf_of_ieee {f : FFmt} {eb k top : ℕ} (h : (f, eb, k, top) ∈ codings) (hi : (f, eb, k, top) ∈ ieee) :
    f.inf = some (top + 1) := by
  rw [inf_of_mem h, if_pos hi]

theorem inf_of_not_ieee {f : FFmt} {eb k top : ℕ} (h : (f, eb, k, top) ∈ codings) (hi : (f, eb, k, top) ∉ ieee) :
    f.inf = none := by
  rw [inf_of_mem h, if_neg hi]

/-! ## Magnitudes -/

/-- The magnitude of the code `a` counted from the binade `x` above the least one: codes of one binade, its upper end
included, count in one unit. -/
theorem magnitude_add (eb k : ℕ) {a x : ℕ} (ha : a ≤ 2 ^ (k + 1)) (hx : x = 0 ∨ 2 ^ k ≤ a) :
    magnitude eb k (a + x * 2 ^ k) = a * 2 ^ (2 - 2 ^ (eb - 1) - k + x : ℤ) := by
  have pos : 0 < 2 ^ k := Nat.two_pow_pos k
  have top : 2 ^ (k + 1) = 2 * 2 ^ k := by ring
  have two : (2 : ℚ) ≠ 0 := by norm_num
  have unit (i : ℤ) : (2 : ℚ) ^ (i - k) = 2 ^ i / 2 ^ k := by rw [zpow_sub₀ two, zpow_natCast]
  have power : (2 : ℚ) ^ k ≠ 0 := by positivity
  rcases Nat.lt_or_ge a (2 ^ k) with small | large
  · obtain rfl : x = 0 := by omega
    have zero : (a + 0 * 2 ^ k) / 2 ^ k = 0 := by rw [Nat.zero_mul, Nat.add_zero, Nat.div_eq_of_lt small]
    rw [magnitude, if_pos zero, show (2 - 2 ^ (eb - 1) - k + (0 : ℕ) : ℤ) = 2 - 2 ^ (eb - 1) - k by simp, unit,
      show (1 - (2 ^ (eb - 1) - 1) : ℤ) = 2 - 2 ^ (eb - 1) by ring]
    push_cast
    ring
  · obtain ⟨r, rfl⟩ := Nat.exists_eq_add_of_le large
    rcases Nat.lt_or_ge r (2 ^ k) with inner | upper
    · have split : 2 ^ k + r + x * 2 ^ k = r + (x + 1) * 2 ^ k := by ring
      have quot : (2 ^ k + r + x * 2 ^ k) / 2 ^ k = x + 1 := by
        rw [split, Nat.add_mul_div_right _ _ pos, Nat.div_eq_of_lt inner, Nat.zero_add]
      have rem : (2 ^ k + r + x * 2 ^ k) % 2 ^ k = r := by rw [split, Nat.add_mul_mod_self_right, Nat.mod_eq_of_lt inner]
      rw [magnitude, if_neg (by omega), quot, rem,
        show (2 - 2 ^ (eb - 1) - k + x : ℤ) = (x + 1 : ℕ) - (2 ^ (eb - 1) - 1) - k by push_cast; ring, unit]
      push_cast
      field_simp
    · obtain rfl : r = 2 ^ k := by omega
      have split : 2 ^ k + 2 ^ k + x * 2 ^ k = (x + 2) * 2 ^ k := by ring
      rw [magnitude, split, Nat.mul_div_cancel _ pos, Nat.mul_mod_left, if_neg (by omega),
        show (2 - 2 ^ (eb - 1) - k + x : ℤ) = (x + 2 : ℕ) - (2 ^ (eb - 1) - 1) - 1 - k by push_cast; ring, unit,
        zpow_sub_one₀ two]
      push_cast
      field_simp
      ring

/-- The least subnormal. -/
theorem magnitude_one (eb : ℕ) (k : ℕ) : magnitude eb k 1 = 2 ^ (2 - 2 ^ (eb - 1) - k : ℤ) := by
  simpa using magnitude_add eb k (a := 1) (x := 0) Nat.one_le_two_pow (.inl rfl)

/-- The least normal value. -/
theorem magnitude_two_pow (eb k : ℕ) : magnitude eb k (2 ^ k) = 2 ^ (2 - 2 ^ (eb - 1) : ℤ) := by
  have := magnitude_add eb k (a := 2 ^ k) (x := 0) (Nat.pow_le_pow_right (by omega) (by omega)) (.inl rfl)
  simp only [Nat.zero_mul, Nat.cast_zero, add_zero] at this
  rw [this, Nat.cast_pow, Nat.cast_ofNat, ← zpow_natCast, ← zpow_add₀ two_ne_zero]
  congr 1
  ring

/-- Every code lies in a binade. -/
theorem exists_binade (k n : ℕ) : ∃ a x, n = a + x * 2 ^ k ∧ a < 2 ^ (k + 1) ∧ (x = 0 ∨ 2 ^ k ≤ a) := by
  have pos : 0 < 2 ^ k := Nat.two_pow_pos k
  have top : 2 ^ (k + 1) = 2 * 2 ^ k := by ring
  have div := Nat.div_add_mod n (2 ^ k)
  have rem := Nat.mod_lt n pos
  rcases Nat.eq_zero_or_pos (n / 2 ^ k) with h | h
  · exact ⟨n, 0, by simp, by rw [h] at div; omega, .inl rfl⟩
  · refine ⟨2 ^ k + n % 2 ^ k, n / 2 ^ k - 1, ?_, by omega, .inr (by omega)⟩
    obtain ⟨m, hm⟩ := Nat.exists_eq_add_of_le' h
    rw [hm] at div ⊢
    rw [Nat.add_sub_cancel]
    linarith [Nat.mul_add (2 ^ k) m 1, Nat.mul_comm (2 ^ k) m]

theorem magnitude_strictMono (eb k : ℕ) : StrictMono (magnitude eb k) := by
  refine strictMono_nat_of_lt_succ fun n => ?_
  obtain ⟨a, x, rfl, ha, hx⟩ := exists_binade k n
  rw [show a + x * 2 ^ k + 1 = a + 1 + x * 2 ^ k by ring, magnitude_add eb k ha.le hx,
    magnitude_add eb k (Nat.succ_le_of_lt ha) (hx.imp_right (Nat.le_succ_of_le))]
  have : (0 : ℚ) < 2 ^ (2 - 2 ^ (eb - 1) - k + x : ℤ) := by positivity
  gcongr
  exact_mod_cast Nat.lt_succ_self a

/-! ## What bits stand for -/

section
variable {f : FFmt} {eb k top : ℕ} (h : Coding f eb k top) (bits : ℕ)
include h

/-- The sign that the bits of a coding hold. -/
theorem Coding.decode_sign : (bits % 2 ^ f.width / 2 ^ (f.width - 1) == 1) = decide (bits / 2 ^ (eb + k) % 2 = 1) := by
  rw [h.width, Nat.add_sub_cancel, Nat.pow_succ, Nat.mod_mul_right_div_self]
  rfl

theorem Coding.decode_magnitude : bits % 2 ^ f.width % 2 ^ (f.width - 1) = bits % 2 ^ (eb + k) := by
  rw [h.width, Nat.add_sub_cancel, Nat.pow_succ, Nat.mod_mul_right_mod]

/-- The bits of a finite value: fraction and exponent field. -/
theorem Coding.decode_finite (ht : bits % 2 ^ (eb + k) ≤ top) :
    decodeFloat f bits =
      if bits % 2 ^ (eb + k) < 2 ^ k then
        .fin (decide (bits / 2 ^ (eb + k) % 2 = 1)) (bits % 2 ^ (eb + k)) f.qmin
      else .fin (decide (bits / 2 ^ (eb + k) % 2 = 1)) (bits % 2 ^ (eb + k) % 2 ^ k + 2 ^ k)
        (f.qmin + (bits % 2 ^ (eb + k) / 2 ^ k : ℕ) - 1) := by
  have small : bits % 2 ^ (eb + k) / 2 ^ k = 0 ↔ bits % 2 ^ (eb + k) < 2 ^ k := by
    rw [Nat.div_eq_zero_iff]; simp
  have inf := h.infinite
  have nan := h.nan
  simp only [decodeFloat, h.decode_sign, h.decode_magnitude, h.precision, Nat.add_sub_cancel]
  generalize bits % 2 ^ (eb + k) = n at *
  cases hi : f.inf with
  | some i =>
    obtain rfl := inf i hi
    have : (n == top + 1) = false := by simp; omega
    by_cases hn : n < 2 ^ k <;> simp [this, hn, small, Nat.mod_eq_of_lt, show ¬ n > top + 1 by omega]
  | none =>
    cases hj : f.nan with
    | some i =>
      obtain rfl := nan hi i hj
      have : (n == top + 1) = false := by simp; omega
      by_cases hn : n < 2 ^ k <;> simp [this, hn, small, Nat.mod_eq_of_lt]
    | none => by_cases hn : n < 2 ^ k <;> simp [hn, small, Nat.mod_eq_of_lt]

/-- Above the largest finite value of a coding with an infinity. -/
theorem Coding.decode_special (hi : f.inf = some (top + 1)) (ht : top < bits % 2 ^ (eb + k)) :
    decodeFloat f bits =
      if bits % 2 ^ (eb + k) = top + 1 then .inf (decide (bits / 2 ^ (eb + k) % 2 = 1))
      else .nan (!(bits % 2 ^ (eb + k)).testBit (k - 1)) := by
  simp only [decodeFloat, h.decode_sign, h.decode_magnitude, h.precision, hi]
  generalize bits % 2 ^ (eb + k) = n at *
  by_cases he : n = top + 1
  · simp [he]
  · simp [he, show n > top + 1 by omega]

/-- A finite code stands for its magnitude. -/
theorem Coding.exists_decode_eq_fin (ht : bits % 2 ^ (eb + k) ≤ top) :
    ∃ m e, decodeFloat f bits = .fin (decide (bits / 2 ^ (eb + k) % 2 = 1)) m e ∧
      (m : ℚ) * 2 ^ e = magnitude eb k (bits % 2 ^ (eb + k)) := by
  have pos : 0 < 2 ^ k := Nat.two_pow_pos k
  have double : 2 ^ (k + 1) = 2 * 2 ^ k := by ring
  rw [h.decode_finite bits ht, h.least]
  generalize bits % 2 ^ (eb + k) = n at *
  split
  · next small =>
    refine ⟨_, _, rfl, ?_⟩
    have := magnitude_add eb k (a := n) (x := 0) (by omega) (.inl rfl)
    simpa using this.symm
  · next large =>
    refine ⟨_, _, rfl, ?_⟩
    obtain ⟨x, hx⟩ : ∃ x, n / 2 ^ k = x + 1 := Nat.exists_eq_add_of_lt (Nat.div_pos (not_lt.1 large) pos) |>.imp
      fun x hx => by omega
    have code : n = n % 2 ^ k + 2 ^ k + x * 2 ^ k := by
      have := Nat.div_add_mod n (2 ^ k)
      rw [hx] at this
      linarith [Nat.mul_add (2 ^ k) x 1, Nat.mul_comm (2 ^ k) x]
    have rem := Nat.mod_lt n pos
    conv_rhs => rw [code]
    rw [magnitude_add eb k (by omega) (.inr (by omega)), hx]
    push_cast
    congr 2
    ring

end

theorem canonicalNaNs (q : Bool) : [fmtF64, fmtF32, fmtBF16, fmtF16, fmtE5M2, fmtE4M3].map (fun f => (narrow f 0 (.nan q)).1) =
    [0x7FF8000000000000, 0x7FC00000, 0x7FC0, 0x7E00, 0x7E, 0x7F] := rfl

theorem smallestMagnitudes : codings.map (fun c => (magnitude c.2.1 c.2.2.1 (2 ^ c.2.2.1), magnitude c.2.1 c.2.2.1 1)) =
    [(2 ^ (-1022 : ℤ), 2 ^ (-1074 : ℤ)), (2 ^ (-126 : ℤ), 2 ^ (-149 : ℤ)), (2 ^ (-126 : ℤ), 2 ^ (-133 : ℤ)),
      (2 ^ (-14 : ℤ), 2 ^ (-24 : ℤ)), (2 ^ (-14 : ℤ), 2 ^ (-16 : ℤ)), (2 ^ (-6 : ℤ), 2 ^ (-9 : ℤ)),
      (2 ^ (-2 : ℤ), 2 ^ (-4 : ℤ)), (1, 2 ^ (-3 : ℤ)), (1, 2 ^ (-1 : ℤ))] := by
  simp only [codings, List.map_cons, List.map_nil, magnitude_two_pow, magnitude_one]
  norm_num

theorem largestMagnitudes :
    (codings.drop 3).map (fun c => magnitude c.2.1 c.2.2.1 c.2.2.2) = [65504, 57344, 448, 28, 15 / 2, 6] := by
  norm_num [codings, magnitude]

/-- The one NaN of e4m3. -/
theorem decodeFloat_e4m3_nan {bits : ℕ} (h : bits % 128 = 0x7F) : decodeFloat fmtE4M3 bits = .nan false := by
  have hm : bits % 2 ^ fmtE4M3.width % 2 ^ (fmtE4M3.width - 1) = 0x7F :=
    (coding_of_mem (f := fmtE4M3) (eb := 4) (k := 3) (top := 0x7E) (by decide)).decode_magnitude bits |>.trans h
  simp only [decodeFloat, hm]
  rfl

/-- Settles O29: a coding's finite codes stand for their magnitudes, and those above for its infinity and its NaNs. -/
theorem floatingCodingsHaveTheirValues : Obligations.FloatingCodingsHaveTheirValues := by
  refine ⟨fun f eb k top bits hm => ?_, fun bits => decodeFloat_e4m3_nan, canonicalNaNs, smallestMagnitudes,
    largestMagnitudes⟩
  have h := coding_of_mem hm
  refine ⟨h.exists_decode_eq_fin bits, fun hi => ⟨fun ht => ?_, fun ht => ?_⟩⟩
  · rw [h.decode_special bits (inf_of_ieee hm hi) (by omega), if_pos ht]
  · rw [h.decode_special bits (inf_of_ieee hm hi) (by omega), if_neg (by omega)]

end Sys2Proof.Numbers
end

section
namespace Sys2Proof.Numbers

open Sys2Proof.Machine Sys2Proof.Safety Sys2Proof.Claims

/-! ## Rounding among rising values (R48) -/

section
variable {V W : ℕ → ℚ} {rm : ℕ} {neg : Bool} {q : ℚ} {c : ℕ}

/-- The mode takes one of the two values on the sides of `q`. -/
theorem roundsTo_neighbours (h : RoundsTo V rm neg q c) : ∃ n, V n ≤ q ∧ q < V (n + 1) ∧ n ≤ c ∧ c ≤ n + 1 := by
  obtain ⟨n, hl, hu, rfl⟩ := h
  refine ⟨n, hl, hu, ?_⟩
  rcases rm with _ | _ | _ | _ | rm <;> simp only <;> split_ifs <;> omega

theorem roundsTo_le_of_lt (hV : StrictMono V) (h : RoundsTo V rm neg q c) {b : ℕ} (hb : q < V b) : c ≤ b := by
  obtain ⟨n, hl, -, -, hc⟩ := roundsTo_neighbours h
  have := hV.lt_iff_lt.1 (hl.trans_lt hb)
  omega

theorem roundsTo_ge_of_le (hV : StrictMono V) (h : RoundsTo V rm neg q c) {a : ℕ} (ha : V a ≤ q) : a ≤ c := by
  obtain ⟨n, -, hu, hc, -⟩ := roundsTo_neighbours h
  have := hV.lt_iff_lt.1 (ha.trans_lt hu)
  omega

theorem roundsTo_unique (hV : StrictMono V) (h : RoundsTo V rm neg q c) {d : ℕ} (h' : RoundsTo V rm neg q d) : c = d := by
  obtain ⟨n, hl, hu, rfl⟩ := h
  obtain ⟨n', hl', hu', rfl⟩ := h'
  have := hV.lt_iff_lt.1 (hl.trans_lt hu')
  have := hV.lt_iff_lt.1 (hl'.trans_lt hu)
  rw [show n = n' by omega]

/-- Rounding commutes with a change of the unit and an even shift of the numbering. -/
theorem roundsTo_rescale (h : RoundsTo V rm neg q c) {s : ℕ} {t : ℚ} (hs : Even s) (ht : 0 < t)
    (hW : ∀ n, V n ≤ q → q < V (n + 1) → W (n + s) = V n * t ∧ W (n + 1 + s) = V (n + 1) * t) :
    RoundsTo W rm neg (q * t) (c + s) := by
  obtain ⟨n, hl, hu, rfl⟩ := h
  obtain ⟨low, high⟩ := hW n hl hu
  have next : n + s + 1 = n + 1 + s := by ring
  have parity : (n + s) % 2 = n % 2 := by obtain ⟨r, rfl⟩ := hs; omega
  have same : V n * t = q * t ↔ V n = q := mul_left_inj' ht.ne'
  have below : 2 * (q * t) < V n * t + V (n + 1) * t ↔ 2 * q < V n + V (n + 1) := by
    rw [← mul_assoc, ← add_mul, mul_lt_mul_iff_left₀ ht]
  have middle : 2 * (q * t) = V n * t + V (n + 1) * t ↔ 2 * q = V n + V (n + 1) := by
    rw [← mul_assoc, ← add_mul, mul_left_inj' ht.ne']
  refine ⟨n + s, by rw [low]; gcongr, by rw [next, high]; gcongr, ?_⟩
  rw [next, low, high]
  simp only [same, below, middle, parity]
  rcases rm with _ | _ | _ | _ | rm <;> simp only <;> split_ifs <;> omega

end

/-! ## The integer rounding of the model -/

/-- A number is what an integer and the mark that more follows stand for. -/
def Denotes (m : ℕ) (more : Bool) (y : ℚ) : Prop := if more then (m : ℚ) < y ∧ y < m + 1 else y = m

/-- What the remainder `r` of `d`, with the mark, says of the fraction `φ` that it stands for. -/
structure Remainder (r d : ℕ) (more : Bool) (φ : ℚ) : Prop where
  pos : 0 < d
  nonneg : 0 ≤ φ
  lt_one : φ < 1
  zero : φ = 0 ↔ r = 0 ∧ more = false
  below : φ < 1 / 2 ↔ 2 * r < d
  half : φ = 1 / 2 ↔ 2 * r = d ∧ more = false

theorem remainder_of_denotes {r d : ℕ} {more : Bool} {φ : ℚ} (hr : r < d) (he : more = true → Even d)
    (h : Denotes r more (φ * d)) : Remainder r d more φ := by
  have hd : (0 : ℚ) < d := by exact_mod_cast (Nat.zero_le r).trans_lt hr
  have hr' : (r : ℚ) + 1 ≤ d := by exact_mod_cast hr
  have half : φ < 1 / 2 ↔ 2 * (φ * d) < d := by
    rw [lt_div_iff₀ two_pos, ← mul_lt_mul_iff_left₀ hd]; ring_nf
  have half' : φ = 1 / 2 ↔ 2 * (φ * d) = d := by
    rw [eq_div_iff two_ne_zero, ← mul_left_inj' hd.ne']; ring_nf
  have lt_one : φ < 1 ↔ φ * d < d := by rw [← mul_lt_mul_iff_left₀ hd, one_mul]
  cases more with
  | false =>
    have h : φ * d = r := h
    have nonneg : 0 ≤ φ := nonneg_of_mul_nonneg_left (h ▸ Nat.cast_nonneg r) hd
    refine ⟨by omega, nonneg, lt_one.2 (by linarith), ?_, ?_, ?_⟩
    · rw [← mul_eq_zero_iff_right hd.ne', h]; simp
    · rw [half, h]; norm_cast
    · rw [half', h]; norm_cast; simp
  | true =>
    obtain ⟨hl, hu⟩ : (r : ℚ) < φ * d ∧ φ * d < r + 1 := h
    obtain ⟨e, rfl⟩ := he rfl
    have pos : 0 < φ := pos_of_mul_pos_left ((Nat.cast_nonneg r).trans_lt hl) hd.le
    refine ⟨by omega, pos.le, lt_one.2 (by linarith), by simp [pos.ne'], ?_, ?_⟩
    · rw [half]
      constructor
      · intro hlt
        have : (2 : ℚ) * r < (e + e : ℕ) := by linarith
        exact_mod_cast this
      · intro hlt
        have : (r : ℚ) + 1 ≤ e := by exact_mod_cast (show r + 1 ≤ e by omega)
        push_cast at hu ⊢
        linarith
    · rw [half']
      simp only [Bool.true_eq_false, and_false, iff_false]
      intro heq
      push_cast at heq hl hu
      have h1 : (r : ℚ) < e := by linarith
      have h2 : (e : ℚ) < r + 1 := by linarith
      norm_cast at h1 h2
      omega

/-- Increasing the truncated quotient, or not, is rounding in the mode. -/
theorem roundUp_roundsTo {rm : ℕ} {neg more : Bool} {n r d : ℕ} {y : ℚ} (h : Remainder r d more (y - n)) :
    RoundsTo (fun n => (n : ℚ)) rm neg y (n + (roundUp rm neg (n % 2 == 1) r d more).toNat) := by
  obtain ⟨pos, nonneg, lt_one, zero, below, half⟩ := h
  have zero : (n : ℚ) = y ↔ r = 0 ∧ more = false := by rw [← zero, sub_eq_zero, eq_comm]
  have below : 2 * y < n + (n + 1) ↔ 2 * r < d := by
    rw [← below]; constructor <;> intro <;> linarith
  have half : 2 * y = n + (n + 1) ↔ 2 * r = d ∧ more = false := by
    rw [← half]; constructor <;> intro <;> linarith
  refine ⟨n, by linarith, by push_cast; linarith, ?_⟩
  push_cast
  simp only [zero, below, half]
  rcases rm with _ | _ | _ | _ | rm <;> simp only [roundUp, zero_add, Nat.reduceAdd]
  · cases more <;> grind [Bool.toNat]
  · simp
  · cases more <;> cases neg <;> grind
  · cases more <;> cases neg <;> grind
  · cases more <;> grind

/-- The exact results are the integers. -/
theorem roundsTo_eq_iff {rm : ℕ} {neg : Bool} {y : ℚ} {c : ℕ} (h : RoundsTo (fun n => (n : ℚ)) rm neg y c) :
    (c : ℚ) = y ↔ ∃ n : ℕ, (n : ℚ) = y := by
  refine ⟨fun h => ⟨c, h⟩, fun ⟨m, hm⟩ => ?_⟩
  obtain ⟨n, hl, hu, rfl⟩ := h
  have : n = m := by
    dsimp only at hl hu
    rw [← hm] at hl hu
    norm_cast at hl hu
    omega
  rw [this, if_pos hm, hm]

theorem Remainder.eq_iff {n r d : ℕ} {more : Bool} {y : ℚ} (h : Remainder r d more (y - n)) :
    (∃ i : ℕ, (i : ℚ) = y) ↔ r = 0 ∧ more = false := by
  rw [← h.zero, sub_eq_zero]
  refine ⟨fun ⟨i, hi⟩ => ?_, fun h => ⟨n, h.symm⟩⟩
  have low : (n : ℚ) ≤ i := by linarith [h.nonneg]
  have high : (i : ℚ) < n + 1 := by linarith [h.lt_one]
  have : n = i := by norm_cast at low high; omega
  rw [this, hi]

/-- The quotient and the remainder that the model rounds. -/
theorem exists_remainder (rm : ℕ) (neg : Bool) {m : ℕ} {more : Bool} {sh : ℤ} {y : ℚ} (h : Denotes m more (y * 2 ^ sh))
    (hs : more = true → 1 ≤ sh) : ∃ n r d : ℕ, Remainder r d more (y - n) ∧
      roundShift rm neg m more sh = (n + (roundUp rm neg (n % 2 == 1) r d more).toNat, r != 0 || more) := by
  cases sh with
  | ofNat j =>
    refine ⟨m / 2 ^ j, m % 2 ^ j, 2 ^ j, remainder_of_denotes (Nat.mod_lt _ (Nat.two_pow_pos j)) (fun hm => ?_) ?_, rfl⟩
    · have := hs hm
      exact Nat.even_pow.2 ⟨even_two, by simp at this; omega⟩
    · have split : (m : ℚ) = (m / 2 ^ j : ℕ) * 2 ^ j + (m % 2 ^ j : ℕ) := by
        have := Nat.div_add_mod' m (2 ^ j)
        exact_mod_cast this.symm
      have h : Denotes m more (y * 2 ^ j) := by simpa using h
      unfold Denotes at h ⊢
      rw [Nat.cast_pow, Nat.cast_ofNat, sub_mul]
      cases more with
      | false => simp only [Bool.false_eq_true, if_false] at h ⊢; linarith
      | true => simp only [if_true] at h ⊢; constructor <;> linarith [h.1, h.2]
  | negSucc j =>
    obtain rfl : more = false := by
      by_contra hm
      have := hs (by simpa using hm)
      omega
    have h : y * 2 ^ (Int.negSucc j) = m := h
    rw [zpow_negSucc, ← div_eq_mul_inv, div_eq_iff (by positivity)] at h
    refine ⟨m * 2 ^ (j + 1), 0, 2, remainder_of_denotes two_pos (by simp) ?_, rfl⟩
    rw [h]
    simp [Denotes]

/-- The model's rounding of `m / 2^sh` rounds what `m` and its mark stand for, and tells whether it is exact. -/
theorem roundShift_roundsTo (rm : ℕ) (neg : Bool) {m : ℕ} {more : Bool} {sh : ℤ} {y : ℚ} (h : Denotes m more (y * 2 ^ sh))
    (hs : more = true → 1 ≤ sh) :
    RoundsTo (fun n => (n : ℚ)) rm neg y (roundShift rm neg m more sh).1 ∧
      ((roundShift rm neg m more sh).2 = false ↔ ((roundShift rm neg m more sh).1 : ℚ) = y) := by
  obtain ⟨n, r, d, hrem, heq⟩ := exists_remainder rm neg h hs
  have rounds := roundUp_roundsTo (rm := rm) (neg := neg) hrem
  rw [heq]
  refine ⟨rounds, ?_⟩
  rw [roundsTo_eq_iff rounds, hrem.eq_iff]
  simp

end Sys2Proof.Numbers
end

section
namespace Sys2Proof.Numbers

open Sys2Proof.Machine Sys2Proof.Safety Sys2Proof.Claims

/-! ## The bits of an integer -/

theorem bitLen_le_iff {m n : ℕ} : bitLen m ≤ n ↔ m < 2 ^ n := by
  rcases Nat.eq_zero_or_pos m with rfl | hm
  · simp [bitLen]
  · rw [bitLen, if_neg (by simpa using hm.ne'), Nat.succ_le_iff, Nat.log2_lt hm.ne']

theorem lt_two_pow_bitLen (m : ℕ) : m < 2 ^ bitLen m := bitLen_le_iff.1 le_rfl

theorem lt_bitLen_iff {m n : ℕ} : n < bitLen m ↔ 2 ^ n ≤ m := by
  rw [← not_le, bitLen_le_iff, not_lt]

/-- The bits of an integer of one binade, its upper end included. -/
theorem bitLen_of_binade {k n : ℕ} (low : 2 ^ k ≤ n) (high : n ≤ 2 ^ (k + 1)) :
    bitLen n = k + 1 + if n = 2 ^ (k + 1) then 1 else 0 := by
  split
  · next hn => exact le_antisymm (bitLen_le_iff.2 (by rw [hn]; gcongr <;> omega)) (lt_bitLen_iff.2 hn.ge)
  · exact le_antisymm (bitLen_le_iff.2 (by simp; omega)) (lt_bitLen_iff.2 low)

/-- Which codes of a binade `x` lie below the binade `j` counted from the least normal value. -/
theorem code_lt_iff {k n : ℕ} (low : 2 ^ k ≤ n) (high : n ≤ 2 ^ (k + 1)) (j x : ℕ) :
    n + x * 2 ^ k < (j + 1) * 2 ^ k ↔ x + (if n = 2 ^ (k + 1) then 1 else 0) < j := by
  have pos : 0 < 2 ^ k := Nat.two_pow_pos k
  have quot : n / 2 ^ k = 1 + if n = 2 ^ (k + 1) then 1 else 0 := by
    rw [Nat.pow_succ] at high ⊢
    split
    · next hn => rw [hn, Nat.mul_div_cancel_left _ pos]
    · exact Nat.div_eq_of_lt_le (by omega) (by omega)
  rw [← Nat.div_lt_iff_lt_mul pos, Nat.add_mul_div_right _ _ pos, quot]
  omega

/-! ## Rounding to a format (R48-R50) -/

/-- Rounding in the unit of a binade is rounding among the codes of the format. -/
theorem roundsTo_magnitude (eb : ℕ) {k rm : ℕ} {neg : Bool} {y : ℚ} {n x : ℕ} (hk : 1 ≤ k)
    (h : RoundsTo (fun n => (n : ℚ)) rm neg y n) (hy : y < 2 ^ (k + 1)) (hx : x = 0 ∨ 2 ^ k ≤ y) :
    RoundsTo (magnitude eb k) rm neg (y * 2 ^ (2 - 2 ^ (eb - 1) - k + x : ℤ)) (n + x * 2 ^ k) ∧
      (magnitude eb k (n + x * 2 ^ k) = y * 2 ^ (2 - 2 ^ (eb - 1) - k + x : ℤ) ↔ (n : ℚ) = y) := by
  have unit : (0 : ℚ) < 2 ^ (2 - 2 ^ (eb - 1) - k + x : ℤ) := by positivity
  have cast : StrictMono fun n : ℕ => (n : ℚ) := Nat.strictMono_cast
  have binade {i : ℕ} (hi : i ≤ 2 ^ (k + 1)) (hj : x = 0 ∨ 2 ^ k ≤ i) :
      magnitude eb k (i + x * 2 ^ k) = i * 2 ^ (2 - 2 ^ (eb - 1) - k + x : ℤ) := magnitude_add eb k hi hj
  constructor
  · refine roundsTo_rescale h ((Nat.even_pow.2 ⟨even_two, by omega⟩).mul_left x) unit fun i hl hu => ?_
    have high : i < 2 ^ (k + 1) := by exact_mod_cast hl.trans_lt hy
    have low : x = 0 ∨ 2 ^ k ≤ i := hx.imp_right fun hx => by
      have : (2 : ℚ) ^ k < (i + 1 : ℕ) := hx.trans_lt hu
      norm_cast at this
      omega
    exact ⟨binade high.le low, binade high (low.imp_right Nat.le_succ_of_le)⟩
  · have high : n ≤ 2 ^ (k + 1) := roundsTo_le_of_lt cast h (by exact_mod_cast hy)
    have low : x = 0 ∨ 2 ^ k ≤ n := hx.imp_right fun hx => roundsTo_ge_of_le cast h (by exact_mod_cast hx)
    rw [binade high low, mul_left_inj' unit.ne']

section
variable {f : FFmt} {eb k top m : ℕ} {more : Bool} {e : ℤ} {q : ℚ} (hd : Denotes m more (q / 2 ^ e))
  (hm : more = true → 2 ^ f.p ≤ m)
include hd hm

/-- What the model rounds in a unit `u` is the value in that unit. -/
theorem roundShift_unit (rm : ℕ) (neg : Bool) {u : ℤ} (hu : unitExp f (bitLen m) e ≤ u) :
    RoundsTo (fun n => (n : ℚ)) rm neg (q / 2 ^ u) (roundShift rm neg m more (u - e)).1 ∧
      ((roundShift rm neg m more (u - e)).2 = false ↔ ((roundShift rm neg m more (u - e)).1 : ℚ) = q / 2 ^ u) := by
  refine roundShift_roundsTo rm neg ?_ fun ht => ?_
  · rw [zpow_sub₀ two_ne_zero, div_mul_div_cancel₀ (by positivity)]
    exact hd
  · have := lt_bitLen_iff.2 (hm ht)
    rw [unitExp] at hu
    omega

variable (hq : 0 < q) (h : Coding f eb k top)
include hq h

/-- The unit in which a value is rounded without a lower end of the exponent: the value fills its binade. -/
theorem unitExp_binade :
    (2 : ℚ) ^ (unitExp f (bitLen m) e + k) ≤ q ∧ q < 2 ^ (unitExp f (bitLen m) e + (k + 1)) := by
  have scale (i : ℕ) : (2 : ℚ) ^ (e + i) = 2 ^ i * 2 ^ e := by rw [zpow_add₀ two_ne_zero, zpow_natCast, mul_comm]
  have unit : (0 : ℚ) < 2 ^ e := by positivity
  have low : (m : ℚ) ≤ q / 2 ^ e ∧ q / 2 ^ e < 2 ^ bitLen m := by
    have len : (m : ℚ) + 1 ≤ 2 ^ bitLen m := by exact_mod_cast lt_two_pow_bitLen m
    cases more with
    | false => exact ⟨hd.ge, by rw [show q / 2 ^ e = m from hd]; linarith⟩
    | true => exact ⟨hd.1.le, by linarith [hd.2]⟩
  have pos : 0 < bitLen m := by
    rw [lt_bitLen_iff, pow_zero, Nat.one_le_iff_ne_zero]
    rintro rfl
    cases more with
    | false => exact (div_pos hq unit).ne' (by simpa using (show q / 2 ^ e = ((0 : ℕ) : ℚ) from hd))
    | true => exact absurd (hm rfl) (by simp)
  obtain ⟨l, hl⟩ : ∃ l, bitLen m = l + 1 := Nat.exists_eq_add_of_lt pos |>.imp fun l hl => by omega
  have first : (2 : ℚ) ^ l ≤ m := by exact_mod_cast lt_bitLen_iff.1 (show l < bitLen m by omega)
  rw [unitExp, h.precision, show (e + bitLen m - (k + 1 : ℕ) + k : ℤ) = e + l by rw [hl]; push_cast; ring,
    show (e + bitLen m - (k + 1 : ℕ) + (k + 1) : ℤ) = e + bitLen m by push_cast; ring, scale, scale]
  rw [le_div_iff₀ unit] at low
  rw [div_lt_iff₀ unit] at low
  exact ⟨(mul_le_mul_of_nonneg_right first unit.le).trans low.1, low.2⟩

/-- The model's test for tininess (R49). -/
theorem isTiny_iff (rm : ℕ) (neg : Bool) : isTiny f rm neg m more e = true ↔ Tiny eb k rm neg q := by
  obtain ⟨low, high⟩ := unitExp_binade hd hm hq h
  obtain ⟨rounds, -⟩ := roundShift_unit hd hm rm neg le_rfl
  have cast : StrictMono fun n : ℕ => (n : ℚ) := Nat.strictMono_cast
  have least := h.least
  simp only [isTiny, decide_eq_true_eq, h.precision]
  generalize unitExp f (bitLen m) e = u at *
  generalize (roundShift rm neg m more (u - e)).1 = n at *
  have unit : (0 : ℚ) < 2 ^ u := by positivity
  have ylow : (2 : ℚ) ^ k ≤ q / 2 ^ u := by rwa [le_div_iff₀ unit, mul_comm, ← zpow_natCast, ← zpow_add₀ two_ne_zero]
  have yhigh : q / 2 ^ u < (2 : ℚ) ^ (k + 1) := by
    rwa [div_lt_iff₀ unit, mul_comm, ← zpow_natCast, ← zpow_add₀ two_ne_zero, Nat.cast_succ]
  have nlow : 2 ^ k ≤ n := roundsTo_ge_of_le cast rounds (by exact_mod_cast ylow)
  have nhigh : n ≤ 2 ^ (k + 1) := roundsTo_le_of_lt cast rounds (by exact_mod_cast yhigh)
  -- The value 2^j times as large is rounded in the same unit, whose code is `n` in the binade `x`.
  have shifted (j x : ℕ) (hx : u + j = f.qmin + x) : RoundsTo (magnitude eb k) rm neg (q * 2 ^ j) (n + x * 2 ^ k) := by
    have := (roundsTo_magnitude eb h.fraction rounds yhigh (x := x) (.inr ylow)).1
    rwa [← least, ← hx, zpow_add₀ two_ne_zero, ← mul_assoc, div_mul_cancel₀ _ unit.ne', zpow_natCast] at this
  have normal : magnitude eb k (2 ^ k) = 2 ^ (f.qmin + k) := by
    rw [magnitude_two_pow, least, sub_add_cancel]
  rw [bitLen_of_binade nlow nhigh]
  constructor
  · intro ht
    obtain ⟨j, hj⟩ : ∃ j : ℕ, u + j = f.qmin + (0 : ℕ) := ⟨(f.qmin - u).toNat, by split at ht <;> omega⟩
    refine ⟨j, n + 0 * 2 ^ k, ?_, shifted j 0 hj, (code_lt_iff nlow nhigh j 0).2 (by split at ht <;> split <;> omega)⟩
    rw [normal, show f.qmin + k = u + k + j by push_cast at hj; linarith, zpow_add₀ two_ne_zero, zpow_natCast]
    gcongr
  · rintro ⟨j, c, hj, hc, hcj⟩
    have reaches : f.qmin ≤ u + j := by
      rw [normal] at hj
      have : (2 : ℚ) ^ (f.qmin + k) < 2 ^ (u + (k + 1) + j) := by
        rw [zpow_add₀ two_ne_zero (u + (k + 1)), zpow_natCast]
        exact hj.trans_lt (by gcongr)
      have := (zpow_lt_zpow_iff_right₀ one_lt_two).1 this
      omega
    obtain ⟨x, hx⟩ : ∃ x : ℕ, u + j = f.qmin + x := ⟨(u + j - f.qmin).toNat, by omega⟩
    rw [roundsTo_unique (magnitude_strictMono eb k) hc (shifted j x hx), code_lt_iff nlow nhigh] at hcj
    split at hcj <;> split <;> omega

/-- The code that the model rounds to, in the larger of the binade's unit and the least one. -/
theorem roundTo_code {rm : ℕ} {neg : Bool} {c : ℕ} (hc : RoundsTo (magnitude eb k) rm neg q c) :
    let u := if unitExp f (bitLen m) e < f.qmin then f.qmin else unitExp f (bitLen m) e
    (roundShift rm neg m more (u - e)).1 + (u - f.qmin).toNat * 2 ^ k = c ∧
      (roundShift rm neg m more (u - e)).2 = !decide (magnitude eb k c = q) := by
  intro u
  obtain ⟨low, high⟩ := unitExp_binade hd hm hq h
  have least := h.least
  have hu : unitExp f (bitLen m) e ≤ u := by simp only [u]; split <;> omega
  obtain ⟨rounds, exact⟩ := roundShift_unit hd hm rm neg hu
  obtain ⟨x, hx⟩ : ∃ x : ℕ, u = f.qmin + x := ⟨(u - f.qmin).toNat, by simp only [u]; split <;> omega⟩
  have unit : (0 : ℚ) < 2 ^ u := by positivity
  have yhigh : q / 2 ^ u < (2 : ℚ) ^ (k + 1) := by
    rw [div_lt_iff₀ unit, ← zpow_natCast, ← zpow_add₀ two_ne_zero]
    exact high.trans_le (zpow_le_zpow_right₀ one_le_two (by push_cast; omega))
  have ylow : x = 0 ∨ (2 : ℚ) ^ k ≤ q / 2 ^ u := by
    by_cases hs : unitExp f (bitLen m) e < f.qmin
    · left; simp only [u, if_pos hs] at hx; omega
    · right
      rw [le_div_iff₀ unit, ← zpow_natCast, ← zpow_add₀ two_ne_zero, show u = unitExp f (bitLen m) e from if_neg hs, add_comm]
      exact low
  have codes := roundsTo_magnitude eb h.fraction rounds yhigh ylow
  rw [← least, ← hx, div_mul_cancel₀ _ unit.ne'] at codes
  rw [show (u - f.qmin).toNat = x by omega, roundsTo_unique (magnitude_strictMono eb k) hc codes.1]
  refine ⟨rfl, ?_⟩
  rw [Bool.eq_iff_iff, ← not_iff_not, Bool.not_eq_true, exact, ← codes.2]
  simp

/-- A nonzero value rounded to a format (R48-R50). -/
theorem roundTo_eq {rm : ℕ} (flush : Bool) {neg : Bool} {c : ℕ} (hc : RoundsTo (magnitude eb k) rm neg q c) :
    roundTo f rm flush neg m e more =
      if isTiny f rm neg m more e && flush then (signed f neg 0, flUF ||| flNX)
      else if top < c then (signed f neg (overflowMag f rm neg), flOF ||| flNX)
      else (signed f neg c, flagIf (!decide (magnitude eb k c = q)) flNX |||
        flagIf (isTiny f rm neg m more e && !decide (magnitude eb k c = q)) flUF) := by
  obtain ⟨code, inexact⟩ := roundTo_code hd hm hq h hc
  simp only [roundTo, h.precision, Nat.add_sub_cancel, code, inexact, h.largest, gt_iff_lt]

end

/-- A tiny value lies below the least normal one, so its code is not beyond the largest. -/
theorem code_le_of_tiny {f : FFmt} {eb k top rm : ℕ} {neg : Bool} {q : ℚ} {c : ℕ} (h : Coding f eb k top)
    (ht : Tiny eb k rm neg q) (hc : RoundsTo (magnitude eb k) rm neg q c) : c ≤ top := by
  have mono := magnitude_strictMono eb k
  refine (roundsTo_le_of_lt mono hc ?_).trans h.normal
  by_contra! normal
  obtain ⟨j, d, -, hd, hdj⟩ := ht
  have binade : magnitude eb k ((j + 1) * 2 ^ k) = magnitude eb k (2 ^ k) * 2 ^ j := by
    have := magnitude_add eb k (a := 2 ^ k) (x := j) (Nat.pow_le_pow_right (by omega) (by omega)) (.inr le_rfl)
    rw [show (j + 1) * 2 ^ k = 2 ^ k + j * 2 ^ k by ring, this, magnitude_two_pow, ← zpow_natCast, Nat.cast_pow,
      Nat.cast_ofNat, ← zpow_natCast, ← zpow_add₀ two_ne_zero, ← zpow_add₀ two_ne_zero]
    congr 1
    ring
  have : (j + 1) * 2 ^ k ≤ d := roundsTo_ge_of_le mono hd (by rw [binade]; gcongr)
  omega

theorem signed_eq {f : FFmt} {eb k top : ℕ} (h : Coding f eb k top) (neg : Bool) (mag : ℕ) :
    signed f neg mag = (if neg then 2 ^ (eb + k) else 0) + mag := by
  rw [signed, h.width, Nat.add_sub_cancel, Nat.add_comm]

/-- The overflow result of a format with an infinity (R48). -/
theorem overflowMag_of_inf {f : FFmt} {top : ℕ} (hi : f.inf = some (top + 1)) (hmax : f.maxMag = top) (rm : ℕ) (neg : Bool) :
    overflowMag f rm neg =
      if rm = 1 ∨ (rm = 2 ∧ neg = false) ∨ (rm = 3 ∧ neg = true) then top else top + 1 := by
  rcases rm with _ | _ | _ | _ | rm <;> cases neg <;> simp [overflowMag, hi, hmax]

theorem overflowMag_of_none {f : FFmt} (hi : f.inf = none) (rm : ℕ) (neg : Bool) : overflowMag f rm neg = f.maxMag := by
  simp only [overflowMag, hi]

/-- A value that stands for a magnitude is delivered by rounding it. -/
theorem deliver_of_stands {f : FFmt} {v : FVal} {neg : Bool} {q : ℚ} (hv : Stands f.p v neg q) :
    0 < q ∧ ∃ m more e, Denotes m more (q / 2 ^ e) ∧ (more = true → 2 ^ f.p ≤ m) ∧
      ∀ rm flush, deliver f rm flush v = roundTo f rm flush neg m e more := by
  obtain ⟨pos, m, e, ⟨rfl, rfl⟩ | ⟨rfl, big, low, high⟩⟩ := hv
  · refine ⟨pos, m, false, e, mul_div_cancel_right₀ _ (by positivity), by simp, fun rm flush => ?_⟩
    have : m ≠ 0 := by rintro rfl; simp at pos
    simp [deliver, this]
  · exact ⟨pos, m, true, e, ⟨by rwa [lt_div_iff₀ (by positivity)], by rwa [div_lt_iff₀ (by positivity)]⟩, fun _ => big,
      fun _ _ => rfl⟩

theorem resultsAreRoundedOnce : ResultsAreRoundedOnce := by
  intro f eb k top rm neg flush v q c hmem hv hc sg beyond exact
  have h := coding_of_mem hmem
  obtain ⟨hq, m, more, e, hd, hm, hdel⟩ := deliver_of_stands hv
  have tiny : Tiny eb k rm neg q → isTiny f rm neg m more e = true := (isTiny_iff hd hm hq h rm neg).2
  have notTiny (ht : ¬ Tiny eb k rm neg q) : isTiny f rm neg m more e = false :=
    Bool.eq_false_iff.2 fun hi => ht ((isTiny_iff hd hm hq h rm neg).1 hi)
  have beyondNotTiny (hct : top < c) : isTiny f rm neg m more e = false :=
    notTiny fun ht => hct.not_ge (code_le_of_tiny h ht hc)
  rw [hdel, roundTo_eq hd hm hq h flush hc]
  simp only [signed_eq h]
  refine ⟨fun hct he ht hf => ?_, fun hct he ht => ?_, fun hct he ht hf => ?_, fun hct he ht => ?_, fun ht hf => ?_,
    fun hct hi => ?_, fun hct hi => ?_⟩
  · simp [tiny ht, hf, not_lt.2 hct, show magnitude eb k c = q from he, flagIf, sg]
  · simp [notTiny ht, not_lt.2 hct, show magnitude eb k c = q from he, flagIf, sg]
  · simp [tiny ht, hf, not_lt.2 hct, show magnitude eb k c ≠ q from he, flagIf, sg, BitVec.or_comm]
  · simp [notTiny ht, not_lt.2 hct, show magnitude eb k c ≠ q from he, flagIf, sg]
  · simp [tiny ht, hf, sg]
  · simp [beyondNotTiny hct, hct, overflowMag_of_inf (inf_of_ieee hmem hi) h.largest, sg, beyond]
  · simp [beyondNotTiny hct, hct, overflowMag_of_none (inf_of_not_ieee hmem hi), h.largest, sg]

end Sys2Proof.Numbers
end

section
namespace Sys2Proof.Numbers

open Sys2Proof.Machine Sys2Proof.Safety Sys2Proof.Claims

/-! ## Infinities, NaNs and zeros as results (R47, R48, R158) -/

theorem specialResultsAreDelivered : SpecialResultsAreDelivered := by
  refine ⟨fun f eb k top rm neg flush e hmem => ?_, fun f rm flush b hf => ?_, fun rm b => ⟨rfl, rfl, rfl, rfl⟩,
    fun f rm v neg q hv => ?_⟩
  · have h := coding_of_mem hmem
    intro sg
    refine ⟨?_, ?_, fun hi => ?_, fun hi => ?_⟩
    · simp [deliver, signed_eq h, sg]
    · simp [narrow, deliver, signed_eq h, sg]
    · simp [narrow, deliver, signed_eq h, sg, inf_of_ieee hmem hi, Nat.add_assoc]
    · simp [narrow, signed_eq h, sg, inf_of_not_ieee hmem hi, h.largest]
  · simp only [List.mem_cons, List.not_mem_nil, or_false] at hf
    rcases hf with rfl | rfl | rfl | rfl | rfl <;> rfl
  · obtain ⟨-, m, e, ⟨rfl, -⟩ | ⟨rfl, -⟩⟩ := hv <;> rfl

/-! ## Finite values (R48, R54) -/

theorem val_fin (n : Bool) (m : ℕ) (e : ℤ) : val (.fin n m e) = sInt n m * 2 ^ e := by
  cases n <;> simp [val, sInt]

theorem val_fin_eq_zero {n : Bool} {m : ℕ} {e : ℤ} : val (.fin n m e) = 0 ↔ m = 0 := by
  cases n <;> simp [val, zpow_ne_zero e (two_ne_zero (α := ℚ))]

theorem val_fin_pos {n : Bool} {m : ℕ} {e : ℤ} : 0 < val (.fin n m e) ↔ m ≠ 0 ∧ n = false := by
  rw [val_fin, mul_pos_iff_of_pos_right (by positivity)]
  cases n <;> simp [sInt, Nat.pos_iff_ne_zero]

theorem val_fin_neg {n : Bool} {m : ℕ} {e : ℤ} : val (.fin n m e) < 0 ↔ m ≠ 0 ∧ n = true := by
  rw [val_fin, ← neg_pos, ← neg_mul, mul_pos_iff_of_pos_right (by positivity)]
  cases n <;> simp [sInt, Nat.pos_iff_ne_zero]

theorem abs_val_fin (n : Bool) (m : ℕ) (e : ℤ) : |val (.fin n m e)| = m * 2 ^ e := by
  cases n <;> simp [val, abs_mul, abs_of_nonneg]

theorem exists_fin_of_finite {v : FVal} (h : finite v = true) : ∃ n m e, v = .fin n m e := by
  cases v with
  | fin n m e => exact ⟨n, m, e, rfl⟩
  | nan | inf | near => simp [finite] at h

theorem exists_nan_of_isNaN {v : FVal} (h : v.isNaN = true) : ∃ s, v = .nan s := by
  cases v with
  | nan s => exact ⟨s, rfl⟩
  | fin | inf | near => simp [FVal.isNaN] at h

theorem sInt_scaleUp (n : Bool) (m : ℕ) {e e' : ℤ} (h : e' ≤ e) :
    (sInt n (scaleUp m e e') : ℚ) * 2 ^ e' = sInt n m * 2 ^ e := by
  have shift : (2 : ℚ) ^ e = 2 ^ (e - e').toNat * 2 ^ e' := by
    rw [← zpow_natCast, ← zpow_add₀ two_ne_zero]; congr 1; omega
  cases n <;> simp [sInt, scaleUp, shift] <;> ring

theorem finite_ofInt (x : ℤ) (e : ℤ) (z : Bool) : finite (ofInt x e z) = true := by
  unfold ofInt; split <;> rfl

theorem val_ofInt (x : ℤ) (e : ℤ) (z : Bool) : val (ofInt x e z) = x * 2 ^ e := by
  unfold ofInt
  split
  · next h => simp [val, show x = 0 by simpa using h]
  · rw [val_fin]
    congr 2
    rcases lt_or_ge x 0 with h | h
    · rw [sInt, if_pos (by simpa using h)]; omega
    · rw [sInt, if_neg (by simpa using h)]; omega

theorem sign_ofInt (x : ℤ) (e : ℤ) (z : Bool) : (ofInt x e z).sign = if x = 0 then z else decide (x < 0) := by
  unfold ofInt
  by_cases h : x = 0 <;> simp [h, FVal.sign]

theorem minExp_le (a b : ℤ) : minExp a b ≤ a ∧ minExp a b ≤ b := by
  unfold minExp; split <;> omega

/-- The exact sum of two finite values, and the sign of its zero. -/
theorem addV_fin (rm : ℕ) (a b : Bool) (m n : ℕ) (d e : ℤ) :
    let s := addV rm (.fin a m d) (.fin b n e)
    finite s = true ∧ val s = val (.fin a m d) + val (.fin b n e) ∧
      (val (.fin a m d) + val (.fin b n e) = 0 → s.sign = if a = b then a else rm == 2) := by
  obtain ⟨hd, he⟩ := minExp_le d e
  have sum : ((sInt a (scaleUp m d (minExp d e)) + sInt b (scaleUp n e (minExp d e)) : ℤ) : ℚ) * 2 ^ minExp d e =
      val (.fin a m d) + val (.fin b n e) := by
    rw [Int.cast_add, add_mul, sInt_scaleUp a m hd, sInt_scaleUp b n he, val_fin, val_fin]
  refine ⟨finite_ofInt _ _ _, (val_ofInt _ _ _).trans sum, fun hz => ?_⟩
  have zero : sInt a (scaleUp m d (minExp d e)) + sInt b (scaleUp n e (minExp d e)) = 0 := by
    rw [hz] at sum
    exact_mod_cast (mul_eq_zero.1 sum).resolve_right (zpow_ne_zero _ two_ne_zero)
  simp only [addV, sign_ofInt, zero, if_true]
  by_cases hab : a = b
  · subst hab
    have both : m = 0 ∧ n = 0 := by
      have hp (i : ℤ) : (0 : ℚ) < 2 ^ i := by positivity
      have hm : (0 : ℚ) ≤ m * 2 ^ d := mul_nonneg m.cast_nonneg (hp d).le
      have hn : (0 : ℚ) ≤ n * 2 ^ e := mul_nonneg n.cast_nonneg (hp e).le
      have : (m : ℚ) * 2 ^ d + n * 2 ^ e = 0 := by
        cases a <;> simp [val] at hz <;> linarith
      have hm0 : (m : ℚ) * 2 ^ d = 0 := by linarith
      have hn0 : (n : ℚ) * 2 ^ e = 0 := by linarith
      simpa [(hp d).ne', (hp e).ne'] using And.intro hm0 hn0
    simp [both]
  · simp [hab]

theorem mulV_fin (a b : Bool) (m n : ℕ) (d e : ℤ) :
    val (mulV (.fin a m d) (.fin b n e)) = val (.fin a m d) * val (.fin b n e) := by
  simp only [mulV, val_fin, zpow_add₀ (two_ne_zero (α := ℚ))]
  cases a <;> cases b <;> simp [sInt] <;> ring

theorem neg_fin (n : Bool) (m : ℕ) (e : ℤ) : val (FVal.neg (.fin n m e)) = -val (.fin n m e) := by
  cases n <;> simp [FVal.neg, val]

/-- A NaN operand makes a NaN, which raises NV when an operand does (R54). -/
theorem nan_operand (rm : ℕ) {a b : FVal} (h : a.isNaN = true ∨ b.isNaN = true) :
    addV rm a b = .nan (a.nv || b.nv) ∧ subV rm a b = .nan (a.nv || b.nv) ∧ mulV a b = .nan (a.nv || b.nv) := by
  rcases h with h | h
  · obtain ⟨s, rfl⟩ := exists_nan_of_isNaN h
    cases b <;> exact ⟨rfl, rfl, rfl⟩
  · obtain ⟨s, rfl⟩ := exists_nan_of_isNaN h
    cases a <;> simp [addV, subV, mulV, FVal.neg, FVal.nv]

/-- An infinity and a finite operand. -/
theorem inf_operand (rm : ℕ) (x : Bool) {b : FVal} (h : finite b = true) :
    addV rm (.inf x) b = .inf x ∧ addV rm b (.inf x) = .inf x ∧ subV rm (.inf x) b = .inf x ∧
      subV rm b (.inf x) = .inf (!x) ∧ (val b = 0 → mulV (.inf x) b = .nan true ∧ mulV b (.inf x) = .nan true) ∧
      (val b ≠ 0 → mulV (.inf x) b = .inf (x ^^ b.sign) ∧ mulV b (.inf x) = .inf (x ^^ b.sign)) := by
  obtain ⟨n, m, e, rfl⟩ := exists_fin_of_finite h
  refine ⟨rfl, rfl, rfl, rfl, fun hz => ?_, fun hz => ?_⟩
  · rw [val_fin_eq_zero] at hz
    simp [mulV, FVal.isZero, hz]
  · rw [Ne, val_fin_eq_zero] at hz
    simp [mulV, FVal.isZero, hz, FVal.sign, Bool.xor_comm]

/-- A code of the normal values decodes to no subnormal. -/
theorem decodeFloat_normal {f : FFmt} {eb k top : ℕ} (h : Coding f eb k top) {bits : ℕ} (hn : 2 ^ k ≤ bits % 2 ^ (eb + k))
    {s : Bool} {m : ℕ} {e : ℤ} (hd : decodeFloat f bits = .fin s m e) : 2 ^ k ≤ m := by
  have field : (bits % 2 ^ (eb + k) / 2 ^ k == 0) = false := by
    have := Nat.div_pos hn (Nat.two_pow_pos k)
    exact beq_false_of_ne this.ne'
  simp only [decodeFloat, h.decode_sign, h.decode_magnitude, h.precision, Nat.add_sub_cancel, field, Bool.false_eq_true,
    if_false] at hd
  grind

/-- Operands under FLUSH (R50). -/
theorem readFloat_flush {f : FFmt} {eb k top : ℕ} (h : Coding f eb k top) (bits : ℕ) :
    readFloat f false bits = decodeFloat f bits ∧
      (bits % 2 ^ (eb + k) < 2 ^ k → ∃ e, readFloat f true bits = .fin (decide (bits / 2 ^ (eb + k) % 2 = 1)) 0 e) ∧
      (2 ^ k ≤ bits % 2 ^ (eb + k) → readFloat f true bits = decodeFloat f bits) := by
  refine ⟨?_, fun hn => ⟨f.qmin, ?_⟩, fun hn => ?_⟩
  · cases hd : decodeFloat f bits <;> simp [readFloat, flushIn, hd]
  · rw [readFloat, h.decode_finite bits (hn.le.trans h.normal), if_pos hn]
    simp [flushIn, h.precision, hn]
  · cases hd : decodeFloat f bits with
    | fin s m e => simp [readFloat, flushIn, hd, h.precision, decodeFloat_normal h hn hd]
    | nan | inf | near => simp [readFloat, flushIn, hd]

theorem sumsAndProductsAreExact : SumsAndProductsAreExact := by
  intro rm a b zero
  refine ⟨nan_operand rm, fun ha hb => ?_, fun x y => ?_, fun x => inf_operand rm x,
    fun f eb k top bits hm => readFloat_flush (coding_of_mem hm) bits⟩
  · obtain ⟨x, m, d, rfl⟩ := exists_fin_of_finite ha
    obtain ⟨y, n, e, rfl⟩ := exists_fin_of_finite hb
    refine ⟨addV_fin rm x y m n d e, ?_, rfl, mulV_fin x y m n d e, by simp [mulV, FVal.sign]⟩
    have := addV_fin rm x (!y) m n d e
    rwa [show FVal.fin (!y) n e = FVal.neg (.fin y n e) from rfl, neg_fin, ← sub_eq_add_neg] at this
  · cases x <;> cases y <;> exact ⟨rfl, rfl, rfl⟩

end Sys2Proof.Numbers
end

section
namespace Sys2Proof.Numbers

open Sys2Proof.Machine Sys2Proof.Safety Sys2Proof.Claims

/-! ## The integer square root -/

theorem isqrtLoop_spec (n : ℕ) : ∀ k r : ℕ, r * r ≤ n → n < (r + 2 ^ k) * (r + 2 ^ k) →
    isqrtLoop n k r * isqrtLoop n k r ≤ n ∧ n < (isqrtLoop n k r + 1) * (isqrtLoop n k r + 1)
  | 0, _, hl, hu => ⟨hl, hu⟩
  | k + 1, r, hl, hu => by
    have double : r + 2 ^ (k + 1) = r + 2 ^ k + 2 ^ k := by ring
    rw [isqrtLoop]
    split
    · next hc => exact isqrtLoop_spec n k _ hc (double ▸ hu)
    · next hc => exact isqrtLoop_spec n k r hl (not_le.1 hc)

theorem isqrt_spec (n : ℕ) : isqrt n * isqrt n ≤ n ∧ n < (isqrt n + 1) * (isqrt n + 1) := by
  refine isqrtLoop_spec n _ 0 (Nat.zero_le n) ?_
  rw [Nat.zero_add, ← Nat.pow_add]
  exact bitLen_le_iff.1 (by omega)

theorem le_isqrt {n r : ℕ} (h : r * r ≤ n) : r ≤ isqrt n :=
  Nat.lt_succ_iff.1 (Nat.mul_self_lt_mul_self_iff.1 (h.trans_lt (isqrt_spec n).2))

/-! ## Quotients and roots (R54, R89, R181) -/

theorem magOf_pos {m : ℕ} (h : m ≠ 0) (e : ℤ) : 0 < magOf m e := by
  have : (0 : ℚ) < m := by exact_mod_cast Nat.pos_of_ne_zero h
  unfold magOf
  positivity

/-- A result found by an integer comparison `g r ≤ N < g (r + 1)`, exact when the first is an equality. -/
theorem rootOf_of_ratio {p r N : ℕ} {c : ℚ → ℚ} {neg : Bool} {g : ℕ → ℕ} {i : ℤ} (hN : 0 < N)
    (hc : ∀ j : ℕ, c (magOf j i) = (g j : ℚ) / N) (low : g r ≤ N) (high : N < g (r + 1)) (big : 2 ^ p ≤ r) :
    RootOf p c neg (if g r == N then .fin neg r i else .near neg r i) := by
  have pos : (0 : ℚ) < N := by exact_mod_cast hN
  by_cases h : g r = N
  · rw [if_pos (by simpa using h)]
    exact ⟨rfl, by rw [hc, h, div_self pos.ne']⟩
  · rw [if_neg (by simpa using h)]
    refine ⟨rfl, big, ?_, ?_⟩
    · rw [hc, div_lt_one pos]
      exact_mod_cast lt_of_le_of_ne low h
    · rw [hc, one_lt_div pos]
      exact_mod_cast high

theorem rootOf_divV (p : ℕ) (x y : Bool) {m n : ℕ} (d e : ℤ) (hm : m ≠ 0) (hn : n ≠ 0) :
    (divV p (.fin x m d) (.fin y n e)).2 = 0 ∧
      RootOf p (fun q => q * magOf n e / magOf m d) (x != y) (divV p (.fin x m d) (.fin y n e)).1 := by
  have hn' : 0 < n := Nat.pos_of_ne_zero hn
  let k := p + 3 + bitLen n
  have exact : (m * 2 ^ k % n == 0) = (m * 2 ^ k / n * n == m * 2 ^ k) := by
    rw [Bool.eq_iff_iff, beq_iff_eq, beq_iff_eq]
    have := Nat.div_add_mod' (m * 2 ^ k) n
    omega
  have eval : divV p (.fin x m d) (.fin y n e) = (if m * 2 ^ k / n * n == m * 2 ^ k
      then .fin (x != y) (m * 2 ^ k / n) (d - e - k) else .near (x != y) (m * 2 ^ k / n) (d - e - k), 0) := by
    simp [divV, hm, hn, k, ← exact]
  rw [eval]
  refine ⟨rfl, rootOf_of_ratio (g := fun j => j * n) (by positivity) (fun j => ?_) (Nat.div_mul_le_self _ _)
    ((Nat.div_lt_iff_lt_mul hn').1 (Nat.lt_succ_self _)) ?_⟩
  · have hm' : (m : ℚ) ≠ 0 := by exact_mod_cast hm
    simp only [magOf, zpow_sub₀ (two_ne_zero (α := ℚ)), zpow_natCast]
    push_cast
    field_simp
  · rw [Nat.le_div_iff_mul_le hn']
    calc 2 ^ p * n ≤ 2 ^ p * 2 ^ bitLen n := Nat.mul_le_mul_left _ (lt_two_pow_bitLen n).le
      _ = 2 ^ (p + bitLen n) := (Nat.pow_add 2 p _).symm
      _ ≤ 2 ^ k := Nat.pow_le_pow_right two_pos (by omega)
      _ ≤ m * 2 ^ k := Nat.le_mul_of_pos_left _ (Nat.pos_of_ne_zero hm)

/-- The parity that the model takes out of an exponent before halving it. -/
theorem exists_half (d : ℤ) : ∃ (h : ℤ) (odd : ℕ), (d % 2).toNat = odd ∧ odd ≤ 1 ∧ (d - odd) / 2 = h ∧ d = h + h + odd :=
  ⟨(d - (d % 2).toNat) / 2, (d % 2).toNat, rfl, by omega, rfl, by omega⟩

theorem rootOf_sqrtV (p : ℕ) {m : ℕ} (d : ℤ) (hm : m ≠ 0) :
    RootOf p (fun q => q ^ 2 / magOf m d) false (sqrtV p (.fin false m d)) := by
  obtain ⟨h, odd, parity, -, half, split⟩ := exists_half d
  have pos : 0 < m := Nat.pos_of_ne_zero hm
  have eval : sqrtV p (.fin false m d) =
      (let r := isqrt (m * 2 ^ (2 * (p + 4) + odd))
       if r * r == m * 2 ^ (2 * (p + 4) + odd) then .fin false r (h - (p + 4 : ℕ)) else .near false r (h - (p + 4 : ℕ))) := by
    simp [sqrtV, hm, parity, half]
  rw [eval]
  obtain ⟨low, high⟩ := isqrt_spec (m * 2 ^ (2 * (p + 4) + odd))
  refine rootOf_of_ratio (g := fun j => j * j) (by positivity) (fun j => ?_) low high (le_isqrt ?_)
  · have hm' : (m : ℚ) ≠ 0 := by exact_mod_cast hm
    simp only [magOf, split, zpow_sub₀ (two_ne_zero (α := ℚ)), zpow_add₀ (two_ne_zero (α := ℚ)), zpow_natCast]
    push_cast
    field_simp
    ring
  · calc 2 ^ p * 2 ^ p = 2 ^ (p + p) := (Nat.pow_add 2 p p).symm
      _ ≤ 2 ^ (2 * (p + 4) + odd) := Nat.pow_le_pow_right two_pos (by omega)
      _ ≤ m * 2 ^ (2 * (p + 4) + odd) := Nat.le_mul_of_pos_left _ pos

theorem rootOf_rsqrtV (p : ℕ) {m : ℕ} (d : ℤ) (hm : m ≠ 0) : (rsqrtV p (.fin false m d)).2 = 0 ∧
    RootOf p (fun q => q ^ 2 * magOf m d) false (rsqrtV p (.fin false m d)).1 := by
  obtain ⟨h, odd, parity, hodd, half, split⟩ := exists_half d
  let k := p + 4 + bitLen m
  have pos : 0 < m * 2 ^ odd := Nat.mul_pos (Nat.pos_of_ne_zero hm) (Nat.two_pow_pos odd)
  have eval : rsqrtV p (.fin false m d) =
      (let r := isqrt (2 ^ (2 * k) / (m * 2 ^ odd))
       if r * r * (m * 2 ^ odd) == 2 ^ (2 * k) then .fin false r (-h - k) else .near false r (-h - k), 0) := by
    simp [rsqrtV, hm, parity, half, k]
  rw [eval]
  obtain ⟨low, high⟩ := isqrt_spec (2 ^ (2 * k) / (m * 2 ^ odd))
  refine ⟨rfl, rootOf_of_ratio (g := fun j => j * j * (m * 2 ^ odd)) (by positivity) (fun j => ?_)
    ((Nat.le_div_iff_mul_le pos).1 low) ((Nat.div_lt_iff_lt_mul pos).1 high) (le_isqrt ?_)⟩
  · simp only [magOf, split, zpow_sub₀ (two_ne_zero (α := ℚ)), zpow_add₀ (two_ne_zero (α := ℚ)), zpow_natCast,
      zpow_neg]
    push_cast
    field_simp
    ring
  · rw [Nat.le_div_iff_mul_le pos]
    calc 2 ^ p * 2 ^ p * (m * 2 ^ odd) ≤ 2 ^ p * 2 ^ p * (2 ^ bitLen m * 2 ^ 1) := by
          gcongr
          · exact (lt_two_pow_bitLen m).le
          · exact one_le_two
      _ = 2 ^ (p + p + (bitLen m + 1)) := by simp only [Nat.pow_add]
      _ ≤ 2 ^ (2 * k) := Nat.pow_le_pow_right two_pos (by omega)

/-- R181: quotient, root and reciprocal root. -/
theorem quotientsAndRoots : QuotientsAndRoots := by
  intro p m n d e x y hm hn
  obtain ⟨divFlags, div⟩ := rootOf_divV p x y d e hm hn
  obtain ⟨rsqrtFlags, rsqrt⟩ := rootOf_rsqrtV p d hm
  exact ⟨divFlags, div, rootOf_sqrtV p d hm, rsqrtFlags, rsqrt, by simp [divV, hm], rfl, by simp [sqrtV, hm], rfl,
    by simp [rsqrtV, hm], rfl⟩

/-! ## Quotients and roots of finite values (R52, R54) -/

/-- A quotient found by its equation stands for the quotient. -/
theorem stands_of_rootOf {p : ℕ} {a b : ℚ} {neg : Bool} {v : FVal} (ha : 0 < a) (hb : 0 < b)
    (h : RootOf p (fun q => q * b / a) neg v) : Stands p v neg (a / b) := by
  refine ⟨div_pos ha hb, ?_⟩
  cases v with
  | fin n m e =>
    obtain ⟨rfl, exact⟩ := h
    exact ⟨m, e, .inl ⟨rfl, by rw [div_eq_one_iff_eq ha.ne'] at exact; rw [← exact, mul_div_cancel_right₀ _ hb.ne']; rfl⟩⟩
  | near n m e =>
    obtain ⟨rfl, big, low, high⟩ := h
    rw [div_lt_one ha, ← lt_div_iff₀ hb] at low
    rw [one_lt_div ha, ← div_lt_iff₀ hb] at high
    exact ⟨m, e, .inr ⟨rfl, big, low, by simpa [magOf] using high⟩⟩
  | nan | inf => exact h.elim

/-- Quotients of finite values. -/
theorem divV_finite (p : ℕ) {a b : FVal} (ha : finite a = true) (hb : finite b = true) :
    (val a ≠ 0 → val b ≠ 0 → (divV p a b).2 = 0 ∧ Stands p (divV p a b).1 (a.sign ^^ b.sign) |val a / val b|) ∧
      (val a = 0 → val b = 0 → divV p a b = (.nan true, 0)) ∧
      (val a ≠ 0 → val b = 0 → divV p a b = (.inf (a.sign ^^ b.sign), flDZ)) ∧
      (val a = 0 → val b ≠ 0 → ∃ i, divV p a b = (.fin (a.sign ^^ b.sign) 0 i, 0)) := by
  obtain ⟨x, m, d, rfl⟩ := exists_fin_of_finite ha
  obtain ⟨y, n, e, rfl⟩ := exists_fin_of_finite hb
  simp only [Ne, val_fin_eq_zero]
  refine ⟨fun hm hn => ?_, ?_, ?_, fun hm hn => ⟨0, ?_⟩⟩
  · obtain ⟨flags, root⟩ := rootOf_divV p x y d e hm hn
    refine ⟨flags, ?_⟩
    rw [abs_div, abs_val_fin, abs_val_fin]
    exact stands_of_rootOf (magOf_pos hm d) (magOf_pos hn e) root
  · rintro rfl rfl; simp [divV]
  · rintro hm rfl; simp [divV, hm, FVal.sign]
  · subst hm; simp [divV, hn, FVal.sign]

/-- Roots of finite values. -/
theorem sqrtV_finite (p : ℕ) {a : FVal} (ha : finite a = true) :
    (val a = 0 → ∃ i, sqrtV p a = .fin a.sign 0 i) ∧ (val a < 0 → sqrtV p a = .nan true) ∧
      (0 < val a → ∃ (m : ℕ) (i : ℤ), (sqrtV p a = .fin false m i ∧ ((m : ℚ) * 2 ^ i) ^ 2 = val a) ∨
        (sqrtV p a = .near false m i ∧ 2 ^ p ≤ m ∧ ((m : ℚ) * 2 ^ i) ^ 2 < val a ∧
          val a < (((m : ℚ) + 1) * 2 ^ i) ^ 2)) := by
  obtain ⟨x, m, d, rfl⟩ := exists_fin_of_finite ha
  refine ⟨fun hz => ⟨d, ?_⟩, fun hneg => ?_, fun hpos => ?_⟩
  · rw [val_fin_eq_zero] at hz
    subst hz
    rfl
  · obtain ⟨hm, rfl⟩ := val_fin_neg.1 hneg
    simp [sqrtV, hm]
  · obtain ⟨hm, rfl⟩ := val_fin_pos.1 hpos
    have value : val (.fin false m d) = magOf m d := by simp [val, magOf]
    have root := rootOf_sqrtV p d hm
    have pos := magOf_pos hm d
    rw [value]
    cases hv : sqrtV p (.fin false m d) with
    | fin n r i =>
      rw [hv] at root
      obtain ⟨rfl, exact⟩ := root
      exact ⟨r, i, .inl ⟨rfl, (div_eq_one_iff_eq pos.ne').1 exact⟩⟩
    | near n r i =>
      rw [hv] at root
      obtain ⟨rfl, big, low, high⟩ := root
      refine ⟨r, i, .inr ⟨rfl, big, (div_lt_one pos).1 low, ?_⟩⟩
      simpa [magOf] using (one_lt_div pos).1 high
    | nan s | inf s =>
      rw [hv] at root
      exact root.elim

theorem quotientsAndRootsStandForTheirValue : QuotientsAndRootsStandForTheirValue := by
  intro p a b x e z
  refine ⟨fun h => ?_, divV_finite p, fun s t => ⟨rfl, fun hb => ?_⟩, sqrtV_finite p, ⟨rfl, rfl, fun s => rfl⟩,
    finite_ofInt x e z, val_ofInt x e z, sign_ofInt x e z⟩
  · rcases h with h | h
    · obtain ⟨s, rfl⟩ := exists_nan_of_isNaN h
      cases b <;> rfl
    · obtain ⟨s, rfl⟩ := exists_nan_of_isNaN h
      cases a <;> simp [divV, FVal.nv]
  · obtain ⟨n, m, i, rfl⟩ := exists_fin_of_finite hb
    exact ⟨rfl, 0, rfl⟩

/-- Settles O32: rounding in a binade's unit is rounding among the codes, and every operation keeps its exact value, or
the interval of its quotient or root, for that one rounding. -/
theorem resultsRoundTheExactValueOnce : Obligations.ResultsRoundTheExactValueOnce :=
  ⟨resultsAreRoundedOnce, specialResultsAreDelivered, sumsAndProductsAreExact, quotientsAndRootsStandForTheirValue⟩

end Sys2Proof.Numbers
end

section
namespace Sys2Proof.Numbers

open Sys2Proof.Machine Sys2Proof.Safety Sys2Proof.Claims Sys2Proof.ControlProcessor

/-! ## Rounding to an integer (R48, R53) -/

/-- A signed number rounds as its magnitude does under its sign. -/
theorem roundedTo_eq_sInt {rm n : ℕ} {neg : Bool} {y : ℚ} (hy : 0 ≤ y) (h : RoundsTo (fun n => (n : ℚ)) rm neg y n) :
    roundedTo rm (if neg then -y else y) = sInt neg n := by
  obtain ⟨i, hl, hu, rfl⟩ := h
  push_cast at hl hu ⊢
  have floor : ⌊y⌋ = i := Int.floor_eq_iff.2 ⟨by exact_mod_cast hl, by exact_mod_cast hu⟩
  have nearest : ⌊y + 1 / 2⌋ = if 2 * y < i + (i + 1) then (i : ℤ) else i + 1 := by
    split <;> exact Int.floor_eq_iff.2 ⟨by push_cast; linarith, by push_cast; linarith⟩
  have negNearest : ⌈-y - 1 / 2⌉ = -⌊y + 1 / 2⌋ := by rw [← Int.ceil_neg]; congr 1; ring
  rcases hl.eq_or_lt with exact | inner
  · have ceil : ⌈y⌉ = i := by rw [← exact]; exact Int.ceil_natCast i
    have down : 2 * y < y + (y + 1) := by linarith
    have nonpos : 0 ≤ -y → ⌊-y + 1 / 2⌋ = -(i : ℤ) := fun h => by
      obtain rfl : y = 0 := by linarith
      rw [show i = 0 by exact_mod_cast exact]
      norm_num
    rcases rm with _ | _ | _ | _ | rm <;> cases neg <;>
      simp only [roundedTo, sInt, Bool.false_eq_true, if_true, if_false, Int.floor_neg, Int.ceil_neg, negNearest, floor, ceil,
        nearest, zero_add, Nat.reduceAdd, exact, down, Int.cast_natCast, Int.cast_neg, ite_self, sub_self, hy]
    · norm_num
    · norm_num
    · exact if_ctx_congr Iff.rfl nonpos (fun _ => rfl) |>.trans (ite_self _)
  · have ceil : ⌈y⌉ = i + 1 := Int.ceil_eq_iff.2 ⟨by push_cast; linarith, by push_cast; linarith⟩
    have notNeg : ¬ 0 ≤ -y := by linarith [(Nat.cast_nonneg i : (0 : ℚ) ≤ i)]
    rcases rm with _ | _ | _ | _ | rm <;> cases neg <;>
      simp only [roundedTo, sInt, Bool.false_eq_true, if_true, if_false, Int.floor_neg, Int.ceil_neg, negNearest, floor, ceil,
        nearest, zero_add, Nat.reduceAdd, inner.ne, Int.cast_natCast, Int.cast_neg, Int.cast_add, Int.cast_one, notNeg, hy]
    all_goals grind

/-- The model's rounding to an integer. -/
theorem roundInt_spec (rm : ℕ) (neg : Bool) (m : ℕ) (e : ℤ) :
    ∃ n : ℕ, (roundInt rm neg m e).1 = sInt neg n ∧ RoundsTo (fun n => (n : ℚ)) rm neg (m * 2 ^ e) n ∧
      ((roundInt rm neg m e).2 = false ↔ (n : ℚ) = m * 2 ^ e) := by
  cases e with
  | ofNat k =>
    have value : (m : ℚ) * 2 ^ Int.ofNat k = (m * 2 ^ k : ℕ) := by simp
    rw [value]
    exact ⟨m * 2 ^ k, rfl, ⟨m * 2 ^ k, le_rfl, by push_cast; linarith, (if_pos rfl).symm⟩, by simp [roundInt]⟩
  | negSucc k =>
    have whole : Denotes m false ((m : ℚ) * 2 ^ (Int.negSucc k) * 2 ^ (-Int.negSucc k)) := by
      change _ = _
      rw [mul_assoc, ← zpow_add₀ two_ne_zero, add_neg_cancel, zpow_zero, mul_one]
    obtain ⟨rounds, exact⟩ := roundShift_roundsTo rm neg whole (by simp)
    exact ⟨_, rfl, rounds, exact⟩

theorem sInt_cast (neg : Bool) (n : ℕ) : (sInt neg n : ℚ) = if neg then -(n : ℚ) else n := by
  cases neg <;> simp [sInt]

theorem val_fin_if (neg : Bool) (m : ℕ) (e : ℤ) :
    val (.fin neg m e) = if neg then -((m : ℚ) * 2 ^ e) else m * 2 ^ e := by
  rw [val_fin, sInt_cast]; cases neg <;> simp

theorem roundInt_eq_roundedTo (rm : ℕ) (neg : Bool) (m : ℕ) (e : ℤ) :
    (roundInt rm neg m e).1 = roundedTo rm (val (.fin neg m e)) ∧
      ((roundInt rm neg m e).2 = false ↔ ((roundInt rm neg m e).1 : ℚ) = val (.fin neg m e)) := by
  obtain ⟨n, hn, rounds, exact⟩ := roundInt_spec rm neg m e
  rw [val_fin_if, roundedTo_eq_sInt (by positivity) rounds, hn, exact, sInt_cast]
  refine ⟨rfl, ?_⟩
  cases neg <;> simp

/-! ## Conversions to an integer type (R53) -/

/-- A finite value converted: rounded, and clamped with NV alone. -/
theorem floatToInt_fin (t : BitVec 5) (rm : ℕ) (neg : Bool) (m : ℕ) (e : ℤ) :
    let z := roundedTo rm (val (.fin neg m e))
    floatToInt (tySigned t) (tyWidth t) rm (.fin neg m e) =
      if tyMax t < z then (tyMax t, flNV) else if z < tyMin t then (tyMin t, flNV)
      else (z, if (z : ℚ) = val (.fin neg m e) then 0 else flNX) := by
  intro z
  obtain ⟨value, exact⟩ := roundInt_eq_roundedTo rm neg m e
  rw [value] at exact
  have inexact : flagIf (roundInt rm neg m e).2 flNX = if (z : ℚ) = val (.fin neg m e) then 0 else flNX := by
    by_cases h : (z : ℚ) = val (.fin neg m e)
    · rw [if_pos h, exact.2 h]; rfl
    · rw [if_neg h, Bool.eq_true_of_not_eq_false (mt exact.1 h)]; rfl
  simp only [floatToInt, value, inexact, intHi_eq_tyMax, intLo_eq_tyMin, gt_iff_lt, z]

/-- `cvt` into an integer type delivers what the conversion gives, whatever SAT says. -/
theorem cvt_delivers {w : RForm} {s : State} (hg : guardHolds s w.guard = true)
    (hsrc : tyIsInt (w.fn.extractLsb' 0 5) = false) (hdst : tyIsInt w.ty = true) {x : ℤ} {fl : Flags}
    (hr : floatToInt (tySigned w.ty) (tyWidth w.ty) w.rm.toNat (fArg s (w.fn.extractLsb' 0 5) (readR s w.a).toNat) =
      (x, fl)) (hf : NoTrap s fl) : ∃ lat, Delivers (.cvt w) s lat w.d (BitVec.ofInt 64 x) fl := by
  have value : convert (scalarFlush s) (w.fn.extractLsb' 0 5) w.ty w.rm.toNat (w.sat == 1) (readR s w.a) =
      (BitVec.ofInt 64 x, fl) := by
    rw [fArg] at hr
    simp [convert, hsrc, hdst, hr, intWord]
  refine ⟨3, ?_⟩
  rw [Delivers, exec_cvt, execCvt]
  exact runPlain_gives hg hf (by rw [value]; rfl)

/-- Settles O30: the model's conversion is the rounding to an integer, clamped to the type. -/
theorem floatingToIntegerConversionsClamp : Obligations.FloatingToIntegerConversionsClamp := by
  intro w s hg src hsrc hdst v z gives
  have delivers {x : ℤ} {fl : Flags} (hr : floatToInt (tySigned w.ty) (tyWidth w.ty) w.rm.toNat v = (x, fl)) :
      gives x fl := cvt_delivers hg hsrc hdst hr
  refine ⟨fun hv => delivers ?_, fun hv => delivers ?_, fun hv => delivers ?_, fun hv => ?_⟩
  · rw [hv, ← intHi_eq_tyMax]; rfl
  · rw [hv, ← intLo_eq_tyMin]; rfl
  · obtain ⟨b, hb⟩ := exists_nan_of_isNaN hv
    rw [hb]; rfl
  · obtain ⟨n, m, e, hfin⟩ := exists_fin_of_finite hv
    have order := tyMin_le_tyMax w.ty
    have value := floatToInt_fin w.ty w.rm.toNat n m e
    rw [← hfin] at value
    exact ⟨fun hz => delivers (by rw [value, if_pos hz]), fun hz => delivers (by rw [value, if_neg (by omega), if_pos hz]),
      fun hl hu => delivers (by rw [value, if_neg (by omega), if_neg (by omega)])⟩

end Sys2Proof.Numbers
end

section
namespace Sys2Proof.Numbers

open Sys2Proof.Machine Sys2Proof.Safety Sys2Proof.ControlProcessor
open Sys2Proof.Claims hiding elemInt

/-! ## Words on lanes (R176, R178) -/

theorem lanesRaise_congr {nel : Nat} {on : Nat → Nat → Bool} {f g : Nat → Nat → Nat × Flags}
    (h : ∀ l j, (f l j).2 = (g l j).2) : lanesRaise nel on f = lanesRaise nel on g := by
  simp only [lanesRaise, h]

/-- Only the low bits of an element are written. -/
theorem givesElements_congr {i : Instr} {s : State} {lat : Nat} {d : BitVec 6} {n : Nat} {on : Nat → Nat → Bool}
    {f g : Nat → Nat → Nat × Flags} (hf : GivesElements i s lat d n on f)
    (h : ∀ l j, (f l j).1 % 2 ^ n = (g l j).1 % 2 ^ n ∧ (f l j).2 = (g l j).2) : GivesElements i s lat d n on g := by
  unfold GivesElements at hf ⊢
  rw [← lanesRaise_congr fun l j => (h l j).2]
  simpa only [(h _ _).1] using hf

theorem vElem_lt (v : VecReg) (n l j : Nat) : vElem v n l j < 2 ^ n := Nat.mod_lt _ (Nat.two_pow_pos n)

theorem vBLog_lt (s : State) (w : RForm) (l j : Nat) : vBLog s w l j < 2 ^ tyWidth w.ty := by
  unfold vBLog
  split
  · simpa [immElem] using Nat.mod_lt _ (Nat.two_pow_pos _)
  · exact vElem_lt _ _ _ _

theorem tyWidth_le (t : BitVec 5) : tyWidth t ≤ 64 := by
  unfold tyWidth; split <;> decide

/-- A masked word by its R-form word: `velem_gives` with the opcode read from the word. -/
theorem velem_givesMasked {i : Instr} {s : State} {opc : BitVec 8} {lat : Nat} {w : RForm}
    {f : State → Nat → Nat → Nat × Flags} (h : InSlot s w.guard) (he : exec i s = velem opc lat w s f)
    (hr : Instr.raw i = some (.r opc w)) : GivesMasked i s lat w (f s) :=
  velem_gives h he fun r hr' => by cases hr.symm.trans hr'; rfl

/-! ## Integer elements (R40-R42) -/

theorem elemInt_eq (w : RForm) (x : Nat) : elemInt w.ty x = Claims.elemInt w x := ival_eq_intOf _ _

theorem intBits_lt (n : Nat) (x : Int) : intBits n x < 2 ^ n := by
  have := Int.emod_lt_of_pos x (show (0 : Int) < (2 ^ n : Nat) by positivity)
  have := Int.emod_nonneg x (show ((2 ^ n : Nat) : Int) ≠ 0 by positivity)
  unfold intBits
  omega

theorem toNat_ofInt_eq (n : Nat) (x : Int) : (BitVec.ofInt n x).toNat = intBits n x := by
  rw [BitVec.toNat_ofInt]; rfl

/-- The low bits of an integer do not depend on how many more are kept. -/
theorem setWidth_ofInt {n m : Nat} (h : n ≤ m) (x : Int) : (BitVec.ofInt m x).setWidth n = BitVec.ofInt n x := by
  have dvd : ((2 ^ n : Nat) : Int) ∣ (2 ^ m : Nat) := by exact_mod_cast Nat.pow_dvd_pow 2 h
  have pos (i : Nat) : (0 : Int) ≤ x % (2 ^ i : Nat) := Int.emod_nonneg x (by positivity)
  apply BitVec.eq_of_toNat_eq
  rw [BitVec.toNat_setWidth, BitVec.toNat_ofInt, BitVec.toNat_ofInt]
  rw [← Int.natCast_inj, Int.natCast_emod, Int.toNat_of_nonneg (pos m), Int.toNat_of_nonneg (pos n),
    Int.emod_emod_of_dvd x dvd]

theorem ofInt_toNat_mod (x : Int) {n : Nat} (h : n ≤ 64) : (BitVec.ofInt 64 x).toNat % 2 ^ n = intBits n x := by
  rw [← BitVec.toNat_setWidth, setWidth_ofInt h, toNat_ofInt_eq]

/-- An integer element is the low bits of the narrowed exact result, and raises its flag. -/
theorem intElem_spec (t : BitVec 5) (sat : Bool) (x : Int) :
    (intElem t sat x).1 % 2 ^ tyWidth t = (narrowed t sat x).toNat % 2 ^ tyWidth t ∧
      (intElem t sat x).2 = overflows t x := by
  refine ⟨?_, intResultTy_flags t sat x⟩
  rw [← intWord_intResultTy, intWord, ofInt_toNat_mod _ (tyWidth_le t)]
  exact Nat.mod_eq_of_lt (intBits_lt _ _)

/-- Without SAT an integer result keeps the low bits of the exact one. -/
theorem narrowed_wraps (t : BitVec 5) (x : Int) : (narrowed t false x).toNat % 2 ^ tyWidth t = intBits (tyWidth t) x := by
  have width := tyWidth_le t
  rw [← BitVec.toNat_setWidth, ← toNat_ofInt_eq, narrowed, if_neg Bool.false_ne_true]
  split
  · rw [BitVec.signExtend, setWidth_ofInt width, BitVec.ofInt_toInt]
  · rw [BitVec.setWidth_setWidth_of_le _ width, BitVec.setWidth_eq]

/-- The bits of an element read as an integer. -/
theorem intBits_elemInt (t : BitVec 5) (x : Nat) : intBits (tyWidth t) (elemInt t x) = x % 2 ^ tyWidth t := by
  have width := tyWidth_le t
  rw [elemInt, ival_eq_intOf, ← toNat_ofInt_eq, intOf]
  have low : ((BitVec.ofNat 64 x).setWidth (tyWidth t)).toNat = x % 2 ^ tyWidth t := by
    rw [BitVec.setWidth_ofNat_of_le width, BitVec.toNat_ofNat]
  split
  · rw [BitVec.ofInt_toInt, low]
  · rw [BitVec.ofInt_natCast, BitVec.ofNat_toNat, BitVec.setWidth_eq, low]

/-- A minimum or maximum of integer elements is one of them, and raises nothing. -/
theorem minMaxElem_int {t : BitVec 5} (ht : tyIsInt t = true) (max num fz : Bool) (a b : Nat) :
    (minMaxElem max num t fz a b).2 = 0 ∧ elemInt t (minMaxElem max num t fz a b).1 =
      if max then Max.max (elemInt t a) (elemInt t b) else Min.min (elemInt t a) (elemInt t b) := by
  rw [minMaxElem, if_pos ht]
  refine ⟨rfl, ?_⟩
  by_cases hle : elemInt t a ≤ elemInt t b
  · cases max <;> simp [hle]
  · cases max <;> simp [hle, le_of_not_ge hle]

section
variable {w : RForm} {s : State} (h : InSlot s w.guard)
include h

/-- An integer word that delivers `intElem` of exact results. -/
theorem givesMasked_intElem {i : Instr} {opc : BitVec 8} {lat : Nat} {f : State → Nat → Nat → Nat × Flags}
    {x : Nat → Nat → Int} (he : exec i s = velem opc lat w s f) (hr : Instr.raw i = some (.r opc w))
    (hlat : lat = 2) (hx : ∀ l j, f s l j = intElem w.ty (w.sat == 1) (x l j)) :
    GivesMasked i s 2 w fun l j => ((narrowed w.ty (w.sat == 1) (x l j)).toNat, overflows w.ty (x l j)) := by
  subst hlat
  refine givesElements_congr (velem_givesMasked h he hr) fun l j => ?_
  rw [hx]
  exact intElem_spec w.ty (w.sat == 1) (x l j)

/-- A word that delivers elements of given integers without flags. -/
theorem givesPlain_integer {i : Instr} {opc : BitVec 8} {lat : Nat} {f : State → Nat → Nat → Nat × Flags}
    {x : Nat → Nat → Int} (he : exec i s = velem opc lat w s f) (hr : Instr.raw i = some (.r opc w))
    (hlat : lat = 2) (hx : ∀ l j, (f s l j).1 % 2 ^ tyWidth w.ty = intBits (tyWidth w.ty) (x l j) ∧ (f s l j).2 = 0) :
    GivesPlain i s 2 w fun l j => (narrowed w.ty false (x l j)).toNat := by
  subst hlat
  refine givesElements_congr (velem_givesMasked h he hr) fun l j => ?_
  rw [narrowed_wraps]
  exact hx l j

end

theorem integerVectorWordsNarrowEachElement : IntegerVectorWordsNarrowEachElement := by
  intro w s h ht a b c gives plain
  have latency : (if tyIsInt w.ty then 2 else 4) = 2 := if_pos ht
  have word {i : Instr} {opc : BitVec 8} {f : State → Nat → Nat → Nat × Flags} {x : Nat → Nat → Int}
      (he : exec i s = velem opc (if tyIsInt w.ty then 2 else 4) w s f) (hr : Instr.raw i = some (.r opc w))
      (hx : ∀ l j, f s l j = intElem w.ty (w.sat == 1) (x l j)) : gives i x := givesMasked_intElem h he hr latency hx
  have fused {i : Instr} {opc : BitVec 8} {f : State → Nat → Nat → Nat × Flags} (negP negC : Bool)
      (he : exec i s = velem opc (if tyIsInt w.ty then 2 else 4) w s f) (hr : Instr.raw i = some (.r opc w))
      (hx : f s = fun l j => fmaElem negP negC w (laneFz s l) (vA s w l j) (vB s w l j) (vC s w l j)) :
      gives i fun l j => (if negP then -(a l j * b l j) else a l j * b l j) + if negC then -(c l j) else c l j :=
    word he hr fun l j => by simp only [hx, fmaElem, ht, if_true, elemInt_eq, a, b, c]
  have minimum (l j : Nat) := minMaxElem_int ht false (vSub w == 1) (laneFz s l) (vA s w l j) (vB s w l j)
  have maximum (l j : Nat) := minMaxElem_int ht true (vSub w == 1) (laneFz s l) (vA s w l j) (vB s w l j)
  refine ⟨word (exec_vadd w s) rfl fun l j => ?_, word (exec_vsub w s) rfl fun l j => ?_,
    word (exec_vmul w s) rfl fun l j => ?_, fused false false (exec_vfma w s) rfl rfl, ?_,
    fused true false (exec_vfnma w s) rfl rfl, ?_,
    givesMasked_intElem h (exec_vabs w s) rfl rfl fun l j => ?_, givesMasked_intElem h (exec_vneg w s) rfl rfl fun l j => ?_,
    givesPlain_integer h (exec_vmulh w s) rfl rfl fun l j => ?_,
    givesPlain_integer h (exec_vmin w s) rfl latency fun l j => ⟨?_, (minimum l j).1⟩,
    givesPlain_integer h (exec_vmax w s) rfl latency fun l j => ⟨?_, (maximum l j).1⟩,
    givesPlain_integer h (exec_vclamp w s) rfl latency fun l j => ?_⟩
  · simp only [addElem, ht, if_true, Bool.false_eq_true, if_false, elemInt_eq, a, b]
  · simp only [addElem, ht, if_true, elemInt_eq, a, b]
  · simp only [ht, if_true, elemInt_eq, a, b]
  · simpa only [sub_eq_add_neg, Bool.false_eq_true, if_true, if_false] using fused false true (exec_vfms w s) rfl rfl
  · simpa only [sub_eq_add_neg, Bool.false_eq_true, if_true, if_false] using fused true true (exec_vfnms w s) rfl rfl
  · simp only [ht, if_true, elemInt_eq, Int.natCast_natAbs, a]
  · simp only [ht, if_true, elemInt_eq, a]
  · refine ⟨?_, rfl⟩
    simp only [plainElem, elemInt_eq, Nat.mod_eq_of_lt (intBits_lt _ _), a, b]
    push_cast
    rfl
  · rw [← intBits_elemInt, (minimum l j).2]; simp only [Bool.false_eq_true, if_false, elemInt_eq, a, b]
  · rw [← intBits_elemInt, (maximum l j).2]; simp only [if_true, elemInt_eq, a, b]
  · obtain ⟨maxFlags, maxValue⟩ := minMaxElem_int ht true false (laneFz s l) (vA s w l j) (vB s w l j)
    obtain ⟨minFlags, minValue⟩ := minMaxElem_int ht false false (laneFz s l)
      (minMaxElem true false w.ty (laneFz s l) (vA s w l j) (vB s w l j)).1 (vC s w l j)
    refine ⟨?_, ?_⟩
    · dsimp only
      rw [← intBits_elemInt, minValue, maxValue]; simp only [Bool.false_eq_true, if_true, if_false, elemInt_eq, a, b, c]
    · dsimp only
      rw [maxFlags, minFlags]; rfl

/-! ## Enabled lane flags (R113, R176, R406) -/

theorem not_int_of_float : ∀ t : BitVec 5, tyFloat t = true → tyIsInt t = false ∧ tyComplex t = false := by decide

/-- A masked word faults on the flags that its elements raise. -/
theorem velem_faults {i : Instr} {s : State} {opc : BitVec 8} {lat : Nat} {w : RForm}
    {f : State → Nat → Nat → Nat × Flags} {g : Nat → Nat → Nat × Flags} (h : InSlot s w.guard)
    (he : exec i s = velem opc lat w s f) (hr : Instr.raw i = some (.r opc w)) (hg : ∀ l j, (f s l j).2 = (g l j).2) :
    FaultsOnFlags i s (lanesRaise (tyNel w.ty) (vActive s w) g) := by
  rw [← lanesRaise_congr hg]
  exact (velem_givesMasked h he hr).1

theorem enabledLaneFlagsFaultTheSlot : EnabledLaneFlagsFaultTheSlot := by
  intro w s h ints flts a b c x y z
  refine ⟨fun ht => ⟨velem_faults h (exec_vadd w s) rfl fun l j => ?_, velem_faults h (exec_vsub w s) rfl fun l j => ?_,
    velem_faults h (exec_vmul w s) rfl fun l j => ?_, velem_faults h (exec_vfma w s) rfl fun l j => ?_,
    velem_faults h (exec_vabs w s) rfl fun l j => ?_, velem_faults h (exec_vneg w s) rfl fun l j => ?_⟩, fun ht => ?_⟩
  · simp only [addElem, ht, if_true, Bool.false_eq_true, if_false, elemInt_eq, (intElem_spec _ _ _).2, a, b]
  · simp only [addElem, ht, if_true, elemInt_eq, (intElem_spec _ _ _).2, a, b]
  · simp only [ht, if_true, elemInt_eq, (intElem_spec _ _ _).2, a, b]
  · simp only [fmaElem, ht, if_true, Bool.false_eq_true, if_false, elemInt_eq, (intElem_spec _ _ _).2, a, b, c]
  · simp only [ht, if_true, elemInt_eq, (intElem_spec _ _ _).2, Int.natCast_natAbs, a]
  · simp only [ht, if_true, elemInt_eq, (intElem_spec _ _ _).2, a]
  · obtain ⟨notInt, notComplex⟩ := not_int_of_float w.ty ht
    refine ⟨velem_faults h (exec_vadd w s) rfl fun l j => ?_, velem_faults h (exec_vsub w s) rfl fun l j => ?_,
      velem_faults h (exec_vmul w s) rfl fun l j => ?_, velem_faults h (exec_vfma w s) rfl fun l j => ?_,
      velem_faults h (exec_vfnSqrt w s) rfl fun l j => ?_⟩
    · simp only [addElem, notInt, notComplex, Bool.false_eq_true, if_false]; rfl
    · simp only [addElem, notInt, notComplex, Bool.false_eq_true, if_true, if_false]; rfl
    · simp only [notInt, Bool.false_eq_true, if_false]; rfl
    · simp only [fmaElem, notInt, Bool.false_eq_true, if_false]; rfl
    · exact BitVec.or_zero

/-- Settles O20: each integer element is `intresult` of its exact result, and a masked word faults on the flags that its
elements raise. -/
theorem integerVectorWordsNarrowOrFault : Obligations.IntegerVectorWordsNarrowOrFault :=
  ⟨integerVectorWordsNarrowEachElement, enabledLaneFlagsFaultTheSlot⟩

end Sys2Proof.Numbers
end

section
namespace Sys2Proof.Numbers

open Sys2Proof.Machine Sys2Proof.Safety Sys2Proof.ControlProcessor
open Sys2Proof.Claims hiding elemInt

/-! ## Special cases and exact values of the functions (R181) -/

/-- A special case is delivered in the rounding of the word, with its own flag. -/
theorem vfn_of_special {sub : Nat} {x y : FVal} {fl : Flags} (hs : 4 ≤ sub) (h : vfnSpecial sub x = some (y, fl)) (f : FFmt)
    (rm : Nat) (flush : Bool) (b : FVal) :
    vfn sub f rm flush x b = ((deliver f rm flush y).1, (deliver f rm flush y).2 ||| fl) := by
  obtain ⟨n, rfl⟩ := Nat.exists_eq_add_of_le' hs
  simp only [vfn, h]

theorem vfnSpecial_nan {sub : Nat} (nv : Bool) : vfnSpecial sub (.nan nv) = some (.nan nv, 0) := by
  unfold vfnSpecial
  split <;> simp_all

theorem isMultiple_self (m : Nat) (e : Int) : isMultiple m e e = true := by simp [isMultiple]

/-- An odd number of halves is no integer. -/
theorem isMultiple_half (m : Nat) : isMultiple (2 * m + 1) (-1) 0 = false := by
  simp [isMultiple]

theorem toFix_halves (m : Nat) : toFix 1 false (2 * m + 1) (-1) = 2 * m + 1 := by
  simp [toFix, roundShift, roundUp, sInt]

theorem toFix_integer (m : Nat) : toFix 0 false m 0 = m := by
  simp [toFix, roundShift, roundUp, sInt]

theorem bitLen_one : bitLen 1 = 1 := by decide

section
variable (neg : Bool) (m : Nat) (e : Int)

theorem vfnSpecial_exp_zero : vfnSpecial 4 (.fin neg 0 e) = some (.fin false 1 0, 0) := rfl

theorem vfnSpecial_exp2_integer (hm : m < 512) :
    vfnSpecial 5 (.fin neg m 0) = some (.fin false 1 (if neg then -(m : Int) else m), 0) := by
  have small : magAtLeast m 0 9 = false := by
    have : bitLen m ≤ 9 := bitLen_le_iff.2 hm
    simp [magAtLeast]; omega
  simp [vfnSpecial, small, isMultiple_self, roundInt, sInt]

theorem vfnSpecial_sinpi_half :
    vfnSpecial 10 (.fin neg (2 * m + 1) (-1)) = some (.fin (neg != (m % 2 == 1)) 1 0, 0) := by
  have quadrant : ((2 * m + 1 : Int) % 4 == 3) = (m % 2 == 1) := by
    rw [Bool.eq_iff_iff, beq_iff_eq, beq_iff_eq]; omega
  simp only [vfnSpecial, isMultiple_half, isMultiple_self, toFix_halves, quadrant]
  rfl

theorem vfnSpecial_cospi_half : vfnSpecial 11 (.fin neg (2 * m + 1) (-1)) = some (.fin false 0 0, 0) := by
  simp only [vfnSpecial, isMultiple_half, isMultiple_self]
  rfl

theorem vfnSpecial_cospi_integer : vfnSpecial 11 (.fin neg m 0) = some (.fin (m % 2 == 1) 1 0, 0) := by
  have parity : ((m : Int) % 2 == 1) = (m % 2 == 1) := by
    rw [Bool.eq_iff_iff, beq_iff_eq, beq_iff_eq]; omega
  simp only [vfnSpecial, isMultiple_self, toFix_integer, parity]
  rfl

theorem vfnSpecial_log2_power : vfnSpecial 7 (.fin false 1 e) = some (ofInt e 0 false, 0) := by
  simp [vfnSpecial, bitLen_one]

/-- The cases that `ln` and `log2` share. -/
theorem vfnSpecial_logarithms : ∀ n ∈ [6, 7], vfnSpecial n (.fin neg 0 e) = some (.inf true, flDZ) ∧
    vfnSpecial n (.inf true) = some (.nan true, 0) ∧ vfnSpecial n (.inf false) = some (.inf false, 0) ∧
    vfnSpecial n (.fin false 1 0) = some (.fin false 0 0, 0) ∧
    (m ≠ 0 → vfnSpecial n (.fin true m e) = some (.nan true, 0)) := by
  simp only [List.mem_cons, List.not_mem_nil, or_false, forall_eq_or_imp, forall_eq]
  exact ⟨⟨rfl, rfl, rfl, rfl, fun hm => by simp [vfnSpecial, hm]⟩, rfl, rfl, rfl, rfl, fun hm => by simp [vfnSpecial, hm]⟩

end

theorem functionsHaveTheirSpecialCases : FunctionsHaveTheirSpecialCases := by
  intro f rm flush neg m e _ zero one is odd
  have special {n : Nat} {x y : FVal} {fl : Flags} (hs : 4 ≤ n) (h : vfnSpecial n x = some (y, fl)) : is n x y fl :=
    vfn_of_special hs h f rm flush zero
  refine ⟨fun n hn _ => special hn (vfnSpecial_nan neg), special (by decide) rfl, special (by decide) rfl,
    special (by decide) (vfnSpecial_exp_zero neg e), special (by decide) rfl, special (by decide) rfl,
    fun hm => special (by decide) (vfnSpecial_exp2_integer neg m hm), fun n hn => ?_,
    special (by decide) (vfnSpecial_log2_power e), special (by decide) rfl, special (by decide) rfl, special (by decide) rfl,
    special (by decide) rfl, special (by decide) rfl, fun n hn => ?_, special (by decide) ?_,
    special (by decide) (vfnSpecial_sinpi_half neg m), special (by decide) (vfnSpecial_cospi_integer neg m),
    special (by decide) (vfnSpecial_cospi_half neg m)⟩
  · have hs : 4 ≤ n := by simp at hn; omega
    obtain ⟨atZero, atNegInf, atInf, atOne, atNeg⟩ := vfnSpecial_logarithms neg m e n hn
    exact ⟨special hs atZero, special hs atNegInf, special hs atInf, special hs atOne, fun hm => special hs (atNeg hm)⟩
  · simp only [List.mem_cons, List.not_mem_nil, or_false] at hn
    rcases hn with rfl | rfl <;> exact special (by decide) rfl
  · simp only [vfnSpecial, isMultiple_self]; rfl

/-- The enclosures decide each listed value, on either side and to the nearer number. -/
theorem functionsRoundTheirValue : FunctionsRoundTheirValue := by
  unfold FunctionsRoundTheirValue
  decide +kernel

/-- The functions of one operand do not look at the other. -/
theorem vfn_of_one_operand {sub : Nat} (hs : 4 ≤ sub) (f : FFmt) (rm : Nat) (flush : Bool) (a b c : FVal) :
    vfn sub f rm flush a b = vfn sub f rm flush a c := by
  obtain ⟨n, rfl⟩ := Nat.exists_eq_add_of_le' hs
  simp only [vfn]

theorem vectorFunctionsDeliverTheirFunction : VectorFunctionsDeliverTheirFunction := by
  refine ⟨quotientsAndRoots, functionsHaveTheirSpecialCases, functionsRoundTheirValue, fun w s h => ?_⟩
  intro f rm a b one gives fn
  have word {i : Instr} {sub : Nat} {y : State → Nat → Nat → Nat} {g : Nat → Nat → Nat × Flags}
      (he : exec i s = velem 0x48 12 w s fun s l j => fnElem sub w (laneFz s l) (vA s w l j) (y s l j))
      (hr : Instr.raw i = some (.r 0x48 w))
      (hg : ∀ l j, vfn sub f rm (laneFz s l) (a l j) (elemFlt s w l (y s l j)) = g l j) : GivesMasked i s 12 w g :=
    givesElements_congr (velem_givesMasked h he hr) fun l j => by rw [← hg]; exact ⟨rfl, rfl⟩
  have function {i : Instr} {n : Nat} (hn : 4 ≤ n)
      (he : exec i s = velem 0x48 12 w s fun s l j => fnElem n w (laneFz s l) (vA s w l j) 0)
      (hr : Instr.raw i = some (.r 0x48 w)) : fn i n := word he hr fun l j => vfn_of_one_operand hn _ _ _ _ _ _
  exact ⟨word (exec_vfnDiv w s) rfl fun _ _ => rfl, word (exec_vfnSqrt w s) rfl fun _ _ => rfl,
    word (exec_vfnRsqrt w s) rfl fun _ _ => rfl, word (exec_vfnRecip w s) rfl fun _ _ => rfl,
    function (by decide) (exec_vfnExp w s) rfl, function (by decide) (exec_vfnExp2 w s) rfl,
    function (by decide) (exec_vfnLog w s) rfl, function (by decide) (exec_vfnLog2 w s) rfl,
    function (by decide) (exec_vfnTanh w s) rfl, function (by decide) (exec_vfnLogistic w s) rfl,
    function (by decide) (exec_vfnSinpi w s) rfl, function (by decide) (exec_vfnCospi w s) rfl⟩

/-! ## Bit counts (R85, R182) -/

theorem popBits_eq (n x : Nat) : popBits n x = ((List.range n).filter x.testBit).length := by
  induction n generalizing x with
  | zero => rfl
  | succ n ih =>
    rw [popBits, ih, List.range_succ_eq_map, List.filter_cons, List.filter_map, Nat.testBit_zero]
    have tail : x.testBit ∘ Nat.succ = (x / 2).testBit := by funext i; simp [Nat.testBit_succ]
    rw [tail]
    rcases Nat.mod_two_eq_zero_or_one x with hx | hx <;> simp [hx, Nat.add_comm]

theorem ctzBits_eq (n x : Nat) : ctzBits n x = ((List.range n).takeWhile fun i => !x.testBit i).length := by
  induction n generalizing x with
  | zero => rfl
  | succ n ih =>
    rw [ctzBits, ih, List.range_succ_eq_map, List.takeWhile_cons, List.takeWhile_map, Nat.testBit_zero]
    have tail : (fun i => !x.testBit i) ∘ Nat.succ = fun i => !(x / 2).testBit i := by
      funext i; simp [Nat.testBit_succ]
    rw [tail]
    rcases Nat.mod_two_eq_zero_or_one x with hx | hx <;> simp [hx, Nat.add_comm]

theorem clzBits_eq {n x : Nat} (hx : x < 2 ^ n) :
    clzBits n x = ((List.range n).reverse.takeWhile fun i => !x.testBit i).length := by
  induction n with
  | zero => simp [clzBits]
  | succ n ih =>
    rw [List.range_succ, List.reverse_append, List.reverse_singleton, List.singleton_append, List.takeWhile_cons]
    rcases Nat.lt_or_ge x (2 ^ n) with low | high
    · have len : bitLen x ≤ n := bitLen_le_iff.2 low
      rw [Nat.testBit_lt_two_pow low]
      simp only [Bool.not_false, if_true, List.length_cons, ← ih low, clzBits]
      omega
    · have len : n < bitLen x := lt_bitLen_iff.2 high
      have bit : x.testBit n = true := by
        rw [Nat.pow_succ] at hx
        have quot : x / 2 ^ n = 1 := Nat.div_eq_of_lt_le (by omega) (by omega)
        rw [Nat.testBit_eq_decide_div_mod_eq, quot]
        rfl
      rw [bit]
      simp [clzBits]
      omega

/-- The bits of an element are those of its word. -/
theorem getLsbD_ofNat_of_mem {n x i : Nat} (h : i ∈ List.range n) : (BitVec.ofNat n x).getLsbD i = x.testBit i := by
  rw [BitVec.getLsbD_ofNat, decide_eq_true (List.mem_range.1 h), Bool.true_and]

theorem takeWhile_congr {α : Type} {p q : α → Bool} {l : List α} (h : ∀ x ∈ l, p x = q x) :
    l.takeWhile p = l.takeWhile q := by
  induction l with
  | nil => rfl
  | cons x l ih => simp [List.takeWhile_cons, h x, ih fun y hy => h y (by simp [hy])]

/-! ## Words on the bits of elements (R182) -/

theorem vectorBitWordsActOnEachElement : VectorBitWordsActOnEachElement := by
  intro w s h n a b sh gives count
  have word {i : Instr} {opc : BitVec 8} {y : State → Nat → Nat → Nat} {x : Nat → Nat → Nat}
      (he : exec i s = velem opc 2 w s fun s l j => plainElem (y s l j)) (hr : Instr.raw i = some (.r opc w))
      (hx : ∀ l j, y s l j = x l j) : GivesPlain i s 2 w x :=
    givesElements_congr (velem_givesMasked h he hr) fun l j => by rw [hx]; exact ⟨rfl, rfl⟩
  have low (l j : Nat) : vA s w l j < 2 ^ n := vElem_lt _ _ _ _
  have ha (l j : Nat) : (a l j).toNat = vA s w l j := (BitVec.toNat_ofNat _ _).trans (Nat.mod_eq_of_lt (low l j))
  have hb (l j : Nat) : (b l j).toNat = vBLog s w l j := (BitVec.toNat_ofNat _ _).trans (Nat.mod_eq_of_lt (vBLog_lt s w l j))
  have bit {l j i : Nat} (hi : i ∈ List.range n) : (a l j).getLsbD i = (vA s w l j).testBit i := getLsbD_ofNat_of_mem hi
  refine ⟨word (exec_vlogAnd w s) rfl fun l j => ?_, word (exec_vlogOr w s) rfl fun l j => ?_,
    word (exec_vlogXor w s) rfl fun l j => ?_, word (exec_vlogAndn w s) rfl fun l j => ?_,
    word (exec_vlogNot w s) rfl fun l j => ?_, word (exec_vshShl w s) rfl fun l j => ?_,
    word (exec_vshShr w s) rfl fun l j => ?_, word (exec_vshSra w s) rfl fun l j => ?_,
    word (exec_vbcntPop w s) rfl fun l j => ?_, word (exec_vbcntClz w s) rfl fun l j => ?_,
    word (exec_vbcntCtz w s) rfl fun l j => ?_⟩
  · rw [BitVec.toNat_and, ha, hb]
  · rw [BitVec.toNat_or, ha, hb]
  · rw [BitVec.toNat_xor, ha, hb]
  · rw [BitVec.toNat_and, BitVec.toNat_not, ha, hb]
  · rw [BitVec.toNat_not, ha]
  · rw [BitVec.toNat_shiftLeft, ha, Nat.shiftLeft_eq]
  · rw [BitVec.toNat_ushiftRight, ha, Nat.shiftRight_eq_div_pow]
  · have read : ivalW true n (BitVec.ofNat 64 (vA s w l j)) = (a l j).toInt := by
      rw [ivalW_signed (tyWidth_pos w.ty), BitVec.setWidth_ofNat_of_le (tyWidth_le w.ty)]
    dsimp only
    rw [BitVec.sshiftRight_eq, toNat_ofInt_eq, Int.shiftRight_eq_div_pow, ← read]
  · rw [popBits_eq, ← List.filter_congr fun i hi => bit hi]
  · rw [clzBits_eq (low l j), ← takeWhile_congr fun i hi => congrArg _ (bit (List.mem_reverse.1 hi))]
  · rw [ctzBits_eq, ← takeWhile_congr fun i hi => congrArg _ (bit hi)]

/-- Settles O18: `vfn` is the delivery of the quotient, root or function, and each bit word the word of `BitVec`. -/
theorem vectorFunctionsAndBitWords : Obligations.VectorFunctionsAndBitWords :=
  ⟨vectorFunctionsDeliverTheirFunction, vectorBitWordsActOnEachElement⟩

end Sys2Proof.Numbers
end

section
namespace Sys2Proof.Laws.Word

open Sys2Proof Sys2Proof.Machine

/-- The lemmas about single operations, one for each constructor in the order of `Instr`. -/
theorem statement_holds : ∀ i, Statement i :=
  @Instr.rec Statement
    add sub mul mulh div rem min max abs neg and or xor andn shl shr sra bcntPop bcntClz bcntCtz addi andi ori xori
    andni shli shri srai movi movh lea pcrel bfxZ bfxS bfxI cmp cmpi pand por pxor pandn porn pmovGet pmovPut sel
    fadd fsub fmul fdiv fsqrt fma fmin fmax fsgnCpy fsgnNeg fsgnXor fclass cvt br call jmp bcz loop ld st rdsys
    wrsys xchsys trapSw trapCall brk tret halt idle work vadd vsub vmul vmulh vfma vfms vfnma vfnms vmin vmax vabs
    vneg vclamp vsgnCpy vsgnNeg vsgnXor vrint vrintX vscale vfnDiv vfnSqrt vfnRsqrt vfnRecip vfnExp vfnExp2 vfnLog
    vfnLog2 vfnTanh vfnLogistic vfnSinpi vfnCospi vlogAnd vlogOr vlogXor vlogAndn vlogNot vshShl vshShr vshSra
    vbcntPop vbcntClz vbcntCtz vcmp vsel mlogAnd mlogOr mlogXor mlogAndn mlogNot mlogSet mlogClr mpopCnt mpopFirst
    vcvt vpack vunpack vpermIdx vpermRot vpermXor vbcastLane vbcastElem vshuf vred vscan vidx vidxElem vidxFlat
    vmovk vext vins vflagRd vflagWr vflagClr vcmul vcmulConj vcmulFma vcmulFmac vdot tfillAll tfillPart tfillGath
    tmmaMadd tmmaAdif tmmaCselmax tmmaCselmin tmmaCmad tmmaSeq tclr taccRd taccWr tnorm tstatAcc tstatLatch tcopy
    tqclr tmerge xfft xifft xtrn xtrnTurn xtrnBack xcvt xexp xsclS xsclU xmov xhdr lds sts ldq stq pref stz amoAdd
    amoAnd amoOr amoXor amoMin amoMax amoExch amoFadd redAdd redAnd redOr redXor redMin redMax redFadd cas join ldge
    fenceAcq fenceRel fenceAr fenceSc sread swrite sreadx swritex sbcast cvtaGal cvtaOwn cvtaCore cvtaOff inapGlob
    inapSrf inapGal inapLocal barArrive barWait barSync cacheIall cacheIline cacheDline cacheDall tlbiAll tlbiAsid
    tlbiPage tlbiRange sload sstore stileRd stileWr scopy scopyR scopyM sfill sfillR sfillM sgather sscadd srecv
    krun kwait kresume kresumeAbort swait swaitTest swaitAll barvArm barvArrive barvWait sdgetW0 sdgetW1 sdputW0
    sdputW1 sdrec snop takeTrap kernelBundleIssue fixedLatencyWrite landing landingDataArrival writeQueueAck
    lateFault tmmaPassComplete transformComplete kernelStart kernelEnd barrierArrivalCounted waitWatchdogExpiry
    thresholdTimeoutExpiry stealRequest stealReturn scoreboardIssue engineComplete gatePass gateWatchdogExpiry
    tileRequest launch grantGroup launchComplete barrierPacket codePacket unloadPacket signalPacket qwriteWrite
    qctlEnable preemptHold preemptRelease keyWrite keyEmpty keyQuery keyOpDone moduleStart startStepComplete
    registerWrite preemptRequest graceExpiry save saveWrite restore restoreGrant quiesce hsmaskWrite maskerrClear
    heartbeat heartbeatMissed takeoverAck refreshWindowExpiry poisonDetect writebackFailure selftest
    selftestComplete groupAbortExpiry bridgeFailure remoteRequest remoteTimeoutExpiry lrtEnable lrtDisable
    exchangeRoundBegin exchange exchangeFailure frameReceive ringBind counterClear prgResponse atsInvalidate
    lineCommit powerCapExceeded thermalHot thermalCrit hostLinkDown debugHalt kibryPortTrained kibryPortLost
end Sys2Proof.Laws.Word
end

section
/-! SUPPORT. Decoding inverts encoding (R56-R72). -/

namespace Sys2Proof.Encoding

open Sys2Proof.Machine

/-! ## The opcode of a word that passes its checks -/

/-- Check 2 of R72 comes first. -/
theorem opcLegal_of_check {e : Env} {i : Instr} {r : Raw} (hr : Instr.raw i = some r) (hc : Instr.check e i = none) :
    opcLegal r.opc e.place = true := by
  rw [Instr.check, hr] at hc
  by_contra h
  simp [Bool.eq_false_iff.2 h] at hc

/-- The all-zero word has no assigned opcode (R69, R70). -/
theorem ne_zero_of_assigned {w : Word} (h : opcAssigned (w.extractLsb' 56 8) = true) : w ≠ 0 := by
  rintro rfl
  exact absurd h (by decide)

/-- No stream opcode, 0xD0-0xDF, is legal in a slot (R70). -/
theorem high_ne_of_slot {o : BitVec 8} {pl : Place} (hs : pl ≠ .cp) (h : opcLegal o pl = true) :
    o.extractLsb' 4 4 ≠ 0xD := by
  intro hd
  have high : o.toNat / 16 % 16 = 13 := by simpa [Nat.shiftRight_eq_div_pow] using congrArg BitVec.toNat hd
  have range : 0xD0 ≤ o.toNat ∧ o.toNat ≤ 0xDF := by omega
  have stream : opcLegal o pl = (pl == .cp) := by
    simp only [opcLegal]
    repeat rw [if_neg (by omega)]
    rw [if_pos range.2]
  rw [stream] at h
  exact hs (by simpa using h)

/-! ## Decoding the word of an instruction -/

/-- A word that passes every check decodes to the instruction that its opcode and selectors name (R72). -/
theorem decodeWith_ok {f : Word → Option Instr} {e : Env} {w : Word} {i : Instr}
    (hg : w.extractLsb' 52 4 ≠ 8) (ha : opcAssigned (w.extractLsb' 56 8) = true)
    (hl : opcLegal (w.extractLsb' 56 8) e.place = true) (hf : f w = some i) (hc : Instr.check e i = none) :
    decodeWith f e w = .ok i := by
  simp only [decodeWith, beq_iff_eq, ne_zero_of_assigned ha, hg, ha, hl, hf, hc, Bool.not_true, Bool.false_eq_true, if_false]

theorem decode_encode {e : Env} {i : Instr} (h : WellFormed e i) :
    decodeWord e (encode i) = .ok i ∧ (e.place ≠ .cp → decodeSlot e (encode i) = .ok i) := by
  obtain ⟨hguard, hsel, hcheck⟩ := h
  cases hr : Instr.raw i with
  | none => simp [hr] at hguard
  | some r =>
    obtain ⟨opc, guard, assigned, reads⟩ := Laws.Word.statement_holds i r hr
    have word : encode i = r.toWord := by simp only [encode, hr]
    have hg : r.toWord.extractLsb' 52 4 ≠ 8 := by simpa [guard, hr] using hguard
    have ha : opcAssigned (r.toWord.extractLsb' 56 8) = true := by rwa [opc]
    have hl : opcLegal (r.toWord.extractLsb' 56 8) e.place = true := by rw [opc]; exact opcLegal_of_check hr hcheck
    rw [word]
    refine ⟨decodeWith_ok hg ha hl (reads hsel) hcheck, fun slot => decodeWith_ok hg ha hl ?_ hcheck⟩
    rw [← instrOf_plain _ (high_ne_of_slot slot hl), reads hsel]

/-- Settles O57: the word of each operation holds its opcode and fields, and only its own selectors pick it. -/
theorem decodingInvertsEncoding : Obligations.DecodingInvertsEncoding := fun _ _ h => decode_encode h

/-- The table's reading of a word takes the first place where its opcode is legal, with spectral mode accepted. -/
theorem decodeTableWord_encode {i : Instr} (h : WellFormed ⟨placeOf ((encode i).extractLsb' 56 8), 0, true⟩ i) :
    decodeTableWord 64 (encode i).toNat = some i := by
  have word : BitVec.ofNat 64 ((encode i).toNat % 2 ^ 64) = encode i := by
    rw [Nat.mod_eq_of_lt (encode i).isLt, BitVec.ofNat_toNat, BitVec.setWidth_eq]
  simp only [decodeTableWord, le_refl, if_true, word, (decode_encode h).1]

/-- Settles O56: each word is the encoding of its instruction, which passes every check in its place. -/
theorem writtenWordsDecodeToTheirInstruction : Obligations.WrittenWordsDecodeToTheirInstruction := by
  unfold Obligations.WrittenWordsDecodeToTheirInstruction
  intro reads
  have table {w : Word} {i : Instr} (he : encode i = w)
      (h : WellFormed ⟨placeOf ((encode i).extractLsb' 56 8), 0, true⟩ i) : reads w i :=
    he ▸ decodeTableWord_encode h
  refine ⟨table (by decide) (by decide), table (by decide) (by decide), table (by decide) (by decide),
    table (by decide) (by decide), table (by decide) (by decide), table (by decide) (by decide),
    table (by decide) (by decide), table (by decide) (by decide), ?_⟩
  exact (decode_encode (e := ⟨.s, 0, true⟩) (i := .barSync ⟨0, 0, 0, 2, 0⟩) (by decide)).2 (by decide)

end Sys2Proof.Encoding
end

section
/-! SUPPORT. Branch words on the CP and in the S slot (R93-R95, R124). -/

namespace Sys2Proof.Branches

open Sys2Proof.Machine Sys2Proof.Safety Sys2Proof.Claims
open Sys2Proof.ControlProcessor (getLsbD_ones readR_cp)

/-! ## Values that branch words read -/

/-- Zero-extension from `n` bits keeps the low bits of a word (R9). -/
theorem zextW_eq_extract {n : Nat} (h : n < 64) (x : Word) : zextW x n = (x.extractLsb' 0 n).setWidth 64 := by
  apply BitVec.eq_of_getLsbD_eq
  intro i hi
  rw [zextW, if_neg (by omega), BitVec.getLsbD_and, getLsbD_ones, BitVec.getLsbD_setWidth, BitVec.getLsbD_extractLsb']
  simp [hi, Bool.and_comm]

theorem kpcW_eq (s : State) : kpcW s = kpcOf s := by
  apply BitVec.eq_of_toNat_eq
  simp [kpcW, kpcOf, fld]

theorem bczHolds_iff (c : Nat) (x : Int) : bczHolds c x = true ↔ zeroTest c x := by
  unfold bczHolds zeroTest
  split <;> simp

theorem readR_slot {s : State} (h : s.place ≠ .cp) (f : BitVec 6) : readR s f = s.core.kern.readK (f.setWidth 5) := by
  simp [readR, onCpPlace_of_slot h, r5]

/-! ## Registers and target of each branch word (R93) -/

section
variable {s : State}

theorem exec_br_of_guard {j : JForm} (hg : guardHolds s j.guard = true) :
    exec (.br j) s = .next (endBranch s 0x2A (s, some (relTarget s (j.disp.signExtend 64)))) := by
  rw [exec_br, execBr, runBranch, if_pos hg]

theorem exec_call_of_guard {j : JForm} (hg : guardHolds s j.guard = true) :
    exec (.call j) s =
      .next (endBranch s 0x2A (writeR s 1 j.d (linkVal s), some (relTarget s (j.disp.signExtend 64)))) := by
  rw [exec_call, execCall, runBranch, if_pos hg]

theorem exec_jmp_of_guard {w : RForm} (hg : guardHolds s w.guard = true) :
    exec (.jmp w) s = .next (endBranch s 0x2B (writeR s 1 w.d (linkVal s), some (readR s w.a))) := by
  rw [exec_jmp, execJmp, runBranch, if_pos hg]

theorem exec_bcz_taken {v : IForm} (hg : guardHolds s v.guard = true) (ht : zeroTest v.fn.toNat (readR s v.a).toInt) :
    exec (.bcz v) s = .next (endBranch s 0x2C (s, some (relTarget s (v.imm.signExtend 64)))) := by
  rw [exec_bcz, execBcz, runBranch, if_pos hg, if_pos ((bczHolds_iff ..).2 ht)]

theorem exec_bcz_untaken {v : IForm} (hg : guardHolds s v.guard = true)
    (ht : ¬ zeroTest v.fn.toNat (readR s v.a).toInt) : exec (.bcz v) s = .next (endBranch s 0x2C (s, none)) := by
  rw [exec_bcz, execBcz, runBranch, if_pos hg, if_neg (mt (bczHolds_iff ..).1 ht)]

theorem exec_loop_taken {v : IForm} (hg : guardHolds s v.guard = true) (hn : readR s v.d - 1 ≠ 0) :
    exec (.loop v) s =
      .next (endBranch s 0x2D (writeR s 1 v.d (readR s v.d - 1), some (relTarget s (v.imm.signExtend 64)))) := by
  rw [exec_loop, execLoop, runBranch, if_pos hg]
  dsimp only
  rw [if_neg (by simpa using hn)]

theorem exec_loop_untaken {v : IForm} (hg : guardHolds s v.guard = true) (hn : readR s v.d - 1 = 0) :
    exec (.loop v) s = .next (endBranch s 0x2D (writeR s 1 v.d (readR s v.d - 1), none)) := by
  rw [exec_loop, execLoop, runBranch, if_pos hg]
  dsimp only
  rw [if_pos (by simpa using hn)]

end

/-! ## The end of a branch word (R94, R95, R124) -/

/-- A branch word on the CP that leaves the registers `c` goes to its target, or on when it has none (R93, R94). -/
theorem endBranch_cp {s : State} (h : s.place = .cp) (opc : BitVec 8) {c : CP} (hpc : c.pc = s.core.cp.pc)
    (t : Option Word) : endBranch s opc (s.withCp c, t) = cpGoes s c (t.getD (s.core.cp.pc + 8)) := by
  cases t <;> simp [endBranch, onCpPlace_of_cp h, cpGoes, advance, hpc]

/-- Two delay bundles issue before the target, or before KPC + 3 when there is none (R124). -/
theorem startDelay_eq (s : State) (t : Option Word) : startDelay s t = kernGoes s (t.getD (kpcOf s + 3)) := by
  cases t <;> simp [startDelay, kernGoes, Kern.setDelay, zextW_eq_extract, kpcW_eq]

/-- A target within the kernel store (R95). -/
theorem endBranch_slot_near {s : State} (h : s.place ≠ .cp) (opc : BitVec 8) (x : State) {t : Word} (ht : t.toNat < 1024) :
    endBranch s opc (x, some t) = kernGoes x t := by
  simp [endBranch, onCpPlace_of_slot h, ht, startDelay_eq]

/-- A target outside the kernel store faults (R95). -/
theorem endBranch_slot_far {s : State} (h : s.place ≠ .cp) (opc : BitVec 8) (x : State) {t : Word} (ht : 1024 ≤ t.toNat) :
    endBranch s opc (x, some t) = slotFault s { cause := .kstoreRange, detail := t.setWidth 32 } opc := by
  simp [endBranch, onCpPlace_of_slot h, Nat.not_lt.2 ht]

theorem endBranch_slot_untaken {s : State} (h : s.place ≠ .cp) (opc : BitVec 8) {x : State} (hk : kpcOf x = kpcOf s) :
    endBranch s opc (x, none) = kernGoes x (kpcOf s + 3) := by
  simp [endBranch, onCpPlace_of_slot h, startDelay_eq, hk]

/-! ## Branch words on the CP -/

theorem relTarget_cp {s : State} (h : s.place = .cp) (d : Word) : relTarget s d = s.core.cp.pc + d <<< 3 := by
  simp [relTarget, onCpPlace_of_cp h]

theorem linkVal_cp {s : State} (h : s.place = .cp) : linkVal s = s.core.cp.pc + 8 := by
  simp [linkVal, onCpPlace_of_cp h]

theorem branchesOnTheCp : BranchesOnTheCp := by
  intro j w v s h c next rel far count link
  have ends (opc : BitVec 8) {c' : CP} (hpc : c'.pc = c.pc) (t : Option Word) :
      Host.Outcome.next (endBranch s opc (s.withCp c', t)) = (.next (cpGoes s c' (t.getD next)) : Out) :=
    congrArg _ (endBranch_cp h opc hpc t)
  have written (d : BitVec 6) (x : Word) : (c.writeG (d.setWidth 5) x).pc = c.pc := CP.writeG_pc ..
  refine ⟨fun hg => ⟨?_, ?_⟩, fun hg => ?_, fun hg => ⟨fun taken => ?_, fun untaken => ?_, ?_⟩⟩
  · rw [exec_br_of_guard hg, relTarget_cp h]
    exact ends 0x2A rfl (some _)
  · rw [exec_call_of_guard hg, relTarget_cp h, linkVal_cp h, writeR_cp h]
    exact ends 0x2A (written ..) (some _)
  · rw [exec_jmp_of_guard hg, linkVal_cp h, writeR_cp h, readR_cp h]
    exact ends 0x2B (written ..) (some _)
  · rw [exec_bcz_taken hg (by rwa [readR_cp h]), relTarget_cp h]
    exact ends 0x2C rfl (some far)
  · rw [exec_bcz_untaken hg (by rwa [readR_cp h])]
    exact ends 0x2C rfl none
  · have hcount : readR s v.d - 1 = count := by rw [readR_cp h]
    by_cases h0 : count = 0
    · rw [if_pos h0, exec_loop_untaken hg (hcount.trans h0), hcount, writeR_cp h]
      exact ends 0x2D (written ..) none
    · rw [if_neg h0, exec_loop_taken hg (hcount ▸ h0), hcount, relTarget_cp h, writeR_cp h]
      exact ends 0x2D (written ..) (some far)

/-! ## Branch words in the S slot -/

theorem relTarget_slot {s : State} (h : s.place ≠ .cp) (d : Word) : relTarget s d = kpcOf s + d := by
  simp [relTarget, onCpPlace_of_slot h, kpcW_eq]

theorem linkVal_slot {s : State} (h : s.place ≠ .cp) : linkVal s = kpcOf s + 3 := by
  simp [linkVal, onCpPlace_of_slot h, kpcW_eq]

/-- A pending write of a register leaves KPC. -/
theorem kpcOf_writeR_slot {s : State} (h : s.place ≠ .cp) (lat : Nat) (d : BitVec 6) (x : Word) :
    kpcOf (writeR s lat d x) = kpcOf s := by
  rw [writeR_slot h]
  split <;> rfl

theorem branchesInTheSSlot : BranchesInTheSSlot := by
  intro j w v s hs k next link goes near far count
  have h : s.place ≠ .cp := by simp [hs]
  have ends {i : Instr} {opc : BitVec 8} {x : State} {t : Word} (hi : exec i s = .next (endBranch s opc (x, some t))) :
      goes i opc x t :=
    ⟨fun ht => by rw [hi, endBranch_slot_near h opc x ht], fun ht => by rw [hi, endBranch_slot_far h opc x ht]⟩
  have hcount : readR s v.d - 1 = count := by rw [readR_slot h]
  refine ⟨fun hg => ⟨ends ?_, ends ?_⟩, fun hg => ends ?_,
    fun hg => ⟨fun taken => ends ?_, fun untaken => ?_, fun more => ends ?_, fun last => ?_⟩⟩
  · rw [exec_br_of_guard hg, relTarget_slot h]
  · rw [exec_call_of_guard hg, relTarget_slot h, linkVal_slot h, writeR_slot h]
  · rw [exec_jmp_of_guard hg, linkVal_slot h, writeR_slot h, readR_slot h]
  · rw [exec_bcz_taken hg (by rwa [readR_slot h]), relTarget_slot h]
  · rw [exec_bcz_untaken hg (by rwa [readR_slot h]), endBranch_slot_untaken h _ rfl]
  · rw [exec_loop_taken hg (hcount ▸ more), hcount, relTarget_slot h, writeR_slot h]
  · rw [exec_loop_untaken hg (hcount.trans last), hcount, endBranch_slot_untaken h _ (kpcOf_writeR_slot h ..), writeR_slot h]

/-- Settles O10: a branch word is its link and its target, which the CP takes at once and the S slot after its delay
bundles. -/
theorem branchesGoToTheirTarget : Obligations.BranchesGoToTheirTarget :=
  ⟨branchesOnTheCp, branchesInTheSSlot⟩

end Sys2Proof.Branches
end

section
/-! SUPPORT. Logical and predicate words (R85, R86, R88). -/

namespace Sys2Proof.ScalarWords

open Sys2Proof.Machine Sys2Proof.Safety Sys2Proof.Claims
open Sys2Proof.ControlProcessor (getLsbD_setBit readR_cp)
open Sys2Proof.Numbers (popBits_eq clzBits_eq ctzBits_eq)
open Sys2Proof.Branches (readR_slot)

/-! ## Words that write one register or predicate -/

section
variable {i : Instr} {s : State} {opc : BitVec 8} {g : BitVec 4} {body : State → Body} {lat : Nat} {d : BitVec 6}
  {v : Word} {b : Bool} {fl : Flags}

/-- A word that raises flags, none of them enabled, and writes a register. -/
theorem delivers_of_raise (hg : guardHolds s g = true) (hf : NoTrap s fl) (hi : exec i s = runPlain s opc g body)
    (hb : body s = (raiseFlags s fl).bind fun s => .ok (writeR s lat d v)) : Delivers i s lat d v fl :=
  hi.trans (runPlain_gives hg hf hb)

/-- A word that writes a register and raises nothing. -/
theorem delivers_of_write (hg : guardHolds s g = true) (hi : exec i s = runPlain s opc g body)
    (hb : body s = .ok (writeR s lat d v)) : Delivers i s lat d v 0 :=
  hi.trans (runPlain_writes hg hb)

/-- A word that raises flags, none of them enabled, and writes a predicate. -/
theorem deliversPred_of_raise (hg : guardHolds s g = true) (hf : NoTrap s fl) (hi : exec i s = runPlain s opc g body)
    (hb : body s = (raiseFlags s fl).bind fun s => .ok (writeP s 1 (d.setWidth 3) b)) : DeliversPred i s d b fl := by
  rw [raiseFlags_ok hf] at hb
  rw [DeliversPred, hi, runPlain_ok hg hb]
  by_cases hp : s.place = .cp
  · simp only [hp, if_true, onCpPlace_of_cp hp]
    rw [writeP_cp (by simpa using hp)]
    rfl
  · simp only [hp, if_false, onCpPlace_of_slot hp]
    rw [writeP_slot (by simpa [slotRaises] using hp)]
    rfl

/-- A word that writes a predicate and raises nothing. -/
theorem deliversPred_of_write (hg : guardHolds s g = true) (hi : exec i s = runPlain s opc g body)
    (hb : body s = .ok (writeP s 1 (d.setWidth 3) b)) : DeliversPred i s d b 0 :=
  deliversPred_of_raise hg BitVec.zero_and hi (by rw [hb, raiseFlags_zero]; rfl)

end

/-! ## Logical words, shifts and bit counts (R85, R86) -/

theorem logicalWordsActOnSixtyFourBits : LogicalWordsActOnSixtyFourBits := by
  intro w v s
  refine ⟨fun hg => ?_, fun hg => ?_⟩
  · intro a b gives
    have word {i : Instr} {opc : BitVec 8} {f : Word → Word → Word}
        (hi : exec i s = runPlain s opc w.guard (logOp f w)) : gives i (f a b) := delivers_of_write hg hi rfl
    exact ⟨word (exec_and w s), word (exec_or w s), word (exec_xor w s), word (exec_andn w s), word (exec_shl w s),
      word (exec_shr w s), word (exec_sra w s)⟩
  · intro a b gives
    have word {i : Instr} {opc : BitVec 8} {f : Word → Word → Word}
        (hi : exec i s = runPlain s opc v.guard (logOpI f v)) : gives i (f a b) := delivers_of_write hg hi rfl
    exact ⟨word (exec_andi v s), word (exec_ori v s), word (exec_xori v s), word (exec_andni v s), word (exec_shli v s),
      word (exec_shri v s), word (exec_srai v s)⟩

theorem bitCountsCountBits : BitCountsCountBits := by
  intro w s hg a ones high low
  have count {i : Instr} {opc : BitVec 8} {f : Word → Nat} {n : Nat}
      (hi : exec i s = runPlain s opc w.guard (bitCount f w)) (hn : f a = n) :
      Delivers i s 1 w.d (BitVec.ofNat 64 n) 0 := delivers_of_write hg hi (by rw [← hn]; rfl)
  exact ⟨count (exec_bcntPop w s) (popBits_eq 64 a.toNat), count (exec_bcntClz w s) (clzBits_eq a.isLt),
    count (exec_bcntCtz w s) (ctzBits_eq 64 a.toNat)⟩

/-! ## Predicate words (R88) -/

theorem predicateWordsCombinePredicates : PredicateWordsCombinePredicates := by
  intro w s hg a b gives p
  have word {i : Instr} {opc : BitVec 8} {f : Bool → Bool → Bool}
      (hi : exec i s = runPlain s opc w.guard (predOp f w)) : gives i (f a b) := deliversPred_of_write hg hi rfl
  refine ⟨word (exec_pand w s), word (exec_por w s), word (exec_pxor w s), word (exec_pandn w s), word (exec_porn w s),
    delivers_of_write hg (exec_pmovGet w s) ?_, delivers_of_write hg (exec_sel w s) rfl⟩
  simp only [onCpPlace_iff, p]

/-- A predicate read after a write; p0 reads 1 (R12). -/
theorem readPred_writePred (p : BitVec 8) (r q : BitVec 3) (v : Bool) (hr : r ≠ 0) :
    readPred (writePred p r v) q = if q = r then v else readPred p q := by
  have hr0 : (r == 0) = false := beq_eq_false_iff_ne.2 hr
  have written : writePred p r v = setBit p r.toNat v := by rw [writePred, hr0]; rfl
  rw [readPred, readPred, written, getLsbD_setBit]
  by_cases h : q = r
  · rw [if_pos h, h, hr0, if_pos ⟨rfl, by omega⟩, Bool.false_or]
  · rw [if_neg h, if_neg fun e => h (BitVec.eq_of_toNat_eq e.1)]

/-- The predicates p1 to p7 are not p0. -/
theorem ofNat_succ_ne_zero {i : Nat} (h : i < 7) : BitVec.ofNat 3 (i + 1) ≠ 0 := by
  intro e
  have := congrArg BitVec.toNat e
  rw [BitVec.toNat_ofNat, Nat.mod_eq_of_lt (by omega)] at this
  exact absurd this (Nat.succ_ne_zero i)

/-- Several predicate writes of the CP are one change of its predicates (R20). -/
theorem foldl_writeP_cp (r : Nat → BitVec 3) (v : Nat → Bool) :
    ∀ (l : List Nat) {s : State}, s.place = .cp → l.foldl (fun s i => writeP s 1 (r i) (v i)) s =
      s.withCp { s.core.cp with p := l.foldl (fun p i => writePred p (r i) (v i)) s.core.cp.p }
  | [], _, _ => rfl
  | i :: l, s, h => by
    rw [List.foldl_cons, writeP_cp h, foldl_writeP_cp r v l (by simpa using h)]
    rfl

/-- Each predicate write of a slot is a pending one (R119). -/
theorem foldl_writeP_slot (r : Nat → BitVec 3) (v : Nat → Bool) :
    ∀ (l : List Nat) {s : State}, (∀ i ∈ l, r i ≠ 0) → s.place ≠ .cp →
      l.foldl (fun s i => writeP s 1 (r i) (v i)) s = l.foldl (fun s i => slotWrites s 1 (.p (r i) (v i))) s
  | [], _, _, _ => rfl
  | i :: l, s, hr, h => by
    rw [List.foldl_cons, List.foldl_cons, writeP_slot h, if_neg (hr i (by simp))]
    exact foldl_writeP_slot r v l (fun j hj => hr j (by simp [hj])) h

/-- The predicates p1 to pn after their writes. -/
theorem readPred_foldl_writePred (v : Nat → Bool) (p : BitVec 8) (q : BitVec 3) (hq : q ≠ 0) {n : Nat} (hn : n ≤ 7) :
    readPred ((List.range n).foldl (fun p i => writePred p (BitVec.ofNat 3 (i + 1)) (v (i + 1))) p) q =
      if q.toNat ≤ n then v q.toNat else readPred p q := by
  induction n with
  | zero => rw [if_neg fun h => hq (BitVec.eq_of_toNat_eq (Nat.le_zero.1 h))]; rfl
  | succ n ih =>
    have place : (BitVec.ofNat 3 (n + 1)).toNat = n + 1 := Nat.mod_eq_of_lt (by omega)
    rw [List.range_succ, List.foldl_append, List.foldl_cons, List.foldl_nil,
      readPred_writePred _ _ _ _ (ofNat_succ_ne_zero (by omega)), ih (by omega)]
    by_cases h : q = BitVec.ofNat 3 (n + 1)
    · have hqn : q.toNat = n + 1 := by rw [h, place]
      rw [if_pos h, hqn, if_pos le_rfl]
    · have hqn : q.toNat ≠ n + 1 := fun e => h (BitVec.eq_of_toNat_eq (by rw [e, place]))
      rw [if_neg h]
      congr 1
      exact propext ⟨fun h => by omega, fun h => by omega⟩

theorem pmovPutSetsSevenPredicates : PmovPutSetsSevenPredicates := by
  intro w s hg
  refine ⟨fun hp => ?_, fun hp => ?_⟩
  · refine ⟨_, (exec_pmovPut w s).trans (runPlain_ok hg rfl), ?_, fun r hr => ?_⟩
    · rw [if_pos (onCpPlace_of_cp hp), putPreds, foldl_writeP_cp _ _ _ hp]
      rfl
    · rw [if_pos (onCpPlace_of_cp hp), putPreds, foldl_writeP_cp _ _ _ hp]
      have seven := readPred_foldl_writePred (bit (readR s w.a)) s.core.cp.p r hr le_rfl
      rw [if_pos (show r.toNat ≤ 7 by omega), readR_cp hp] at seven
      rw [readR_cp hp]
      exact seven
  · refine (exec_pmovPut w s).trans (runPlain_slot ⟨hp, hg⟩ (congrArg Except.ok ?_))
    rw [putPreds, readR_slot hp]
    exact foldl_writeP_slot (fun i => BitVec.ofNat 3 (i + 1)) _ _ (fun i hi => ofNat_succ_ne_zero (List.mem_range.1 hi)) hp

/-- Settles O8: each word is one operation of `BitVec`, one count over its bits, or writes of predicates. -/
theorem logicalAndPredicateWords : Obligations.LogicalAndPredicateWords :=
  ⟨logicalWordsActOnSixtyFourBits, bitCountsCountBits, predicateWordsCombinePredicates, pmovPutSetsSevenPredicates⟩

end Sys2Proof.ScalarWords
end

section
/-! SUPPORT. Immediate and bit-field words (R86). -/

namespace Sys2Proof.ScalarWords

open Sys2Proof.Machine Sys2Proof.Safety Sys2Proof.Claims
open Sys2Proof.ControlProcessor (ival_eq_intOf intWord_intResultTy sextW_eq_signExtend)
open Sys2Proof.Numbers (exists_nan_of_isNaN)
open Sys2Proof.Branches (zextW_eq_extract kpcW_eq)

/-! ## Masks and immediates (R9, R66, R86) -/

theorem ones_eq_lowMask (n : Nat) : ones n = lowMask n := by
  have power : BitVec.ofNat 64 (2 ^ n) = (1 : Word) <<< n :=
    BitVec.eq_of_toNat_eq (by simp [Nat.shiftLeft_eq])
  rw [lowMask, ← power, eq_comm, sub_eq_iff_eq_add, ones]
  change _ = _ + BitVec.ofNat 64 1
  rw [← BitVec.ofNat_add, Nat.sub_add_cancel (Nat.one_le_two_pow)]

/-- Zero-extension from at most 64 bits keeps the bits of a mask. -/
theorem zextW_eq_and_lowMask {n : Nat} (h : n ≤ 64) (x : Word) : zextW x n = x &&& lowMask n := by
  rw [← ones_eq_lowMask, zextW]
  split
  · have full : ones n = BitVec.allOnes 64 := by rw [show n = 64 by omega]; decide
    rw [full, BitVec.and_allOnes]
  · rfl

/-- The 32-bit immediate of `addi`, `cmpi` and `movi` (R66). -/
theorem immInt_eq_immOf (t : BitVec 5) (imm : BitVec 32) : immInt imm.toNat 32 (tyUnsigned t) = immOf t imm := by
  unfold immInt immOf
  split
  · rw [zextW_eq_extract (by decide)]
    congr 1
    exact BitVec.eq_of_toNat_eq (by simpa using imm.isLt)
  · rw [sextW_eq_signExtend _ (by decide) (by decide), BitVec.ofNat_toNat, BitVec.setWidth_eq]

/-- An integer of a type is its own narrowing. -/
theorem narrowed_intOf (t : BitVec 5) (x : Word) : narrowed t false (intOf t x) = intWord (intOf t x) := by
  unfold narrowed intOf intWord
  rw [if_neg Bool.false_ne_true]
  split
  · rw [BitVec.ofInt_toInt]; rfl
  · rw [BitVec.ofInt_natCast, BitVec.ofInt_natCast, BitVec.ofNat_toNat, BitVec.setWidth_eq]
    exact BitVec.eq_of_toNat_eq (by simp)

/-! ## The values of `movi` -/

theorem moviVal_int {t : BitVec 5} (ht : tyIsInt t = true) (imm : BitVec 32) :
    moviVal t imm = narrowed t false (intOf t (immOf t imm)) := by
  rw [moviVal, if_pos ht, immInt_eq_immOf, ival_eq_intOf, narrowed_intOf]

theorem moviVal_f32 (imm : BitVec 32) : moviVal 9 imm = imm.setWidth 64 := rfl

theorem moviVal_f64 (imm : BitVec 32) :
    moviVal 8 imm = BitVec.ofNat 64 (deliver fmtF64 0 false (quieted (decodeFloat fmtF32 imm.toNat))).1 := by
  have value : moviVal 8 imm = BitVec.ofNat 64 (deliver fmtF64 0 false (match decodeFloat fmtF32 imm.toNat with
    | .nan _ => .nan false
    | v => v)).1 := rfl
  rw [value]
  cases decodeFloat fmtF32 imm.toNat <;> rfl

/-! ## Bit fields -/

theorem sextW_eq_setWidth {n : Nat} (h : 1 ≤ n) (h' : n ≤ 64) (x : Word) :
    sextW x n = (x.setWidth n).signExtend 64 := by
  have low := sextW_eq_signExtend x.toNat h h'
  rwa [BitVec.ofNat_toNat, BitVec.ofNat_toNat, BitVec.setWidth_eq] at low

theorem setFld_eq (old a : Word) (pos len : Nat) :
    setFld old pos len a.toNat = (old &&& ~~~(lowMask len <<< pos)) ||| ((a &&& lowMask len) <<< pos) := by
  rw [setFld, ones_eq_lowMask, BitVec.ofNat_toNat, BitVec.setWidth_eq]

/-- Settles O2: each word writes one value and raises nothing. -/
theorem immediateWordsDeliverTheirValue : Obligations.ImmediateWordsDeliverTheirValue := by
  intro w v s
  refine ⟨fun hg => delivers_of_write hg (exec_lea w s) rfl, fun hg => ?_⟩
  intro a old t gives pos len base
  have word {i : Instr} {opc : BitVec 8} {y : State → Word} {x : Word}
      (hi : exec i s = runPlain s opc v.guard fun s => .ok (writeR s 1 v.d (y s))) (hx : y s = x) : gives i x :=
    delivers_of_write hg hi (by rw [hx])
  have movi {x : Word} (hx : moviVal t v.imm = x) : gives (.movi v) x := word (exec_movi v s) hx
  refine ⟨?_, fun ht => movi (moviVal_int ht v.imm), fun ht => movi (ht ▸ moviVal_f32 v.imm), fun ht hn => movi ?_,
    fun ht hn => movi ?_, word (exec_movh v s) rfl, word (exec_pcrel v s) ?_, fun hlen hend => ?_⟩
  · refine delivers_of_write hg (exec_addi v s) ?_
    dsimp only
    rw [giveInt_eq, raiseFlags_zero, intWord_intResultTy, immI, immInt_eq_immOf, ival_eq_intOf, ival_eq_intOf]
    rfl
  · obtain ⟨b, hb⟩ := exists_nan_of_isNaN hn
    rw [ht, moviVal_f64, hb]; rfl
  · rw [ht, moviVal_f64, quieted, hn]; rfl
  · have kpc : BitVec.ofNat 64 (fld s.core.kern.kpc 0 11) = kpcOf s := kpcW_eq s
    simp only [onCpPlace_iff, kpc]
    rfl
  · have fits : len ≤ 64 := by omega
    exact ⟨word (exec_bfxZ v s) (zextW_eq_and_lowMask fits _), word (exec_bfxS v s) (sextW_eq_setWidth hlen fits _),
      word (exec_bfxI v s) (setFld_eq ..)⟩

end Sys2Proof.ScalarWords
end

section
/-! SUPPORT. Compares and conversions (R87, R92). -/

namespace Sys2Proof.ScalarWords

open Sys2Proof.Machine Sys2Proof.Safety Sys2Proof.Claims
open Sys2Proof.ControlProcessor (ival_eq_intOf intWord_intResultTy intResultTy_flags)

/-! ## Compares (R87) -/

theorem condHolds_eq_holds {c : Nat} (hc : c < 8) (o : Option Ordering) : condHolds c o = holds c o := by
  rcases o with _ | _ | _ | _ <;> interval_cases c <;> rfl

theorem isNaN_of_nv {x : FVal} (h : x.nv = true) : x.isNaN = true := by
  cases x with
  | nan => rfl
  | _ => exact absurd h Bool.false_ne_true

/-- NV of a floating compare: every NaN raises it for an ordering condition, which a signalling one is too. -/
theorem cmpNV_iff (c : Nat) (x y : FVal) :
    cmpNV c x y = true ↔ (2 ≤ c ∧ c ≤ 5 ∧ (x.isNaN || y.isNaN) = true) ∨ (x.nv || y.nv) = true := by
  have signalling : (x.nv || y.nv) = true → (x.isNaN || y.isNaN) = true := by
    simp only [Bool.or_eq_true]
    exact Or.imp isNaN_of_nv isNaN_of_nv
  unfold cmpNV
  simp only [Bool.and_eq_true, decide_eq_true_eq]
  split
  · tauto
  · tauto

/-- A compare gives the truth of its condition on the order of its operands, and its NV. -/
theorem compareTy_eq (s : State) (t : BitVec 5) {c : Nat} (hc : c < 8) (a b : Word) :
    compareTy t (scalarFlush s) c a b = (holds c (order s t a b), compareFlags s t c a b) := by
  unfold compareTy order compareFlags
  cases tyIsInt t with
  | true => simp only [if_true, cmpInt, condHolds_eq_holds hc, ival_eq_intOf]
  | false =>
    simp only [Bool.false_eq_true, if_false, flagIf, condHolds_eq_holds hc]
    exact congrArg _ (if_congr (cmpNV_iff ..) rfl rfl)

/-- Settles O3: both words write what one compare gives. -/
theorem comparesWriteTheConditionsTruth : Obligations.ComparesWriteTheConditionsTruth := by
  intro w v s
  refine ⟨fun hg => ?_, fun hg => ?_⟩
  · intro a b c x old fl gives hc
    refine ⟨fun h hf => ?_, fun h hf => ?_, fun h hf => ?_⟩ <;>
    · refine deliversPred_of_raise hg hf (exec_cmp w s) ?_
      dsimp only
      rw [compareTy_eq s w.ty hc, h]
      rfl
  · intro t a b c fl hc hf
    refine deliversPred_of_raise hg hf (exec_cmpi v s) ?_
    dsimp only
    rw [compareTy_eq s _ hc, immI, immInt_eq_immOf]
    rfl

/-! ## Conversions (R92) -/

section
variable {src dst : BitVec 5} (flush : Bool) (rm : Nat) (sat : Bool) (x : Word)

theorem convert_int_int (hs : tyIsInt src = true) (hd : tyIsInt dst = true) :
    convert flush src dst rm sat x = (narrowed dst sat (intOf src x), overflows dst (intOf src x)) := by
  simp only [convert, hs, hd, if_true, ival_eq_intOf, intWord_intResultTy, intResultTy_flags]

theorem convert_int_float (hs : tyIsInt src = true) (hd : tyIsInt dst = false) :
    let r := deliver (tyFmt dst) rm false (ofInt (intOf src x) 0 false)
    convert flush src dst rm sat x = (BitVec.ofNat 64 r.1, r.2) := by
  simp only [convert, hs, hd, if_true, Bool.false_eq_true, if_false, ival_eq_intOf]

theorem convert_float_float (hs : tyIsInt src = false) (hd : tyIsInt dst = false) :
    let r := deliver (tyFmt dst) rm flush (readFloat (tyFmt src) flush x.toNat)
    convert flush src dst rm sat x = (BitVec.ofNat 64 r.1, r.2) := by
  simp only [convert, hs, hd, Bool.false_eq_true, if_false]

theorem convert_float_int (hs : tyIsInt src = false) (hd : tyIsInt dst = true) :
    let r := floatToInt (tySigned dst) (tyWidth dst) rm (readFloat (tyFmt src) flush x.toNat)
    convert flush src dst rm sat x = (BitVec.ofInt 64 r.1, r.2) := by
  simp only [convert, hs, hd, if_true, Bool.false_eq_true, if_false, intWord]

end

/-- Settles O4: `cvt` writes and raises what the conversion between its two types gives. -/
theorem conversionsFollowTheirTypes : Obligations.ConversionsFollowTheirTypes := by
  intro w s hg src x v rm gives bits
  have word {y : Word} {fl : Flags}
      (hr : convert (scalarFlush s) (w.fn.extractLsb' 0 5) w.ty w.rm.toNat (w.sat == 1) (readR s w.a) = (y, fl)) :
      gives y fl := fun hf =>
    delivers_of_raise hg hf (exec_cvt w s) (by rw [hr]; rfl)
  exact ⟨fun hs hd => word (convert_int_int _ _ _ _ hs hd), fun hs hd => word (convert_int_float _ _ _ _ hs hd),
    fun hs hd => word (convert_float_float _ _ _ _ hs hd), fun hs hd => word (convert_float_int _ _ _ _ hs hd)⟩

end Sys2Proof.ScalarWords
end

section
/-! SUPPORT. Scalar floating words (R89-R91). -/

namespace Sys2Proof.ScalarWords

open Sys2Proof.Machine Sys2Proof.Safety Sys2Proof.Claims
open Sys2Proof.Numbers (runPlain_gives_busy)

/-! ## Floating arithmetic (R89, R118) -/

theorem longLat_eq (t : BitVec 5) : longLat t = if t = 8 then 24 else 12 := by
  unfold longLat; simp only [beq_iff_eq]

theorem floatingWordsRoundOnce : FloatingWordsRoundOnce := by
  intro w s hg f a b c rm long busy after quiet
  have word {i : Instr} {opc : BitVec 8} {body : State → Body} {x : FVal}
      (hi : exec i s = runPlain s opc w.guard body)
      (hb : body s = giveFloat s 4 w.d (deliver f rm (scalarFlush s) x)) (hq : quiet x 0) :
      exec i s = .next (after 4 x 0) := by
    have hf : NoTrap s (deliver f rm (scalarFlush s) x).2 := by simpa [quiet] using hq
    simpa [after, Delivers] using delivers_of_raise hg hf hi hb
  have longWord {i : Instr} {opc : BitVec 8} {body : State → Body} {x : FVal} {more fl : Flags}
      (hi : exec i s = runPlain s opc w.guard body)
      (hb : body s = (giveFloat s (longLat w.ty) w.d
          ((deliver f rm (scalarFlush s) x).1, fl)).bind fun s => .ok (useUnit s 1 (longLat w.ty)))
      (hfl : fl = (deliver f rm (scalarFlush s) x).2 ||| more) (hq : quiet x more) :
      exec i s = .next (busy (after long x more)) := by
    subst hfl
    rw [hi, runPlain_gives_busy hg hq (by rw [hb, giveFloat_eq, raiseFlags_ok hq]; rfl), longLat_eq]
    by_cases hp : s.place = .cp <;> simp [busy, after, hp, long]
  exact ⟨word (exec_fadd w s) rfl, word (exec_fsub w s) rfl, word (exec_fmul w s) rfl, word (exec_fma w s) rfl,
    longWord (exec_fdiv w s) rfl rfl, longWord (exec_fsqrt w s) rfl BitVec.or_zero.symm⟩

/-! ## Selection and sign words (R90, R91) -/

/-- A minimum or maximum delivers an operand, its NaN quieted (R90). -/
theorem fMinMax_eq (max : Bool) (w : RForm) (s : State) :
    let a := fArg s w.ty (readR s w.a).toNat
    let b := fArg s w.ty (opBFloat s w)
    fMinMax max w s = giveFloat s 1 w.d
      ((deliver (tyFmt w.ty) 0 false (quieted (minMaxV max (w.fn == 1) a b))).1, flagIf (a.nv || b.nv) flNV) := by
  intro a b
  unfold fMinMax
  dsimp only
  cases minMaxV max (w.fn == 1) a b <;> rfl

theorem toNat_mul_eq_ite (b : Bool) (n : Nat) : b.toNat * n = if b then n else 0 := by
  cases b <;> simp

theorem floatingSelectionAndSignWords : FloatingSelectionAndSignWords := by
  intro w s hg f a b quieted picks top x sx sy signed
  have pick {i : Instr} {opc : BitVec 8} {max : Bool} (hi : exec i s = runPlain s opc w.guard (fMinMax max w)) :
      picks i max := fun hf => delivers_of_raise hg hf hi (fMinMax_eq max w s)
  have sign {i : Instr} {opc : BitVec 8} {f : Bool → Bool → Bool}
      (hi : exec i s = runPlain s opc w.guard (signOp f w)) : signed i (f sx sy) :=
    delivers_of_write hg hi (by rw [signOp, toNat_mul_eq_ite])
  refine ⟨pick (exec_fmin w s), pick (exec_fmax w s), sign (exec_fsgnCpy w s), sign (exec_fsgnNeg w s),
    sign (exec_fsgnXor w s), delivers_of_write hg (exec_fclass w s) ?_⟩
  rw [show BitVec.ofNat 64 (2 ^ fclassBit f (readR s w.a).toNat) = BitVec.twoPow 64 _ from
    BitVec.eq_of_toNat_eq (by rw [BitVec.toNat_ofNat, BitVec.toNat_twoPow])]

/-- Settles O9: each arithmetic word delivers its exact result, and the others an operand, a sign or a class. -/
theorem floatingWordsRoundAndSelect : Obligations.FloatingWordsRoundAndSelect :=
  ⟨floatingWordsRoundOnce, floatingSelectionAndSignWords⟩

end Sys2Proof.ScalarWords
end

section
/-! SUPPORT. `halt`, `idle` and `work`, which wait for an event (R103-R105, R145). -/

namespace Sys2Proof.Waiting

open Sys2Proof.Machine Sys2Proof.Safety Sys2Proof.Claims
open Sys2Proof.ControlProcessor (settleGroup_switchesOff putCore_core fatalStop_halts runBody_jump denied_of_supervisor
  runBody_eq_runPlain readG_writeG)
open Sys2Proof.ScalarWords (readPred_writePred)

/-! ## The end of a program (R103, R419) -/

/-- What the end of a program by `halt` leaves of the focused core and of memory. -/
def Ended (s t : State) : Prop :=
  t.focus = s.focus ∧ t.core.cp.run = .off ∧ t.core.prog = none ∧ t.core.cp.pending = [] ∧ t.core.cp.g = s.core.cp.g ∧
    t.mem = s.mem

/-- The end of a group starts no program on the focused core. -/
theorem settleGroup_prog_none {s : State} (h : s.core.prog = none) (launch die base size : Nat) :
    (settleGroup s launch die base size).core.prog = none := by
  have clears (t : State) (n : Nat) (ht : t.core.prog = none) :
      (if inGroup t launch base n then
        t.onCore n fun c => { c with prog := none, fenced := false, srf := [], srfPoison := [], cp := { c.cp with run := .off } }
      else t).core.prog = none := by
    split
    · rw [State.onCore, putCore_core]
      split
      · rfl
      · exact ht
    · exact ht
  simp only [settleGroup]
  split
  · exact h
  · split
    · exact h
    · split
      · exact h
      · exact List.foldlRecOn (motive := fun t => t.core.prog = none) _ _ h fun t ht n _ => clears t n ht

theorem Ended.settleGroup {s u : State} (h : Ended s u) (launch die base size : Nat) :
    Ended s (settleGroup u launch die base size) := by
  obtain ⟨focus, run, prog, pending, regs, mem⟩ := h
  obtain ⟨focus', mem', -, cp'⟩ := settleGroup_switchesOff u launch die base size
  refine ⟨focus'.trans focus, ?_, settleGroup_prog_none prog .., ?_, ?_, mem'.trans mem⟩ <;>
    rcases cp' with cp' | cp' <;> rw [cp'] <;> assumption

theorem endProgram_ended {s : State} (h : s.core.prog.isSome = true) : Ended s (endProgram s none) := by
  obtain ⟨p, hp⟩ := Option.isSome_iff_exists.1 h
  simp only [endProgram, hp]
  exact Ended.settleGroup ⟨rfl, rfl, rfl, rfl, rfl, rfl⟩ ..

/-! ## `halt` and `idle` (R103, R104) -/

theorem drained_iff (c : Core) : drained c = true ↔ c.st.queue = [] ∧ c.st.flight = [] ∧ c.kern.stState = 0 := by
  simp [drained, and_assoc]

/-- SUPERVISOR_CALL is the cause of code 0x5E (R400). -/
theorem causeOfNat_eq_supervisorCall : ∀ n < 128, Cause.ofNat n = .supervisorCall ↔ n = 0x5E := by decide

/-- A `halt` ends a program with an error within a trap other than SUPERVISOR_CALL with DETAIL 0 (log 34). -/
theorem endCause_isSome_iff (c : CP) :
    (endCause c).isSome = true ↔ c.inTrap = true ∧ (fld c.ccause 0 7 ≠ 0x5E ∨ fld c.ctinfo 32 32 ≠ 0) := by
  have code := causeOfNat_eq_supervisorCall (fld c.ccause 0 7) (Nat.mod_lt _ (by decide))
  have none_iff : (!c.inTrap || (Cause.ofNat (fld c.ccause 0 7) == .supervisorCall && fld c.ctinfo 32 32 == 0)) = true ↔
      ¬ (c.inTrap = true ∧ (fld c.ccause 0 7 ≠ 0x5E ∨ fld c.ctinfo 32 32 ≠ 0)) := by
    simp only [Bool.or_eq_true, Bool.not_eq_true', Bool.and_eq_true, beq_iff_eq, code, ← Bool.not_eq_true]
    tauto
  unfold endCause
  dsimp only
  split
  · next h => exact iff_of_false Bool.false_ne_true (none_iff.1 h)
  · next h => exact iff_of_true rfl (not_not.1 (mt none_iff.2 h))

theorem stopWord_wait_cp {s : State} (h : s.place = .cp) (opc : BitVec 8) :
    stopWord s opc (.wait s) = stayHere s false true opc none := if_pos (onCpPlace_of_cp h)

theorem haltAndIdleWaitForTheirEvent : HaltAndIdleWaitForTheirEvent := by
  intro v s h hm free inner
  have hd := denied_of_supervisor hm true
  have no_error (hi : ¬ inner) : endCause s.core.cp = none :=
    Option.not_isSome_iff_eq_none.1 fun e => hi ((endCause_isSome_iff _).1 e)
  have waits {i : Instr} {opc : BitVec 8} {jump : Bool} {body : State → Body}
      (he : exec i s = runBody s opc v.guard true jump body) (hb : body s = .error (.wait s)) :
      exec i s = .next (stayHere s false true opc none) := by
    rw [he, runBody_error hd h.2 hb, stopWord_wait_cp h.1]
  refine ⟨fun hi hfree hprog => ⟨_, (exec_halt v s).trans (runBody_jump hd h.2 ?_), endProgram_ended hprog⟩,
    fun hi hbusy => waits (exec_halt v s) ?_, fun hi => ?_, fun hp => ?_, fun hp => waits (exec_idle v s) ?_⟩
  · rw [no_error hi, (drained_iff _).2 hfree]; rfl
  · rw [no_error hi, Bool.eq_false_iff.2 (mt (drained_iff _).1 hbusy)]; rfl
  · obtain ⟨cause, hc⟩ := Option.isSome_iff_exists.1 ((endCause_isSome_iff s.core.cp).2 hi)
    obtain ⟨focus, mem, kern, run, cp⟩ := fatalStop_halts s cause
    refine ⟨_, (exec_halt v s).trans (runBody_jump hd h.2 (by rw [hc])), focus, run, ?_, ?_, ?_, by rw [kern], mem⟩ <;>
      rw [cp]
  · rw [exec_idle, execIdle, runBody_eq_runPlain hd, runPlain_ok h.2 (by rw [if_neg (by simpa using hp)]),
      if_pos (onCpPlace_of_cp h.1)]
    rfl
  · rw [hp]; rfl

/-! ## `work` (R105, R145) -/

/-- An answer of the walker writes general registers, predicates and the end of the request. -/
theorem giveWork_eq (n : Nest) (o : Option Nat) (c : CP) :
    giveWork n o c = { c with g := (giveWork n o c).g, p := (giveWork n o c).p, work := .idle } := by
  cases o <;> rfl

theorem giveWork_readPred (n : Nest) (o : Option Nat) (c : CP) (r : BitVec 3) :
    readPred (giveWork n o c).p r = if r = 1 then o.isSome else readPred c.p r := by
  have put (b : Bool) := readPred_writePred c.p 1 r b (by decide)
  cases o with
  | none => exact put false
  | some o => simpa [giveWork] using put true

theorem giveWork_readG (n : Nest) (o : Nat) (c : CP) (r : BitVec 5) :
    (giveWork n (some o) c).readG r =
      if r = 24 then (nestIdx n o).get 0
      else if r = 25 then (nestIdx n o).get 1
      else if r = 26 then (nestIdx n o).get 2
      else if r = 27 then (nestIdx n o).get 3
      else if r = 28 then BitVec.ofNat 64 o
      else c.readG r := by
  simp only [giveWork]
  rw [readG_writeG _ 28 r _ (by decide), readG_writeG _ 27 r _ (by decide), readG_writeG _ 26 r _ (by decide),
    readG_writeG _ 25 r _ (by decide), readG_writeG _ 24 r _ (by decide)]
  grind [CP.readG]

/-- A request that the walker has answered ends the word. -/
theorem workBody_answered {s : State} {p : Prog} {l : Launch} {n : Nest} {answer : Option Nat} (hp : s.core.prog = some p)
    (hl : s.launch? p.launch = some l) (hn : l.nest = some n) (hd : n.ndim ≠ 0) (hw : s.core.cp.work = .answered answer) :
    workBody s = .ok (s.withCp (giveWork n answer s.core.cp)) := by
  simp only [workBody, hp, Option.bind_some, hl, hn]
  rw [if_neg (by simpa using hd), if_neg (by rw [hw]; simp), hw]
  rfl

theorem workDeliversTheWalkersAnswer : WorkDeliversTheWalkersAnswer := by
  intro v s p l n answer h hp hl hn hd hw
  refine ⟨cpDone s (giveWork n answer s.core.cp), ?_, ?_, giveWork_readPred n answer s.core.cp, fun r => ?_⟩
  · rw [exec_work, execWork, runPlain_ok h.2 (workBody_answered hp hl hn hd hw), if_pos (onCpPlace_of_cp h.1),
      giveWork_eq]
    rfl
  · exact congrArg (cpDone s) (giveWork_eq n answer s.core.cp)
  · cases answer with
    | none => rfl
    | some o => exact giveWork_readG n o s.core.cp r

/-- Settles O13: each word's body either meets its event and ends it or leaves the CP at its word. -/
theorem haltIdleAndWorkWait : Obligations.HaltIdleAndWorkWait :=
  ⟨haltAndIdleWaitForTheirEvent, workDeliversTheWalkersAnswer⟩

end Sys2Proof.Waiting
end

section
/-! SUPPORT. Floating words on lanes (R90, R180). -/

namespace Sys2Proof.FloatingLanes

open Sys2Proof.Machine Sys2Proof.Safety
open Sys2Proof.Claims hiding elemInt
open Sys2Proof.ControlProcessor (ival_eq_intOf)
open Sys2Proof.Numbers (velem_givesMasked not_int_of_float)
open Sys2Proof.ScalarWords (toNat_mul_eq_ite)

/-- A masked word that gives the elements `y`. -/
theorem givesMasked_of_eq {i : Instr} {s : State} {opc : BitVec 8} {lat n : Nat} {w : RForm}
    {f : State → Nat → Nat → Nat × Flags} {y : Nat → Nat → Nat × Flags} (h : InSlot s w.guard)
    (he : exec i s = velem opc lat w s f) (hr : Instr.raw i = some (.r opc w)) (hlat : lat = n)
    (hy : ∀ l j, f s l j = y l j) : GivesMasked i s n w y := by
  rw [← hlat, ← funext₂ hy]
  exact velem_givesMasked h he hr

/-! ## Elements of floating types -/

section
variable {w : RForm} (hi : tyIsInt w.ty = false)
include hi

theorem addElem_float (hc : tyComplex w.ty = false) (minus fz : Bool) (a b : Nat) :
    addElem minus w fz a b = fltElem w.ty w.rm.toNat fz
      ((if minus then subV else addV) w.rm.toNat (fltArg w.ty fz a) (fltArg w.ty fz b)) := by
  simp only [addElem, hi, hc, Bool.false_eq_true, if_false]

theorem fmaElem_float (negP negC fz : Bool) (a b c : Nat) :
    let p := mulV (fltArg w.ty fz a) (fltArg w.ty fz b)
    let x := fltArg w.ty fz c
    fmaElem negP negC w fz a b c =
      fltElem w.ty w.rm.toNat fz (addV w.rm.toNat (if negP then p.neg else p) (if negC then x.neg else x)) := by
  simp only [fmaElem, hi, Bool.false_eq_true, if_false]

/-- A minimum or maximum delivers an operand, its NaN quieted, and NV for a signalling one (R90). -/
theorem minMaxElem_float (max num fz : Bool) (a b : Nat) :
    let x := fltArg w.ty fz a
    let y := fltArg w.ty fz b
    minMaxElem max num w.ty fz a b =
      ((deliver (tyFmt w.ty) 0 false (quieted (minMaxV max num x y))).1, flagIf (x.nv || y.nv) flNV) := by
  simp only [minMaxElem, hi, Bool.false_eq_true, if_false]
  cases minMaxV max num (fltArg w.ty fz a) (fltArg w.ty fz b) <;> rfl

end

theorem withSign_eq_resigned (w : RForm) (x : Nat) (sg : Bool) : withSign w.ty x sg = resigned w x sg := by
  rw [withSign, toNat_mul_eq_ite]; rfl

theorem clampInt_eq {lo hi : Int} (h : lo ≤ hi) (x : Int) : clampInt lo hi x = max lo (min hi x) := by
  unfold clampInt
  split
  · omega
  · split <;> omega

theorem scaleElem_eq (w : RForm) (fz : Bool) (a b : Nat) :
    scaleElem w fz a b = fltElem w.ty w.rm.toNat fz ((fltArg w.ty fz a).scale
      (max (-5000) (min 5000 (intOf (sameWidthInt w.ty) (BitVec.ofNat 64 b))))) := by
  rw [scaleElem, clampInt_eq (by decide), Machine.elemInt, ival_eq_intOf]

theorem floatingVectorWordsRoundOnce : FloatingVectorWordsRoundOnce := by
  intro w s h ht f rm a b c k gives rint
  obtain ⟨hi, hc⟩ := not_int_of_float w.ty ht
  have latency : (if tyIsInt w.ty then 2 else 4) = 4 := by rw [hi]; rfl
  have sum {i : Instr} {opc : BitVec 8} (minus : Bool) (he : exec i s = velem opc (if tyIsInt w.ty then 2 else 4) w s
        fun s l j => addElem minus w (laneFz s l) (vA s w l j) (vB s w l j)) (hr : Instr.raw i = some (.r opc w)) :
      gives i fun l j => (if minus then subV else addV) rm (a l j) (b l j) :=
    givesMasked_of_eq h he hr latency fun _ _ => addElem_float hi hc ..
  have fused {i : Instr} {opc : BitVec 8} (negP negC : Bool) (he : exec i s = velem opc (if tyIsInt w.ty then 2 else 4) w s
        fun s l j => fmaElem negP negC w (laneFz s l) (vA s w l j) (vB s w l j) (vC s w l j))
      (hr : Instr.raw i = some (.r opc w)) :
      gives i fun l j => addV rm (if negP then (mulV (a l j) (b l j)).neg else mulV (a l j) (b l j))
        (if negC then (c l j).neg else c l j) :=
    givesMasked_of_eq h he hr latency fun _ _ => fmaElem_float hi ..
  have rounds {i : Instr} (nx : Bool) (he : exec i s = velem 0x61 4 w s
        fun s l j => rintElem nx w (laneFz s l) (vA s w l j)) (hr : Instr.raw i = some (.r 0x61 w)) :
      GivesMasked i s 4 w (rint nx) :=
    givesMasked_of_eq h he hr rfl fun _ _ => rfl
  refine ⟨sum false (exec_vadd w s) rfl, sum true (exec_vsub w s) rfl,
    givesMasked_of_eq h (exec_vmul w s) rfl latency fun l j => ?_, fused false false (exec_vfma w s) rfl,
    fused false true (exec_vfms w s) rfl, fused true false (exec_vfnma w s) rfl, fused true true (exec_vfnms w s) rfl,
    givesMasked_of_eq h (exec_vscale w s) rfl rfl fun l j => scaleElem_eq .., rounds false (exec_vrint w s) rfl,
    rounds true (exec_vrintX w s) rfl⟩
  simp only [hi, Bool.false_eq_true, if_false]
  rfl

theorem vectorSelectionAndSignWords : VectorSelectionAndSignWords := by
  intro w s h ht f flt pick num top clamp signed
  have hi := (not_int_of_float w.ty ht).1
  have latency : (if tyIsInt w.ty then 2 else 4) = 4 := by rw [hi]; rfl
  have picks (max num : Bool) (l x y : Nat) : minMaxElem max num w.ty (laneFz s l) x y = pick max num l x y :=
    minMaxElem_float hi ..
  have sign {i : Instr} {opc : BitVec 8} {y : State → Nat → Nat → Nat × Flags} {sg : Nat → Nat → Bool}
      (he : exec i s = velem opc 2 w s y) (hr : Instr.raw i = some (.r opc w))
      (hy : ∀ l j, y s l j = plainElem (withSign w.ty (vA s w l j) (sg l j))) : signed i sg :=
    givesMasked_of_eq h he hr rfl fun l j => by rw [hy, withSign_eq_resigned]; rfl
  have plain {x : Nat × Flags} {y : Nat × Flags} : (if tyIsInt w.ty then x else y) = y := by rw [hi]; rfl
  refine ⟨givesMasked_of_eq h (exec_vmin w s) rfl latency fun l j => picks ..,
    givesMasked_of_eq h (exec_vmax w s) rfl latency fun l j => picks ..,
    givesMasked_of_eq h (exec_vclamp w s) rfl latency fun l j => ?_,
    sign (exec_vabs w s) rfl fun l j => plain, sign (exec_vneg w s) rfl fun l j => plain,
    sign (exec_vsgnCpy w s) rfl fun _ _ => rfl, sign (exec_vsgnNeg w s) rfl fun _ _ => rfl,
    sign (exec_vsgnXor w s) rfl fun _ _ => rfl⟩
  dsimp only
  rw [picks, picks]

/-- Settles O19: each word gives its element function, which for a floating type delivers one exact result or an operand. -/
theorem floatingVectorWords : Obligations.FloatingVectorWords :=
  ⟨floatingVectorWordsRoundOnce, vectorSelectionAndSignWords⟩

end Sys2Proof.FloatingLanes
end

section
/-! SUPPORT. Reductions and scans over the lanes (R131, R132, R190). -/

namespace Sys2Proof.Columns

open Sys2Proof.Machine Sys2Proof.Safety
open Sys2Proof.Claims hiding elemInt
open Sys2Proof.Numbers (intElem_spec narrowed_wraps intBits_elemInt)

/-! ## The tree and the scan, level by level (R131, R132) -/

theorem getD_map_range {α : Type} {a : α} {n i : Nat} (h : i < n) (f : Nat → α) : ((List.range n).map f).getD i a = f i := by
  simp [List.getD_eq_getElem?_getD, h]

theorem orFlags_append (a b : List Flags) : orFlags (a ++ b) = orFlags a ||| orFlags b := by
  apply BitVec.eq_of_getLsbD_eq
  intro i _
  simp [orFlags_getLsbD]

theorem flagsAt_append (l : Nat) (a b : List (Nat × Flags)) : flagsAt l (a ++ b) = flagsAt l a ||| flagsAt l b := by
  simp [flagsAt, orFlags_append]

theorem flagsAt_singleton (l b : Nat) (f : Flags) : flagsAt l [(b, f)] = if b = l then f else 0 := by
  by_cases h : b = l <;> simp [flagsAt, orFlags, h]

/-- A subtree raises its flags in its own lanes. -/
theorem flagsAt_tree_outside (op : Nat → Nat → Nat → Nat × Flags) (x : Nat → Nat) {l : Nat} :
    ∀ (n b : Nat), l < b ∨ b + 2 ^ n ≤ l → flagsAt l (tree op x n b).2 = 0
  | 0, b, _ => rfl
  | n + 1, b, h => by
    have two : 2 ^ (n + 1) = 2 ^ n + 2 ^ n := by ring
    have pos : 0 < 2 ^ n := Nat.two_pow_pos n
    simp only [tree, flagsAt_append, flagsAt_singleton]
    rw [flagsAt_tree_outside op x n b (by omega), flagsAt_tree_outside op x n (b + 2 ^ n) (by omega), if_neg (by omega)]
    rfl

/-- After `n` levels the first lane of each group of 2^n holds the tree of its group, and every lane the flags that fell
to it. -/
def TreeAfter (op : Nat → Nat → Nat → Nat × Flags) (x : Nat → Nat) (n : Nat) (y : List (Nat × Flags)) : Prop :=
  ∀ i < 16, (i % 2 ^ n = 0 → (y.getD i (0, 0)).1 = (tree op x n i).1) ∧
    (y.getD i (0, 0)).2 = flagsAt i (tree op x n (i / 2 ^ n * 2 ^ n)).2

theorem treeAfter_zero (op : Nat → Nat → Nat → Nat × Flags) (x : Nat → Nat) :
    TreeAfter op x 0 ((column (fun l _ => x l) 0).map fun v => (v, 0)) := by
  intro i hi
  simp only [column, List.map_map]
  rw [getD_map_range hi]
  exact ⟨fun _ => rfl, rfl⟩

/-- The halves of a group of 2m lanes. -/
theorem group_halves {m : Nat} (hm : 0 < m) (i : Nat) :
    (i % (2 * m) < m ∧ i / m * m = i / (2 * m) * (2 * m)) ∨
      (m ≤ i % (2 * m) ∧ i / m * m = i / (2 * m) * (2 * m) + m) := by
  have half : i / (2 * m) = i / m / 2 := by rw [Nat.mul_comm, Nat.div_div_eq_div_mul]
  have whole := Nat.div_add_mod i m
  have pair := Nat.div_add_mod i (2 * m)
  have rest := Nat.mod_lt i hm
  have double : i / m / 2 * (2 * m) = 2 * (i / m / 2 * m) := by ring
  rw [Nat.mul_comm, half, double] at pair
  rw [Nat.mul_comm] at whole
  rw [half, double]
  obtain even | odd : i / m = 2 * (i / m / 2) ∨ i / m = 2 * (i / m / 2) + 1 := by omega
  · have : i / m * m = 2 * (i / m / 2 * m) := by rw [← Nat.mul_assoc, ← even]
    exact .inl ⟨by omega, this⟩
  · have : i / m * m = 2 * (i / m / 2 * m) + m := by rw [← Nat.mul_assoc, ← Nat.succ_mul, Nat.succ_eq_add_one, ← odd]
    exact .inr ⟨by omega, this⟩

theorem treeAfter_succ {op : Nat → Nat → Nat → Nat × Flags} {x : Nat → Nat} {n : Nat} {y : List (Nat × Flags)}
    (hn : 2 * 2 ^ n ∣ 16) (h : TreeAfter op x n y) : TreeAfter op x (n + 1) (treeLevel op (2 ^ n) y) := by
  intro i hi
  have pos : 0 < 2 ^ n := Nat.two_pow_pos n
  have two : 2 ^ (n + 1) = 2 * 2 ^ n := by ring
  have parts := Nat.div_add_mod i (2 * 2 ^ n)
  rw [Nat.mul_comm] at parts
  obtain ⟨value, flags⟩ := h i hi
  rw [treeLevel, getD_map_range hi, two]
  simp only [beq_iff_eq, tree, flagsAt_append, flagsAt_singleton]
  rcases group_halves pos i with ⟨low, start⟩ | ⟨high, start⟩
  · rw [start] at flags
    rw [flagsAt_tree_outside op x (l := i) n (i / (2 * 2 ^ n) * (2 * 2 ^ n) + 2 ^ n) (by omega)]
    by_cases first : i % (2 * 2 ^ n) = 0
    · have here : i / (2 * 2 ^ n) * (2 * 2 ^ n) = i := by omega
      have upper : i + 2 ^ n < 16 := by
        obtain ⟨groups, total⟩ := hn
        have : i / (2 * 2 ^ n) < groups := Nat.div_lt_of_lt_mul (total ▸ hi)
        have := Nat.mul_le_mul_right (2 * 2 ^ n) (Nat.succ_le_of_lt this)
        rw [Nat.succ_mul, Nat.mul_comm groups] at this
        omega
      have aligned : i % 2 ^ n = 0 := by rw [← Nat.mod_mul_left_mod i 2 (2 ^ n), first, Nat.zero_mod]
      rw [if_pos first, here, value aligned, (h _ upper).1 (by rw [Nat.add_mod_right, aligned]), flags, here]
      simp
    · have there : i / (2 * 2 ^ n) * (2 * 2 ^ n) ≠ i := by omega
      rw [if_neg first, if_neg there, flags]
      simp [first]
  · rw [start] at flags
    rw [flagsAt_tree_outside op x (l := i) n (i / (2 * 2 ^ n) * (2 * 2 ^ n)) (by omega)]
    have first : i % (2 * 2 ^ n) ≠ 0 := by omega
    have there : i / (2 * 2 ^ n) * (2 * 2 ^ n) ≠ i := by omega
    rw [if_neg first, if_neg there, flags]
    simp [first]

/-- `lanetree`: lane 0 holds the tree of the column, and every lane the flags that fell to it. -/
theorem laneTree_eq (op : Nat → Nat → Nat → Nat × Flags) (x : Nat → Nat) :
    ((laneTree op ((List.range 16).map x)).getD 0 (0, 0)).1 = (tree op x 4 0).1 ∧
      ∀ l < 16, ((laneTree op ((List.range 16).map x)).getD l (0, 0)).2 = flagsAt l (tree op x 4 0).2 := by
  have done : TreeAfter op x 4 (laneTree op ((List.range 16).map x)) :=
    treeAfter_succ (n := 3) (by decide) <| treeAfter_succ (n := 2) (by decide) <| treeAfter_succ (n := 1) (by decide) <|
      treeAfter_succ (n := 0) (by decide) <| treeAfter_zero op x
  refine ⟨(done 0 (by decide)).1 rfl, fun l hl => ?_⟩
  rw [(done l hl).2, Nat.div_eq_of_lt (by omega : l < 2 ^ 4), Nat.zero_mul]

theorem scanLevel_scan {op : Nat → Nat → Nat → Nat × Flags} {x : Nat → Nat} {n : Nat} {y : List (Nat × Flags)}
    (h : ∀ l < 16, y.getD l (0, 0) = scan op x n l) :
    ∀ l < 16, (scanLevel op (2 ^ n) y).getD l (0, 0) = scan op x (n + 1) l := by
  intro l hl
  rw [scanLevel, getD_map_range hl, h l hl, h (l - 2 ^ n) (lt_of_le_of_lt (Nat.sub_le _ _) hl)]
  rfl

/-- `lanescan`: lane l holds the running value up to lane l and its flags. -/
theorem laneScan_eq (op : Nat → Nat → Nat → Nat × Flags) (x : Nat → Nat) :
    ∀ l < 16, (laneScan op ((List.range 16).map x)).getD l (0, 0) = scan op x 4 l := by
  refine scanLevel_scan (n := 3) <| scanLevel_scan (n := 2) <| scanLevel_scan (n := 1) <| scanLevel_scan (n := 0) ?_
  intro l hl
  rw [List.map_map, getD_map_range hl]
  rfl

/-! ## Words that write one register by column (R190) -/

/-- A word that ends in `giveLanes` faults its slot on the lowest flag that a lane enables. -/
theorem faultsOnFlags_of_giveLanes {i : Instr} {s : State} {opc : BitVec 8} {g : BitVec 4} {body : State → Body} {lat : Nat}
    {fl : LaneFlags} {out : List KWrite} (h : InSlot s g) (he : exec i s = runPlain s opc g body)
    (ho : ∀ r, Instr.raw i = some r → r.opc = opc) (hb : body s = giveLanes s lat fl out) : FaultsOnFlags i s fl := by
  intro r b hr hlt hx hl
  obtain ⟨lane, mask, trap, names⟩ := laneTrap_some hlt hx hl
  refine ⟨lane, mask, ?_, names⟩
  rw [he, ho r hr]
  refine runPlain_trap h ?_
  rw [hb, giveLanes, trap]

/-- A reduction or scan whose columns and picks are known by lane. -/
theorem givesAll_of_switchBody {i : Instr} {s : State} {opc : BitVec 8} {lat : Nat} {w : RForm}
    {cols : State → Nat → List (Nat × Flags)} {pick : List (Nat × Flags) → Nat → Nat} {fl : LaneFlags}
    {f : Nat → Nat → Nat} (h : InSlot s w.guard) (he : exec i s = runPlain s opc w.guard (switchBody lat cols pick w))
    (hr : Instr.raw i = some (.r opc w)) (hv : ∀ l j, l < 16 → pick (cols s j) l = f l j)
    (hf : fl = Vector.ofFn fun l => orFlags ((List.range (tyNel w.ty)).map fun j => ((cols s j).getD l.val (0, 0)).2)) :
    GivesAll i s lat w fl f := by
  set col : Nat → List (Nat × Flags) := fun j => ((List.range (tyNel w.ty)).map fun j => cols s j).getD j []
  set x := (vAll (tyWidth w.ty) (tyNel w.ty) fun l j => plainElem (pick (col j) l)).1
  have body : switchBody lat cols pick w s = giveLanes s lat fl [.v w.d x] := by
    rw [hf]
    simp only [switchBody, laneFlagsOf, List.map_map]
    rfl
  refine ⟨faultsOnFlags_of_giveLanes h he (fun r hr' => by cases hr.symm.trans hr'; rfl) body, fun hq => ⟨x, ?_, ?_⟩⟩
  · rw [he]
    exact runPlain_slot h (body.trans (giveLanes_ok hq lat _))
  · intro l j hl hj
    rw [vElem_vAll (tyWidth_mul_tyNel w.ty) _ hl hj, plainElem, show col j = cols s j from getD_map_range hj _, hv l j hl]

/-- Only the low bits of an element are written. -/
theorem givesAll_congr {i : Instr} {s : State} {lat : Nat} {w : RForm} {fl : LaneFlags} {f g : Nat → Nat → Nat}
    (h : GivesAll i s lat w fl f) (hfg : ∀ l j, l < 16 → f l j ≡ g l j [MOD 2 ^ tyWidth w.ty]) :
    GivesAll i s lat w fl g := by
  obtain ⟨faults, gives⟩ := h
  refine ⟨faults, fun hq => ?_⟩
  obtain ⟨x, run, elems⟩ := gives hq
  exact ⟨x, run, fun l j hl hj => (elems l j hl hj).trans (hfg l j hl)⟩

/-! ## Sums that wrap -/

/-- The operation is a sum that wraps, without flags. -/
def Wraps (m : Nat) (op : Nat → Nat → Nat → Nat × Flags) : Prop := ∀ l a b, (op l a b).1 ≡ a + b [MOD m] ∧ (op l a b).2 = 0

theorem int_of_unsigned : ∀ t : BitVec 5, tyUnsigned t = true → tyIsInt t = true ∧ tySigned t = false := by decide

/-- An integer addition without SAT keeps the low bits of the sum and raises nothing in an unsigned type (R41, R42). -/
theorem addElem_wraps {w : RForm} (hu : tyUnsigned w.ty = true) (hs : w.sat = 0) (fz : Bool) (a b : Nat) :
    (addElem false w fz a b).1 ≡ a + b [MOD 2 ^ tyWidth w.ty] ∧ (addElem false w fz a b).2 = 0 := by
  obtain ⟨hi, signed⟩ := int_of_unsigned w.ty hu
  have low (x : Nat) : Int.ModEq (2 ^ tyWidth w.ty : Nat) (elemInt w.ty x) x := by
    rw [Int.ModEq, ← Int.natCast_mod, ← intBits_elemInt, intBits, Int.toNat_of_nonneg (Int.emod_nonneg _ (by positivity))]
  obtain ⟨value, flags⟩ := intElem_spec w.ty (w.sat == 1) (elemInt w.ty a + elemInt w.ty b)
  simp only [addElem, hi, if_true, Bool.false_eq_true, if_false]
  refine ⟨?_, by rw [flags, overflows, signed]; rfl⟩
  rw [Nat.ModEq, value, hs, show ((0 : BitVec 1) == 1) = false from rfl, narrowed_wraps, intBits, ← Int.natCast_inj,
    Int.toNat_of_nonneg (Int.emod_nonneg _ (by positivity)), Int.natCast_mod, Int.natCast_add]
  exact (low a).add (low b)

theorem tree_wraps {m : Nat} {op : Nat → Nat → Nat → Nat × Flags} (h : Wraps m op) (x : Nat → Nat) :
    ∀ n b, (tree op x n b).1 ≡ ((List.range (2 ^ n)).map fun i => x (b + i)).sum [MOD m] ∧ ∀ y ∈ (tree op x n b).2, y.2 = 0
  | 0, b => by simp [tree, Nat.ModEq.refl]
  | n + 1, b => by
    obtain ⟨lowValue, lowFlags⟩ := tree_wraps h x n b
    obtain ⟨highValue, highFlags⟩ := tree_wraps h x n (b + 2 ^ n)
    obtain ⟨value, flags⟩ := h b (tree op x n b).1 (tree op x n (b + 2 ^ n)).1
    refine ⟨?_, ?_⟩
    · have halves : 2 ^ (n + 1) = 2 ^ n + 2 ^ n := by ring
      rw [halves, List.range_add, List.map_append, List.sum_append, List.map_map]
      simpa [Function.comp_def, Nat.add_assoc, tree] using value.trans (lowValue.add highValue)
    · simp only [tree, List.mem_append, List.mem_singleton]
      rintro y ((hy | hy) | rfl)
      · exact lowFlags y hy
      · exact highFlags y hy
      · exact flags

/-- The sum of the first lanes. -/
def prefixSum (x : Nat → Nat) (n : Nat) : Nat := ((List.range n).map x).sum

/-- After n scan steps a lane holds the sum of the 2^n lanes up to it, as far as there are so many. -/
theorem scan_wraps {m : Nat} {op : Nat → Nat → Nat → Nat × Flags} (h : Wraps m op) (x : Nat → Nat) :
    ∀ n l, (scan op x n l).1 + prefixSum x (l + 1 - 2 ^ n) ≡ prefixSum x (l + 1) [MOD m] ∧ (scan op x n l).2 = 0
  | 0, l => by simp [scan, prefixSum, List.range_succ, Nat.add_comm, Nat.ModEq.refl]
  | n + 1, l => by
    obtain ⟨value, flags⟩ := scan_wraps h x n l
    have two : 2 ^ (n + 1) = 2 ^ n + 2 ^ n := by ring
    by_cases small : l < 2 ^ n
    · rw [show l + 1 - 2 ^ (n + 1) = l + 1 - 2 ^ n by omega, scan, if_pos small]
      exact ⟨value, flags⟩
    · obtain ⟨before, _⟩ := scan_wraps h x n (l - 2 ^ n)
      obtain ⟨sum, none'⟩ := h l (scan op x n (l - 2 ^ n)).1 (scan op x n l).1
      rw [show l - 2 ^ n + 1 = l + 1 - 2 ^ n by omega, show l + 1 - 2 ^ n - 2 ^ n = l + 1 - 2 ^ (n + 1) by omega] at before
      rw [scan, if_neg small]
      refine ⟨?_, by simp [flags, none']⟩
      calc (op l (scan op x n (l - 2 ^ n)).1 (scan op x n l).1).1 + prefixSum x (l + 1 - 2 ^ (n + 1))
          ≡ (scan op x n (l - 2 ^ n)).1 + (scan op x n l).1 + prefixSum x (l + 1 - 2 ^ (n + 1)) [MOD m] := sum.add_right _
        _ = (scan op x n l).1 + ((scan op x n (l - 2 ^ n)).1 + prefixSum x (l + 1 - 2 ^ (n + 1))) := by ring
        _ ≡ (scan op x n l).1 + prefixSum x (l + 1 - 2 ^ n) [MOD m] := before.add_left _
        _ ≡ prefixSum x (l + 1) [MOD m] := value

/-! ## `vred` and `vscan` (R190) -/

theorem vred_givesAll {w : RForm} {s : State} (h : InSlot s w.guard) {x : Nat → Nat → Nat}
    (hx : x = fun j l => if vActive s w l j then vA s w l j else redIdentity w) :
    GivesAll (.vred w) s 8 w
      (Vector.ofFn fun l => orFlags ((List.range (tyNel w.ty)).map fun j =>
        flagsAt l.val (tree (fun l => redOp w (laneFz s l)) (x j) 4 0).2))
      fun _ j => (tree (fun l => redOp w (laneFz s l)) (x j) 4 0).1 := by
  subst hx
  refine givesAll_of_switchBody h (exec_vred w s) rfl (fun l j _ => (laneTree_eq _ _).1) ?_
  congr! 5 with l j
  exact ((laneTree_eq _ _).2 l.val l.isLt).symm

theorem vscan_givesAll {w : RForm} {s : State} (h : InSlot s w.guard) :
    GivesAll (.vscan w) s 10 w
      (Vector.ofFn fun l => orFlags ((List.range (tyNel w.ty)).map fun j =>
        (scan (fun l => redOp w (laneFz s l)) (fun l => vA s w l j) 4 l.val).2))
      fun l j =>
        if w.fn.toNat % 16 < 8 then (scan (fun l => redOp w (laneFz s l)) (fun l => vA s w l j) 4 l).1
        else if l = 0 then redIdentity w
        else (scan (fun l => redOp w (laneFz s l)) (fun l => vA s w l j) 4 (l - 1)).1 := by
  refine givesAll_of_switchBody h (exec_vscan w s) rfl (fun l j hl => ?_) ?_
  · have lane (i : Nat) (hi : i < 16) := laneScan_eq (fun l => redOp w (laneFz s l)) (fun l => vA s w l j) i hi
    simp only [column, lane l hl, lane (l - 1) (by omega), vSub, beq_iff_eq]
    by_cases inclusive : w.fn.toNat % 16 < 8
    · rw [if_neg (by omega), if_pos inclusive]
    · rw [if_pos (by omega), if_neg inclusive]
  · congr! 5 with l j
    rw [column, laneScan_eq _ _ l.val l.isLt]

theorem orFlags_map_zero {α : Type} (l : List α) {f : α → Flags} (h : ∀ x ∈ l, f x = 0) : orFlags (l.map f) = 0 :=
  orFlags_zero _ (by simpa using h)

/-- Settles O17: the levels of `lanetree` and `lanescan` build the tree and the running value, and an operation that wraps
sums its lanes. -/
theorem reductionsAndScansCombineColumns : Obligations.ReductionsAndScansCombineColumns := by
  intro w s h nel op unit x y redFl sfl
  have reduction : GivesAll (.vred w) s 8 w redFl fun _ j => (tree op (x j) 4 0).1 := vred_givesAll h rfl
  have running : GivesAll (.vscan w) s 10 w sfl _ := vscan_givesAll h
  refine ⟨reduction, running, fun hu hs hf => ?_⟩
  have wraps : Wraps (2 ^ tyWidth w.ty) op := fun l a b => by
    have sum : op l a b = addElem false w (laneFz s l) a b := by simp only [op, redOp, vSub, hf]
    rw [sum]
    exact addElem_wraps hu hs _ a b
  have noFlags {f : Nat → Nat → Flags} (hz : ∀ l j, f l j = 0) :
      (Vector.ofFn fun l : Fin 16 => orFlags ((List.range nel).map fun j => f l.val j)) = Vector.replicate 16 0 := by
    refine Vector.ext fun l hl => ?_
    rw [Vector.getElem_ofFn, Vector.getElem_replicate]
    exact orFlags_map_zero _ fun j _ => hz l j
  have redNone : redFl = Vector.replicate 16 0 :=
    noFlags (f := fun l j => flagsAt l (tree op (x j) 4 0).2) fun l j =>
      orFlags_map_zero _ fun z hz => (tree_wraps wraps (x j) 4 0).2 z (List.mem_of_mem_filter hz)
  have scanNone : sfl = Vector.replicate 16 0 :=
    noFlags (f := fun l j => (scan op (y j) 4 l).2) fun l j => (scan_wraps wraps (y j) 4 l).2
  rw [redNone] at reduction
  rw [scanNone] at running
  refine ⟨givesAll_congr reduction fun l j _ => ?_, givesAll_congr running fun l j hl => ?_⟩
  · simpa using (tree_wraps wraps (x j) 4 0).1
  · have value := (scan_wraps wraps (y j) 4 l).1
    rw [show l + 1 - 2 ^ 4 = 0 by omega] at value
    rw [if_pos (by omega)]
    exact value

end Sys2Proof.Columns
end

section
/-! SUPPORT. The barrier network (R137, R299, R339). -/

namespace Sys2Proof.BarrierNetwork

open Sys2Proof.Machine Sys2Proof.Safety
open Sys2Proof.ControlProcessor (getCore_focus)

/-! ## Channels and arrival records -/

theorem isFor_settle (launch core : Nat) (die : Bool) (n : Nat) (c : Channel) :
    Channel.isFor launch core die n c.settle = Channel.isFor launch core die n c := by
  unfold Channel.settle
  split <;> rfl

theorem isFor_number {launch core n : Nat} {die : Bool} {c : Channel} (h : Channel.isFor launch core die n c = true) :
    c.number = n := by
  simp only [Channel.isFor, Bool.and_eq_true, beq_iff_eq] at h
  obtain ⟨⟨⟨_, number⟩, _⟩, _⟩ := h
  exact number

theorem arrival_setArrival (c : Core) (die : Bool) (a : Arrival) : (c.setArrival die a).arrival die = a := by
  cases die <;> rfl

theorem arrival_setArrival_other (c : Core) (die : Bool) (a : Arrival) :
    (c.setArrival die a).arrival (!die) = c.arrival (!die) := by
  cases die <;> rfl

theorem setArrival_prog (c : Core) (die : Bool) (a : Arrival) : (c.setArrival die a).prog = c.prog := by
  cases die <;> rfl

theorem onCore_focus (s : State) (f : Core → Core) : s.onCore s.focus f = { s with core := f s.core } := by
  simp [State.onCore, State.putCore, getCore_focus]

/-- The channel's arrival set has gained a core; the last arrival completes the generation (R137). -/
def arrived (core : Nat) (c : Channel) : Channel := ({ c with arrived := setAdd core c.arrived } : Channel).settle

theorem isFor_arrived (launch core n x : Nat) (die : Bool) (c : Channel) :
    Channel.isFor launch core die n (arrived x c) = Channel.isFor launch core die n c := by
  rw [arrived, isFor_settle]
  rfl

/-- The arrival of the core in focus has been counted at the channel `c` (R137). -/
def counted (s : State) (launch : Nat) (die : Bool) (n : Nat) (c : Channel) : State :=
  { s with
    core := s.core.setArrival die ⟨some c.gen, none⟩
    channels := s.channels.map fun d => if Channel.isFor launch s.focus die n d then arrived s.focus d else d }

/-- The arrival of the core in focus waits for its kernel's accesses (R299). -/
def arrivalHeld (s : State) (die : Bool) : State :=
  { s with core := s.core.setArrival die { s.core.arrival die with pending := some s.core.kern.seq } }

section
variable {s : State} {p : Prog} (hp : s.core.prog = some p)
include hp

theorem channelOf_focus (die : Bool) (n : Nat) :
    channelOf s s.focus die n = s.channels.find? (Channel.isFor p.launch s.focus die n) := by
  simp [channelOf, getCore_focus, hp]

theorem countArrival_eq {die : Bool} {n : Nat} {c : Channel}
    (hc : s.channels.find? (Channel.isFor p.launch s.focus die n) = some c) :
    countArrival s s.focus die n = counted s p.launch die n c := by
  simp only [countArrival, channelOf_focus hp, hc, getCore_focus, hp, onCore_focus]
  rfl

/-- The channel after the count. -/
theorem channelOf_counted {die : Bool} {n : Nat} {c : Channel}
    (hc : s.channels.find? (Channel.isFor p.launch s.focus die n) = some c) :
    channelOf (counted s p.launch die n c) s.focus die n = some (arrived s.focus c) := by
  have prog : (counted s p.launch die n c).core.prog = some p := (setArrival_prog _ _ _).trans hp
  have still : (fun d => Channel.isFor p.launch s.focus die n
      (if Channel.isFor p.launch s.focus die n d then arrived s.focus d else d)) = Channel.isFor p.launch s.focus die n := by
    funext d
    split
    · rw [isFor_arrived]
    · rfl
  have found : Channel.isFor p.launch s.focus die n c = true := List.find?_some hc
  refine (channelOf_focus prog die n).trans ?_
  rw [counted, List.find?_map, Function.comp_def]
  simp [still, hc, found]

end

/-! ## The bodies of the barrier words (R339) -/

/-- The trap of a failed arrival. -/
def scopeTrap (n : Nat) : Trap := { cause := .barrierScope, detail := BitVec.ofNat 32 n }

theorem arriveTrap_unclaimed {s : State} {die : Bool} {n : Nat} (h : channelOf s s.focus die n = none) :
    arriveTrap s die n = some (scopeTrap n) := by
  simp only [arriveTrap, h]
  rfl

theorem arriveTrap_claimed {s : State} {die : Bool} {n : Nat} {c : Channel} (h : channelOf s s.focus die n = some c) :
    arriveTrap s die n =
      if (s.core.arrival die).gen = some c.gen ∨ (s.core.arrival die).pending ≠ none then some (scopeTrap n) else none := by
  simp only [arriveTrap, h, Bool.or_eq_true, beq_iff_eq, Option.isSome_iff_ne_none]
  rfl

theorem arriveBody_error {s : State} {w : IForm} {t : Trap} (h : arriveTrap s (barDie w) (barChan w).toNat = some t) :
    arriveBody w s = .error (.trap t s) := by
  simp only [arriveBody, h]

theorem arriveBody_ok {s : State} {w : IForm} (h : arriveTrap s (barDie w) (barChan w).toNat = none) :
    arriveBody w s = .ok (arriveNow s (barDie w) (barChan w).toNat) := by
  simp only [arriveBody, h]

theorem arriveNow_counts {s : State} {die : Bool} {n : Nat}
    (h : s.place = .cp ∨ s.core.kern.settled s.core.kern.seq = true) : arriveNow s die n = countArrival s s.focus die n := by
  rw [arriveNow, if_pos]
  rwa [Bool.or_eq_true, onCpPlace_iff]

theorem arriveNow_holds {s : State} {die : Bool} {n : Nat}
    (h : ¬ (s.place = .cp ∨ s.core.kern.settled s.core.kern.seq = true)) : arriveNow s die n = arrivalHeld s die := by
  rw [arriveNow, if_neg]
  · rfl
  · rwa [Bool.or_eq_true, onCpPlace_iff]

/-- A kernel that waits at a barrier: its time stands, and what it wrote is shown (R299, R339). -/
def barrierFrozen (s : State) (die : Bool) (chan : BitVec 3) : State :=
  s.withKern { s.core.kern with freeze := .barrier die chan s.clock s.core.kern.seq, shown := s.core.kern.seq }

theorem waitBody_unarmed {s : State} {w : IForm} (h : (s.core.arrival (barDie w) = ⟨none, none⟩) ∨
    channelOf s s.focus (barDie w) (barChan w).toNat = none) :
    waitBody w s = .error (.trap { cause := .barrierUnarmed } s) := by
  rw [waitBody, if_pos]
  rcases h with h | h <;> simp [h]

/-- The generation has completed since the recorded arrival. -/
theorem waitBody_passes {s : State} {w : IForm} {c : Channel} {g : Bool} (ha : s.core.arrival (barDie w) = ⟨some g, none⟩)
    (hc : channelOf s s.focus (barDie w) (barChan w).toNat = some c) (hg : g ≠ c.gen) : waitBody w s = .ok s := by
  simp [waitBody, barReleased, getCore_focus, ha, hc, hg]

/-- The generation of the recorded arrival has not completed. -/
theorem waitBody_waits {s : State} {w : IForm} {c : Channel} {g : Bool} (ha : s.core.arrival (barDie w) = ⟨some g, none⟩)
    (hc : channelOf s s.focus (barDie w) (barChan w).toNat = some c) (hg : g = c.gen) :
    waitBody w s = if s.place = .cp then .error (.wait s) else .ok (barrierFrozen s (barDie w) (barChan w)) := by
  simp only [waitBody, barReleased, getCore_focus, ha, hc, hg, bne_self_eq_false, onCpPlace_iff]
  rfl

/-- The arrival has not been counted yet. -/
theorem waitBody_waits_pending {s : State} {w : IForm} {c : Channel} (ha : (s.core.arrival (barDie w)).pending ≠ none)
    (hc : channelOf s s.focus (barDie w) (barChan w).toNat = some c) :
    waitBody w s = if s.place = .cp then .error (.wait s) else .ok (barrierFrozen s (barDie w) (barChan w)) := by
  simp only [waitBody, barReleased, getCore_focus, hc, Option.isNone_eq_false_iff.2 (Option.isSome_iff_ne_none.2 ha),
    Bool.and_false, Bool.false_and, Option.isNone_some, Bool.or_false, onCpPlace_iff]
  rfl

/-! ## The barrier words (R339) -/

/-- A word that completes, on the CP and in a slot. -/
theorem runPlain_ends {s t : State} {opc : BitVec 8} {g : BitVec 4} {body : State → Body} (hg : guardHolds s g = true)
    (hb : body s = .ok t) : runPlain s opc g body = .next (if s.place = .cp then cpDone t t.core.cp else t) := by
  simp only [runPlain_ok hg hb, onCpPlace_iff]
  rfl

/-- A wait that is not over holds the CP at its word, and freezes a kernel. -/
theorem runPlain_waits {s : State} {g : BitVec 4} {body : State → Body} {die : Bool} {chan : BitVec 3}
    (hg : guardHolds s g = true)
    (hb : body s = if s.place = .cp then .error (.wait s) else .ok (barrierFrozen s die chan)) :
    runPlain s 0xC6 g body =
      .next (if s.place = .cp then stayHere s false true 0xC6 none else barrierFrozen s die chan) := by
  by_cases hp : s.place = .cp
  · rw [if_pos hp] at hb ⊢
    rw [runPlain_error hg hb, stopWord, if_pos (onCpPlace_of_cp hp)]
  · rw [if_neg hp] at hb ⊢
    rw [runPlain_ok hg hb, onCpPlace_of_slot hp]
    rfl

/-- `bar.sync` is an arrival and then a wait. -/
theorem exec_barSync_eq (w : IForm) (s : State) :
    exec (.barSync w) s = runPlain s 0xC6 w.guard fun s => (arriveBody w s).bind (waitBody w) := rfl

theorem syncBody_of_arrived {w : IForm} {s : State} (h : arriveTrap s (barDie w) (barChan w).toNat = none) :
    (arriveBody w s).bind (waitBody w) = waitBody w (arriveNow s (barDie w) (barChan w).toNat) := by
  rw [arriveBody_ok h]
  rfl

/-- A failed arrival stops `bar.arrive` and `bar.sync`. -/
theorem arrive_fails {w : IForm} {s : State} (hg : guardHolds s w.guard = true)
    (h : arriveTrap s (barDie w) (barChan w).toNat = some (scopeTrap (barChan w).toNat)) :
    exec (.barArrive w) s = .next (stopWord s 0xC6 (.trap (scopeTrap (barChan w).toNat) s)) ∧
      exec (.barSync w) s = .next (stopWord s 0xC6 (.trap (scopeTrap (barChan w).toNat) s)) := by
  have stopped := arriveBody_error h
  refine ⟨runPlain_error hg stopped, ?_⟩
  rw [exec_barSync_eq]
  exact runPlain_error hg (by rw [stopped]; rfl)

theorem countPending_none {s : State} {die : Bool} (h : (s.core.arrival die).pending = none) :
    countPending s s.focus die = s := by
  simp only [countPending, getCore_focus, h]

/-- The held arrival counts at the channel that the core participates in (R299). -/
theorem countPending_counts {s : State} {p : Prog} {die : Bool} {q : Nat} {c : Channel} (hp : s.core.prog = some p)
    (hpend : (s.core.arrival die).pending = some q) (hset : s.core.kern.settled q = true)
    (hfind : s.channels.find? (fun d => d.launch == p.launch && d.parts.contains s.focus && d.quad.isNone == die) = some c)
    (hc : s.channels.find? (Channel.isFor p.launch s.focus die c.number) = some c) :
    countPending s s.focus die = counted s p.launch die c.number c := by
  simp only [countPending, getCore_focus, hpend, hp, hset, if_true, hfind]
  exact countArrival_eq hp hc

/-- Settles O25: an arrival is counted or held, and a wait compares its record with the generation of the channel. -/
theorem barrierWordsArriveAndWait : Obligations.BarrierWordsArriveAndWait := by
  intro w s p hg hp die chan mine a cp ends waits fails after counted' held now
  have channel {o : Option Channel} (h : s.channels.find? mine = o) : channelOf s s.focus die chan.toNat = o :=
    (channelOf_focus hp die chan.toNat).trans h
  refine ⟨fun c hc hgen hpend => ?_, fun hc => ?_, fun c hc hrec => ?_, fun hcp hc => ?_, fun h => ?_, fun c g hc ha => ?_,
    fun c hc hpend => ?_, fun c q hfind hmine hc hpend hother hset => ?_⟩
  · have pass : arriveTrap s die chan.toNat = none := by
      rw [arriveTrap_claimed (channel hc), if_neg]
      rintro (h | h)
      exacts [hgen h, h hpend]
    have count (h : now) : arriveNow s die chan.toNat = counted' c := (arriveNow_counts h).trans (countArrival_eq hp hc)
    have hold (h : ¬ now) : arriveNow s die chan.toNat = held := arriveNow_holds h
    have sync {t : State} (h : ¬ cp) (hb : waitBody w (arriveNow s die chan.toNat) = .ok t) :
        exec (.barSync w) s = .next t := by
      rw [exec_barSync_eq]
      exact runPlain_slot ⟨h, hg⟩ ((syncBody_of_arrived pass).trans hb)
    have record : (counted' c).core.arrival die = ⟨some c.gen, none⟩ := arrival_setArrival _ _ _
    have channel' : channelOf (counted' c) s.focus die chan.toNat = some (after c) := channelOf_counted hp hc
    refine ⟨fun h => ?_, fun h => ?_, fun hcp h hflip => ?_, fun hcp h hkeep => ?_, fun hcp h => ?_⟩
    · exact runPlain_ends hg ((arriveBody_ok pass).trans (congrArg _ (count h)))
    · have slot : s.place ≠ .cp := fun hcp => h (.inl hcp)
      exact runPlain_slot ⟨slot, hg⟩ ((arriveBody_ok pass).trans (congrArg _ (hold h)))
    · refine sync hcp ?_
      rw [count h]
      exact waitBody_passes record channel' hflip.symm
    · refine sync hcp ?_
      rw [count h, waitBody_waits record channel' hkeep.symm]
      exact (if_neg hcp).trans (congrArg _ (if_neg hcp).symm)
    · refine sync hcp ?_
      have pending : (held.core.arrival die).pending ≠ none := by simp [held, arrival_setArrival]
      have channelHeld : channelOf held s.focus die chan.toNat = some c :=
        (channelOf_focus ((setArrival_prog _ _ _).trans hp) die chan.toNat).trans hc
      rw [hold h, waitBody_waits_pending pending channelHeld]
      exact (if_neg hcp).trans (congrArg _ (if_neg hcp).symm)
  · exact (arrive_fails hg (arriveTrap_unclaimed (channel hc))).1
  · have trap := arriveTrap_claimed (channel hc)
    rw [if_pos hrec] at trap
    exact ⟨(arrive_fails hg trap).1, fun _ => (arrive_fails hg trap).2⟩
  · exact (arrive_fails hg (arriveTrap_unclaimed (channel hc))).2
  · refine runPlain_error hg (waitBody_unarmed (h.imp (fun ⟨hgen, hpend⟩ => ?_) channel))
    exact congrArg₂ Arrival.mk hgen hpend
  · exact ⟨fun h => runPlain_ends hg (waitBody_passes ha (channel hc) h),
      fun h => runPlain_waits hg (waitBody_waits ha (channel hc) h)⟩
  · exact runPlain_waits hg (waitBody_waits_pending hpend (channel hc))
  · have number : c.number = chan.toNat := isFor_number hmine
    have count : countPending s s.focus die = counted' c := by
      have named := countPending_counts hp hpend hset hfind (number ▸ hc)
      rwa [number] at named
    have otherDone : ((counted' c).core.arrival (!die)).pending = none := by
      rw [show (counted' c).core.arrival (!die) = s.core.arrival (!die) from arrival_setArrival_other _ _ _]
      exact hother
    refine congrArg Host.Outcome.next ?_
    rcases hd : die with _ | _
    · rw [hd] at count otherDone
      rw [count]
      exact countPending_none otherDone
    · rw [hd] at count hother
      have first : countPending s s.focus false = s := countPending_none hother
      rw [first, count]

end Sys2Proof.BarrierNetwork
end

section
/-! SUPPORT. Accesses of the S slot at issue (R127, R291, R292, R318). -/

namespace Sys2Proof.KernelAccesses

open Sys2Proof.Machine Sys2Proof.Safety Sys2Proof.Claims

/-! ## Entries of the two buffers (R128, R318) -/

theorem freeEntry_of_lowest {v : Vector (Option LogEntry) 32} {q : Fin 32} (h : LowestFree v q) : freeEntry v = some q := by
  obtain ⟨free, lower⟩ := h
  rw [freeEntry, List.find?_eq_some_iff_getElem]
  refine ⟨by simp [free], q.val, by simp, by simp, fun j hj => ?_⟩
  have := lower ⟨j, hj.trans q.isLt⟩ hj
  simpa [Option.isSome_iff_ne_none] using this

theorem freeEntry_of_full {v : Vector (Option LogEntry) 32} (h : ∀ q, v.get q ≠ none) : freeEntry v = none := by
  simp [freeEntry, h]

/-- A `fence.rel` makes the next strong write a release (R293). -/
theorem fenced_eq (s : State) (e : LogEntry) :
    fenced s e = (s.withKern { s.core.kern with fenceRel := s.core.kern.fenceRel && !releases s e },
      { e with fence := if releases s e = true then e.fence ||| 2 else e.fence }) := by
  have state : (s.core.kern.fenceRel && isStrong e.opc && writesMem e.opc) = releases s e := rfl
  rw [fenced, state]
  cases releases s e
  · have same : s.core.kern = { s.core.kern with fenceRel := s.core.kern.fenceRel && !false } := by simp
    rw [← same]
    rfl
  · simp

theorem enterLanding_free {s : State} {q : Fin 32} (h : LowestFree s.core.kern.landing q) (e : LogEntry) :
    enterLanding s e = .ok (s.withKern { s.core.kern with
      seq := s.core.kern.seq + 1, fenceRel := s.core.kern.fenceRel && !releases s e,
      landing := s.core.kern.landing.set q (some (logged s e)) }) := by
  simp only [enterLanding, freeEntry_of_lowest h, fenced_eq]
  rfl

theorem enterLanding_full {s : State} (h : ∀ q, s.core.kern.landing.get q ≠ none) (e : LogEntry) :
    enterLanding s e = .error (.wait s) := by
  simp only [enterLanding, freeEntry_of_full h]

theorem enterWrite_free {s : State} {q : Fin 32} (h : LowestFree s.core.kern.wqueue q) (e : LogEntry) :
    enterWrite s e = .ok (s.withKern { s.core.kern with
      seq := s.core.kern.seq + 1, fenceRel := s.core.kern.fenceRel && !releases s e,
      wqueue := s.core.kern.wqueue.set q (some (logged s e)) }) := by
  simp only [enterWrite, freeEntry_of_lowest h, fenced_eq]
  rfl

theorem enterWrite_full {s : State} (h : ∀ q, s.core.kern.wqueue.get q ≠ none) (e : LogEntry) :
    enterWrite s e = .error (.wait s) := by
  simp only [enterWrite, freeEntry_of_full h]

theorem enterOwn_eq (s : State) (e : LogEntry) (cells : List Host.Cell) : enterOwn s e cells = ownWrites s e cells := by
  simp only [enterOwn, fenced_eq]
  rfl

/-! ## Words of the S slot -/

/-- A slot word that finds no place executes again (R318). -/
theorem runPlain_again {s x : State} {opc : BitVec 8} {g : BitVec 4} {body : State → Body} (h : InSlot s g)
    (hb : body s = .error (.wait x)) : runPlain s opc g body = .next (slotAgain x) := by
  rw [runPlain_error h.2 hb]
  simp [stopWord, onCpPlace_of_slot h.1]

/-- In a slot every kind of wait executes the word again. -/
theorem runPlain_asWait {s : State} {opc : BitVec 8} {g : BitVec 4} (hp : s.place ≠ .cp) (a : State → Word)
    (body : State → Body) : runPlain s opc g (fun s => asWait (a s) (body s)) = runPlain s opc g body := by
  have slot := onCpPlace_of_slot hp
  simp only [runPlain, runBody]
  rcases body s with stop | t
  · cases stop <;> simp [asWait, stopWord, slot]
  · rfl

section
variable {i : Instr} {s x : State} {opc : BitVec 8} {g : BitVec 4} {body : State → Body} {e : LogEntry}
  (h : InSlot s g) (hi : exec i s = runPlain s opc g body)
include h hi

theorem landsIn_of_body (hb : body s = enterLanding x e) : LandsIn i s x e :=
  ⟨fun _ hq => hi.trans (runPlain_slot h (hb.trans (enterLanding_free hq e))),
    fun hf => hi.trans (runPlain_again h (hb.trans (enterLanding_full hf e)))⟩

theorem queues_of_body (hb : body s = enterWrite s e) : Queues i s e :=
  ⟨fun _ hq => hi.trans (runPlain_slot h (hb.trans (enterWrite_free hq e))),
    fun hf => hi.trans (runPlain_again h (hb.trans (enterWrite_full hf e)))⟩

end

/-! ## An access after its front checks (R291, R318) -/

theorem runAccess_slot {s : State} {e : LogEntry} {align : Nat} {done : State → List Byte → State} (hp : s.place ≠ .cp)
    (hf : frontTrap e.addr e.size align anyAperture (writesMem e.opc) = none) :
    runAccess s e align done = kernPerform s e := by
  simp [runAccess, hf, onCpPlace_of_slot hp]

theorem kernPerform_write_own {s : State} {e : LogEntry} {off : Nat} (hs : isStore e.opc = true)
    (ho : ownOffset s e.addr = some off) : kernPerform s e = .ok (ownWrites s e (atAddr off e.bytes)) := by
  simp [kernPerform, hs, ho, enterOwn_eq]

theorem kernPerform_write_away {s : State} {e : LogEntry} (hs : isStore e.opc = true) (ho : ownOffset s e.addr = none) :
    kernPerform s e = enterWrite s e := by
  simp [kernPerform, hs, ho]

/-- A reduction or a `join` returns nothing. -/
theorem kernPerform_reduction {s : State} {e : LogEntry} (h : e.opc = 0xB9 ∨ e.opc = 0xBB) :
    kernPerform s e = enterWrite s e := by
  rcases h with h | h <;> simp [kernPerform, isStore, engWrite, h]

/-- An access that returns a value. -/
theorem kernPerform_returning {s : State} {e : LogEntry} (hs : isStore e.opc = false) (h9 : e.opc ≠ 0xB9)
    (hB : e.opc ≠ 0xBB) : kernPerform s e =
      match ownLoad s e with
      | some off =>
        match (if mayPerform s (logged s e) then walkOlder s s.core.kern.seq else none) with
        | some y => enterLanding y { e with status := ownRead y e (y.core.srfOwn s.core.kern.seq) off }
        | none => enterLanding s e
      | none => enterLanding s e := by
  have kind : (e.opc == 0xB9 || e.opc == 0xBB) = false := by
    rw [beq_eq_false_iff_ne.2 h9, beq_eq_false_iff_ne.2 hB]; rfl
  simp only [kernPerform, hs, kind, fenced_eq, Bool.false_eq_true, if_false]
  rfl

/-! ## A kernel without accesses in flight -/

theorem inFlightBefore_of_noEntries {k : Kern} (entries : k.entries = []) (q : Nat) : k.inFlightBefore q = [] := by
  simp [Kern.inFlightBefore, entries, rising]

theorem unperformed_of_noWrites {k : Kern} (pend : k.pend = []) (undo : k.undo = []) (xforms : k.xforms = []) :
    k.unperformed = [] := by
  simp [Kern.unperformed, Kern.ownWrites, pend, undo, xforms]

section
variable {s : State} (entries : s.core.kern.entries = []) (pend : s.core.kern.pend = []) (undo : s.core.kern.undo = [])
include pend undo

theorem srfOwn_of_idle (q : Nat) : s.core.srfOwn q = s.core.srf := by
  simp [Core.srfOwn, Core.takeBack, pend, undo]

omit pend undo
include entries

theorem walkOlder_of_noEntries (q : Nat) : walkOlder s q = some s := by
  simp [walkOlder, inFlightBefore_of_noEntries entries]

theorem changesWalk_of_noEntries (e : LogEntry) : changesWalk s e = false := by
  simp [changesWalk, afterOlder, inFlightBefore_of_noEntries entries]

include pend undo

theorem mayPerform_of_idle (xforms : s.core.kern.xforms = []) (freeze : s.core.kern.freeze = .none) (e : LogEntry) :
    mayPerform s e = true := by
  have done := unperformed_of_noWrites pend undo xforms
  simp [mayPerform, entries, changesWalk_of_noEntries entries, Kern.ownBefore, Kern.ownStrong, done, Kern.pinned,
    Kern.barred, freeze]

end

/-! ## Loads, stores, atomics and lattice words of the S slot -/

/-- A load: neither a store, an atomic nor a lattice word. -/
def isLoad (o : BitVec 8) : Bool := !isStore o && !isAtomic o && !isLatticeOp o

section
variable {i : Instr} {s : State} {opc : BitVec 8} {g : BitVec 4} {body : State → Body} {e : LogEntry} {align : Nat}
  {done : State → List Byte → State} (h : InSlot s g) (hi : exec i s = runPlain s opc g body)
  (hb : body s = runAccess s e align done)
  (hf : frontTrap e.addr e.size align anyAperture (writesMem e.opc) = none)
include h hb hf

theorem access_body : body s = kernPerform s e := hb.trans (runAccess_slot h.1 hf)

include hi

/-- An atomic that returns a value, or `ldge`. -/
theorem lands_of_operation (hk : e.opc = 0xB8 ∨ e.opc = 0xBA ∨ e.opc = 0xBC) : Lands i s e := by
  refine landsIn_of_body h hi ((access_body h hb hf).trans ?_)
  rcases hk with hk | hk | hk <;>
  · have away : ownLoad s e = none := by simp [ownLoad, isStore, isAtomic, isLatticeOp, engWrite, hk]
    rw [kernPerform_returning (by rw [hk]; decide) (by rw [hk]; decide) (by rw [hk]; decide), away]

/-- A reduction or `join`. -/
theorem queues_of_operation (hk : e.opc = 0xB9 ∨ e.opc = 0xBB) : Queues i s e :=
  queues_of_body h hi ((access_body h hb hf).trans (kernPerform_reduction hk))

theorem store_issues (hk : isStore e.opc = true) :
    (ownOffset s e.addr = none → Queues i s e) ∧
      ∀ off, ownOffset s e.addr = some off → exec i s = .next (ownWrites s e (atAddr off e.bytes)) :=
  ⟨fun ho => queues_of_body h hi ((access_body h hb hf).trans (kernPerform_write_away hk ho)),
    fun _ ho => hi.trans (runPlain_slot h ((access_body h hb hf).trans (kernPerform_write_own hk ho)))⟩

/-- A load from the own SRF reads at issue unless something older holds it back (R289, R291). -/
theorem load_issues (hk : isLoad e.opc = true) :
    (ownOffset s e.addr = none → Lands i s e) ∧
      ∀ off, ownOffset s e.addr = some off →
        (mayPerform s (logged s e) = false ∨ walkOlder s s.core.kern.seq = none → Lands i s e) ∧
        ∀ y, mayPerform s (logged s e) = true → walkOlder s s.core.kern.seq = some y → y.core.srfBad off e.size = false →
          LandsIn i s y { e with
            status := .data ((List.range e.size).map fun j => cellGet (y.core.srfOwn s.core.kern.seq) (off + j)) } := by
  simp only [isLoad, Bool.and_eq_true, Bool.not_eq_true'] at hk
  obtain ⟨⟨store, atomic⟩, lattice⟩ := hk
  have here : ownLoad s e = ownOffset s e.addr := by simp [ownLoad, store, atomic, lattice]
  have body := (access_body h hb hf).trans (kernPerform_returning store
    (fun h9 => by rw [h9] at atomic; exact absurd atomic (by decide))
    (fun hB => by rw [hB] at lattice; exact absurd lattice (by decide)))
  rw [here] at body
  refine ⟨fun ho => landsIn_of_body h hi ?_, fun off ho => ⟨fun hw => landsIn_of_body h hi ?_, fun y hm hy hs =>
    landsIn_of_body h hi ?_⟩⟩
  · rw [body, ho]
  · rw [body, ho]
    rcases hw with hw | hw <;> simp [hw]
  · rw [body, ho]
    simp only [hm, hy, if_true, ownRead, hs]
    rfl

end

/-- Settles O23: each word of the S slot is one access, which its kind leads into a buffer or to the own SRF. -/
theorem kernelAccessesEnterTheirBuffers : Obligations.KernelAccessesEnterTheirBuffers := by
  intro w s h n cell d a x b ok e load store ea amo red at' k
  have amos {i : Instr} {op : BitVec 4} (hi : exec i s = amoWord op w s) : amo i op := fun hf =>
    lands_of_operation (e := { e 0xB8 ea n with aop := op, operand := b, dest := d }) h hi rfl hf (.inl rfl)
  have reds {i : Instr} {op : BitVec 4} (hi : exec i s = redWord op w s) : red i op := fun hf =>
    queues_of_operation (e := { e 0xB9 ea n with aop := op, operand := b }) h hi rfl hf (.inl rfl)
  refine ⟨fun entries pend undo xforms freeze => ⟨srfOwn_of_idle pend undo _, walkOlder_of_noEntries entries _,
      fun e _ => mayPerform_of_idle entries pend undo xforms freeze e⟩,
    fun hf => load_issues (e := { e 0xB0 a n with dest := d }) h (exec_ld w s) rfl hf rfl,
    fun hf => load_issues (e := { e 0xB2 a n with dest := d }) h (exec_lds w s) rfl hf rfl,
    fun hf => load_issues (e := { e 0xB4 a 16 with dest := some (.kpair (w.d.setWidth 5)) }) h (exec_ldq w s) rfl hf rfl,
    fun hf => store_issues (e := { e 0xB1 a n with bytes := leBytes n x }) h (exec_st w s) rfl hf rfl,
    fun hf => store_issues (e := { e 0xB3 a n with bytes := leBytes n x }) h (exec_sts w s) rfl hf rfl,
    fun hf => store_issues (e := { e 0xB5 a 16 with bytes := leBytes 8 x ++ leBytes 8 (readR s (w.d + 1)).toNat }) h
      (exec_stq w s) rfl hf rfl,
    fun hf => store_issues (e := { e 0xB7 a 128 with bytes := List.replicate 128 0 }) h (exec_stz w s) rfl hf rfl,
    (exec_pref w s).trans (runPlain_slot h rfl),
    amos (exec_amoAdd w s), amos (exec_amoAnd w s), amos (exec_amoOr w s), amos (exec_amoXor w s), amos (exec_amoMin w s),
    amos (exec_amoMax w s), amos (exec_amoExch w s), amos (exec_amoFadd w s),
    reds (exec_redAdd w s), reds (exec_redAnd w s), reds (exec_redOr w s), reds (exec_redXor w s), reds (exec_redMin w s),
    reds (exec_redMax w s), reds (exec_redFadd w s),
    fun hf => lands_of_operation (e := { e 0xBA at' n with dest := d, expected := readR s w.d, operand := b }) h
      (exec_cas w s) rfl hf (.inr (.inl rfl)),
    fun hf => lands_of_operation (e := { e 0xBC at' cell with dest := d, operand := b }) h
      ((exec_ldge w s).trans (runPlain_asWait h.1 _ _)) rfl hf (.inr (.inr rfl)),
    fun hf => queues_of_operation (e := { e 0xBB at' cell with operand := b }) h (exec_join w s) rfl hf (.inr rfl)⟩

end Sys2Proof.KernelAccesses
end

section
/-! SUPPORT. A malformed transform at its cycle (R229, R289). -/

namespace Sys2Proof.TimedResults

open Sys2Proof.Machine Sys2Proof.Safety Sys2Proof.Claims

/-- An `xexp` of a malformed run, due now: the first of the two accesses of its kernel. -/
def malformedRun : Xform := { due := 48, seq := 0, opc := 0xA4, bundle := 0, enables := 0, raised := 0, bytes := none }

/-- What the store after it replaced in the own SRF: kept for as long as the transform, which is older, is not performed. -/
def replaced : Undo := { seq := 1, order := ⟨0xB1, 0, 0, 0⟩, applied := 2, bytes := [(64, 0)] }

/-- A running kernel whose store has taken effect while the malformed transform was in flight. -/
def malformedDue : State :=
  (State.reset.withCp { CP.reset with run := .running }).withKern { State.reset.core.kern with
    kstat := 0x10001, ktime := 48, seq := 2, xforms := [malformedRun], undo := [replaced] }

theorem malformedDue_next :
    kernelNext (passIdle (malformedDue.focusOn 0)) = .event (.xform malformedRun) ∧ replaced ∈ malformedDue.core.kern.undo ∧
      malformedDue.core.kern.wants replaced = true := by
  decide +kernel

/-- What the own SRF held before writes that have taken effect, after a step. -/
def undoAfter (o : Out) : List Undo :=
  match o with
  | .next t => t.core.kern.undo
  | _ => []

/-- With the transform gone nothing older than the store is left, and what it replaced is forgotten. -/
theorem malformedDue_forgets : undoAfter (exec (.transformComplete 0) malformedDue) = [] := by
  decide +kernel

/-- Refutes O42: at the end of a malformed transform the model also drops what its kernel's younger writes to the own SRF
had replaced, which the statement's next state keeps. -/
theorem not_timedResultsTakeEffect : ¬ Obligations.TimedResultsTakeEffect := by
  intro h
  obtain ⟨-, -, -, transforms, -⟩ := h 0 malformedDue
  obtain ⟨next, -, -⟩ := malformedDue_next
  have held := (transforms malformedRun next).2 rfl
  have forgotten := malformedDue_forgets
  rw [held] at forgotten
  revert forgotten
  decide +kernel

end Sys2Proof.TimedResults
end

section
/-! SUPPORT. The life of a kernel (R116-R126, R133, R404-R411). -/

namespace Sys2Proof.KernelEngine

open Sys2Proof.Machine Sys2Proof.Safety Sys2Proof.Claims
open Sys2Proof.ControlProcessor (leaves_of_atCore getCore_focus fld_setFld_same fld_setFld_other bit_setFld_other)

/-! ## A turn of the kernel engine (R7, R116) -/

/-- An event of the kernel engine takes the kernel's next action when it is of its kind. -/
theorem leaves_of_next {i : Instr} {s t : State} {n : Nat} {p : KNext → Bool} {a : KNext}
    (hi : exec i s = kernelWhen s n p) (ha : kernelNext (passIdle (s.focusOn n)) = a) (hp : p a = true)
    (ht : kernelStep (passIdle (s.focusOn n)) a = t) : Leaves i s t := by
  refine leaves_of_atCore hi ?_
  rw [ha, if_pos hp, kernelTurn, ha, ht]

/-- A turn of the kernel engine with no slot word to run. -/
theorem step_of_kernelActs {s x : State} (hs : slotFirst s = none) (h : KernelActs s x)
    (hi : x.core.kern.issuing = none) : step s = .next (kernelTurn x) := by
  obtain ⟨n, rest, agenda, rfl⟩ := h
  have idle : slotNext ((tick { s with agenda := rest }).focusOn n) = none := by
    simp [slotNext, hi]
  unfold step
  simp [hs, agenda, takeTurn, idle]

theorem running_of_kernelNext {s : State} (h : kernelNext s ≠ .rest) : s.core.cp.run = .running := by
  by_contra stopped
  exact h (by simp [kernelNext, stopped])

/-! ## Idle cycles (R116) -/

theorem foldl_min_le (l : List Nat) (a : Nat) : l.foldl Nat.min a ≤ a ∧ ∀ x ∈ l, l.foldl Nat.min a ≤ x := by
  induction l generalizing a with
  | nil => simp
  | cons y l ih =>
    obtain ⟨start, rest⟩ := ih (Nat.min a y)
    refine ⟨start.trans (Nat.min_le_left a y), fun x hx => ?_⟩
    rcases List.mem_cons.1 hx with rfl | hx
    · exact start.trans (Nat.min_le_right a x)
    · exact rest x hx

/-- Idle cycles change nothing but kernel time, and end at the next issue or the next thing due. -/
theorem passIdle_eq (x : State) : ∃ t, passIdle x = x.withKern { x.core.kern with ktime := t } ∧
    (kernelNext x ≠ .cycle → t = x.core.kern.ktime) ∧
    (kernelNext x = .cycle → x.core.kern.ending = false → t ≤ x.core.kern.nextIssue ∧ ∀ e ∈ x.core.kern.timed, t ≤ e.due) := by
  by_cases h : kernelNext x = .cycle
  · refine ⟨_, by simp only [passIdle, h]; rfl, fun hn => absurd h hn, fun _ going => ?_⟩
    rw [going, if_neg Bool.false_ne_true]
    obtain ⟨start, dues⟩ := foldl_min_le (x.core.kern.timed.map KEvent.due) x.core.kern.nextIssue
    exact ⟨start, fun e he => dues _ (List.mem_map_of_mem he)⟩
  · refine ⟨x.core.kern.ktime, ?_, fun _ => rfl, fun hc => absurd hc h⟩
    unfold passIdle
    split
    · next hc => exact absurd hc h
    · rfl

theorem passIdle_of_not_cycle {x : State} (h : kernelNext x ≠ .cycle) : passIdle x = x := by
  obtain ⟨t, eq, same, -⟩ := passIdle_eq x
  rw [eq, same h]
  rfl

/-! ## The start of a kernel (R133) -/

/-- The first `krun` whose kernel has not run is the next to start. -/
theorem nextKrun_of_first {u : StreamUnit} {pre post : List QEntry} {e : QEntry} (hu : u.flight = pre ++ e :: post)
    (hopc : e.opc = 0xD8) (hstage : e.stage = .running)
    (hpre : ∀ y ∈ pre, y.opc = 0xD8 → ∃ f m, y.stage = .completing f m) : nextKrun u = some e := by
  unfold nextKrun
  rw [hu, List.find?_append, List.find?_eq_none.2]
  · simp [hopc, hstage]
  · intro y hy hk
    rw [Bool.and_eq_true, beq_iff_eq] at hk
    obtain ⟨opc, waits⟩ := hk
    obtain ⟨f, m, stage⟩ := hpre y hy opc
    simp [stage] at waits

/-- KSTAT of a kernel that starts (R133). -/
def startKstat (k : Kern) (e : QEntry) : Word := setFld (setFld (setFld k.kstat 0 2 1) 13 2 0) 16 11 (fld e.b 0 11)

theorem startKernel_eq {x : State} {e : QEntry} (hr : x.core.cp.run = .running) (hp : x.core.ctx.pend = false)
    (hs : fld x.core.kern.kstat 0 2 = 0) (he : nextKrun x.core.st = some e) :
    startKernel x = x.withKern { x.core.kern with
      kstat := startKstat x.core.kern e, kpc := BitVec.ofNat 64 (fld e.a 0 11), nextPc := fld e.a 0 11, ktime := 0
      nextIssue := 0, resume := 0, busy := Vector.replicate 4 0, krun := some e.seq } := by
  have stopped : x.core.kern.stState = 0 := hs
  simp only [startKernel, hr, hp, stopped, he]
  rfl

theorem startKstat_fields (k : Kern) (e : QEntry) :
    fld (startKstat k e) 0 2 = 1 ∧ fld (startKstat k e) 13 2 = 0 ∧ fld (startKstat k e) 16 11 = fld e.b 0 11 ∧
      ∀ i, i < 64 → i ∉ [0, 1, 13, 14] → i < 16 ∨ 27 ≤ i → bit (startKstat k e) i = bit k.kstat i := by
  refine ⟨?_, ?_, ?_, fun i _ hi hend => ?_⟩
  · rw [startKstat, fld_setFld_other (by decide), fld_setFld_other (by decide), fld_setFld_same (by decide)]
    rfl
  · rw [startKstat, fld_setFld_other (by decide), fld_setFld_same (by decide)]
    rfl
  · rw [startKstat, fld_setFld_same (by decide)]
    exact Nat.mod_eq_of_lt (Nat.mod_lt _ (by decide))
  · simp only [List.mem_cons, List.not_mem_nil, or_false, not_or] at hi
    rw [startKstat, bit_setFld_other _ (by omega), bit_setFld_other _ (by omega), bit_setFld_other _ (by omega)]

/-! ## The checks of a bundle (R72, R73, R116-R125) -/

theorem headerBad_iff (h : Word) : bundleHeaderBad h = true ↔ ¬ (fld h 8 3 ≤ 5 ∧ fld h 11 21 = 0) := by
  simp [bundleHeaderBad]
  omega

section
variable {x : State}

theorem issueBundle_range (h : 1024 ≤ x.core.kern.nextPc) : issueBundle x =
    bundleFault x 1024 0 0 { cause := .kstoreRange, detail := BitVec.ofNat 32 x.core.kern.nextPc } := by
  simp [issueBundle, h]

variable (hpc : x.core.kern.nextPc < 1024)
include hpc

theorem issueBundle_header (h : bundleHeaderBad (storeWord64 x.core.kern (8 * x.core.kern.nextPc)) = true) :
    issueBundle x = bundleFault x x.core.kern.nextPc 0 0 { cause := .badHeader } := by
  simp [issueBundle, Nat.not_le.2 hpc, h]

variable (hgood : bundleHeaderBad (storeWord64 x.core.kern (8 * x.core.kern.nextPc)) = false)
include hgood

theorem issueBundle_word {n : Nat} {w : Word} {t : Trap}
    (hw : bundleWords x x.core.kern.nextPc ((storeWord64 x.core.kern (8 * x.core.kern.nextPc)).extractLsb' 32 32)
      x.core.kern.resumeSlot = .error (n, w, t)) :
    issueBundle x = bundleFault x x.core.kern.nextPc n (opcOf w) t := by
  simp [issueBundle, Nat.not_le.2 hpc, hgood, hw]

/-- A bundle whose words pass their checks: those of the bundle as a whole, and the holds. -/
theorem issueBundle_words {l : List SlotWord}
    (hw : bundleWords x x.core.kern.nextPc ((storeWord64 x.core.kern (8 * x.core.kern.nextPc)).extractLsb' 32 32)
      x.core.kern.resumeSlot = .ok l) :
    let k := x.core.kern
    let whole := k.resumeSlot == 1
    let free := l.foldl (fun t w => Nat.max t (Machine.unitBusy k k.ktime w)) k.ktime
    issueBundle x =
      if whole && slotConflict l then bundleFault x k.nextPc 0 0 { cause := .slotConflict }
      else if whole && k.delay != 0 && l.any isBranch then bundleFault x k.nextPc 0 0 { cause := .delayBranch }
      else if landingHold x l > k.ktime then x.withKern { k with nextIssue := landingHold x l }
      else if whole && k.check && accepted x 3 && stallShort k k.ktime l then
        bundleFault x k.nextPc 0 0 { cause := .stallShort }
      else if free > k.ktime then x.withKern { k with nextIssue := free }
      else if l.countP (needsQueue x) > freeEntries k.wqueue then x.withKern k.show
      else startBundle x k.nextPc (storeWord64 k (8 * k.nextPc)) l := by
  intro k whole free
  simp only [issueBundle, ge_iff_le, Nat.not_le.2 hpc, hgood, hw, if_false, Bool.false_eq_true]
  rfl

end

/-! ## A bundle issues (R116-R125, R412) -/

/-- What a committed slot word asks of the end of its bundle touches no other field. -/
theorem recallWord_eq (s : State) (b : Issue) (w : SlotWord) :
    ∃ d c v, recallWord s b w = { b with delay := d, hold := c, software := v } := by
  unfold recallWord
  dsimp only
  split
  · exact ⟨_, _, _, rfl⟩
  · split
    · split <;> exact ⟨_, _, _, rfl⟩
    · split <;> exact ⟨_, _, _, rfl⟩
    · split <;> exact ⟨_, _, _, rfl⟩
    · exact ⟨_, _, _, rfl⟩

theorem foldl_recallWord_eq (s : State) (l : List SlotWord) (b : Issue) :
    ∃ d c v, l.foldl (recallWord s) b = { b with delay := d, hold := c, software := v } := by
  induction l generalizing b with
  | nil => exact ⟨_, _, _, rfl⟩
  | cons w l ih =>
    obtain ⟨d, c, v, first⟩ := recallWord_eq s b w
    obtain ⟨d', c', v', rest⟩ := ih (recallWord s b w)
    exact ⟨d', c', v', by rw [List.foldl_cons, rest, first]⟩

theorem committedWords_one (s : State) (pc : Nat) (limm : BitVec 32) : committedWords s pc limm 1 = [] := rfl

/-- The bundle stands in issue; of one issued whole nothing has committed. -/
theorem startBundle_eq (x : State) (pc : Nat) (h : Word) {l : List SlotWord} (hl : l ≠ []) : ∃ d c v,
    startBundle x pc h l = x.withKern { x.core.kern with
      kpc := BitVec.ofNat 64 pc, resume := 0
      issuing := some
        { limm := h.extractLsb' 32 32, scope := h.extractLsb' 8 3, stall := fld h 0 8, hold := c
          words := l.map fun w => (BitVec.ofNat 3 w.pos, w.word), delay := d, software := v, again := false } } ∧
    (x.core.kern.resumeSlot = 1 → d = BitVec.ofNat 2 x.core.kern.delay ∧ c = 0 ∧ v = none) := by
  set b : Issue := { limm := h.extractLsb' 32 32, scope := h.extractLsb' 8 3, stall := fld h 0 8, hold := 0
                     words := l.map fun w => (BitVec.ofNat 3 w.pos, w.word)
                     delay := BitVec.ofNat 2 x.core.kern.delay, software := none, again := false } with hb
  have started : startBundle x pc h l = x.withKern { x.core.kern with
      kpc := BitVec.ofNat 64 pc, resume := 0
      issuing := some ((committedWords x pc (h.extractLsb' 32 32) x.core.kern.resumeSlot).foldl (recallWord x) b) } := by
    rw [startBundle, if_neg (by simpa using hl)]
    rfl
  by_cases whole : x.core.kern.resumeSlot = 1
  · rw [whole, committedWords_one] at started
    exact ⟨_, _, _, started, fun _ => ⟨rfl, rfl, rfl⟩⟩
  · obtain ⟨d, c, v, recalled⟩ := foldl_recallWord_eq x (committedWords x pc (h.extractLsb' 32 32) x.core.kern.resumeSlot) b
    rw [recalled] at started
    exact ⟨d, c, v, started, fun hw => absurd hw whole⟩

/-- Units that are free hold back no word. -/
theorem foldl_unitBusy {k : Kern} {t : Nat} {l : List SlotWord}
    (h : ∀ w ∈ l, ∀ u, unitOf (opcOf w.word) = some u → k.busy.get u ≤ t) :
    l.foldl (fun t' w => Nat.max t' (Machine.unitBusy k t w)) t = t := by
  have free (w : SlotWord) (hw : w ∈ l) : Machine.unitBusy k t w = t := by
    unfold Machine.unitBusy
    split
    · rfl
    · next u hu => exact Nat.max_eq_left (h w hw u hu)
  clear h
  induction l with
  | nil => rfl
  | cons w l ih =>
    rw [List.foldl_cons, free w List.mem_cons_self, show t.max t = t from Nat.max_self t]
    exact ih fun y hy => free y (List.mem_cons_of_mem w hy)

theorem landingHold_of_room {x : State} {l : List SlotWord} (h : l.countP (needsLanding x) ≤ freeEntries x.core.kern.landing) :
    landingHold x l = x.core.kern.ktime := by
  rw [landingHold, if_neg (by omega)]

section
variable {x : State} {l : List SlotWord} (hpc : x.core.kern.nextPc < 1024)
  (hgood : bundleHeaderBad (storeWord64 x.core.kern (8 * x.core.kern.nextPc)) = false)
  (hw : bundleWords x x.core.kern.nextPc ((storeWord64 x.core.kern (8 * x.core.kern.nextPc)).extractLsb' 32 32)
    x.core.kern.resumeSlot = .ok l)
include hpc hgood hw

/-- A bundle that passes every check, with its units and entries free, starts to commit. -/
theorem issueBundle_starts
    (whole : x.core.kern.resumeSlot = 1 →
      slotConflict l = false ∧ (x.core.kern.delay ≠ 0 → l.any isBranch = false) ∧ x.core.kern.check = false)
    (units : ∀ w ∈ l, ∀ u, unitOf (opcOf w.word) = some u → x.core.kern.busy.get u ≤ x.core.kern.ktime)
    (landing : l.countP (needsLanding x) ≤ freeEntries x.core.kern.landing)
    (queue : l.countP (needsQueue x) ≤ freeEntries x.core.kern.wqueue) :
    issueBundle x = startBundle x x.core.kern.nextPc (storeWord64 x.core.kern (8 * x.core.kern.nextPc)) l := by
  have checks : (x.core.kern.resumeSlot == 1 && slotConflict l) = false ∧
      (x.core.kern.resumeSlot == 1 && x.core.kern.delay != 0 && l.any isBranch) = false ∧
      (x.core.kern.resumeSlot == 1 && x.core.kern.check && accepted x 3 && stallShort x.core.kern x.core.kern.ktime l) =
        false := by
    by_cases first : x.core.kern.resumeSlot = 1
    · obtain ⟨conflict, branch, check⟩ := whole first
      refine ⟨by simp [conflict], ?_, by simp [check]⟩
      by_cases delay : x.core.kern.delay = 0
      · simp [delay]
      · simp [branch delay]
    · simp [first]
  obtain ⟨conflict, branch, short⟩ := checks
  rw [issueBundle_words hpc hgood hw, conflict, branch, short, landingHold_of_room landing, foldl_unitBusy units]
  simp [Nat.not_lt.2 queue]

/-- A bundle issued whole whose words write one register is not issued (R121). -/
theorem issueBundle_conflict (first : x.core.kern.resumeSlot = 1) (conflict : slotConflict l = true) :
    issueBundle x = bundleFault x x.core.kern.nextPc 0 0 { cause := .slotConflict } := by
  rw [issueBundle_words hpc hgood hw, first, conflict]
  rfl

/-- A branch within the delay bundles of another is not issued (R95). -/
theorem issueBundle_delayBranch (first : x.core.kern.resumeSlot = 1) (conflict : slotConflict l = false)
    (delay : x.core.kern.delay ≠ 0) (branch : l.any isBranch = true) :
    issueBundle x = bundleFault x x.core.kern.nextPc 0 0 { cause := .delayBranch } := by
  rw [issueBundle_words hpc hgood hw, first, conflict, branch]
  simp [delay]

/-- With the check enabled, a bundle that reads or writes too early is not issued (R123). -/
theorem issueBundle_stallShort (first : x.core.kern.resumeSlot = 1) (conflict : slotConflict l = false)
    (branch : x.core.kern.delay = 0 ∨ l.any isBranch = false)
    (landing : l.countP (needsLanding x) ≤ freeEntries x.core.kern.landing) (check : x.core.kern.check = true)
    (offered : accepted x 3 = true) (short : stallShort x.core.kern x.core.kern.ktime l = true) :
    issueBundle x = bundleFault x x.core.kern.nextPc 0 0 { cause := .stallShort } := by
  rw [issueBundle_words hpc hgood hw, first, conflict, check, offered, short, landingHold_of_room landing]
  rcases branch with branch | branch <;> simp [branch]

end

/-! ## Stops and their report (R126, R404-R411) -/

/-- The fields of KINFO (R113). -/
theorem kinfoOf_fields (f : KStop) :
    fld (kinfoOf f) 0 3 = f.slot.toNat ∧ fld (kinfoOf f) 4 4 = f.trap.lane.toNat ∧
      fld (kinfoOf f) 8 1 = f.late.isSome.toNat ∧ fld (kinfoOf f) 9 5 = (f.late.getD 0).toNat ∧
      fld (kinfoOf f) 16 16 = f.trap.lmask.toNat ∧ fld (kinfoOf f) 32 32 = f.trap.detail.toNat := by
  have slot := f.slot.isLt
  have lane := f.trap.lane.isLt
  have late : f.late.isSome.toNat < 2 := Bool.toNat_lt _
  have entry := (f.late.getD 0).isLt
  have mask := f.trap.lmask.isLt
  have detail := f.trap.detail.isLt
  simp only [fld, kinfoOf, BitVec.toNat_ofNat]
  generalize f.slot.toNat = a at *
  generalize f.trap.lane.toNat = b at *
  generalize f.late.isSome.toNat = c at *
  generalize (f.late.getD 0).toNat = d at *
  generalize f.trap.lmask.toNat = e at *
  generalize f.trap.detail.toNat = g at *
  refine ⟨?_, ?_, ?_, ?_, ?_, ?_⟩ <;> omega

/-- A cause that is not pending yet becomes pending on the core in focus (R402). -/
theorem raiseAsync_new {x : State} {cause : Cause} {detail : BitVec 32} {kernel : Bool}
    (h : ∀ a ∈ x.core.cp.pending, a.cause ≠ cause ∨ a.kernel ≠ kernel) :
    raiseAsync x x.focus cause detail kernel = x.withCp { x.core.cp with
      pending := x.core.cp.pending ++ [{ cause, detail, kernel, since := x.clock }] } := by
  have new : Async.among { cause, detail, kernel, since := x.clock } x.core.cp.pending = false := by
    rw [Async.among, List.any_eq_false]
    intro a ha
    rcases h a ha with h | h <;> simp [h]
  simp only [raiseAsync, getCore_focus, new, State.putCore, beq_self_eq_true, if_true]
  rfl

/-- The status registers of a kernel whose stop is reported. -/
theorem reported_eq (k : Kern) (f : KStop) :
    ({ (k.show.setState 2).setResume f.resume with
      kpc := BitVec.ofNat 64 f.kpc
      kcause := BitVec.ofNat 64 f.trap.cause.code.toNat
      kinfo := kinfoOf f
      fault := some { opc := f.opc, addr := f.trap.addr, write := f.trap.write }
      stop := none
      resume := 0 } : Kern) = { k with
        kstat := setFld (setFld k.kstat 0 2 2) 10 3 f.resume, kpc := BitVec.ofNat 64 f.kpc
        kcause := BitVec.ofNat 64 f.trap.cause.code.toNat, kinfo := kinfoOf f
        fault := some { opc := f.opc, addr := f.trap.addr, write := f.trap.write }, stop := none, resume := 0
        shown := k.showable } := by
  simp only [Kern.show, Kern.setState, Kern.setResume]

/-- The report of a stop, whose cause is not pending yet, leaves it pending on the CP (R402, R404). -/
theorem reportKernel_eq {x : State} {f : KStop}
    (h : ∀ a ∈ x.core.cp.pending, a.cause ≠ f.trap.cause ∨ a.kernel = false) :
    reportKernel x f = { x with core := { x.core with
      kern := { x.core.kern with
        kstat := setFld (setFld x.core.kern.kstat 0 2 2) 10 3 f.resume, kpc := BitVec.ofNat 64 f.kpc
        kcause := BitVec.ofNat 64 f.trap.cause.code.toNat, kinfo := kinfoOf f
        fault := some { opc := f.opc, addr := f.trap.addr, write := f.trap.write }, stop := none, resume := 0
        shown := x.core.kern.showable }
      cp := { x.core.cp with pending := x.core.cp.pending ++
        [{ cause := f.trap.cause, detail := f.trap.detail, kernel := true, since := x.clock }] } } } := by
  simp only [reportKernel, State.onKern_eq, reported_eq]
  refine (raiseAsync_new (x := x.withKern _) fun a ha => ?_).trans rfl
  exact (h a ha).imp_right fun plain => by simp [plain]

/-! ## The end of a kernel (R126, R384) -/

/-- An instruction without an object completes: it leaves the stream unit, and its token counts it (R353). -/
theorem completeEntry_eq {x : State} {e : QEntry} (hb : e.bar = none) (n : Nat) :
    completeEntry x e none n = x.withSt { x.core.st with
      queue := x.core.st.queue.filter (·.seq != e.seq), flight := x.core.st.flight.filter (·.seq != e.seq)
      tok := match e.tok with
        | some i => x.core.st.tok.set i.toFin (tokDone (x.core.st.tok.get i.toFin) none e.flags)
        | none => x.core.st.tok
      owed := x.core.st.owed.filter (·.owner.seq != e.seq) } := by
  have here : asksAway x e e.bar objUpdate = false := by simp [asksAway, hb]
  have token : reportToken (dropEntry x.core.st e.seq) e none 0xFFFF = { x.core.st with
      queue := x.core.st.queue.filter (·.seq != e.seq), flight := x.core.st.flight.filter (·.seq != e.seq)
      tok := match e.tok with
        | some i => x.core.st.tok.set i.toFin (tokDone (x.core.st.tok.get i.toFin) none e.flags)
        | none => x.core.st.tok
      owed := x.core.st.owed.filter (·.owner.seq != e.seq) } := by
    rw [reportToken]
    cases e.tok <;> simp [dropEntry, tokOf]
  have finished : finishEntry x e none n = (false, reportEntry x e none n 0xFFFF) := by
    rw [finishEntry, here]
    simp [tryObject, hb, recordFault]
  have reported : reportEntry x e none n 0xFFFF = x.onSt fun _ => reportToken (dropEntry x.core.st e.seq) e none 0xFFFF := by
    simp [reportEntry, hb]
  rw [completeEntry, finished, reported, token]
  rfl

theorem finishKernel_eq {x : State} {q : Nat} {e : QEntry} (hr : x.core.cp.run = .running) (hq : x.core.kern.krun = some q)
    (he : x.core.st.flight.find? (·.seq == q) = some e) (hb : e.bar = none) :
    finishKernel x = { x with core := { x.core with
      kern := { x.core.kern with
        kstat := setFld x.core.kern.kstat 0 2 0, kpc := BitVec.ofNat 64 (fld x.core.kern.kstat 16 11), krun := none
        undo := [] }
      st := { x.core.st with
        queue := x.core.st.queue.filter (·.seq != q), flight := x.core.st.flight.filter (·.seq != q)
        tok := match e.tok with
          | some i => x.core.st.tok.set i.toFin (tokDone (x.core.st.tok.get i.toFin) none e.flags)
          | none => x.core.st.tok
        owed := x.core.st.owed.filter (·.owner.seq != q) } } } := by
  have seq : e.seq = q := by simpa using List.find?_some he
  have after (s : State) (hs : s.core.cp.run = .running) : afterEngine s = s := by
    unfold afterEngine
    split
    · simp [hs]
    · rfl
  simp only [finishKernel, leaveKernel, hq, Option.bind_some, he]
  rw [completeEntry_eq hb, after _ (by exact hr), seq]
  rfl

/-! ## The statements -/

theorem kernelsStartAndIssueBundles : KernelsStartAndIssueBundles := by
  intro n s x k live
  refine ⟨passIdle_eq x, fun e pre post hr hp hs hf hopc hstage hpre => ?_, fun l hissue hpc => ?_⟩
  · obtain ⟨state, delay, last, other⟩ := startKstat_fields k e
    exact ⟨_, leaves_of_atCore rfl (startKernel_eq hr hp hs (nextKrun_of_first hf hopc hstage hpre)), rfl, state, delay,
      last, other⟩
  · intro y now pc h first hscope hzero hw hl whole units landing queue
    obtain ⟨t, hy, -⟩ := passIdle_eq x
    have turn {z : State} (hz : issueBundle y = z) : Leaves (.kernelBundleIssue n) s z :=
      leaves_of_next (exec_kernelBundleIssue n s) hissue rfl hz
    replace hy : y = x.withKern { k with ktime := t } := hy
    clear_value y
    subst hy
    have header : bundleHeaderBad h = false := Bool.eq_false_iff.2 fun bad => (headerBad_iff h).1 bad ⟨hscope, hzero⟩
    have issued := issueBundle_starts (x := x.withKern { k with ktime := t }) hpc header hw whole units landing queue
    obtain ⟨d, c, v, started, whole'⟩ := startBundle_eq (x.withKern { k with ktime := t }) pc h hl
    exact ⟨d, c, v, turn (issued.trans started), whole'⟩

theorem bundlesFaultBeforeTheyIssue : BundlesFaultBeforeTheyIssue := by
  intro n s x k pc h first words good faults hissue
  have turn {z : State} (hz : issueBundle x = z) : Leaves (.kernelBundleIssue n) s z := leaves_of_next (exec_kernelBundleIssue n s) hissue rfl hz
  have header (hg : good) : bundleHeaderBad h = false := Bool.eq_false_iff.2 fun bad => (headerBad_iff h).1 bad hg
  refine ⟨fun hpc => turn (issueBundle_range hpc), fun hpc hbad => turn (issueBundle_header hpc ((headerBad_iff h).2 hbad)),
    fun i w t hpc hg hw => turn (issueBundle_word hpc (header hg) hw),
    fun l hpc hg hw hfirst => ⟨fun conflict => turn (issueBundle_conflict hpc (header hg) hw hfirst conflict),
      fun conflict delay branch => turn (issueBundle_delayBranch hpc (header hg) hw hfirst conflict delay branch),
      fun conflict branch landing check offered short =>
        turn (issueBundle_stallShort hpc (header hg) hw hfirst conflict branch landing check offered short)⟩⟩

theorem kernelsStopAndEnd : KernelsStopAndEnd := by
  intro n s x k u
  refine ⟨fun l hl => leaves_of_next (exec_lateFault n s) hl rfl rfl, fun h l before hx hk hi hf hb hact => ?_, fun f hf hi hp => ?_,
    fun q e hx hq he hbar => ?_⟩
  · have same : s.focusOn n = x := (passIdle_of_not_cycle (by rw [hf]; exact KNext.noConfusion)).symm
    rw [same] at hact
    rw [step_of_kernelActs hb hact hi, kernelTurn, hx, kernelStep, State.onKern_eq, show x.core.kern.held = h :: l from hk]
    rfl
  · have same : s.focusOn n = x := (passIdle_of_not_cycle (by rw [hf]; exact KNext.noConfusion)).symm
    have hx : kernelNext x = .report f := same ▸ hf
    have reported : kernelStep x (.report f) = _ := reportKernel_eq hp
    obtain ⟨slot, lane, late, entry, mask, detail⟩ := kinfoOf_fields f
    refine ⟨_, fun hl => leaves_of_next (exec_lateFault n s) hx hl reported, fun before hb hact => ?_, rfl, ?_, ?_, slot, lane,
      late, entry, mask, detail⟩
    · rw [same] at hact
      rw [step_of_kernelActs hb hact hi, kernelTurn, hx, reported]
    · exact (fld_setFld_other (by decide)).trans (fld_setFld_same (by decide))
    · exact fld_setFld_same (by decide)
  · have running : x.core.cp.run = .running := running_of_kernelNext (by rw [hx]; exact KNext.noConfusion)
    refine ⟨setFld k.kstat 0 2 0, leaves_of_next (exec_kernelEnd n s) hx rfl (finishKernel_eq running hq he hbar),
      fld_setFld_same (by decide), fun i hi => bit_setFld_other _ (by omega)⟩

/-- Settles O43: each event of the kernel engine is one branch of its next action. -/
theorem kernelsStartIssueAndEnd : Obligations.KernelsStartIssueAndEnd :=
  ⟨kernelsStartAndIssueBundles, bundlesFaultBeforeTheyIssue, kernelsStopAndEnd⟩

end Sys2Proof.KernelEngine
end

section
/-! SUPPORT. Passes at issue (R113, R206-R209, R406). -/

namespace Sys2Proof.TilePasses

open Sys2Proof.Machine Sys2Proof.Safety Sys2Proof.Claims

/-! ## Faults by lane (R113) -/

theorem laneFault_none {f : ℕ → Option Trap} (h : ∀ l < 16, f l = none) : laneFault f = none := by
  have empty : ((List.range 16).filterMap fun l => (f l).map fun t => (l, t)) = [] :=
    List.filterMap_eq_nil_iff.2 fun l hl => by rw [h l (List.mem_range.1 hl)]; rfl
  simp only [laneFault, empty]

/-- A mask built of the bit of lane 0 and bits of other lanes has the bit of lane 0. -/
theorem odd_foldl_two_pow {l : List ℕ} (h : ∀ x ∈ l, x ≠ 0) {m : ℕ} (hm : m % 2 = 1) :
    l.foldl (fun m x => m + 2 ^ x) m % 2 = 1 := by
  induction l generalizing m with
  | nil => exact hm
  | cons x l ih =>
    have even : 2 ^ x % 2 = 0 := by simp [Nat.pow_mod, h x]
    refine ih (fun y hy => h y (List.mem_cons_of_mem _ hy)) ?_
    change (m + 2 ^ x) % 2 = 1
    omega

/-- A fault of lane 0 comes before those of the other lanes. -/
theorem laneFault_of_first {f : ℕ → Option Trap} {t : Trap} (h : f 0 = some t) :
    ∃ mask : BitVec 16, mask.getLsbD 0 = true ∧ laneFault f = some { t with lane := 0, lmask := mask } := by
  set rest := ((List.range' 1 15).filterMap fun l => (f l).map fun t => (l, t)) with hrest
  have found : ((List.range 16).filterMap fun l => (f l).map fun t => (l, t)) = (0, t) :: rest := by
    rw [show List.range 16 = 0 :: List.range' 1 15 from rfl, List.filterMap_cons_some (by rw [h]; rfl)]
  have others : ∀ x ∈ (rest.filter fun x => x.2.cause == t.cause).map (·.1), x ≠ 0 := by
    intro x hx
    obtain ⟨⟨l, u⟩, hy, rfl⟩ := List.mem_map.1 hx
    obtain ⟨i, hi, hu⟩ := List.mem_filterMap.1 (List.mem_of_mem_filter hy)
    obtain ⟨v, -, heq⟩ := Option.map_eq_some_iff.1 hu
    obtain ⟨rfl, -⟩ := Prod.mk.inj heq
    have : 1 ≤ i := (List.mem_range'_1.1 hi).1
    exact (Nat.lt_of_lt_of_le one_pos this).ne'
  have odd := odd_foldl_two_pow others (m := 0 + 2 ^ 0) rfl
  rw [List.foldl_map] at odd
  refine ⟨_, ?_, by simp only [laneFault, found]; rfl⟩
  rw [List.filter_cons_of_pos (by simp), List.foldl_cons, BitVec.getLsbD_ofNat, Nat.testBit_zero, odd]
  rfl

/-! ## The word (R206-R209) -/

theorem getD_toArray_fin {α : Type} {n : ℕ} (v : Vector α n) (l : Fin n) (d : α) : v.toArray.getD l.val d = v.get l := by
  simp [Array.getD_eq_getD_getElem?, Vector.get]

theorem passesStartWithTheirOperands : PassesStartWithTheirOperands := by
  intro w s hs k a b t starts
  have start (op : BitVec 4) (i : Instr) (hi : exec i s = passWord op w s) : starts i op := by
    intro sound
    have clear : laneFault (fun l => (passCause op.toNat (a.toArray.getD l LatchLane.reset)
        (b.toArray.getD l LatchLane.reset) (t.toArray.getD l AccLane.reset)).map fun c => ({ cause := c } : Trap)) = none := by
      refine laneFault_none fun l hl => ?_
      have := sound ⟨l, hl⟩
      rw [← getD_toArray_fin a ⟨l, hl⟩ LatchLane.reset, ← getD_toArray_fin b ⟨l, hl⟩ LatchLane.reset,
        ← getD_toArray_fin t ⟨l, hl⟩ AccLane.reset] at this
      simp only [this, Option.map_none]
    rw [hi, passWord, runPlain_slot hs (s' := _)]
    change (match laneFault (fun l => (passCause op.toNat (a.toArray.getD l LatchLane.reset)
        (b.toArray.getD l LatchLane.reset) (t.toArray.getD l AccLane.reset)).map fun c => ({ cause := c } : Trap)) with
      | some e => _
      | none => _) = _
    rw [clear]
    simp only [useUnit, onCpPlace_of_slot (show (s.onKern _).place ≠ .cp from hs.1)]
    rfl
  exact ⟨start 0 _ rfl, start 1 _ rfl, start 2 _ rfl, start 3 _ rfl, start 4 _ rfl, start 5 _ rfl⟩

theorem passCause_of_empty (op : ℕ) {a : LatchLane} (h : a.fmt = 0) (b : LatchLane) (t : AccLane) :
    passCause op a b t = some .formatMismatch := by
  have none : latchClass a.fmt.toNat = none := by rw [h]; rfl
  simp only [passCause, none]

theorem emptyLatchesFaultThePass : EmptyLatchesFaultThePass := by
  intro w s hs empty i hi
  obtain ⟨op, hop⟩ : ∃ op, exec i s = passWord op w s := by
    simp only [List.mem_cons, List.not_mem_nil, or_false] at hi
    rcases hi with rfl | rfl | rfl | rfl | rfl | rfl <;> exact ⟨_, rfl⟩
  set a := latchOf s (r2 w.a) with ha
  have cause : (passCause op.toNat (a.toArray.getD 0 LatchLane.reset) ((latchOf s (r2 w.b)).toArray.getD 0 LatchLane.reset)
      ((accOf s (r2 w.d)).toArray.getD 0 AccLane.reset)).map (fun c => ({ cause := c } : Trap)) =
        some { cause := .formatMismatch } := by
    rw [show a.toArray.getD 0 LatchLane.reset = a.get 0 from getD_toArray_fin a 0 LatchLane.reset]
    rw [passCause_of_empty _ (show (a.get 0).fmt = 0 from empty)]
    rfl
  obtain ⟨mask, lane, fault⟩ := laneFault_of_first (f := fun l => (passCause op.toNat (a.toArray.getD l LatchLane.reset)
    ((latchOf s (r2 w.b)).toArray.getD l LatchLane.reset) ((accOf s (r2 w.d)).toArray.getD l AccLane.reset)).map
      fun c => ({ cause := c } : Trap)) cause
  refine ⟨mask, lane, ?_⟩
  rw [hop, passWord, runPlain_trap hs]
  simp only [← ha, fault]

end Sys2Proof.TilePasses
end

section
/-! SUPPORT. The operands of a pass: its latches (R198-R200). -/

namespace Sys2Proof.TilePasses

open Sys2Proof.Machine Sys2Proof.Safety Sys2Proof.Claims

/-! ## Latch classes (R198) -/

theorem latchKP_eq_latchClasses :
    ∀ code < 128, latchKP code = (latchClasses.find? fun x => x.1.contains code).map (·.2) := by
  decide +kernel

theorem latchKP_rows_fit : ∀ code < 128, ∀ f ∈ tileFmt code, ∀ x ∈ latchKP code,
    x.1 = 32 * x.2 ∧ x.2 ≤ 4 ∧ 1024 * f.w ≤ 16384 / x.2 := by
  decide +kernel

/-! ## Elements (R199) -/

/-- A field within the low bits is that of the whole number. -/
theorem mod_two_pow_div_mod (x : ℕ) {a b w : ℕ} (h : b + w ≤ a) : x % 2 ^ a / 2 ^ b % 2 ^ w = x / 2 ^ b % 2 ^ w := by
  refine Nat.eq_of_testBit_eq fun i => ?_
  by_cases hi : i < w
  · simp [Nat.testBit_mod_two_pow, Nat.testBit_div_two_pow, hi, show i + b < a by omega]
  · simp [Nat.testBit_mod_two_pow, hi]

theorem toNat_ofNat_mod_two_pow (x : ℕ) {a w : ℕ} (h : a ≤ w) : (BitVec.ofNat w (x % 2 ^ a)).toNat = x % 2 ^ a :=
  Nat.mod_eq_of_lt ((Nat.mod_lt _ (Nat.two_pow_pos a)).trans_le (Nat.pow_le_pow_right two_pos h))

theorem part_payload (q : LatchLane) (n p : ℕ) :
    (q.part n p).payload.toNat = q.payload.toNat / 2 ^ (16384 / n * p) % 2 ^ (16384 / n) :=
  toNat_ofNat_mod_two_pow _ (Nat.div_le_self _ _)

/-- A place of a part is a place of one of its rows. -/
theorem part_bits (q : LatchLane) {n p r c w : ℕ} (fits : 1024 * w ≤ 16384 / n) (hr : r < 32) (hc : c < 32) :
    (q.part n p).payload.toNat / 2 ^ (8 * (4 * w) * r + w * c) % 2 ^ w =
      rowElem w (q.payload.toNat / 2 ^ (16384 / n * p + 32 * w * r) % 2 ^ (32 * w)) c := by
  have inRow : w * c + w ≤ 32 * w := by nlinarith
  have inPart : 8 * (4 * w) * r + w * c + w ≤ 16384 / n := by nlinarith
  rw [part_payload, mod_two_pow_div_mod _ inPart, rowElem, mod_two_pow_div_mod _ inRow, Nat.div_div_eq_div_mul,
    Nat.div_div_eq_div_mul, ← pow_add, ← pow_add]
  congr 3
  ring

theorem getD_map_range {α : Type} {f : ℕ → α} {n i : ℕ} (h : i < n) (d : α) : ((List.range n).map f).getD i d = f i := by
  simp [h]

theorem latchElem_eq {f : TileFmt} (q : LatchLane) {n p r c : ℕ} (band : ℕ → ℕ) (fits : 1024 * f.w ≤ 16384 / n)
    (hr : r < 32) (hc : c < 32) :
    latchElem f (q.part n p) (band p) r c = (latchPlace f n q band p r c, latchScaleNaN f q p r c) := by
  have bits := part_bits q (p := p) fits hr hc
  have side : (q.part n p).side = q.scales.toArray.getD p LatchScale.reset := rfl
  obtain ⟨el, w, scaling, cplx⟩ := f
  simp only [latchElem, latchPlace, latchRow, latchScaleNaN, decodeRow, TileFmt.rowBytes, bits, side]
  generalize (q.scales.toArray.getD p LatchScale.reset).scale.toNat = scale
  cases scaling with
  | plain => simp only [getD_map_range hc]
  | mx =>
    simp only [TileFmt.scaleRow, Nat.mul_one, Nat.reducePow, Nat.mod_mod]
    cases h : scale / 2 ^ (8 * r) % 256 == 255
    · simp only [Bool.false_eq_true, if_false, getD_map_range hc]
    · simp only [if_true, List.getD_replicate _ hc]
  | kf =>
    have slot : 16 * (c / 8) + 9 ≤ 8 * 8 := by omega
    simp only [TileFmt.scaleRow, getD_map_range hc, mod_two_pow_div_mod _ slot, Nat.div_div_eq_div_mul, ← pow_add,
      Nat.reduceMul]
    cases h : scale / 2 ^ (64 * r + 16 * (c / 8)) % 2 ^ 9 == 0x1FF
    · simp only [Bool.false_eq_true, if_false]
    · simp only [if_true]

/-! ## Steps (R199, R200, R208) -/

theorem columnOf_eq {f : TileFmt} (q : LatchLane) {n k : ℕ} (band : ℕ → ℕ) (fits : 1024 * f.w ≤ 16384 / n) :
    columnOf f n q band k = (List.range 32).map fun i =>
      (latchPlace f n q band (k / 32) i (k % 32), latchScaleNaN f q (k / 32) i (k % 32)) :=
  List.map_congr_left fun _ hi =>
    latchElem_eq q band fits (List.mem_range.1 hi) (Nat.mod_lt _ (by decide))

theorem rowOf_eq {f : TileFmt} (q : LatchLane) {n k : ℕ} (band : ℕ → ℕ) (fits : 1024 * f.w ≤ 16384 / n) :
    rowOf f n q band k = (List.range 32).map fun i =>
      (latchPlace f n q band (k / 32) (k % 32) i, latchScaleNaN f q (k / 32) (k % 32) i) :=
  List.map_congr_left fun _ hi =>
    latchElem_eq q band fits (Nat.mod_lt _ (by decide)) (List.mem_range.1 hi)

theorem opAt_map_range (g : ℕ → FVal) (h : ℕ → Bool) {i : ℕ} (hi : i < 32) :
    opAt ((List.range 32).map fun i => (g i, h i)) i = g i := by
  rw [opAt, getD_map_range hi]

theorem any_map_range_or (g g' : ℕ → FVal) (h h' : ℕ → Bool) :
    (((List.range 32).map fun i => (g i, h i)).any (·.2) || ((List.range 32).map fun i => (g' i, h' i)).any (·.2)) =
      (List.range 32).any fun i => h i || h' i := by
  rw [Bool.eq_iff_iff]
  simp only [List.any_map, Bool.or_eq_true, List.any_eq_true, Function.comp_apply, and_or_left, exists_or]

theorem absV_eq (v : FVal) : absV v = if v.sign then v.neg else v := by
  cases v with
  | nan => rfl
  | inf n | fin n | near n => cases n <;> rfl

/-- A cell of a real operation. -/
def realValue (o : ℕ) (a b : FVal) : FVal :=
  if o = 0 then mulV a b
  else if o = 1 then (if (subV 0 a b).sign then (subV 0 a b).neg else subV 0 a b)
  else addV 0 a b

theorem realCell_eq (o : ℕ) (a b : FVal) : realCell o a b = realValue o a b := by
  rcases o with _ | _ | o
  · rfl
  · exact absV_eq _
  · rfl

/-- A cell of the complex operation, from row k of either latch. -/
def complexValue (half : Bool) (pairs : Prop) [Decidable pairs] (a b : ℕ → FVal) (r c : ℕ) : FVal :=
  if ¬ (r / 16 = 1 ↔ half = true) then .fin false 0 0
  else if pairs then
    (if c % 2 = 0 then mulV (a (2 * (r % 16))) (b (2 * (c / 2))) else mulV (a (2 * (r % 16) + 1)) (b (2 * (c / 2) + 1)))
  else if c % 2 = 0 then
    subV 0 (mulV (a (2 * (r % 16))) (b (2 * (c / 2)))) (mulV (a (2 * (r % 16) + 1)) (b (2 * (c / 2) + 1)))
  else addV 0 (mulV (a (2 * (r % 16))) (b (2 * (c / 2) + 1))) (mulV (a (2 * (r % 16) + 1)) (b (2 * (c / 2))))

section
variable (half pairs : Bool) (a b : ℕ → FVal) (ha hb : ℕ → Bool)

theorem cellValues_real {o : ℕ} (ho : o ≠ 4) :
    cellValues o half pairs ((List.range 32).map fun i => (a i, ha i)) ((List.range 32).map fun i => (b i, hb i)) =
      (List.range 1024).map fun e => some (realValue o (a (e / 32)) (b (e % 32))) := by
  refine List.map_congr_left fun e he => ?_
  have row : e / 32 < 32 := by simp at he; omega
  have column : e % 32 < 32 := Nat.mod_lt _ (by decide)
  simp only [bne_iff_ne.2 ho, if_true, opAt_map_range a ha row, opAt_map_range b hb column, realCell_eq]

theorem cellValues_complex :
    cellValues 4 half pairs ((List.range 32).map fun i => (a i, ha i)) ((List.range 32).map fun i => (b i, hb i)) =
      (List.range 1024).map fun e => some (complexValue half (pairs = true) a b (e / 32) (e % 32)) := by
  refine List.map_congr_left fun e _ => ?_
  have halves : ((e / 32 / 16 == 1) != half) = true ↔ ¬ (e / 32 / 16 = 1 ↔ half = true) := by
    cases half <;> simp
  simp only [bne_self_eq_false, Bool.false_eq_true, if_false, halves, beq_iff_eq, complexValue,
    opAt_map_range a ha (show 2 * (e / 32 % 16) < 32 by omega), opAt_map_range a ha (show 2 * (e / 32 % 16) + 1 < 32 by omega),
    opAt_map_range b hb (show 2 * (e % 32 / 2) < 32 by omega), opAt_map_range b hb (show 2 * (e % 32 / 2) + 1 < 32 by omega)]
  split <;> rfl

end

theorem cellAccOp_eq (o : ℕ) : cellAccOp o = if o = 2 then .max else if o = 3 then .min else .add := by
  rcases o with _ | _ | _ | _ | o <;> rfl

theorem stepOp_eq (p : Pass) (k : ℕ) :
    stepOp p k = if p.op = 5 then p.limm.toNat / 2 ^ (2 * (k % 16)) % 4 else p.op.toNat := by
  simp only [stepOp, beq_iff_eq]

/-- Only the complex word has the complex cell operation. -/
theorem stepOp_eq_four_iff (p : Pass) (k : ℕ) : stepOp p k = 4 ↔ p.op = 4 := by
  rw [stepOp_eq]
  split
  · next h =>
    have : p.limm.toNat / 2 ^ (2 * (k % 16)) % 4 < 4 := Nat.mod_lt _ (by decide)
    simp only [h]
    constructor <;> intro h4
    · omega
    · exact absurd h4 (by decide)
  · exact ⟨fun h => BitVec.eq_of_toNat_eq h, fun h => by rw [h]; rfl⟩

theorem contentAt_singleton {α : Type} (d x : α) (i t : ℕ) : contentAt d [(i, x)] t = x := by
  simp [contentAt]

section
variable (p : Pass) {fa fb : TileFmt} {n : ℕ} (qa qb : LatchLane) (bandA bandB : ℕ → ℕ) (k : ℕ)
  (fitsA : 1024 * fa.w ≤ 16384 / n) (fitsB : 1024 * fb.w ≤ 16384 / n)

/-- What step k of a pass reads of the latch of A, and of that of B. -/
def readsA (fa : TileFmt) (n : ℕ) : StepOperand :=
  if p.op == 4 then rowOf fa n qa bandA k else columnOf fa n qa bandA k

def readsB (fb : TileFmt) (n : ℕ) : StepOperand := rowOf fb n qb bandB k

include fitsA fitsB

theorem cellValues_of_step (pairs : Bool) :
    cellValues (stepOp p k) p.half pairs (readsA p qa bandA k fa n) (readsB qb bandB k fb n) =
      (List.range 1024).map fun e => some (if p.op = 4 then
        complexValue p.half (pairs = true) (latchPlace fa n qa bandA (k / 32) (k % 32))
          (latchPlace fb n qb bandB (k / 32) (k % 32)) (e / 32) (e % 32)
      else realValue (stepOp p k) (latchPlace fa n qa bandA (k / 32) (e / 32) (k % 32))
          (latchPlace fb n qb bandB (k / 32) (k % 32) (e % 32))) := by
  rw [readsB, rowOf_eq qb bandB fitsB]
  by_cases hop : p.op = 4
  · rw [(stepOp_eq_four_iff p k).2 hop]
    simp only [readsA, rowOf_eq qa bandA fitsA, hop, beq_self_eq_true, if_true, cellValues_complex]
  · have real : stepOp p k ≠ 4 := mt (stepOp_eq_four_iff p k).1 hop
    simp only [readsA, columnOf_eq qa bandA fitsA, hop, beq_false_of_ne hop, Bool.false_eq_true, if_false,
      cellValues_real _ _ _ _ _ _ real]

theorem scaleNaN_of_step :
    ((readsA p qa bandA k fa n).any (·.2) || (readsB qb bandB k fb n).any (·.2)) =
      (List.range 32).any fun i =>
        (if p.op = 4 then latchScaleNaN fa qa (k / 32) (k % 32) i else latchScaleNaN fa qa (k / 32) i (k % 32)) ||
          latchScaleNaN fb qb (k / 32) (k % 32) i := by
  rw [readsB, rowOf_eq qb bandB fitsB]
  by_cases hop : p.op = 4
  · simp only [readsA, rowOf_eq qa bandA fitsA, hop, beq_self_eq_true, if_true, any_map_range_or]
  · simp only [readsA, columnOf_eq qa bandA fitsA, hop, beq_false_of_ne hop, Bool.false_eq_true, if_false, any_map_range_or]

end

/-- Step k of the pass of a lane whose latches hold `a` and `b` at issue. -/
def laneStep (p : Pass) (l : Fin 16) (a b : LatchLane) (fa fb : TileFmt) (kk n : ℕ) (x : LanePass) (k : ℕ) : LanePass :=
  let band (q : LatchLane) (i : ℕ) : ℕ := (q.scales.toArray.getD i LatchScale.reset).band.toNat
  if x.failed.isSome then x
  else
    let now := p.issue + 32 * k / kk
    let sa := readsA p ((contentAt emptyLatches p.a now).get l) (band a) k fa n
    let sb := readsB ((contentAt emptyLatches p.b now).get l) (band b) k fb n
    let r := accStep (cellAccOp (stepOp p k)) (cellValues (stepOp p k) p.half (l.val == 0 && a.packed) sa sb) x.tile
    let fl := x.flags ||| flagIf (sa.any (·.2) || sb.any (·.2)) flSN ||| flagIf r.2 flNV
    match r.1 with
    | none => { x with flags := fl, failed := some k }
    | some t => { x with tile := t, flags := fl }

theorem laneStep_failed {p : Pass} {l : Fin 16} {a b : LatchLane} {fa fb : TileFmt} {kk n k i : ℕ} {x : LanePass}
    (h : (laneStep p l a b fa fb kk n x k).failed = some i) : x.failed = some i ∨ i = k := by
  unfold laneStep at h
  dsimp only at h
  split at h
  · exact .inl h
  · split at h
    · exact .inr (Option.some.inj h).symm
    · exact .inl h

/-- The latches and the tile of a lane at issue. -/
def laneA (p : Pass) (l : Fin 16) : LatchLane := (contentAt emptyLatches (p.a.take 1) 0).get l
def laneB (p : Pass) (l : Fin 16) : LatchLane := (contentAt emptyLatches (p.b.take 1) 0).get l
def laneTile (p : Pass) (l : Fin 16) : AccLane := (contentAt emptyAcc p.acc (p.issue + 8)).get l

section
variable {p : Pass} {l : Fin 16}

theorem lanePass_of_formats {fa fb : TileFmt} {kk n : ℕ} (hfa : tileFmt (laneA p l).fmt.toNat = some fa)
    (hfb : tileFmt (laneB p l).fmt.toNat = some fb) (hk : latchKP (laneA p l).fmt.toNat = some (kk, n)) :
    let x := (List.range kk).foldl (laneStep p l (laneA p l) (laneB p l) fa fb kk n) ⟨laneTile p l, 0, none⟩
    lanePass p l = { x with tile := { x.tile with
      domain := p.op == 4, packed := p.op == 4 && (laneA p l).packed,
      scaled := p.op == 4 && ((laneA p l).scaled || (laneB p l).scaled) } } := by
  unfold laneA at hfa hk
  unfold laneB at hfb
  simp only [lanePass, hfa, hfb, hk]
  rw [List.foldl_ext _ (laneStep p l (laneA p l) (laneB p l) fa fb kk n) _ (l := List.range kk) fun x k _ => ?_]
  · rfl
  · simp only [laneStep, readsA, readsB]
    split
    · rfl
    · split <;> next h => simp only [laneA, laneB, h]

theorem formats_of_lanePass_failed {i : ℕ} (h : (lanePass p l).failed = some i) :
    ∃ fa fb x, tileFmt (laneA p l).fmt.toNat = some fa ∧ tileFmt (laneB p l).fmt.toNat = some fb ∧
      latchKP (laneA p l).fmt.toNat = some x := by
  unfold laneA laneB
  unfold lanePass at h
  dsimp only at h
  cases hfa : tileFmt ((contentAt emptyLatches (p.a.take 1) 0).get l).fmt.toNat with
  | none => simp [hfa] at h
  | some fa =>
    cases hfb : tileFmt ((contentAt emptyLatches (p.b.take 1) 0).get l).fmt.toNat with
    | none => simp [hfb] at h
    | some fb =>
      cases hk : latchKP ((contentAt emptyLatches (p.a.take 1) 0).get l).fmt.toNat with
      | none => simp [hk] at h
      | some x => exact ⟨fa, fb, x, rfl, rfl, rfl⟩

end

/-! ## What a pass leaves (R113, R176, R210) -/

theorem failed_of_foldl {step : LanePass → ℕ → LanePass}
    (h : ∀ x k i, (step x k).failed = some i → x.failed = some i ∨ i = k) (l : List ℕ) (x : LanePass) {i : ℕ}
    (hi : (l.foldl step x).failed = some i) : x.failed = some i ∨ i ∈ l := by
  induction l generalizing x with
  | nil => exact .inl hi
  | cons k l ih =>
    rcases ih (step x k) hi with hx | hl
    · exact (h x k i hx).imp_right fun e => List.mem_cons.2 (.inl e)
    · exact .inr (List.mem_cons_of_mem _ hl)

/-- The step that fails is one of at most 128. -/
theorem lanePass_failed_lt {p : Pass} {l : Fin 16} {i : ℕ} (h : (lanePass p l).failed = some i) : i < 128 := by
  obtain ⟨fa, fb, ⟨kk, n⟩, hfa, hfb, hk⟩ := formats_of_lanePass_failed h
  obtain ⟨steps, parts, -⟩ := latchKP_rows_fit _ (laneA p l).fmt.isLt fa hfa (kk, n) hk
  rw [lanePass_of_formats hfa hfb hk] at h
  rcases failed_of_foldl (fun x k i => laneStep_failed) _ _ h with hx | hx
  · simp at hx
  · have := List.mem_range.1 hx
    dsimp only at steps parts
    omega

/-- The least of a number and of the numbers that the entries of a list give. -/
def leastOf (f : ℕ → Option ℕ) (l : List ℕ) (m : ℕ) : ℕ :=
  l.foldl (fun m i => match f i with
    | some k => Nat.min m k
    | none => m) m

theorem leastOf_spec (f : ℕ → Option ℕ) (l : List ℕ) (m : ℕ) :
    leastOf f l m ≤ m ∧ (∀ i ∈ l, ∀ j, f i = some j → leastOf f l m ≤ j) ∧
      (leastOf f l m = m ∨ ∃ i ∈ l, f i = some (leastOf f l m)) := by
  unfold leastOf
  induction l generalizing m with
  | nil => simp
  | cons a l ih =>
    simp only [List.foldl_cons, List.mem_cons, forall_eq_or_imp, exists_eq_or_imp]
    cases ha : f a with
    | none =>
      obtain ⟨le, least, attained⟩ := ih m
      exact ⟨le, ⟨by simp, least⟩, attained.imp_right .inr⟩
    | some j =>
      obtain ⟨le, least, attained⟩ := ih (Nat.min m j)
      refine ⟨le.trans (Nat.min_le_left m j), ⟨fun i hi => ?_, least⟩, ?_⟩
      · exact le.trans ((Nat.min_le_right m j).trans_eq (Option.some.inj hi))
      · rcases attained with h | h
        · rw [h]
          rcases Nat.le_total m j with hm | hm
          · exact .inl (Nat.min_eq_left hm)
          · exact .inr (.inl (congrArg some (Nat.min_eq_right hm).symm))
        · exact .inr (.inr h)

/-- A matrix fault names the lanes `on`, the lowest of them first. -/
def Names (on : Fin 16 → Bool) (tr : Trap) : Prop :=
  (∀ l, tr.lmask.getLsbD l.val = on l) ∧ ∃ l : Fin 16, tr.lane = BitVec.ofNat 4 l.val ∧ on l = true ∧ ∀ i < l, on i = false

theorem Names.with_detail {on : Fin 16 → Bool} {tr : Trap} (h : Names on tr) (d : BitVec 32) :
    Names on { tr with detail := d } := by
  obtain ⟨mask, lane⟩ := h
  exact ⟨mask, lane⟩

theorem laneFault_names {f : ℕ → Bool} {on : Fin 16 → Bool} (heq : ∀ l : Fin 16, f l.val = on l) {t : Trap}
    (h : ∃ l, on l = true) :
    ∃ tr, laneFault (fun l => if f l then some t else none) = some tr ∧ Names on tr ∧ tr.cause = t.cause := by
  obtain ⟨l, hl⟩ := h
  obtain ⟨lane, mask, fault, hmask, hlane, lower⟩ := laneFault_const f t ⟨l.val, l.isLt, (heq l).trans hl⟩
  refine ⟨_, fault, ⟨fun i => (hmask i).trans (heq i), lane, rfl, (heq lane).symm.trans hlane, fun i hi => ?_⟩, rfl⟩
  exact (heq i).symm.trans (lower i hi)

/-- The pass of a lane by its number, as `passResult` reads it. -/
def laneAt (p : Pass) (l : ℕ) : LanePass :=
  (Vector.ofFn fun l => lanePass p l).toArray.getD l ⟨AccLane.reset, 0, none⟩

@[simp] theorem laneAt_val (p : Pass) (l : Fin 16) : laneAt p l.val = lanePass p l := by
  simp [laneAt]

/-- A flag that a lane raises and enables. -/
def laneHit (p : Pass) (b : ℕ) (l : Fin 16) : Bool := ((lanePass p l).flags &&& p.enables.get l).getLsbD b

/-- What a pass writes. -/
def written (p : Pass) : Vector AccLane 16 × LaneFlags :=
  (Vector.ofFn fun l => (lanePass p l).tile, Vector.ofFn fun l => (lanePass p l).flags)

/-- The first of the steps that fail. -/
def firstFailed (p : Pass) : ℕ := leastOf (fun l => (laneAt p l).failed) (List.range 16) 127

theorem firstFailed_spec {p : Pass} (h : ∃ l, (lanePass p l).failed.isSome = true) :
    (∃ l, (lanePass p l).failed = some (firstFailed p)) ∧ ∀ l i, (lanePass p l).failed = some i → firstFailed p ≤ i := by
  obtain ⟨-, least, attained⟩ : _ ∧ (∀ i ∈ List.range 16, ∀ j, (laneAt p i).failed = some j → firstFailed p ≤ j) ∧
    (firstFailed p = 127 ∨ ∃ i ∈ List.range 16, (laneAt p i).failed = some (firstFailed p)) := leastOf_spec _ _ _
  generalize firstFailed p = first at least attained ⊢
  have least (l : Fin 16) (i : ℕ) (hi : (lanePass p l).failed = some i) : first ≤ i :=
    least l.val (List.mem_range.2 l.isLt) i (by rw [laneAt_val, hi])
  refine ⟨?_, least⟩
  rcases attained with rfl | ⟨l, hl, hk⟩
  · obtain ⟨l, hl⟩ := h
    obtain ⟨i, hi⟩ := Option.isSome_iff_exists.1 hl
    have low : 127 ≤ i := least l i hi
    have high : i < 128 := lanePass_failed_lt hi
    exact ⟨l, by rw [hi, show i = 127 by omega]⟩
  · exact ⟨⟨l, List.mem_range.1 hl⟩, laneAt_val p ⟨l, List.mem_range.1 hl⟩ ▸ hk⟩

/-- The enabled flags of a lane by its number. -/
def hitAt (p : Pass) (l : ℕ) : Flags := (laneAt p l).flags &&& p.enables.toArray.getD l 0

theorem hitAt_val (p : Pass) (b : ℕ) (l : Fin 16) : (hitAt p l.val).getLsbD b = laneHit p b l := by
  rw [hitAt, laneAt_val, getD_toArray_fin, laneHit]

theorem passResult_of_fault {p : Pass} {t : Trap}
    (h : laneFault (fun l => if (laneAt p l).failed.isSome then some { cause := .accExponent } else none) = some t) :
    passResult p = (some (written p),
      some { t with detail := BitVec.ofNat 32 (p.bundle.toNat + firstFailed p * 2 ^ 11) }) := by
  unfold laneAt at h
  simp only [passResult, h, Vector.map_ofFn, Function.comp_def, written, firstFailed, leastOf, laneAt] <;>
    generalize (Vector.ofFn fun l => lanePass p l).toArray = lanes <;> rfl

section
variable {p : Pass} (h : ∀ l, (lanePass p l).failed = none)
include h

theorem laneFault_failed_none :
    laneFault (fun l => if (laneAt p l).failed.isSome then some { cause := .accExponent } else none) = none :=
  laneFault_none fun l hl => by
    have := h ⟨l, hl⟩
    rw [← laneAt_val] at this
    simp only [this]
    rfl

theorem passResult_of_lowestFlag_none (hq : lowestFlag (orFlags ((List.range 16).map (hitAt p))) = none) :
    passResult p = (some (written p), none) := by
  have passed := laneFault_failed_none h
  unfold laneAt at passed
  unfold hitAt laneAt at hq
  simp only [passResult, passed, hq, Vector.map_ofFn, Function.comp_def, written]

theorem passResult_of_lowestFlag_some {b : ℕ} (hq : lowestFlag (orFlags ((List.range 16).map (hitAt p))) = some b) :
    passResult p = (none, (laneFault fun l => if (hitAt p l).getLsbD b then some { cause := flagCause b } else none).map
      fun t => { t with detail := p.bundle.setWidth 32 }) := by
  have passed := laneFault_failed_none h
  unfold laneAt at passed
  unfold hitAt laneAt at hq ⊢
  simp only [passResult, passed, hq]

end

/-- The lanes that fail in a step, the first of those steps, and the fault that names them. -/
theorem passResult_of_failed {p : Pass} (h : ∃ l, (lanePass p l).failed.isSome = true) :
    ∃ tr, passResult p = (some (written p), some tr) ∧ tr.cause = .accExponent ∧
      Names (fun l => (lanePass p l).failed.isSome) tr ∧
      tr.detail = BitVec.ofNat 32 (p.bundle.toNat + firstFailed p * 2 ^ 11) := by
  obtain ⟨tr, fault, names, cause⟩ := laneFault_names (f := fun l => (laneAt p l).failed.isSome)
    (fun l => by rw [laneAt_val]) (t := { cause := .accExponent }) h
  exact ⟨_, passResult_of_fault fault, cause, names.with_detail _, rfl⟩

theorem orFlags_hitAt (p : Pass) (b : ℕ) :
    (orFlags ((List.range 16).map (hitAt p))).getLsbD b = true ↔ ∃ l, laneHit p b l = true := by
  simp only [orFlags_getLsbD, List.any_map, List.any_eq_true, List.mem_range, Function.comp_apply]
  exact ⟨fun ⟨l, hl, hb⟩ => ⟨⟨l, hl⟩, hitAt_val p b ⟨l, hl⟩ ▸ hb⟩, fun ⟨l, hb⟩ => ⟨l.val, l.isLt, (hitAt_val p b l).trans hb⟩⟩

section
variable {p : Pass} (h : ∀ l, (lanePass p l).failed = none)
include h

/-- The lowest flag that some lane raises and enables. -/
theorem passResult_of_flag {b : ℕ} (hb : b < 7) (hit : ∃ l, laneHit p b l = true)
    (lower : ∀ c < b, ∀ l, laneHit p c l = false) :
    ∃ tr, passResult p = (none, some tr) ∧ tr.cause = flagCause b ∧ Names (laneHit p b) tr ∧
      tr.detail = p.bundle.setWidth 32 := by
  have lowest : lowestFlag (orFlags ((List.range 16).map (hitAt p))) = some b := by
    refine lowestFlag_eq hb ((orFlags_hitAt p b).2 hit) fun c hc => ?_
    rw [Bool.eq_false_iff, Ne, orFlags_hitAt]
    rintro ⟨l, hl⟩
    exact absurd hl (by simp [lower c hc l])
  obtain ⟨tr, fault, names, cause⟩ := laneFault_names (f := fun l => (hitAt p l).getLsbD b) (hitAt_val p b) (t := { cause := flagCause b }) hit
  refine ⟨{ tr with detail := p.bundle.setWidth 32 }, ?_, cause, names.with_detail _, rfl⟩
  rw [passResult_of_lowestFlag_some h lowest, fault, Option.map_some]

theorem passResult_of_clear (clear : ∀ b < 7, ∀ l, laneHit p b l = false) : passResult p = (some (written p), none) := by
  refine passResult_of_lowestFlag_none h (List.find?_eq_none.2 fun b hb => ?_)
  rw [orFlags_hitAt]
  rintro ⟨l, hl⟩
  exact absurd hl (by simp [clear b (List.mem_range.1 hb) l])

end

theorem passesApplyTheirSteps : PassesApplyTheirSteps := by
  refine ⟨latchKP_eq_latchClasses, ?_, fun p => ⟨fun h => ?_, fun h b hb hit lower => passResult_of_flag h hb hit lower,
    fun h clear => passResult_of_clear h clear⟩⟩
  · intro p l a b t fa fb kk n hpa hpb hpt hfa hfb hka hkb qa qb band x y oper magnitude real complex cells acc sn next z
    obtain ⟨-, -, fitsA⟩ := latchKP_rows_fit _ qa.fmt.isLt fa hfa (kk, n) hka
    obtain ⟨-, -, fitsB⟩ := latchKP_rows_fit _ qb.fmt.isLt fb hfb (kk, n) hkb
    have la : laneA p l = qa := by rw [laneA, hpa, List.take_succ_cons, List.take_zero, contentAt_singleton]
    have lb : laneB p l = qb := by rw [laneB, hpb, List.take_succ_cons, List.take_zero, contentAt_singleton]
    have lt : laneTile p l = t.get l := by rw [laneTile, hpt, contentAt_singleton]
    rw [lanePass_of_formats (p := p) (l := l) (fa := fa) (fb := fb) (kk := kk) (n := n) (by rw [la, hfa]) (by rw [lb, hfb])
      (by rw [la, hka]), la, lb, lt]
    rw [List.foldl_ext _ next _ fun z k _ => ?_]
    have operation : stepOp p k = oper k := stepOp_eq p k
    have accumulate : cellAccOp (oper k) = acc k := cellAccOp_eq (oper k)
    have scales := scaleNaN_of_step p qa qb (band qa) (band qb) k fitsA fitsB
    have values : cellValues (stepOp p k) p.half (l.val == 0 && qa.packed) (readsA p qa (band qa) k fa n)
        (readsB qb (band qb) k fb n) = cells k := by
      rw [cellValues_of_step p qa qb (band qa) (band qb) k fitsA fitsB]
      refine List.map_congr_left fun e _ => ?_
      have packed : (l.val == 0 && qa.packed) = true ↔ l = 0 ∧ qa.packed = true := by
        rw [Bool.and_eq_true, beq_iff_eq, Fin.ext_iff]; rfl
      simp only [complexValue, packed, operation]
      rfl
    have readA (t : ℕ) : (contentAt emptyLatches p.a t).get l = qa := by rw [hpa, contentAt_singleton]
    have readB (t : ℕ) : (contentAt emptyLatches p.b t).get l = qb := by rw [hpb, contentAt_singleton]
    simp only [laneStep, readA, readB]
    cases hf : z.failed.isSome with
    | true => simp only [next, hf, if_true]
    | false =>
      simp only [next, hf, Bool.false_eq_true, if_false]
      dsimp only [band] at values scales
      rw [values, scales, operation, accumulate]
      cases (accStep (acc k) (cells k) z.tile).1 <;> rfl
  · obtain ⟨tr, result, cause, names, detail⟩ := passResult_of_failed h
    obtain ⟨attained, least⟩ := firstFailed_spec h
    exact ⟨tr, firstFailed p, result, cause, names, attained, least, detail⟩

end Sys2Proof.TilePasses
end

section
/-! SUPPORT. The accumulator step (R90, R167, R169-R171). -/

namespace Sys2Proof.Accumulation

open Sys2Proof.Machine Sys2Proof.Safety Sys2Proof.Claims Sys2Proof.Numbers

/-! ## Order of exact values (R87, R90) -/

theorem cmpV_fin (na nb : Bool) (ma mb : ℕ) (ea eb : ℤ) :
    cmpV (.fin na ma ea) (.fin nb mb eb) = some (if val (.fin na ma ea) < val (.fin nb mb eb) then .lt
      else if val (.fin na ma ea) = val (.fin nb mb eb) then .eq else .gt) := by
  obtain ⟨ha, hb⟩ := minExp_le ea eb
  have unit : (0 : ℚ) < 2 ^ minExp ea eb := by positivity
  have lt : val (.fin na ma ea) < val (.fin nb mb eb) ↔
      sInt na (scaleUp ma ea (minExp ea eb)) < sInt nb (scaleUp mb eb (minExp ea eb)) := by
    rw [val_fin, val_fin, ← sInt_scaleUp na ma ha, ← sInt_scaleUp nb mb hb, mul_lt_mul_iff_left₀ unit, Int.cast_lt]
  have eq : val (.fin na ma ea) = val (.fin nb mb eb) ↔
      sInt na (scaleUp ma ea (minExp ea eb)) = sInt nb (scaleUp mb eb (minExp ea eb)) := by
    rw [val_fin, val_fin, ← sInt_scaleUp na ma ha, ← sInt_scaleUp nb mb hb, mul_left_inj' unit.ne', Int.cast_inj]
  simp only [lt, eq]
  rfl

/-- Of two finite values the first is taken as the less one when it is, or when it is an equal of negative sign. -/
theorem minMaxV_of_finite (max num : Bool) {a b : FVal} (ha : finite a = true) (hb : finite b = true) :
    minMaxV max num a b = if (decide (val a < val b ∨ (val a = val b ∧ a.sign = true)) != max) = true then a else b := by
  obtain ⟨na, ma, ea, rfl⟩ := exists_fin_of_finite ha
  obtain ⟨nb, mb, eb, rfl⟩ := exists_fin_of_finite hb
  simp only [minMaxV, cmpV_fin]
  rcases lt_trichotomy (val (.fin na ma ea)) (val (.fin nb mb eb)) with h | h | h
  · simp [h]
  · simp [h]
  · simp [h.not_gt, h.ne']

theorem minMaxV_nan (max : Bool) {a b : FVal} (h : a.isNaN = true ∨ b.isNaN = true) :
    (minMaxV max false a b).isNaN = true := by
  cases a <;> cases b <;> simp_all [minMaxV, FVal.isNaN]

theorem maximaAreExact : MaximaAreExact := by
  refine fun a b _ hb => ⟨fun h => ⟨minMaxV_nan true h, minMaxV_nan false h⟩, fun ha hb => ?_, ?_, ?_⟩
  · rw [minMaxV_of_finite true false ha hb, minMaxV_of_finite false false ha hb]
    rcases lt_trichotomy (val a) (val b) with h | h | h
    · simp [h, h.le]
      exact fun ha hb => absurd h (by simp [ha, hb])
    · cases hs : a.sign <;> simp [h, hs]
    · simp [h.not_gt, h.ne', h.le]
      exact fun ha hb => absurd h (by simp [ha, hb])
  · rintro rfl hn
    cases b with
    | nan => cases hn
    | inf n => cases n <;> exact ⟨rfl, rfl⟩
    | fin | near => exact ⟨rfl, rfl⟩
  · rintro rfl hn
    cases b with
    | nan => cases hn
    | inf n => cases n <;> exact ⟨rfl, rfl⟩
    | fin | near => exact ⟨rfl, rfl⟩

/-! ## Accumulator integers (R167) -/

theorem accValue_eq_accVal (ae : Option ℤ) (m : ℤ) : accValue ae m = accVal ae m := by
  simp only [accValue, accVal, markPosInf, markNegInf, markNaN, beq_iff_eq]
  cases ae with
  | none => rfl
  | some e =>
    by_cases hm : m = 0
    · subst hm; rfl
    · simp [ofInt, hm]

theorem accApply_eq_accumulated (op : AccOp) (v x : FVal) : accApply op v x = accumulated op v x := by
  cases op <;> rfl

theorem isMarker_iff (m : ℤ) : isMarker m = true ↔ m = 2 ^ 47 - 1 ∨ m = -2 ^ 47 ∨ m = -2 ^ 47 + 1 := by
  simp only [isMarker, Bool.or_eq_true, beq_iff_eq, or_assoc]
  rfl

/-- The model's rounding of a magnitude to an integer, to the nearest and ties to even. -/
theorem roundShift_eq_roundedTo {neg : Bool} {m : ℕ} {sh : ℤ} {y : ℚ} (hy : y * 2 ^ sh = m) :
    sInt neg (roundShift 0 neg m false sh).1 = roundedTo 0 (if neg then -y else y) := by
  have pos : 0 ≤ y := by
    rw [← eq_div_iff (by positivity)] at hy
    rw [hy]
    positivity
  exact (roundedTo_eq_sInt pos (roundShift_roundsTo 0 neg (more := false) hy (by simp)).1).symm

theorem rneShift_eq_roundedTo (m : ℤ) : rneShift m 8 = roundedTo 0 (m / 256) := by
  have whole : ((m.natAbs : ℚ) / 256) * 2 ^ ((8 : ℕ) : ℤ) = m.natAbs := by norm_num
  rw [rneShift, roundShift_eq_roundedTo whole]
  congr 1
  have abs : (m.natAbs : ℚ) = |(m : ℚ)| := by rw [← Int.cast_abs, Int.abs_eq_natAbs]; simp
  rcases lt_or_ge m 0 with h | h
  · have : (m : ℚ) < 0 := by exact_mod_cast h
    simp [h, abs, abs_of_neg this]; ring
  · have : (0 : ℚ) ≤ m := by exact_mod_cast h
    simp [h.not_gt, abs, abs_of_nonneg this]

/-- What a candidate is of a value: its integer, and whether it is a finite one out of range. -/
theorem candOf_spec (ae : Option ℤ) (u : FVal) :
    (candOf ae u).val = accInt ae u ∧ ((candOf ae u).big = true ↔ finite u = true ∧ 2 ^ 46 ≤ |accInt ae u|) := by
  have zero : roundedTo 0 (0 : ℚ) = 0 := by norm_num [roundedTo]
  cases u with
  | nan s => exact ⟨rfl, by simp [candOf, Cand.big, finite]⟩
  | inf n => exact ⟨rfl, by simp [candOf, Cand.big, finite]⟩
  | near n m e => cases ae <;> simp [candOf, Cand.big, Cand.val, accInt, finite, Claims.val, zero]
  | fin n m e =>
    cases ae with
    | none => simp [candOf, Cand.big, Cand.val, accInt]
    | some a =>
      have shift : (m : ℚ) * 2 ^ e / 2 ^ a * 2 ^ (a - e) = m := by
        rw [zpow_sub₀ two_ne_zero]
        field_simp
      have value : val (.fin n m e) / 2 ^ a = if n then -((m : ℚ) * 2 ^ e / 2 ^ a) else m * 2 ^ e / 2 ^ a := by
        rw [val_fin_if]; cases n <;> simp [neg_div]
      have round : sInt n (roundShift 0 n m false (a - e)).1 = accInt (some a) (.fin n m e) := by
        rw [roundShift_eq_roundedTo shift, ← value]; rfl
      refine ⟨round, ?_⟩
      simp only [candOf, Cand.big, round, finite, true_and, decide_eq_true_eq]
      rw [Int.abs_eq_natAbs]
      norm_cast

/-! ## The exponent of the first contribution (R169) -/

/-- One value of the search for the largest magnitude. -/
def larger (m v : FVal) : FVal :=
  match v with
  | .fin _ a e => if cmpV m (.fin false a e) == some .lt then .fin false a e else m
  | _ => m

theorem largest_eq_foldl (l : List FVal) : largest l = l.foldl larger (.fin false 0 0) := rfl

theorem larger_spec (v : FVal) (a : ℕ) (e : ℤ) :
    ∃ b i, larger (.fin false a e) v = .fin false b i ∧ val (.fin false a e) ≤ val (.fin false b i) ∧
      (finite v = true → |val v| ≤ val (.fin false b i)) ∧
      (val (.fin false b i) = val (.fin false a e) ∨ (finite v = true ∧ |val v| = val (.fin false b i))) := by
  cases v with
  | nan | inf | near => exact ⟨a, e, rfl, le_rfl, by simp [finite], .inl rfl⟩
  | fin n c j =>
    have magnitude : |val (.fin n c j)| = val (.fin false c j) := by rw [abs_val_fin, val_fin]; simp [sInt]
    by_cases h : val (.fin false a e) < val (.fin false c j)
    · exact ⟨c, j, by simp [larger, cmpV_fin, h], h.le, fun _ => magnitude.le, .inr ⟨rfl, magnitude⟩⟩
    · refine ⟨a, e, ?_, le_rfl, fun _ => magnitude.trans_le (not_lt.1 h), .inl rfl⟩
      simp only [larger, cmpV_fin, h, if_false]
      split <;> simp_all

theorem foldl_larger_spec (l : List FVal) (a : ℕ) (e : ℤ) :
    ∃ b i, l.foldl larger (.fin false a e) = .fin false b i ∧ val (.fin false a e) ≤ val (.fin false b i) ∧
      (∀ v ∈ l, finite v = true → |val v| ≤ val (.fin false b i)) ∧
      (val (.fin false b i) = val (.fin false a e) ∨ ∃ v ∈ l, finite v = true ∧ |val v| = val (.fin false b i)) := by
  induction l generalizing a e with
  | nil => exact ⟨a, e, rfl, le_rfl, by simp, .inl rfl⟩
  | cons v l ih =>
    obtain ⟨c, j, first, above, bound, attained⟩ := larger_spec v a e
    obtain ⟨b, i, rest, above', bound', attained'⟩ := ih c j
    refine ⟨b, i, ?_, above.trans above', ?_, ?_⟩
    · rw [List.foldl_cons, first, rest]
    · exact List.forall_mem_cons.2 ⟨fun h => (bound h).trans above', bound'⟩
    · rcases attained' with eq | ⟨u, hu, h⟩
      · rcases attained with eq' | h
        · exact .inl (eq.trans eq')
        · exact .inr ⟨v, List.mem_cons_self, eq ▸ h⟩
      · exact .inr ⟨u, List.mem_cons_of_mem _ hu, h⟩

/-- The largest finite magnitude of a list, and its exponent. -/
theorem largest_spec {l : List FVal} {q : ℚ} (h : LargestOf l q) :
    ∃ m e, largest l = .fin false m e ∧ q = m * 2 ^ e := by
  obtain ⟨bound, attained⟩ := h
  obtain ⟨m, e, eq, above, bound', attained'⟩ := foldl_larger_spec l 0 0
  have value : val (.fin false m e) = m * 2 ^ e := by rw [val_fin]; simp [sInt]
  have zero : val (.fin false 0 0) = 0 := by simp [val]
  refine ⟨m, e, (largest_eq_foldl l).trans eq, le_antisymm ?_ ?_⟩
  · rcases attained with ⟨v, hv, hf, rfl⟩ | ⟨rfl, -⟩
    · exact value ▸ bound' v hv hf
    · positivity
  · rw [← value]
    rcases attained' with hz | ⟨v, hv, hf, hq⟩
    · rw [hz, zero]
      rcases attained with ⟨v, -, -, rfl⟩ | ⟨rfl, -⟩
      · positivity
      · rfl
    · exact hq ▸ bound v hv hf

theorem firstExp_some (e : ℤ) (p : Contrib) : firstExp (some e) p = some e := rfl

theorem firstExp_of_zero {p : List FVal} (h : LargestOf p 0) : firstExp none (p.map some) = none := by
  obtain ⟨m, e, eq, zero⟩ := largest_spec h
  have : m = 0 := by
    have := mul_eq_zero.1 zero.symm
    simpa [zpow_ne_zero e (two_ne_zero (α := ℚ))] using this
  simp [firstExp, eq, FVal.isZero, this]

theorem firstExp_of_binade {p : List FVal} {q : ℚ} {l : ℤ} (h : LargestOf p q) (low : 2 ^ l ≤ q) (high : q < 2 ^ (l + 1)) :
    firstExp none (p.map some) = some (max (l - 44) (-512)) := by
  obtain ⟨m, e, eq, rfl⟩ := largest_spec h
  have unit : (0 : ℚ) < 2 ^ e := by positivity
  have pos : m ≠ 0 := by
    rintro rfl
    have : (0 : ℚ) < 2 ^ l := by positivity
    simp at low
    linarith
  have len : 0 < bitLen m := lt_bitLen_iff.2 (by simpa using Nat.one_le_iff_ne_zero.2 pos)
  have first : (2 : ℚ) ^ ((bitLen m - 1 : ℕ) : ℤ) ≤ m := by
    rw [zpow_natCast]
    exact_mod_cast lt_bitLen_iff.1 (show bitLen m - 1 < bitLen m by omega)
  have last : (m : ℚ) < 2 ^ (bitLen m : ℤ) := by
    rw [zpow_natCast]
    exact_mod_cast lt_two_pow_bitLen m
  have below : l < bitLen m + e := by
    rw [← zpow_lt_zpow_iff_right₀ (one_lt_two (α := ℚ)), zpow_add₀ two_ne_zero]
    exact low.trans_lt (mul_lt_mul_of_pos_right last unit)
  have above : ((bitLen m - 1 : ℕ) : ℤ) + e < l + 1 := by
    rw [← zpow_lt_zpow_iff_right₀ (one_lt_two (α := ℚ)), zpow_add₀ two_ne_zero]
    exact (mul_le_mul_of_nonneg_right first unit.le).trans_lt high
  have exponent : floorLog2 (largest p) = l := by
    rw [eq, floorLog2]
    omega
  have nonzero : (largest p).isZero = false := by simp [eq, FVal.isZero, pos]
  simp [firstExp, exponent, nonzero]

/-! ## The candidates of a step (R169) -/

/-- What element i of a tile becomes with a contribution, before it is rounded to an integer. -/
def sumAt (op : AccOp) (p : List FVal) (ae : Option ℤ) (m : List ℤ) (i : ℕ) : FVal :=
  accumulated op (accVal ae (m.getD i 0)) (p.getD i (.nan true))

theorem zipWith_map_some {α : Type} (f : ℤ → FVal → α) {m : List ℤ} {p : List FVal} (hm : m.length = 1024)
    (hp : p.length = 1024) (g : ℤ → Option FVal → α) (hg : ∀ a x, g a (some x) = f a x) :
    List.zipWith g m (p.map some) = (List.range 1024).map fun i => f (m.getD i 0) (p.getD i (.nan true)) := by
  refine List.ext_getElem (by simp [hm, hp]) fun i hi hi' => ?_
  have im : i < m.length := by simp at hi; omega
  have ip : i < p.length := by simp at hi; omega
  simp [hg, im, ip]

section
variable {op : AccOp} {p : List FVal} {t : AccLane} (hm : t.m.length = 1024) (hp : p.length = 1024)
include hm hp

theorem candidates_eq (ae : Option ℤ) :
    candidates op ae t.m (p.map some) = (List.range 1024).map fun i => candOf ae (sumAt op p ae t.m i) := by
  unfold candidates sumAt
  refine zipWith_map_some (fun a x => candOf ae (accumulated op (accVal ae a) x)) hm hp _ fun a x => ?_
  simp only [accApply_eq_accumulated, accValue_eq_accVal]

theorem candidates_val (ae : Option ℤ) :
    (candidates op ae t.m (p.map some)).map Cand.val = (List.range 1024).map fun i => accInt ae (sumAt op p ae t.m i) := by
  rw [candidates_eq hm hp, List.map_map]
  exact List.map_congr_left fun i _ => (candOf_spec ae _).1

/-- Every finite sum is an integer below 2^46 in magnitude. -/
theorem candidates_fit_iff (ae : Option ℤ) :
    (candidates op ae t.m (p.map some)).any Cand.big = false ↔
      ∀ i < 1024, finite (sumAt op p ae t.m i) = true → |accInt ae (sumAt op p ae t.m i)| < 2 ^ 46 := by
  rw [candidates_eq hm hp, List.any_map, List.any_eq_false]
  simp only [List.mem_range, Function.comp_apply, (candOf_spec ae _).2, not_and, not_le]

/-- NV of a step: a contribution that raises it, or a sum that does (R170). -/
theorem accStep_nv_iff :
    (accStep op (p.map some) t).2 = true ↔ ∃ i < 1024, (p.getD i (.nan true)).nv = true ∨
      (op ≠ .replace ∧ (sumAt op p t.ae t.m i).nv = true) := by
  have nv : (accStep op (p.map some) t).2 = ((List.range 1024).map fun i => (p.getD i (.nan true)).nv ||
      (op != .replace && (sumAt op p t.ae t.m i).nv)).any id := by
    unfold accStep sumAt
    dsimp only
    rw [zipWith_map_some (fun a x => x.nv || (op != .replace && (accumulated op (accVal t.ae a) x).nv)) hm hp _ fun a x => ?_]
    simp only [accApply_eq_accumulated, accValue_eq_accVal]
  rw [nv]
  simp only [List.any_map, List.any_eq_true, List.mem_range, Function.comp_apply, id_eq, Bool.or_eq_true, Bool.and_eq_true,
    bne_iff_ne]

end

/-! ## The repeat loop (R169, R171) -/

/-- An element of a tile as AE rises by 8. -/
def renormalised (m : ℤ) : ℤ := if isMarker m then m else rneShift m 8

section
variable {op : AccOp} {p : Contrib} {t : AccLane}

theorem accLoop_of_fit (n : ℕ) (h : (candidates op t.ae t.m p).any Cand.big = false) :
    accLoop op p (n + 1) t = some { t with m := (candidates op t.ae t.m p).map Cand.val } := by
  simp only [accLoop, h, Bool.false_eq_true, if_false]

theorem accLoop_of_big (n : ℕ) {e : ℤ} (he : t.ae = some e) (h : (candidates op t.ae t.m p).any Cand.big = true) :
    accLoop op p (n + 1) t =
      if e + 8 > 511 then none else accLoop op p n { t with ae := some (e + 8), m := t.m.map renormalised } := by
  simp only [accLoop, h, if_true]
  simp only [he]
  rfl

/-- Once the fuel allows AE to rise to its end, more of it changes nothing. -/
theorem accLoop_succ_fuel (n : ℕ) {e : ℤ} (he : t.ae = some e) (enough : 511 < e + 8 * (n + 1)) :
    accLoop op p (n + 2) t = accLoop op p (n + 1) t := by
  induction n generalizing t e with
  | zero =>
    cases h : (candidates op t.ae t.m p).any Cand.big with
    | false => rw [accLoop_of_fit _ h, accLoop_of_fit _ h]
    | true =>
      have last : e + 8 > 511 := by omega
      rw [accLoop_of_big _ he h, accLoop_of_big _ he h, if_pos last, if_pos last]
  | succ n ih =>
    cases h : (candidates op t.ae t.m p).any Cand.big with
    | false => rw [accLoop_of_fit _ h, accLoop_of_fit _ h]
    | true => rw [accLoop_of_big _ he h, accLoop_of_big _ he h, ih rfl (by push_cast at enough; omega)]

end

/-! ## The step (R169-R171) -/

theorem accStep_fst (op : AccOp) (p : Contrib) (t : AccLane) :
    (accStep op p t).1 = accLoop op p 200 { t with ae := firstExp t.ae p } := rfl

theorem nv_iff (v : FVal) : v.nv = true ↔ v = .nan true := by
  cases v with
  | nan s => simp [FVal.nv]
  | inf | fin | near => simp [FVal.nv]

theorem nv_of_finite {v : FVal} (h : finite v = true) : v.nv = false := by
  obtain ⟨n, m, e, rfl⟩ := exists_fin_of_finite h
  rfl

/-- A finite value adds no NV of its own. -/
theorem nv_accumulated_fin {op : AccOp} (n : Bool) (m : ℕ) (e : ℤ) (x : FVal) :
    (accumulated op (.fin n m e) x).nv = x.nv := by
  cases op with
  | replace => rfl
  | add =>
    cases x with
    | fin k c j => exact nv_of_finite (addV_fin 0 n k m c e j).1
    | nan | inf | near => simp [accumulated, addV, FVal.nv]
  | max | min =>
    cases x with
    | nan s => rfl
    | inf | fin | near =>
      simp only [accumulated, minMaxV]
      rw [apply_ite FVal.nv]
      exact ite_self _

/-- The exponent does not matter to the NV of elements that are zero or markers. -/
theorem nv_sumAt_of_zero {op : AccOp} (p : List FVal) {m : List ℤ} {i : ℕ} (h : m.getD i 0 = 0 ∨ isMarker (m.getD i 0) = true)
    (a b : Option ℤ) : (sumAt op p a m i).nv = (sumAt op p b m i).nv := by
  unfold sumAt
  rcases h with h | h
  · have zero (ae : Option ℤ) : ∃ e, accVal ae 0 = .fin false 0 e := by cases ae <;> exact ⟨_, rfl⟩
    obtain ⟨e, he⟩ := zero a
    obtain ⟨e', he'⟩ := zero b
    rw [h, he, he', nv_accumulated_fin, nv_accumulated_fin]
  · have same : accVal a (m.getD i 0) = accVal b (m.getD i 0) := by
      rcases (isMarker_iff _).1 h with h | h | h <;> rw [h] <;> rfl
    rw [same]

/-- Without an exponent every candidate is zero or a marker. -/
theorem accInt_none_fits {u : FVal} (h : finite u = true) : |accInt none u| < 2 ^ 46 := by
  obtain ⟨n, m, e, rfl⟩ := exists_fin_of_finite h
  norm_num [accInt]

section
variable {op : AccOp} {p : List FVal} {t : AccLane} (hm : t.m.length = 1024) (hp : p.length = 1024)
include hm hp

/-- A step whose candidates fit takes them. -/
theorem accStep_of_fit (hexp : firstExp t.ae (p.map some) = t.ae)
    (fits : ∀ i < 1024, finite (sumAt op p t.ae t.m i) = true → |accInt t.ae (sumAt op p t.ae t.m i)| < 2 ^ 46) :
    (accStep op (p.map some) t).1 =
      some { t with m := (List.range 1024).map fun i => accInt t.ae (sumAt op p t.ae t.m i) } := by
  have fit := (candidates_fit_iff hm hp t.ae).2 fits
  rw [accStep_fst, hexp, accLoop_of_fit 199 fit, candidates_val hm hp]

/-- A step with an exponent and a candidate out of range: the exponent is at its end, or rises. -/
theorem accStep_of_big {e : ℤ} (hae : t.ae = some e) (he : -512 ≤ e)
    (big : ¬ ∀ i < 1024, finite (sumAt op p t.ae t.m i) = true → |accInt t.ae (sumAt op p t.ae t.m i)| < 2 ^ 46) :
    (accStep op (p.map some) t).1 = if e + 8 > 511 then none
      else (accStep op (p.map some) { t with ae := some (e + 8), m := t.m.map renormalised }).1 := by
  have big : (candidates op t.ae t.m (p.map some)).any Cand.big = true := by
    rw [← candidates_fit_iff hm hp t.ae, Bool.not_eq_false] at big
    exact big
  have same : ({ t with ae := firstExp t.ae (p.map some) } : AccLane) = t := by rw [hae, firstExp_some, ← hae]
  have fuel : accLoop op (p.map some) 200 { t with ae := some (e + 8), m := t.m.map renormalised } =
      accLoop op (p.map some) 199 { t with ae := some (e + 8), m := t.m.map renormalised } :=
    accLoop_succ_fuel 198 rfl (by push_cast; omega)
  rw [accStep_fst, accStep_fst, same, accLoop_of_big 199 hae big, firstExp_some, fuel]

theorem accStep_of_first (hae : t.ae = none) (hz : ∀ m ∈ t.m, m = 0 ∨ isMarker m = true) {a : ℤ}
    (hexp : firstExp none (p.map some) = some a) :
    accStep op (p.map some) t = accStep op (p.map some) { t with ae := some a } := by
  refine Prod.ext ?_ ?_
  · rw [accStep_fst, accStep_fst, hae, hexp, firstExp_some]
  · rw [Bool.eq_iff_iff, accStep_nv_iff hm hp, accStep_nv_iff (t := { t with ae := some a }) hm hp]
    refine exists_congr fun i => and_congr_right fun hi => ?_
    have im : i < t.m.length := by omega
    rw [nv_sumAt_of_zero p (m := t.m) (i := i) (by simpa [im] using hz _ (List.getElem_mem im)) t.ae (some a)]

end

theorem stepsAccumulateExactly : StepsAccumulateExactly := by
  refine ⟨maximaAreExact, fun op p t hm hp _ => ?_⟩
  intro step u c fits marked
  have fits_iff : fits ↔
      ∀ i < 1024, finite (sumAt op p t.ae t.m i) = true → |accInt t.ae (sumAt op p t.ae t.m i)| < 2 ^ 46 := by
    refine forall₂_congr fun i hi => ?_
    rw [show c.getD i 0 = accInt t.ae (u i) from TilePasses.getD_map_range hi 0]
    rfl
  refine ⟨fun hae hz => ⟨fun zero => ?_, fun q l hq low high => ?_⟩, fun e hae he => ⟨fun hf => ?_, fun hf top => ?_,
    fun hf room => ⟨t.m.map renormalised, ?_, by rw [List.length_map, hm], fun i hi => ?_⟩⟩, ?_⟩
  · exact accStep_of_fit hm hp (by rw [hae]; exact firstExp_of_zero zero) fun i _ => hae ▸ accInt_none_fits
  · exact accStep_of_first hm hp hae (fun m h => (hz m h).imp_right (isMarker_iff m).2) (firstExp_of_binade hq low high)
  · exact accStep_of_fit hm hp (by rw [hae, firstExp_some]) (fits_iff.1 hf)
  · exact (accStep_of_big hm hp hae he (mt fits_iff.2 hf)).trans (if_pos top)
  · exact (accStep_of_big hm hp hae he (mt fits_iff.2 hf)).trans (if_neg room.not_gt)
  · have im : i < t.m.length := by omega
    rw [show (t.m.map renormalised).getD i 0 = renormalised (t.m.getD i 0) by simp [im]]
    exact ⟨fun h => if_pos ((isMarker_iff _).2 h),
      fun h => (if_neg (mt (isMarker_iff _).1 h)).trans (rneShift_eq_roundedTo _)⟩
  · rw [accStep_nv_iff hm hp]
    refine exists_congr fun i => and_congr_right fun hi => ?_
    have ip : i < p.length := by omega
    rw [nv_iff, nv_iff, show p.getD i (.nan true) = p.getD i (.fin false 0 0) by simp [ip]]
    rfl

end Sys2Proof.Accumulation
end

section
/-! SUPPORT. The tile multiplier (R167-R171, R198-R200, R206-R210). -/

namespace Sys2Proof.TilePasses

open Sys2Proof.Machine Sys2Proof.Safety Sys2Proof.Claims

/-- Settles O38: the word at issue, by the checks of its lanes; a step, by the candidates of its elements and the rounds of
renormalisation that its fuel covers; a pass, by its steps on the elements of the latches, and its one fault. -/
theorem passesStartAndAccumulate : Obligations.PassesStartAndAccumulate := by
  unfold Obligations.PassesStartAndAccumulate
  exact ⟨passesStartWithTheirOperands, emptyLatchesFaultThePass, Accumulation.stepsAccumulateExactly, passesApplyTheirSteps⟩

end Sys2Proof.TilePasses
end

section
/-! SUPPORT. Elements of tile rows (R155, R158, R487). -/

namespace Sys2Proof.TileRows

open Sys2Proof.Machine Sys2Proof.Safety Sys2Proof.Claims Sys2Proof.Numbers Sys2Proof.ControlProcessor

/-! ## Exact values under a scale -/

theorem val_scale {v : FVal} (h : finite v = true) (k : ℤ) : val (v.scale k) = val v * 2 ^ k := by
  obtain ⟨n, m, e, rfl⟩ := exists_fin_of_finite h
  rw [FVal.scale, val_fin, val_fin, zpow_add₀ two_ne_zero, mul_assoc]

theorem finite_scale (v : FVal) (k : ℤ) : finite (v.scale k) = finite v := by
  cases v <;> rfl

theorem sign_scale (v : FVal) (k : ℤ) : (v.scale k).sign = v.sign := by
  cases v <;> rfl

/-- A product of finite values. -/
theorem mulV_of_finite {a b : FVal} (ha : finite a = true) (hb : finite b = true) :
    finite (mulV a b) = true ∧ (mulV a b).sign = (a.sign ^^ b.sign) ∧ val (mulV a b) = val a * val b := by
  obtain ⟨na, ma, ea, rfl⟩ := exists_fin_of_finite ha
  obtain ⟨nb, mb, eb, rfl⟩ := exists_fin_of_finite hb
  exact ⟨rfl, by simp [mulV, FVal.sign], mulV_fin na nb ma mb ea eb⟩

/-! ## Integer elements (R155, R487) -/

/-- A number rounded to an integer and clamped to a range, with the flags of both. -/
def clampedTo (lo hi : ℤ) (rm : ℕ) (r : ℚ) : ℤ × Flags :=
  let y := roundedTo rm r
  (max lo (min hi y), if y < lo ∨ hi < y then flOF ||| flNX else if (y : ℚ) = r then 0 else flNX)

theorem clampedTo_eq {lo hi x : ℤ} {rm : ℕ} {r : ℚ} {inexact : Bool} (order : lo ≤ hi) (value : x = roundedTo rm r)
    (exact : inexact = false ↔ (x : ℚ) = r) :
    (if x > hi then (hi, flOF ||| flNX) else if x < lo then (lo, flOF ||| flNX) else (x, flagIf inexact flNX)) =
      clampedTo lo hi rm r := by
  have flags : flagIf inexact flNX = if (x : ℚ) = r then 0 else flNX := by
    cases inexact with
    | false => rw [if_pos (exact.1 rfl)]; rfl
    | true => rw [if_neg (mt exact.2 (by simp))]; rfl
  simp only [clampedTo, ← value, flags]
  rcases lt_or_ge hi x with above | below
  · simp [above, above.le, order]
  · rcases lt_or_ge x lo with under | inside
    · simp [below.not_gt, under, below, under.le]
    · simp [below.not_gt, inside.not_gt, below, inside]

theorem narrowInt_of_finite {lo hi : ℤ} (order : lo ≤ hi) (rm : ℕ) {v : FVal} (h : finite v = true) :
    narrowInt lo hi rm v = clampedTo lo hi rm (val v) := by
  obtain ⟨n, m, e, rfl⟩ := exists_fin_of_finite h
  obtain ⟨value, exact⟩ := roundInt_eq_roundedTo rm n m e
  exact clampedTo_eq order value exact

/-- What more follows a magnitude is never exact. -/
theorem roundShift_more (rm : ℕ) (neg : Bool) (m : ℕ) (sh : ℤ) : (roundShift rm neg m true sh).2 = true := by
  cases sh <;> simp [roundShift]

theorem narrowInt_near {lo hi : ℤ} (order : lo ≤ hi) (rm : ℕ) {neg : Bool} {m : ℕ} {e : ℤ} {q : ℚ} (he : e < 0)
    (low : (m : ℚ) * 2 ^ e < q) (high : q < (m + 1) * 2 ^ e) :
    narrowInt lo hi rm (.near neg m e) = clampedTo lo hi rm (if neg then -q else q) := by
  have unit : (0 : ℚ) < 2 ^ e := by positivity
  have pos : 0 < q := (by positivity : (0 : ℚ) ≤ m * 2 ^ e).trans_lt low
  have inner : Denotes m true (q * 2 ^ (-e)) := by
    rw [zpow_neg, ← div_eq_mul_inv]
    exact ⟨(lt_div_iff₀ unit).2 low, (div_lt_iff₀ unit).2 high⟩
  obtain ⟨rounds, exact⟩ := roundShift_roundsTo rm neg inner fun _ => by omega
  rw [roundShift_more] at exact
  refine clampedTo_eq (x := sInt neg (roundShift rm neg m true (-e)).1) (inexact := true) order
    (roundedTo_eq_sInt pos.le rounds).symm ?_
  rw [exact, sInt_cast]
  cases neg <;> simp

/-- A value that stands for a number narrows to its rounding, if the interval it may tell lies between quarters. -/
theorem narrowInt_of_stands {lo hi : ℤ} (order : lo ≤ hi) (rm : ℕ) {v : FVal} {neg : Bool} {q : ℚ} (h : Stands 0 v neg q)
    (fine : ∀ m e, v = .near neg m e → e ≤ -2) :
    narrowInt lo hi rm v = clampedTo lo hi rm (if neg then -q else q) := by
  obtain ⟨-, m, e, ⟨rfl, rfl⟩ | ⟨rfl, -, low, high⟩⟩ := h
  · rw [narrowInt_of_finite order rm rfl, val_fin_if]
  · exact narrowInt_near order rm (by have := fine m e rfl; omega) low high

theorem encode_int (sgn : Bool) (n rm : ℕ) (v : FVal) :
    (Elem.int sgn n).encode rm v =
      ((BitVec.ofInt n (narrowInt (intLo sgn n) (intHi sgn n) rm v).1).toNat,
        (narrowInt (intLo sgn n) (intHi sgn n) rm v).2) := by
  rw [toNat_ofInt_eq]; rfl

theorem encode_mxInt (rm : ℕ) (v : FVal) :
    Elem.mxInt.encode rm v =
      ((BitVec.ofInt 8 (narrowInt (-128) 127 rm (v.scale 6)).1).toNat, (narrowInt (-128) 127 rm (v.scale 6)).2) := by
  rw [toNat_ofInt_eq]; rfl

theorem intLo_eq (sgn : Bool) (n : ℕ) : intLo sgn n = if sgn then -2 ^ (n - 1) else 0 := by
  cases sgn <;> simp [intLo]

theorem intHi_eq (sgn : Bool) (n : ℕ) : intHi sgn n = if sgn then 2 ^ (n - 1) - 1 else 2 ^ n - 1 := by
  cases sgn <;> simp [intHi]

theorem intLo_le_intHi (sgn : Bool) (n : ℕ) : intLo sgn n ≤ intHi sgn n := by
  have half : (1 : ℤ) ≤ 2 ^ (n - 1) := one_le_pow₀ one_le_two
  have whole : (1 : ℤ) ≤ 2 ^ n := one_le_pow₀ one_le_two
  rw [intLo_eq, intHi_eq]
  cases sgn with
  | true => simp
  | false => simpa using whole

theorem decode_int (sgn : Bool) {n : ℕ} (pos : 0 < n) (le : n ≤ 64) (bits : ℕ) :
    finite ((Elem.int sgn n).decode bits) = true ∧ val ((Elem.int sgn n).decode bits) =
      if sgn then ((BitVec.ofNat n bits).toInt : ℚ) else ((BitVec.ofNat n bits).toNat : ℚ) := by
  refine ⟨finite_ofInt _ _ _, (val_ofInt _ _ _).trans ?_⟩
  have narrow : (BitVec.ofNat 64 bits).setWidth n = BitVec.ofNat n bits := BitVec.setWidth_ofNat_of_le le bits
  cases sgn with
  | true => rw [ivalW_signed pos, narrow]; simp
  | false => rw [ivalW_unsigned, narrow]; push_cast; simp

theorem decode_mxInt (bits : ℕ) : finite (Elem.mxInt.decode bits) = true ∧
    val (Elem.mxInt.decode bits) = ((BitVec.ofNat 8 bits).toInt : ℚ) / 64 := by
  refine ⟨finite_ofInt _ _ _, (val_ofInt _ _ _).trans ?_⟩
  rw [ivalW_signed (by decide), BitVec.setWidth_ofNat_of_le (by decide)]
  norm_num [zpow_neg]
  ring

theorem integerElementsRoundAndClamp : IntegerElementsRoundAndClamp := by
  intro sgn n bits rm hn b lo hi
  obtain ⟨pos, le⟩ : 0 < n ∧ n ≤ 64 := by
    simp only [List.mem_cons, Prod.mk.injEq, List.not_mem_nil, or_false] at hn
    omega
  have hlo : intLo sgn n = lo := intLo_eq sgn n
  have hhi : intHi sgn n = hi := intHi_eq sgn n
  have order : lo ≤ hi := hlo ▸ hhi ▸ intLo_le_intHi sgn n
  refine ⟨decode_int sgn pos le bits, decode_mxInt bits, ?_⟩
  intro gives
  have int {v : FVal} {x : ℤ} {fl : Flags} (h : narrowInt lo hi rm v = (x, fl)) : gives (.int sgn n) n v x fl := by
    rw [← hlo, ← hhi] at h
    exact (encode_int sgn n rm v).trans (by rw [h])
  have mx {v : FVal} {x : ℤ} {fl : Flags} (h : narrowInt (-128) 127 rm (v.scale 6) = (x, fl)) : gives .mxInt 8 v x fl :=
    (encode_mxInt rm v).trans (by rw [h])
  refine ⟨fun c => ⟨int rfl, mx rfl⟩, ⟨int rfl, int rfl, mx rfl, mx rfl⟩, fun v hv => ⟨?_, ?_⟩, fun v neg q hq fine => ?_⟩
  · exact int (narrowInt_of_finite order rm hv)
  · have value : val (v.scale 6) = val v * 64 := by rw [val_scale hv]; norm_num
    exact mx ((narrowInt_of_finite (by decide) rm (by rw [finite_scale, hv])).trans (by rw [value]; rfl))
  · exact int (narrowInt_of_stands order rm hq fine)

end Sys2Proof.TileRows
end

section
/-! SUPPORT. Tile formats by code, and the elements of a row in their places (R152, R157). -/

namespace Sys2Proof.TileRows

open Sys2Proof.Machine Sys2Proof.Safety Sys2Proof.Claims Sys2Proof.Numbers

/-! ## Codes of floating formats (R46, R154) -/

/-- The special magnitudes of a format leave room for its sign bit. -/
abbrev FitsWidth (f : FFmt) : Prop :=
  0 < f.width ∧ f.maxMag < 2 ^ (f.width - 1) ∧ f.inf.getD 0 < 2 ^ (f.width - 1) ∧ f.nan.getD 0 < 2 ^ (f.width - 1)

section
variable {f : FFmt} (h : FitsWidth f)
include h

theorem signed_lt (neg : Bool) {mag : ℕ} (hm : mag < 2 ^ (f.width - 1)) : signed f neg mag < 2 ^ f.width := by
  obtain ⟨w, hw⟩ : ∃ w, f.width = w + 1 := Nat.exists_eq_add_of_lt h.1 |>.imp fun w hw => by omega
  rw [signed, hw, Nat.pow_succ]
  rw [hw, Nat.add_sub_cancel] at hm
  rw [Nat.add_sub_cancel]
  split <;> omega

theorem overflowMag_lt (rm : ℕ) (neg : Bool) : overflowMag f rm neg < 2 ^ (f.width - 1) := by
  obtain ⟨-, top, inf, -⟩ := h
  unfold overflowMag
  cases hi : f.inf with
  | none => exact top
  | some i =>
    rw [hi] at inf
    have pick (toInf : Bool) : (if toInf then i else f.maxMag) < 2 ^ (f.width - 1) := by
      cases toInf
      · exact top
      · exact inf
    exact pick _

theorem roundTo_lt (rm : ℕ) (flush neg : Bool) (m : ℕ) (e : ℤ) (st : Bool) :
    (roundTo f rm flush neg m e st).1 < 2 ^ f.width := by
  have choose {c : Prop} [Decidable c] {x y : ℕ × Flags} (hx : c → x.1 < 2 ^ f.width) (hy : ¬c → y.1 < 2 ^ f.width) :
      (if c then x else y).1 < 2 ^ f.width :=
    iteInduction (motive := fun r : ℕ × Flags => r.1 < 2 ^ f.width) hx hy
  exact choose (fun _ => signed_lt h neg (Nat.two_pow_pos _)) fun _ =>
    choose (fun _ => signed_lt h neg (overflowMag_lt h rm neg)) fun inside =>
      signed_lt h neg ((not_lt.1 inside).trans_lt h.2.1)

theorem deliver_lt (rm : ℕ) (flush : Bool) (v : FVal) : (deliver f rm flush v).1 < 2 ^ f.width := by
  obtain ⟨pos, top, inf, nan⟩ := id h
  have half : 2 ^ (f.width - 1) ≤ 2 ^ f.width := Nat.pow_le_pow_right two_pos (Nat.sub_le _ _)
  cases v with
  | nan nv => exact nan.trans_le half
  | inf neg =>
    refine signed_lt h neg ?_
    cases hi : f.inf with
    | none => exact top
    | some i => rwa [hi] at inf
  | fin neg m e =>
    rw [deliver, apply_ite Prod.fst]
    split
    · exact signed_lt h neg (Nat.two_pow_pos _)
    · exact roundTo_lt h rm flush neg m e false
  | near neg m e => exact roundTo_lt h rm flush neg m e true

theorem narrow_lt (rm : ℕ) (v : FVal) : (narrow f rm v).1 < 2 ^ f.width := by
  obtain ⟨pos, top, inf, nan⟩ := id h
  have half : 2 ^ (f.width - 1) ≤ 2 ^ f.width := Nat.pow_le_pow_right two_pos (Nat.sub_le _ _)
  cases v with
  | nan nv =>
    unfold narrow
    cases hn : f.nan with
    | none => exact top.trans_le half
    | some i => rw [hn] at nan; exact nan.trans_le half
  | inf neg =>
    unfold narrow
    cases hi : f.inf with
    | none => exact signed_lt h neg top
    | some i => rw [hi] at inf; exact signed_lt h neg inf
  | fin neg m e => exact deliver_lt h rm false _
  | near neg m e => exact deliver_lt h rm false _

end

/-! ## Formats (R152) -/

/-- An element coding whose codes take `w` bits. -/
def fitsPlace (w : ℕ) : Elem → Bool
  | .flt f => decide (FitsWidth f) && f.width == w
  | .int _ n => n == w
  | .mxInt => 8 == w

theorem encode_lt {w : ℕ} {el : Elem} (h : fitsPlace w el = true) (rm : ℕ) (v : FVal) : (el.encode rm v).1 < 2 ^ w := by
  cases el with
  | flt f =>
    obtain ⟨fits, rfl⟩ : FitsWidth f ∧ f.width = w := by simpa [fitsPlace] using h
    exact narrow_lt fits rm v
  | int sgn n => obtain rfl := eq_of_beq h; exact intBits_lt n _
  | mxInt => obtain rfl := eq_of_beq h; exact intBits_lt 8 _

theorem tileFmt_code_lt {code : ℕ} {f : TileFmt} (h : tileFmt code = some f) : code < 42 := by
  unfold tileFmt at h
  split at h
  case h_29 => cases h
  all_goals decide

theorem fitsPlace_of_tileFmt {code : ℕ} {f : TileFmt} (h : tileFmt code = some f) : fitsPlace f.w f.elem = true := by
  have table : ∀ code < 42, ∀ f ∈ tileFmt code, fitsPlace f.w f.elem = true := by decide
  exact table code (tileFmt_code_lt h) f h

/-- How a code scales its elements. -/
theorem scaling_of_tileFmt {code : ℕ} {f : TileFmt} (h : tileFmt code = some f) :
    f.scaling = if code < 0x10 ∨ 0x20 ≤ code then .plain else if code < 0x18 then .mx else .kf := by
  have table : ∀ code < 42, ∀ f ∈ tileFmt code,
      f.scaling = if code < 0x10 ∨ 0x20 ≤ code then .plain else if code < 0x18 then .mx else .kf := by decide
  exact table code (tileFmt_code_lt h) f h

/-- The exponent of the largest element of a block format (R160). -/
theorem emax_of_tileFmt {code : ℕ} {f : TileFmt} (h : tileFmt code = some f) (low : 0x10 ≤ code) (high : code < 0x18) :
    f.elem.emax = emaxel code := by
  have table : ∀ code < 42, ∀ f ∈ tileFmt code, 0x10 ≤ code → code < 0x18 → f.elem.emax = emaxel code := by decide
  exact table code (tileFmt_code_lt h) f h low high

/-- The largest element of a group format (R163). -/
theorem maxVal_of_tileFmt {code : ℕ} {f : TileFmt} (h : tileFmt code = some f) (low : 0x18 ≤ code) (high : code < 0x20) :
    ∃ m e, f.elem.maxVal = .fin false m e ∧ (m : ℚ) * 2 ^ e = maxel code := by
  have table : ∀ code < 42, ∀ f ∈ tileFmt code, 0x18 ≤ code → code < 0x20 → f.elem.maxVal =
      if code = 0x18 then .fin false 14 5 else if code = 0x19 then .fin false 7 13 else if code = 0x1A then .fin false 7 2
      else if code = 0x1B then .fin false 15 (-1) else if code = 0x1C then .fin false 3 1
      else if code = 0x1D then .fin false 127 0 else .fin false 7 0 := by decide
  rw [table code (tileFmt_code_lt h) f h low high, maxel]
  clear table h
  split_ifs <;> exact ⟨_, _, rfl, by norm_num⟩

end Sys2Proof.TileRows
end

section
/-! SUPPORT. Rows decoded with their scales (R157-R162, R164). -/

namespace Sys2Proof.TileRows

open Sys2Proof.Machine Sys2Proof.Safety Sys2Proof.Claims Sys2Proof.Numbers
open Sys2Proof.TilePasses (getD_map_range)

/-! ## Group scales (R161) -/

theorem e4m5_spec (g : ℕ) : finite (e4m5 g) = true ∧ (e4m5 g).sign = false ∧ val (e4m5 g) = groupScale g := by
  unfold e4m5 groupScale
  generalize g % 32 = r
  generalize g / 32 = k
  rcases Nat.eq_zero_or_pos k with h | h
  · simp only [h, beq_self_eq_true, if_true]
    refine ⟨rfl, rfl, ?_⟩
    norm_num [val]
    ring
  · simp only [beq_false_of_ne h.ne', Bool.false_eq_true, h.ne', if_false]
    refine ⟨rfl, rfl, ?_⟩
    rw [val_fin, show (k : ℤ) - 12 = k - 7 - 5 by ring, zpow_sub₀ two_ne_zero _ 5]
    simp only [sInt, Bool.false_eq_true, if_false]
    push_cast
    ring

/-! ## Rows -/

/-- No code decodes to an interval. -/
theorem decode_exact (el : Elem) (bits : ℕ) : ∀ n m e, el.decode bits ≠ .near n m e := by
  intro n m e
  cases el with
  | flt f => simp only [Elem.decode, decodeFloat]; grind
  | int sgn w => simp only [Elem.decode, ofInt]; split <;> simp
  | mxInt => simp only [Elem.decode, ofInt]; split <;> simp

theorem scale_of_not_finite {v : FVal} (h : finite v = false) (exact : ∀ n m e, v ≠ .near n m e) (k : ℤ) :
    v.scale k = v := by
  cases v with
  | nan | inf => rfl
  | fin n m e => cases h
  | near n m e => exact absurd rfl (exact n m e)

section
variable {f : TileFmt} (row scales : ℕ) (band : FVal)

theorem decodeRow_length : (decodeRow f row scales band).1.length = 32 := by
  unfold decodeRow
  split
  · simp
  · dsimp only
    split <;> simp
  · simp

theorem decodeRow_plain (h : f.scaling = .plain) :
    decodeRow f row scales band = ((List.range 32).map fun c => f.elem.decode (element f.w row c), false) := by
  simp only [decodeRow, h]
  rfl

theorem decodeRow_mx (h : f.scaling = .mx) :
    decodeRow f row scales band = if scales % 256 = 255 then (List.replicate 32 (.nan false), true)
      else ((List.range 32).map fun c => (f.elem.decode (element f.w row c)).scale ((scales % 256 : ℕ) - 127), false) := by
  simp only [decodeRow, h, beq_iff_eq]
  rfl

/-- The code of the group scale of place c. -/
def groupCode (scales c : ℕ) : ℕ := scales / 2 ^ (16 * (c / 8)) % 2 ^ 9

theorem decodeRow_kf (h : f.scaling = .kf) :
    decodeRow f row scales band =
      ((List.range 32).map fun c => if groupCode scales c = 0x1FF then .nan false
        else mulV (mulV (f.elem.decode (element f.w row c)) (e4m5 (groupCode scales c))) band,
       (List.range 4).any fun k => groupCode scales (8 * k) == 0x1FF) := by
  simp only [decodeRow, h, beq_iff_eq]
  rfl

theorem groupCode_congr {c d : ℕ} (h : c / 8 = d / 8) : groupCode scales c = groupCode scales d := by
  rw [groupCode, groupCode, h]

/-- A scale NaN is met in the first place of its group or in any. -/
theorem any_group_nan_iff :
    ((List.range 4).any fun k => groupCode scales (8 * k) == 0x1FF) = true ↔ ∃ i < 32, groupCode scales i = 0x1FF := by
  simp only [List.any_eq_true, List.mem_range, beq_iff_eq]
  constructor
  · rintro ⟨k, hk, h⟩
    exact ⟨8 * k, by omega, h⟩
  · rintro ⟨i, hi, h⟩
    exact ⟨i / 8, by omega, groupCode_congr scales (show 8 * (i / 8) / 8 = i / 8 by omega) ▸ h⟩

end

theorem rowsDecodeWithTheirScales : RowsDecodeWithTheirScales := by
  intro code f row scales c band hf hc r x y g
  have scaling := scaling_of_tileFmt hf
  refine ⟨decodeRow_length row scales band, fun plain => ?_, fun low high => ?_, fun low high => ?_⟩
  · rw [if_pos plain] at scaling
    simp only [y, r, decodeRow_plain row scales band scaling, getD_map_range hc]
    exact ⟨rfl, trivial⟩
  · rw [if_neg (by omega), if_pos high] at scaling
    refine ⟨fun nan => ?_, fun number => ?_⟩
    · simp only [y, r, decodeRow_mx row scales band scaling, if_pos nan, List.getD_replicate _ hc, and_self]
    · have value : y = x.scale ((scales % 256 : ℕ) - 127) := by
        simp only [y, r, decodeRow_mx row scales band scaling, if_neg number, getD_map_range hc, x]
      refine ⟨by simp only [r, decodeRow_mx row scales band scaling, if_neg number], fun h => ?_, fun h => ?_⟩
      · rw [value, scale_of_not_finite h (decode_exact _ _)]
      · rw [value]
        exact ⟨(finite_scale x _).trans h, sign_scale x _, val_scale h _⟩
  · rw [if_neg (by omega), if_neg (by omega)] at scaling
    have value : y = if g c = 0x1FF then .nan false else mulV (mulV x (e4m5 (g c))) band := by
      simp only [y, r, decodeRow_kf row scales band scaling, getD_map_range hc]
      rfl
    refine ⟨?_, fun nan => value.trans (if_pos nan), fun number hb hx => ?_⟩
    · simp only [r, decodeRow_kf row scales band scaling]
      exact any_group_nan_iff scales
    · obtain ⟨gFinite, gSign, gValue⟩ := e4m5_spec (g c)
      obtain ⟨pFinite, pSign, pValue⟩ := mulV_of_finite hx gFinite
      obtain ⟨yFinite, ySign, yValue⟩ := mulV_of_finite pFinite hb
      rw [value, if_neg number]
      exact ⟨yFinite, by rw [ySign, pSign, gSign, Bool.xor_false], by rw [yValue, pValue, gValue]⟩

end Sys2Proof.TileRows
end

section
/-! SUPPORT. Rows encoded with the scales of their blocks and groups (R157, R160, R163, R164). -/

namespace Sys2Proof.TileRows

open Sys2Proof.Machine Sys2Proof.Safety Sys2Proof.Claims Sys2Proof.Numbers
open Sys2Proof.Accumulation (largest_spec nv_iff cmpV_fin)

/-! ## Elements in their places (R157) -/

theorem getD_map_of_lt {α β : Type} (f : α → β) {l : List α} {i : ℕ} (h : i < l.length) (a : α) (b : β) :
    (l.map f).getD i b = f (l.getD i a) := by
  simp [h]

theorem element_packBits {w : ℕ} {el : Elem} (fits : fitsPlace w el = true) (rm : ℕ) (ys : List FVal) {c : ℕ}
    (h : c < ys.length) :
    element w (packBits w (ys.map fun v => (el.encode rm v).1)) c = (el.encode rm (ys.getD c (.nan true))).1 := by
  rw [element, packBits_get _ _ (by simpa using fun v _ => encode_lt fits rm v), getD_map_of_lt _ h]

theorem packBits_zeros {α : Type} (w : ℕ) (l : List α) : packBits w (l.map fun _ => 0) = 0 := by
  induction l with
  | nil => rfl
  | cons x l ih => rw [List.map_cons, packBits, ih]; rfl

/-- A place among parts of one length. -/
theorem getD_flatMap_parts {α : Type} (a : α) {m n : ℕ} {part : ℕ → List α} (hp : ∀ k < m, (part k).length = n) {k c : ℕ}
    (hk : k < m) (hc : c < n) : ((List.range m).flatMap part).getD (n * k + c) a = (part k).getD c a := by
  have whole : (List.range m).flatMap part =
      (List.range m).flatMap fun k => (List.range n).map fun c => (part k).getD c a := by
    refine List.flatMap_congr fun k hk => List.ext_getElem ?_ fun i hi _ => ?_
    · rw [List.length_map, List.length_range, hp k (List.mem_range.1 hk)]
    · simp [hi]
  rw [whole, Nat.mul_comm, getD_flatMap_range a m n (fun k c => (part k).getD c a) k c hk hc]

/-! ## NaNs among the values (R164) -/

theorem someNaN_part {xs : List FVal} {lo n : ℕ} (h : lo + n ≤ xs.length) :
    someNaN ((xs.drop lo).take n) = true ↔ ∃ c, lo ≤ c ∧ c < lo + n ∧ (xs.getD c (.nan true)).isNaN = true := by
  have len : ((xs.drop lo).take n).length = n := by simp; omega
  simp only [someNaN, List.any_eq_true, List.mem_iff_getElem]
  constructor
  · rintro ⟨-, ⟨i, hi, rfl⟩, hn⟩
    refine ⟨lo + i, Nat.le_add_right lo i, by omega, ?_⟩
    simpa [show lo + i < xs.length by omega] using hn
  · rintro ⟨c, hl, hu, hn⟩
    refine ⟨_, ⟨c - lo, by omega, rfl⟩, ?_⟩
    simpa [show c < xs.length by omega, Nat.add_sub_cancel' hl] using hn

theorem someSNaN_iff (xs : List FVal) : someSNaN xs = true ↔ ∃ v ∈ xs, v = .nan true := by
  simp only [someSNaN, List.any_eq_true, nv_iff]

/-! ## Quotients that are rounded (R160, R163) -/

/-- What rows are encoded from: values that are known exactly. -/
def Known (v : FVal) : Prop := finite v = true ∨ v.isNaN = true ∨ v = .inf true ∨ v = .inf false

theorem stands_mono {p p' : ℕ} (hp : p ≤ p') {v : FVal} {neg : Bool} {q : ℚ} (h : Stands p' v neg q) :
    Stands p v neg q := by
  obtain ⟨pos, m, e, exact | ⟨near, big, inside⟩⟩ := h
  · exact ⟨pos, m, e, .inl exact⟩
  · exact ⟨pos, m, e, .inr ⟨near, (Nat.pow_le_pow_right two_pos hp).trans big, inside⟩⟩

/-- A value times a power of two is its quotient by the inverse power. -/
theorem divides_scale (p : ℕ) {v : FVal} (h : Known v) (k : ℤ) : Divides p v (v.scale (-k)) (2 ^ k) := by
  rcases h with h | h | rfl | rfl
  · obtain ⟨n, m, e, rfl⟩ := exists_fin_of_finite h
    rcases Nat.eq_zero_or_pos m with rfl | pos
    · exact .inl ⟨n, e, e + -k, rfl, rfl⟩
    · have unit : (0 : ℚ) < 2 ^ k := by positivity
      refine .inr (.inl ⟨rfl, val_fin_eq_zero.not.2 pos.ne', ?_, m, e + -k, .inl ⟨rfl, ?_⟩⟩)
      · rw [abs_val_fin]; positivity
      · rw [abs_val_fin, zpow_add₀ two_ne_zero, zpow_neg]; ring
  · obtain ⟨s, rfl⟩ := exists_nan_of_isNaN h
    exact .inr (.inr ⟨rfl, rfl⟩)
  · exact .inr (.inr ⟨rfl, rfl⟩)
  · exact .inr (.inr ⟨rfl, rfl⟩)

/-- The quotient by a positive scale; a zero keeps its sign. -/
def quotient (d v : FVal) : FVal := if v.isZero then v else (divV 32 v d).1

theorem divides_quotient {v d : FVal} (h : Known v) (hd : finite d = true) (pos : 0 < val d) :
    Divides 8 v (quotient d v) (val d) := by
  obtain ⟨b, n, i, rfl⟩ := exists_fin_of_finite hd
  obtain ⟨-, rfl⟩ := val_fin_pos.1 pos
  rcases h with h | h | rfl | rfl
  · obtain ⟨a, m, e, rfl⟩ := exists_fin_of_finite h
    rcases Nat.eq_zero_or_pos m with rfl | hm
    · exact .inl ⟨a, e, e, rfl, rfl⟩
    · have nonzero : val (.fin a m e) ≠ 0 := val_fin_eq_zero.not.2 hm.ne'
      have same : quotient (.fin false n i) (.fin a m e) = (divV 32 (.fin a m e) (.fin false n i)).1 :=
        if_neg (by simpa [FVal.isZero] using hm.ne')
      obtain ⟨-, stands⟩ := (divV_finite 32 (a := .fin a m e) (b := .fin false n i) rfl rfl).1 nonzero pos.ne'
      rw [abs_div, abs_of_pos pos, show (FVal.fin false n i).sign = false from rfl, Bool.xor_false] at stands
      exact .inr (.inl ⟨rfl, nonzero, same ▸ stands_mono (by decide) stands⟩)
  · obtain ⟨s, rfl⟩ := exists_nan_of_isNaN h
    exact .inr (.inr ⟨rfl, by simp [quotient, FVal.isZero, divV, FVal.nv]⟩)
  · exact .inr (.inr ⟨rfl, rfl⟩)
  · exact .inr (.inr ⟨rfl, rfl⟩)

/-! ## Block scales (R160) -/

theorem ne_zero_of_binade {m : ℕ} {e l : ℤ} (low : (2 : ℚ) ^ l ≤ m * 2 ^ e) : m ≠ 0 := by
  rintro rfl
  rw [Nat.cast_zero, zero_mul] at low
  exact absurd low (by positivity : (0 : ℚ) < 2 ^ l).not_ge

theorem floorLog2_of_binade {s : Bool} {m : ℕ} {e l : ℤ} (low : (2 : ℚ) ^ l ≤ m * 2 ^ e)
    (high : (m : ℚ) * 2 ^ e < 2 ^ (l + 1)) : floorLog2 (.fin s m e) = l := by
  have unit : (0 : ℚ) < 2 ^ e := by positivity
  have pos := ne_zero_of_binade low
  have len : 0 < bitLen m := lt_bitLen_iff.2 (by simpa using Nat.one_le_iff_ne_zero.2 pos)
  have first : (2 : ℚ) ^ ((bitLen m - 1 : ℕ) : ℤ) ≤ m := by
    exact_mod_cast lt_bitLen_iff.1 (show bitLen m - 1 < bitLen m by omega)
  have last : (m : ℚ) < 2 ^ (bitLen m : ℤ) := by exact_mod_cast lt_two_pow_bitLen m
  have below : l < bitLen m + e := by
    rw [← zpow_lt_zpow_iff_right₀ (one_lt_two (α := ℚ)), zpow_add₀ two_ne_zero]
    exact low.trans_lt (mul_lt_mul_of_pos_right last unit)
  have above : ((bitLen m - 1 : ℕ) : ℤ) + e < l + 1 := by
    rw [← zpow_lt_zpow_iff_right₀ (one_lt_two (α := ℚ)), zpow_add₀ two_ne_zero]
    exact (mul_le_mul_of_nonneg_right first unit.le).trans_lt high
  rw [floorLog2]
  omega

/-- The E8M0 code of a block whose largest magnitude is `a`. -/
def blockScale (el : Elem) (a : FVal) : ℕ := (if a.isZero then 0 else clampInt 0 254 (floorLog2 a - el.emax + 127)).toNat

theorem blockScale_cast (el : Elem) (a : FVal) :
    (blockScale el a : ℤ) = if a.isZero then 0 else max 0 (min 254 (floorLog2 a - el.emax + 127)) := by
  rw [blockScale, FloatingLanes.clampInt_eq (by decide)]
  split <;> omega

theorem blockScale_le (el : Elem) (a : FVal) : blockScale el a ≤ 254 := by
  have := blockScale_cast el a
  split at this <;> omega

theorem mxquant_nan (el : Elem) (rm : ℕ) {xs : List FVal} (h : someNaN xs = true) :
    mxquant el rm xs = (0xFF, xs.map fun _ => 0, flagIf (someSNaN xs) flNV) := by
  simp only [mxquant, h, if_true]

theorem mxquant_eq (el : Elem) (rm : ℕ) {xs : List FVal} (h : someNaN xs = false) :
    let ys := xs.map fun x => x.scale (-((blockScale el (largest xs) : ℤ) - 127))
    mxquant el rm xs = (blockScale el (largest xs), ys.map fun y => (el.encode rm y).1,
      orFlags (ys.map fun y => (el.encode rm y).2)) := by
  have cast : (blockScale el (largest xs) : ℤ) =
      if (largest xs).isZero then 0 else clampInt 0 254 (floorLog2 (largest xs) - el.emax + 127) := by
    rw [blockScale_cast, FloatingLanes.clampInt_eq (by decide)]
  simp only [mxquant, h, Bool.false_eq_true, if_false, List.map_map, cast, neg_sub]
  rfl

/-- The scale of a block by its largest magnitude. -/
theorem blockScale_of_largest (el : Elem) {xs : List FVal} {q : ℚ} (h : LargestOf xs q) :
    (q = 0 → blockScale el (largest xs) = 0) ∧
      ∀ l : ℤ, (2 : ℚ) ^ l ≤ q → q < 2 ^ (l + 1) →
        (blockScale el (largest xs) : ℤ) = max 0 (min 254 (l - el.emax + 127)) := by
  obtain ⟨m, e, eq, rfl⟩ := largest_spec h
  have unit : (2 : ℚ) ^ e ≠ 0 := by positivity
  rw [eq]
  refine ⟨fun zero => ?_, fun l low high => ?_⟩
  · obtain rfl : m = 0 := by exact_mod_cast (mul_eq_zero.1 zero).resolve_right unit
    rfl
  · have pos := ne_zero_of_binade low
    rw [blockScale_cast, floorLog2_of_binade low high, if_neg (by simpa [FVal.isZero] using pos)]

/-! ## Group scales (R163) -/

theorem groupScale_eq_magnitude (g : ℕ) : groupScale g = magnitude 4 5 g := by
  unfold groupScale magnitude
  rcases Nat.eq_zero_or_pos (g / 32) with h | h
  · have small : g % 32 = g := by omega
    simp only [h, small, show 2 ^ 5 = 32 from rfl, if_true]
    norm_num
    ring
  · simp only [h.ne', show 2 ^ 5 = 32 from rfl, if_false]
    norm_num
    ring

theorem groupScale_strictMono : StrictMono groupScale := by
  rw [show groupScale = magnitude 4 5 from funext groupScale_eq_magnitude]
  exact magnitude_strictMono 4 5

theorem groupScale_zero : groupScale 0 = 0 := by norm_num [groupScale]

theorem groupScale_pos {g : ℕ} (h : g ≠ 0) : 0 < groupScale g :=
  groupScale_zero ▸ groupScale_strictMono (Nat.pos_of_ne_zero h)

/-- Whether the group scale of a code leaves a magnitude out of reach. -/
theorem below_iff {unit a : FVal} (hu : finite unit = true) (ha : finite a = true) (c : ℕ) :
    (cmpV (mulV (e4m5 c) unit) a == some .lt) = true ↔ groupScale c * val unit < val a := by
  obtain ⟨gFinite, -, gValue⟩ := e4m5_spec c
  obtain ⟨pFinite, -, pValue⟩ := mulV_of_finite gFinite hu
  rw [← gValue, ← pValue]
  obtain ⟨n, m, e, hp⟩ := exists_fin_of_finite pFinite
  obtain ⟨n', m', e', rfl⟩ := exists_fin_of_finite ha
  rw [hp, cmpV_fin]
  split
  · next h => simpa using h
  · next h => split <;> simpa using h

/-- The search by bits keeps a code whose scale is too small, and stops only before one whose scale is not. -/
theorem e4m5Below_spec {unit a : FVal} (hu : finite unit = true) (ha : finite a = true) (k c : ℕ)
    (h : groupScale c * val unit < val a) :
    let d := e4m5Below unit a k c
    d < c + 2 ^ k ∧ groupScale d * val unit < val a ∧
      (d + 1 < c + 2 ^ k → val a ≤ groupScale (d + 1) * val unit) := by
  induction k generalizing c with
  | zero => exact ⟨by simp [e4m5Below], h, fun hd => by simp [e4m5Below] at hd⟩
  | succ k ih =>
    have double : c + 2 ^ (k + 1) = c + 2 ^ k + 2 ^ k := by ring
    have step := below_iff hu ha (c + 2 ^ k)
    rw [e4m5Below, double]
    by_cases below : groupScale (c + 2 ^ k) * val unit < val a
    · rw [if_pos (step.2 below)]
      exact ih _ below
    · rw [if_neg (mt step.1 below)]
      obtain ⟨bound, low, next⟩ := ih c h
      refine ⟨bound.trans (Nat.lt_add_of_pos_right (Nat.two_pow_pos k)), low, fun _ => ?_⟩
      rcases Nat.lt_or_ge (e4m5Below unit a k c + 1) (c + 2 ^ k) with inside | last
      · exact next inside
      · rw [show e4m5Below unit a k c + 1 = c + 2 ^ k by omega]
        exact not_lt.1 below

/-- The least code, from 1 to 0x1FE, whose scale reaches a magnitude, or the last. -/
theorem e4m5Up_spec {unit a : FVal} (hu : finite unit = true) (ha : finite a = true) (upos : 0 < val unit)
    (apos : 0 < val a) :
    let g := e4m5Up unit a
    1 ≤ g ∧ g ≤ 0x1FE ∧ (g = 0x1FE ∨ val a ≤ groupScale g * val unit) ∧
      (1 < g → groupScale (g - 1) * val unit < val a) := by
  intro g
  obtain ⟨bound, low, next⟩ := e4m5Below_spec hu ha 9 0 (by rwa [groupScale_zero, zero_mul])
  have hg : g = min 0x1FE (e4m5Below unit a 9 0 + 1) := rfl
  generalize e4m5Below unit a 9 0 = d at *
  refine ⟨by omega, by omega, ?_, fun _ => ?_⟩
  · rcases Nat.lt_or_ge (d + 1) 0x1FE with inside | last
    · right
      rw [show g = d + 1 by omega]
      exact next (by omega)
    · left; omega
  · have before : groupScale (g - 1) ≤ groupScale d := groupScale_strictMono.monotone (by omega)
    exact (mul_le_mul_of_nonneg_right before upos.le).trans_lt low

/-- The E4M5 code of a group whose largest magnitude is `a`. -/
def groupScaleCode (el : Elem) (band a : FVal) : ℕ := if a.isZero then 0 else e4m5Up (mulV band el.maxVal) a

/-- The scale of a group by its largest magnitude. -/
theorem groupScaleCode_of_largest {el : Elem} {band : FVal} {m : ℕ} {e : ℤ} (hmax : el.maxVal = .fin false m e)
    (hm : m ≠ 0) (hb : finite band = true) (bpos : 0 < val band) {xs : List FVal} {q : ℚ} (h : LargestOf xs q) :
    let g := groupScaleCode el band (largest xs)
    (q = 0 → g = 0) ∧ (q ≠ 0 → 1 ≤ g ∧ (g = 0x1FE ∨ q ≤ groupScale g * val band * (m * 2 ^ e)) ∧
      (1 < g → groupScale (g - 1) * val band * (m * 2 ^ e) < q)) := by
  intro g
  obtain ⟨a, i, eq, rfl⟩ := largest_spec h
  have unit : (2 : ℚ) ^ i ≠ 0 := by positivity
  have maxPos : (0 : ℚ) < m * 2 ^ e := by positivity
  obtain ⟨uFinite, -, uValue⟩ := mulV_of_finite hb (b := .fin false m e) rfl
  rw [show val (.fin false m e) = m * 2 ^ e from val_fin_if false m e] at uValue
  have hg : g = if a = 0 then 0 else e4m5Up (mulV band (.fin false m e)) (.fin false a i) := by
    simp only [g, groupScaleCode, eq, hmax, FVal.isZero, beq_iff_eq]
  refine ⟨fun zero => ?_, fun nonzero => ?_⟩
  · rw [hg, if_pos (by exact_mod_cast (mul_eq_zero.1 zero).resolve_right unit)]
  · have ha : a ≠ 0 := by rintro rfl; simp at nonzero
    rw [if_neg ha] at hg
    have apos : 0 < val (.fin false a i) := val_fin_pos.2 ⟨ha, rfl⟩
    obtain ⟨low, -, reach, before⟩ := e4m5Up_spec uFinite (a := .fin false a i) rfl (uValue ▸ mul_pos bpos maxPos) apos
    rw [← hg] at low reach before
    rw [uValue, show val (.fin false a i) = a * 2 ^ i from val_fin_if false a i, ← mul_assoc] at reach before
    exact ⟨low, reach, before⟩

theorem groupScaleCode_le (el : Elem) (band a : FVal) : groupScaleCode el band a ≤ 0x1FE := by
  unfold groupScaleCode
  split
  · omega
  · exact Nat.min_le_left _ _

theorem kfquant_nan (el : Elem) (rm : ℕ) (band : FVal) {xs : List FVal} (h : someNaN xs = true) :
    kfquant el rm band xs = (0x1FF, xs.map fun _ => 0, flagIf (someSNaN xs) flNV) := by
  simp only [kfquant, h, if_true]

theorem kfquant_eq (el : Elem) (rm : ℕ) (band : FVal) {xs : List FVal} (h : someNaN xs = false) :
    let ys := xs.map (quotient (mulV band (e4m5 (groupScaleCode el band (largest xs)))))
    kfquant el rm band xs = (groupScaleCode el band (largest xs), ys.map fun y => (el.encode rm y).1,
      orFlags (ys.map fun y => (el.encode rm y).2)) := by
  simp only [kfquant, h, Bool.false_eq_true, if_false, List.map_map]
  rfl

theorem kfquant_length (el : Elem) (rm : ℕ) (band : FVal) (xs : List FVal) :
    (kfquant el rm band xs).2.1.length = xs.length := by
  cases h : someNaN xs with
  | true => rw [kfquant_nan el rm band h, List.length_map]
  | false => rw [kfquant_eq el rm band h, List.length_map, List.length_map]

theorem kfquant_fits {w : ℕ} {el : Elem} (fits : fitsPlace w el = true) (rm : ℕ) (band : FVal) (xs : List FVal) :
    (∀ x ∈ (kfquant el rm band xs).2.1, x < 2 ^ w) ∧ (kfquant el rm band xs).1 < 2 ^ 16 := by
  cases h : someNaN xs with
  | true =>
    rw [kfquant_nan el rm band h]
    exact ⟨by simp, show 0x1FF < 2 ^ 16 by decide⟩
  | false =>
    rw [kfquant_eq el rm band h]
    refine ⟨?_, (groupScaleCode_le _ _ _).trans_lt (by decide)⟩
    rintro _ hx
    obtain ⟨y, -, rfl⟩ := List.mem_map.1 hx
    exact encode_lt fits rm y

/-! ## Rows -/

section
variable {f : TileFmt} (rm : ℕ) (band : FVal) (xs : List FVal)

theorem encodeRow_plain (h : f.scaling = .plain) :
    encodeRow f rm band xs = (packBits f.w (xs.map fun v => (f.elem.encode rm v).1), 0,
      orFlags (xs.map fun v => (f.elem.encode rm v).2)) := by
  simp only [encodeRow, h, List.map_map]
  rfl

theorem encodeRow_mx (h : f.scaling = .mx) :
    encodeRow f rm band xs = (packBits f.w (mxquant f.elem rm xs).2.1, (mxquant f.elem rm xs).1,
      (mxquant f.elem rm xs).2.2) := by
  simp only [encodeRow, h]

/-- Group k of a row, quantised. -/
def groupOf (f : TileFmt) (rm : ℕ) (band : FVal) (xs : List FVal) (k : ℕ) : ℕ × List ℕ × Flags :=
  kfquant f.elem rm band ((xs.drop (8 * k)).take 8)

theorem encodeRow_kf (h : f.scaling = .kf) :
    encodeRow f rm band xs = (packBits f.w ((List.range 4).flatMap fun k => (groupOf f rm band xs k).2.1),
      packBits 16 ((List.range 4).map fun k => (groupOf f rm band xs k).1),
      orFlags ((List.range 4).map fun k => (groupOf f rm band xs k).2.2)) := by
  simp only [encodeRow, h, List.map_map, List.flatMap_map]
  rfl

variable {xs} (fits : fitsPlace f.w f.elem = true) (len : xs.length = 32) {k : ℕ} (hk : k < 4)
include fits hk

/-- The scale of group k stands in its slot. -/
theorem scale_of_group :
    packBits 16 ((List.range 4).map fun k => (groupOf f rm band xs k).1) / 2 ^ (16 * k) % 2 ^ 16 =
      (groupOf f rm band xs k).1 := by
  rw [packBits_get, TilePasses.getD_map_range hk]
  intro x hx
  obtain ⟨i, -, rfl⟩ := List.mem_map.1 hx
  exact (kfquant_fits fits rm band _).2

include len

/-- The elements of group k stand in its places. -/
theorem element_of_group {c : ℕ} (hc : c < 8) :
    element f.w (packBits f.w ((List.range 4).flatMap fun k => (groupOf f rm band xs k).2.1)) (8 * k + c) =
      (groupOf f rm band xs k).2.1.getD c 0 := by
  have parts : ∀ k < 4, (groupOf f rm band xs k).2.1.length = 8 := fun k hk => by
    rw [groupOf, kfquant_length]; simp; omega
  rw [element, packBits_get, getD_flatMap_parts 0 parts hk hc]
  intro x hx
  obtain ⟨i, -, hi⟩ := List.mem_flatMap.1 hx
  exact (kfquant_fits fits rm band _).1 x hi

end

theorem plainRowsEncode {code : ℕ} {f : TileFmt} (hf : tileFmt code = some f) (h : f.scaling = .plain) (rm : ℕ)
    (band : FVal) {xs : List FVal} (len : xs.length = 32) :
    let r := encodeRow f rm band xs
    r.2.1 = 0 ∧ (∀ c < 32, element f.w r.1 c = (f.elem.encode rm (xs.getD c (.nan true))).1) ∧
      r.2.2 = orFlags (xs.map fun v => (f.elem.encode rm v).2) := by
  dsimp only
  rw [encodeRow_plain rm band xs h]
  exact ⟨rfl, fun c hc => element_packBits (fitsPlace_of_tileFmt hf) rm xs (len ▸ hc), rfl⟩

theorem nanBlockEncodes {f : TileFmt} (h : f.scaling = .mx) (rm : ℕ) (band : FVal) {xs : List FVal}
    (nan : someNaN xs = true) : encodeRow f rm band xs = (0, 0xFF, if ∃ v ∈ xs, v = .nan true then flNV else 0) := by
  rw [encodeRow_mx rm band xs h, mxquant_nan _ rm nan, packBits_zeros]
  simp only [flagIf, someSNaN_iff]

theorem blockEncodes {f : TileFmt} (fits : fitsPlace f.w f.elem = true) (h : f.scaling = .mx) (rm : ℕ) (band : FVal)
    {xs : List FVal} (len : xs.length = 32) (known : ∀ v ∈ xs, Known v) (nan : someNaN xs = false) :
    let r := encodeRow f rm band xs
    let sc := blockScale f.elem (largest xs)
    r.2.1 = sc ∧ ∃ ys : List FVal, ys.length = 32 ∧
      (∀ c < 32, Divides 8 (xs.getD c (.nan true)) (ys.getD c (.nan true)) (2 ^ ((sc : ℤ) - 127))) ∧
      (∀ c < 32, element f.w r.1 c = (f.elem.encode rm (ys.getD c (.nan true))).1) ∧
      r.2.2 = orFlags (ys.map fun v => (f.elem.encode rm v).2) := by
  intro r sc
  have row : r = (_, _, _) := (encodeRow_mx rm band xs h).trans (by rw [mxquant_eq f.elem rm nan])
  rw [row]
  refine ⟨rfl, xs.map fun x => x.scale (-((sc : ℤ) - 127)), by rw [List.length_map, len], fun c hc => ?_,
    fun c hc => ?_, rfl⟩
  · have place : c < xs.length := len ▸ hc
    rw [getD_map_of_lt _ place (.nan true)]
    exact divides_scale 8 (known _ (by simp [place])) _
  · exact element_packBits fits rm _ (by rw [List.length_map, len]; exact hc)

theorem nanGroupEncodes {f : TileFmt} (rm : ℕ) (band : FVal) {xs : List FVal} {k : ℕ}
    (nan : someNaN ((xs.drop (8 * k)).take 8) = true) :
    (groupOf f rm band xs k).1 = 0x1FF ∧ ∀ c, (groupOf f rm band xs k).2.1.getD c 0 = 0 := by
  rw [groupOf, kfquant_nan _ rm band nan]
  refine ⟨rfl, fun c => ?_⟩
  simp [List.getD_eq_getElem?_getD]

theorem groupEncodes {f : TileFmt} (rm : ℕ) {band : FVal} (hb : finite band = true) (bpos : 0 < val band)
    {xs : List FVal} (len : xs.length = 32) (known : ∀ v ∈ xs, Known v) {k : ℕ} (hk : k < 4)
    (nan : someNaN ((xs.drop (8 * k)).take 8) = false) :
    let g := groupScaleCode f.elem band (largest ((xs.drop (8 * k)).take 8))
    (groupOf f rm band xs k).1 = g ∧ (g ≠ 0 → ∃ ys : List FVal, ys.length = 8 ∧
      (∀ c < 8, Divides 8 (xs.getD (8 * k + c) (.nan true)) (ys.getD c (.nan true)) (groupScale g * val band)) ∧
      ∀ c < 8, (groupOf f rm band xs k).2.1.getD c 0 = (f.elem.encode rm (ys.getD c (.nan true))).1) := by
  intro g
  set part := (xs.drop (8 * k)).take 8 with hpart
  have plen : part.length = 8 := by simp [hpart]; omega
  have place {c : ℕ} (hc : c < 8) : part.getD c (.nan true) = xs.getD (8 * k + c) (.nan true) := by
    simp [hpart, hc]
  rw [groupOf, ← hpart, kfquant_eq f.elem rm band nan]
  refine ⟨rfl, fun nonzero => ⟨part.map (quotient (mulV band (e4m5 g))), by rw [List.length_map, plen], fun c hc => ?_,
    fun c hc => ?_⟩⟩
  · obtain ⟨gFinite, -, gValue⟩ := e4m5_spec g
    obtain ⟨dFinite, -, dValue⟩ := mulV_of_finite hb gFinite
    have scale : val (mulV band (e4m5 g)) = groupScale g * val band := by rw [dValue, gValue, mul_comm]
    rw [← scale, ← place hc, getD_map_of_lt _ (plen ▸ hc) (.nan true)]
    refine divides_quotient (known _ ?_) dFinite (scale ▸ mul_pos (groupScale_pos nonzero) bpos)
    rw [place hc]
    simp [show 8 * k + c < xs.length by omega]
  · exact getD_map_of_lt _ (by rw [List.length_map, plen]; exact hc) _ _

theorem rowsEncodeWithTheirScales : RowsEncodeWithTheirScales := by
  intro code f rm xs band hf len known r x nan part
  have fits := fitsPlace_of_tileFmt hf
  have scaling := scaling_of_tileFmt hf
  refine ⟨fun plain => ?_, fun low high => ?_, fun low high hb bpos k hk => ?_⟩
  · rw [if_pos plain] at scaling
    exact plainRowsEncode hf scaling rm band len
  · rw [if_neg (by omega), if_pos high] at scaling
    have whole : (xs.drop 0).take 32 = xs := by rw [List.drop_zero, List.take_of_length_le len.le]
    have nan_iff : someNaN xs = true ↔ nan 0 32 := by
      have := someNaN_part (xs := xs) (lo := 0) (n := 32) (by omega)
      rwa [whole] at this
    refine ⟨fun h => nanBlockEncodes scaling rm band (nan_iff.2 h), fun h => ?_⟩
    obtain ⟨scale, ys, quotients⟩ :=
      blockEncodes fits scaling rm band len known (Bool.eq_false_iff.2 (mt nan_iff.1 h))
    refine ⟨_, scale, blockScale_le _ _, fun q hq => ?_, ys, quotients⟩
    rw [← emax_of_tileFmt hf low high]
    exact blockScale_of_largest f.elem hq
  · rw [if_neg (by omega), if_neg (by omega)] at scaling
    have nan_iff : someNaN (part (8 * k) 8) = true ↔ nan (8 * k) 8 := someNaN_part (by omega)
    obtain ⟨m, e, hmax, value⟩ := maxVal_of_tileFmt hf low high
    have hm : m ≠ 0 := by
      rintro rfl
      rw [Nat.cast_zero, zero_mul, maxel] at value
      split_ifs at value <;> norm_num at value
    have row := encodeRow_kf rm band xs scaling
    have element_eq {c : ℕ} (hc : c < 8) : element f.w r.1 (8 * k + c) = (groupOf f rm band xs k).2.1.getD c 0 := by
      rw [← element_of_group rm band fits len hk hc, show r = _ from row]
    intro g
    have scale_eq : g = (groupOf f rm band xs k).1 := by
      rw [← scale_of_group rm band fits hk, show g = _ from congrArg (fun x => x.2.1 / 2 ^ (16 * k) % 2 ^ 16) row]
    refine ⟨fun h => ?_, fun h => ?_⟩
    · obtain ⟨scale, zeros⟩ := nanGroupEncodes (f := f) rm band (nan_iff.2 h)
      exact ⟨scale_eq.trans scale, fun c hc => (element_eq hc).trans (zeros c)⟩
    · obtain ⟨scale, quotients⟩ :=
        groupEncodes (f := f) rm hb bpos len known hk (Bool.eq_false_iff.2 (mt nan_iff.1 h))
      have hg := scale_eq.trans scale
      rw [hg]
      refine ⟨groupScaleCode_le _ _ _, fun q hq => ?_, fun nonzero => ?_⟩
      · rw [← value]
        exact groupScaleCode_of_largest hmax hm hb bpos hq
      · obtain ⟨ys, ylen, divides, elements⟩ := quotients nonzero
        exact ⟨ys, ylen, divides, fun c hc => (element_eq hc).trans (elements c hc)⟩

end Sys2Proof.TileRows
end

section
/-! SUPPORT. Copies through F32 (R165, R166). -/

namespace Sys2Proof.TileRows

open Sys2Proof.Machine Sys2Proof.Safety Sys2Proof.Claims Sys2Proof.Numbers

/-! ## Round-to-odd (R165) -/

/-- The one rounding of `rodd32`: towards zero, its last bit set where it is inexact. -/
def roundOdd (neg : Bool) (m : ℕ) (e : ℤ) (more : Bool) : ℕ :=
  let r := roundTo fmtF32 1 false neg m e more
  if r.2 &&& flNX = 0 then r.1 else r.1 ||| 1

theorem rodd32_of_stands {v : FVal} {neg : Bool} {q : ℚ} (h : Stands 24 v neg q) :
    0 < q ∧ ∃ m more e, Denotes m more (q / 2 ^ e) ∧ (more = true → 2 ^ 24 ≤ m) ∧ rodd32 v = roundOdd neg m e more := by
  obtain ⟨pos, m, e, ⟨rfl, rfl⟩ | ⟨rfl, big, low, high⟩⟩ := h
  · refine ⟨pos, m, false, e, mul_div_cancel_right₀ _ (by positivity), by simp, ?_⟩
    have : m ≠ 0 := by rintro rfl; simp at pos
    simp [rodd32, roundOdd, this]
  · refine ⟨pos, m, true, e, ⟨by rwa [lt_div_iff₀ (by positivity)], by rwa [div_lt_iff₀ (by positivity)]⟩,
      fun _ => big, ?_⟩
    simp [rodd32, roundOdd]

/-- Only the last bit is set, so an even part stays. -/
theorem even_add_or_one (a n : ℕ) : (2 * a + n) ||| 1 = 2 * a + (n ||| 1) := by
  have odd (x : ℕ) : x ||| 1 = 2 * (x / 2) + 1 := by
    have half : (x ||| 1) / 2 = x / 2 := by rw [Nat.or_div_two]; simp
    have last : (x ||| 1) % 2 = 1 := by rw [Nat.or_mod_two_eq_one]; simp
    omega
  rw [odd, odd]
  omega

theorem roundOdd_eq {neg : Bool} {m : ℕ} {e : ℤ} {more : Bool} {q : ℚ} {n : ℕ} (pos : 0 < q)
    (hd : Denotes m more (q / 2 ^ e)) (hm : more = true → 2 ^ 24 ≤ m) (low : magnitude 8 23 n ≤ q) (high : q < magnitude 8 23 (n + 1)) :
    roundOdd neg m e more = (if neg then 2 ^ 31 else 0) +
      if 0x7F7FFFFF < n then 0x7F7FFFFF else if magnitude 8 23 n = q then n else n ||| 1 := by
  have coding : Coding fmtF32 8 23 0x7F7FFFFF := coding_of_mem (by simp [codings])
  have rounds : RoundsTo (magnitude 8 23) 1 neg q n := ⟨n, low, high, by simp⟩
  have even : ∃ a, (if neg then 2 ^ (8 + 23) else 0) = 2 * a := by
    cases neg
    · exact ⟨0, rfl⟩
    · exact ⟨2 ^ 30, rfl⟩
  obtain ⟨a, sign⟩ := even
  rw [roundOdd, roundTo_eq hd hm pos coding false rounds]
  simp only [Bool.and_false, Bool.false_eq_true, if_false, signed_eq coding, sign]
  by_cases beyond : 0x7F7FFFFF < n
  · have last : 0x7F7FFFFF ||| 1 = 0x7F7FFFFF := by decide
    have raised : (flOF ||| flNX) &&& flNX ≠ 0 := by decide
    have largest : overflowMag fmtF32 1 neg = 0x7F7FFFFF := overflowMag_of_inf rfl rfl 1 neg
    rw [if_pos beyond, if_pos beyond, if_neg raised, largest, even_add_or_one, last]
  · by_cases exact : magnitude 8 23 n = q
    · simp [beyond, exact, flagIf]
    · have inexact (tiny : Bool) : (flNX ||| flagIf tiny flUF) &&& flNX ≠ 0 := by cases tiny <;> decide
      simp only [beyond, exact, if_false, decide_false, Bool.not_false, Bool.and_true]
      exact (if_neg (inexact _)).trans (even_add_or_one a n)

theorem copiesPassThroughF32 : CopiesPassThroughF32 := by
  refine ⟨fun v neg q n hv low high => ?_, fun neg b e => ⟨rfl, ?_, ?_⟩, fun f rm band xs => rfl⟩
  · obtain ⟨pos, m, more, e, hd, hm, value⟩ := rodd32_of_stands hv
    exact value.trans (roundOdd_eq pos hd hm low high)
  · cases neg <;> rfl
  · cases neg <;> rfl

/-- Settles O33: an element is a code of its format or a clamped integer; a row decodes place by place under its scales and
is encoded with the scale of its largest magnitude, which the search by bits finds for a group; a copy rounds towards zero
and marks what it dropped. -/
theorem tileRowsHoldTheirElements : Obligations.TileRowsHoldTheirElements :=
  ⟨integerElementsRoundAndClamp, rowsDecodeWithTheirScales, rowsEncodeWithTheirScales, copiesPassThroughF32⟩

end Sys2Proof.TileRows
end

section
/-! SUPPORT. Words on accumulators that write a tile (R168, R212-R216, R218, R219). -/

namespace Sys2Proof.AccumulatorWords

open Sys2Proof.Machine Sys2Proof.Safety Sys2Proof.Claims
open Sys2Proof.TilePasses (laneFault_none getD_toArray_fin getD_map_range)

/-! ## Tiles by lane (R106) -/

theorem accLaneOf_fin (s : State) (r : BitVec 2) (l : Fin 16) : accLaneOf s r l.val = (accOf s r).get l :=
  getD_toArray_fin (accOf s r) l AccLane.reset

theorem map_eq_ofFn {α β : Type} {n : ℕ} (f : α → β) (v : Vector α n) : v.map f = Vector.ofFn fun l => f (v.get l) := by
  ext i hi
  simp [Vector.get]

theorem replicate_eq_ofFn {α : Type} (n : ℕ) (a : α) : Vector.replicate n a = Vector.ofFn fun _ => a := by
  ext i hi
  simp

/-- A word in a slot that writes a tile and raises nothing. -/
theorem writesTile_of_body {i : Instr} {s : State} {opc : BitVec 8} {g : BitVec 4} {body : State → Body} {lat : ℕ}
    {d : BitVec 2} {v : Vector AccLane 16} {f : Fin 16 → AccLane} (h : InSlot s g) (hi : exec i s = runPlain s opc g body)
    (hb : body s = .ok (pushWrite s lat (.acc d v noFlags))) (hv : v = Vector.ofFn f) :
    exec i s = .next (slotWrites s lat (.acc d (Vector.ofFn f) (Vector.replicate 16 0))) := by
  rw [hi, runPlain_slot h hb, hv]
  rfl

/-- A step on every lane that succeeds, and whose flags trap in none. -/
theorem accWord_ok {s : State} {lat : ℕ} {d : BitVec 2} {fl : ℕ → Flags} {f : ℕ → Option AccLane}
    {tiles : Fin 16 → Option AccLane} (hf : ∀ l : Fin 16, f l.val = tiles l) (some : ∀ l, (tiles l).isSome = true)
    (quiet : NoLaneTrap s (laneFlagsOf fl)) :
    accWord s lat d fl f =
      .ok (slotWrites s lat (.acc d (Vector.ofFn fun l => (tiles l).getD AccLane.reset) (laneFlagsOf fl))) := by
  have clear : laneFault (fun l => if (f l).isNone then .some ({ cause := .accExponent } : Trap) else none) = none :=
    laneFault_none fun l hl => by rw [hf ⟨l, hl⟩, Option.isNone_eq_false_iff.2 (some ⟨l, hl⟩)]; rfl
  simp only [accWord, clear, laneTrap_none quiet, pushWrite_eq, hf]

/-- Every lane's tile has the domain of the word's type. -/
theorem domain_clear {s : State} {r : BitVec 2} {c : Bool} (h : ∀ l : Fin 16, ((accOf s r).get l).domain = c) :
    laneFault (fun l => if (accLaneOf s r l).domain != c then some ({ cause := .domainMismatch } : Trap) else none) =
      none :=
  laneFault_none fun l hl => by rw [accLaneOf_fin s r ⟨l, hl⟩, h ⟨l, hl⟩, bne_self_eq_false]; rfl

/-! ## Clearing, copying, normalising (R168, R213, R216, R218) -/

theorem normLane_of_none {t : AccLane} (h : t.ae = none) : normLane t = t := by
  obtain ⟨ae, m, domain, packed, scaled⟩ := t
  obtain rfl : ae = none := h
  simp only [normLane]
  split <;> rfl

theorem normLane_of_some {t : AccLane} {e : ℤ} (h : t.ae = some e) :
    normLane t = if largestM t = 0 then { t with ae := none }
      else if 44 - (Nat.log2 (largestM t) : ℤ) ≤ 0 then t
      else { t with
        ae := some (e - min (44 - (Nat.log2 (largestM t) : ℤ)) (e + 512))
        m := t.m.map fun m =>
          if isMarker m then m else m * 2 ^ (min (44 - (Nat.log2 (largestM t) : ℤ)) (e + 512)).toNat } := by
  simp only [normLane, h, beq_iff_eq, gt_iff_lt, ← not_le, ite_not]

/-! ## Rows (R212, R215) -/

theorem regRow_getElem? (s : State) (r : BitVec 6) (t : BitVec 5) (l : ℕ) {c : ℕ} (hc : c < 32) :
    (regRow s r t l)[c]? = some (decodeFloat (tyFmt t) (vElem (readV s (r + BitVec.ofNat 6 (c / (256 / placeBits t))))
      (placeBits t) l (c % (256 / placeBits t)))) := by
  simp [regRow, hc]

/-- The contributions of a row in registers to the tile of a lane: its values stand in their row (R215). -/
def rowContrib (w : RForm) (s : State) (l : ℕ) : Contrib :=
  let n := placeBits w.ty
  (List.range 1024).map fun e => if e / 32 = accRow s w then
    some (decodeFloat (tyFmt w.ty)
      (vElem (readV s (w.a + BitVec.ofNat 6 (e % 32 / (256 / n)))) n l (e % 32 % (256 / n))))
  else none

theorem rowContrib_eq (w : RForm) (s : State) (l : ℕ) :
    ((List.range 1024).map fun e => if e / 32 == accRow s w then (regRow s w.a w.ty l)[e % 32]? else none) =
      rowContrib w s l := by
  unfold rowContrib
  refine List.map_congr_left fun e _ => ?_
  rw [regRow_getElem? s w.a w.ty l (Nat.mod_lt e (by decide))]
  simp only [beq_iff_eq]

end Sys2Proof.AccumulatorWords
end

section
/-! SUPPORT. Rows read out of a tile (R167, R172, R214). -/

namespace Sys2Proof.AccumulatorWords

open Sys2Proof.Machine Sys2Proof.Safety Sys2Proof.Claims
open Sys2Proof.TilePasses (mod_two_pow_div_mod getD_map_range)
open Sys2Proof.TileRows (FitsWidth deliver_lt)

/-! ## Registers written lane by lane -/

/-- A field of a lane word. -/
theorem vElem_laneWordsReg (f : ℕ → ℕ) {n l j : ℕ} (hl : l < 16) (hj : n * j + n ≤ 256) :
    vElem (laneWordsReg f) n l j = f l / 2 ^ (n * j) % 2 ^ n := by
  have small : ∀ x ∈ (List.range 16).map fun l => f l % 2 ^ 256, x < 2 ^ 256 := by
    intro x hx
    obtain ⟨i, -, rfl⟩ := List.mem_map.1 hx
    exact Nat.mod_lt _ (Nat.two_pow_pos 256)
  have bound := packBits_lt 256 _ small
  rw [List.length_map, List.length_range, show 256 * 16 = 4096 from rfl] at bound
  have whole : (laneWordsReg f).toNat = packBits 256 ((List.range 16).map fun l => f l % 2 ^ 256) := by
    simp only [laneWordsReg, BitVec.toNat_ofNat, Nat.mod_eq_of_lt bound]
  have word := packBits_get 256 _ small l
  rw [getD_map_range hl] at word
  rw [vElem, whole, pow_add, ← Nat.div_div_eq_div_mul, ← mod_two_pow_div_mod _ hj, word, mod_two_pow_div_mod _ hj]

/-- Place c of a row that is written into registers of 256 / n places each. -/
theorem vElem_rowReg {n per : ℕ} (whole : n * per = 256) (rows : List (List ℕ)) {y : ℕ → ℕ} {l : ℕ} (hl : l < 16)
    (hrow : rows.getD l [] = (List.range 32).map y) (small : ∀ c < 32, y c < 2 ^ n) {c : ℕ} (hc : c < 32) :
    vElem (laneWordsReg fun l => packBits n (((rows.getD l []).drop (c / per * per)).take per)) n l (c % per) = y c := by
  have pos : 0 < per := Nat.pos_of_ne_zero (by rintro rfl; omega)
  have inside : c % per < per := Nat.mod_lt c pos
  have fits : n * (c % per) + n ≤ 256 := by
    rw [← whole, ← Nat.mul_succ]
    exact Nat.mul_le_mul_left n inside
  have split : c / per * per + c % per = c := Nat.div_add_mod' c per
  rw [vElem_laneWordsReg _ hl fits, hrow, packBits_get]
  · simp [inside, split, hc]
  · intro x hx
    obtain ⟨i, hi, rfl⟩ := List.mem_map.1 (List.mem_of_mem_drop (List.mem_of_mem_take hx))
    exact small i (List.mem_range.1 hi)

/-- The types of a row in registers (R212): the places of a register fill a lane word, and each holds a code. -/
theorem rowType_spec : ∀ t : BitVec 5, t ∈ [0x09, 0x0A, 0x0B, 0x11, 0x12] →
    placeBits t * (256 / placeBits t) = 256 ∧ FitsWidth (tyFmt t) ∧ (tyFmt t).width = placeBits t := by
  decide

/-- The value in place c of the row that a word reads of its tile (R167). -/
def rowValue (w : RForm) (s : State) (l : Fin 16) (c : ℕ) : FVal :=
  let t := (accOf s (r2 w.a)).get l
  accValue t.ae (t.m.getD (32 * accRow s w + c) 0)

theorem rowOfAcc_lane (w : RForm) (s : State) (l : Fin 16) :
    rowOfAcc (accLaneOf s (r2 w.a) l.val) (accRow s w) = (List.range 32).map (rowValue w s l) := by
  rw [accLaneOf_fin]; rfl

/-- Lane flags that are listed lane by lane. -/
theorem laneFlagsOf_eq {f : ℕ → Flags} {g : Fin 16 → Flags} (h : ∀ l : Fin 16, f l.val = g l) :
    laneFlagsOf f = Vector.ofFn g := congrArg Vector.ofFn (funext h)

end Sys2Proof.AccumulatorWords
end

section
/-! SUPPORT. The accumulator words (R167, R168, R172, R212-R216, R218, R219). -/

namespace Sys2Proof.AccumulatorWords

open Sys2Proof.Machine Sys2Proof.Safety Sys2Proof.Claims
open Sys2Proof.TilePasses (laneFault_none getD_map_range)
open Sys2Proof.TileRows (deliver_lt)

/-! ## The bodies of `tacc.rd` and `tacc.wr` (R214, R215) -/

section
variable {w : RForm} {s : State}

/-- A value of a row as a register type holds it (R172). -/
def readout (w : RForm) (s : State) (l : Fin 16) (c : ℕ) : ℕ × Flags :=
  deliver (tyFmt w.ty) w.rm.toNat false (rowValue w s l c)

/-- The rows that the lanes read out. -/
def readoutRows (w : RForm) (s : State) : List (List (ℕ × Flags)) :=
  (List.range 16).map fun l => (rowOfAcc (accLaneOf s (r2 w.a) l) (accRow s w)).map (readoutTy w.ty w.rm.toNat)

theorem readoutRows_lane (w : RForm) (s : State) (l : Fin 16) :
    (readoutRows w s).getD l.val [] = (List.range 32).map (readout w s l) := by
  rw [readoutRows, getD_map_range l.isLt, rowOfAcc_lane, List.map_map]
  rfl

theorem readoutCodes_lane (w : RForm) (s : State) (l : Fin 16) :
    ((readoutRows w s).map fun y => y.map (·.1)).getD l.val [] = (List.range 32).map fun c => (readout w s l c).1 := by
  refine (List.getD_map (readoutRows w s) [] (List.map (·.1))).trans ?_
  rw [readoutRows_lane, List.map_map]
  rfl

theorem readoutBody_eq (hd : ∀ l : Fin 16, ((accOf s (r2 w.a)).get l).domain = tyComplex w.ty) :
    readoutBody w s = giveLanes s 8 (Vector.ofFn fun l => orFlags ((List.range 32).map fun c => (readout w s l c).2))
      (rowWrites w.d (placeBits w.ty) ((readoutRows w s).map fun y => y.map (·.1))) := by
  have flags (l : Fin 16) : orFlags (((readoutRows w s).getD l.val []).map (·.2)) =
      orFlags ((List.range 32).map fun c => (readout w s l c).2) := by
    rw [readoutRows_lane, List.map_map]
    rfl
  rw [← laneFlagsOf_eq (f := fun l => orFlags (((readoutRows w s).getD l []).map (·.2))) flags]
  simp only [readoutBody, domain_clear hd]
  rfl

/-- A row packed into a tile format. -/
def packed (w : RForm) (f : TileFmt) (s : State) (l : Fin 16) : ℕ × ℕ × Flags :=
  encodeRow f w.rm.toNat (decodeFloat fmtBF16 (s.limm.toNat / 2 ^ 16)) ((List.range 32).map (rowValue w s l))

/-- The rows of all lanes, packed. -/
def packedRows (w : RForm) (f : TileFmt) (s : State) : List (ℕ × ℕ × Flags) :=
  (List.range 16).map fun l => encodeRow f w.rm.toNat (decodeFloat fmtBF16 (s.limm.toNat / 2 ^ 16))
    (rowOfAcc (accLaneOf s (r2 w.a) l) (accRow s w))

theorem packedRows_lane (w : RForm) (f : TileFmt) (s : State) (l : Fin 16) :
    (packedRows w f s).getD l.val (0, 0, 0) = packed w f s l := by
  rw [packedRows, getD_map_range l.isLt, rowOfAcc_lane]
  rfl

theorem readoutPackBody_eq {f : TileFmt} (hb : f.scaling = .kf → bandOk (s.limm.toNat / 2 ^ 16) = true)
    (hd : ∀ l : Fin 16, ((accOf s (r2 w.a)).get l).domain = false) :
    readoutPackBody w f s = giveLanes s 8 (Vector.ofFn fun l => (packed w f s l).2.2)
      (.v w.d (laneWordsReg fun l => ((packedRows w f s).getD l (0, 0, 0)).1) ::
        if f.scaling = .plain then []
        else [.v (w.d + 1) (laneWordsReg fun l => ((packedRows w f s).getD l (0, 0, 0)).2.1)]) := by
  have clear : laneFault (fun l => if f.scaling == .kf && !bandOk (s.limm.toNat / 2 ^ 16) then
      some ({ cause := .convertRange } : Trap)
      else if (accLaneOf s (r2 w.a) l).domain then some { cause := .domainMismatch } else none) = none := by
    refine laneFault_none fun l hl => ?_
    have band : (f.scaling == .kf && !bandOk (s.limm.toNat / 2 ^ 16)) = false := by
      by_cases hk : f.scaling = .kf
      · rw [hb hk]; simp
      · simp [hk]
    rw [band, accLaneOf_fin s _ ⟨l, hl⟩, hd ⟨l, hl⟩]
    rfl
  have flags (l : Fin 16) : ((packedRows w f s).getD l.val (0, 0, 0)).2.2 = (packed w f s l).2.2 := by
    rw [packedRows_lane]
  rw [← laneFlagsOf_eq (f := fun l => ((packedRows w f s).getD l (0, 0, 0)).2.2) flags]
  simp only [readoutPackBody, clear, beq_iff_eq]
  rfl

/-- The tile of a lane after a row has replaced its own or has been added to it (R215). -/
def rowWritten (w : RForm) (s : State) (l : Fin 16) : Option AccLane :=
  (accStep (if w.fn.toNat % 16 = 1 then .add else .replace) (rowContrib w s l.val) ((accOf s (r2 w.d)).get l)).1

/-- What the model computes of two lanes that are merged. -/
def mergeStep (w : RForm) (s : State) (l : ℕ) : Option AccLane × Bool :=
  let a := accLaneOf s (r2 w.a) l
  accStep .add (a.m.map fun m => some (accValue a.ae m)) (accLaneOf s (r2 w.d) l)

/-- The sum of two tiles of a lane, and whether NV is raised (R219). -/
def merged (w : RForm) (s : State) (l : Fin 16) : Option AccLane × Bool :=
  let a := (accOf s (r2 w.a)).get l
  accStep .add (a.m.map fun m => some (accValue a.ae m)) ((accOf s (r2 w.d)).get l)

theorem mergeStep_fin (w : RForm) (s : State) (l : Fin 16) : mergeStep w s l.val = merged w s l := by
  simp only [mergeStep, accLaneOf_fin]
  rfl

end

/-! ## The words -/

section
variable {w : RForm} {s : State} (h : InSlot s w.guard)
include h

theorem tclr_writes :
    let op := w.fn.toNat % 16
    exec (.tclr w) s = .next (slotWrites s 2 (.acc (r2 w.d)
      (Vector.ofFn fun _ =>
        { ae := none, m := List.replicate 1024 (if op = 2 then markNegInf else if op = 3 then markPosInf else 0)
          domain := op == 4, packed := w.fn.getLsbD 4, scaled := w.fn.getLsbD 5 })
      (Vector.replicate 16 0))) := by
  refine writesTile_of_body h (exec_tclr w s) rfl ((replicate_eq_ofFn 16 _).trans ?_)
  simp only [clearedLane, beq_iff_eq]

theorem taccRd_registers (hc : w.c = 0) (ht : w.ty ∈ [0x09, 0x0A, 0x0B, 0x11, 0x12])
    (hd : ∀ l : Fin 16, ((accOf s (r2 w.a)).get l).domain = tyComplex w.ty) :
    let n := placeBits w.ty
    let fl : LaneFlags := Vector.ofFn fun l => orFlags ((List.range 32).map fun c => (readout w s l c).2)
    FaultsOnFlags (.taccRd w) s fl ∧ (NoLaneTrap s fl → ∃ x : ℕ → VecReg,
      exec (.taccRd w) s =
        .next (lanesGive s 8 ((List.range (32 / (256 / n))).map fun k => .v (w.d + BitVec.ofNat 6 k) (x k)) fl) ∧
      ∀ (l : Fin 16) (c : ℕ), c < 32 → vElem (x (c / (256 / n))) n l.val (c % (256 / n)) = (readout w s l c).1) := by
  intro n fl
  obtain ⟨whole, fits, width⟩ := rowType_spec w.ty ht
  have word : exec (.taccRd w) s = runPlain s 0x82 w.guard (readoutBody w) := by
    simp only [exec_taccRd, execTaccRd, hc, beq_self_eq_true, if_true]
  have body := readoutBody_eq hd
  refine ⟨Columns.faultsOnFlags_of_giveLanes h word (fun r hr => by cases hr; rfl) body, fun quiet =>
    ⟨_, word.trans (runPlain_slot h (body.trans (giveLanes_ok quiet 8 _))), fun l c hc => ?_⟩⟩
  exact vElem_rowReg whole _ l.isLt (readoutCodes_lane w s l) (fun c _ => width ▸ deliver_lt fits _ _ _) hc

theorem taccRd_packed {f : TileFmt} (hc : w.c ≠ 0) (listed : fmtReserved s w.c.toNat = false)
    (packable : fmtPackable w.c.toNat = true) (hf : tileFmt w.c.toNat = some f)
    (hd : ∀ l : Fin 16, ((accOf s (r2 w.a)).get l).domain = false)
    (hb : f.scaling = .kf → bandOk (s.limm.toNat / 2 ^ 16) = true)
    (quiet : NoLaneTrap s (Vector.ofFn fun l => (packed w f s l).2.2)) :
    ∃ x y : VecReg, exec (.taccRd w) s =
        .next (lanesGive s 8 (.v w.d x :: if f.scaling = .plain then [] else [.v (w.d + 1) y])
          (Vector.ofFn fun l => (packed w f s l).2.2)) ∧
      ∀ l : Fin 16, vElem x 256 l.val 0 = (packed w f s l).1 % 2 ^ 256 ∧
        vElem y 256 l.val 0 = (packed w f s l).2.1 % 2 ^ 256 := by
  have noTrap : packFmtTrap s w.c.toNat = none := by simp [packFmtTrap, listed, packable]
  have body := (readoutPackBody_eq (w := w) hb hd).trans (giveLanes_ok quiet 8 _)
  refine ⟨laneWordsReg fun l => ((packedRows w f s).getD l (0, 0, 0)).1,
    laneWordsReg fun l => ((packedRows w f s).getD l (0, 0, 0)).2.1, ?_, fun l => ?_⟩
  · rw [exec_taccRd, execTaccRd]
    refine runPlain_slot h ?_
    simp only [beq_eq_false_iff_ne.2 hc, Bool.false_eq_true, if_false, noTrap, hf]
    exact body
  · rw [vElem_laneWordsReg _ l.isLt (by decide), vElem_laneWordsReg _ l.isLt (by decide), packedRows_lane]
    simp

theorem taccWr_writes (hd : ∀ l : Fin 16, ((accOf s (r2 w.d)).get l).domain = tyComplex w.ty)
    (fits : ∀ l, (rowWritten w s l).isSome = true) :
    exec (.taccWr w) s = .next (slotWrites s 4 (.acc (r2 w.d) (Vector.ofFn fun l => (rowWritten w s l).getD AccLane.reset)
      (Vector.replicate 16 0))) := by
  have quiet : NoLaneTrap s (laneFlagsOf fun _ => 0) := fun l => by simp [laneFlagsOf, Vector.get]
  have step (l : Fin 16) : (accStep (if (w.fn.toNat % 16 == 1) = true then .add else .replace)
      ((List.range 1024).map fun e => if e / 32 == accRow s w then (regRow s w.a w.ty l)[e % 32]? else none)
      (accLaneOf s (r2 w.d) l)).1 = rowWritten w s l := by
    rw [rowContrib_eq, accLaneOf_fin]
    simp only [beq_iff_eq]
    rfl
  rw [exec_taccWr, execTaccWr]
  refine runPlain_slot h ?_
  simp only [domain_clear hd]
  exact (accWord_ok step fits quiet).trans (by rw [replicate_eq_ofFn]; rfl)

theorem tmerge_adds (tags : ∀ l : Fin 16, ((accOf s (r2 w.d)).get l).domain = ((accOf s (r2 w.a)).get l).domain ∧
      ((accOf s (r2 w.d)).get l).scaled = ((accOf s (r2 w.a)).get l).scaled ∧
      ((accOf s (r2 w.d)).get l).packed = ((accOf s (r2 w.a)).get l).packed)
    (fits : ∀ l, (merged w s l).1.isSome = true)
    (quiet : NoLaneTrap s (Vector.ofFn fun l => if (merged w s l).2 then flNV else 0)) :
    exec (.tmerge w) s = .next (Safety.unitBusy (slotWrites s 8 (.acc (r2 w.d)
      (Vector.ofFn fun l => (merged w s l).1.getD AccLane.reset)
      (Vector.ofFn fun l => if (merged w s l).2 then flNV else 0))) 2 8) := by
  have clear : laneFault (fun l => if (accLaneOf s (r2 w.d) l).domain != (accLaneOf s (r2 w.a) l).domain ||
        (accLaneOf s (r2 w.d) l).scaled != (accLaneOf s (r2 w.a) l).scaled then some ({ cause := .domainMismatch } : Trap)
      else if (accLaneOf s (r2 w.d) l).packed != (accLaneOf s (r2 w.a) l).packed then some { cause := .packFlag }
      else none) = none := by
    refine laneFault_none fun l hl => ?_
    obtain ⟨domain, scaled, packed⟩ := tags ⟨l, hl⟩
    rw [accLaneOf_fin s _ ⟨l, hl⟩, accLaneOf_fin s _ ⟨l, hl⟩, domain, scaled, packed]
    simp
  have flags : laneFlagsOf (fun l => flagIf (mergeStep w s l).2 flNV) =
      Vector.ofFn fun l => if (merged w s l).2 then flNV else 0 :=
    laneFlagsOf_eq fun l => by rw [mergeStep_fin]; rfl
  have write := accWord_ok (lat := 8) (d := r2 w.d) (fl := fun l => flagIf (mergeStep w s l).2 flNV)
    (f := fun l => (mergeStep w s l).1) (fun l => congrArg Prod.fst (mergeStep_fin w s l)) fits (flags ▸ quiet)
  rw [exec_tmerge, execTmerge]
  refine runPlain_slot h ?_
  simp only [clear]
  change (accWord s 8 (r2 w.d) (fun l => flagIf (mergeStep w s l).2 flNV) fun l => (mergeStep w s l).1).bind
    (fun s' => .ok (useUnit s' 2 8)) = _
  rw [write, flags]
  change Except.ok (useUnit _ 2 8) = _
  rw [useUnit, onCpPlace_of_slot (by exact h.1)]
  rfl

end

theorem accumulatorWordsActOnTiles : AccumulatorWordsActOnTiles := by
  intro w s h d tile row op cplx n none' writes old out rfl1 src rowStep sum mfl norm
  have normLane_eq (t : AccLane) : normLane t = norm t := by
    cases hae : t.ae with
    | none => simp only [normLane_of_none hae, norm, hae]
    | some e => simp only [normLane_of_some hae, norm, hae]
  refine ⟨?_, fun hc ht hd => taccRd_registers h hc ht hd,
    fun f hc listed packable hf hd hb quiet => taccRd_packed h hc listed packable hf hd hb quiet,
    fun _ hd fits => taccWr_writes h hd fits, ?_, fun hda => ?_, fun hda => ?_, ?_,
    fun tags fits quiet => tmerge_adds h tags fits quiet⟩
  · exact tclr_writes h
  · refine writesTile_of_body h (exec_tnorm w s) rfl ((map_eq_ofFn _ _).trans ?_)
    simp only [normLane_eq]
    rfl
  · refine writesTile_of_body h (exec_tcopy w s) (v := accOf s (r2 w.a)) ?_ Vector.ofFn_getElem.symm
    exact congrArg Except.ok (if_neg (mt beq_iff_eq.1 hda))
  · rw [exec_tcopy, execTcopy]
    exact runPlain_slot h (congrArg Except.ok (if_pos (beq_iff_eq.2 hda)))
  · rw [exec_tqclr, execTqclr]
    exact runPlain_slot h rfl

end Sys2Proof.AccumulatorWords
end

section
/-! SUPPORT. The reports of tiles and latches (R217). -/

namespace Sys2Proof.AccumulatorWords

open Sys2Proof.Machine Sys2Proof.Safety Sys2Proof.Claims
open Sys2Proof.Numbers (bitLen_le_iff intBits_lt toNat_ofInt_eq)
open Sys2Proof.TilePasses (getD_toArray_fin)

/-! ## Fields of a report -/

/-- A bit of a word by its value. -/
theorem bit_ofNat {x i : ℕ} {b : Bool} (hi : i < 64) (h : x / 2 ^ i % 2 = b.toNat) : bit (BitVec.ofNat 64 x) i = b := by
  rw [bit, BitVec.getLsbD_ofNat, Nat.testBit_eq_decide_div_mod_eq, h]
  cases b <;> simp [hi]

/-- A field of a word by its value. -/
theorem fld_ofNat {x lo len : ℕ} (h : lo + len ≤ 64) : fld (BitVec.ofNat 64 x) lo len = x / 2 ^ lo % 2 ^ len := by
  rw [fld, BitVec.toNat_ofNat, TilePasses.mod_two_pow_div_mod _ h]

/-! ## Accumulators -/

theorem largestM_foldl_lt {n : ℕ} {l : List ℤ} (h : ∀ m ∈ l, m.natAbs < n) {a : ℕ} (ha : a < n) :
    l.foldl (fun h m => if isMarker m then h else Nat.max h m.natAbs) a < n := by
  induction l generalizing a with
  | nil => exact ha
  | cons m l ih =>
    obtain ⟨hm, hl⟩ := List.forall_mem_cons.1 h
    refine ih hl ?_
    change (if isMarker m then a else Nat.max a m.natAbs) < n
    split
    · exact ha
    · exact max_lt ha hm

theorem bitLen_largestM_le {t : AccLane} {k : ℕ} (h : ∀ m ∈ t.m, m.natAbs < 2 ^ k) : bitLen (largestM t) ≤ k :=
  bitLen_le_iff.2 (largestM_foldl_lt h (Nat.two_pow_pos k))

theorem any_or_eq_contains (l : List ℤ) (m n : ℤ) :
    (l.any fun x => x == m || x == n) = (l.contains m || l.contains n) := by
  rw [Bool.eq_iff_iff]
  simp [and_or_left, exists_or]

/-- The report of an accumulator's lane. -/
def accReport (t : AccLane) : ℕ :=
  intBits 10 (t.ae.getD 0) + t.ae.isNone.toNat * 2 ^ 10 + t.domain.toNat * 2 ^ 11 + t.packed.toNat * 2 ^ 12 +
    t.scaled.toNat * 2 ^ 13 + (t.m.contains markNaN).toNat * 2 ^ 14 +
    (t.m.contains markPosInf || t.m.contains markNegInf).toNat * 2 ^ 15 + bitLen (largestM t) * 2 ^ 16

/-- The report of a latch's lane. -/
def latchReport (q : LatchLane) : ℕ :=
  q.fmt.toNat + q.domain.toNat * 2 ^ 10 + q.packed.toNat * 2 ^ 11 + q.scaled.toNat * 2 ^ 12 +
    (q.scales.get 0).band.toNat * 2 ^ 32

theorem accReport_fields (t : AccLane) :
    let v : Word := BitVec.ofNat 64 (accReport t)
    v.extractLsb' 0 10 = BitVec.ofInt 10 (t.ae.getD 0) ∧ bit v 10 = t.ae.isNone ∧ bit v 11 = t.domain ∧
      bit v 12 = t.packed ∧ bit v 13 = t.scaled ∧ bit v 14 = t.m.contains markNaN ∧
      bit v 15 = (t.m.contains markPosInf || t.m.contains markNegInf) ∧
      fld v 16 48 = bitLen (largestM t) % 2 ^ 48 := by
  intro v
  have exponent := intBits_lt 10 (t.ae.getD 0)
  have b10 := Bool.toNat_le t.ae.isNone
  have b11 := Bool.toNat_le t.domain
  have b12 := Bool.toNat_le t.packed
  have b13 := Bool.toNat_le t.scaled
  have b14 := Bool.toNat_le (t.m.contains markNaN)
  have b15 := Bool.toNat_le (t.m.contains markPosInf || t.m.contains markNegInf)
  have low : v.extractLsb' 0 10 = BitVec.ofInt 10 (t.ae.getD 0) := by
    refine BitVec.eq_of_toNat_eq ?_
    rw [← ControlProcessor.fld_eq_extract, fld_ofNat (by decide), toNat_ofInt_eq, accReport]
    omega
  refine ⟨low, bit_ofNat (by decide) ?_, bit_ofNat (by decide) ?_, bit_ofNat (by decide) ?_, bit_ofNat (by decide) ?_,
    bit_ofNat (by decide) ?_, bit_ofNat (by decide) ?_, (fld_ofNat (by decide)).trans ?_⟩ <;> rw [accReport] <;> omega

theorem latchReport_fields (q : LatchLane) :
    let v : Word := BitVec.ofNat 64 (latchReport q)
    fld v 0 10 = q.fmt.toNat ∧ bit v 10 = q.domain ∧ bit v 11 = q.packed ∧ bit v 12 = q.scaled ∧ fld v 13 19 = 0 ∧
      fld v 32 32 = (q.scales.get 0).band.toNat := by
  intro v
  have fmt := q.fmt.isLt
  have band := (q.scales.get 0).band.isLt
  have b10 := Bool.toNat_le q.domain
  have b11 := Bool.toNat_le q.packed
  have b12 := Bool.toNat_le q.scaled
  refine ⟨(fld_ofNat (by decide)).trans ?_, bit_ofNat (by decide) ?_, bit_ofNat (by decide) ?_, bit_ofNat (by decide) ?_,
    (fld_ofNat (by decide)).trans ?_, (fld_ofNat (by decide)).trans ?_⟩ <;> rw [latchReport] <;> omega

/-! ## The words -/

theorem statusWordsReportTilesAndLatches : StatusWordsReportTilesAndLatches := by
  intro w s h l t q
  have tile : accLaneOf s (r2 w.a) (w.c.toNat % 16) = t := accLaneOf_fin s (r2 w.a) l
  have latch : (latchOf s (r2 w.a)).toArray.getD (w.c.toNat % 16) LatchLane.reset = q :=
    getD_toArray_fin (latchOf s (r2 w.a)) l LatchLane.reset
  refine ⟨⟨BitVec.ofNat 64 (accReport t), ?_, ?_⟩, BitVec.ofNat 64 (latchReport q), ?_, latchReport_fields q⟩
  · refine ScalarWords.delivers_of_write h.2 (exec_tstatAcc w s) ?_
    simp only [tile, List.any_beq', any_or_eq_contains]
    rfl
  · obtain ⟨exponent, unset, domain, packed, scaled, nan, inf, size⟩ := accReport_fields t
    refine ⟨⟨fun e he low high => ?_, fun he => ?_⟩, unset, domain, packed, scaled, nan, inf, fun small => ?_⟩
    · rw [exponent, he, Option.getD_some, BitVec.toInt_ofInt]
      exact Int.bmod_eq_of_le (by norm_num; omega) (by norm_num; omega)
    · rw [exponent, he]
      rfl
    · have := bitLen_largestM_le small
      rw [size]
      omega
  · refine ScalarWords.delivers_of_write h.2 (exec_tstatLatch w s) ?_
    simp only [latch]
    rfl

/-- Settles O39: a word on tiles writes in each lane what its row, its sum or its normalised tile is, and a report holds
its fields side by side. -/
theorem accumulatorAndStatusWords : Obligations.AccumulatorAndStatusWords :=
  ⟨accumulatorWordsActOnTiles, statusWordsReportTilesAndLatches⟩

end Sys2Proof.AccumulatorWords
end

section
/-! SUPPORT. Vector words that write one register element by element, and moves of elements and of lane flags (R175, R184,
R189, R191-R193). -/

namespace Sys2Proof.VectorMoves

open Sys2Proof.Machine Sys2Proof.Safety
open Sys2Proof.Claims hiding elemInt
open Sys2Proof.ControlProcessor (ival_eq_intOf intWord_intResultTy)
open Sys2Proof.Numbers (velem_givesMasked givesElements_congr tyWidth_le)
open Sys2Proof.FloatingLanes (givesMasked_of_eq)
open Sys2Proof.Branches (readR_slot)
open Sys2Proof.AccumulatorWords (vElem_laneWordsReg)
open Sys2Proof.TilePasses (getD_toArray_fin)

/-! ## A register written element by element (R178) -/

/-- What a word writes in one element: the result where it is selected, and else the old element without flags. -/
def elemKept (s : State) (d : BitVec 6) (n : ℕ) (on : ℕ → ℕ → Bool) (f : ℕ → ℕ → ℕ × Flags) (l j : ℕ) : ℕ × Flags :=
  if on l j then f l j else (vElem (readV s d) n l j, 0)

/-- A word that builds all of vD gives the elements that it selects. -/
theorem givesElements_of_vAll {i : Instr} {s : State} {opc : BitVec 8} {g : BitVec 4} {body : State → Body} {lat n nel : ℕ}
    {d : BitVec 6} {on : ℕ → ℕ → Bool} {f : ℕ → ℕ → ℕ × Flags} (h : InSlot s g) (he : exec i s = runPlain s opc g body)
    (ho : ∀ r, Instr.raw i = some r → r.opc = opc) (whole : n * nel = 256)
    (hb : body s = giveLanes s lat (vAll n nel (elemKept s d n on f)).2 [.v d (vAll n nel (elemKept s d n on f)).1]) :
    GivesElements i s lat d n on f := by
  have pos : 0 < n := Nat.pos_of_ne_zero (by rintro rfl; omega)
  have count : 256 / n = nel := by rw [← whole, Nat.mul_div_cancel_left _ pos]
  have flags : (vAll n nel (elemKept s d n on f)).2 = lanesRaise nel on f := by
    simp only [vAll_flags, elemKept, flags_select]
    rfl
  rw [flags] at hb
  rw [GivesElements, count]
  refine ⟨Columns.faultsOnFlags_of_giveLanes h he ho hb, fun quiet =>
    ⟨_, he.trans (runPlain_slot h (hb.trans (giveLanes_ok quiet lat _))), fun l j hl hj => ?_⟩⟩
  rw [vElem_vAll whole _ hl hj, elemKept]
  split
  · rfl
  · exact Nat.mod_eq_of_lt (Nat.mod_lt _ (Nat.two_pow_pos n))

/-- A word of a slot that leaves one pending write. -/
theorem slotWrites_of_body {i : Instr} {s : State} {opc : BitVec 8} {g : BitVec 4} {body : State → Body} {lat : ℕ}
    {x : KWrite} (h : InSlot s g) (he : exec i s = runPlain s opc g body) (hb : body s = .ok (pushWrite s lat x)) :
    exec i s = .next (slotWrites s lat x) :=
  he.trans (runPlain_slot h hb)

/-! ## One element replaced (R192) -/

theorem vElem_testBit (v : VecReg) (n l j i : ℕ) :
    (vElem v n l j).testBit i = (decide (i < n) && v.getLsbD (256 * l + n * j + i)) := by
  rw [vElem, Nat.testBit_mod_two_pow, Nat.testBit_div_two_pow, Nat.add_comm i, BitVec.getLsbD]

/-- The bits of a register with a part replaced. -/
theorem setPart_getLsbD (x : VecReg) (lo width v : ℕ) {i : ℕ} (hi : i < 4096) :
    (setPart x lo width v).getLsbD i = if lo ≤ i ∧ i < lo + width then v.testBit (i - lo) else x.getLsbD i := by
  have hole : ((2 ^ width - 1) * 2 ^ lo).testBit i = decide (lo ≤ i ∧ i < lo + width) := by
    rw [Nat.testBit_mul_two_pow, Nat.testBit_two_pow_sub_one, Bool.eq_iff_iff]
    simp only [Bool.and_eq_true, decide_eq_true_eq]
    omega
  simp only [setPart, BitVec.getLsbD_or, BitVec.getLsbD_and, BitVec.getLsbD_not, BitVec.getLsbD_ofNat, hi, decide_true,
    Bool.true_and, hole, Nat.testBit_mul_two_pow]
  by_cases inside : lo ≤ i ∧ i < lo + width
  · simp [inside]
  · simp [inside]

/-- The elements of a register do not overlap. -/
theorem place_in_element {n nel l j l' j' i : ℕ} (whole : n * nel = 256) (hj : j < nel) (hj' : j' < nel) (hi : i < n) :
    (256 * l' + n * j' ≤ 256 * l + n * j + i ∧ 256 * l + n * j + i < 256 * l' + n * j' + n) ↔ l = l' ∧ j = j' := by
  have place (a b : ℕ) : 256 * a + n * b = n * (nel * a + b) := by rw [← whole]; ring
  have apart {a b : ℕ} (hb : b < nel) : (nel * a + b) / nel = a ∧ (nel * a + b) % nel = b :=
    ⟨by rw [Nat.mul_add_div (by omega), Nat.div_eq_of_lt hb, Nat.add_zero], by rw [Nat.mul_add_mod, Nat.mod_eq_of_lt hb]⟩
  have quotient : (n * (nel * l + j) + i) / n = nel * l + j := by
    rw [Nat.mul_add_div (by omega), Nat.div_eq_of_lt hi, Nat.add_zero]
  rw [place, place, ← Nat.mul_succ, Nat.mul_comm n (nel * l' + j'), Nat.mul_comm n (Nat.succ _),
    ← Nat.le_div_iff_mul_le (by omega), ← Nat.div_lt_iff_lt_mul (by omega), quotient, Nat.lt_succ_iff, and_comm,
    ← Nat.le_antisymm_iff]
  refine ⟨fun same => ?_, fun ⟨hl, hj⟩ => by rw [hl, hj]⟩
  exact ⟨by rw [← (apart (a := l) hj).1, same, (apart hj').1], by rw [← (apart (a := l) hj).2, same, (apart hj').2]⟩

/-- The elements of a register with one of them replaced. -/
theorem vElem_setPart {n nel l j l' j' : ℕ} (whole : n * nel = 256) (x : VecReg) (v : ℕ) (hl : l < 16) (hj : j < nel)
    (hj' : j' < nel) :
    vElem (setPart x (256 * l' + n * j') n v) n l j = if l = l' ∧ j = j' then v % 2 ^ n else vElem x n l j := by
  refine Nat.eq_of_testBit_eq fun i => ?_
  rw [vElem_testBit]
  by_cases hi : i < n
  · have inside : 256 * l + n * j + i < 4096 := by
      have : n * j + n ≤ 256 := by
        rw [← whole, ← Nat.mul_succ]
        exact Nat.mul_le_mul_left n hj
      omega
    rw [setPart_getLsbD x _ n v inside]
    simp only [place_in_element whole hj hj' hi]
    split
    · next same =>
      obtain ⟨rfl, rfl⟩ := same
      rw [Nat.testBit_mod_two_pow, Nat.add_sub_cancel_left]
    · rw [vElem_testBit]
  · have above (y : ℕ) : (y % 2 ^ n).testBit i = false := by simp [hi]
    rw [decide_eq_false hi, Bool.false_and]
    split
    · exact (above v).symm
    · exact (above _).symm

/-! ## Selection, permutations, index words and moves (R184, R189, R191, R192) -/

/-- The value of an element as a register value of its type (R41). -/
theorem narrowed_natCast (t : BitVec 5) (x : ℕ) : narrowed t false x = intWord (Machine.elemInt t x) := by
  have low : BitVec.ofInt (tyWidth t) x = (BitVec.ofNat 64 x).setWidth (tyWidth t) := by
    rw [BitVec.ofInt_natCast, BitVec.setWidth_ofNat_of_le (tyWidth_le t)]
  rw [narrowed, if_neg Bool.false_ne_true, low, Machine.elemInt, ival_eq_intOf, intOf, intWord]
  split
  · rfl
  · rw [BitVec.ofInt_natCast, BitVec.ofNat_toNat]

theorem vsel_gives {w : RForm} {s : State} (h : InSlot s w.guard) :
    GivesElements (.vsel w) s 2 w.d (tyWidth w.ty) (fun _ _ => true)
      fun l j => (if mBit (readM s (r3 w.c)) l j then vA s w l j else vB s w l j, 0) :=
  givesElements_of_vAll h (exec_vsel w s) (fun r hr => by cases hr; rfl) (tyWidth_mul_tyNel w.ty) rfl

theorem vext_delivers {w : RForm} {s : State} (h : InSlot s w.guard) :
    let x := vElem (readV s w.a) (tyWidth w.ty) (w.c.toNat % 16) w.b.toNat
    Delivers (.vext w) s 2 w.d (if tyIsInt w.ty then narrowed w.ty false x else BitVec.ofNat 64 x) 0 := by
  intro x
  rw [narrowed_natCast]
  exact ScalarWords.delivers_of_write h.2 (exec_vext w s) rfl

theorem vins_writes {w : RForm} {s : State} (h : InSlot s w.guard) (hb : w.b.toNat < tyNel w.ty) :
    ∃ y, exec (.vins w) s = .next (slotWrites s 2 (.v w.d y)) ∧
      ∀ l j, l < 16 → j < tyNel w.ty → vElem y (tyWidth w.ty) l j =
        if l = w.c.toNat % 16 ∧ j = w.b.toNat then (s.core.kern.readK (r5 w.a)).toNat % 2 ^ tyWidth w.ty
        else vElem (readV s w.d) (tyWidth w.ty) l j := by
  refine ⟨_, slotWrites_of_body h (exec_vins w s) rfl, fun l j hl hj => ?_⟩
  rw [vElem_setPart (tyWidth_mul_tyNel w.ty) _ _ hl hj hb, readR_slot h.1]
  rfl

theorem vectorMovesPlaceTheirElements : VectorMovesPlaceTheirElements := by
  intro w s h n nel a v lane elem m gives r x
  have word {i : Instr} {opc : BitVec 8} {lat : ℕ} {f : ℕ → ℕ → ℕ} {y : State → ℕ → ℕ → ℕ × Flags}
      (he : exec i s = velem opc lat w s y) (hr : Instr.raw i = some (.r opc w))
      (hy : ∀ l j, y s l j = plainElem (f l j)) : gives i lat f := givesMasked_of_eq h he hr rfl hy
  have lowBits {i : Instr} {opc : BitVec 8} {f : ℕ → ℕ → ℕ} {y : State → ℕ → ℕ → ℕ × Flags}
      (he : exec i s = velem opc 2 w s y) (hr : Instr.raw i = some (.r opc w))
      (hy : ∀ l j, y s l j = plainElem (f l j % 2 ^ n)) : gives i 2 f :=
    givesElements_congr (velem_givesMasked h he hr) fun l j => by rw [hy]; exact ⟨Nat.mod_mod _ _, rfl⟩
  have laneEq : laneOperand s w = lane := by simp only [laneOperand, beq_iff_eq]; rfl
  have elemEq : elemOperand s w = elem := by simp only [elemOperand, beq_iff_eq]; rfl
  have kernel : readR s w.a = r := readR_slot h.1 w.a
  refine ⟨vsel_gives h, word (exec_vpermIdx w s) rfl fun _ _ => rfl, word (exec_vpermRot w s) rfl fun _ _ => ?_,
    word (exec_vpermXor w s) rfl fun _ _ => ?_, word (exec_vbcastLane w s) rfl fun _ _ => ?_,
    word (exec_vbcastElem w s) rfl fun _ _ => ?_, word (exec_vshuf w s) rfl fun _ _ => rfl,
    lowBits (exec_vidx w s) rfl fun _ _ => rfl, lowBits (exec_vidxElem w s) rfl fun _ _ => rfl,
    lowBits (exec_vidxFlat w s) rfl fun _ _ => rfl, lowBits (exec_vmovk w s) rfl fun _ _ => ?_, vext_delivers h,
    vins_writes h⟩
  · rw [laneEq]
  · rw [laneEq]
  · rw [laneEq]
  · rw [elemEq]
  · rw [kernel]

/-! ## Lane flag words (R175, R193) -/

theorem laneFlagWordsMove : LaneFlagWordsMove := by
  intro w s h
  refine ⟨⟨_, slotWrites_of_body h (exec_vflagRd w s) rfl, fun l => ?_⟩,
    ⟨_, slotWrites_of_body h (exec_vflagWr w s) rfl, fun l => ?_⟩, slotWrites_of_body h (exec_vflagClr w s) rfl⟩
  · have small : (s.core.kern.lflags.get l).toNat < 2 ^ 256 := (BitVec.isLt _).trans (by decide)
    rw [vElem_laneWordsReg _ l.isLt (by decide), laneFlagWord, getD_toArray_fin, Nat.mul_zero, Nat.pow_zero, Nat.div_one,
      Nat.mod_eq_of_lt small]
  · exact Vector.getElem_ofFn ..

/-- Settles O21: a move writes the element that it names, one replaced element leaves the others, and the lane flag words
are lane words of 256 bits. -/
theorem vectorMovesAndLaneFlags : Obligations.VectorMovesAndLaneFlags :=
  ⟨vectorMovesPlaceTheirElements, laneFlagWordsMove⟩

end Sys2Proof.VectorMoves
end

section
/-! SUPPORT. Conversions, complex words and dot products on lanes (R158, R180, R186, R194, R195). -/

namespace Sys2Proof.VectorArithmetic

open Sys2Proof.Machine Sys2Proof.Safety
open Sys2Proof.Claims hiding elemInt
open Sys2Proof.ControlProcessor (ival_eq_intOf)
open Sys2Proof.Numbers (givesElements_congr elemInt_eq intElem_spec ofInt_toNat_mod tyWidth_le intBits_lt)
open Sys2Proof.FloatingLanes (givesMasked_of_eq)
open Sys2Proof.ScalarWords (convert_int_int convert_int_float convert_float_float convert_float_int)
open Sys2Proof.VectorMoves (elemKept givesElements_of_vAll)

/-! ## Operands of 64 bits -/

theorem tyFmt_width_le : ∀ t : BitVec 5, (tyFmt t).width ≤ 64 := by decide

/-- A format reads its own bits of an operand. -/
theorem readFloat_mod {f : FFmt} {n : ℕ} (h : f.width ≤ n) (fz : Bool) (x : ℕ) :
    readFloat f fz (x % 2 ^ n) = readFloat f fz x := by
  simp only [readFloat, decodeFloat, Nat.mod_mod_of_dvd x (Nat.pow_dvd_pow 2 h)]

/-- An element passed in a register of 64 bits is read as it stands. -/
theorem readFloat_ofNat (t : BitVec 5) (fz : Bool) (x : ℕ) :
    readFloat (tyFmt t) fz (BitVec.ofNat 64 x).toNat = readFloat (tyFmt t) fz x := by
  rw [BitVec.toNat_ofNat, readFloat_mod (tyFmt_width_le t)]

/-- Subnormals are honoured without FZ. -/
theorem readFloat_honoured (f : FFmt) (x : ℕ) : readFloat f false x = decodeFloat f x := by
  rw [readFloat]
  cases decodeFloat f x <;> rfl

/-! ## Conversions (R158, R186) -/

theorem not_int_of_narrow : ∀ t : BitVec 5, tyNarrow t = true → tyIsInt t = false := by decide

/-- The exact value of an element of a type, its subnormals flushed or honoured. -/
def exactElem (src : BitVec 5) (fz : Bool) (x : ℕ) : FVal :=
  if tyIsInt src then ofInt (intOf src (BitVec.ofNat 64 x)) 0 false else readFloat (tyFmt src) fz x

/-- The conversion of an element (R51-R53, R158): the value is read and then rounded, an integer between integer types
narrowed. -/
def converted (fz : Bool) (src dst : BitVec 5) (rm : ℕ) (sat : Bool) (x : ℕ) : ℕ × Flags :=
  let i := intOf src (BitVec.ofNat 64 x)
  let v := exactElem src ((!tyNarrow src && !tyNarrow dst) && fz) x
  if tyNarrow dst then narrow (tyFmt dst) rm v
  else if tyIsInt dst then
    if tyIsInt src then ((narrowed dst sat i).toNat, overflows dst i)
    else
      let r := floatToInt (tySigned dst) (tyWidth dst) rm v
      ((BitVec.ofInt 64 r.1).toNat, r.2)
  else deliver (tyFmt dst) rm (!tyIsInt src && fz) v

/-- A result passed in a register of 64 bits keeps the bits of the element. -/
theorem toNat_ofNat_mod (t : BitVec 5) (x : ℕ) : (BitVec.ofNat 64 x).toNat % 2 ^ tyWidth t = x % 2 ^ tyWidth t := by
  rw [BitVec.toNat_ofNat, Nat.mod_mod_of_dvd x (Nat.pow_dvd_pow 2 (tyWidth_le t))]

/-- An integer passed in a register of 64 bits keeps the bits of the element. -/
theorem intBits_mod (t : BitVec 5) (x : ℤ) :
    intBits (tyWidth t) x % 2 ^ tyWidth t = (BitVec.ofInt 64 x).toNat % 2 ^ tyWidth t := by
  rw [ofInt_toNat_mod x (tyWidth_le t), Nat.mod_eq_of_lt (intBits_lt _ x)]

section
variable {src dst : BitVec 5} (fz : Bool) (rm : ℕ) (sat : Bool) (x : ℕ)

theorem cvtElem_to_narrow (hd : tyNarrow dst = true) :
    cvtElem fz src dst rm sat x = converted fz src dst rm sat x := by
  simp only [cvtElem, converted, exactElem, hd, if_true, Bool.not_true, Bool.and_false, Bool.false_and, readFloat_honoured,
    elemInt, ival_eq_intOf]

theorem cvtElem_from_narrow (hs : tyNarrow src = true) (hd : tyNarrow dst = false) :
    (cvtElem fz src dst rm sat x).1 % 2 ^ tyWidth dst = (converted fz src dst rm sat x).1 % 2 ^ tyWidth dst ∧
      (cvtElem fz src dst rm sat x).2 = (converted fz src dst rm sat x).2 := by
  have float := not_int_of_narrow src hs
  simp only [cvtElem, converted, exactElem, hs, hd, float, if_true, Bool.false_eq_true, if_false, Bool.not_true,
    Bool.not_false, Bool.false_and, Bool.true_and, readFloat_honoured]
  cases tyIsInt dst with
  | true => exact ⟨intBits_mod dst _, rfl⟩
  | false => exact ⟨rfl, rfl⟩

theorem cvtElem_plain (hs : tyNarrow src = false) (hd : tyNarrow dst = false) :
    (cvtElem fz src dst rm sat x).1 % 2 ^ tyWidth dst = (converted fz src dst rm sat x).1 % 2 ^ tyWidth dst ∧
      (cvtElem fz src dst rm sat x).2 = (converted fz src dst rm sat x).2 := by
  simp only [cvtElem, converted, exactElem, hs, hd, Bool.false_eq_true, if_false, Bool.not_false, Bool.true_and,
    Nat.mod_mod]
  cases si : tyIsInt src with
  | true =>
    cases di : tyIsInt dst with
    | true => rw [convert_int_int _ _ _ _ si di]; exact ⟨rfl, rfl⟩
    | false => rw [convert_int_float _ _ _ _ si di]; exact ⟨toNat_ofNat_mod dst _, rfl⟩
  | false =>
    cases di : tyIsInt dst with
    | true => rw [convert_float_int _ _ _ _ si di, readFloat_ofNat]; exact ⟨rfl, rfl⟩
    | false => rw [convert_float_float _ _ _ _ si di, readFloat_ofNat]; exact ⟨toNat_ofNat_mod dst _, rfl⟩

/-- The bits and flags of a converted element. -/
theorem cvtElem_converted :
    (cvtElem fz src dst rm sat x).1 % 2 ^ tyWidth dst = (converted fz src dst rm sat x).1 % 2 ^ tyWidth dst ∧
      (cvtElem fz src dst rm sat x).2 = (converted fz src dst rm sat x).2 := by
  cases hd : tyNarrow dst with
  | true => rw [cvtElem_to_narrow fz rm sat x hd]; exact ⟨rfl, rfl⟩
  | false =>
    cases hs : tyNarrow src with
    | true => exact cvtElem_from_narrow fz rm sat x hs hd
    | false => exact cvtElem_plain fz rm sat x hs hd

end

/-- The source element that converts into element j, in part q of the wider register (R186). -/
def cvtSource (w : RForm) (j : ℕ) : Option ℕ :=
  let src := w.c.setWidth 5
  let q := w.fn.toNat % 4
  let e := min (tyNel src) (tyNel w.ty)
  if tyNel w.ty < tyNel src then some (q * e + j)
  else if q * e ≤ j ∧ j < q * e + e then some (j - q * e)
  else none

/-- The conversion of element i of a lane of vA. -/
def cvtAt (w : RForm) (s : State) (l i : ℕ) : ℕ × Flags :=
  cvtElem (laneFz s l) (w.c.setWidth 5) w.ty w.rm.toNat (w.sat == 1)
    (vElem (readV s w.a) (tyWidth (w.c.setWidth 5)) l i)

theorem vcvt_gives {w : RForm} {s : State} (h : InSlot s w.guard) :
    GivesElements (.vcvt w) s 4 w.d (tyWidth w.ty) (fun l j => (cvtSource w j).isSome && vActive s w l j)
      fun l j => cvtAt w s l ((cvtSource w j).getD 0) := by
  refine givesElements_of_vAll h (exec_vcvt w s) (fun r hr => by cases hr; rfl) (tyWidth_mul_tyNel w.ty) ?_
  refine congrArg (fun f => giveLanes s 4 (vAll (tyWidth w.ty) (tyNel w.ty) f).2
    [.v w.d (vAll (tyWidth w.ty) (tyNel w.ty) f).1]) (funext₂ fun l j => ?_)
  by_cases narrower : tyNel w.ty < tyNel (w.c.setWidth 5)
  · simp [elemKept, cvtSource, cvtAt, plainElem, narrower]
  · by_cases inside : w.fn.toNat % 4 * min (tyNel (w.c.setWidth 5)) (tyNel w.ty) ≤ j ∧
        j < w.fn.toNat % 4 * min (tyNel (w.c.setWidth 5)) (tyNel w.ty) + min (tyNel (w.c.setWidth 5)) (tyNel w.ty)
    · simp [elemKept, cvtSource, cvtAt, plainElem, narrower, inside]
    · simp [elemKept, cvtSource, plainElem, narrower, inside]

/-- Settles O15: each element that has a source in its part is one conversion of it. -/
theorem vectorConversionsFollowTheirTypes : Obligations.VectorConversionsFollowTheirTypes := by
  intro w s h src dst q e rm place one
  exact givesElements_congr (vcvt_gives h) fun l j => cvtElem_converted (laneFz s l) rm (w.sat == 1) _

/-! ## Complex words (R180, R194) -/

theorem not_int_of_complex : ∀ t : BitVec 5, tyComplex t = true → tyIsInt t = false := by decide

/-- A pair whose parts are rounded once each. -/
def roundedPair (w : RForm) (fz : Bool) (x y : FVal) : ℕ × Flags :=
  pairElem w.ty (fltElem w.ty w.rm.toNat fz x) (fltElem w.ty w.rm.toNat fz y)

theorem addElem_complex {w : RForm} (hc : tyComplex w.ty = true) (minus fz : Bool) (a b : ℕ) :
    let part (x y : ℕ) : FVal := (if minus then subV else addV) w.rm.toNat (fltArg w.ty fz x) (fltArg w.ty fz y)
    addElem minus w fz a b =
      roundedPair w fz (part (reOf w.ty a) (reOf w.ty b)) (part (imOf w.ty a) (imOf w.ty b)) := by
  simp only [addElem, not_int_of_complex w.ty hc, hc, Bool.false_eq_true, if_false, if_true, roundedPair]

theorem complexWordsRoundEachPart : ComplexWordsRoundEachPart := by
  intro w s h hc half rm re im a b c gives ar ai br bi cr ci pr pi kr ki
  have latency : (if tyIsInt w.ty then 2 else 4) = 4 := by rw [not_int_of_complex w.ty hc]; rfl
  have sum {i : Instr} {opc : BitVec 8} (minus : Bool) (he : exec i s = velem opc (if tyIsInt w.ty then 2 else 4) w s
        fun s l j => addElem minus w (laneFz s l) (vA s w l j) (vB s w l j)) (hr : Instr.raw i = some (.r opc w)) :
      gives i (fun l j => (if minus then subV else addV) rm (ar l j) (br l j))
        (fun l j => (if minus then subV else addV) rm (ai l j) (bi l j)) :=
    givesMasked_of_eq h he hr latency fun _ _ => addElem_complex hc ..
  have product {i : Instr} (conj add : Bool) (he : exec i s = velem 0x5C 4 w s fun s l j =>
        cmulElem conj add w (laneFz s l) (vA s w l j) (vB s w l j) (vC s w l j))
      (hr : Instr.raw i = some (.r 0x5C w)) {x y : ℕ → ℕ → FVal}
      (hx : ∀ l j, cmulElem conj add w (laneFz s l) (a l j) (b l j) (c l j) = roundedPair w (laneFz s l) (x l j) (y l j)) :
      gives i x y := givesMasked_of_eq h he hr rfl hx
  exact ⟨sum false (exec_vadd w s) rfl, sum true (exec_vsub w s) rfl,
    product false false (exec_vcmul w s) rfl fun _ _ => rfl, product true false (exec_vcmulConj w s) rfl fun _ _ => rfl,
    product false true (exec_vcmulFma w s) rfl fun _ _ => rfl, product true true (exec_vcmulFmac w s) rfl fun _ _ => rfl⟩

/-! ## Dot products (R195) -/

theorem dotType_of_int {t : BitVec 5} (h : tyIsInt t = true) : dotType t = if tySigned t then 1 else 5 := by
  rw [dotType, if_pos h]

theorem tyWidth_dotType (t : BitVec 5) : tyWidth (dotType t) = 32 := by
  revert t
  decide

/-- The element of vB that a dot product multiplies, or the immediate in its place. -/
def dotB (s : State) (w : RForm) (l j i : ℕ) : ℕ :=
  if w.l = 1 then vB s w l j else vElem (readV s w.b) (tyWidth w.ty) l (32 / tyWidth w.ty * j + i)

theorem dotB_eq (s : State) (w : RForm) (l j i : ℕ) :
    (if w.l == 1 then immElem s w false else vElem (readV s w.b) (tyWidth w.ty) l (32 / tyWidth w.ty * j + i)) =
      dotB s w l j i := by
  simp only [dotB, vB, beq_iff_eq]
  split <;> rfl

theorem vdot_gives {w : RForm} {s : State} (h : InSlot s w.guard) :
    GivesElements (.vdot w) s (if tyIsInt w.ty then 2 else 4) w.d 32 (vActive s w) (dotElem s w) :=
  givesElements_of_vAll h (exec_vdot w s) (fun r hr => by cases hr; rfl) (nel := 8) rfl rfl

theorem dotProductsAccumulate : DotProductsAccumulate := by
  intro w s h n g t a b c gives
  have word := vdot_gives h
  refine ⟨fun hi => ?_, fun hi => ?_⟩
  · have type : dotType w.ty = t := dotType_of_int hi
    have narrows (x : ℤ) : (intElem t (w.sat == 1) x).1 % 2 ^ 32 = (narrowed t (w.sat == 1) x).toNat % 2 ^ 32 ∧
        (intElem t (w.sat == 1) x).2 = overflows t x := by
      rw [← tyWidth_dotType w.ty, type]
      exact intElem_spec t (w.sat == 1) x
    rw [if_pos hi] at word
    refine givesElements_congr word fun l j => ?_
    simp only [dotElem, dotB_eq, hi, if_true, type, elemInt_eq]
    rw [elemInt, ival_eq_intOf]
    exact narrows _
  · rw [if_neg (by rw [hi]; exact Bool.false_ne_true)] at word
    refine givesElements_congr word fun l j => ?_
    simp only [dotElem, dotB_eq, hi, Bool.false_eq_true, if_false]
    exact ⟨rfl, rfl⟩

/-- Settles O22: each part of a complex result is one sum or product delivered once, and a dot product one sum over the
places of its element. -/
theorem complexWordsAndDotProducts : Obligations.ComplexWordsAndDotProducts :=
  ⟨complexWordsRoundEachPart, dotProductsAccumulate⟩

end Sys2Proof.VectorArithmetic
end

section
/-! SUPPORT. Vector compares and mask words (R87, R88, R183, R185). -/

namespace Sys2Proof.VectorMasks

open Sys2Proof.Machine Sys2Proof.Safety
open Sys2Proof.Claims hiding elemInt
open Sys2Proof.ControlProcessor (ival_eq_intOf)
open Sys2Proof.ScalarWords (condHolds_eq_holds cmpNV_iff delivers_of_write)
open Sys2Proof.TilePasses (getD_map_range)
open Sys2Proof.AccumulatorWords (laneFlagsOf_eq)
open Sys2Proof.VectorMoves (slotWrites_of_body)
open Sys2Proof.VectorArithmetic (readFloat_ofNat)

/-! ## Masks by lane (R107) -/

/-- A mask built lane by lane. -/
theorem mBit_packBits {g : ℕ → ℕ} (small : ∀ l < 16, g l < 2 ^ 64) {l j : ℕ} (hl : l < 16) (hj : j < 64) :
    mBit (BitVec.ofNat 1024 (packBits 64 ((List.range 16).map g))) l j = (g l).testBit j := by
  have fits : ∀ x ∈ (List.range 16).map g, x < 2 ^ 64 := by
    simpa using small
  have lane := packBits_get 64 _ fits l
  rw [getD_map_range hl] at lane
  rw [mBit, BitVec.getLsbD_ofNat, decide_eq_true (by omega), Bool.true_and, ← lane, Nat.testBit_mod_two_pow,
    decide_eq_true hj, Bool.true_and, Nat.testBit_div_two_pow, Nat.add_comm]

theorem forall_bool_lt (n : ℕ) (p : ℕ → Bool) : ∀ x ∈ (List.range n).map fun j => (p j).toNat, x < 2 ^ 1 := by
  intro x hx
  obtain ⟨i, -, rfl⟩ := List.mem_map.1 hx
  exact Bool.toNat_lt (p i)

/-- Bits packed into a lane: those above them are zero. -/
theorem packBits_bool_testBit (n : ℕ) (p : ℕ → Bool) (j : ℕ) :
    (packBits 1 ((List.range n).map fun j => (p j).toNat)).testBit j = (decide (j < n) && p j) := by
  have place := packBits_get 1 _ (forall_bool_lt n p) j
  rw [Nat.one_mul, Nat.pow_one] at place
  rw [Nat.testBit_eq_decide_div_mod_eq, place]
  by_cases hj : j < n
  · rw [getD_map_range hj, decide_eq_true hj]
    cases p j <;> rfl
  · simp [hj]

theorem packBits_bool_lt (n : ℕ) (p : ℕ → Bool) : packBits 1 ((List.range n).map fun j => (p j).toNat) < 2 ^ n := by
  simpa using packBits_lt 1 _ (forall_bool_lt n p)

theorem tyNel_le : ∀ t : BitVec 5, tyNel t ≤ 64 := by decide

/-! ## Compares (R87, R183) -/

/-- The order of two elements of a lane, `none` when they are unordered. -/
def elemOrder (w : RForm) (s : State) (l x y : ℕ) : Option Ordering :=
  if tyIsInt w.ty then some (compare (Claims.elemInt w x) (Claims.elemInt w y))
  else cmpV (elemFlt s w l x) (elemFlt s w l y)

/-- NV of a compare of two elements of a lane. -/
def elemCompareFlags (w : RForm) (s : State) (c l x y : ℕ) : Flags :=
  let p := elemFlt s w l x
  let q := elemFlt s w l y
  if tyIsInt w.ty then 0
  else if (2 ≤ c ∧ c ≤ 5 ∧ (p.isNaN || q.isNaN) = true) ∨ (p.nv || q.nv) = true then flNV else 0

/-- A compare of two elements gives the truth of its condition on their order, and its NV. -/
theorem compareTy_elem (w : RForm) (s : State) {c : ℕ} (hc : c < 8) (l x y : ℕ) :
    compareTy w.ty (laneFz s l) c (BitVec.ofNat 64 x) (BitVec.ofNat 64 y) =
      (holds c (elemOrder w s l x y), elemCompareFlags w s c l x y) := by
  unfold compareTy elemOrder elemCompareFlags
  cases tyIsInt w.ty with
  | true => simp only [if_true, cmpInt, condHolds_eq_holds hc, ival_eq_intOf, Claims.elemInt]
  | false =>
    simp only [Bool.false_eq_true, if_false, flagIf, condHolds_eq_holds hc, readFloat_ofNat]
    exact congrArg _ (if_congr (cmpNV_iff ..) rfl rfl)

/-- The bit and the flags of one element of a compare (R183). -/
def compared (w : RForm) (s : State) (l j : ℕ) : Bool × Flags :=
  if vActive s w l j then
    compareTy w.ty (laneFz s l) (vSub w) (BitVec.ofNat 64 (vA s w l j)) (BitVec.ofNat 64 (vB s w l j))
  else (mBit (readM s (r3 w.d)) l j, 0)

/-- The mask that a compare writes. -/
def comparedMask (w : RForm) (s : State) : MaskReg :=
  BitVec.ofNat 1024 (packBits 64 ((List.range 16).map fun l =>
    packBits 1 ((List.range (tyNel w.ty)).map fun j => (compared w s l j).1.toNat)))

theorem mBit_comparedMask (w : RForm) (s : State) {l j : ℕ} (hl : l < 16) (hj : j < 64) :
    mBit (comparedMask w s) l j = (decide (j < tyNel w.ty) && (compared w s l j).1) := by
  have small (l : ℕ) : packBits 1 ((List.range (tyNel w.ty)).map fun j => (compared w s l j).1.toNat) < 2 ^ 64 :=
    (packBits_bool_lt _ _).trans_le (Nat.pow_le_pow_right (by decide) (tyNel_le w.ty))
  rw [comparedMask, mBit_packBits (fun l _ => small l) hl hj, packBits_bool_testBit]

/-- The flags that the lanes of a compare raise. -/
def comparedFlags (w : RForm) (s : State) : LaneFlags :=
  lanesRaise (tyNel w.ty) (vActive s w) fun l j =>
    (0, elemCompareFlags w s (vSub w) l (vA s w l j) (vB s w l j))

theorem compared_flags {w : RForm} (s : State) (hc : vSub w < 8) (l j : ℕ) :
    (compared w s l j).2 =
      if vActive s w l j then elemCompareFlags w s (vSub w) l (vA s w l j) (vB s w l j) else 0 := by
  rw [compared, compareTy_elem w s hc]
  split <;> rfl

theorem compared_bit {w : RForm} (s : State) (hc : vSub w < 8) (l j : ℕ) :
    (compared w s l j).1 = if vActive s w l j then holds (vSub w) (elemOrder w s l (vA s w l j) (vB s w l j))
      else mBit (readM s (r3 w.d)) l j := by
  rw [compared, compareTy_elem w s hc]
  split <;> rfl

/-- The body of a compare (R183). -/
theorem vcmp_body (w : RForm) (s : State) (hc : vSub w < 8) :
    ∃ body, exec (.vcmp w) s = runPlain s 0x4B w.guard body ∧
      body s = giveLanes s (if tyIsInt w.ty then 2 else 4) (comparedFlags w s) [.m (r3 w.d) (comparedMask w s)] := by
  refine ⟨_, exec_vcmp w s, ?_⟩
  set rows := (List.range 16).map fun l => (List.range (tyNel w.ty)).map (compared w s l) with hrows
  have flags : comparedFlags w s = laneFlagsOf fun l => orFlags ((rows.getD l []).map (·.2)) := by
    refine (laneFlagsOf_eq fun l => ?_).symm
    rw [hrows, getD_map_range l.isLt, List.map_map]
    exact congrArg orFlags (List.map_congr_left fun j _ => compared_flags s hc l j)
  have mask : comparedMask w s =
      BitVec.ofNat 1024 (packBits 64 (rows.map fun x => packBits 1 (x.map fun y => y.1.toNat))) := by
    simp only [comparedMask, hrows, List.map_map, Function.comp_def]
  rw [flags, mask]
  rfl

theorem vcmp_faults {w : RForm} {s : State} (h : InSlot s w.guard) (hc : vSub w < 8) :
    FaultsOnFlags (.vcmp w) s (comparedFlags w s) := by
  obtain ⟨body, run, gives⟩ := vcmp_body w s hc
  exact Columns.faultsOnFlags_of_giveLanes h run (fun r hr => by cases hr; rfl) gives

theorem vcmp_writes {w : RForm} {s : State} (h : InSlot s w.guard) (hc : vSub w < 8)
    (quiet : NoLaneTrap s (comparedFlags w s)) : ∃ m : MaskReg,
      exec (.vcmp w) s = .next (lanesGive s (if tyIsInt w.ty then 2 else 4) [.m (r3 w.d) m] (comparedFlags w s)) ∧
      ∀ l j, l < 16 → j < 64 → mBit m l j = (decide (j < tyNel w.ty) &&
        if vActive s w l j then holds (vSub w) (elemOrder w s l (vA s w l j) (vB s w l j))
        else mBit (readM s (r3 w.d)) l j) := by
  obtain ⟨body, run, gives⟩ := vcmp_body w s hc
  refine ⟨comparedMask w s, run.trans (runPlain_slot h (gives.trans (giveLanes_ok quiet _ _))), fun l j hl hj => ?_⟩
  rw [mBit_comparedMask w s hl hj, compared_bit s hc]

/-! ## Mask words and counts (R185) -/

theorem mask_of_type (t : BitVec 5) {l j : ℕ} (hl : l < 16) (hj : j < 64) :
    mBit (BitVec.ofNat 1024 (packBits 64 (List.replicate 16 (2 ^ tyNel t - 1)))) l j = decide (j < tyNel t) := by
  have lanes : List.replicate 16 (2 ^ tyNel t - 1) = (List.range 16).map fun _ => 2 ^ tyNel t - 1 := by simp
  have small : 2 ^ tyNel t - 1 < 2 ^ 64 :=
    Nat.sub_one_lt_of_le (Nat.two_pow_pos _) (Nat.pow_le_pow_right (by decide) (tyNel_le t))
  rw [lanes, mBit_packBits (fun _ _ => small) hl hj, Nat.testBit_two_pow_sub_one]

/-- Rows of n places, one after another, by place. -/
theorem flatMap_range_eq {α : Type} (m : ℕ) {n : ℕ} (f : ℕ → ℕ → α) :
    ((List.range m).flatMap fun l => (List.range n).map fun j => f l j) =
      (List.range (m * n)).map fun i => f (i / n) (i % n) := by
  induction m with
  | zero => simp
  | succ m ih =>
    have last : (List.range n).map (fun j => f m j) =
        ((List.range n).map (m * n + ·)).map fun i => f (i / n) (i % n) := by
      rw [List.map_map]
      refine List.map_congr_left fun j hj => ?_
      have inside : j < n := List.mem_range.1 hj
      have pos : 0 < n := by omega
      simp [Nat.mul_comm m n, Nat.mul_add_div pos, Nat.div_eq_of_lt inside, Nat.mod_eq_of_lt inside]
    rw [List.range_succ, List.flatMap_append, ih, Nat.succ_mul, List.range_add, List.map_append, ← last]
    simp

/-- The bits of a mask that stand for elements of a type, lane by lane. -/
theorem maskBits_eq (s : State) (w : RForm) :
    maskBits s w = (List.range (16 * tyNel w.ty)).map fun i => mBit (maskA s w) (i / tyNel w.ty) (i % tyNel w.ty) :=
  flatMap_range_eq 16 _

theorem count_true_map {α : Type} (p : α → Bool) (l : List α) : (l.map p).count true = (l.filter p).length := by
  rw [List.count_eq_countP, List.countP_map, List.countP_eq_length_filter]
  congr 1
  exact List.filter_congr fun x _ => by simp

/-- The first place that holds, by search through the bits. -/
theorem findIdx_map_range (p : ℕ → Bool) (n : ℕ) :
    (if ((List.range n).map p).findIdx id < ((List.range n).map p).length then
      BitVec.ofNat 64 (((List.range n).map p).findIdx id) else ~~~0) =
      match (List.range n).find? p with
      | some i => BitVec.ofNat 64 i
      | none => 0xFFFFFFFFFFFFFFFF := by
  cases found : (List.range n).find? p with
  | none =>
    have absent : ((List.range n).map p).findIdx id = ((List.range n).map p).length := by
      rw [List.findIdx_eq_length]
      simpa using found
    rw [absent, if_neg (lt_irrefl _)]
    rfl
  | some i =>
    obtain ⟨here, inside, before⟩ := List.find?_range_eq_some.1 found
    have short : i < ((List.range n).map p).length := by simpa using inside
    have first : ((List.range n).map p).findIdx id = i := by
      rw [List.findIdx_eq short]
      exact ⟨by simpa using here, fun j hj => by simpa using before j hj⟩
    rw [first, if_pos short]

/-- Settles O14: a compare packs the bits of its elements lane by lane, a mask word acts on whole masks, and the counts
run over the places of the type's elements. -/
theorem maskWordsAndCompares : Obligations.MaskWordsAndCompares := by
  intro w s h t n a b d gives c x y rel nv fl
  have word {i : Instr} {f : State → MaskReg} (he : exec i s = maskOp f w s) : gives i (f s) :=
    slotWrites_of_body h he rfl
  have count {i : Instr} {body : State → Body} {v : Word} (he : exec i s = runPlain s 0x4E w.guard body)
      (hb : body s = .ok (writeR s 8 w.d v)) : Delivers i s 8 w.d v 0 := delivers_of_write h.2 he hb
  refine ⟨vcmp_faults h, vcmp_writes h, word (exec_mlogAnd w s), word (exec_mlogOr w s), word (exec_mlogXor w s),
    word (exec_mlogAndn w s), word (exec_mlogNot w s), word (exec_mlogClr w s),
    ⟨_, word (exec_mlogSet w s), fun l j hl hj => mask_of_type t hl hj⟩, count (exec_mpopCnt w s) ?_,
    count (exec_mpopFirst w s) ?_⟩
  · rw [maskBits_eq, count_true_map]
    rfl
  · dsimp only
    rw [maskBits_eq, findIdx_map_range]
    rfl

end Sys2Proof.VectorMasks
end

section
/-! SUPPORT. Rows packed into and unpacked from tile formats (R187, R188). -/

namespace Sys2Proof.VectorRows

open Sys2Proof.Machine Sys2Proof.Safety Sys2Proof.Claims
open Sys2Proof.TilePasses (laneFault_none getD_map_range)
open Sys2Proof.TileRows (FitsWidth deliver_lt decodeRow_length)
open Sys2Proof.AccumulatorWords (vElem_laneWordsReg vElem_rowReg laneFlagsOf_eq)

/-! ## Checks (R162, R163, R187) -/

/-- A check of the words of KF formats that every lane passes. -/
theorem laneFault_kf_clear {f : TileFmt} {bad : ℕ → Bool} {t : Trap} (h : f.scaling = .kf → ∀ l < 16, bad l = false) :
    laneFault (fun l => if f.scaling == .kf && bad l then some t else none) = none := by
  refine laneFault_none fun l hl => if_neg ?_
  simp only [Bool.and_eq_true, beq_iff_eq, not_and, Bool.not_eq_true]
  exact fun kf => h kf l hl

section
variable {w : RForm} {s : State}

theorem bandBits_eq (l : ℕ) : bandBits s w l = bandOf s w l := by
  simp only [bandBits, bandOf, beq_iff_eq]

theorem packFmtTrap_packable (listed : fmtReserved s w.c.toNat = false) (packable : fmtPackable w.c.toNat = true) :
    packFmtTrap s w.c.toNat = none := by
  rw [packFmtTrap, listed, if_neg Bool.false_ne_true, packable, if_pos rfl]

theorem packFmtTrap_not_packable (listed : fmtReserved s w.c.toNat = false) (packable : fmtPackable w.c.toNat = false) :
    packFmtTrap s w.c.toNat = some { cause := .badMode } := by
  rw [packFmtTrap, listed, if_neg Bool.false_ne_true, packable, if_neg Bool.false_ne_true]

/-- Both words trap for a listed format that is not packable. -/
theorem notPackable_traps (h : InSlot s w.guard) (listed : fmtReserved s w.c.toNat = false)
    (packable : fmtPackable w.c.toNat = false) :
    exec (.vpack w) s = .next (slotFault s { cause := .badMode } 0x50) ∧
      exec (.vunpack w) s = .next (slotFault s { cause := .badMode } 0x51) := by
  have trap := packFmtTrap_not_packable listed packable
  refine ⟨?_, ?_⟩
  · rw [exec_vpack, execVpack]
    refine runPlain_trap h ?_
    simp only [trap]
  · rw [exec_vunpack, execVunpack]
    refine runPlain_trap h ?_
    simp only [trap]

/-! ## `vpack` (R187) -/

/-- The row of a lane encoded: payload, scales and flags. -/
def encoded (w : RForm) (f : TileFmt) (s : State) (l : ℕ) : ℕ × ℕ × Flags :=
  encodeRow f w.rm.toNat (decodeFloat fmtBF16 (bandOf s w l)) (heldRow s w l)

/-- The rows of all lanes, encoded. -/
def encodedRows (w : RForm) (f : TileFmt) (s : State) : List (ℕ × ℕ × Flags) :=
  (List.range 16).map fun l => encodeRow f w.rm.toNat (decodeFloat fmtBF16 (bandBits s w l)) (rowValues s w l)

theorem encodedRows_lane (w : RForm) (f : TileFmt) (s : State) {l : ℕ} (hl : l < 16) :
    (encodedRows w f s).getD l (0, 0, 0) = encoded w f s l := by
  rw [encodedRows, getD_map_range hl, bandBits_eq]
  rfl

/-- The register of one field of the encoded rows. -/
def encodedReg (w : RForm) (f : TileFmt) (s : State) (field : ℕ × ℕ × Flags → ℕ) : VecReg :=
  laneWordsReg fun l => field ((encodedRows w f s).getD l (0, 0, 0))

theorem vElem_encodedReg (f : TileFmt) (field : ℕ × ℕ × Flags → ℕ) {l : ℕ} (hl : l < 16) :
    vElem (encodedReg w f s field) 256 l 0 = field (encoded w f s l) % 2 ^ 256 := by
  rw [encodedReg, vElem_laneWordsReg _ hl (by decide), encodedRows_lane w f s hl, Nat.mul_zero, Nat.pow_zero, Nat.div_one]

theorem packBody_eq {f : TileFmt} (band : f.scaling = .kf → ∀ l < 16, bandOk (bandOf s w l) = true) :
    packBody w f s = giveLanes s 4 (Vector.ofFn fun l => (encoded w f s l.val).2.2)
      (.v w.d (encodedReg w f s (·.1)) ::
        if f.scaling = .plain then [] else [.v (w.d + 1) (encodedReg w f s (·.2.1))]) := by
  have clear := laneFault_kf_clear (f := f) (bad := fun l => !bandOk (bandBits s w l))
    (t := { cause := .convertRange }) fun kf l hl => by rw [bandBits_eq, band kf l hl]; rfl
  have flags (l : Fin 16) : ((encodedRows w f s).getD l.val (0, 0, 0)).2.2 = (encoded w f s l.val).2.2 := by
    rw [encodedRows_lane w f s l.isLt]
  rw [← laneFlagsOf_eq (f := fun l => ((encodedRows w f s).getD l (0, 0, 0)).2.2) flags]
  simp only [packBody, clear, beq_iff_eq]
  rfl

theorem vpack_writes (h : InSlot s w.guard) (listed : fmtReserved s w.c.toNat = false)
    (packable : fmtPackable w.c.toNat = true) {f : TileFmt} (hf : tileFmt w.c.toNat = some f)
    (band : f.scaling = .kf → ∀ l < 16, bandOk (bandOf s w l) = true)
    (quiet : NoLaneTrap s (Vector.ofFn fun l => (encoded w f s l.val).2.2)) :
    exec (.vpack w) s = .next (lanesGive s 4
      (.v w.d (encodedReg w f s (·.1)) ::
        if f.scaling = .plain then [] else [.v (w.d + 1) (encodedReg w f s (·.2.1))])
      (Vector.ofFn fun l => (encoded w f s l.val).2.2)) := by
  rw [exec_vpack, execVpack]
  refine runPlain_slot h ?_
  simp only [packFmtTrap_packable listed packable, hf]
  exact (packBody_eq band).trans (giveLanes_ok quiet 4 _)

/-! ## `vunpack` (R188) -/

/-- The scales of a lane: its word of the register after vA, for a scaled format. -/
def laneScales (w : RForm) (f : TileFmt) (s : State) (l : ℕ) : ℕ :=
  if f.scaling = .plain then 0 else vElem (readV s (w.a + 1)) 256 l 0

/-- The row of a lane decoded, and whether a scale NaN was met. -/
def decoded (w : RForm) (f : TileFmt) (s : State) (l : ℕ) : List FVal × Bool :=
  decodeRow f (vElem (readV s w.a) 256 l 0) (laneScales w f s l) (decodeFloat fmtBF16 (bandOf s w l))

/-- The decoded row of a lane as elements of the type, with their flags. -/
def unpacked (w : RForm) (f : TileFmt) (s : State) (l : ℕ) : List (ℕ × Flags) :=
  (decoded w f s l).1.map fun x => deliver (tyFmt w.ty) w.rm.toNat false x

/-- The flags that an unpacked lane raises. -/
def unpackedFlags (w : RForm) (f : TileFmt) (s : State) (l : ℕ) : Flags :=
  flagIf (decoded w f s l).2 flSN ||| orFlags ((unpacked w f s l).map (·.2))

/-- What the model computes of each lane's row. -/
def unpackedRows (w : RForm) (f : TileFmt) (s : State) : List (List (ℕ × Flags) × Flags) :=
  (List.range 16).map fun l =>
    let y := decodeRow f (vElem (readV s w.a) 256 l 0)
      (if f.scaling == .plain then 0 else vElem (readV s (w.a + 1)) 256 l 0) (decodeFloat fmtBF16 (bandBits s w l))
    (y.1.map fun x => deliver (tyFmt w.ty) w.rm.toNat false x, flagIf y.2 flSN)

theorem unpackedRows_lane (w : RForm) (f : TileFmt) (s : State) {l : ℕ} (hl : l < 16) :
    (unpackedRows w f s).getD l ([], 0) = (unpacked w f s l, flagIf (decoded w f s l).2 flSN) := by
  rw [unpackedRows, getD_map_range hl]
  simp only [bandBits_eq, beq_iff_eq]
  rfl

/-- Register k of an unpacked row. -/
def unpackedReg (w : RForm) (f : TileFmt) (s : State) (k : ℕ) : VecReg :=
  laneWordsReg fun l => packBits (tyWidth w.ty)
    (((((unpackedRows w f s).getD l ([], 0)).1.drop (k * tyNel w.ty)).take (tyNel w.ty)).map (·.1))

theorem unpackBody_eq {f : TileFmt} (checks : f.scaling = .kf → ∀ l < 16, bandFinite (bandOf s w l) = true ∧
      slotsBad (laneScales w f s l) = false) :
    unpackBody w f s = giveLanes s 4 (Vector.ofFn fun l => unpackedFlags w f s l.val)
      ((List.range (rowRegs w.ty)).map fun k => .v (w.d + BitVec.ofNat 6 k) (unpackedReg w f s k)) := by
  have slots := laneFault_kf_clear (f := f)
    (bad := fun l => slotsBad (if f.scaling == .plain then 0 else vElem (readV s (w.a + 1)) 256 l 0))
    (t := { cause := .tileHeader }) fun kf l hl => by simpa only [laneScales, beq_iff_eq] using (checks kf l hl).2
  have band := laneFault_kf_clear (f := f) (bad := fun l => !bandFinite (bandBits s w l))
    (t := { cause := .convertRange }) fun kf l hl => by rw [bandBits_eq, (checks kf l hl).1]; rfl
  have flags (l : Fin 16) : ((unpackedRows w f s).getD l.val ([], 0)).2 |||
      orFlags (((unpackedRows w f s).getD l.val ([], 0)).1.map (·.2)) = unpackedFlags w f s l.val := by
    rw [unpackedRows_lane w f s l.isLt]
    rfl
  rw [← laneFlagsOf_eq (f := fun l => ((unpackedRows w f s).getD l ([], 0)).2 |||
      orFlags (((unpackedRows w f s).getD l ([], 0)).1.map (·.2))) flags]
  simp only [unpackBody, slots, band]
  rfl

/-- A register type of a row holds the codes of its format. -/
theorem rowElem_spec : ∀ t : BitVec 5, t = 9 ∨ t = 10 → FitsWidth (tyFmt t) ∧ (tyFmt t).width = tyWidth t := by decide

/-- A list by its places. -/
theorem map_eq_map_getD {α β : Type} (g : α → β) (l : List α) (d : α) {n : ℕ} (h : l.length = n) :
    l.map g = (List.range n).map fun c => g (l.getD c d) := by
  subst h
  refine List.ext_getElem (by simp) fun c hc _ => ?_
  have inside : c < l.length := by simpa using hc
  simp [inside]

/-- Element c of an unpacked lane: its value rounded once (R188). -/
def unpackedElem (w : RForm) (f : TileFmt) (s : State) (l c : ℕ) : ℕ × Flags :=
  deliver (tyFmt w.ty) w.rm.toNat false ((decoded w f s l).1.getD c (.nan false))

theorem unpacked_eq (f : TileFmt) (l : ℕ) : unpacked w f s l = (List.range 32).map (unpackedElem w f s l) :=
  map_eq_map_getD _ _ _ (decodeRow_length ..)

theorem unpackedReg_eq (f : TileFmt) (k : ℕ) :
    unpackedReg w f s k = laneWordsReg fun l => packBits (tyWidth w.ty)
      (((((unpackedRows w f s).map fun y => y.1.map (·.1)).getD l []).drop (k * tyNel w.ty)).take (tyNel w.ty)) := by
  have codes (l : ℕ) : ((unpackedRows w f s).map fun y => y.1.map (·.1)).getD l [] =
      ((unpackedRows w f s).getD l ([], 0)).1.map (·.1) :=
    List.getD_map (unpackedRows w f s) ([], 0) fun y => y.1.map (·.1)
  simp only [unpackedReg, codes, List.map_take, List.map_drop]

theorem vElem_unpackedReg (ht : w.ty = 9 ∨ w.ty = 10) (f : TileFmt) {c l : ℕ} (hc : c < 32) (hl : l < 16) :
    vElem (unpackedReg w f s (c / tyNel w.ty)) (tyWidth w.ty) l (c % tyNel w.ty) =
      ((unpacked w f s l).getD c (0, 0)).1 % 2 ^ tyWidth w.ty := by
  obtain ⟨fits, width⟩ := rowElem_spec w.ty ht
  have row : ((unpackedRows w f s).map fun y => y.1.map (·.1)).getD l [] =
      (List.range 32).map fun c => (unpackedElem w f s l c).1 := by
    refine (List.getD_map (unpackedRows w f s) ([], 0) fun y => y.1.map (·.1)).trans ?_
    rw [unpackedRows_lane w f s hl, unpacked_eq, List.map_map]
    rfl
  have small (c : ℕ) : (unpackedElem w f s l c).1 < 2 ^ tyWidth w.ty := width ▸ deliver_lt fits _ _ _
  rw [unpackedReg_eq, vElem_rowReg (tyWidth_mul_tyNel w.ty) _ hl row (fun c _ => small c) hc, unpacked_eq,
    getD_map_range hc, Nat.mod_eq_of_lt (small c)]

theorem vunpack_writes (h : InSlot s w.guard) (listed : fmtReserved s w.c.toNat = false)
    (packable : fmtPackable w.c.toNat = true) {f : TileFmt} (hf : tileFmt w.c.toNat = some f)
    (checks : f.scaling = .kf → ∀ l < 16, bandFinite (bandOf s w l) = true ∧ slotsBad (laneScales w f s l) = false)
    (quiet : NoLaneTrap s (Vector.ofFn fun l => unpackedFlags w f s l.val)) :
    exec (.vunpack w) s = .next (lanesGive s 4
      ((List.range (rowRegs w.ty)).map fun k => .v (w.d + BitVec.ofNat 6 k) (unpackedReg w f s k))
      (Vector.ofFn fun l => unpackedFlags w f s l.val)) := by
  rw [exec_vunpack, execVunpack]
  refine runPlain_slot h ?_
  simp only [packFmtTrap_packable listed packable, hf]
  exact (unpackBody_eq checks).trans (giveLanes_ok quiet 4 _)

end

/-- Settles O16: each lane's row is encoded or decoded by itself, and its words and elements stand in their registers. -/
theorem packAndUnpackMoveRows : Obligations.PackAndUnpackMoveRows := by
  intro w s f h ht listed
  refine ⟨fun notPackable i hi => ?_, fun packable hf => ?_⟩
  · obtain ⟨pack, unpack⟩ := notPackable_traps h listed notPackable
    simp only [List.mem_cons, List.not_mem_nil, or_false] at hi
    rcases hi with rfl | rfl
    · exact pack
    · exact unpack
  · intro kf band enc fl payload scales dec outs ufl
    refine ⟨fun bands quiet => ⟨_, _, vpack_writes h listed packable hf bands quiet, fun l hl =>
      ⟨vElem_encodedReg f _ hl, vElem_encodedReg f _ hl⟩⟩, fun checks quiet => ?_⟩
    exact ⟨_, vunpack_writes h listed packable hf checks quiet, fun c l hc hl => vElem_unpackedReg ht f hc hl⟩

end Sys2Proof.VectorRows
end

section
/-! SUPPORT. Fills of the operand latches from tile records (R201-R204). -/

namespace Sys2Proof.LatchFills

open Sys2Proof.Machine Sys2Proof.Safety Sys2Proof.Claims
open Sys2Proof.TilePasses (laneFault_none getD_map_range mod_two_pow_div_mod latchKP_rows_fit)
open Sys2Proof.TileRows (tileFmt_code_lt)
open Sys2Proof.ControlProcessor (leNat_lt)

/-! ## Headers and bytes of the SRF (R249, R250) -/

theorem length_srfBytes (c : Core) (o n : ℕ) : (srfBytes c o n).length = n := by
  rw [srfBytes, List.length_map, List.length_range]

theorem take_srfBytes (c : Core) (o : ℕ) {m n : ℕ} (h : m ≤ n) : (srfBytes c o n).take m = srfBytes c o m := by
  rw [srfBytes, ← List.map_take, List.take_range, min_eq_left h, srfBytes]

/-- A well-formed header is read as its fields stand. -/
theorem ofWord_of_headerCheck {s : State} {b : List Byte} {h : Header} (ok : headerCheck s b = .ok h) :
    Header.ofWord (BitVec.ofNat 64 (leNat (b.take 8))) = h := by
  simp only [headerCheck] at ok
  split_ifs at ok
  exact Except.ok.inj ok

theorem rawHeader_of_headerAt {s : State} {o : ℕ} {h : Header} (found : headerAt s o = some h) :
    rawHeader s o = h := by
  unfold headerAt at found
  split_ifs at found
  cases check : headerCheck s (srfBytes s.core o 64) with
  | error c => rw [check] at found; cases found
  | ok h' =>
    rw [check] at found
    obtain rfl := Option.some.inj found
    rw [← ofWord_of_headerCheck check, take_srfBytes s.core o (by decide), rawHeader]

theorem rawHeader_band_lt (s : State) (o : ℕ) : (rawHeader s o).band < 2 ^ 16 :=
  Nat.mod_lt _ (Nat.two_pow_pos 16)

/-! ## Rows packed into a part (R203) -/

/-- One of 32 rows that are packed into a bit vector. -/
theorem packedRow {width len : ℕ} {row : ℕ → ℕ} (small : ∀ r, row r < 2 ^ len) (fits : len * 32 ≤ width)
    {r : ℕ} (hr : r < 32) :
    (BitVec.ofNat width (packBits len ((List.range 32).map row))).toNat / 2 ^ (len * r) % 2 ^ len = row r := by
  have inside : len * r + len ≤ width := (Nat.mul_le_mul_left len hr).trans fits
  rw [BitVec.toNat_ofNat, mod_two_pow_div_mod _ inside, packBits_get, getD_map_range hr]
  intro x hx
  obtain ⟨i, -, rfl⟩ := List.mem_map.1 hx
  exact small i

/-- The payload bits of a row of a record: its places, and zeros outside the valid region. -/
def fillRowBits (s : State) (f : TileFmt) (x : ℕ × ℕ) : ℕ :=
  if x.2 < (rawHeader s x.1).rows then
    leNat (srfBytes s.core (rowOff f x.1 x.2) f.rowBytes) % 2 ^ (f.w * (rawHeader s x.1).validPlaces)
  else 0

/-- The scale bits of a row of a record. -/
def fillScaleBits (s : State) (f : TileFmt) (x : ℕ × ℕ) : ℕ :=
  leNat (srfBytes s.core (scaleOff f x.1 x.2) f.scaleRow)

theorem leNat_srfBytes_lt (c : Core) (o n : ℕ) : leNat (srfBytes c o n) < 2 ^ (8 * n) := by
  have bound := leNat_lt (srfBytes c o n)
  rwa [length_srfBytes, show 256 = 2 ^ 8 from rfl, ← pow_mul] at bound

theorem fillRowBits_lt (s : State) (f : TileFmt) (x : ℕ × ℕ) : fillRowBits s f x < 2 ^ (8 * f.rowBytes) := by
  unfold fillRowBits
  split
  · exact (Nat.mod_le _ _).trans_lt (leNat_srfBytes_lt _ _ _)
  · exact Nat.two_pow_pos _

/-- A place of a row within the valid region is the record's, and another one is zero. -/
theorem fillRowBits_place (s : State) (f : TileFmt) (x : ℕ × ℕ) (c : ℕ) :
    fillRowBits s f x / 2 ^ (f.w * c) % 2 ^ f.w =
      if x.2 < (rawHeader s x.1).rows ∧ c < (rawHeader s x.1).validPlaces then
        rowElem f.w (leNat (srfBytes s.core (rowOff f x.1 x.2) f.rowBytes)) c
      else 0 := by
  unfold fillRowBits
  by_cases row : x.2 < (rawHeader s x.1).rows
  · by_cases place : c < (rawHeader s x.1).validPlaces
    · have inside : f.w * c + f.w ≤ f.w * (rawHeader s x.1).validPlaces := Nat.mul_le_mul_left f.w place
      rw [if_pos row, if_pos ⟨row, place⟩, mod_two_pow_div_mod _ inside, rowElem]
    · have beyond : 2 ^ (f.w * (rawHeader s x.1).validPlaces) ≤ 2 ^ (f.w * c) :=
        Nat.pow_le_pow_right two_pos (Nat.mul_le_mul_left f.w (not_lt.1 place))
      rw [if_pos row, if_neg (mt And.right place),
        Nat.div_eq_of_lt ((Nat.mod_lt _ (Nat.two_pow_pos _)).trans_le beyond), Nat.zero_mod]
  · rw [if_neg row, if_neg (mt And.left row), Nat.zero_div, Nat.zero_mod]

theorem fillPart_eq (s : State) (w : RForm) (form l : ℕ) (recs : List ℕ) (f : TileFmt) (q : ℕ) :
    fillPart s w form l recs f q =
      ⟨BitVec.ofNat 16384 (packBits (8 * f.rowBytes)
          ((List.range 32).map fun r => fillRowBits s f (fillRow s w form l recs q r))),
        BitVec.ofNat 2048 (packBits (8 * f.scaleRow)
          ((List.range 32).map fun r => fillScaleBits s f (fillRow s w form l recs q r))),
        BitVec.ofNat 16 (rawHeader s (recs.getD 0 0)).band⟩ := by
  rw [fillPart, List.map_map, List.map_map]
  rfl

theorem scaleRow_le (f : TileFmt) : f.scaleRow ≤ 8 := by
  unfold TileFmt.scaleRow
  split <;> decide

/-! ## The records of a fill, and what its checks say of them (R202, R204) -/

section
variable (s : State) (w : RForm) (l : ℕ)

/-- The offset of the record that sizes a lane's fill. -/
def fillBase : Word := readR s w.a + readR s w.c * BitVec.ofNat 64 l

/-- Its header. -/
def fillHead : Header := rawHeader s (fillBase s w l).toNat

/-- The parts of a latch that holds a format code. -/
def latchParts (code : ℕ) : ℕ := ((latchKP code).map (·.2)).getD 1

theorem latchParts_pos (code : ℕ) : 0 < latchParts code := by
  unfold latchParts latchKP
  cases tileFmt code with
  | none => exact Nat.one_pos
  | some f => dsimp only; split_ifs <;> decide

theorem fillRecords_all : fillRecords s w 0 l =
    (List.range (latchParts (fillHead s w l).code)).map fun q =>
      (fillBase s w l + opB s w true * BitVec.ofNat 64 q).toNat := rfl

theorem fillRecords_gath : fillRecords s w 2 l =
    (fillBase s w l).toNat :: (List.range 32).map fun r =>
      (fillBase s w l + BitVec.ofNat 64 (vElem (readV s w.b) 8 l r / 32 *
        ((footprint (fillHead s w l).code + 63) / 64 * 64))).toNat := rfl

/-- The first record of a fill is the one that sizes it. -/
theorem head?_fillRecords (form : ℕ) : (fillRecords s w form l).head? = some (fillBase s w l).toNat := by
  match form with
  | 0 =>
    obtain ⟨n, parts⟩ := Nat.exists_eq_add_one.2 (latchParts_pos (fillHead s w l).code)
    rw [fillRecords_all, parts, List.range_succ_eq_map, List.map_cons, List.head?_cons, BitVec.mul_zero,
      BitVec.add_zero]
  | 1 | 2 | _ + 3 => rfl

theorem rawHeader_fillRecords (form : ℕ) : rawHeader s ((fillRecords s w form l).getD 0 0) = fillHead s w l := by
  rw [List.getD_eq_getElem?_getD, ← List.head?_eq_getElem?, head?_fillRecords, Option.getD_some, fillHead]

theorem headD_fillRecords (form : ℕ) (d : Header) :
    ((fillRecords s w form l).map (rawHeader s)).headD d = fillHead s w l := by
  rw [List.headD_eq_head?_getD, List.head?_map, head?_fillRecords, Option.map_some, Option.getD_some, fillHead]

variable {s w l}

/-- A lane that passes the checks has an empty record or a format that a latch holds. -/
theorem code_zero_of_fillTrap {form : ℕ} {q : BitVec 2} (clear : fillTrap s w form l q = none)
    (excluded : latchKP (fillHead s w l).code = none) : (fillHead s w l).code = 0 := by
  by_contra listed
  have bad (heads : List Header) (lat : LatchLane) (p : ℕ) :
      fillFormatBad heads lat form p (fillHead s w l) = true := by
    simp [fillFormatBad, excluded, listed]
  simp only [fillTrap, headD_fillRecords, bad, if_true] at clear
  split at clear
  · cases clear
  · split at clear
    · cases clear
    · split at clear <;> cases clear

/-- The rows of a format that a fill accepts fit into its part. -/
theorem width_of_fillTrap {form : ℕ} {q : BitVec 2} (clear : fillTrap s w form l q = none) {f : TileFmt}
    (hf : tileFmt (fillHead s w l).code = some f) : f.w ≤ 16 := by
  cases kp : latchKP (fillHead s w l).code with
  | none => rw [code_zero_of_fillTrap clear kp] at hf; cases hf
  | some x =>
    obtain ⟨-, -, fits⟩ := latchKP_rows_fit _ ((tileFmt_code_lt hf).trans (by decide)) f hf x kp
    have := fits.trans (Nat.div_le_self _ _)
    omega

/-! ## What a lane receives (R203) -/

/-- A part of a fill holds the rows that its records give. -/
theorem partHolds_fillPart {form : ℕ} {f : TileFmt} {q : ℕ} {src : ℕ → ℕ × ℕ} (width : f.w ≤ 16)
    (rows : ∀ r < 32, fillRow s w form l (fillRecords s w form l) q r = src r) :
    PartHolds s f src (fillHead s w l).band (fillPart s w form l (fillRecords s w form l) f q) := by
  rw [fillPart_eq, rawHeader_fillRecords]
  refine ⟨fun r c h hr hc found => ?_, fun r hr => ?_, Nat.mod_eq_of_lt (rawHeader_band_lt s _)⟩
  · have payloadFits : 8 * f.rowBytes * 32 ≤ 16384 := by unfold TileFmt.rowBytes; omega
    have row := packedRow (fun r => fillRowBits_lt s f (fillRow s w form l (fillRecords s w form l) q r)) payloadFits hr
    have rowBits : 8 * f.rowBytes = 32 * f.w := by unfold TileFmt.rowBytes; omega
    have inRow : f.w * c + f.w ≤ 32 * f.w := by nlinarith
    rw [← rawHeader_of_headerAt found, ← fillRowBits_place, ← rows r hr, ← row, rowBits,
      mod_two_pow_div_mod _ inRow, Nat.div_div_eq_div_mul, ← pow_add]
  · have scaleFits : 8 * f.scaleRow * 32 ≤ 2048 := by have := scaleRow_le f; omega
    rw [← rows r hr]
    exact packedRow (fun r => leNat_srfBytes_lt _ _ _) scaleFits hr

theorem fillLane_of_none {form : ℕ} (hf : tileFmt (fillHead s w l).code = none) :
    fillLane s w form l = ⟨true, (0, false, false, false), 1, []⟩ := by
  simp only [fillLane, rawHeader_fillRecords, hf]

theorem fillLane_of_some {form : ℕ} {f : TileFmt} (hf : tileFmt (fillHead s w l).code = some f) :
    let h := fillHead s w l
    let recs := fillRecords s w form l
    fillLane s w form l = ⟨form == 0, (BitVec.ofNat 7 h.code, h.domain, h.packed, h.scaled), latchParts h.code,
      (fillParts form (w.fn.toNat / 4 % 4) recs).map fun x => (x.1, fillPart s w form l recs f x.2)⟩ := by
  simp only [fillLane, rawHeader_fillRecords, hf]
  rfl

/-- Every part of a fill of a whole latch stands under its own number. -/
theorem fillParts_all (p : ℕ) (recs : List ℕ) :
    fillParts 0 p recs = (List.range recs.length).map fun k => (k, k) := by
  refine List.ext_getElem ?_ fun i _ _ => ?_
  · simp [fillParts]
  · simp [fillParts]

/-- Part k of `tfill.all` is record k, row by row. -/
theorem fillRow_all {k : ℕ} (hk : k < latchParts (fillHead s w l).code) (r : ℕ) :
    fillRow s w 0 l (fillRecords s w 0 l) k r = ((fillBase s w l + opB s w true * BitVec.ofNat 64 k).toNat, r) := by
  change ((fillRecords s w 0 l).getD k 0, r) = _
  rw [fillRecords_all, getD_map_range hk]

/-- Row r of a gather is the row of the record that index r names. -/
theorem fillRow_gath {r : ℕ} (hr : r < 32) :
    let x := vElem (readV s w.b) 8 l r
    let pitch := (footprint (fillHead s w l).code + 63) / 64 * 64
    fillRow s w 2 l (fillRecords s w 2 l) 0 r =
      ((fillBase s w l + BitVec.ofNat 64 (x / 32 * pitch)).toNat, x % 32) := by
  intro x pitch
  change ((fillRecords s w 2 l).getD (r + 1) 0, x % 32) = _
  rw [fillRecords_gath, List.getD_cons_succ, getD_map_range hr]

/-- A lane of `tfill.all` receives every part of its latch. -/
theorem fillLane_all {f : TileFmt} (width : f.w ≤ 16) (hf : tileFmt (fillHead s w l).code = some f) :
    let h := fillHead s w l
    ∃ y : ℕ → LatchPart, fillLane s w 0 l = ⟨true, (BitVec.ofNat 7 h.code, h.domain, h.packed, h.scaled),
        latchParts h.code, (List.range (latchParts h.code)).map fun k => (k, y k)⟩ ∧
      ∀ k < latchParts h.code,
        PartHolds s f (fun r => ((fillBase s w l + opB s w true * BitVec.ofNat 64 k).toNat, r)) h.band (y k) := by
  refine ⟨fillPart s w 0 l (fillRecords s w 0 l) f, ?_, fun k hk =>
    partHolds_fillPart width fun r _ => fillRow_all hk r⟩
  rw [fillLane_of_some hf, fillParts_all, List.map_map, fillRecords_all, List.length_map, List.length_range]
  rfl

/-- A lane of another form receives the one part that its word names. -/
theorem fillLane_one {form : ℕ} (one : form ≠ 0) {f : TileFmt} {src : ℕ → ℕ × ℕ} (width : f.w ≤ 16)
    (hf : tileFmt (fillHead s w l).code = some f)
    (rows : ∀ r < 32, fillRow s w form l (fillRecords s w form l) 0 r = src r) :
    let h := fillHead s w l
    ∃ y, fillLane s w form l = ⟨false, (BitVec.ofNat 7 h.code, h.domain, h.packed, h.scaled), latchParts h.code,
        [(w.fn.toNat / 4 % 4, y)]⟩ ∧ PartHolds s f src h.band y := by
  refine ⟨_, ?_, partHolds_fillPart width rows⟩
  rw [fillLane_of_some hf, fillParts, beq_eq_false_iff_ne.2 one]
  rfl

theorem get_ofFn {α : Type} {n : ℕ} (g : Fin n → α) (l : Fin n) : (Vector.ofFn g).get l = g l := by
  simp [Vector.get, Fin.cast]

/-- A fill whose checks pass in every lane is one write of the latch. -/
theorem fill_writes {i : Instr} {form lat : ℕ} (word : exec i s = fillWord form lat w s) (h : InSlot s w.guard)
    (clear : ∀ l < 16, fillTrap s w form l (r2 w.d) = none) :
    exec i s = .next (slotWrites s lat (.latch (r2 w.d) (Vector.ofFn fun l => fillLane s w form l.val))) := by
  rw [word, fillWord]
  refine runPlain_slot h ?_
  simp only [laneFault_none clear, pushWrite_eq]

end

/-- Settles O35: each lane receives the parts that its records give row by row, and a lane that passes the checks has a
format whose rows fit into its part. -/
theorem fillsLoadLatchesFromRecords : Obligations.FillsLoadLatchesFromRecords := by
  intro w s h q p base tags fills one
  have load (i : Instr) (form lat : ℕ) (holds : Fin 16 → Header → TileFmt → LatchFill → Prop)
      (word : exec i s = fillWord form lat w s)
      (lane : ∀ (l : Fin 16) (f : TileFmt), f.w ≤ 16 → tileFmt (rawHeader s (base l.val).toNat).code = some f →
        holds l (rawHeader s (base l.val).toNat) f (fillLane s w form l.val)) : fills i form lat holds := by
    intro clear
    refine ⟨_, fill_writes word h clear, fun l hd found => ?_⟩
    obtain rfl := rawHeader_of_headerAt found
    rw [get_ofFn]
    split
    case h_1 f hf => exact lane l f (width_of_fillTrap (clear l l.isLt) hf) hf
    case h_2 hf => exact fillLane_of_none hf
  -- The body of `fills` has served; each form below is an instance of `load` under that name.
  clear_value fills
  exact ⟨load _ 0 16 _ rfl fun _ _ => fillLane_all,
    load _ 1 16 _ rfl fun _ _ width hf => fillLane_one one_ne_zero width hf fun _ _ => rfl,
    load _ 2 24 _ rfl fun _ _ width hf => fillLane_one two_ne_zero width hf fun _ => fillRow_gath⟩

end Sys2Proof.LatchFills
end

section
/-! SUPPORT. What running an X word does, and the checks that its records pass (R226-R228). -/

namespace Sys2Proof.TransformWords

open Sys2Proof.Machine Sys2Proof.Safety Sys2Proof.Claims
open Sys2Proof.LatchFills (ofWord_of_headerCheck take_srfBytes)

/-! ## The unit (R227-R229) -/

section
variable {s : State} {w : RForm} {opc : BitVec 8} {lat n : ℕ} {plan : XPlan}

/-- An X word whose checks pass enters the unit. -/
theorem runX_ok {r : XResult} (h : InSlot s w.guard) (ok : plan s w = .ok r) :
    runX opc lat n plan w s = .next (transforms s opc lat n r) := by
  refine runPlain_slot h ?_
  simp only [ok]
  exact congrArg Except.ok (if_neg (by rw [State.onKern_eq]; exact (Bool.eq_false_iff.1 (onCpPlace_of_slot h.1))))

/-- An X word that a check stops faults its slot. -/
theorem runX_error {t : Trap} (h : InSlot s w.guard) (stop : plan s w = .error t) :
    runX opc lat n plan w s = .next (slotFault s t opc) := by
  refine runPlain_trap h ?_
  simp only [stop]

end

theorem transformChecksFaultTheSlot : TransformChecksFaultTheSlot := by
  intro w s h runs
  have all (i : Instr) (opc : BitVec 8) (lat n : ℕ) (plan : XPlan) (word : exec i s = runX opc lat n plan w s) :
      runs i opc lat n plan :=
    ⟨fun _ ok => word.trans (runX_ok h ok), fun _ stop => word.trans (runX_error h stop)⟩
  exact ⟨all _ _ _ _ _ rfl, all _ _ _ _ _ rfl, all _ _ _ _ _ rfl, all _ _ _ _ _ rfl, all _ _ _ _ _ rfl,
    all _ _ _ _ _ rfl, all _ _ _ _ _ rfl, all _ _ _ _ _ rfl, all _ _ _ _ _ rfl, all _ _ _ _ _ rfl,
    all _ _ _ _ _ rfl⟩

/-! ## Checks that pass (R228) -/

theorem ok_bind {ε α β : Type} (x : α) (f : α → Except ε β) : (Except.ok x >>= f) = f x := rfl

theorem forM_ok {ε α : Type} {f : α → Except ε Unit} {l : List α} (h : ∀ x ∈ l, f x = .ok ()) :
    l.forM f = .ok () := by
  induction l with
  | nil => rfl
  | cons x l ih =>
    obtain ⟨first, rest⟩ := List.forall_mem_cons.1 h
    exact (congrArg (· >>= fun _ => l.forM f) first).trans (ih rest)

theorem mapM_map_ok {ε ι α β : Type} {f : α → Except ε β} {a : ι → α} {b : ι → β} {l : List ι}
    (h : ∀ i ∈ l, f (a i) = .ok (b i)) : (l.map a).mapM f = .ok (l.map b) := by
  induction l with
  | nil => rfl
  | cons i l ih =>
    obtain ⟨first, rest⟩ := List.forall_mem_cons.1 h
    rw [List.map_cons, List.mapM_cons, first, ih rest]
    rfl

theorem xneed_ok {ok : Bool} {c : Cause} {a : ℕ} (h : ok = true) : xneed ok c a = .ok () := if_pos h

theorem xalign_ok {l : List ℕ} (h : ∀ o ∈ l, o % 64 = 0) : xalign l = .ok () :=
  forM_ok fun o ho => xneed_ok (beq_iff_eq.2 (h o ho))

theorem xbounds_ok {l : List (ℕ × ℕ)} (h : ∀ x ∈ l, x.1 + x.2 ≤ 0x300000) : xbounds l = .ok () :=
  forM_ok fun x hx => xneed_ok (decide_eq_true (h x hx))

theorem xclean_ok {s : State} {l : List (ℕ × ℕ)} (h : ∀ x ∈ l, s.core.srfBad x.1 x.2 = false) : xclean s l = .ok () :=
  forM_ok fun x hx => xneed_ok (by rw [h x hx]; rfl)

/-- Records whose headers R222 allows, with tags that the word accepts. -/
theorem xtags_ok {s : State} {heads : List (Header × Bool)} {ok : Bool} (accept : ok = true)
    (mode : ∀ x ∈ heads, x.1.domain = true → s.md.faccept.getLsbD 0 = true) (sound : ∀ x ∈ heads, x.2 = false) :
    xtags s heads ok = .ok () := by
  have first : (!(heads.any fun h => h.1.domain) || accepted s 0) = true := by
    cases any : heads.any fun h => h.1.domain with
    | false => rfl
    | true =>
      obtain ⟨x, hx, hd⟩ := List.any_eq_true.1 any
      exact mode x hx hd
  have second : heads.any (·.2) = false := List.any_eq_false.2 fun x hx => by simp [sound x hx]
  rw [xtags, xneed_ok first, accept, second]
  rfl

/-! ## Sound records (R152, R248, R250) -/

theorem le_footprint (code : ℕ) : 64 ≤ footprint code := by
  unfold footprint
  split
  · omega
  · exact Nat.le_refl 64

theorem footprint_of_tileFmt {code : ℕ} {f : TileFmt} (h : tileFmt code = some f) :
    footprint code = 64 + (32 * f.rowBytes + 32 * f.scaleRow) := by
  simp only [footprint, h, TileFmt.payload, TileFmt.rowBytes, TileFmt.scaleBytes]
  omega

/-- The code in the first byte of a header is its format (R249). -/
theorem rawCode_eq {s : State} {o : ℕ} {h : Header} (found : headerCheck s (srfBytes s.core o 64) = .ok h) :
    rawCode s o = h.code := by
  rw [← ofWord_of_headerCheck found, take_srfBytes s.core o (by decide)]
  have first : leNat (srfBytes s.core o 8) % 256 = (cellGet s.core.srf o).toNat := by
    simp only [srfBytes, List.range_succ_eq_map, List.map_cons, leNat, Nat.add_zero]
    exact (Nat.add_mul_mod_self_left _ _ _).trans (Nat.mod_eq_of_lt (cellGet s.core.srf o).isLt)
  simp only [rawCode, Header.ofWord, fld, BitVec.toNat_ofNat, ← first]
  omega

/-- A header that passes its check is sound in the sense of R222, and its band scale is 0 outside KF and KI. -/
theorem headerCheck_spec {s : State} {b : List Byte} {h : Header} (found : headerCheck s b = .ok h) :
    headerDomainBad h = false ∧ (fmtKF h.code = false → h.band = 0) := by
  have same := ofWord_of_headerCheck found
  simp only [headerCheck, same] at found
  split_ifs at found with bad domain
  refine ⟨Bool.eq_false_iff.2 domain, fun plain => ?_⟩
  simp only [headerBad, same, plain, Bool.or_eq_true, not_or] at bad
  obtain ⟨-, -, band⟩ := bad
  simpa using band

/-- The header of a record at `o` passes its check, and its format has no scale slots. -/
theorem xhead_ok {s : State} {o : ℕ} {h : Header} (found : headerCheck s (srfBytes s.core o 64) = .ok h)
    (plain : fmtKF h.code = false) : xhead s o = .ok (h, false) := by
  have same := ofWord_of_headerCheck found
  rw [take_srfBytes s.core o (by decide)] at same
  simp only [xhead, same, found, plain, Bool.false_and]
  cases tileFmt h.code <;> rfl

/-- A record that an X word may read whole: R228 finds no fault in it. -/
structure SoundRecord (s : State) (o : ℕ) (h : Header) : Prop where
  aligned : o % 64 = 0
  fits : o + footprint h.code ≤ 0x300000
  head : headerCheck s (srfBytes s.core o 64) = .ok h
  plain : fmtKF h.code = false
  clean : s.core.srfBad o (footprint h.code) = false
  accept : h.domain = true → s.md.faccept.getLsbD 0 = true

namespace SoundRecord

variable {s : State} {o : ℕ} {h : Header} (sound : SoundRecord s o h)
include sound

theorem rawFootprint : rawFootprint s o = footprint h.code := by rw [Machine.rawFootprint, rawCode_eq sound.head]

theorem align_pair {d : ℕ} (hd : d % 64 = 0) : xalign [o, d] = .ok () :=
  xalign_ok (by simp [sound.aligned, hd])

theorem source : xsource s o = .ok () := by
  have whole := sound.fits
  have header := le_footprint h.code
  rw [xsource, xbounds_ok (by simp; omega), sound.rawFootprint]
  exact xbounds_ok (by simp; omega)

theorem heads : xhead s o = .ok (h, false) := xhead_ok sound.head sound.plain

theorem tags {ok : Bool} (accept : ok = true) : xtags s [(h, false)] ok = .ok () :=
  xtags_ok accept (by simpa using sound.accept) (by simp)

theorem cleans : xclean s [(o, footprint h.code)] = .ok () := xclean_ok (by simpa using sound.clean)

end SoundRecord

/-- One destination within the SRF. -/
theorem xbounds_one {o n : ℕ} (h : o + n ≤ 0x300000) : xbounds [(o, n)] = .ok () := xbounds_ok (by simpa using h)

end Sys2Proof.TransformWords
end

section
/-! SUPPORT. The bytes of records: their headers, and the elements of their rows (R157, R248, R249). -/

namespace Sys2Proof.TransformWords

open Sys2Proof.Machine Sys2Proof.Safety Sys2Proof.Claims
open Sys2Proof.TilePasses (mod_two_pow_div_mod getD_map_range)
open Sys2Proof.LatchFills (length_srfBytes)

/-! ## Parts of byte strings -/

theorem take_drop_srfBytes (c : Core) (o : ℕ) {i m n : ℕ} (h : i + m ≤ n) :
    ((srfBytes c o n).drop i).take m = srfBytes c (o + i) m := by
  refine List.ext_getElem ?_ fun k _ _ => ?_
  · simp [length_srfBytes]; omega
  · simp [srfBytes, Nat.add_assoc]

/-- One part of parts of one length. -/
theorem take_drop_flatMap {α β : Type} {f : α → List β} {m : ℕ} {l : List α} (len : ∀ x ∈ l, (f x).length = m) {i : ℕ}
    (h : i < l.length) : ((l.flatMap f).drop (i * m)).take m = f l[i] := by
  induction l generalizing i with
  | nil => cases h
  | cons x l ih =>
    obtain ⟨first, rest⟩ := List.forall_mem_cons.1 len
    cases i with
    | zero => simp [first]
    | succ i =>
      have skip : (i + 1) * m = (f x).length + i * m := by rw [first]; ring
      rw [List.flatMap_cons, skip, List.drop_length_add_append]
      exact ih rest (Nat.lt_of_succ_lt_succ h)

/-! ## Elements of rows (R157) -/

/-- Only the bits of a row's 32 places are read. -/
theorem rowElem_mod (w x : ℕ) {c : ℕ} (h : c < 32) : rowElem w (x % 2 ^ (32 * w)) c = rowElem w x c :=
  mod_two_pow_div_mod x (by nlinarith)

theorem rowElem_lt (w x c : ℕ) : rowElem w x c < 2 ^ w := Nat.mod_lt _ (Nat.two_pow_pos w)

theorem rowElem_zero (w c : ℕ) : rowElem w 0 c = 0 := by rw [rowElem, Nat.zero_div, Nat.zero_mod]

/-- Place c of packed places. -/
theorem rowElem_packBits {w : ℕ} {n : ℕ} {y : ℕ → ℕ} (small : ∀ i < n, y i < 2 ^ w) {c : ℕ} (h : c < n) :
    rowElem w (packBits w ((List.range n).map y)) c = y c := by
  rw [rowElem, packBits_get, getD_map_range h]
  intro x hx
  obtain ⟨i, hi, rfl⟩ := List.mem_map.1 hx
  exact small i (List.mem_range.1 hi)

/-- A part of a pair of places. -/
theorem rowElem_pair (w x p q : ℕ) (hq : q < 2) : rowElem w (rowElem (2 * w) x p) q = rowElem w x (2 * p + q) := by
  have inside : w * q + w ≤ 2 * w := by nlinarith
  rw [rowElem, rowElem, mod_two_pow_div_mod _ inside, Nat.div_div_eq_div_mul, ← pow_add, rowElem]
  congr 3
  ring

/-- Place c of a row whose pairs of places are packed. -/
theorem rowElem_packPairs {w : ℕ} {y : ℕ → ℕ} (small : ∀ i < 16, y i < 2 ^ (2 * w)) {c : ℕ} (h : c < 32) :
    rowElem w (packBits (2 * w) ((List.range 16).map y)) c = rowElem w (y (c / 2)) (c % 2) := by
  rw [← rowElem_packBits small (show c / 2 < 16 by omega), rowElem_pair w _ _ _ (Nat.mod_lt c two_pos), Nat.div_add_mod]

/-- The bytes of a row hold its places. -/
theorem rowElem_leBytes {f : TileFmt} (x : ℕ) {c : ℕ} (h : c < 32) :
    rowElem f.w (leNat (leBytes f.rowBytes x)) c = rowElem f.w x c := by
  rw [leNat_leBytes, show 256 = 2 ^ 8 from rfl, ← pow_mul, TileFmt.rowBytes, show 8 * (4 * f.w) = 32 * f.w by ring,
    rowElem_mod f.w x h]

/-! ## Whole records (R248, R249) -/

theorem headerBytes_length (x : Word) : (headerBytes x).length = 64 := by
  simp [headerBytes]

theorem rowsBytes_length (f : TileFmt) (rows : List (ℕ × ℕ)) :
    (rowsBytes f rows).length = rows.length * f.rowBytes + rows.length * f.scaleRow := by
  rw [rowsBytes, List.length_append, flatMap_length _ _ _ fun _ _ => leBytes_length _ _,
    flatMap_length _ _ _ fun _ _ => leBytes_length _ _]

/-- Row r of encoded rows. -/
theorem row_rowsBytes (f : TileFmt) {rows : List (ℕ × ℕ)} {r : ℕ} (h : r < rows.length) :
    ((rowsBytes f rows).drop (r * f.rowBytes)).take f.rowBytes = leBytes f.rowBytes rows[r].1 := by
  have payload : (r + 1) * f.rowBytes ≤ rows.length * f.rowBytes := Nat.mul_le_mul_right _ h
  have length : (rows.flatMap fun r => leBytes f.rowBytes r.1).length = rows.length * f.rowBytes :=
    flatMap_length _ _ _ fun _ _ => leBytes_length _ _
  rw [Nat.succ_mul] at payload
  rw [rowsBytes, List.drop_append_of_le_length (by omega), List.take_append_of_le_length (by rw [List.length_drop]; omega)]
  exact take_drop_flatMap (fun _ _ => leBytes_length _ _) h

/-- The bytes of a record of 32 rows: its footprint, its header, and the places of its rows. -/
theorem recordBytes_spec {h : Header} {g : TileFmt} (hg : tileFmt h.code = some g) (rows : ℕ → ℕ × ℕ) :
    let b := headerBytes h.toWord ++ rowsBytes g ((List.range 32).map rows)
    b.length = footprint h.code ∧ b.take 64 = headerBytes h.toWord ∧
      ∀ r c, r < 32 → c < 32 →
        rowElem g.w (leNat ((b.drop (64 + r * g.rowBytes)).take g.rowBytes)) c = rowElem g.w (rows r).1 c := by
  have head := headerBytes_length h.toWord
  refine ⟨?_, ?_, fun r c hr hc => ?_⟩
  · rw [List.length_append, head, rowsBytes_length, List.length_map, List.length_range, footprint_of_tileFmt hg]
  · rw [← head, List.take_left]
  · rw [← head, List.drop_length_add_append, row_rowsBytes g (by simpa using hr), rowElem_leBytes _ hc]
    simp

/-- A word that enters the unit with 32 rows writes a record of their places. -/
theorem writesRecord_of_rows {i : Instr} {s : State} {opc : BitVec 8} {lat n dst : ℕ} {h : Header} {g : TileFmt}
    {rows : ℕ → ℕ × ℕ} {e : ℕ → ℕ → ℕ} {fl : Flags} (hg : tileFmt h.code = some g)
    (run : exec i s = .next (transforms s opc lat n ⟨some (xwrite dst h g ((List.range 32).map rows)), fl⟩))
    (places : ∀ r c, r < 32 → c < 32 → rowElem g.w (rows r).1 c = e r c) :
    WritesRecord i s opc lat n dst h e fl := by
  obtain ⟨length, head, elements⟩ := recordBytes_spec hg rows
  exact ⟨_, g, hg, run, length, head, fun r c hr hc => (elements r c hr hc).trans (places r c hr hc)⟩

/-! ## Records that a word reads -/

section
variable {s : State} {o : ℕ} {h : Header} {f : TileFmt}

theorem head_xrecord : (xrecord s o h).head = h := by
  unfold xrecord
  split <;> rfl

/-- The bits of row r of a record. -/
theorem rowBits_xrecord (hf : tileFmt h.code = some f) {r : ℕ} (hr : r < 32) :
    (xrecord s o h).rowBits f r = leNat (srfBytes s.core (o + 64 + r * f.rowBytes) f.rowBytes) := by
  have payload : (r + 1) * f.rowBytes ≤ f.payload := by
    unfold TileFmt.rowBytes TileFmt.payload
    nlinarith
  rw [Nat.succ_mul] at payload
  simp only [xrecord, hf, Record.rowBits]
  rw [take_drop_srfBytes _ _ payload]

/-- A place of a record within its valid region, zero outside. -/
theorem recBits_xrecord (hf : tileFmt h.code = some f) {r : ℕ} (hr : r < 32) (c : ℕ) :
    recBits (xrecord s o h) f r c = if r < h.rows ∧ c < h.validPlaces then elemBits s o f r c else 0 := by
  simp only [recBits, head_xrecord, rowBits_xrecord hf hr, Bool.and_eq_true, decide_eq_true_eq, elemBits]

end

end Sys2Proof.TransformWords
end

section
/-! SUPPORT. Copies and transposes of records (R233, R237). -/

namespace Sys2Proof.TransformWords

open Sys2Proof.Machine Sys2Proof.Safety Sys2Proof.Claims

/-- Row i of the transpose of a record. -/
def transposed (r : Record) (f : TileFmt) (i : ℕ) : ℕ × ℕ :=
  (packBits f.w ((List.range 32).map fun c => recBits r f c i), 0)

theorem rowElem_transposed (r : Record) (f : TileFmt) (i : ℕ) {j : ℕ} (hj : j < 32) :
    rowElem f.w (transposed r f i).1 j = recBits r f j i := by
  refine rowElem_packBits (fun c _ => ?_) hj
  unfold recBits
  split
  · exact rowElem_lt _ _ _
  · exact Nat.two_pow_pos _

section
variable {s : State} {w : RForm} {h : Header} {f : TileFmt} (sound : SoundRecord s (xoffB s w) h)
  (aligned : xoffA s w % 64 = 0) (room : xoffA s w + footprint h.code ≤ 0x300000) (hf : tileFmt h.code = some f)
include sound aligned room hf

theorem xmovPlan_ok :
    xmovPlan s w = .ok ⟨some (atAddr (xoffA s w) (srfBytes s.core (xoffB s w) (footprint h.code))), 0⟩ := by
  have code : (h.code != 0) = true := bne_iff_ne.2 fun zero => by rw [zero] at hf; cases hf
  simp only [xmovPlan, sound.align_pair aligned, sound.source, sound.rawFootprint, xbounds_one room, sound.heads,
    xneed_ok code, sound.tags, sound.cleans, ok_bind, pure, Except.pure]

theorem xtrnPlan_ok (code : h.code ∈ [1, 2, 3, 4, 5, 6, 7, 8, 9, 0x20, 0x21, 0x22, 0x23]) (spatial : h.domain = false) :
    xtrnPlan s w = .ok ⟨some (xwrite (xoffA s w) { h with rows := h.cols, cols := h.rows } f
      ((List.range 32).map (transposed (xrecord s (xoffB s w) h) f))), 0⟩ := by
  have allowed : ((1 ≤ h.code && h.code ≤ 9) || (0x20 ≤ h.code && h.code ≤ 0x23)) = true := by
    simp only [List.mem_cons, List.not_mem_nil, or_false] at code
    simp only [Bool.or_eq_true, Bool.and_eq_true, decide_eq_true_eq]
    omega
  simp only [xtrnPlan, sound.align_pair aligned, sound.source, sound.rawFootprint, xbounds_one room, sound.heads,
    xneed_ok allowed, spatial, sound.tags (ok := !false) rfl, sound.cleans, hf, ok_bind, pure, Except.pure]
  rfl

end

/-- Settles O36: both words pass their checks on a sound record; the copy is its bytes, and row i of the transpose packs
the places i of its rows. -/
theorem movesAndTransposesKeepTheElements : Obligations.MovesAndTransposesKeepTheElements := by
  intro w s h f slot src dst n c hsrc hdst srcFits room head hf plain spatial clean
  have sound : SoundRecord s src h := ⟨hsrc, srcFits, head, plain, clean, fun spectral => by simp [spatial] at spectral⟩
  refine ⟨runX_ok slot (xmovPlan_ok sound hdst room hf), fun code => ?_⟩
  obtain ⟨length, header, elements⟩ :=
    recordBytes_spec (h := { h with rows := h.cols, cols := h.rows }) hf (transposed (xrecord s src h) f)
  refine ⟨_, runX_ok slot (xtrnPlan_ok sound hdst room hf code spatial), length, header, fun i j hi hj => ?_⟩
  have real : h.validPlaces = h.cols := by
    refine if_neg fun complex => ?_
    simp only [complexCode, Bool.or_eq_true, beq_iff_eq] at complex
    simp only [List.mem_cons, List.not_mem_nil, or_false] at code
    omega
  refine (elements i j hi hj).trans ?_
  rw [rowElem_transposed _ _ _ hj, recBits_xrecord hf hj, real]
  rfl

end Sys2Proof.TransformWords
end

section
/-! SUPPORT. Records of floating values: read exactly, and rounded once into their rows (R157, R231, R251). -/

namespace Sys2Proof.TransformWords

open Sys2Proof.Machine Sys2Proof.Safety Sys2Proof.Claims
open Sys2Proof.TileRows (FitsWidth decodeRow_plain deliver_lt)

/-! ## The plain floating formats (R152) -/

/-- The codes of F32, BF16, F16, CBF16 and CF32. -/
abbrev PlainCode (code : ℕ) : Prop := code ∈ [0x02, 0x03, 0x04, 0x28, 0x29]

/-- The format of a plain code. -/
def plainFmt (code : ℕ) : TileFmt := ⟨.flt (plainFlt code), (plainFlt code).width, .plain, complexCode code⟩

theorem tileFmt_plain : ∀ {code : ℕ}, PlainCode code → tileFmt code = some (plainFmt code) := by
  intro code
  revert code
  decide

theorem fmtKF_plain : ∀ {code : ℕ}, PlainCode code → fmtKF code = false := by
  intro code
  revert code
  decide

theorem fitsWidth_plain : ∀ {code : ℕ}, PlainCode code → FitsWidth (plainFlt code) := by
  intro code
  revert code
  decide

theorem fmtReserved_plain (s : State) {code : ℕ} (h : PlainCode code) : fmtReserved s code = false := by
  have unscaled : ∀ code, PlainCode code → fmtMX code = false ∧ fmtListed code = true := by decide
  obtain ⟨mx, listed⟩ := unscaled code h
  simp [fmtReserved, fmtKF_plain h, mx, listed]

theorem plain_of_complexCode {code : ℕ} (h : complexCode code = true) : PlainCode code := by
  simp only [complexCode, Bool.or_eq_true, beq_iff_eq] at h
  rcases h with rfl | rfl <;> decide

/-- The plain formats have infinities and NaNs, so an element is delivered as any result is. -/
theorem narrow_plain {code : ℕ} (h : PlainCode code) (rm : ℕ) (v : FVal) :
    narrow (plainFlt code) rm v = deliver (plainFlt code) rm false v := by
  have special : ∃ i n, (plainFlt code).inf = some i ∧ (plainFlt code).nan = some n := by
    simp only [PlainCode, List.mem_cons, List.not_mem_nil, or_false] at h
    rcases h with rfl | rfl | rfl | rfl | rfl <;> exact ⟨_, _, rfl, rfl⟩
  obtain ⟨i, n, hi, hn⟩ := special
  cases v <;> simp only [narrow, deliver, hi, hn, Option.getD_some]

/-! ## Reading (R251) -/

section
variable {s : State} {o : ℕ} {h : Header}

/-- Place c of row r of a record as its readers take it: a zero outside the valid region. -/
def placeVal (s : State) (o : ℕ) (h : Header) (r c : ℕ) : FVal :=
  if r < h.rows ∧ c < h.validPlaces then (elemVal s o h (plainFmt h.code) r c).v else .fin false 0 0

theorem row_xrecord (plain : PlainCode h.code) {r : ℕ} (hr : r < 32) :
    (xrecord s o h).row (plainFmt h.code) r = ((List.range 32).map (placeVal s o h r), false) := by
  rw [Record.row, head_xrecord]
  split
  case isTrue beyond =>
    have zeros : (List.range 32).map (placeVal s o h r) = (List.range 32).map fun _ => .fin false 0 0 :=
      List.map_congr_left fun c _ => if_neg fun valid => not_lt.2 beyond valid.1
    rw [zeros]
    rfl
  case isFalse inside =>
    rw [decodeRow_plain _ _ _ rfl, rowBits_xrecord (tileFmt_plain plain) hr]
    refine Prod.ext (List.ext_getElem ?_ fun c _ _ => ?_) rfl
    · simp
    · simp only [List.getElem_map, List.getElem_zipIdx, List.getElem_range, placeVal, not_le.1 inside, true_and, zero_add]
      rfl

/-- A valid row without invalid places. -/
theorem recRow_xrecord (plain : PlainCode h.code) (full : h.validPlaces = 32) {r : ℕ} (hr : r < 32) (valid : r < h.rows) :
    recRow (xrecord s o h) (plainFmt h.code) r = (List.range 32).map (elemVal s o h (plainFmt h.code) r) := by
  rw [recRow, row_xrecord plain hr, List.map_map]
  refine List.map_congr_left fun c hc => ?_
  simp only [Function.comp_apply, placeVal, valid, full, List.mem_range.1 hc, and_self, if_true]
  rfl

end

/-! ## Writing (R231, R251) -/

theorem orFlags_flatMap {α : Type} (l : List α) (f : α → List Flags) :
    orFlags (l.flatMap f) = orFlags (l.map fun x => orFlags (f x)) := by
  apply BitVec.eq_of_getLsbD_eq
  intro i _
  simp [orFlags_getLsbD, Function.comp_def]

theorem orFlags_or {α : Type} (l : List α) (f g : α → Flags) :
    orFlags (l.map fun x => f x ||| g x) = orFlags (l.map f) ||| orFlags (l.map g) := by
  apply BitVec.eq_of_getLsbD_eq
  intro i _
  rw [Bool.eq_iff_iff]
  simp only [BitVec.getLsbD_or, orFlags_getLsbD, List.any_map, Bool.or_eq_true, List.any_eq_true, Function.comp_apply,
    and_or_left, exists_or]

/-- A row of values rounded into a plain format. -/
def roundedRow (code rm : ℕ) (v : ℕ → FVal) : ℕ :=
  packBits (plainFlt code).width ((List.range 32).map fun c => (deliver (plainFlt code) rm false (v c)).1)

theorem encodeRow_plain {code : ℕ} (h : PlainCode code) (rm : ℕ) (band : FVal) (v : ℕ → FVal) :
    encodeRow (plainFmt code) rm band ((List.range 32).map v) =
      (roundedRow code rm v, 0, orFlags ((List.range 32).map fun c => (deliver (plainFlt code) rm false (v c)).2)) := by
  have element : (plainFmt code).elem.encode rm = deliver (plainFlt code) rm false := funext (narrow_plain h rm)
  simp only [encodeRow, element, List.map_map]
  rfl

theorem rowElem_roundedRow {code : ℕ} (h : PlainCode code) (rm : ℕ) (v : ℕ → FVal) {c : ℕ} (hc : c < 32) :
    rowElem (plainFmt code).w (roundedRow code rm v) c = (deliver (plainFlt code) rm false (v c)).1 :=
  rowElem_packBits (fun _ _ => deliver_lt (fitsWidth_plain h) rm false _) hc

/-- Rows of values, each rounded once. -/
theorem xencode_plain {code : ℕ} (h : PlainCode code) (rm : ℕ) (x : ℕ → ℕ → XVal) :
    xencode (plainFmt code) rm ((List.range 32).map fun r => (List.range 32).map (x r)) =
      ((List.range 32).map fun r => (roundedRow code rm fun c => (x r c).v, 0),
        orFlags ((List.range 32).flatMap fun r => (List.range 32).map fun c =>
          (deliver (plainFlt code) rm false (x r c).v).2 ||| (x r c).fl)) := by
  simp only [xencode, List.map_map, Function.comp_def, encodeRow_plain h, orFlags_flatMap, orFlags_or]

/-- A zero of either format is the code 0 and raises nothing. -/
theorem deliver_zero (f : FFmt) (rm : ℕ) (e : ℤ) : deliver f rm false (.fin false 0 e) = (0, 0) := rfl

/-- A word that enters the unit with rounded rows writes them as values. -/
theorem writesValues_of_rows {i : Instr} {s : State} {opc : BitVec 8} {lat n rm dst : ℕ} {h : Header}
    (plain : PlainCode h.code) {inside : ℕ → ℕ → Bool} {x y : ℕ → ℕ → XVal}
    (run : let out := xencode (plainFmt h.code) rm ((List.range 32).map fun r => (List.range 32).map (y r))
      exec i s = .next (transforms s opc lat n ⟨some (xwrite dst h (plainFmt h.code) out.1), out.2⟩))
    (valid : ∀ r c, r < 32 → c < 32 → inside r c = true → y r c = x r c)
    (zero : ∀ r c, r < 32 → c < 32 → inside r c = false → ∃ e, y r c = ⟨.fin false 0 e, 0⟩) :
    WritesValues i s opc lat n rm dst h inside x := by
  have place (r c : ℕ) (hr : r < 32) (hc : c < 32) :
      (deliver (plainFlt h.code) rm false (y r c).v).1 =
          (if inside r c then (deliver (plainFlt h.code) rm false (x r c).v).1 else 0) ∧
        (deliver (plainFlt h.code) rm false (y r c).v).2 ||| (y r c).fl =
          if inside r c then (deliver (plainFlt h.code) rm false (x r c).v).2 ||| (x r c).fl else 0 := by
    cases within : inside r c with
    | true => rw [valid r c hr hc within, if_pos rfl, if_pos rfl]; exact ⟨rfl, rfl⟩
    | false =>
      obtain ⟨e, value⟩ := zero r c hr hc within
      rw [value, deliver_zero]
      exact ⟨rfl, BitVec.or_self⟩
  have raised : ((List.range 32).flatMap fun r => (List.range 32).map fun c =>
      (deliver (plainFlt h.code) rm false (y r c).v).2 ||| (y r c).fl) =
      (List.range 32).flatMap fun r => (List.range 32).map fun c =>
        if inside r c then (deliver (plainFlt h.code) rm false (x r c).v).2 ||| (x r c).fl else 0 :=
    List.flatMap_congr fun r hr => List.map_congr_left fun c hc =>
      (place r c (List.mem_range.1 hr) (List.mem_range.1 hc)).2
  simp only [xencode_plain plain, raised] at run
  simp only [WritesValues]
  refine writesRecord_of_rows (rows := fun r => (roundedRow h.code rm fun c => (y r c).v, 0)) (tileFmt_plain plain) run
    fun r c hr hc => ?_
  rw [rowElem_roundedRow plain rm _ hc]
  exact (place r c hr hc).1

end Sys2Proof.TransformWords
end

section
/-! SUPPORT. The arithmetic of the transform unit, and its butterflies as the loops of the pseudocode (R230). -/

namespace Sys2Proof.TransformWords

open Sys2Proof.Machine Sys2Proof.Safety Sys2Proof.Claims
open Sys2Proof.TilePasses (getD_map_range)

/-! ## Operations (R230) -/

theorem unitArithmetic : UnitArithmetic := by
  refine ⟨fun a b => ⟨rfl, rfl, rfl⟩, fun x y => ⟨rfl, rfl, rfl, rfl, rfl, rfl⟩, ?_⟩
  decide +kernel

/-! ## One stage of butterflies -/

/-- The twiddle factor of butterfly j in a group of m places. -/
def twiddle (inv : Bool) (m j : ℕ) : XPair := if inv then pairConj (tw (32 * j / m)) else tw (32 * j / m)

theorem butterfly_eq (inv : Bool) (h g j : ℕ) (u : ℕ → XPair) (n : ℕ) :
    butterfly inv (2 * h) g j u n =
      if n = g + j + h then pairSub (u (g + j)) (cmul (twiddle inv (2 * h) j) (u (g + j + h)))
      else if n = g + j then pairAdd (u (g + j)) (cmul (twiddle inv (2 * h) j) (u (g + j + h))) else u n := by
  rw [butterfly, Nat.mul_div_cancel_left h two_pos]
  rfl

/-- Place n after a stage with pairs of places `h` apart: the first half of each group takes the sums, the second half the
differences. -/
def staged (inv : Bool) (h : ℕ) (u : ℕ → XPair) (n : ℕ) : XPair :=
  if n % (2 * h) < h then pairAdd (u n) (cmul (twiddle inv (2 * h) (n % (2 * h))) (u (n + h)))
  else pairSub (u (n - h)) (cmul (twiddle inv (2 * h) (n % (2 * h) - h)) (u n))

/-- The first `k` butterflies of the group at `g`. -/
def groupLoop (inv : Bool) (h g k : ℕ) (u : ℕ → XPair) : ℕ → XPair :=
  (List.range k).foldl (fun u j => butterfly inv (2 * h) g j u) u

theorem groupLoop_succ (inv : Bool) (h g k : ℕ) (u : ℕ → XPair) :
    groupLoop inv h g (k + 1) u = butterfly inv (2 * h) g k (groupLoop inv h g k u) := by
  rw [groupLoop, List.range_succ, List.foldl_append]
  rfl

/-- A butterfly changes its two places alone, so each place of a group is written once, from the old places. -/
theorem groupLoop_eq (inv : Bool) {h g k : ℕ} (hg : g % (2 * h) = 0) (hk : k ≤ h) (u : ℕ → XPair) (n : ℕ) :
    groupLoop inv h g k u n =
      if g ≤ n ∧ n < g + k ∨ g + h ≤ n ∧ n < g + h + k then staged inv h u n else u n := by
  induction k generalizing n with
  | zero => exact (if_neg (by omega)).symm
  | succ k ih =>
    have before := ih (by omega)
    have low : groupLoop inv h g k u (g + k) = u (g + k) := (before _).trans (if_neg (by omega))
    have high : groupLoop inv h g k u (g + k + h) = u (g + k + h) := (before _).trans (if_neg (by omega))
    have place {j : ℕ} (hj : j < 2 * h) : (g + j) % (2 * h) = j := by
      rw [Nat.add_mod, hg, Nat.zero_add, Nat.mod_mod, Nat.mod_eq_of_lt hj]
    rw [groupLoop_succ, butterfly_eq, low, high, before]
    by_cases second : n = g + k + h
    · have here : n % (2 * h) = k + h := by rw [second, Nat.add_assoc]; exact place (by omega)
      rw [if_pos second, if_pos (by omega), staged, here, if_neg (by omega), Nat.add_sub_cancel, second,
        Nat.add_sub_cancel]
    · by_cases first : n = g + k
      · have here : n % (2 * h) = k := by rw [first]; exact place (by omega)
        rw [if_neg second, if_pos first, if_pos (by omega), staged, here, if_pos (by omega), first]
      · have others : (g ≤ n ∧ n < g + (k + 1) ∨ g + h ≤ n ∧ n < g + h + (k + 1)) ↔
            (g ≤ n ∧ n < g + k ∨ g + h ≤ n ∧ n < g + h + k) := by omega
        rw [if_neg second, if_neg first, if_congr others rfl rfl]

/-- The first `k` groups of a stage. -/
def stageLoop (inv : Bool) (h k : ℕ) (u : ℕ → XPair) : ℕ → XPair :=
  (List.range k).foldl (fun u g => groupLoop inv h (2 * h * g) h u) u

theorem stageLoop_succ (inv : Bool) (h k : ℕ) (u : ℕ → XPair) :
    stageLoop inv h (k + 1) u = groupLoop inv h (2 * h * k) h (stageLoop inv h k u) := by
  rw [stageLoop, List.range_succ, List.foldl_append]
  rfl

/-- A stage reads the places of one group only for the places of that group. -/
theorem staged_congr (inv : Bool) {h n : ℕ} {u v : ℕ → XPair}
    (same : ∀ i, i / (2 * h) = n / (2 * h) → u i = v i) (pos : 0 < h) : staged inv h u n = staged inv h v n := by
  have parts := Nat.div_add_mod n (2 * h)
  have bound := Nat.mod_lt n (show 0 < 2 * h by omega)
  have inGroup {j : ℕ} (hj : j < 2 * h) : (2 * h * (n / (2 * h)) + j) / (2 * h) = n / (2 * h) := by
    rw [Nat.mul_add_div (by omega), Nat.div_eq_of_lt hj, Nat.add_zero]
  unfold staged
  split
  case isTrue low =>
    have above : n + h = 2 * h * (n / (2 * h)) + (n % (2 * h) + h) := by omega
    rw [same n rfl, same (n + h) (above ▸ inGroup (by omega))]
  case isFalse high =>
    have below : n - h = 2 * h * (n / (2 * h)) + (n % (2 * h) - h) := by omega
    rw [same n rfl, same (n - h) (below ▸ inGroup (by omega))]

theorem stageLoop_eq (inv : Bool) {h : ℕ} (pos : 0 < h) (k : ℕ) (u : ℕ → XPair) (n : ℕ) :
    stageLoop inv h k u n = if n < 2 * h * k then staged inv h u n else u n := by
  induction k generalizing n with
  | zero => simp [stageLoop]
  | succ k ih =>
    have next : 2 * h * (k + 1) = 2 * h * k + 2 * h := by ring
    rw [stageLoop_succ, groupLoop_eq inv (Nat.mul_mod_right _ _) le_rfl]
    by_cases here : 2 * h * k ≤ n ∧ n < 2 * h * k + 2 * h
    · have group : n / (2 * h) = k := by
        rw [Nat.div_eq_iff (by omega)]
        exact ⟨by linarith [Nat.mul_comm k (2 * h)], by rw [Nat.mul_comm]; omega⟩
      have untouched (i : ℕ) (hi : i / (2 * h) = n / (2 * h)) : stageLoop inv h k u i = u i := by
        refine (ih i).trans (if_neg (not_lt.2 ?_))
        rw [Nat.mul_comm, ← group, ← hi]
        exact Nat.div_mul_le_self i (2 * h)
      rw [if_pos (by omega), if_pos (by omega), staged_congr inv untouched pos]
    · have others : n < 2 * h * (k + 1) ↔ n < 2 * h * k := by omega
      rw [if_neg (by omega), ih, if_congr others rfl rfl]

/-! ## `fft16` (R230) -/

theorem pairAt_map_range {n k : ℕ} (f : ℕ → XPair) (h : k < n) : pairAt ((List.range n).map f) k = f k :=
  getD_map_range h pairZero

/-- A stage of the unit is the stage of the loops. -/
theorem fftStage_eq (inv : Bool) {h s k : ℕ} (pos : 0 < h) (size : 2 ^ s = 2 * h) (groups : 2 * h * k = 16) (u : ℕ → XPair) :
    fftStage inv ((List.range 16).map u) s = (List.range 16).map (stageLoop inv h k u) := by
  refine List.map_congr_left fun n hn => ?_
  have inside := List.mem_range.1 hn
  have parts := Nat.div_add_mod n (2 * h)
  have whole : n / (2 * h) < k := Nat.div_lt_of_lt_mul (by omega)
  have last : 2 * h * (n / (2 * h)) + 2 * h ≤ 16 := by
    rw [← groups, ← Nat.mul_succ]
    exact Nat.mul_le_mul_left _ whole
  have unit : (if n % 2 ^ s < 2 ^ s / 2
      then pairAdd (pairAt ((List.range 16).map u) n)
        (cmul (twiddle inv (2 ^ s) (n % 2 ^ s)) (pairAt ((List.range 16).map u) (n + 2 ^ s / 2)))
      else pairSub (pairAt ((List.range 16).map u) (n - 2 ^ s / 2))
        (cmul (twiddle inv (2 ^ s) (n % 2 ^ s - 2 ^ s / 2)) (pairAt ((List.range 16).map u) n))) =
      stageLoop inv h k u n := by
    rw [stageLoop_eq inv pos, groups, if_pos inside, size, Nat.mul_div_cancel_left h two_pos, staged,
      pairAt_map_range u inside, pairAt_map_range u (show n - h < 16 by omega)]
    split
    case isTrue low => rw [pairAt_map_range u (by omega)]
    case isFalse high => rfl
  exact unit

/-- The unit's transform of 16 pairs is that of the loops. -/
theorem fft16_eq (z : List XPair) (inv : Bool) : fft16 z inv = (List.range 16).map (fftLoops (pairAt z) inv) := by
  have stages : fftLoops (pairAt z) inv = stageLoop inv 8 1 (stageLoop inv 4 2 (stageLoop inv 2 4 (stageLoop inv 1 8
      fun n => pairAt z (rev4 n)))) := rfl
  rw [stages, ← fftStage_eq inv (s := 4) (by decide) rfl rfl, ← fftStage_eq inv (s := 3) (by decide) rfl rfl,
    ← fftStage_eq inv (s := 2) (by decide) rfl rfl, ← fftStage_eq inv (s := 1) (by decide) rfl rfl]
  rfl

/-- Only the 16 pairs of a row are read. -/
theorem fftLoops_congr {z y : ℕ → XPair} (same : ∀ n < 16, z n = y n) (inv : Bool) : fftLoops z inv = fftLoops y inv := by
  have rows : (fun n => z (rev4 n)) = fun n => y (rev4 n) := funext fun n => same _ (by unfold rev4; omega)
  simp only [fftLoops, rows]

end Sys2Proof.TransformWords
end

section
/-! SUPPORT. Spectra of rows and rows of spectra (R224, R231, R232). -/

namespace Sys2Proof.TransformWords

open Sys2Proof.Machine Sys2Proof.Safety Sys2Proof.Claims

/-! ## Rows of pairs (R221) -/

/-- The pairs of a row of values. -/
def neighbours (x : ℕ → XVal) (n : ℕ) : XPair := ⟨x (2 * n), x (2 * n + 1)⟩

theorem rowPairs_map_range (x : ℕ → XVal) : rowPairs ((List.range 32).map x) = (List.range 16).map (neighbours x) := rfl

theorem flatPairs_map_range (p : ℕ → XPair) : flatPairs ((List.range 16).map p) = (List.range 32).map (partAt p) := rfl

theorem zeroRow_eq : zeroRow = (List.range 32).map fun _ => xzero := rfl

/-- The transform of 16 pairs, listed. -/
theorem fft16_map_range (p : ℕ → XPair) (inv : Bool) :
    fft16 ((List.range 16).map p) inv = (List.range 16).map (fftLoops p inv) := by
  rw [fft16_eq, fftLoops_congr fun n hn => pairAt_map_range p hn]

/-- A list of 16 pairs whose first has a rule of its own. -/
theorem cons_map_range (a : XPair) (f p : ℕ → XPair) (first : a = p 0) (rest : ∀ i < 15, f i = p (i + 1)) :
    a :: (List.range 15).map f = (List.range 16).map p := by
  rw [List.range_succ_eq_map, List.map_cons, List.map_map, first]
  exact congrArg _ (List.map_congr_left fun i hi => rest i (List.mem_range.1 hi))

/-! ## Transforms of a row (R231) -/

section
variable (x : ℕ → XVal) (p : ℕ → XPair) (sc : Bool)

/-- A complex transform scaled by 2^−4, if `down` holds. -/
def halved (down : Bool) (u : ℕ → XPair) (n : ℕ) : XPair := pairScale (u n) (xpow (if down then -4 else 0))

theorem cfwd_eq : cfwd ((List.range 16).map p) sc = (List.range 16).map (halved sc (fftLoops p false)) := by
  rw [cfwd, fft16_map_range, List.map_map]
  rfl

theorem cinv_eq : cinv ((List.range 16).map p) sc = (List.range 16).map (halved (!sc) (fftLoops p true)) := by
  rw [cinv, fft16_map_range, List.map_map]
  cases sc <;> rfl

theorem rfwd_eq : rfwd ((List.range 32).map x) sc = (List.range 16).map (forward x sc) := by
  simp only [rfwd, rowPairs_map_range, fft16_map_range]
  refine cons_map_range _ _ _ ?_ fun i hi => ?_
  · rw [pairAt_map_range _ (by decide)]
    rfl
  · rw [pairAt_map_range _ (show i + 1 < 16 by omega), pairAt_map_range _ (show 16 - (i + 1) < 16 by omega)]
    rfl

/-- The Z of `rinv`: the spectrum of the pairs of a packed spectrum's row. -/
def unpacked (k : ℕ) : XPair :=
  let y := pairConj (p (16 - k))
  if k = 0 then ⟨xadd (p 0).re (p 0).im, xsub (p 0).re (p 0).im⟩
  else pairAdd (pairAdd (p k) y) (muli (cmul (pairConj (tw k)) (pairSub (p k) y)))

theorem rinv_eq : rinv ((List.range 16).map p) sc = (List.range 32).map (partAt (inverse p sc)) := by
  have z := cons_map_range
    ⟨xadd (pairAt ((List.range 16).map p) 0).re (pairAt ((List.range 16).map p) 0).im,
      xsub (pairAt ((List.range 16).map p) 0).re (pairAt ((List.range 16).map p) 0).im⟩
    (fun i =>
      let y := pairConj (pairAt ((List.range 16).map p) (16 - (i + 1)))
      pairAdd (pairAdd (pairAt ((List.range 16).map p) (i + 1)) y)
        (muli (cmul (pairConj (tw (i + 1))) (pairSub (pairAt ((List.range 16).map p) (i + 1)) y))))
    (unpacked p) (by rw [pairAt_map_range _ (by decide)]; rfl) fun i hi => by
      rw [pairAt_map_range _ (show i + 1 < 16 by omega), pairAt_map_range _ (show 16 - (i + 1) < 16 by omega)]
      rfl
  rw [← flatPairs_map_range]
  simp only [rinv, z, fft16_map_range, List.map_map]
  rfl

end

/-! ## The words (R224, R232) -/

theorem validPlaces_full {h : Header} (full : h.cols = maxCols h.code) : h.validPlaces = 32 := by
  rw [Header.validPlaces, full, maxCols]
  split <;> rfl

/-- The spectrum of a row: that of its 32 values, or of its 16 pairs. -/
def spectrum (complex sc : Bool) (x : ℕ → XVal) : ℕ → XPair :=
  if complex then halved sc (fftLoops (neighbours x) false) else forward x sc

theorem spectrum_row (complex sc : Bool) (x : ℕ → XVal) :
    flatPairs (if complex then cfwd (rowPairs ((List.range 32).map x)) sc else rfwd ((List.range 32).map x) sc) =
      (List.range 32).map (partAt (spectrum complex sc x)) := by
  rw [rowPairs_map_range, cfwd_eq, rfwd_eq, ← flatPairs_map_range]
  cases complex <;> rfl

/-- The row of a spectrum: 16 pairs, or 32 values of a packed one. -/
def spatialRow (complex scaled : Bool) (x : ℕ → XVal) : ℕ → XPair :=
  if complex then halved (!scaled) (fftLoops (neighbours x) true) else inverse (neighbours x) scaled

theorem spatialRow_row (complex scaled : Bool) (x : ℕ → XVal) :
    (if complex then flatPairs (cinv (rowPairs ((List.range 32).map x)) scaled)
      else rinv (rowPairs ((List.range 32).map x)) scaled) = (List.range 32).map (partAt (spatialRow complex scaled x)) := by
  rw [rowPairs_map_range, cinv_eq, rinv_eq, flatPairs_map_range]
  cases complex <;> rfl

/-- Rows of values as they stand: the valid rows, then rows of zeros. -/
def rowsThen (rows : ℕ) (y : ℕ → ℕ → XVal) (r : ℕ) : ℕ → XVal := if r < rows then y r else fun _ => xzero

theorem rowsThen_eq {rows : ℕ} {y : ℕ → ℕ → XVal} {f : ℕ → List XVal}
    (valid : ∀ r < 32, r < rows → f r = (List.range 32).map (y r)) :
    ((List.range 32).map fun r => if r < rows then f r else zeroRow) =
      (List.range 32).map fun r => (List.range 32).map (rowsThen rows y r) := by
  refine List.map_congr_left fun r hr => ?_
  unfold rowsThen
  split
  case isTrue inside => exact valid r (List.mem_range.1 hr) inside
  case isFalse => exact zeroRow_eq

/-- Rows of zeros beyond the valid rows are written as zeros. -/
theorem writesValues_of_rowsThen {i : Instr} {s : State} {opc : BitVec 8} {lat n rm dst : ℕ} {h : Header}
    (plain : PlainCode h.code) {y : ℕ → ℕ → XVal}
    (run : let out := xencode (plainFmt h.code) rm ((List.range 32).map fun r => (List.range 32).map (rowsThen h.rows y r))
      exec i s = .next (transforms s opc lat n ⟨some (xwrite dst h (plainFmt h.code) out.1), out.2⟩)) :
    WritesValues i s opc lat n rm dst h (fun r _ => r < h.rows) y := by
  refine writesValues_of_rows plain run (fun r c _ _ inside => ?_) fun r c _ _ beyond => ⟨0, ?_⟩
  · rw [rowsThen, if_pos (of_decide_eq_true inside)]
  · rw [rowsThen, if_neg (of_decide_eq_false beyond)]
    rfl

/-- The values of row r of a word's source. -/
abbrev sourceRow (s : State) (w : RForm) (h : Header) (r : ℕ) : ℕ → XVal := elemVal s (xoffB s w) h (plainFmt h.code) r

section
variable {s : State} {w : RForm} {h : Header} (plain : PlainCode h.code) (sound : SoundRecord s (xoffB s w) h)
  (aligned : xoffA s w % 64 = 0)
include plain sound aligned

theorem xfftPlan_ok {code : ℕ} (type : (if w.ty == 0x12 then 0x29 else 0x28) = code)
    (room : xoffA s w + footprint code ≤ 0x300000) (spatial : h.domain = false) (full : h.cols = maxCols h.code) :
    let sc := w.fn.getLsbD 0
    let out := xencode (plainFmt code) w.rm.toNat ((List.range 32).map fun r => (List.range 32).map
      (rowsThen h.rows (fun r => partAt (spectrum (complexCode h.code) sc (sourceRow s w h r))) r))
    xfftPlan s w = .ok ⟨some (xwrite (xoffA s w) ⟨code, true, !complexCode h.code, sc, h.rows, 16, 0⟩ (plainFmt code) out.1),
      out.2⟩ := by
  intro sc out
  have written : PlainCode code := by rw [← type]; split <;> decide
  have rows := rowsThen_eq (rows := h.rows) (y := fun r => partAt (spectrum (complexCode h.code) sc
      (sourceRow s w h r)))
    (f := fun r => flatPairs (if complexCode h.code
      then cfwd (rowPairs (recRow (xrecord s (xoffB s w) h) (plainFmt h.code) r)) sc
      else rfwd (recRow (xrecord s (xoffB s w) h) (plainFmt h.code) r) sc))
    fun r hr valid => by rw [recRow_xrecord plain (validPlaces_full full) hr valid, spectrum_row]
  simp only [xfftPlan, type, sound.align_pair aligned, sound.source, xbounds_one room, sound.heads,
    xneed_ok (List.contains_iff_mem.2 plain), spatial, sound.tags (ok := !false) rfl, xneed_ok (beq_iff_eq.2 full),
    sound.cleans, tileFmt_plain plain, tileFmt_plain written, ok_bind, pure, Except.pure, sc] at rows ⊢
  rw [rows]

theorem xifftPlan_ok {code : ℕ} (type : xifftCode w.ty = code) (written : PlainCode code)
    (room : xoffA s w + footprint code ≤ 0x300000) (complex : complexCode h.code = true)
    (pairing : (h.packed != complexCode code) = true) (spectral : h.domain = true) (full : h.cols = 16) :
    let out := xencode (plainFmt code) w.rm.toNat ((List.range 32).map fun r => (List.range 32).map
      (rowsThen h.rows (fun r => partAt (spatialRow (complexCode code) h.scaled
        (sourceRow s w h r))) r))
    xifftPlan s w = .ok ⟨some (xwrite (xoffA s w) ⟨code, false, false, false, h.rows, maxCols code, 0⟩ (plainFmt code) out.1),
      out.2⟩ := by
  intro out
  have places : h.validPlaces = 32 := validPlaces_full (by rw [full, maxCols, complex, if_pos rfl])
  have rows := rowsThen_eq (rows := h.rows) (y := fun r => partAt (spatialRow (complexCode code) h.scaled
      (sourceRow s w h r)))
    (f := fun r => if complexCode code
      then flatPairs (cinv (rowPairs (recRow (xrecord s (xoffB s w) h) (plainFmt h.code) r)) h.scaled)
      else rinv (rowPairs (recRow (xrecord s (xoffB s w) h) (plainFmt h.code) r)) h.scaled)
    fun r hr valid => by rw [recRow_xrecord plain places hr valid, spatialRow_row]
  have pairs : (complexCode h.code && h.packed != complexCode code) = true := by rw [complex, pairing]; rfl
  simp only [xifftPlan, type, sound.align_pair aligned, sound.source, xbounds_one room, sound.heads, xneed_ok pairs,
    sound.tags spectral, xneed_ok (beq_iff_eq.2 full), sound.cleans, tileFmt_plain plain, tileFmt_plain written, ok_bind,
    pure, Except.pure]
  rw [rows]

end

/-- The destination codes of `xifft` (R232): of a packed spectrum, and of an unpacked one. -/
theorem xifftCode_packed : ∀ t : BitVec 5, t ∈ [9, 10, 11] →
    xifftCode t = (if t = 9 then 2 else if t = 10 then 3 else 4) ∧ PlainCode (xifftCode t) ∧
      complexCode (xifftCode t) = false := by
  decide

theorem xifftCode_unpacked : ∀ t : BitVec 5, t ∈ [0x11, 0x12] →
    xifftCode t = (if t = 0x12 then 0x29 else 0x28) ∧ PlainCode (xifftCode t) ∧ complexCode (xifftCode t) = true := by
  decide

/-- A sound source in the sense of the statements is a sound record of a plain format. -/
theorem of_soundSource {s : State} {o : ℕ} {h : Header} {f : TileFmt} (source : SoundSource s o h f) :
    PlainCode h.code ∧ SoundRecord s o h ∧ f = plainFmt h.code := by
  obtain ⟨aligned, fits, head, hf, plain, clean, accept⟩ := source
  exact ⟨plain, ⟨aligned, fits, head, fmtKF_plain plain, clean, accept⟩,
    Option.some.inj (hf.symm.trans (tileFmt_plain plain))⟩

theorem transformsComputeTheirSpectra : TransformsComputeTheirSpectra := by
  refine ⟨unitArithmetic, fun w s h f slot => ?_⟩
  intro src dst rm sc x pairs half code real valid source
  obtain ⟨plain, sound, rfl⟩ := of_soundSource source
  refine ⟨fun room spatial full => ?_, fun complex spectral full => ⟨fun packed type room => ?_, fun packed type room => ?_⟩⟩
  · have written : PlainCode code := by unfold code; split <;> decide
    have type : (if w.ty == 0x12 then 0x29 else 0x28) = code := by simp only [beq_iff_eq]; rfl
    refine writesValues_of_rowsThen written ?_
    exact runX_ok slot (xfftPlan_ok plain sound room.1 type room.2 spatial full)
  · obtain ⟨same, written, realCode⟩ := xifftCode_packed w.ty type
    have same : xifftCode w.ty = real w.ty := same
    rw [← same] at room ⊢
    have plan := xifftPlan_ok plain sound room.1 rfl written room.2 complex (by rw [packed, realCode]; rfl) spectral full
    have places : maxCols (xifftCode w.ty) = 32 := by rw [maxCols, realCode]; rfl
    simp only [realCode, places] at plan
    exact writesValues_of_rowsThen written (runX_ok slot plan)
  · obtain ⟨same, written, complexOut⟩ := xifftCode_unpacked w.ty type
    have same : xifftCode w.ty = code := same
    rw [← same] at room ⊢
    have plan := xifftPlan_ok plain sound room.1 rfl written room.2 complex (by rw [packed, complexOut]; rfl) spectral full
    have places : maxCols (xifftCode w.ty) = 16 := by rw [maxCols, complexOut]; rfl
    simp only [complexOut, places] at plan
    exact writesValues_of_rowsThen written (runX_ok slot plan)

end Sys2Proof.TransformWords
end

section
/-! SUPPORT. The words of the conversion stage that write records (R165, R234, R236, R237, R249). -/

namespace Sys2Proof.TransformWords

open Sys2Proof.Machine Sys2Proof.Safety Sys2Proof.Claims

/-! ## `xcvt` (R165, R234) -/

/-- The place is within the valid region of a header. -/
theorem inside_iff {h : Header} {r c : ℕ} :
    (decide (r < h.rows) && decide (c < h.validPlaces)) = true ↔ r < h.rows ∧ c < h.validPlaces := by
  rw [Bool.and_eq_true, decide_eq_true_iff, decide_eq_true_iff]

theorem retag_eq (h : Header) (fn : BitVec 8) :
    retag h fn = if fn.toNat % 4 = 1 then { h with domain := false, packed := false, scaled := false }
      else if fn.toNat % 4 = 2 then { h with domain := true, packed := fn.getLsbD 2, scaled := fn.getLsbD 3 } else h := by
  unfold retag
  split
  case h_1 spatial => rw [if_pos spatial]
  case h_2 spectral => rw [if_neg (by omega), if_pos spectral]
  case h_3 other other' => rw [if_neg other, if_neg other']

/-- A value as the copy path passes it on (R165). -/
def throughF32 (v : FVal) : FVal := decodeFloat fmtF32 (rodd32 v)

theorem throughF32_zero : throughF32 (.fin false 0 0) = .fin false 0 (-149) := by decide

theorem copyRow_plain {code : ℕ} (h : PlainCode code) (rm : ℕ) (band : FVal) (v : ℕ → FVal) :
    copyRow (plainFmt code) rm band ((List.range 32).map v) =
      (roundedRow code rm fun c => throughF32 (v c), 0,
        orFlags ((List.range 32).map fun c => (deliver (plainFlt code) rm false (v c)).2)) := by
  simp only [copyRow, List.map_map, encodeRow_plain h]
  rfl

section
variable {s : State} {w : RForm} {h : Header} (plain : PlainCode h.code) (sound : SoundRecord s (xoffB s w) h)
  (aligned : xoffA s w % 64 = 0)
include plain

/-- The rows of a record converted into another plain format. -/
theorem convertRows_plain {o code : ℕ} (written : PlainCode code) (rm : ℕ) (band : FVal) :
    convertRows (xrecord s o h) (plainFmt h.code) false (plainFmt code) rm band =
      ((List.range 32).map fun r => (roundedRow code rm fun c => throughF32 (placeVal s o h r c), 0),
        orFlags ((List.range 32).flatMap fun r => (List.range 32).map fun c =>
          (deliver (plainFlt code) rm false (placeVal s o h r c)).2)) := by
  have rows : ((List.range 32).map fun i =>
      let (v, sn) := (xrecord s o h).row (plainFmt h.code) i
      let (p, sc, fl) := copyRow (plainFmt code) rm band v
      ((p, sc), fl ||| flagIf sn flSN)) = (List.range 32).map fun r =>
        ((roundedRow code rm fun c => throughF32 (placeVal s o h r c), 0),
          orFlags ((List.range 32).map fun c => (deliver (plainFlt code) rm false (placeVal s o h r c)).2)) := by
    refine List.map_congr_left fun r hr => ?_
    rw [row_xrecord plain (List.mem_range.1 hr)]
    simp only [copyRow_plain written]
    exact congrArg _ BitVec.or_zero
  simp only [convertRows, Bool.false_eq_true, if_false, rows, List.map_map, orFlags_flatMap]
  rfl

include sound aligned

theorem xcvtPlan_ok (written : PlainCode w.c.toNat) (room : xoffA s w + footprint w.c.toNat ≤ 0x300000)
    (other : w.c.toNat ≠ h.code) (kind : complexCode w.c.toNat = complexCode h.code)
    (spectral : w.fn.toNat % 4 = 2 → complexCode w.c.toNat = true) :
    let out := convertRows (xrecord s (xoffB s w) h) (plainFmt h.code) false (plainFmt w.c.toNat) w.rm.toNat
      (decodeFloat fmtBF16 0)
    xcvtPlan s w = .ok ⟨some (xwrite (xoffA s w) { retag h w.fn with code := w.c.toNat, band := 0 } (plainFmt w.c.toNat)
      out.1), out.2⟩ := by
  intro out
  have kf := fmtKF_plain written
  have coded : (h.code != 0 && complexCode h.code == complexCode w.c.toNat) = true := by
    have nonzero : h.code ≠ 0 := fun zero => absurd plain (by rw [zero]; decide)
    simp [nonzero, kind]
  have domain : h.domain = true → complexCode w.c.toNat = true := fun hd => by
    have r222 := (headerCheck_spec sound.head).1
    rw [kind]
    by_contra complex
    simp [headerDomainBad, hd, Bool.not_eq_true _ ▸ complex] at r222
  have tags : (!(w.fn.toNat % 4 == 0 && h.domain && !complexCode w.c.toNat) &&
      !(w.fn.toNat % 4 == 2 && !complexCode w.c.toNat)) = true := by
    cases complex : complexCode w.c.toNat with
    | true => simp
    | false =>
      have keep : h.domain = false := by
        by_contra hd
        rw [domain (by simpa using hd)] at complex
        cases complex
      have spec : w.fn.toNat % 4 ≠ 2 := fun how => by rw [spectral how] at complex; cases complex
      simp [keep, spec]
  have listed : (!fmtReserved s w.c.toNat) = true := by rw [fmtReserved_plain s written]; rfl
  have differs : (w.c.toNat == h.code && (0 : ℕ) == h.band) = false := by rw [beq_false_of_ne other, Bool.false_and]
  simp only [xcvtPlan, sound.align_pair aligned, sound.source, xbounds_one room, sound.heads, xneed_ok listed,
    xneed_ok coded, sound.tags tags, kf, Bool.false_eq_true, if_false, Bool.not_false, Bool.true_or,
    xneed_ok (ok := true) rfl, sound.cleans, tileFmt_plain plain, tileFmt_plain written, differs, ok_bind, pure, Except.pure]
  rfl

/-- `xcvt` writes the converted places of the valid region, and zeros outside. -/
theorem xcvt_writesRecord (slot : InSlot s w.guard) (written : PlainCode w.c.toNat)
    (room : xoffA s w + footprint w.c.toNat ≤ 0x300000) (other : w.c.toNat ≠ h.code)
    (kind : complexCode w.c.toNat = complexCode h.code) (spectral : w.fn.toNat % 4 = 2 → complexCode w.c.toNat = true) :
    let inside (r c : ℕ) : Bool := r < h.rows && c < h.validPlaces
    let x (r c : ℕ) : FVal := (elemVal s (xoffB s w) h (plainFmt h.code) r c).v
    WritesRecord (.xcvt w) s 0xA3 12 4 (xoffA s w) { retag h w.fn with code := w.c.toNat, band := 0 }
      (fun r c => if inside r c then (deliver (plainFlt w.c.toNat) w.rm.toNat false (throughF32 (x r c))).1 else 0)
      (orFlags ((List.range 32).flatMap fun r => (List.range 32).map fun c =>
        if inside r c then (deliver (plainFlt w.c.toNat) w.rm.toNat false (x r c)).2 else 0)) := by
  intro inside x
  have plan := xcvtPlan_ok plain sound aligned written room other kind spectral
  have raised : ((List.range 32).flatMap fun r => (List.range 32).map fun c =>
      (deliver (plainFlt w.c.toNat) w.rm.toNat false (placeVal s (xoffB s w) h r c)).2) =
      (List.range 32).flatMap fun r => (List.range 32).map fun c =>
        if inside r c then (deliver (plainFlt w.c.toNat) w.rm.toNat false (x r c)).2 else 0 := by
    refine List.flatMap_congr fun r _ => List.map_congr_left fun c _ => ?_
    simp only [placeVal, inside, inside_iff]
    split
    · rfl
    · rw [deliver_zero]
  simp only [convertRows_plain plain written, raised] at plan
  refine writesRecord_of_rows (tileFmt_plain written) (runX_ok slot plan) fun r c hr hc => ?_
  rw [rowElem_roundedRow written _ _ hc]
  simp only [placeVal, inside, inside_iff]
  split
  · rfl
  · rw [throughF32_zero, deliver_zero]

/-! ## `xscl` (R236) -/

theorem xsclPlan_ok (up : Bool) (room : xoffA s w + footprint h.code ≤ 0x300000) (complex : complexCode h.code = true)
    (spectral : h.domain = true) (scaled : h.scaled = up) :
    let n : ℤ := if h.packed then 5 else 4
    let out := xencode (plainFmt h.code) w.rm.toNat ((List.range 32).map fun r => (List.range 32).map fun c =>
      (⟨(placeVal s (xoffB s w) h r c).scale (if up then n else -n), 0⟩ : XVal))
    xsclPlan up s w = .ok ⟨some (xwrite (xoffA s w) { h with scaled := !up } (plainFmt h.code) out.1), out.2⟩ := by
  intro n out
  have rows : ((List.range 32).map fun i => (recRow (xrecord s (xoffB s w) h) (plainFmt h.code) i).map fun x =>
      (⟨x.v.scale (if up then n else -n), 0⟩ : XVal)) = (List.range 32).map fun r => (List.range 32).map fun c =>
        (⟨(placeVal s (xoffB s w) h r c).scale (if up then n else -n), 0⟩ : XVal) := by
    refine List.map_congr_left fun r hr => ?_
    rw [recRow, row_xrecord plain (List.mem_range.1 hr), List.map_map, List.map_map]
    rfl
  have tags : (h.domain && h.scaled == up) = true := by rw [spectral, scaled]; simp
  simp only [xsclPlan, sound.align_pair aligned, sound.source, sound.rawFootprint, xbounds_one room, sound.heads,
    xneed_ok complex, sound.tags tags, sound.cleans, tileFmt_plain plain, ok_bind, pure, Except.pure]
  rw [rows]

end

/-! ## `xhdr` (R237, R249) -/

theorem crcBit_lt (c : ℕ) (b : Bool) : crcBit c b < 2 ^ 16 := by
  have shifted : c * 2 % 2 ^ 16 < 2 ^ 16 := Nat.mod_lt _ (by decide)
  unfold crcBit
  dsimp only
  split
  · exact Nat.xor_lt_two_pow shifted (by decide)
  · exact shifted

theorem foldl_crcBit_lt {f : ℕ → Bool} {l : List ℕ} {c : ℕ} (h : c < 2 ^ 16) :
    l.foldl (fun c i => crcBit c (f i)) c < 2 ^ 16 := by
  induction l generalizing c with
  | nil => exact h
  | cons i l ih => exact ih (crcBit_lt c (f i))

theorem crc16_lt (b : List Byte) : crc16 b < 2 ^ 16 := by
  have fold (b : List Byte) : ∀ c < 2 ^ 16, b.foldl crcByte c < 2 ^ 16 := by
    induction b with
    | nil => exact fun c h => h
    | cons x b ih => exact fun c h => ih _ (foldl_crcBit_lt h)
  exact fold b _ (by decide)

/-- A header: its first word, 54 zero bytes, and the CRC of both. -/
theorem headerBytes_spec (x : Word) :
    leNat ((headerBytes x).take 8) = x.toNat ∧ ((headerBytes x).drop 8).take 54 = List.replicate 54 0 ∧
      leNat ((headerBytes x).drop 62) = crc16 ((headerBytes x).take 62) := by
  set b := leBytes 8 x.toNat ++ List.replicate 54 (0 : Byte) with hb
  have length : b.length = 62 := by simp [hb]
  have whole : headerBytes x = b ++ leBytes 2 (crc16 b) := rfl
  have first : (headerBytes x).take 62 = b := by rw [whole, ← length, List.take_left]
  refine ⟨?_, ?_, ?_⟩
  · have word : (headerBytes x).take 8 = leBytes 8 x.toNat := rfl
    rw [word, leNat_leBytes]
    exact Nat.mod_eq_of_lt x.isLt
  · rfl
  · rw [first, whole, ← length, List.drop_left, leNat_leBytes]
    exact Nat.mod_eq_of_lt (crc16_lt b)

theorem xhdrPlan_ok {s : State} {w : RForm} (aligned : xoffA s w % 64 = 0) (room : xoffA s w + 64 ≤ 0x300000)
    (fields : headerBad s (readR s w.b) = false) (domain : headerDomainBad (Header.ofWord (readR s w.b)) = false)
    (mode : (Header.ofWord (readR s w.b)).domain = true → s.md.faccept.getLsbD 0 = true) :
    xhdrPlan s w = .ok ⟨some (atAddr (xoffA s w) (headerBytes (readR s w.b))), 0⟩ := by
  have good : (!headerBad s (readR s w.b)) = true := by rw [fields]; rfl
  simp only [xhdrPlan, xalign_ok (l := [xoffA s w]) (by simpa using aligned), xbounds_one room, xneed_ok good, domain,
    xtags_ok (heads := [(Header.ofWord (readR s w.b), false)]) rfl (by simpa using mode) (by simp), ok_bind, pure, Except.pure]

/-- A header word with the fields of R237 and no bit beside them. -/
theorem headerBad_plain (s : State) {x : Word} (plain : PlainCode (fld x 0 7)) (reserved : x &&& headerReserved = 0)
    (rows : 1 ≤ fld x 16 6 ∧ fld x 16 6 ≤ 32) (cols : 1 ≤ fld x 24 6 ∧ fld x 24 6 ≤ maxCols (fld x 0 7))
    (band : fld x 32 16 = 0) : headerBad s x = false := by
  have kf := fmtKF_plain plain
  simp only [headerBad, Header.ofWord, reserved, fmtReserved_plain s plain, kf, band, Bool.or_eq_false_iff, bne_self_eq_false,
    beq_eq_false_iff_ne, decide_eq_false_iff_not, true_and, and_true, Bool.false_eq_true, if_false]
  omega

/-! ## The words -/

theorem conversionStageWordsWriteRecords : ConversionStageWordsWriteRecords := by
  intro w s h f slot src dst rm code how inside x tagged n scaled v
  refine ⟨fun source room written other kind spectral => ?_, fun source room complex spectral => ?_,
    fun room plain reserved rows rows' cols cols' band domain tags => ?_, by decide +kernel⟩
  · obtain ⟨plain, sound, rfl⟩ := of_soundSource source
    have header : { retag h w.fn with code := code, band := 0 } = tagged := by
      have band : h.band = 0 := (headerCheck_spec sound.head).2 sound.plain
      obtain ⟨c, d, p, sc, r, cs, b⟩ := h
      obtain rfl : b = 0 := band
      simp only [tagged, retag_eq, how]
      split_ifs <;> rfl
    rw [← header]
    exact xcvt_writesRecord plain sound room.1 slot written room.2 other kind spectral
  · obtain ⟨plain, sound, rfl⟩ := of_soundSource source
    have values (up : Bool) (i : Instr) (word : exec i s = runX 0xA5 12 4 (xsclPlan up) w s) (tag : h.scaled = up) :
        WritesValues i s 0xA5 12 4 rm dst { h with scaled := !up } inside (scaled (if up then n else -n)) := by
      have plan := xsclPlan_ok plain sound room.1 up room.2 complex spectral tag
      refine writesValues_of_rows (h := { h with scaled := !up }) plain
        (y := fun r c => ⟨(placeVal s (xoffB s w) h r c).scale (if up then n else -n), 0⟩)
        (word.trans (runX_ok slot plan)) (fun r c _ _ within => ?_) fun r c _ _ without =>
          ⟨0 + (if up then n else -n), ?_⟩
      · rw [placeVal, if_pos (inside_iff.1 within)]
        rfl
      · rw [placeVal, if_neg fun within => Bool.eq_false_iff.1 without (inside_iff.2 within)]
        rfl
    exact ⟨values false _ rfl, values true _ rfl⟩
  · have sound : headerDomainBad (Header.ofWord v) = false := by
      have complex : bit v 8 = true → complexCode (fld v 0 7) = true := fun hd => (domain hd).1
      simp only [headerDomainBad, Header.ofWord]
      cases hd : bit v 8 with
      | true => simp [complex hd]
      | false =>
        obtain ⟨packed, scaled⟩ := tags hd
        simp [packed, scaled]
    obtain ⟨word, zeros, crc⟩ := headerBytes_spec v
    exact ⟨headerBytes v, runX_ok slot (xhdrPlan_ok room.1 room.2
      (headerBad_plain s plain reserved ⟨rows, rows'⟩ ⟨cols, cols'⟩ band) sound fun hd => (domain hd).2),
      headerBytes_length v, word, zeros, crc⟩

end Sys2Proof.TransformWords
end

section
/-! SUPPORT. The turn and the back: two rows of each of 16 records (R233). -/

namespace Sys2Proof.TransformWords

open Sys2Proof.Machine Sys2Proof.Safety Sys2Proof.Claims

/-! ## The records of a turn or a back -/

/-- The offset of record i from a base register. -/
def recordAt (s : State) (w : RForm) (base : BitVec 6) (i : ℕ) : ℕ :=
  (readR s base + readR s w.c * BitVec.ofNat 64 i).toNat

theorem slotRecords_eq (s : State) (w : RForm) (base : BitVec 6) :
    slotRecords s w (readR s base) = (List.range 16).map (recordAt s w base) := rfl

/-- What holds of each record holds of the list. -/
theorem forall_slotRecords {s : State} {w : RForm} {base : BitVec 6} {p : ℕ → Prop}
    (each : ∀ i < 16, p (recordAt s w base i)) : ∀ o ∈ slotRecords s w (readR s base), p o := by
  rw [slotRecords_eq]
  intro o ho
  obtain ⟨i, hi, rfl⟩ := List.mem_map.1 ho
  exact each i (List.mem_range.1 hi)

/-- Headers that R222 allows, as the checks list them. -/
def slotHeads (g : ℕ → Header) : List (Header × Bool) := (List.range 16).map fun i => (g i, false)

/-- What holds of each header holds of the list. -/
theorem all_slotHeads {g : ℕ → Header} {p : Header × Bool → Bool} (each : ∀ i < 16, p (g i, false) = true) :
    (slotHeads g).all p = true :=
  List.all_eq_true.2 fun x hx => by
    obtain ⟨i, hi, rfl⟩ := List.mem_map.1 hx
    exact each i (List.mem_range.1 hi)

theorem slotHeads_sound {g : ℕ → Header} : ∀ x ∈ slotHeads g, x.2 = false := by
  intro x hx
  obtain ⟨i, -, rfl⟩ := List.mem_map.1 hx
  rfl

theorem slotHeads_getElem? {g : ℕ → Header} {i : ℕ} (hi : i < 16) : (slotHeads g)[i]? = some (g i, false) := by
  simp [slotHeads, hi]

/-- A record whose two rows from r0 on a turn or a back touches: its header `g` passes, and agrees with `h` in format and
tags. -/
structure SlotRecord (s : State) (h : Header) (r0 o : ℕ) (g : Header) : Prop where
  aligned : o % 64 = 0
  headFits : o + 64 ≤ 0x300000
  rowsFit : rowOff (plainFmt h.code) o r0 + 2 * (plainFmt h.code).rowBytes ≤ 0x300000
  clean : s.core.srfBad o 64 = false
  head : headerCheck s (srfBytes s.core o 64) = .ok g
  code : g.code = h.code
  domain : g.domain = h.domain
  scaled : g.scaled = h.scaled
  packed : g.packed = h.packed

section
variable {s : State} {w : RForm} {h : Header} {base : BitVec 6} {r0 : ℕ} {g : ℕ → Header}
  (complex : complexCode h.code = true) (records : ∀ i < 16, SlotRecord s h r0 (recordAt s w base i) (g i))
include complex records

theorem xtwoRows_ok {i : ℕ} (hi : i < 16) : xtwoRows h.code (recordAt s w base i) r0 = .ok () := by
  rw [xtwoRows, tileFmt_plain (plain_of_complexCode complex)]
  exact xbounds_ok (by simp [(records i hi).headFits, (records i hi).rowsFit])

theorem xheads_ok : xheads s (slotRecords s w (readR s base)) = .ok (slotHeads g) := by
  have plain := fmtKF_plain (plain_of_complexCode complex)
  refine mapM_map_ok fun i hi => ?_
  have record := records i (List.mem_range.1 hi)
  exact xhead_ok record.head (by rw [record.code, plain])

end

/-! ## Rows that a turn and a back write -/

/-- Row r0 + k of record x after a turn: pair x of the source's rows from 16·k on, zero outside the valid region of `g`. -/
def turned (r : Record) (f : TileFmt) (r0 x : ℕ) (g : Header) (k : ℕ) : ℕ :=
  packBits (2 * f.w) ((List.range 16).map fun c =>
    if r0 + k < g.rows && c < g.cols then rowElem (2 * f.w) (r.rowBits f (16 * k + c)) x else 0)

/-- The bytes of the two rows. -/
def turnedRows (r : Record) (f : TileFmt) (r0 x : ℕ) (g : Header) : List Byte :=
  leBytes f.rowBytes (turned r f r0 x g 0) ++ leBytes f.rowBytes (turned r f r0 x g 1)

theorem turnedRows_length (r : Record) (f : TileFmt) (r0 x : ℕ) (g : Header) :
    (turnedRows r f r0 x g).length = 2 * f.rowBytes := by
  rw [turnedRows, List.length_append, leBytes_length, leBytes_length, two_mul]

theorem row_turnedRows (r : Record) (f : TileFmt) (r0 x : ℕ) (g : Header) {k : ℕ} (hk : k < 2) :
    ((turnedRows r f r0 x g).drop (k * f.rowBytes)).take f.rowBytes = leBytes f.rowBytes (turned r f r0 x g k) := by
  obtain rfl | rfl : k = 0 ∨ k = 1 := by omega
  · rw [Nat.zero_mul, List.drop_zero, turnedRows, List.take_left' (leBytes_length _ _)]
  · rw [Nat.one_mul, turnedRows, List.drop_left' (leBytes_length _ _), List.take_of_length_le (leBytes_length _ _).le]

/-- A place of a turned row. -/
theorem rowElem_turned {s : State} {o : ℕ} {h : Header} {f : TileFmt} (hf : tileFmt h.code = some f) (r0 x : ℕ) (g : Header)
    {k c : ℕ} (hk : k < 2) (hc : c < 32) :
    rowElem f.w (turned (xrecord s o h) f r0 x g k) c = if r0 + k < g.rows ∧ c / 2 < g.cols
      then elemBits s o f (16 * k + c / 2) (2 * x + c % 2) else 0 := by
  have small (i : ℕ) : (if r0 + k < g.rows && i < g.cols then rowElem (2 * f.w) ((xrecord s o h).rowBits f (16 * k + i)) x
      else 0) < 2 ^ (2 * f.w) := by
    split
    · exact rowElem_lt _ _ _
    · exact Nat.two_pow_pos _
  rw [turned, rowElem_packPairs (fun i _ => small i) hc]
  simp only [Bool.and_eq_true, decide_eq_true_eq]
  split
  · rw [rowElem_pair _ _ _ _ (Nat.mod_lt c two_pos), rowBits_xrecord hf (by omega)]
    rfl
  · exact rowElem_zero _ _

theorem zipIdx_map_range {α : Type} (a : ℕ → α) (n : ℕ) :
    ((List.range n).map a).zipIdx = (List.range n).map fun i => (a i, i) :=
  List.ext_getElem (by simp) fun i _ _ => by simp

/-- Row n of a back: pair n mod 16 of row r0 + n / 16 of each record. -/
def gathered (s : State) (w : RForm) (f : TileFmt) (n : ℕ) : ℕ × ℕ :=
  (packBits (2 * f.w) ((List.range 16).map fun i => rowElem (2 * f.w)
    (leNat (srfBytes s.core (rowOff f (recordAt s w w.b i) (turnRow s w + n / 16)) f.rowBytes)) (n % 16)), 0)

theorem rowElem_gathered (s : State) (w : RForm) (f : TileFmt) (n : ℕ) {c : ℕ} (hc : c < 32) :
    rowElem f.w (gathered s w f n).1 c =
      elemBits s (recordAt s w w.b (c / 2)) f (turnRow s w + n / 16) (2 * (n % 16) + c % 2) := by
  rw [gathered, rowElem_packPairs (fun _ _ => rowElem_lt _ _ _) hc, rowElem_pair _ _ _ _ (Nat.mod_lt c two_pos)]
  rfl

/-! ## The plans of both -/

section
variable {s : State} {w : RForm} {h : Header} {g : ℕ → Header} (complex : complexCode h.code = true)
  (spectral : h.domain = true) (even : turnRow s w % 2 = 0)
include complex spectral even

theorem xturnPlan_ok (sound : SoundRecord s (xoffB s w) h) (rows : h.rows = 32) (cols : h.cols = 16)
    (records : ∀ i < 16, SlotRecord s h (turnRow s w) (recordAt s w w.a i) (g i)) :
    xturnPlan s w = .ok ⟨some ((List.range 16).flatMap fun i =>
      atAddr (rowOff (plainFmt h.code) (recordAt s w w.a i) (turnRow s w))
        (turnedRows (xrecord s (xoffB s w) h) (plainFmt h.code) (turnRow s w) i (g i))), 0⟩ := by
  have align : xalign (xoffB s w :: slotRecords s w (readR s w.a)) = .ok () :=
    xalign_ok (List.forall_mem_cons.2 ⟨sound.aligned, forall_slotRecords fun i hi => (records i hi).aligned⟩)
  have bounds : (slotRecords s w (readR s w.a)).forM (fun o => xtwoRows (rawCode s (xoffB s w)) o (turnRow s w)) = .ok () := by
    rw [rawCode_eq sound.head]
    exact forM_ok (forall_slotRecords fun i hi => xtwoRows_ok complex records hi)
  have heads : xheads s (xoffB s w :: slotRecords s w (readR s w.a)) =
      .ok ((h, false) :: slotHeads g) := by
    rw [xheads, List.mapM_cons, sound.heads]
    exact congrArg (fun r => r >>= fun l => pure ((h, false) :: l)) (xheads_ok complex records)
  have codes : (complexCode h.code && ((h, false) :: slotHeads g).all
      fun x => x.1.code == h.code) = true := by
    rw [List.all_cons, all_slotHeads (p := fun x => x.1.code == h.code) fun i hi => beq_iff_eq.2 (records i hi).code, complex]
    simp
  have tags : (h.domain && ((h, false) :: slotHeads g).all
      fun x => sameTags x.1 h) = true := by
    have same (i : ℕ) (hi : i < 16) : sameTags (g i) h = true := by
      simp [sameTags, (records i hi).domain, (records i hi).scaled]
    rw [List.all_cons, all_slotHeads (p := fun x => sameTags x.1 h) same, spectral]
    simp [sameTags]
  have packs : (((h, false) :: slotHeads g).all fun x => x.1.packed == h.packed) = true := by
    rw [List.all_cons, all_slotHeads (p := fun x => x.1.packed == h.packed) fun i hi => beq_iff_eq.2 (records i hi).packed]
    simp
  have clean : xclean s ((xoffB s w, footprint h.code) :: (slotRecords s w (readR s w.a)).map fun o => (o, 64)) = .ok () := by
    refine xclean_ok (List.forall_mem_cons.2 ⟨sound.clean, fun x hx => ?_⟩)
    obtain ⟨o, ho, rfl⟩ := List.mem_map.1 hx
    exact forall_slotRecords (p := fun o => s.core.srfBad o 64 = false) (fun i hi => (records i hi).clean) o ho
  have passes : xtags s ((h, false) :: slotHeads g) (h.domain && ((h, false) :: slotHeads g).all fun x => sameTags x.1 h) =
      .ok () :=
    xtags_ok tags (fun _ _ _ => sound.accept spectral) (List.forall_mem_cons.2 ⟨rfl, slotHeads_sound⟩)
  simp only [xturnPlan, align, sound.source, bounds, heads, List.head?_cons, Option.map_some, Option.getD_some,
    xneed_ok codes, passes, xneed_ok packs, rows, cols, xneed_ok (ok := 32 == 32 && 16 == 16) rfl,
    xneed_ok (beq_iff_eq.2 even), clean, tileFmt_plain (plain_of_complexCode complex), ok_bind, pure, Except.pure]
  simp only [slotRecords_eq, zipIdx_map_range, List.flatMap_map]
  refine congrArg (fun b => Except.ok (⟨some b, 0⟩ : XResult)) (List.flatMap_congr fun i hi => ?_)
  have header : ((((h, false) :: slotHeads g)[i + 1]?).map (·.1)).getD h = g i := by
    rw [List.getElem?_cons_succ, slotHeads_getElem? (List.mem_range.1 hi)]
    rfl
  simp only [header]
  rfl

theorem xbackPlan_ok (accept : s.md.faccept.getLsbD 0 = true) (aligned : xoffA s w % 64 = 0)
    (room : xoffA s w + footprint h.code ≤ 0x300000)
    (records : ∀ i < 16, SlotRecord s h (turnRow s w) (recordAt s w w.b i) (g i))
    (rows : ∀ i < 16, turnRow s w + 2 ≤ (g i).rows) (cols : ∀ i < 16, (g i).cols = 16)
    (clean : ∀ i < 16, s.core.srfBad (rowOff (plainFmt h.code) (recordAt s w w.b i) (turnRow s w))
      (2 * (plainFmt h.code).rowBytes) = false) :
    xbackPlan s w = .ok ⟨some (xwrite (xoffA s w) ⟨h.code, true, h.packed, h.scaled, 32, 16, 0⟩ (plainFmt h.code)
      ((List.range 32).map (gathered s w (plainFmt h.code)))), 0⟩ := by
  have first := records 0 (by decide)
  have align : xalign (slotRecords s w (readR s w.b) ++ [xoffA s w]) = .ok () :=
    xalign_ok (List.forall_mem_append.2 ⟨forall_slotRecords fun i hi => (records i hi).aligned, by simpa using aligned⟩)
  have bounds : (slotRecords s w (readR s w.b)).forM (fun o => do
      xbounds [(o, 64)]
      xtwoRows (rawCode s o) o (turnRow s w)) = .ok () := by
    refine forM_ok (forall_slotRecords fun i hi => ?_)
    rw [xbounds_one (records i hi).headFits, rawCode_eq (records i hi).head, (records i hi).code,
      xtwoRows_ok complex records hi]
    rfl
  have extent : rawFootprint s ((slotRecords s w (readR s w.b)).headD 0) = footprint h.code := by
    rw [← first.code, ← rawCode_eq first.head]
    rfl
  have head : (slotHeads g).head? = some (g 0, false) := rfl
  have codes : (complexCode h.code && (slotHeads g).all fun x => x.1.code == h.code) = true := by
    rw [all_slotHeads (p := fun x => x.1.code == h.code) fun i hi => beq_iff_eq.2 (records i hi).code, complex]
    rfl
  have tags : ((slotHeads g).all fun x => x.1.domain && x.1.scaled == (g 0).scaled) = true :=
    all_slotHeads fun i hi => by simp [(records i hi).domain, (records i hi).scaled, first.scaled, spectral]
  have packs : ((slotHeads g).all fun x => x.1.packed == (g 0).packed) = true :=
    all_slotHeads fun i hi => by simp [(records i hi).packed, first.packed]
  have full : ((slotHeads g).all fun x => turnRow s w + 2 ≤ x.1.rows && x.1.cols == 16) = true :=
    all_slotHeads fun i hi => by simp [rows i hi, cols i hi]
  have passes : xtags s (slotHeads g) ((slotHeads g).all fun x => x.1.domain && x.1.scaled == (g 0).scaled) = .ok () :=
    xtags_ok tags (fun _ _ _ => accept) slotHeads_sound
  have reads : xclean s ((slotRecords s w (readR s w.b)).flatMap fun o =>
      [(o, 64), (rowOff (plainFmt h.code) o (turnRow s w), 2 * (plainFmt h.code).rowBytes)]) = .ok () := by
    refine xclean_ok fun x hx => ?_
    obtain ⟨o, ho, hx⟩ := List.mem_flatMap.1 hx
    refine forall_slotRecords (p := fun o => ∀ x ∈ [(o, 64), (rowOff (plainFmt h.code) o (turnRow s w),
      2 * (plainFmt h.code).rowBytes)], s.core.srfBad x.1 x.2 = false) (fun i hi => ?_) o ho x hx
    simp [(records i hi).clean, clean i hi]
  simp only [xbackPlan, align, bounds, extent, xbounds_one room, xheads_ok complex records, head, Option.map_some,
    Option.getD_some, xneed_ok codes, passes, xneed_ok packs, xneed_ok full, xneed_ok (beq_iff_eq.2 even), first.code,
    tileFmt_plain (plain_of_complexCode complex), reads, ok_bind, pure, Except.pure]
  rw [first.domain, spectral, first.packed, first.scaled]
  rfl

end

theorem turnAndBackMoveRowsOfPairs : TurnAndBackMoveRowsOfPairs := by
  intro w s h f g slot r0 record part even complex spectral
  have of_part {i o : ℕ} (hf : f = plainFmt h.code) (sound : part i o) : SlotRecord s h r0 o (g i) := by
    obtain ⟨⟨aligned, headFits⟩, rowsFit, clean, head, code, domain, scaled, packed⟩ := sound
    exact ⟨aligned, headFits, hf ▸ rowsFit, clean, head, code, domain, scaled, packed⟩
  refine ⟨fun source rows cols parts => ?_, fun hf accept room parts => ?_⟩
  · obtain ⟨plain, sound, hf⟩ := of_soundSource source
    have records (i : ℕ) (hi : i < 16) := of_part hf (parts i hi)
    subst hf
    refine ⟨fun i => turnedRows (xrecord s (xoffB s w) h) (plainFmt h.code) r0 i (g i),
      runX_ok slot (xturnPlan_ok complex spectral even sound rows cols records), fun i k c _ hk hc =>
        ⟨turnedRows_length _ _ _ _ _, ?_⟩⟩
    rw [row_turnedRows _ _ _ _ _ hk, rowElem_leBytes _ hc, rowElem_turned (tileFmt_plain plain) _ _ _ hk hc]
    rfl
  · obtain rfl : f = plainFmt h.code := Option.some.inj (hf.symm.trans (tileFmt_plain (plain_of_complexCode complex)))
    have plan := xbackPlan_ok complex spectral even accept room.1 room.2 (fun i hi => of_part rfl (parts i hi).1)
      (fun i hi => (parts i hi).2.1) (fun i hi => (parts i hi).2.2.1) fun i hi => (parts i hi).2.2.2
    exact writesRecord_of_rows hf (runX_ok slot plan) fun r c _ hc => rowElem_gathered s w _ r hc

end Sys2Proof.TransformWords
end

section
/-! SUPPORT. Runs that the expansion decodes (R235, R366), and the X words as a whole (R224, R226-R237). -/

namespace Sys2Proof.TransformWords

open Sys2Proof.Machine Sys2Proof.Safety Sys2Proof.Claims
open Sys2Proof.LatchFills (take_srfBytes)

/-! ## Runs (R366) -/

/-- The word masks of a run stand behind its MAP. -/
theorem runMasks_leBytes {map : ℕ} (small : map < 2 ^ 64) (rest : List Byte) :
    runMasks (leBytes 8 map ++ rest) = (map, rest.take (bitsSet 64 map)) := by
  have word : leNat (leBytes 8 map) = map := by rw [leNat_leBytes]; exact Nat.mod_eq_of_lt small
  simp only [runMasks, List.take_left' (leBytes_length 8 map), List.drop_left' (leBytes_length 8 map), word]

/-- Blocks that MAP does not name are zero. -/
theorem runBlocks_absent {map : ℕ} (n : ℕ) {i : ℕ} (absent : ∀ k ≥ i, map.testBit k = false) (wm ws : List Byte) :
    runBlocks map n i wm ws = List.replicate (64 * n) 0 := by
  induction n generalizing i with
  | zero => rfl
  | succ n ih =>
    rw [runBlocks, absent i le_rfl, if_neg Bool.false_ne_true, ih fun k hk => absent k (by omega), Nat.mul_succ, Nat.add_comm,
      List.replicate_add]

/-- A run without blocks. -/
theorem runDecode_empty : runDecode 4096 (leBytes 8 0) = some (List.replicate 4096 0) := by
  have masks : runMasks (leBytes 8 0) = (0, []) := runMasks_leBytes (by decide) []
  have length : runLength (leBytes 8 0) = 8 := rfl
  simp only [runDecode, masks, length]
  rw [runBlocks_absent 64 (by simp)]
  rfl

/-- Words 0 and 7 of block 0. -/
theorem runDecode_two (x y : ℕ) :
    runDecode 4096 (leBytes 8 1 ++ leBytes 8 0x81 ++ leBytes 8 x ++ leBytes 8 y) =
      some (leBytes 8 x ++ List.replicate 48 0 ++ leBytes 8 y ++ List.replicate 4032 0) := by
  have masks : runMasks (leBytes 8 1 ++ leBytes 8 0x81 ++ leBytes 8 x ++ leBytes 8 y) = (1, [0x81]) := by
    rw [List.append_assoc, List.append_assoc, runMasks_leBytes (by decide)]
    rfl
  have words : blockWords 0x81 8 (leBytes 8 x ++ leBytes 8 y) =
      (leBytes 8 x ++ (List.replicate 48 0 ++ leBytes 8 y), []) := rfl
  have absent : ∀ k ≥ 1, (1 : ℕ).testBit k = false := fun k hk => Nat.testBit_lt_two_pow (Nat.one_lt_two_pow (by omega))
  have blocks : runBlocks 1 64 0 [0x81] (leBytes 8 x ++ leBytes 8 y) =
      leBytes 8 x ++ (List.replicate 48 0 ++ leBytes 8 y) ++ List.replicate 4032 0 := by
    have named : (1 : ℕ).testBit 0 = true := rfl
    have mask : (([0x81] : List Byte).headD 0).toNat = 0x81 := rfl
    rw [runBlocks, named, if_pos rfl, mask, words]
    exact congrArg (leBytes 8 x ++ (List.replicate 48 0 ++ leBytes 8 y) ++ ·) (runBlocks_absent 63 absent [] [])
  have length : (leBytes 8 1 ++ leBytes 8 0x81 ++ leBytes 8 x ++ leBytes 8 y).length = 32 := by simp
  have covered : runLength (leBytes 8 1 ++ leBytes 8 0x81 ++ leBytes 8 x ++ leBytes 8 y) = 32 := by
    rw [runLength, masks]
    rfl
  have padding : ((leBytes 8 1 ++ leBytes 8 0x81 ++ leBytes 8 x ++ leBytes 8 y).drop 9).take 7 = List.replicate 7 0 := rfl
  have tail : (leBytes 8 1 ++ leBytes 8 0x81 ++ leBytes 8 x ++ leBytes 8 y).drop 16 = leBytes 8 x ++ leBytes 8 y := rfl
  have one : bitsSet 64 1 = 1 := rfl
  simp only [runDecode, masks, length, covered, one, padding, tail, blocks]
  rw [if_neg (by decide)]
  simp only [List.append_assoc]

/-- A block without words. -/
theorem runDecode_wordless : runDecode 4096 (leBytes 8 1 ++ leBytes 8 0) = none := by
  decide

/-! ## `xexp` (R235) -/

theorem srfBad_mono {c : Core} {o m n : ℕ} (h : n ≤ m) (clean : c.srfBad o m = false) : c.srfBad o n = false := by
  rw [Core.srfBad, Bool.or_eq_false_iff, List.any_eq_false] at clean ⊢
  refine ⟨clean.1, fun q hq meets => clean.2 q hq ?_⟩
  simp only [Bool.and_eq_true, decide_eq_true_eq] at meets ⊢
  omega

section
variable {s : State} {w : RForm}

theorem xexpPlan_ok {n : ℕ} (cover : runCover s (xoffB s w) = n) (short : n ≤ 32) (source : Room (xoffB s w) 32)
    (room : Room (xoffA s w) 4096) (clean : s.core.srfBad (xoffB s w) 32 = false) :
    xexpPlan s w = .ok ⟨(runDecode 4096 (srfBytes s.core (xoffB s w) n)).map (atAddr (xoffA s w)), 0⟩ := by
  obtain ⟨srcAligned, srcFits⟩ := source
  obtain ⟨dstAligned, dstFits⟩ := room
  have align : xalign [xoffB s w, xoffA s w] = .ok () := xalign_ok (by simp [srcAligned, dstAligned])
  have bounds : xbounds [(xoffB s w, n), (xoffA s w, 4096)] = .ok () := xbounds_ok (by simp; omega)
  have reads : xclean s [(xoffB s w, n)] = .ok () := xclean_ok (by simpa using srfBad_mono short clean)
  simp only [xexpPlan, cover, align, xbounds_one (show xoffB s w + 8 ≤ 0x300000 by omega), bounds, reads, ok_bind, pure,
    Except.pure]

/-- The bytes that MAP and the masks make a run cover. -/
theorem runCover_eq {o n : ℕ} (front : List Byte) {map : ℕ} (small : map < 2 ^ 64)
    (head : srfBytes s.core o (8 + (bitsSet 64 map + 7) / 8 * 8) = leBytes 8 map ++ front)
    (length : runLength (leBytes 8 map ++ front) = n) (short : n ≤ 4096) : runCover s o = n := by
  have first : leNat (srfBytes s.core o 8) = map := by
    rw [← take_srfBytes s.core o (Nat.le_add_right 8 _), head, List.take_left' (leBytes_length 8 map), leNat_leBytes]
    exact Nat.mod_eq_of_lt small
  simp only [runCover, first, head, length]
  exact min_eq_right short

end

theorem expandDecodesItsRun : ExpandDecodesItsRun := by
  intro w s x y slot src dst gives source room clean
  have given {n : ℕ} {r : Option (List Byte)} (cover : runCover s src = n) (short : n ≤ 32)
      (decoded : runDecode 4096 (srfBytes s.core src n) = r) : gives ⟨r.map (atAddr dst), 0⟩ := by
    rw [← decoded]
    exact runX_ok slot (xexpPlan_ok cover short source room clean)
  refine ⟨fun run => ?_, fun run => ?_, fun run => ?_⟩
  · have cover : runCover s src = 8 := runCover_eq (map := 0) [] (by decide)
      (run.trans (List.append_nil _).symm) rfl (by decide)
    exact given cover (by decide) (by rw [run, runDecode_empty])
  · have front : srfBytes s.core src 16 = leBytes 8 1 ++ leBytes 8 0x81 := by
      rw [← take_srfBytes s.core src (show 16 ≤ 32 by decide), run]
      rfl
    have cover : runCover s src = 32 := runCover_eq (map := 1) _ (by decide) front rfl (by decide)
    exact given cover le_rfl (by rw [run, runDecode_two])
  · have cover : runCover s src = 16 := runCover_eq (map := 1) _ (by decide) run rfl (by decide)
    exact given cover (by decide) (by rw [run, runDecode_wordless])

/-- Settles O37: an X word whose checks pass is in the unit with what its plan computes; the plans of sound records pass
every check, and their rows are the loops of the pseudocode, conversions, moves of pairs and decoded blocks. -/
theorem transformWordsEnterTheirUnit : Obligations.TransformWordsEnterTheirUnit :=
  ⟨transformChecksFaultTheSlot, transformsComputeTheirSpectra, conversionStageWordsWriteRecords, turnAndBackMoveRowsOfPairs,
    expandDecodesItsRun⟩

end Sys2Proof.TransformWords
end

section
/-! SUPPORT. Lists by number and the bytes of memory and of the host window, in canonical form. -/

namespace Sys2Proof.CanonicalForm

open Sys2Proof.Machine Sys2Proof.Safety Sys2Proof.ControlProcessor

/-! ## Lists by number -/

section
variable {α β : Type} {lo k : Nat} {l : List (Nat × α)}

theorem mem_insertNum {v : α} {x : Nat × α} (h : x ∈ insertNum k v l) : x = (k, v) ∨ x ∈ l := by
  induction l with
  | nil => exact .inl (List.mem_singleton.1 h)
  | cons y l ih =>
    rw [insertNum] at h
    split_ifs at h
    · exact (List.mem_cons.1 h)
    · exact (List.mem_cons.1 h).imp_right (List.mem_cons_of_mem y)
    · rcases List.mem_cons.1 h with h | h
      · exact .inr (h ▸ List.mem_cons_self)
      · exact (ih h).imp_right (List.mem_cons_of_mem y)

theorem mem_of_mem_eraseNum {x : Nat × α} (h : x ∈ eraseNum k l) : x ∈ l := by
  induction l with
  | nil => exact h
  | cons y l ih =>
    rw [eraseNum] at h
    split_ifs at h
    · exact h
    · exact List.mem_cons_of_mem y h
    · rcases List.mem_cons.1 h with h | h
      · exact h ▸ List.mem_cons_self
      · exact List.mem_cons_of_mem y (ih h)

theorem keysFrom_map (f : Nat × α → β) : keysFrom lo (l.map fun x => (x.1, f x)) = keysFrom lo l := by
  induction l generalizing lo with
  | nil => rfl
  | cons x l ih => simp only [List.map_cons, keysFrom, ih]

theorem lookupNum_map (f : α → β) : lookupNum k (l.map fun x => (x.1, f x.2)) = (lookupNum k l).map f := by
  induction l with
  | nil => rfl
  | cons x l ih =>
    simp only [List.map_cons, lookupNum, ih]
    split <;> rfl

end

theorem filter_cellsFrom {p : Host.Cell → Bool} {lo : Nat} {l : List Host.Cell} (w : cellsFrom lo l = true) :
    cellsFrom lo (l.filter p) = true := by
  induction l generalizing lo with
  | nil => rfl
  | cons x l ih =>
    simp only [cellsFrom, Bool.and_eq_true, decide_eq_true_eq] at w
    rw [List.filter_cons]
    split
    · simp only [cellsFrom, Bool.and_eq_true, decide_eq_true_eq]
      exact ⟨w.1, ih w.2⟩
    · exact cellsFrom_mono (by omega) (ih w.2)

/-! ## The host window -/

theorem hostFrom_cons {lo : Nat} {x : Host.Cell} {l : List Host.Cell} :
    hostFrom lo (x :: l) = true ↔ (lo ≤ x.1 ∧ x.2 ≠ Config.freeByte x.1) ∧ hostFrom (x.1 + 1) l = true := by
  simp [hostFrom]

theorem hostFrom_mono {lo lo' : Nat} {l : List Host.Cell} (h : lo ≤ lo') (w : hostFrom lo' l = true) :
    hostFrom lo l = true := by
  cases l with
  | nil => rfl
  | cons x l =>
    obtain ⟨⟨hx, hb⟩, hl⟩ := hostFrom_cons.1 w
    exact hostFrom_cons.2 ⟨⟨h.trans hx, hb⟩, hl⟩

theorem insertNum_hostFrom {lo k : Nat} {b : Byte} {l : List Host.Cell} (hk : lo ≤ k) (hb : b ≠ Config.freeByte k)
    (w : hostFrom lo l = true) : hostFrom lo (insertNum k b l) = true := by
  induction l generalizing lo with
  | nil => exact hostFrom_cons.2 ⟨⟨hk, hb⟩, rfl⟩
  | cons x l ih =>
    obtain ⟨⟨hx, hxb⟩, hl⟩ := hostFrom_cons.1 w
    rw [insertNum]
    split_ifs with hlt heq
    · exact hostFrom_cons.2 ⟨⟨hk, hb⟩, hostFrom_cons.2 ⟨⟨hlt, hxb⟩, hl⟩⟩
    · exact hostFrom_cons.2 ⟨⟨hk, hb⟩, beq_iff_eq.1 heq ▸ hl⟩
    · rw [beq_iff_eq] at heq
      exact hostFrom_cons.2 ⟨⟨hx, hxb⟩, ih (by omega) hl⟩

theorem eraseNum_hostFrom {lo k : Nat} {l : List Host.Cell} (w : hostFrom lo l = true) :
    hostFrom lo (eraseNum k l) = true := by
  induction l generalizing lo with
  | nil => rfl
  | cons x l ih =>
    obtain ⟨hx, hl⟩ := hostFrom_cons.1 w
    rw [eraseNum]
    split_ifs
    · exact w
    · exact hostFrom_mono (by omega) hl
    · exact hostFrom_cons.2 ⟨hx, ih hl⟩

theorem hostPut_hostFrom {l : List Host.Cell} (a : Nat) (b : Byte) (w : hostFrom 0 l = true) :
    hostFrom 0 (hostPut l a b) = true := by
  unfold hostPut
  split
  · exact eraseNum_hostFrom w
  · rename_i hb
    exact insertNum_hostFrom (Nat.zero_le a) (by simpa using hb) w

end Sys2Proof.CanonicalForm
end

section
/-! SUPPORT. The canonical form of the memories and of the list of cores, and the updates of the state that keep it. -/

namespace Sys2Proof.CanonicalForm

open Sys2Proof.Machine Sys2Proof.Safety Sys2Proof.ControlProcessor

/-! ## The form, of a state and of what an operation answers -/

/-- The state is in the form that every step keeps. -/
def Tidy (s : State) : Prop := Canonical s

/-- The SRF of a core is in canonical form. -/
def TidyCore (c : Core) : Prop := Memory.wf c.srf = true

/-- The state that a stop leaves, whatever stops the word. -/
def stopState : Stop → State
  | .trap _ s => s
  | .wait s => s
  | .waitAt _ s => s
  | .hold s => s
  | .final s => s

/-- The state that an engine's access leaves where it stops. -/
def engState : EngStop → State
  | .fail _ _ s => s
  | .wait _ s => s

/-- The state that a unit of a transfer leaves. -/
def unitState : UnitOut → State
  | .done s _ => s
  | .wait _ s => s
  | .fail _ s => s

/-- The state that a packet not yet served leaves. -/
def notYetState : NotYet → State
  | .refused _ s => s
  | .waits _ s => s

/-- The state in which the CP's next word executes, or that its turn leaves without one. -/
def nextState : CpNext → State
  | .done s => s
  | .run _ s => s

/-- What an operation answers satisfies `good`, and where it stops satisfies `bad`. -/
def Yields {ε α : Type} (bad : ε → Prop) (good : α → Prop) : Except ε α → Prop
  | .ok x => good x
  | .error x => bad x

theorem Yields.ok {ε α : Type} {bad : ε → Prop} {good : α → Prop} {r : Except ε α} (h : Yields bad good r) {x : α}
    (e : r = .ok x) : good x := by
  subst e
  exact h

theorem Yields.error {ε α : Type} {bad : ε → Prop} {good : α → Prop} {r : Except ε α} (h : Yields bad good r) {x : ε}
    (e : r = .error x) : bad x := by
  subst e
  exact h

theorem yields_ok {ε α : Type} {bad : ε → Prop} {good : α → Prop} {x : α} (h : good x) :
    Yields bad good (.ok x) := h

theorem yields_error {ε α : Type} {bad : ε → Prop} {good : α → Prop} {x : ε} (h : bad x) :
    Yields bad good (.error x) := h

theorem Yields.bind {ε α β : Type} {bad : ε → Prop} {good : α → Prop} {good' : β → Prop} {r : Except ε α}
    {f : α → Except ε β} (h : Yields bad good r) (hf : ∀ x, good x → Yields bad good' (f x)) :
    Yields bad good' (r >>= f) := by
  cases r with
  | error x => exact h
  | ok x => exact hf x h

theorem Yields.foldlM {ε α β : Type} {bad : ε → Prop} {good : β → Prop} {f : β → α → Except ε β}
    (hf : ∀ b x, good b → Yields bad good (f b x)) : ∀ (l : List α) {b : β}, good b → Yields bad good (l.foldlM f b)
  | [], _, h => h
  | x :: l, b, h => by
    rw [List.foldlM_cons]
    exact (hf b x h).bind fun _ h' => Yields.foldlM hf l h'

/-- A word's body, or a check of it, leaves a state in form. -/
abbrev BodyTidy (r : Body) : Prop := Yields (fun x => Tidy (stopState x)) Tidy r
/-- An access that stops as a word does leaves a state in form. -/
abbrev StopTidy {α : Type} (r : Except Stop (α × State)) : Prop :=
  Yields (fun x => Tidy (stopState x)) (fun x => Tidy x.2) r
/-- An engine's access leaves a state in form. -/
abbrev EngTidy {α : Type} (r : EngM (α × State)) : Prop := Yields (fun x => Tidy (engState x)) (fun x => Tidy x.2) r
/-- So does one that answers with the state alone. -/
abbrev EngActTidy (r : EngM State) : Prop := Yields (fun x => Tidy (engState x)) Tidy r

/-- The next state, if an operation has one, is in form. -/
def OutTidy : Out → Prop
  | .next s => Tidy s
  | .fault _ => True
  | .refused _ => True

theorem OutTidy.next {o : Out} (h : OutTidy o) {t : State} (e : o = .next t) : Tidy t := by
  subst e
  exact h

/-- The state that stands in an optional answer is in form. -/
def OptionTidy {α : Type} (out : α → State) : Option α → Prop
  | some x => Tidy (out x)
  | none => True

theorem OptionTidy.some {α : Type} {out : α → State} {o : Option α} (h : OptionTidy out o) {x : α} (e : o = some x) :
    Tidy (out x) := by
  subst e
  exact h

theorem optionTidy_some {α : Type} {out : α → State} {x : α} (h : Tidy (out x)) : OptionTidy out (.some x) := h

theorem OptionTidy.ite {α : Type} {out : α → State} {p : Prop} [Decidable p] {o : Option α} (h : OptionTidy out o) :
    OptionTidy out (if p then o else none) := by
  split
  · exact h
  · trivial

theorem Tidy.fst {α : Type} {p : State × α} (h : Tidy p.1) {s : State} {x : α} (e : p = (s, x)) : Tidy s := by
  subst e
  exact h

theorem Tidy.snd {α : Type} {p : α × State} (h : Tidy p.2) {s : State} {x : α} (e : p = (x, s)) : Tidy s := by
  subst e
  exact h

theorem Tidy.unit {u v : UnitOut} (h : Tidy (unitState u)) (e : u = v) : Tidy (unitState v) := e ▸ h

theorem Tidy.eng {u v : EngStop} (h : Tidy (engState u)) (e : u = v) : Tidy (engState v) := e ▸ h

theorem Tidy.cpNext {u v : CpNext} (h : Tidy (nextState u)) (e : u = v) : Tidy (nextState v) := e ▸ h

theorem next_tidy {s : State} (h : Tidy s) : OutTidy (.next s) := h

theorem run_tidy {i : Instr} {s : State} (h : Tidy s) : Tidy (nextState (.run i s)) := h

theorem ite_tidy {p : Prop} [Decidable p] {s t : State} (hs : Tidy s) (ht : Tidy t) : Tidy (if p then s else t) := by
  split
  · exact hs
  · exact ht

/-! ## Iteration -/

theorem foldl_tidy {α : Type} {f : State → α → State} (hf : ∀ s x, Tidy s → Tidy (f s x)) :
    ∀ (l : List α) {s : State}, Tidy s → Tidy (l.foldl f s)
  | [], _, h => h
  | x :: l, s, h => foldl_tidy hf l (hf s x h)

theorem foldl_fst_tidy {α β : Type} {f : State × β → α → State × β} (hf : ∀ p x, Tidy p.1 → Tidy (f p x).1) :
    ∀ (l : List α) {p : State × β}, Tidy p.1 → Tidy (l.foldl f p).1
  | [], _, h => h
  | x :: l, p, h => foldl_fst_tidy hf l (hf p x h)

theorem foldl_snd_tidy {α β : Type} {f : β × State → α → β × State} (hf : ∀ p x, Tidy p.2 → Tidy (f p x).2) :
    ∀ (l : List α) {p : β × State}, Tidy p.2 → Tidy (l.foldl f p).2
  | [], _, h => h
  | x :: l, p, h => foldl_snd_tidy hf l (hf p x h)

theorem foldl_tidyCore {α : Type} {f : Core → α → Core} (hf : ∀ c x, TidyCore c → TidyCore (f c x)) :
    ∀ (l : List α) {c : Core}, TidyCore c → TidyCore (l.foldl f c)
  | [], _, h => h
  | x :: l, c, h => foldl_tidyCore hf l (hf c x h)

theorem foldlM_option_tidy {α : Type} {f : State → α → Option State} (hf : ∀ s x, Tidy s → OptionTidy id (f s x)) :
    ∀ (l : List α) {s : State}, Tidy s → OptionTidy id (l.foldlM f s)
  | [], _, h => h
  | x :: l, s, h => by
    rw [List.foldlM_cons]
    cases e : f s x with
    | none => trivial
    | some t => exact foldlM_option_tidy hf l ((hf s x h).some e)

/-! ## Cores by number -/

section
variable {s : State} (h : Tidy s) {n : Nat}
include h

theorem getCore_tidy (n : Nat) : TidyCore (s.getCore n) := getCore_srf_wf h n

theorem core_tidy : TidyCore s.core := h.2.2.1

/-- The focused core is replaced by one whose SRF is in form. -/
theorem withCore_tidy {c : Core} (hc : TidyCore c) : Tidy { s with core := c } := by
  obtain ⟨hm, hh, -, hp, hs, hk, hl⟩ := h
  exact ⟨hm, hh, hc, hp, hs, hk, hl⟩

theorem putCore_tidy {c : Core} (hc : TidyCore c) : Tidy (s.putCore n c) := by
  unfold State.putCore
  split
  · exact withCore_tidy h hc
  · rename_i hn
    obtain ⟨hm, hh, hsrf, hp, hs, hk, hl⟩ := h
    refine ⟨hm, hh, hsrf, fun x hx => ?_, hs, insertNum_keysFrom c (Nat.zero_le n) hk, ?_⟩
    · rcases mem_insertNum hx with rfl | hx
      · exact hc
      · exact hp x hx
    · rw [lookupNum_insertNum_other c _ fun e => hn (beq_iff_eq.2 e.symm)]
      exact hl

theorem onCore_tidy {f : Core → Core} (hf : ∀ c, TidyCore c → TidyCore (f c)) : Tidy (s.onCore n f) :=
  putCore_tidy h (hf _ (getCore_tidy h n))

/-- The core that loses the focus is listed, and the one that gains it no more. -/
theorem focusOn_tidy : Tidy (s.focusOn n) := by
  unfold State.focusOn
  split
  · exact h
  · rename_i hn
    have hc := getCore_tidy h n
    obtain ⟨hm, hh, hsrf, hp, hs, hk, hl⟩ := h
    refine ⟨hm, hh, hc, fun x hx => ?_, hs, insertNum_keysFrom _ (Nat.zero_le _) (eraseNum_keysFrom hk), ?_⟩
    · rcases mem_insertNum hx with rfl | hx
      · exact hsrf
      · exact hp x (mem_of_mem_eraseNum hx)
    · show lookupNum n (insertNum s.focus s.core (eraseNum n s.parked)) = none
      rw [lookupNum_insertNum_other _ _ (by simpa using hn)]
      exact lookupNum_eraseNum_self hk

theorem atCore_tidy {f : State → State} (hf : ∀ s, Tidy s → Tidy (f s)) : Tidy (s.atCore n f) :=
  focusOn_tidy (hf _ (focusOn_tidy h))

/-- Every core is replaced by one whose SRF is in form. -/
theorem mapCores_tidy {f g : Core → Core} (hf : ∀ c, TidyCore c → TidyCore (f c))
    (hg : ∀ c, TidyCore c → TidyCore (g c)) :
    Tidy { s with core := f s.core, parked := s.parked.map fun x => (x.1, g x.2) } := by
  obtain ⟨hm, hh, hsrf, hp, hs, hk, hl⟩ := h
  refine ⟨hm, hh, hf _ hsrf, fun x hx => ?_, hs, by rwa [keysFrom_map], by rw [lookupNum_map]; simp [hl]⟩
  obtain ⟨y, hy, rfl⟩ := List.mem_map.1 hx
  exact hg _ (hp y hy)

/-! ## Parts of the state that hold no memory -/

theorem with_fresh_tidy {k : Nat} : Tidy { s with fresh := k } := h

theorem with_place_tidy {p : Place} : Tidy { s with place := p } := h

theorem with_launches_tidy {l : List Launch} : Tidy { s with launches := l } := h

theorem with_launches_nextLaunch_tidy {l : List Launch} {n : Nat} :
    Tidy { s with launches := l, nextLaunch := n } := h

theorem with_channels_tidy {l : List Channel} : Tidy { s with channels := l } := h

theorem with_migrating_tidy {l : List MigLine} : Tidy { s with migrating := l } := h

theorem with_poison_tidy {l : List Nat} : Tidy { s with poison := l } := h

/-! ## Bytes of memory and of the host window -/

theorem putByteAt_tidy {k : Nat} {b : Byte} : Tidy (putByteAt s k b) := by
  obtain ⟨hm, hh, hsrf, hp, hs, hk, hl⟩ := h
  unfold putByteAt
  split
  · exact ⟨cellPut_wf _ _ hm, hh, hsrf, hp, hs, hk, hl⟩
  · exact ⟨hm, hostPut_hostFrom _ _ hh, hsrf, hp, hs, hk, hl⟩

/-! ## Saved contexts -/

/-- Saved contexts are forgotten. -/
theorem filterSaved_tidy {p : Saved → Bool} : Tidy { s with saved := s.saved.filter p } := by
  obtain ⟨hm, hh, hsrf, hp, hs, hk, hl⟩ := h
  exact ⟨hm, hh, hsrf, hp, fun x hx => hs x (List.mem_filter.1 hx).1, hk, hl⟩

/-- Saved contexts change, but not the SRFs that they hold. -/
theorem mapSaved_tidy {f : Saved → Saved} (hf : ∀ x, (f x).image = x.image) :
    Tidy { s with saved := s.saved.map f } := by
  obtain ⟨hm, hh, hsrf, hp, hs, hk, hl⟩ := h
  refine ⟨hm, hh, hsrf, hp, fun x hx => ?_, hk, hl⟩
  obtain ⟨y, hy, rfl⟩ := List.mem_map.1 hx
  rw [hf]
  exact hs y hy

/-- A context is saved, in place of others. -/
theorem consSaved_tidy {x : Saved} {p : Saved → Bool} (hx : TidyCore x.image) :
    Tidy { s with saved := x :: s.saved.filter p } := by
  obtain ⟨hm, hh, hsrf, hp, hs, hk, hl⟩ := filterSaved_tidy h (p := p)
  refine ⟨hm, hh, hsrf, hp, fun y hy => ?_, hk, hl⟩
  rcases List.mem_cons.1 hy with rfl | hy
  · exact hx
  · exact hs y hy

/-- Bytes of memory are forgotten. -/
theorem filterMem_tidy {p : Host.Cell → Bool} : Tidy { s with mem := s.mem.filter p } := by
  obtain ⟨hm, h⟩ := h
  exact ⟨filter_cellsFrom hm, h⟩

end

theorem putBytesAt_tidy : ∀ {l : List Host.Cell} {s : State}, Tidy s → Tidy (putBytesAt s l)
  | [], _, h => h
  | _ :: l, _, h => putBytesAt_tidy (l := l) (putByteAt_tidy h)

end Sys2Proof.CanonicalForm
end

section
/-! SUPPORT. What each operation of the machine makes of a state in canonical form, in the order of the model; then the
step (O60). Where an operation stops, the state that it leaves is in the form too. -/

namespace Sys2Proof.CanonicalForm

open Sys2Proof Sys2Proof.Machine Sys2Proof.Safety Sys2Proof.ControlProcessor

/-! ## Updates of the state -/

theorem coreReset_tidy : TidyCore Core.reset :=
  nil_wf

/-! ## Bytes, cores and launches -/

theorem withCp_tidy {s : State} {c : CP} (h : Tidy s) : Tidy (s.withCp c) :=
  h

theorem withKern_tidy {s : State} {k : Kern} (h : Tidy s) : Tidy (s.withKern k) :=
  h

theorem withSt_tidy {s : State} {u : StreamUnit} (h : Tidy s) : Tidy (s.withSt u) :=
  h

theorem onCp_tidy {s : State} {f : CP → CP} (h : Tidy s) : Tidy (s.onCp f) :=
  withCp_tidy h

theorem onKern_tidy {s : State} {f : Kern → Kern} (h : Tidy s) : Tidy (s.onKern f) :=
  withKern_tidy h

theorem onSt_tidy {s : State} {f : StreamUnit → StreamUnit} (h : Tidy s) : Tidy (s.onSt f) :=
  withSt_tidy h

theorem onMd_tidy {s : State} {f : Machine.Module → Machine.Module} (h : Tidy s) : Tidy (s.onMd f) :=
  h

theorem logCode_tidy {s : State} {code cls index : Nat} (h : Tidy s) : Tidy (logCode s code cls index) := by
  unfold logCode
  dsimp only
  exact onMd_tidy h

theorem logError_tidy {s : State} {cause : Cause} {cls index : Nat} (h : Tidy s) :
    Tidy (logError s cause cls index) :=
  logCode_tidy h

theorem logOpen_tidy {s : State} {cls index : Nat} (h : Tidy s) : Tidy (logOpen s cls index) :=
  logCode_tidy h

theorem raiseAsync_tidy {s : State} {n : Nat} {cause : Cause} {detail : BitVec 32} {kernel : Bool} (h : Tidy s) :
    Tidy (raiseAsync s n cause detail kernel) := by
  unfold raiseAsync
  dsimp only
  exact ite_tidy (logError_tidy h) (putCore_tidy h (getCore_tidy h _))

theorem onLaunch_tidy {s : State} {id : Nat} {f : Launch → Launch} (h : Tidy s) : Tidy (s.onLaunch id f) :=
  h

theorem releaseChannels_tidy {s : State} {launch die base size : Nat} (h : Tidy s) :
    Tidy (releaseChannels s launch die base size) := by
  unfold releaseChannels
  dsimp only
  exact h

theorem markPreempted_tidy {s : State} {launch die base : Nat} (h : Tidy s) :
    Tidy (markPreempted s launch die base) :=
  onLaunch_tidy h

theorem settleGroup_tidy {s : State} {launch die base size : Nat} (h : Tidy s) :
    Tidy (settleGroup s launch die base size) := by
  unfold settleGroup
  dsimp only
  split
  · exact h
  · split
    · exact markPreempted_tidy h
    · split
      · exact h
      · refine onLaunch_tidy (releaseChannels_tidy (foldl_tidy (fun _ _ h => ?_) _ h))
        split
        · exact onCore_tidy h fun _ _ => nil_wf
        · exact h

theorem raiseSaved_tidy {s : State} {launch die base size : Nat} {a : Async} (h : Tidy s) :
    Tidy (raiseSaved s launch die base size a) :=
  mapSaved_tidy (foldl_tidy (fun _ _ h => logError_tidy h) _ h) fun _ => by split <;> rfl

theorem endProgram_tidy {s : State} {cause : Option Cause} (h : Tidy s) : Tidy (endProgram s cause) := by
  unfold endProgram
  split
  · exact h
  · dsimp only
    refine settleGroup_tidy ?_
    split
    · exact withCore_tidy (onLaunch_tidy (filterSaved_tidy h)) (core_tidy (onLaunch_tidy (filterSaved_tidy h)))
    · refine ite_tidy (with_channels_tidy (onLaunch_tidy (filterSaved_tidy h))) ?_
      exact raiseSaved_tidy (foldl_tidy (fun _ _ h => raiseAsync_tidy h) _ (onLaunch_tidy (filterSaved_tidy h)))

theorem fatalStop_tidy {s : State} {cause : Cause} (h : Tidy s) : Tidy (fatalStop s cause) := by
  unfold fatalStop
  dsimp only
  exact endProgram_tidy h

theorem takeSync_tidy {s : State} {t : Trap} {opc : BitVec 8} {resume : Word} (h : Tidy s) :
    Tidy (takeSync s t opc resume) := by
  unfold takeSync
  dsimp only
  exact ite_tidy (fatalStop_tidy h) (onCp_tidy h)

theorem takeAsync_tidy {s : State} {a : Async} (h : Tidy s) : Tidy (takeAsync s a) := by
  unfold takeAsync
  dsimp only
  exact onCp_tidy h

/-! ## Operands -/

theorem pushWrite_tidy {s : State} {lat : Nat} {what : KWrite} (h : Tidy s) : Tidy (pushWrite s lat what) :=
  onKern_tidy h

theorem writeR_tidy {s : State} {lat : Nat} {f : BitVec 6} {v : Word} (h : Tidy s) : Tidy (writeR s lat f v) :=
  ite_tidy (onCp_tidy h) (ite_tidy h (pushWrite_tidy h))

theorem writeP_tidy {s : State} {lat : Nat} {r : BitVec 3} {v : Bool} (h : Tidy s) : Tidy (writeP s lat r v) :=
  ite_tidy (onCp_tidy h) (ite_tidy h (pushWrite_tidy h))

/-! ## Flags -/

theorem raiseFlags_tidy {s : State} {fl : Flags} (h : Tidy s) : BodyTidy (raiseFlags s fl) := by
  unfold raiseFlags
  split
  · exact h
  · exact ite_tidy (onCp_tidy h) (onKern_tidy h)

theorem giveInt_tidy {s : State} {lat : Nat} {d : BitVec 6} {r : ℤ × Flags} (h : Tidy s) :
    BodyTidy (giveInt s lat d r) := by
  unfold giveInt
  refine (raiseFlags_tidy h).bind fun _ h => ?_
  exact writeR_tidy h

theorem giveFloat_tidy {s : State} {lat : Nat} {d : BitVec 6} {r : Nat × Flags} (h : Tidy s) :
    BodyTidy (giveFloat s lat d r) := by
  unfold giveFloat
  refine (raiseFlags_tidy h).bind fun _ h => ?_
  exact writeR_tidy h

/-! ## Running a word -/

theorem advance_tidy {s : State} (h : Tidy s) : Tidy (advance s) :=
  onCp_tidy h

theorem stayHere_tidy {s : State} {hold begun : Bool} {opc : BitVec 8} {addr : Option Word} (h : Tidy s) :
    Tidy (stayHere s hold begun opc addr) :=
  onCp_tidy h

theorem slotAgain_tidy {s : State} (h : Tidy s) : Tidy (slotAgain s) :=
  onKern_tidy h

theorem kernelStop_tidy {s : State} {f : KStop} (h : Tidy s) : Tidy (kernelStop s f) :=
  onKern_tidy h

theorem slotFault_tidy {s : State} {t : Trap} {opc : BitVec 8} (h : Tidy s) : Tidy (slotFault s t opc) :=
  kernelStop_tidy h

theorem stopWord_tidy {s : State} {opc : BitVec 8} {x : Stop} (_ : Tidy s) (hx : Tidy (stopState x)) :
    Tidy (stopWord s opc x) := by
  unfold stopWord
  split
  · exact ite_tidy (takeSync_tidy hx) (slotFault_tidy hx)
  · exact ite_tidy (stayHere_tidy hx) (slotAgain_tidy hx)
  · exact ite_tidy (stayHere_tidy hx) (slotAgain_tidy hx)
  · exact ite_tidy (stayHere_tidy hx) (slotAgain_tidy hx)
  · exact hx

theorem asWait_tidy {α : Type} {good : α → Prop} {addr : Word} {r : Except Stop α}
    (h : Yields (fun x => Tidy (stopState x)) good r) :
    Yields (fun x => Tidy (stopState x)) good (asWait addr r) := by
  unfold asWait
  split
  all_goals exact h

theorem runBody_tidy {s : State} {opc : BitVec 8} {guard : BitVec 4} {priv jump : Bool} {body : State → Body}
    (h : Tidy s) (hbody : ∀ x0, Tidy x0 → BodyTidy (body x0)) :
    OutTidy (runBody s opc guard priv jump body) := by
  unfold runBody
  split
  · exact stopWord_tidy h h
  · split
    · exact ite_tidy (advance_tidy h) h
    · split
      · exact ite_tidy (advance_tidy ((hbody _ h).ok ‹_›)) ((hbody _ h).ok ‹_›)
      · exact stopWord_tidy h ((hbody _ h).error ‹_›)

theorem runPlain_tidy {s : State} {opc : BitVec 8} {guard : BitVec 4} {body : State → Body} (h : Tidy s)
    (hbody : ∀ x0, Tidy x0 → BodyTidy (body x0)) :
    OutTidy (runPlain s opc guard body) :=
  runBody_tidy h (fun _ h => hbody _ h)

theorem useUnit_tidy {s : State} {u : Fin 4} {n : Nat} (h : Tidy s) : Tidy (useUnit s u n) :=
  ite_tidy h (onKern_tidy h)

/-! ## Branches -/

theorem startDelay_tidy {s : State} {target : Option Word} (h : Tidy s) : Tidy (startDelay s target) :=
  onKern_tidy h

theorem endBranch_tidy {s : State} {opc : BitVec 8} {r : State × Option Word} (h : Tidy s) (hr : Tidy r.1) :
    Tidy (endBranch s opc r) := by
  unfold endBranch
  split
  split
  · split
    · exact onCp_tidy hr
    · exact advance_tidy hr
  · split
    · exact ite_tidy (startDelay_tidy hr) (slotFault_tidy h)
    · exact startDelay_tidy hr

theorem runBranch_tidy {s : State} {opc : BitVec 8} {guard : BitVec 4} {body : State → State × Option Word}
    (h : Tidy s) (hbody : ∀ x0, Tidy x0 → Tidy (body x0).1) :
    OutTidy (runBranch s opc guard body) := by
  unfold runBranch
  split
  · exact endBranch_tidy h (hbody _ h)
  · exact ite_tidy (advance_tidy h) (startDelay_tidy h)

theorem execBr_tidy {w : JForm} {s : State} (h : Tidy s) : OutTidy (execBr w s) := runBranch_tidy h fun _ h => h
theorem execCall_tidy {w : JForm} {s : State} (h : Tidy s) : OutTidy (execCall w s) :=
  runBranch_tidy h fun _ h => writeR_tidy h
theorem execJmp_tidy {w : RForm} {s : State} (h : Tidy s) : OutTidy (execJmp w s) :=
  runBranch_tidy h fun _ h => writeR_tidy h
theorem execBcz_tidy {w : IForm} {s : State} (h : Tidy s) : OutTidy (execBcz w s) := runBranch_tidy h fun _ h => h

theorem execLoop_tidy {w : IForm} {s : State} (h : Tidy s) : OutTidy (execLoop w s) := by
  unfold execLoop
  refine runBranch_tidy h (fun _ h => ?_)
  dsimp only
  exact writeR_tidy h

/-! ## System registers -/

theorem writeSys_tidy {s : State} {sel : Nat} {v : Word} (h : Tidy s) : Tidy (writeSys s sel v) := by
  unfold writeSys
  dsimp only
  split
  · exact onCp_tidy h
  · exact onCp_tidy h
  · exact onCp_tidy h
  · exact onCp_tidy h
  · exact onCp_tidy h
  · exact onCp_tidy h
  · exact onCp_tidy h
  · exact onCp_tidy h
  · exact onCp_tidy h
  · exact onCp_tidy h
  · exact onCp_tidy h
  · exact onCp_tidy h
  · exact onCp_tidy h
  · exact onKern_tidy h
  · exact onKern_tidy h
  · exact onKern_tidy h
  · exact onKern_tidy h
  · exact onKern_tidy h
  · exact onKern_tidy h
  · exact h

theorem execRdsys_tidy {w : IForm} {s : State} (h : Tidy s) : OutTidy (execRdsys w s) :=
  runBody_tidy h fun _ h => writeR_tidy h

theorem execWrsys_tidy {w : IForm} {s : State} (h : Tidy s) : OutTidy (execWrsys w s) := by
  unfold execWrsys
  refine runBody_tidy h (fun _ h => ?_)
  split
  · exact h
  · exact writeSys_tidy h

theorem execXchsys_tidy {w : IForm} {s : State} (h : Tidy s) : OutTidy (execXchsys w s) := by
  unfold execXchsys
  refine runBody_tidy h (fun _ h => ?_)
  split
  · exact h
  · exact writeR_tidy (writeSys_tidy h)

theorem execTrapSw_tidy {w : IForm} {s : State} (h : Tidy s) : OutTidy (execTrapSw w s) :=
  runBody_tidy h fun _ h => ite_tidy (takeSync_tidy h) (onKern_tidy h)
theorem execTrapCall_tidy {w : IForm} {s : State} (h : Tidy s) : OutTidy (execTrapCall w s) :=
  runBody_tidy h fun _ h => takeSync_tidy h
theorem execBrk_tidy {w : IForm} {s : State} (h : Tidy s) : OutTidy (execBrk w s) := runPlain_tidy h fun _ h => h
theorem execTret_tidy {w : IForm} {s : State} (h : Tidy s) : OutTidy (execTret w s) :=
  runBody_tidy h fun _ h => onCp_tidy h

theorem execHalt_tidy {w : IForm} {s : State} (h : Tidy s) : OutTidy (execHalt w s) := by
  unfold execHalt
  refine runBody_tidy h (fun _ h => ?_)
  split
  · exact fatalStop_tidy h
  · split
    · exact endProgram_tidy h
    · exact h

theorem execIdle_tidy {w : IForm} {s : State} (h : Tidy s) : OutTidy (execIdle w s) := by
  unfold execIdle
  refine runBody_tidy h (fun _ h => ?_)
  split <;> exact h

/-! ## Cells of memory -/

theorem onStack_tidy {s : State} {i : Nat} {f : Stack → Stack} (h : Tidy s) : Tidy (s.onStack i f) :=
  h

theorem markGranule_tidy {s : State} {k : Nat} {poisoned unmet : Bool} (h : Tidy s) :
    Tidy (markGranule s k poisoned unmet) :=
  h

theorem writeMask_tidy {s : State} {stack i : Nat} {v : Word} (h : Tidy s) : Tidy (writeMask s stack i v) := by
  unfold writeMask
  dsimp only
  exact ite_tidy (onStack_tidy (ite_tidy (with_fresh_tidy (onStack_tidy h)) h)) (onStack_tidy h)

theorem writeBack_tidy {s : State} {stack : Nat} {x : HeldLine} (h : Tidy s) : Tidy (writeBack s stack x) := by
  unfold writeBack
  dsimp only
  exact markGranule_tidy (putBytesAt_tidy h)

theorem writeQuiesce_tidy {s : State} {stack : Nat} {q : Bool} (h : Tidy s) : Tidy (writeQuiesce s stack q) := by
  unfold writeQuiesce
  dsimp only
  exact ite_tidy (onStack_tidy h) (onStack_tidy (foldl_tidy (fun _ _ h => writeBack_tidy h) _ h))

/-! ## Device registers -/

theorem beginStop_tidy {s : State} {n : Nat} (h : Tidy s) : Tidy (beginStop s n) := by
  unfold beginStop
  refine onCore_tidy h (fun _ h => ?_)
  split <;> exact h

theorem preemptGroup_tidy {s : State} {l : Launch} {g : Machine.Group} (h : Tidy s) : Tidy (preemptGroup s l g) :=
  foldl_tidy (fun _ _ h => ite_tidy (beginStop_tidy (raiseAsync_tidy h)) h) _ h

theorem writePreempt_tidy {s : State} {v : Word} (h : Tidy s) : Tidy (writePreempt s v) := by
  unfold writePreempt
  dsimp only
  split
  · exact h
  · exact ite_tidy (foldl_tidy (fun _ _ h => preemptGroup_tidy h) _ (onLaunch_tidy (onMd_tidy h)))
      (onLaunch_tidy (onMd_tidy h))

theorem writeKeyCmd_tidy {s : State} {v : Word} (h : Tidy s) : Tidy (writeKeyCmd s v) :=
  ite_tidy h (onMd_tidy h)

theorem coreAfterStart_tidy {cold : Bool} {c : Core} (_ : TidyCore c) : TidyCore (coreAfterStart cold c) := by
  unfold coreAfterStart
  dsimp only
  split <;> exact coreReset_tidy

theorem moduleStart_tidy {s : State} {v : Word} {retained : Bool} (h : Tidy s) : Tidy (moduleStart s v retained) := by
  unfold moduleStart
  dsimp only
  split
  · exact onMd_tidy h
  · split
    · exact h
    · obtain ⟨-, -, hsrf, hp, -, hk, hl⟩ := mapCores_tidy (focusOn_tidy h (n := 0))
        (f := coreAfterStart (!(bit v 7 && retained))) (g := coreAfterStart (!(bit v 7 && retained)))
        (fun _ h => coreAfterStart_tidy h) fun _ h => coreAfterStart_tidy h
      obtain ⟨hm, hh, -⟩ := h
      rw [focusOn_focus] at hl
      exact ⟨hm, hh, hsrf, hp, by simp [State.reset], hk, hl⟩

theorem writeQueue_tidy {s : State} {q : Fin 64} {off : Nat} {v : Word} (h : Tidy s) :
    Tidy (writeQueue s q off v) := by
  unfold writeQueue
  dsimp only
  split
  · exact h
  · exact h
  · exact h
  · exact ite_tidy h (ite_tidy (onMd_tidy h) h)
  · exact h

theorem writeModule_tidy {s : State} {host : Bool} {off : Nat} {v : Word} {retained : Bool} (h : Tidy s) :
    Tidy (writeModule s host off v retained) := by
  unfold writeModule
  dsimp only
  split
  · exact ite_tidy (onMd_tidy h) h
  · exact ite_tidy (onMd_tidy h) h
  · exact moduleStart_tidy h
  · exact ite_tidy (onMd_tidy h) h
  · exact ite_tidy (onMd_tidy h) h
  · exact ite_tidy (onMd_tidy h) h
  · exact writePreempt_tidy h
  · exact ite_tidy (onMd_tidy h) h
  · exact ite_tidy (writeKeyCmd_tidy h) h
  · exact ite_tidy (onMd_tidy h) h
  · exact ite_tidy (onMd_tidy h) h
  · exact ite_tidy (onMd_tidy h) h
  · exact ite_tidy (onMd_tidy h) h
  · exact ite_tidy (onMd_tidy h) h
  · split
    · exact ite_tidy (writeQueue_tidy h) h
    · exact h

theorem writeStack_tidy {s : State} {stack off : Nat} {v : Word} (h : Tidy s) : Tidy (writeStack s stack off v) := by
  unfold writeStack
  split
  · exact writeQuiesce_tidy h
  · exact ite_tidy (onStack_tidy h) h
  · exact ite_tidy (writeMask_tidy h) h

theorem writeLrt_tidy {s : State} {i : Fin 64} {word : Nat} {v : Word} (h : Tidy s) : Tidy (writeLrt s i word v) := by
  unfold writeLrt
  dsimp only
  split
  · exact h
  · split
    · exact ite_tidy h (ite_tidy h (ite_tidy h h))
    · exact ite_tidy h h
    · exact ite_tidy h h
    · exact ite_tidy h h

theorem writeKibry_tidy {s : State} {off : Nat} {v : Word} (h : Tidy s) : Tidy (writeKibry s off v) := by
  unfold writeKibry
  split
  · exact onMd_tidy h
  · split
    · dsimp only
      exact ite_tidy h (onMd_tidy h)
    · exact h

theorem onPort_tidy {s : State} {p : Nat} {f : Port → Port} (h : Tidy s) : Tidy (s.onPort p f) :=
  h

theorem requestSave_tidy {s : State} {n : Nat} (h : Tidy s) : Tidy (requestSave s n) :=
  onCore_tidy (beginStop_tidy h) fun _ h => h

theorem requestRestore_tidy {s : State} {n : Nat} (h : Tidy s) : Tidy (requestRestore s n) :=
  onCore_tidy h fun _ h => h

theorem writeCtx_tidy {s : State} {n off : Nat} {v : Word} (h : Tidy s) :
    Yields (fun _ => True) Tidy (writeCtx s n off v) := by
  unfold writeCtx
  dsimp only
  split
  · exact onCore_tidy h fun _ h => h
  · exact onCore_tidy h fun _ h => h
  · exact onCore_tidy h fun _ h => h
  · split
    · exact requestSave_tidy h
    · split
      · exact requestRestore_tidy h
      · exact trivial
  · exact h

theorem devWrite_tidy {s : State} {host : Bool} {off : Nat} {v : Word} {retained : Bool} (h : Tidy s) :
    Yields (fun _ => True) Tidy (devWrite s host off v retained) := by
  unfold devWrite
  split
  · exact h
  · split
    · exact writeModule_tidy h
    · split
      · exact writeStack_tidy h
      · split
        · split
          · exact writeLrt_tidy h
          · exact h
        · split
          · exact writeKibry_tidy h
          · split
            · dsimp only
              split
              · exact writeCtx_tidy h
              · exact h
            · split
              · exact onPort_tidy h
              · exact h

/-! ## The SRF -/

theorem putSrf_tidy {c : Core} {cells : List Host.Cell} (h : TidyCore c) : TidyCore (c.putSrf cells) :=
  cellPutAll_wf cells h

theorem kernSrf_tidy {c : Core} {seq : Nat} {o : Order} {cells : List Host.Cell} (h : TidyCore c) :
    TidyCore (c.kernSrf seq o cells) :=
  cellPutAll_wf cells h

/-! ## Translation -/

theorem holdXlat_tidy {s : State} {die : Nat} {asid : BitVec 16} {x : Xlat} (h : Tidy s) :
    Tidy (holdXlat s die asid x) := by
  unfold holdXlat
  dsimp only
  exact ite_tidy h h

theorem foundPoison_tidy {s : State} {granule : Nat} (h : Tidy s) : Tidy (foundPoison s granule) :=
  markGranule_tidy h

theorem requestPage_tidy {s t : State} {asid : BitVec 16} {va n : Nat} (h : Tidy s)
    (e : requestPage s asid va = .tag n t) : Tidy t := by
  unfold requestPage at e
  split at e
  · cases e
  · split at e
    · cases e
      exact h
    · split at e
      · cases e
      · cases e
        exact onMd_tidy h

theorem walkStop_tidy {s : State} {a : Access} {va : Nat} {x : WalkFail} (h : Tidy s) :
    Tidy (stopState (walkStop s a va x)) := by
  unfold walkStop
  split
  · exact h
  · exact foundPoison_tidy h
  · exact h
  · split
    · exact requestPage_tidy h ‹_›
    · exact h
    · exact h

theorem lookup_tidy {s : State} {a : Access} {va : Nat} (h : Tidy s) : StopTidy (lookup s a va) := by
  unfold lookup
  split
  · exact h
  · dsimp only
    split
    · exact h
    · split
      · exact walkStop_tidy h
      · exact holdXlat_tidy h

theorem translate_tidy {s : State} {a : Access} {va size : Nat} (h : Tidy s) :
    StopTidy (Machine.translate s a va size) := by
  unfold Machine.translate
  split
  · exact (lookup_tidy h).error ‹_›
  · split <;> exact (lookup_tidy h).ok ‹_›

theorem place_tidy {s : State} {a : Access} {ga : Nat} {p : Phys} (h : Tidy s) :
    Yields (fun x => Tidy (stopState x)) (fun _ => True) (place s a ga p) := by
  unfold place
  dsimp only
  split
  · exact h
  · split
    · split
      · exact h
      · split
        · exact trivial
        · split
          · exact h
          · exact trivial
    · split
      · split
        · exact h
        · split
          · exact h
          · exact trivial
      · split
        · exact h
        · split
          · exact h
          · split
            · exact h
            · exact trivial

theorem tlbDrop_tidy {s : State} {allDies : Bool} {die : Nat} {p : TlbEntry → Bool} (h : Tidy s) :
    Tidy (tlbDrop s allDies die p) :=
  h

/-! ## Accesses -/

theorem resolve_tidy {s : State} {who : Access} {e : LogEntry} (h : Tidy s) : StopTidy (resolve s who e) := by
  unfold resolve
  dsimp only
  split
  · split
    · split
      · exact h
      · split
        · exact h
        · split <;> exact h
    · split
      · split
        · exact h
        · split
          · exact h
          · split <;> exact h
      · exact h
  · split
    · exact h
    · split
      · exact h
      · split <;> exact h
  · split
    · exact (translate_tidy h).error ‹_›
    · split
      · exact (translate_tidy h).ok ‹_›
      · split
        · exact (translate_tidy h).ok ‹_›
        · split
          · exact (place_tidy ((translate_tidy h).ok ‹_›)).error ‹_›
          · exact (translate_tidy h).ok ‹_›

theorem clearGranule_tidy {s : State} {pkg stack o : Nat} (h : Tidy s) : Tidy (clearGranule s pkg stack o) := by
  unfold clearGranule
  dsimp only
  exact ite_tidy h h

theorem stkPut_tidy {s : State} {pkg stack o : Nat} {b : List Byte} (h : Tidy s) : Tidy (stkPut s pkg stack o b) := by
  unfold stkPut
  dsimp only
  exact ite_tidy (clearGranule_tidy (putBytesAt_tidy h)) (putBytesAt_tidy h)

theorem hostWrites_tidy {s : State} {pasid off : Nat} {b : List Byte} (h : Tidy s) :
    Tidy (hostWrites s pasid off b) :=
  putBytesAt_tidy h

theorem metPoison_tidy {s : State} {k : Nat} {rmw : Bool} (h : Tidy s) : OptionTidy Prod.snd (metPoison s k rmw) := by
  unfold metPoison
  dsimp only
  split
  · exact h
  · split
    · exact h
    · exact trivial

theorem atStack_tidy {s : State} {e : LogEntry} {key : Nat} {reads rmw : Bool} {k : Unit → Served} (h : Tidy s)
    (hk : ∀ x0, StopTidy (k x0)) :
    StopTidy (atStack s e key reads rmw k) := by
  unfold atStack
  split
  · exact h
  · split
    · split
      · exact (metPoison_tidy h).some ‹_›
      · exact hk _
    · exact hk _

theorem serveLoad_tidy {s : State} {e : LogEntry} {t : Target} (h : Tidy s) : StopTidy (serveLoad s e t) := by
  unfold serveLoad
  split
  · split <;> exact h
  · split <;> exact h
  · exact atStack_tidy h fun _ => h
  · exact atStack_tidy h fun _ => h

theorem serveDevStore_tidy {s : State} {core : Nat} {e : LogEntry} {off : Nat} (h : Tidy s) :
    StopTidy (serveDevStore s core e off) := by
  unfold serveDevStore
  dsimp only
  split
  · exact h
  · split
    · exact h
    · split
      · exact (devWrite_tidy (with_fresh_tidy h)).ok ‹_›
      · split <;> exact (devWrite_tidy (with_fresh_tidy h)).ok ‹_›

theorem serveLatticeStore_tidy {s : State} {e : LogEntry} {t : Target} {pkg stack o : Nat} (h : Tidy s) :
    StopTidy (serveLatticeStore s e t pkg stack o) := by
  unfold serveLatticeStore
  dsimp only
  split
  · split
    · exact stkPut_tidy h
    · exact h
  · split
    · exact stkPut_tidy h
    · exact h

theorem serveStore_tidy {s : State} {core : Nat} {e : LogEntry} {t : Target} (h : Tidy s) :
    StopTidy (serveStore s core e t) := by
  unfold serveStore
  split
  · exact onCore_tidy h fun _ h => putSrf_tidy h
  · exact serveDevStore_tidy h
  · exact atStack_tidy h fun _ => hostWrites_tidy h
  · dsimp only
    refine atStack_tidy h (fun _ => ?_)
    split
    · exact serveLatticeStore_tidy h
    · exact stkPut_tidy h

theorem serveAtomic_tidy {s : State} {e : LogEntry} {t : Target} (h : Tidy s) : StopTidy (serveAtomic s e t) := by
  unfold serveAtomic
  split
  · refine atStack_tidy h (fun _ => ?_)
    dsimp only
    split
    · exact stkPut_tidy h
    · exact h
  · exact h

theorem serveJoin_tidy {s : State} {e : LogEntry} {t : Target} (h : Tidy s) : StopTidy (serveJoin s e t) := by
  unfold serveJoin
  split
  · refine atStack_tidy h (fun _ => ?_)
    dsimp only
    exact stkPut_tidy h
  · exact h

theorem serveLdge_tidy {s : State} {e : LogEntry} {t : Target} (h : Tidy s) : StopTidy (serveLdge s e t) := by
  unfold serveLdge
  split
  · refine atStack_tidy h (fun _ => ?_)
    dsimp only
    split <;> exact h
  · exact h

theorem serve_tidy {s : State} {core : Nat} {e : LogEntry} {t : Target} (h : Tidy s) :
    StopTidy (serve s core e t) := by
  unfold serve
  split
  · exact h
  · split
    · exact serveAtomic_tidy h
    · split
      · exact serveJoin_tidy h
      · split
        · exact serveLdge_tidy h
        · split
          · exact serveStore_tidy h
          · exact serveLoad_tidy h

theorem countFlits_tidy {s : State} (h : Tidy s) : Tidy (countFlits s) :=
  h

theorem serveAt_tidy {s : State} {core : Nat} {e : LogEntry} {t : Target} (h : Tidy s) :
    StopTidy (serveAt s core e t) := by
  unfold serveAt
  split
  · dsimp only
    split
    · split
      · exact (serve_tidy (with_fresh_tidy h)).ok ‹_›
      · exact h
    · exact h
  · exact serve_tidy (ite_tidy (countFlits_tidy h) h)

theorem perform_tidy {s : State} {who : Access} {e : LogEntry} (h : Tidy s) : StopTidy (perform s who e) := by
  unfold perform
  refine (resolve_tidy h).bind fun ⟨_, _⟩ h => ?_
  split
  exact serveAt_tidy (Tidy.snd h ‹_›)

theorem fenced_tidy {s : State} {e : LogEntry} (h : Tidy s) : Tidy (fenced s e).1 := by
  unfold fenced
  split
  · exact onKern_tidy h
  · exact h

theorem enterLanding_tidy {s : State} {e : LogEntry} (h : Tidy s) : BodyTidy (enterLanding s e) := by
  unfold enterLanding
  split
  · exact h
  · split
    exact onKern_tidy (Tidy.fst (fenced_tidy h) ‹_›)

theorem enterWrite_tidy {s : State} {e : LogEntry} (h : Tidy s) : BodyTidy (enterWrite s e) := by
  unfold enterWrite
  split
  · exact h
  · split
    exact onKern_tidy (Tidy.fst (fenced_tidy h) ‹_›)

theorem enterOwn_tidy {s : State} {e : LogEntry} {cells : List Host.Cell} (h : Tidy s) :
    Tidy (enterOwn s e cells) := by
  unfold enterOwn
  split
  exact pushWrite_tidy (Tidy.fst (fenced_tidy h) ‹_›)

theorem afterOlder_tidy {s : State} {q : Nat} (h : Tidy s) : Tidy (afterOlder s q) := by
  unfold afterOlder
  refine foldl_tidy (fun _ _ h' => ?_) _ h
  split
  · exact (perform_tidy h').ok ‹_›
  · exact h'

theorem walkEntry_tidy {s : State} {e : LogEntry} (h : Tidy s) : OptionTidy id (walkEntry s e) := by
  unfold walkEntry
  dsimp only
  split
  · exact trivial
  · split
    · exact onKern_tidy ((lookup_tidy h).ok ‹_›)
    · exact onKern_tidy ((lookup_tidy h).error (x := .trap _ _) ‹_›)
    · exact trivial

theorem walkOlder_tidy {s : State} {q : Nat} (h : Tidy s) : OptionTidy id (walkOlder s q) :=
  foldlM_option_tidy (fun _ _ h => walkEntry_tidy h) _ h

theorem kernPerform_tidy {s : State} {e : LogEntry} (h : Tidy s) : BodyTidy (kernPerform s e) := by
  unfold kernPerform
  split
  · split
    · exact enterOwn_tidy h
    · exact enterWrite_tidy h
  · split
    · exact enterWrite_tidy h
    · split
      · dsimp only
        split
        · exact enterLanding_tidy ((OptionTidy.ite (walkOlder_tidy h)).some ‹_›)
        · exact enterLanding_tidy h
      · exact enterLanding_tidy h

theorem mergeReds_tidy {s : State} {e : LogEntry} {l : List (Nat × Fin 32)} (h : Tidy s) :
    Tidy (mergeReds s e l).1 := by
  induction l with
  | nil => exact h
  | cons p l ih =>
    rw [mergeReds]
    split
    split
    · exact Tidy.fst ih ‹_›
    · dsimp only
      split
      all_goals exact with_fresh_tidy (Tidy.fst ih ‹_›)

theorem freeQueued_tidy {s : State} {p : Nat × Fin 32} (h : Tidy s) : Tidy (freeQueued s p) :=
  onCore_tidy h fun _ h => h

theorem serveMerged_tidy {s : State} {core : Nat} {e : LogEntry} {t : Target} (h : Tidy s) :
    StopTidy (serveMerged s core e t) := by
  unfold serveMerged
  split
  · exact serveAt_tidy h
  · split
    split
    · exact foldl_tidy (fun _ _ h => freeQueued_tidy h) _ ((serveAt_tidy (Tidy.fst (mergeReds_tidy h) ‹_›)).ok ‹_›)
    · split
      · exact (serveAt_tidy (Tidy.fst (mergeReds_tidy h) ‹_›)).error ‹_›
      · exact serveAt_tidy h

theorem performOne_tidy {s : State} {e : LogEntry} (h : Tidy s) : StopTidy (performOne s e) := by
  unfold performOne
  split
  · split <;> exact h
  · refine (resolve_tidy h).bind fun ⟨_, _⟩ h => ?_
    split
    exact serveMerged_tidy (Tidy.snd h ‹_›)

theorem performEntry_tidy {s : State} {e : LogEntry} {lost : Bool} (h : Tidy s) : Tidy (performEntry s e lost).1 := by
  unfold performEntry
  dsimp only
  split
  · exact ite_tidy h h
  · split
    · exact (performOne_tidy (ite_tidy (with_fresh_tidy h) h)).ok ‹_›
    · exact (performOne_tidy (ite_tidy (with_fresh_tidy h) h)).error (x := .trap _ _) ‹_›
    · exact (performOne_tidy (ite_tidy (with_fresh_tidy h) h)).error (x := .wait _) ‹_›
    · exact (performOne_tidy (ite_tidy (with_fresh_tidy h) h)).error (x := .waitAt _ _) ‹_›
    · exact (performOne_tidy (ite_tidy (with_fresh_tidy h) h)).error (x := .hold _) ‹_›
    · exact (performOne_tidy (ite_tidy (with_fresh_tidy h) h)).error (x := .final _) ‹_›

theorem cpPerform_tidy {s : State} {e : LogEntry} {done : State → List Byte → State} (h : Tidy s)
    (hdone : ∀ x0, Tidy x0 → ∀ x1, Tidy (done x0 x1)) :
    BodyTidy (cpPerform s e done) := by
  unfold cpPerform
  dsimp only
  split
  · exact (resolve_tidy h).error ‹_›
  · split
    · dsimp only [BodyTidy, Yields, stopState]
      exact onCp_tidy ((resolve_tidy h).ok ‹_›)
    · split
      · exact (serveMerged_tidy ((resolve_tidy h).ok ‹_›)).error ‹_›
      · exact hdone _ (onCp_tidy ((serveMerged_tidy ((resolve_tidy h).ok ‹_›)).ok ‹_›)) _

/-! ## Memory words -/

theorem runAccess_tidy {s : State} {e : LogEntry} {align : Nat} {done : State → List Byte → State} (h : Tidy s)
    (hdone : ∀ x0, Tidy x0 → ∀ x1, Tidy (done x0 x1)) :
    BodyTidy (runAccess s e align done) := by
  unfold runAccess
  split
  · exact h
  · split
    · exact cpPerform_tidy h fun _ h _ => hdone _ h _
    · exact kernPerform_tidy h

theorem loadWord_tidy {opc : BitVec 8} {ea : State → Word} {size : Nat} {f : State → LogEntry → LogEntry}
    {w : MForm} {s : State} (h : Tidy s) :
    BodyTidy (loadWord opc ea size f w s) := by
  unfold loadWord
  dsimp only
  exact runAccess_tidy h fun _ h _ => onCp_tidy h

theorem storeWord_tidy {opc : BitVec 8} {ea : State → Word} {size align : Nat} {f : State → LogEntry → LogEntry}
    {w : MForm} {s : State} (h : Tidy s) :
    BodyTidy (storeWord opc ea size align f w s) :=
  runAccess_tidy h (fun _ h _ => h)

theorem execLd_tidy {w : MForm} {s : State} (h : Tidy s) : OutTidy (execLd w s) :=
  runPlain_tidy h fun _ h => loadWord_tidy h
theorem execSt_tidy {w : MForm} {s : State} (h : Tidy s) : OutTidy (execSt w s) :=
  runPlain_tidy h fun _ h => storeWord_tidy h
theorem execLds_tidy {w : MForm} {s : State} (h : Tidy s) : OutTidy (execLds w s) :=
  runPlain_tidy h fun _ h => loadWord_tidy h
theorem execSts_tidy {w : MForm} {s : State} (h : Tidy s) : OutTidy (execSts w s) :=
  runPlain_tidy h fun _ h => storeWord_tidy h

theorem execLdq_tidy {w : MForm} {s : State} (h : Tidy s) : OutTidy (execLdq w s) := by
  unfold execLdq
  refine runPlain_tidy h (fun _ h => ?_)
  dsimp only
  exact runAccess_tidy h fun _ h _ => onCp_tidy h

theorem execStq_tidy {w : MForm} {s : State} (h : Tidy s) : OutTidy (execStq w s) :=
  runPlain_tidy h fun _ h => storeWord_tidy h
theorem execPref_tidy {w : MForm} {s : State} (h : Tidy s) : OutTidy (execPref w s) := runPlain_tidy h fun _ h => h
theorem execStz_tidy {w : MForm} {s : State} (h : Tidy s) : OutTidy (execStz w s) :=
  runPlain_tidy h fun _ h => storeWord_tidy h

theorem amoWord_tidy {aop : BitVec 4} {w : MForm} {s : State} (h : Tidy s) : OutTidy (amoWord aop w s) :=
  runPlain_tidy h fun _ h => loadWord_tidy h

theorem redWord_tidy {aop : BitVec 4} {w : MForm} {s : State} (h : Tidy s) : OutTidy (redWord aop w s) :=
  runPlain_tidy h fun _ h => storeWord_tidy h

theorem execAmoAdd_tidy {w : MForm} {s : State} (h : Tidy s) : OutTidy (execAmoAdd w s) := amoWord_tidy h
theorem execAmoAnd_tidy {w : MForm} {s : State} (h : Tidy s) : OutTidy (execAmoAnd w s) := amoWord_tidy h
theorem execAmoOr_tidy {w : MForm} {s : State} (h : Tidy s) : OutTidy (execAmoOr w s) := amoWord_tidy h
theorem execAmoXor_tidy {w : MForm} {s : State} (h : Tidy s) : OutTidy (execAmoXor w s) := amoWord_tidy h
theorem execAmoMin_tidy {w : MForm} {s : State} (h : Tidy s) : OutTidy (execAmoMin w s) := amoWord_tidy h
theorem execAmoMax_tidy {w : MForm} {s : State} (h : Tidy s) : OutTidy (execAmoMax w s) := amoWord_tidy h
theorem execAmoExch_tidy {w : MForm} {s : State} (h : Tidy s) : OutTidy (execAmoExch w s) := amoWord_tidy h
theorem execAmoFadd_tidy {w : MForm} {s : State} (h : Tidy s) : OutTidy (execAmoFadd w s) := amoWord_tidy h
theorem execRedAdd_tidy {w : MForm} {s : State} (h : Tidy s) : OutTidy (execRedAdd w s) := redWord_tidy h
theorem execRedAnd_tidy {w : MForm} {s : State} (h : Tidy s) : OutTidy (execRedAnd w s) := redWord_tidy h
theorem execRedOr_tidy {w : MForm} {s : State} (h : Tidy s) : OutTidy (execRedOr w s) := redWord_tidy h
theorem execRedXor_tidy {w : MForm} {s : State} (h : Tidy s) : OutTidy (execRedXor w s) := redWord_tidy h
theorem execRedMin_tidy {w : MForm} {s : State} (h : Tidy s) : OutTidy (execRedMin w s) := redWord_tidy h
theorem execRedMax_tidy {w : MForm} {s : State} (h : Tidy s) : OutTidy (execRedMax w s) := redWord_tidy h
theorem execRedFadd_tidy {w : MForm} {s : State} (h : Tidy s) : OutTidy (execRedFadd w s) := redWord_tidy h
theorem execCas_tidy {w : MForm} {s : State} (h : Tidy s) : OutTidy (execCas w s) :=
  runPlain_tidy h fun _ h => loadWord_tidy h

theorem execJoin_tidy {w : MForm} {s : State} (h : Tidy s) : OutTidy (execJoin w s) := by
  unfold execJoin
  dsimp only
  exact runPlain_tidy h fun _ h => storeWord_tidy h

theorem execLdge_tidy {w : MForm} {s : State} (h : Tidy s) : OutTidy (execLdge w s) :=
  runPlain_tidy h fun _ h => asWait_tidy (loadWord_tidy h)

theorem fenceWord_tidy {w : MForm} {acq rel sc : Bool} {s : State} (h : Tidy s) :
    BodyTidy (fenceWord w acq rel sc s) := by
  unfold fenceWord
  dsimp only
  split
  · exact h
  · split
    · exact h
    · exact onKern_tidy h

theorem execFenceAcq_tidy {w : MForm} {s : State} (h : Tidy s) : OutTidy (execFenceAcq w s) :=
  runPlain_tidy h fun _ h => fenceWord_tidy h
theorem execFenceRel_tidy {w : MForm} {s : State} (h : Tidy s) : OutTidy (execFenceRel w s) :=
  runPlain_tidy h fun _ h => fenceWord_tidy h
theorem execFenceAr_tidy {w : MForm} {s : State} (h : Tidy s) : OutTidy (execFenceAr w s) :=
  runPlain_tidy h fun _ h => fenceWord_tidy h
theorem execFenceSc_tidy {w : MForm} {s : State} (h : Tidy s) : OutTidy (execFenceSc w s) :=
  runPlain_tidy h fun _ h => fenceWord_tidy h

theorem srfReadWord_tidy {opc : BitVec 8} {size align : Nat} {spread : List Byte → VecReg} {dest : LandDest}
    {w : MForm} {s : State} (h : Tidy s) :
    BodyTidy (srfReadWord opc size align spread dest w s) := by
  unfold srfReadWord
  dsimp only
  split
  · exact h
  · split
    · split
      · exact h
      · exact enterLanding_tidy h
    · split
      · exact enterLanding_tidy h
      · split
        · exact h
        · exact pushWrite_tidy h

theorem execSread_tidy {w : MForm} {s : State} (h : Tidy s) : OutTidy (execSread w s) :=
  runPlain_tidy h fun _ h => srfReadWord_tidy h
theorem execSbcast_tidy {w : MForm} {s : State} (h : Tidy s) : OutTidy (execSbcast w s) :=
  runPlain_tidy h fun _ h => srfReadWord_tidy h

theorem execSwrite_tidy {w : MForm} {s : State} (h : Tidy s) : OutTidy (execSwrite w s) := by
  unfold execSwrite
  refine runPlain_tidy h (fun _ h => ?_)
  dsimp only
  split
  · exact h
  · split
    · exact enterOwn_tidy h
    · exact enterWrite_tidy h

theorem holdFor_tidy {s : State} {n : Nat} (h : Tidy s) : Tidy (holdFor s n) :=
  onKern_tidy h

theorem execSreadx_tidy {w : MForm} {s : State} (h : Tidy s) : OutTidy (execSreadx w s) := by
  unfold execSreadx
  refine runPlain_tidy h (fun _ h => ?_)
  split
  · exact h
  · dsimp only
    exact holdFor_tidy (pushWrite_tidy h)

theorem execSwritex_tidy {w : MForm} {s : State} (h : Tidy s) : OutTidy (execSwritex w s) := by
  unfold execSwritex
  refine runPlain_tidy h (fun _ h => ?_)
  split
  · exact h
  · dsimp only
    exact holdFor_tidy (enterOwn_tidy h)

theorem cvtaWord_tidy {ok : Nat → Bool} {f : State → Word → Except Trap Word} {w : RForm} {s : State} (h : Tidy s) :
    OutTidy (cvtaWord ok f w s) := by
  unfold cvtaWord
  refine runPlain_tidy h (fun _ h => ?_)
  dsimp only
  split
  · exact h
  · split
    · exact h
    · exact writeR_tidy h

theorem execCvtaGal_tidy {w : RForm} {s : State} (h : Tidy s) : OutTidy (execCvtaGal w s) := cvtaWord_tidy h
theorem execCvtaOwn_tidy {w : RForm} {s : State} (h : Tidy s) : OutTidy (execCvtaOwn w s) := cvtaWord_tidy h
theorem execCvtaCore_tidy {w : RForm} {s : State} (h : Tidy s) : OutTidy (execCvtaCore w s) := cvtaWord_tidy h
theorem execCvtaOff_tidy {w : RForm} {s : State} (h : Tidy s) : OutTidy (execCvtaOff w s) := cvtaWord_tidy h

theorem inapWord_tidy {f : State → Word → Bool} {w : RForm} {s : State} (h : Tidy s) : OutTidy (inapWord f w s) :=
  runPlain_tidy h fun _ h => writeP_tidy h

theorem execInapGlob_tidy {w : RForm} {s : State} (h : Tidy s) : OutTidy (execInapGlob w s) := inapWord_tidy h
theorem execInapSrf_tidy {w : RForm} {s : State} (h : Tidy s) : OutTidy (execInapSrf w s) := inapWord_tidy h
theorem execInapGal_tidy {w : RForm} {s : State} (h : Tidy s) : OutTidy (execInapGal w s) := inapWord_tidy h
theorem execInapLocal_tidy {w : RForm} {s : State} (h : Tidy s) : OutTidy (execInapLocal w s) := inapWord_tidy h

theorem setArrival_tidy {c : Core} {die : Bool} {a : Arrival} (h : TidyCore c) : TidyCore (c.setArrival die a) := by
  unfold Core.setArrival
  split <;> exact h

theorem countArrival_tidy {s : State} {core : Nat} {die : Bool} {n : Nat} (h : Tidy s) :
    Tidy (countArrival s core die n) := by
  unfold countArrival
  split
  · dsimp only
    exact with_channels_tidy (onCore_tidy h (fun _ h => setArrival_tidy h))
  · exact h

theorem arriveNow_tidy {s : State} {die : Bool} {n : Nat} (h : Tidy s) : Tidy (arriveNow s die n) :=
  ite_tidy (countArrival_tidy h) (withCore_tidy h (setArrival_tidy (core_tidy h)))

theorem arriveBody_tidy {w : IForm} {s : State} (h : Tidy s) : BodyTidy (arriveBody w s) := by
  unfold arriveBody
  split
  · exact h
  · exact arriveNow_tidy h

theorem waitBody_tidy {w : IForm} {s : State} (h : Tidy s) : BodyTidy (waitBody w s) := by
  unfold waitBody
  dsimp only
  split
  · exact h
  · split
    · exact h
    · split
      · exact h
      · exact onKern_tidy h

theorem execBarArrive_tidy {w : IForm} {s : State} (h : Tidy s) : OutTidy (execBarArrive w s) :=
  runPlain_tidy h fun _ h => arriveBody_tidy h
theorem execBarWait_tidy {w : IForm} {s : State} (h : Tidy s) : OutTidy (execBarWait w s) :=
  runPlain_tidy h fun _ h => waitBody_tidy h

theorem execBarSync_tidy {w : IForm} {s : State} (h : Tidy s) : OutTidy (execBarSync w s) := by
  unfold execBarSync
  refine runPlain_tidy h (fun _ h => ?_)
  refine (arriveBody_tidy h).bind fun _ h => ?_
  exact waitBody_tidy h

theorem countPending_tidy {s : State} {core : Nat} {die : Bool} (h : Tidy s) : Tidy (countPending s core die) := by
  unfold countPending
  dsimp only
  split
  · split
    · split
      · exact countArrival_tidy h
      · exact h
    · exact h
  · exact h

theorem execBarrierArrivalCounted_tidy {core : Nat} {s : State} (h : Tidy s) : OutTidy
    (execBarrierArrivalCounted core s) :=
  countPending_tidy (countPending_tidy h)
theorem execCacheIall_tidy {w : RForm} {s : State} (h : Tidy s) : OutTidy (execCacheIall w s) :=
  runPlain_tidy h fun _ h => onCp_tidy h

theorem execCacheIline_tidy {w : RForm} {s : State} (h : Tidy s) : OutTidy (execCacheIline w s) := by
  unfold execCacheIline
  refine runPlain_tidy h (fun _ h => ?_)
  dsimp only
  exact onCp_tidy h

theorem execCacheDline_tidy {w : RForm} {s : State} (h : Tidy s) : OutTidy (execCacheDline w s) :=
  runPlain_tidy h fun _ h => h
theorem execCacheDall_tidy {w : RForm} {s : State} (h : Tidy s) : OutTidy (execCacheDall w s) :=
  runPlain_tidy h fun _ h => h

theorem endMigration_tidy {s : State} {before : List TlbEntry} {p : TlbEntry → Bool} (h : Tidy s) :
    Tidy (endMigration s before p) := by
  unfold endMigration
  dsimp only
  exact h

theorem invalidate_tidy {s : State} {allDies : Bool} {die : Nat} {p : TlbEntry → Bool} (h : Tidy s) :
    Tidy (invalidate s allDies die p) :=
  endMigration_tidy (tlbDrop_tidy h)

theorem tlbiWord_tidy {p : State → TlbEntry → Bool} {w : RForm} {s : State} (h : Tidy s) :
    OutTidy (tlbiWord p w s) := by
  unfold tlbiWord
  refine runBody_tidy h (fun _ h => ?_)
  split
  · exact h
  · exact invalidate_tidy h

theorem execTlbiAll_tidy {w : RForm} {s : State} (h : Tidy s) : OutTidy (execTlbiAll w s) := tlbiWord_tidy h
theorem execTlbiAsid_tidy {w : RForm} {s : State} (h : Tidy s) : OutTidy (execTlbiAsid w s) := tlbiWord_tidy h
theorem execTlbiPage_tidy {w : RForm} {s : State} (h : Tidy s) : OutTidy (execTlbiPage w s) := tlbiWord_tidy h
theorem execTlbiRange_tidy {w : RForm} {s : State} (h : Tidy s) : OutTidy (execTlbiRange w s) := tlbiWord_tidy h

/-! ## Scalar words -/

theorem intOp_tidy {lat : Nat} {f : ℤ → ℤ → ℤ} {w : RForm} {s : State} (h : Tidy s) : BodyTidy (intOp lat f w s) :=
  giveInt_tidy h

theorem intOp1_tidy {f : ℤ → ℤ} {w : RForm} {s : State} (h : Tidy s) : BodyTidy (intOp1 f w s) :=
  giveInt_tidy h

theorem divOp_tidy {f : ℤ → ℤ → ℤ} {w : RForm} {s : State} (h : Tidy s) : BodyTidy (divOp f w s) := by
  unfold divOp
  split
  · exact h
  · refine (intOp_tidy h).bind fun _ h => ?_
    exact useUnit_tidy h

theorem logOp_tidy {f : Word → Word → Word} {w : RForm} {s : State} (h : Tidy s) : BodyTidy (logOp f w s) :=
  writeR_tidy h

theorem logOpI_tidy {f : Word → Word → Word} {w : IForm} {s : State} (h : Tidy s) : BodyTidy (logOpI f w s) :=
  writeR_tidy h

theorem bitCount_tidy {f : Word → Nat} {w : RForm} {s : State} (h : Tidy s) : BodyTidy (bitCount f w s) :=
  writeR_tidy h

theorem predOp_tidy {f : Bool → Bool → Bool} {w : RForm} {s : State} (h : Tidy s) : BodyTidy (predOp f w s) :=
  writeP_tidy h

theorem fpOp_tidy {f : Nat → FVal → FVal → FVal} {w : RForm} {s : State} (h : Tidy s) : BodyTidy (fpOp f w s) :=
  giveFloat_tidy h

theorem fMinMax_tidy {max : Bool} {w : RForm} {s : State} (h : Tidy s) : BodyTidy (fMinMax max w s) := by
  unfold fMinMax
  dsimp only
  exact giveFloat_tidy h

theorem signOp_tidy {f : Bool → Bool → Bool} {w : RForm} {s : State} (h : Tidy s) : BodyTidy (signOp f w s) := by
  unfold signOp
  dsimp only
  exact writeR_tidy h

theorem putPreds_tidy {s : State} {x : Word} (h : Tidy s) : Tidy (putPreds s x) :=
  foldl_tidy (fun _ _ h => writeP_tidy h) _ h

theorem execAdd_tidy {w : RForm} {s : State} (h : Tidy s) : OutTidy (execAdd w s) :=
  runPlain_tidy h fun _ h => intOp_tidy h
theorem execSub_tidy {w : RForm} {s : State} (h : Tidy s) : OutTidy (execSub w s) :=
  runPlain_tidy h fun _ h => intOp_tidy h
theorem execMul_tidy {w : RForm} {s : State} (h : Tidy s) : OutTidy (execMul w s) :=
  runPlain_tidy h fun _ h => intOp_tidy h
theorem execMulh_tidy {w : RForm} {s : State} (h : Tidy s) : OutTidy (execMulh w s) :=
  runPlain_tidy h fun _ h => intOp_tidy h
theorem execDiv_tidy {w : RForm} {s : State} (h : Tidy s) : OutTidy (execDiv w s) :=
  runPlain_tidy h fun _ h => divOp_tidy h
theorem execRem_tidy {w : RForm} {s : State} (h : Tidy s) : OutTidy (execRem w s) :=
  runPlain_tidy h fun _ h => divOp_tidy h
theorem execMin_tidy {w : RForm} {s : State} (h : Tidy s) : OutTidy (execMin w s) :=
  runPlain_tidy h fun _ h => intOp_tidy h
theorem execMax_tidy {w : RForm} {s : State} (h : Tidy s) : OutTidy (execMax w s) :=
  runPlain_tidy h fun _ h => intOp_tidy h
theorem execAbs_tidy {w : RForm} {s : State} (h : Tidy s) : OutTidy (execAbs w s) :=
  runPlain_tidy h fun _ h => intOp1_tidy h
theorem execNeg_tidy {w : RForm} {s : State} (h : Tidy s) : OutTidy (execNeg w s) :=
  runPlain_tidy h fun _ h => intOp1_tidy h
theorem execAnd_tidy {w : RForm} {s : State} (h : Tidy s) : OutTidy (execAnd w s) :=
  runPlain_tidy h fun _ h => logOp_tidy h
theorem execOr_tidy {w : RForm} {s : State} (h : Tidy s) : OutTidy (execOr w s) :=
  runPlain_tidy h fun _ h => logOp_tidy h
theorem execXor_tidy {w : RForm} {s : State} (h : Tidy s) : OutTidy (execXor w s) :=
  runPlain_tidy h fun _ h => logOp_tidy h
theorem execAndn_tidy {w : RForm} {s : State} (h : Tidy s) : OutTidy (execAndn w s) :=
  runPlain_tidy h fun _ h => logOp_tidy h
theorem execShl_tidy {w : RForm} {s : State} (h : Tidy s) : OutTidy (execShl w s) :=
  runPlain_tidy h fun _ h => logOp_tidy h
theorem execShr_tidy {w : RForm} {s : State} (h : Tidy s) : OutTidy (execShr w s) :=
  runPlain_tidy h fun _ h => logOp_tidy h
theorem execSra_tidy {w : RForm} {s : State} (h : Tidy s) : OutTidy (execSra w s) :=
  runPlain_tidy h fun _ h => logOp_tidy h
theorem execBcntPop_tidy {w : RForm} {s : State} (h : Tidy s) : OutTidy (execBcntPop w s) :=
  runPlain_tidy h fun _ h => bitCount_tidy h
theorem execBcntClz_tidy {w : RForm} {s : State} (h : Tidy s) : OutTidy (execBcntClz w s) :=
  runPlain_tidy h fun _ h => bitCount_tidy h
theorem execBcntCtz_tidy {w : RForm} {s : State} (h : Tidy s) : OutTidy (execBcntCtz w s) :=
  runPlain_tidy h fun _ h => bitCount_tidy h

theorem execAddi_tidy {w : IForm} {s : State} (h : Tidy s) : OutTidy (execAddi w s) := by
  unfold execAddi
  refine runPlain_tidy h (fun _ h => ?_)
  dsimp only
  exact giveInt_tidy h

theorem execAndi_tidy {w : IForm} {s : State} (h : Tidy s) : OutTidy (execAndi w s) :=
  runPlain_tidy h fun _ h => logOpI_tidy h
theorem execOri_tidy {w : IForm} {s : State} (h : Tidy s) : OutTidy (execOri w s) :=
  runPlain_tidy h fun _ h => logOpI_tidy h
theorem execXori_tidy {w : IForm} {s : State} (h : Tidy s) : OutTidy (execXori w s) :=
  runPlain_tidy h fun _ h => logOpI_tidy h
theorem execAndni_tidy {w : IForm} {s : State} (h : Tidy s) : OutTidy (execAndni w s) :=
  runPlain_tidy h fun _ h => logOpI_tidy h
theorem execShli_tidy {w : IForm} {s : State} (h : Tidy s) : OutTidy (execShli w s) :=
  runPlain_tidy h fun _ h => logOpI_tidy h
theorem execShri_tidy {w : IForm} {s : State} (h : Tidy s) : OutTidy (execShri w s) :=
  runPlain_tidy h fun _ h => logOpI_tidy h
theorem execSrai_tidy {w : IForm} {s : State} (h : Tidy s) : OutTidy (execSrai w s) :=
  runPlain_tidy h fun _ h => logOpI_tidy h
theorem execMovi_tidy {w : IForm} {s : State} (h : Tidy s) : OutTidy (execMovi w s) :=
  runPlain_tidy h fun _ h => writeR_tidy h
theorem execMovh_tidy {w : IForm} {s : State} (h : Tidy s) : OutTidy (execMovh w s) :=
  runPlain_tidy h fun _ h => writeR_tidy h
theorem execLea_tidy {w : RForm} {s : State} (h : Tidy s) : OutTidy (execLea w s) :=
  runPlain_tidy h fun _ h => writeR_tidy h

theorem execPcrel_tidy {w : IForm} {s : State} (h : Tidy s) : OutTidy (execPcrel w s) := by
  unfold execPcrel
  refine runPlain_tidy h (fun _ h => ?_)
  dsimp only
  exact writeR_tidy h

theorem execBfxZ_tidy {w : IForm} {s : State} (h : Tidy s) : OutTidy (execBfxZ w s) :=
  runPlain_tidy h fun _ h => writeR_tidy h
theorem execBfxS_tidy {w : IForm} {s : State} (h : Tidy s) : OutTidy (execBfxS w s) :=
  runPlain_tidy h fun _ h => writeR_tidy h
theorem execBfxI_tidy {w : IForm} {s : State} (h : Tidy s) : OutTidy (execBfxI w s) :=
  runPlain_tidy h fun _ h => writeR_tidy h

theorem execCmp_tidy {w : RForm} {s : State} (h : Tidy s) : OutTidy (execCmp w s) := by
  unfold execCmp
  refine runPlain_tidy h (fun _ h => ?_)
  dsimp only
  refine (raiseFlags_tidy h).bind fun _ h => ?_
  exact writeP_tidy h

theorem execCmpi_tidy {w : IForm} {s : State} (h : Tidy s) : OutTidy (execCmpi w s) := by
  unfold execCmpi
  refine runPlain_tidy h (fun _ h => ?_)
  dsimp only
  refine (raiseFlags_tidy h).bind fun _ h => ?_
  exact writeP_tidy h

theorem execPand_tidy {w : RForm} {s : State} (h : Tidy s) : OutTidy (execPand w s) :=
  runPlain_tidy h fun _ h => predOp_tidy h
theorem execPor_tidy {w : RForm} {s : State} (h : Tidy s) : OutTidy (execPor w s) :=
  runPlain_tidy h fun _ h => predOp_tidy h
theorem execPxor_tidy {w : RForm} {s : State} (h : Tidy s) : OutTidy (execPxor w s) :=
  runPlain_tidy h fun _ h => predOp_tidy h
theorem execPandn_tidy {w : RForm} {s : State} (h : Tidy s) : OutTidy (execPandn w s) :=
  runPlain_tidy h fun _ h => predOp_tidy h
theorem execPorn_tidy {w : RForm} {s : State} (h : Tidy s) : OutTidy (execPorn w s) :=
  runPlain_tidy h fun _ h => predOp_tidy h

theorem execPmovGet_tidy {w : RForm} {s : State} (h : Tidy s) : OutTidy (execPmovGet w s) := by
  unfold execPmovGet
  refine runPlain_tidy h (fun _ h => ?_)
  dsimp only
  exact writeR_tidy h

theorem execPmovPut_tidy {w : RForm} {s : State} (h : Tidy s) : OutTidy (execPmovPut w s) :=
  runPlain_tidy h fun _ h => putPreds_tidy h
theorem execSel_tidy {w : RForm} {s : State} (h : Tidy s) : OutTidy (execSel w s) :=
  runPlain_tidy h fun _ h => writeR_tidy h
theorem execFadd_tidy {w : RForm} {s : State} (h : Tidy s) : OutTidy (execFadd w s) :=
  runPlain_tidy h fun _ h => fpOp_tidy h
theorem execFsub_tidy {w : RForm} {s : State} (h : Tidy s) : OutTidy (execFsub w s) :=
  runPlain_tidy h fun _ h => fpOp_tidy h
theorem execFmul_tidy {w : RForm} {s : State} (h : Tidy s) : OutTidy (execFmul w s) :=
  runPlain_tidy h fun _ h => fpOp_tidy h

theorem execFdiv_tidy {w : RForm} {s : State} (h : Tidy s) : OutTidy (execFdiv w s) := by
  unfold execFdiv
  refine runPlain_tidy h (fun _ h => ?_)
  dsimp only
  refine (giveFloat_tidy h).bind fun _ h => ?_
  exact useUnit_tidy h

theorem execFsqrt_tidy {w : RForm} {s : State} (h : Tidy s) : OutTidy (execFsqrt w s) := by
  unfold execFsqrt
  refine runPlain_tidy h (fun _ h => ?_)
  dsimp only
  refine (giveFloat_tidy h).bind fun _ h => ?_
  exact useUnit_tidy h

theorem execFma_tidy {w : RForm} {s : State} (h : Tidy s) : OutTidy (execFma w s) :=
  runPlain_tidy h fun _ h => giveFloat_tidy h
theorem execFmin_tidy {w : RForm} {s : State} (h : Tidy s) : OutTidy (execFmin w s) :=
  runPlain_tidy h fun _ h => fMinMax_tidy h
theorem execFmax_tidy {w : RForm} {s : State} (h : Tidy s) : OutTidy (execFmax w s) :=
  runPlain_tidy h fun _ h => fMinMax_tidy h
theorem execFsgnCpy_tidy {w : RForm} {s : State} (h : Tidy s) : OutTidy (execFsgnCpy w s) :=
  runPlain_tidy h fun _ h => signOp_tidy h
theorem execFsgnNeg_tidy {w : RForm} {s : State} (h : Tidy s) : OutTidy (execFsgnNeg w s) :=
  runPlain_tidy h fun _ h => signOp_tidy h
theorem execFsgnXor_tidy {w : RForm} {s : State} (h : Tidy s) : OutTidy (execFsgnXor w s) :=
  runPlain_tidy h fun _ h => signOp_tidy h
theorem execFclass_tidy {w : RForm} {s : State} (h : Tidy s) : OutTidy (execFclass w s) :=
  runPlain_tidy h fun _ h => writeR_tidy h

theorem execCvt_tidy {w : RForm} {s : State} (h : Tidy s) : OutTidy (execCvt w s) := by
  unfold execCvt
  refine runPlain_tidy h (fun _ h => ?_)
  split
  refine (raiseFlags_tidy h).bind fun _ h => ?_
  exact writeR_tidy h

/-! ## Vector words -/

theorem giveLanes_tidy {s : State} {lat : Nat} {fl : LaneFlags} {out : List KWrite} (h : Tidy s) :
    BodyTidy (giveLanes s lat fl out) := by
  unfold giveLanes
  split
  · exact h
  · dsimp only
    exact ite_tidy (foldl_tidy (fun _ _ h => pushWrite_tidy h) _ h)
      (pushWrite_tidy (foldl_tidy (fun _ _ h => pushWrite_tidy h) _ h))

theorem velem_tidy {opc : BitVec 8} {lat : Nat} {w : RForm} {s : State} {f : State → Nat → Nat → Nat × Flags}
    (h : Tidy s) :
    OutTidy (velem opc lat w s f) := by
  unfold velem
  refine runPlain_tidy h (fun _ h => ?_)
  dsimp only
  exact giveLanes_tidy h

theorem packBody_tidy {w : RForm} {f : TileFmt} {s : State} (h : Tidy s) : BodyTidy (packBody w f s) := by
  unfold packBody
  dsimp only
  split
  · exact h
  · exact giveLanes_tidy h

theorem unpackBody_tidy {w : RForm} {f : TileFmt} {s : State} (h : Tidy s) : BodyTidy (unpackBody w f s) := by
  unfold unpackBody
  dsimp only
  split
  · exact h
  · split
    · exact h
    · exact giveLanes_tidy h

theorem execVadd_tidy {w : RForm} {s : State} (h : Tidy s) : OutTidy (execVadd w s) := velem_tidy h
theorem execVsub_tidy {w : RForm} {s : State} (h : Tidy s) : OutTidy (execVsub w s) := velem_tidy h
theorem execVmul_tidy {w : RForm} {s : State} (h : Tidy s) : OutTidy (execVmul w s) := velem_tidy h
theorem execVmulh_tidy {w : RForm} {s : State} (h : Tidy s) : OutTidy (execVmulh w s) := velem_tidy h
theorem execVfma_tidy {w : RForm} {s : State} (h : Tidy s) : OutTidy (execVfma w s) := velem_tidy h
theorem execVfms_tidy {w : RForm} {s : State} (h : Tidy s) : OutTidy (execVfms w s) := velem_tidy h
theorem execVfnma_tidy {w : RForm} {s : State} (h : Tidy s) : OutTidy (execVfnma w s) := velem_tidy h
theorem execVfnms_tidy {w : RForm} {s : State} (h : Tidy s) : OutTidy (execVfnms w s) := velem_tidy h
theorem execVmin_tidy {w : RForm} {s : State} (h : Tidy s) : OutTidy (execVmin w s) := velem_tidy h
theorem execVmax_tidy {w : RForm} {s : State} (h : Tidy s) : OutTidy (execVmax w s) := velem_tidy h
theorem execVabs_tidy {w : RForm} {s : State} (h : Tidy s) : OutTidy (execVabs w s) := velem_tidy h
theorem execVneg_tidy {w : RForm} {s : State} (h : Tidy s) : OutTidy (execVneg w s) := velem_tidy h
theorem execVclamp_tidy {w : RForm} {s : State} (h : Tidy s) : OutTidy (execVclamp w s) := velem_tidy h
theorem execVsgnCpy_tidy {w : RForm} {s : State} (h : Tidy s) : OutTidy (execVsgnCpy w s) := velem_tidy h
theorem execVsgnNeg_tidy {w : RForm} {s : State} (h : Tidy s) : OutTidy (execVsgnNeg w s) := velem_tidy h
theorem execVsgnXor_tidy {w : RForm} {s : State} (h : Tidy s) : OutTidy (execVsgnXor w s) := velem_tidy h
theorem execVrint_tidy {w : RForm} {s : State} (h : Tidy s) : OutTidy (execVrint w s) := velem_tidy h
theorem execVrintX_tidy {w : RForm} {s : State} (h : Tidy s) : OutTidy (execVrintX w s) := velem_tidy h
theorem execVscale_tidy {w : RForm} {s : State} (h : Tidy s) : OutTidy (execVscale w s) := velem_tidy h
theorem execVfnDiv_tidy {w : RForm} {s : State} (h : Tidy s) : OutTidy (execVfnDiv w s) := velem_tidy h
theorem execVfnSqrt_tidy {w : RForm} {s : State} (h : Tidy s) : OutTidy (execVfnSqrt w s) := velem_tidy h
theorem execVfnRsqrt_tidy {w : RForm} {s : State} (h : Tidy s) : OutTidy (execVfnRsqrt w s) := velem_tidy h
theorem execVfnRecip_tidy {w : RForm} {s : State} (h : Tidy s) : OutTidy (execVfnRecip w s) := velem_tidy h
theorem execVfnExp_tidy {w : RForm} {s : State} (h : Tidy s) : OutTidy (execVfnExp w s) := velem_tidy h
theorem execVfnExp2_tidy {w : RForm} {s : State} (h : Tidy s) : OutTidy (execVfnExp2 w s) := velem_tidy h
theorem execVfnLog_tidy {w : RForm} {s : State} (h : Tidy s) : OutTidy (execVfnLog w s) := velem_tidy h
theorem execVfnLog2_tidy {w : RForm} {s : State} (h : Tidy s) : OutTidy (execVfnLog2 w s) := velem_tidy h
theorem execVfnTanh_tidy {w : RForm} {s : State} (h : Tidy s) : OutTidy (execVfnTanh w s) := velem_tidy h
theorem execVfnLogistic_tidy {w : RForm} {s : State} (h : Tidy s) : OutTidy (execVfnLogistic w s) := velem_tidy h
theorem execVfnSinpi_tidy {w : RForm} {s : State} (h : Tidy s) : OutTidy (execVfnSinpi w s) := velem_tidy h
theorem execVfnCospi_tidy {w : RForm} {s : State} (h : Tidy s) : OutTidy (execVfnCospi w s) := velem_tidy h
theorem execVlogAnd_tidy {w : RForm} {s : State} (h : Tidy s) : OutTidy (execVlogAnd w s) := velem_tidy h
theorem execVlogOr_tidy {w : RForm} {s : State} (h : Tidy s) : OutTidy (execVlogOr w s) := velem_tidy h
theorem execVlogXor_tidy {w : RForm} {s : State} (h : Tidy s) : OutTidy (execVlogXor w s) := velem_tidy h
theorem execVlogAndn_tidy {w : RForm} {s : State} (h : Tidy s) : OutTidy (execVlogAndn w s) := velem_tidy h
theorem execVlogNot_tidy {w : RForm} {s : State} (h : Tidy s) : OutTidy (execVlogNot w s) := velem_tidy h
theorem execVshShl_tidy {w : RForm} {s : State} (h : Tidy s) : OutTidy (execVshShl w s) := velem_tidy h
theorem execVshShr_tidy {w : RForm} {s : State} (h : Tidy s) : OutTidy (execVshShr w s) := velem_tidy h
theorem execVshSra_tidy {w : RForm} {s : State} (h : Tidy s) : OutTidy (execVshSra w s) := velem_tidy h
theorem execVbcntPop_tidy {w : RForm} {s : State} (h : Tidy s) : OutTidy (execVbcntPop w s) := velem_tidy h
theorem execVbcntClz_tidy {w : RForm} {s : State} (h : Tidy s) : OutTidy (execVbcntClz w s) := velem_tidy h
theorem execVbcntCtz_tidy {w : RForm} {s : State} (h : Tidy s) : OutTidy (execVbcntCtz w s) := velem_tidy h

theorem execVcmp_tidy {w : RForm} {s : State} (h : Tidy s) : OutTidy (execVcmp w s) := by
  unfold execVcmp
  refine runPlain_tidy h (fun _ h => ?_)
  dsimp only
  exact giveLanes_tidy h

theorem execVsel_tidy {w : RForm} {s : State} (h : Tidy s) : OutTidy (execVsel w s) := by
  unfold execVsel
  refine runPlain_tidy h (fun _ h => ?_)
  dsimp only
  exact giveLanes_tidy h

theorem maskOp_tidy {f : State → MaskReg} {w : RForm} {s : State} (h : Tidy s) : OutTidy (maskOp f w s) :=
  runPlain_tidy h fun _ h => pushWrite_tidy h

theorem execMlogAnd_tidy {w : RForm} {s : State} (h : Tidy s) : OutTidy (execMlogAnd w s) := maskOp_tidy h
theorem execMlogOr_tidy {w : RForm} {s : State} (h : Tidy s) : OutTidy (execMlogOr w s) := maskOp_tidy h
theorem execMlogXor_tidy {w : RForm} {s : State} (h : Tidy s) : OutTidy (execMlogXor w s) := maskOp_tidy h
theorem execMlogAndn_tidy {w : RForm} {s : State} (h : Tidy s) : OutTidy (execMlogAndn w s) := maskOp_tidy h
theorem execMlogNot_tidy {w : RForm} {s : State} (h : Tidy s) : OutTidy (execMlogNot w s) := maskOp_tidy h
theorem execMlogSet_tidy {w : RForm} {s : State} (h : Tidy s) : OutTidy (execMlogSet w s) := maskOp_tidy h
theorem execMlogClr_tidy {w : RForm} {s : State} (h : Tidy s) : OutTidy (execMlogClr w s) := maskOp_tidy h
theorem execMpopCnt_tidy {w : RForm} {s : State} (h : Tidy s) : OutTidy (execMpopCnt w s) :=
  runPlain_tidy h fun _ h => writeR_tidy h

theorem execMpopFirst_tidy {w : RForm} {s : State} (h : Tidy s) : OutTidy (execMpopFirst w s) := by
  unfold execMpopFirst
  refine runPlain_tidy h (fun _ h => ?_)
  dsimp only
  exact writeR_tidy h

theorem execVcvt_tidy {w : RForm} {s : State} (h : Tidy s) : OutTidy (execVcvt w s) := by
  unfold execVcvt
  refine runPlain_tidy h (fun _ h => ?_)
  dsimp only
  exact giveLanes_tidy h

theorem execVpack_tidy {w : RForm} {s : State} (h : Tidy s) : OutTidy (execVpack w s) := by
  unfold execVpack
  refine runPlain_tidy h (fun _ h => ?_)
  split
  · exact h
  · exact packBody_tidy h
  · exact h

theorem execVunpack_tidy {w : RForm} {s : State} (h : Tidy s) : OutTidy (execVunpack w s) := by
  unfold execVunpack
  refine runPlain_tidy h (fun _ h => ?_)
  split
  · exact h
  · exact unpackBody_tidy h
  · exact h

theorem execVpermIdx_tidy {w : RForm} {s : State} (h : Tidy s) : OutTidy (execVpermIdx w s) := velem_tidy h
theorem execVpermRot_tidy {w : RForm} {s : State} (h : Tidy s) : OutTidy (execVpermRot w s) := velem_tidy h
theorem execVpermXor_tidy {w : RForm} {s : State} (h : Tidy s) : OutTidy (execVpermXor w s) := velem_tidy h
theorem execVbcastLane_tidy {w : RForm} {s : State} (h : Tidy s) : OutTidy (execVbcastLane w s) := velem_tidy h
theorem execVbcastElem_tidy {w : RForm} {s : State} (h : Tidy s) : OutTidy (execVbcastElem w s) := velem_tidy h
theorem execVshuf_tidy {w : RForm} {s : State} (h : Tidy s) : OutTidy (execVshuf w s) := velem_tidy h

theorem switchBody_tidy {lat : Nat} {cols : State → Nat → List (Nat × Flags)}
    {pick : List (Nat × Flags) → Nat → Nat} {w : RForm} {s : State} (h : Tidy s) :
    BodyTidy (switchBody lat cols pick w s) := by
  unfold switchBody
  dsimp only
  exact giveLanes_tidy h

theorem execVred_tidy {w : RForm} {s : State} (h : Tidy s) : OutTidy (execVred w s) :=
  runPlain_tidy h fun _ h => switchBody_tidy h
theorem execVscan_tidy {w : RForm} {s : State} (h : Tidy s) : OutTidy (execVscan w s) :=
  runPlain_tidy h fun _ h => switchBody_tidy h
theorem execVidx_tidy {w : RForm} {s : State} (h : Tidy s) : OutTidy (execVidx w s) := velem_tidy h
theorem execVidxElem_tidy {w : RForm} {s : State} (h : Tidy s) : OutTidy (execVidxElem w s) := velem_tidy h
theorem execVidxFlat_tidy {w : RForm} {s : State} (h : Tidy s) : OutTidy (execVidxFlat w s) := velem_tidy h
theorem execVmovk_tidy {w : RForm} {s : State} (h : Tidy s) : OutTidy (execVmovk w s) := velem_tidy h

theorem execVext_tidy {w : RForm} {s : State} (h : Tidy s) : OutTidy (execVext w s) := by
  unfold execVext
  refine runPlain_tidy h (fun _ h => ?_)
  dsimp only
  exact writeR_tidy h

theorem execVins_tidy {w : RForm} {s : State} (h : Tidy s) : OutTidy (execVins w s) := by
  unfold execVins
  refine runPlain_tidy h (fun _ h => ?_)
  dsimp only
  exact pushWrite_tidy h

theorem execVflagRd_tidy {w : RForm} {s : State} (h : Tidy s) : OutTidy (execVflagRd w s) :=
  runPlain_tidy h fun _ h => pushWrite_tidy h
theorem execVflagWr_tidy {w : RForm} {s : State} (h : Tidy s) : OutTidy (execVflagWr w s) :=
  runPlain_tidy h fun _ h => pushWrite_tidy h
theorem execVflagClr_tidy {w : RForm} {s : State} (h : Tidy s) : OutTidy (execVflagClr w s) :=
  runPlain_tidy h fun _ h => pushWrite_tidy h
theorem execVcmul_tidy {w : RForm} {s : State} (h : Tidy s) : OutTidy (execVcmul w s) := velem_tidy h
theorem execVcmulConj_tidy {w : RForm} {s : State} (h : Tidy s) : OutTidy (execVcmulConj w s) := velem_tidy h
theorem execVcmulFma_tidy {w : RForm} {s : State} (h : Tidy s) : OutTidy (execVcmulFma w s) := velem_tidy h
theorem execVcmulFmac_tidy {w : RForm} {s : State} (h : Tidy s) : OutTidy (execVcmulFmac w s) := velem_tidy h

theorem execVdot_tidy {w : RForm} {s : State} (h : Tidy s) : OutTidy (execVdot w s) := by
  unfold execVdot
  refine runPlain_tidy h (fun _ h => ?_)
  split
  exact giveLanes_tidy h

/-! ## Matrix words -/

theorem passWord_tidy {op : BitVec 4} {w : RForm} {s : State} (h : Tidy s) : OutTidy (passWord op w s) := by
  unfold passWord
  refine runPlain_tidy h (fun _ h => ?_)
  dsimp only
  split
  · exact h
  · exact useUnit_tidy (onKern_tidy h)

theorem execTmmaMadd_tidy {w : RForm} {s : State} (h : Tidy s) : OutTidy (execTmmaMadd w s) := passWord_tidy h
theorem execTmmaAdif_tidy {w : RForm} {s : State} (h : Tidy s) : OutTidy (execTmmaAdif w s) := passWord_tidy h
theorem execTmmaCselmax_tidy {w : RForm} {s : State} (h : Tidy s) : OutTidy (execTmmaCselmax w s) := passWord_tidy h
theorem execTmmaCselmin_tidy {w : RForm} {s : State} (h : Tidy s) : OutTidy (execTmmaCselmin w s) := passWord_tidy h
theorem execTmmaCmad_tidy {w : RForm} {s : State} (h : Tidy s) : OutTidy (execTmmaCmad w s) := passWord_tidy h
theorem execTmmaSeq_tidy {w : RForm} {s : State} (h : Tidy s) : OutTidy (execTmmaSeq w s) := passWord_tidy h

theorem fillWord_tidy {form lat : Nat} {w : RForm} {s : State} (h : Tidy s) : OutTidy (fillWord form lat w s) := by
  unfold fillWord
  refine runPlain_tidy h (fun _ h => ?_)
  dsimp only
  split
  · exact h
  · exact pushWrite_tidy h

theorem execTfillAll_tidy {w : RForm} {s : State} (h : Tidy s) : OutTidy (execTfillAll w s) := fillWord_tidy h
theorem execTfillPart_tidy {w : RForm} {s : State} (h : Tidy s) : OutTidy (execTfillPart w s) := fillWord_tidy h
theorem execTfillGath_tidy {w : RForm} {s : State} (h : Tidy s) : OutTidy (execTfillGath w s) := fillWord_tidy h
theorem execTclr_tidy {w : RForm} {s : State} (h : Tidy s) : OutTidy (execTclr w s) :=
  runPlain_tidy h fun _ h => pushWrite_tidy h

theorem readoutBody_tidy {w : RForm} {s : State} (h : Tidy s) : BodyTidy (readoutBody w s) := by
  unfold readoutBody
  dsimp only
  split
  · exact h
  · exact giveLanes_tidy h

theorem readoutPackBody_tidy {w : RForm} {f : TileFmt} {s : State} (h : Tidy s) :
    BodyTidy (readoutPackBody w f s) := by
  unfold readoutPackBody
  dsimp only
  split
  · exact h
  · exact giveLanes_tidy h

theorem execTaccRd_tidy {w : RForm} {s : State} (h : Tidy s) : OutTidy (execTaccRd w s) := by
  unfold execTaccRd
  refine runPlain_tidy h (fun _ h => ?_)
  split
  · exact readoutBody_tidy h
  · split
    · exact h
    · exact readoutPackBody_tidy h
    · exact h

theorem accWord_tidy {s : State} {lat : Nat} {d : BitVec 2} {fl : Nat → Flags} {f : Nat → Option AccLane}
    (h : Tidy s) :
    BodyTidy (accWord s lat d fl f) := by
  unfold accWord
  split
  · exact h
  · dsimp only
    split
    · exact h
    · exact pushWrite_tidy h

theorem execTaccWr_tidy {w : RForm} {s : State} (h : Tidy s) : OutTidy (execTaccWr w s) := by
  unfold execTaccWr
  refine runPlain_tidy h (fun _ h => ?_)
  dsimp only
  split
  · exact h
  · exact accWord_tidy h

theorem execTnorm_tidy {w : RForm} {s : State} (h : Tidy s) : OutTidy (execTnorm w s) :=
  runPlain_tidy h fun _ h => pushWrite_tidy h

theorem execTstatAcc_tidy {w : RForm} {s : State} (h : Tidy s) : OutTidy (execTstatAcc w s) := by
  unfold execTstatAcc
  refine runPlain_tidy h (fun _ h => ?_)
  dsimp only
  exact writeR_tidy h

theorem execTstatLatch_tidy {w : RForm} {s : State} (h : Tidy s) : OutTidy (execTstatLatch w s) := by
  unfold execTstatLatch
  refine runPlain_tidy h (fun _ h => ?_)
  dsimp only
  exact writeR_tidy h

theorem execTcopy_tidy {w : RForm} {s : State} (h : Tidy s) : OutTidy (execTcopy w s) :=
  runPlain_tidy h fun _ h => ite_tidy h (pushWrite_tidy h)
theorem execTqclr_tidy {w : RForm} {s : State} (h : Tidy s) : OutTidy (execTqclr w s) :=
  runPlain_tidy h fun _ h => pushWrite_tidy h

theorem execTmerge_tidy {w : RForm} {s : State} (h : Tidy s) : OutTidy (execTmerge w s) := by
  unfold execTmerge
  refine runPlain_tidy h (fun _ h => ?_)
  dsimp only
  split
  · exact h
  · refine (accWord_tidy h).bind fun _ h => ?_
    exact useUnit_tidy h

/-! ## Stream words -/

theorem engStopOf_tidy {who : Access} {addr : Word} {x : Stop} (h : Tidy (stopState x)) :
    Tidy (engState (engStopOf who addr x)) := by
  unfold engStopOf
  split
  · dsimp only
    split <;> exact h
  · exact h
  · exact h
  · exact h
  · exact h

theorem engPerform_tidy {s : State} {who : Access} {align : Nat} {x : LogEntry} (h : Tidy s) :
    EngTidy (engPerform s who align x) := by
  unfold engPerform
  split
  · exact h
  · split
    · exact (perform_tidy h).ok ‹_›
    · exact (perform_tidy h).error (x := .final _) ‹_›
    · exact engStopOf_tidy ((perform_tidy h).error ‹_›)

theorem engCheck_tidy {s : State} {who : Access} {opc : BitVec 8} {a : Word} {n align : Nat} (h : Tidy s) :
    EngTidy (engCheck s who opc a n align) := by
  unfold engCheck
  split
  · exact h
  · refine Yields.bind (good := Tidy) (Yields.foldlM (fun _ _ h => ?_) _ h) fun _ h => yields_ok h
    split
    · exact (resolve_tidy h).ok ‹_›
    · exact engStopOf_tidy ((resolve_tidy h).error ‹_›)

theorem engLoad_tidy {s : State} {who : Access} {a : Word} {n : Nat} (h : Tidy s) : EngTidy (engLoad s who a n) := by
  refine Yields.foldlM (good := fun x : List Byte × State => Tidy x.2) (fun _ _ h => ?_) _ h
  exact (engPerform_tidy h).bind fun _ h => yields_ok h

theorem owe_tidy {s : State} {o : Owner} {op : OwedOp} (h : Tidy s) : Tidy (owe s o op) :=
  onSt_tidy h

theorem engAct_tidy {s : State} {who : Access} {align : Nat} {x : LogEntry} (h : Tidy s) :
    EngActTidy (engAct s who align x) := by
  unfold engAct
  split
  · exact (engPerform_tidy h).ok ‹_›
  · exact owe_tidy ((engPerform_tidy h).error (x := .wait .none _) ‹_›)
  · exact (engPerform_tidy h).error ‹_›

theorem engStore_tidy {s : State} {who : Access} {a : Word} {b : List Byte} (h : Tidy s) :
    EngTidy (engStore s who a b) := by
  refine Yields.bind (good := fun x : List Byte × State => Tidy x.2) (Yields.foldlM (fun _ _ h => ?_) _ h)
    fun _ h => yields_ok h
  exact (engAct_tidy h).bind fun _ h => yields_ok h

theorem markLines_tidy {s : State} {who : Access} {op : Word → Nat → OwedOp} {a : Word} {n : Nat}
    {f : State → Loc → Nat → State} (h : Tidy s) (hf : ∀ x0, Tidy x0 → ∀ x1, ∀ x2, Tidy (f x0 x1 x2)) :
    Tidy (markLines s who op a n f) := by
  unfold markLines
  refine foldl_tidy (fun _ _ h' => ?_) _ h
  dsimp only
  split
  · split
    · split
      · split
        · exact owe_tidy ((resolve_tidy h').ok ‹_›)
        · exact (resolve_tidy h').ok ‹_›
      · exact hf _ ((resolve_tidy h').ok ‹_›) _ _
    · exact hf _ ((resolve_tidy h').ok ‹_›) _ _
  · exact h'
  · split
    · exact owe_tidy h'
    · exact h'

theorem engPoison_tidy {s : State} {who : Access} {a : Word} {n : Nat} (h : Tidy s) : Tidy (engPoison s who a n) := by
  unfold engPoison
  refine markLines_tidy h (fun _ h _ _ => ?_)
  split
  · exact h
  · exact onCore_tidy h fun _ h => h
  · exact h

theorem engClear_tidy {s : State} {who : Access} {a : Word} {n : Nat} (h : Tidy s) : Tidy (engClear s who a n) := by
  unfold engClear
  refine markLines_tidy h (fun _ h _ _ => ?_)
  split
  · exact ite_tidy (clearGranule_tidy h) h
  · exact onCore_tidy h fun _ h => h
  · exact h

theorem sideRead_tidy {s : State} {who : Access} {x : Side} {off n : Nat} (h : Tidy s) :
    EngTidy (Side.read s who x off n) := by
  unfold Side.read
  split
  · dsimp only
    split <;> exact h
  · exact engLoad_tidy h

theorem sideWrite_tidy {s : State} {who : Access} {x : Side} {off : Nat} {b : List Byte} (h : Tidy s) :
    EngTidy (Side.write s who x off b) := by
  unfold Side.write
  split
  · exact withCore_tidy h (putSrf_tidy (core_tidy h))
  · exact engStore_tidy h

theorem attempted_tidy {s s' : State} (h : Tidy s) (_ : Tidy s') : Tidy (attempted s s') :=
  h

theorem sideWriteWhole_tidy {s : State} {who : Access} {x : Side} {off : Nat} {b : List Byte} (h : Tidy s) :
    EngTidy (Side.writeWhole s who x off b) := by
  unfold Side.writeWhole
  split
  · exact attempted_tidy h ((sideWrite_tidy h).error (x := .fail _ _ _) ‹_›)
  · exact attempted_tidy h ((sideWrite_tidy h).error (x := .wait _ _) ‹_›)
  · exact sideWrite_tidy h

theorem sideClear_tidy {s : State} {who : Access} {x : Side} {off n : Nat} (h : Tidy s) :
    Tidy (Side.clear s who x off n) := by
  unfold Side.clear
  split
  · exact h
  · exact engClear_tidy h

theorem sidePoison_tidy {s : State} {who : Access} {x : Side} {off n : Nat} (h : Tidy s) :
    Tidy (Side.poison s who x off n) := by
  unfold Side.poison
  split
  · dsimp only
    exact ite_tidy h h
  · exact engPoison_tidy h

theorem forgetObjErr_tidy {s : State} {l : Loc} (h : Tidy s) : Tidy (forgetObjErr s l) :=
  h

theorem noteObjErr_tidy {s : State} {l : Loc} {c : Cause} {record : BitVec 16} (h : Tidy s) :
    Tidy (noteObjErr s l c record) := by
  unfold noteObjErr
  split
  · exact h
  · split
    exact h

theorem objLoad_tidy {s : State} {who : Access} {e : LogEntry} (h : Tidy s) : StopTidy (objLoad s who e) := by
  unfold objLoad
  refine (resolve_tidy h).bind fun ⟨t, s⟩ h => ?_
  dsimp only
  split
  · exact h
  · have h : Tidy (if t.remote s then countFlits s else s) := ite_tidy (countFlits_tidy h) h
    refine Yields.bind (good := fun x => Tidy x.2) ?_ fun _ h => yields_ok h
    revert h
    generalize (if t.remote s then countFlits s else s) = s
    intro h
    split
    · split
      · exact h
      · exact h
    · exact h
    · exact atStack_tidy h fun _ => h

theorem objStore_tidy {s : State} {l : Loc} {w0 w1 : Word} (h : Tidy s) : Tidy (objStore s l w0 w1) := by
  unfold objStore
  dsimp only
  split
  · exact onCore_tidy h fun _ h => putSrf_tidy h
  · exact stkPut_tidy h
  · exact hostWrites_tidy h
  · exact h

theorem objUpdateAt_tidy {s : State} {who : Access} {addr : Word} {f : Word → Word → Option (Word × Word)}
    (h : Tidy s) :
    StopTidy (objUpdateAt s who addr f) := by
  unfold objUpdateAt
  refine (objLoad_tidy h).bind fun ⟨_, _⟩ h => ?_
  split
  split
  · exact Tidy.snd h ‹_›
  · exact objStore_tidy (Tidy.snd h ‹_›)

theorem serveObject_tidy {s : State} {who : Access} {e : LogEntry} (h : Tidy s) : StopTidy (serveObject s who e) := by
  unfold serveObject
  refine (objUpdateAt_tidy h).bind fun ⟨_, _⟩ h => ?_
  split
  exact ite_tidy (forgetObjErr_tidy (Tidy.snd h ‹_›)) (Tidy.snd h ‹_›)

theorem cpObject_tidy {s : State} {e : LogEntry} {interrupted : Bool} {go : State → Body} (h : Tidy s)
    (hgo : ∀ x0, Tidy x0 → BodyTidy (go x0)) :
    BodyTidy (cpObject s e interrupted go) := by
  unfold cpObject
  split
  · dsimp only
    split
    · dsimp only [BodyTidy, Yields, stopState]
      exact onCp_tidy h
    · dsimp only [BodyTidy, Yields, stopState]
      exact onCp_tidy h
  · exact hgo _ (onCp_tidy h)

theorem writeFault_tidy {s : State} {l : Launch} {e : QEntry} {f : EngFault} (h : Tidy s) :
    EngTidy (writeFault s l e f) := by
  unfold writeFault
  dsimp only
  split
  · split
    · split
      · exact onLaunch_tidy ((engStore_tidy ((engStore_tidy h).ok ‹_›)).ok ‹_›)
      · exact logError_tidy ((engStore_tidy ((engStore_tidy h).ok ‹_›)).error (x := .fail _ _ _) ‹_›)
      · exact (engStore_tidy ((engStore_tidy h).ok ‹_›)).error ‹_›
    · split
      · exact onLaunch_tidy ((engStore_tidy (logError_tidy ((engStore_tidy h).error (x := .fail _ _ _) ‹_›))).ok ‹_›)
      · exact logError_tidy
          ((engStore_tidy (logError_tidy ((engStore_tidy h).error (x := .fail _ _ _) ‹_›))).error
            (x := .fail _ _ _) ‹_›)
      · exact (engStore_tidy (logError_tidy ((engStore_tidy h).error (x := .fail _ _ _) ‹_›))).error ‹_›
    · exact (engStore_tidy h).error ‹_›
  · split
    · exact onLaunch_tidy ((engStore_tidy h).ok ‹_›)
    · exact logError_tidy ((engStore_tidy h).error (x := .fail _ _ _) ‹_›)
    · exact (engStore_tidy h).error ‹_›

theorem reportOrphan_tidy {s : State} {l : Launch} {c : Cause} (h : Tidy s) : Tidy (reportOrphan s l c) := by
  unfold reportOrphan
  dsimp only
  exact ite_tidy h (ite_tidy (onMd_tidy (onLaunch_tidy h)) (onLaunch_tidy h))

theorem contribute_tidy {s : State} {e : QEntry} {a : Word} {err : Bool} {n : Nat} (h : Tidy s) :
    StopTidy (contribute s e a err n) :=
  objUpdateAt_tidy h

theorem tryObject_tidy {s : State} {e : QEntry} {f : Option EngFault} {n : Nat} (h : Tidy s) :
    EngTidy (tryObject s e f n) := by
  unfold tryObject
  split
  · exact h
  · split
    · exact h
    · split
      · exact Tidy.eng (engStopOf_tidy ((contribute_tidy h).error ‹_›)) ‹_›
      · exact engStopOf_tidy ((contribute_tidy h).error ‹_›)

theorem recordFault_tidy {s : State} {e : QEntry} {f : Option EngFault} (h : Tidy s) :
    EngTidy (recordFault s e f) := by
  unfold recordFault
  split
  · refine (writeFault_tidy h).bind fun ⟨_, _⟩ h' => ?_
    split
    exact reportOrphan_tidy (Tidy.snd h' ‹_›)
  · exact h

theorem reportEntry_tidy {s : State} {e : QEntry} {f : Option EngFault} {n : Nat} {record : BitVec 16} (h : Tidy s) :
    Tidy (reportEntry s e f n record) := by
  unfold reportEntry
  dsimp only
  split
  · exact onSt_tidy h
  · split
    · exact noteObjErr_tidy ((contribute_tidy (onSt_tidy h)).ok ‹_›)
    · exact (contribute_tidy (onSt_tidy h)).ok ‹_›
    · exact onSt_tidy h

theorem putFlight_tidy {s : State} {e : QEntry} (h : Tidy s) : Tidy (putFlight s e) :=
  onSt_tidy h

theorem finishEntry_tidy {s : State} {e : QEntry} {f : Option EngFault} {n : Nat} (h : Tidy s) :
    Tidy (finishEntry s e f n).2 := by
  unfold finishEntry
  dsimp only
  split
  · exact putFlight_tidy h
  · split
    · exact putFlight_tidy ((tryObject_tidy h).error (x := .wait _ _) ‹_›)
    · exact putFlight_tidy ((tryObject_tidy h).error (x := .fail _ _ _) ‹_›)
    · split
      · exact putFlight_tidy ((recordFault_tidy ((tryObject_tidy h).ok ‹_›)).error (x := .wait _ _) ‹_›)
      · exact putFlight_tidy ((recordFault_tidy ((tryObject_tidy h).ok ‹_›)).error (x := .fail _ _ _) ‹_›)
      · exact reportEntry_tidy ((recordFault_tidy ((tryObject_tidy h).ok ‹_›)).ok ‹_›)

theorem cancelFrom_tidy {s : State} {failed x : List QEntry} (h : Tidy s) : Tidy (cancelFrom s failed x) := by
  induction x generalizing s failed with
  | nil =>
    rw [cancelFrom]
    exact h
  | cons y rest ih =>
    rw [cancelFrom]
    split
    · dsimp only
      exact ih (finishEntry_tidy (onSt_tidy h))
    · exact ih h

theorem completeEntry_tidy {s : State} {e : QEntry} {f : Option EngFault} {n : Nat} (h : Tidy s) :
    Tidy (completeEntry s e f n) := by
  unfold completeEntry
  split
  exact ite_tidy (cancelFrom_tidy (Tidy.snd (finishEntry_tidy h) ‹_›)) (Tidy.snd (finishEntry_tidy h) ‹_›)

theorem afterEngine_tidy {s : State} (h : Tidy s) : Tidy (afterEngine s) := by
  unfold afterEngine
  split
  · exact ite_tidy (settleGroup_tidy h) h
  · exact h

/-! ## The kernel unit -/

theorem applyWrite_tidy {c : Core} {due seq : Nat} {x : KWrite} (h : TidyCore c) :
    TidyCore (applyWrite c due seq x) := by
  unfold applyWrite
  split
  · exact h
  · exact h
  · exact h
  · exact h
  · exact h
  · exact h
  · exact h
  · exact h
  · exact kernSrf_tidy h
  · exact h
  · exact h
  · dsimp only
    exact h

theorem holdFault_tidy {s : State} {x : HeldFault} (h : Tidy s) : Tidy (holdFault s x) :=
  onKern_tidy h

theorem raiseHeld_tidy {s : State} {x : HeldFault} (h : Tidy s) : Tidy (raiseHeld s x) :=
  kernelStop_tidy h

theorem endPass_tidy {s : State} {p : Pass} (h : Tidy s) : Tidy (endPass s p) := by
  unfold endPass
  split
  dsimp only
  split
  · exact onKern_tidy h
  · exact holdFault_tidy (onKern_tidy h)

theorem endXform_tidy {s : State} {x : Xform} (h : Tidy s) : Tidy (endXform s x) := by
  unfold endXform
  dsimp only
  split
  · exact onKern_tidy (holdFault_tidy (onKern_tidy h))
  · exact withCore_tidy (onKern_tidy h) (cellPutAll_wf _ (core_tidy (onKern_tidy h)))

theorem endLanding_tidy {s : State} {i : Fin 32} {e : LogEntry} (h : Tidy s) : Tidy (endLanding s i e) := by
  unfold endLanding
  split
  · exact withCore_tidy h (foldl_tidyCore (fun _ _ hc => applyWrite_tidy hc) _ (core_tidy h))
  · exact h

theorem runEvent_tidy {s : State} {e : KEvent} (h : Tidy s) : Tidy (runEvent s e) := by
  unfold runEvent
  split
  · dsimp only
    exact withCore_tidy h (applyWrite_tidy (core_tidy h))
  · exact endLanding_tidy h
  · exact endPass_tidy h
  · exact endXform_tidy h

theorem reportKernel_tidy {s : State} {f : KStop} (h : Tidy s) : Tidy (reportKernel s f) := by
  unfold reportKernel
  dsimp only
  exact raiseAsync_tidy (onKern_tidy h)

theorem lateStop_tidy {s : State} {x : Late} (h : Tidy s) : Tidy (lateStop s x) :=
  kernelStop_tidy h

theorem atSlot_tidy {s : State} {w : SlotWord} (h : Tidy s) : Tidy (atSlot s w) :=
  h

theorem finishBundle_tidy {s : State} {b : Issue} (h : Tidy s) : Tidy (finishBundle s b) := by
  unfold finishBundle
  dsimp only
  split
  · exact onKern_tidy h
  · exact kernelStop_tidy (onKern_tidy h)

theorem bundleFault_tidy {s : State} {pc slot : Nat} {opc : BitVec 8} {t : Trap} (h : Tidy s) :
    Tidy (bundleFault s pc slot opc t) :=
  kernelStop_tidy h

theorem startBundle_tidy {s : State} {pc : Nat} {x : Word} {l : List SlotWord} (h : Tidy s) :
    Tidy (startBundle s pc x l) := by
  unfold startBundle
  dsimp only
  exact ite_tidy (finishBundle_tidy (onKern_tidy h)) (onKern_tidy h)

theorem issueBundle_tidy {s : State} (h : Tidy s) : Tidy (issueBundle s) := by
  unfold issueBundle
  dsimp only
  split
  · exact bundleFault_tidy h
  · split
    · exact bundleFault_tidy h
    · split
      · exact bundleFault_tidy h
      · exact ite_tidy (bundleFault_tidy h)
          (ite_tidy (bundleFault_tidy h)
            (ite_tidy (onKern_tidy h)
              (ite_tidy (bundleFault_tidy h)
                (ite_tidy (onKern_tidy h) (ite_tidy (onKern_tidy h) (startBundle_tidy h))))))

theorem walksFirst_tidy {s : State} {n : Nat} (h : Tidy s) : Tidy (walksFirst s n) := by
  unfold walksFirst
  split
  · cases e : walkOlder s s.core.kern.seq with
    | none => exact h
    | some t => exact (walkOlder_tidy h).some e
  · exact h

theorem slotNext_tidy {s : State} (h : Tidy s) : OptionTidy Prod.snd (slotNext s) := by
  unfold slotNext
  split
  · trivial
  · split
    · trivial
    · dsimp only
      split
      · exact optionTidy_some (walksFirst_tidy h)
      · trivial

theorem slotFirst_tidy {s : State} (h : Tidy s) : OptionTidy Prod.snd (slotFirst s) := by
  unfold slotFirst
  split
  · exact trivial
  · exact slotNext_tidy h

theorem slotDone_tidy {s : State} (h : Tidy s) : Tidy (slotDone s) := by
  unfold slotDone
  dsimp only
  split
  · exact h
  · exact ite_tidy h (ite_tidy (finishBundle_tidy h) (onKern_tidy h))

theorem leaveKernel_tidy {s : State} {f : Kern → Kern} {fault : Option EngFault} {n : QEntry → Nat} (h : Tidy s) :
    Tidy (leaveKernel s f fault n) := by
  unfold leaveKernel
  dsimp only
  split
  · exact onKern_tidy h
  · exact afterEngine_tidy (completeEntry_tidy (onKern_tidy h))

theorem finishKernel_tidy {s : State} (h : Tidy s) : Tidy (finishKernel s) :=
  leaveKernel_tidy h

theorem settleStop_tidy {s : State} (h : Tidy s) : Tidy (settleStop s) := by
  unfold settleStop
  split
  · dsimp only
    exact h
  · exact h

theorem kernelStep_tidy {s : State} {x : KNext} (h : Tidy s) : Tidy (kernelStep s x) := by
  unfold kernelStep
  split
  · exact h
  · exact onKern_tidy h
  · exact slotDone_tidy h
  · exact runEvent_tidy h
  · exact reportKernel_tidy h
  · exact settleStop_tidy h
  · exact raiseHeld_tidy (onKern_tidy h)
  · exact lateStop_tidy h
  · exact onKern_tidy h
  · exact runEvent_tidy h
  · exact onKern_tidy h
  · exact issueBundle_tidy h
  · exact finishKernel_tidy h

theorem kernelTurn_tidy {s : State} (h : Tidy s) : Tidy (kernelTurn s) :=
  kernelStep_tidy h

theorem passIdle_tidy {s : State} (h : Tidy s) : Tidy (passIdle s) := by
  unfold passIdle
  split
  · exact onKern_tidy h
  · exact h

theorem kernelWhen_tidy {s : State} {core : Nat} {p : KNext → Bool} (h : Tidy s) : OutTidy (kernelWhen s core p) :=
  atCore_tidy h (fun _ h => ite_tidy (kernelTurn_tidy (passIdle_tidy h)) h)

theorem execKernelBundleIssue_tidy {core : Nat} {s : State} (h : Tidy s) : OutTidy (execKernelBundleIssue core s) :=
  kernelWhen_tidy h
theorem execFixedLatencyWrite_tidy {core : Nat} {s : State} (h : Tidy s) : OutTidy (execFixedLatencyWrite core s) :=
  kernelWhen_tidy h
theorem execLanding_tidy {core : Nat} {s : State} (h : Tidy s) : OutTidy (execLanding core s) := kernelWhen_tidy h
theorem execTmmaPassComplete_tidy {core : Nat} {s : State} (h : Tidy s) : OutTidy (execTmmaPassComplete core s) :=
  kernelWhen_tidy h
theorem execTransformComplete_tidy {core : Nat} {s : State} (h : Tidy s) : OutTidy (execTransformComplete core s) :=
  kernelWhen_tidy h
theorem execLateFault_tidy {core : Nat} {s : State} (h : Tidy s) : OutTidy (execLateFault core s) := kernelWhen_tidy h
theorem execKernelEnd_tidy {core : Nat} {s : State} (h : Tidy s) : OutTidy (execKernelEnd core s) := kernelWhen_tidy h

theorem putLanding_tidy {s : State} {i : Nat} {o : Option LogEntry} (h : Tidy s) : Tidy (putLanding s i o) :=
  onKern_tidy h

theorem putQueue_tidy {s : State} {i : Nat} {o : Option LogEntry} (h : Tidy s) : Tidy (putQueue s i o) :=
  onKern_tidy h

theorem performLanding_tidy {s : State} {i : Nat} {lost : Bool} (h : Tidy s) : Tidy (performLanding s i lost) := by
  unfold performLanding
  split
  · exact h
  · split
    · exact h
    · split
      · split
        exact onKern_tidy (putLanding_tidy
          (Tidy.fst (performEntry_tidy ((OptionTidy.ite (walkOlder_tidy h)).some ‹_›)) ‹_›))
      · exact h

theorem performQueue_tidy {s : State} {i : Nat} {lost : Bool} (h : Tidy s) : Tidy (performQueue s i lost) := by
  unfold performQueue
  split
  · exact h
  · split
    · exact h
    · split
      · split
        exact onKern_tidy (putQueue_tidy
          (Tidy.fst (performEntry_tidy ((OptionTidy.ite (walkOlder_tidy h)).some ‹_›)) ‹_›))
      · exact h

theorem execLandingDataArrival_tidy {core entry : Nat} {lost : Bool} {s : State} (h : Tidy s) : OutTidy
    (execLandingDataArrival core entry lost s) :=
  atCore_tidy h fun _ h => performLanding_tidy h
theorem execWriteQueueAck_tidy {core entry : Nat} {lost : Bool} {s : State} (h : Tidy s) : OutTidy
    (execWriteQueueAck core entry lost s) :=
  atCore_tidy h fun _ h => performQueue_tidy h

theorem startKernel_tidy {s : State} (h : Tidy s) : Tidy (startKernel s) := by
  unfold startKernel
  split
  · exact h
  · split
    · exact h
    · exact onKern_tidy h

theorem execKernelStart_tidy {core : Nat} {s : State} (h : Tidy s) : OutTidy (execKernelStart core s) :=
  atCore_tidy h fun _ h => startKernel_tidy h

theorem takePending_tidy {s : State} (h : Tidy s) : Tidy (takePending s) := by
  unfold takePending
  split
  · split
    · exact takeAsync_tidy h
    · exact h
  · exact h

theorem execTakeTrap_tidy {core : Nat} {s : State} (h : Tidy s) : OutTidy (execTakeTrap core s) :=
  atCore_tidy h fun _ h => takePending_tidy h

theorem cpWatchdog_tidy {s : State} (h : Tidy s) : Tidy (cpWatchdog s) := by
  unfold cpWatchdog
  split
  · exact h
  · exact ite_tidy (takeSync_tidy h) h

theorem kernWatchdog_tidy {s : State} (h : Tidy s) : Tidy (kernWatchdog s) := by
  unfold kernWatchdog
  split
  · exact ite_tidy (kernelStop_tidy (onKern_tidy h)) h
  · exact h

theorem execWaitWatchdogExpiry_tidy {core : Nat} {kernel : Bool} {s : State} (h : Tidy s) : OutTidy
    (execWaitWatchdogExpiry core kernel s) :=
  atCore_tidy h fun _ h => ite_tidy (kernWatchdog_tidy h) (cpWatchdog_tidy h)

theorem cpThreshold_tidy {s : State} (h : Tidy s) : Tidy (cpThreshold s) := by
  unfold cpThreshold
  split
  · exact h
  · exact ite_tidy (takeSync_tidy h) h

theorem kernThreshold_tidy {s : State} {i : Nat} (h : Tidy s) : Tidy (kernThreshold s i) := by
  unfold kernThreshold
  split
  · exact h
  · exact ite_tidy (putLanding_tidy h) h

theorem execThresholdTimeoutExpiry_tidy {core : Nat} {entry : Option Nat} {s : State} (h : Tidy s) :
    OutTidy (execThresholdTimeoutExpiry core entry s) := by
  unfold execThresholdTimeoutExpiry
  refine atCore_tidy h (fun _ h => ?_)
  split
  · exact cpThreshold_tidy h
  · exact kernThreshold_tidy h

theorem abortExpiry_tidy {s : State} (h : Tidy s) : Tidy (abortExpiry s) :=
  ite_tidy (fatalStop_tidy h) h

theorem execGroupAbortExpiry_tidy {core : Nat} {s : State} (h : Tidy s) : OutTidy (execGroupAbortExpiry core s) :=
  atCore_tidy h fun _ h => abortExpiry_tidy h

theorem resumeKernel_tidy {s : State} (h : Tidy s) : Tidy (resumeKernel s) :=
  onKern_tidy h

theorem execKresume_tidy {w : SForm} {s : State} (h : Tidy s) : OutTidy (execKresume w s) :=
  runBody_tidy h fun _ h => ite_tidy (resumeKernel_tidy h) h

theorem abandonEntry_tidy {s : State} {e : LogEntry} (h : Tidy s) : Tidy (abandonEntry s e) :=
  ite_tidy (performEntry_tidy h) h

theorem abortKernel_tidy {s : State} (h : Tidy s) : Tidy (abortKernel s) :=
  leaveKernel_tidy (foldl_tidy (fun _ _ h => abandonEntry_tidy h) _ h)

theorem execKresumeAbort_tidy {w : SForm} {s : State} (h : Tidy s) : OutTidy (execKresumeAbort w s) :=
  runBody_tidy h fun _ h => ite_tidy (abortKernel_tidy h) h

/-! ## Walkers -/

theorem answerWork_tidy {s : State} {n : Nat} {o : Option Nat} (h : Tidy s) : Tidy (answerWork s n o) :=
  onCore_tidy h fun _ h => h

theorem serveQueue_tidy {s : State} {launch die : Nat} {x : List Nat} (h : Tidy s) :
    Tidy (serveQueue s launch die x) := by
  induction x generalizing s with
  | nil =>
    rw [serveQueue]
    exact onLaunch_tidy h
  | cons n rest ih =>
    rw [serveQueue]
    split
    · exact h
    · exact ite_tidy (ih (answerWork_tidy (onLaunch_tidy h))) (onLaunch_tidy h)

theorem startSteal_tidy {s : State} {launch die : Nat} (h : Tidy s) : Tidy (startSteal s launch die) :=
  onLaunch_tidy h

theorem requestWork_tidy {s : State} {launch n : Nat} (h : Tidy s) : Tidy (requestWork s launch n) := by
  unfold requestWork
  dsimp only
  split
  · exact answerWork_tidy h
  · exact ite_tidy (answerWork_tidy h)
      (ite_tidy (onCore_tidy (onLaunch_tidy h) (fun _ h => h))
        (startSteal_tidy (serveQueue_tidy (onCore_tidy (onLaunch_tidy h) (fun _ h => h)))))

theorem workBody_tidy {s : State} (h : Tidy s) : BodyTidy (workBody s) := by
  unfold workBody
  split
  · exact h
  · split
    · exact h
    · dsimp only
      split
      · exact h
      · split
        · exact onCp_tidy (ite_tidy (requestWork_tidy h) h)
        · exact ite_tidy (requestWork_tidy h) h

theorem stealAsk_tidy {s : State} {thief victim launch : Nat} (h : Tidy s) :
    Tidy (stealAsk s thief victim launch) := by
  unfold stealAsk
  split
  · exact h
  · split
    · exact h
    · split
      · dsimp only
        split
        · exact h
        · split
          · exact onLaunch_tidy h
          · exact ite_tidy (onLaunch_tidy h) (onLaunch_tidy h)
      · exact h

theorem stealBack_tidy {s : State} {thief launch : Nat} (h : Tidy s) : Tidy (stealBack s thief launch) := by
  unfold stealBack
  split
  · exact h
  · split
    · dsimp only
      exact ite_tidy (startSteal_tidy (serveQueue_tidy (onLaunch_tidy h)))
        (onLaunch_tidy (foldl_tidy (fun _ _ h => answerWork_tidy h) _ h))
    · exact h

theorem execWork_tidy {w : IForm} {s : State} (h : Tidy s) : OutTidy (execWork w s) :=
  runPlain_tidy h fun _ h => workBody_tidy h
theorem execStealRequest_tidy {thief victim launchId : Nat} {s : State} (h : Tidy s) : OutTidy
    (execStealRequest thief victim launchId s) :=
  stealAsk_tidy h
theorem execStealReturn_tidy {thief launchId : Nat} {s : State} (h : Tidy s) : OutTidy
    (execStealReturn thief launchId s) :=
  stealBack_tidy h

/-! ## Launches -/

theorem onQueue_tidy {s : State} {q : Nat} {f : Queue → Queue} (h : Tidy s) : Tidy (s.onQueue q f) :=
  h

theorem headPacket_tidy {s : State} {q : Nat} (h : Tidy s) : EngTidy (headPacket s q) := by
  unfold headPacket
  dsimp only
  split
  · exact h
  · refine (engLoad_tidy h).bind fun ⟨_, _⟩ h => ?_
    exact h

theorem queueStop_tidy {s : State} {q : Nat} (h : Tidy s) : Tidy (queueStop s q) :=
  onQueue_tidy h

theorem leaveHead_tidy {s : State} {q : Nat} (h : Tidy s) : Tidy (leaveHead s q) :=
  onQueue_tidy h

theorem waitHead_tidy {s : State} {q : Nat} {page : Option PageWait} (h : Tidy s) : Tidy (waitHead s q page) :=
  onQueue_tidy h

theorem headStop_tidy {q : Nat} {x : EngStop} (h : Tidy (engState x)) : Tidy (headStop q x) := by
  unfold headStop
  split
  · exact waitHead_tidy h
  · exact queueStop_tidy (logError_tidy h)

theorem onPacket_tidy {s : State} {q t : Nat} {f : State → List Word → State} (h : Tidy s)
    (hf : ∀ x0, Tidy x0 → ∀ x1, Tidy (f x0 x1)) :
    Tidy (onPacket s q t f) := by
  unfold onPacket
  split
  · exact h
  · split
    · exact headStop_tidy ((headPacket_tidy h).error ‹_›)
    · exact ite_tidy (queueStop_tidy ((headPacket_tidy h).ok ‹_›)) (ite_tidy (hf _ ((headPacket_tidy h).ok ‹_›) _) h)

theorem unitLoad_tidy {s : State} {l : Launch} {a : Word} {n : Nat} (h : Tidy s) :
    Yields (fun x => Tidy (notYetState x)) (fun x => Tidy x.2) (unitLoad s l a n) := by
  unfold unitLoad
  split
  · exact (engLoad_tidy h).ok ‹_›
  · exact (engLoad_tidy h).error (x := .wait _ _) ‹_›
  · exact (engLoad_tidy h).error (x := .fail _ _ _) ‹_›

theorem acceptLaunch_tidy {s : State} {p : List Word} {l : Launch} (h : Tidy s) :
    Yields (fun x => Tidy (notYetState x)) (fun x => Tidy x.2) (acceptLaunch s p l) := by
  unfold acceptLaunch
  dsimp only
  split
  · exact h
  · split
    · exact h
    · refine (unitLoad_tidy h).bind fun ⟨_, s⟩ h => ?_
      split
      case' isTrue => refine (unitLoad_tidy h).bind fun ⟨ds, s⟩ h => ?_
      all_goals
        refine Yields.bind (good := fun x : Launch × State => Tidy x.2) ?_ fun ⟨l, s⟩ h => ?_
        · split
          · exact h
          · split
            · exact h
            · refine (unitLoad_tidy h).bind fun ⟨b, s⟩ h => ?_
              dsimp only
              split
              · exact h
              · exact h
        · dsimp only
          split
          · exact h
          · exact h
          · split
            · split
              · exact foundPoison_tidy h
              · exact foundPoison_tidy h
            · split
              · exact h
              · exact h

theorem recordWrite_tidy {s : State} {l : Launch} {page : Option PageWait} {off : Nat} {w : List Word} (h : Tidy s) :
    EngTidy (recordWrite s l page off w) := by
  unfold recordWrite
  split
  · exact logError_tidy ((engStore_tidy h).error (x := .fail _ _ _) ‹_›)
  · exact engStore_tidy h

theorem writeCompletion_tidy {s : State} {l : Launch} {page : Option PageWait} (h : Tidy s) :
    EngTidy (writeCompletion s l page) := by
  unfold writeCompletion
  refine (recordWrite_tidy h).bind fun ⟨_, _⟩ h => ?_
  split
  refine (recordWrite_tidy (Tidy.snd h ‹_›)).bind fun ⟨_, _⟩ h => ?_
  split
  exact ite_tidy (onMd_tidy (Tidy.snd h ‹_›)) (Tidy.snd h ‹_›)

theorem completeLaunch_tidy {s : State} {id : Nat} (h : Tidy s) : Tidy (completeLaunch s id) := by
  unfold completeLaunch
  split
  · exact h
  · split
    · exact h
    · split
      · exact (writeCompletion_tidy h).ok ‹_›
      · exact onLaunch_tidy ((writeCompletion_tidy h).error (x := .wait _ _) ‹_›)
      · exact (writeCompletion_tidy h).error (x := .fail _ _ _) ‹_›

theorem launchPacket_tidy {s : State} {q : Nat} (h : Tidy s) : Tidy (launchPacket s q) := by
  unfold launchPacket
  refine onPacket_tidy h fun s h _ => ?_
  dsimp only
  split
  · exact h
  · split
    · exact with_launches_nextLaunch_tidy (waitHead_tidy ((acceptLaunch_tidy h).ok ‹_›))
    · exact waitHead_tidy ((acceptLaunch_tidy h).error (x := .waits _ _) ‹_›)
    · have h : Tidy _ := (acceptLaunch_tidy h).error (x := .refused _ _) ‹_›
      split
      · exact leaveHead_tidy ((writeCompletion_tidy h).ok ‹_›)
      · exact headStop_tidy ((writeCompletion_tidy h).error ‹_›)

theorem grantCore_tidy {s : State} {l : Launch} {base number rank : Nat} {c : Core} (_ : Tidy s) (_ : TidyCore c) :
    TidyCore (grantCore s l base number rank c) := by
  unfold grantCore
  dsimp only
  exact coreReset_tidy

theorem grantAt_tidy {s : State} {l : Launch} {d base : Nat} (h : Tidy s) : Tidy (grantAt s l d base) := by
  unfold grantAt
  dsimp only
  exact ite_tidy (leaveHead_tidy
    (onLaunch_tidy (foldl_tidy (fun _ _ h => onCore_tidy h (fun _ h' => grantCore_tidy h h')) _ h)))
      (onLaunch_tidy (foldl_tidy (fun _ _ h => onCore_tidy h (fun _ h' => grantCore_tidy h h')) _ h))

theorem grantGroup_tidy {s : State} {id d base : Nat} (h : Tidy s) : Tidy (grantGroup s id d base) := by
  unfold grantGroup
  split
  · exact h
  · exact ite_tidy (grantAt_tidy h) h

theorem barrierPacket_tidy {s : State} {q : Nat} (h : Tidy s) : Tidy (barrierPacket s q) := by
  unfold barrierPacket
  refine onPacket_tidy h (fun _ h _ => ?_)
  split
  · exact headStop_tidy ((engLoad_tidy h).error ‹_›)
  · exact ite_tidy (leaveHead_tidy ((engLoad_tidy h).ok ‹_›)) (waitHead_tidy ((engLoad_tidy h).ok ‹_›))

theorem signalPacket_tidy {s : State} {q : Nat} (h : Tidy s) : Tidy (signalPacket s q) := by
  unfold signalPacket
  refine onPacket_tidy h (fun _ h _ => ?_)
  dsimp only
  split
  · exact h
  · split
    · exact leaveHead_tidy (ite_tidy (onMd_tidy ((engStore_tidy h).ok ‹_›)) ((engStore_tidy h).ok ‹_›))
    · exact waitHead_tidy ((engStore_tidy h).error (x := .wait _ _) ‹_›)
    · exact leaveHead_tidy
        (ite_tidy (onMd_tidy (logError_tidy ((engStore_tidy h).error (x := .fail _ _ _) ‹_›)))
          (logError_tidy ((engStore_tidy h).error (x := .fail _ _ _) ‹_›)))

theorem dropWords_tidy {s : State} {p : CachedWord → Bool} (h : Tidy s) : Tidy (dropWords s p) := by
  unfold dropWords
  extract_lets f
  exact mapCores_tidy h (f := f) (g := f) (fun _ hc => hc) fun _ hc => hc

theorem unloadPacket_tidy {s : State} {q : Nat} (h : Tidy s) : Tidy (unloadPacket s q) := by
  unfold unloadPacket
  refine onPacket_tidy h (fun _ h _ => ?_)
  split
  · exact h
  · split
    · exact queueStop_tidy (logError_tidy h)
    · dsimp only
      split
      · exact queueStop_tidy (logError_tidy h)
      · split
        · exact h
        · split
          · exact queueStop_tidy (logError_tidy ((metPoison_tidy h).some ‹_›))
          · exact leaveHead_tidy (ite_tidy (stkPut_tidy (dropWords_tidy (stkPut_tidy h))) (stkPut_tidy h))

theorem codeTarget_tidy {s : State} {who : Access} {a : Word} {n : Nat} (h : Tidy s) :
    EngTidy (codeTarget s who a n) := by
  unfold codeTarget
  split
  · split
    · have h : Tidy _ := (translate_tidy h).error (x := .trap _ _) ‹_›
      exact engStopOf_tidy (x := .trap _ _) h
    · exact engStopOf_tidy ((translate_tidy h).error ‹_›)
    · have h := (translate_tidy h).ok ‹_›
      split
      · exact h
      · split
        · exact engStopOf_tidy ((place_tidy h).error ‹_›)
        · split
          · exact h
          · split
            · exact h
            · split
              · exact h
              · exact h
  · exact h

theorem locPut_tidy {s : State} {l : Loc} {b : List Byte} (h : Tidy s) : Tidy (locPut s l b) := by
  unfold locPut
  split
  · exact stkPut_tidy h
  · exact hostWrites_tidy h
  · exact onCore_tidy h fun _ h => putSrf_tidy h
  · exact h

theorem patchWords_tidy {s : State} {key n : Nat} (h : Tidy s) : Tidy (patchWords s key n) := by
  unfold patchWords
  extract_lets t f
  exact mapCores_tidy (dropWords_tidy h) (f := f) (g := f) (fun _ hc => hc) fun _ hc => hc

theorem patchPiece_tidy {s : State} {l : Loc} {b : List Byte} (h : Tidy s) : Tidy (patchPiece s l b) :=
  patchWords_tidy (locPut_tidy h)

theorem codeCopy_tidy {s : State} {who : Access} {dst src : Word} {n : Nat} (h : Tidy s) :
    EngTidy (codeCopy s who dst src n) := by
  unfold codeCopy
  split
  · exact h
  · refine Yields.bind (good := fun x : List (Loc × Nat) × State => Tidy x.2) (Yields.foldlM (fun _ _ h => ?_) _ h)
      fun _ h => ?_
    · exact (codeTarget_tidy h).bind fun _ h => yields_ok h
    refine (engLoad_tidy h).bind fun _ h => yields_ok ?_
    exact dropWords_tidy (foldl_snd_tidy (fun _ _ h => patchPiece_tidy h) _ h)

theorem codePacket_tidy {s : State} {q : Nat} (h : Tidy s) : Tidy (codePacket s q) := by
  unfold codePacket
  refine onPacket_tidy h (fun _ h _ => ?_)
  dsimp only
  split
  · exact leaveHead_tidy ((codeCopy_tidy h).ok ‹_›)
  · exact headStop_tidy ((codeCopy_tidy h).error ‹_›)

theorem execLaunch_tidy {queue : Nat} {s : State} (h : Tidy s) : OutTidy (execLaunch queue s) := launchPacket_tidy h
theorem execGrantGroup_tidy {launchId die base : Nat} {s : State} (h : Tidy s) : OutTidy
    (execGrantGroup launchId die base s) :=
  grantGroup_tidy h
theorem execLaunchComplete_tidy {launchId : Nat} {s : State} (h : Tidy s) : OutTidy (execLaunchComplete launchId s) :=
  completeLaunch_tidy h
theorem execBarrierPacket_tidy {queue : Nat} {s : State} (h : Tidy s) : OutTidy (execBarrierPacket queue s) :=
  barrierPacket_tidy h
theorem execCodePacket_tidy {queue : Nat} {s : State} (h : Tidy s) : OutTidy (execCodePacket queue s) :=
  codePacket_tidy h
theorem execUnloadPacket_tidy {queue : Nat} {s : State} (h : Tidy s) : OutTidy (execUnloadPacket queue s) :=
  unloadPacket_tidy h
theorem execSignalPacket_tidy {queue : Nat} {s : State} (h : Tidy s) : OutTidy (execSignalPacket queue s) :=
  signalPacket_tidy h

/-! ## Spectral words -/

theorem runX_tidy {opc : BitVec 8} {lat busy : Nat} {plan : XPlan} {w : RForm} {s : State} (h : Tidy s) :
    OutTidy (runX opc lat busy plan w s) := by
  unfold runX
  refine runPlain_tidy h (fun _ h => ?_)
  split
  · exact h
  · dsimp only
    exact useUnit_tidy (onKern_tidy h)

theorem execXfft_tidy {w : RForm} {s : State} (h : Tidy s) : OutTidy (execXfft w s) := runX_tidy h
theorem execXifft_tidy {w : RForm} {s : State} (h : Tidy s) : OutTidy (execXifft w s) := runX_tidy h
theorem execXtrn_tidy {w : RForm} {s : State} (h : Tidy s) : OutTidy (execXtrn w s) := runX_tidy h
theorem execXtrnTurn_tidy {w : RForm} {s : State} (h : Tidy s) : OutTidy (execXtrnTurn w s) := runX_tidy h
theorem execXtrnBack_tidy {w : RForm} {s : State} (h : Tidy s) : OutTidy (execXtrnBack w s) := runX_tidy h
theorem execXcvt_tidy {w : RForm} {s : State} (h : Tidy s) : OutTidy (execXcvt w s) := runX_tidy h
theorem execXexp_tidy {w : RForm} {s : State} (h : Tidy s) : OutTidy (execXexp w s) := runX_tidy h
theorem execXsclS_tidy {w : RForm} {s : State} (h : Tidy s) : OutTidy (execXsclS w s) := runX_tidy h
theorem execXsclU_tidy {w : RForm} {s : State} (h : Tidy s) : OutTidy (execXsclU w s) := runX_tidy h
theorem execXmov_tidy {w : RForm} {s : State} (h : Tidy s) : OutTidy (execXmov w s) := runX_tidy h
theorem execXhdr_tidy {w : RForm} {s : State} (h : Tidy s) : OutTidy (execXhdr w s) := runX_tidy h

/-! ## Layout words -/

theorem readHandle_tidy {s : State} {who : Access} {index : Nat} (h : Tidy s) : EngTidy (readHandle s who index) := by
  unfold readHandle
  split
  · exact h
  · exact foundPoison_tidy h
  · exact h
  · dsimp only
    split
    · exact h
    · split
      · exact engStopOf_tidy ((translate_tidy h).error ‹_›)
      · split
        · exact (translate_tidy h).ok ‹_›
        · split
          · exact (engLoad_tidy ((translate_tidy h).ok ‹_›)).error ‹_›
          · split <;> exact (engLoad_tidy ((translate_tidy h).ok ‹_›)).ok ‹_›

theorem tileHome_tidy {s : State} {who : Access} {a : Word} (h : Tidy s) : EngTidy (tileHome s who a) := by
  unfold tileHome
  split
  · exact engStopOf_tidy ((translate_tidy h).error ‹_›)
  · split <;> exact (translate_tidy h).ok ‹_›

theorem tilePages_tidy {s : State} {who : Access} {a : Word} {n mode : Nat} (h : Tidy s) :
    EngTidy (tilePages s who a n mode) := by
  unfold tilePages
  refine Yields.bind (good := Tidy) (Yields.foldlM (fun _ _ h => ?_) _ h) fun _ h => yields_ok h
  split
  · exact engStopOf_tidy ((translate_tidy h).error ‹_›)
  · have h := (translate_tidy h).ok ‹_›
    split
    · exact h
    · exact h

theorem tileLoad_tidy {s : State} {e : QEntry} {x : Handle} {i : Nat} (h : Tidy s) : EngTidy (tileLoad s e x i) := by
  unfold tileLoad
  dsimp only
  split
  · exact h
  · refine (tileHome_tidy h).bind fun ⟨_, _⟩ h => ?_
    refine (engLoad_tidy h).bind fun ⟨_, _⟩ h => ?_
    split
    · exact h
    · refine (engLoad_tidy h).bind fun ⟨_, _⟩ h => ?_
      split
      · exact h
      · split
        · exact h
        · refine (tilePages_tidy h).bind fun ⟨_, _⟩ h => ?_
          split
          · exact h
          · split
            · exact h
            · split <;> exact h

theorem tileRead_tidy {s : State} {e : QEntry} {x : Handle} {i : Nat} (h : Tidy s) : EngTidy (tileRead s e x i) := by
  unfold tileRead
  refine (tileLoad_tidy h).bind fun ⟨_, _⟩ h => ?_
  split
  split
  · exact Tidy.snd h ‹_›
  · split
    · exact Tidy.snd h ‹_›
    · refine (sideWrite_tidy (Tidy.snd h ‹_›)).bind fun ⟨_, _⟩ h => ?_
      split
      exact Tidy.snd h ‹_›

theorem tileWrite_tidy {s : State} {e : QEntry} {x : Handle} {i : Nat} (h : Tidy s) :
    EngTidy (tileWrite s e x i) := by
  unfold tileWrite
  dsimp only
  split
  · exact h
  · refine (tileHome_tidy h).bind fun ⟨_, _⟩ h => ?_
    refine (sideRead_tidy h).bind fun ⟨_, _⟩ h => ?_
    split
    · exact h
    · split
      · exact h
      · refine (sideRead_tidy h).bind fun ⟨_, _⟩ h => ?_
        split
        · exact h
        · split
          · exact h
          · split
            · exact h
            · split
              · exact h
              · refine (tilePages_tidy h).bind fun ⟨_, _⟩ h => ?_
                refine (engStore_tidy h).bind fun ⟨_, _⟩ h => ?_
                exact h

/-! ## The stream engine -/

theorem stopUnit_tidy {who : Access} {d : Side} {off n pos : Nat} {x : EngStop} (h : Tidy (engState x)) :
    Tidy (unitState (stopUnit who d off n pos x)) := by
  unfold stopUnit
  split
  · exact h
  · split
    · exact sidePoison_tidy h
    · exact h

theorem failUnit_tidy {pos n : Nat} {x : EngStop} (h : Tidy (engState x)) : Tidy (unitState (failUnit pos n x)) := by
  unfold failUnit
  split <;> exact h

theorem writeStop_tidy {pos n : Nat} {x : EngStop} (h : Tidy (engState x)) :
    Tidy (unitState (writeStop pos n x)) := by
  unfold writeStop
  split <;> exact h

theorem writeBlock_tidy {s : State} {e : QEntry} {i len : Nat} {b : List Byte} (h : Tidy s) :
    EngTidy (writeBlock s e i len b) := by
  unfold writeBlock
  dsimp only
  refine (sideWrite_tidy h).bind fun ⟨_, _⟩ h => ?_
  exact sideClear_tidy h

theorem copyUnit_tidy {s : State} {e : QEntry} {i : Nat} (h : Tidy s) : Tidy (unitState (copyUnit s e i)) := by
  unfold copyUnit
  dsimp only
  split
  · exact stopUnit_tidy ((sideRead_tidy h).error ‹_›)
  · split
    · exact writeStop_tidy ((writeBlock_tidy ((sideRead_tidy h).ok ‹_›)).error ‹_›)
    · exact (writeBlock_tidy ((sideRead_tidy h).ok ‹_›)).ok ‹_›

theorem convUnit_tidy {s : State} {e : QEntry} {i : Nat} (h : Tidy s) : Tidy (unitState (convUnit s e i)) := by
  unfold convUnit
  dsimp only
  split
  · exact stopUnit_tidy ((sideRead_tidy h).error ‹_›)
  · split
    · exact (sideRead_tidy h).ok ‹_›
    · split
      · exact (sideRead_tidy h).ok ‹_›
      · split
        · exact stopUnit_tidy ((sideRead_tidy ((sideRead_tidy h).ok ‹_›)).error ‹_›)
        · split
          · exact (sideRead_tidy ((sideRead_tidy h).ok ‹_›)).ok ‹_›
          · split
            · exact (sideRead_tidy ((sideRead_tidy h).ok ‹_›)).ok ‹_›
            · split
              · exact writeStop_tidy ((sideWrite_tidy ((sideRead_tidy ((sideRead_tidy h).ok ‹_›)).ok ‹_›)).error ‹_›)
              · exact (sideWrite_tidy ((sideRead_tidy ((sideRead_tidy h).ok ‹_›)).ok ‹_›)).ok ‹_›

theorem writeElems_tidy {who : Access} {e : QEntry} {x : Machine.Inter} {o : Owner} {y : List (Nat × List Byte)}
    {z : State} (h : Tidy z) :
    Yields (fun x => Tidy (engState x.2)) Tidy (writeElems who e x o y z) := by
  induction y generalizing z with
  | nil =>
    rw [writeElems]
    exact h
  | cons x l ih =>
    rw [writeElems]
    split
    · exact (sideWrite_tidy h).error ‹_›
    · exact ih ((sideWrite_tidy h).ok ‹_›)

theorem interUnit_tidy {s : State} {e : QEntry} {i : Nat} (h : Tidy s) : Tidy (unitState (interUnit s e i)) := by
  unfold interUnit
  dsimp only
  split
  · split
    · exact foldl_tidy (fun _ _ h => sidePoison_tidy h) _ ((sideRead_tidy h).error (x := .fail _ _ _) ‹_›)
    · exact (sideRead_tidy h).error (x := .fail _ _ _) ‹_›
  · exact (sideRead_tidy h).error (x := .wait _ _) ‹_›
  · split
    · exact writeStop_tidy ((writeElems_tidy ((sideRead_tidy h).ok ‹_›)).error ‹_›)
    · exact (writeElems_tidy ((sideRead_tidy h).ok ‹_›)).ok ‹_›

theorem readBlocks_tidy {who : Access} {x : Side} {off : Nat} : ∀ {n : Nat} {s : State} {k : Nat}, Tidy s →
    Yields (fun x => Tidy (engState x.2)) (fun x => Tidy x.2) (readBlocks s who x off n k)
  | 0, _, _, h => h
  | n + 1, s, k, h => by
    rw [readBlocks]
    split
    · exact (sideRead_tidy h).error ‹_›
    · have h := readBlocks_tidy (who := who) (x := x) (off := off) (n := n) (k := k + 1) ((sideRead_tidy h).ok ‹_›)
      dsimp only at h
      split
      · exact h.error ‹_›
      · have h : Tidy _ := h.ok (x := (_, _)) ‹_›
        exact h

theorem encodePoison_tidy {s : State} {e : QEntry} {c k : Nat} {a : Word} (h : Tidy s) :
    Tidy (unitState (encodePoison s e c k a)) := by
  unfold encodePoison
  dsimp only
  exact sidePoison_tidy h

theorem encodeUnit_tidy {s : State} {e : QEntry} {c : Nat} (h : Tidy s) : Tidy (unitState (encodeUnit s e c)) := by
  unfold encodeUnit
  dsimp only
  split
  · split
    · exact writeStop_tidy ((sideWriteWhole_tidy h).error ‹_›)
    · exact (sideWriteWhole_tidy h).ok ‹_›
  · split
    · split
      · exact encodePoison_tidy ((readBlocks_tidy h).error (x := (_, .fail _ _ _)) ‹_›)
      · exact (readBlocks_tidy h).error (x := (_, .fail _ _ _)) ‹_›
    · exact (readBlocks_tidy h).error (x := (_, .wait _ _)) ‹_›
    · split
      · split
        · exact writeStop_tidy ((sideWrite_tidy ((readBlocks_tidy h).ok ‹_›)).error ‹_›)
        · exact (sideWrite_tidy ((readBlocks_tidy h).ok ‹_›)).ok ‹_›
      · split
        · exact (readBlocks_tidy h).ok ‹_›
        · split
          · exact writeStop_tidy ((sideWrite_tidy ((readBlocks_tidy h).ok ‹_›)).error ‹_›)
          · exact (sideWrite_tidy ((readBlocks_tidy h).ok ‹_›)).ok ‹_›

theorem decodeFront_tidy {s : State} {e : QEntry} (h : Tidy s) : Tidy (unitState (decodeFront s e)) := by
  unfold decodeFront
  dsimp only
  split
  · exact h
  · split
    · exact failUnit_tidy ((sideRead_tidy h).error ‹_›)
    · split
      · exact (sideRead_tidy h).ok ‹_›
      · split
        · exact failUnit_tidy ((sideRead_tidy ((sideRead_tidy h).ok ‹_›)).error ‹_›)
        · split <;> exact (sideRead_tidy ((sideRead_tidy h).ok ‹_›)).ok ‹_›

theorem decodeUnit_tidy {s : State} {e : QEntry} {c : Nat} (h : Tidy s) : Tidy (unitState (decodeUnit s e c)) := by
  unfold decodeUnit
  dsimp only
  split
  · exact h
  · split
    · exact failUnit_tidy ((sideRead_tidy h).error ‹_›)
    · have h := (sideRead_tidy h).ok ‹_›
      have give {out : List Byte} : EngTidy (Side.writeWhole _ (engAccess s e) (dstSide e) (4096 * c) out) :=
        sideWriteWhole_tidy h
      split
      · split
        · exact h
        · split
          · exact writeStop_tidy (give.error ‹_›)
          · exact give.ok ‹_›
      · split
        · exact h
        · split
          · exact h
          · split
            · exact h
            · split
              · exact writeStop_tidy (give.error ‹_›)
              · exact give.ok ‹_›

theorem fillUnit_tidy {s : State} {e : QEntry} {i : Nat} (h : Tidy s) : Tidy (unitState (fillUnit s e i)) := by
  unfold fillUnit
  dsimp only
  split
  · exact writeStop_tidy ((writeBlock_tidy h).error ‹_›)
  · exact (writeBlock_tidy h).ok ‹_›

theorem indexedAddr_tidy {s : State} {e : QEntry} {ix : Desc} {i : Nat} (h : Tidy s) :
    EngTidy (indexedAddr s e ix i) := by
  unfold indexedAddr
  split
  · exact (sideRead_tidy h).error ‹_›
  · exact (sideRead_tidy h).ok ‹_›

theorem checkThenLoad_tidy {s : State} {who : Access} {opc : BitVec 8} {a : Word} {n align : Nat} (h : Tidy s) :
    EngTidy (do let (_, s) ← engCheck s who opc a n align; engLoad s who a n) :=
  (engCheck_tidy h).bind fun _ h => engLoad_tidy h

theorem gatherUnit_tidy {s : State} {e : QEntry} {i : Nat} (h : Tidy s) : Tidy (unitState (gatherUnit s e i)) := by
  unfold gatherUnit
  dsimp only
  split
  · exact failUnit_tidy ((indexedAddr_tidy h).error ‹_›)
  · have h := (indexedAddr_tidy h).ok ‹_›
    split
    · exact failUnit_tidy ((checkThenLoad_tidy h).error ‹_›)
    · have h := (checkThenLoad_tidy h).ok ‹_›
      split
      · exact writeStop_tidy ((sideWrite_tidy h).error ‹_›)
      · exact (sideWrite_tidy h).ok ‹_›

theorem addElems_tidy {who : Access} {ty : BitVec 5} {aop : BitVec 4} {size : Nat} {x : List (List Byte)} {y : Word}
    {z : State} (h : Tidy z) :
    EngTidy (addElems who ty aop size x y z) := by
  induction x generalizing y z with
  | nil =>
    rw [addElems]
    exact h
  | cons b l ih =>
    rw [addElems]
    split
    · exact (engAct_tidy h).error ‹_›
    · exact ih ((engAct_tidy h).ok ‹_›)

theorem scatterUnit_tidy {s : State} {e : QEntry} {i : Nat} (h : Tidy s) : Tidy (unitState (scatterUnit s e i)) := by
  unfold scatterUnit
  dsimp only
  split
  · exact failUnit_tidy ((indexedAddr_tidy h).error ‹_›)
  · split
    · exact failUnit_tidy ((sideRead_tidy ((indexedAddr_tidy h).ok ‹_›)).error ‹_›)
    · split
      · exact failUnit_tidy ((addElems_tidy ((sideRead_tidy ((indexedAddr_tidy h).ok ‹_›)).ok ‹_›)).error ‹_›)
      · exact (addElems_tidy ((sideRead_tidy ((indexedAddr_tidy h).ok ‹_›)).ok ‹_›)).ok ‹_›

theorem tileUnit_tidy {s : State} {e : QEntry} {i : Nat} (h : Tidy s) : Tidy (unitState (tileUnit s e i)) := by
  unfold tileUnit
  split
  · split
    · exact failUnit_tidy ((readHandle_tidy h).error ‹_›)
    · exact (readHandle_tidy h).ok ‹_›
  · have tile {n : Nat} {g : Handle} : EngTidy ((if e.fn.getLsbD 0 then tileWrite else tileRead) s e g n) := by
      split
      · exact tileWrite_tidy h
      · exact tileRead_tidy h
    dsimp only
    split
    · exact failUnit_tidy (tile.error ‹_›)
    · exact tile.ok ‹_›

theorem runUnit_tidy {s : State} {e : QEntry} {i : Nat} (h : Tidy s) : Tidy (unitState (runUnit s e i)) := by
  unfold runUnit
  split
  · exact tileUnit_tidy h
  · exact fillUnit_tidy h
  · exact gatherUnit_tidy h
  · exact scatterUnit_tidy h
  · split
    · exact copyUnit_tidy h
    · exact convUnit_tidy h
    · exact interUnit_tidy h
    · exact interUnit_tidy h
    · exact encodeUnit_tidy h
    · exact encodeUnit_tidy h
    · split
      · exact decodeFront_tidy h
      · exact decodeUnit_tidy h

theorem tryUnit_tidy {s : State} {e : QEntry} {i : Nat} (h : Tidy s) : Tidy (tryUnit s e i).1 := by
  unfold tryUnit
  split
  · exact Tidy.unit (runUnit_tidy h) ‹_›
  · split <;> exact attempted_tidy h (Tidy.unit (v := .wait .none _) (runUnit_tidy h) ‹_›)
  · exact attempted_tidy h (Tidy.unit (v := .wait _ _) (runUnit_tidy h) ‹_›)
  · exact Tidy.unit (runUnit_tidy h) ‹_›

theorem nextUnit_tidy {s : State} {e : QEntry} (h : Tidy s) : Tidy (nextUnit s e).1 := by
  unfold nextUnit
  dsimp only
  split
  · exact ite_tidy h h
  · exact tryUnit_tidy (ite_tidy h h)

theorem runNext_tidy {x : Nat} {y : State} {z : QEntry} (h : Tidy y) : Tidy (runNext x y z).1 := by
  induction x generalizing y z with
  | zero =>
    rw [runNext]
    exact h
  | succ k ih =>
    rw [runNext]
    split
    · exact h
    · split
      · exact ih (Tidy.fst (nextUnit_tidy h) ‹_›)
      · exact Tidy.fst (nextUnit_tidy h) ‹_›

theorem runLate_tidy {x : List Nat} {y : State} {z : QEntry} (h : Tidy y) : Tidy (runLate x y z).1 := by
  induction x generalizing y z with
  | nil =>
    rw [runLate]
    exact h
  | cons i l ih =>
    rw [runLate]
    split
    · exact ih h
    · exact ih (tryUnit_tidy h)

theorem owedOpRun_tidy {s : State} {who : Access} {x : OwedOp} (h : Tidy s) : EngActTidy (OwedOp.run s who x) := by
  unfold OwedOp.run
  split
  · exact engAct_tidy h
  · exact engClear_tidy h
  · exact engPoison_tidy h

theorem serveOwed_tidy {s : State} {e : QEntry} {x : Owed} (h : Tidy s) : Tidy (serveOwed s e x).1 := by
  unfold serveOwed
  dsimp only
  split
  · exact h
  · split
    · exact (owedOpRun_tidy (onSt_tidy h)).ok ‹_›
    · exact onSt_tidy ((owedOpRun_tidy (onSt_tidy h)).error (x := .wait _ _) ‹_›)
    · exact (owedOpRun_tidy (onSt_tidy h)).error (x := .fail _ _ _) ‹_›

theorem runOwed_tidy {s : State} {e : QEntry} (h : Tidy s) : Tidy (runOwed s e).1 := by
  unfold runOwed
  refine foldl_fst_tidy (fun _ _ h' => ?_) _ h
  exact serveOwed_tidy h'

theorem runUnits_tidy {s : State} {e : QEntry} (h : Tidy s) : Tidy (runUnits s e).1 := by
  unfold runUnits
  split
  split
  exact runLate_tidy (Tidy.fst (runNext_tidy (Tidy.fst (runOwed_tidy h) ‹_›)) ‹_›)

theorem reportTransfer_tidy {s : State} {e : QEntry} (h : Tidy s) : Tidy (reportTransfer s e) := by
  unfold reportTransfer
  split <;> exact completeEntry_tidy h

theorem completeRunning_tidy {s : State} {e : QEntry} (h : Tidy s) : Tidy (completeRunning s e) := by
  unfold completeRunning
  split
  · exact ite_tidy (completeEntry_tidy h) h
  · split
    · exact h
    · split
      dsimp only
      exact ite_tidy (reportTransfer_tidy (putFlight_tidy (Tidy.fst (runUnits_tidy h) ‹_›)))
        (putFlight_tidy (Tidy.fst (runUnits_tidy h) ‹_›))

theorem completeEngine_tidy {s : State} {seq : Nat} (h : Tidy s) : Tidy (completeEngine s seq) := by
  unfold completeEngine
  split
  · exact h
  · split
    · exact afterEngine_tidy (completeRunning_tidy h)
    · exact ite_tidy h (afterEngine_tidy (completeEntry_tidy h))
    · exact h

theorem serveTiles_tidy {s : State} {seq : Nat} (h : Tidy s) : Tidy (serveTiles s seq) := by
  unfold serveTiles
  split
  · exact h
  · split
    · split
      exact putFlight_tidy (Tidy.fst (runUnits_tidy h) ‹_›)
    · exact h

theorem streamTurn_tidy {s : State} (h : Tidy s) : Tidy (streamTurn s) := by
  unfold streamTurn
  dsimp only
  split
  · exact h
  · split
    · exact putFlight_tidy (tryUnit_tidy (runOwed_tidy h))
    · exact putFlight_tidy (nextUnit_tidy (runOwed_tidy h))
    · exact putFlight_tidy (runOwed_tidy h)

theorem postRecords_tidy {s : State} {e : QEntry} (h : Tidy s) : Tidy (postRecords s e) :=
  ite_tidy (onPort_tidy h) h

theorem scoreboardIssue_tidy {s : State} (h : Tidy s) : Tidy (scoreboardIssue s) := by
  unfold scoreboardIssue
  split
  · exact h
  · split
    · exact h
    · dsimp only
      split
      · exact completeEntry_tidy (onSt_tidy h)
      · exact ite_tidy (completeEntry_tidy (onSt_tidy h)) (postRecords_tidy (onSt_tidy h))

theorem tryGate_tidy {s : State} {e : QEntry} {a : Word} {v : Bool} (h : Tidy s) : Tidy (tryGate s e a v) := by
  unfold tryGate
  dsimp only
  split
  · exact putFlight_tidy h
  · have h := putFlight_tidy (e := { e with sent := none }) h
    split
    · have h := engStopOf_tidy (who := engAccess s e) (addr := a) ((objLoad_tidy h).error ‹_›)
      split
      · exact completeEntry_tidy (Tidy.eng (v := .fail _ _ _) h ‹_›)
      · exact putFlight_tidy (Tidy.eng (v := .wait _ _) h ‹_›)
    · have h := (objLoad_tidy h).ok ‹_›
      split
      · exact completeEntry_tidy h
      · split
        · exact postRecords_tidy (putFlight_tidy h)
        · split
          · exact completeEntry_tidy h
          · exact h

theorem gatePass_tidy {s : State} {seq : Nat} (h : Tidy s) : Tidy (gatePass s seq) := by
  unfold gatePass
  split
  · exact h
  · split
    · exact ite_tidy h (afterEngine_tidy (tryGate_tidy h))
    · exact h

theorem gateExpiry_tidy {s : State} {seq : Nat} (h : Tidy s) : Tidy (gateExpiry s seq) := by
  unfold gateExpiry
  split
  · exact h
  · split
    · exact ite_tidy (completeEntry_tidy h) h
    · exact h

theorem execScoreboardIssue_tidy {core : Nat} {s : State} (h : Tidy s) : OutTidy (execScoreboardIssue core s) :=
  atCore_tidy h fun _ h => scoreboardIssue_tidy h
theorem execEngineComplete_tidy {core seq : Nat} {s : State} (h : Tidy s) : OutTidy (execEngineComplete core seq s) :=
  atCore_tidy h fun _ h => completeEngine_tidy h
theorem execGatePass_tidy {core seq : Nat} {s : State} (h : Tidy s) : OutTidy (execGatePass core seq s) :=
  atCore_tidy h fun _ h => gatePass_tidy h
theorem execGateWatchdogExpiry_tidy {core seq : Nat} {s : State} (h : Tidy s) : OutTidy
    (execGateWatchdogExpiry core seq s) :=
  atCore_tidy h fun _ h => gateExpiry_tidy h
theorem execTileRequest_tidy {core seq : Nat} {s : State} (h : Tidy s) : OutTidy (execTileRequest core seq s) :=
  atCore_tidy h fun _ h => serveTiles_tidy h

/-! ## The stream unit -/

theorem pushEntry_tidy {s : State} {e : QEntry} (h : Tidy s) : Tidy (pushEntry s e) :=
  onSt_tidy h

theorem withObjPage_tidy {s : State} {p : Option PageWait} (h : Tidy s) : Tidy (s.withObjPage p) :=
  onSt_tidy h

theorem admitObject_tidy {s : State} {e : QEntry} {a : Word} (h : Tidy s) : BodyTidy (admitObject s e a) := by
  unfold admitObject
  dsimp only
  split
  · exact h
  · split
    · exact pushEntry_tidy (withObjPage_tidy (onCp_tidy h))
    · refine cpObject_tidy h fun _ h => ?_
      split
      · exact pushEntry_tidy (withObjPage_tidy ((serveObject_tidy h).ok (x := ((_, .true), _)) ‹_›))
      · exact withObjPage_tidy ((serveObject_tidy h).ok (x := ((_, .false), _)) ‹_›)
      · have h := engStopOf_tidy (who := { engAccess s e with refused := PageWait.refusal e.asid s.core.st.objPage })
          (addr := a) ((serveObject_tidy h).error ‹_›)
        split
        · exact pushEntry_tidy (withObjPage_tidy (Tidy.eng (v := .fail _ _ _) h ‹_›))
        · exact withObjPage_tidy (Tidy.eng (v := .wait _ _) h ‹_›)

theorem admitEntry_tidy {s : State} {e : QEntry} (h : Tidy s) : BodyTidy (admitEntry s e) := by
  unfold admitEntry
  split
  · exact h
  · split
    · exact pushEntry_tidy h
    · split
      · exact pushEntry_tidy h
      · exact admitObject_tidy h

theorem enqueue_tidy {opc : BitVec 8} {check : State → SForm → SCheck (List Extent)} {w : SForm} {s : State}
    (h : Tidy s) :
    OutTidy (enqueue opc check w s) := by
  unfold enqueue
  refine runPlain_tidy h (fun _ h => ?_)
  split
  · exact h
  · exact admitEntry_tidy h

theorem execSload_tidy {w : SForm} {s : State} (h : Tidy s) : OutTidy (execSload w s) := enqueue_tidy h
theorem execSstore_tidy {w : SForm} {s : State} (h : Tidy s) : OutTidy (execSstore w s) := enqueue_tidy h
theorem execStileRd_tidy {w : SForm} {s : State} (h : Tidy s) : OutTidy (execStileRd w s) := enqueue_tidy h
theorem execStileWr_tidy {w : SForm} {s : State} (h : Tidy s) : OutTidy (execStileWr w s) := enqueue_tidy h
theorem execScopy_tidy {w : SForm} {s : State} (h : Tidy s) : OutTidy (execScopy w s) := enqueue_tidy h
theorem execScopyR_tidy {w : SForm} {s : State} (h : Tidy s) : OutTidy (execScopyR w s) := enqueue_tidy h
theorem execScopyM_tidy {w : SForm} {s : State} (h : Tidy s) : OutTidy (execScopyM w s) := enqueue_tidy h
theorem execSfill_tidy {w : SForm} {s : State} (h : Tidy s) : OutTidy (execSfill w s) := enqueue_tidy h
theorem execSfillR_tidy {w : SForm} {s : State} (h : Tidy s) : OutTidy (execSfillR w s) := enqueue_tidy h
theorem execSfillM_tidy {w : SForm} {s : State} (h : Tidy s) : OutTidy (execSfillM w s) := enqueue_tidy h
theorem execSgather_tidy {w : SForm} {s : State} (h : Tidy s) : OutTidy (execSgather w s) := enqueue_tidy h
theorem execSscadd_tidy {w : SForm} {s : State} (h : Tidy s) : OutTidy (execSscadd w s) := enqueue_tidy h
theorem execSrecv_tidy {w : SForm} {s : State} (h : Tidy s) : OutTidy (execSrecv w s) := enqueue_tidy h
theorem execKrun_tidy {w : SForm} {s : State} (h : Tidy s) : OutTidy (execKrun w s) := enqueue_tidy h
theorem execSnop_tidy {w : SForm} {s : State} (h : Tidy s) : OutTidy (execSnop w s) := enqueue_tidy h

theorem waitToken_tidy {t : BitVec 3} {done : State → State} {s : State} (h : ∀ x0, Tidy x0 → Tidy (done x0))
    (hs : Tidy s) :
    BodyTidy (waitToken t done s) := by
  unfold waitToken
  dsimp only
  split
  · exact hs
  · exact hs
  · exact h _ hs
  · split
    · dsimp only [BodyTidy, Yields, stopState]
      exact onSt_tidy hs
    · exact hs

theorem reportAll_tidy {p : Unreported → Bool} {overflow : Bool} {s : State} (h : Tidy s) :
    BodyTidy (reportAll p overflow s) := by
  unfold reportAll
  dsimp only
  split
  · dsimp only [BodyTidy, Yields, stopState]
    exact onSt_tidy h
  · dsimp only [BodyTidy, Yields, stopState]
    exact onSt_tidy h
  · exact h

theorem execKwait_tidy {w : SForm} {s : State} (h : Tidy s) : OutTidy (execKwait w s) := by
  unfold execKwait
  refine runPlain_tidy h (fun _ h => ?_)
  split
  · exact waitToken_tidy (fun _ h => h) h
  · split
    · exact h
    · exact reportAll_tidy h

theorem execSwait_tidy {w : SForm} {s : State} (h : Tidy s) : OutTidy (execSwait w s) :=
  runPlain_tidy h fun _ h => waitToken_tidy (fun _ h => onCp_tidy h) h
theorem execSwaitTest_tidy {w : SForm} {s : State} (h : Tidy s) : OutTidy (execSwaitTest w s) :=
  runPlain_tidy h fun _ h => onCp_tidy h

theorem execSwaitAll_tidy {w : SForm} {s : State} (h : Tidy s) : OutTidy (execSwaitAll w s) := by
  unfold execSwaitAll
  refine runPlain_tidy h (fun _ h => ?_)
  split
  · exact reportAll_tidy h
  · exact h

theorem barvWord_tidy {w : SForm} {ok : Word → Bool} {opc : BitVec 8} {f : State → Word → Word → Body} {x : State}
    (h : ∀ x0, Tidy x0 → ∀ x1, ∀ x2, BodyTidy (f x0 x1 x2)) (hx : Tidy x) :
    OutTidy (barvWord w ok opc f x) := by
  unfold barvWord
  refine runPlain_tidy hx (fun _ h' => ?_)
  dsimp only
  split
  · exact h'
  · split
    · exact h'
    · exact h _ h' _ _

theorem barvUpdate_tidy {op : BitVec 4} {s : State} {a v : Word} (h : Tidy s) : BodyTidy (barvUpdate op s a v) := by
  unfold barvUpdate
  refine cpObject_tidy h (fun _ h => ?_)
  split
  · exact (serveObject_tidy h).error ‹_›
  · exact (serveObject_tidy h).ok ‹_›

theorem execBarvArm_tidy {w : SForm} {s : State} (h : Tidy s) : OutTidy (execBarvArm w s) :=
  barvWord_tidy (fun _ h _ _ => barvUpdate_tidy h) h
theorem execBarvArrive_tidy {w : SForm} {s : State} (h : Tidy s) : OutTidy (execBarvArrive w s) :=
  barvWord_tidy (fun _ h _ _ => barvUpdate_tidy h) h

theorem execBarvWait_tidy {w : SForm} {s : State} (h : Tidy s) : OutTidy (execBarvWait w s) := by
  unfold execBarvWait
  refine barvWord_tidy (fun _ h' _ _ => cpObject_tidy h' (fun _ h' => ?_)) h
  split
  · exact (asWait_tidy (objLoad_tidy h')).error ‹_›
  · dsimp only
    split
    · exact (asWait_tidy (objLoad_tidy h')).ok ‹_›
    · split
      · exact (asWait_tidy (objLoad_tidy h')).ok ‹_›
      · split
        · exact (asWait_tidy (objLoad_tidy h')).ok ‹_›
        · split <;> exact (asWait_tidy (objLoad_tidy h')).ok ‹_›

theorem execSdgetW0_tidy {w : SForm} {s : State} (h : Tidy s) : OutTidy (execSdgetW0 w s) :=
  runPlain_tidy h fun _ h => onCp_tidy h
theorem execSdgetW1_tidy {w : SForm} {s : State} (h : Tidy s) : OutTidy (execSdgetW1 w s) :=
  runPlain_tidy h fun _ h => onCp_tidy h
theorem execSdputW0_tidy {w : SForm} {s : State} (h : Tidy s) : OutTidy (execSdputW0 w s) :=
  runPlain_tidy h fun _ h => onSt_tidy h
theorem execSdputW1_tidy {w : SForm} {s : State} (h : Tidy s) : OutTidy (execSdputW1 w s) :=
  runPlain_tidy h fun _ h => onSt_tidy h

theorem execSdrec_tidy {w : SForm} {s : State} (h : Tidy s) : OutTidy (execSdrec w s) := by
  unfold execSdrec
  refine runPlain_tidy h (fun _ h => ?_)
  dsimp only
  split
  · exact h
  · split
    · exact h
    · exact onCp_tidy h

/-! ## Contexts -/

theorem preemptFor_tidy {s : State} {id d base : Nat} (h : Tidy s) : Tidy (preemptFor s id d base) := by
  unfold preemptFor
  split
  · exact h
  · split
    · exact h
    · split
      · exact h
      · split
        · exact h
        · exact ite_tidy (preemptGroup_tidy h) h

theorem execPreemptRequest_tidy {launchId die base : Nat} {s : State} (h : Tidy s) : OutTidy
    (execPreemptRequest launchId die base s) :=
  preemptFor_tidy h

theorem graceExpiry_tidy {s : State} (h : Tidy s) : Tidy (graceExpiry s) := by
  unfold graceExpiry
  dsimp only
  exact ite_tidy h h

theorem execGraceExpiry_tidy {core : Nat} {s : State} (h : Tidy s) : OutTidy (execGraceExpiry core s) :=
  atCore_tidy h fun _ h => graceExpiry_tidy h

theorem savedCore_tidy {c : Core} (h : TidyCore c) : TidyCore (savedCore c) := by
  unfold savedCore
  dsimp only
  exact h

theorem checkPages_tidy {s : State} {who : Access} {opc : BitVec 8} {area : Word} {n : Nat} (h : Tidy s) :
    BodyTidy (checkPages s who opc area n) := by
  unfold checkPages
  refine Yields.foldlM (fun _ _ h => ?_) _ h
  dsimp only
  split
  · exact h
  · split
    · exact (resolve_tidy h).ok ‹_›
    · exact (resolve_tidy h).error ‹_›

theorem commandFails_tidy {s : State} {t : Trap} (h : Tidy s) : Tidy (commandFails s t) := by
  unfold commandFails
  dsimp only
  exact ite_tidy (takeSync_tidy h) (logError_tidy h)

theorem vacated_tidy {c : Core} (_ : TidyCore c) : TidyCore (vacated c) := by
  unfold vacated
  dsimp only
  exact coreReset_tidy

theorem leaveCore_tidy {s : State} (h : Tidy s) : Tidy (leaveCore s) :=
  withCore_tidy h (vacated_tidy (core_tidy h))

theorem poisonArea_tidy {s : State} {who : Access} {c : Core} (h : Tidy s) (_ : TidyCore c) :
    Tidy (poisonArea s who c) :=
  foldl_tidy (fun _ _ h => engPoison_tidy h) _ h

theorem afterPages_tidy {r : Except Stop State} {k : State → State} (h : BodyTidy r) (hk : ∀ s, Tidy s → Tidy (k s)) :
    Tidy (afterPages r k) := by
  unfold afterPages
  split
  · exact commandFails_tidy h
  · exact h
  · exact h
  · exact h
  · exact h
  · exact hk _ h

theorem saveNow_tidy {s : State} {p : Prog} (h : Tidy s) : Tidy (saveNow s p) := by
  unfold saveNow
  dsimp only
  split
  · exact commandFails_tidy h
  · refine afterPages_tidy (checkPages_tidy h) fun _ h' => ?_
    split
    · exact commandFails_tidy ((engStore_tidy h').error (x := .fail _ _ _) ‹_›)
    · exact (engStore_tidy h').error (x := .wait _ _) ‹_›
    · have h' := (engStore_tidy h').ok ‹_›
      exact settleGroup_tidy
        (leaveCore_tidy (consSaved_tidy (poisonArea_tidy (with_fresh_tidy h') (core_tidy h)) (core_tidy h)))

theorem saveWrite_tidy {s : State} (h : Tidy s) : Tidy (saveWrite s) := by
  unfold saveWrite
  split
  · exact h
  · exact ite_tidy (saveNow_tidy h) h

theorem execSave_tidy {core : Nat} {s : State} (h : Tidy s) : OutTidy (execSave core s) := by
  unfold execSave
  split
  · exact ite_tidy h ((writeCtx_tidy h).ok ‹_›)
  · exact h

theorem execSaveWrite_tidy {core : Nat} {s : State} (h : Tidy s) : OutTidy (execSaveWrite core s) :=
  atCore_tidy h fun _ h => saveWrite_tidy h

theorem restoreGrant_tidy {s : State} {id d base : Nat} (h : Tidy s) : Tidy (restoreGrant s id d base) := by
  unfold restoreGrant
  split
  · exact h
  · split
    · exact h
    · dsimp only
      exact ite_tidy h (onLaunch_tidy (foldl_tidy (fun _ _ h => onCore_tidy h (fun _ h' => grantCore_tidy h h')) _ h))

theorem execRestoreGrant_tidy {launchId die base : Nat} {s : State} (h : Tidy s) : OutTidy
    (execRestoreGrant launchId die base s) :=
  restoreGrant_tidy h

theorem restoredCore_tidy {now : Core} {x : Saved} {b : List Byte} {clock fresh : Nat} {checking : Bool} :
    TidyCore (restoredCore now x b clock fresh checking) :=
  cellPutAll_wf _ nil_wf

theorem restoreNow_tidy {s : State} {p : Prog} (h : Tidy s) : Tidy (restoreNow s p) := by
  unfold restoreNow
  refine afterPages_tidy (checkPages_tidy h) fun _ h => ?_
  split
  · exact commandFails_tidy ((engLoad_tidy h).error (x := .fail _ _ _) ‹_›)
  · exact (engLoad_tidy h).error (x := .wait _ _) ‹_›
  · have h := (engLoad_tidy h).ok ‹_›
    split
    · exact commandFails_tidy h
    · exact withCore_tidy (filterSaved_tidy h) restoredCore_tidy

theorem restore_tidy {s : State} (h : Tidy s) : Tidy (restore s) := by
  unfold restore
  split
  · exact h
  · exact ite_tidy (restoreNow_tidy h) h

theorem execRestore_tidy {core : Nat} {s : State} (h : Tidy s) : OutTidy (execRestore core s) :=
  atCore_tidy h fun _ h => restore_tidy h

/-! ## Management -/

theorem hostWrite_tidy {s : State} {off : Nat} {v : Word} (h : Tidy s) : Tidy (hostWrite s off v) := by
  unfold hostWrite
  split
  · split
    · exact (devWrite_tidy (with_fresh_tidy h)).ok ‹_›
    · exact h
  · exact h

theorem execRegisterWrite_tidy {offset : Nat} {value : Word} {s : State} (h : Tidy s) : OutTidy
    (execRegisterWrite offset value s) :=
  hostWrite_tidy h
theorem execQwriteWrite_tidy {queue : Nat} {value : Word} {s : State} (h : Tidy s) : OutTidy
    (execQwriteWrite queue value s) :=
  ite_tidy (hostWrite_tidy h) h
theorem execQctlEnable_tidy {queue : Nat} {value : Word} {s : State} (h : Tidy s) : OutTidy
    (execQctlEnable queue value s) :=
  ite_tidy (hostWrite_tidy h) h
theorem execPreemptHold_tidy {value : Word} {s : State} (h : Tidy s) : OutTidy (execPreemptHold value s) :=
  ite_tidy (hostWrite_tidy h) h
theorem execPreemptRelease_tidy {value : Word} {s : State} (h : Tidy s) : OutTidy (execPreemptRelease value s) :=
  ite_tidy h (hostWrite_tidy h)

theorem keyCommand_tidy {op : Nat} {value : Word} {s : State} (h : Tidy s) : OutTidy (keyCommand op value s) :=
  ite_tidy (hostWrite_tidy h) h

theorem execKeyWrite_tidy {value : Word} {s : State} (h : Tidy s) : OutTidy (execKeyWrite value s) :=
  keyCommand_tidy h
theorem execKeyEmpty_tidy {value : Word} {s : State} (h : Tidy s) : OutTidy (execKeyEmpty value s) :=
  keyCommand_tidy h
theorem execKeyQuery_tidy {value : Word} {s : State} (h : Tidy s) : OutTidy (execKeyQuery value s) :=
  keyCommand_tidy h
theorem execKeyOpDone_tidy {s : State} (h : Tidy s) : OutTidy (execKeyOpDone s) := onMd_tidy h
theorem execModuleStart_tidy {value : Word} {retained : Bool} {s : State} (h : Tidy s) : OutTidy
    (execModuleStart value retained s) :=
  moduleStart_tidy h

theorem stepEffect_tidy {s : State} {step : Nat} (h : Tidy s) : Tidy (stepEffect s step) := by
  unfold stepEffect
  split
  · exact filterMem_tidy h
  · exact onMd_tidy h
  · exact h

theorem stepPassed_tidy {s : State} {step : Nat} (h : Tidy s) : Tidy (stepPassed s step) :=
  onMd_tidy (stepEffect_tidy h)

theorem stepFailed_tidy {s : State} {step : Nat} (h : Tidy s) : Tidy (stepFailed s step) := by
  unfold stepFailed
  dsimp only
  exact onMd_tidy (logOpen_tidy (ite_tidy (moduleStart_tidy h) (onMd_tidy h)))

theorem startStep_tidy {s : State} {ok : Bool} (h : Tidy s) : Tidy (startStep s ok) := by
  unfold startStep
  dsimp only
  exact ite_tidy h (ite_tidy (stepPassed_tidy h) (stepFailed_tidy h))

theorem execStartStepComplete_tidy {ok : Bool} {s : State} (h : Tidy s) : OutTidy (execStartStepComplete ok s) :=
  startStep_tidy h

theorem raiseAll_tidy {s : State} {c : Cause} (h : Tidy s) : Tidy (raiseAll s c) :=
  foldl_tidy (fun _ _ h => raiseAsync_tidy h) _ h

theorem execPowerCapExceeded_tidy {s : State} (h : Tidy s) : OutTidy (execPowerCapExceeded s) :=
  raiseAll_tidy (onMd_tidy h)
theorem execThermalHot_tidy {s : State} (h : Tidy s) : OutTidy (execThermalHot s) := raiseAll_tidy (onMd_tidy h)

/-- What overheating leaves of a core. -/
def vacatedIfUsed (c : Core) : Core := if c.prog.isSome then vacated c else c

theorem vacatedIfUsed_tidy {c : Core} (h : TidyCore c) : TidyCore (vacatedIfUsed c) := by
  unfold vacatedIfUsed
  split
  · exact nil_wf
  · exact h

theorem execThermalCrit_tidy {s : State} (h : Tidy s) : OutTidy (execThermalCrit s) := by
  have hx : (fun x : Nat × Core => if x.2.prog.isSome then (x.1, vacated x.2) else x) =
      fun x => (x.1, vacatedIfUsed x.2) := by
    funext x
    unfold vacatedIfUsed
    split <;> rfl
  obtain ⟨hm, hh, hsrf, hp, -, hk, hl⟩ := mapCores_tidy (foldl_tidy (fun _ _ h => leaveHead_tidy h)
    ((s.launches.filter fun l => !l.leftHead).map (·.queue)) h) (f := vacatedIfUsed) (g := vacatedIfUsed)
    (fun _ hc => vacatedIfUsed_tidy hc) fun _ hc => vacatedIfUsed_tidy hc
  unfold execThermalCrit
  rw [hx]
  exact next_tidy ⟨hm, hh, hsrf, hp, by simp, hk, hl⟩

theorem execHostLinkDown_tidy {s : State} (h : Tidy s) : OutTidy (execHostLinkDown s) := raiseAll_tidy h
theorem execDebugHalt_tidy {core : Nat} {s : State} (h : Tidy s) : OutTidy (execDebugHalt core s) :=
  ite_tidy (raiseAsync_tidy h) h

/-! ## Links and ports -/

theorem execBridgeFailure_tidy {die : Nat} {s : State} (h : Tidy s) : OutTidy (execBridgeFailure die s) :=
  ite_tidy (onMd_tidy (logOpen_tidy h)) h
theorem execKibryPortTrained_tidy {port : Nat} {s : State} (h : Tidy s) : OutTidy (execKibryPortTrained port s) :=
  ite_tidy (onMd_tidy h) h

theorem losePort_tidy {s : State} {port : Nat} (h : Tidy s) : Tidy (losePort s port) :=
  ite_tidy (onMd_tidy (logOpen_tidy h)) h

theorem execKibryPortLost_tidy {port : Nat} {s : State} (h : Tidy s) : OutTidy (execKibryPortLost port s) :=
  ite_tidy (losePort_tidy h) h

theorem servedState_tidy {r : Served} (h : StopTidy r) : Tidy (servedState r) := by
  unfold servedState
  split
  all_goals exact h

theorem remoteRequest_tidy {s : State} {r : RemoteReq} (h : Tidy s) : Tidy (remoteRequest s r) := by
  unfold remoteRequest
  dsimp only
  split
  · exact countFlits_tidy h
  · split
    · exact countFlits_tidy h
    · exact servedState_tidy (serve_tidy (countFlits_tidy h))

theorem execRemoteRequest_tidy {req : RemoteReq} {s : State} (h : Tidy s) : OutTidy (execRemoteRequest req s) :=
  remoteRequest_tidy h

theorem perhapsPerformed_tidy {s : State} {who : Access} {e : LogEntry} (h : Tidy s) :
    Tidy (perhapsPerformed s who e) := by
  unfold perhapsPerformed
  dsimp only
  split
  · split
    · exact (perform_tidy (with_fresh_tidy h)).ok ‹_›
    · exact h
  · exact h

theorem perhapsObject_tidy {s : State} {who : Access} {e : LogEntry} (h : Tidy s) : Tidy (perhapsObject s who e) := by
  unfold perhapsObject
  dsimp only
  split
  · split
    · exact (serveObject_tidy (with_fresh_tidy h)).ok ‹_›
    · exact h
  · exact h

theorem cpTimeout_tidy {s : State} (h : Tidy s) : Tidy (cpTimeout s) := by
  unfold cpTimeout
  split
  · dsimp only
    exact ite_tidy h (ite_tidy (takeSync_tidy (perhapsPerformed_tidy h))
      (ite_tidy (onCp_tidy (perhapsObject_tidy h)) (takeSync_tidy (perhapsObject_tidy h))))
  · exact h

theorem entryTimeout_tidy {s : State} {e : LogEntry} {put : State → Option LogEntry → State} (h : Tidy s)
    (hput : ∀ x0, Tidy x0 → ∀ x1, Tidy (put x0 x1)) :
    Tidy (entryTimeout s e put) := by
  unfold entryTimeout
  split
  · exact h
  · exact ite_tidy (hput _ (perhapsPerformed_tidy ((OptionTidy.ite (walkOlder_tidy h)).some ‹_›)) _) h

theorem perhapsUnit_tidy {s : State} {e : QEntry} {i : Nat} (h : Tidy s) : Tidy (perhapsUnit s e i) := by
  unfold perhapsUnit
  dsimp only
  split
  · split
    · exact Tidy.unit (runUnit_tidy (with_fresh_tidy h)) ‹_›
    · exact h
  · exact h

theorem perhapsContributed_tidy {s : State} {e : QEntry} {f : Option EngFault} {n : Nat} (h : Tidy s) :
    Tidy (perhapsContributed s e f n) := by
  unfold perhapsContributed
  dsimp only
  split
  · exact h
  · split
    · exact (contribute_tidy (with_fresh_tidy h)).ok ‹_›
    · exact h

theorem objectTimeout_tidy {s : State} {e : QEntry} (h : Tidy s) : Tidy (objectTimeout s e) := by
  unfold objectTimeout
  dsimp only
  split
  · exact afterEngine_tidy (completeEntry_tidy h)
  · exact afterEngine_tidy (completeEntry_tidy (perhapsContributed_tidy h))
  · exact h

theorem engineTimeout_tidy {s : State} {seq : Nat} (h : Tidy s) : Tidy (engineTimeout s seq) := by
  unfold engineTimeout
  split
  · exact h
  · split
    · exact objectTimeout_tidy h
    · split
      · split
        · exact putFlight_tidy (perhapsUnit_tidy h)
        · exact h
      · exact h

theorem execRemoteTimeoutExpiry_tidy {core : Nat} {entry : Option Nat} {s : State} (h : Tidy s) :
    OutTidy (execRemoteTimeoutExpiry core entry s) := by
  unfold execRemoteTimeoutExpiry
  refine atCore_tidy h (fun _ h => ?_)
  split
  · exact cpTimeout_tidy h
  · split
    · split
      · exact entryTimeout_tidy h fun _ h _ => putLanding_tidy h
      · exact h
    · split
      · split
        · exact entryTimeout_tidy h fun _ h _ => putQueue_tidy h
        · exact h
      · exact engineTimeout_tidy h

theorem putLrt_tidy {s : State} {i : Nat} {e : LrtEntry} (h : Tidy s) : Tidy (putLrt s i e) :=
  h

theorem execLrtEnable_tidy {entry : Nat} {value : Word} {s : State} (h : Tidy s) : OutTidy
    (execLrtEnable entry value s) :=
  ite_tidy (hostWrite_tidy h) h
theorem execLrtDisable_tidy {entry : Nat} {value : Word} {s : State} (h : Tidy s) : OutTidy
    (execLrtDisable entry value s) :=
  ite_tidy (hostWrite_tidy h) h

theorem beginRound_tidy {s : State} {n i : Nat} (h : Tidy s) : Tidy (beginRound s n i) := by
  unfold beginRound
  dsimp only
  split
  · exact ite_tidy (putLrt_tidy h) h
  · exact h

theorem execExchangeRoundBegin_tidy {entry replica : Nat} {s : State} (h : Tidy s) : OutTidy
    (execExchangeRoundBegin entry replica s) :=
  ite_tidy (beginRound_tidy h) h

theorem joinCell_tidy {s : State} {t : Nat} {p q : Nat × Nat} {a : Nat} (h : Tidy s) : Tidy (joinCell s t p q a) := by
  unfold joinCell
  split
  split
  dsimp only
  exact ite_tidy h (stkPut_tidy (stkPut_tidy h))

theorem completeRound_tidy {s : State} {n i j r : Nat} (h : Tidy s) : Tidy (completeRound s n i j r) := by
  unfold completeRound
  dsimp only
  exact putLrt_tidy h

theorem countExchange_tidy {s : State} {p q : Nat × Nat} (h : Tidy s) : Tidy (countExchange s p q) :=
  ite_tidy h (countFlits_tidy h)

theorem exchange_tidy {s : State} {n i : Nat} (h : Tidy s) : Tidy (exchange s n i) := by
  unfold exchange
  dsimp only
  split
  · exact ite_tidy h (ite_tidy h
      (completeRound_tidy (foldl_tidy (fun _ _ h => joinCell_tidy h) _ (countExchange_tidy h))))
  · exact h

theorem execExchange_tidy {entry replica : Nat} {s : State} (h : Tidy s) : OutTidy (execExchange entry replica s) :=
  ite_tidy (exchange_tidy h) h

theorem failExchange_tidy {s : State} {n i : Nat} (h : Tidy s) : Tidy (failExchange s n i) := by
  unfold failExchange
  dsimp only
  split
  · exact ite_tidy (completeRound_tidy (logOpen_tidy h)) h
  · exact h

theorem execExchangeFailure_tidy {entry replica : Nat} {s : State} (h : Tidy s) : OutTidy
    (execExchangeFailure entry replica s) :=
  ite_tidy (failExchange_tidy h) h
theorem execRingBind_tidy {port ring : Nat} {value : Word} {s : State} (h : Tidy s) : OutTidy
    (execRingBind port ring value s) :=
  ite_tidy (hostWrite_tidy h) h

theorem execCounterClear_tidy {port : Nat} {ring : Option Nat} {counter : Nat} {value : Word} {s : State}
    (h : Tidy s) :
    OutTidy (execCounterClear port ring counter value s) := by
  unfold execCounterClear
  split <;> exact ite_tidy (hostWrite_tidy h) h

theorem ringReceive_tidy {s : State} {port ring : Nat} {f : Frame} (h : Tidy s) : Tidy
    (ringReceive s port ring f) := by
  unfold ringReceive
  extract_lets _ _ _ _ _ _ count drop _ posted
  have hcount {g : Ring → Ring} {s : State} (h : Tidy s) : Tidy (count g s) := onPort_tidy h
  refine ite_tidy (hcount h) ?_
  refine ite_tidy (hcount h) ?_
  clear_value posted count
  cases posted with
  | none => exact hcount h
  | some e =>
    dsimp only
    split
    · exact hcount h
    · exact hcount h
    · refine ite_tidy (hcount h) ?_
      refine hcount (onCore_tidy h fun c hc => ?_)
      unfold TidyCore
      dsimp only [Core.putSrf]
      exact cellPutAll_wf _ hc

theorem frameReceive_tidy {s : State} {port : Nat} {f : Frame} (h : Tidy s) : Tidy (frameReceive s port f) := by
  unfold frameReceive
  split
  · exact onPort_tidy h
  · split
    · exact onPort_tidy h
    · exact ringReceive_tidy h

theorem execFrameReceive_tidy {port : Nat} {frame : Frame} {s : State} (h : Tidy s) : OutTidy
    (execFrameReceive port frame s) :=
  ite_tidy (frameReceive_tidy h) h

theorem answerCore_tidy {f : Option PageWait → Option PageWait} {c : Core} (h : TidyCore c) :
    TidyCore (answerCore f c) := by
  unfold answerCore
  dsimp only
  exact h

theorem answerAll_tidy {s : State} {f : Option PageWait → Option PageWait} (h : Tidy s) : Tidy (answerAll s f) :=
  mapCores_tidy h (f := answerCore f) (g := answerCore f) (fun _ hc => hc) fun _ hc => hc

theorem prgResponse_tidy {s : State} {tag code : Nat} (h : Tidy s) : Tidy (prgResponse s tag code) := by
  unfold prgResponse
  split
  · exact h
  · dsimp only
    exact answerAll_tidy (onMd_tidy h)

theorem execPrgResponse_tidy {tag code : Nat} {s : State} (h : Tidy s) : OutTidy (execPrgResponse tag code s) :=
  prgResponse_tidy h

theorem execAtsInvalidate_tidy {asid : Nat} {va : Word} {s : State} (h : Tidy s) :
    OutTidy (execAtsInvalidate asid va s) := by
  unfold execAtsInvalidate
  dsimp only
  exact ite_tidy h (invalidate_tidy h)

theorem commitLine_tidy {s : State} {old new : Nat} (h : Tidy s) : Tidy (commitLine s old new) := by
  unfold commitLine
  dsimp only
  exact with_migrating_tidy (markGranule_tidy (putBytesAt_tidy h))

theorem lineCommit_tidy {s : State} {asid : BitVec 16} {va old new : Nat} {commit : Bool} (h : Tidy s) :
    Tidy (lineCommit s asid va old new commit) := by
  unfold lineCommit
  dsimp only
  split
  · exact ite_tidy h h
  · exact ite_tidy (commitLine_tidy h) h

theorem execLineCommit_tidy {line : LineHome} {new : Nat} {commit : Bool} {s : State} (h : Tidy s) : OutTidy
    (execLineCommit line new commit s) :=
  lineCommit_tidy h

/-! ## Repair -/

theorem execQuiesce_tidy {stack : Nat} {value : Word} {s : State} (h : Tidy s) : OutTidy
    (execQuiesce stack value s) :=
  ite_tidy (hostWrite_tidy h) h
theorem execHsmaskWrite_tidy {stack index : Nat} {value : Word} {s : State} (h : Tidy s) : OutTidy
    (execHsmaskWrite stack index value s) :=
  ite_tidy (hostWrite_tidy h) h
theorem execMaskerrClear_tidy {stack : Nat} {value : Word} {s : State} (h : Tidy s) : OutTidy
    (execMaskerrClear stack value s) :=
  ite_tidy (hostWrite_tidy h) h
theorem execHeartbeat_tidy {stack : Nat} {s : State} (h : Tidy s) : OutTidy (execHeartbeat stack s) :=
  ite_tidy (onStack_tidy h) h
theorem execHeartbeatMissed_tidy {stack : Nat} {s : State} (h : Tidy s) : OutTidy (execHeartbeatMissed stack s) :=
  ite_tidy (onStack_tidy h) h
theorem execTakeoverAck_tidy {stack : Nat} {s : State} (h : Tidy s) : OutTidy (execTakeoverAck stack s) :=
  ite_tidy (logOpen_tidy (onStack_tidy h)) h

theorem execRefreshWindowExpiry_tidy {stack : Nat} {s : State} (h : Tidy s) :
    OutTidy (execRefreshWindowExpiry stack s) := by
  unfold execRefreshWindowExpiry
  dsimp only
  exact ite_tidy (logError_tidy (onStack_tidy h)) h

theorem granuleError_tidy {s : State} {stack offset : Nat} (h : Tidy s) : Tidy (granuleError s stack offset) := by
  unfold granuleError
  dsimp only
  exact ite_tidy h h

theorem countCorrected_tidy {s : State} {core : Nat} (h : Tidy s) : Tidy (countCorrected s core) :=
  logOpen_tidy h

theorem codewordError_tidy {s : State} {core q e : Nat} (h : Tidy s) : Tidy (codewordError s core q e) :=
  ite_tidy (foldl_tidy (fun _ _ h => countCorrected_tidy h) _ h) (onCore_tidy h (fun _ h => h))

theorem fatalError_tidy {s : State} {core : Nat} {c : Cause} (h : Tidy s) : Tidy (fatalError s core c) :=
  atCore_tidy h fun _ h => ite_tidy (fatalStop_tidy h) h

theorem execPoisonDetect_tidy {err : EccError} {place : Nat} {s : State} (h : Tidy s) :
    OutTidy (execPoisonDetect err place s) := by
  unfold execPoisonDetect
  split
  · exact ite_tidy (granuleError_tidy h) h
  · exact ite_tidy (codewordError_tidy h) h
  · exact ite_tidy (fatalError_tidy h) h
  · exact ite_tidy (fatalError_tidy h) h
  · exact logOpen_tidy h

theorem execWritebackFailure_tidy {stack offset : Nat} {core : Option Nat} {s : State} (h : Tidy s) :
    OutTidy (execWritebackFailure stack offset core s) := by
  unfold execWritebackFailure
  split
  · dsimp only
    split
    · exact h
    · exact ite_tidy (raiseAsync_tidy h) h
  · exact h

theorem execSelftest_tidy {unit : ErrUnit} {s : State} (h : Tidy s) : OutTidy (execSelftest unit s) :=
  ite_tidy (onMd_tidy h) h

theorem lastingFault_tidy {s : State} {u : ErrUnit} (h : Tidy s) : Tidy (lastingFault s u) := by
  unfold lastingFault
  dsimp only
  split
  · exact onCore_tidy h fun _ h => h
  · exact onCore_tidy h fun _ h => h
  · exact onMd_tidy h
  · exact onMd_tidy h

theorem execSelftestComplete_tidy {unit : ErrUnit} {pass : Bool} {s : State} (h : Tidy s) :
    OutTidy (execSelftestComplete unit pass s) := by
  unfold execSelftestComplete
  split
  · dsimp only
    exact ite_tidy (logOpen_tidy (onMd_tidy h)) (lastingFault_tidy (logError_tidy (onMd_tidy h)))
  · exact h

/-! ## Every instruction -/

/-- Every instruction keeps the form. -/
theorem exec_tidy {i : Instr} {s : State} (h : Tidy s) : OutTidy (exec i s) := by
  cases i with
  | add => exact execAdd_tidy h
  | sub => exact execSub_tidy h
  | mul => exact execMul_tidy h
  | mulh => exact execMulh_tidy h
  | div => exact execDiv_tidy h
  | rem => exact execRem_tidy h
  | min => exact execMin_tidy h
  | max => exact execMax_tidy h
  | abs => exact execAbs_tidy h
  | neg => exact execNeg_tidy h
  | and => exact execAnd_tidy h
  | or => exact execOr_tidy h
  | xor => exact execXor_tidy h
  | andn => exact execAndn_tidy h
  | shl => exact execShl_tidy h
  | shr => exact execShr_tidy h
  | sra => exact execSra_tidy h
  | bcntPop => exact execBcntPop_tidy h
  | bcntClz => exact execBcntClz_tidy h
  | bcntCtz => exact execBcntCtz_tidy h
  | addi => exact execAddi_tidy h
  | andi => exact execAndi_tidy h
  | ori => exact execOri_tidy h
  | xori => exact execXori_tidy h
  | andni => exact execAndni_tidy h
  | shli => exact execShli_tidy h
  | shri => exact execShri_tidy h
  | srai => exact execSrai_tidy h
  | movi => exact execMovi_tidy h
  | movh => exact execMovh_tidy h
  | lea => exact execLea_tidy h
  | pcrel => exact execPcrel_tidy h
  | bfxZ => exact execBfxZ_tidy h
  | bfxS => exact execBfxS_tidy h
  | bfxI => exact execBfxI_tidy h
  | cmp => exact execCmp_tidy h
  | cmpi => exact execCmpi_tidy h
  | pand => exact execPand_tidy h
  | por => exact execPor_tidy h
  | pxor => exact execPxor_tidy h
  | pandn => exact execPandn_tidy h
  | porn => exact execPorn_tidy h
  | pmovGet => exact execPmovGet_tidy h
  | pmovPut => exact execPmovPut_tidy h
  | sel => exact execSel_tidy h
  | fadd => exact execFadd_tidy h
  | fsub => exact execFsub_tidy h
  | fmul => exact execFmul_tidy h
  | fdiv => exact execFdiv_tidy h
  | fsqrt => exact execFsqrt_tidy h
  | fma => exact execFma_tidy h
  | fmin => exact execFmin_tidy h
  | fmax => exact execFmax_tidy h
  | fsgnCpy => exact execFsgnCpy_tidy h
  | fsgnNeg => exact execFsgnNeg_tidy h
  | fsgnXor => exact execFsgnXor_tidy h
  | fclass => exact execFclass_tidy h
  | cvt => exact execCvt_tidy h
  | br => exact execBr_tidy h
  | call => exact execCall_tidy h
  | jmp => exact execJmp_tidy h
  | bcz => exact execBcz_tidy h
  | loop => exact execLoop_tidy h
  | ld => exact execLd_tidy h
  | st => exact execSt_tidy h
  | rdsys => exact execRdsys_tidy h
  | wrsys => exact execWrsys_tidy h
  | xchsys => exact execXchsys_tidy h
  | trapSw => exact execTrapSw_tidy h
  | trapCall => exact execTrapCall_tidy h
  | brk => exact execBrk_tidy h
  | tret => exact execTret_tidy h
  | halt => exact execHalt_tidy h
  | idle => exact execIdle_tidy h
  | work => exact execWork_tidy h
  | vadd => exact execVadd_tidy h
  | vsub => exact execVsub_tidy h
  | vmul => exact execVmul_tidy h
  | vmulh => exact execVmulh_tidy h
  | vfma => exact execVfma_tidy h
  | vfms => exact execVfms_tidy h
  | vfnma => exact execVfnma_tidy h
  | vfnms => exact execVfnms_tidy h
  | vmin => exact execVmin_tidy h
  | vmax => exact execVmax_tidy h
  | vabs => exact execVabs_tidy h
  | vneg => exact execVneg_tidy h
  | vclamp => exact execVclamp_tidy h
  | vsgnCpy => exact execVsgnCpy_tidy h
  | vsgnNeg => exact execVsgnNeg_tidy h
  | vsgnXor => exact execVsgnXor_tidy h
  | vrint => exact execVrint_tidy h
  | vrintX => exact execVrintX_tidy h
  | vscale => exact execVscale_tidy h
  | vfnDiv => exact execVfnDiv_tidy h
  | vfnSqrt => exact execVfnSqrt_tidy h
  | vfnRsqrt => exact execVfnRsqrt_tidy h
  | vfnRecip => exact execVfnRecip_tidy h
  | vfnExp => exact execVfnExp_tidy h
  | vfnExp2 => exact execVfnExp2_tidy h
  | vfnLog => exact execVfnLog_tidy h
  | vfnLog2 => exact execVfnLog2_tidy h
  | vfnTanh => exact execVfnTanh_tidy h
  | vfnLogistic => exact execVfnLogistic_tidy h
  | vfnSinpi => exact execVfnSinpi_tidy h
  | vfnCospi => exact execVfnCospi_tidy h
  | vlogAnd => exact execVlogAnd_tidy h
  | vlogOr => exact execVlogOr_tidy h
  | vlogXor => exact execVlogXor_tidy h
  | vlogAndn => exact execVlogAndn_tidy h
  | vlogNot => exact execVlogNot_tidy h
  | vshShl => exact execVshShl_tidy h
  | vshShr => exact execVshShr_tidy h
  | vshSra => exact execVshSra_tidy h
  | vbcntPop => exact execVbcntPop_tidy h
  | vbcntClz => exact execVbcntClz_tidy h
  | vbcntCtz => exact execVbcntCtz_tidy h
  | vcmp => exact execVcmp_tidy h
  | vsel => exact execVsel_tidy h
  | mlogAnd => exact execMlogAnd_tidy h
  | mlogOr => exact execMlogOr_tidy h
  | mlogXor => exact execMlogXor_tidy h
  | mlogAndn => exact execMlogAndn_tidy h
  | mlogNot => exact execMlogNot_tidy h
  | mlogSet => exact execMlogSet_tidy h
  | mlogClr => exact execMlogClr_tidy h
  | mpopCnt => exact execMpopCnt_tidy h
  | mpopFirst => exact execMpopFirst_tidy h
  | vcvt => exact execVcvt_tidy h
  | vpack => exact execVpack_tidy h
  | vunpack => exact execVunpack_tidy h
  | vpermIdx => exact execVpermIdx_tidy h
  | vpermRot => exact execVpermRot_tidy h
  | vpermXor => exact execVpermXor_tidy h
  | vbcastLane => exact execVbcastLane_tidy h
  | vbcastElem => exact execVbcastElem_tidy h
  | vshuf => exact execVshuf_tidy h
  | vred => exact execVred_tidy h
  | vscan => exact execVscan_tidy h
  | vidx => exact execVidx_tidy h
  | vidxElem => exact execVidxElem_tidy h
  | vidxFlat => exact execVidxFlat_tidy h
  | vmovk => exact execVmovk_tidy h
  | vext => exact execVext_tidy h
  | vins => exact execVins_tidy h
  | vflagRd => exact execVflagRd_tidy h
  | vflagWr => exact execVflagWr_tidy h
  | vflagClr => exact execVflagClr_tidy h
  | vcmul => exact execVcmul_tidy h
  | vcmulConj => exact execVcmulConj_tidy h
  | vcmulFma => exact execVcmulFma_tidy h
  | vcmulFmac => exact execVcmulFmac_tidy h
  | vdot => exact execVdot_tidy h
  | tfillAll => exact execTfillAll_tidy h
  | tfillPart => exact execTfillPart_tidy h
  | tfillGath => exact execTfillGath_tidy h
  | tmmaMadd => exact execTmmaMadd_tidy h
  | tmmaAdif => exact execTmmaAdif_tidy h
  | tmmaCselmax => exact execTmmaCselmax_tidy h
  | tmmaCselmin => exact execTmmaCselmin_tidy h
  | tmmaCmad => exact execTmmaCmad_tidy h
  | tmmaSeq => exact execTmmaSeq_tidy h
  | tclr => exact execTclr_tidy h
  | taccRd => exact execTaccRd_tidy h
  | taccWr => exact execTaccWr_tidy h
  | tnorm => exact execTnorm_tidy h
  | tstatAcc => exact execTstatAcc_tidy h
  | tstatLatch => exact execTstatLatch_tidy h
  | tcopy => exact execTcopy_tidy h
  | tqclr => exact execTqclr_tidy h
  | tmerge => exact execTmerge_tidy h
  | xfft => exact execXfft_tidy h
  | xifft => exact execXifft_tidy h
  | xtrn => exact execXtrn_tidy h
  | xtrnTurn => exact execXtrnTurn_tidy h
  | xtrnBack => exact execXtrnBack_tidy h
  | xcvt => exact execXcvt_tidy h
  | xexp => exact execXexp_tidy h
  | xsclS => exact execXsclS_tidy h
  | xsclU => exact execXsclU_tidy h
  | xmov => exact execXmov_tidy h
  | xhdr => exact execXhdr_tidy h
  | lds => exact execLds_tidy h
  | sts => exact execSts_tidy h
  | ldq => exact execLdq_tidy h
  | stq => exact execStq_tidy h
  | pref => exact execPref_tidy h
  | stz => exact execStz_tidy h
  | amoAdd => exact execAmoAdd_tidy h
  | amoAnd => exact execAmoAnd_tidy h
  | amoOr => exact execAmoOr_tidy h
  | amoXor => exact execAmoXor_tidy h
  | amoMin => exact execAmoMin_tidy h
  | amoMax => exact execAmoMax_tidy h
  | amoExch => exact execAmoExch_tidy h
  | amoFadd => exact execAmoFadd_tidy h
  | redAdd => exact execRedAdd_tidy h
  | redAnd => exact execRedAnd_tidy h
  | redOr => exact execRedOr_tidy h
  | redXor => exact execRedXor_tidy h
  | redMin => exact execRedMin_tidy h
  | redMax => exact execRedMax_tidy h
  | redFadd => exact execRedFadd_tidy h
  | cas => exact execCas_tidy h
  | join => exact execJoin_tidy h
  | ldge => exact execLdge_tidy h
  | fenceAcq => exact execFenceAcq_tidy h
  | fenceRel => exact execFenceRel_tidy h
  | fenceAr => exact execFenceAr_tidy h
  | fenceSc => exact execFenceSc_tidy h
  | sread => exact execSread_tidy h
  | swrite => exact execSwrite_tidy h
  | sreadx => exact execSreadx_tidy h
  | swritex => exact execSwritex_tidy h
  | sbcast => exact execSbcast_tidy h
  | cvtaGal => exact execCvtaGal_tidy h
  | cvtaOwn => exact execCvtaOwn_tidy h
  | cvtaCore => exact execCvtaCore_tidy h
  | cvtaOff => exact execCvtaOff_tidy h
  | inapGlob => exact execInapGlob_tidy h
  | inapSrf => exact execInapSrf_tidy h
  | inapGal => exact execInapGal_tidy h
  | inapLocal => exact execInapLocal_tidy h
  | barArrive => exact execBarArrive_tidy h
  | barWait => exact execBarWait_tidy h
  | barSync => exact execBarSync_tidy h
  | cacheIall => exact execCacheIall_tidy h
  | cacheIline => exact execCacheIline_tidy h
  | cacheDline => exact execCacheDline_tidy h
  | cacheDall => exact execCacheDall_tidy h
  | tlbiAll => exact execTlbiAll_tidy h
  | tlbiAsid => exact execTlbiAsid_tidy h
  | tlbiPage => exact execTlbiPage_tidy h
  | tlbiRange => exact execTlbiRange_tidy h
  | sload => exact execSload_tidy h
  | sstore => exact execSstore_tidy h
  | stileRd => exact execStileRd_tidy h
  | stileWr => exact execStileWr_tidy h
  | scopy => exact execScopy_tidy h
  | scopyR => exact execScopyR_tidy h
  | scopyM => exact execScopyM_tidy h
  | sfill => exact execSfill_tidy h
  | sfillR => exact execSfillR_tidy h
  | sfillM => exact execSfillM_tidy h
  | sgather => exact execSgather_tidy h
  | sscadd => exact execSscadd_tidy h
  | srecv => exact execSrecv_tidy h
  | krun => exact execKrun_tidy h
  | kwait => exact execKwait_tidy h
  | kresume => exact execKresume_tidy h
  | kresumeAbort => exact execKresumeAbort_tidy h
  | swait => exact execSwait_tidy h
  | swaitTest => exact execSwaitTest_tidy h
  | swaitAll => exact execSwaitAll_tidy h
  | barvArm => exact execBarvArm_tidy h
  | barvArrive => exact execBarvArrive_tidy h
  | barvWait => exact execBarvWait_tidy h
  | sdgetW0 => exact execSdgetW0_tidy h
  | sdgetW1 => exact execSdgetW1_tidy h
  | sdputW0 => exact execSdputW0_tidy h
  | sdputW1 => exact execSdputW1_tidy h
  | sdrec => exact execSdrec_tidy h
  | snop => exact execSnop_tidy h
  | takeTrap => exact execTakeTrap_tidy h
  | kernelBundleIssue => exact execKernelBundleIssue_tidy h
  | fixedLatencyWrite => exact execFixedLatencyWrite_tidy h
  | landing => exact execLanding_tidy h
  | landingDataArrival => exact execLandingDataArrival_tidy h
  | writeQueueAck => exact execWriteQueueAck_tidy h
  | lateFault => exact execLateFault_tidy h
  | tmmaPassComplete => exact execTmmaPassComplete_tidy h
  | transformComplete => exact execTransformComplete_tidy h
  | kernelStart => exact execKernelStart_tidy h
  | kernelEnd => exact execKernelEnd_tidy h
  | barrierArrivalCounted => exact execBarrierArrivalCounted_tidy h
  | waitWatchdogExpiry => exact execWaitWatchdogExpiry_tidy h
  | thresholdTimeoutExpiry => exact execThresholdTimeoutExpiry_tidy h
  | stealRequest => exact execStealRequest_tidy h
  | stealReturn => exact execStealReturn_tidy h
  | scoreboardIssue => exact execScoreboardIssue_tidy h
  | engineComplete => exact execEngineComplete_tidy h
  | gatePass => exact execGatePass_tidy h
  | gateWatchdogExpiry => exact execGateWatchdogExpiry_tidy h
  | tileRequest => exact execTileRequest_tidy h
  | launch => exact execLaunch_tidy h
  | grantGroup => exact execGrantGroup_tidy h
  | launchComplete => exact execLaunchComplete_tidy h
  | barrierPacket => exact execBarrierPacket_tidy h
  | codePacket => exact execCodePacket_tidy h
  | unloadPacket => exact execUnloadPacket_tidy h
  | signalPacket => exact execSignalPacket_tidy h
  | qwriteWrite => exact execQwriteWrite_tidy h
  | qctlEnable => exact execQctlEnable_tidy h
  | preemptHold => exact execPreemptHold_tidy h
  | preemptRelease => exact execPreemptRelease_tidy h
  | keyWrite => exact execKeyWrite_tidy h
  | keyEmpty => exact execKeyEmpty_tidy h
  | keyQuery => exact execKeyQuery_tidy h
  | keyOpDone => exact execKeyOpDone_tidy h
  | moduleStart => exact execModuleStart_tidy h
  | startStepComplete => exact execStartStepComplete_tidy h
  | registerWrite => exact execRegisterWrite_tidy h
  | preemptRequest => exact execPreemptRequest_tidy h
  | graceExpiry => exact execGraceExpiry_tidy h
  | save => exact execSave_tidy h
  | saveWrite => exact execSaveWrite_tidy h
  | restore => exact execRestore_tidy h
  | restoreGrant => exact execRestoreGrant_tidy h
  | quiesce => exact execQuiesce_tidy h
  | hsmaskWrite => exact execHsmaskWrite_tidy h
  | maskerrClear => exact execMaskerrClear_tidy h
  | heartbeat => exact execHeartbeat_tidy h
  | heartbeatMissed => exact execHeartbeatMissed_tidy h
  | takeoverAck => exact execTakeoverAck_tidy h
  | refreshWindowExpiry => exact execRefreshWindowExpiry_tidy h
  | poisonDetect => exact execPoisonDetect_tidy h
  | writebackFailure => exact execWritebackFailure_tidy h
  | selftest => exact execSelftest_tidy h
  | selftestComplete => exact execSelftestComplete_tidy h
  | groupAbortExpiry => exact execGroupAbortExpiry_tidy h
  | bridgeFailure => exact execBridgeFailure_tidy h
  | remoteRequest => exact execRemoteRequest_tidy h
  | remoteTimeoutExpiry => exact execRemoteTimeoutExpiry_tidy h
  | lrtEnable => exact execLrtEnable_tidy h
  | lrtDisable => exact execLrtDisable_tidy h
  | exchangeRoundBegin => exact execExchangeRoundBegin_tidy h
  | exchange => exact execExchange_tidy h
  | exchangeFailure => exact execExchangeFailure_tidy h
  | frameReceive => exact execFrameReceive_tidy h
  | ringBind => exact execRingBind_tidy h
  | counterClear => exact execCounterClear_tidy h
  | prgResponse => exact execPrgResponse_tidy h
  | atsInvalidate => exact execAtsInvalidate_tidy h
  | lineCommit => exact execLineCommit_tidy h
  | powerCapExceeded => exact execPowerCapExceeded_tidy h
  | thermalHot => exact execThermalHot_tidy h
  | thermalCrit => exact execThermalCrit_tidy h
  | hostLinkDown => exact execHostLinkDown_tidy h
  | debugHalt => exact execDebugHalt_tidy h
  | kibryPortTrained => exact execKibryPortTrained_tidy h
  | kibryPortLost => exact execKibryPortLost_tidy h

/-! ## Fetch -/

theorem fetchRead_tidy {s : State} {pc : Word} {x : Loc} (h : Tidy s) :
    Yields (fun x => Tidy (stopState x)) (fun _ => True) (fetchRead s pc x) := by
  unfold fetchRead
  split
  · dsimp only
    split
    · exact h
    · split
      · exact h
      · split
        · exact h
        · split
          · exact (metPoison_tidy h).some ‹_›
          · exact trivial
  · exact trivial

theorem cacheWord_tidy {s : State} {pc w : Word} {place : Nat} (h : Tidy s) : Tidy (cacheWord s pc w place) := by
  unfold cacheWord
  dsimp only
  exact ite_tidy h (onCp_tidy h)

theorem chooseWord_tidy {s : State} {old : Option Word} {now : Except Stop Word} (h : Tidy s)
    (_ : Yields (fun x => Tidy (stopState x)) (fun _ => True) now) :
    Tidy (chooseWord s old now).1 := by
  unfold chooseWord
  split
  · exact h
  · split <;> exact h

theorem chooseWord_error_tidy {s : State} {old : Option Word} {now : Except Stop Word} {x : Stop}
    (h : Yields (fun x => Tidy (stopState x)) (fun _ => True) now) (e : (chooseWord s old now).2 = .error x) :
    Tidy (stopState x) := by
  unfold chooseWord at e
  split at e
  · exact h.error e
  · split at e
    · exact h.error e
    · dsimp only at e
      split at e
      · cases e
      · exact h.error e

theorem fetchWord_tidy {s : State} (h : Tidy s) : StopTidy (fetchWord s) := by
  unfold fetchWord
  dsimp only
  split
  · exact h
  · split
    · exact h
    · refine (translate_tidy h).bind fun ⟨_, _⟩ h => ?_
      dsimp only
      split
      · exact h
      · split
        · exact h
        · refine (place_tidy h).bind fun _ _ => ?_
          split
          · exact cacheWord_tidy (chooseWord_tidy h (fetchRead_tidy h))
          · exact chooseWord_error_tidy (fetchRead_tidy h) ‹_›

theorem fetchFails_tidy {s : State} {t : Trap} (h : Tidy s) : Tidy (fetchFails s t) :=
  ite_tidy (fatalStop_tidy h) (takeSync_tidy h)

theorem fetchStops_tidy {x : Stop} (h : Tidy (stopState x)) : Tidy (fetchStops x) := by
  unfold fetchStops
  split
  · exact fetchFails_tidy h
  · exact h
  · exact h
  · exact h
  · exact h

theorem afterDecode_tidy {s : State} {w : Word} {d : Decoded} (h : Tidy s) : Tidy
    (nextState (afterDecode s w d)) := by
  unfold afterDecode
  split
  · exact run_tidy h
  · exact advance_tidy h
  · exact fetchFails_tidy h
  · exact takeSync_tidy h

theorem currentWord_tidy {s : State} (h : Tidy s) : StopTidy (currentWord s) := by
  unfold currentWord
  split
  · exact h
  · exact fetchWord_tidy h

theorem cpNext_tidy {s : State} (h : Tidy s) : Tidy (nextState (cpNext s)) := by
  unfold cpNext
  split
  · exact h
  · split
    · exact takePending_tidy h
    · split
      · exact fetchStops_tidy ((currentWord_tidy h).error ‹_›)
      · exact afterDecode_tidy ((currentWord_tidy h).ok ‹_›)

/-! ## The step -/

theorem afterSlot_tidy {o : Out} (h : OutTidy o) : OutTidy (afterSlot o) := by
  unfold afterSlot
  split
  · exact next_tidy (slotDone_tidy h)
  · exact h
  · exact h

theorem tick_tidy {s : State} (h : Tidy s) : Tidy (tick s) :=
  h

theorem cpTurn_tidy {s : State} (h : Tidy s) : OutTidy (cpTurn s) := by
  unfold cpTurn
  split
  · exact Tidy.cpNext (v := .done _) (cpNext_tidy h) ‹_›
  · exact exec_tidy (Tidy.cpNext (v := .run _ _) (cpNext_tidy h) ‹_›)

theorem takeTurn_tidy {s : State} {x : Turn} (h : Tidy s) : OutTidy (takeTurn s x) := by
  unfold takeTurn
  split
  · exact cpTurn_tidy (focusOn_tidy h)
  · split
    · exact afterSlot_tidy (exec_tidy ((slotNext_tidy (focusOn_tidy h)).some ‹_›))
    · exact kernelTurn_tidy (focusOn_tidy h)
  · exact streamTurn_tidy (focusOn_tidy h)
  · split
    · exact exec_tidy h
    · exact h

theorem step_tidy {s : State} (h : Tidy s) : OutTidy (step s) := by
  unfold step
  split
  · exact afterSlot_tidy (exec_tidy ((slotFirst_tidy h).some ‹_›))
  · split
    · exact cpTurn_tidy (tick_tidy h)
    · exact takeTurn_tidy (tick_tidy h)

/-- Settles O60: every operation that makes up a step keeps the form, in the order in which the model composes them. -/
theorem everyStepKeepsTheCanonicalForm : Obligations.EveryStepKeepsTheCanonicalForm := by
  unfold Obligations.EveryStepKeepsTheCanonicalForm
  intro s t h e
  exact (step_tidy h).next e

end Sys2Proof.CanonicalForm
end

section
/-! SUPPORT. A codeword behind the end of the SRF (O52). -/

namespace Sys2Proof.StackEvents

open Sys2Proof Sys2Proof.Machine Sys2Proof.Claims

/-- An SRF of 3 MiB has 49,152 codewords of 64 bytes (R245): an error that is reported behind them marks none. -/
theorem poisonDetect_srf_beyond (s : State) (n e q : Nat) (h : srfSize / 64 ≤ q) :
    exec (.poisonDetect (.srf n e) q) s = .next s := by
  have c : ¬ (decide (n < 768) && decide (q < srfSize / 64)) = true := by simp [h]
  exact congrArg Host.Outcome.next (if_neg c)

/-- Refutes O52: the statement speaks of 65,536 codewords of an SRF, but an SRF has 49,152. An uncorrectable error in
codeword 49,152 of core 0 marks no codeword of the machine as reset leaves it, where the statement has one marked. -/
theorem not_stackAndUnitEvents : ¬ Obligations.StackAndUnitEvents := by
  unfold Obligations.StackAndUnitEvents
  rintro ⟨-, tests⟩
  obtain ⟨-, srf, -⟩ := tests 0 0 0 ⟨0, 0⟩ State.reset
  obtain ⟨-, -, -, marks⟩ := srf (by decide) 49152 3 (by decide)
  have marked := marks (by omega)
  rw [poisonDetect_srf_beyond State.reset 0 3 49152 (by decide)] at marked
  have same := congrArg (fun s : State => s.core.srfPoison) (Host.Outcome.next.inj marked)
  exact absurd same (by decide)

end Sys2Proof.StackEvents
end

section
/-! SUPPORT. Events beyond the package: the error log, bridges and ports, requests of other packages, remote timeouts,
page requests and migrating lines (O55). -/

namespace Sys2Proof.BeyondThePackage

open Sys2Proof Sys2Proof.Machine Sys2Proof.Safety Sys2Proof.Claims Sys2Proof.ControlProcessor
open Sys2Proof.AccumulatorWords (fld_ofNat)

/-! ## Sets of numbers -/

theorem setHas_setAdd_self (k : Nat) (l : List Nat) : setHas k (setAdd k l) = true := by
  induction l with
  | nil => simp [setAdd, setHas]
  | cons x l ih =>
    unfold setAdd
    split_ifs with hlt heq
    · simp [setHas]
    · simp [setHas, (beq_iff_eq.1 heq)]
    · simp [setHas, ih]

theorem setHas_setDel_self (k : Nat) (l : List Nat) : setHas k (setDel k l) = false := by
  unfold setDel
  induction l with
  | nil => rfl
  | cons x l ih =>
    rw [List.filter_cons]
    split
    · rename_i h
      simpa [setHas, ih] using h
    · exact ih

/-! ## Entries of the error log (R462) -/

theorem logOpen_logged (s : State) {cls : Nat} (index : Nat) (h : cls < 256) :
    Logged s (logOpen s cls index) cls index := by
  refine ⟨_, s.fresh + 1, rfl, ?_, ?_⟩
  · rw [fld_ofNat (by decide)]
    omega
  · rw [fld_ofNat (by decide)]
    omega

/-! ## Bridges and ports (R440, R441, R446) -/

theorem bridgeFailure_eq {s : State} {die : Nat} (hd : die < 8) (h : die ∉ s.md.deadBridges) :
    exec (.bridgeFailure die) s =
      .next (withMd (logOpen s 6 die) fun m => { m with deadBridges := setAdd die m.deadBridges }) := by
  have c : (decide (die < 8) && !s.md.deadBridges.contains die) = true := by simpa [hd] using h
  exact congrArg Host.Outcome.next (if_pos c)

theorem kibryPortTrained_eq {s : State} {port : Nat} (h : port < 16) : exec (.kibryPortTrained port) s =
    .next (withMd s fun m => { m with kbLive := setBit m.kbLive port true }) :=
  congrArg Host.Outcome.next (if_pos h)

section
variable {s : State} {port : Nat} (h : port < 16)
include h

theorem bit_kbLive : bit (s.md.kbLive.setWidth 64) port = s.md.kbLive.getLsbD port := by
  rw [bit, BitVec.getLsbD_setWidth, decide_eq_true (by omega), Bool.true_and]

theorem kibryPortLost_dead (hb : bit (s.md.kbLive.setWidth 64) port = false) :
    exec (.kibryPortLost port) s = .next s := by
  rw [bit_kbLive h] at hb
  exact congrArg Host.Outcome.next ((if_pos h).trans (if_neg (by simp [hb])))

theorem kibryPortLost_live (hb : bit (s.md.kbLive.setWidth 64) port = true) : exec (.kibryPortLost port) s =
    .next (withMd (logOpen s 8 port) fun m => { m with kbLive := setBit m.kbLive port false }) := by
  rw [bit_kbLive h] at hb
  exact congrArg Host.Outcome.next ((if_pos h).trans (if_pos hb))

end

/-! ## Requests of other packages (R442) -/

theorem remoteRequest_ignored {s : State} (h : s.md.mstate = 0 ∨ s.md.mstate = 3) (r : RemoteReq) :
    exec (.remoteRequest r) s = .next (countFlits s) := by
  have hm : (countFlits s).md.mstate = s.md.mstate := rfl
  refine congrArg Host.Outcome.next ?_
  rw [remoteRequest]
  dsimp only
  rcases h with h | h <;> simp [hm, h]

/-- A request for a cell of this package's memory is served as an access of the package, at the die that sends it. -/
theorem remoteRequest_served {s : State} {r : RemoteReq} (h : s.md.mstate = 1 ∨ s.md.mstate = 2)
    (hpa : r.pa.toNat / 2 ^ 40 = 2 * s.md.pkg.toNat)
    (ho : (interleave r.mode.toNat (r.pa.toNat % 2 ^ 40)).2 < stackBacked) (hl : r.lattice = 0) :
    let k := interleave r.mode.toNat (r.pa.toNat % 2 ^ 40)
    exec (.remoteRequest r) s = .next (servedState (serve (countFlits s) 0 (remoteEntry (countFlits s) r)
      ⟨.stk s.md.pkg.toNat k.1 k.2, 0, r.srcDie⟩)) := by
  have hmd : (countFlits s).md.mstate = s.md.mstate ∧ (countFlits s).md.pkg = s.md.pkg := ⟨rfl, rfl⟩
  have hslot : remoteSlot (countFlits s) r (r.pa.toNat % 2 ^ 40) = some r.srcDie := by
    rw [remoteSlot, hl]
    rfl
  have c : ¬ ((countFlits s).md.mstate == 0 || (countFlits s).md.mstate == 3 ||
      r.pa.toNat / 2 ^ 41 != (countFlits s).md.pkg.toNat || r.pa.toNat / 2 ^ 40 % 2 == 1 ||
      decide ((interleave r.mode.toNat (r.pa.toNat % 2 ^ 40)).2 ≥ stackBacked)) = true := by
    have h0 : (s.md.mstate == 0) = false := by rcases h with h | h <;> rw [h] <;> rfl
    have h3 : (s.md.mstate == 3) = false := by rcases h with h | h <;> rw [h] <;> rfl
    have hp : r.pa.toNat / 2 ^ 41 = s.md.pkg.toNat := by omega
    have he : r.pa.toNat / 2 ^ 40 % 2 = 0 := by omega
    rw [hmd.1, hmd.2, h0, h3, hp, he]
    simpa using ho
  intro k
  refine congrArg Host.Outcome.next ?_
  rw [remoteRequest]
  dsimp only
  rw [if_neg c, hslot, hl]
  rfl

/-! ## Remote timeouts (R443) -/

theorem perhapsPerformed_spec (s : State) (who : Access) (e : LogEntry) :
    Perhaps s who e (perhapsPerformed s who e) := by
  unfold perhapsPerformed Perhaps
  dsimp only
  split
  · split
    · exact .inr ⟨_, by assumption⟩
    · exact .inl rfl
  · exact .inl rfl

theorem perhapsObject_spec (s : State) (who : Access) (e : LogEntry) :
    perhapsObject s who e = { s with fresh := s.fresh + 1 } ∨
      ∃ b, serveObject { s with fresh := s.fresh + 1 } who e = .ok (b, perhapsObject s who e) := by
  unfold perhapsObject
  dsimp only
  split
  · split
    · exact .inr ⟨_, by assumption⟩
    · exact .inl rfl
  · exact .inl rfl

theorem focusOn_md (s : State) (n : Nat) : (s.focusOn n).md = s.md := by
  unfold State.focusOn
  split <;> rfl

theorem focusOn_clock (s : State) (n : Nat) : (s.focusOn n).clock = s.clock := by
  unfold State.focusOn
  split <;> rfl

theorem remoteLate_focusOn (s : State) (n since : Nat) :
    remoteLate (s.focusOn n) since = decide (850 * s.md.kbTimeout < s.clock - since) := by
  rw [remoteLate, focusOn_md, focusOn_clock, usCycles, Nat.mul_comm]

section
variable {s : State} {e : LogEntry} {w : Wait} (he : s.core.cp.remote = some e) (hw : s.core.cp.wait = some w)
include he hw

theorem cpTimeout_early (hl : remoteLate s e.since = false) : cpTimeout s = s := by
  have c : (e.status != .inFlight || !remoteLate s e.since) = true := by simp [hl]
  rw [cpTimeout, he, hw]
  exact if_pos c

/-- What is late traps at its word, or, at an enqueue, becomes the fault of the instruction. -/
theorem cpTimeout_late (hf : e.status = .inFlight) (hl : remoteLate s e.since = true) : cpTimeout s =
    if e.opc != objUpdate then takeSync (perhapsPerformed s (cpAccess s) e) (etrap .remoteTimeout e) w.opc w.pc
    else if e.aop == 3 then (perhapsObject s (cpAccess s) e).onCp fun c =>
      { c with remote := some { e with status := .failed (etrap .remoteTimeout e) } }
    else takeSync (perhapsObject s (cpAccess s) e) (etrap .remoteTimeout e) w.opc w.pc := by
  have c : ¬ (e.status != .inFlight || !remoteLate s e.since) = true := by simp [hf, hl]
  rw [cpTimeout, he, hw]
  exact if_neg c

end

/-- The event for the word that a CP waits in. -/
theorem leaves_cpTimeout {s t : State} {n : Nat} (h : cpTimeout (s.focusOn n) = t) :
    Leaves (.remoteTimeoutExpiry n none) s t := leaves_of_atCore rfl h

/-- An entry in flight to another package, whose walk the older ones permit, fails in its place. -/
theorem entryTimeout_late {s z : State} {e : LogEntry} (hf : e.status = .inFlight) (ho : e.opc ≠ 0xBC)
    (hl : remoteLate s e.since = true) (hz : walkOlder s e.seq = some z) (hm : mayPerform z e = true)
    (hr : entryRemote z (kernAccess z) e = true) (put : State → Option LogEntry → State) :
    entryTimeout s e put =
      put (perhapsPerformed z (kernAccess z) e) (some { e with status := .failed (etrap .remoteTimeout e) }) := by
  have c : (e.status == .inFlight && e.opc != 0xBC && remoteLate s e.since) = true := by
    rw [hf, hl, bne_iff_ne.2 ho]
    rfl
  have c' : (mayPerform z e && entryRemote z (kernAccess z) e) = true := by rw [hm, hr]; rfl
  rw [entryTimeout, if_pos c, hz]
  exact if_pos c'

theorem entryAt_val (v : Vector (Option LogEntry) 32) (i : Fin 32) : entryAt v i = v.get i := by
  simp [entryAt, Vector.get]

theorem putLanding_eq (s : State) (i : Fin 32) (o : Option LogEntry) :
    putLanding s i o = s.withKern { s.core.kern with landing := s.core.kern.landing.set i o } := by
  have : s.core.kern.landing.setIfInBounds i o = s.core.kern.landing.set i o := by
    ext k hk
    rw [Vector.getElem_setIfInBounds, Vector.getElem_set]
  rw [← this]
  rfl

theorem remoteAccessesAreServedOrTimeOut : RemoteAccessesAreServedOrTimeOut := by
  intro n die port r s x k m at' crossed late
  have lateX {since : Nat} : remoteLate x since = true ↔ late since := by
    rw [remoteLate_focusOn, decide_eq_true_iff]
  have earlyX {since : Nat} (h : ¬ late since) : remoteLate x since = false := by
    rw [remoteLate_focusOn]
    exact decide_eq_false h
  refine ⟨fun hd h => ?_, fun hp => ⟨kibryPortTrained_eq hp, kibryPortLost_dead hp, fun hb => ?_⟩,
    fun h => remoteRequest_ignored h r, fun b y h hpa ho hl hs => ?_, fun e w he hw hf ho => ?_,
    fun e w he hw hf ho => ?_, fun i e z hi hf ho hz hm hr hl => ?_⟩
  · exact ⟨_, bridgeFailure_eq hd h, _, logOpen_logged s die (by decide), rfl⟩
  · exact ⟨_, kibryPortLost_live hp hb, _, logOpen_logged s port (by decide), rfl⟩
  · refine (remoteRequest_served h hpa ho hl).trans (congrArg _ ?_)
    exact congrArg servedState hs
  · intro object
    have hobj : object (perhapsObject x (cpAccess x) e) := perhapsObject_spec x (cpAccess x) e
    have c : ¬ (e.opc != objUpdate) = true := by simp [ho]
    refine ⟨fun hl ha => ⟨_, hobj, leaves_cpTimeout ?_⟩, fun hl ha => ⟨_, hobj, leaves_cpTimeout ?_⟩, fun hl => ?_⟩
    · rw [cpTimeout_late he hw hf (lateX.2 hl), if_neg c, if_neg (by simpa using ha)]
    · rw [cpTimeout_late he hw hf (lateX.2 hl), if_neg c, if_pos (by simp [ha])]
      rfl
    · exact leaves_cpTimeout (cpTimeout_early he hw (earlyX hl))
  · have c : (e.opc != objUpdate) = true := by simp [ho]
    refine ⟨fun hl => ⟨_, .inr (perhapsPerformed_spec x (cpAccess x) e), leaves_cpTimeout ?_⟩, fun hl => ?_⟩
    · rw [cpTimeout_late he hw hf (lateX.2 hl), if_pos c]
    · exact leaves_cpTimeout (cpTimeout_early he hw (earlyX hl))
  · refine ⟨_, perhapsPerformed_spec z (kernAccess z) e, leaves_of_atCore rfl ?_⟩
    dsimp only
    rw [if_pos i.isLt, entryAt_val, hi]
    dsimp only
    rw [entryTimeout_late hf ho (lateX.2 hl) hz hm hr, putLanding_eq]

/-! ## Page requests (R263, R470) -/

theorem prgResponse_unknown {s : State} {n : Nat} (h : s.md.pageReqs.find? (·.tag == n) = none) (code : Nat) :
    exec (.prgResponse n code) s = .next s := by
  rw [exec_prgResponse, execPrgResponse, prgResponse, h]

theorem prgResponse_known {s : State} {n : Nat} {q : PageReq} (h : s.md.pageReqs.find? (·.tag == n) = some q)
    (code : Nat) :
    exec (.prgResponse n code) s = .next (answerAll (withMd s fun m => { m with
      pageReqs := m.pageReqs.filter (·.tag != n), prgFailed := m.prgFailed || !(code == 0 || code == 1) })
        (q.answer (code == 1))) := by
  rw [exec_prgResponse, execPrgResponse, prgResponse, h]
  rfl

/-- What waits for the page learns that it is refused, or waits no more. -/
theorem answer_self (q : PageReq) (code : Nat) : q.answer (code == 1) (some ⟨q.asid, q.page, false⟩) =
    if code = 1 then some ⟨q.asid, q.page, true⟩ else none := by
  simp [PageReq.answer]

theorem answerAll_queue (s : State) (f : Option PageWait → Option PageWait) (i : Fin 64) :
    ((answerAll s f).queues.get i).page = f (s.queues.get i).page := by
  exact congrArg Queue.page (Vector.getElem_map ..)

/-! ## Invalidations (R314, R470) -/

/-- An ATS invalidation means the translations of an ASID that cover its address. -/
def named (asid : Nat) (va : Word) (t : TlbEntry) : Bool := t.asid.toNat == asid && t.xlat.covers (fld va 0 56)

theorem named_iff {asid : Nat} {va : Word} {t : TlbEntry} :
    named asid va t = true ↔ t.asid.toNat = asid ∧ t.va ≤ fld va 0 56 ∧ fld va 0 56 < t.va + t.size := by
  simp only [named, Xlat.covers, Bool.and_eq_true, beq_iff_eq, decide_eq_true_eq]
  exact Iff.rfl

theorem atsInvalidate_waits {s : State} {asid : Nat} {va : Word} (h : ∃ x ∈ inUse s, named asid va x = true) :
    exec (.atsInvalidate asid va) s = .next s := by
  have c : invalidationWaits s true 0 (named asid va) = true := by
    simpa [invalidationWaits] using h
  exact congrArg Host.Outcome.next (if_pos c)

theorem atsInvalidate_drops {s : State} {asid : Nat} {va : Word} (h : ∀ x ∈ inUse s, named asid va x = false) :
    exec (.atsInvalidate asid va) s = .next (invalidate s true 0 (named asid va)) := by
  have c : ¬ invalidationWaits s true 0 (named asid va) = true := by
    simpa [invalidationWaits] using h
  exact congrArg Host.Outcome.next (if_neg c)

theorem mem_invalidate_tlb {s : State} {p : TlbEntry → Bool} {x : TlbEntry} :
    x ∈ (invalidate s true 0 p).tlb ↔ x ∈ s.tlb ∧ p x = false := by
  simp [invalidate, endMigration, tlbDrop]

theorem mem_invalidate_migrating {s : State} {p : TlbEntry → Bool} {m : MigLine} :
    m ∈ (invalidate s true 0 p).migrating ↔ m ∈ s.migrating ∧ ¬ (m.done = true ∧
      (p (m.entry 0) = true ∨ ∃ t ∈ s.tlb, p t = true ∧ t.asid = m.asid ∧ t.xlat.covers m.va = true) ∧
      stillHeld { s with tlb := (invalidate s true 0 p).tlb } m = false) := by
  have held : stillHeld (tlbDrop s true 0 p) m = stillHeld { s with tlb := (invalidate s true 0 p).tlb } m := rfl
  rw [← held]
  have before : ((p (m.entry 0) || s.tlb.any fun t => p t && t.asid == m.asid && t.xlat.covers m.va) = true) ↔
      (p (m.entry 0) = true ∨ ∃ t ∈ s.tlb, p t = true ∧ t.asid = m.asid ∧ t.xlat.covers m.va = true) := by
    simp only [Bool.or_eq_true, List.any_eq_true, Bool.and_eq_true, beq_iff_eq, and_assoc]
  rw [← before, invalidate, endMigration, List.mem_filter]
  simp only [Bool.not_eq_true', ← Bool.not_eq_true, Bool.and_eq_true, and_assoc]
  rfl

/-- The line's own page covers its address. -/
theorem named_entry {asid : Nat} {va : Word} {m : MigLine} (ha : m.asid.toNat = asid) (hv : m.va = fld va 0 56) :
    named asid va (m.entry 0) = true := by
  rw [named_iff]
  simp only [MigLine.entry]
  omega

/-- Without a translation to the old home none is held. -/
theorem stillHeld_eq_false {s : State} {m : MigLine} (h : ∀ y, y ∈ s.tlb ∨ y ∈ inUse s → leadsOld s m y = false) :
    stillHeld s m = false := by
  rw [stillHeld, List.any_eq_false]
  exact fun y hy => Bool.not_eq_true _ ▸ h y (List.mem_append.1 hy)

/-! ## Migrating lines (R314) -/

section
variable {s : State} {a : BitVec 16} {va old new : Nat}

theorem lineCommit_begins (hne : old ≠ new) (h : ∀ m ∈ s.migrating, old ∉ [m.old, m.new] ∧ new ∉ [m.old, m.new])
    (commit : Bool) : exec (.lineCommit ⟨a, va, old⟩ new commit) s =
      .next (if commit then s else { s with migrating := s.migrating ++ [⟨a, va, old, new, false⟩] }) := by
  have none : s.migrating.find? (fun m => m.old == old || m.new == new || m.old == new || m.new == old) = none := by
    rw [List.find?_eq_none]
    intro m hm
    obtain ⟨ho, hn⟩ := h m hm
    simp only [List.mem_cons, List.not_mem_nil, or_false, not_or] at ho hn
    simp [Ne.symm ho.1, Ne.symm ho.2, Ne.symm hn.1, Ne.symm hn.2]
  rw [exec_lineCommit, execLineCommit, lineCommit, none]
  simp [hne]

theorem lineCommit_commits
    (h : s.migrating.find? (fun m => m.old == old || m.new == new || m.old == new || m.new == old) =
      some ⟨a, va, old, new, false⟩)
    (ho : quiesced s (128 * old) = false) (hn : quiesced s (128 * new) = false) :
    exec (.lineCommit ⟨a, va, old⟩ new true) s = .next (commitLine s old new) := by
  rw [exec_lineCommit, execLineCommit, lineCommit, h]
  simp [ho, hn]

end

/-- The cells of a line's copy. -/
def copied (s : State) (old new : Nat) : List Host.Cell :=
  (List.range 128).map fun i => (128 * new + i, byteAt s (128 * old + i))

theorem commitLine_eq (s : State) (old new : Nat) : commitLine s old new =
    { markGranule (putBytesAt s (copied s old new)) new (setHas old s.poison) (setHas old s.unmet) with
      migrating := (putBytesAt s (copied s old new)).migrating.map fun m =>
        if m.old == old && m.new == new then { m with done := true } else m } := by
  unfold commitLine copied markGranule
  rfl

theorem commitLine_frame (s : State) (old new : Nat) : commitLine s old new = { s with
    mem := (commitLine s old new).mem, hostMem := (commitLine s old new).hostMem
    poison := (commitLine s old new).poison, unmet := (commitLine s old new).unmet
    migrating := (commitLine s old new).migrating } := by
  rw [commitLine_eq]
  dsimp only [markGranule]
  rw [putBytesAt_frame]

theorem commitLine_byteAt (s : State) (old new k : Nat) :
    byteAt (commitLine s old new) k = byteAt (putBytesAt s (copied s old new)) k := by
  rw [commitLine_eq]
  simp only [byteAt, markGranule]

theorem commitLine_wf {s : State} (h : Memory.wf s.mem = true) (old new : Nat) :
    Memory.wf (commitLine s old new).mem = true := by
  have := putBytesAt_wf (copied s old new) h
  rw [commitLine_eq]
  simpa only [markGranule] using this

theorem commitLine_poison (s : State) (old new : Nat) :
    setHas new (commitLine s old new).poison = setHas old s.poison := by
  rw [commitLine_eq]
  simp only [markGranule]
  split
  · rw [setHas_setAdd_self]
    exact Eq.symm ‹_›
  · rw [setHas_setDel_self]
    exact (Bool.eq_false_iff.2 ‹_›).symm

theorem commitLine_migrating (s : State) (old new : Nat) : (commitLine s old new).migrating =
    s.migrating.map fun m => if m.old == old && m.new == new then { m with done := true } else m := by
  rw [commitLine_eq, putBytesAt_frame]

section
variable {s : State} (w : BytesListedOnce s) (old new : Nat)
include w

theorem commitLine_copies {i : Nat} (hi : i < 128) :
    byteAt (commitLine s old new) (128 * new + i) = byteAt s (128 * old + i) := by
  have nodup : ((copied s old new).map Prod.fst).Nodup := by
    rw [copied, List.map_map]
    exact List.Nodup.map (fun x y h => Nat.add_left_cancel h) List.nodup_range
  rw [commitLine_byteAt]
  exact byteAt_putBytesAt_mem w nodup (List.mem_map.2 ⟨i, List.mem_range.2 hi, rfl⟩)

theorem commitLine_leaves {k : Nat} (hk : k < 128 * new ∨ 128 * new + 128 ≤ k) :
    byteAt (commitLine s old new) k = byteAt s k := by
  rw [commitLine_byteAt]
  refine byteAt_putBytesAt_other w fun c hc => ?_
  obtain ⟨i, hi, rfl⟩ := List.mem_map.1 hc
  rw [List.mem_range] at hi
  omega

end

theorem pagesAreAnsweredAndMigrate : PagesAreAnsweredAndMigrate := by
  intro n code asid va' old new a va s q
  refine ⟨fun h => ⟨_, prgResponse_known h code, rfl, rfl, fun i hi => ?_⟩, fun h => prgResponse_unknown h code, ?_⟩
  · rw [answerAll_queue]
    exact (congrArg _ hi).trans (answer_self q code)
  · intro meant
    have isNamed {x : TlbEntry} : named asid va x = true ↔ meant x := named_iff
    have notNamed {x : TlbEntry} : named asid va x = false ↔ ¬ meant x := by rw [← isNamed, Bool.not_eq_true]
    refine ⟨fun ⟨x, hx, hm⟩ => atsInvalidate_waits ⟨x, hx, isNamed.2 hm⟩, fun h => ?_,
      fun hne h => ⟨lineCommit_begins hne h false, lineCommit_begins hne h true⟩, fun hw hh hne h ho hn => ?_⟩
    · refine ⟨_, atsInvalidate_drops fun x hx => notNamed.2 (h x hx), fun x => ?_, fun m hm => ?_,
        fun m _ ha hv hd hold hm => ?_, fun m hm hd => ?_, rfl, rfl⟩
      · rw [mem_invalidate_tlb, notNamed]
      · exact (mem_invalidate_migrating.1 hm).1
      · exact (mem_invalidate_migrating.1 hm).2 ⟨hd, .inl (named_entry ha hv), stillHeld_eq_false hold⟩
      · exact mem_invalidate_migrating.2 ⟨hm, fun h => by simp [hd] at h⟩
    · have w : BytesListedOnce s := ⟨hw, keysFrom_of_hostFrom hh⟩
      have line : (⟨a, va', old, new, true⟩ : MigLine) ∈ (commitLine s old new).migrating := by
        rw [commitLine_migrating]
        exact List.mem_map.2 ⟨_, List.mem_of_find?_eq_some h, by simp⟩
      exact ⟨_, lineCommit_commits h ho hn, fun i hi => commitLine_copies w old new hi,
        fun k hk => commitLine_leaves w old new hk, commitLine_wf hw old new, line, commitLine_poison s old new,
        commitLine_frame s old new⟩

/-- Settles O55: each event is its own update of the state; what times out is the free choice of a performance. -/
theorem remoteAccessesAndPages : Obligations.RemoteAccessesAndPages :=
  ⟨remoteAccessesAreServedOrTimeOut, pagesAreAnsweredAndMigrate⟩

end Sys2Proof.BeyondThePackage
end

section
/-! SUPPORT. The checks of a generic address and the stacks that local addresses name (O34). -/

namespace Sys2Proof.AddressSpaces

open Sys2Proof Sys2Proof.Machine Sys2Proof.Safety Sys2Proof.Claims Sys2Proof.ControlProcessor

/-! ## The checks of a generic address (R238, R316) -/

section
variable {a : Word} {n align : ℕ} {write : Bool}

/-- The trap of a generic address stands for the whole of it. -/
theorem gtrap_generic (c : Cause) (a : Word) (write : Bool) :
    gtrap c a.toNat 0 write = { cause := c, addr := a, write := write } := by
  simp [gtrap]

/-- An aligned address of a known aperture is left to the checks of its aperture. -/
theorem frontTrap_known (h : fld a 56 8 ∈ [0x00, 0xFE, 0xFF]) (ha : a.toNat % align = 0) :
    frontTrap a n align anyAperture write = apertureTrap a n write := by
  simp only [List.mem_cons, List.not_mem_nil, or_false] at h
  have known : apertureOf a ≠ none := by rcases h with h | h | h <;> simp [apertureOf, h]
  obtain ⟨k, hk⟩ := Option.ne_none_iff_exists'.1 known
  simp [frontTrap, hk, anyAperture, ha]

theorem apertureTrap_global (h : fld a 56 8 = 0x00) : apertureTrap a n write = none := by
  simp [apertureTrap, apertureOf, h]

theorem apertureTrap_gallery (h : fld a 56 8 = 0xFE) : apertureTrap a n write =
    if fld a 29 27 ≠ 0 then some { cause := .noncanonical, addr := a, write := write }
    else if 96 ≤ fld a 22 7 then some { cause := .galleryCore, addr := a, write := write }
    else if 0x300000 < fld a 0 22 + n then some { cause := .srfBounds, addr := a, write := write } else none := by
  simp [apertureTrap, apertureOf, h, srfSize, gtrap_generic]

theorem apertureTrap_own (h : fld a 56 8 = 0xFF) : apertureTrap a n write =
    if fld a 22 34 ≠ 0 then some { cause := .noncanonical, addr := a, write := write }
    else if 0x300000 < fld a 0 22 + n then some { cause := .srfBounds, addr := a, write := write } else none := by
  simp [apertureTrap, apertureOf, h, srfSize, gtrap_generic]

end

/-- A load whose address a check stops takes that trap (R33). -/
theorem execLd_stopped {w : MForm} {s : State} {t : Trap} (h : OnCp s w.guard)
    (hf : frontTrap (eaIndexed s w) (tyBytes w.ty) (tyBytes w.ty) anyAperture false = some t) :
    exec (.ld w) s = .next (stopWord s 0xB0 (.trap t s)) := by
  have stops : runAccess s (accessEntry s 0xB0 w (eaIndexed s w) (tyBytes w.ty) (some (.k (r5 w.d))) []) (tyBytes w.ty)
      (fun s b => s.onCp fun c => c.writeG (r5 w.d) (loadValue
        (accessEntry s 0xB0 w (eaIndexed s w) (tyBytes w.ty) (some (.k (r5 w.d))) []) b)) = .error (.trap t s) := by
    have front : frontTrap (accessEntry s 0xB0 w (eaIndexed s w) (tyBytes w.ty) (some (.k (r5 w.d))) []).addr
        (accessEntry s 0xB0 w (eaIndexed s w) (tyBytes w.ty) (some (.k (r5 w.d))) []).size (tyBytes w.ty) anyAperture
        (writesMem (accessEntry s 0xB0 w (eaIndexed s w) (tyBytes w.ty) (some (.k (r5 w.d))) []).opc) = some t := hf
    rw [runAccess, front]
  exact runPlain_error h.2 stops

theorem addressesAreChecked : AddressesAreChecked := by
  intro a n align write w s top fails known aligned zeros core inside
  have listed (hk : known) : fld a 56 8 ∈ [0x00, 0xFE, 0xFF] := by
    simpa only [List.mem_cons, List.not_mem_nil, or_false] using hk
  refine ⟨fun hk => ?_, fun hk ha => ?_, fun hk ha hz => ?_, fun hk ha hz hc => ?_, fun hk ha hz hc hi => ?_,
    fun hk ha hz hc hi => ?_, fun h t hf => execLd_stopped h hf⟩
  · refine (frontTrap_noAperture (fun hm => hk ?_) n align write).trans (congrArg some (gtrap_generic ..))
    simpa only [List.mem_cons, List.not_mem_nil, or_false] using hm
  · exact (frontTrap_misaligned (listed hk) ha n write).trans (congrArg some (gtrap_generic ..))
  all_goals
    change frontTrap a n align anyAperture write = _
    rw [frontTrap_known (listed hk) ha]
    rcases hk with h | h | h
  · exact absurd ⟨fun h' => by omega, fun h' => by omega⟩ hz
  · rw [apertureTrap_gallery h, if_pos fun h0 => hz ⟨fun _ => h0, fun h' => by omega⟩]
  · rw [apertureTrap_own h, if_pos fun h0 => hz ⟨fun h' => by omega, fun _ => h0⟩]
  · exact absurd (fun h' => by omega) hc
  · rw [apertureTrap_gallery h, if_neg (not_not.2 (hz.1 h)), if_pos (not_lt.1 fun h96 => hc fun _ => h96)]
  · exact absurd (fun h' => by omega) hc
  · exact absurd (fun h' => absurd h h') hi
  · rw [apertureTrap_gallery h, if_neg (not_not.2 (hz.1 h)), if_neg (not_le.2 (hc h)),
      if_pos (not_le.1 fun hle => hi fun _ => hle)]
  · rw [apertureTrap_own h, if_neg (not_not.2 (hz.2 h)), if_pos (not_le.1 fun hle => hi fun _ => hle)]
  · exact apertureTrap_global h
  · rw [apertureTrap_gallery h, if_neg (not_not.2 (hz.1 h)), if_neg (not_le.2 (hc h)),
      if_neg (not_lt.2 (hi (by omega)))]
  · rw [apertureTrap_own h, if_neg (not_not.2 (hz.2 h)), if_neg (not_lt.2 (hi (by omega)))]

/-! ## Interleave (R264) -/

theorem testBit_toNat (m i : ℕ) : (m.testBit i).toNat = m / 2 ^ i % 2 := by
  rw [Nat.testBit_eq_decide_div_mod_eq]
  rcases Nat.mod_two_eq_zero_or_one (m / 2 ^ i) with h | h <;> rw [h] <;> rfl

/-- A number of four bits by its bits. -/
def nibble (b : ℕ → ℕ) : ℕ := b 0 % 2 + 2 * (b 1 % 2) + 4 * (b 2 % 2) + 8 * (b 3 % 2)

theorem nibble_of_lt : ∀ x < 16, x = nibble fun i => x / 2 ^ i := by decide

theorem xor_div_mod_two (x y i : ℕ) : (x ^^^ y) / 2 ^ i % 2 = (x / 2 ^ i + y / 2 ^ i) % 2 := by
  rw [Nat.xor_div_two_pow, Nat.xor_mod_two_eq]

/-- The exclusive or of numbers of four bits is the sum of their bits modulo 2. -/
theorem xor_four_nibbles {x y z u : ℕ} (hx : x < 16) (hy : y < 16) (hz : z < 16) (hu : u < 16) :
    x ^^^ y ^^^ z ^^^ u = nibble fun i => x / 2 ^ i + y / 2 ^ i + z / 2 ^ i + u / 2 ^ i := by
  have four : x ^^^ y ^^^ z ^^^ u < 2 ^ 4 :=
    Nat.xor_lt_two_pow (Nat.xor_lt_two_pow (Nat.xor_lt_two_pow hx hy) hz) hu
  rw [nibble_of_lt _ four]
  simp only [nibble, xor_div_mod_two, Nat.add_mod, Nat.mod_mod]

theorem xor_bits : ∀ x < 2, ∀ y < 2, x ^^^ y = (x + y) % 2 := by decide

theorem interleave_zero {m : ℕ} (hm : m < 2 ^ 40) : interleave 0 m =
    (m / 2 ^ 12 % 16 ^^^ m / 2 ^ 16 % 16 ^^^ m / 2 ^ 20 % 16 ^^^ m / 2 ^ 24 % 16,
      m / 2 ^ 16 * 2 ^ 12 + m % 2 ^ 12) := by
  rw [interleave]
  refine Prod.ext ?_ ?_ <;> simp only [Nat.div_div_eq_div_mul] <;> norm_num
  omega

theorem interleave_one {m : ℕ} (hm : m < 2 ^ 40) : interleave 1 m =
    (2 * (m / 2 ^ 37) + (m / 2 ^ 12 + m / 2 ^ 20 + m / 2 ^ 28 + m / 2 ^ 36) % 2,
      m % 2 ^ 37 / 2 ^ 13 * 2 ^ 12 + m % 2 ^ 12) := by
  have two (x : ℕ) : x % 2 < 2 := Nat.mod_lt _ (by decide)
  rw [interleave]
  dsimp only
  rw [xor_bits _ (two _) _ (two _), xor_bits _ (two _) _ (two _), xor_bits _ (two _) _ (two _)]
  refine Prod.ext ?_ ?_ <;> dsimp only <;> omega

theorem interleave_two {m : ℕ} (hm : m < 2 ^ 40) : interleave 2 m = (m / 2 ^ 36, m % 2 ^ 36) := by
  exact Prod.ext (Nat.mod_eq_of_lt (show m / 2 ^ 36 < 16 by omega)) rfl

theorem nibble_congr {f g : ℕ → ℕ} (h : ∀ i < 4, f i % 2 = g i % 2) : nibble f = nibble g := by
  rw [nibble, nibble, h 0 (by decide), h 1 (by decide), h 2 (by decide), h 3 (by decide)]

theorem bit_of_nibble (m k : ℕ) {i : ℕ} (h : i < 4) : m / 2 ^ k % 16 / 2 ^ i % 2 = m / 2 ^ (k + i) % 2 := by
  rw [pow_add, ← Nat.div_div_eq_div_mul]
  exact TilePasses.mod_two_pow_div_mod (a := 4) (w := 1) _ (by omega)

/-- The stack of mode 0, by the bits of the address. -/
theorem interleave_zero_stack (m : ℕ) :
    m / 2 ^ 12 % 16 ^^^ m / 2 ^ 16 % 16 ^^^ m / 2 ^ 20 % 16 ^^^ m / 2 ^ 24 % 16 =
      nibble fun i => m / 2 ^ (12 + i) + m / 2 ^ (16 + i) + m / 2 ^ (20 + i) + m / 2 ^ (24 + i) := by
  have four (x : ℕ) : x % 16 < 16 := Nat.mod_lt _ (by decide)
  rw [xor_four_nibbles (four _) (four _) (four _) (four _)]
  refine nibble_congr fun i hi => ?_
  have h12 := bit_of_nibble m 12 hi
  have h16 := bit_of_nibble m 16 hi
  have h20 := bit_of_nibble m 20 hi
  have h24 := bit_of_nibble m 24 hi
  rw [Nat.add_mod, Nat.add_mod (_ + _), Nat.add_mod (_ / 2 ^ i), h12, h16, h20, h24]
  simp only [← Nat.add_mod]

/-- Modes 0 to 2 name a stack below 16 and an offset below 2^36. -/
theorem interleave_bounds {m mode : ℕ} (hm : m < 2 ^ 40) (h : mode < 3) :
    (interleave mode m).1 < 16 ∧ (interleave mode m).2 < 2 ^ 36 := by
  have four (x : ℕ) : x % 16 < 2 ^ 4 := Nat.mod_lt _ (by decide)
  interval_cases mode
  · rw [interleave_zero hm]
    refine ⟨?_, by dsimp only; omega⟩
    exact Nat.xor_lt_two_pow (Nat.xor_lt_two_pow (Nat.xor_lt_two_pow (four _) (four _)) (four _)) (four _)
  · rw [interleave_one hm]
    constructor <;> dsimp only <;> omega
  · rw [interleave_two hm]
    constructor <;> dsimp only <;> omega

/-- Modes 0 to 2 give no two local addresses one place. -/
theorem interleave_injective {m m' mode : ℕ} (hm : m < 2 ^ 40) (hm' : m' < 2 ^ 40) (h : mode < 3)
    (he : interleave mode m = interleave mode m') : m = m' := by
  interval_cases mode
  · rw [interleave_zero hm, interleave_zero hm'] at he
    obtain ⟨stack, offset⟩ := Prod.mk.injEq .. ▸ he
    have high : m / 2 ^ 16 = m' / 2 ^ 16 := by omega
    have h20 : m / 2 ^ 20 = m' / 2 ^ 20 := by omega
    have h24 : m / 2 ^ 24 = m' / 2 ^ 24 := by omega
    rw [high, h20, h24] at stack
    have low := Nat.xor_left_injective (Nat.xor_left_injective (Nat.xor_left_injective stack))
    omega
  · rw [interleave_one hm, interleave_one hm'] at he
    obtain ⟨stack, offset⟩ := Prod.mk.injEq .. ▸ he
    have die : m / 2 ^ 37 = m' / 2 ^ 37 := by omega
    have high : m / 2 ^ 13 = m' / 2 ^ 13 := by omega
    have h20 : m / 2 ^ 20 = m' / 2 ^ 20 := by omega
    have h28 : m / 2 ^ 28 = m' / 2 ^ 28 := by omega
    have h36 : m / 2 ^ 36 = m' / 2 ^ 36 := by omega
    rw [die, h20, h28, h36] at stack
    omega
  · rw [interleave_two hm, interleave_two hm'] at he
    obtain ⟨stack, offset⟩ := Prod.mk.injEq .. ▸ he
    omega

theorem parity_sum_four (a b c d : ℕ) : (a % 2 + b % 2 + c % 2 + d % 2) % 2 = (a + b + c + d) % 2 := by omega

theorem addressesInterleaveOverTheStacks : AddressesInterleaveOverTheStacks := by
  intro m hm b
  refine ⟨?_, ?_, interleave_two hm, fun mode h => ⟨(interleave_bounds hm h).1, (interleave_bounds hm h).2,
    fun m' hm' he => interleave_injective hm hm' h he⟩⟩
  · rw [interleave_zero hm, interleave_zero_stack]
    simp only [nibble, b, testBit_toNat, parity_sum_four, Nat.add_zero, Nat.reduceAdd]
  · rw [interleave_one hm]
    simp only [b, testBit_toNat, parity_sum_four]

/-! ## The words of the tables (R274, R417, R489) -/

/-- A word of a table that this package's memory holds, backed. -/
def TableHere (s : State) (pa : ℕ) : Prop :=
  pa / 2 ^ 41 % 2 ^ 13 = s.md.pkg.toNat ∧ pa / 2 ^ 40 % 2 = 0 ∧ (interleave 0 (pa % 2 ^ 40)).2 < stackBacked

theorem tableLoc_here {s : State} {pa : ℕ} (h : TableHere s pa) :
    tableLoc s pa = some (interleave 0 (pa % 2 ^ 40)) := by
  obtain ⟨package, memory, backed⟩ := h
  rw [tableLoc, package, memory, if_neg (by simp)]
  exact if_pos backed

theorem tableLoc_elsewhere {s : State} {pa : ℕ} (h : ¬ TableHere s pa) : tableLoc s pa = none := by
  rw [tableLoc]
  split_ifs with outside
  · rfl
  · refine if_neg fun backed => h ⟨?_, ?_, backed⟩
    · by_contra package
      exact outside (by rw [bne_iff_ne.2 package, Bool.true_or])
    · refine (Nat.mod_two_eq_zero_or_one _).resolve_right fun device => outside ?_
      rw [beq_iff_eq.2 device, Bool.or_true]

theorem tableWordsAreRead : TableWordsAreRead := by
  intro s die pa p k o key here
  refine ⟨fun h => by rw [tableWord, tableLoc_elsewhere h], fun h hb => ?_⟩
  have loc : tableLoc s pa = some (k, o) := tableLoc_here h
  have uncut : bridgeCut s die s.md.pkg.toNat k = false := hb
  refine ⟨fun hq => ?_, fun hq hp => ?_, fun hq hp => ?_⟩
  all_goals
    have hq : quiesced s (cellKey s s.md.pkg.toNat k o) = _ := hq
    simp only [tableWord, loc, uncut, hq, if_true, if_false, Bool.false_eq_true]
  · have hp : linePoisoned s (cellKey s s.md.pkg.toNat k o) = _ := hp
    rw [if_pos hp]
  · have hp : linePoisoned s (cellKey s s.md.pkg.toNat k o) = _ := hp
    rw [if_neg (by simp [hp])]
    rfl

end Sys2Proof.AddressSpaces
end

section
/-! SUPPORT. The address-space entry, the range table and the page table (O34). -/

namespace Sys2Proof.AddressSpaces

open Sys2Proof Sys2Proof.Machine Sys2Proof.Safety Sys2Proof.Claims Sys2Proof.ControlProcessor

/-! ## Masks of fields -/

theorem fld_ne_zero_iff {w : Word} {lo len : ℕ} :
    fld w lo len ≠ 0 ↔ ∃ i, (lo ≤ i ∧ i < lo + len) ∧ w.getLsbD i = true := by
  rw [fld_eq_extract, ← BitVec.toNat_zero (w := len), ne_eq, BitVec.toNat_inj]
  constructor
  · intro h
    by_contra hn
    refine h (BitVec.eq_of_getLsbD_eq fun i hi => ?_)
    rw [BitVec.getLsbD_extractLsb', BitVec.getLsbD_zero, Bool.eq_false_iff]
    intro hb
    exact hn ⟨lo + i, by omega, by simpa [hi] using hb⟩
  · rintro ⟨i, ⟨hlo, hhi⟩, hb⟩ h
    have clear := congrArg (·.getLsbD (i - lo)) h
    simp [show lo + (i - lo) = i by omega, show i - lo < len by omega, hb] at clear

theorem and_ne_zero_iff {w m : Word} : w &&& m ≠ 0 ↔ ∃ i < 64, m.getLsbD i = true ∧ w.getLsbD i = true := by
  constructor
  · intro h
    by_contra hn
    refine h (BitVec.eq_of_getLsbD_eq fun i hi => ?_)
    refine Eq.trans (Bool.eq_false_iff.2 fun hb => ?_) BitVec.getLsbD_zero.symm
    rw [BitVec.getLsbD_and, Bool.and_eq_true] at hb
    exact hn ⟨i, hi, hb.2, hb.1⟩
  · rintro ⟨i, -, hm, hw⟩ h
    have clear := congrArg (·.getLsbD i) h
    simp [hm, hw] at clear

/-- A mask of two fields meets a word that is not clear in both. -/
theorem and_fields_ne_zero {w m : Word} (lo len lo' len' : ℕ)
    (hm : ∀ i < 64, m.getLsbD i = decide ((lo ≤ i ∧ i < lo + len) ∨ (lo' ≤ i ∧ i < lo' + len'))) :
    w &&& m ≠ 0 ↔ fld w lo len ≠ 0 ∨ fld w lo' len' ≠ 0 := by
  rw [and_ne_zero_iff, fld_ne_zero_iff, fld_ne_zero_iff, ← exists_or]
  refine exists_congr fun i => ?_
  constructor
  · rintro ⟨hi, hb, hw⟩
    rw [hm i hi, decide_eq_true_iff] at hb
    tauto
  · intro h
    have hw : w.getLsbD i = true := by tauto
    have hi : i < 64 := by
      by_contra hge
      rw [BitVec.getLsbD_of_ge w i (by omega)] at hw
      cases hw
    refine ⟨hi, ?_, hw⟩
    rw [hm i hi, decide_eq_true_iff]
    tauto

theorem fld_one_ne_zero {w : Word} {i : ℕ} : fld w i 1 ≠ 0 ↔ bit w i = true := by
  rw [fld_ne_zero_iff]
  constructor
  · rintro ⟨j, hj, hw⟩
    rwa [show i = j by omega]
  · exact fun h => ⟨i, by omega, h⟩

/-! ## Words of a table -/

section
variable {s : State} {die pa level holder : ℕ}

theorem walkWord_word {w : Word} (h : tableWord s die pa = .word w) : walkWord s die pa level holder = .ok w := by
  rw [walkWord, h]

theorem walkWord_poison {g : ℕ} (h : tableWord s die pa = .poison g) :
    walkWord s die pa level holder = .error (.poison level g) := by
  rw [walkWord, h]

theorem walkWord_malformed (h : tableWord s die pa = .malformed) :
    walkWord s die pa level holder = .error (.fail .walkError holder) := by
  rw [walkWord, h]

end

/-! ## The address-space entry (R255) -/

section
variable {s : State} {die asid : ℕ} {row : ℕ → Word}

theorem asidEntry_beyond (h : s.md.astLen.toNat ≤ asid) : asidEntry s die asid = .error (.fail .asidInvalid asid) :=
  if_pos h

/-- Reserved fields, lengths and the words of an address-space entry that R255 does not allow. -/
def EntryMalformed (row : ℕ → Word) : Prop :=
  fld (row 0) 1 11 ≠ 0 ∨ fld (row 0) 54 10 ≠ 0 ∨ 32 < fld (row 1) 0 6 ∨ fld (row 1) 6 4 ≠ 0 ∨
    fld (row 1) 54 10 ≠ 0 ∨ fld (row 2) 0 6 ≠ 0 ∨ fld (row 2) 56 8 ≠ 0 ∨ 2 ^ 24 < (row 3).toNat ∨
    ∃ i, 4 ≤ i ∧ i < 8 ∧ row i ≠ 0

theorem or_four_ne_zero (a b c d : Word) : (a ||| b ||| c ||| d) ≠ 0 ↔ a ≠ 0 ∨ b ≠ 0 ∨ c ≠ 0 ∨ d ≠ 0 := by
  have zero : (a ||| b ||| c ||| d) = 0 ↔ a = 0 ∧ b = 0 ∧ c = 0 ∧ d = 0 := by
    simp [and_assoc]
  rw [ne_eq, zero]
  tauto

theorem exists_upper_row : (∃ i, 4 ≤ i ∧ i < 8 ∧ row i ≠ 0) ↔ row 4 ≠ 0 ∨ row 5 ≠ 0 ∨ row 6 ≠ 0 ∨ row 7 ≠ 0 := by
  constructor
  · rintro ⟨i, hlo, hhi, h⟩
    interval_cases i <;> tauto
  · rintro (h | h | h | h)
    exacts [⟨4, by decide, by decide, h⟩, ⟨5, by decide, by decide, h⟩, ⟨6, by decide, by decide, h⟩,
      ⟨7, by decide, by decide, h⟩]

/-- The checks of an address-space entry, as the model makes them. -/
def entryBad (row : ℕ → Word) : Bool :=
  row 0 &&& 0xFFC0000000000FFE != 0 || row 1 &&& 0xFFC00000000003C0 != 0 || fld (row 1) 0 6 > 32 ||
    row 2 &&& 0xFF0000000000003F != 0 || (row 3).toNat > 2 ^ 24 || (row 4 ||| row 5 ||| row 6 ||| row 7) != 0

theorem entryBad_iff : entryBad row = true ↔ EntryMalformed row := by
  simp only [entryBad, Bool.or_eq_true, bne_iff_ne, decide_eq_true_eq, gt_iff_lt, EntryMalformed, exists_upper_row,
    or_four_ne_zero, and_fields_ne_zero (w := row 0) (m := 0xFFC0000000000FFE) 1 11 54 10 (by decide),
    and_fields_ne_zero (w := row 1) (m := 0xFFC00000000003C0) 6 4 54 10 (by decide),
    and_fields_ne_zero (w := row 2) (m := 0xFF0000000000003F) 0 6 56 8 (by decide)]
  tauto

/-- An entry that is read and valid is checked. -/
theorem asidEntry_read (hlt : asid < s.md.astLen.toNat)
    (hr : ∀ i < 8, tableWord s die (s.md.astBase.toNat + 64 * asid + 8 * i) = .word (row i))
    (hv : bit (row 0) 0 = true) :
    asidEntry s die asid =
      if entryBad row then .error (.fail .walkError 5) else .ok #v[row 0, row 1, row 2, row 3] := by
  have reads (i : ℕ) (hi : i < 8) : walkWord s die (s.md.astBase.toNat + 64 * asid + 8 * i) 5 5 = .ok (row i) :=
    walkWord_word (hr i hi)
  have r0 := reads 0 (by decide)
  have r1 := reads 1 (by decide)
  have r2 := reads 2 (by decide)
  have r3 := reads 3 (by decide)
  have r4 := reads 4 (by decide)
  have r5 := reads 5 (by decide)
  have r6 := reads 6 (by decide)
  have r7 := reads 7 (by decide)
  simp only [Nat.mul_zero, Nat.add_zero, Nat.reduceMul] at r0 r1 r2 r3 r4 r5 r6 r7
  rw [asidEntry, if_neg (by omega)]
  simp only [r0, r1, r2, r3, r4, r5, r6, r7, bind, Except.bind, hv, Bool.not_true, Bool.false_eq_true, if_false]
  rfl

/-- An entry whose first word is not read, or not valid. -/
theorem asidEntry_first (hlt : asid < s.md.astLen.toNat) :
    (∀ w, tableWord s die (s.md.astBase.toNat + 64 * asid) = .word w → bit w 0 = false →
      asidEntry s die asid = .error (.fail .asidInvalid asid)) ∧
    (∀ g, tableWord s die (s.md.astBase.toNat + 64 * asid) = .poison g → asidEntry s die asid = .error (.poison 5 g)) ∧
    (tableWord s die (s.md.astBase.toNat + 64 * asid) = .malformed →
      asidEntry s die asid = .error (.fail .walkError 5)) := by
  rw [asidEntry, if_neg (by omega)]
  refine ⟨fun w h hv => ?_, fun g h => ?_, fun h => ?_⟩
  · simp only [walkWord_word h, bind, Except.bind, hv, Bool.not_false, if_true]
  · simp only [walkWord_poison h, bind, Except.bind]
  · simp only [walkWord_malformed h, bind, Except.bind]

end

/-! ## The range table (R257) -/

section
variable {s : State} {die base : ℕ}

/-- A range entry's words as the model holds them. -/
def rangeWords (e : ℕ → Word) : Word × Word × Word × Word := (e 0, e 1, e 2, e 3)

theorem rangeEntry_read {i : ℕ} {e : ℕ → Word} (h : ∀ j < 4, tableWord s die (base + 32 * i + 8 * j) = .word (e j)) :
    rangeEntry s die base i = .ok (rangeWords e) := by
  have reads (j : ℕ) (hj : j < 4) : walkWord s die (base + 32 * i + 8 * j) 5 5 = .ok (e j) := walkWord_word (h j hj)
  have r0 := reads 0 (by decide)
  have r1 := reads 1 (by decide)
  have r2 := reads 2 (by decide)
  have r3 := reads 3 (by decide)
  simp only [Nat.mul_zero, Nat.add_zero, Nat.reduceMul] at r0 r1 r2 r3
  simp only [rangeEntry, r0, r1, r2, r3, bind, Except.bind, rangeWords]

theorem rangeEntries_read {n : ℕ} {e : ℕ → ℕ → Word}
    (h : ∀ i < n, ∀ j < 4, tableWord s die (base + 32 * i + 8 * j) = .word (e i j)) :
    rangeEntries s die base n = .ok ((List.range n).map fun i => rangeWords (e i)) := by
  induction n with
  | zero => rfl
  | succ n ih =>
    simp only [rangeEntries, ih fun i hi => h i (by omega), rangeEntry_read (h n (by omega)), bind, Except.bind,
      List.range_succ, List.map_append, List.map_cons, List.map_nil]

/-- A word that is read, or found poisoned. -/
def Met (s : State) (die pa : ℕ) : Prop := (∃ g, tableWord s die pa = .poison g) ∨ ∃ w, tableWord s die pa = .word w

theorem walkWord_met {pa : ℕ} (h : Met s die pa) :
    (∃ g, walkWord s die pa 5 5 = .error (.poison 5 g)) ∨
      ∃ w, tableWord s die pa = .word w ∧ walkWord s die pa 5 5 = .ok w := by
  obtain ⟨g, h⟩ | ⟨w, h⟩ := h
  exacts [.inl ⟨g, walkWord_poison h⟩, .inr ⟨w, h, walkWord_word h⟩]

theorem rangeEntry_met {i : ℕ} (h : ∀ j < 4, Met s die (base + 32 * i + 8 * j)) :
    (∃ g, rangeEntry s die base i = .error (.poison 5 g)) ∨
      ∃ e : ℕ → Word, ∀ j < 4, tableWord s die (base + 32 * i + 8 * j) = .word (e j) := by
  have m0 := walkWord_met (h 0 (by decide))
  have m1 := walkWord_met (h 1 (by decide))
  have m2 := walkWord_met (h 2 (by decide))
  have m3 := walkWord_met (h 3 (by decide))
  simp only [Nat.mul_zero, Nat.add_zero, Nat.reduceMul] at m0 m1 m2 m3
  unfold rangeEntry
  obtain ⟨g, r⟩ | ⟨w0, t0, r⟩ := m0
  · exact .inl ⟨g, by rw [r]; rfl⟩
  rw [r]
  obtain ⟨g, r⟩ | ⟨w1, t1, r⟩ := m1
  · exact .inl ⟨g, by rw [r]; rfl⟩
  rw [r]
  obtain ⟨g, r⟩ | ⟨w2, t2, r⟩ := m2
  · exact .inl ⟨g, by rw [r]; rfl⟩
  rw [r]
  obtain ⟨g, r⟩ | ⟨w3, t3, r⟩ := m3
  · exact .inl ⟨g, by rw [r]; rfl⟩
  refine .inr ⟨fun j => if j = 0 then w0 else if j = 1 then w1 else if j = 2 then w2 else w3, fun j hj => ?_⟩
  interval_cases j
  exacts [t0, t1, t2, t3]

/-- Where some word of the table is poisoned and the others are read, the reads end at poison (R256). -/
theorem rangeEntries_met {n : ℕ} (h : ∀ i < n, ∀ j < 4, Met s die (base + 32 * i + 8 * j)) :
    (∃ g, rangeEntries s die base n = .error (.poison 5 g)) ∨
      ∃ e : ℕ → ℕ → Word, ∀ i < n, ∀ j < 4, tableWord s die (base + 32 * i + 8 * j) = .word (e i j) := by
  induction n with
  | zero => exact .inr ⟨fun _ _ => 0, fun i hi => absurd hi (Nat.not_lt_zero i)⟩
  | succ n ih =>
    obtain ⟨g, hg⟩ | ⟨e, he⟩ := ih fun i hi => h i (by omega)
    · exact .inl ⟨g, by rw [rangeEntries, hg]; rfl⟩
    · obtain ⟨g, hg⟩ | ⟨f, hf⟩ := rangeEntry_met (h n (by omega))
      · exact .inl ⟨g, by rw [rangeEntries, rangeEntries_read he, hg]; rfl⟩
      · refine .inr ⟨fun i => if i = n then f else e i, fun i hi => ?_⟩
        dsimp only
        split_ifs with hn
        · exact hn ▸ hf
        · exact he i (by omega)

end

theorem rangeMalformed_iff (e : ℕ → Word) : rangeMalformed (rangeWords e) = true ↔ RangeMalformed e := by
  have checks : rangeMalformed (rangeWords e) = (decide (rangeLast e < rangeFirst e) ||
      e 0 &&& 0xFF00000000000FFE != 0 || e 1 &&& 0xFF00000000000FFF != 0 || e 2 &&& 0xFFC0000000000FFF != 0 ||
      e 3 &&& 0xFFFFFFFFFFFFFE00 != 0 || fld (e 3) 7 2 == 3 ||
      decide (2 ^ 54 < (e 2).toNat + (rangeLast e - rangeFirst e + 1) * 4096)) := rfl
  rw [checks]
  simp only [Bool.or_eq_true, decide_eq_true_eq, bne_iff_ne, beq_iff_eq,
    and_fields_ne_zero (w := e 0) (m := 0xFF00000000000FFE) 1 11 56 8 (by decide),
    and_fields_ne_zero (w := e 1) (m := 0xFF00000000000FFF) 0 12 56 8 (by decide),
    and_fields_ne_zero (w := e 2) (m := 0xFFC0000000000FFF) 0 12 54 10 (by decide),
    and_fields_ne_zero (w := e 3) (m := 0xFFFFFFFFFFFFFE00) 9 55 9 55 (by decide), or_self]
  unfold RangeMalformed
  tauto

/-- The translation of a range entry. -/
def rangeOf (e : ℕ → Word) : Xlat where
  va := rangeFirst e * 4096
  size := (rangeLast e - rangeFirst e + 1) * 4096
  phys := (e 2).toNat
  perm := (e 3).extractLsb' 0 4
  lattice := (e 3).extractLsb' 4 3
  mode := (e 3).extractLsb' 7 2
  range := true

theorem covers_iff (x : Xlat) (va : ℕ) : x.covers va = true ↔ x.va ≤ va ∧ va < x.va + x.size := by
  simp [Xlat.covers]

theorem covers_rangeOf {e : ℕ → Word} {va : ℕ} (h : rangeFirst e ≤ rangeLast e) :
    (rangeOf e).covers va = true ↔ rangeFirst e ≤ va / 4096 ∧ va / 4096 ≤ rangeLast e := by
  rw [covers_iff]
  change rangeFirst e * 4096 ≤ va ∧ va < rangeFirst e * 4096 + (rangeLast e - rangeFirst e + 1) * 4096 ↔ _
  omega

/-! ## An address in the ranges (R257) -/

section
variable {n : ℕ} {P : ℕ → Bool}

theorem filter_range_unique {i : ℕ} (hi : i < n) (hP : P i = true) (only : ∀ j < n, P j = true → j = i) :
    (List.range n).filter P = [i] := by
  have same : (List.range n).filter P = (List.range n).filter (· == i) :=
    List.filter_congr fun j hj => by
      rw [Bool.eq_iff_iff, beq_iff_eq]
      exact ⟨only j (List.mem_range.1 hj), fun h => h ▸ hP⟩
  rw [same, List.filter_beq, List.count_eq_one_of_mem List.nodup_range (List.mem_range.2 hi), List.replicate_one]

theorem filter_range_two {i j : ℕ} (hij : i ≠ j) (hi : i < n) (hj : j < n) (hPi : P i = true) (hPj : P j = true) :
    ∃ k k' l, (List.range n).filter P = k :: k' :: l := by
  have mi : i ∈ (List.range n).filter P := List.mem_filter.2 ⟨List.mem_range.2 hi, hPi⟩
  have mj : j ∈ (List.range n).filter P := List.mem_filter.2 ⟨List.mem_range.2 hj, hPj⟩
  match h : (List.range n).filter P with
  | [] => rw [h] at mi; cases mi
  | [k] =>
    rw [h, List.mem_singleton] at mi mj
    exact absurd (mi.trans mj.symm) hij
  | k :: k' :: l => exact ⟨k, k', l, rfl⟩

end

/-- A range entry in use that holds an address. -/
def holdsAt (e : ℕ → ℕ → Word) (va i : ℕ) : Bool := bit (e i 0) 0 && (rangeOf (e i)).covers va

theorem covering_entries (e : ℕ → ℕ → Word) (n va : ℕ) :
    ((((List.range n).map fun i => rangeWords (e i)).filter fun r => bit r.1 0).map rangeXlat).filter (·.covers va) =
      ((List.range n).filter (holdsAt e va)).map fun i => rangeOf (e i) := by
  rw [List.filter_map, List.filter_map, List.filter_map, List.filter_filter, List.map_map]
  refine congrArg _ (List.filter_congr fun i _ => ?_)
  exact Bool.and_comm ..

theorem any_malformed_iff (e : ℕ → ℕ → Word) (n : ℕ) :
    ((((List.range n).map fun i => rangeWords (e i)).filter fun r => bit r.1 0).any rangeMalformed = true) ↔
      ∃ i < n, bit (e i 0) 0 = true ∧ RangeMalformed (e i) := by
  rw [List.any_filter, List.any_map, List.any_eq_true]
  simp only [List.mem_range, Function.comp_apply, Bool.and_eq_true, rangeMalformed_iff]
  rfl

section
variable {s : State} {die va : ℕ} {asid : BitVec 16} {row : ℕ → Word} {e : ℕ → ℕ → Word}
  (ha : asidEntry s die asid.toNat = .ok #v[row 0, row 1, row 2, row 3])
  (he : ∀ i < fld (row 1) 0 6, ∀ j < 4, tableWord s die (fld (row 1) 10 44 * 1024 + 32 * i + 8 * j) = .word (e i j))
include ha he

/-- A malformed entry in use fails the walk of every address (R257). -/
theorem walk_malformed (h : ∃ i < fld (row 1) 0 6, bit (e i 0) 0 = true ∧ RangeMalformed (e i)) :
    walk s die asid va = .error (.fail .walkError 5) := by
  have entries : rangeEntries s die (fld ((#v[row 0, row 1, row 2, row 3] : Vector Word 4).get 1) 10 44 * 1024)
      (fld ((#v[row 0, row 1, row 2, row 3] : Vector Word 4).get 1) 0 6) =
      .ok ((List.range (fld (row 1) 0 6)).map fun i => rangeWords (e i)) := rangeEntries_read he
  simp only [walk, ha, entries, bind, Except.bind]
  exact if_pos ((any_malformed_iff e _).2 h)

/-- Where the entries in use are sound, those that hold the address translate it (R256, R257). -/
theorem walk_sound (h : ∀ i, i < fld (row 1) 0 6 ∧ bit (e i 0) 0 = true → ¬ RangeMalformed (e i)) :
    walk s die asid va =
      match ((List.range (fld (row 1) 0 6)).filter (holdsAt e va)).map fun i => rangeOf (e i) with
      | [x] => .ok x
      | [] => walkFrom s die va 5 4 (fld (row 0) 12 42 * 4096)
      | _ => .error (.fail .rangeOverlap 0) := by
  have entries : rangeEntries s die (fld ((#v[row 0, row 1, row 2, row 3] : Vector Word 4).get 1) 10 44 * 1024)
      (fld ((#v[row 0, row 1, row 2, row 3] : Vector Word 4).get 1) 0 6) =
      .ok ((List.range (fld (row 1) 0 6)).map fun i => rangeWords (e i)) := rangeEntries_read he
  simp only [walk, ha, entries, bind, Except.bind]
  rw [if_neg, covering_entries]
  · rfl
  · rw [any_malformed_iff]
    rintro ⟨i, hi, hv, hm⟩
    exact h i ⟨hi, hv⟩ hm

end

/-- The address-space entry of an ASID fails the walk as it fails. -/
theorem walk_asid {s : State} {die va : ℕ} {asid : BitVec 16} {f : WalkFail}
    (h : asidEntry s die asid.toNat = .error f) : walk s die asid va = .error f := by
  simp only [walk, h, bind, Except.bind]

/-- A poisoned word of the range table fails the walk (R256). -/
theorem walk_range_poison {s : State} {die va : ℕ} {asid : BitVec 16} {row : ℕ → Word} {f : WalkFail}
    (ha : asidEntry s die asid.toNat = .ok #v[row 0, row 1, row 2, row 3])
    (h : rangeEntries s die (fld (row 1) 10 44 * 1024) (fld (row 1) 0 6) = .error f) :
    walk s die asid va = .error f := by
  have entries : rangeEntries s die (fld ((#v[row 0, row 1, row 2, row 3] : Vector Word 4).get 1) 10 44 * 1024)
      (fld ((#v[row 0, row 1, row 2, row 3] : Vector Word 4).get 1) 0 6) = .error f := h
  simp only [walk, ha, entries, bind, Except.bind]

theorem rangesTranslate : RangesTranslate := by
  intro s die va asid hva base reads walked invalid
  refine ⟨fun h => ⟨_, walk_asid (asidEntry_beyond h)⟩, fun hlt => ?_⟩
  obtain ⟨absent, poison, malformed⟩ := asidEntry_first (die := die) hlt
  refine ⟨fun w hw hv => ⟨_, walk_asid (absent w hw hv)⟩, fun g hg => walk_asid (poison g hg),
    fun hm => walk_asid (malformed hm), fun row hrow hv => ?_⟩
  intro n bad at'
  have entry := asidEntry_read hlt hrow hv
  refine ⟨fun hbad => ?_, fun hbad ⟨i, hi, j, hj, g, hg⟩ met => ?_, fun e hbad he => ?_⟩
  · rw [if_pos (entryBad_iff.2 hbad)] at entry
    exact walk_asid entry
  · rw [if_neg (mt entryBad_iff.1 hbad)] at entry
    obtain hf | ⟨e, he⟩ := rangeEntries_met (n := n) met
    · exact hf.imp fun g hf => walk_range_poison entry hf
    · have word : tableWord s die (at' i j) = .word (e i j) := he i hi j hj
      rw [hg] at word
      cases word
  · rw [if_neg (mt entryBad_iff.1 hbad)] at entry
    intro live holds sound
    have holdsAt_iff (hs : sound) (i : ℕ) (hi : i < n) : holdsAt e va i = true ↔ holds i := by
      simp only [holdsAt, Bool.and_eq_true]
      constructor
      · rintro ⟨hv, hc⟩
        exact ⟨⟨hi, hv⟩, (covers_rangeOf (not_lt.1 fun hlt => hs i ⟨hi, hv⟩ (.inl hlt))).1 hc⟩
      · rintro ⟨hl, hc⟩
        exact ⟨hl.2, (covers_rangeOf (not_lt.1 fun hlt => hs i hl (.inl hlt))).2 hc⟩
    refine ⟨fun ⟨i, hl, hm⟩ => walk_malformed entry he ⟨i, hl.1, hl.2, hm⟩, fun hs ⟨i, j, hij, hi, hj⟩ => ?_,
      fun i hs hi only => ?_, fun hs none => ?_⟩
    · obtain ⟨k, k', l, two⟩ := filter_range_two (P := holdsAt e va) hij hi.1.1 hj.1.1
        ((holdsAt_iff hs i hi.1.1).2 hi) ((holdsAt_iff hs j hj.1.1).2 hj)
      exact ⟨0, (walk_sound entry he hs).trans (by rw [two]; rfl)⟩
    · have one : (List.range n).filter (holdsAt e va) = [i] :=
        filter_range_unique hi.1.1 ((holdsAt_iff hs i hi.1.1).2 hi) fun j hj h => only j ((holdsAt_iff hs j hj).1 h)
      exact (walk_sound entry he hs).trans (by rw [one]; rfl)
    · have empty : (List.range n).filter (holdsAt e va) = [] :=
        List.filter_eq_nil_iff.2 fun i hi h => none i ((holdsAt_iff hs i (List.mem_range.1 hi)).1 h)
      exact (walk_sound entry he hs).trans (by rw [empty]; rfl)

/-! ## One level of the page table (R259, R260) -/

section
variable {s : State} {die va level table : ℕ} {w : Word}

/-- Where the sixteen entries of a 64 KiB block agree, the one that the address selects is used (R260). -/
theorem blockEntry_agreeing
    (h : if bit w 0 = true ∧ bit w 62 = true then
        ∀ i < 16, tableWord s die (table + 8 * (va / 65536 % 32 * 16 + i)) = .word w
      else ∀ i < 16, ∀ x, tableWord s die (table + 8 * (va / 65536 % 32 * 16 + i)) = .word x →
        bit x 0 = false ∨ bit x 62 = false) :
    blockEntry s die table va w = w := by
  refine if_pos ?_
  rw [Bool.or_eq_true]
  split_ifs at h with hw
  · refine .inr (List.all_eq_true.2 fun r hr => ?_)
    obtain ⟨i, hi, rfl⟩ := List.mem_map.1 hr
    exact beq_iff_eq.2 (h i (List.mem_range.1 hi))
  · refine .inl ?_
    rw [Bool.not_eq_true', List.any_eq_false]
    intro r hr
    obtain ⟨i, hi, rfl⟩ := List.mem_map.1 hr
    split
    · rename_i x hx
      have clear := h i (List.mem_range.1 hi) x hx
      simpa using fun h0 => clear.resolve_left (by simp [h0])
    · simp

/-- The reserved bits of a page-table entry at a level. -/
def entryReserved (w : Word) (level : ℕ) : Bool := w &&& 0xBFC0000000000000 != 0 || (bit w 62 && level != 0)

theorem entryReserved_iff : entryReserved w level = true ↔
    fld w 54 8 ≠ 0 ∨ bit w 63 = true ∨ (level ≠ 0 ∧ bit w 62 = true) := by
  simp only [entryReserved, Bool.or_eq_true, Bool.and_eq_true, bne_iff_ne,
    and_fields_ne_zero (w := w) (m := 0xBFC0000000000000) 54 8 63 1 (by decide), fld_one_ne_zero]
  tauto

/-- The size of the page that a leaf of a level maps. -/
def leafSize (w : Word) (level : ℕ) : ℕ :=
  if level = 2 then 2 ^ 30 else if level = 1 then 2 ^ 21 else if bit w 62 then 2 ^ 16 else 2 ^ 12

/-- The index of an address at a level of the page table. -/
theorem index_at (hva : va < 2 ^ 56) (level : ℕ) :
    va / 2 ^ (12 + 9 * level) % (if level == 4 then 256 else 512) = va / 2 ^ (12 + 9 * level) % 512 := by
  split
  · rename_i h4
    obtain rfl := beq_iff_eq.1 h4
    omega
  · rfl

/-- One level of a walk whose entry is read. -/
theorem walkFrom_read (hva : va < 2 ^ 56)
    (hw : tableWord s die (table + 8 * (va / 2 ^ (12 + 9 * level) % 512)) = .word w)
    (hb : level = 0 → blockEntry s die table va w = w) :
    walkFrom s die va (level + 1) level table =
      if bit w 0 = false then .error (absent w)
      else if entryReserved w level then .error (.fail .walkError level)
      else if bit w 1 then
        if 3 ≤ level ∨ fld w 10 2 = 3 then .error (.fail .walkError level)
        else if fld w 12 42 * 4096 % leafSize w level ≠ 0 then .error (.fail .walkError level)
        else .ok (leafXlat w va (leafSize w level))
      else if level = 0 ∨ w &&& 0xFBC ≠ 0 then .error (.fail .walkError level)
      else walkFrom s die va level (level - 1) (fld w 12 42 * 4096) := by
  have hused : (if level == 0 then blockEntry s die table va w else w) = w := by
    split
    · rename_i h0
      exact hb (beq_iff_eq.1 h0)
    · rfl
  have hpage : fld w 0 54 / 4096 * 4096 = fld w 12 42 * 4096 := by
    simp only [fld]
    omega
  simp only [walkFrom, index_at hva, walkWord_word hw, bind, Except.bind, hused, hpage]
  simp only [entryReserved, leafSize, Bool.not_eq_true', Bool.or_eq_true, decide_eq_true_eq, bne_iff_ne, beq_iff_eq]
  rfl

end

theorem absent_eq (w : Word) : absent w = if bit w 6 then .hostPage else .fail .pageNotPresent 0 := rfl

/-- A leaf stands at the page that it names, where that is aligned. -/
theorem leafXlat_aligned {w : Word} {va size : ℕ} (h : fld w 12 42 * 4096 % size = 0) :
    leafXlat w va size = {
      va := va / size * size, size := size, phys := fld w 12 42 * 4096, perm := w.extractLsb' 2 4
      lattice := w.extractLsb' 7 3, mode := w.extractLsb' 10 2, range := false } := by
  rw [leafXlat, Nat.div_mul_cancel (Nat.dvd_of_mod_eq_zero h)]

theorem pageTablesAreWalked : PageTablesAreWalked := by
  intro s die va level table w hl hva index entry walked size block reserved page
  refine ⟨fun g hg => ?_, fun hm => ?_, fun hw hblock => ?_⟩
  · have hg : tableWord s die (table + 8 * (va / 2 ^ (12 + 9 * level) % 512)) = .poison g := hg
    simp only [walked, walkFrom, index_at hva, walkWord_poison hg, bind, Except.bind]
  · have hm : tableWord s die (table + 8 * (va / 2 ^ (12 + 9 * level) % 512)) = .malformed := hm
    simp only [walked, Errs, walkFrom, index_at hva, walkWord_malformed hm, bind, Except.bind]
    simp only [beq_iff_eq]
  have level_eq := walkFrom_read hva hw fun h0 => blockEntry_agreeing (hblock h0)
  have nonleaf : w &&& 0xFBC ≠ 0 ↔ fld w 2 4 ≠ 0 ∨ fld w 7 5 ≠ 0 := and_fields_ne_zero 2 4 7 5 (by decide)
  refine ⟨fun h0 h6 => ?_, fun h0 h6 => ⟨0, ?_⟩, fun h0 hr => ?_, fun h0 hr h1 => ?_, fun h0 hr h1 => ?_⟩
  · exact level_eq.trans (by rw [if_pos h0, absent_eq, if_pos h6])
  · exact level_eq.trans (by rw [if_pos h0, absent_eq, if_neg (by simp [h6])])
  · exact level_eq.trans (by rw [if_neg (by simp [h0]), if_pos (entryReserved_iff.2 hr)])
  all_goals rw [if_neg (by simp [h0]), if_neg (mt entryReserved_iff.1 hr)] at level_eq
  · rw [if_pos h1] at level_eq
    refine ⟨fun hbad => ?_, fun h2 hmode halign => ?_⟩
    · refine level_eq.trans ?_
      split_ifs with high unaligned
      · rfl
      · rfl
      · exact absurd hbad (by tauto)
    · have aligned : fld w 12 42 * 4096 % leafSize w level = 0 := halign
      rw [if_neg (by omega), if_neg (not_not.2 aligned)] at level_eq
      exact level_eq.trans (congrArg Except.ok (leafXlat_aligned aligned))
  · rw [if_neg (by simp [h1])] at level_eq
    refine ⟨fun hbad => ?_, fun hn hlow hhigh => ?_⟩
    · exact level_eq.trans (if_pos (hbad.imp_right nonleaf.2))
    · exact level_eq.trans (if_neg (by rw [nonleaf]; tauto))

end Sys2Proof.AddressSpaces
end

section
/-! SUPPORT. What an access makes of its walk, and where it is served (O34). -/

namespace Sys2Proof.AddressSpaces

open Sys2Proof Sys2Proof.Machine Sys2Proof.Safety Sys2Proof.Claims Sys2Proof.ControlProcessor

/-! ## The translation that an access uses (R262) -/

/-- Where everything held agrees with the tables, no choice is made. -/
theorem chooseXlat_agreeing {x : Xlat} (fresh : ℕ) {l : List Xlat} (h : ∀ y ∈ l, y = x) :
    chooseXlat fresh (.ok x) l = (.ok x, fresh) := by
  induction l with
  | nil => rfl
  | cons y l ih =>
    obtain ⟨rfl, hl⟩ := List.forall_mem_cons.1 h
    simp only [chooseXlat, beq_self_eq_true, if_true]
    exact ih hl

/-- What is chosen is held, or what the tables say. -/
theorem chooseXlat_cases {now : Walk Xlat} {x : Xlat} {fresh : ℕ} {l : List Xlat}
    (h : (chooseXlat fresh now l).1 = .ok x) : now = .ok x ∨ x ∈ l := by
  induction l generalizing fresh with
  | nil => exact .inl h
  | cons y l ih =>
    have later {f : ℕ} (h : (chooseXlat f now l).1 = .ok x) : now = .ok x ∨ x ∈ y :: l :=
      (ih h).imp_right (List.mem_cons_of_mem y)
    have other {f : ℕ}
        (h : (if Config.freeChoice f then (Except.ok y, f + 1) else chooseXlat (f + 1) now l).1 = .ok x) :
        now = .ok x ∨ x ∈ y :: l := by
      split_ifs at h
      · cases h
        exact .inr List.mem_cons_self
      · exact later h
    cases now with
    | error f => exact other h
    | ok z =>
      rw [chooseXlat] at h
      cases hzy : z == y with
      | true =>
        simp only [hzy, if_true] at h
        exact later h
      | false =>
        simp only [hzy, if_false, Bool.false_eq_true] at h
        exact other h

section
variable {s : State} {a : Access} {va : ℕ} (hw : a.walked = none) (hr : a.refused ≠ some (va / 4096))
include hw hr

theorem lookup_eq :
    let chosen := chooseXlat s.fresh (walk s (coreDie a.core) a.asid va) (heldFor s (coreDie a.core) a.asid va)
    let s' : State := { s with fresh := chosen.2 }
    lookup s a va = match chosen.1 with
      | .error x => .error (walkStop s' a va x)
      | .ok x => .ok (x, holdXlat s' (coreDie a.core) a.asid x) := by
  rw [lookup, hw]
  exact if_neg (by simpa using hr)

theorem lookup_unheld (hh : heldFor s (coreDie a.core) a.asid va = []) {f : WalkFail}
    (h : walk s (coreDie a.core) a.asid va = .error f) : lookup s a va = .error (walkStop s a va f) := by
  rw [lookup_eq hw hr, hh, h]
  rfl

theorem lookup_agreeing {x : Xlat} (h : walk s (coreDie a.core) a.asid va = .ok x)
    (hh : ∀ y ∈ heldFor s (coreDie a.core) a.asid va, y = x) :
    lookup s a va = .ok (x, holdXlat s (coreDie a.core) a.asid x) := by
  rw [lookup_eq hw hr, h, chooseXlat_agreeing _ hh]

theorem lookup_cases {x : Xlat} {t : State} (h : lookup s a va = .ok (x, t)) :
    walk s (coreDie a.core) a.asid va = .ok x ∨ x ∈ heldFor s (coreDie a.core) a.asid va := by
  rw [lookup_eq hw hr] at h
  split at h
  · cases h
  · rename_i hc
    cases h
    exact chooseXlat_cases hc

end

/-! ## Page requests (R263, R469) -/

section
variable {s : State} {asid : BitVec 16} {va : ℕ}

theorem requestPage_refused (h : s.md.prgFailed = true ∨ accepted s 8 = false) : requestPage s asid va = .refused := by
  refine if_pos ?_
  rcases h with h | h <;> simp [h]

variable (hf : s.md.prgFailed = false) (ha : accepted s 8 = true)
include hf ha

theorem requestPage_outstanding {q : PageReq}
    (h : s.md.pageReqs.find? (fun r => r.asid == asid && r.page == va / 4096) = some q) :
    requestPage s asid va = .tag q.tag s := by
  rw [requestPage, if_neg (by simp [hf, ha]), h]

theorem requestPage_new (h : ∀ q ∈ s.md.pageReqs, ¬ (q.asid = asid ∧ q.page = va / 4096)) :
    requestPage s asid va =
      match freeTag s.md.pageReqs with
      | none => .noTag
      | some t => .tag t { s with md := { s.md with
          pageReqs := ⟨t, asid, va / 4096⟩ :: s.md.pageReqs
          requests := s.md.requests ++ [⟨t, asid, va / 4096⟩] } } := by
  have unasked : s.md.pageReqs.find? (fun r => r.asid == asid && r.page == va / 4096) = none :=
    List.find?_eq_none.2 fun q hq hm => h q hq (by simpa using hm)
  rw [requestPage, if_neg (by simp [hf, ha]), unasked]
  cases freeTag s.md.pageReqs <;> rfl

end

theorem any_tag_iff {l : List PageReq} {t : ℕ} : (l.any fun q => q.tag == t) = true ↔ ∃ q ∈ l, q.tag = t := by
  simp

/-- The tag taken is the lowest free one. -/
theorem freeTag_some {l : List PageReq} {tag : ℕ} (h : tag < 512) (free : ∀ q ∈ l, q.tag ≠ tag)
    (lower : ∀ i < tag, ∃ q ∈ l, q.tag = i) : freeTag l = some tag := by
  rw [freeTag, List.find?_range_eq_some]
  refine ⟨?_, List.mem_range.2 h, fun i hi => ?_⟩
  · rw [Bool.not_eq_true', Bool.eq_false_iff, ne_eq, any_tag_iff]
    rintro ⟨q, hq, ht⟩
    exact free q hq ht
  · rw [Bool.not_not, any_tag_iff]
    exact lower i hi

theorem freeTag_none {l : List PageReq} (h : ∀ tag < 512, ∃ q ∈ l, q.tag = tag) : freeTag l = none := by
  refine List.find?_eq_none.2 fun i hi => ?_
  rw [Bool.not_eq_true', Bool.not_eq_false, any_tag_iff]
  exact h i (List.mem_range.1 hi)

/-! ## The checks of a translation (R256) -/

theorem holdXlat_keeps (s : State) (die : ℕ) (asid : BitVec 16) (x : Xlat) :
    holdXlat s die asid x = { s with tlb := (holdXlat s die asid x).tlb } := by
  unfold holdXlat
  dsimp only
  split <;> rfl

/-- Backing depends on no held translation. -/
theorem unbacked_holdXlat (s : State) (die : ℕ) (asid : BitVec 16) (x : Xlat) (p : Phys) (d : ℕ) :
    unbacked (holdXlat s die asid x) p d = unbacked s p d := by
  rw [holdXlat_keeps]
  rfl

theorem unbacked_plain_iff {s : State} {p : Phys} (h : p.lattice = 0) (d : ℕ) : unbacked s p d = true ↔
    p.pa / 2 ^ 41 = s.md.pkg.toNat ∧ p.pa / 2 ^ 40 % 2 = 0 ∧
      64000000000 ≤ (interleave p.mode.toNat (p.pa % 2 ^ 40)).2 := by
  have plain : unbacked s p d = (p.pa / 2 ^ 41 == s.md.pkg.toNat && p.pa / 2 ^ 40 % 2 == 0 &&
      decide ((interleave p.mode.toNat (p.pa % 2 ^ 40)).2 ≥ 64000000000)) := by
    simp only [unbacked, h, beq_self_eq_true, if_true]
    rfl
  rw [plain, Bool.and_eq_true, Bool.and_eq_true, beq_iff_eq, beq_iff_eq, decide_eq_true_iff, and_assoc]

section
variable {s t : State} {a : Access} {x : Xlat} {va n : ℕ}

/-- A translation that a check stops. -/
theorem translate_stopped {c : Cause} {d : ℕ} (hl : lookup s a va = .ok (x, t))
    (hc : xlatCause t a x va n = some (c, d)) :
    translate s a va n = .error (.trap {
      cause := c, addr := BitVec.ofNat 64 va, detail := BitVec.ofNat 32 d, write := a.write, fetch := a.fetch } t) := by
  unfold Machine.translate
  rw [hl]
  simp only [hc]
  rfl

theorem translate_passed (hl : lookup s a va = .ok (x, t)) (hc : xlatCause t a x va n = none) :
    translate s a va n = .ok (x.physAt va, t) := by
  unfold Machine.translate
  rw [hl]
  simp only [hc]

theorem translate_failed {f : Stop} (hl : lookup s a va = .error f) : translate s a va n = .error f := by
  unfold Machine.translate
  rw [hl]

/-- A right of a page that supervisor code has, or every code on a page with U. -/
def allowed (a : Access) (p : BitVec 4) (right : Bool) : Bool := right && (a.sup || p.getLsbD 3)

theorem denied_iff (a : Access) (p : BitVec 4) (use right : Bool) : (use && !allowed a p right) = true ↔
    use = true ∧ ¬ (right = true ∧ (a.sup = true ∨ p.getLsbD 3 = true)) := by
  rw [allowed, Bool.and_eq_true, Bool.not_eq_true', ← Bool.not_eq_true, Bool.and_eq_true, Bool.or_eq_true]

theorem permCause_eq (a : Access) (p : BitVec 4) : permCause a p =
    if a.fetch && !allowed a p (p.getLsbD 2) then some .pageExec
    else if a.read && !allowed a p (p.getLsbD 0) then some .pageRead
    else if a.write && !allowed a p (p.getLsbD 1) then some .pageWrite else none := rfl

end

/-- How an access to a host-managed page stops. -/
def waitStop (s : State) (a : Access) (va : ℕ) : HostWait → Stop
  | .tag t s' => .trap (gtrap .hostPage va t a.write a.fetch) s'
  | .noTag => .hold s
  | .refused => .trap (gtrap .pageNotPresent va 0 a.write a.fetch) s

theorem walkStop_hostPage (s : State) (a : Access) (va : ℕ) :
    walkStop s a va .hostPage = waitStop s a va (requestPage s a.asid va) := by
  rw [walkStop]
  cases requestPage s a.asid va <;> rfl

theorem translationsAreChecked : TranslationsAreChecked := by
  classical
  intro s a va n hw hr die traps
  refine ⟨fun hh => ?_, fun x hx hheld => ?_, fun p t h => ?_⟩
  · have fails {f : WalkFail} (h : walk s die a.asid va = .error f) : translate s a va n = .error (walkStop s a va f) :=
      translate_failed (lookup_unheld hw hr hh h)
    have asks {h : HostWait} (hwk : walk s die a.asid va = .error .hostPage) (hq : requestPage s a.asid va = h) :
        translate s a va n = .error (waitStop s a va h) :=
      (fails hwk).trans (congrArg Except.error ((walkStop_hostPage s a va).trans (congrArg _ hq)))
    refine ⟨fun c d h => fails h, fun l g h => ⟨foundPoison s g, fails h, rfl⟩, fun h => fails h, fun hwk => ?_⟩
    refine ⟨fun h => asks hwk (requestPage_refused h), fun hf ha => ⟨fun q hq => ?_, fun hnew => ⟨?_, ?_⟩⟩⟩
    · exact asks hwk (requestPage_outstanding hf ha hq)
    · intro tag htag free lower
      have tagged := requestPage_new hf ha hnew
      rw [freeTag_some htag free lower] at tagged
      exact ⟨_, asks hwk tagged, rfl⟩
    · intro full
      have none := requestPage_new hf ha hnew
      rw [freeTag_none full] at none
      exact asks hwk none
  · have hl : lookup s a va = .ok (x, holdXlat s die a.asid x) := lookup_agreeing hw hr hx hheld
    intro t p user out absent noFetch noRead noWrite
    have backing : unbacked t (x.physAt va) die = unbacked s p die := unbacked_holdXlat ..
    have beyond : (x.range && decide (va + n > x.va + x.size)) = true ↔ out := by
      simp [out]
    have cause : xlatCause t a x va n = if x.range && decide (va + n > x.va + x.size) then some (.rangeLimit, 0)
        else if unbacked t (x.physAt va) die then some (.walkError, 6)
        else (permCause a x.perm).map fun c => (c, 0) := rfl
    have fetchDenied := denied_iff a x.perm a.fetch (x.perm.getLsbD 2)
    have readDenied := denied_iff a x.perm a.read (x.perm.getLsbD 0)
    have writeDenied := denied_iff a x.perm a.write (x.perm.getLsbD 1)
    rw [permCause_eq, backing] at cause
    refine ⟨fun h1 => ?_, fun h1 h2 => ?_, fun h1 h2 h3 => ?_, fun h1 h2 h3 h4 => ?_, fun h1 h2 h3 h4 h5 => ?_,
      fun h1 h2 h3 h4 h5 => ?_, fun hlat => unbacked_plain_iff hlat die⟩
    · exact translate_stopped hl (cause.trans (if_pos (beyond.2 h1)))
    · rw [if_neg (mt beyond.1 h1), if_pos h2] at cause
      exact translate_stopped hl cause
    all_goals rw [if_neg (mt beyond.1 h1), if_neg h2] at cause
    · rw [if_pos (fetchDenied.2 h3)] at cause
      exact translate_stopped hl cause
    all_goals rw [if_neg (mt fetchDenied.1 h3)] at cause
    · rw [if_pos (readDenied.2 h4)] at cause
      exact translate_stopped hl cause
    all_goals rw [if_neg (mt readDenied.1 h4)] at cause
    · rw [if_pos (writeDenied.2 h5)] at cause
      exact translate_stopped hl cause
    · rw [if_neg (mt writeDenied.1 h5)] at cause
      exact translate_passed hl cause
  · match hl : lookup s a va with
    | .error f =>
      rw [translate_failed hl] at h
      cases h
    | .ok (x, u) =>
      refine ⟨x, lookup_cases hw hr hl, ?_⟩
      match hc : xlatCause u a x va n with
      | some (c, d) =>
        rw [translate_stopped hl hc] at h
        cases h
      | none =>
        rw [translate_passed hl hc] at h
        cases h
        rfl

/-! ## Where a load or store is served (R239, R264, R267, R268, R273, R442) -/

/-- The words of a load and of a store. -/
def PlainAccess (opc : BitVec 8) : Prop := opc = 0xB0 ∨ opc = 0xB1

section
variable {e : LogEntry} (ho : PlainAccess e.opc)
include ho

theorem accessOf_plain (a : Access) :
    accessOf a e = { a with read := e.opc = 0xB0, write := e.opc = 0xB1, walked := e.walked } := by
  rcases ho with h | h <;> simp only [accessOf, h] <;> rfl

theorem not_special : isAtomic e.opc = false ∧ isLatticeOp e.opc = false ∧ (e.opc == engAdd) = false ∧
    (e.opc == engRead) = false := by
  rcases ho with h | h <;> rw [h] <;> decide

theorem spaceCause_plain (p : Phys) :
    spaceCause e p = if p.lattice.toNat != 0 && !cellFit p.lattice.toNat e then some .latticeType else none := by
  rcases ho with h | h <;> simp [spaceCause, h, isAtomic, isLatticeOp, engRead, engWrite, engAdd, objUpdate, objRead]

theorem atomicTypeBad_plain : atomicTypeBad e = false := by
  rcases ho with h | h <;> simp [atomicTypeBad, h]

/-- An access to the own SRF is served there. -/
theorem resolve_own (s : State) (a : Access) (h : fld e.addr 56 8 = 0xFF) :
    resolve s a e = .ok (⟨.srf a.core (fld e.addr 0 22), 0, 0⟩, s) := by
  obtain ⟨hatom, hlat, hadd, -⟩ := not_special ho
  simp [resolve, apertureOf, h, hatom, hlat, hadd, accessOf]

theorem resolve_gallery (s : State) (a : Access) (h : fld e.addr 56 8 = 0xFE) :
    let other := coreOf (coreDie a.core) (fld e.addr 22 7)
    resolve s a e =
      if other = a.core then .ok (⟨.srf a.core (fld e.addr 0 22), 0, 0⟩, s)
      else if sameLaunch s a.core other = true then
        if (s.getCore other).fenced = true then .error (.trap (etrap .peerFenced e) s)
        else .ok (⟨.srf other (fld e.addr 0 22), 0, 0⟩, s)
      else .error (.trap (etrap .galleryCore e) s) := by
  obtain ⟨hatom, hlat, hadd, -⟩ := not_special ho
  intro other
  dsimp only [other]
  have core : (accessOf a e).core = a.core := rfl
  simp only [resolve, apertureOf, h, hatom, hlat, hadd, core, Bool.or_false, Bool.false_eq_true, if_false,
    beq_iff_eq, Bool.and_eq_true, bne_iff_ne]
  split_ifs <;> simp_all

/-- The end of an access to a translated address. -/
theorem resolve_global (s : State) (a : Access) (h : fld e.addr 56 8 = 0x00) :
    let ad : Access := { a with read := e.opc = 0xB0, write := e.opc = 0xB1, walked := e.walked }
    (∀ x, translate s ad (fld e.addr 0 56) e.size = .error x → resolve s a e = .error x) ∧
    ∀ p t, translate s ad (fld e.addr 0 56) e.size = .ok (p, t) →
      (p.lattice ≠ 0 → cellFit p.lattice.toNat e = false → resolve s a e = .error (.trap (etrap .latticeType e) t)) ∧
      (p.lattice = 0 → ∀ r, place t ad (fld e.addr 0 56) p = r → resolve s a e = r.map fun x => (x, t)) := by
  intro ad
  obtain ⟨-, -, -, hread⟩ := not_special ho
  have global : apertureOf e.addr = some 0 := by simp [apertureOf, h]
  have access : accessOf a e = ad := accessOf_plain ho a
  have eq : resolve s a e = match translate s ad (fld e.addr 0 56) e.size with
      | .error x => .error x
      | .ok (p, t) => match spaceCause e p with
        | some c => .error (.trap (etrap c e) t)
        | none => if atomicTypeBad e then .error (.trap (etrap .atomicType e) t)
          else match place t ad (fld e.addr 0 56) p with
            | .error x => .error x
            | .ok r => .ok ({ r with lattice := if e.opc == engRead then 0 else r.lattice }, t) := by
    rw [← access]
    simp only [resolve, global] <;> rfl
  refine ⟨fun x hx => by rw [eq, hx], fun p t hp => ⟨fun hl hc => ?_, fun hl r hr => ?_⟩⟩
  · have typed : p.lattice.toNat ≠ 0 := fun h0 => hl (BitVec.eq_of_toNat_eq h0)
    rw [eq, hp]
    simp only [spaceCause_plain ho, hc]
    simp [typed]
  · rw [eq, hp]
    simp only [spaceCause_plain ho, hl, atomicTypeBad_plain ho, hr, hread]
    cases r <;> simp [Except.map]

end

section
variable {s : State} {a : Access} {ga : ℕ} {p : Phys} (hl : p.lattice = 0)
include hl

/-- Memory of this package or of another, by its route. -/
theorem place_memory (h : p.pa / 2 ^ 40 % 2 = 0) :
    let pkg := p.pa / 2 ^ 41
    let k := interleave p.mode.toNat (p.pa % 2 ^ 40)
    place s a ga p =
      if pkg ≠ s.md.pkg.toNat ∧
          (routeLive s pkg = false ∨ s.md.peersDown.contains pkg = true ∨ stackBacked ≤ k.2) then
        .error (.trap (gtrap .remoteReject ga 0 a.write a.fetch) s)
      else .ok ⟨.stk pkg k.1 k.2, 0, coreDie a.core⟩ := by
  intro pkg k
  dsimp only [pkg, k]
  have memory : (p.pa / 2 ^ 40 % 2 == 1) = false := by rw [h]; rfl
  simp only [place, hl, memory, bne_self_eq_false, Bool.false_and, Bool.false_eq_true, if_false, beq_self_eq_true,
    if_true, Bool.and_eq_true, bne_iff_ne, Bool.not_eq_true', Bool.or_eq_true,
    decide_eq_true_eq, ge_iff_le]
  split_ifs <;> tauto

/-- Device space of this package or of another. -/
theorem place_device (h : p.pa / 2 ^ 40 % 2 = 1) :
    place s a ga p =
      if p.pa / 2 ^ 41 ≠ s.md.pkg.toNat then .error (.trap (gtrap .remoteReject ga 0 a.write a.fetch) s)
      else if p.pa / 2 ^ 39 % 2 = 1 then .ok ⟨.host (a.asid.toNat + 1) (p.pa % 2 ^ 39), 0, coreDie a.core⟩
      else match deviceCause a with
        | some c => .error (.trap (gtrap c ga 0 a.write a.fetch) s)
        | none => .ok ⟨.dev (p.pa % 2 ^ 40), 0, coreDie a.core⟩ := by
  have window : p.pa % 2 ^ 40 / 2 ^ 39 = p.pa / 2 ^ 39 % 2 := by omega
  simp only [place, hl, h, window, bne_self_eq_false, Bool.false_and, Bool.false_eq_true, if_false, beq_self_eq_true,
    if_true, bne_iff_ne, beq_iff_eq]
  rfl

end

theorem deviceCause_supervisor {a : Access} (h : a.sup = true) : deviceCause a = none := by
  simp [deviceCause, permCause, h]

/-- A user access to the device registers fails with its permission. -/
theorem deviceCause_user {e : LogEntry} (ho : PlainAccess e.opc) {a : Access} (hs : a.sup = false)
    (hf : a.fetch = false) (hr : a.read = decide (e.opc = 0xB0)) (hw : a.write = decide (e.opc = 0xB1)) :
    deviceCause a = some (if e.opc = 0xB0 then .pageRead else .pageWrite) := by
  rcases ho with h | h <;> simp [deviceCause, permCause, hs, hf, hr, hw, h]

theorem accessesFindTheirPlace : AccessesFindTheirPlace := by
  intro s a e ho ad va off other traps srf
  refine ⟨resolve_own ho s a, fun h => ?_, fun h => ?_⟩
  · have gallery := resolve_gallery ho s a h
    refine ⟨fun h1 => gallery.trans (if_pos h1), fun h1 h2 => ⟨etrap .galleryCore e, gallery.trans ?_, rfl⟩,
      fun h1 h2 h3 => ⟨etrap .peerFenced e, gallery.trans ?_, rfl⟩, fun h1 h2 h3 => gallery.trans ?_⟩
    · rw [if_neg h1, if_neg (by simpa using h2)]
    · rw [if_neg h1, if_pos h2, if_pos h3]
    · rw [if_neg h1, if_pos h2, if_neg (by simpa using h3)]
  obtain ⟨failed, found⟩ := resolve_global ho s a h
  refine ⟨failed, fun p t ht => ?_⟩
  intro m pkg own die k
  obtain ⟨lattice, plain⟩ := found p t ht
  refine ⟨fun hl hc => ⟨_, lattice hl hc, rfl⟩, fun hl => ?_⟩
  have lands {r : Target} (hp : place t ad va p = .ok r) : resolve s a e = .ok (r, t) := plain hl _ hp
  have rejected {c : Cause} {w f : Bool} (hp : place t ad va p = .error (.trap (gtrap c va 0 w f) t)) : traps t c :=
    ⟨_, plain hl _ hp, rfl⟩
  refine ⟨fun hm hown => ?_, fun hm hown => ⟨fun hbad => ?_, fun hlive hup hback => ?_⟩, fun hd hown => ?_,
    fun hd hown => ⟨fun hhost => ?_, fun hdev hsup => ?_, fun hdev hsup hfetch => ?_⟩⟩
  · exact lands ((place_memory hl hm).trans (if_neg fun hn => hn.1 hown))
  · exact rejected ((place_memory hl hm).trans (if_pos ⟨hown, hbad⟩))
  · refine lands ((place_memory hl hm).trans (if_neg fun hn => ?_))
    obtain h | h | h := hn.2
    · exact absurd (hlive.symm.trans h) (by decide)
    · exact absurd (hup.symm.trans h) (by decide)
    · exact absurd hback (not_lt.2 h)
  · exact rejected ((place_device hl hd).trans (if_pos hown))
  · exact lands ((place_device hl hd).trans ((if_neg (not_not.2 hown)).trans (if_pos hhost)))
  all_goals
    have device := (place_device (a := ad) (ga := va) hl hd).trans
      ((if_neg (not_not.2 hown)).trans (if_neg (by omega)))
  · rw [deviceCause_supervisor (a := ad) hsup] at device
    exact lands device
  · rw [deviceCause_user ho (a := ad) hsup hfetch rfl rfl] at device
    exact rejected device

/-- Settles O34: the checks of a generic address, the reads of the tables, the walk, what an access makes of it, and the
place of the access, each from the equation of its function in the model. -/
theorem addressesAreCheckedAndTranslated : Obligations.AddressesAreCheckedAndTranslated :=
  ⟨addressesAreChecked, addressesInterleaveOverTheStacks, tableWordsAreRead, rangesTranslate, pageTablesAreWalked,
    translationsAreChecked, accessesFindTheirPlace⟩

end Sys2Proof.AddressSpaces
end

section
/-! SUPPORT. How an enqueued word joins the queue of its core (O40). -/

namespace Sys2Proof.StreamQueue

open Sys2Proof Sys2Proof.Machine Sys2Proof.Safety Sys2Proof.Claims Sys2Proof.ControlProcessor

/-! ## An entry joins the queue (R345, R346, R355) -/

section
variable {s : State} {e : QEntry} {w : SForm}

/-- An entry that names the token of its word joins as its word does. -/
theorem pushEntry_eq_joined (h : e.tok = if w.te == 1 then some w.tk else none) : pushEntry s e = joined s w e := by
  unfold pushEntry QEntry.arm joined State.onSt
  rw [h]
  by_cases hte : w.te = 1
  · simp only [hte, beq_self_eq_true, if_true]
    rfl
  · simp only [hte, beq_eq_false_iff_ne.2 hte, if_false, Bool.false_eq_true]

theorem admitEntry_full (h : 32 ≤ s.core.st.queue.length) : admitEntry s e = .error (.wait s) := if_pos h

theorem admitEntry_bare (h : s.core.st.queue.length < 32) (hb : e.bar = none ∨ e.opc = 0xDF) :
    admitEntry s e = .ok (pushEntry s e) := by
  rw [admitEntry, if_neg (not_le.2 h)]
  obtain hb | ho := hb
  · rw [hb]
  · cases e.bar with
    | none => rfl
    | some a => exact if_pos (beq_iff_eq.2 ho)

theorem admitEntry_object {a : Word} (h : s.core.st.queue.length < 32) (hb : e.bar = some a) (ho : e.opc ≠ 0xDF) :
    admitEntry s e = admitObject s e a := by
  rw [admitEntry, if_neg (not_le.2 h), hb]
  exact if_neg (by simpa using ho)

end

/-! ## The object of an enqueue (R263, R356, R357, R443) -/

/-- The access of an enqueue to its object. -/
def objectAccess (s : State) (e : QEntry) : Access :=
  { engAccess s e with refused := PageWait.refusal e.asid s.core.st.objPage }

/-- An enqueue whose object cannot be reached joins as the instruction's fault. -/
def lostEntry (e : QEntry) (c : Cause) (a : Word) : QEntry :=
  { e with bar := none, bad := some { cause := c, addr := a } }

/-- INFLIGHT of an object counts one more, unless it is full. -/
def moreInflight (w0 w1 : Word) : Option (Word × Word) :=
  if fld w1 16 16 = 0xFFFF then none else some (w0, setFld w1 16 16 (fld w1 16 16 + 1))

section
variable {s : State} {e : QEntry} {a : Word}

/-- An enqueue waits for a host-managed page of its object. -/
def AwaitsPage (e : QEntry) (a : Word) (p : PageWait) : Prop :=
  p.refused = false ∧ p.asid = e.asid ∧ p.page = fld a 0 56 / 4096

theorem awaitsPage_iff (p : PageWait) :
    (!p.refused && p.asid == e.asid && p.page == fld a 0 56 / 4096) = true ↔ AwaitsPage e a p := by
  simp [AwaitsPage, and_assoc]

theorem admitObject_page {p : PageWait} (hp : s.core.st.objPage = some p) (hw : AwaitsPage e a p) :
    admitObject s e a = .error (.wait s) := by
  refine if_pos ?_
  rw [hp]
  exact (awaitsPage_iff p).2 hw

/-- An object counts one instruction more in flight, unless it is full. -/
theorem serveObject_inflight (s t : State) (who : Access) (a : Word) :
    serveObject s who (objRequest t a 3 0) = objUpdateAt s who a moreInflight := by
  have more : (fun w0 w1 : Word => (countInflight w0 w1).map fun v => (w0, v)) = moreInflight := by
    funext w0 w1
    simp only [countInflight, objInflight, moreInflight, beq_iff_eq]
    split <;> rfl
  have served : serveObject s who (objRequest t a 3 0) =
      (objUpdateAt s who a fun w0 w1 => (countInflight w0 w1).map fun v => (w0, v)) >>= fun x => .ok x := rfl
  rw [served, more]
  exact bind_pure _

/-- What the answer of its object makes of an enqueue. -/
def answered (s : State) (e : QEntry) (a : Word) : Except Stop ((Loc × Bool) × State) → Body
  | .ok ((_, true), s') => .ok (pushEntry (s'.withObjPage none) e)
  | .ok ((_, false), s') => .error (.wait (s'.withObjPage none))
  | .error x =>
    match engStopOf (objectAccess s e) a x with
    | .fail c a' s' => .ok (pushEntry (s'.withObjPage none) (lostEntry e c a'))
    | .wait p s' => .error (.wait (s'.withObjPage p))

/-- A fault of the object other than a page that its host manages ends the wait for it. -/
theorem answered_fault (s s' : State) (e : QEntry) (a : Word) {t : Trap} (h : t.cause ≠ .hostPage) :
    answered s e a (.error (.trap t s')) = .ok (pushEntry (s'.withObjPage none) (lostEntry e t.cause a)) := by
  have fails : engStopOf (objectAccess s e) a (.trap t s') = .fail t.cause a s' :=
    if_neg (by simp [h])
  simp only [answered, fails]

variable (hp : ∀ p, s.core.st.objPage = some p → ¬ AwaitsPage e a p)
include hp

theorem not_awaiting : ¬ (s.core.st.objPage.any fun p =>
    !p.refused && p.asid == e.asid && p.page == fld a 0 56 / 4096) = true := by
  intro h
  obtain ⟨p, hs, hw⟩ := (Option.any_eq_true _ _).1 h
  exact hp p hs ((awaitsPage_iff p).1 hw)

/-- A request that another package has not answered in time loses the object. -/
theorem admitObject_timeout {r : LogEntry} (hr : s.core.cp.remote = some r) (hs : r.status ≠ .inFlight) :
    admitObject s e a = .ok (pushEntry ((s.withCp { s.core.cp with remote := none }).withObjPage none)
      (lostEntry e .remoteTimeout a)) := by
  refine (if_neg (not_awaiting hp)).trans (if_pos ?_)
  rw [hr]
  exact bne_iff_ne.2 hs

/-- A request to an object of another package is sent. -/
theorem admitObject_away (hr : s.core.cp.remote = none) (ha : objRemote s (cpAccess s) (objRequest s a 3 0) = true) :
    admitObject s e a =
      .error (.hold (s.withCp { s.core.cp with remote := some (objRequest s a 3 0) })) := by
  refine (if_neg (not_awaiting hp)).trans ((if_neg (by simp [hr])).trans (if_pos ?_))
  rw [hr, ha]
  rfl

/-- An object of this package, or one that has answered, is served. -/
theorem admitObject_served
    (hr : (s.core.cp.remote = none ∧ ¬ objRemote s (cpAccess s) (objRequest s a 3 0) = true) ∨
      ∃ r, s.core.cp.remote = some r ∧ r.status = .inFlight) :
    admitObject s e a = answered s e a
      (objUpdateAt (s.withCp { s.core.cp with remote := none }) (objectAccess s e) a moreInflight) := by
  have responds : ¬ (s.core.cp.remote.any fun r => r.status != .inFlight) = true := by
    obtain ⟨h, -⟩ | ⟨r, h, hs⟩ := hr <;> simp_all
  have here : ¬ (s.core.cp.remote.isNone && objRemote s (cpAccess s) (objRequest s a 3 0)) = true := by
    obtain ⟨h, hn⟩ | ⟨r, h, hs⟩ := hr <;> simp_all
  rw [← serveObject_inflight _ (s.withCp { s.core.cp with remote := none })]
  refine (if_neg (not_awaiting hp)).trans ((if_neg responds).trans ((if_neg here).trans ?_))
  unfold answered
  rfl

end

/-! ## The enqueued words (R345, R346) -/

section
variable {i : Instr} {opc : BitVec 8} {w : SForm} {s : State} {check : State → SForm → SCheck (List Extent)}
  (h : OnCp s w.guard) (hi : exec i s = enqueue opc check w s)
include h hi

theorem exec_check_stops {t : Trap} (hc : check s w = .error t) : exec i s = .next (stopWord s opc (.trap t s)) := by
  rw [hi]
  exact runPlain_error h.2 (by rw [hc])

section
variable {decls : List Extent} (hc : check s w = .ok decls)
include hc

theorem exec_admit_stops {x : Stop} (ha : admitEntry s (entryFor s opc w decls) = .error x) :
    exec i s = .next (stopWord s opc x) := by
  rw [hi]
  exact runPlain_error h.2 (by rw [hc]; exact ha)

/-- A word whose entry is pushed joins the queue and ends. -/
theorem exec_admit_joins {t : State} {e : QEntry} (ha : admitEntry s (entryFor s opc w decls) = .ok (pushEntry t e))
    (he : e.tok = if w.te == 1 then some w.tk else none) : exec i s = .next (cpDone (joined t w e) t.core.cp) := by
  rw [hi, enqueue, BarrierNetwork.runPlain_ends h.2 (by rw [hc]; exact ha), if_pos h.1, pushEntry_eq_joined he]
  rfl

end

/-- Every enqueued word joins the queue as R345 and R346 say. -/
theorem joins_of_enqueue : Joins i opc w s (check s w) := by
  refine ⟨fun t ht => exec_check_stops h hi ht, fun decls hc => ?_⟩
  intro e more
  have waitsHere : stopWord s opc (.wait s) = stayHere s false true opc none := if_pos (onCpPlace_of_cp h.1)
  refine ⟨fun hfull => ?_, fun hroom hb => ?_, fun hroom hgx ho => ?_⟩
  · rw [exec_admit_stops h hi hc (admitEntry_full hfull), waitsHere]
  · refine exec_admit_joins h hi hc (admitEntry_bare hroom (hb.imp_left fun h0 => ?_)) rfl
    exact if_pos (beq_iff_eq.2 h0)
  intro a who arrives lost z away
  have object : admitEntry s e = admitObject s e a :=
    admitEntry_object hroom (if_neg (by simpa using hgx)) ho
  have loses {s' : State} {c : Cause}
      (hl : admitObject s e a = .ok (pushEntry (s'.withObjPage none) (lostEntry e c a))) :
      lost s' c := exec_admit_joins h hi hc (object.trans hl) rfl
  refine ⟨fun ⟨p, hp, hr, hasid, hpage⟩ => ?_, fun hp => ?_⟩
  · rw [exec_admit_stops h hi hc (object.trans (admitObject_page hp ⟨hr, hasid, hpage⟩)), waitsHere]
  have free (p : PageWait) (hs : s.core.st.objPage = some p) : ¬ AwaitsPage e a p := by
    rintro ⟨hr, hasid, hpage⟩
    obtain h | h | h := hp p hs
    exacts [absurd (hr.symm.trans h) (by decide), h hasid, h hpage]
  refine ⟨fun r hr hs => loses (admitObject_timeout free hr hs), fun hr ha => ?_, fun hr => ?_⟩
  · rw [exec_admit_stops h hi hc (object.trans (admitObject_away free hr ha))]
    exact congrArg Host.Outcome.next (if_pos (onCpPlace_of_cp h.1))
  have served : admitEntry s e = answered s e a (objUpdateAt z who a more) :=
    object.trans (admitObject_served free hr)
  refine ⟨fun l s' hok => ?_, fun l s' hfull => ?_, fun t s' hf ht => ?_⟩
  · exact exec_admit_joins (t := arrives s') h hi hc (served.trans (by rw [hok]; rfl)) rfl
  · exact exec_admit_stops h hi hc (served.trans (by rw [hfull]; rfl))
  · refine loses (admitObject_served free hr |>.trans ?_)
    exact (congrArg (answered s e a) hf).trans (answered_fault s s' e a ht)

/-- A word without token, object and gate that finds a place joins at once. -/
theorem exec_queued {decls : List Extent} (hc : check s w = .ok decls) (hgx : w.gx = 0)
    (hroom : s.core.st.queue.length < 32) :
    exec i s = .next (cpDone (joined s w (entryFor s opc w decls)) s.core.cp) :=
  exec_admit_joins h hi hc (admitEntry_bare hroom (.inl (if_pos (beq_iff_eq.2 hgx)))) rfl

end

/-! ## The checks of the plain forms (R373-R375) -/

section
variable {s : State} {w : SForm}

/-- A word without a token finds none in the fault state. -/
theorem tokenCheck_none (h : w.te = 0) : tokenCheck s w = .ok () := by
  simp [tokenCheck, sneed, h]

/-- A word without an object and without a gate has no register of them to check. -/
theorem objRegs_none (hx : w.gx = 0) (hg : w.gg = 0) : objRegs s w = .ok () := by
  simp only [objRegs, hx, hg, bne_self_eq_false, Bool.false_eq_true, if_false]
  rfl

theorem descCheck_sound {i : BitVec 4} (h : descCause s (descOf s i) = none) : descCheck s [i] = .ok () := by
  simp only [descCheck, List.forM_eq_forM, List.forM_cons, List.forM_nil, h]
  rfl

/-- The whole buffer of a descriptor. -/
def wholeBuffer (d : Desc) (write : Bool) : Extent := ⟨fld d.w0 0 22, fld d.w0 0 22 + fld d.w0 24 22, write⟩

theorem operandExtent_buffer (i : BitVec 4) (n : Word) (write : Bool) :
    operandExtent s i false n write = .ok (wholeBuffer (descOf s i) write) := rfl

/-- An aligned address outside the SRF passes the checks of a copy. -/
theorem copyAddr_far {a : Word} (h : fld a 56 8 = 0) (ha : a.toNat % 64 = 0) (n : ℕ) (write : Bool) :
    copyAddr a n write = .ok () := by
  have global : apertureOf a = some 0 := by simp [apertureOf, h]
  have passes : frontTrap a n 64 (· != 2) write = none := by
    simp [frontTrap, global, ha, apertureTrap]
  rw [copyAddr, passes]

theorem ownOffset_far {a : Word} (h : fld a 56 8 = 0) : ownOffset s a = none := by
  simp [ownOffset, apertureOf, h]

/-- A transform word of 0 changes nothing. -/
theorem xfCheck_zero {kinds : List ℕ} (h : kinds.contains 0 = true) (load : Bool) (src : ℕ) :
    xfCheck s 0 kinds load src = .ok () := by
  have kind : fld (0 : Word) 0 4 = 0 := by decide
  have reserved : xfReserved 0 = false := by decide
  simp only [xfCheck, kind, h, reserved]
  rfl

theorem interLen_zero (len : ℕ) (dst : Bool) : interLen 0 len dst = .ok () := by
  have kind : fld (0 : Word) 0 4 = 0 := by decide
  simp only [interLen, kind]
  rfl

section
variable (ht : w.te = 0) (hx : w.gx = 0) (hg : w.gg = 0)
include ht hx hg

/-- The checks of a load of a whole buffer without a transform. -/
theorem sloadCheck_plain (hfn : w.fn = 0) (hc : s.core.cp.readG w.gc = 0) (hb : s.core.cp.readG w.gb = 0)
    (ha : fld (s.core.cp.readG w.ga) 56 8 = 0) (hal : (s.core.cp.readG w.ga).toNat % 64 = 0)
    (hd : descCause s (descOf s w.sd) = none) : sloadCheck s w = .ok [wholeBuffer (descOf s w.sd) true] := by
  have whole : (w.fn == 1) = false := by rw [hfn]; rfl
  have form : xfOf s w = 0 := hc
  have gb : readGs s w.gb = 0 := hb
  have far := copyAddr_far (a := readGs s w.ga) ha hal
  have outside := ownOffset_far (s := s) (a := readGs s w.ga) ha
  simp only [sloadCheck, nonceCheck, gb, form, whole, tokenCheck_none ht, descCheck_sound hd, operandExtent_buffer, far,
    objRegs_none hx hg, xfCheck_zero (kinds := [0, 2, 3, 5, 7]) rfl, interLen_zero, galleryOverlap, outside]
  rfl

theorem sstoreCheck_plain (hfn : w.fn = 0) (hc : s.core.cp.readG w.gc = 0) (hb : s.core.cp.readG w.gb = 0)
    (ha : fld (s.core.cp.readG w.ga) 56 8 = 0) (hal : (s.core.cp.readG w.ga).toNat % 64 = 0)
    (hd : descCause s (descOf s w.se) = none) : sstoreCheck s w = .ok [wholeBuffer (descOf s w.se) false] := by
  have whole : (w.fn == 1) = false := by rw [hfn]; rfl
  have form : xfOf s w = 0 := hc
  have gb : readGs s w.gb = 0 := hb
  have far := copyAddr_far (a := readGs s w.ga) ha hal
  have outside := ownOffset_far (s := s) (a := readGs s w.ga) ha
  simp only [sstoreCheck, nonceCheck, gb, form, whole, tokenCheck_none ht, descCheck_sound hd, operandExtent_buffer,
    far, objRegs_none hx hg, xfCheck_zero (kinds := [0, 1, 2, 3, 4, 6]) rfl, interLen_zero, galleryOverlap, outside]
  rfl

theorem sfillCheck_plain (hd : descCause s (descOf s w.sd) = none) :
    sfillCheck false s w = .ok [wholeBuffer (descOf s w.sd) true] := by
  simp only [sfillCheck, tokenCheck_none ht, descCheck_sound hd, operandExtent_buffer, objRegs_none hx hg]
  rfl

/-- A program run that declares nothing is checked for its entry. -/
theorem krunCheck_plain (hfn : w.fn = 0) (hd : s.core.cp.readG w.gd = 0) (hc : (s.core.cp.readG w.gc).toNat < 2 ^ 32) :
    krunCheck s w = if (s.core.cp.readG w.ga).toNat < 1024 ∧ (s.core.cp.readG w.gb).toNat ≤ 1024 then .ok []
      else .error { cause := .kernelEntry } := by
  have none : krunDecls s w = [] := by
    simp only [krunDecls, hfn, readGs, hd]
    rfl
  have high : fld (readGs s w.gc) 32 32 = 0 := by
    simp only [fld, readGs]
    omega
  have low : readGs s w.gd &&& ~~~0x3F3F = 0 := by
    simp only [readGs, hd]
    decide
  simp only [krunCheck, none, high, low, tokenCheck_none ht, objRegs_none hx hg]
  split
  · rename_i inside
    simp only [readGs, inside, decide_true]
    rfl
  · rename_i outside
    have fails : (decide ((readGs s w.ga).toNat < 1024) && decide ((readGs s w.gb).toNat ≤ 1024)) = false := by
      refine Bool.eq_false_iff.2 fun inside => outside ?_
      rw [Bool.and_eq_true] at inside
      exact ⟨of_decide_eq_true inside.1, of_decide_eq_true inside.2⟩
    simp only [fails]
    rfl

theorem snopCheck_plain (hb : (s.core.cp.readG w.gb).toNat < 2 ^ 32) : snopCheck s w = .ok [] := by
  have high : fld (readGs s w.gb) 32 32 = 0 := by
    simp only [fld, readGs]
    omega
  simp only [snopCheck, high, tokenCheck_none ht, objRegs_none hx hg]
  rfl

end

end

/-- Settles O40: an enqueued word joins the queue by the cases of its admission, and the plain forms by their checks. -/
theorem streamWordsJoinTheQueue : Obligations.StreamWordsJoinTheQueue := by
  intro w s h join g plain queued buffer sd se far
  have joins {i : Instr} {opc : BitVec 8} {check : State → SForm → SCheck (List Extent)}
      (hi : exec i s = enqueue opc check w s) : join i opc check := joins_of_enqueue h hi
  have ends {i : Instr} {opc : BitVec 8} {check : State → SForm → SCheck (List Extent)} {decls : List Extent}
      (hi : exec i s = enqueue opc check w s) (hp : plain) (hc : check s w = .ok decls) : queued i opc decls :=
    exec_queued h hi hc hp.2.1 hp.2.2.2
  refine ⟨joins (exec_sload w s), joins (exec_sstore w s), joins (exec_stileRd w s), joins (exec_stileWr w s),
    joins (exec_scopy w s), joins (exec_scopyR w s), joins (exec_scopyM w s), joins (exec_sfill w s),
    joins (exec_sfillR w s), joins (exec_sfillM w s), joins (exec_sgather w s), joins (exec_sscadd w s),
    joins (exec_srecv w s), joins (exec_krun w s), joins (exec_snop w s), ?_, ?_, ?_, ?_⟩
  · intro hp hfn hc hb ha
    have ⟨ht, hx, hg, _⟩ := hp
    exact ⟨fun hd => ends (exec_sload w s) hp (sloadCheck_plain ht hx hg hfn hc hb ha.1 ha.2 hd),
      fun hd => ends (exec_sstore w s) hp (sstoreCheck_plain ht hx hg hfn hc hb ha.1 ha.2 hd)⟩
  · intro hp hd
    exact ends (exec_sfill w s) hp (sfillCheck_plain hp.1 hp.2.1 hp.2.2.1 hd)
  · intro hp hfn hd hc
    have check := krunCheck_plain hp.1 hp.2.1 hp.2.2.1 hfn hd hc
    refine ⟨fun ha hb => ends (exec_krun w s) hp (check.trans (if_pos ⟨ha, hb⟩)), fun hout => ?_⟩
    exact exec_check_stops h (exec_krun w s) (check.trans (if_neg fun hin =>
      hout.elim (not_le.2 hin.1) (not_lt.2 hin.2)))
  · intro hp hb
    exact ends (exec_snop w s) hp (snopCheck_plain hp.1 hp.2.1 hp.2.2.1 hb)

end Sys2Proof.StreamQueue
end
